-- ==== Sys2Proof/Word.lean ====
section
/-! DEFINITION. The plain words of the model: register words, bytes, and the sparse table type that holds every array of
the block. -/

namespace Sys2Proof

/-- A BAR 0 register is 64 bits wide (R14, 00_scope.md). -/
abbrev Word := BitVec 64

/-- The smallest addressable unit of the local address space (R13, R130). -/
abbrev Byte := BitVec 8

/-- A sparse array: key and value pairs with strictly rising keys; a key that is not listed holds the array's default.
The operations are in Sys2Proof/Machine/Tab.lean. -/
abbrev Tab (α : Type) := List (Nat × α)

end Sys2Proof
end

