-- ==== Sys2Proof/Syntax.lean ====
section
/-! DEFINITION. The commands of the block: one constructor of `Instr` for each row of spec/opcode_table.json, and the types
of their operands, in the manual's own field names. -/

namespace Sys2Proof

/-- REGION_0 to REGION_63 (R49). -/
abbrev RegionNo := Fin 64
/-- ST_0 to ST_31 (R42). -/
abbrev StackNo := Fin 32
/-- PORT_0 to PORT_11 (R411). -/
abbrev RoalePort := Fin 12
/-- Ports of the traffic manager: 0 to 11 Roale, 12 to 15 ETH_0 to ETH_3 (R460). -/
abbrev PortNo := Fin 16
/-- ETH_0 to ETH_3 (R45). -/
abbrev EthPort := Fin 4
/-- Tray members (R417). -/
abbrev Member := Fin 16
/-- Tenants (R255). -/
abbrev Tenant := Fin 4096
/-- Compositions (R22). -/
abbrev CompNo := Fin 256
/-- Caching agents: 0 to 63 region caches, 64 to 71 control cores (R437). -/
abbrev AgentNo := Fin 72

/-- Roles of compositions and images (R21, R93). -/
inductive Role where
  | none | prompt | generation | cache
deriving DecidableEq, Repr

/-- A 128-bit part address; 0 names no part (R311). -/
abbrev PartAddr := Nat

/-! ## Structure images (R91 to R100) -/

/-- The model descriptor of R100: HEAD_DIM as the dimension that its code names (0 for a code that the table lacks), the ranges in use,
and its bytes, by which descriptors are compared. -/
structure ModelDescriptor where
  layers : Nat
  kvHeads : Nat
  headDim : Nat
  kvFormat : Nat
  draft : Nat
  treeNodes : Nat
  treeDepth : Nat
  vocab : Nat
  maxContext : Nat
  audioRanges : List (Nat × Nat)
  bytes : List Byte := []
deriving DecidableEq, Repr

/-- One entry of the section table (R94) with the body it names; `zeros` tells that its reserved bytes are zero. -/
structure SectionEntry where
  type : Nat
  target : Nat
  offset : Nat
  length : Nat
  zeros : Bool
  body : List Byte
deriving DecidableEq, Repr

/-- One KERNEL_TABLE entry (R97). -/
structure Kernel where
  id : Nat
  unit : Nat
  preemptible : Bool
  remote : Bool
  entry : Nat
  chain : Nat
  liveIn : Nat
  liveOut : Nat
deriving DecidableEq, Repr

/-- One record of the live map (R99); `cell` 255 is the cluster's shared Ivory. -/
structure LiveRange where
  kernel : Nat
  point : Nat
  cluster : Nat
  cell : Nat
  offset : Nat
  length : Nat
deriving DecidableEq, Repr

/-- One entry of the microcode layer table (R194). -/
structure LayerEntry where
  window : Nat
  scale : BitVec 32
  queryPerKv : Nat
deriving DecidableEq, Repr

/-- A structure image as it is read: the header of R93, the sections of R94, the signature block of R96, and the SHA-384 of its
signed range; `zeros` tells that the reserved bytes of the header and the signature block are zero. -/
structure Image where
  magic : BitVec 64
  formatMajor : Nat
  formatMinor : Nat
  kind : Nat
  role : Nat
  steppings : Nat
  length : Nat
  sectionCount : Nat
  securityVersion : Nat
  modelId : Nat
  adapterId : Nat
  tilrovVersion : Nat
  pkgMinVersion : Nat
  flags : Nat
  roundingSeed : BitVec 64
  zeros : Bool
  sections : List SectionEntry
  keyId : BitVec 384
  sigR : BitVec 384
  sigS : BitVec 384
  digest : BitVec 384
deriving DecidableEq, Repr

/-- A listed key of a key list with its USAGE bits FIRMWARE, PACKAGE, STRUCTURE (R554). -/
structure ListedKey where
  key : BitVec 768
  firmware : Bool
  package : Bool
  structureUse : Bool
deriving DecidableEq, Repr

/-- A key list object as it is read (R554); `digest` is the SHA-384 of every byte before SIGNATURE. -/
structure KeyList where
  magic : BitVec 64
  authority : Nat
  authorityKey : BitVec 768
  keys : List ListedKey
  sigR : BitVec 384
  sigS : BitVec 384
  digest : BitVec 384
deriving DecidableEq, Repr

/-! ## Host commands (R236, R237) and object commands (R150) -/

/-- A 64-byte host command as it is read from a submission queue (R236). -/
structure HostCommand where
  bytes : List Byte
deriving DecidableEq, Repr

/-- The 128 bytes of an admission descriptor (R237). -/
structure AdmitDescriptor where
  bytes : List Byte
deriving DecidableEq, Repr

/-- A 64-byte object command as it is read from the object submission queue (R150). -/
structure ObjCommand where
  bytes : List Byte
deriving DecidableEq, Repr

/-! ## Request-table entries (R226) and ledgers (R323) -/

/-- States of a request-table entry (R226). -/
inductive ReqState where
  | free | admitted | prefill | handoffOut | handoffIn | decode | parked | dropped | done | cancelled | failed
deriving DecidableEq, Repr

/-- Durability classes (R226): B, P, M. -/
inductive Durability where
  | b | p | m
deriving DecidableEq, Repr

/-- Source of the last candidate tree (R281, DFLAGS). -/
inductive TreeSource where
  | none | draftHead | host
deriving DecidableEq, Repr

/-- DRAFT_STATE of an entry (R281). -/
structure DraftState where
  rootToken : Nat := 0
  rootLogprob : BitVec 32 := 0
  width : Nat := 0
  rejectRun : Nat := 0
  acceptRun : Nat := 0
  probeWait : Nat := 0
  rootValid : Bool := false
  redraw : Bool := false
  source : TreeSource := .none
  proposed : Nat := 0
  accepted : Nat := 0
  hostSeq : Nat := 0
deriving DecidableEq, Repr

/-- A request-table entry, field by field (R226). -/
structure Entry where
  state : ReqState := .free
  deadlineMissed : Bool := false
  resyncPending : Bool := false
  handedOff : Bool := false
  parkedFromDone : Bool := false
  noticePending : Bool := false
  composition : CompNo := 0
  priority : Nat := 0
  durability : Durability := .b
  tenant : Tenant := 0
  sharingDomain : Nat := 0
  requestId : Nat := 0
  length : Nat := 0
  inputEnd : Nat := 0
  turnLimit : Nat := 0
  manifest : Nat := 0
  deadline : Nat := 0
  stepBudget : Nat := 0
  ownerEpoch : Nat := 0
  logged : Nat := 0
  home : PartAddr := 0
  peer : PartAddr := 0
  admitTag : Nat := 0
  rngState : BitVec 128 := 0
  temperature : BitVec 32 := 0
  topP : BitVec 32 := 0
  topK : Nat := 0
  stopTokens : List Nat := []
  draft : DraftState := {}
  admitLmc : Nat := 0
  engineNs : Nat := 0
  tokensOut : Nat := 0
  steps : Nat := 0
  matched : Nat := 0
  lastTrunc : Nat := 0xFFFFFFFF
  lastCommitLmc : Nat := 0
  arbSeq : Nat := 0
  held : Nat := 0
deriving DecidableEq, Repr

/-- States of a ledger (R323). -/
inductive LState where
  | free | open | lost | recovering
deriving DecidableEq, Repr

/-- A token log or history entry: the token and its INPUT bit (R326). -/
structure LogEntry where
  input : Bool
  token : Nat
deriving DecidableEq, Repr

/-- A ledger with its token log and the handles of its published blocks (R323). -/
structure Ledger where
  lstate : LState := .free
  durability : Durability := .b
  tenant : Tenant := 0
  ownerEpoch : Nat := 0
  requestId : Nat := 0
  owner : PartAddr := 0
  ownerTwin : PartAddr := 0
  log : List LogEntry := []
  blocks : List Nat := []
  modelId : Nat := 0
  adapterId : Nat := 0
  openedLmc : Nat := 0
  appendLmc : Nat := 0
  entry : Entry := {}
deriving DecidableEq, Repr

/-! ## RST datagrams (R315, R317 to R319) -/

/-- STATUS values of RST answers (R319). -/
inductive RstStatus where
  | ok | notHome | noLedger | staleEpoch | noRequest | busy | wrongRole | noSpace | badMessage | duplicate | noComposition
  | noTwin
deriving DecidableEq, Repr

/-- The transport and message headers of an arriving RST datagram, with the part it came from. `path` is the arrival port.
`gcmOk` is clear where a protected datagram fails its tag (R385); `codedOk` is clear where a coded block is rejected under
R377, with the kind of the rejection. -/
structure RstHeader where
  source : PartAddr
  dest : PartAddr
  connection : Nat
  seq : Nat
  ack : Nat
  window : Nat
  ackOnly : Bool
  syn : Bool
  reset : Bool
  last : Bool
  takeover : Bool
  append : Bool
  status : RstStatus
  epoch : Nat
  requestId : Nat
  xfer : Nat
  chunk : Nat
  port : PortNo
  bytes : Nat
  dscp : Nat
  gcmOk : Bool
deriving DecidableEq, Repr

/-- A coded block: its header of R373 and its body bytes. -/
structure CodedBlock where
  stageASize : Nat
  wireSize : Nat
  slot : Nat
  raw : Bool
  format : Nat
  tableTag : Nat
  body : List Byte
deriving DecidableEq, Repr

/-- The contents of a page payload: native bytes, or one coded block (R369, R372). -/
inductive PagePayload where
  | native (bytes : List Byte)
  | coded (block : CodedBlock)
deriving DecidableEq, Repr

/-- The messages of R318 with their ARG and payload. -/
inductive RstMsg where
  | openLedger (durability : Durability) (entry : Entry) (twin : PartAddr) (modelId adapterId : Nat)
  | opened
  | logAppend (start : Nat) (entry : Entry) (entries : List LogEntry)
  | logAck (length : Nat)
  | publishBlock (block : Nat) (pages : PagePayload)
  | pubRef (block : Nat) (parentDigest digest : Nat) (tokens : List Nat)
  | pubAck (blocks : Nat)
  | pubNeed (block : Nat)
  | offer (remaining : Nat) (entry : Entry) (modelId adapterId : Nat) (entries : List LogEntry)
  | offerAck
  | pull (first count layer : Nat)
  | pageData (page layer fill : Nat) (rows : PagePayload)
  | claim (offering twin : PartAddr)
  | grant
  | deny (owner : PartAddr)
  | release
  | whoOwns
  | ownerIs (owner : PartAddr)
  | resume
  | recover (ledger : Ledger)
  | objRead (handle offset : Nat)
  | objData (handle offset : Nat) (bytes : PagePayload)
  | close
  | closed
  | pfxQuery (domain : Nat) (parentDigest modelId adapterId : Nat) (tokens : List Nat)
  | pfxAnswer (matched : Nat) (handles : List Nat)
  | none
deriving DecidableEq, Repr

/-! ## Roale frames (R415) -/

/-- The operation of a MEM_REQ frame (R415, OP). -/
inductive MemOp where
  | load | store | add | minS | minU | maxS | maxU | swap | cas
deriving DecidableEq, Repr

/-- STATUS of a remote operation (R431). -/
inductive RemoteStatus where
  | ok | retry | departed | poisoned | writeProtected | addressError | denied | timeout | linkDown
deriving DecidableEq, Repr

/-- TAG of a frame: slot generation, issuing region, outstanding slot (R415). -/
structure FrameTag where
  generation : Nat
  region : RegionNo
  slot : Fin 64
deriving DecidableEq, Repr

/-- The header fields of an arriving frame that its handling reads (R415); `poisoned` is the trailer of R416. -/
structure FrameHeader where
  port : RoalePort
  source : Member
  dest : Member
  tenant : Tenant
  tag : FrameTag
  size : Nat
  address : Nat
  poisoned : Bool
deriving DecidableEq, Repr

/-- A remote operation as a sequencer thread issues it (R421, R425, R430): a load, store or atomic, or a coded tensor write of
rows of BF16 elements in a Stage-A format (R370: 0 none, 1 Shade-8, 2 Shade-6 E3M2, 3 Shade-6 E2M3) and a row length. -/
inductive RemoteKind where
  | mem (op : MemOp)
  | tensor (format rowElements : Nat)
deriving DecidableEq, Repr

/-! ## Tables that the twin mirrors: objects, pages, manifests and the prefix index (R140, R168, R171, R290, R291) -/

/-- States of an ODT entry (R140). -/
inductive ObjState where
  | free | writable | publishing | published | moving | retiring
deriving DecidableEq, Repr

/-- An ODT entry (R140), with what the part holds for a command under way on it: the handle of the source of a publish, and
the lease epoch of its retirement (R181). -/
structure OdtEntry where
  generation : Nat := 0
  state : ObjState := .free
  tier : Nat := 0
  tenant : Nat := 0
  kind : Nat := 0
  prot : Nat := 0
  pinCount : Nat := 0
  keySlot : Nat := 0
  location : Nat := 0
  size : Nat := 0
  newLocation : Nat := 0
  crc : Nat := 0
  newTier : Nat := 0
  source : Nat := 0
  tag : Nat := 0
  retireEpoch : Nat := 0
  lease : Option Nat := none
deriving DecidableEq, Repr

/-- States of a page record (R168). -/
inductive PageState where
  | free | open_ | sealed_ | retired | inside
deriving DecidableEq, Repr

/-- A page record (R168). -/
structure PageRec where
  state : PageState := .free
  fill : Nat := 0
  refs : Nat := 0
  epochOrOwner : Nat := 0
deriving DecidableEq, Repr

/-- A page entry of a manifest (R171). -/
structure PageEntry where
  valid : Bool := false
  dropped : Bool := false
  published : Bool := false
  page : Nat := 0
deriving DecidableEq, Repr

/-- A request's manifest: its directory unit, its units by 8 l + j, its page entries by 16384 l + p (R170), and the units of
its token history (R356). -/
structure Manifest where
  directory : Nat := 0
  units : Tab Nat := []
  pages : Tab PageEntry := []
  historyDir : Nat := 0
  historyUnits : Tab Nat := []
  history : List LogEntry := []
  parked : Nat := 0
  parkOrigin : Nat := 0
deriving DecidableEq, Repr

/-- A way of a bucket (R290). -/
structure Way where
  digest : Nat := 0
  block : Nat := 0
  comp : Nat := 0
  valid : Bool := false
  pinned : Bool := false
  collided : Bool := false
  lastUse : Nat := 0
deriving DecidableEq, Repr

/-- A block record (R291); its children in order stand for FIRST_CHILD and the NEXT_SIBLING links. -/
structure BlockRec where
  used : Bool := false
  parentDigest : Nat := 0
  digest : Nat := 0
  children : List Nat := []
  parent : Nat := 0
  lastUse : Nat := 0
  comp : Nat := 0
  inTable : Bool := false
  inTree : Bool := false
  root : Bool := false
  pinned : Bool := false
  domain : Nat := 0
  tokens : List Nat := []
  pages : List Nat := []
deriving DecidableEq, Repr

/-! ## Mirror records (R495), feed frames (R520) and meter input -/

/-- A mirror record with the change it carries (R495). A BYTES record (KIND 2) carries the table entry that its range holds:
a ledger with its log and block units, an ODT entry, a way, a block record, a page record, a manifest with its units, or
plain bytes of the block area. The LMC values of an entry or a ledger travel as counts relative to the sender's LMC, modulo
2^64, with 0 for no value (R497). -/
inductive MirrorBody where
  | entry (index : Nat) (entry : Entry)
  | ledger (index : Nat) (ledger : Ledger)
  | odt (index : Nat) (entry : OdtEntry)
  | way (index : Nat) (way : Way)
  | block (index : Nat) (block : BlockRec)
  | pageRec (granule : Nat) (record : PageRec)
  | manifest (index : Nat) (manifest : Manifest)
  | bytes (address : Nat) (data : List Byte)
  | page (granule offset : Nat) (data : List Byte)
  | completion (tenant : Tenant) (requestId tag opcode status stateCode : Nat) (missed : Bool)
      (position detail index : Nat) (peer : PartAddr)
  | confirm (tenant : Tenant) (sequence : Nat)
  | syncDone
  | bad
deriving DecidableEq, Repr

/-- The header fields of a mirror record that its handling reads (R495). -/
structure MirrorRecord where
  mseq : Nat
  last : Bool
  body : MirrorBody
deriving DecidableEq, Repr

/-- Roles and states of a twin (R493, R513). -/
inductive TwinRole where
  | none | active | mirror
deriving DecidableEq, Repr
inductive TwinState where
  | solo | syncing | paired | fencing | alone
deriving DecidableEq, Repr

/-- What the other part of a pair reports for a JOIN (R490, R491). -/
structure PeerReport where
  joined : Bool
  ordering : Nat
  version : Nat
  digest : BitVec 384
  role : TwinRole
  mirrorPorts : Nat
deriving DecidableEq, Repr

/-- Composition body of an event frame (R520). -/
structure CompositionBody where
  composition : CompNo
  role : Nat
  regionCount : Nat
  stackCount : Nat
  kvGranules : Nat
  slateGib : Nat
  umberGib : Nat
  package : Bool
  twinRole : Nat
  member : Nat
deriving DecidableEq, Repr

/-- What the meter's own instruments report with an event: the 100 ns periods and the millijoules since its last event
(R517, R518). -/
structure MeterStamp where
  periods : Nat
  millijoules : Nat
deriving DecidableEq, Repr

/-- The head of an event frame: FEED_SEQ, whether the CRC of either copy is good, and whether its TYPE is a declared one
(R519, R520, R522). -/
structure FeedHead where
  seq : Nat
  crcOk : Bool
  declared : Bool
deriving DecidableEq, Repr

/-- A meter record as it crosses the record lane (R527); `type` codes of R528. -/
structure MeterRecord where
  recordNo : Nat
  boot : Nat
  type : Nat
  brokenSeal : Bool
  meterFault : Bool
  mtc : Nat
  energy : Nat
  prevHash : BitVec 384
  body : List Byte
  sigR : BitVec 384
  sigS : BitVec 384
deriving DecidableEq, Repr

/-- The head of a chain frame (R563). -/
structure ChainHead where
  dest : Nat
  source : Nat
  seq : Nat
  crcOk : Bool
deriving DecidableEq, Repr

/-! ## Other operands -/

/-- The blocks of R593 that have a lock bit which LOCK_SET sets (FLS_LOCK has its own row). -/
inductive LockBlock where
  | fuse | pwr | fab | stk | rqt | pfx | xfr | cod | sch | lnk | tm | slt
deriving DecidableEq, Repr

/-- Element formats (R67). -/
inductive Format where
  | fp32 | bf16 | fp16 | e4m3 | e5m2 | e3m2 | e2m3 | e2m1 | int8 | int4 | e8m0
deriving DecidableEq, Repr

/-- Shade layouts with the element format of Shade-6 (R70). -/
inductive Shade where
  | shade4 | shade6e3m2 | shade6e2m3 | shade8
deriving DecidableEq, Repr

/-- An operand of a block product (R83): a Shade row, or element codes that enter with a scale of 1. -/
inductive DotOperand where
  | shade (layout : Shade) (row : List Byte)
  | plain (format : Format) (values : List Nat)
deriving DecidableEq, Repr

/-- Operations of a vector lane on two FP32 values (R85). -/
inductive VectorOp where
  | add | multiply | min | max | compare
deriving DecidableEq, Repr

/-- A key or value row that a step writes for a node of a request's tree, or for a position of its prefill counted from
LENGTH (R175, R211, R269). -/
structure RowWrite where
  index : Nat
  layer : Nat
  head : Nat
  value : Bool
  node : Nat
  bytes : List Byte
deriving DecidableEq, Repr

/-- A query vector of a layer step, in BF16: the KV head, the query head in its group, and the node (R193, R201). -/
structure QueryRow where
  index : Nat
  head : Nat
  query : Nat
  node : Nat
  vector : List (BitVec 16)
deriving DecidableEq, Repr

/-- The attention of a layer step: the step rows that it writes and its query rows (R193, R201). -/
structure LayerWork where
  layer : Nat
  rows : List RowWrite
  queries : List QueryRow
deriving DecidableEq, Repr

/-- A key and a value row of a step that fabric attention takes from Ivory, by their addresses, for a node of the step (R211). -/
structure IvoryRow where
  node : Nat
  key : Nat
  value : Nat
deriving DecidableEq, Repr

/-- An action of a kernel whose result rules chapters 3 and 7 fix, with the byte of the region's Ivory that takes the result. `cell`
names the logical cell whose accumulators or generator it uses (R62, R65, R76) and `site` the conversion site (R66); `swapBanks`,
`drain`, `chainSum` and `clusterSum` are the courses of R65 and R66; `attend` is fabric attention over pages (R210, R211); `merge`
joins partial results for a query row and converts the output (R209); `row` writes a row into a page; `write` stands for what
the image's code leaves in Ivory besides. -/
inductive FabricOp where
  | convert (source target : Format) (site : Nat) (cell : Fin 192) (values : List Nat) (dest : Nat)
  | quantise (layout : Shade) (site : Nat) (cell : Fin 192) (values : List (BitVec 32)) (dest : Nat)
  | dequantise (layout : Shade) (row : List Byte) (dest : Nat)
  | accumulate (cell : Fin 192) (output : Fin 256) (a b : Format) (pairs : List (Nat × Nat))
  | blockDot (cell : Fin 192) (output : Fin 256) (a b : DotOperand)
  | swapBanks (cell : Fin 192)
  | drain (cell : Fin 192) (output : Fin 256) (clear : Bool) (dest : Nat)
  | chainSum (cluster : Fin 12) (first : Fin 16) (count : Nat)
  | clusterSum (cluster : Fin 12) (cells : List (Fin 16)) (dest : Fin 16)
  | vector (op : VectorOp) (a b : BitVec 32) (dest : Nat)
  | select (c a b : BitVec 32) (dest : Nat)
  | fma (a b c : BitVec 32) (dest : Nat)
  | reduce (sum : Bool) (values : List (BitVec 32)) (dest : Nat)
  | lookup (cluster : Fin 12) (table : Fin 8) (x : BitVec 32) (dest : Nat)
  | rotary (position : Nat) (frequency : BitVec 32) (dest : Nat)
  | attend (thread : Fin 16) (layer window : Nat) (scale : BitVec 32) (row : QueryRow) (first count : Nat) (rows : List IvoryRow)
  | merge (index layer head query node : Nat) (format : Format) (site : Nat) (cell : Fin 192) (dest : Nat)
  | row (w : RowWrite)
  | write (dest : Nat) (bytes : List Byte)
deriving DecidableEq, Repr

/-- A node of a candidate tree other than the root (R262, R266). -/
structure CandNode where
  token : Nat
  parent : Nat
  q : BitVec 16
deriving DecidableEq, Repr

/-- A host candidate slot as it is read (R266). -/
structure CandSlot where
  requestId : Nat
  rootPosition : Nat
  nodes : Nat
  hasProb : Bool
  seqHead : Nat
  seqTail : Nat
  list : List CandNode
deriving DecidableEq, Repr

/-- An operation whose read of host memory is outstanding (R596). -/
inductive HostReadUse where
  | command (tenant : Tenant) (opcode : Nat) (requestId tag : Nat)
  | object (handle : Nat)
  | restore (index : Nat)
  | attest
  | wrap
deriving DecidableEq, Repr

/-- How a read of host memory ends (R596, R606). -/
inductive HostReadResult where
  | data (bytes : List Byte)
  | unsupported
  | poisoned
  | timeout
deriving DecidableEq, Repr

/-- Fatal conditions of R606. -/
inductive FatalKind where
  | malformed | flowControl | dataLink | internal
deriving DecidableEq, Repr

/-- The BARs (R591). -/
inductive Bar where
  | bar0 | bar2 | bar4
deriving DecidableEq, Repr

/-- A configuration request (R539, R590, R591, R600): a read of a DWORD, a write of the MSI-X Enable and Function Mask bits, of the
Resizable BAR size of BAR 4, or of anything else. -/
inductive CfgAccess where
  | read (offset : Nat)
  | msix (enable functionMask : Bool)
  | bar4Size (log2 : Nat)
  | other
deriving DecidableEq, Repr

/-- A die with a temperature sensor (R586). -/
inductive Die where
  | fabric (d : Fin 4) | io (d : Fin 2) | stack (st : StackNo)
deriving DecidableEq, Repr

/-- How the read of an object ends: with every byte, or with an uncorrectable error at a byte of it (R465, R476). -/
inductive ReadEnd where
  | whole
  | errorAt (offset : Nat)
deriving DecidableEq, Repr

/-- What the NAND reports while a command programs, reads and erases it: the blocks into which a program or of which an erase fails
(R484, R485), and the most bits that a read has corrected in one page of a block (R476). -/
structure NandReport where
  programFails : List Nat := []
  eraseFails : List Nat := []
  corrected : List (Nat × Nat) := []
deriving DecidableEq, Repr

/-- What the board and the self-tests show at a start (R461 to R463, R538, R540, R616). `slate` gives, for each channel,
the GiB of its DIMM, its data rate code and whether it trains; `packageRead` how the read of a package image that a warm
start loads again ends. -/
structure StartFacts where
  strapSpi1v8 : Bool
  strapSris : Bool
  strapTest : Bool
  railsOk : Bool
  stacksOk : Bool
  selfTestOk : Bool
  slate : List (Nat × Nat × Bool)
  packageRead : ReadEnd
deriving DecidableEq, Repr

/-- The NAND that the board fits, as its identification reads (R467). -/
structure NandId where
  supported : Bool
  goodBlocks : Nat
  badBlocks : List Nat
deriving DecidableEq, Repr

/-- Sources of a cluster fault (R101, R123). -/
inductive ClusterFaultKind where
  | cluster | ivory
deriving DecidableEq, Repr

/-- Causes of a METER_FAULT record (R528). -/
inductive MeterFaultCause where
  | oscillator | converter | nor
deriving DecidableEq, Repr

/-- A command of the block: one constructor for each row of spec/opcode_table.json, in the table's order. `none` as an
operand that the part reads from host memory, Ochre or an object means that the read fails. -/
inductive Instr where
  -- Host commands of tenant `t` (08)
  | hostAdmit (t : Tenant) (c : HostCommand) (tokens : Option (List Nat)) (desc : Option AdmitDescriptor)
  | append (t : Tenant) (c : HostCommand) (tokens : Option (List Nat))
  | truncate (t : Tenant) (c : HostCommand)
  | cancel (t : Tenant) (c : HostCommand)
  | park (t : Tenant) (c : HostCommand)
  | resume (t : Tenant) (c : HostCommand)
  | query (t : Tenant) (c : HostCommand)
  | release (t : Tenant) (c : HostCommand)
  -- Object commands (05)
  | allocate (c : ObjCommand)
  | publish (c : ObjCommand)
  | seal (c : ObjCommand)
  | move (c : ObjCommand)
  | unpublish (c : ObjCommand)
  | free (c : ObjCommand)
  | pin (c : ObjCommand)
  | unpin (c : ObjCommand)
  | adopt (c : ObjCommand)
  | copyComplete (handle : Nat) (copied : Bool) (source : ReadEnd := .whole) (nand : NandReport := {})
  | objectReclaim (index : Nat) (nand : NandReport := {})
  -- Regions (04)
  | load (n : RegionNo) (handle : Option Nat)
  | start (n : RegionNo) (handle : Option Nat)
  | drain (n : RegionNo) (handle : Option Nat)
  | reload (n : RegionNo) (handle : Option Nat)
  | reset (n : RegionNo) (handle : Option Nat)
  | resetRepair (n : RegionNo) (handle : Option Nat)
  | imageReadComplete (n : RegionNo) (read : ReadEnd)
  | verifyComplete (n : RegionNo) (readbackOk : Bool)
  | drainComplete (n : RegionNo)
  | clusterFault (n : RegionNo) (cluster : Fin 256) (kind : ClusterFaultKind)
  | fabPkgLoad (handle : Nat)
  | fabVdcFlush
  -- Microcode (07)
  | attach (handle : Nat) (comp : CompNo)
  | ucodeLoadComplete (slot : Fin 16) (read : ReadEnd) (readbackOk : Bool)
  | detach (comp : CompNo)
  | detachComplete (comp : CompNo)
  | stkUcodeClear (mask : BitVec 64)
  -- Keys and tables (05, 10, 13)
  | xtsLoad (slot : Fin 1024)
  | xtsClear (slot : Fin 1024)
  | domainLoad (slot : Fin 4096) (domain : Nat) (owner : Tenant)
  | domainClear (slot : Fin 4096)
  | domainUnpin (slot : Fin 4096)
  | domainFlush (slot : Fin 4096)
  | tableLoad (slot : Fin 4) (tag : Nat)
  | tableClear (slot : Fin 4)
  | gcmLoad (slot : Fin 256)
  | gcmClear (slot : Fin 256)
  -- Compositions and shares (14)
  | bind (c : CompNo) (role : Role)
  | unbind (c : CompNo)
  | unbindComplete (c : CompNo)
  | addRegions (c : CompNo)
  | removeRegions (c : CompNo)
  | set (t : Tenant) (c : CompNo) (weight : Nat)
  -- Recovery (11)
  | recoverRequest
  | recoverFailedPart
  -- Twin (18)
  | join (roleReq : TwinRole) (peer : PeerReport)
  | switch
  | handover
  | suspend
  -- Boot, fuses, attestation (20)
  | warmReset
  | coldReset
  | stage (handle : Nat) (read : ReadEnd)
  | stageComplete (ok : Bool)
  | advance
  | keylistLoad (handle : Nat) (read : ReadEnd)
  | keylistClear
  | attest (address : Nat)
  | establish (address : Nat)
  | burn
  | burnComplete (readbackOk : Bool)
  -- Power (21)
  | white
  | grey
  | charcoal
  | black
  -- Flash (17)
  | discard (nand : NandReport := {})
  | flsLock (nand : NandId)
  | rebuildComplete
  -- Register writes and doorbells (22)
  | lockSet (block : LockBlock)
  | mtrSelect (recordNo : Nat)
  | rqtTCtlEnable (t : Tenant) (value : BitVec 64)
  | portCfgWrite (p : RoalePort) (value : BitVec 64)
  | registerWrite (offset : Nat) (width : Nat) (value : BitVec 64)
  | sqTail (t : Tenant) (value : Nat)
  | cqHead (t : Tenant) (value : Nat)
  | trHead (t : Tenant) (value : Nat)
  | stkObjSqTail (value : Nat)
  | stkObjCqHead (value : Nat)
  | bar4Read (offset : Nat) (size : Nat)
  | bar4Write (offset : Nat) (data : List Byte)
  | vectorUnmask (vec : Fin 4160)
  -- RST messages (11)
  | rstOpen (h : RstHeader) (durability : Durability) (entry : Entry) (twin : PartAddr) (modelId adapterId : Nat)
  | rstOpened (h : RstHeader)
  | logAppend (h : RstHeader) (start : Nat) (entry : Entry) (entries : List LogEntry)
  | logAck (h : RstHeader) (length : Nat)
  | publishBlock (h : RstHeader) (block : Nat) (pages : PagePayload)
  | pubRef (h : RstHeader) (block : Nat) (parentDigest digest : Nat) (tokens : List Nat)
  | pubAck (h : RstHeader) (blocks : Nat)
  | pubNeed (h : RstHeader) (block : Nat)
  | offer (h : RstHeader) (remaining : Nat) (entry : Entry) (modelId adapterId : Nat) (entries : List LogEntry)
  | offerAck (h : RstHeader)
  | pull (h : RstHeader) (first count layer : Nat)
  | pageData (h : RstHeader) (page layer fill : Nat) (rows : PagePayload)
  | claim (h : RstHeader) (offering twin : PartAddr)
  | grant (h : RstHeader)
  | deny (h : RstHeader) (owner : PartAddr)
  | rstRelease (h : RstHeader)
  | whoOwns (h : RstHeader)
  | ownerIs (h : RstHeader) (owner : PartAddr)
  | rstResume (h : RstHeader)
  | recover (h : RstHeader) (ledger : Ledger)
  | objRead (h : RstHeader) (handle offset : Nat)
  | objData (h : RstHeader) (handle offset : Nat) (bytes : PagePayload)
  | close (h : RstHeader)
  | closed (h : RstHeader)
  | pfxQuery (h : RstHeader) (domain parentDigest modelId adapterId : Nat) (tokens : List Nat)
  | pfxAnswer (h : RstHeader) (matched : Nat) (handles : List Nat)
  | rstTransportOnly (h : RstHeader)
  | rstRetransmit (peer : PartAddr) (seq : Nat)
  | orphanAudit (index : Nat)
  | offerResend (index : Nat)
  | walkDone (index : Nat)
  -- Roale frames and remote operations (15)
  | memReqLoad (f : FrameHeader)
  | memReqStore (f : FrameHeader) (data : List Byte)
  | memReqAdd (f : FrameHeader) (operand : Nat)
  | memReqMinS (f : FrameHeader) (operand : Nat)
  | memReqMinU (f : FrameHeader) (operand : Nat)
  | memReqMaxS (f : FrameHeader) (operand : Nat)
  | memReqMaxU (f : FrameHeader) (operand : Nat)
  | memReqSwap (f : FrameHeader) (operand : Nat)
  | memReqCas (f : FrameHeader) (compare swap : Nat)
  | memRsp (f : FrameHeader) (status : RemoteStatus) (data : List Byte)
  | tensor (f : FrameHeader) (index total : Nat) (block : CodedBlock)
  | tensorAck (f : FrameHeader) (index : Nat) (status : RemoteStatus)
  | mirror (p : RoalePort) (records : List MirrorRecord)
  | hello (p : RoalePort) (trayId : Nat) (member : Member) (twin : Nat)
  | heartbeat (p : RoalePort) (source : Member) (role : TwinRole) (state : TwinState) (sent applied : Nat)
  | ctrlDepart (p : RoalePort) (source : Member)
  | frameForward (p : PortNo) (dest : Member) (bytes : Nat) (class_ : Fin 8) (issuer : Option Nat := none)
  | portUp (p : RoalePort)
  | portDown (p : RoalePort)
  | egressFrameStart (p : PortNo)
  | remoteOpIssue (r : RegionNo) (thread : Fin 16) (kind : RemoteKind) (address size operand : Nat) (data : List Byte)
      (dest : Option Nat := none)
  | remoteFence (r : RegionNo) (thread : Fin 16)
  | retryReissue (r : RegionNo) (slot : Fin 64)
  | replyTimeout (r : RegionNo) (slot : Fin 64)
  | retryBarrierTimeout (member : Member) (region : RegionNo)
  | regionAccess (r : RegionNo) (offset : Nat) (data : List Byte) (source : Option RegionNo := none) (last : Bool := false)
  -- Coherence (15)
  | readShared (a : AgentNo) (line : Nat)
  | readExclusive (a : AgentNo) (line : Nat) (store : Option (Nat × List Byte))
  | upgrade (a : AgentNo) (line : Nat) (store : Option (Nat × List Byte))
  | writeback (a : AgentNo) (line : Nat)
  | uncachedRead (line : Nat)
  | invalidatingWrite (line : Nat) (offset : Nat) (data : List Byte)
  | writeFull (a : AgentNo) (line : Nat) (data : List Byte)
  | forward (a : AgentNo) (line : Nat)
  | holdWindowEnd (a : AgentNo) (line : Nat)
  | delayLineCalibration
  -- The scheduler and a step's course (14, 07, 09)
  | unitDispatch (r : RegionNo) (kernel : Nat) (work : Option LayerWork) (slots : List (Nat × List Byte))
  | unitComplete (r : RegionNo) (ops : List FabricOp) (last : Bool)
  | preemptionPoint (r : RegionNo) (point : Nat)
  | passComplete (st : StackNo) (core slot : Fin 4) (bad : Option Nat)
  | stepCommit (index : Nat) (logits : List (List (BitVec 32))) (draft : List CandNode := [])
  | stackCoreFault (st : StackNo) (core : Fin 4)
  | deadlineMiss (index : Nat)
  -- Leases, pages, prefix, capacity (06, 10, 12)
  | leaseEpochTick
  | leaseExpiry (slot : Fin 4096)
  | pageReclaim (granule : Nat)
  | prefixInsert (index block : Nat)
  | pressureEviction (st : StackNo)
  | drop (index : Nat)
  | preempt (index : Nat)
  | restore (index : Nat)
  | restoreComplete (index : Nat)
  | recompute (index : Nat)
  -- Flash and Slate (17)
  | gcCollect (nand : NandReport := {})
  | fold (nand : NandReport := {})
  | slateScrub (corrected : Nat) (uncorrectable : List Nat)
  -- The event feed and the meter (19)
  | keepalive
  | feedBind (m : MeterStamp) (f : FeedHead) (b : CompositionBody)
  | feedUnbind (m : MeterStamp) (f : FeedHead) (b : CompositionBody)
  | feedResource (m : MeterStamp) (f : FeedHead) (b : CompositionBody)
  | feedSeal (m : MeterStamp) (f : FeedHead) (body : List Byte)
  | feedPower (m : MeterStamp) (f : FeedHead) (source target limit : Nat)
  | feedKeepalive (m : MeterStamp) (f : FeedHead)
  | silent (m : MeterStamp)
  | interval (m : MeterStamp) (lowWatts highWatts lowMv highMv : Nat)
  | tamper (m : MeterStamp) (segment : Nat)
  | meterFault (m : MeterStamp) (cause : MeterFaultCause)
  | laneStatusFrame (m : MeterStamp)
  | recordCopy (r : MeterRecord)
  | recordLaneSilent
  | mtrVaux3Loss (m : MeterStamp)
  | mtrVaux3Return
  | identity (m : MeterStamp)
  | i3cStatus (m : MeterStamp)
  | pointer (m : MeterStamp) (recordNo : Nat)
  | record (m : MeterStamp)
  | certificate (m : MeterStamp)
  | mark (m : MeterStamp) (bytes : List Byte)
  | entdaa (m : MeterStamp) (address : BitVec 7)
  | setdasa (m : MeterStamp) (static address : BitVec 7)
  | getpid (m : MeterStamp)
  | getbcr (m : MeterStamp)
  | getdcr (m : MeterStamp)
  | getstatus (m : MeterStamp)
  | enec (m : MeterStamp) (events : Byte)
  -- The Tray Management Chain (20)
  | enum (h : ChainHead) (next : Nat)
  | getId (h : ChainHead)
  | setMember (h : ChainHead) (trayId : Nat) (member : Nat) (twin : Nat) (enrolled : Bool)
  | announce (h : ChainHead) (states : List (Fin 4))
  | powerOn (h : ChainHead)
  | powerOff (h : ChainHead)
  | chainReset (h : ChainHead) (kind : Nat)
  | fence (h : ChainHead)
  | fenced (h : ChainHead) (target : Nat) (outcome : Nat)
  | status (h : ChainHead)
  | departAnswer (h : ChainHead)
  | chainForward (h : ChainHead) (bytes : List Byte)
  | chainRingSilent
  -- Twin events (18)
  | heartbeatSend
  | heartbeatLoss
  | fenceWaitExpiry
  | fenceTimeout
  | mirrorAcknowledgement (mseq : Nat)
  -- Supplies, clocks, temperatures (21, 23)
  | departureComplete
  | powerEnRise
  | powerEnFall
  | vin56Low (millivolts : Nat)
  | vin56Under (millivolts : Nat)
  | vin56Over (millivolts : Nat)
  | vin56InRange (millivolts : Nat)
  | vaux3Loss
  | vaux3Return
  | throttling (d : Die) (reading : Int)
  | throttlingEnd (d : Die) (reading : Int)
  | boundsNotGuaranteed (d : Die) (reading : Int)
  | thermalTrip (d : Die) (reading : Int)
  | stackRefreshRate (st : StackNo) (reading : Int)
  | greyIdle (r : RegionNo)
  | wakeTime
  | refclkLoss
  | refclkReturn
  | pacingChange (on : Bool)
  | charcoalEntryComplete
  | charcoalExitComplete
  -- PCI Express (22)
  | perst
  | hotReset
  | linkDisable
  | functionLevelReset
  | dlUpLoss
  | dlUpReturn (speed width : Nat) (flit : Bool)
  | busMasterEnable (enabled d3hot : Bool)
  | configurationRequest (a : CfgAccess)
  | hostReadCompletion (use : HostReadUse) (result : HostReadResult)
  | poisonedWrite (bar : Bar)
  | malformedTlp (kind : FatalKind)
  | coalesceUsExpiry (t : Tenant)
  -- Engine events (20, 04, 10, 16)
  | powerUpStart (facts : StartFacts)
  | packageLoadComplete (read : ReadEnd)
  | domainScanComplete
  | ethernetPortUp (p : EthPort) (rate : Nat)
  | ethernetPortDown (p : EthPort)
deriving DecidableEq, Repr

end Sys2Proof
end

