-- ==== Sys2Proof/Config.lean ====
section
/-! DEFINITION. What the manual leaves open or only names: the part's free choices and random values, and the standard
functions that the manual names and does not restate. None has a body, so nothing can be proved of their values. -/

namespace Sys2Proof.Config

/-- The part's `n`-th free choice or random value; the fresh counter of State numbers them (log entry 2). -/
opaque choice : Nat → Nat

/-- SHA-384 (R286, R96, R490; log entry 1). -/
opaque sha384 : List Byte → BitVec 384

/-- ECDSA P-384 verification of a hash under a public key (R96, R548; log entry 1). -/
opaque ecdsaVerify : (key : BitVec 768) → (hash r s : BitVec 384) → Bool

/-- ECDSA P-384 signature of the meter's or the alias key over a hash (R527, R561; log entry 1). -/
opaque sign : (key : Nat) → (hash : BitVec 384) → BitVec 768

/-- RFC 3394 unwrap of a blob under the wrapping key; `none` where it fails (R154, R289, R384, R560; log entry 1). -/
opaque unwrap : (key : BitVec 256) → (blob : List Byte) → Option (List Byte)

/-- The wrapping key of an ESTABLISH: 32 bytes of HKDF over the ECDH secret of the wrap key (named by the root and owner key
hashes) and the peer's point; `none` where the point is not on the curve (R559, R560; log entry 1). -/
opaque wrapSession : (rootHash ownerHash : List Byte) → (peer : List Byte) → Option (BitVec 256)

/-- The wrap public key (R559, R561; log entry 1). -/
opaque wrapPublic : (rootHash ownerHash : List Byte) → BitVec 768

/-- The DeviceID public key's KEY_ID (R559, R564; log entry 1). -/
opaque deviceKeyId : BitVec 384

/-- The alias and DeviceID certificates, each after its 4-byte length (R559, R561; log entry 1). -/
opaque certificates : (measurement : BitVec 384) → List Byte

/-- AES-256-XTS of one 4 KiB data unit under a key pair and tweak (R153; log entry 1). -/
opaque xtsEncrypt : (key : BitVec 512) → (tweak : Nat) → List Byte → List Byte

/-- The inverse of `xtsEncrypt` (R153; log entry 1). -/
opaque xtsDecrypt : (key : BitVec 512) → (tweak : Nat) → List Byte → List Byte

/-- What a CELL_CONFIG body selects for a kernel on a logical cell of its cluster: option 0 the array shape, 1 the reduction, 2 the
operand source, and from 3 on the rounding of each conversion site (R62, R66; log entry 74). -/
opaque latchOption (body : List Byte) (kernel cell option : Nat) : Nat

/-- The range reduction that the latches of a cluster select for a function table, and the ends of its interval (R86; log
entry 74). -/
opaque tableReduction (body : List Byte) (table : Nat) : Nat
opaque tableLow (body : List Byte) (table : Nat) : BitVec 32
opaque tableHigh (body : List Byte) (table : Nat) : BitVec 32

/-- The segment of a table in which a reduced argument falls, and its place `t` in the segment (R86; log entry 74). -/
opaque tableSegment (reduction : Nat) (x : BitVec 32) : Nat
opaque tablePlace (reduction : Nat) (x : BitVec 32) : BitVec 32

/-- How the exponent that a range reduction split off enters the result again (R86; log entry 74). -/
opaque tableScale (reduction : Nat) (x y : BitVec 32) : BitVec 32

/-- Where an IVORY_INIT body places its bytes in the Ivory of its target (R95; log entry 74). -/
opaque ivoryPlan (target : Nat) (body : List Byte) : List (Nat × Byte)

/-- The sine and cosine that a vector lane gives for a position and a phase, before the bound of R88 is put on them (R88; log entry
75). -/
opaque sine (position : Nat) (phase : BitVec 64) : BitVec 32
opaque cosine (position : Nat) (phase : BitVec 64) : BitVec 32

/-- Of two operands of a minimum or maximum between which IEEE 754 leaves the choice, the first is taken (R85; log entry 17). -/
opaque minMaxFirst : (max : Bool) → BitVec 32 → BitVec 32 → Bool

/-- The FP32 word that a comparison leaves, by its outcome: 0 less, 1 equal, 2 greater, 3 unordered; and the reading of such a word by
a select (R85; log entry 75). -/
opaque compareWord : (outcome : Nat) → BitVec 32
opaque selectsFirst : BitVec 32 → Bool

/-- 2 to a power, and a reciprocal, as their tables give them before the limits of R87 are put on them (R87, R203, R209; log
entry 75). -/
opaque stackExp2 : BitVec 32 → BitVec 32
opaque stackReciprocal : BitVec 32 → BitVec 32

/-- The first state of a cell's generator, from the image's seed and the logical cell (R76; log entry 6). -/
opaque cellSeed : (seed : BitVec 64) → (cell : Nat) → BitVec 32

/-- The probability of each token under the softmax of the logits divided by TEMPERATURE (R251; log entry 1), in units of
2^-64. -/
opaque softmax : (temperature : BitVec 32) → List (BitVec 32) → List Nat

/-- The FP32 natural logarithm of a probability in units of 2^-64 (R245, R275; log entry 1). -/
opaque logprob : Nat → BitVec 32

/-- The uniform draw of a random state, in units of 2^-64, and the next random state (R226, R251; log entry 1). -/
opaque rngDraw : BitVec 128 → Nat × BitVec 128

/-- The next output of a cell's generator and its next state (R76; log entry 1). -/
opaque cellDraw : BitVec 32 → BitVec 32 × BitVec 32

/-- The datagrams beyond ACK that the part accepts on a connection, less one (R315; log entry 13). -/
opaque rstWindow : Nat

/-- The set of a logic die's directory that a line falls in (R438; log entry 16). -/
opaque directorySet : (line : Nat) → Nat

/-- The draft distribution of the draft head at a node, in units of 2^-64 over the vocabulary (R268, R270). -/
opaque draftDist : (requestId position node : Nat) → List Nat

/-- The meter's ROM version and the first 32 bytes of its SHA-384 (R514, R528; log entry 9). -/
opaque meterRomVersion : Nat
opaque meterRomHash : Nat

/-- The meter's signature over a hash under its own key (R527; log entry 1). -/
opaque meterSign : (meterId : Nat) → (hash : BitVec 384) → BitVec 384 × BitVec 384

/-- What GETPID, GETBCR and GETDCR of the meter's I3C port answer (R532; log entry 9). -/
opaque i3cPid : List Byte
opaque i3cBcr : List Byte
opaque i3cDcr : List Byte

/-- What the `n`-th GETSTATUS answers (R532; log entry 9). -/
opaque i3cStatus : (n : Nat) → List Byte

/-- A DWORD of the configuration space that the manual does not give (R590; log entry 10). -/
opaque configSpace : (offset : Nat) → Nat

/-- The chain address of a tray member, which a FENCE_REQ names (R564; log entry 20). -/
opaque chainAddress : (member : Nat) → Nat

/-- The `n`-th nonce of FUSE_NONCE (R545; log entry 4). -/
opaque fuseNonce : Nat → Nat

/-- The board's boot flash as the part first finds it: slot A or B, and the root key list (R556; log entry 5). -/
opaque bootImage : (slotB : Bool) → Option Image
opaque bootRootList : Option KeyList

/-- ROOT_KEY_HASH and OWNER_KEY_HASH of generation slot 0, as numbers (R545; log entry 4). -/
opaque rootKeyHash : Nat
opaque ownerKeyHash : Nat

/-- What the power manager's own sensors read at a count of the LMC: input power in W, VIN56 in mV, the supply of a fabric die in mV
and the temperature of a die in °C; dies 0 to 3 are fabric, 4 and 5 I/O, 6 to 37 stacks (R572, R586, R588; log entry 50). -/
opaque inputWatts : (lmc : Nat) → Nat
opaque inputMillivolts : (lmc : Nat) → Nat
opaque fabricMillivolts : (die lmc : Nat) → Nat
opaque dieTemperature : (die lmc : Nat) → Nat

end Sys2Proof.Config
end

