-- ==== Sys2Proof/Machine/Tab.lean ====
section
/-! DEFINITION. The operations over sparse arrays: every array, register file and memory of State is a `Tab` in one
canonical form, so that equal contents are equal data. -/

namespace Sys2Proof.Machine

/-- What key `k` of the array holds; `d` is what an unlisted key holds. -/
def tabGet {α : Type} (d : α) : Tab α → Nat → α
  | [], _ => d
  | (k', v) :: m, k => if k' = k then v else tabGet d m k

/-- The array without an entry for `k`. -/
def tabDel {α : Type} : Tab α → Nat → Tab α
  | [], _ => []
  | (k', v) :: m, k => if k' = k then tabDel m k else (k', v) :: tabDel m k

/-- The array with `v` listed at `k`, at its place in the rising order. -/
def tabIns {α : Type} : Tab α → Nat → α → Tab α
  | [], k, v => [(k, v)]
  | (k', v') :: m, k, v =>
    if k' = k then (k, v) :: m else if k < k' then (k, v) :: (k', v') :: m else (k', v') :: tabIns m k v

/-- The array with `v` at `k`; writing what an unlisted key holds removes the entry. -/
def tabPut {α : Type} [DecidableEq α] (d : α) (m : Tab α) (k : Nat) (v : α) : Tab α :=
  if v = d then tabDel m k else tabIns m k v

/-- The keys rise strictly, and each lies above `lo`. -/
def tabRising {α : Type} : Option Nat → Tab α → Bool
  | _, [] => true
  | lo, (k, _) :: m => (match lo with | none => true | some l => decide (l < k)) && tabRising (some k) m

/-- The canonical form: rising keys and no entry that holds the default. -/
def tabWf {α : Type} [DecidableEq α] (d : α) (m : Tab α) : Bool :=
  tabRising none m && m.all (fun e => e.2 != d)

/-- The keys that satisfy `p`, rising. -/
def tabKeys {α : Type} (m : Tab α) (p : α → Bool) : List Nat :=
  (m.filter (fun e => p e.2)).map (·.1)

/-- The number of listed keys that satisfy `p`. -/
def tabCount {α : Type} (m : Tab α) (p : α → Bool) : Nat :=
  (m.filter (fun e => p e.2)).length

/-- Writes the values of `vs` at `k`, `k + 1`, and so on. -/
def tabPutRun {α : Type} [DecidableEq α] (d : α) (m : Tab α) (k : Nat) : List α → Tab α
  | [] => m
  | v :: vs => tabPutRun d (tabPut d m k v) (k + 1) vs

/-- The `n` values that stand at `k`, `k + 1`, and so on. -/
def tabGetRun {α : Type} (d : α) (m : Tab α) (k : Nat) : Nat → List α
  | 0 => []
  | n + 1 => tabGet d m k :: tabGetRun d m (k + 1) n

/-- Applies `f` to what stands at `k`. -/
def tabMod {α : Type} [DecidableEq α] (d : α) (m : Tab α) (k : Nat) (f : α → α) : Tab α :=
  tabPut d m k (f (tabGet d m k))

/-- Drops every entry whose key satisfies `p`. -/
def tabDrop {α : Type} (m : Tab α) (p : Nat → α → Bool) : Tab α :=
  m.filter (fun e => !(p e.1 e.2))

/-- The array with every value passed through `f`; entries that become the default are dropped. -/
def tabMap {α : Type} [DecidableEq α] (d : α) (m : Tab α) (f : Nat → α → α) : Tab α :=
  (m.map (fun e => (e.1, f e.1 e.2))).filter (fun e => e.2 != d)

end Sys2Proof.Machine
end

