-- ==== Sys2Proof/Machine/RegMap.lean ====
section
/-! DEFINITION. The register tables of the manual, register by register and field by field: offset in BAR 0, bits, access
type, reset value and the values that the field's Meaning lists (R14, R17, R591 to R594). -/

namespace Sys2Proof.Machine

/-- Access types (R14). -/
inductive Access where
  | ro | rw | rw1c | wo | rwl
deriving DecidableEq, Repr

/-- The values that a field's Meaning lists (R17): all, a range, a list, or a test of its own: `sticky` is a lock bit (R15),
`interleaved` is 1 to C - 1 (R157), `inInterleaved` the address of a table inside the interleaved part (R157, R187, R188, R409),
`notLower` is no value below the present one (R117), `belowSoft` is below SOFT_PM (R489). -/
inductive Valid where
  | all | range (lo hi : Nat) | oneOf (l : List Nat) | sticky | interleaved | inInterleaved | notLower | belowSoft
deriving DecidableEq, Repr

/-- A field of a register. `off` is the register's offset in BAR 0, `stride` and `stride2` the distances between the
registers of an array. -/
structure Field where
  off : Nat
  lo : Nat
  width : Nat
  access : Access
  reset : Nat
  valid : Valid := .all
  stride : Nat := 0
  stride2 : Nat := 0
deriving DecidableEq, Repr

/-- The field of register `i` of an array. -/
def Field.at (f : Field) (i : Nat) : Field := { f with off := f.off + f.stride * i }

/-- The field of register `i`, `j` of an array of arrays. -/
def Field.at2 (f : Field) (i j : Nat) : Field := { f with off := f.off + f.stride * i + f.stride2 * j }

/-- Where State keeps the field's value. -/
def Field.key (f : Field) : Nat := f.off * 64 + f.lo

/-- A register, or an array of registers with its counts and strides, and its fields. -/
structure Reg where
  base : Nat
  count : Nat
  stride : Nat
  count2 : Nat
  stride2 : Nat
  fields : List Field
deriving DecidableEq, Repr

/-! PLT_LMC (R61) -/
def F.pltLmc.pltLmcValue : Field := ⟨0x00000040, 0, 64, .ro, 0, .all, 0, 0⟩
/-! FAB_CAPS (R116) -/
def F.fabCaps.fabFormatMinorMax : Field := ⟨0x00300000, 24, 8, .ro, 0, .all, 0, 0⟩
def F.fabCaps.fabFormatMajor : Field := ⟨0x00300000, 16, 8, .ro, 1, .all, 0, 0⟩
def F.fabCaps.fabVdcEntries : Field := ⟨0x00300000, 8, 8, .ro, 64, .all, 0, 0⟩
def F.fabCaps.fabRegions : Field := ⟨0x00300000, 0, 8, .ro, 64, .all, 0, 0⟩
/-! FAB_CTL (R117) -/
def F.fabCtl.fabImageFloor : Field := ⟨0x00300008, 32, 32, .rwl, 0, .notLower, 0, 0⟩
def F.fabCtl.fabVdcFlush : Field := ⟨0x00300008, 1, 1, .wo, 0, .all, 0, 0⟩
def F.fabCtl.fabLock : Field := ⟨0x00300008, 0, 1, .rw, 0, .sticky, 0, 0⟩
/-! FAB_PKG_CTL (R118) -/
def F.fabPkgCtl.fabPkgHandle : Field := ⟨0x00300010, 32, 32, .rw, 0, .all, 0, 0⟩
def F.fabPkgCtl.fabPkgStatus : Field := ⟨0x00300010, 24, 8, .ro, 0, .all, 0, 0⟩
def F.fabPkgCtl.fabPkgLoad : Field := ⟨0x00300010, 0, 1, .wo, 0, .all, 0, 0⟩
/-! FAB_RGN_CTL (R121) -/
def F.fabRgnCtl.imageHandle : Field := ⟨0x01000000, 32, 32, .rw, 0, .all, 524288, 0⟩
def F.fabRgnCtl.cmd : Field := ⟨0x01000000, 0, 4, .wo, 0, .all, 524288, 0⟩
/-! FAB_RGN_STATE (R122) -/
def F.fabRgnState.loadedHandle : Field := ⟨0x01000008, 32, 32, .ro, 0, .all, 524288, 0⟩
def F.fabRgnState.cmdStatus : Field := ⟨0x01000008, 24, 8, .ro, 0, .all, 524288, 0⟩
def F.fabRgnState.bound : Field := ⟨0x01000008, 16, 1, .ro, 0, .all, 524288, 0⟩
def F.fabRgnState.composition : Field := ⟨0x01000008, 8, 8, .ro, 0, .all, 524288, 0⟩
def F.fabRgnState.state : Field := ⟨0x01000008, 0, 3, .ro, 0, .all, 524288, 0⟩
/-! FAB_RGN_FAULT (R123) -/
def F.fabRgnFault.cluster : Field := ⟨0x01000010, 16, 4, .ro, 0, .all, 524288, 0⟩
def F.fabRgnFault.cause : Field := ⟨0x01000010, 0, 8, .ro, 0, .all, 524288, 0⟩
/-! FAB_RGN_FLAGS (R124) -/
def F.fabRgnFlags.accOverflow : Field := ⟨0x01000018, 3, 1, .rw1c, 0, .all, 524288, 0⟩
def F.fabRgnFlags.nanScale : Field := ⟨0x01000018, 2, 1, .rw1c, 0, .all, 524288, 0⟩
def F.fabRgnFlags.nanLost : Field := ⟨0x01000018, 1, 1, .rw1c, 0, .all, 524288, 0⟩
def F.fabRgnFlags.saturated : Field := ⟨0x01000018, 0, 1, .rw1c, 0, .all, 524288, 0⟩
/-! FAB_RGN_MAP (R125) -/
def F.fabRgnMap.spareLeft : Field := ⟨0x01000020, 8, 1, .ro, 0, .all, 524288, 0⟩
def F.fabRgnMap.excluded : Field := ⟨0x01000020, 0, 4, .ro, 0, .all, 524288, 0⟩
/-! FAB_RGN_NOTIFY (R126) -/
def F.fabRgnNotify.vector : Field := ⟨0x01000028, 8, 6, .rw, 0, .all, 524288, 0⟩
def F.fabRgnNotify.enable : Field := ⟨0x01000028, 0, 1, .rw, 0, .all, 524288, 0⟩
/-! STK_OCHRE_CFG (R157) -/
def F.stkOchreCfg.odtBase : Field := ⟨0x00480000, 26, 22, .rwl, 0, .inInterleaved, 0, 0⟩
def F.stkOchreCfg.interleavedGib : Field := ⟨0x00480000, 0, 6, .rwl, 0, .interleaved, 0, 0⟩
/-! STK_OBJ_SQ_BASE (R159) -/
def F.stkObjSqBase.base : Field := ⟨0x00480010, 12, 52, .rw, 0, .all, 0, 0⟩
/-! STK_OBJ_QSIZE (R159) -/
def F.stkObjQsize.cqLog2 : Field := ⟨0x00480018, 8, 8, .rw, 6, (.range 6 16), 0, 0⟩
def F.stkObjQsize.sqLog2 : Field := ⟨0x00480018, 0, 8, .rw, 6, (.range 6 16), 0, 0⟩
/-! STK_OBJ_CQ_BASE (R159) -/
def F.stkObjCqBase.base : Field := ⟨0x00480020, 12, 52, .rw, 0, .all, 0, 0⟩
/-! STK_OBJ_SQ_TAIL (R159) -/
def F.stkObjSqTail.tail : Field := ⟨0x00480028, 0, 16, .rw, 0, .all, 0, 0⟩
/-! STK_OBJ_SQ_HEAD (R159) -/
def F.stkObjSqHead.head : Field := ⟨0x00480030, 0, 16, .ro, 0, .all, 0, 0⟩
/-! STK_OBJ_CQ_HEAD (R159) -/
def F.stkObjCqHead.head : Field := ⟨0x00480038, 0, 16, .rw, 0, .all, 0, 0⟩
/-! STK_OBJ_NOTIFY (R159) -/
def F.stkObjNotify.vector : Field := ⟨0x00480040, 8, 6, .rw, 0, .all, 0, 0⟩
def F.stkObjNotify.enable : Field := ⟨0x00480040, 0, 1, .rw, 0, .all, 0, 0⟩
/-! STK_WP_VIOLATION (R160) -/
def F.stkWpViolation.granule : Field := ⟨0x00480048, 12, 36, .ro, 0, .all, 0, 0⟩
def F.stkWpViolation.overflow : Field := ⟨0x00480048, 1, 1, .rw1c, 0, .all, 0, 0⟩
def F.stkWpViolation.valid : Field := ⟨0x00480048, 0, 1, .rw1c, 0, .all, 0, 0⟩
/-! STK_XTS_SLOT (R161) -/
def F.stkXtsSlot.status : Field := ⟨0x00480050, 24, 2, .ro, 0, .all, 0, 0⟩
def F.stkXtsSlot.slot : Field := ⟨0x00480050, 8, 10, .rw, 0, .all, 0, 0⟩
def F.stkXtsSlot.cmd : Field := ⟨0x00480050, 0, 2, .wo, 0, .all, 0, 0⟩
/-! STK_PAGE_REC_BASE (R187) -/
def F.stkPageRecBase.base : Field := ⟨0x00490000, 12, 36, .rwl, 0, .inInterleaved, 0, 0⟩
/-! STK_MANIFEST_BASE (R188) -/
def F.stkManifestBase.base : Field := ⟨0x00490008, 13, 35, .rwl, 0, .inInterleaved, 0, 0⟩
/-! STK_MANIFEST_UNITS (R188) -/
def F.stkManifestUnits.free : Field := ⟨0x00490010, 32, 32, .ro, 0, .all, 0, 0⟩
def F.stkManifestUnits.count : Field := ⟨0x00490010, 0, 32, .rwl, 0, .all, 0, 0⟩
/-! STK_LEASE_EPOCH (R189) -/
def F.stkLeaseEpoch.oldest : Field := ⟨0x00490018, 32, 32, .ro, 0, .all, 0, 0⟩
def F.stkLeaseEpoch.current : Field := ⟨0x00490018, 0, 32, .ro, 0, .all, 0, 0⟩
/-! STK_PAGE_STATS (R190) -/
def F.stkPageStats.retiredWaiting : Field := ⟨0x00490020, 32, 32, .ro, 0, .all, 0, 0⟩
def F.stkPageStats.leasesHeld : Field := ⟨0x00490020, 16, 13, .ro, 0, .all, 0, 0⟩
def F.stkPageStats.expired : Field := ⟨0x00490020, 0, 16, .ro, 0, .all, 0, 0⟩
/-! STK_PAGE_INTEGRITY (R191) -/
def F.stkPageIntegrity.granule : Field := ⟨0x00490028, 32, 32, .ro, 0, .all, 0, 0⟩
def F.stkPageIntegrity.overflow : Field := ⟨0x00490028, 1, 1, .rw1c, 0, .all, 0, 0⟩
def F.stkPageIntegrity.valid : Field := ⟨0x00490028, 0, 1, .rw1c, 0, .all, 0, 0⟩
/-! STK_CAPS (R218) -/
def F.stkCaps.maxRows : Field := ⟨0x00400000, 32, 8, .ro, 64, .all, 0, 0⟩
def F.stkCaps.passRows : Field := ⟨0x00400000, 24, 8, .ro, 16, .all, 0, 0⟩
def F.stkCaps.slots : Field := ⟨0x00400000, 16, 8, .ro, 16, .all, 0, 0⟩
def F.stkCaps.cores : Field := ⟨0x00400000, 8, 8, .ro, 4, .all, 0, 0⟩
def F.stkCaps.stacks : Field := ⟨0x00400000, 0, 8, .ro, 32, .all, 0, 0⟩
/-! STK_UCODE_CTL (R219) -/
def F.stkUcodeCtl.handle : Field := ⟨0x00400008, 32, 32, .rw, 0, .all, 0, 0⟩
def F.stkUcodeCtl.status : Field := ⟨0x00400008, 24, 8, .ro, 0, .all, 0, 0⟩
def F.stkUcodeCtl.composition : Field := ⟨0x00400008, 8, 8, .rw, 0, .all, 0, 0⟩
def F.stkUcodeCtl.cmd : Field := ⟨0x00400008, 0, 2, .wo, 0, .all, 0, 0⟩
/-! STK_UCODE_SLOT (R220) -/
def F.stkUcodeSlot.handle : Field := ⟨0x00400100, 32, 32, .ro, 0, .all, 8, 0⟩
def F.stkUcodeSlot.cause : Field := ⟨0x00400100, 24, 8, .ro, 0, .all, 8, 0⟩
def F.stkUcodeSlot.users : Field := ⟨0x00400100, 8, 8, .ro, 0, .all, 8, 0⟩
def F.stkUcodeSlot.state : Field := ⟨0x00400100, 0, 3, .ro, 0, .all, 8, 0⟩
/-! STK_COMP_UCODE (R222) -/
def F.stkCompUcode.attached : Field := ⟨0x00401000, 8, 1, .ro, 0, .all, 8, 0⟩
def F.stkCompUcode.slot : Field := ⟨0x00401000, 0, 4, .ro, 0, .all, 8, 0⟩
/-! STK_CORE_STATUS (R223) -/
def F.stkCoreStatus.passes : Field := ⟨0x00400200, 32, 32, .ro, 0, .all, 8, 0⟩
def F.stkCoreStatus.coreOk : Field := ⟨0x00400200, 0, 4, .ro, 15, .all, 8, 0⟩
/-! STK_ATTN_ERR (R224) -/
def F.stkAttnErr.granule : Field := ⟨0x00400300, 32, 32, .ro, 0, .all, 0, 0⟩
def F.stkAttnErr.overflow : Field := ⟨0x00400300, 1, 1, .rw1c, 0, .all, 0, 0⟩
def F.stkAttnErr.valid : Field := ⟨0x00400300, 0, 1, .rw1c, 0, .all, 0, 0⟩
/-! STK_ATTN_NOTIFY (R224) -/
def F.stkAttnNotify.vector : Field := ⟨0x00400308, 8, 6, .rw, 0, .all, 0, 0⟩
def F.stkAttnNotify.enable : Field := ⟨0x00400308, 0, 1, .rw, 0, .all, 0, 0⟩
/-! RQT_CAPS (R255) -/
def F.rqtCaps.tenants : Field := ⟨0x00500000, 32, 13, .ro, 4096, .all, 0, 0⟩
def F.rqtCaps.entries : Field := ⟨0x00500000, 0, 32, .ro, 65536, .all, 0, 0⟩
/-! RQT_CTL (R256) -/
def F.rqtCtl.notifyEnable : Field := ⟨0x00500008, 16, 1, .rw, 0, .all, 0, 0⟩
def F.rqtCtl.vector : Field := ⟨0x00500008, 8, 6, .rw, 0, .all, 0, 0⟩
def F.rqtCtl.rqtLock : Field := ⟨0x00500008, 0, 1, .rw, 0, .sticky, 0, 0⟩
/-! RQT_STATUS (R257) -/
def F.rqtStatus.inUse : Field := ⟨0x00500010, 32, 17, .ro, 0, .all, 0, 0⟩
def F.rqtStatus.deadlineMisses : Field := ⟨0x00500010, 0, 32, .ro, 0, .all, 0, 0⟩
/-! RQT_CMD_FAULT (R258) -/
def F.rqtCmdFault.tenant : Field := ⟨0x00500018, 32, 12, .ro, 0, .all, 0, 0⟩
def F.rqtCmdFault.sqIndex : Field := ⟨0x00500018, 16, 16, .ro, 0, .all, 0, 0⟩
def F.rqtCmdFault.status : Field := ⟨0x00500018, 8, 8, .ro, 0, .all, 0, 0⟩
def F.rqtCmdFault.overflow : Field := ⟨0x00500018, 1, 1, .rw1c, 0, .all, 0, 0⟩
def F.rqtCmdFault.valid : Field := ⟨0x00500018, 0, 1, .rw1c, 0, .all, 0, 0⟩
/-! RQT_T_SQ_BASE (R259) -/
def F.rqtTSqBase.base : Field := ⟨0x00501000, 12, 52, .rw, 0, .all, 64, 0⟩
/-! RQT_T_CQ_BASE (R259) -/
def F.rqtTCqBase.base : Field := ⟨0x00501008, 12, 52, .rw, 0, .all, 64, 0⟩
/-! RQT_T_TR_BASE (R259) -/
def F.rqtTTrBase.base : Field := ⟨0x00501010, 12, 52, .rw, 0, .all, 64, 0⟩
/-! RQT_T_QSIZE (R259) -/
def F.rqtTQsize.trLog2 : Field := ⟨0x00501018, 16, 8, .rw, 10, (.range 6 20), 64, 0⟩
def F.rqtTQsize.cqLog2 : Field := ⟨0x00501018, 8, 8, .rw, 6, (.range 6 16), 64, 0⟩
def F.rqtTQsize.sqLog2 : Field := ⟨0x00501018, 0, 8, .rw, 6, (.range 6 16), 64, 0⟩
/-! RQT_T_CTL (R259) -/
def F.rqtTCtl.pasid : Field := ⟨0x00501020, 44, 20, .rw, 0, .all, 64, 0⟩
def F.rqtTCtl.maxEntries : Field := ⟨0x00501020, 27, 17, .rw, 0, (.range 0 65536), 64, 0⟩
def F.rqtTCtl.coalesceUs : Field := ⟨0x00501020, 16, 8, .rw, 0, .all, 64, 0⟩
def F.rqtTCtl.coalesceRecords : Field := ⟨0x00501020, 8, 8, .rw, 1, .all, 64, 0⟩
def F.rqtTCtl.intEnable : Field := ⟨0x00501020, 1, 1, .rw, 0, .all, 64, 0⟩
def F.rqtTCtl.enable : Field := ⟨0x00501020, 0, 1, .rw, 0, .all, 64, 0⟩
/-! RQT_T_HEADS (R259) -/
def F.rqtTHeads.trTail : Field := ⟨0x00501028, 32, 20, .ro, 0, .all, 64, 0⟩
def F.rqtTHeads.cqTail : Field := ⟨0x00501028, 16, 16, .ro, 0, .all, 64, 0⟩
def F.rqtTHeads.sqHead : Field := ⟨0x00501028, 0, 16, .ro, 0, .all, 64, 0⟩
/-! RQT_T_STATUS (R259) -/
def F.rqtTStatus.inUse : Field := ⟨0x00501030, 0, 17, .ro, 0, .all, 64, 0⟩
/-! RQT_SPEC_CTL (R282) -/
def F.rqtSpecCtl.probeInterval : Field := ⟨0x00500020, 16, 8, .rw, 16, .all, 0, 0⟩
def F.rqtSpecCtl.recoverCount : Field := ⟨0x00500020, 8, 8, .rw, 2, (.range 1 255), 0, 0⟩
def F.rqtSpecCtl.rejectLimit : Field := ⟨0x00500020, 0, 8, .rw, 4, (.range 1 255), 0, 0⟩
/-! RQT_SPEC_STATS (R283) -/
def F.rqtSpecStats.proposed : Field := ⟨0x00500028, 32, 32, .ro, 0, .all, 0, 0⟩
def F.rqtSpecStats.accepted : Field := ⟨0x00500028, 0, 32, .ro, 0, .all, 0, 0⟩
/-! RQT_SPEC_ERR (R284) -/
def F.rqtSpecErr.tenant : Field := ⟨0x00500030, 32, 12, .ro, 0, .all, 0, 0⟩
def F.rqtSpecErr.refused : Field := ⟨0x00500030, 1, 31, .ro, 0, .all, 0, 0⟩
def F.rqtSpecErr.valid : Field := ⟨0x00500030, 0, 1, .rw1c, 0, .all, 0, 0⟩
/-! RQT_T_CAND_BASE (R285) -/
def F.rqtTCandBase.base : Field := ⟨0x00580000, 10, 54, .rw, 0, .all, 16, 0⟩
/-! RQT_T_SPEC_CTL (R285) -/
def F.rqtTSpecCtl.candLog2 : Field := ⟨0x00580008, 8, 5, .rw, 0, (.range 0 16), 16, 0⟩
def F.rqtTSpecCtl.source : Field := ⟨0x00580008, 0, 2, .rw, 1, .all, 16, 0⟩
/-! PFX_CAPS (R306) -/
def F.pfxCaps.domainSlots : Field := ⟨0x00600000, 16, 16, .ro, 4096, .all, 0, 0⟩
def F.pfxCaps.ways : Field := ⟨0x00600000, 8, 8, .ro, 4, .all, 0, 0⟩
def F.pfxCaps.bucketsLog2 : Field := ⟨0x00600000, 0, 8, .ro, 24, .all, 0, 0⟩
/-! PFX_TABLE_BASE (R307) -/
def F.pfxTableBase.base : Field := ⟨0x00600008, 31, 17, .rwl, 0, .all, 0, 0⟩
/-! PFX_BLOCK_BASE (R307) -/
def F.pfxBlockBase.base : Field := ⟨0x00600010, 10, 38, .rwl, 0, .all, 0, 0⟩
/-! PFX_BLOCK_COUNT (R307) -/
def F.pfxBlockCount.free : Field := ⟨0x00600018, 32, 32, .ro, 0, .all, 0, 0⟩
def F.pfxBlockCount.count : Field := ⟨0x00600018, 0, 32, .rwl, 0, (.range 4097 4294967295), 0, 0⟩
/-! PFX_CTL (R307) -/
def F.pfxCtl.vector : Field := ⟨0x00600020, 8, 6, .rw, 0, .all, 0, 0⟩
def F.pfxCtl.notifyEnable : Field := ⟨0x00600020, 1, 1, .rw, 0, .all, 0, 0⟩
def F.pfxCtl.pfxLock : Field := ⟨0x00600020, 0, 1, .rw, 0, .sticky, 0, 0⟩
/-! PFX_DOMAIN_CTL (R308) -/
def F.pfxDomainCtl.domain : Field := ⟨0x00600028, 48, 16, .rw, 0, (.range 1 65535), 0, 0⟩
def F.pfxDomainCtl.owner : Field := ⟨0x00600028, 32, 12, .rw, 0, .all, 0, 0⟩
def F.pfxDomainCtl.status : Field := ⟨0x00600028, 24, 4, .ro, 0, .all, 0, 0⟩
def F.pfxDomainCtl.slot : Field := ⟨0x00600028, 8, 12, .rw, 0, .all, 0, 0⟩
def F.pfxDomainCtl.cmd : Field := ⟨0x00600028, 0, 3, .wo, 0, .all, 0, 0⟩
/-! PFX_STATS (R309) -/
def F.pfxStats.hits : Field := ⟨0x00600058, 32, 32, .ro, 0, .all, 0, 0⟩
def F.pfxStats.inserts : Field := ⟨0x00600058, 0, 32, .ro, 0, .all, 0, 0⟩
/-! PFX_EVENTS (R309) -/
def F.pfxEvents.collisions : Field := ⟨0x00600060, 48, 16, .ro, 0, .all, 0, 0⟩
def F.pfxEvents.pinnedFull : Field := ⟨0x00600060, 32, 16, .ro, 0, .all, 0, 0⟩
def F.pfxEvents.denied : Field := ⟨0x00600060, 16, 16, .ro, 0, .all, 0, 0⟩
def F.pfxEvents.insertStops : Field := ⟨0x00600060, 0, 16, .ro, 0, .all, 0, 0⟩
/-! PFX_T_CTL (R310) -/
def F.pfxTCtl.noInsert : Field := ⟨0x00601000, 2, 1, .rw, 0, .all, 8, 0⟩
def F.pfxTCtl.pinInsert : Field := ⟨0x00601000, 1, 1, .rw, 0, .all, 8, 0⟩
def F.pfxTCtl.fine : Field := ⟨0x00601000, 0, 1, .rw, 0, .all, 8, 0⟩
/-! XFR_CAPS (R348) -/
def F.xfrCaps.ledgersMax : Field := ⟨0x00700000, 32, 32, .ro, 1048576, .all, 0, 0⟩
def F.xfrCaps.transfers : Field := ⟨0x00700000, 0, 16, .ro, 2048, .all, 0, 0⟩
/-! XFR_ADDR_LO (R348) -/
def F.xfrAddrLo.addr : Field := ⟨0x00700008, 0, 64, .rwl, 0, .all, 0, 0⟩
/-! XFR_ADDR_HI (R348) -/
def F.xfrAddrHi.addr : Field := ⟨0x00700010, 0, 64, .rwl, 0, .all, 0, 0⟩
/-! XFR_CTL (R348) -/
def F.xfrCtl.udpPort : Field := ⟨0x00700018, 48, 16, .rwl, 47000, .all, 0, 0⟩
def F.xfrCtl.auditUs : Field := ⟨0x00700018, 32, 16, .rw, 500, (.range 1 65535), 0, 0⟩
def F.xfrCtl.logBatch : Field := ⟨0x00700018, 24, 8, .rw, 64, (.range 1 64), 0, 0⟩
def F.xfrCtl.offerTries : Field := ⟨0x00700018, 16, 8, .rw, 3, (.range 1 255), 0, 0⟩
def F.xfrCtl.remotePrefix : Field := ⟨0x00700018, 2, 1, .rw, 0, .all, 0, 0⟩
def F.xfrCtl.notifyEnable : Field := ⟨0x00700018, 1, 1, .rw, 0, .all, 0, 0⟩
def F.xfrCtl.xfrLock : Field := ⟨0x00700018, 0, 1, .rw, 0, .sticky, 0, 0⟩
/-! XFR_RTO (R348) -/
def F.xfrRto.retries : Field := ⟨0x00700020, 56, 8, .rw, 8, (.range 1 255), 0, 0⟩
def F.xfrRto.ethUs : Field := ⟨0x00700020, 16, 16, .rw, 200, .all, 0, 0⟩
def F.xfrRto.roaleUs : Field := ⟨0x00700020, 0, 16, .rw, 20, .all, 0, 0⟩
/-! XFR_LEDGER_BASE (R348) -/
def F.xfrLedgerBase.base : Field := ⟨0x00700028, 12, 36, .rwl, 0, .all, 0, 0⟩
/-! XFR_LEDGER_COUNT (R348) -/
def F.xfrLedgerCount.inUse : Field := ⟨0x00700030, 32, 32, .ro, 0, .all, 0, 0⟩
def F.xfrLedgerCount.count : Field := ⟨0x00700030, 0, 21, .rwl, 0, (.range 0 1048576), 0, 0⟩
/-! XFR_BLOCK_AREA_BASE (R348) -/
def F.xfrBlockAreaBase.base : Field := ⟨0x00700038, 12, 36, .rwl, 0, .all, 0, 0⟩
/-! XFR_BLOCK_AREA_SIZE (R348) -/
def F.xfrBlockAreaSize.free : Field := ⟨0x00700040, 32, 32, .ro, 0, .all, 0, 0⟩
def F.xfrBlockAreaSize.granules : Field := ⟨0x00700040, 0, 32, .rwl, 0, .all, 0, 0⟩
/-! XFR_RECOVER_ID (R348) -/
def F.xfrRecoverId.requestId : Field := ⟨0x00700048, 0, 64, .rw, 0, .all, 0, 0⟩
/-! XFR_RECOVER_TARGET_LO (R348) -/
def F.xfrRecoverTargetLo.addr : Field := ⟨0x00700050, 0, 64, .rw, 0, .all, 0, 0⟩
/-! XFR_RECOVER_TARGET_HI (R348) -/
def F.xfrRecoverTargetHi.addr : Field := ⟨0x00700058, 0, 64, .rw, 0, .all, 0, 0⟩
/-! XFR_RECOVER_FAILED_LO (R348) -/
def F.xfrRecoverFailedLo.addr : Field := ⟨0x00700060, 0, 64, .rw, 0, .all, 0, 0⟩
/-! XFR_RECOVER_FAILED_HI (R348) -/
def F.xfrRecoverFailedHi.addr : Field := ⟨0x00700068, 0, 64, .rw, 0, .all, 0, 0⟩
/-! XFR_RECOVER_CTL (R348) -/
def F.xfrRecoverCtl.count : Field := ⟨0x00700070, 32, 32, .ro, 0, .all, 0, 0⟩
def F.xfrRecoverCtl.status : Field := ⟨0x00700070, 8, 8, .ro, 0, .all, 0, 0⟩
def F.xfrRecoverCtl.cmd : Field := ⟨0x00700070, 0, 2, .wo, 0, .all, 0, 0⟩
/-! XFR_STATUS (R348) -/
def F.xfrStatus.inFlight : Field := ⟨0x00700078, 48, 16, .ro, 0, .all, 0, 0⟩
def F.xfrStatus.audits : Field := ⟨0x00700078, 0, 32, .ro, 0, .all, 0, 0⟩
/-! XFR_LOST_ID (R348) -/
def F.xfrLostId.requestId : Field := ⟨0x00700080, 0, 64, .ro, 0, .all, 0, 0⟩
/-! XFR_LOST (R348) -/
def F.xfrLost.overflow : Field := ⟨0x00700088, 1, 1, .rw1c, 0, .all, 0, 0⟩
def F.xfrLost.valid : Field := ⟨0x00700088, 0, 1, .rw1c, 0, .all, 0, 0⟩
/-! XFR_NOTIFY (R348) -/
def F.xfrNotify.vector : Field := ⟨0x00700090, 8, 6, .rw, 0, .all, 0, 0⟩
/-! XFR_MEMBER_LO (R348) -/
def F.xfrMemberLo.addr : Field := ⟨0x00700100, 0, 64, .rw, 0, .all, 16, 0⟩
/-! XFR_MEMBER_HI (R348) -/
def F.xfrMemberHi.addr : Field := ⟨0x00700108, 0, 64, .rw, 0, .all, 16, 0⟩
/-! STK_CAP_CTL (R365) -/
def F.stkCapCtl.manifestLow : Field := ⟨0x004a0000, 32, 32, .rw, 1024, .all, 0, 0⟩
def F.stkCapCtl.notifyEnable : Field := ⟨0x004a0000, 24, 1, .rw, 0, .all, 0, 0⟩
def F.stkCapCtl.vector : Field := ⟨0x004a0000, 16, 6, .rw, 0, .all, 0, 0⟩
def F.stkCapCtl.swapTier : Field := ⟨0x004a0000, 8, 3, .rw, 2, (.oneOf [2, 4]), 0, 0⟩
def F.stkCapCtl.preemptRegions : Field := ⟨0x004a0000, 0, 8, .rw, 16, (.range 0 65), 0, 0⟩
/-! STK_REQ_SIDE_BASE (R366) -/
def F.stkReqSideBase.base : Field := ⟨0x004a0008, 12, 36, .rwl, 0, .all, 0, 0⟩
/-! STK_SWAP_SLATE_BASE (R366) -/
def F.stkSwapSlateBase.base : Field := ⟨0x004a0010, 12, 36, .rwl, 0, .all, 0, 0⟩
/-! STK_SWAP_SLATE_SIZE (R366) -/
def F.stkSwapSlateSize.free : Field := ⟨0x004a0018, 32, 32, .ro, 0, .all, 0, 0⟩
def F.stkSwapSlateSize.granules : Field := ⟨0x004a0018, 0, 32, .rwl, 0, .all, 0, 0⟩
/-! STK_SWAP_HOST_BASE (R366) -/
def F.stkSwapHostBase.base : Field := ⟨0x004a0020, 12, 52, .rwl, 0, .all, 0, 0⟩
/-! STK_SWAP_HOST_SIZE (R366) -/
def F.stkSwapHostSize.free : Field := ⟨0x004a0028, 32, 32, .ro, 0, .all, 0, 0⟩
def F.stkSwapHostSize.granules : Field := ⟨0x004a0028, 0, 32, .rwl, 0, .all, 0, 0⟩
/-! STK_CAP_STATS (R366) -/
def F.stkCapStats.droppedBlocks : Field := ⟨0x004a0030, 32, 32, .ro, 0, .all, 0, 0⟩
def F.stkCapStats.parks : Field := ⟨0x004a0030, 0, 32, .ro, 0, .all, 0, 0⟩
/-! STK_CAP_WM (R367) -/
def F.stkCapWm.high : Field := ⟨0x004a1000, 32, 32, .rw, 128, .all, 8, 0⟩
def F.stkCapWm.low : Field := ⟨0x004a1000, 0, 32, .rw, 64, .all, 8, 0⟩
/-! STK_CAP_PRESSURE (R368) -/
def F.stkCapPressure.stacks : Field := ⟨0x004a2000, 0, 32, .ro, 0, .all, 8, 0⟩
/-! COD_CAPS (R386) -/
def F.codCaps.queueKib : Field := ⟨0x00800000, 16, 16, .ro, 8192, .all, 0, 0⟩
def F.codCaps.gcmSlots : Field := ⟨0x00800000, 8, 8, .ro, 255, .all, 0, 0⟩
def F.codCaps.tableSlots : Field := ⟨0x00800000, 0, 8, .ro, 4, .all, 0, 0⟩
/-! COD_CTL (R386) -/
def F.codCtl.notifyEnable : Field := ⟨0x00800008, 24, 1, .rw, 0, .all, 0, 0⟩
def F.codCtl.vector : Field := ⟨0x00800008, 16, 6, .rw, 0, .all, 0, 0⟩
def F.codCtl.actSlot : Field := ⟨0x00800008, 12, 2, .rw, 0, .all, 0, 0⟩
def F.codCtl.kvSlot : Field := ⟨0x00800008, 8, 2, .rw, 0, .all, 0, 0⟩
def F.codCtl.encMask : Field := ⟨0x00800008, 4, 4, .rw, 0, .all, 0, 0⟩
def F.codCtl.codLock : Field := ⟨0x00800008, 0, 1, .rw, 0, .sticky, 0, 0⟩
/-! COD_TABLE_CTL (R386) -/
def F.codTableCtl.status : Field := ⟨0x00800010, 24, 8, .ro, 0, .all, 0, 0⟩
def F.codTableCtl.tag : Field := ⟨0x00800010, 16, 8, .rw, 0, (.range 1 255), 0, 0⟩
def F.codTableCtl.slot : Field := ⟨0x00800010, 4, 2, .rw, 0, .all, 0, 0⟩
def F.codTableCtl.cmd : Field := ⟨0x00800010, 0, 2, .wo, 0, .all, 0, 0⟩
/-! COD_STATS (R386) -/
def F.codStats.rawBlocks : Field := ⟨0x00800018, 32, 32, .ro, 0, .all, 0, 0⟩
def F.codStats.codedBlocks : Field := ⟨0x00800018, 0, 32, .ro, 0, .all, 0, 0⟩
/-! COD_ERRORS (R386) -/
def F.codErrors.size : Field := ⟨0x00800020, 48, 16, .ro, 0, .all, 0, 0⟩
def F.codErrors.tag : Field := ⟨0x00800020, 32, 16, .ro, 0, .all, 0, 0⟩
def F.codErrors.gcm : Field := ⟨0x00800020, 16, 16, .ro, 0, .all, 0, 0⟩
def F.codErrors.header : Field := ⟨0x00800020, 0, 16, .ro, 0, .all, 0, 0⟩
/-! COD_GCM_CTL (R386) -/
def F.codGcmCtl.gen : Field := ⟨0x00800028, 32, 24, .ro, 0, .all, 0, 0⟩
def F.codGcmCtl.status : Field := ⟨0x00800028, 24, 2, .ro, 0, .all, 0, 0⟩
def F.codGcmCtl.slot : Field := ⟨0x00800028, 8, 8, .rw, 0, .all, 0, 0⟩
def F.codGcmCtl.cmd : Field := ⟨0x00800028, 0, 2, .wo, 0, .all, 0, 0⟩
/-! COD_GCM_PEER_LO (R386) -/
def F.codGcmPeerLo.addr : Field := ⟨0x00800030, 0, 64, .rw, 0, .all, 0, 0⟩
/-! COD_GCM_PEER_HI (R386) -/
def F.codGcmPeerHi.addr : Field := ⟨0x00800038, 0, 64, .rw, 0, .all, 0, 0⟩
/-! COD_GCM_BLOB (R386) -/
def F.codGcmBlob.data : Field := ⟨0x00800040, 0, 64, .wo, 0, .all, 8, 0⟩
/-! COD_TABLE_DATA (R386) -/
def F.codTableData.data : Field := ⟨0x00800080, 0, 64, .wo, 0, .all, 8, 0⟩
/-! COD_SLOT (R386) -/
def F.codSlot.inFlight : Field := ⟨0x00800100, 32, 32, .ro, 0, .all, 8, 0⟩
def F.codSlot.tag : Field := ⟨0x00800100, 8, 8, .ro, 0, .all, 8, 0⟩
def F.codSlot.loaded : Field := ⟨0x00800100, 0, 1, .ro, 0, .all, 8, 0⟩
/-! COD_PORT_CTL (R386) -/
def F.codPortCtl.stageB : Field := ⟨0x00800200, 32, 1, .rw, 0, .all, 16, 0⟩
def F.codPortCtl.bypassHigh : Field := ⟨0x00800200, 16, 16, .rw, 6144, (.range 0 8192), 16, 0⟩
def F.codPortCtl.bypassLow : Field := ⟨0x00800200, 0, 16, .rw, 2048, .all, 16, 0⟩
/-! COD_PORT_STATUS (R386) -/
def F.codPortStatus.occupancy : Field := ⟨0x00800208, 32, 16, .ro, 0, .all, 16, 0⟩
def F.codPortStatus.bypass : Field := ⟨0x00800208, 0, 1, .ro, 0, .all, 16, 0⟩
/-! COD_T_PROTECT (R386) -/
def F.codTProtect.tenants : Field := ⟨0x00801000, 0, 64, .rw, 0, .all, 8, 0⟩
/-! SCH_CAPS (R409) -/
def F.schCaps.shares : Field := ⟨0x00900000, 32, 16, .ro, 16384, .all, 0, 0⟩
def F.schCaps.saveSlots : Field := ⟨0x00900000, 8, 8, .ro, 4, .all, 0, 0⟩
def F.schCaps.compositions : Field := ⟨0x00900000, 0, 8, .ro, 255, .all, 0, 0⟩
/-! SCH_CTL (R409) -/
def F.schCtl.notifyEnable : Field := ⟨0x00900008, 16, 1, .rw, 0, .all, 0, 0⟩
def F.schCtl.vector : Field := ⟨0x00900008, 8, 6, .rw, 0, .all, 0, 0⟩
def F.schCtl.schLock : Field := ⟨0x00900008, 0, 1, .rw, 0, .sticky, 0, 0⟩
/-! SCH_SAVE_BASE (R409) -/
def F.schSaveBase.base : Field := ⟨0x00900010, 30, 18, .rwl, 0, .inInterleaved, 0, 0⟩
/-! SCH_BIND_REGIONS (R409) -/
def F.schBindRegions.regions : Field := ⟨0x00900018, 0, 64, .rw, 0, .all, 0, 0⟩
/-! SCH_BIND_STACKS (R409) -/
def F.schBindStacks.stacks : Field := ⟨0x00900020, 0, 32, .rw, 0, .all, 0, 0⟩
/-! SCH_BIND_KV (R409) -/
def F.schBindKv.kvGranules : Field := ⟨0x00900028, 32, 32, .rw, 0, .all, 0, 0⟩
def F.schBindKv.kvOffset : Field := ⟨0x00900028, 0, 32, .rw, 0, .all, 0, 0⟩
/-! SCH_BIND_CACHE (R409) -/
def F.schBindCache.umberGib : Field := ⟨0x00900030, 32, 32, .rw, 0, .all, 0, 0⟩
def F.schBindCache.slateGib : Field := ⟨0x00900030, 0, 16, .rw, 0, .all, 0, 0⟩
/-! SCH_COMP_CMD (R409) -/
def F.schCompCmd.status : Field := ⟨0x00900038, 32, 8, .ro, 0, .all, 0, 0⟩
def F.schCompCmd.composition : Field := ⟨0x00900038, 16, 8, .rw, 0, .all, 0, 0⟩
def F.schCompCmd.role : Field := ⟨0x00900038, 8, 2, .rw, 0, .all, 0, 0⟩
def F.schCompCmd.cmd : Field := ⟨0x00900038, 0, 3, .wo, 0, .all, 0, 0⟩
/-! SCH_SHARE_CMD (R409) -/
def F.schShareCmd.weight : Field := ⟨0x00900040, 48, 16, .rw, 0, .all, 0, 0⟩
def F.schShareCmd.tenant : Field := ⟨0x00900040, 32, 12, .rw, 0, .all, 0, 0⟩
def F.schShareCmd.status : Field := ⟨0x00900040, 24, 8, .ro, 0, .all, 0, 0⟩
def F.schShareCmd.composition : Field := ⟨0x00900040, 16, 8, .rw, 0, .all, 0, 0⟩
def F.schShareCmd.cmd : Field := ⟨0x00900040, 0, 1, .wo, 0, .all, 0, 0⟩
/-! SCH_STATS (R409) -/
def F.schStats.switches : Field := ⟨0x00900048, 32, 32, .ro, 0, .all, 0, 0⟩
def F.schStats.reissues : Field := ⟨0x00900048, 16, 16, .ro, 0, .all, 0, 0⟩
def F.schStats.noSlot : Field := ⟨0x00900048, 0, 16, .ro, 0, .all, 0, 0⟩
/-! SCH_COMP_CFG (R410) -/
def F.schCompCfg.quantumNs : Field := ⟨0x00901000, 32, 32, .rw, 10000, (.range 1 4294967295), 32, 0⟩
def F.schCompCfg.sliceUs : Field := ⟨0x00901000, 16, 16, .rw, 50, .all, 32, 0⟩
def F.schCompCfg.batch : Field := ⟨0x00901000, 0, 11, .rw, 256, (.range 1 1024), 32, 0⟩
/-! SCH_COMP_STATE (R410) -/
def F.schCompState.bound : Field := ⟨0x00901008, 48, 1, .ro, 0, .all, 32, 0⟩
def F.schCompState.role : Field := ⟨0x00901008, 40, 2, .ro, 0, .all, 32, 0⟩
def F.schCompState.regions : Field := ⟨0x00901008, 32, 8, .ro, 0, .all, 32, 0⟩
def F.schCompState.stacks : Field := ⟨0x00901008, 16, 8, .ro, 0, .all, 32, 0⟩
def F.schCompState.shares : Field := ⟨0x00901008, 0, 16, .ro, 0, .all, 32, 0⟩
/-! SCH_COMP_REGIONS (R410) -/
def F.schCompRegions.regions : Field := ⟨0x00901010, 0, 64, .ro, 0, .all, 32, 0⟩
/-! SCH_COMP_ENGINE (R410) -/
def F.schCompEngine.regionNs : Field := ⟨0x00901018, 0, 64, .ro, 0, .all, 32, 0⟩
/-! LNK_CAPS (R444) -/
def F.lnkCaps.twtEntries : Field := ⟨0x00a00000, 32, 16, .ro, 4096, .all, 0, 0⟩
def F.lnkCaps.outstanding : Field := ⟨0x00a00000, 16, 8, .ro, 64, .all, 0, 0⟩
def F.lnkCaps.members : Field := ⟨0x00a00000, 8, 8, .ro, 16, .all, 0, 0⟩
def F.lnkCaps.ports : Field := ⟨0x00a00000, 0, 8, .ro, 12, .all, 0, 0⟩
/-! LNK_CTL (R444) -/
def F.lnkCtl.replyTimeoutUs : Field := ⟨0x00a00008, 48, 16, .rw, 200, (.range 1 65535), 0, 0⟩
def F.lnkCtl.notifyEnable : Field := ⟨0x00a00008, 24, 1, .rw, 0, .all, 0, 0⟩
def F.lnkCtl.vector : Field := ⟨0x00a00008, 16, 6, .rw, 0, .all, 0, 0⟩
def F.lnkCtl.lnkLock : Field := ⟨0x00a00008, 0, 1, .rw, 0, .sticky, 0, 0⟩
/-! LNK_TRAY (R444) -/
def F.lnkTray.trayId : Field := ⟨0x00a00010, 32, 32, .ro, 0, .all, 0, 0⟩
def F.lnkTray.twinValid : Field := ⟨0x00a00010, 20, 1, .ro, 0, .all, 0, 0⟩
def F.lnkTray.twinMember : Field := ⟨0x00a00010, 16, 4, .ro, 0, .all, 0, 0⟩
def F.lnkTray.enrolled : Field := ⟨0x00a00010, 4, 1, .ro, 0, .all, 0, 0⟩
def F.lnkTray.member : Field := ⟨0x00a00010, 0, 4, .ro, 0, .all, 0, 0⟩
/-! LNK_MEMBER_STATE (R444) -/
def F.lnkMemberState.states : Field := ⟨0x00a00018, 0, 32, .ro, 0, .all, 0, 0⟩
/-! LNK_FAULT (R444) -/
def F.lnkFault.tenant : Field := ⟨0x00a00020, 48, 12, .ro, 0, .all, 0, 0⟩
def F.lnkFault.region : Field := ⟨0x00a00020, 40, 6, .ro, 0, .all, 0, 0⟩
def F.lnkFault.overflow : Field := ⟨0x00a00020, 1, 1, .rw1c, 0, .all, 0, 0⟩
def F.lnkFault.valid : Field := ⟨0x00a00020, 0, 1, .rw1c, 0, .all, 0, 0⟩
/-! LNK_FAULT_ADDR (R444) -/
def F.lnkFaultAddr.trayAddress : Field := ⟨0x00a00028, 0, 52, .ro, 0, .all, 0, 0⟩
/-! LNK_STATS (R444) -/
def F.lnkStats.remoteOps : Field := ⟨0x00a00030, 32, 32, .ro, 0, .all, 0, 0⟩
def F.lnkStats.timeouts : Field := ⟨0x00a00030, 16, 16, .ro, 0, .all, 0, 0⟩
def F.lnkStats.lateReplies : Field := ⟨0x00a00030, 8, 8, .ro, 0, .all, 0, 0⟩
def F.lnkStats.unenrolled : Field := ⟨0x00a00030, 0, 8, .ro, 0, .all, 0, 0⟩
/-! LNK_COH_POISON (R444) -/
def F.lnkCohPoison.line : Field := ⟨0x00a00038, 7, 41, .ro, 0, .all, 0, 0⟩
def F.lnkCohPoison.overflow : Field := ⟨0x00a00038, 1, 1, .rw1c, 0, .all, 0, 0⟩
def F.lnkCohPoison.valid : Field := ⟨0x00a00038, 0, 1, .rw1c, 0, .all, 0, 0⟩
/-! LNK_COH_STATS (R444) -/
def F.lnkCohStats.replacements : Field := ⟨0x00a00040, 32, 32, .ro, 0, .all, 0, 0⟩
def F.lnkCohStats.notPresent : Field := ⟨0x00a00040, 0, 32, .ro, 0, .all, 0, 0⟩
/-! LNK_ROUTE (R444) -/
def F.lnkRoute.hops : Field := ⟨0x00a00100, 16, 2, .ro, 0, .all, 8, 0⟩
def F.lnkRoute.ports : Field := ⟨0x00a00100, 0, 12, .rw, 0, .all, 8, 0⟩
/-! LNK_PORT_CFG (R444) -/
def F.lnkPortCfg.trayQueueKib : Field := ⟨0x00a00200, 16, 16, .rw, 256, (.range 16 4096), 16, 0⟩
def F.lnkPortCfg.forward : Field := ⟨0x00a00200, 8, 1, .rw, 1, .all, 16, 0⟩
def F.lnkPortCfg.medium : Field := ⟨0x00a00200, 4, 2, .rwl, 0, (.range 0 1), 16, 0⟩
def F.lnkPortCfg.mode : Field := ⟨0x00a00200, 0, 2, .rw, 0, (.range 0 2), 16, 0⟩
/-! LNK_PORT_STATUS (R444) -/
def F.lnkPortStatus.replays : Field := ⟨0x00a00208, 48, 16, .ro, 0, .all, 16, 0⟩
def F.lnkPortStatus.fecUncorrected : Field := ⟨0x00a00208, 32, 16, .ro, 0, .all, 16, 0⟩
def F.lnkPortStatus.neighbour : Field := ⟨0x00a00208, 16, 4, .ro, 0, .all, 16, 0⟩
def F.lnkPortStatus.state : Field := ⟨0x00a00208, 0, 3, .ro, 0, .all, 16, 0⟩
/-! LNK_TWT_BASE (R445) -/
def F.lnkTwtBase.base : Field := ⟨0x00a10000, 12, 36, .rw, 0, .all, 32, 0⟩
/-! LNK_TWT_LIMIT (R445) -/
def F.lnkTwtLimit.limit : Field := ⟨0x00a10008, 12, 36, .rw, 0, .all, 32, 0⟩
/-! LNK_TWT_ATTR (R445) -/
def F.lnkTwtAttr.members : Field := ⟨0x00a10010, 48, 16, .rw, 0, .all, 32, 0⟩
def F.lnkTwtAttr.tenant : Field := ⟨0x00a10010, 32, 12, .rw, 0, .all, 32, 0⟩
def F.lnkTwtAttr.tensor : Field := ⟨0x00a10010, 4, 1, .rw, 0, .all, 32, 0⟩
def F.lnkTwtAttr.atomic : Field := ⟨0x00a10010, 3, 1, .rw, 0, .all, 32, 0⟩
def F.lnkTwtAttr.write : Field := ⟨0x00a10010, 2, 1, .rw, 0, .all, 32, 0⟩
def F.lnkTwtAttr.read : Field := ⟨0x00a10010, 1, 1, .rw, 0, .all, 32, 0⟩
def F.lnkTwtAttr.valid : Field := ⟨0x00a10010, 0, 1, .rw, 0, .all, 32, 0⟩
/-! TM_CAPS (R460) -/
def F.tmCaps.rxqKib : Field := ⟨0x00b00000, 48, 16, .ro, 512, .all, 0, 0⟩
def F.tmCaps.meters : Field := ⟨0x00b00000, 32, 16, .ro, 8192, .all, 0, 0⟩
def F.tmCaps.strictKib : Field := ⟨0x00b00000, 16, 16, .ro, 256, .all, 0, 0⟩
def F.tmCaps.queues : Field := ⟨0x00b00000, 8, 8, .ro, 8, .all, 0, 0⟩
def F.tmCaps.ports : Field := ⟨0x00b00000, 0, 8, .ro, 16, .all, 0, 0⟩
/-! TM_CTL (R460) -/
def F.tmCtl.tmLock : Field := ⟨0x00b00008, 0, 1, .rw, 0, .sticky, 0, 0⟩
/-! TM_CLASS_CFG (R460) -/
def F.tmClassCfg.bestEffort : Field := ⟨0x00b00010, 32, 7, .rw, 72, .all, 0, 0⟩
def F.tmClassCfg.queue2 : Field := ⟨0x00b00010, 8, 3, .rwl, 2, (.range 2 7), 0, 0⟩
def F.tmClassCfg.queue3 : Field := ⟨0x00b00010, 12, 3, .rwl, 3, (.range 2 7), 0, 0⟩
def F.tmClassCfg.queue4 : Field := ⟨0x00b00010, 16, 3, .rwl, 4, (.range 2 7), 0, 0⟩
def F.tmClassCfg.queue5 : Field := ⟨0x00b00010, 20, 3, .rwl, 5, (.range 2 7), 0, 0⟩
def F.tmClassCfg.queue6 : Field := ⟨0x00b00010, 24, 3, .rwl, 6, (.range 2 7), 0, 0⟩
/-! TM_STATS (R460) -/
def F.tmStats.redDrops : Field := ⟨0x00b00020, 32, 32, .ro, 0, .all, 0, 0⟩
def F.tmStats.yellowDiscards : Field := ⟨0x00b00020, 0, 32, .ro, 0, .all, 0, 0⟩
/-! TM_RX_STATS (R460) -/
def F.tmRxStats.fullDiscards : Field := ⟨0x00b00028, 0, 32, .ro, 0, .all, 0, 0⟩
/-! TM_PORT_CTL (R460) -/
def F.tmPortCtl.ceil1 : Field := ⟨0x00b01000, 40, 24, .rw, 2000, .all, 128, 0⟩
def F.tmPortCtl.ceil0 : Field := ⟨0x00b01000, 16, 24, .rw, 2000, .all, 128, 0⟩
def F.tmPortCtl.yellowKib : Field := ⟨0x00b01000, 0, 16, .rw, 384, .all, 128, 0⟩
/-! TM_PORT_STATUS (R460) -/
def F.tmPortStatus.capacity : Field := ⟨0x00b01008, 32, 32, .ro, 0, .all, 128, 0⟩
def F.tmPortStatus.backlog : Field := ⟨0x00b01008, 0, 8, .ro, 0, .all, 128, 0⟩
/-! TM_PORT_Q (R460) -/
def F.tmPortQ.rate : Field := ⟨0x00b01010, 40, 24, .rw, 0, .all, 128, 8⟩
def F.tmPortQ.burst : Field := ⟨0x00b01010, 24, 16, .rw, 64, .all, 128, 8⟩
def F.tmPortQ.depth : Field := ⟨0x00b01010, 8, 16, .rw, 2048, (.range 0 8192), 128, 8⟩
def F.tmPortQ.weight : Field := ⟨0x00b01010, 0, 8, .rw, 16, .all, 128, 8⟩
/-! TM_METER_RATE (R460) -/
def F.tmMeterRate.pir : Field := ⟨0x00b10000, 40, 24, .rw, 0, .all, 16, 0⟩
def F.tmMeterRate.cir : Field := ⟨0x00b10000, 16, 24, .rw, 0, .all, 16, 0⟩
def F.tmMeterRate.aware : Field := ⟨0x00b10000, 2, 1, .rw, 0, .all, 16, 0⟩
def F.tmMeterRate.enable : Field := ⟨0x00b10000, 0, 1, .rw, 0, .all, 16, 0⟩
/-! TM_METER_BURST (R460) -/
def F.tmMeterBurst.pbs : Field := ⟨0x00b10008, 48, 16, .rw, 64, .all, 16, 0⟩
def F.tmMeterBurst.cbs : Field := ⟨0x00b10008, 32, 16, .rw, 64, .all, 16, 0⟩
def F.tmMeterBurst.red : Field := ⟨0x00b10008, 0, 32, .ro, 0, .all, 16, 0⟩
/-! SLT_CAPS (R488) -/
def F.sltCaps.maxGib : Field := ⟨0x00c00000, 16, 16, .ro, 256, .all, 0, 0⟩
def F.sltCaps.channels : Field := ⟨0x00c00000, 0, 8, .ro, 12, .all, 0, 0⟩
/-! SLT_CTL (R488) -/
def F.sltCtl.privateGib : Field := ⟨0x00c00008, 48, 16, .rwl, 0, .all, 0, 0⟩
def F.sltCtl.scrubHours : Field := ⟨0x00c00008, 40, 8, .rw, 24, .all, 0, 0⟩
def F.sltCtl.notifyEnable : Field := ⟨0x00c00008, 16, 1, .rw, 0, .all, 0, 0⟩
def F.sltCtl.vector : Field := ⟨0x00c00008, 8, 6, .rw, 0, .all, 0, 0⟩
def F.sltCtl.sltLock : Field := ⟨0x00c00008, 0, 1, .rw, 0, .sticky, 0, 0⟩
/-! SLT_STATUS (R488) -/
def F.sltStatus.capacityGib : Field := ⟨0x00c00010, 48, 16, .ro, 0, .all, 0, 0⟩
def F.sltStatus.speed : Field := ⟨0x00c00010, 32, 2, .ro, 0, .all, 0, 0⟩
def F.sltStatus.failed : Field := ⟨0x00c00010, 16, 12, .ro, 0, .all, 0, 0⟩
def F.sltStatus.populated : Field := ⟨0x00c00010, 0, 12, .ro, 0, .all, 0, 0⟩
/-! SLT_ERR (R488) -/
def F.sltErr.channel : Field := ⟨0x00c00018, 8, 4, .ro, 0, .all, 0, 0⟩
def F.sltErr.overflow : Field := ⟨0x00c00018, 1, 1, .rw1c, 0, .all, 0, 0⟩
def F.sltErr.valid : Field := ⟨0x00c00018, 0, 1, .rw1c, 0, .all, 0, 0⟩
/-! SLT_ERR_ADDR (R488) -/
def F.sltErrAddr.address : Field := ⟨0x00c00020, 0, 48, .ro, 0, .all, 0, 0⟩
/-! SLT_ECC_STATS (R488) -/
def F.sltEccStats.corrected : Field := ⟨0x00c00028, 32, 32, .ro, 0, .all, 0, 0⟩
def F.sltEccStats.uncorrected : Field := ⟨0x00c00028, 0, 32, .ro, 0, .all, 0, 0⟩
/-! FLS_CAPS (R489) -/
def F.flsCaps.cePerChannel : Field := ⟨0x00d00000, 16, 8, .ro, 8, .all, 0, 0⟩
def F.flsCaps.pageKib : Field := ⟨0x00d00000, 8, 8, .ro, 16, .all, 0, 0⟩
def F.flsCaps.channels : Field := ⟨0x00d00000, 0, 8, .ro, 16, .all, 0, 0⟩
/-! FLS_CTL (R489) -/
def F.flsCtl.notifyEnable : Field := ⟨0x00d00008, 16, 1, .rw, 0, .all, 0, 0⟩
def F.flsCtl.vector : Field := ⟨0x00d00008, 8, 6, .rw, 0, .all, 0, 0⟩
def F.flsCtl.flsLock : Field := ⟨0x00d00008, 0, 1, .rw, 0, .sticky, 0, 0⟩
/-! FLS_NAND_CFG (R489) -/
def F.flsNandCfg.chMask : Field := ⟨0x00d00010, 48, 16, .rwl, 0, .all, 0, 0⟩
def F.flsNandCfg.ceMask : Field := ⟨0x00d00010, 40, 8, .rwl, 0, .all, 0, 0⟩
def F.flsNandCfg.slcFeature : Field := ⟨0x00d00010, 24, 8, .rwl, 0, .all, 0, 0⟩
def F.flsNandCfg.rate : Field := ⟨0x00d00010, 16, 8, .rwl, 36, (.range 16 36), 0, 0⟩
def F.flsNandCfg.planes : Field := ⟨0x00d00010, 4, 4, .rwl, 4, (.oneOf [2, 4]), 0, 0⟩
def F.flsNandCfg.luns : Field := ⟨0x00d00010, 0, 4, .rwl, 1, (.oneOf [1, 2, 4]), 0, 0⟩
/-! FLS_LOGICAL (R489) -/
def F.flsLogical.logicalUnits : Field := ⟨0x00d00018, 0, 40, .rwl, 0, .all, 0, 0⟩
/-! FLS_GC_CFG (R489) -/
def F.flsGcCfg.idleUs : Field := ⟨0x00d00020, 48, 16, .rw, 1000, .all, 0, 0⟩
def F.flsGcCfg.refreshBits : Field := ⟨0x00d00020, 40, 8, .rw, 40, .all, 0, 0⟩
def F.flsGcCfg.slcMaxPm : Field := ⟨0x00d00020, 30, 10, .rw, 100, .all, 0, 0⟩
def F.flsGcCfg.slcMinPm : Field := ⟨0x00d00020, 20, 10, .rw, 30, .all, 0, 0⟩
def F.flsGcCfg.softPm : Field := ⟨0x00d00020, 10, 10, .rw, 40, .all, 0, 0⟩
def F.flsGcCfg.hardPm : Field := ⟨0x00d00020, 0, 10, .rw, 20, .belowSoft, 0, 0⟩
/-! FLS_STATUS (R489) -/
def F.flsStatus.freeBlocks : Field := ⟨0x00d00028, 32, 32, .ro, 0, .all, 0, 0⟩
def F.flsStatus.cause : Field := ⟨0x00d00028, 8, 8, .ro, 0, .all, 0, 0⟩
def F.flsStatus.throttled : Field := ⟨0x00d00028, 6, 1, .ro, 0, .all, 0, 0⟩
def F.flsStatus.gcMode : Field := ⟨0x00d00028, 4, 2, .ro, 0, .all, 0, 0⟩
def F.flsStatus.state : Field := ⟨0x00d00028, 0, 3, .ro, 0, .all, 0, 0⟩
/-! FLS_COUNTS (R489) -/
def F.flsCounts.slcBlocks : Field := ⟨0x00d00030, 32, 32, .ro, 0, .all, 0, 0⟩
def F.flsCounts.retired : Field := ⟨0x00d00030, 0, 32, .ro, 0, .all, 0, 0⟩
/-! FLS_SEQ (R489) -/
def F.flsSeq.next : Field := ⟨0x00d00038, 0, 64, .ro, 0, .all, 0, 0⟩
/-! FLS_STATS (R489) -/
def F.flsStats.erases : Field := ⟨0x00d00040, 32, 32, .ro, 0, .all, 0, 0⟩
def F.flsStats.programFails : Field := ⟨0x00d00040, 16, 16, .ro, 0, .all, 0, 0⟩
def F.flsStats.uncorrectable : Field := ⟨0x00d00040, 0, 16, .ro, 0, .all, 0, 0⟩
/-! FLS_SCAN (R489) -/
def F.flsScan.pagesRead : Field := ⟨0x00d00048, 32, 32, .ro, 0, .all, 0, 0⟩
def F.flsScan.durationUs : Field := ⟨0x00d00048, 0, 32, .ro, 0, .all, 0, 0⟩
/-! FLS_ERR (R489) -/
def F.flsErr.lunit : Field := ⟨0x00d00050, 16, 48, .ro, 0, .all, 0, 0⟩
def F.flsErr.overflow : Field := ⟨0x00d00050, 1, 1, .rw1c, 0, .all, 0, 0⟩
def F.flsErr.valid : Field := ⟨0x00d00050, 0, 1, .rw1c, 0, .all, 0, 0⟩
/-! FLS_DISCARD_FIRST (R489) -/
def F.flsDiscardFirst.first : Field := ⟨0x00d00058, 0, 48, .rw, 0, .all, 0, 0⟩
/-! FLS_DISCARD_UNITS (R489) -/
def F.flsDiscardUnits.units : Field := ⟨0x00d00060, 0, 48, .rw, 0, .all, 0, 0⟩
/-! FLS_CMD (R489) -/
def F.flsCmd.status : Field := ⟨0x00d00068, 8, 8, .ro, 0, .all, 0, 0⟩
def F.flsCmd.cmd : Field := ⟨0x00d00068, 0, 2, .wo, 0, .all, 0, 0⟩
/-! TWN_CAPS (R513) -/
def F.twnCaps.minMirrorPorts : Field := ⟨0x00e00000, 8, 8, .ro, 2, .all, 0, 0⟩
def F.twnCaps.version : Field := ⟨0x00e00000, 0, 8, .ro, 1, .all, 0, 0⟩
/-! TWN_CTL (R513) -/
def F.twnCtl.fenceWaitUs : Field := ⟨0x00e00008, 48, 16, .rw, 4000, .all, 0, 0⟩
def F.twnCtl.hbIntervalUs : Field := ⟨0x00e00008, 32, 16, .rw, 50, (.range 10 1000), 0, 0⟩
def F.twnCtl.misses : Field := ⟨0x00e00008, 24, 8, .rw, 4, (.range 2 255), 0, 0⟩
def F.twnCtl.vector : Field := ⟨0x00e00008, 16, 6, .rw, 0, .all, 0, 0⟩
def F.twnCtl.notifyEnable : Field := ⟨0x00e00008, 12, 1, .rw, 0, .all, 0, 0⟩
def F.twnCtl.roleReq : Field := ⟨0x00e00008, 8, 2, .rw, 0, (.range 0 2), 0, 0⟩
def F.twnCtl.cmd : Field := ⟨0x00e00008, 0, 3, .wo, 0, .all, 0, 0⟩
/-! TWN_STATUS (R513) -/
def F.twnStatus.cause : Field := ⟨0x00e00010, 32, 8, .ro, 0, .all, 0, 0⟩
def F.twnStatus.twinMember : Field := ⟨0x00e00010, 24, 4, .ro, 0, .all, 0, 0⟩
def F.twnStatus.mirrorPorts : Field := ⟨0x00e00010, 16, 4, .ro, 0, .all, 0, 0⟩
def F.twnStatus.inSync : Field := ⟨0x00e00010, 12, 1, .ro, 0, .all, 0, 0⟩
def F.twnStatus.phase : Field := ⟨0x00e00010, 8, 2, .ro, 0, .all, 0, 0⟩
def F.twnStatus.role : Field := ⟨0x00e00010, 4, 2, .ro, 0, .all, 0, 0⟩
def F.twnStatus.state : Field := ⟨0x00e00010, 0, 3, .ro, 0, .all, 0, 0⟩
/-! TWN_MSEQ_SENT (R513) -/
def F.twnMseqSent.mseq : Field := ⟨0x00e00018, 0, 64, .ro, 0, .all, 0, 0⟩
/-! TWN_MSEQ_APPLIED (R513) -/
def F.twnMseqApplied.mseq : Field := ⟨0x00e00020, 0, 64, .ro, 0, .all, 0, 0⟩
/-! TWN_STATS (R513) -/
def F.twnStats.failovers : Field := ⟨0x00e00028, 32, 16, .ro, 0, .all, 0, 0⟩
def F.twnStats.losses : Field := ⟨0x00e00028, 16, 16, .ro, 0, .all, 0, 0⟩
def F.twnStats.switches : Field := ⟨0x00e00028, 0, 16, .ro, 0, .all, 0, 0⟩
/-! TWN_COPY (R513) -/
def F.twnCopy.bytesLeft : Field := ⟨0x00e00030, 0, 64, .ro, 0, .all, 0, 0⟩
/-! TWN_CONFIG_DIGEST (R513) -/
def F.twnConfigDigest.digest : Field := ⟨0x00e00040, 0, 64, .ro, 0, .all, 8, 0⟩
/-! MTR_CAPS (R536) -/
def F.mtrCaps.mailboxRecords : Field := ⟨0x00f00000, 32, 16, .ro, 4096, .all, 0, 0⟩
def F.mtrCaps.recordBytes : Field := ⟨0x00f00000, 16, 16, .ro, 256, .all, 0, 0⟩
def F.mtrCaps.logRecordsLog2 : Field := ⟨0x00f00000, 0, 8, .ro, 20, .all, 0, 0⟩
/-! MTR_STATUS (R536) -/
def F.mtrStatus.bindingMatch : Field := ⟨0x00f00008, 5, 1, .ro, 0, .all, 0, 0⟩
def F.mtrStatus.brokenSeal : Field := ⟨0x00f00008, 4, 1, .ro, 0, .all, 0, 0⟩
def F.mtrStatus.meterFault : Field := ⟨0x00f00008, 3, 1, .ro, 0, .all, 0, 0⟩
def F.mtrStatus.state : Field := ⟨0x00f00008, 0, 2, .ro, 0, .all, 0, 0⟩
/-! MTR_METER_ID_LO (R536) -/
def F.mtrMeterIdLo.id : Field := ⟨0x00f00010, 0, 64, .ro, 0, .all, 0, 0⟩
/-! MTR_METER_ID_HI (R536) -/
def F.mtrMeterIdHi.id : Field := ⟨0x00f00018, 0, 64, .ro, 0, .all, 0, 0⟩
/-! MTR_NEWEST (R536) -/
def F.mtrNewest.recordNo : Field := ⟨0x00f00020, 0, 64, .ro, 0, .all, 0, 0⟩
/-! MTR_OLDEST (R536) -/
def F.mtrOldest.recordNo : Field := ⟨0x00f00028, 0, 64, .ro, 0, .all, 0, 0⟩
/-! MTR_SELECT (R536) -/
def F.mtrSelect.recordNo : Field := ⟨0x00f00030, 0, 64, .rw, 0, .all, 0, 0⟩
/-! MTR_SELECT_STATUS (R536) -/
def F.mtrSelectStatus.status : Field := ⟨0x00f00038, 0, 2, .ro, 1, .all, 0, 0⟩
/-! MTR_CTL (R536) -/
def F.mtrCtl.notifyEnable : Field := ⟨0x00f00040, 16, 1, .rw, 0, .all, 0, 0⟩
def F.mtrCtl.vector : Field := ⟨0x00f00040, 8, 6, .rw, 0, .all, 0, 0⟩
/-! MTR_WINDOW (R536) -/
def F.mtrWindow.data : Field := ⟨0x00f00100, 0, 64, .ro, 0, .all, 8, 0⟩
/-! MTR_CERT (R536) -/
def F.mtrCert.data : Field := ⟨0x00f00200, 0, 64, .ro, 0, .all, 8, 0⟩
/-! PLT_ID (R568) -/
def F.pltId.device : Field := ⟨0x00000000, 32, 16, .ro, 25600, .all, 0, 0⟩
def F.pltId.stepping : Field := ⟨0x00000000, 8, 8, .ro, 176, .all, 0, 0⟩
def F.pltId.ordering : Field := ⟨0x00000000, 0, 8, .ro, 0, .all, 0, 0⟩
/-! PLT_STATUS (R568) -/
def F.pltStatus.cause : Field := ⟨0x00000008, 56, 8, .ro, 0, .all, 0, 0⟩
def F.pltStatus.meterUnbound : Field := ⟨0x00000008, 10, 1, .ro, 0, .all, 0, 0⟩
def F.pltStatus.refclkLost : Field := ⟨0x00000008, 9, 1, .ro, 0, .all, 0, 0⟩
def F.pltStatus.refclkEvent : Field := ⟨0x00000008, 8, 1, .rw1c, 0, .all, 0, 0⟩
def F.pltStatus.fwFallback : Field := ⟨0x00000008, 4, 1, .ro, 0, .all, 0, 0⟩
def F.pltStatus.state : Field := ⟨0x00000008, 0, 3, .ro, 0, .all, 0, 0⟩
/-! PLT_CTL (R568) -/
def F.pltCtl.notifyEnable : Field := ⟨0x00000010, 16, 1, .rw, 0, .all, 0, 0⟩
def F.pltCtl.vector : Field := ⟨0x00000010, 8, 6, .rw, 0, .all, 0, 0⟩
def F.pltCtl.resetCmd : Field := ⟨0x00000010, 0, 2, .wo, 0, .all, 0, 0⟩
/-! PLT_CHAIN (R568) -/
def F.pltChain.crcErrors : Field := ⟨0x00000018, 32, 16, .ro, 0, .all, 0, 0⟩
def F.pltChain.ringOk : Field := ⟨0x00000018, 16, 1, .ro, 0, .all, 0, 0⟩
def F.pltChain.address : Field := ⟨0x00000018, 0, 6, .ro, 0, .all, 0, 0⟩
/-! PLT_FW_CTL (R568) -/
def F.pltFwCtl.handle : Field := ⟨0x00000020, 32, 32, .rw, 0, .all, 0, 0⟩
def F.pltFwCtl.cmd : Field := ⟨0x00000020, 0, 2, .wo, 0, .all, 0, 0⟩
/-! PLT_FW_STATUS (R568) -/
def F.pltFwStatus.status : Field := ⟨0x00000028, 56, 8, .ro, 0, .all, 0, 0⟩
def F.pltFwStatus.runningSlot : Field := ⟨0x00000028, 40, 1, .ro, 0, .all, 0, 0⟩
def F.pltFwStatus.runningVersion : Field := ⟨0x00000028, 0, 32, .ro, 0, .all, 0, 0⟩
/-! PLT_KEYLIST (R568) -/
def F.pltKeylist.handle : Field := ⟨0x00000030, 32, 32, .rw, 0, .all, 0, 0⟩
def F.pltKeylist.status : Field := ⟨0x00000030, 8, 8, .ro, 0, .all, 0, 0⟩
def F.pltKeylist.cmd : Field := ⟨0x00000030, 0, 2, .wo, 0, .all, 0, 0⟩
/-! PLT_ATTEST (R568) -/
def F.pltAttest.addr : Field := ⟨0x00000038, 12, 52, .rw, 0, .all, 0, 0⟩
def F.pltAttest.status : Field := ⟨0x00000038, 8, 4, .ro, 0, .all, 0, 0⟩
def F.pltAttest.cmd : Field := ⟨0x00000038, 0, 1, .wo, 0, .all, 0, 0⟩
/-! PLT_WRAP_CTL (R568) -/
def F.pltWrapCtl.addr : Field := ⟨0x00000050, 12, 52, .rw, 0, .all, 0, 0⟩
def F.pltWrapCtl.status : Field := ⟨0x00000050, 8, 4, .ro, 0, .all, 0, 0⟩
def F.pltWrapCtl.cmd : Field := ⟨0x00000050, 0, 1, .wo, 0, .all, 0, 0⟩
/-! FUSE_STATUS (R569) -/
def F.fuseStatus.burnStatus : Field := ⟨0x00100000, 56, 8, .ro, 0, .all, 0, 0⟩
def F.fuseStatus.valid : Field := ⟨0x00100000, 16, 4, .ro, 0, .all, 0, 0⟩
def F.fuseStatus.revoked : Field := ⟨0x00100000, 8, 4, .ro, 0, .all, 0, 0⟩
def F.fuseStatus.used : Field := ⟨0x00100000, 4, 4, .ro, 0, .all, 0, 0⟩
def F.fuseStatus.active : Field := ⟨0x00100000, 0, 2, .ro, 0, .all, 0, 0⟩
/-! FUSE_CTL (R569) -/
def F.fuseCtl.fuseLock : Field := ⟨0x00100008, 31, 1, .rw, 0, .sticky, 0, 0⟩
def F.fuseCtl.select : Field := ⟨0x00100008, 8, 2, .rw, 0, .all, 0, 0⟩
def F.fuseCtl.cmd : Field := ⟨0x00100008, 0, 1, .wo, 0, .all, 0, 0⟩
/-! FUSE_NONCE (R569) -/
def F.fuseNonce.nonce : Field := ⟨0x00100010, 0, 64, .ro, 0, .all, 0, 0⟩
/-! FUSE_THERMO (R569) -/
def F.fuseThermo.value : Field := ⟨0x00100018, 0, 8, .ro, 0, .all, 0, 0⟩
/-! FUSE_REPAIR (R569) -/
def F.fuseRepair.free : Field := ⟨0x00100020, 32, 32, .ro, 0, .all, 0, 0⟩
def F.fuseRepair.used : Field := ⟨0x00100020, 0, 32, .ro, 0, .all, 0, 0⟩
/-! FUSE_GEN_WINDOW (R569) -/
def F.fuseGenWindow.data : Field := ⟨0x00100100, 0, 64, .ro, 0, .all, 8, 0⟩
/-! FUSE_STAGE (R569) -/
def F.fuseStage.data : Field := ⟨0x00100300, 0, 64, .rw, 0, .all, 8, 0⟩
/-! FUSE_AUTH (R569) -/
def F.fuseAuth.data : Field := ⟨0x00100500, 0, 64, .rw, 0, .all, 8, 0⟩
/-! FUSE_REPAIR_REC (R569) -/
def F.fuseRepairRec.data : Field := ⟨0x00100800, 0, 64, .ro, 0, .all, 8, 0⟩
/-! PWR_CAPS (R588) -/
def F.pwrCaps.limitMaxW : Field := ⟨0x00200000, 32, 16, .ro, 2000, .all, 0, 0⟩
def F.pwrCaps.limitMinW : Field := ⟨0x00200000, 0, 16, .ro, 900, .all, 0, 0⟩
/-! PWR_CTL (R588) -/
def F.pwrCtl.pwrLock : Field := ⟨0x00200008, 31, 1, .rw, 0, .sticky, 0, 0⟩
def F.pwrCtl.notifyEnable : Field := ⟨0x00200008, 16, 1, .rw, 0, .all, 0, 0⟩
def F.pwrCtl.vector : Field := ⟨0x00200008, 8, 6, .rw, 0, .all, 0, 0⟩
def F.pwrCtl.cmd : Field := ⟨0x00200008, 0, 3, .wo, 0, .all, 0, 0⟩
/-! PWR_LIMIT (R588) -/
def F.pwrLimit.limitW : Field := ⟨0x00200010, 48, 16, .rw, 2000, (.range 900 2000), 0, 0⟩
def F.pwrLimit.maxFabricMv : Field := ⟨0x00200010, 16, 16, .rwl, 850, (.range 650 850), 0, 0⟩
def F.pwrLimit.greyIdleUs : Field := ⟨0x00200010, 0, 16, .rw, 100, .all, 0, 0⟩
/-! PWR_STATUS (R588) -/
def F.pwrStatus.cmdStatus : Field := ⟨0x00200018, 56, 8, .ro, 0, .all, 0, 0⟩
def F.pwrStatus.lastOff : Field := ⟨0x00200018, 40, 3, .ro, 0, .all, 0, 0⟩
def F.pwrStatus.vin56Low : Field := ⟨0x00200018, 20, 1, .ro, 0, .all, 0, 0⟩
def F.pwrStatus.pacing : Field := ⟨0x00200018, 19, 1, .ro, 0, .all, 0, 0⟩
def F.pwrStatus.throttling : Field := ⟨0x00200018, 18, 1, .ro, 0, .all, 0, 0⟩
def F.pwrStatus.boundsNotGuaranteed : Field := ⟨0x00200018, 17, 1, .ro, 0, .all, 0, 0⟩
def F.pwrStatus.bngEvent : Field := ⟨0x00200018, 16, 1, .rw1c, 0, .all, 0, 0⟩
def F.pwrStatus.state : Field := ⟨0x00200018, 0, 3, .ro, 0, .all, 0, 0⟩
/-! PWR_INPUT (R588) -/
def F.pwrInput.vin56Mv : Field := ⟨0x00200020, 32, 32, .ro, 0, .all, 0, 0⟩
def F.pwrInput.powerW : Field := ⟨0x00200020, 0, 16, .ro, 0, .all, 0, 0⟩
/-! PWR_WAKE (R588) -/
def F.pwrWake.sources : Field := ⟨0x00200058, 0, 4, .rw, 15, .all, 0, 0⟩
/-! PWR_WAKE_TIME (R588) -/
def F.pwrWakeTime.lmc : Field := ⟨0x00200060, 0, 64, .rw, 0, .all, 0, 0⟩
/-! PWR_STATS (R588) -/
def F.pwrStats.pacingMs : Field := ⟨0x00200068, 32, 32, .ro, 0, .all, 0, 0⟩
def F.pwrStats.throttles : Field := ⟨0x00200068, 16, 16, .ro, 0, .all, 0, 0⟩
def F.pwrStats.charcoalEntries : Field := ⟨0x00200068, 0, 16, .ro, 0, .all, 0, 0⟩
/-! PLT_PCIE_LINK (R607) -/
def F.pltPcieLink.linkDowns : Field := ⟨0x00001000, 32, 16, .ro, 0, .all, 0, 0⟩
def F.pltPcieLink.dlUp : Field := ⟨0x00001000, 24, 1, .ro, 0, .all, 0, 0⟩
def F.pltPcieLink.flit : Field := ⟨0x00001000, 16, 1, .ro, 0, .all, 0, 0⟩
def F.pltPcieLink.width : Field := ⟨0x00001000, 4, 7, .ro, 0, .all, 0, 0⟩
def F.pltPcieLink.speed : Field := ⟨0x00001000, 0, 4, .ro, 0, .all, 0, 0⟩
/-! PLT_PCIE_CTL (R607) -/
def F.pltPcieCtl.bulkLimitGbps : Field := ⟨0x00001008, 24, 8, .rw, 0, .all, 0, 0⟩
def F.pltPcieCtl.notifyEnable : Field := ⟨0x00001008, 16, 1, .rw, 0, .all, 0, 0⟩
def F.pltPcieCtl.vector : Field := ⟨0x00001008, 8, 6, .rw, 0, .all, 0, 0⟩
def F.pltPcieCtl.vectorExt : Field := ⟨0x00001008, 0, 1, .rw, 0, .all, 0, 0⟩
/-! PLT_PCIE_DB_FAULT (R607) -/
def F.pltPcieDbFault.tenant : Field := ⟨0x00001010, 32, 12, .ro, 0, .all, 0, 0⟩
def F.pltPcieDbFault.register : Field := ⟨0x00001010, 16, 3, .ro, 0, .all, 0, 0⟩
def F.pltPcieDbFault.overflow : Field := ⟨0x00001010, 1, 1, .rw1c, 0, .all, 0, 0⟩
def F.pltPcieDbFault.valid : Field := ⟨0x00001010, 0, 1, .rw1c, 0, .all, 0, 0⟩
/-! PLT_PCIE_ERR (R607) -/
def F.pltPcieErr.poisonedIn : Field := ⟨0x00001018, 48, 16, .ro, 0, .all, 0, 0⟩
def F.pltPcieErr.completionTimeouts : Field := ⟨0x00001018, 32, 16, .ro, 0, .all, 0, 0⟩
def F.pltPcieErr.hostAborts : Field := ⟨0x00001018, 16, 16, .ro, 0, .all, 0, 0⟩
def F.pltPcieErr.urSent : Field := ⟨0x00001018, 0, 16, .ro, 0, .all, 0, 0⟩
/-! TM_DSCP (R460) -/
def F.tmDscp.dscp0 : Field := ⟨0x00b00018, 0, 6, .rw, 48, .all, 0, 0⟩
def F.tmDscp.dscp1 : Field := ⟨0x00b00018, 6, 6, .rw, 46, .all, 0, 0⟩
def F.tmDscp.dscp2 : Field := ⟨0x00b00018, 12, 6, .rw, 18, .all, 0, 0⟩
def F.tmDscp.dscp3 : Field := ⟨0x00b00018, 18, 6, .rw, 10, .all, 0, 0⟩
def F.tmDscp.dscp4 : Field := ⟨0x00b00018, 24, 6, .rw, 0, .all, 0, 0⟩
def F.tmDscp.dscp5 : Field := ⟨0x00b00018, 30, 6, .rw, 0, .all, 0, 0⟩
def F.tmDscp.dscp6 : Field := ⟨0x00b00018, 36, 6, .rw, 0, .all, 0, 0⟩
/-! PWR_FABRIC_MV (R588) -/
def F.pwrFabricMv.supply0 : Field := ⟨0x00200028, 0, 16, .ro, 0, .all, 0, 0⟩
def F.pwrFabricMv.supply1 : Field := ⟨0x00200028, 16, 16, .ro, 0, .all, 0, 0⟩
def F.pwrFabricMv.supply2 : Field := ⟨0x00200028, 32, 16, .ro, 0, .all, 0, 0⟩
def F.pwrFabricMv.supply3 : Field := ⟨0x00200028, 48, 16, .ro, 0, .all, 0, 0⟩
/-! PWR_TEMP_DIES (R588) -/
def F.pwrTempDies.temp0 : Field := ⟨0x00200030, 0, 8, .ro, 0, .all, 0, 0⟩
def F.pwrTempDies.temp1 : Field := ⟨0x00200030, 8, 8, .ro, 0, .all, 0, 0⟩
def F.pwrTempDies.temp2 : Field := ⟨0x00200030, 16, 8, .ro, 0, .all, 0, 0⟩
def F.pwrTempDies.temp3 : Field := ⟨0x00200030, 24, 8, .ro, 0, .all, 0, 0⟩
def F.pwrTempDies.temp4 : Field := ⟨0x00200030, 32, 8, .ro, 0, .all, 0, 0⟩
def F.pwrTempDies.temp5 : Field := ⟨0x00200030, 40, 8, .ro, 0, .all, 0, 0⟩
/-! PWR_TEMP_STACKS (R588) -/
def F.pwrTempStacks.temp0 : Field := ⟨0x00200038, 0, 8, .ro, 0, .all, 8, 0⟩
def F.pwrTempStacks.temp1 : Field := ⟨0x00200038, 8, 8, .ro, 0, .all, 8, 0⟩
def F.pwrTempStacks.temp2 : Field := ⟨0x00200038, 16, 8, .ro, 0, .all, 8, 0⟩
def F.pwrTempStacks.temp3 : Field := ⟨0x00200038, 24, 8, .ro, 0, .all, 8, 0⟩
def F.pwrTempStacks.temp4 : Field := ⟨0x00200038, 32, 8, .ro, 0, .all, 8, 0⟩
def F.pwrTempStacks.temp5 : Field := ⟨0x00200038, 40, 8, .ro, 0, .all, 8, 0⟩
def F.pwrTempStacks.temp6 : Field := ⟨0x00200038, 48, 8, .ro, 0, .all, 8, 0⟩
def F.pwrTempStacks.temp7 : Field := ⟨0x00200038, 56, 8, .ro, 0, .all, 8, 0⟩
/-! FAB_PKG_LOADED (R119) -/
def F.fabPkgLoaded.fabPkgLoadedHandle : Field := ⟨0x00300018, 32, 32, .ro, 0, .all, 0, 0⟩
def F.fabPkgLoaded.fabPkgLoadedVersion : Field := ⟨0x00300018, 0, 32, .ro, 0, .all, 0, 0⟩
/-! FAB_SERVING_MAP (R120) -/
def F.fabServingMap.serving : Field := ⟨0x00300020, 0, 64, .ro, 0, .all, 0, 0⟩
/-! FAB_FAULTED_MAP (R120) -/
def F.fabFaultedMap.faulted : Field := ⟨0x00300028, 0, 64, .ro, 0, .all, 0, 0⟩
/-! STK_OBJ_CTL (R158) -/
def F.stkObjCtl.stkLock : Field := ⟨0x00480008, 0, 1, .rw, 0, .sticky, 0, 0⟩
/-! STK_XTS_BLOB (R161) -/
def F.stkXtsBlob.data : Field := ⟨0x00480058, 0, 64, .wo, 0, .all, 8, 0⟩
/-! STK_UCODE_CLEAR (R221) -/
def F.stkUcodeClear.clear : Field := ⟨0x00400180, 0, 16, .wo, 0, .all, 0, 0⟩
/-! PFX_DOMAIN_BLOB (R308) -/
def F.pfxDomainBlob.data : Field := ⟨0x00600030, 0, 64, .wo, 0, .all, 8, 0⟩

/-- The registers of the PLT_ block. -/
def regsPlt : List Reg := [
  ⟨0x00000040, 1, 0, 1, 0, [F.pltLmc.pltLmcValue]⟩,
  ⟨0x00000000, 1, 0, 1, 0, [F.pltId.device, F.pltId.stepping, F.pltId.ordering]⟩,
  ⟨0x00000008, 1, 0, 1, 0, [F.pltStatus.cause, F.pltStatus.meterUnbound, F.pltStatus.refclkLost, F.pltStatus.refclkEvent, F.pltStatus.fwFallback, F.pltStatus.state]⟩,
  ⟨0x00000010, 1, 0, 1, 0, [F.pltCtl.notifyEnable, F.pltCtl.vector, F.pltCtl.resetCmd]⟩,
  ⟨0x00000018, 1, 0, 1, 0, [F.pltChain.crcErrors, F.pltChain.ringOk, F.pltChain.address]⟩,
  ⟨0x00000020, 1, 0, 1, 0, [F.pltFwCtl.handle, F.pltFwCtl.cmd]⟩,
  ⟨0x00000028, 1, 0, 1, 0, [F.pltFwStatus.status, F.pltFwStatus.runningSlot, F.pltFwStatus.runningVersion]⟩,
  ⟨0x00000030, 1, 0, 1, 0, [F.pltKeylist.handle, F.pltKeylist.status, F.pltKeylist.cmd]⟩,
  ⟨0x00000038, 1, 0, 1, 0, [F.pltAttest.addr, F.pltAttest.status, F.pltAttest.cmd]⟩,
  ⟨0x00000050, 1, 0, 1, 0, [F.pltWrapCtl.addr, F.pltWrapCtl.status, F.pltWrapCtl.cmd]⟩,
  ⟨0x00001000, 1, 0, 1, 0, [F.pltPcieLink.linkDowns, F.pltPcieLink.dlUp, F.pltPcieLink.flit, F.pltPcieLink.width, F.pltPcieLink.speed]⟩,
  ⟨0x00001008, 1, 0, 1, 0, [F.pltPcieCtl.bulkLimitGbps, F.pltPcieCtl.notifyEnable, F.pltPcieCtl.vector, F.pltPcieCtl.vectorExt]⟩,
  ⟨0x00001010, 1, 0, 1, 0, [F.pltPcieDbFault.tenant, F.pltPcieDbFault.register, F.pltPcieDbFault.overflow, F.pltPcieDbFault.valid]⟩,
  ⟨0x00001018, 1, 0, 1, 0, [F.pltPcieErr.poisonedIn, F.pltPcieErr.completionTimeouts, F.pltPcieErr.hostAborts, F.pltPcieErr.urSent]⟩]

/-- The registers of the FAB_ block. -/
def regsFab : List Reg := [
  ⟨0x00300000, 1, 0, 1, 0, [F.fabCaps.fabFormatMinorMax, F.fabCaps.fabFormatMajor, F.fabCaps.fabVdcEntries, F.fabCaps.fabRegions]⟩,
  ⟨0x00300008, 1, 0, 1, 0, [F.fabCtl.fabImageFloor, F.fabCtl.fabVdcFlush, F.fabCtl.fabLock]⟩,
  ⟨0x00300010, 1, 0, 1, 0, [F.fabPkgCtl.fabPkgHandle, F.fabPkgCtl.fabPkgStatus, F.fabPkgCtl.fabPkgLoad]⟩,
  ⟨0x01000000, 64, 524288, 1, 0, [F.fabRgnCtl.imageHandle, F.fabRgnCtl.cmd]⟩,
  ⟨0x01000008, 64, 524288, 1, 0, [F.fabRgnState.loadedHandle, F.fabRgnState.cmdStatus, F.fabRgnState.bound, F.fabRgnState.composition, F.fabRgnState.state]⟩,
  ⟨0x01000010, 64, 524288, 1, 0, [F.fabRgnFault.cluster, F.fabRgnFault.cause]⟩,
  ⟨0x01000018, 64, 524288, 1, 0, [F.fabRgnFlags.accOverflow, F.fabRgnFlags.nanScale, F.fabRgnFlags.nanLost, F.fabRgnFlags.saturated]⟩,
  ⟨0x01000020, 64, 524288, 1, 0, [F.fabRgnMap.spareLeft, F.fabRgnMap.excluded]⟩,
  ⟨0x01000028, 64, 524288, 1, 0, [F.fabRgnNotify.vector, F.fabRgnNotify.enable]⟩,
  ⟨0x00300018, 1, 0, 1, 0, [F.fabPkgLoaded.fabPkgLoadedHandle, F.fabPkgLoaded.fabPkgLoadedVersion]⟩,
  ⟨0x00300020, 1, 0, 1, 0, [F.fabServingMap.serving]⟩,
  ⟨0x00300028, 1, 0, 1, 0, [F.fabFaultedMap.faulted]⟩]

/-- The registers of the STK_ block. -/
def regsStk : List Reg := [
  ⟨0x00480000, 1, 0, 1, 0, [F.stkOchreCfg.odtBase, F.stkOchreCfg.interleavedGib]⟩,
  ⟨0x00480010, 1, 0, 1, 0, [F.stkObjSqBase.base]⟩,
  ⟨0x00480018, 1, 0, 1, 0, [F.stkObjQsize.cqLog2, F.stkObjQsize.sqLog2]⟩,
  ⟨0x00480020, 1, 0, 1, 0, [F.stkObjCqBase.base]⟩,
  ⟨0x00480028, 1, 0, 1, 0, [F.stkObjSqTail.tail]⟩,
  ⟨0x00480030, 1, 0, 1, 0, [F.stkObjSqHead.head]⟩,
  ⟨0x00480038, 1, 0, 1, 0, [F.stkObjCqHead.head]⟩,
  ⟨0x00480040, 1, 0, 1, 0, [F.stkObjNotify.vector, F.stkObjNotify.enable]⟩,
  ⟨0x00480048, 1, 0, 1, 0, [F.stkWpViolation.granule, F.stkWpViolation.overflow, F.stkWpViolation.valid]⟩,
  ⟨0x00480050, 1, 0, 1, 0, [F.stkXtsSlot.status, F.stkXtsSlot.slot, F.stkXtsSlot.cmd]⟩,
  ⟨0x00490000, 1, 0, 1, 0, [F.stkPageRecBase.base]⟩,
  ⟨0x00490008, 1, 0, 1, 0, [F.stkManifestBase.base]⟩,
  ⟨0x00490010, 1, 0, 1, 0, [F.stkManifestUnits.free, F.stkManifestUnits.count]⟩,
  ⟨0x00490018, 1, 0, 1, 0, [F.stkLeaseEpoch.oldest, F.stkLeaseEpoch.current]⟩,
  ⟨0x00490020, 1, 0, 1, 0, [F.stkPageStats.retiredWaiting, F.stkPageStats.leasesHeld, F.stkPageStats.expired]⟩,
  ⟨0x00490028, 1, 0, 1, 0, [F.stkPageIntegrity.granule, F.stkPageIntegrity.overflow, F.stkPageIntegrity.valid]⟩,
  ⟨0x00400000, 1, 0, 1, 0, [F.stkCaps.maxRows, F.stkCaps.passRows, F.stkCaps.slots, F.stkCaps.cores, F.stkCaps.stacks]⟩,
  ⟨0x00400008, 1, 0, 1, 0, [F.stkUcodeCtl.handle, F.stkUcodeCtl.status, F.stkUcodeCtl.composition, F.stkUcodeCtl.cmd]⟩,
  ⟨0x00400100, 16, 8, 1, 0, [F.stkUcodeSlot.handle, F.stkUcodeSlot.cause, F.stkUcodeSlot.users, F.stkUcodeSlot.state]⟩,
  ⟨0x00401000, 256, 8, 1, 0, [F.stkCompUcode.attached, F.stkCompUcode.slot]⟩,
  ⟨0x00400200, 32, 8, 1, 0, [F.stkCoreStatus.passes, F.stkCoreStatus.coreOk]⟩,
  ⟨0x00400300, 1, 0, 1, 0, [F.stkAttnErr.granule, F.stkAttnErr.overflow, F.stkAttnErr.valid]⟩,
  ⟨0x00400308, 1, 0, 1, 0, [F.stkAttnNotify.vector, F.stkAttnNotify.enable]⟩,
  ⟨0x004a0000, 1, 0, 1, 0, [F.stkCapCtl.manifestLow, F.stkCapCtl.notifyEnable, F.stkCapCtl.vector, F.stkCapCtl.swapTier, F.stkCapCtl.preemptRegions]⟩,
  ⟨0x004a0008, 1, 0, 1, 0, [F.stkReqSideBase.base]⟩,
  ⟨0x004a0010, 1, 0, 1, 0, [F.stkSwapSlateBase.base]⟩,
  ⟨0x004a0018, 1, 0, 1, 0, [F.stkSwapSlateSize.free, F.stkSwapSlateSize.granules]⟩,
  ⟨0x004a0020, 1, 0, 1, 0, [F.stkSwapHostBase.base]⟩,
  ⟨0x004a0028, 1, 0, 1, 0, [F.stkSwapHostSize.free, F.stkSwapHostSize.granules]⟩,
  ⟨0x004a0030, 1, 0, 1, 0, [F.stkCapStats.droppedBlocks, F.stkCapStats.parks]⟩,
  ⟨0x004a1000, 256, 8, 1, 0, [F.stkCapWm.high, F.stkCapWm.low]⟩,
  ⟨0x004a2000, 256, 8, 1, 0, [F.stkCapPressure.stacks]⟩,
  ⟨0x00480008, 1, 0, 1, 0, [F.stkObjCtl.stkLock]⟩,
  ⟨0x00480058, 9, 8, 1, 0, [F.stkXtsBlob.data]⟩,
  ⟨0x00400180, 1, 0, 1, 0, [F.stkUcodeClear.clear]⟩]

/-- The registers of the RQT_ block. -/
def regsRqt : List Reg := [
  ⟨0x00500000, 1, 0, 1, 0, [F.rqtCaps.tenants, F.rqtCaps.entries]⟩,
  ⟨0x00500008, 1, 0, 1, 0, [F.rqtCtl.notifyEnable, F.rqtCtl.vector, F.rqtCtl.rqtLock]⟩,
  ⟨0x00500010, 1, 0, 1, 0, [F.rqtStatus.inUse, F.rqtStatus.deadlineMisses]⟩,
  ⟨0x00500018, 1, 0, 1, 0, [F.rqtCmdFault.tenant, F.rqtCmdFault.sqIndex, F.rqtCmdFault.status, F.rqtCmdFault.overflow, F.rqtCmdFault.valid]⟩,
  ⟨0x00501000, 4096, 64, 1, 0, [F.rqtTSqBase.base]⟩,
  ⟨0x00501008, 4096, 64, 1, 0, [F.rqtTCqBase.base]⟩,
  ⟨0x00501010, 4096, 64, 1, 0, [F.rqtTTrBase.base]⟩,
  ⟨0x00501018, 4096, 64, 1, 0, [F.rqtTQsize.trLog2, F.rqtTQsize.cqLog2, F.rqtTQsize.sqLog2]⟩,
  ⟨0x00501020, 4096, 64, 1, 0, [F.rqtTCtl.pasid, F.rqtTCtl.maxEntries, F.rqtTCtl.coalesceUs, F.rqtTCtl.coalesceRecords, F.rqtTCtl.intEnable, F.rqtTCtl.enable]⟩,
  ⟨0x00501028, 4096, 64, 1, 0, [F.rqtTHeads.trTail, F.rqtTHeads.cqTail, F.rqtTHeads.sqHead]⟩,
  ⟨0x00501030, 4096, 64, 1, 0, [F.rqtTStatus.inUse]⟩,
  ⟨0x00500020, 1, 0, 1, 0, [F.rqtSpecCtl.probeInterval, F.rqtSpecCtl.recoverCount, F.rqtSpecCtl.rejectLimit]⟩,
  ⟨0x00500028, 1, 0, 1, 0, [F.rqtSpecStats.proposed, F.rqtSpecStats.accepted]⟩,
  ⟨0x00500030, 1, 0, 1, 0, [F.rqtSpecErr.tenant, F.rqtSpecErr.refused, F.rqtSpecErr.valid]⟩,
  ⟨0x00580000, 4096, 16, 1, 0, [F.rqtTCandBase.base]⟩,
  ⟨0x00580008, 4096, 16, 1, 0, [F.rqtTSpecCtl.candLog2, F.rqtTSpecCtl.source]⟩]

/-- The registers of the PFX_ block. -/
def regsPfx : List Reg := [
  ⟨0x00600000, 1, 0, 1, 0, [F.pfxCaps.domainSlots, F.pfxCaps.ways, F.pfxCaps.bucketsLog2]⟩,
  ⟨0x00600008, 1, 0, 1, 0, [F.pfxTableBase.base]⟩,
  ⟨0x00600010, 1, 0, 1, 0, [F.pfxBlockBase.base]⟩,
  ⟨0x00600018, 1, 0, 1, 0, [F.pfxBlockCount.free, F.pfxBlockCount.count]⟩,
  ⟨0x00600020, 1, 0, 1, 0, [F.pfxCtl.vector, F.pfxCtl.notifyEnable, F.pfxCtl.pfxLock]⟩,
  ⟨0x00600028, 1, 0, 1, 0, [F.pfxDomainCtl.domain, F.pfxDomainCtl.owner, F.pfxDomainCtl.status, F.pfxDomainCtl.slot, F.pfxDomainCtl.cmd]⟩,
  ⟨0x00600058, 1, 0, 1, 0, [F.pfxStats.hits, F.pfxStats.inserts]⟩,
  ⟨0x00600060, 1, 0, 1, 0, [F.pfxEvents.collisions, F.pfxEvents.pinnedFull, F.pfxEvents.denied, F.pfxEvents.insertStops]⟩,
  ⟨0x00601000, 4096, 8, 1, 0, [F.pfxTCtl.noInsert, F.pfxTCtl.pinInsert, F.pfxTCtl.fine]⟩,
  ⟨0x00600030, 5, 8, 1, 0, [F.pfxDomainBlob.data]⟩]

/-- The registers of the XFR_ block. -/
def regsXfr : List Reg := [
  ⟨0x00700000, 1, 0, 1, 0, [F.xfrCaps.ledgersMax, F.xfrCaps.transfers]⟩,
  ⟨0x00700008, 1, 0, 1, 0, [F.xfrAddrLo.addr]⟩,
  ⟨0x00700010, 1, 0, 1, 0, [F.xfrAddrHi.addr]⟩,
  ⟨0x00700018, 1, 0, 1, 0, [F.xfrCtl.udpPort, F.xfrCtl.auditUs, F.xfrCtl.logBatch, F.xfrCtl.offerTries, F.xfrCtl.remotePrefix, F.xfrCtl.notifyEnable, F.xfrCtl.xfrLock]⟩,
  ⟨0x00700020, 1, 0, 1, 0, [F.xfrRto.retries, F.xfrRto.ethUs, F.xfrRto.roaleUs]⟩,
  ⟨0x00700028, 1, 0, 1, 0, [F.xfrLedgerBase.base]⟩,
  ⟨0x00700030, 1, 0, 1, 0, [F.xfrLedgerCount.inUse, F.xfrLedgerCount.count]⟩,
  ⟨0x00700038, 1, 0, 1, 0, [F.xfrBlockAreaBase.base]⟩,
  ⟨0x00700040, 1, 0, 1, 0, [F.xfrBlockAreaSize.free, F.xfrBlockAreaSize.granules]⟩,
  ⟨0x00700048, 1, 0, 1, 0, [F.xfrRecoverId.requestId]⟩,
  ⟨0x00700050, 1, 0, 1, 0, [F.xfrRecoverTargetLo.addr]⟩,
  ⟨0x00700058, 1, 0, 1, 0, [F.xfrRecoverTargetHi.addr]⟩,
  ⟨0x00700060, 1, 0, 1, 0, [F.xfrRecoverFailedLo.addr]⟩,
  ⟨0x00700068, 1, 0, 1, 0, [F.xfrRecoverFailedHi.addr]⟩,
  ⟨0x00700070, 1, 0, 1, 0, [F.xfrRecoverCtl.count, F.xfrRecoverCtl.status, F.xfrRecoverCtl.cmd]⟩,
  ⟨0x00700078, 1, 0, 1, 0, [F.xfrStatus.inFlight, F.xfrStatus.audits]⟩,
  ⟨0x00700080, 1, 0, 1, 0, [F.xfrLostId.requestId]⟩,
  ⟨0x00700088, 1, 0, 1, 0, [F.xfrLost.overflow, F.xfrLost.valid]⟩,
  ⟨0x00700090, 1, 0, 1, 0, [F.xfrNotify.vector]⟩,
  ⟨0x00700100, 16, 16, 1, 0, [F.xfrMemberLo.addr]⟩,
  ⟨0x00700108, 16, 16, 1, 0, [F.xfrMemberHi.addr]⟩]

/-- The registers of the COD_ block. -/
def regsCod : List Reg := [
  ⟨0x00800000, 1, 0, 1, 0, [F.codCaps.queueKib, F.codCaps.gcmSlots, F.codCaps.tableSlots]⟩,
  ⟨0x00800008, 1, 0, 1, 0, [F.codCtl.notifyEnable, F.codCtl.vector, F.codCtl.actSlot, F.codCtl.kvSlot, F.codCtl.encMask, F.codCtl.codLock]⟩,
  ⟨0x00800010, 1, 0, 1, 0, [F.codTableCtl.status, F.codTableCtl.tag, F.codTableCtl.slot, F.codTableCtl.cmd]⟩,
  ⟨0x00800018, 1, 0, 1, 0, [F.codStats.rawBlocks, F.codStats.codedBlocks]⟩,
  ⟨0x00800020, 1, 0, 1, 0, [F.codErrors.size, F.codErrors.tag, F.codErrors.gcm, F.codErrors.header]⟩,
  ⟨0x00800028, 1, 0, 1, 0, [F.codGcmCtl.gen, F.codGcmCtl.status, F.codGcmCtl.slot, F.codGcmCtl.cmd]⟩,
  ⟨0x00800030, 1, 0, 1, 0, [F.codGcmPeerLo.addr]⟩,
  ⟨0x00800038, 1, 0, 1, 0, [F.codGcmPeerHi.addr]⟩,
  ⟨0x00800040, 5, 8, 1, 0, [F.codGcmBlob.data]⟩,
  ⟨0x00800080, 16, 8, 1, 0, [F.codTableData.data]⟩,
  ⟨0x00800100, 4, 8, 1, 0, [F.codSlot.inFlight, F.codSlot.tag, F.codSlot.loaded]⟩,
  ⟨0x00800200, 16, 16, 1, 0, [F.codPortCtl.stageB, F.codPortCtl.bypassHigh, F.codPortCtl.bypassLow]⟩,
  ⟨0x00800208, 16, 16, 1, 0, [F.codPortStatus.occupancy, F.codPortStatus.bypass]⟩,
  ⟨0x00801000, 64, 8, 1, 0, [F.codTProtect.tenants]⟩]

/-- The registers of the SCH_ block. -/
def regsSch : List Reg := [
  ⟨0x00900000, 1, 0, 1, 0, [F.schCaps.shares, F.schCaps.saveSlots, F.schCaps.compositions]⟩,
  ⟨0x00900008, 1, 0, 1, 0, [F.schCtl.notifyEnable, F.schCtl.vector, F.schCtl.schLock]⟩,
  ⟨0x00900010, 1, 0, 1, 0, [F.schSaveBase.base]⟩,
  ⟨0x00900018, 1, 0, 1, 0, [F.schBindRegions.regions]⟩,
  ⟨0x00900020, 1, 0, 1, 0, [F.schBindStacks.stacks]⟩,
  ⟨0x00900028, 1, 0, 1, 0, [F.schBindKv.kvGranules, F.schBindKv.kvOffset]⟩,
  ⟨0x00900030, 1, 0, 1, 0, [F.schBindCache.umberGib, F.schBindCache.slateGib]⟩,
  ⟨0x00900038, 1, 0, 1, 0, [F.schCompCmd.status, F.schCompCmd.composition, F.schCompCmd.role, F.schCompCmd.cmd]⟩,
  ⟨0x00900040, 1, 0, 1, 0, [F.schShareCmd.weight, F.schShareCmd.tenant, F.schShareCmd.status, F.schShareCmd.composition, F.schShareCmd.cmd]⟩,
  ⟨0x00900048, 1, 0, 1, 0, [F.schStats.switches, F.schStats.reissues, F.schStats.noSlot]⟩,
  ⟨0x00901000, 256, 32, 1, 0, [F.schCompCfg.quantumNs, F.schCompCfg.sliceUs, F.schCompCfg.batch]⟩,
  ⟨0x00901008, 256, 32, 1, 0, [F.schCompState.bound, F.schCompState.role, F.schCompState.regions, F.schCompState.stacks, F.schCompState.shares]⟩,
  ⟨0x00901010, 256, 32, 1, 0, [F.schCompRegions.regions]⟩,
  ⟨0x00901018, 256, 32, 1, 0, [F.schCompEngine.regionNs]⟩]

/-- The registers of the LNK_ block. -/
def regsLnk : List Reg := [
  ⟨0x00a00000, 1, 0, 1, 0, [F.lnkCaps.twtEntries, F.lnkCaps.outstanding, F.lnkCaps.members, F.lnkCaps.ports]⟩,
  ⟨0x00a00008, 1, 0, 1, 0, [F.lnkCtl.replyTimeoutUs, F.lnkCtl.notifyEnable, F.lnkCtl.vector, F.lnkCtl.lnkLock]⟩,
  ⟨0x00a00010, 1, 0, 1, 0, [F.lnkTray.trayId, F.lnkTray.twinValid, F.lnkTray.twinMember, F.lnkTray.enrolled, F.lnkTray.member]⟩,
  ⟨0x00a00018, 1, 0, 1, 0, [F.lnkMemberState.states]⟩,
  ⟨0x00a00020, 1, 0, 1, 0, [F.lnkFault.tenant, F.lnkFault.region, F.lnkFault.overflow, F.lnkFault.valid]⟩,
  ⟨0x00a00028, 1, 0, 1, 0, [F.lnkFaultAddr.trayAddress]⟩,
  ⟨0x00a00030, 1, 0, 1, 0, [F.lnkStats.remoteOps, F.lnkStats.timeouts, F.lnkStats.lateReplies, F.lnkStats.unenrolled]⟩,
  ⟨0x00a00038, 1, 0, 1, 0, [F.lnkCohPoison.line, F.lnkCohPoison.overflow, F.lnkCohPoison.valid]⟩,
  ⟨0x00a00040, 1, 0, 1, 0, [F.lnkCohStats.replacements, F.lnkCohStats.notPresent]⟩,
  ⟨0x00a00100, 16, 8, 1, 0, [F.lnkRoute.hops, F.lnkRoute.ports]⟩,
  ⟨0x00a00200, 12, 16, 1, 0, [F.lnkPortCfg.trayQueueKib, F.lnkPortCfg.forward, F.lnkPortCfg.medium, F.lnkPortCfg.mode]⟩,
  ⟨0x00a00208, 12, 16, 1, 0, [F.lnkPortStatus.replays, F.lnkPortStatus.fecUncorrected, F.lnkPortStatus.neighbour, F.lnkPortStatus.state]⟩,
  ⟨0x00a10000, 4096, 32, 1, 0, [F.lnkTwtBase.base]⟩,
  ⟨0x00a10008, 4096, 32, 1, 0, [F.lnkTwtLimit.limit]⟩,
  ⟨0x00a10010, 4096, 32, 1, 0, [F.lnkTwtAttr.members, F.lnkTwtAttr.tenant, F.lnkTwtAttr.tensor, F.lnkTwtAttr.atomic, F.lnkTwtAttr.write, F.lnkTwtAttr.read, F.lnkTwtAttr.valid]⟩]

/-- The registers of the TM_ block. -/
def regsTm : List Reg := [
  ⟨0x00b00000, 1, 0, 1, 0, [F.tmCaps.rxqKib, F.tmCaps.meters, F.tmCaps.strictKib, F.tmCaps.queues, F.tmCaps.ports]⟩,
  ⟨0x00b00008, 1, 0, 1, 0, [F.tmCtl.tmLock]⟩,
  ⟨0x00b00010, 1, 0, 1, 0, [F.tmClassCfg.bestEffort, F.tmClassCfg.queue2, F.tmClassCfg.queue3, F.tmClassCfg.queue4, F.tmClassCfg.queue5, F.tmClassCfg.queue6]⟩,
  ⟨0x00b00020, 1, 0, 1, 0, [F.tmStats.redDrops, F.tmStats.yellowDiscards]⟩,
  ⟨0x00b00028, 1, 0, 1, 0, [F.tmRxStats.fullDiscards]⟩,
  ⟨0x00b01000, 16, 128, 1, 0, [F.tmPortCtl.ceil1, F.tmPortCtl.ceil0, F.tmPortCtl.yellowKib]⟩,
  ⟨0x00b01008, 16, 128, 1, 0, [F.tmPortStatus.capacity, F.tmPortStatus.backlog]⟩,
  ⟨0x00b01010, 16, 128, 6, 8, [F.tmPortQ.rate, F.tmPortQ.burst, F.tmPortQ.depth, F.tmPortQ.weight]⟩,
  ⟨0x00b10000, 8192, 16, 1, 0, [F.tmMeterRate.pir, F.tmMeterRate.cir, F.tmMeterRate.aware, F.tmMeterRate.enable]⟩,
  ⟨0x00b10008, 8192, 16, 1, 0, [F.tmMeterBurst.pbs, F.tmMeterBurst.cbs, F.tmMeterBurst.red]⟩,
  ⟨0x00b00018, 1, 0, 1, 0, [F.tmDscp.dscp0, F.tmDscp.dscp1, F.tmDscp.dscp2, F.tmDscp.dscp3, F.tmDscp.dscp4, F.tmDscp.dscp5, F.tmDscp.dscp6]⟩]

/-- The registers of the SLT_ block. -/
def regsSlt : List Reg := [
  ⟨0x00c00000, 1, 0, 1, 0, [F.sltCaps.maxGib, F.sltCaps.channels]⟩,
  ⟨0x00c00008, 1, 0, 1, 0, [F.sltCtl.privateGib, F.sltCtl.scrubHours, F.sltCtl.notifyEnable, F.sltCtl.vector, F.sltCtl.sltLock]⟩,
  ⟨0x00c00010, 1, 0, 1, 0, [F.sltStatus.capacityGib, F.sltStatus.speed, F.sltStatus.failed, F.sltStatus.populated]⟩,
  ⟨0x00c00018, 1, 0, 1, 0, [F.sltErr.channel, F.sltErr.overflow, F.sltErr.valid]⟩,
  ⟨0x00c00020, 1, 0, 1, 0, [F.sltErrAddr.address]⟩,
  ⟨0x00c00028, 1, 0, 1, 0, [F.sltEccStats.corrected, F.sltEccStats.uncorrected]⟩]

/-- The registers of the FLS_ block. -/
def regsFls : List Reg := [
  ⟨0x00d00000, 1, 0, 1, 0, [F.flsCaps.cePerChannel, F.flsCaps.pageKib, F.flsCaps.channels]⟩,
  ⟨0x00d00008, 1, 0, 1, 0, [F.flsCtl.notifyEnable, F.flsCtl.vector, F.flsCtl.flsLock]⟩,
  ⟨0x00d00010, 1, 0, 1, 0, [F.flsNandCfg.chMask, F.flsNandCfg.ceMask, F.flsNandCfg.slcFeature, F.flsNandCfg.rate, F.flsNandCfg.planes, F.flsNandCfg.luns]⟩,
  ⟨0x00d00018, 1, 0, 1, 0, [F.flsLogical.logicalUnits]⟩,
  ⟨0x00d00020, 1, 0, 1, 0, [F.flsGcCfg.idleUs, F.flsGcCfg.refreshBits, F.flsGcCfg.slcMaxPm, F.flsGcCfg.slcMinPm, F.flsGcCfg.softPm, F.flsGcCfg.hardPm]⟩,
  ⟨0x00d00028, 1, 0, 1, 0, [F.flsStatus.freeBlocks, F.flsStatus.cause, F.flsStatus.throttled, F.flsStatus.gcMode, F.flsStatus.state]⟩,
  ⟨0x00d00030, 1, 0, 1, 0, [F.flsCounts.slcBlocks, F.flsCounts.retired]⟩,
  ⟨0x00d00038, 1, 0, 1, 0, [F.flsSeq.next]⟩,
  ⟨0x00d00040, 1, 0, 1, 0, [F.flsStats.erases, F.flsStats.programFails, F.flsStats.uncorrectable]⟩,
  ⟨0x00d00048, 1, 0, 1, 0, [F.flsScan.pagesRead, F.flsScan.durationUs]⟩,
  ⟨0x00d00050, 1, 0, 1, 0, [F.flsErr.lunit, F.flsErr.overflow, F.flsErr.valid]⟩,
  ⟨0x00d00058, 1, 0, 1, 0, [F.flsDiscardFirst.first]⟩,
  ⟨0x00d00060, 1, 0, 1, 0, [F.flsDiscardUnits.units]⟩,
  ⟨0x00d00068, 1, 0, 1, 0, [F.flsCmd.status, F.flsCmd.cmd]⟩]

/-- The registers of the TWN_ block. -/
def regsTwn : List Reg := [
  ⟨0x00e00000, 1, 0, 1, 0, [F.twnCaps.minMirrorPorts, F.twnCaps.version]⟩,
  ⟨0x00e00008, 1, 0, 1, 0, [F.twnCtl.fenceWaitUs, F.twnCtl.hbIntervalUs, F.twnCtl.misses, F.twnCtl.vector, F.twnCtl.notifyEnable, F.twnCtl.roleReq, F.twnCtl.cmd]⟩,
  ⟨0x00e00010, 1, 0, 1, 0, [F.twnStatus.cause, F.twnStatus.twinMember, F.twnStatus.mirrorPorts, F.twnStatus.inSync, F.twnStatus.phase, F.twnStatus.role, F.twnStatus.state]⟩,
  ⟨0x00e00018, 1, 0, 1, 0, [F.twnMseqSent.mseq]⟩,
  ⟨0x00e00020, 1, 0, 1, 0, [F.twnMseqApplied.mseq]⟩,
  ⟨0x00e00028, 1, 0, 1, 0, [F.twnStats.failovers, F.twnStats.losses, F.twnStats.switches]⟩,
  ⟨0x00e00030, 1, 0, 1, 0, [F.twnCopy.bytesLeft]⟩,
  ⟨0x00e00040, 6, 8, 1, 0, [F.twnConfigDigest.digest]⟩]

/-- The registers of the MTR_ block. -/
def regsMtr : List Reg := [
  ⟨0x00f00000, 1, 0, 1, 0, [F.mtrCaps.mailboxRecords, F.mtrCaps.recordBytes, F.mtrCaps.logRecordsLog2]⟩,
  ⟨0x00f00008, 1, 0, 1, 0, [F.mtrStatus.bindingMatch, F.mtrStatus.brokenSeal, F.mtrStatus.meterFault, F.mtrStatus.state]⟩,
  ⟨0x00f00010, 1, 0, 1, 0, [F.mtrMeterIdLo.id]⟩,
  ⟨0x00f00018, 1, 0, 1, 0, [F.mtrMeterIdHi.id]⟩,
  ⟨0x00f00020, 1, 0, 1, 0, [F.mtrNewest.recordNo]⟩,
  ⟨0x00f00028, 1, 0, 1, 0, [F.mtrOldest.recordNo]⟩,
  ⟨0x00f00030, 1, 0, 1, 0, [F.mtrSelect.recordNo]⟩,
  ⟨0x00f00038, 1, 0, 1, 0, [F.mtrSelectStatus.status]⟩,
  ⟨0x00f00040, 1, 0, 1, 0, [F.mtrCtl.notifyEnable, F.mtrCtl.vector]⟩,
  ⟨0x00f00100, 32, 8, 1, 0, [F.mtrWindow.data]⟩,
  ⟨0x00f00200, 128, 8, 1, 0, [F.mtrCert.data]⟩]

/-- The registers of the FUSE_ block. -/
def regsFuse : List Reg := [
  ⟨0x00100000, 1, 0, 1, 0, [F.fuseStatus.burnStatus, F.fuseStatus.valid, F.fuseStatus.revoked, F.fuseStatus.used, F.fuseStatus.active]⟩,
  ⟨0x00100008, 1, 0, 1, 0, [F.fuseCtl.fuseLock, F.fuseCtl.select, F.fuseCtl.cmd]⟩,
  ⟨0x00100010, 1, 0, 1, 0, [F.fuseNonce.nonce]⟩,
  ⟨0x00100018, 1, 0, 1, 0, [F.fuseThermo.value]⟩,
  ⟨0x00100020, 1, 0, 1, 0, [F.fuseRepair.free, F.fuseRepair.used]⟩,
  ⟨0x00100100, 64, 8, 1, 0, [F.fuseGenWindow.data]⟩,
  ⟨0x00100300, 64, 8, 1, 0, [F.fuseStage.data]⟩,
  ⟨0x00100500, 24, 8, 1, 0, [F.fuseAuth.data]⟩,
  ⟨0x00100800, 256, 8, 1, 0, [F.fuseRepairRec.data]⟩]

/-- The registers of the PWR_ block. -/
def regsPwr : List Reg := [
  ⟨0x00200000, 1, 0, 1, 0, [F.pwrCaps.limitMaxW, F.pwrCaps.limitMinW]⟩,
  ⟨0x00200008, 1, 0, 1, 0, [F.pwrCtl.pwrLock, F.pwrCtl.notifyEnable, F.pwrCtl.vector, F.pwrCtl.cmd]⟩,
  ⟨0x00200010, 1, 0, 1, 0, [F.pwrLimit.limitW, F.pwrLimit.maxFabricMv, F.pwrLimit.greyIdleUs]⟩,
  ⟨0x00200018, 1, 0, 1, 0, [F.pwrStatus.cmdStatus, F.pwrStatus.lastOff, F.pwrStatus.vin56Low, F.pwrStatus.pacing, F.pwrStatus.throttling, F.pwrStatus.boundsNotGuaranteed, F.pwrStatus.bngEvent, F.pwrStatus.state]⟩,
  ⟨0x00200020, 1, 0, 1, 0, [F.pwrInput.vin56Mv, F.pwrInput.powerW]⟩,
  ⟨0x00200058, 1, 0, 1, 0, [F.pwrWake.sources]⟩,
  ⟨0x00200060, 1, 0, 1, 0, [F.pwrWakeTime.lmc]⟩,
  ⟨0x00200068, 1, 0, 1, 0, [F.pwrStats.pacingMs, F.pwrStats.throttles, F.pwrStats.charcoalEntries]⟩,
  ⟨0x00200028, 1, 0, 1, 0, [F.pwrFabricMv.supply0, F.pwrFabricMv.supply1, F.pwrFabricMv.supply2, F.pwrFabricMv.supply3]⟩,
  ⟨0x00200030, 1, 0, 1, 0, [F.pwrTempDies.temp0, F.pwrTempDies.temp1, F.pwrTempDies.temp2, F.pwrTempDies.temp3, F.pwrTempDies.temp4, F.pwrTempDies.temp5]⟩,
  ⟨0x00200038, 4, 8, 1, 0, [F.pwrTempStacks.temp0, F.pwrTempStacks.temp1, F.pwrTempStacks.temp2, F.pwrTempStacks.temp3, F.pwrTempStacks.temp4, F.pwrTempStacks.temp5, F.pwrTempStacks.temp6, F.pwrTempStacks.temp7]⟩]

/-- Every register of BAR 0. -/
def regMap : List Reg :=
  regsPlt ++ regsFab ++ regsStk ++ regsRqt ++ regsPfx ++ regsXfr ++ regsCod ++ regsSch ++ regsLnk ++ regsTm ++ regsSlt ++ regsFls ++ regsTwn ++ regsMtr ++ regsFuse ++ regsPwr

/-- Whether the register or one of the array stands at offset `off`. -/
def Reg.covers (r : Reg) (off : Nat) : Bool :=
  r.base ≤ off &&
    (let d := off - r.base
     let i := if r.stride = 0 then 0 else d / r.stride
     let e := d - i * r.stride
     let j := if r.stride2 = 0 then 0 else e / r.stride2
     i < r.count && j < r.count2 && e = j * r.stride2)

/-- The fields of the register at offset `off`, placed there; none where BAR 0 has no register. -/
def fieldsAt (off : Nat) : List Field :=
  match regMap.find? (·.covers off) with
  | none => []
  | some r => r.fields.map fun f => { f with off := off }

end Sys2Proof.Machine
end

