-- ==== Sys2Proof/Machine/State.lean ====
section
/-! DEFINITION. The state of the block: every register, table, queue, counter, mode and pin that the manual gives the
part, as plain data, and the state right after reset. Register fields (R14) are kept in `fields`, by offset and bit;
everything with a structure of its own is a typed field. -/

namespace Sys2Proof.Machine

open Sys2Proof

/-! ## What leaves the part -/

/-- A completion record or notice (R244) before its SEQUENCE and PHASE. -/
structure Completion where
  requestId : Nat
  tag : Nat
  opcode : Nat
  status : Nat
  stateCode : Nat
  deadlineMissed : Bool
  position : Nat
  detail : Nat
  index : Nat
  peer : PartAddr
deriving DecidableEq, Repr

/-- A token record (R245) before its SEQUENCE and PHASE. -/
structure TokenRecord where
  requestId : Nat
  position : Nat
  token : Nat
  logprob : BitVec 32
  audio : Bool
  final : Bool
  drafted : Bool
  deadlineMissed : Bool
  index : Nat
deriving DecidableEq, Repr

/-- A record for a tenant's completion queue or token ring (R244, R245). -/
inductive RecordOut where
  | completion (r : Completion)
  | token (r : TokenRecord)
deriving DecidableEq, Repr

/-- An object completion record (R151) before its SEQUENCE and PHASE. -/
structure ObjCompletion where
  handle : Nat
  status : Nat
  tag : Nat
deriving DecidableEq, Repr

/-- An RST datagram: transport header (R315), message header (R317) and the message with this datagram's part of its payload;
`sealed_` gives the GCM key slot and GEN of a protected one (R384). -/
structure Datagram where
  dest : PartAddr
  source : PartAddr
  connection : Nat
  seq : Nat
  ack : Nat
  window : Nat
  ackOnly : Bool
  syn : Bool
  reset : Bool
  last : Bool
  takeover : Bool
  append : Bool
  status : RstStatus
  epoch : Nat
  requestId : Nat
  xfer : Nat
  chunk : Nat
  sealed_ : Option (Nat × Nat)
  msg : RstMsg
deriving DecidableEq, Repr

/-- An RST message as the engine hands it to its transport (R317, R318). -/
structure RstOut where
  dest : PartAddr
  msg : RstMsg
  status : RstStatus := .ok
  epoch : Nat := 0
  requestId : Nat := 0
  xfer : Nat := 0
  takeover : Bool := false
  append : Bool := false
  protect : Bool := false
deriving DecidableEq, Repr

/-- What a port carries (R415, R421, R495, R501, R511). -/
inductive Frame where
  | memReq (op : MemOp) (dest : Nat) (tenant : Nat) (tag : FrameTag) (size address operand : Nat) (data : List Byte)
  | memRsp (dest : Nat) (tag : FrameTag) (status : RemoteStatus) (data : List Byte)
  | tensor (dest : Nat) (tenant : Nat) (tag : FrameTag) (address index total : Nat) (block : CodedBlock)
  | tensorAck (dest : Nat) (tag : FrameTag) (index : Nat) (status : RemoteStatus)
  | rst (d : Datagram)
  | mirror (records : List MirrorRecord)
  | hello (trayId : Nat) (member : Nat) (twin : Nat)
  | heartbeat (role : TwinRole) (state : TwinState) (sent applied : Nat)
  | depart
  | forwarded (dest : Nat) (bytes : Nat) (class_ : Nat)
  | passedRst (h : RstHeader) (m : RstMsg)
deriving DecidableEq, Repr

/-- A frame of the Tray Management Chain that the part sends (R563, R564). -/
structure ChainFrame where
  dest : Nat
  source : Nat
  cmd : Nat
  seq : Nat
  status : Nat
  payload : List Nat
deriving DecidableEq, Repr

/-- The body of an event frame to the meter (R520). -/
inductive FeedBody where
  | bind (b : CompositionBody)
  | unbind (b : CompositionBody)
  | resource (b : CompositionBody)
  | seal (locks : Nat) (fwVersion : Nat) (firmware : Nat)
  | power (source target limit : Nat)
  | keepalive
deriving DecidableEq, Repr

/-- What the part has sent, newest first in `State.out` (log entry 11). A request to host memory carries its PASID, and a write its
Relaxed Ordering attribute (R595, R597). -/
inductive Output where
  | msix (vector : Nat)
  | hostRead (pasid address size : Nat)
  | hostWrite (pasid address : Nat) (relaxed : Bool) (bytes : List Byte)
  | ready (device : Bool)
  | readData (bytes : List Byte)
  | unsupported
  | configRetry
  | configData (value : Nat)
  | aer (code : Nat)
  | frame (port : PortNo) (dscp : Nat) (f : Frame)
  | chain (f : ChainFrame)
  | chainPassed (bytes : List Byte)
  | chainEnum (seq next : Nat)
  | feed (seq : Nat) (b : FeedBody)
  | remoteDone (region : RegionNo) (thread : Nat) (status : RemoteStatus) (data : List Byte)
  | regionAnswer (region : RegionNo) (status : RemoteStatus)
  | lineData (agent : Nat) (line : Nat) (data : List Byte) (poisoned : Bool)
  | accessError (agent : Nat) (line : Nat) (status : RemoteStatus)
  | thermTrip (low : Bool)
  | record (bytes : List Byte)
  | laneStatus (meterId boot newest : Nat) (broken fault : Bool)
  | i3c (bytes : List Byte)
  | i3cNack
  | inBand (newest : Nat)
  | advert (port : EthPort) (address : PartAddr)
  | lease (status : Nat)
deriving DecidableEq, Repr

/-! ## Platform, power and PCI Express (20, 21, 22) -/

/-- PLT_STATUS.STATE (R568). -/
inductive PltState where
  | rom | fuseInvalid | loading | training | ready | failed
deriving DecidableEq, Repr

/-- The two resets (R541). -/
inductive ResetKind where
  | warm | cold
deriving DecidableEq, Repr

/-- What follows a departure (R511): a reset, or the loss of the main rails with its LAST_OFF cause. -/
inductive AfterDeparture where
  | reset (k : ResetKind)
  | black (cause : Nat)
deriving DecidableEq, Repr

/-- The platform controller and the chain port (R537 to R568); `burning` is the slot of a BURN under way and the bytes staged for
it. -/
structure Platform where
  state : PltState := .rom
  cause : Nat := 0
  fwFallback : Bool := false
  lmc : Nat := 0
  lmcHeld : Bool := false
  mainRails : Bool := true
  starting : Option ResetKind := some .cold
  vaux3 : Bool := true
  strapSpi1v8 : Bool := true
  strapSris : Bool := true
  strapTest : Bool := false
  fuses : Tab Byte := []
  activeSlot : Option (Fin 4) := none
  thermo : Nat := 0
  repairs : Tab Nat := []
  ordering : Nat := 1
  nonceNo : Nat := 0
  burning : Option (Fin 4 × List Byte) := none
  bootA : Option Image := none
  bootB : Option Image := none
  preferB : Bool := false
  tries : Nat := 3
  flashRootList : Option KeyList := none
  rootList : Option KeyList := none
  ownerList : Option KeyList := none
  runningB : Bool := false
  runningVersion : Nat := 0
  runningDigest : BitVec 384 := 0
  staging : Option Image := none
  wrapKey : Option (BitVec 256) := none
  chainAddr : Nat := 0
  chainKeyId : BitVec 384 := 0
  lastOff : Nat := 0
  thermTripLow : Bool := false
  departing : Option AfterDeparture := none
deriving DecidableEq, Repr

/-- PWR_STATUS.STATE (R588). -/
inductive PwrState where
  | white | grey | charcoal | entering | leaving
deriving DecidableEq, Repr

/-- The power manager (R570 to R588); `held` is what waits for the end of Charcoal (R581). -/
structure Power where
  state : PwrState := .white
  exitGrey : Bool := false
  wakePending : Bool := false
  held : List Instr := []
  gated : Tab Bool := []
  fastRefresh : Tab Bool := []
  throttled : Tab Bool := []
  overHot : Tab Bool := []
  limitPacing : Bool := false
  pacingSince : Nat := 0
  pacingRest : Nat := 0
deriving DecidableEq, Repr

/-- An MSI-X table entry in its standard format (R601). -/
structure MsixEntry where
  address : Nat := 0
  data : Nat := 0
  masked : Bool := true
deriving DecidableEq, Repr

/-- The PCI Express endpoint (R589 to R607); `waiting` holds the commands whose read of host memory has to wait (R603). -/
structure Pcie where
  busMaster : Bool := false
  d3hot : Bool := false
  fatal : Bool := false
  msixEnable : Bool := false
  functionMask : Bool := false
  table : Tab MsixEntry := []
  pending : Tab Bool := []
  bar4Log2 : Nat := 36
  waiting : List Instr := []
  linkDownPending : Bool := false
  functionReset : Bool := false
deriving DecidableEq, Repr

/-! ## Memory tiers and pages (05, 06, 12) -/

/-- A holder of a lease slot (R180). -/
structure LeaseSlot where
  epoch : Nat
deriving DecidableEq, Repr

/-- The stacks: objects, key slots, pages, leases, units and pressure (05, 06, 12); `pressed` gives, for each composition, the stacks
whose own free slots put it under pressure (R349), `broken` the granules whose records were found
inconsistent (R191), `freeing` the FREEs of WRITABLE objects that wait for leases, with their epoch (R143),
and `epochLmc` the LMC of the latest increment of the lease epoch (R179). -/
structure Stacks where
  odt : Tab OdtEntry := []
  wp : Tab Bool := []
  umber : Tab Byte := []
  hostObj : Tab Byte := []
  xts : Tab (Option (BitVec 512)) := []
  objWaiting : List (Nat × ObjCommand) := []
  oldCopies : List (Nat × OdtEntry) := []
  sqTaken : Bool := false
  objCqTail : Nat := 0
  objSeq : Nat := 0
  objPhase : Bool := true
  objOut : List ObjCompletion := []
  freeing : List (Nat × ObjCompletion) := []
  pages : Tab PageRec := []
  outOfUse : Tab Bool := []
  broken : Tab Bool := []
  epoch : Nat := 0
  epochLmc : Nat := 0
  leases : Tab (Option LeaseSlot) := []
  usedUnits : Tab Bool := []
  retiredUnits : List (Nat × Nat) := []
  waits : Tab Nat := []
  manifestPressure : Bool := false
  pressed : Tab Nat := []
deriving DecidableEq, Repr

/-! ## Regions and microcode (02, 04, 07) -/

/-- Region states (R101). -/
inductive RegionState where
  | empty | loading | verifying | ready | serving | draining | faulted
deriving DecidableEq, Repr

/-- A unit that holds a region (R396, R399): its step, its kernel, the LMC from which it is charged, and whether it has completed
while its step still holds the region. -/
structure Unit where
  step : Nat
  kernel : Nat
  start : Nat
  ended : Bool
deriving DecidableEq, Repr

/-- A context in a save slot (R405): the kernel, whether it was saved at its exit, and the live ranges with their bytes. -/
structure Context where
  step : Nat
  kernel : Nat
  atExit : Bool
  ranges : List (Nat × List Byte)
deriving DecidableEq, Repr

/-- A region (R46, R62, R101, R113, R122). Ivory is by byte: 2.5 MiB for each logical cluster, its 16 cells' scratch of 96 KiB each
before its shared 1 MiB. `latches`, `switches` and `functions` are what the image set in each logical cluster: the configuration
latches of its cells, its switch, and the 6,144 words of the function memory that its cells share. `acc` is by
512 × cell + 256 × bank + output; `banks` tells of each cell which bank receives (R65). `idleSince` is the LMC from which a SERVING
region holds no unit (R576). -/
structure Region where
  state : RegionState := .empty
  comp : Option CompNo := none
  loadHandle : Nat := 0
  drainTo : Option Nat := none
  image : Option Image := none
  loadedHandle : Nat := 0
  ivory : Tab Byte := []
  latches : Tab (List Byte) := []
  switches : Tab (List Byte) := []
  functions : Tab (BitVec 32) := []
  acc : Tab (BitVec 32) := []
  banks : Tab Bool := []
  rng : Tab (BitVec 32) := []
  running : Option Unit := none
  saves : Tab (Option Context) := []
  threads : Tab Bool := []
  idleSince : Nat := 0
deriving DecidableEq, Repr

/-- The fabric (R101 to R126): `pkgLoading` is the handle of the package image that is being read and the lease slot of the reader. -/
structure Fabric where
  regions : Tab Region := []
  pkg : Option Image := none
  pkgLoading : Option (Nat × Option Nat) := none
  vdc : List (BitVec 384) := []
deriving DecidableEq, Repr

/-- Microcode slot states (R220). -/
inductive SlotState where
  | empty | loading | verifying | ready | faulted
deriving DecidableEq, Repr

/-- A microcode slot (R195, R220): `loadFor` is the composition whose ATTACH waits for its load, `lease` the lease slot of the engine that
reads its image (R142). -/
structure UcodeSlot where
  state : SlotState := .empty
  handle : Nat := 0
  cause : Nat := 0
  users : Nat := 0
  image : Option Image := none
  loadFor : Option CompNo := none
  lease : Option Nat := none
deriving DecidableEq, Repr

/-- A query row of a pass: its query head in the group, its node, its position, its ancestor map and its vector (R201, R263). -/
structure PassRow where
  query : Nat
  node : Nat
  position : Nat
  mask : BitVec 64
  vector : List (BitVec 16)
deriving DecidableEq, Repr

/-- A pass (R192, R201): what it carries. `pages` gives page index and granule; `stepRows` gives the node and position of each
step row on the stack, in row order from FILL on. -/
structure Pass where
  step : Nat
  index : Nat
  comp : Nat
  slot : Nat
  layer : Nat
  head : Nat
  length : Nat
  pages : List (Nat × Nat)
  stepRows : List (Nat × Nat)
  rows : List PassRow
deriving DecidableEq, Repr

/-- What a pass, or a kernel of fabric attention (`fabric`), returns for a row, with the lowest page index that it read (R202, R209,
R210). -/
structure PassResult where
  step : Nat
  index : Nat
  layer : Nat
  head : Nat
  query : Nat
  node : Nat
  lowest : Nat
  fabric : Bool := false
  m : BitVec 32
  l : BitVec 32
  o : List (BitVec 32)
deriving DecidableEq, Repr

/-- Stack attention (07): passes by lease slot 4 × core + slot, those that wait for a slot with their stack, and the results that no
merge has taken. -/
structure Microcode where
  slots : Tab UcodeSlot := []
  attached : Tab (Option (Fin 16)) := []
  detaching : Tab Bool := []
  passes : Tab (Option Pass) := []
  waiting : List (Nat × Pass) := []
  results : List PassResult := []
deriving DecidableEq, Repr

/-! ## Compositions, steps and shares (14) -/

/-- A composition (R387, R388, R104): its role, stack share, KV area or quotas, and the model it holds fixed. -/
structure Composition where
  role : Role
  stackMask : Nat
  kvOffset : Nat
  kvGranules : Nat
  slateGib : Nat
  umberGib : Nat
  fixed : Option (Nat × Nat × ModelDescriptor)
  pointer : Nat
  unbinding : Bool
deriving DecidableEq, Repr

/-- A share (R394, R400). -/
structure Share where
  weight : Nat
  deficit : Int
deriving DecidableEq, Repr

/-- What a step does for a request (R261, R277, R357, R270). -/
inductive StepKind where
  | decode | redraw | prefill | recompute
deriving DecidableEq, Repr

/-- A request's part of a step (R231, R262, R265). -/
structure StepReq where
  index : Nat
  requestId : Nat
  arbSeq : Nat
  kind : StepKind
  valid : Bool
  position : Nat
  upTo : Nat
  tree : List CandNode
  hasProb : Bool
  source : TreeSource
  probe : Bool
  pagesRead : Nat
deriving DecidableEq, Repr

/-- A step: its batch, whether a unit of it has been dispatched, whether every kernel has completed, and the region and save slot
of its context (R396, R107, R405). -/
structure Step where
  comp : Nat
  reqs : List StepReq
  begun : Bool
  complete : Bool
  save : Option (Nat × Nat)
deriving DecidableEq, Repr

/-- The region scheduler (14). -/
structure Scheduler where
  comps : Tab (Option Composition) := []
  shares : Tab (Option Share) := []
  regionNs : Tab Nat := []
  steps : Tab (Option Step) := []
  nextStep : Nat := 0
  cmdBusy : Bool := false
deriving DecidableEq, Repr

/-! ## The request table (08, 09) -/

/-- A command at an arbiter (R234), with its tokens and the slot of the submission queue it was read from. -/
structure HeldCommand where
  opcode : Nat
  cmd : HostCommand
  tokens : List Nat
  sqIndex : Nat
deriving DecidableEq, Repr

/-- An admission under way (R228, R325, R636): its input, what its end waits for, and a CANCEL that waits for it. -/
structure Admission where
  tag : Nat
  walkDone : Bool := false
  opened : Bool := false
  query : Bool := false
  closing : Bool := false
  cancel : Option Nat := none
deriving DecidableEq, Repr

/-- A tenant's queues (R247, R254, R259). -/
structure TenantQueues where
  sqTail : Nat := 0
  sqHead : Nat := 0
  cqHead : Nat := 0
  cqTail : Nat := 0
  cqPhase : Bool := true
  cqSeq : Nat := 0
  trHead : Nat := 0
  trTail : Nat := 0
  trPhase : Bool := true
  trSeq : Nat := 0
  unsignalled : Nat := 0
  outstanding : Nat := 0
  waiting : List RecordOut := []
deriving DecidableEq, Repr

/-- What follows the recomputation of dropped blocks and the prefill of input positions (R228, R252, R341, R357, R358). -/
inductive AfterPrefill where
  | commit | decode | handoff | resync | done
deriving DecidableEq, Repr

/-- Input positions that are not prefilled yet, from LENGTH on, whether they are forced output (R252), what follows, and whether
a step of them was begun (R352). -/
structure PendingInput where
  tokens : List Nat
  forced : Bool
  after : AfterPrefill
  started : Bool := false
deriving DecidableEq, Repr

/-- The blocks of a request's prompt in the prefix index so far, as hits or insertions, with the number of blocks
read from the home's index (R344) and the PFX_T_CTL bits of its admission
(R300, R310). -/
structure PrefixTrack where
  records : List Nat
  digests : List Nat
  hits : Nat
  remote : Nat
  blocks : Nat
  noInsert : Bool
  pinInsert : Bool
  fine : Bool
  stopped : Bool
deriving DecidableEq, Repr

/-- Block sets that an admission or a recovery reads from the home (R339, R344): the handles left, the index of the next block,
whether its OBJ_READ is out, and whether the prefix walk of a recovery is done. -/
structure BlockReads where
  handles : List Nat
  next : Nat
  asked : Bool
  walked : Bool
deriving DecidableEq, Repr

/-- The request engine (08, 09): entries, manifests, commands held at arbiters, admissions, pending inputs, queues, LOG_APPENDs in
flight and the lowest position that another must carry, offers that wait, restores with the tags of their RESUMEs, index tracks,
the records that are still to tell of a missed deadline, the entries whose present DEADLINE was missed, the draft head's trees for
their roots (R268), block sets
being read, entries taken over whose home has not answered (R504), and the LMC at which each entry of a handoff last heard a message of its
transfer or was audited (R336). -/
structure Requests where
  entries : Tab Entry := []
  manifests : Tab Manifest := []
  held : Tab (List HeldCommand) := []
  admissions : Tab (Option Admission) := []
  inputs : Tab (Option PendingInput) := []
  queues : Tab TenantQueues := []
  logInFlight : Tab Bool := []
  logFrom : Tab (Option Nat) := []
  offers : Tab Bool := []
  restores : Tab (Option (List Nat)) := []
  tracks : Tab (Option PrefixTrack) := []
  missToken : Tab Bool := []
  missCompletion : Tab Bool := []
  missed : Tab Bool := []
  drafts : Tab (List CandNode) := []
  reads : Tab (Option BlockReads) := []
  taken : Tab Bool := []
  heard : Tab Nat := []
deriving DecidableEq, Repr

/-! ## Prefix index (10) -/

/-- A domain key slot (R289). -/
structure DomainSlot where
  domain : Nat := 0
  owner : Nat := 0
  key : BitVec 256 := 0
deriving DecidableEq, Repr

/-- Scans of one domain (R304). -/
inductive ScanKind where
  | unpin | flush | clear
deriving DecidableEq, Repr

/-- The prefix index (10). -/
structure Prefix where
  slots : Tab DomainSlot := []
  ways : Tab Way := []
  records : Tab BlockRec := []
  scan : Option (Nat × ScanKind) := none
deriving DecidableEq, Repr

/-! ## Request State Transfer (11) -/

/-- A connection to a peer part (R316): the identifiers of both ends, the next SEQ to send and to accept, the peer's window,
the datagrams that await an ACK with their resends, those that wait for the SYN exchange or the window, those held ahead of a gap, and the page
bytes of a message whose last datagram has not come. -/
structure Connection where
  peer : PartAddr
  ident : Nat
  peerIdent : Nat
  open_ : Bool
  sentSeq : Nat
  expected : Nat
  peerWindow : Nat
  unacked : List (Nat × Datagram)
  waiting : List Datagram
  heldIn : List (Nat × RstHeader × RstMsg)
  gathered : List Byte
deriving DecidableEq, Repr

/-- What a transfer slot is taken for (R321). -/
inductive TransferKind where
  | send | receive | recovery | publish | objRead
deriving DecidableEq, Repr

/-- A transfer (R321, R331): its request, peer and epoch; the offers sent (`tries`); the pages pulled and not yet here, by layer
and page; whether the receiver has walked its index, sent CLAIM, or sent a WHO_OWNS that is not answered; whether the peer was
found unreachable; the block of a publication; and an OFFER that waits to be sent again (R335). -/
structure Transfer where
  kind : TransferKind
  requestId : Nat
  index : Nat
  peer : PartAddr
  epoch : Nat
  append : Bool
  tries : Nat
  pulls : List (Nat × Nat)
  walked : Bool
  claimSent : Bool
  audited : Bool
  unreachable : Bool
  block : Nat
  retryWait : Bool
deriving DecidableEq, Repr

/-- The manifest units of a ledger (R322, R323): LOG_DIR, the log units that it lists, and BLOCK_UNITS; 0 is none. -/
structure LedgerUnits where
  dir : Nat := 0
  logs : List Nat := []
  blocks : List Nat := []
deriving DecidableEq, Repr

/-- The RST engine (11); `asks` holds the messages to this home whose answer waits for a lease (R180). -/
structure Xfer where
  conns : List Connection := []
  slots : Tab (Option Transfer) := []
  ledgers : Tab Ledger := []
  units : Tab LedgerUnits := []
  asks : List (RstHeader × RstMsg) := []
deriving DecidableEq, Repr

/-! ## Codec, links, coherence and traffic (13, 15, 16) -/

/-- A codec table slot (R383). -/
structure CodecTable where
  loaded : Bool := false
  tag : Nat := 0
  lengths : List Nat := []
deriving DecidableEq, Repr

/-- A GCM key slot (R384, R385): `next` is the lowest SEQ that no datagram has used under the key and GEN. -/
structure GcmSlot where
  key : Option (BitVec 256) := none
  peer : PartAddr := 0
  gen : Nat := 0
  next : Nat := 0
deriving DecidableEq, Repr

/-- The link codec (13): the table slots, the GCM key slots, and the egress ports in bypass (R379). -/
structure Codec where
  tables : Tab CodecTable := []
  gcm : Tab GcmSlot := []
  bypass : Tab Bool := []
deriving DecidableEq, Repr

/-- Roale port states (R444). -/
inductive PortState where
  | down | training | up | foreign | mismatch
deriving DecidableEq, Repr

/-- A Roale port (R411 to R417). -/
structure Port where
  state : PortState := .down
  mode : Nat := 0
  neighbour : Nat := 0
deriving DecidableEq, Repr

/-- An operation in an outstanding slot of a region (R432, R433), or one that waits for a slot: the byte of its region's Ivory that takes
what it returns, where that is no register of the sequencer (R427), the number of its first issue,
the generation of its slot, the port that took its frame, whether it waits after RETRY, how often it has received it, and
for a coded tensor write the blocks that are not answered with OK, those to be sent again, and the table slot that each was coded
with, plus 1 (R383). -/
structure RemoteOp where
  member : Nat
  thread : Nat
  tenant : Nat
  kind : RemoteKind
  size : Nat
  address : Nat
  operand : Nat
  data : List Byte
  dest : Option Nat := none
  generation : Nat := 0
  issued : Nat := 0
  port : Nat := 0
  waiting : Bool := false
  tries : Nat := 0
  left : List Nat := []
  again : List Nat := []
  codedWith : Tab Nat := []
deriving DecidableEq, Repr

/-- Member states (R417, R444). -/
inductive MemberState where
  | absent | enrolled | departing | departed
deriving DecidableEq, Repr

/-- Roale Link (15): `postedBad` is the first status other than OK of a thread's posted operations since its last fence. -/
structure Link where
  ports : Tab Port := []
  ethUp : Tab Nat := []
  trayId : Nat := 0
  member : Nat := 0
  twin : Option Nat := none
  enrolled : Bool := false
  members : Tab MemberState := []
  barriers : Tab (Option Nat) := []
  ops : Tab (Option RemoteOp) := []
  generations : Tab Nat := []
  fences : Tab Bool := []
  postedBad : Tab (Option RemoteStatus) := []
  opQueue : List (Nat × RemoteOp) := []
  issues : Nat := 0
deriving DecidableEq, Repr

/-- MESI states of a line in a caching agent (R437). -/
inductive CacheState where
  | invalid | shared | exclusive | modified
deriving DecidableEq, Repr

/-- A line in a cache, with the hold window's progress (R437, R442). -/
structure CacheLine where
  state : CacheState := .invalid
  data : List Byte := []
  holding : Bool := false
  waitingForward : Bool := false
deriving DecidableEq, Repr

/-- Directory states of a line (R438). -/
inductive DirState where
  | uncached | shared | owned
deriving DecidableEq, Repr

/-- A request waiting at a line's home (R440). -/
inductive CohReq where
  | readShared (a : Nat)
  | readExclusive (a : Nat) (store : Option (Nat × List Byte))
  | upgrade (a : Nat) (store : Option (Nat × List Byte))
  | uncachedRead
  | invalidatingWrite (offset : Nat) (data : List Byte)
  | writeFull (a : Nat) (data : List Byte)
  | replace
deriving DecidableEq, Repr

/-- A line at its home (R438, R440): directory state, owner, sharers, poison, when its entry was last used, the transaction under
way with the agents whose answers it waits for or the line whose entry it waits for, and the requests that wait behind it. -/
structure HomeLine where
  state : DirState := .uncached
  owner : Nat := 0
  sharers : List Nat := []
  poisoned : Bool := false
  used : Nat := 0
  busy : Option CohReq := none
  awaiting : List Nat := []
  needs : Option Nat := none
  queue : List CohReq := []
deriving DecidableEq, Repr

/-- Package coherence (15): cache lines by agent and line, home lines by line, the count that orders the uses of directory
entries, and the LMC of the latest calibration. -/
structure Coherence where
  lines : Tab CacheLine := []
  home : Tab HomeLine := []
  uses : Nat := 0
  calibrated : Nat := 0
deriving DecidableEq, Repr

/-- A frame in an egress queue with its bytes and tenant (R446). -/
structure Queued where
  frame : Frame
  bytes : Nat
deriving DecidableEq, Repr

/-- A token bucket at its last use (R449, R453): hundredths of a byte, which a frame may take below zero, and the LMC then;
`none` is a full bucket. -/
structure Bucket where
  level : Option Int := none
  at_ : Nat := 0
deriving DecidableEq, Repr

/-- The traffic manager (16): egress queues by 8 p + k, deficits, pointers, shaper, ceiling and meter buckets, whether the queue at
the pointer has had its quantum, receive queue occupancy in bytes by 8 p + c. By port, the frames for whose queue no room is left wait in
the order their engines made them: the coded blocks among them stand in the port's encode queue (R379, R452). -/
structure Traffic where
  queues : Tab (List Queued) := []
  waiting : Tab (List Queued) := []
  deficits : Tab Int := []
  pointers : Tab Nat := []
  topped : Tab Bool := []
  buckets : Tab Bucket := []
  meters : Tab Bucket := []
  received : Tab Nat := []
deriving DecidableEq, Repr

/-! ## Umber (17); the Slate controller's state lies in the SLT_ registers -/

/-- Flash states (R489). -/
inductive FlashState where
  | notConfigured | scanning | ready | failed
deriving DecidableEq, Repr

/-- Kinds of programmed page (R469, PTYPE). -/
inductive PageType where
  | data | tombstone | summary | badBlock
deriving DecidableEq, Repr

/-- A programmed page: its spare record and, for a tombstone, TOMB_SEQ and its range, for a bad-block record the block
(R469, R472). -/
structure FlashPage where
  ptype : PageType
  sequence : Nat
  unit_ : Nat := 0
  copy : Bool := false
  handle : Nat := 0
  tombSeq : Nat := 0
  count : Nat := 0
  block : Nat := 0
deriving DecidableEq, Repr

/-- A flash block; one that holds no page is free (R471, R475, R485). -/
structure FlashBlock where
  oneBit : Bool := false
  closed : Bool := false
  retired : Bool := false
  pages : List FlashPage := []
deriving DecidableEq, Repr

/-- Umber's flash translation (17): the map gives the block and page of a logical unit; `slateScrubbed` is the LMC of the latest scrub
of Slate (R465). -/
structure Flash where
  state : FlashState := .notConfigured
  cause : Nat := 0
  nand : Option NandId := none
  blocks : Tab FlashBlock := []
  map : Tab (Option (Nat × Nat)) := []
  sequence : Nat := 0
  foreground : Bool := false
  credit : Nat := 0
  refresh : List Nat := []
  scanStart : Nat := 0
  slateScrubbed : Nat := 0
deriving DecidableEq, Repr

/-! ## Twin, meter and lane (18, 19) -/

/-- Output that waits for the Mirror (R499). -/
inductive HeldOut where
  | record (tenant : Nat) (r : RecordOut)
  | rst (m : RstOut)
deriving DecidableEq, Repr

/-- The twin (18); `written` lists the completions written, by tenant and SEQUENCE, whose CONFIRM is still to be sent (R499);
`beatSent` and `beatHeard` are the LMC of the latest heartbeat of either side, and `fenceLmc` that at which FENCING or its FENCE began (R501,
R502). -/
structure Twin where
  state : TwinState := .solo
  role : TwinRole := .none
  phase : Nat := 0
  inSync : Bool := false
  sent : Nat := 0
  applied : Nat := 0
  held : List (Nat × HeldOut) := []
  newHeld : List HeldOut := []
  copyOut : List (Nat × Nat) := []
  incomplete : List MirrorRecord := []
  stopped : Bool := false
  fenceSent : Bool := false
  mirroredPages : Tab Bool := []
  unconfirmed : List (Nat × Completion) := []
  written : List (Nat × Nat) := []
  tookOver : Bool := false
  beatSent : Nat := 0
  beatHeard : Nat := 0
  fenceLmc : Nat := 0
deriving DecidableEq, Repr

/-- An open composition of the meter: its latest body and FEED_SEQ, and its counts of the interval in 100 ns up to MTC `since`
(R524, R525). -/
structure MeterComp where
  body : CompositionBody
  seq : Nat
  since : Nat
  bound : Nat
  regionTicks : Nat
  stackTicks : Nat
deriving DecidableEq, Repr

/-- The meter die (19); `heard` is the meter time of the latest arrival on the feed, `statusAt` that of the latest lane status frame. -/
structure Meter where
  powered : Bool := true
  boot : Nat := 0
  mtc : Nat := 0
  energy : Nat := 0
  meterId : Nat := 0
  intervalS : Nat := 900
  staticAddr : BitVec 7 := 0
  broken : Bool := false
  fault : Bool := false
  certificate : List Byte := []
  log : Tab (Option MeterRecord) := []
  newest : Nat := 0
  feedFaults : Nat := 0
  comps : Tab (Option MeterComp) := []
  lastSeq : Nat := 0
  lastFrame : Nat := 0
  lastEnergy : Nat := 0
  heard : Nat := 0
  statusAt : Nat := 0
  silent : Bool := false
  interval : Nat := 0
  intervalStart : Nat := 0
  intervalEnergy : Nat := 0
  prevHash : BitVec 384 := 0
  dynAddr : Option (BitVec 7) := none
  ibi : Bool := false
  pointer : Nat := 0
deriving DecidableEq, Repr

/-- The event feed of the part and the record lane's mailbox (R519 to R521, R534 to R536): `msAt` is the LMC at the start of the
millisecond under way, `heardAt` that of the latest arrival on the record lane. -/
structure Lane where
  nextSeq : Nat := 1
  sentThisMs : Bool := false
  notifiedAt : Option Nat := none
  msAt : Nat := 0
  heardAt : Nat := 0
  mailbox : Tab (Option MeterRecord) := []
  latched : Option MeterRecord := none
deriving DecidableEq, Repr

/-! ## The whole state -/

/-- The state of the block. `pending` is the queue of commands, `fresh` numbers the part's free choices, `fields` holds the
register fields, `mem` the bytes of Ochre and Slate by local address (R130). -/
structure State where
  pending : List Instr := []
  fresh : Nat := 0
  fields : Tab Nat := []
  mem : List Host.Cell := []
  plt : Platform := {}
  pwr : Power := {}
  pcie : Pcie := {}
  stk : Stacks := {}
  fab : Fabric := {}
  ucode : Microcode := {}
  sch : Scheduler := {}
  rqt : Requests := {}
  pfx : Prefix := {}
  xfr : Xfer := {}
  cod : Codec := {}
  lnk : Link := {}
  coh : Coherence := {}
  tm : Traffic := {}
  fls : Flash := {}
  twn : Twin := {}
  mtr : Meter := {}
  lane : Lane := {}
  out : List Output := []
deriving DecidableEq, Repr

/-- The 48 bytes of a hash field. -/
def hashBytes (n : Nat) : List Byte := (List.range 48).map (fun i => BitVec.ofNat 8 (n / 256 ^ i))

/-- Bytes 0 to 503 of generation slot 0 as manufactured: FORMAT 1, the two key hashes, FEATURES TWIN, XTS and GCM, and zeros
(R545; log entry 4). -/
def slotAtReset : List Byte :=
  [1, 0, 0, 0] ++ hashBytes Config.rootKeyHash ++ hashBytes Config.ownerKeyHash ++ [7] ++ List.replicate 403 0

/-- The fuse bank as manufactured: slot 0 with its CRC (log entry 4). -/
def fusesAtReset : Tab Byte :=
  tabPutRun 0 [] 0 (slotAtReset ++ (List.range 4).map (fun i => BitVec.ofNat 8 ((crc32 slotAtReset).toNat / 256 ^ i)))

/-- The machine right after reset: a cold reset has just begun, with the main rails on and step 3 of R538 still to run
(log entries 3 to 9). Every register field reads its table's reset value, Ochre reads zero, and every table is empty. -/
def State.reset : State :=
  { plt := { fuses := fusesAtReset, bootA := Config.bootImage false, bootB := Config.bootImage true,
             flashRootList := Config.bootRootList } }

/-- Why a command stops the machine. No command of the manual does: every error of the manual is a status, a poisoned answer
or a loss of rails, which are effects on State. -/
inductive Fault where
  /-- Raised by no command of this model; safe. -/
  | none
deriving DecidableEq, Repr

/-- Why a command has no meaning here. -/
inductive Refusal where
  /-- Raised by an arm of `exec` whose command is not modelled yet; safe. -/
  | notModelled (mnemonic : String)
deriving DecidableEq, Repr

end Sys2Proof.Machine
end

