-- ==== Sys2Proof/Machine/Ops.lean ====
section
/-! DEFINITION. The named operations that every family shares: register fields, counters and latched records, output, free
choices, time, memory bytes, and interrupts. -/

namespace Sys2Proof.Machine

open Sys2Proof

/-! ## Register fields -/

/-- The stored value of a field. -/
def getF (s : State) (f : Field) : Nat := tabGet f.reset s.fields f.key

/-- The field set to a value, cut to the field's width. -/
def putF (s : State) (f : Field) (v : Nat) : State :=
  { s with fields := tabPut f.reset s.fields f.key (v % 2 ^ f.width) }

/-- A one-bit field reads 1. -/
def isSet (s : State) (f : Field) : Bool := getF s f == 1

/-- A counter that holds at its largest value. -/
def satF (s : State) (f : Field) : State :=
  if getF s f + 1 < 2 ^ f.width then putF s f (getF s f + 1) else s

/-- A counter that holds at its largest value, raised by `n`. -/
def satAddF (s : State) (f : Field) (n : Nat) : State :=
  putF s f (min (getF s f + n) (2 ^ f.width - 1))

/-- A counter that wraps. -/
def wrapF (s : State) (f : Field) (n : Nat) : State := putF s f (getF s f + n)

/-! ## Output, free choices and time -/

/-- Something leaves the part. -/
def emit (s : State) (o : Output) : State := { s with out := o :: s.out }

/-- Several things leave the part, in order. -/
def emitAll (s : State) : List Output → State
  | [] => s
  | o :: os => emitAll (emit s o) os

/-- The next free value (log entry 2). -/
def drawFree (s : State) : Nat × State := (Config.choice s.fresh, { s with fresh := s.fresh + 1 })

/-- One of the alternatives that the manual leaves to the part; the only one where there is one. -/
def pick {α : Type} (s : State) : List α → Option α × State
  | [] => (none, s)
  | [a] => (some a, s)
  | a :: b :: l =>
    ((a :: b :: l)[(Config.choice s.fresh) % (l.length + 2)]?, { s with fresh := s.fresh + 1 })

/-- LMC counts of a number of microseconds (R56). -/
def usCounts (us : Nat) : Nat := us * 100

/-- The LMC counts: the main rails are on and the clock is good (R58, R59). -/
def lmcRuns (s : State) : Bool := s.plt.mainRails && !s.plt.lmcHeld

/-- One period of the reference clock (R56, R58, R59; log entry 12). -/
def tick (s : State) : State :=
  if lmcRuns s then { s with plt := { s.plt with lmc := (s.plt.lmc + 1) % 2 ^ 64 } } else s

/-! ## What the part serves -/

/-- The main rails are on and PLT_STATUS.STATE reads READY (R594). -/
def isReady (s : State) : Bool := s.plt.mainRails && s.plt.state == .ready

/-- The fabric is on: neither in Charcoal nor entering or leaving it (R576). -/
def isAwake (s : State) : Bool := s.pwr.state == .white || s.pwr.state == .grey

/-- The part runs its engines: READY and awake. -/
def runs (s : State) : Bool := isReady s && isAwake s

/-- The number of the register block of a BAR 0 offset: 0 to 15, or 3 (FAB_) for the region windows (R592, R594). -/
def blockOf (off : Nat) : Nat := if off < 0x01000000 then off / 0x100000 else 3

/-- The part serves the block (R594): PLT_ 0, FUSE_ 1, PWR_ 2, FAB_ 3, STK_ 4, RQT_ 5, PFX_ 6, XFR_ 7, COD_ 8, SCH_ 9, LNK_ 10,
TM_ 11, SLT_ 12, FLS_ 13, TWN_ 14, MTR_ 15. -/
def serves (s : State) (block : Nat) : Bool :=
  s.plt.mainRails &&
    (match s.plt.state with
    | .ready => true
    | .loading | .training => block == 0 || block == 1 || block == 2 || block == 15
    | .rom | .fuseInvalid | .failed => block == 0 || block == 1)

/-- The lock bits of the blocks, by block number (R593). -/
def lockField : Nat → Option Field
  | 1 => some F.fuseCtl.fuseLock
  | 2 => some F.pwrCtl.pwrLock
  | 3 => some F.fabCtl.fabLock
  | 4 => some F.stkObjCtl.stkLock
  | 5 => some F.rqtCtl.rqtLock
  | 6 => some F.pfxCtl.pfxLock
  | 7 => some F.xfrCtl.xfrLock
  | 8 => some F.codCtl.codLock
  | 9 => some F.schCtl.schLock
  | 10 => some F.lnkCtl.lnkLock
  | 11 => some F.tmCtl.tmLock
  | 12 => some F.sltCtl.sltLock
  | 13 => some F.flsCtl.flsLock
  | _ => none

/-- The lock bit of the block is set (R15, R593). -/
def isLocked (s : State) (block : Nat) : Bool :=
  match lockField block with
  | none => false
  | some f => isSet s f

/-- The part issues no memory request and sends no message (R603, R604, R606). -/
def hostOff (s : State) : Bool :=
  !s.pcie.busMaster || s.pcie.d3hot || s.pcie.fatal || !isSet s F.pltPcieLink.dlUp

/-! ## MSI-X (R599 to R601, R603) -/

/-- The part may send the message of vector `k` now. -/
def vectorOpen (s : State) (k : Nat) : Bool :=
  !hostOff s && s.pcie.msixEnable && !s.pcie.functionMask && !(tabGet {} s.pcie.table k).masked &&
    (k < 2048 || isSet s F.pltPcieCtl.vectorExt)

/-- An event of vector `k`: one message, or the Pending Bit (R600). -/
def signal (s : State) (k : Nat) : State :=
  if vectorOpen s k then emit s (.msix k)
  else { s with pcie := { s.pcie with pending := tabPut false s.pcie.pending k true } }

/-- The message of a set Pending Bit, once the vector may send (R600). -/
def releaseVector (s : State) (k : Nat) : State :=
  if tabGet false s.pcie.pending k && vectorOpen s k then
    emit { s with pcie := { s.pcie with pending := tabPut false s.pcie.pending k false } } (.msix k)
  else s

/-- The messages of every set Pending Bit whose vector may send. -/
def releaseVectors (s : State) : State :=
  (tabKeys s.pcie.pending (fun b => b)).foldl releaseVector s

/-- Signals the vector that a register names, where its enable bit is set. -/
def notify (s : State) (enable vector : Field) : State :=
  if isSet s enable then signal s (getF s vector) else s

/-! ## Latched records (VALID and OVERFLOW, RW1C) -/

/-- A record that holds the first event: `fill` writes it while VALID is 0, and OVERFLOW tells of further ones. -/
def latch (s : State) (valid overflow : Field) (fill : State → State) : State :=
  if isSet s valid then putF s overflow 1 else putF (fill s) valid 1

/-! ## Memory bytes (R13, R130) -/

/-- `n` over `d`, rounded up. -/
def ceilDiv (n d : Nat) : Nat := n / d + (if n % d = 0 then 0 else 1)

/-- Lines of 128 bytes are numbered by their address over 128; cached lines are kept by agent and line (R437). -/
def lineKey (a line : Nat) : Nat := a * 2 ^ 41 + line

/-- The Modified copy of a line, where a cache holds one. -/
def modifiedCopy (s : State) (line : Nat) : Option (List Byte) :=
  (s.coh.lines.find? (fun e => e.1 % 2 ^ 41 == line && e.2.state == .modified)).map (fun e => e.2.data)

/-- A byte of the local address space as an agent without a cache reads it (R440): the Modified copy of its line, else memory;
what nothing lists reads 0 (R538, R542). -/
def memByte (s : State) (a : Nat) : Byte :=
  match modifiedCopy s (a / 128) with
  | some d => (d[a % 128]?).getD 0
  | none => tabGet 0 s.mem a

/-- `n` bytes from `a`. -/
def memBytes (s : State) (a n : Nat) : List Byte := (List.range n).map (fun i => memByte s (a + i))

/-- The lines that `n` bytes at `a` touch. -/
def linesOf (a n : Nat) : List Nat :=
  if n = 0 then [] else (List.range (ceilDiv (a % 128 + n) 128)).map (fun i => a / 128 + i)

/-- The line of a cache entry is one of those of `n` bytes at `a`. -/
def lineIn (a n k : Nat) : Bool := n != 0 && decide (k % 2 ^ 41 * 128 < a + n) && decide (a < (k % 2 ^ 41 + 1) * 128)

/-- The 128 bytes of a copy. -/
def copyBytes (d : List Byte) : List Byte := (List.range 128).map (fun i => (d[i]?).getD 0)

/-- Memory with the Modified copy of a line taken into it. -/
def mergeCopy (s : State) (m : List Host.Cell) (l : Nat) : List Host.Cell :=
  match modifiedCopy s l with
  | some d => tabPutRun 0 m (l * 128) (copyBytes d)
  | none => m

/-- Takes the Modified copies of the lines of `n` bytes at `a` into memory and drops every cached copy (R440). -/
def dropCopies (s : State) (a n : Nat) : State :=
  { s with
    mem := (linesOf a n).foldl (mergeCopy s) s.mem
    coh := { s.coh with
      lines := tabDrop s.coh.lines (fun k _ => lineIn a n k)
      home := tabDrop s.coh.home (fun k h => lineIn a n k && h.busy.isNone && h.queue.isEmpty && !h.poisoned) } }

/-- The canonical form of Ochre and Slate as State holds them: rising addresses and no byte that is 0. -/
def Memory.wf (m : List Host.Cell) : Bool := tabWf 0 m

/-- The bytes written at `a` and on, as the invalidating writes of an agent without a cache (R437, R440). -/
def memWrite (s : State) (a : Nat) (bs : List Byte) : State :=
  { dropCopies s a bs.length with mem := tabPutRun 0 (dropCopies s a bs.length).mem a bs }

/-- A little-endian value (R13). -/
def leNat : List Byte → Nat
  | [] => 0
  | b :: bs => b.toNat + 256 * leNat bs

/-- The `n` little-endian bytes of a value (R13). -/
def leBytes : Nat → Nat → List Byte
  | 0, _ => []
  | n + 1, v => BitVec.ofNat 8 v :: leBytes n (v / 256)

/-- GiB in bytes. -/
def gib : Nat := 2 ^ 30

/-- C of R130: 48 for ordering code 1, 36 for 2 (R3, R568). -/
def stackGib (s : State) : Nat := if s.plt.ordering = 1 then 48 else 36

/-- I of R130. -/
def interGib (s : State) : Nat := getF s F.stkOchreCfg.interleavedGib

/-- The first local address of the stack-local parts (R130). -/
def localBase : Nat := 0x020000000000

/-- The first local address of Slate (R130). -/
def slateBase : Nat := 0x100000000000

/-- `n` bytes at `a` lie in the interleaved part (R130). -/
def inInterleaved (s : State) (a n : Nat) : Bool := a + n ≤ 32 * interGib s * gib

/-- `n` bytes at `a` lie in one stack's stack-local part (R130). -/
def inStackLocal (s : State) (a n : Nat) : Bool :=
  localBase ≤ a &&
    (let d := a - localBase
     d / 2 ^ 36 < 32 && d % 2 ^ 36 + n ≤ (stackGib s - interGib s) * gib)

/-- The end of the Slate range that R130 offers for objects: it lies below the controller's private area (R129, R466). -/
def slateObjectEnd (s : State) : Nat := slateBase + (getF s F.sltStatus.capacityGib - getF s F.sltCtl.privateGib) * gib

/-- `n` bytes at `a` lie in Slate, outside the private area, which no agent but its controller reaches (R129, R130). -/
def inSlate (s : State) (a n : Nat) : Bool := slateBase ≤ a && decide (a + n ≤ slateObjectEnd s)

/-- `n` bytes at `a` lie in Ochre. -/
def inOchre (s : State) (a n : Nat) : Bool := inInterleaved s a n || inStackLocal s a n

/-- The stack on which a local address lies, and so the home of its line (R131, R133). -/
def stackOf (a : Nat) : Nat :=
  if a < localBase then (a / 4096) % 32 else if a < slateBase then (a - localBase) / 2 ^ 36 else 0

/-- The byte of its stack at which a local address of Ochre lies (R131). -/
def stackOffset (s : State) (a : Nat) : Nat :=
  if a < localBase then a / 4096 / 32 * 4096 + a % 4096 else interGib s * gib + (a - localBase) % 2 ^ 36

/-- The local address of granule index `g` (R132). -/
def granuleAddr (g : Nat) : Nat := localBase + g * 4096

/-- G_s of R167: granules in one stack-local part. -/
def localGranules (s : State) : Nat := (stackGib s - interGib s) * 262144

/-- The write-protect bit of the granule of a local address (R137). -/
def isProtected (s : State) (a : Nat) : Bool := tabGet false s.stk.wp (a / 4096)

/-- The write-protect bits of `n` granules from local address `a` (R137). -/
def protect (s : State) (a n : Nat) (on : Bool) : State :=
  { s with stk := { s.stk with wp := tabPutRun false s.stk.wp (a / 4096) (List.replicate n on) } }

/-- A range of `n` bytes at `a` overlaps one of `m` bytes at `b`. -/
def overlaps (a n b m : Nat) : Bool := a < b + m && b < a + n

/-- The ranges that only the part writes (R169, R292, R322, R405): page records, manifest pool, prefix table and records,
ledger table, block area, save area; each as a local address and bytes. A part whose pool holds no block record has no prefix table
(log entry 83). -/
def ownRanges (s : State) : List (Nat × Nat) :=
  [(getF s F.stkPageRecBase.base * 4096, localGranules s * 8 * 32),
   (getF s F.stkManifestBase.base * 8192, getF s F.stkManifestUnits.count * 8192),
   (getF s F.pfxTableBase.base * 2 ^ 31, if getF s F.pfxBlockCount.count = 0 then 0 else 2 ^ 31),
   (getF s F.pfxBlockBase.base * 1024, getF s F.pfxBlockCount.count * 1024),
   (getF s F.xfrLedgerBase.base * 4096, getF s F.xfrLedgerCount.count * 512),
   (getF s F.xfrBlockAreaBase.base * 4096, getF s F.xfrBlockAreaSize.granules * 4096),
   (getF s F.schSaveBase.base * 2 ^ 30, 8 * gib)]

/-- A write of `n` bytes at `a` meets a write-protected granule, or a range that only the part writes (R137, R169). -/
def writeRefused (s : State) (a n : Nat) : Bool :=
  (List.range (ceilDiv (a % 4096 + n) 4096)).any (fun i => isProtected s (a + i * 4096)) ||
    (isSet s F.stkObjCtl.stkLock && (ownRanges s).any (fun r => r.2 != 0 && overlaps a n r.1 r.2))

/-! ## Serial arithmetic (R181) -/

/-- `a` is later than `b` in 32-bit serial arithmetic. -/
def laterThan (a b : Nat) : Bool :=
  let d := (a + 2 ^ 32 - b % 2 ^ 32) % 2 ^ 32
  1 ≤ d && d ≤ 2 ^ 31 - 1

/-- The first of `n` numbers from `lo` on that `p` admits. -/
def firstFree (lo : Nat) : Nat → (Nat → Bool) → Option Nat
  | 0, _ => none
  | n + 1, p => if p lo then some lo else firstFree (lo + 1) n p

/-- One of `n` numbers from `lo` on that `p` admits, where there is one; the part chooses which (log entry 2). -/
def chooseFree (s : State) (lo n : Nat) (p : Nat → Bool) : Option Nat × State :=
  match firstFree lo n p with
  | none => (none, s)
  | some d =>
    let k := lo + Config.choice s.fresh % n
    (some (if p k then k else d), { s with fresh := s.fresh + 1 })

end Sys2Proof.Machine
end

