-- ==== Sys2Proof/Machine/Fuses.lean ====
section
/-! DEFINITION. The fuse bank: generation slots, the active generation, features, and repair records (R544 to R553). -/

namespace Sys2Proof.Machine

open Sys2Proof

/-! ## Generation slots (R545, R546) -/

/-- `n` bytes of generation slot `k` from offset `o`. -/
def slotBytes (s : State) (k o n : Nat) : List Byte := tabGetRun 0 s.plt.fuses (512 * k + o) n

/-- A little-endian field of generation slot `k`. -/
def slotField (s : State) (k o n : Nat) : Nat := leNat (slotBytes s k o n)

/-- The slot's bits are not all zero. -/
def slotUsed (s : State) (k : Nat) : Bool := s.plt.fuses.any (fun e => 512 * k ≤ e.1 && decide (e.1 < 512 * k + 512))

/-- The CRC of the slot is correct (R546). -/
def slotValid (s : State) (k : Nat) : Bool := slotUsed s k && slotField s k 504 4 == (crc32 (slotBytes s k 0 504)).toNat

/-- At least two REVOKE bits of the slot are 1 (R546). -/
def slotRevoked (s : State) (k : Nat) : Bool :=
  2 ≤ ((List.range 32).filter (fun i => (slotField s k 508 4).testBit i)).length

/-- The slot is valid and not revoked. -/
def slotLives (s : State) (k : Nat) : Bool := slotValid s k && !slotRevoked s k

/-- The active generation: the highest slot that is valid and not revoked (R546). -/
def highestSlot (s : State) : Option (Fin 4) := ([3, 2, 1, 0] : List (Fin 4)).find? (fun k => slotLives s k.val)

/-- Burns all 32 REVOKE bits of slot `k`. -/
def revokeSlot (s : State) (k : Nat) : State :=
  { s with plt := { s.plt with fuses := tabPutRun 0 s.plt.fuses (512 * k + 508) (List.replicate 4 255#8) } }

/-- Step 4 of R538: the active slot is chosen, and every valid, unrevoked slot below it is revoked (R546). -/
def selectGeneration (s : State) : State :=
  match highestSlot s with
  | none => { s with plt := { s.plt with activeSlot := none } }
  | some k =>
    ((List.range k.val).filter (slotLives s)).foldl revokeSlot { s with plt := { s.plt with activeSlot := some k } }

/-- A field of the active generation; 0 where no slot is active. -/
def activeField (s : State) (o n : Nat) : Nat :=
  match s.plt.activeSlot with
  | some k => slotField s k.val o n
  | none => 0

/-- A bit of FEATURES: 0 TWIN, 1 XTS, 2 GCM, 3 DEBUG (R545, R550). -/
def hasFeature (s : State) (bit : Nat) : Bool := (activeField s 100 8).testBit bit

/-- TWIN_ROLE of the active generation: 0 none, 1 Active, 2 Mirror. -/
def fusedRole (s : State) : Nat := activeField s 108 1

/-- METER_BINDING of the active generation; 0 is no binding. -/
def meterBinding (s : State) : Nat := activeField s 112 16

/-- The hash fields of the active generation. -/
def rootHash (s : State) : Nat := activeField s 4 48
def ownerHash (s : State) : Nat := activeField s 52 48

/-! ## Repair records (R553) -/

/-- Repair record `i`. -/
def repairOf (s : State) (i : Nat) : Nat := tabGet 0 s.plt.repairs i

/-- The number of 1 bits among the low 16. -/
def ones16 (v : Nat) : Nat := ((List.range 16).filter (fun i => v.testBit i)).length

/-- A record is USED and passes its parity, and its CLUSTER is one of 0 to 12. -/
def repairValid (v : Nat) : Bool := v.testBit 15 && ones16 v % 2 == 0 && v / 64 % 16 ≤ 12

/-- The record that repairs `cluster` of `region`. -/
def repairRecord (region cluster : Nat) : Nat :=
  let v := region + 64 * cluster + 32768
  if ones16 v % 2 = 0 then v else v + 16384

/-- The first valid record of region `n`. -/
def firstRepair (s : State) (n : Nat) : Option Nat :=
  (s.plt.repairs.find? (fun e => repairValid e.2 && e.2 % 64 == n)).map (·.2)

/-- The excluded physical cluster b of region `n` (R113). -/
def excludedOf (s : State) (n : Nat) : Nat :=
  match firstRepair s n with
  | some v => v / 64 % 16
  | none => 12

/-- The physical cluster on which logical cluster `j` of region `n` lies (R113). -/
def physicalCluster (s : State) (n j : Nat) : Nat := if j < excludedOf s n then j else j + 1

/-- The physical clusters of region `n` in use. -/
def clustersInUse (s : State) (n : Nat) : List Nat := (List.range 12).map (physicalCluster s n)

/-- The first repair record whose bits are all zero. -/
def freeRepair (s : State) : Option Nat := firstFree 0 1024 (fun i => repairOf s i == 0)

/-- A repair of region `n` remains possible: its spare is unused and a record is free (R113, R125, R553). -/
def spareLeft (s : State) (n : Nat) : Bool := (firstRepair s n).isNone && (freeRepair s).isSome

/-- Burns a repair record of region `n` (R114). -/
def burnRepair (s : State) (n cluster : Nat) : State :=
  match freeRepair s with
  | some i => { s with plt := { s.plt with repairs := tabPut 0 s.plt.repairs i (repairRecord n cluster) } }
  | none => s

end Sys2Proof.Machine
end

