-- ==== Sys2Proof/Machine/Layout.lean ====
section
/-! DEFINITION. The byte layouts of what host software and Tilrov write and the part reads: host commands (R236), admission descriptors
(R237), object commands (R150), structure images with their sections (R93 to R100, R194), and key lists (R554). -/

namespace Sys2Proof.Machine

open Sys2Proof

/-- The little-endian field of `n` bytes at offset `o` (R13). -/
def fieldAt (bs : List Byte) (o n : Nat) : Nat := leNat ((bs.drop o).take n)

/-- `n` bytes from `a` on of what `rd` reads. -/
def readRun (rd : Nat → Byte) (a n : Nat) : List Byte := (List.range n).map (fun i => rd (a + i))

/-- The entries of `n` bytes in a section body. -/
def bodyEntries (n : Nat) (bs : List Byte) : List (List Byte) :=
  (List.range (bs.length / n)).map (fun i => (bs.drop (n * i)).take n)

/-- Every byte of a range is zero. -/
def zeroAt (bs : List Byte) (o n : Nat) : Bool := ((bs.drop o).take n).all (· == 0)

end Sys2Proof.Machine

namespace Sys2Proof

open Sys2Proof.Machine

/-! ## Host commands (R236) -/

def HostCommand.opcode (c : HostCommand) : Nat := fieldAt c.bytes 0 1
def HostCommand.cflags (c : HostCommand) : Nat := fieldAt c.bytes 1 1
def HostCommand.composition (c : HostCommand) : CompNo := Fin.ofNat 256 (fieldAt c.bytes 2 1)
def HostCommand.priorityClass (c : HostCommand) : Nat := fieldAt c.bytes 3 1
def HostCommand.sharingDomain (c : HostCommand) : Nat := fieldAt c.bytes 4 2
def HostCommand.requestId (c : HostCommand) : Nat := fieldAt c.bytes 8 8
def HostCommand.tag (c : HostCommand) : Nat := fieldAt c.bytes 16 8
def HostCommand.addr (c : HostCommand) : Nat := fieldAt c.bytes 24 8
def HostCommand.count (c : HostCommand) : Nat := fieldAt c.bytes 32 4
def HostCommand.tier (c : HostCommand) : Nat := fieldAt c.bytes 36 1
def HostCommand.deadline (c : HostCommand) : Nat := fieldAt c.bytes 40 8
def HostCommand.descAddr (c : HostCommand) : Nat := fieldAt c.bytes 48 8
def HostCommand.promptPart (c : HostCommand) : PartAddr := fieldAt c.bytes 40 16

/-! ## Host candidate slots (R266) -/

/-- NODE_k of a candidate slot. -/
def candNodeAt (b : List Byte) (k : Nat) : CandNode :=
  { token := fieldAt b (24 + 8 * k) 4, parent := fieldAt b (28 + 8 * k) 1, q := BitVec.ofNat 16 (fieldAt b (30 + 8 * k) 2) }

/-- The 1,024 bytes of a candidate slot. -/
def decodeSlot (b : List Byte) : CandSlot :=
  { requestId := fieldAt b 0 8, rootPosition := fieldAt b 8 4, nodes := fieldAt b 12 1, hasProb := (fieldAt b 13 1).testBit 0,
    seqHead := fieldAt b 16 8, seqTail := fieldAt b 1016 8,
    list := (List.range (min 63 (fieldAt b 12 1 - 1))).map (fun k => candNodeAt b (k + 1)) }

/-! ## Admission descriptors (R237) -/

def AdmitDescriptor.home (d : AdmitDescriptor) : PartAddr := fieldAt d.bytes 0 16
def AdmitDescriptor.dest (d : AdmitDescriptor) : PartAddr := fieldAt d.bytes 16 16
def AdmitDescriptor.turnLimit (d : AdmitDescriptor) : Nat := fieldAt d.bytes 32 4
def AdmitDescriptor.temperature (d : AdmitDescriptor) : BitVec 32 := BitVec.ofNat 32 (fieldAt d.bytes 36 4)
def AdmitDescriptor.topP (d : AdmitDescriptor) : BitVec 32 := BitVec.ofNat 32 (fieldAt d.bytes 40 4)
def AdmitDescriptor.topK (d : AdmitDescriptor) : Nat := fieldAt d.bytes 44 4
def AdmitDescriptor.seed (d : AdmitDescriptor) : BitVec 128 := BitVec.ofNat 128 (fieldAt d.bytes 48 16)
def AdmitDescriptor.stopTokens (d : AdmitDescriptor) : List Nat := (List.range 8).map (fun j => fieldAt d.bytes (64 + 4 * j) 4)
def AdmitDescriptor.stepBudget (d : AdmitDescriptor) : Nat := fieldAt d.bytes 96 8

/-! ## Object commands (R150) -/

def ObjCommand.opcode (c : ObjCommand) : Nat := fieldAt c.bytes 0 1
def ObjCommand.tier (c : ObjCommand) : Nat := fieldAt c.bytes 1 1
def ObjCommand.tenant (c : ObjCommand) : Tenant := Fin.ofNat 4096 (fieldAt c.bytes 2 2)
def ObjCommand.handle (c : ObjCommand) : Nat := fieldAt c.bytes 4 4
def ObjCommand.location (c : ObjCommand) : Nat := fieldAt c.bytes 8 8
def ObjCommand.size (c : ObjCommand) : Nat := fieldAt c.bytes 16 8
def ObjCommand.kind (c : ObjCommand) : Nat := fieldAt c.bytes 24 1
def ObjCommand.prot (c : ObjCommand) : Nat := fieldAt c.bytes 25 1
def ObjCommand.keySlot (c : ObjCommand) : Nat := fieldAt c.bytes 26 2
def ObjCommand.tag (c : ObjCommand) : Nat := fieldAt c.bytes 32 8

/-! ## Sections of a structure image (R95 to R100, R194) -/

/-- The bodies of the sections of a type, in table order. -/
def Image.bodies (im : Image) (t : Nat) : List (List Byte) := (im.sections.filter (fun e => e.type == t)).map (·.body)

/-- The body of the section of a type that an image holds once; empty without one. -/
def Image.body (im : Image) (t : Nat) : List Byte := ((im.bodies t).head?).getD []

/-- USES_TRAY and STOCHASTIC of FLAGS (R93). -/
def Image.usesTray (im : Image) : Bool := im.flags.testBit 0
def Image.stochastic (im : Image) : Bool := im.flags.testBit 1

/-- A KERNEL_TABLE entry (R97). -/
def decodeKernel (b : List Byte) : Kernel :=
  { id := fieldAt b 0 2, unit := fieldAt b 2 1, preemptible := (fieldAt b 3 1).testBit 0, remote := (fieldAt b 3 1).testBit 1,
    entry := fieldAt b 4 4, chain := fieldAt b 8 8, liveIn := fieldAt b 16 8, liveOut := fieldAt b 24 8 }

/-- The kernels of an image (R97). -/
def Image.kernels (im : Image) : List Kernel := (bodyEntries 32 (im.body 7)).map decodeKernel

/-- A LIVE_MAP record (R99). -/
def decodeLive (b : List Byte) : LiveRange :=
  { kernel := fieldAt b 0 2, point := fieldAt b 2 2, cluster := fieldAt b 4 1, cell := fieldAt b 5 1, offset := fieldAt b 8 4,
    length := fieldAt b 12 4 }

/-- The live map of an image (R99). -/
def Image.live (im : Image) : List LiveRange := (bodyEntries 16 (im.body 6)).map decodeLive

/-- The head dimension of a HEAD_DIM code; 0 for a code that R100 lacks. -/
def headDimOf (code : Nat) : Nat :=
  match code with
  | 0 => 64 | 1 => 96 | 2 => 128 | 3 => 256 | _ => 0

/-- A MODEL_DESCRIPTOR body (R100). -/
def decodeDescriptor (b : List Byte) : ModelDescriptor :=
  { layers := fieldAt b 0 2, kvHeads := fieldAt b 2 1, headDim := headDimOf (fieldAt b 3 1), kvFormat := fieldAt b 4 1,
    draft := fieldAt b 5 1, treeNodes := fieldAt b 6 1, treeDepth := fieldAt b 7 1, vocab := fieldAt b 8 4,
    maxContext := fieldAt b 12 4,
    audioRanges := (List.range (min 8 (fieldAt b 16 1))).map (fun i => (fieldAt b (32 + 8 * i) 4, fieldAt b (36 + 8 * i) 4)),
    bytes := b }

/-- The model descriptor of an image. -/
def Image.descriptor (im : Image) : Option ModelDescriptor := ((im.bodies 8).head?).map decodeDescriptor

/-- An entry of the microcode layer table (R194). -/
def decodeLayer (b : List Byte) : LayerEntry :=
  { window := fieldAt b 0 4, scale := BitVec.ofNat 32 (fieldAt b 4 4), queryPerKv := fieldAt b 8 1 }

/-- The layer table at the start of STACK_CODE, of LAYERS entries (R194). -/
def Image.layerTable (im : Image) : List LayerEntry :=
  ((bodyEntries 16 (im.body 0x10)).take ((im.descriptor.map (·.layers)).getD 0)).map decodeLayer

/-- The body of a section type for logical cluster `j`: its own section, or that for the whole target (R94, R95). -/
def Image.clusterBody (im : Image) (t j : Nat) : List Byte :=
  (((im.sections.find? (fun e => e.type == t && (e.target == j || e.target == 0xFFFF))).map (·.body))).getD []

end Sys2Proof

namespace Sys2Proof.Machine

open Sys2Proof

/-! ## Reading an image (R93, R94, R96) -/

/-- Section table entry `k` of an image of `len` bytes; a body that does not lie in the image is not read. -/
def sectionAt (rd : Nat → Byte) (len k : Nat) : SectionEntry :=
  let b := readRun rd (256 + 32 * k) 32
  let o := fieldAt b 8 8
  let n := fieldAt b 16 8
  { type := fieldAt b 0 2, target := fieldAt b 2 2, offset := o, length := n, zeros := zeroAt b 4 4 && zeroAt b 24 8,
    body := if o + n ≤ len then readRun rd o n else [] }

/-- The image that stands at the start of what `rd` reads. -/
def decodeImage (rd : Nat → Byte) : Image :=
  let h := readRun rd 0 256
  let len := fieldAt h 16 8
  let g := readRun rd (len - 256) 256
  { magic := BitVec.ofNat 64 (fieldAt h 0 8), formatMajor := fieldAt h 8 2, formatMinor := fieldAt h 10 2,
    kind := fieldAt h 12 1, role := fieldAt h 13 1, steppings := fieldAt h 14 2, length := len,
    sectionCount := fieldAt h 24 4, securityVersion := fieldAt h 28 4, modelId := fieldAt h 32 16, adapterId := fieldAt h 48 16,
    tilrovVersion := fieldAt h 64 4, pkgMinVersion := fieldAt h 68 4, flags := fieldAt h 72 4,
    roundingSeed := BitVec.ofNat 64 (fieldAt h 80 8), zeros := zeroAt h 76 4 && zeroAt h 88 168 && zeroAt g 144 112,
    sections := (List.range (min 64 (fieldAt h 24 4))).map (sectionAt rd len),
    keyId := BitVec.ofNat 384 (fieldAt g 0 48), sigR := BitVec.ofNat 384 (fieldAt g 48 48),
    sigS := BitVec.ofNat 384 (fieldAt g 96 48), digest := Config.sha384 (readRun rd 0 (len - 256)) }

/-! ## Key lists (R554) -/

/-- KEY_k with its USAGE. -/
def listedKeyAt (rd : Nat → Byte) (k : Nat) : ListedKey :=
  let b := readRun rd (112 + 104 * k) 104
  { key := BitVec.ofNat 768 (fieldAt b 0 96), firmware := (fieldAt b 96 4).testBit 0, package := (fieldAt b 96 4).testBit 1,
    structureUse := (fieldAt b 96 4).testBit 2 }

/-- The key list that stands at the start of an object of `size` bytes; `none` where COUNT is none that R554 allows, a reserved byte is
not zero, or the object ends before the list. -/
def decodeKeyList (rd : Nat → Byte) (size : Nat) : Option KeyList :=
  let h := readRun rd 0 112
  let n := fieldAt h 12 4
  let g := readRun rd (112 + 104 * n) 96
  if n = 0 ∨ 16 < n ∨ size < 208 + 104 * n then none
  else if !(List.range n).all (fun k => zeroAt (readRun rd (212 + 104 * k) 4) 0 4) then none
  else some
    { magic := BitVec.ofNat 64 (fieldAt h 0 8), authority := fieldAt h 8 4, authorityKey := BitVec.ofNat 768 (fieldAt h 16 96),
      keys := (List.range n).map (listedKeyAt rd), sigR := BitVec.ofNat 384 (fieldAt g 0 48),
      sigS := BitVec.ofNat 384 (fieldAt g 48 48), digest := Config.sha384 (readRun rd 0 (112 + 104 * n)) }

end Sys2Proof.Machine
end

