-- ==== Sys2Proof/Machine/Geometry.lean ====
section
/-! DEFINITION. Where things lie: rows, pages and slots of KV memory, compositions and their stack shares, and the placement of
pages over stacks (R162 to R167, R198, R387 to R389). -/

namespace Sys2Proof.Machine

open Sys2Proof

/-! ## Compositions -/

/-- Composition `c`, where it is bound. -/
def compOf (s : State) (c : Nat) : Option Composition := tabGet none s.sch.comps c

/-- Composition `c` set. -/
def setComp (s : State) (c : Nat) (x : Option Composition) : State :=
  { s with sch := { s.sch with comps := tabPut none s.sch.comps c x } }

/-- The role of composition `c`; none where it is not bound. -/
def roleOf (s : State) (c : Nat) : Role :=
  match compOf s c with
  | some x => x.role
  | none => .none

/-- The model descriptor that composition `c` holds fixed (R104). -/
def descOf (s : State) (c : Nat) : Option ModelDescriptor :=
  match compOf s c with
  | some x => x.fixed.map (fun f => f.2.2)
  | none => none

/-- The MODEL_ID and ADAPTER_ID that composition `c` holds fixed (R104). -/
def modelOf (s : State) (c : Nat) : Option (Nat × Nat) :=
  match compOf s c with
  | some x => x.fixed.map (fun f => (f.1, f.2.1))
  | none => none

/-- The stacks of a stack share, ascending. -/
def shareStacks (x : Composition) : List Nat := (List.range 32).filter (fun n => x.stackMask.testBit n)

/-- Region `n`. -/
def regionOf (s : State) (n : Nat) : Region := tabGet {} s.fab.regions n

/-- Region `n` set. -/
def setRegion (s : State) (n : Nat) (r : Region) : State :=
  { s with fab := { s.fab with regions := tabPut {} s.fab.regions n r } }

/-- The KERNEL_TABLE entry with KERNEL_ID `k` in the image of region `n` (R97). -/
def kernelOf (s : State) (n k : Nat) : Option Kernel := (regionOf s n).image.bind (fun im => im.kernels.find? (fun x => x.id == k))

/-- The unit that runs on region `n` and has not completed (R396). -/
def runningUnit (s : State) (n : Nat) : Option Unit := (regionOf s n).running.bind (fun u => if u.ended then none else some u)

/-- The regions bound to composition `c`, ascending. -/
def regionsOf (s : State) (c : Nat) : List Nat :=
  (List.range 64).filter (fun n => (regionOf s n).comp.map (·.val) == some c)

/-! ## Pages (R162 to R164) -/

/-- Hundredths of a bit for each element of a KV format (R163). -/
def formatBits (f : Nat) : Nat := if f = 0 then 425 else if f = 1 ∨ f = 2 then 625 else if f = 3 then 825 else 1600

/-- R of R163: bytes of a row. -/
def rowBytes (d : ModelDescriptor) : Nat := d.headDim * formatBits d.kvFormat / 800

/-- Bytes of a page: 128 × H × R (R163). -/
def pageBytes (d : ModelDescriptor) : Nat := 128 * d.kvHeads * rowBytes d

/-- G_p of R164: granules of a page. -/
def pageGranules (d : ModelDescriptor) : Nat := ceilDiv (pageBytes d) 4096

/-- The byte in a page of the row of head `h`, kind `v` and row index `i` (R164). -/
def rowOffset (d : ModelDescriptor) (h v i : Nat) : Nat := ((2 * h + v) * 64 + i) * rowBytes d

/-! ## Slots (R165, R388, R389) -/

/-- The first granules of the slots of a composition's KV area on stack `st`. -/
def slotsOn (x : Composition) (st : Nat) : List Nat :=
  match x.fixed with
  | none => []
  | some f =>
    let g := max 1 (pageGranules f.2.2)
    (List.range (x.kvGranules / g)).map (fun i => st * 2 ^ 24 + x.kvOffset + i * g)

/-- Granule `g` lies in the composition's KV area (R388). -/
def inKvArea (x : Composition) (g : Nat) : Bool :=
  x.stackMask.testBit (g / 2 ^ 24) && x.kvOffset ≤ g % 2 ^ 24 && decide (g % 2 ^ 24 < x.kvOffset + x.kvGranules)

/-- The bound composition other than CACHE whose KV area holds granule `g`. -/
def compOfGranule (s : State) (g : Nat) : Option Nat :=
  (List.range 256).find? (fun c =>
    match compOf s c with
    | some x => x.role != .cache && inKvArea x g
    | none => false)

/-- The page record of granule `g` (R167). -/
def pageOf (s : State) (g : Nat) : PageRec := tabGet {} s.stk.pages g

/-- The page record of granule `g` set. -/
def setPage (s : State) (g : Nat) (r : PageRec) : State :=
  { s with stk := { s.stk with pages := tabPut {} s.stk.pages g r } }

/-- Granules of the page whose first granule is `g`. -/
def granulesOf (s : State) (g : Nat) : Nat :=
  match compOfGranule s g with
  | some c => ((descOf s c).map pageGranules).getD 1
  | none => 1

/-- Every page of composition `c` is FREE, so that it holds no slot in use. -/
def allPagesFree (s : State) (x : Composition) : Bool :=
  s.stk.pages.all (fun e => !(inKvArea x e.1))

/-- The free slots of a composition on stack `st`. -/
def freeSlots (s : State) (x : Composition) (st : Nat) : List Nat :=
  (slotsOn x st).filter (fun g => (pageOf s g).state == .free && !(tabGet false s.stk.outOfUse g))

/-- The stack for layer `l`, page `p` of request `id` in a composition (R198). -/
def placeOf (x : Composition) (id l p : Nat) : Nat :=
  let st := shareStacks x
  let r := (id % 2 ^ 52) % st.length
  (st[(r + l + p) % st.length]?).getD 0

/-! ## Manifests (R170, R171) -/

/-- The manifest of entry `i`. -/
def manifestOf (s : State) (i : Nat) : Manifest := tabGet {} s.rqt.manifests i

/-- The manifest of entry `i` set. -/
def setManifest (s : State) (i : Nat) (m : Manifest) : State :=
  { s with rqt := { s.rqt with manifests := tabPut {} s.rqt.manifests i m } }

/-- Where a manifest keeps the page entry of layer `l`, page `p`. -/
def pageKey (l p : Nat) : Nat := 16384 * l + p

/-- The page entry of layer `l`, page `p`. -/
def pageEntry (m : Manifest) (l p : Nat) : PageEntry := tabGet {} m.pages (pageKey l p)

/-- The granules that a manifest references. -/
def manifestGranules (m : Manifest) : List Nat := (m.pages.filter (fun e => e.2.valid)).map (fun e => e.2.page)

end Sys2Proof.Machine
end

