-- ==== Sys2Proof/Machine/Records.lean ====
section
/-! DEFINITION. Completion records, notices and token records: the queues of a tenant, the writing of a record with its slot,
SEQUENCE and PHASE, coalesced interrupts, and the notices that wait for a slot (R244 to R249, R254, R259, R603). -/

namespace Sys2Proof.Machine

open Sys2Proof

/-! ## Entries and queues -/

/-- Entry `i` of the request table (R225). -/
def entryOf (s : State) (i : Nat) : Entry := tabGet {} s.rqt.entries i

/-- Entry `i` set. -/
def setEntry (s : State) (i : Nat) (e : Entry) : State :=
  { s with rqt := { s.rqt with entries := tabPut {} s.rqt.entries i e } }

/-- The queues of tenant `t`. -/
def queuesOf (s : State) (t : Nat) : TenantQueues := tabGet {} s.rqt.queues t

/-- The queues of tenant `t` set. -/
def setQueues (s : State) (t : Nat) (q : TenantQueues) : State :=
  { s with rqt := { s.rqt with queues := tabPut {} s.rqt.queues t q } }

/-- RQT_T_CTL.ENABLE of tenant `t` (R259). -/
def tenantOn (s : State) (t : Nat) : Bool := isSet s (F.rqtTCtl.enable.at t)

/-- Slots of the submission queue, completion queue and token ring (R259). -/
def sqSlots (s : State) (t : Nat) : Nat := 2 ^ getF s (F.rqtTQsize.sqLog2.at t)
def cqSlots (s : State) (t : Nat) : Nat := 2 ^ getF s (F.rqtTQsize.cqLog2.at t)
def trSlots (s : State) (t : Nat) : Nat := 2 ^ getF s (F.rqtTQsize.trLog2.at t)

/-- The slots that the part may still write: a queue holds its size less one (R249), and counts as full while no record can
reach the host (R603). -/
def cqRoom (s : State) (t : Nat) : Nat :=
  if hostOff s || !tenantOn s t then 0
  else cqSlots s t - 1 - ((queuesOf s t).cqTail + cqSlots s t - (queuesOf s t).cqHead) % cqSlots s t
def trRoom (s : State) (t : Nat) : Nat :=
  if hostOff s || !tenantOn s t then 0
  else trSlots s t - 1 - ((queuesOf s t).trTail + trSlots s t - (queuesOf s t).trHead) % trSlots s t

/-- A record is for the token ring. -/
def RecordOut.isToken : RecordOut → Bool
  | .token _ => true
  | .completion _ => false

/-- The free slots of the token ring behind the records that wait for one. -/
def ringFree (s : State) (t : Nat) : Nat := trRoom s t - ((queuesOf s t).waiting.filter RecordOut.isToken).length

/-! ## The layout of records (R244, R245) -/

/-- The request-table entry that a live request of tenant `t` has (R227, R244). -/
def ownEntry (s : State) (t id : Nat) : Option Nat :=
  (s.rqt.entries.find? (fun e => e.2.state != .free && e.2.tenant.val == t && e.2.requestId == id)).map (·.1)

/-- The 64 bytes of a completion record (R244). -/
def completionBytes (r : Completion) (lmc seq : Nat) (phase : Bool) : List Byte :=
  leBytes 8 r.requestId ++ leBytes 8 r.tag ++ leBytes 1 r.opcode ++ leBytes 1 r.status ++ leBytes 1 r.stateCode ++
    leBytes 1 r.deadlineMissed.toNat ++ leBytes 4 r.position ++ leBytes 4 r.detail ++ leBytes 2 r.index ++ leBytes 2 0 ++
    leBytes 8 lmc ++ leBytes 16 r.peer ++ leBytes 4 seq ++ leBytes 3 0 ++ leBytes 1 phase.toNat

/-- The 32 bytes of a token record (R245). -/
def tokenBytes (r : TokenRecord) (seq : Nat) (phase : Bool) : List Byte :=
  leBytes 8 r.requestId ++ leBytes 4 r.position ++ leBytes 4 r.token ++ leBytes 4 r.logprob.toNat ++
    leBytes 1 (r.audio.toNat + 2 * r.final.toNat + 4 * r.drafted.toNat + 8 * r.deadlineMissed.toNat) ++ leBytes 1 0 ++
    leBytes 2 r.index ++ leBytes 4 seq ++ leBytes 3 0 ++ leBytes 1 phase.toNat

/-! ## Writing -/

/-- The PASID of tenant `t` (R235, R595). -/
def pasidOf (s : State) (t : Nat) : Nat := getF s (F.rqtTCtl.pasid.at t)

/-- A record leaves for host memory: its final 8 bytes in a write of their own after the rest, neither with Relaxed Ordering
(R247, R151, R597). -/
def postRecord (s : State) (pasid a : Nat) (bs : List Byte) : State :=
  let n := bs.length - 8
  emitAll s [.hostWrite pasid a false (bs.take n), .hostWrite pasid (a + n) false (bs.drop n)]

/-- The part mirrors its changes and holds its output (R493, R499). -/
def mirrors (s : State) : Bool :=
  s.twn.role == .active && (s.twn.state == .syncing || s.twn.state == .paired || s.twn.state == .fencing)

/-- One more unsignalled record: signals tenant vector `t` at once, or once COALESCE_RECORDS are unsignalled (R259). -/
def countRecord (s : State) (t : Nat) : State :=
  if !isSet s (F.rqtTCtl.intEnable.at t) then s
  else
    let n := (queuesOf s t).unsignalled + 1
    if getF s (F.rqtTCtl.coalesceUs.at t) = 0 ∨ getF s (F.rqtTCtl.coalesceRecords.at t) ≤ n then
      signal (setQueues s t { queuesOf s t with unsignalled := 0 }) (64 + t)
    else setQueues s t { queuesOf s t with unsignalled := n }

/-- A completion is written: the Active owes the Mirror a CONFIRM of it (R499). -/
def noteWritten (s : State) (t seq : Nat) : State :=
  if mirrors s then { s with twn := { s.twn with written := s.twn.written ++ [(t, seq)] } } else s

/-- Writes a completion record in the next slot (R244, R247). -/
def writeCompletion (s : State) (t : Nat) (r : Completion) : State :=
  let q := queuesOf s t
  let last := q.cqTail + 1 ≥ cqSlots s t
  let s1 := setQueues s t { q with
    cqTail := if last then 0 else q.cqTail + 1
    cqPhase := if last then !q.cqPhase else q.cqPhase
    cqSeq := (q.cqSeq + 1) % 2 ^ 32 }
  let s2 := postRecord s1 (pasidOf s t) (getF s (F.rqtTCqBase.base.at t) * 4096 + 64 * q.cqTail)
    (completionBytes r s.plt.lmc q.cqSeq q.cqPhase)
  countRecord (noteWritten s2 t q.cqSeq) t

/-- Writes a token record in the next slot (R245, R247). -/
def writeToken (s : State) (t : Nat) (r : TokenRecord) : State :=
  let q := queuesOf s t
  let last := q.trTail + 1 ≥ trSlots s t
  let s1 := setQueues s t { q with
    trTail := if last then 0 else q.trTail + 1
    trPhase := if last then !q.trPhase else q.trPhase
    trSeq := (q.trSeq + 1) % 2 ^ 32 }
  countRecord (postRecord s1 (pasidOf s t) (getF s (F.rqtTTrBase.base.at t) * 4096 + 32 * q.trTail)
    (tokenBytes r q.trSeq q.trPhase)) t

/-- The entry and the request of a notice: a completion without a command (R242). -/
def RecordOut.noticeOf : RecordOut → Option (Nat × Nat)
  | .completion r => if r.opcode = 0 then some (r.index, r.requestId) else none
  | .token _ => none

/-- A completion keeps its place behind what waits of its own request: an earlier completion, and for a notice an earlier token
record (R246). -/
def isBehind (r : Completion) (w : RecordOut) : Bool :=
  match w with
  | .completion c => c.requestId == r.requestId
  | .token k => r.opcode == 0 && k.requestId == r.requestId

/-- One waiting record: written where its queue has room, otherwise it waits on; the second part lists what waits. -/
def flushRecord (t : Nat) (acc : State × List RecordOut) (r : RecordOut) : State × List RecordOut :=
  match r with
  | .completion c =>
    if cqRoom acc.1 t = 0 || acc.2.any (isBehind c) then (acc.1, acc.2 ++ [r]) else (writeCompletion acc.1 t c, acc.2)
  | .token k => if trRoom acc.1 t = 0 then (acc.1, acc.2 ++ [r]) else (writeToken acc.1 t k, acc.2)

/-- NOTICE_PENDING of an entry tells that a notice of its request waits (R249). -/
def markNotice (waits : List RecordOut) (s : State) (n : Nat × Nat) : State :=
  if (entryOf s n.1).state == .free || (entryOf s n.1).requestId != n.2 then s
  else setEntry s n.1 { entryOf s n.1 with noticePending := waits.any (fun w => w.noticeOf == some n) }

/-- Writes what waits for a slot of tenant `t`, and `new` behind it, as far as there is room. -/
def flushWith (s : State) (t : Nat) (new : List RecordOut) : State :=
  let all := (queuesOf s t).waiting ++ new
  let r := all.foldl (flushRecord t) (setQueues s t { queuesOf s t with waiting := [] }, [])
  (all.filterMap RecordOut.noticeOf).foldl (markNotice r.2) (setQueues r.1 t { queuesOf r.1 t with waiting := r.2 })

/-- Writes what waits for a slot of tenant `t`. -/
def flushTenant (s : State) (t : Nat) : State := flushWith s t []

/-- A record for tenant `t`: written at once where there is room, otherwise it waits, a notice under NOTICE_PENDING (R249). -/
def putRecord (s : State) (t : Nat) (r : RecordOut) : State := flushWith s t [r]

/-- Writes what waits for a slot of every tenant, once records can reach the host again (R603, R604). -/
def flushAll (s : State) : State :=
  (tabKeys s.rqt.queues (fun q => !q.waiting.isEmpty)).foldl flushTenant s

end Sys2Proof.Machine
end

