-- ==== Sys2Proof/Machine/Pressure.lean ====
section
/-! DEFINITION. Capacity pressure: when it begins and ends on the stacks of a composition, and the register that shows it
(R349, R350, R368). -/

namespace Sys2Proof.Machine

open Sys2Proof

/-- F(c, s) of R349: the free slots of a composition on a stack, and those whose page is RETIRED and awaits reclamation. -/
def slotsLeft (s : State) (x : Composition) (st : Nat) : Nat :=
  ((slotsOn x st).filter (fun g =>
    !(tabGet false s.stk.outOfUse g) && ((pageOf s g).state == .free || (pageOf s g).state == .retired))).length

/-- An allocation of a request of composition `c` waits on stack `st` (R200). -/
def allocWaits (s : State) (c st : Nat) : Bool :=
  s.stk.waits.any (fun e => e.2 == st + 1 && (entryOf s e.1).composition.val == c)

/-- The stacks on which composition `c` is under pressure by its own slots, after those on which it was. A composition whose
descriptor is not fixed has no slots to run short of (R389). -/
def ownPressure (s : State) (c : Nat) (x : Composition) (old : Nat) : Nat :=
  if x.role == .cache || x.fixed.isNone then 0
  else
    let low := getF s (F.stkCapWm.low.at c)
    let high := max (low + 1) (getF s (F.stkCapWm.high.at c))
    ((shareStacks x).filter (fun st =>
      let f := slotsLeft s x st
      if old.testBit st then decide (f < high) || allocWaits s c st else decide (f < low) || allocWaits s c st)).foldl
        (fun b st => b ||| 2 ^ st) 0

/-- Free units of the manifest pool; unit 0 is never allocated (R170). -/
def freeUnits (s : State) : Nat := getF s F.stkManifestUnits.count - 1 - tabCount s.stk.usedUnits (fun b => b)

/-- Pressure on the manifest pool: below MANIFEST_LOW or while an allocation waits for a unit, until 2 × MANIFEST_LOW are free
(R350, R634). -/
def manifestShort (s : State) : Bool :=
  let low := getF s F.stkCapCtl.manifestLow
  s.stk.waits.any (fun e => e.2 == 33) ||
    (if s.stk.manifestPressure then decide (freeUnits s < 2 * low) else decide (freeUnits s < low))

/-- STK_CAP_PRESSURE of composition `c` set; new bits are signalled (R365, R368). -/
def showPressure (s : State) (c own bits : Nat) : State :=
  let old := getF s (F.stkCapPressure.stacks.at c)
  let s1 := putF { s with stk := { s.stk with pressed := tabPut 0 s.stk.pressed c own } } (F.stkCapPressure.stacks.at c) bits
  if (List.range 32).any (fun st => bits.testBit st && !old.testBit st) then notify s1 F.stkCapCtl.notifyEnable F.stkCapCtl.vector
  else s1

/-- The pressure of composition `c` as its slots now are. -/
def pressComp (s : State) (c : Nat) : State :=
  match compOf s c with
  | none => showPressure s c 0 0
  | some x =>
    let own := ownPressure s c x (tabGet 0 s.stk.pressed c)
    showPressure s c own (if s.stk.manifestPressure && x.role == .generation then own ||| x.stackMask else own)

/-- Pressure begins or ends, for every composition that is bound or was under pressure. -/
def updatePressure (s : State) : State :=
  let cs := ((s.sch.comps.map (·.1) ++ (s.stk.pressed.map (·.1)).filter (fun c => (compOf s c).isNone)).dedup).filter (· < 256)
  if cs.isEmpty then s
  else cs.foldl pressComp { s with stk := { s.stk with manifestPressure := manifestShort s } }

/-- Composition `c` is under pressure on some stack. -/
def underPressure (s : State) (c : Nat) : Bool := getF s (F.stkCapPressure.stacks.at c) != 0

end Sys2Proof.Machine
end

