-- ==== Sys2Proof/Machine/Traffic.lean ====
section
/-! DEFINITION. The traffic manager: classes and queues of egress frames, the choice of the next frame, and the policing of
arriving frames (16_traffic_manager.md). -/

namespace Sys2Proof.Machine

open Sys2Proof

/-! ## Classes and sizes -/

/-- TYPE of an RST message (R318); 0 for a datagram without one. -/
def rstType : RstMsg → Nat
  | .openLedger .. => 1 | .opened => 2 | .logAppend .. => 3 | .logAck .. => 4 | .publishBlock .. => 5 | .pubRef .. => 6
  | .pubAck .. => 7 | .pubNeed .. => 8 | .offer .. => 9 | .offerAck => 10 | .pull .. => 11 | .pageData .. => 12
  | .claim .. => 13 | .grant => 14 | .deny .. => 15 | .release => 16 | .whoOwns => 17 | .ownerIs .. => 18 | .resume => 19
  | .recover .. => 20 | .objRead .. => 21 | .objData .. => 22 | .close => 23 | .closed => 24 | .pfxQuery .. => 25
  | .pfxAnswer .. => 26 | .none => 0

/-- The class of an RST TYPE (R446): 0 CONTROL, 1 STREAM, 2 PAGE, 3 PUBLISH. -/
def rstClass (t : Nat) : Nat :=
  if t = 3 ∨ t = 4 then 1 else if t = 11 ∨ t = 12 then 2
  else if (5 ≤ t ∧ t ≤ 8) ∨ t = 21 ∨ t = 22 ∨ t = 25 ∨ t = 26 then 3 else 0

/-- The class of a frame (R446): 4 MIRROR, 5 TRAY, 6 TENSOR, and those of RST. -/
def frameClass : Frame → Nat
  | .memReq .. | .memRsp .. => 5
  | .tensor .. | .tensorAck .. => 6
  | .rst d => rstClass (rstType d.msg)
  | .mirror _ => 4
  | .hello .. | .heartbeat .. | .depart => 0
  | .forwarded _ _ c => c
  | .passedRst _ m => rstClass (rstType m)

/-- Bytes of a page payload at its Stage-A size (R372, R381). -/
def payloadSize : PagePayload → Nat
  | .native bs => bs.length
  | .coded b => b.stageASize

/-- Payload bytes of an RST message (R318, R381). -/
def rstPayload : RstMsg → Nat
  | .openLedger .. => 256 + 16 + 32
  | .logAppend _ _ es => 256 + 4 * es.length
  | .publishBlock _ p => payloadSize p
  | .pubRef .. => 288
  | .offer _ _ _ _ es => 256 + 32 + 4 * es.length
  | .pageData _ _ _ p => payloadSize p
  | .claim .. => 32
  | .deny _ | .ownerIs _ => 16
  | .recover _ => 512
  | .objData _ _ p => payloadSize p
  | .pfxQuery _ _ _ _ ts => 16 + 32 + 4 * ts.length
  | .pfxAnswer _ hs => 4 * hs.length
  | _ => 0

/-- Bytes of a mirror record: its header and its data (R495). -/
def recordBytes (r : MirrorRecord) : Nat :=
  32 + (match r.body with
    | .entry .. => 256
    | .bytes _ d | .page _ _ d => d.length
    | .ledger _ l => 512 + 4 * l.log.length + 4 * l.blocks.length
    | .odt .. => 64
    | .way .. => 32
    | .pageRec .. => 8
    | .block .. => 1024
    | .manifest _ m => 32 + 8 * m.pages.length + 4 * m.history.length
    | .completion .. => 64
    | .confirm .. | .syncDone | .bad => 0)

/-- Bytes of a frame on a Roale port with header and trailer, at its Stage-A size (R415, R450). -/
def roaleBytes : Frame → Nat
  | .memReq _ _ _ _ _ _ _ d | .memRsp _ _ _ d => 36 + d.length
  | .tensor _ _ _ _ _ _ b => 36 + 8 + b.stageASize
  | .tensorAck .. | .depart => 36
  | .rst d => 36 + 48 + (match d.msg with
      | .none => 0
      | m => min 8192 (rstPayload m - (match m with
          | .publishBlock .. | .pageData .. | .objData .. => 0
          | _ => 8192 * d.chunk)))
  | .mirror rs => 36 + (rs.map recordBytes).sum
  | .hello .. => 48
  | .heartbeat .. => 60
  | .forwarded _ n _ => n
  | .passedRst _ m => 36 + 48 + rstPayload m

/-- Bytes of a frame on a port: on Ethernet the Ethernet (14), IPv6 (40) and UDP (8) headers, the frame check sequence (4) and
20 bytes of preamble and gap take the place of the Roale header and trailer (R450). -/
def frameBytes (p : PortNo) (f : Frame) : Nat := if p.val < 12 then roaleBytes f else roaleBytes f - 36 + 86

/-- The queue of a class (R446). -/
def classQueue (s : State) (c : Nat) : Nat :=
  match c with
  | 0 => 0
  | 1 => 1
  | 2 => getF s F.tmClassCfg.queue2
  | 3 => getF s F.tmClassCfg.queue3
  | 4 => getF s F.tmClassCfg.queue4
  | 5 => getF s F.tmClassCfg.queue5
  | _ => getF s F.tmClassCfg.queue6

/-! ## Ports -/

/-- A Roale port. -/
def portOf (s : State) (p : Nat) : Port := tabGet {} s.lnk.ports p

/-- The port carries traffic: a Roale port that is UP, or an Ethernet port with its link (R411, R451). -/
def portIsUp (s : State) (p : Nat) : Bool :=
  if p < 12 then (portOf s p).state == .up else tabGet 0 s.lnk.ethUp (p - 12) != 0

/-- C_p of R451 in MB/s. -/
def capacity (s : State) (p : Nat) : Nat :=
  if p < 12 then (if (portOf s p).state == .up then 94000 else 0) else tabGet 0 s.lnk.ethUp (p - 12)

/-- The queue `k` of port `p`, oldest frame first. -/
def queueOf (s : State) (p k : Nat) : List Queued := tabGet [] s.tm.queues (8 * p + k)

/-- The depth of queue `k` of port `p` in bytes (R452). -/
def queueDepth (s : State) (p k : Nat) : Nat :=
  if k < 2 then 262144
  else if p < 12 && k == getF s F.tmClassCfg.queue5 then getF s (F.lnkPortCfg.trayQueueKib.at p) * 1024
  else getF s (F.tmPortQ.depth.at2 p (k - 2)) * 1024

/-- Queue `k` of port `p` accepts a frame of `n` bytes (R452). -/
def hasRoom (s : State) (p k n : Nat) : Bool := decide (((queueOf s p k).map (·.bytes)).sum + n ≤ queueDepth s p k)

/-- The frames that wait for room in a queue of port `p`, in the order that their engines made them (R379, R452). -/
def waitingFrames (s : State) (p : Nat) : List Queued := tabGet [] s.tm.waiting p

/-- A frame takes its place: at the end of its queue (R446, R447), or behind the frames of the queue that wait for room, since the engine that
originates it waits and loses nothing, and a forwarded one is held back (R452). -/
def putFrame (s : State) (p : Nat) (q : Queued) : State :=
  let k := classQueue s (frameClass q.frame)
  if hasRoom s p k q.bytes && !(waitingFrames s p).any (fun w => classQueue s (frameClass w.frame) == k) then
    { s with tm := { s.tm with queues := tabPut [] s.tm.queues (8 * p + k) (queueOf s p k ++ [q]) } }
  else { s with tm := { s.tm with waiting := tabPut [] s.tm.waiting p (waitingFrames s p ++ [q]) } }

/-- A frame for a port is given to the traffic manager. -/
def enqueue (s : State) (p : PortNo) (f : Frame) : State := putFrame s p.val { frame := f, bytes := frameBytes p f }

/-- The waiting frames of port `p` are looked at again, in order. -/
def retryFrames (s : State) (p : Nat) : State :=
  (waitingFrames s p).foldl (fun t q => putFrame t p q) { s with tm := { s.tm with waiting := tabPut [] s.tm.waiting p [] } }

/-! ## Token buckets (R449, R453): levels in hundredths of a byte, rates in MB/s -/

/-- The level of a bucket now. -/
def bucketLevel (s : State) (b : Bucket) (rate depth : Nat) : Int :=
  match b.level with
  | none => (depth * 100 : Nat)
  | some l => min (depth * 100 : Nat) (l + (rate * (s.plt.lmc - b.at_) : Nat))

/-- The bucket after it released `n` bytes. -/
def bucketTake (s : State) (b : Bucket) (rate depth n : Nat) : Bucket :=
  { level := some (bucketLevel s b rate depth - (n * 100 : Nat)), at_ := s.plt.lmc }

/-- Rate and depth of the bucket of queue `k` of port `p` (R449): the ceilings of Q_0 and Q_1, the shapers of the others. -/
def queueRate (s : State) (p k : Nat) : Nat × Nat :=
  match k with
  | 0 => (getF s (F.tmPortCtl.ceil0.at p), 65536)
  | 1 => (getF s (F.tmPortCtl.ceil1.at p), 65536)
  | k => (getF s (F.tmPortQ.rate.at2 p (k - 2)), getF s (F.tmPortQ.burst.at2 p (k - 2)) * 1024)

/-- The rate limit of the queue allows a frame (R448, R449). -/
def rateAllows (s : State) (p k : Nat) : Bool :=
  let r := queueRate s p k
  r.1 == 0 || decide (0 < bucketLevel s (tabGet {} s.tm.buckets (8 * p + k)) r.1 r.2)

/-- The DSCP of an Ethernet frame: that of its class (R459); a Roale frame carries none. -/
def dscpOf (s : State) (p : PortNo) (f : Frame) : Nat :=
  if p.val < 12 then 0
  else
    match frameClass f with
    | 0 => getF s F.tmDscp.dscp0
    | 1 => getF s F.tmDscp.dscp1
    | 2 => getF s F.tmDscp.dscp2
    | 3 => getF s F.tmDscp.dscp3
    | 4 => getF s F.tmDscp.dscp4
    | 5 => getF s F.tmDscp.dscp5
    | _ => getF s F.tmDscp.dscp6

/-- Sends the head of queue `k` of port `p`: the frame leaves and its bytes leave the bucket. -/
def sendHead (s : State) (p : PortNo) (k : Nat) : State :=
  match queueOf s p.val k with
  | [] => s
  | q :: qs =>
    let r := queueRate s p.val k
    let b := tabGet {} s.tm.buckets (8 * p.val + k)
    let s1 := { s with tm := { s.tm with
        queues := tabPut [] s.tm.queues (8 * p.val + k) qs,
        buckets := if r.1 = 0 then s.tm.buckets else tabPut {} s.tm.buckets (8 * p.val + k) (bucketTake s b r.1 r.2 q.bytes) } }
    emit s1 (.frame p (dscpOf s p q.frame) q.frame)

/-- The weight of a queue (R448). -/
def weightOf (s : State) (p k : Nat) : Nat := getF s (F.tmPortQ.weight.at2 p (k - 2))

/-- A weighted queue that holds a frame which its shaper allows. -/
def weightedReady (s : State) (p k : Nat) : Bool :=
  weightOf s p k != 0 && !(queueOf s p k).isEmpty && rateAllows s p k

/-- Moves the round of port `p` on to its next queue. -/
def advanceRound (s : State) (p k : Nat) : State :=
  { s with tm := { s.tm with
      pointers := tabPut 2 s.tm.pointers p (if k ≥ 7 then 2 else k + 1),
      topped := tabPut false s.tm.topped p false } }

/-- Sets the deficit of queue `k` of port `p`. -/
def setDeficit (s : State) (p k : Nat) (d : Int) : State :=
  { s with tm := { s.tm with deficits := tabPut 0 s.tm.deficits (8 * p + k) d } }

/-- The deficit-weighted round of R448, until a frame leaves; `fuel` bounds the queues visited. -/
def weightedRound (p : PortNo) : Nat → State → State
  | 0, s => s
  | fuel + 1, s =>
    let k := tabGet 2 s.tm.pointers p.val
    let w := weightOf s p.val k
    if w = 0 then weightedRound p fuel (advanceRound s p.val k)
    else match queueOf s p.val k with
      | [] => weightedRound p fuel (advanceRound (setDeficit s p.val k 0) p.val k)
      | q :: qs =>
        let d0 := tabGet 0 s.tm.deficits (8 * p.val + k)
        let topped := tabGet false s.tm.topped p.val
        let d := if topped then d0 else d0 + (w * 1024 : Nat)
        let s1 := { setDeficit s p.val k d with tm := { (setDeficit s p.val k d).tm with
            topped := tabPut false (setDeficit s p.val k d).tm.topped p.val true } }
        if (q.bytes : Int) ≤ d ∧ rateAllows s1 p.val k then
          let s2 := sendHead (setDeficit s1 p.val k (d - (q.bytes : Int))) p k
          if qs.isEmpty then advanceRound (setDeficit s2 p.val k 0) p.val k else s2
        else weightedRound p fuel (advanceRound s1 p.val k)

/-- EGRESS_FRAME_START (R448): the port takes the first queue that holds a frame and that its rate limit allows. -/
def startFrame (s : State) (p : PortNo) : State :=
  if !portIsUp s p.val then s
  else if !(queueOf s p.val 0).isEmpty && rateAllows s p.val 0 then sendHead s p 0
  else if !(queueOf s p.val 1).isEmpty && rateAllows s p.val 1 then sendHead s p 1
  else if [2, 3, 4, 5, 6, 7].any (weightedReady s p.val) then weightedRound p 96 s
  else match [2, 3, 4, 5, 6, 7].find?
      (fun k => weightOf s p.val k == 0 && !(queueOf s p.val k).isEmpty && rateAllows s p.val k) with
    | some k => sendHead s p k
    | none => s

/-! ## Ingress policing (R453 to R458) -/

/-- Colours of RFC 2698. -/
inductive Colour where
  | green | yellow | red
deriving DecidableEq, Repr

/-- The pre-colour of an Ethernet frame's DSCP (R454). -/
def dscpColour (d : Nat) : Colour :=
  if 8 ≤ d ∧ d < 40 then (if d % 8 = 4 then .yellow else if d % 8 = 6 then .red else .green) else .green

/-- The meter of a tenant on a port class (R453). -/
def meterOf (eth : Bool) (tenant : Nat) : Nat := (if eth then 4096 else 0) + tenant

/-- Two-rate three-colour marking of RFC 2698 (R453 to R455): the colour, and the state with the meter's buckets charged. -/
def markFrame (s : State) (eth : Bool) (tenant bytes : Nat) (pre : Colour) : Colour × State :=
  let m := meterOf eth tenant
  if !isSet s (F.tmMeterRate.enable.at m) then (.green, s)
  else
    let cir := getF s (F.tmMeterRate.cir.at m)
    let pir := max cir (getF s (F.tmMeterRate.pir.at m))
    let cbs := max 9216 (getF s (F.tmMeterBurst.cbs.at m) * 1024)
    let pbs := max 9216 (getF s (F.tmMeterBurst.pbs.at m) * 1024)
    let colour0 := if isSet s (F.tmMeterRate.aware.at m) && eth then pre else .green
    let bc := tabGet {} s.tm.meters (2 * m)
    let bp := tabGet {} s.tm.meters (2 * m + 1)
    let size : Int := (bytes * 100 : Nat)
    let put (c p : Bucket) : State :=
      { s with tm := { s.tm with meters := tabPut {} (tabPut {} s.tm.meters (2 * m) c) (2 * m + 1) p } }
    if colour0 = .red ∨ bucketLevel s bp pir pbs < size then
      (.red, satF (put (bucketTake s bc cir cbs 0) (bucketTake s bp pir pbs 0)) (F.tmMeterBurst.red.at m))
    else if colour0 = .yellow ∨ bucketLevel s bc cir cbs < size then
      (.yellow, put (bucketTake s bc cir cbs 0) (bucketTake s bp pir pbs bytes))
    else (.green, put (bucketTake s bc cir cbs bytes) (bucketTake s bp pir pbs bytes))

/-- The occupancy of the receive queue of class `c` at port `p`, in bytes (R456). -/
def receivedBytes (s : State) (p c : Nat) : Nat := tabGet 0 s.tm.received (8 * p + c)

/-- What policing decides of an arriving frame for the part's own consumption (R453 to R457): whether it is queued, and the
state with meters and counters. Classes 0 (CONTROL) and 4 (MIRROR) are not policed. -/
def police (s : State) (p : PortNo) (c tenant bytes dscp : Nat) : Bool × State :=
  let eth := decide (12 ≤ p.val)
  if eth && decide (524288 < receivedBytes s p.val c + bytes) then (false, satF s F.tmRxStats.fullDiscards)
  else if c = 0 ∨ c = 4 then (true, s)
  else
    let r := markFrame s eth tenant bytes (dscpColour dscp)
    let bestEffort := 2 ≤ c && (getF s F.tmClassCfg.bestEffort).testBit c
    if r.1 = .green then (true, r.2)
    else if r.1 = .red ∧ bestEffort then (false, satF r.2 F.tmStats.redDrops)
    else if getF s (F.tmPortCtl.yellowKib.at p.val) * 1024 < receivedBytes s p.val c then
      (false, satF r.2 F.tmStats.yellowDiscards)
    else (true, r.2)

/-- A write to TM_METER_BURST_m fills both buckets of meter `m` (R455). -/
def fillMeter (s : State) (m : Nat) : State :=
  { s with tm := { s.tm with meters := tabPut {} (tabPut {} s.tm.meters (2 * m) {}) (2 * m + 1) {} } }

end Sys2Proof.Machine
end

