-- ==== Sys2Proof/Machine/Blocks.lean ====
section
/-! DEFINITION. Coded blocks: the canonical code of a table, coding and decoding of a block, and the checks of a received one
(R372 to R377). -/

namespace Sys2Proof.Machine

open Sys2Proof

/-- One round of R375: the codewords of length `len`, from `code` on, in ascending byte value. -/
def codesOfLength (ls : List Nat) (len code : Nat) : List (Nat × Nat × Nat) :=
  (((List.range 256).filter (fun v => ls[v]? == some len)).zipIdx).map (fun e => (e.1, len, code + e.2))

/-- The canonical code (R375): byte value, length, codeword. -/
def canonical (ls : List Nat) : Nat → Nat → Nat → List (Nat × Nat × Nat)
  | 0, _, _ => []
  | fuel + 1, len, code =>
    let cs := codesOfLength ls len code
    cs ++ canonical ls fuel (len + 1) ((code + cs.length) * 2)

/-- The code of a table. -/
def codeTable (ls : List Nat) : List (Nat × Nat × Nat) := canonical ls 12 1 0

/-- The `n` bits of a codeword, most significant first. -/
def codeBits (n w : Nat) : List Bool := ((List.range n).reverse).map (fun i => w.testBit i)

/-- The bits of a block's codewords; `none` where a byte has no code. -/
def encodeBits (t : List (Nat × Nat × Nat)) : List Byte → Option (List Bool)
  | [] => some []
  | b :: bs =>
    match t.find? (fun c => c.1 == b.toNat), encodeBits t bs with
    | some c, some rest => some (codeBits c.2.1 c.2.2 ++ rest)
    | _, _ => none

/-- Eight bits, most significant first, as a byte; missing bits are zero. -/
def packByte (bits : List Bool) : Byte :=
  BitVec.ofNat 8 (((List.range 8).map (fun i => if bits[i]? == some true then 2 ^ (7 - i) else 0)).sum)

/-- Bits packed into bytes, most significant first, the last padded with zeros. -/
def packBits (bits : List Bool) : List Byte :=
  (List.range ((bits.length + 7) / 8)).map (fun k => packByte ((bits.drop (8 * k)).take 8))

/-- The bits of bytes, most significant first. -/
def unpackBits (bs : List Byte) : List Bool := (bs.map (fun b => codeBits 8 b.toNat)).flatten

/-- Decodes `n` byte values; `none` where a pattern is no codeword or the bits end early. Answers the bits that remain. -/
def decodeBits (t : List (Nat × Nat × Nat)) : Nat → List Bool → Option (List Byte × List Bool)
  | 0, bits => some ([], bits)
  | n + 1, bits =>
    match t.find? (fun c => c.2.1 ≤ bits.length && bits.take c.2.1 == codeBits c.2.1 c.2.2) with
    | none => none
    | some c =>
      match decodeBits t n (bits.drop c.2.1) with
      | none => none
      | some r => some (BitVec.ofNat 8 c.1 :: r.1, r.2)

/-- A raw block of Stage-A bytes (R373, R376). -/
def rawBlock (format : Nat) (bs : List Byte) : CodedBlock :=
  { stageASize := bs.length, wireSize := bs.length, slot := 0, raw := true, format := format, tableTag := 0, body := bs }

/-- A block as the encoder sends it with table slot `j`: coded, or raw under R376. -/
def encodeBlock (s : State) (j format : Nat) (bs : List Byte) : CodedBlock :=
  let t := tabGet {} s.cod.tables j
  if !t.loaded || !(getF s F.codCtl.encMask).testBit j then rawBlock format bs
  else
    match encodeBits (codeTable t.lengths) bs with
    | none => rawBlock format bs
    | some bits =>
      let body := packBits bits
      if bs.length ≤ body.length then rawBlock format bs
      else { stageASize := bs.length, wireSize := body.length, slot := j, raw := false, format := format, tableTag := t.tag,
             body := body }

/-- How a received block fares (R373, R377): its Stage-A bytes, or the kind of its rejection. -/
inductive BlockResult where
  | ok (bytes : List Byte)
  | badHeader
  | badTag
  | badSize
deriving DecidableEq, Repr

/-- The header of a block keeps R373. -/
def headerOk (b : CodedBlock) : Bool :=
  1 ≤ b.stageASize && b.stageASize ≤ 4096 && 1 ≤ b.wireSize && b.wireSize ≤ 4096 && b.wireSize == b.body.length &&
    b.slot < 4 && b.format < 4 && (!b.raw || (b.tableTag == 0 && b.wireSize == b.stageASize))

/-- The receiver's decoding of a block. -/
def decodeBlock (s : State) (b : CodedBlock) : BlockResult :=
  if !headerOk b then .badHeader
  else if b.raw then .ok b.body
  else
    let t := tabGet {} s.cod.tables b.slot
    if !t.loaded || t.tag != b.tableTag then .badTag
    else
      match decodeBits (codeTable t.lengths) b.stageASize (unpackBits b.body) with
      | none => .badSize
      | some r => if 7 < r.2.length then .badSize else .ok r.1

/-- Counts a rejection in COD_ERRORS and signals (R377, R386). -/
def rejectBlock (s : State) : BlockResult → State
  | .ok _ => s
  | .badHeader => notify (satF s F.codErrors.header) F.codCtl.notifyEnable F.codCtl.vector
  | .badTag => notify (satF s F.codErrors.tag) F.codCtl.notifyEnable F.codCtl.vector
  | .badSize => notify (satF s F.codErrors.size) F.codCtl.notifyEnable F.codCtl.vector

/-- The payload of a page message (R318). -/
def msgPayload : RstMsg → Option PagePayload
  | .publishBlock _ p => some p
  | .pageData _ _ _ p => some p
  | .objData _ _ p => some p
  | _ => none

/-- The same message with another payload. -/
def withPayload (m : RstMsg) (p : PagePayload) : RstMsg :=
  match m with
  | .publishBlock b _ => .publishBlock b p
  | .pageData a l f _ => .pageData a l f p
  | .objData h o _ => .objData h o p
  | m => m

/-- The coded block that a message carries. -/
def msgBlock (m : RstMsg) : Option CodedBlock :=
  match msgPayload m with
  | some (.coded b) => some b
  | _ => none

/-! ## The encode queue of an egress port (R379) -/

/-- The coded block of a frame. -/
def frameBlock : Frame → Option CodedBlock
  | .tensor _ _ _ _ _ _ b => some b
  | .rst d => msgBlock d.msg
  | _ => none

/-- Stage-A bytes in the encode queue of port `p`: the blocks whose egress queue has no room for them yet. Those beyond 8 MiB are still with
the engine that waits. -/
def encodeBytes (s : State) (p : Nat) : Nat :=
  min (8192 * 1024) (((waitingFrames s p).map (fun q => ((frameBlock q.frame).map (·.stageASize)).getD 0)).sum)

/-- The port is in bypass. -/
def inBypass (s : State) (p : Nat) : Bool := tabGet false s.cod.bypass p
def setBypass (s : State) (p : Nat) (on : Bool) : State :=
  { s with cod := { s.cod with bypass := tabPut false s.cod.bypass p on } }

/-- A block of `n` Stage-A bytes enters the encode queue of port `p`: bypass begins where the occupancy rises above BYPASS_HIGH. -/
def enterEncode (s : State) (p n : Nat) : State :=
  if getF s (F.codPortCtl.bypassHigh.at p) * 1024 < encodeBytes s p + n then setBypass s p true else s

/-- Blocks have left the encode queue of port `p`: bypass ends where the occupancy is below BYPASS_LOW. -/
def leaveEncode (s : State) (p : Nat) : State :=
  if encodeBytes s p < getF s (F.codPortCtl.bypassLow.at p) * 1024 then setBypass s p false else s

/-- A frame with a coded block goes to its port through the encode queue. -/
def enqueueBlock (s : State) (p : PortNo) (f : Frame) : State := leaveEncode (enqueue s p f) p.val

/-- The block that port `p` sends for Stage-A bytes: coded where Stage B is enabled on the port and it is not in bypass (R369, R376, R379). -/
def portBlock (s : State) (p j format : Nat) (bs : List Byte) : CodedBlock :=
  if isSet s (F.codPortCtl.stageB.at p) && !inBypass s p then encodeBlock s j format bs else rawBlock format bs

/-- Codes a native page payload for an egress port with KV_SLOT, as it enters the encode queue (R369, R376). -/
def codePayload (s : State) (port : Nat) (m : RstMsg) : RstMsg × State :=
  match msgPayload m with
  | some (.native bs) =>
    let s1 := enterEncode s port bs.length
    (withPayload m (.coded (portBlock s1 port (getF s F.codCtl.kvSlot) 0 bs)), s1)
  | some (.coded b) => (m, enterEncode s port b.stageASize)
  | none => (m, s)

/-- EGRESS_FRAME_START: the port can start a frame, and what waited for room in its queues follows (R448, R452). -/
def execEgressFrameStart (p : PortNo) (s : State) : Host.Outcome State Fault Refusal :=
  .next (if isReady s then leaveEncode (retryFrames (startFrame (retryFrames s p.val) p) p.val) p.val else s)

/-- The same message with its block raw, as every resend carries it (R377). -/
def rawPayload (s : State) (m : RstMsg) : RstMsg :=
  match msgBlock m with
  | some b =>
    match decodeBlock s b with
    | .ok bs => withPayload m (.coded (rawBlock b.format bs))
    | _ => m
  | none => m

/-- Counts a sent block in COD_STATS. -/
def countBlock (s : State) (b : Option CodedBlock) : State :=
  match b with
  | some b => if b.raw then satF s F.codStats.rawBlocks else satF s F.codStats.codedBlocks
  | none => s

/-! ## Protected flows (R384, R385) -/

/-- The flows of a tenant are protected. -/
def tenantProtected (s : State) (t : Nat) : Bool := (getF s (F.codTProtect.tenants.at (t / 64))).testBit (t % 64)

/-- The GCM key slot bound to a peer. -/
def gcmSlotOf (s : State) (peer : PartAddr) : Option Nat :=
  (s.cod.gcm.find? (fun e => e.2.key.isSome && e.2.peer == peer)).map (·.1)

end Sys2Proof.Machine
end

