-- ==== Sys2Proof/Machine/Transport.lean ====
section
/-! DEFINITION. The transport of Request State Transfer: part addresses, routes, connections, datagrams out and in
(R311 to R319, R419). -/

namespace Sys2Proof.Machine

open Sys2Proof

/-! ## Addresses and routes (R311 to R313, R419) -/

/-- The part's own address. -/
def partAddr (s : State) : PartAddr := getF s F.xfrAddrLo.addr + 2 ^ 64 * getF s F.xfrAddrHi.addr

/-- The part address of tray member `m`; zero names no part. -/
def memberAddr (s : State) (m : Nat) : PartAddr :=
  getF s (F.xfrMemberLo.addr.at m) + 2 ^ 64 * getF s (F.xfrMemberHi.addr.at m)

/-- The address of the paired twin; zero without one. -/
def twinAddr (s : State) : PartAddr :=
  match s.lnk.twin with
  | some m => memberAddr s m
  | none => 0

/-- The part accepts RST messages sent to `a` (R313). -/
def acceptsAddr (s : State) (a : PartAddr) : Bool :=
  a == partAddr s || (s.twn.tookOver && a != 0 && a == twinAddr s)

/-- The ports of LNK_ROUTE_m, ascending (R419). -/
def routePorts (s : State) (m : Nat) : List Nat :=
  (List.range 12).filter (fun p => (getF s (F.lnkRoute.ports.at m)).testBit p)

/-- HOPS of LNK_ROUTE_m: 0 where no port of the mask is UP, 1 where an UP port of it ends at the member, 2 otherwise. -/
def hopsTo (s : State) (m : Nat) : Nat :=
  let up := (routePorts s m).filter (fun p => (portOf s p).state == .up)
  if up.isEmpty then 0 else if up.any (fun p => (portOf s p).neighbour == m) then 1 else 2

/-- The tray member at `a` to which a Roale path is up (R312). -/
def roaleMember (s : State) (a : PartAddr) : Option Nat :=
  (List.range 16).find? (fun m => a != 0 && memberAddr s m == a && hopsTo s m != 0)

/-- The port that takes a datagram for `a` with transport SEQ `seq`: a port of the member's route, or an Ethernet port that
is up, which the part chooses. -/
def rstPort (s : State) (a : PartAddr) (seq : Nat) : Option PortNo × State :=
  match roaleMember s a with
  | some m =>
    let ps := routePorts s m
    ((ps[seq % ps.length]?).bind (fun p => if h : p < 16 then some ⟨p, h⟩ else none), s)
  | none => pick s ([12, 13, 14, 15].filter (fun p : PortNo => portIsUp s p.val))

/-! ## Connections (R315, R316) -/

/-- The connection to a peer. -/
def connOf (s : State) (peer : PartAddr) : Option Connection := s.xfr.conns.find? (fun c => c.peer == peer)

/-- The connection set in place of the one to the same peer. -/
def setConn (s : State) (c : Connection) : State :=
  { s with xfr := { s.xfr with conns := c :: s.xfr.conns.filter (fun d => d.peer != c.peer) } }

/-- The connection to a peer removed; it is opened again on next use. -/
def dropConn (s : State) (peer : PartAddr) : State :=
  { s with xfr := { s.xfr with conns := s.xfr.conns.filter (fun d => d.peer != peer) } }

/-- The datagrams beyond ACK that the part accepts (R315). -/
def ownWindow : Nat := Config.rstWindow % 65535 + 1

/-- The datagram as its port sends it: a page payload of an unprotected flow as one coded block (R372). -/
def coded (s : State) (p : PortNo) (d : Datagram) : Datagram × State :=
  if d.sealed_.isSome then (d, s)
  else
    let m := codePayload s p.val d.msg
    ({ d with msg := m.1 }, m.2)

/-- A datagram leaves on its port; answers the datagram as it left. -/
def sendDatagram (s : State) (d : Datagram) : Datagram × State :=
  let r := rstPort s d.dest d.seq
  match r.1 with
  | some p =>
    let d1 := coded r.2 p d
    (d1.1, enqueueBlock (countBlock d1.2 (msgBlock d1.1.msg)) p (.rst d1.1))
  | none => (d, r.2)

/-- A protected datagram under its slot's key: its SEQ is used up; `none` where the SEQ was used before or no slot is bound to
the peer (R384, R385; log entry 15). -/
def sealDatagram (s : State) (d : Datagram) : Option (Datagram × State) :=
  match gcmSlotOf s d.dest with
  | none => none
  | some k =>
    let g := tabGet {} s.cod.gcm k
    if d.seq < g.next then none
    else some ({ d with sealed_ := some (k, g.gen) },
      { s with cod := { s.cod with gcm := tabPut {} s.cod.gcm k { g with next := d.seq + 1 } } })

/-- A bare RESET of a connection whose nonces are used up, with the vector of COD_CTL (R385). -/
def gcmReset (s : State) (d : Datagram) : State :=
  let s1 := dropConn s d.dest
  let s2 := (sendDatagram s1 { d with reset := true, ackOnly := false, msg := .none, sealed_ := none }).2
  notify s2 F.codCtl.notifyEnable F.codCtl.vector

/-- The waiting datagrams of a connection that its window admits leave in order (R316). -/
def pump (peer : PartAddr) : Nat → State → State
  | 0, s => s
  | fuel + 1, s =>
    match connOf s peer with
    | none => s
    | some c =>
      match c.waiting with
      | [] => s
      | d :: rest =>
        if !c.open_ || c.peerWindow ≤ c.unacked.length then s
        else
          let d1 := { d with
            connection := c.peerIdent, seq := c.sentSeq, ack := c.expected, window := ownWindow % 2 ^ 16 }
          let sent := if d.sealed_.isSome then sealDatagram s d1 else some (d1, s)
          match sent with
          | none => gcmReset s d1
          | some (d2, s1) =>
            let r := sendDatagram s1 d2
            let c1 := { c with
              waiting := rest, unacked := c.unacked ++ [(0, r.1)], sentSeq := (c.sentSeq + 1) % 2 ^ 32 }
            pump peer fuel (setConn r.2 c1)

/-- A datagram without a message: SYN, or an acknowledgement. -/
def bareDatagram (s : State) (peer : PartAddr) (syn : Bool) (connection seq ack : Nat) : Datagram :=
  { dest := peer, source := partAddr s, connection := connection, seq := seq, ack := ack, window := ownWindow % 2 ^ 16,
    ackOnly := !syn, syn := syn, reset := false, last := true, takeover := false, append := false, status := .ok,
    epoch := 0, requestId := 0, xfer := 0, chunk := 0, sealed_ := none, msg := .none }

/-- A connection identifier that no connection has. -/
def freeIdent (s : State) : Nat := (s.xfr.conns.map (·.ident)).foldl max 0 + 1

/-- The first SEQ of a connection: above those that its peer's key has used (R385), else 0. -/
def firstSeq (s : State) (peer : PartAddr) : Nat :=
  match gcmSlotOf s peer with
  | some k => (tabGet {} s.cod.gcm k).next % 2 ^ 32
  | none => 0

/-- Opens a connection with a SYN (R316); in a SYN, CONNECTION carries the identifier that its sender assigned (log
entry 13). -/
def openConn (s : State) (peer : PartAddr) : State :=
  let d := bareDatagram s peer true (freeIdent s) (firstSeq s peer) 0
  (sendDatagram (setConn s
    { peer := peer, ident := freeIdent s, peerIdent := 0, open_ := false, sentSeq := (firstSeq s peer + 1) % 2 ^ 32,
      expected := 0, peerWindow := 1, unacked := [(0, d)], waiting := [], heldIn := [],
      gathered := [] }) d).2

/-- Payload bytes of one datagram: one coded block of 4,096 for page payloads, 8,192 otherwise, and 16 fewer under a GCM tag
(R314, R372, R384). -/
def datagramBytes (m : RstMsg) (prot : Bool) : Nat :=
  if prot then 8176 else if (msgPayload m).isSome then 4096 else 8192

/-- The part of a message that datagram `i` carries. -/
def messagePart (m : RstMsg) (i n : Nat) : RstMsg :=
  match msgPayload m with
  | some (.native bs) => withPayload m (.native ((bs.drop (i * n)).take n))
  | _ => m

/-- The flow of a message is protected: its tenant's, or as its sender marks it (R384). -/
def isProtectedFlow (s : State) (m : RstOut) : Bool :=
  rstPayload m.msg != 0 && (m.protect || tenantProtected s (m.requestId / 2 ^ 52))

/-- The datagrams of a message, the last with LAST set (R314, R317). -/
def datagramsOf (s : State) (m : RstOut) : List Datagram :=
  let prot := isProtectedFlow s m
  let b := datagramBytes m.msg prot
  let n := max 1 ((rstPayload m.msg + b - 1) / b)
  (List.range n).map (fun i =>
    { bareDatagram s m.dest false 0 0 0 with
      ackOnly := false, last := i + 1 == n, takeover := m.takeover, append := m.append, status := m.status,
      epoch := m.epoch, requestId := m.requestId, xfer := m.xfer, chunk := i, sealed_ := if prot then some (0, 0) else none,
      msg := messagePart m.msg i b })

/-- The engine sends a message; it sends none until XFR_LOCK is set (R348), and none to address zero (R311). -/
def transmit (s : State) (m : RstOut) : State :=
  if !isSet s F.xfrCtl.xfrLock || m.dest == 0 then s
  else
    let s1 := if (connOf s m.dest).isSome then s else openConn s m.dest
    match connOf s1 m.dest with
    | none => s1
    | some c =>
      let ds := datagramsOf s m
      pump m.dest (c.waiting.length + ds.length) (setConn s1 { c with waiting := c.waiting ++ ds })

/-! ## Receiving (R316) -/

/-- An acknowledgement: the datagrams below ACK need no resend, and the window opens. -/
def takeAck (s : State) (h : RstHeader) : State :=
  match connOf s h.source with
  | none => s
  | some c =>
    let c1 := { c with
      unacked := c.unacked.filter (fun d => !laterThan h.ack d.2.seq)
      peerWindow := if h.syn then max 1 h.window else h.window }
    pump h.source (c1.waiting.length) (setConn s c1)

/-- A SYN: the connection is open, the peer's identifier is known, and a SYN that was not awaited is answered with one. -/
def takeSyn (s : State) (h : RstHeader) : State :=
  match connOf s h.source with
  | some c =>
    if c.open_ then s
    else
      let c1 := { c with open_ := true, peerIdent := h.connection, expected := (h.seq + 1) % 2 ^ 32 }
      (sendDatagram (setConn s c1) (bareDatagram s h.source false h.connection c1.sentSeq c1.expected)).2
  | none =>
    let d := bareDatagram s h.source true (freeIdent s) (firstSeq s h.source) ((h.seq + 1) % 2 ^ 32)
    (sendDatagram (setConn s
      { peer := h.source, ident := freeIdent s, peerIdent := h.connection, open_ := true,
        sentSeq := (firstSeq s h.source + 1) % 2 ^ 32, expected := (h.seq + 1) % 2 ^ 32, peerWindow := max 1 h.window,
        unacked := [(0, d)], waiting := [], heldIn := [], gathered := [] }) d).2

/-- The distance of a SEQ above the next expected one, modulo 2^32. -/
def seqAhead (c : Connection) (seq : Nat) : Nat := (seq + 2 ^ 32 - c.expected % 2 ^ 32) % 2 ^ 32

/-- Where an arriving datagram falls: the next one, one ahead of a gap, or one to discard (R316). -/
inductive Arrival where
  | next | held | discarded
deriving DecidableEq, Repr

/-- The place of SEQ `seq` on a connection. -/
def arrivalOf (c : Connection) (seq : Nat) : Arrival :=
  if seqAhead c seq = 0 then .next
  else if seqAhead c seq < ownWindow ∧ !c.heldIn.any (fun e => e.1 == seq) then .held
  else .discarded

/-- An acknowledgement of what has arrived, where nothing else was sent on the connection (log entry 13). -/
def acknowledge (s0 s : State) (peer : PartAddr) : State :=
  match connOf s peer with
  | none => s
  | some c =>
    match connOf s0 peer with
    | some c0 =>
      if c.sentSeq != c0.sentSeq then s
      else (sendDatagram s (bareDatagram s peer false c.peerIdent c.sentSeq c.expected)).2
    | none => s

end Sys2Proof.Machine
end

