-- ==== Sys2Proof/Machine/Mirror.lean ====
section
/-! DEFINITION. The Active's mirroring: what a command changed in the mirrored areas leaves as mirror records, and the records,
notices and RST messages that follow a change wait for the Mirror (R494 to R499). Every command ends in `finish`. -/

namespace Sys2Proof.Machine

open Sys2Proof

/-! ## Mirror ports and records -/

/-- The mirror ports that are UP: ports of mode 2 at whose other end the twin stands (R39, R414, R490). -/
def mirrorPorts (s : State) : List PortNo :=
  ([0, 1, 2, 3, 4, 5, 6, 7, 8, 9, 10, 11] : List PortNo).filter
    (fun p => (portOf s p.val).state == .up && (portOf s p.val).mode == 2 && s.lnk.twin == some (portOf s p.val).neighbour)

/-- An LMC value as a signed count relative to `now`, modulo 2^64 (R60, R497). -/
def relativeLmc (now v : Nat) : Nat := (v + 2 ^ 64 - now % 2 ^ 64) % 2 ^ 64

/-- A signed count as an LMC value of its receiver; a time before the receiver's LMC began is kept as 0. -/
def ownLmc (now d : Nat) : Nat := if d < 2 ^ 63 then (now + d) % 2 ^ 64 else now + d - 2 ^ 64

/-- A DEADLINE as such a count. 0 is no deadline, so that one at the very instant travels as the next count, and one before the
receiver's LMC began is kept as 1 (log entry 77). -/
def relativeDeadline (now v : Nat) : Nat := if v = 0 then 0 else if v = now then 1 else relativeLmc now v
def ownDeadline (now d : Nat) : Nat := if d = 0 then 0 else max 1 (ownLmc now d)

/-- An entry and a ledger in use with every LMC value converted (R497). -/
def mapEntryLmc (f g : Nat → Nat) (e : Entry) : Entry :=
  if e.state == .free then e
  else { e with deadline := g e.deadline, admitLmc := f e.admitLmc, lastCommitLmc := f e.lastCommitLmc }
def mapLedgerLmc (f : Nat → Nat) (l : Ledger) : Ledger :=
  if l.lstate == .free then l else { l with openedLmc := f l.openedLmc, appendLmc := f l.appendLmc }

/-- A record's data as it travels. -/
def sentBody (now : Nat) : MirrorBody → MirrorBody
  | .entry i e => .entry i (mapEntryLmc (relativeLmc now) (relativeDeadline now) e)
  | .ledger k l => .ledger k (mapLedgerLmc (relativeLmc now) l)
  | b => b

/-- One mirror record with the next MSEQ, on a mirror port that the part chooses. -/
def sendRecord (s : State) (last : Bool) (b : MirrorBody) : State :=
  let n := s.twn.sent + 1
  let r := pick { s with twn := { s.twn with sent := n } } (mirrorPorts s)
  match r.1 with
  | some p => enqueue r.2 p (.mirror [{ mseq := n, last := last, body := sentBody s.plt.lmc b }])
  | none => r.2

/-- The records of one change, the last of them with LAST set (R495, R496). -/
def sendChange (s : State) : List MirrorBody → State
  | [] => s
  | [b] => sendRecord s true b
  | b :: bs => sendChange (sendRecord s false b) bs

/-! ## What changed -/

/-- The entries of a table that differ from those of an older table. -/
def tabDiff {α : Type} [DecidableEq α] (d : α) (old new : Tab α) : List (Nat × α) :=
  new.filter (fun e => decide (tabGet d old e.1 ≠ e.2)) ++
    (old.filter (fun e => !(new.any (fun f => f.1 == e.1)))).map (fun e => (e.1, d))

/-- The pages and the manifest of entry `i` are mirrored: it holds a class-M request, or a role switch is under way (R494, R498,
R506). -/
def isCarried (s : State) (i : Nat) : Bool :=
  (entryOf s i).state != .free && ((entryOf s i).durability == .m || s.twn.phase != 0)

/-- The granules that carried requests reference. -/
def carriedGranules (s : State) : List Nat :=
  ((s.rqt.manifests.filter (fun e => isCarried s e.1)).map (fun e => manifestGranules e.2)).flatten

/-- A granule of a page that is one of those (R168). -/
def inPages (s : State) (gs : List Nat) (k : Nat) : Bool := gs.any (fun g => decide (g ≤ k) && decide (k < g + granulesOf s g))

/-- An object whose bytes lie in the block area (R322). -/
def isBlockObject (s : State) (e : OdtEntry) : Bool :=
  e.state != .free && e.tier == 1 &&
    overlaps e.location e.size (getF s F.xfrBlockAreaBase.base * 4096) (getF s F.xfrBlockAreaSize.granules * 4096)

/-- The bytes of a range in pieces of 8,192 (R495). -/
def pieces (s : State) (a n : Nat) : List (Nat × List Byte) :=
  (List.range ((n + 8191) / 8192)).map (fun i => (i * 8192, memBytes s (a + i * 8192) (min 8192 (n - i * 8192))))

/-- The PAGE records of a sealed page (R498). -/
def pageBodies (s : State) (g : Nat) : List MirrorBody :=
  (pieces s (granuleAddr g) (granulesOf s g * 4096)).map (fun p => .page g p.1 p.2)

/-- The sealed pages of carried requests that the Mirror does not hold (R498). -/
def unmirroredPages (s : State) : List Nat :=
  (carriedGranules s).dedup.filter (fun g => (pageOf s g).state == .sealed_ && !(tabGet false s.twn.mirroredPages g))

/-- The changes of the mirrored areas from one state to another, with the pages that go first (R494, R498). -/
def changeBodies (s0 s1 : State) : List MirrorBody :=
  ((unmirroredPages s1).map (pageBodies s1)).flatten ++
  (tabDiff {} s0.rqt.entries s1.rqt.entries).map (fun e => .entry e.1 e.2) ++
  (tabDiff {} s0.xfr.ledgers s1.xfr.ledgers).map (fun e => .ledger e.1 e.2) ++
  ((tabDiff {} s0.stk.odt s1.stk.odt).filter
    (fun e => isBlockObject s1 e.2 || isBlockObject s0 (tabGet {} s0.stk.odt e.1))).map (fun e => .odt e.1 e.2) ++
  (((tabDiff {} s0.stk.odt s1.stk.odt).filter
    (fun e => isBlockObject s1 e.2 && e.2.state == .published && (tabGet {} s0.stk.odt e.1).state != .published)).map
      (fun e => (pieces s1 e.2.location e.2.size).map (fun p => MirrorBody.bytes (e.2.location + p.1) p.2))).flatten ++
  (tabDiff {} s0.pfx.ways s1.pfx.ways).map (fun e => .way e.1 e.2) ++
  (tabDiff {} s0.pfx.records s1.pfx.records).map (fun e => .block e.1 e.2) ++
  ((tabDiff {} s0.stk.pages s1.stk.pages).filter
    (fun e => inPages s1 (carriedGranules s1) e.1 || inPages s0 (carriedGranules s0) e.1)).map (fun e => .pageRec e.1 e.2) ++
  ((tabDiff {} s0.rqt.manifests s1.rqt.manifests).filter
    (fun e => isCarried s1 e.1 || isCarried s0 e.1)).map (fun e => .manifest e.1 e.2)

/-- The COMPLETION records of the output that a change releases (R499). -/
def completionBodies : List HeldOut → List MirrorBody
  | [] => []
  | .record t (.completion r) :: l =>
    .completion ⟨t % 4096, Nat.mod_lt _ (by decide)⟩ r.requestId r.tag r.opcode r.status r.stateCode r.deadlineMissed
      r.position r.detail r.index r.peer :: completionBodies l
  | _ :: l => completionBodies l

/-- The CONFIRM records of the completions written (R499). -/
def confirmBodies (s : State) : List MirrorBody := s.twn.written.map (fun w => .confirm (Fin.ofNat 4096 w.1) w.2)

/-- Marks the pages whose records were sent, and forgets those that are no longer sealed. -/
def markMirrored (s : State) (gs : List Nat) : State :=
  let m := gs.foldl (fun m g => tabPut false m g true) s.twn.mirroredPages
  { s with twn := { s.twn with mirroredPages := tabDrop m (fun g _ => (pageOf s g).state != .sealed_) } }

/-! ## Output -/

/-- Something that waits is let go. -/
def letGo (s : State) : HeldOut → State
  | .record t r => putRecord s t r
  | .rst m => transmit s m

/-- The part's output: at once, or at the end of the command while the part mirrors (R499). -/
def give (s : State) (o : HeldOut) : State :=
  if mirrors s then { s with twn := { s.twn with newHeld := s.twn.newHeld ++ [o] } } else letGo s o

/-- A record for tenant `t`. -/
def giveRecord (s : State) (t : Nat) (r : RecordOut) : State := give s (.record t r)

/-- An RST message. -/
def sendRst (s : State) (m : RstOut) : State := give s (.rst m)

/-- Lets go, in order, what the Mirror has applied; `fuel` bounds its number. -/
def releaseHeld : Nat → State → State
  | 0, s => s
  | fuel + 1, s =>
    match s.twn.held with
    | [] => s
    | (n, o) :: rest =>
      if s.twn.applied < n then s else releaseHeld fuel (letGo { s with twn := { s.twn with held := rest } } o)

/-- Lets go everything that waits for the Mirror, once the part holds nothing back (R493). -/
def releaseAll (s : State) : State :=
  let l := s.twn.held.map (·.2) ++ s.twn.newHeld
  l.foldl letGo { s with twn := { s.twn with held := [], newHeld := [], written := [] } }

/-- The end of a command that began in `s0`: its changes are mirrored, its output waits for them, and what the Mirror has
applied is let go (R494, R499). -/
def mirrorChange (s0 s : State) : State :=
  if !mirrors s then (if s.twn.held.isEmpty && s.twn.newHeld.isEmpty && s.twn.written.isEmpty then s else releaseAll s)
  else
    let pages := unmirroredPages s
    let s1 := markMirrored (sendChange s (changeBodies s0 s ++ completionBodies s.twn.newHeld)) pages
    let s2 := { s1 with twn := { s1.twn with
        held := s1.twn.held ++ s1.twn.newHeld.map (fun o => (s1.twn.sent, o)), newHeld := [] } }
    let s3 := releaseHeld s2.twn.held.length s2
    sendChange { s3 with twn := { s3.twn with written := [] } } (confirmBodies s3)

/-- The end of a command that began in `s0`: capacity pressure begins or ends, and the change is mirrored. -/
def finish (s0 s : State) : State := mirrorChange s0 (updatePressure s)

/-- A command: its effect where the part takes it, and nothing otherwise. -/
def act (s : State) (taken : Bool) (effect : State → State) : Host.Outcome State Fault Refusal :=
  .next (if taken then finish s (effect s) else s)

/-- A command that waits for the end of Charcoal where the part is in it, entering it or leaving it (R581). -/
def actAwake (s : State) (taken : Bool) (c : Instr) (effect : State → State) : Host.Outcome State Fault Refusal :=
  if taken && !isAwake s then .next { s with pwr := { s.pwr with held := s.pwr.held ++ [c] } } else act s taken effect

/-! ## Notices and completions -/

/-- The code of an entry's state (R226). -/
def reqCode : ReqState → Nat
  | .free => 0 | .admitted => 1 | .prefill => 2 | .handoffOut => 3 | .handoffIn => 4 | .decode => 5 | .parked => 6
  | .dropped => 7 | .done => 8 | .cancelled => 9 | .failed => 10

/-- Takes the mark that the next completion of entry `i` tells of a missed deadline (R250). -/
def takeMiss (s : State) (i : Nat) : Bool × State :=
  (tabGet false s.rqt.missCompletion i,
    { s with rqt := { s.rqt with missCompletion := tabPut false s.rqt.missCompletion i false } })

/-- A notice of entry `i` (R242): 32 FINISHED, 33 HANDED_OFF, 34 ARRIVED, 35 RESYNC, 36 FAILED, 37 HANDOFF_FAILED. -/
def notice (s : State) (i status : Nat) (peer : PartAddr) : State :=
  let e := entryOf s i
  let m := takeMiss s i
  giveRecord m.2 e.tenant.val (.completion
    { requestId := e.requestId, tag := e.admitTag, opcode := 0, status := status, stateCode := reqCode e.state,
      deadlineMissed := m.1, position := if status = 35 then e.logged else e.length, detail := 0, index := i, peer := peer })

/-- One command fewer is under way for the tenant. -/
def commandEnds (s : State) (t : Nat) : State :=
  setQueues s t { queuesOf s t with outstanding := (queuesOf s t).outstanding - 1 }

/-- The completion of a command on entry `i` (R244); `detail` is MATCHED for ADMIT and APPEND. -/
def complete (s : State) (t i : Nat) (opcode requestId tag status detail : Nat) (peer : PartAddr) : State :=
  let e := entryOf s i
  let m := takeMiss s i
  giveRecord (commandEnds m.2 t) t (.completion
    { requestId := requestId, tag := tag, opcode := opcode, status := status, stateCode := reqCode e.state,
      deadlineMissed := m.1, position := e.length, detail := detail, index := i, peer := peer })

/-- The completion of a command that no entry acts on: with the state of the entry that its REQUEST_ID names, where it names one of
the tenant's (R244). -/
def completeBare (s : State) (t : Nat) (opcode requestId tag status : Nat) : State :=
  match ownEntry s t requestId with
  | some i => complete s t i opcode requestId tag status 0 0
  | none =>
    giveRecord (commandEnds s t) t (.completion
      { requestId := requestId, tag := tag, opcode := opcode, status := status, stateCode := 0,
        deadlineMissed := false, position := 0, detail := 0, index := 0, peer := 0 })

end Sys2Proof.Machine
end

