-- ==== Sys2Proof/Machine/Feed.lean ====
section
/-! DEFINITION. The part's side of the event feed and of the record lane: event frames, the mailbox and the MTR_ registers
(R519 to R521, R534 to R536). -/

namespace Sys2Proof.Machine

open Sys2Proof

/-- The LMC runs and the I/O-die firmware has started: the part sends event frames (R520, R538). -/
def feedOn (s : State) : Bool :=
  lmcRuns s && (s.plt.state == .loading || s.plt.state == .training || s.plt.state == .ready)

/-- An event frame, sent twice in succession (R519). -/
def sendFeed (s : State) (b : FeedBody) : State :=
  { emitAll s [.feed s.lane.nextSeq b, .feed s.lane.nextSeq b] with
    lane := { s.lane with nextSeq := (s.lane.nextSeq + 1) % 2 ^ 32, sentThisMs := true } }

/-- The code of a role (R409). -/
def roleNo : Role → Nat
  | .none => 0 | .prompt => 1 | .generation => 2 | .cache => 3

/-- The code of a twin role in TWN_STATUS.ROLE (R513). -/
def twinRoleNo : TwinRole → Nat
  | .none => 0 | .active => 1 | .mirror => 2

/-- The composition body of a bound composition (R393, R520). -/
def compBody (s : State) (c : CompNo) (x : Composition) : CompositionBody :=
  { composition := c, role := roleNo x.role, regionCount := (regionsOf s c.val).length, stackCount := (shareStacks x).length,
    kvGranules := x.kvGranules, slateGib := x.slateGib, umberGib := x.umberGib, package := false,
    twinRole := twinRoleNo s.twn.role, member := s.lnk.member }

/-- The body of a package RESOURCE frame: a role change of the twin (R503, R507, R520). -/
def packageBody (s : State) : CompositionBody :=
  { composition := 0, role := 0, regionCount := 0, stackCount := 0, kvGranules := 0, slateGib := 0, umberGib := 0, package := true,
    twinRole := twinRoleNo s.twn.role, member := s.lnk.member }

/-- The SEAL frame: one lock bit for each block in block order, and the firmware (R520). -/
def sendSeal (s : State) : State :=
  let locks := ((List.range 16).map (fun b => if isLocked s b then 2 ^ b else 0)).sum
  sendFeed s (.seal locks s.plt.runningVersion (s.plt.runningDigest.toNat % 2 ^ 256))

/-- A lock bit is set: it stays set until a cold reset, and a SEAL frame tells the meter of it (R15, R520). -/
def setLock (s : State) (f : Field) : State :=
  if isSet s f then s
  else
    let s1 := putF s f 1
    if feedOn s1 then sendSeal s1 else s1

/-- KEEPALIVE: the end of a millisecond of LMC time. -/
def execKeepalive (s : State) : Host.Outcome State Fault Refusal :=
  act s (feedOn s && decide (s.lane.msAt + usCounts 1000 ≤ s.plt.lmc)) (fun s =>
    let s1 := if s.lane.sentThisMs then s else sendFeed s .keepalive
    { s1 with lane := { s1.lane with sentThisMs := false, msAt := s.plt.lmc - s.plt.lmc % usCounts 1000 } })

/-! ## The mailbox (R534 to R536) -/

/-- The 256 bytes of a record (R527). -/
def meterRecordBytes (r : MeterRecord) : List Byte :=
  leBytes 8 r.recordNo ++ leBytes 4 r.boot ++ leBytes 1 r.type ++ leBytes 1 (r.brokenSeal.toNat + 2 * r.meterFault.toNat) ++
    leBytes 2 0 ++ leBytes 8 r.mtc ++ leBytes 8 r.energy ++ leBytes 48 r.prevHash.toNat ++
    (r.body ++ List.replicate (80 - r.body.length) 0).take 80 ++ leBytes 48 r.sigR.toNat ++ leBytes 48 r.sigS.toNat

/-- The record lane has power at both ends and IO_0 listens on it. -/
def laneOn (s : State) : Bool := s.plt.mainRails && s.mtr.powered

/-- The METER_ID that a lane status frame or a START record tells of, and BINDING_MATCH (R535, R551). -/
def learnMeter (s : State) (meterId : Nat) : State :=
  let s1 := putF (putF s F.mtrMeterIdLo.id (meterId % 2 ^ 64)) F.mtrMeterIdHi.id (meterId / 2 ^ 64)
  putF s1 F.mtrStatus.bindingMatch (if meterId = meterBinding s then 1 else 0)

/-- The vector of MTR_CTL: at most once per 1 ms, and at once for TAMPER, FEED_FAULT and METER_FAULT (R536). -/
def mtrNotify (s : State) (urgent : Bool) : State :=
  if !isSet s F.mtrCtl.notifyEnable then s
  else if urgent || (match s.lane.notifiedAt with | none => true | some t => decide (t + usCounts 1000 ≤ s.plt.lmc)) then
    signal { s with lane := { s.lane with notifiedAt := some s.plt.lmc } } (getF s F.mtrCtl.vector)
  else s

/-- RECORD_COPY: a copy of a record takes its slot of the mailbox. -/
def takeCopy (s : State) (r : MeterRecord) : State :=
  let s1 := { s with lane := { s.lane with
      mailbox := tabPut none s.lane.mailbox (r.recordNo % 4096) (some r), heardAt := s.plt.lmc } }
  let s2 := putF s1 F.mtrNewest.recordNo r.recordNo
  let s3 := putF s2 F.mtrOldest.recordNo
    (s1.lane.mailbox.foldl (fun m e => match e.2 with | some x => min m x.recordNo | none => m) r.recordNo)
  let s4 := putF (putF (putF s3 F.mtrStatus.state 1) F.mtrStatus.brokenSeal r.brokenSeal.toNat) F.mtrStatus.meterFault
    r.meterFault.toNat
  let s5 := if r.type = 1 then learnMeter s4 (leNat (r.body.take 16)) else s4
  mtrNotify s5 (r.type == 9 || r.type == 10 || r.type == 12)

/-- RECORD_COPY. -/
def execRecordCopy (r : MeterRecord) (s : State) : Host.Outcome State Fault Refusal :=
  act s (laneOn s) (fun s => takeCopy s r)

/-- RECORD_LANE_SILENT: nothing came over the record lane for 1 s (R536). -/
def execRecordLaneSilent (s : State) : Host.Outcome State Fault Refusal :=
  act s (lmcRuns s && decide (s.lane.heardAt + usCounts 1000000 ≤ s.plt.lmc)) (fun s => putF s F.mtrStatus.state 2)

/-- The write of MTR_SELECT latches a copy of the selected record into the window (R534, R536). -/
def selectRecord (s : State) (n : Nat) : State :=
  let s1 := putF s F.mtrSelect.recordNo n
  match tabGet none s.lane.mailbox (n % 4096) with
  | some r =>
    if r.recordNo = n then putF { s1 with lane := { s1.lane with latched := some r } } F.mtrSelectStatus.status 0
    else putF { s1 with lane := { s1.lane with latched := none } } F.mtrSelectStatus.status 1
  | none => putF { s1 with lane := { s1.lane with latched := none } } F.mtrSelectStatus.status 1

/-- MTR_SELECT: a write of the MTR_SELECT register. -/
def execMtrSelect (recordNo : Nat) (s : State) : Host.Outcome State Fault Refusal :=
  act s (serves s 15) (fun s => selectRecord s (recordNo % 2 ^ 64))

end Sys2Proof.Machine
end

