-- ==== Sys2Proof/Machine/Flash.lean ====
section
/-! DEFINITION. The Slate controller's scrub and Umber's flash translation: pages, blocks, the map, publishes, tombstones, folds,
collection and rebuild (17_flash_and_board_memory.md). -/

namespace Sys2Proof.Machine

open Sys2Proof

/-! ## Blocks -/

/-- The physical block `b`. -/
def flashBlock (s : State) (b : Nat) : FlashBlock := tabGet {} s.fls.blocks b

/-- The physical block `b` set. -/
def setFlashBlock (s : State) (b : Nat) (x : FlashBlock) : State :=
  { s with fls := { s.fls with blocks := tabPut {} s.fls.blocks b x } }

/-- Good blocks of the NAND (R473, R485). -/
def goodBlocks (s : State) : Nat :=
  match s.fls.nand with
  | some n => n.goodBlocks - tabCount s.fls.blocks (fun b => b.retired)
  | none => 0

/-- Physical block addresses. -/
def blockAddresses (s : State) : Nat :=
  match s.fls.nand with
  | some n => n.goodBlocks + n.badBlocks.length
  | none => 0

/-- Block `b` is good and holds no page. -/
def isFreeBlock (s : State) (b : Nat) : Bool :=
  match s.fls.nand with
  | some n => !n.badBlocks.contains b && (flashBlock s b).pages.isEmpty && !(flashBlock s b).retired
  | none => false

/-- Free blocks. -/
def freeBlocks (s : State) : Nat := goodBlocks s - tabCount s.fls.blocks (fun b => !b.retired && !b.pages.isEmpty)

/-- Blocks in one-bit mode. -/
def oneBitBlocks (s : State) : Nat := tabCount s.fls.blocks (fun b => b.oneBit && !b.retired && !b.pages.isEmpty)

/-- Pages of a block: 256 in one-bit mode, 1,024 in four-bit mode (R467). -/
def blockPages (b : FlashBlock) : Nat := if b.oneBit then 256 else 1024

/-- An open block of a mode. -/
def openBlock (s : State) (oneBit : Bool) : Option Nat :=
  (tabKeys s.fls.blocks (fun b => b.oneBit == oneBit && !b.closed && !b.retired && !b.pages.isEmpty)).head?

/-- The block that takes the next page of a mode: an open one, or a free one that the part chooses; a one-bit block only
below SLC_MAX_PM (R475). -/
def blockFor (s : State) (oneBit : Bool) : Option Nat × State :=
  match openBlock s oneBit with
  | some b => (some b, s)
  | none =>
    if oneBit && getF s F.flsGcCfg.slcMaxPm * goodBlocks s ≤ 1000 * oneBitBlocks s then (none, s)
    else chooseFree s 0 (blockAddresses s) (isFreeBlock s)

/-- Programs one page with the next SEQ into block `b`; the last page of a block is its summary (R470, R471). -/
def programInto (s : State) (b : Nat) (oneBit : Bool) (p : FlashPage) : State :=
  let x := { flashBlock s b with oneBit := oneBit, pages := (flashBlock s b).pages ++ [{ p with sequence := s.fls.sequence }] }
  let s1 := { setFlashBlock s b x with fls := { (setFlashBlock s b x).fls with sequence := s.fls.sequence + 1 } }
  if x.pages.length + 1 < blockPages x then s1
  else
    { setFlashBlock s1 b { x with
        closed := true, pages := x.pages ++ [{ ptype := .summary, sequence := s1.fls.sequence }] } with
      fls := { (setFlashBlock s1 b { x with
        closed := true, pages := x.pages ++ [{ ptype := .summary, sequence := s1.fls.sequence }] }).fls with
          sequence := s1.fls.sequence + 1 } }

/-! ## The map -/

/-- Logical units of 16 KiB for a number of bytes. -/
def unitsOf (n : Nat) : Nat := ceilDiv n 16384

/-- LOGICAL_UNITS, while Umber serves (R387, R473). -/
def logicalUnits (s : State) : Nat :=
  if s.fls.state == .scanning || s.fls.state == .ready then getF s F.flsLogical.logicalUnits else 0

/-- A logical unit's place. -/
def mapOf (s : State) (u : Nat) : Option (Nat × Nat) := tabGet none s.fls.map u

/-- A logical unit's place set. -/
def setMap (s : State) (u : Nat) (v : Option (Nat × Nat)) : State :=
  { s with fls := { s.fls with map := tabPut none s.fls.map u v } }

/-- The handle in the spare record of a mapped unit. -/
def unitHandle (s : State) (u : Nat) : Option Nat :=
  match mapOf s u with
  | some (b, p) => ((flashBlock s b).pages[p]?).map (·.handle)
  | none => none

/-- The limit of R473: units mapped after a publish. -/
def mapLimit (s : State) : Nat := 85 * goodBlocks s * 1023 / 100

/-- A range of logical units meets a unit of an Umber object whose ODT entry is not FREE, other than the object of entry `own` (R473,
R479). -/
def meetsObject (s : State) (own : Option Nat) (first n : Nat) : Bool :=
  s.stk.odt.any (fun e =>
    e.2.state != .free && own != some e.1 &&
      ((e.2.tier == 3 && overlaps first n e.2.location (unitsOf e.2.size)) ||
        (e.2.state == .moving && e.2.newTier == 3 && overlaps first n e.2.newLocation (unitsOf e.2.size))))

/-! ## Modes of collection (R480, R481) -/

/-- Free blocks lie below a per-mille threshold of the good blocks. -/
def belowPm (s : State) (pm : Nat) : Bool := decide (1000 * freeBlocks s < pm * goodBlocks s)

/-- GC_MODE: 0 none, 1 background, 2 foreground. -/
def gcMode (s : State) : Nat :=
  if s.fls.state != .ready then 0
  else if s.fls.foreground then 2
  else if belowPm s (getF s F.flsGcCfg.softPm) then 1 else 0

/-- Foreground mode begins below HARD_PM, with no credit, and ends at SOFT_PM. -/
def gcUpdate (s : State) : State :=
  if s.fls.foreground then
    if belowPm s (getF s F.flsGcCfg.softPm) then s else { s with fls := { s.fls with foreground := false, credit := 0 } }
  else if belowPm s (getF s F.flsGcCfg.hardPm) && s.fls.nand.isSome then
    { s with fls := { s.fls with foreground := true, credit := 0 } }
  else s

/-! ## Programs (R470, R474, R484, R485) -/

/-- A page that a copy keeps: data that the map still names, a tombstone that is still valid, a bad-block record. -/
def keepsPage (s : State) (b i : Nat) (p : FlashPage) : Bool :=
  match p.ptype with
  | .data => mapOf s p.unit_ == some (b, i)
  | .tombstone => s.fls.blocks.any (fun x => !x.2.retired && x.2.pages.any (fun q => q.sequence < p.tombSeq))
  | .badBlock => true
  | .summary => false

/-- The pages of a block with their numbers that a copy keeps. -/
def keptPages (s : State) (b : Nat) : List (Nat × FlashPage) :=
  ((flashBlock s b).pages.zipIdx.map (fun e => (e.2, e.1))).filter (fun e => keepsPage s b e.1 e.2)

/-- A page to be programmed into a block of a mode, or where `either` is set of the other mode; `credit` tells that it spends a credit
in foreground mode (R481). -/
structure ProgramJob where
  page : FlashPage
  oneBit : Bool
  either : Bool := false
  credit : Bool := false
deriving DecidableEq, Repr

/-- The block that takes a job's page, with its mode. -/
def jobBlock (s : State) (j : ProgramJob) : Option (Nat × Bool) × State :=
  let r := blockFor s j.oneBit
  match r.1 with
  | some b => (some (b, j.oneBit), r.2)
  | none =>
    if j.either then
      let q := blockFor r.2 (!j.oneBit)
      (q.1.map (fun b => (b, !j.oneBit)), q.2)
    else (none, r.2)

/-- The copy of a kept page goes into a block of a mode. -/
def copyJob (oneBit : Bool) (p : FlashPage) : ProgramJob := { page := { p with copy := true }, oneBit := oneBit }

/-- The bad-block record that retires block `b` (R472, R484). -/
def badBlockJob (b : Nat) : ProgramJob :=
  { page := { ptype := .badBlock, sequence := 0, block := b }, oneBit := true, either := true }

/-- A block is retired, and the vector tells of it (R485, R489). -/
def retireBlock (s : State) (b : Nat) : State :=
  notify (setFlashBlock s b { flashBlock s b with closed := true, retired := true }) F.flsCtl.notifyEnable F.flsCtl.vector

/-- A failed program into block `b`: it used up its SEQ and is counted, and the block retires. -/
def failProgram (s : State) (b : Nat) : State :=
  let s1 := satF s F.flsStats.programFails
  retireBlock { s1 with fls := { s1.fls with sequence := s1.fls.sequence + 1 } } b

/-- The programmed page: a tombstone's first SEQ is its TOMB_SEQ. -/
def stampTomb (s : State) (p : FlashPage) : FlashPage :=
  if p.ptype == .tombstone && !p.copy then { p with tombSeq := s.fls.sequence } else p

/-- Programs pages in order; `fuel` bounds the programs. A copy of a data page takes its place in the map at once; the places of other
data pages are listed, newest first. A page whose program fails goes into another block, after the bad-block record of the failed
block and every page of it that is kept or that the list names, which are programmed again (R474, R484, R485; log entry 79). `none`
where no block, or no credit, is left for a page. -/
def runJobs (f : NandReport) : Nat → List ProgramJob → List (ProgramJob × Nat × Nat) → State →
    Option (List (ProgramJob × Nat × Nat)) × State
  | 0, _, _, s => (none, s)
  | _ + 1, [], acc, s => (some acc, s)
  | fuel + 1, j :: js, acc, s =>
    if j.credit && s.fls.foreground && s.fls.credit == 0 then (none, s)
    else
      let s0 := if j.credit && s.fls.foreground then { s with fls := { s.fls with credit := s.fls.credit - 1 } } else s
      let r := jobBlock s0 j
      match r.1 with
      | none => (none, r.2)
      | some (b, mode) =>
        if f.programFails.contains b then
          let again := (keptPages r.2 b).map (fun e => copyJob mode e.2)
          let lost := (acc.filter (fun e => e.2.1 == b)).reverse.map (·.1)
          runJobs f fuel (badBlockJob b :: again ++ lost ++ j :: js) (acc.filter (fun e => e.2.1 != b)) (failProgram r.2 b)
        else
          let w := (b, (flashBlock r.2 b).pages.length)
          let s1 := programInto r.2 b mode (stampTomb r.2 j.page)
          if j.page.ptype == .data then
            if j.page.copy then runJobs f fuel js acc (setMap s1 j.page.unit_ (some w)) else runJobs f fuel js ((j, w) :: acc) s1
          else runJobs f fuel js acc s1

/-- Programs that suffice for `n` pages with the repeats that failing blocks ask for. -/
def jobFuel (f : NandReport) (n : Nat) : Nat := (n + 1025) * (f.programFails.length + 1) + 1

/-- Programs pages in order. -/
def programJobs (f : NandReport) (js : List ProgramJob) (s : State) : Option (List (ProgramJob × Nat × Nat)) × State :=
  runJobs f (jobFuel f js.length) js [] s

/-- Blocks from which a read corrected more than REFRESH_BITS bits in one page are the next victims (R476). -/
def noteCorrected (s : State) (f : NandReport) : State :=
  let worn := (f.corrected.filter (fun e => decide (getF s F.flsGcCfg.refreshBits < e.2) && !s.fls.refresh.contains e.1)).map (·.1)
  { s with fls := { s.fls with refresh := s.fls.refresh ++ worn.dedup } }

/-- An uncorrectable page read of logical unit `u` (R476, R489). -/
def flashError (s : State) (u : Nat) : State :=
  let s1 := satF s F.flsStats.uncorrectable
  let first := !isSet s1 F.flsErr.valid
  let s2 := latch s1 F.flsErr.valid F.flsErr.overflow (fun t => putF t F.flsErr.lunit u)
  if first then notify s2 F.flsCtl.notifyEnable F.flsCtl.vector else s2

/-! ## Publishes and tombstones (R474, R477, R479) -/

/-- A publish or a move to Umber waits: for the credit of foreground mode, or for a fold where the one-bit pool is at SLC_MAX_PM
(R475, R481). -/
def publishWaits (s : State) : Bool :=
  (s.fls.foreground && s.fls.credit == 0) ||
    ((openBlock s true).isNone && decide (getF s F.flsGcCfg.slcMaxPm * goodBlocks s ≤ 1000 * oneBitBlocks s) &&
      s.fls.blocks.any (fun b => b.2.oneBit && b.2.closed && !b.2.retired))

/-- Publishes `n` units: every page is programmed and read back before the map points at one of them; `false` where no block can take a
page, and the map then stands as it was; `none` where the publish waits (R474, R475, R481). -/
def flashPublish (s : State) (f : NandReport) (handle first n : Nat) : Option (Bool × State) :=
  let js := (List.range n).map (fun k =>
    { page := { ptype := .data, sequence := 0, unit_ := first + k, handle := handle }, oneBit := true, credit := true : ProgramJob })
  let r := programJobs f js (noteCorrected s f)
  match r.1 with
  | some ws => some (true, gcUpdate (ws.foldl (fun t w => setMap t w.1.page.unit_ (some w.2)) r.2))
  | none => if publishWaits r.2 then none else some (false, gcUpdate r.2)

/-- Programs a tombstone for a range and clears the range in the map (R477, R479). -/
def tombstone (s : State) (f : NandReport) (handle first n : Nat) : State :=
  if n = 0 then s
  else
    let p : FlashPage := { ptype := .tombstone, sequence := 0, unit_ := first, count := n, handle := handle }
    let s1 := (programJobs f [{ page := p, oneBit := true, either := true }] (noteCorrected s f)).2
    gcUpdate { s1 with fls := { s1.fls with map := tabDrop s1.fls.map (fun u _ => first ≤ u && u < first + n) } }

/-- DISCARD of a range of logical units (R479): its status 0 OK, 2 BAD_LOCATION, 3 NOT_READY. -/
def discardRange (f : NandReport) (s : State) : State :=
  let first := getF s F.flsDiscardFirst.first
  let n := getF s F.flsDiscardUnits.units
  if s.fls.state != .ready then putF s F.flsCmd.status 3
  else if meetsObject s none first n then putF s F.flsCmd.status 2
  else putF (tombstone s f 0 first n) F.flsCmd.status 0

/-- DISCARD written to FLS_CMD. -/
def execDiscard (s : State) (f : NandReport := {}) : Host.Outcome State Fault Refusal :=
  actAwake s (serves s 13) (.discard f) (discardRange f)

/-! ## Collection and folding (R478, R480 to R484) -/

/-- Erases a block; it joins the free blocks, or retires where its erase fails (R482, R485). -/
def eraseBlock (s : State) (f : NandReport) (b : Nat) : State :=
  let s0 := { s with fls := { s.fls with refresh := s.fls.refresh.filter (· != b) } }
  if f.eraseFails.contains b then (programJobs f [badBlockJob b] (retireBlock s0 b)).2
  else wrapF (setFlashBlock s0 b {}) F.flsStats.erases 1

/-- Collects or folds block `b`: its kept pages are copied into four-bit blocks and checked, and only then is it erased (R482, R483). -/
def collectBlock (s : State) (f : NandReport) (b : Nat) : State :=
  let kept := keptPages s b
  let r := programJobs f (kept.map (fun e => copyJob false e.2)) s
  match r.1 with
  | none => gcUpdate r.2
  | some _ =>
    let s2 := eraseBlock r.2 f b
    let four := !(flashBlock s b).oneBit
    gcUpdate (if s.fls.foreground && four && !f.eraseFails.contains b then
      { s2 with fls := { s2.fls with credit := s2.fls.credit + (1023 - kept.length) } } else s2)

/-- The victim of collection (R480): a closed four-bit block marked under R476, else the one with the fewest valid pages, the
lowest address first. -/
def victim (s : State) : Option Nat :=
  let closed := tabKeys s.fls.blocks (fun b => !b.oneBit && b.closed && !b.retired)
  match closed.find? (fun b => s.fls.refresh.contains b) with
  | some b => some b
  | none => closed.foldl (fun best b =>
      match best with
      | none => some b
      | some c => if (keptPages s b).length < (keptPages s c).length then some b else some c) none

/-- GC_COLLECT: the collection of one victim, in background or foreground mode. -/
def execGcCollect (s : State) (f : NandReport := {}) : Host.Outcome State Fault Refusal :=
  act s (runs s && gcMode s != 0) (fun s =>
    let s1 := noteCorrected s f
    match victim s1 with
    | some b => collectBlock s1 f b
    | none => s1)

/-- FOLD: a closed one-bit block, which the part chooses, goes into four-bit blocks while the pool is above SLC_MIN_PM (R475). -/
def execFold (s : State) (f : NandReport := {}) : Host.Outcome State Fault Refusal :=
  act s (runs s && s.fls.state == .ready && decide (getF s F.flsGcCfg.slcMinPm * goodBlocks s < 1000 * oneBitBlocks s)) (fun s =>
    let s1 := noteCorrected s f
    let r := pick s1 (tabKeys s1.fls.blocks (fun b => b.oneBit && b.closed && !b.retired))
    match r.1 with
    | some b => collectBlock r.2 f b
    | none => r.2)

/-! ## FLS_LOCK and rebuild (R466, R486) -/

/-- The private area that R466 asks for, in GiB. -/
def privateNeeded (s : State) : Nat := (8 * getF s F.flsLogical.logicalUnits + 32 * blockAddresses s + 2 ^ 30 - 1) / 2 ^ 30 + 1

/-- STATE changes: the vector is signalled (R489). -/
def setFlashState (s : State) (st : FlashState) (cause : Nat) : State :=
  notify { s with fls := { s.fls with state := st, cause := cause } } F.flsCtl.notifyEnable F.flsCtl.vector

/-- FLS_LOCK set: the NAND is identified and the rebuild starts, or the controller fails with its cause. -/
def lockFlash (s : State) (nand : NandId) : State :=
  let s1 := setLock s F.flsCtl.flsLock
  let s2 := { s1 with fls := { s1.fls with nand := some nand, scanStart := s1.plt.lmc } }
  if !nand.supported then setFlashState s2 .failed 2
  else if getF s2 F.sltCtl.privateGib < privateNeeded s2 then setFlashState s2 .failed 1
  else if mapLimit s2 < getF s2 F.flsLogical.logicalUnits then setFlashState s2 .failed 3
  else setFlashState s2 .scanning 0

/-- FLS_LOCK: bit 0 of FLS_CTL written 1 while it is 0. -/
def execFlsLock (nand : NandId) (s : State) : Host.Outcome State Fault Refusal :=
  actAwake s (serves s 13 && !isSet s F.flsCtl.flsLock) (.flsLock nand) (fun s => lockFlash s nand)

/-- Blocks named by a bad-block record. -/
def recordedBad (s : State) : List Nat :=
  (s.fls.blocks.map (fun b => (b.2.pages.filter (fun p => p.ptype == .badBlock)).map (·.block))).flatten

/-- The claims on logical units of every page outside retired blocks: unit, sequence and place (pass 2 of R486). -/
def unitClaims (s : State) : List (Nat × Nat × Option (Nat × Nat)) :=
  ((s.fls.blocks.filter (fun b => !(recordedBad s).contains b.1)).map (fun b =>
    (b.2.pages.zipIdx.map (fun e =>
      match e.1.ptype with
      | .data => [(e.1.unit_, e.1.sequence, some (b.1, e.2))]
      | .tombstone => (List.range e.1.count).map (fun u => (e.1.unit_ + u, e.1.tombSeq, none))
      | _ => [])).flatten)).flatten

/-- The map of R486: for each unit the claim with the highest sequence number. -/
def rebuiltMap (s : State) : Tab (Option (Nat × Nat)) :=
  let best := (unitClaims s).foldl (fun (m : Tab (Nat × Option (Nat × Nat))) c =>
    match tabGet (0, none) m c.1 with
    | (q, _) => if q ≤ c.2.1 then tabIns m c.1 c.2 else m) []
  (best.map (fun e => (e.1, e.2.2))).filter (fun e => e.2.isSome)

/-- The highest sequence number on the flash. -/
def highestSeq (s : State) : Nat :=
  (s.fls.blocks.map (fun b => (b.2.pages.map (fun p => max p.sequence p.tombSeq)).foldl max 0)).foldl max 0

/-- The pages that pass 1 reads: a summary for each closed block, every page otherwise, and the bodies of tombstones and
bad-block records. -/
def pagesScanned (s : State) : Nat :=
  (s.fls.blocks.map (fun b =>
    (if b.2.closed then 1 else blockPages b.2) +
      (b.2.pages.filter (fun p => p.ptype == .tombstone || p.ptype == .badBlock)).length)).sum

/-- The end of the rebuild: the map is pointed, the counter is one above the highest SEQ found, and STATE reads READY. -/
def rebuildEnd (s : State) : State :=
  let s1 := { s with fls := { s.fls with
      map := rebuiltMap s, sequence := highestSeq s + 1,
      blocks := tabMap {} s.fls.blocks (fun b x => if (recordedBad s).contains b then { x with retired := true } else x) } }
  let s2 := putF (putF s1 F.flsScan.pagesRead (pagesScanned s)) F.flsScan.durationUs ((s.plt.lmc - s.fls.scanStart) / 100)
  gcUpdate (setFlashState s2 .ready 0)

/-! ## Slate (R462, R465) -/

/-- The channels in use, ascending. -/
def slateChannels (s : State) : List Nat := (List.range 12).filter (fun k => (getF s F.sltStatus.populated).testBit k)

/-- The channel that holds a Slate address: 4 KiB granules over the channels in use (R462). -/
def channelOf (s : State) (a : Nat) : Nat :=
  let cs := slateChannels s
  (cs[((a - slateBase) / 4096) % cs.length]?).getD 0

/-- One uncorrectable error at a Slate address: counted, and recorded where it is the first (R465, R488). -/
def slateError (s : State) (a : Nat) : State :=
  let s1 := satF s F.sltEccStats.uncorrected
  let first := !isSet s1 F.sltErr.valid
  let s2 := latch s1 F.sltErr.valid F.sltErr.overflow (fun t =>
    putF (putF t F.sltErr.channel (channelOf t a)) F.sltErrAddr.address a)
  if first then notify s2 F.sltCtl.notifyEnable F.sltCtl.vector else s2

/-- The next scrub of Slate is due: SCRUB_HOURS of LMC time have passed since the latest; 0 asks for none (R465). -/
def scrubDue (s : State) : Bool :=
  lmcRuns s && getF s F.sltCtl.scrubHours != 0 &&
    decide (s.fls.slateScrubbed + usCounts (getF s F.sltCtl.scrubHours * 3600000000) ≤ s.plt.lmc)

/-- SLATE_SCRUB: one read of the whole of Slate; Charcoal stops it (R465, R580). -/
def execSlateScrub (corrected : Nat) (uncorrectable : List Nat) (s : State) : Host.Outcome State Fault Refusal :=
  act s (runs s && scrubDue s) (fun s =>
    uncorrectable.foldl slateError
      (satAddF { s with fls := { s.fls with slateScrubbed := s.plt.lmc } } F.sltEccStats.corrected corrected))

end Sys2Proof.Machine
end

