-- ==== Sys2Proof/Machine/Pages.lean ====
section
/-! DEFINITION. KV pages: leases and epochs, manifest units, allocation, sharing, sealing, freezing, copy-on-write, truncation and
reclamation (06_kv_pages.md, R104, R198, R200). -/

namespace Sys2Proof.Machine

open Sys2Proof

/-! ## The model that a composition holds fixed (R104) -/

/-- One of the conditions of R104 holds composition `c` to its model. -/
def modelHeld (s : State) (c : Nat) (x : Composition) : Bool :=
  (regionsOf s c).any (fun n =>
    let st := (regionOf s n).state
    st == .loading || st == .verifying || st == .ready || st == .serving || st == .draining) ||
  s.rqt.entries.any (fun e => e.2.state != .free && e.2.composition.val == c) ||
  !allPagesFree s x ||
  (tabGet none s.ucode.attached c).isSome

/-- Releases the model of composition `c` once no condition of R104 holds it, and with it the slots (R389). -/
def releaseModel (s : State) (c : Nat) : State :=
  match compOf s c with
  | some x => if x.fixed.isSome && !modelHeld s c x then setComp s c (some { x with fixed := none }) else s
  | none => s

/-! ## Leases (R179 to R182) -/

/-- A holder takes its lease at the current epoch; one that has reads under way keeps the epoch of the oldest (R180). -/
def takeLease (s : State) (slot : Nat) : State :=
  { s with stk := { s.stk with leases := tabMod none s.stk.leases slot (fun o => some (o.getD { epoch := s.stk.epoch })) } }

/-- Space came free on stack `st` (32: a manifest unit; 33: a lease slot of the last group): what waited for it tries again at its next
turn. -/
def wake (s : State) (st : Nat) : State :=
  { s with stk := { s.stk with waits := tabDrop s.stk.waits (fun _ v => v == st + 1) } }

/-- A holder ends its lease. -/
def endLease (s : State) (slot : Nat) : State :=
  let s1 := { s with stk := { s.stk with leases := tabPut none s.stk.leases slot none } }
  if 3584 ≤ slot then wake s1 33 else s1

/-- Every occupied lease slot holds an epoch later than `e` (R181). -/
def leasesPast (s : State) (e : Nat) : Bool :=
  s.stk.leases.all (fun l =>
    match l.2 with
    | some x => laterThan x.epoch e
    | none => true)

/-- A lease that began at `e` is 2^28 epochs older than E (R182). -/
def leaseTooOld (s : State) (e : Nat) : Bool := 2 ^ 28 ≤ (s.stk.epoch + 2 ^ 32 - e % 2 ^ 32) % 2 ^ 32

/-- The first free slot of the group of copy, publish, flash, codec and prefix engines and control cores (R180). -/
def engineLease (s : State) : Option Nat := firstFree 3584 512 (fun k => (tabGet none s.stk.leases k).isNone)

/-- A holder of that group that begins and ends its reads within one action finds a slot for its lease; otherwise it waits, and reads
nothing (R180). -/
def canLease (s : State) : Bool := (engineLease s).isSome

/-! ## Waits for space (R200, R634) -/

/-- An allocation of entry `i` waits for a slot on stack `st`; 32 stands for a manifest unit, 33 for a lease
slot. -/
def waitFor (s : State) (i st : Nat) : State :=
  { s with stk := { s.stk with waits := tabPut 0 s.stk.waits i (st + 1) } }

/-- The allocation of entry `i` waits no longer. -/
def endWait (s : State) (i : Nat) : State :=
  { s with stk := { s.stk with waits := tabPut 0 s.stk.waits i 0 } }

/-- An allocation of entry `i` waits (R397). -/
def isWaiting (s : State) (i : Nat) : Bool := tabGet 0 s.stk.waits i != 0

/-! ## Manifest units (R170, R173, R188, R634) -/

/-- A free unit of the manifest pool, which the part chooses, now in use; unit 0 is never allocated. -/
def allocUnit (s : State) : Option Nat × State :=
  let r := chooseFree s 1 (getF s F.stkManifestUnits.count - 1) (fun u => !(tabGet false s.stk.usedUnits u))
  match r.1 with
  | some u => (some u, { r.2 with stk := { r.2.stk with usedUnits := tabPut false r.2.stk.usedUnits u true } })
  | none => (none, { r.2 with stk := { r.2.stk with manifestPressure := true } })

/-- Units retire, as pages do. -/
def retireUnits (s : State) (us : List Nat) : State :=
  { s with stk := { s.stk with
      retiredUnits := s.stk.retiredUnits ++ (us.filter (· != 0)).map (fun u => (u, s.stk.epoch)) } }

/-- A unit is free again. -/
def freeUnit (s : State) (u : Nat) : State :=
  { s with stk := { s.stk with usedUnits := tabPut false s.stk.usedUnits u false } }

/-- Reclaims the retired units that no lease holds back. -/
def reclaimUnits (s : State) : State :=
  let gone := s.stk.retiredUnits.filter (fun u => leasesPast s u.2)
  if gone.isEmpty then s
  else
    let s1 := { s with stk := { s.stk with retiredUnits := s.stk.retiredUnits.filter (fun u => !leasesPast s u.2) } }
    wake (gone.foldl (fun t u => freeUnit t u.1) s1) 32

/-- The manifest unit of layer `l`, page `p` of entry `i`, allocated where the layer first needs it. -/
def needUnit (s : State) (i l p : Nat) : Bool × State :=
  let k := 8 * l + p / 2048
  if tabGet 0 (manifestOf s i).units k != 0 then (true, s)
  else
    let r := allocUnit s
    match r.1 with
    | some u => (true, setManifest r.2 i { manifestOf r.2 i with units := tabPut 0 (manifestOf r.2 i).units k u })
    | none => (false, r.2)

/-! ## Page entries and references (R173, R174, R177) -/

/-- One write of the page entry of layer `l`, page `p` of entry `i`. -/
def setPageEntry (s : State) (i l p : Nat) (e : PageEntry) : State :=
  setManifest s i { manifestOf s i with pages := tabPut {} (manifestOf s i).pages (pageKey l p) e }

/-- The first record found inconsistent (R191); its page is never reclaimed before the next cold reset. -/
def inconsistent (s : State) (g : Nat) : State :=
  latch { s with stk := { s.stk with outOfUse := tabPut false s.stk.outOfUse g true, broken := tabPut false s.stk.broken g true } }
    F.stkPageIntegrity.valid F.stkPageIntegrity.overflow (fun t => putF t F.stkPageIntegrity.granule g)

/-- A page retires at the current lease epoch. -/
def retirePage (s : State) (g : Nat) : State :=
  setPage s g { pageOf s g with state := .retired, refs := 0, epochOrOwner := s.stk.epoch }

/-- A reference is removed from a page (R174). -/
def removeRef (s : State) (g : Nat) : State :=
  let r := pageOf s g
  match r.state with
  | .open_ => retirePage s g
  | .sealed_ => if 1 < r.refs then setPage s g { r with refs := r.refs - 1 } else retirePage s g
  | _ => inconsistent s g

/-- A share succeeds only on a SEALED page below 65,535 references (R174, R177). -/
def canShare (s : State) (g : Nat) : Bool := (pageOf s g).state == .sealed_ && decide ((pageOf s g).refs < 65535)

/-- One more reference to a sealed page. -/
def addRef (s : State) (g : Nat) : State := setPage s g { pageOf s g with refs := (pageOf s g).refs + 1 }

/-- Clears the page entry of layer `l`, page `p`, and then removes the reference that it held (R173). -/
def clearPage (s : State) (i l p : Nat) : State :=
  let e := pageEntry (manifestOf s i) l p
  let s1 := setPageEntry s i l p {}
  if e.valid then removeRef s1 e.page else s1

/-- Clears every page entry of entry `i` with its reference. -/
def clearPages (s : State) (i : Nat) : State :=
  let gs := manifestGranules (manifestOf s i)
  gs.foldl removeRef (setManifest s i { manifestOf s i with pages := [] })

/-- Retires the manifest of entry `i`: its directory, its units and its history (R173, R356). -/
def retireManifest (s : State) (i : Nat) : State :=
  let m := manifestOf s i
  setManifest (retireUnits s (m.directory :: m.historyDir :: (m.units.map (·.2) ++ m.historyUnits.map (·.2)))) i {}

/-! ## Writing pages (R164, R174, R175, R176) -/

/-- Zeros of a number of bytes. -/
def zeros (n : Nat) : List Byte := List.replicate n 0

/-- The records of the granules of a page other than its first (R168). -/
def setInside (s : State) (g n : Nat) (st : PageState) : State :=
  { s with stk := { s.stk with pages := tabPutRun {} s.stk.pages (g + 1) (List.replicate (n - 1) { state := st }) } }

/-- Allocates a page OPEN as a tail of entry `i` on stack `st` of composition `x`: a free slot, which the part chooses. -/
def allocPage (s : State) (x : Composition) (d : ModelDescriptor) (i st : Nat) : Option Nat × State :=
  let r := pick s (freeSlots s x st)
  match r.1 with
  | some g =>
    let s1 := setInside (setPage r.2 g { state := .open_, fill := 0, refs := 1, epochOrOwner := i }) g (pageGranules d) .inside
    (some g, memWrite s1 (granuleAddr g + pageBytes d) (zeros (pageGranules d * 4096 - pageBytes d)))
  | none => (none, r.2)

/-- Seals a page at `fill` rows: its write-protect bits are set and its owner is cleared (R174). -/
def sealPage (s : State) (g fill : Nat) : State :=
  protect (setPage s g { pageOf s g with state := .sealed_, fill := fill, epochOrOwner := 0 })
    (granuleAddr g) (granulesOf s g) true

/-- Writes zero to rows FILL to 63 of a page. -/
def zeroTail (s : State) (d : ModelDescriptor) (g fill : Nat) : State :=
  (List.range (2 * d.kvHeads)).foldl (fun t hv =>
    memWrite t (granuleAddr g + (hv * 64 + fill) * rowBytes d) (zeros ((64 - fill) * rowBytes d))) s

/-- Freezes one OPEN page of entry `i` (R174, R176): a tail with FILL 0 is cleared and retired. -/
def freezePage (s : State) (d : ModelDescriptor) (i key g : Nat) : State :=
  let r := pageOf s g
  if r.state != .open_ then s
  else if r.fill = 0 then
    retirePage (setManifest s i { manifestOf s i with pages := tabPut {} (manifestOf s i).pages key {} }) g
  else sealPage (zeroTail s d g r.fill) g r.fill

/-- Freezes the tail of entry `i` in every layer (R176). -/
def freezeTail (s : State) (d : ModelDescriptor) (i : Nat) : State :=
  ((manifestOf s i).pages.filter (fun e => e.2.valid)).foldl (fun t e => freezePage t d i e.1 e.2.page) s

/-- A commit of a position in the tail page `g` (R174, R175): FILL grows, and a FILL of 64 seals. -/
def fillPage (s : State) (g fill : Nat) : State :=
  if 64 ≤ fill then sealPage s g 64 else setPage s g { pageOf s g with fill := fill }

/-- The granule of the page at which entry `i` writes position `n` in layer `l`, where it is an OPEN tail of its own. -/
def tailPage (s : State) (i l n : Nat) : Option Nat :=
  let e := pageEntry (manifestOf s i) l (n / 64)
  if e.valid && (pageOf s e.page).state == .open_ then some e.page else none

/-- Copies rows 0 to k - 1 of every head and kind from one page to another (R183). -/
def copyRows (s : State) (d : ModelDescriptor) (src dst k : Nat) : State :=
  (List.range (2 * d.kvHeads)).foldl (fun t hv =>
    memWrite t (granuleAddr dst + hv * 64 * rowBytes d)
      (memBytes s (granuleAddr src + hv * 64 * rowBytes d) (k * rowBytes d))) s

/-- The record of a page that entry `i` references stands in a state that R174 and R175 give it: SEALED, or OPEN with the entry as its
owner. -/
def refOk (s : State) (i g : Nat) : Bool :=
  let r := pageOf s g
  (r.state == .sealed_ && 1 ≤ r.refs) || (r.state == .open_ && r.refs == 1 && r.epochOrOwner == i)

/-- A fresh OPEN page for layer `l`, page `p` of entry `i` with the first `k` rows of `src` (R183); `some st` tells that the
stack which R198 names has no free slot, or that no manifest unit (32) or lease slot (33) is free, or that the source's record is
inconsistent (34). The lease is taken and ended within the copy. -/
def copyOnWrite (s : State) (x : Composition) (d : ModelDescriptor) (i l p k : Nat) (src : Option Nat) :
    Option Nat × State :=
  let u := needUnit s i l p
  if !u.1 then (some 32, u.2)
  else if src.isSome && !canLease u.2 then (some 33, u.2)
  else if !src.all (refOk u.2 i) then (some 34, (src.map (inconsistent u.2)).getD u.2)
  else
    let st := placeOf x (entryOf s i).requestId l p
    let a := allocPage u.2 x d i st
    match a.1 with
    | none => (some st, a.2)
    | some g =>
      let s1 := match src with
        | some o => copyRows a.2 d o g k
        | none => a.2
      let s2 := setPageEntry (setPage s1 g { pageOf s1 g with fill := k }) i l p { valid := true, page := g }
      (none, match src with
        | some o => removeRef s2 o
        | none => s2)

/-- The page into which entry `i` will write position `n` in layer `l`: its OPEN tail, a fresh page, or a copy of the sealed page
that stands there (R183). -/
def needTail (s : State) (x : Composition) (d : ModelDescriptor) (i l n : Nat) : Option Nat × State :=
  let e := pageEntry (manifestOf s i) l (n / 64)
  if e.valid && (pageOf s e.page).state == .open_ && (pageOf s e.page).epochOrOwner == i then (none, s)
  else if e.valid then copyOnWrite s x d i l (n / 64) (n % 64) (some e.page)
  else copyOnWrite s x d i l (n / 64) 0 none

/-- `needTail` for pages `p` of the positions `n` to `n + count - 1` in every layer; stops at the first that waits. -/
def needTails (x : Composition) (d : ModelDescriptor) (i : Nat) : List (Nat × Nat) → State → Option Nat × State
  | [], s => (none, s)
  | (l, n) :: rest, s =>
    let r := needTail s x d i l n
    match r.1 with
    | some st => (some st, r.2)
    | none => needTails x d i rest r.2

/-- The layers and first positions of the pages that hold positions `n` to `m`. -/
def pagesBetween (d : ModelDescriptor) (n m : Nat) : List (Nat × Nat) :=
  ((List.range (m / 64 - n / 64 + 1)).map (fun j => (List.range d.layers).map (fun l => (l, max n (64 * (n / 64 + j)))))).flatten

/-! ## Truncation (R184) -/

/-- The pages of layer `l` above page `p` that entry `i` references, the highest first: those of its positions, and a tail that a step
allocated for positions beyond them (R172, R184). -/
def pagesAbove (s : State) (i l p : Nat) : List Nat :=
  (((manifestOf s i).pages.filter (fun e => e.1 / 16384 == l && decide (p < e.1 % 16384))).map (fun e => e.1 % 16384)).reverse

/-- The page work of a TRUNCATE of entry `i` to position `t` in layer `l`. It waits for nothing: where no slot, or no lease slot, is free,
an OPEN tail is cut in place and a SEALED page is kept (R184; log entry 80). -/
def truncateLayer (s : State) (x : Composition) (d : ModelDescriptor) (i t l : Nat) : State :=
  let pt := t / 64
  let k := t % 64
  let s1 := (pagesAbove s i l pt).foldl (fun u p => clearPage u i l p) s
  if k = 0 then clearPage s1 i l pt
  else
    let e := pageEntry (manifestOf s1 i) l pt
    if !e.valid then s1
    else
      let st := placeOf x (entryOf s1 i).requestId l pt
      if !(freeSlots s1 x st).isEmpty && canLease s1 then (copyOnWrite s1 x d i l pt k (some e.page)).2
      else if (pageOf s1 e.page).state == .open_ then setPage s1 e.page { pageOf s1 e.page with fill := k }
      else s1

/-- The page work of a TRUNCATE in every layer. -/
def truncatePages (s : State) (i t : Nat) : State :=
  match compOf s (entryOf s i).composition.val with
  | some x =>
    match x.fixed with
    | some f => (List.range f.2.2.layers).foldl (fun u l => truncateLayer u x f.2.2 i t l) s
    | none => s
  | none => s

/-! ## Token history (R356) -/

/-- The token history of entry `i` cut to `n` positions and continued with further ones. -/
def writeHistory (s : State) (i n : Nat) (es : List LogEntry) : State :=
  setManifest s i { manifestOf s i with history := (manifestOf s i).history.take n ++ es }

/-- The units that a history of `n` positions needs and does not have: the directory, and one unit for each 2,048 entries. -/
def historyUnit (s : State) (i k : Nat) : Bool × State :=
  if tabGet 0 (manifestOf s i).historyUnits k != 0 then (true, s)
  else
    let r := allocUnit s
    match r.1 with
    | some u => (true, setManifest r.2 i { manifestOf r.2 i with historyUnits := tabPut 0 (manifestOf r.2 i).historyUnits k u })
    | none => (false, r.2)

/-- The units of a history of `n` positions, as far as the pool has them. -/
def needHistory (s : State) (i n : Nat) : Bool × State :=
  let d := if (manifestOf s i).historyDir != 0 then (true, s)
    else
      let r := allocUnit s
      match r.1 with
      | some u => (true, setManifest r.2 i { manifestOf r.2 i with historyDir := u })
      | none => (false, r.2)
  (List.range (ceilDiv n 2048)).foldl (fun a k =>
    if a.1 then historyUnit a.2 i k else a) d

/-! ## Reclamation (R174, R181, R191) -/

/-- A retired page becomes FREE: its write-protect bits are cleared and its slot returns to the composition (R174). -/
def reclaimPage (s : State) (g : Nat) : State :=
  let s1 := setInside (protect s (granuleAddr g) (granulesOf s g) false) g (granulesOf s g) .free
  let s2 := wake (setPage s1 g {}) (g / 2 ^ 24)
  match compOfGranule s g with
  | some c => releaseModel s2 c
  | none => s2

/-- The reclaim condition of a page (R181, R191). -/
def canReclaim (s : State) (g : Nat) : Bool :=
  (pageOf s g).state == .retired && leasesPast s (pageOf s g).epochOrOwner && !(tabGet false s.stk.outOfUse g) && lmcRuns s

end Sys2Proof.Machine
end

