-- ==== Sys2Proof/Machine/Objects.lean ====
section
/-! DEFINITION. The Object Descriptor Table and object commands: resolution, the tiers' bytes, protection and encryption, copies,
and the states of an object (05_memory_tiers.md). -/

namespace Sys2Proof.Machine

open Sys2Proof

/-! ## Entries and handles (R139, R140, R142) -/

/-- ODT entry `i`. -/
def odtOf (s : State) (i : Nat) : OdtEntry := tabGet {} s.stk.odt i

/-- ODT entry `i` set. -/
def setOdt (s : State) (i : Nat) (e : OdtEntry) : State :=
  { s with stk := { s.stk with odt := tabPut {} s.stk.odt i e } }

/-- The ODT index and the generation that a handle names. -/
def handleIndex (h : Nat) : Nat := h % 2 ^ 20
def handleGen (h : Nat) : Nat := h / 2 ^ 20 % 4096

/-- The handle of ODT entry `i` as it stands. -/
def handleOf (s : State) (i : Nat) : Nat := i + (odtOf s i).generation * 2 ^ 20

/-- A handle is current (R139). -/
def isCurrent (s : State) (h : Nat) : Bool :=
  let e := odtOf s (handleIndex h)
  handleIndex h != 0 && h < 2 ^ 32 && e.generation == handleGen h && e.state != .free && e.state != .retiring

/-- How a resolution ends (R142). -/
inductive Resolution where
  | ok (index : Nat)
  | stale
  | notReady
  | denied
deriving DecidableEq, Repr

/-- PROT.ENCRYPTED (R140). -/
def isEncrypted (e : OdtEntry) : Bool := e.prot.testBit 4

/-- The XTS key of a slot; `none` while the slot is empty. -/
def xtsKey (s : State) (slot : Nat) : Option (BitVec 512) :=
  tabGet none s.stk.xts slot

/-- Resolves a handle for work of a tenant; `bit` is the PROT bit of the engine: 0 fabric, 1 stack, 2 transfer (R140, R142). An
ENCRYPTED object whose key slot is empty is DENIED (R154). -/
def resolve (s : State) (h tenant bit : Nat) : Resolution :=
  let e := odtOf s (handleIndex h)
  if !isCurrent s h then .stale
  else if e.state == .publishing then .notReady
  else if e.tenant != 0 && e.tenant != tenant then .denied
  else if !e.prot.testBit bit then .denied
  else if isEncrypted e && (xtsKey s e.keySlot).isNone then .denied
  else .ok (handleIndex h)

/-! ## Bytes in the tiers (R130, R141, R153) -/

/-- `n` bytes from a location of a tier. -/
def tierBytes (s : State) (tier a n : Nat) : List Byte :=
  if tier = 3 then tabGetRun 0 s.stk.umber (a * 16384) n
  else if tier = 4 then tabGetRun 0 s.stk.hostObj a n
  else memBytes s a n

/-- Bytes written at a location of a tier; a write of an object to host memory has Relaxed Ordering (R597). -/
def tierWrite (s : State) (tier a : Nat) (bs : List Byte) : State :=
  if tier = 3 then { s with stk := { s.stk with umber := tabPutRun 0 s.stk.umber (a * 16384) bs } }
  else if tier = 4 then
    emit { s with stk := { s.stk with hostObj := tabPutRun 0 s.stk.hostObj a bs } } (.hostWrite (pasidOf s 0) a true bs)
  else memWrite s a bs

/-- A read of an object's bytes in host memory leaves under the PASID of tenant 0 (R156, R595). -/
def askHost (s : State) (e : OdtEntry) : State :=
  if e.tier = 4 then emit s (.hostRead (pasidOf s 0) e.location e.size) else s

/-- An uncorrectable error at a byte of an object that the part reads: recorded by the controller of its tier (R465, R476). -/
def readFailed (s : State) (e : OdtEntry) (offset : Nat) : State :=
  if e.tier = 2 then slateError s (e.location + offset)
  else if e.tier = 3 then flashError s (e.location + offset / 16384)
  else s

/-- A list in data units of 4 KiB, the last padded with zeros. -/
def dataUnits (bs : List Byte) : List (List Byte) :=
  (List.range (ceilDiv bs.length 4096)).map (fun u =>
    let x := (bs.drop (u * 4096)).take 4096
    x ++ zeros (4096 - x.length))

/-- Ciphertext of an object's bytes: the tweak of data unit u is the index plus u × 2^32 (R153). -/
def encryptObject (key : BitVec 512) (i : Nat) (bs : List Byte) : List Byte :=
  ((dataUnits bs).zipIdx.map (fun x => Config.xtsEncrypt key (i + x.2 * 2 ^ 32) x.1)).flatten

/-- Plaintext of an object's ciphertext (R153). -/
def decryptObject (key : BitVec 512) (i : Nat) (bs : List Byte) : List Byte :=
  ((dataUnits bs).zipIdx.map (fun x => Config.xtsDecrypt key (i + x.2 * 2 ^ 32) x.1)).flatten

/-- Bytes of an object on its tier: whole granules below Ochre where it is encrypted. -/
def storedSize (e : OdtEntry) (tier : Nat) : Nat :=
  if isEncrypted e && tier != 1 then ceilDiv e.size 4096 * 4096 else e.size

/-- The plaintext of object `i`; `none` where it is ENCRYPTED and its key slot is empty (R154). -/
def objectBytes (s : State) (i : Nat) : Option (List Byte) :=
  let e := odtOf s i
  if isEncrypted e then
    (xtsKey s e.keySlot).map (fun k =>
      if e.tier = 1 then tierBytes s 1 e.location e.size
      else (decryptObject k i (tierBytes s e.tier e.location (storedSize e e.tier))).take e.size)
  else some (tierBytes s e.tier e.location e.size)

/-- Writes the plaintext of object `i` at a location of a tier; `none` where its key slot is empty. -/
def putObjectBytes (s : State) (i : Nat) (e : OdtEntry) (tier a : Nat) (bs : List Byte) : Option State :=
  if isEncrypted e && tier != 1 then (xtsKey s e.keySlot).map (fun k => tierWrite s tier a (encryptObject k i bs))
  else some (tierWrite s tier a bs)

/-- Granules of a number of bytes. -/
def granuleCount (n : Nat) : Nat := ceilDiv n 4096

/-- Sets or clears the write-protect bits of an Ochre range of `n` bytes (R137). -/
def protectRange (s : State) (a n : Nat) (on : Bool) : State := protect s a (granuleCount n) on

/-! ## Completions (R151, R159) -/

/-- Slots of the object queues. -/
def objSqSlots (s : State) : Nat := 2 ^ getF s F.stkObjQsize.sqLog2
def objCqSlots (s : State) : Nat := 2 ^ getF s F.stkObjQsize.cqLog2

/-- Slots of the object completion queue that the part may still write (R249, R603). -/
def objRoom (s : State) : Nat :=
  if hostOff s then 0
  else objCqSlots s - 1 - (s.stk.objCqTail + objCqSlots s - getF s F.stkObjCqHead.head) % objCqSlots s

/-- The 32 bytes of an object completion record (R151). -/
def objCompletionBytes (r : ObjCompletion) (seq : Nat) (phase : Bool) : List Byte :=
  leBytes 4 r.handle ++ leBytes 1 r.status ++ leBytes 3 0 ++ leBytes 8 r.tag ++ leBytes 8 0 ++ leBytes 4 seq ++ leBytes 3 0 ++
    leBytes 1 phase.toNat

/-- Writes one object completion in the next slot and signals (R151, R159). -/
def writeObjCompletion (s : State) (r : ObjCompletion) : State :=
  let last := s.stk.objCqTail + 1 ≥ objCqSlots s
  let s1 := { s with stk := { s.stk with
      objCqTail := if last then 0 else s.stk.objCqTail + 1
      objPhase := if last then !s.stk.objPhase else s.stk.objPhase
      objSeq := (s.stk.objSeq + 1) % 2 ^ 32 } }
  let s2 := postRecord s1 (pasidOf s 0) (getF s F.stkObjCqBase.base * 4096 + 32 * s.stk.objCqTail)
    (objCompletionBytes r s.stk.objSeq s.stk.objPhase)
  notify s2 F.stkObjNotify.enable F.stkObjNotify.vector

/-- Writes the waiting object completions as far as there is room. -/
def flushObj : Nat → State → State
  | 0, s => s
  | fuel + 1, s =>
    match s.stk.objOut with
    | [] => s
    | r :: rest => if objRoom s = 0 then s else flushObj fuel (writeObjCompletion { s with stk := { s.stk with objOut := rest } } r)

/-- Completes an object command: 0 OK, 1 STALE, 2 BAD_STATE, 3 PINNED, 4 NO_ENTRY, 5 BAD_LOCATION, 6 COPY_FAILED, 7 NO_KEY,
8 NOT_CONFIGURED, 9 TIER_FULL, 10 ADOPT_MISMATCH, 11 BAD_COMMAND (R151). -/
def completeObj (s : State) (handle status tag : Nat) : State :=
  let s1 := { s with stk := { s.stk with objOut := s.stk.objOut ++ [{ handle := handle, status := status, tag := tag }] } }
  flushObj s1.stk.objOut.length s1

/-! ## Locations (R141, R148, R473) -/

/-- An object of `n` bytes, that of entry `own` where it moves, may lie at `a` of a tier. -/
def locationOk (s : State) (own : Option Nat) (tier a n : Nat) : Bool :=
  1 ≤ n && n ≤ 2 ^ 40 &&
    (match tier with
    | 1 => a % 4096 == 0 && inInterleaved s a (granuleCount n * 4096) && !writeRefused s a n
    | 2 => a % 4096 == 0 && slateBase ≤ a && decide (a + granuleCount n * 4096 ≤ slateObjectEnd s)
    | 3 => decide (a + unitsOf n ≤ logicalUnits s) && !meetsObject s own a (unitsOf n)
    | _ => a % 4096 == 0 && decide (a + granuleCount n * 4096 ≤ 2 ^ 64))

/-- The flash translation has space for `n` more bytes at unit `a` (R473). -/
def umberHasSpace (s : State) (a n : Nat) : Bool :=
  decide (s.fls.map.length + unitsOf n - tabCount (s.fls.map.filter (fun e => a ≤ e.1 && e.1 < a + unitsOf n)) (fun _ => true)
    ≤ mapLimit s)

/-- The destination checks shared by ALLOCATE, PUBLISH, MOVE and ADOPT, in the order of the statuses (log entry 14). -/
def destStatus (s : State) (own : Option Nat) (tier a n prot keySlot : Nat) : Option Nat :=
  if !locationOk s own tier a n then some 5
  else if prot.testBit 4 && (xtsKey s keySlot).isNone then some 7
  else if tier == 3 && !umberHasSpace s a n then some 9
  else none

/-- A FREE entry of the ODT, which the part chooses; index 0 is never allocated. -/
def chooseEntry (s : State) : Option Nat × State :=
  chooseFree s 1 (2 ^ 20 - 1) (fun i => (odtOf s i).state == .free)

/-- Entry `i` returns to FREE with its generation as it stands. -/
def freeOdt (s : State) (i : Nat) (generation : Nat) : State := setOdt s i { generation := generation % 4096 }

/-! ## States of an object (R143) -/

/-- An entry becomes PUBLISHED: write-protect bits in Ochre first, STATE last (R137, R144). -/
def publishEntry (s : State) (i : Nat) (e : OdtEntry) (bs : List Byte) : State :=
  let s1 := if e.tier = 1 then protectRange s e.location e.size true else s
  setOdt s1 i { e with state := .published, crc := (crc64 bs).toNat, newLocation := 0, newTier := 0, source := 0, lease := none }

/-- Ends the lease of a copy. -/
def endCopyLease (s : State) (e : OdtEntry) : State :=
  match e.lease with
  | some k => endLease s k
  | none => s

/-- A command on this handle is under way (R152). -/
def handleBusy (s : State) (h : Nat) : Bool :=
  s.stk.freeing.any (fun f => f.2.handle == h) || s.stk.odt.any (fun e =>
    (e.2.state == .publishing && (e.2.source == h || handleOf s e.1 == h)) || (e.2.state == .moving && handleOf s e.1 == h))

/-- The command reads or writes Umber while its map is being rebuilt (R486). -/
def opUsesUmber (s : State) (op : Nat) (c : ObjCommand) : Bool :=
  (op = 9 || ((op = 2 || op = 4) && (c.tier == 3 || (odtOf s (handleIndex c.handle)).tier == 3))) && s.fls.state == .scanning

/-- The command waits: for an earlier command on its handle, for the rebuild of Umber, or for a lease slot (R152, R180, R486). -/
def objMustWait (s : State) (op : Nat) (c : ObjCommand) : Bool :=
  (op != 1 && (handleBusy s c.handle || s.stk.objWaiting.any (fun w => w.1 != 1 && w.2.handle == c.handle))) ||
    opUsesUmber s op c || ((op = 2 || op = 3 || op = 4 || op = 9) && !canLease s)

/-- Begins the copy of a PUBLISH into a free entry (R143, R145). -/
def beginPublish (s : State) (c : ObjCommand) (src : OdtEntry) : State :=
  let r := chooseEntry s
  match r.1 with
  | none => completeObj r.2 c.handle 4 c.tag
  | some i =>
    match destStatus r.2 none c.tier c.location src.size c.prot c.keySlot with
    | some st => completeObj r.2 c.handle st c.tag
    | none =>
      let k := engineLease r.2
      let s1 := match k with
        | some j => takeLease r.2 j
        | none => r.2
      let s2 := setOdt s1 i
        { generation := (odtOf s1 i).generation, state := .publishing, tier := c.tier, tenant := c.tenant.val, kind := c.kind % 256,
          prot := c.prot % 32, keySlot := c.keySlot % 1024, location := c.location, size := src.size, source := c.handle,
          tag := c.tag, lease := k }
      if src.state == .writable then protectRange s2 src.location src.size true else s2

/-- Begins the copy of a MOVE (R143). -/
def beginMove (s : State) (c : ObjCommand) (e : OdtEntry) : State :=
  match destStatus s (some (handleIndex c.handle)) c.tier c.location e.size e.prot e.keySlot with
  | some st => completeObj s c.handle st c.tag
  | none =>
    let k := engineLease s
    let s1 := match k with
      | some j => takeLease s j
      | none => s
    setOdt s1 (handleIndex c.handle)
      { e with state := .moving, newLocation := c.location, newTier := c.tier, tag := c.tag, lease := k }

/-- ALLOCATE: an Ochre object becomes WRITABLE. -/
def doAllocate (s : State) (c : ObjCommand) : State :=
  let r := chooseEntry s
  match r.1 with
  | none => completeObj s 0 4 c.tag
  | some i =>
    match destStatus r.2 none 1 c.location c.size c.prot c.keySlot with
    | some st => completeObj r.2 0 st c.tag
    | none =>
      let s1 := setOdt r.2 i
        { generation := (odtOf r.2 i).generation, state := .writable, tier := 1, tenant := c.tenant.val, kind := c.kind % 256,
          prot := c.prot % 32, keySlot := c.keySlot % 1024, location := c.location, size := c.size }
      completeObj s1 (handleOf s1 i) 0 c.tag

/-- PUBLISH of a WRITABLE or PUBLISHED source. -/
def doPublish (s : State) (c : ObjCommand) : State :=
  let e := odtOf s (handleIndex c.handle)
  if !isCurrent s c.handle then completeObj s c.handle 1 c.tag
  else if e.state == .writable || e.state == .published then beginPublish s c e
  else completeObj s c.handle 2 c.tag

/-- SEAL of a WRITABLE object. -/
def doSeal (s : State) (c : ObjCommand) : State :=
  let i := handleIndex c.handle
  let e := odtOf s i
  if !isCurrent s c.handle then completeObj s c.handle 1 c.tag
  else if e.state == .writable then completeObj (publishEntry s i e (memBytes s e.location e.size)) c.handle 0 c.tag
  else completeObj s c.handle 2 c.tag

/-- MOVE of a PUBLISHED object without pins. -/
def doMove (s : State) (c : ObjCommand) : State :=
  let e := odtOf s (handleIndex c.handle)
  if !isCurrent s c.handle then completeObj s c.handle 1 c.tag
  else if e.state != .published then completeObj s c.handle 2 c.tag
  else if e.pinCount != 0 then completeObj s c.handle 3 c.tag
  else beginMove s c e

/-- UNPUBLISH of a PUBLISHED object without pins: RETIRING, with the next generation (R143, R147). -/
def retireObject (s : State) (i : Nat) : State :=
  setOdt s i { odtOf s i with
    state := .retiring, generation := ((odtOf s i).generation + 1) % 4096, retireEpoch := s.stk.epoch }

/-- UNPUBLISH. -/
def doUnpublish (s : State) (c : ObjCommand) : State :=
  let e := odtOf s (handleIndex c.handle)
  if !isCurrent s c.handle then completeObj s c.handle 1 c.tag
  else if e.state != .published then completeObj s c.handle 2 c.tag
  else if e.pinCount != 0 then completeObj s c.handle 3 c.tag
  else completeObj (retireObject s (handleIndex c.handle)) c.handle 0 c.tag

/-- FREE of a WRITABLE object. Its completion, which returns the space to host software, waits for the leases that could read it (R143;
log entry 81). -/
def doFree (s : State) (c : ObjCommand) : State :=
  let e := odtOf s (handleIndex c.handle)
  if !isCurrent s c.handle then completeObj s c.handle 1 c.tag
  else if e.state == .writable then
    let s1 := freeOdt s (handleIndex c.handle) (e.generation + 1)
    if leasesPast s1 s1.stk.epoch then completeObj s1 c.handle 0 c.tag
    else { s1 with stk := { s1.stk with
        freeing := s1.stk.freeing ++ [(s1.stk.epoch, { handle := c.handle, status := 0, tag := c.tag })] } }
  else completeObj s c.handle 2 c.tag

/-- PIN of a PUBLISHED object: PIN_COUNT stays at or below 65,535. -/
def doPin (s : State) (c : ObjCommand) : State :=
  let i := handleIndex c.handle
  let e := odtOf s i
  if !isCurrent s c.handle then completeObj s c.handle 1 c.tag
  else if e.state != .published then completeObj s c.handle 2 c.tag
  else if e.pinCount < 65535 then completeObj (setOdt s i { e with pinCount := e.pinCount + 1 }) c.handle 0 c.tag
  else completeObj s c.handle 3 c.tag

/-- UNPIN of a PUBLISHED object: PIN_COUNT stays at or above 0. -/
def doUnpin (s : State) (c : ObjCommand) : State :=
  let i := handleIndex c.handle
  let e := odtOf s i
  if !isCurrent s c.handle then completeObj s c.handle 1 c.tag
  else if e.state != .published then completeObj s c.handle 2 c.tag
  else if 0 < e.pinCount then completeObj (setOdt s i { e with pinCount := e.pinCount - 1 }) c.handle 0 c.tag
  else completeObj s c.handle 3 c.tag

/-- The map names, for every unit of a range, a page whose spare record holds the handle (R149). -/
def adoptMatches (s : State) (handle first n : Nat) : Bool :=
  (List.range n).all (fun u => unitHandle s (first + u) == some handle)

/-- ADOPT of an Umber object after a cold reset (R149): the entry that the handle names must be FREE. Of a handle that names index 0 the
manual gives no status; the part answers BAD_STATE (log entry 82). -/
def doAdopt (s : State) (c : ObjCommand) : State :=
  let i := handleIndex c.handle
  if i = 0 ∨ 2 ^ 32 ≤ c.handle ∨ (odtOf s i).state ≠ .free then completeObj s c.handle 2 c.tag
  else if c.size = 0 ∨ 2 ^ 40 < c.size ∨ logicalUnits s < c.location + unitsOf c.size then completeObj s c.handle 5 c.tag
  else if c.prot.testBit 4 && (xtsKey s c.keySlot).isNone then completeObj s c.handle 7 c.tag
  else if !adoptMatches s c.handle c.location (unitsOf c.size) then completeObj s c.handle 10 c.tag
  else
    let e : OdtEntry :=
      { generation := handleGen c.handle, state := .published, tier := 3, tenant := c.tenant.val, kind := c.kind % 256,
        prot := c.prot % 32, keySlot := c.keySlot % 1024, location := c.location, size := c.size }
    let s1 := setOdt s i e
    completeObj (publishEntry s1 i e ((objectBytes s1 i).getD [])) c.handle 0 c.tag

/-- One object command, by its opcode (R150): it runs, or waits behind an earlier command on its handle (R152). -/
def runObj (s : State) (op : Nat) (c : ObjCommand) : State :=
  if objMustWait s op c then { s with stk := { s.stk with objWaiting := s.stk.objWaiting ++ [(op, c)] } }
  else
    match op with
    | 1 => doAllocate s c
    | 2 => doPublish s c
    | 3 => doSeal s c
    | 4 => doMove s c
    | 5 => doUnpublish s c
    | 6 => doFree s c
    | 7 => doPin s c
    | 8 => doUnpin s c
    | _ => doAdopt s c

/-- The waiting commands try again, in order. -/
def retryObj (s : State) : State :=
  s.stk.objWaiting.foldl (fun t w => runObj t w.1 w.2) { s with stk := { s.stk with objWaiting := [] } }

/-- TIER is one that the opcode allows (R150). -/
def tierAllowed (op tier : Nat) : Bool :=
  match op with
  | 1 => tier == 1
  | 2 | 4 => 1 ≤ tier && tier ≤ 4
  | 9 => tier == 3
  | _ => true

/-- The part takes the command at the head of the object queue, which it reads under the PASID of tenant 0 (R159, R595). A command whose
OPCODE the table does not list is BAD_COMMAND, whatever row it came under (R150). -/
def takeObj (s : State) (op : Nat) (c : ObjCommand) : State :=
  let head := getF s F.stkObjSqHead.head
  let s0 := emit s (.hostRead (pasidOf s 0) (getF s F.stkObjSqBase.base * 4096 + 64 * head) 64)
  let s1 := putF s0 F.stkObjSqHead.head (if head + 1 ≥ objSqSlots s then 0 else head + 1)
  if c.opcode = 0 || 9 < c.opcode || !tierAllowed op c.tier then completeObj s1 c.handle 11 c.tag
  else if !isSet s1 F.stkObjCtl.stkLock then completeObj s1 c.handle 8 c.tag
  else runObj s1 op c

/-- The part can read the command: it runs, memory requests may go out, and the tail names a further command (R581, R603, R635). -/
def canReadObj (s : State) : Bool :=
  runs s && !hostOff s && getF s F.stkObjSqHead.head != getF s F.stkObjSqTail.tail

/-- ALLOCATE (opcode 1). -/
def execAllocate (c : ObjCommand) (s : State) : Host.Outcome State Fault Refusal := act s (canReadObj s) (fun s => takeObj s 1 c)

/-- PUBLISH (opcode 2). -/
def execPublish (c : ObjCommand) (s : State) : Host.Outcome State Fault Refusal := act s (canReadObj s) (fun s => takeObj s 2 c)

/-- SEAL (opcode 3). -/
def execSeal (c : ObjCommand) (s : State) : Host.Outcome State Fault Refusal := act s (canReadObj s) (fun s => takeObj s 3 c)

/-- MOVE (opcode 4). -/
def execMove (c : ObjCommand) (s : State) : Host.Outcome State Fault Refusal := act s (canReadObj s) (fun s => takeObj s 4 c)

/-- UNPUBLISH (opcode 5). -/
def execUnpublish (c : ObjCommand) (s : State) : Host.Outcome State Fault Refusal := act s (canReadObj s) (fun s => takeObj s 5 c)

/-- FREE (opcode 6). -/
def execFree (c : ObjCommand) (s : State) : Host.Outcome State Fault Refusal := act s (canReadObj s) (fun s => takeObj s 6 c)

/-- PIN (opcode 7). -/
def execPin (c : ObjCommand) (s : State) : Host.Outcome State Fault Refusal := act s (canReadObj s) (fun s => takeObj s 7 c)

/-- UNPIN (opcode 8). -/
def execUnpin (c : ObjCommand) (s : State) : Host.Outcome State Fault Refusal := act s (canReadObj s) (fun s => takeObj s 8 c)

/-- ADOPT (opcode 9). -/
def execAdopt (c : ObjCommand) (s : State) : Host.Outcome State Fault Refusal := act s (canReadObj s) (fun s => takeObj s 9 c)

/-! ## The end of a copy (R143 to R146) -/

/-- A PUBLISH ends without a copy: its entry is FREE with the next generation, and the protection of its source is lifted. -/
def failPublish (s : State) (i : Nat) : State :=
  let e := odtOf s i
  let src := odtOf s (handleIndex e.source)
  let s1 := if src.state == .writable then protectRange s src.location src.size false else s
  endCopyLease (freeOdt s1 i (e.generation + 1)) e

/-- Space for the copy in the flash, where the tier is Umber: `none` where the copy waits, `false` where it fails. -/
def copySpace (s : State) (f : NandReport) (tier handle a n : Nat) : Option (Bool × State) :=
  if tier = 3 then flashPublish s f handle a (unitsOf n) else some (true, s)

/-- The copy of a PUBLISH is written, read back and published; `none` where Umber has no block or credit for it yet. -/
def endPublish (s : State) (f : NandReport) (i : Nat) : Option State :=
  let e := odtOf s i
  let h := e.source
  let j := handleIndex h
  match objectBytes s j with
  | none => some (completeObj (failPublish s i) h 6 e.tag)
  | some bs =>
    match copySpace (askHost s (odtOf s j)) f e.tier (handleOf s i) e.location e.size with
    | none => none
    | some (false, s0) => some (completeObj (failPublish s0 i) h 6 e.tag)
    | some (true, s0) =>
      match putObjectBytes s0 i e e.tier e.location bs with
      | none => some (completeObj (failPublish s0 i) h 6 e.tag)
      | some s1 =>
        let src := odtOf s1 j
        let s2 := if src.state == .writable then protectRange s1 src.location src.size false else s1
        some (completeObj (publishEntry (endCopyLease s2 e) i e bs) (handleOf s i) 0 e.tag)

/-- The copy of a MOVE fails: the object stays where it is (R143). -/
def failMove (s : State) (i : Nat) : State :=
  let e := odtOf s i
  completeObj (endCopyLease (setOdt s i { e with state := .published, newLocation := 0, newTier := 0, lease := none }) e)
    (handleOf s i) 6 e.tag

/-- The units of an old copy in Umber that the object does not hold again: what lies before and after its present range. -/
def unitsLeft (old new : OdtEntry) : List (Nat × Nat) :=
  let a := old.location
  let b := a + unitsOf old.size
  let c := new.location
  let d := c + unitsOf new.size
  if new.tier = 3 && (new.state == .published || new.state == .moving) && overlaps a (b - a) c (d - c) then
    [(a, c - a), (d, b - d)]
  else [(a, b - a)]

/-- An old copy of object `i` is released once the leases that could read it have ended: its protection, or a tombstone (R143, R477). -/
def releaseCopy (s : State) (f : NandReport) (e : OdtEntry) (handle : Nat) : State :=
  if e.tier = 1 then protectRange s e.location e.size false
  else if e.tier = 3 then
    (unitsLeft e (if isCurrent s handle then odtOf s (handleIndex handle) else {})).foldl (fun t r => tombstone t f handle r.1 r.2) s
  else s

/-- The copy of a MOVE is written and read back: LOCATION is switched and the old copy waits for its leases. -/
def endMove (s : State) (f : NandReport) (i : Nat) : Option State :=
  let e := odtOf s i
  let raw := isEncrypted e && e.tier != 1 && e.newTier != 1
  let bytes := if raw then some (tierBytes s e.tier e.location (storedSize e e.tier)) else objectBytes s i
  match bytes with
  | none => some (failMove s i)
  | some bs =>
    match copySpace (askHost s e) f e.newTier (handleOf s i) e.newLocation e.size with
    | none => none
    | some (false, s0) => some (failMove s0 i)
    | some (true, s0) =>
      match (if raw then some (tierWrite s0 e.newTier e.newLocation bs) else putObjectBytes s0 i e e.newTier e.newLocation bs) with
      | none => some (failMove s0 i)
      | some s1 =>
        let s2 := if e.newTier = 1 then protectRange s1 e.newLocation e.size true else s1
        let s3 := setOdt s2 i
          { e with state := .published, tier := e.newTier, location := e.newLocation, newLocation := 0, newTier := 0, lease := none }
        let s4 := endCopyLease { s3 with stk := { s3.stk with
            oldCopies := s3.stk.oldCopies ++ [(handleOf s i, { e with retireEpoch := s.stk.epoch })] } } e
        some (completeObj s4 (handleOf s i) 0 e.tag)

/-- Releases the old copies whose leases have ended. -/
def releaseCopies (s : State) (f : NandReport) : State :=
  let gone := s.stk.oldCopies.filter (fun c => leasesPast s c.2.retireEpoch)
  gone.foldl (fun t c => releaseCopy t f c.2 c.1)
    { s with stk := { s.stk with oldCopies := s.stk.oldCopies.filter (fun c => !leasesPast s c.2.retireEpoch) } }

/-- Completes the FREEs whose leases have ended (R143). -/
def releaseFreed (s : State) : State :=
  let gone := s.stk.freeing.filter (fun c => leasesPast s c.1)
  let s1 := { s with stk := { s.stk with freeing := s.stk.freeing.filter (fun c => !leasesPast s c.1) } }
  gone.foldl (fun t c => completeObj t c.2.handle c.2.status c.2.tag) s1

/-- What waits for leases to end goes on: old copies and FREEs, and then the commands behind them. -/
def releaseLeased (s : State) (f : NandReport) : State := retryObj (releaseFreed (releaseCopies s f))

/-- The object whose bytes the copy under way on entry `i` reads. -/
def copySource (s : State) (i : Nat) : OdtEntry :=
  if (odtOf s i).state == .publishing then odtOf s (handleIndex (odtOf s i).source) else odtOf s i

/-- The copy of entry `i` ends without success: COPY_FAILED. -/
def failCopy (s : State) (i : Nat) : State :=
  let e := odtOf s i
  if e.state == .publishing then completeObj (failPublish s i) e.source 6 e.tag else failMove s i

/-- The end of the copy of the object that `handle` names: a PUBLISH's own entry, or the object that moves. -/
def endCopy (s : State) (handle : Nat) (source : ReadEnd) (copied : Bool) (f : NandReport) : State :=
  let i := handleIndex handle
  let st := (odtOf s i).state
  if !isCurrent s handle || (st != .publishing && st != .moving) then s
  else
    match source with
    | .errorAt o => retryObj (failCopy (readFailed s (copySource s i) o) i)
    | .whole =>
      if !copied then retryObj (failCopy s i)
      else ((if st == .publishing then endPublish s f i else endMove s f i).map retryObj).getD s

/-- The copy of an object reaches host memory. -/
def copyUsesHost (s : State) (handle : Nat) : Bool :=
  let e := odtOf s (handleIndex handle)
  e.tier == 4 || e.newTier == 4 || (odtOf s (handleIndex e.source)).tier == 4

/-- COPY_COMPLETE: the copy of a PUBLISH or MOVE has been read back with equal CRC, or has failed. -/
def execCopyComplete (handle : Nat) (copied : Bool) (s : State) (source : ReadEnd := .whole) (f : NandReport := {}) :
    Host.Outcome State Fault Refusal :=
  act s (runs s && (!copyUsesHost s handle || !hostOff s)) (fun s => endCopy s handle source copied f)

/-- A RETIRING entry becomes FREE: its write-protect bits are cleared, or its tombstone is written (R143, R147, R477). -/
def reclaimObject (s : State) (f : NandReport) (i : Nat) : State :=
  let e := odtOf s i
  let h := i + (e.generation + 4095) % 4096 * 2 ^ 20
  freeOdt (releaseCopy s f e h) i e.generation

/-- OBJECT_RECLAIM: every lease taken before the entry retired has ended. -/
def execObjectReclaim (index : Nat) (s : State) (f : NandReport := {}) : Host.Outcome State Fault Refusal :=
  act s (isReady s && (odtOf s index).state == .retiring && leasesPast s (odtOf s index).retireEpoch && lmcRuns s)
    (fun s => releaseLeased (reclaimObject s f index) f)

/-! ## Objects that the part itself places (R148) -/

/-- A new PUBLISHED object of the part's own in Ochre, Slate or host memory, with its bytes; its handle, where the ODT has a
FREE entry. -/
def createObject (s : State) (tier tenant kind prot location : Nat) (bs : List Byte) : Option Nat × State :=
  let r := chooseEntry s
  match r.1 with
  | none => (none, s)
  | some i =>
    let e : OdtEntry :=
      { generation := (odtOf r.2 i).generation, state := .published, tier := tier, tenant := tenant, kind := kind, prot := prot,
        location := location, size := bs.length }
    let s1 := publishEntry (tierWrite r.2 tier location bs) i e bs
    (some (handleOf s1 i), s1)

/-- Adds or removes a pin of the part's own on an object (R293, R329, R330). -/
def pinObject (s : State) (h : Nat) : State :=
  let e := odtOf s (handleIndex h)
  if isCurrent s h && e.pinCount < 65535 then setOdt s (handleIndex h) { e with pinCount := e.pinCount + 1 } else s
def unpinObject (s : State) (h : Nat) : State :=
  let e := odtOf s (handleIndex h)
  if isCurrent s h then setOdt s (handleIndex h) { e with pinCount := e.pinCount - 1 } else s

/-! ## What the lease epoch and the rebuild let go -/

/-- One increment of the lease epoch (R179), with what it lets the part reclaim. -/
def epochTick (s : State) : State :=
  releaseLeased (reclaimUnits { s with stk := { s.stk with
    epoch := (s.stk.epoch + 1) % 2 ^ 32, epochLmc := s.stk.epochLmc + 1000 } }) {}

/-- REBUILD_COMPLETE: the map is rebuilt, and what waited for it goes on (R486). -/
def execRebuildComplete (s : State) : Host.Outcome State Fault Refusal :=
  act s (isReady s && s.fls.state == .scanning) (fun s => retryObj (rebuildEnd s))

end Sys2Proof.Machine
end

