-- ==== Sys2Proof/Machine/Keys.lean ====
section
/-! DEFINITION. The XTS and GCM key slots: unwrapping of key blobs, LOAD and CLEAR (R154, R161, R384, R386, R560). -/

namespace Sys2Proof.Machine

open Sys2Proof

/-- The bytes of a blob of `n` registers (R161, R308, R386). -/
def blobBytes (s : State) (f : Field) (n : Nat) : List Byte :=
  ((List.range n).map (fun i => leBytes 8 (getF s (f.at i)))).flatten

/-- The blob registers read zero after every LOAD and CLEAR (R560). -/
def clearBlob (s : State) (f : Field) (n : Nat) : State :=
  (List.range n).foldl (fun t i => putF t (f.at i) 0) s

/-- The key of a blob; none without a wrapping key or where the unwrap fails (R560). -/
def unwrapKey (s : State) (blob : List Byte) : Option (List Byte) :=
  match s.plt.wrapKey with
  | some k => Config.unwrap k blob
  | none => none

/-- XTS key slot `k` set. -/
def setXts (s : State) (k : Nat) (v : Option (BitVec 512)) : State :=
  { s with stk := { s.stk with xts := tabPut none s.stk.xts k v } }

/-- LOAD of an XTS key pair: status 0, or 2 with the slot unchanged, as where FEATURES.XTS is clear (R550). -/
def loadXts (s : State) (k : Nat) : State :=
  let s1 := putF s F.stkXtsSlot.slot k
  let s2 := match (if hasFeature s1 1 then unwrapKey s1 (blobBytes s1 F.stkXtsBlob.data 9) else none) with
    | some bs => putF (setXts s1 k (some (BitVec.ofNat 512 (leNat bs)))) F.stkXtsSlot.status 0
    | none => putF s1 F.stkXtsSlot.status 2
  clearBlob s2 F.stkXtsBlob.data 9

/-- XTS_LOAD: CMD 1 written to STK_XTS_SLOT. -/
def execXtsLoad (slot : Fin 1024) (s : State) : Host.Outcome State Fault Refusal :=
  actAwake s (serves s 4) (.xtsLoad slot) (fun s => loadXts s slot.val)

/-- CLEAR of an XTS key slot. -/
def clearXts (s : State) (k : Nat) : State :=
  clearBlob (putF (setXts (putF s F.stkXtsSlot.slot k) k none) F.stkXtsSlot.status 0) F.stkXtsBlob.data 9

/-- XTS_CLEAR: CMD 2 written to STK_XTS_SLOT. -/
def execXtsClear (slot : Fin 1024) (s : State) : Host.Outcome State Fault Refusal :=
  actAwake s (serves s 4) (.xtsClear slot) (fun s => clearXts s slot.val)

/-- GCM key slot `k` set. -/
def setGcm (s : State) (k : Nat) (g : GcmSlot) : State :=
  { s with cod := { s.cod with gcm := tabPut {} s.cod.gcm k g } }

/-- LOAD of a GCM key: the slot is bound to the peer that COD_GCM_PEER names, and its GEN grows by 1 (R385, R386); refused where
FEATURES.GCM is clear (R550). -/
def loadGcm (s : State) (k : Nat) : State :=
  let s1 := putF s F.codGcmCtl.slot k
  let s2 := match (if hasFeature s1 2 then unwrapKey s1 (blobBytes s1 F.codGcmBlob.data 5) else none) with
    | some bs =>
      let gen := ((tabGet {} s1.cod.gcm k).gen + 1) % 2 ^ 24
      let peer := getF s1 F.codGcmPeerLo.addr + 2 ^ 64 * getF s1 F.codGcmPeerHi.addr
      putF (putF (setGcm s1 k { key := some (BitVec.ofNat 256 (leNat bs)), peer := peer, gen := gen }) F.codGcmCtl.gen gen)
        F.codGcmCtl.status 0
    | none => putF s1 F.codGcmCtl.status 2
  clearBlob s2 F.codGcmBlob.data 5

/-- GCM_LOAD: CMD 1 written to COD_GCM_CTL. -/
def execGcmLoad (slot : Fin 256) (s : State) : Host.Outcome State Fault Refusal :=
  actAwake s (serves s 8) (.gcmLoad slot) (fun s => loadGcm s slot.val)

/-- CLEAR of a GCM key slot; its GEN stays. -/
def clearGcm (s : State) (k : Nat) : State :=
  let s1 := putF s F.codGcmCtl.slot k
  clearBlob (putF (setGcm s1 k { gen := (tabGet {} s1.cod.gcm k).gen }) F.codGcmCtl.status 0) F.codGcmBlob.data 5

/-- GCM_CLEAR: CMD 2 written to COD_GCM_CTL. -/
def execGcmClear (slot : Fin 256) (s : State) : Host.Outcome State Fault Refusal :=
  actAwake s (serves s 8) (.gcmClear slot) (fun s => clearGcm s slot.val)

end Sys2Proof.Machine
end

