-- ==== Sys2Proof/Machine/Prefix.lean ====
section
/-! DEFINITION. The prefix index: digests, lookup, collisions, the radix tree, insertion, eviction, and the domain commands
(10_prefix_index.md). -/

namespace Sys2Proof.Machine

open Sys2Proof

/-! ## Tables -/

/-- Way `k`: 4 × bucket + way number. -/
def wayOf (s : State) (k : Nat) : Way := tabGet {} s.pfx.ways k
def setWay (s : State) (k : Nat) (w : Way) : State := { s with pfx := { s.pfx with ways := tabPut {} s.pfx.ways k w } }

/-- Block record `n`. -/
def recOf (s : State) (n : Nat) : BlockRec := tabGet {} s.pfx.records n
def setRec (s : State) (n : Nat) (x : BlockRec) : State :=
  { s with pfx := { s.pfx with records := tabPut {} s.pfx.records n x } }

/-- The ways of the bucket of a digest: its bytes 0 to 2 (R287). -/
def bucketWays (d : Nat) : List Nat := [0, 1, 2, 3].map (fun j => 4 * (d % 2 ^ 24) + j)

/-- The way with VALID, digest `d` and composition `c`. -/
def findWay (s : State) (d c : Nat) : Option Nat :=
  (bucketWays d).find? (fun k => (wayOf s k).valid && (wayOf s k).digest == d && (wayOf s k).comp == c)

/-! ## Domains (R288, R289) -/

/-- The domain key slot that holds domain `d`. -/
def slotOfDomain (s : State) (d : Nat) : Option Nat :=
  if d = 0 then none else (s.pfx.slots.find? (fun e => e.2.domain == d)).map (·.1)

/-- The root record of a domain key slot. -/
def rootRecord (slot : Nat) : Nat := slot + 1

/-- A FLUSH or CLEAR of the slot is under way, during which its domain neither looks up nor inserts (R304). -/
def isFlushing (s : State) (slot : Nat) : Bool :=
  match s.pfx.scan with
  | some (_, .unpin) => false
  | some (k, _) => k == slot
  | none => false

/-- The slot that serves a request of a domain and tenant; none where R288 or a scan keeps it out of the index. -/
def openSlot (s : State) (d tenant : Nat) : Option Nat :=
  match slotOfDomain s d with
  | none => none
  | some k =>
    let x := tabGet {} s.pfx.slots k
    if (x.owner == 0 || x.owner == tenant) && !isFlushing s k then some k else none

/-- A walk of a domain from 1 to 65,535 that R288 skips is counted. -/
def countDenied (s : State) (d tenant : Nat) : State :=
  match slotOfDomain s d with
  | none => if d = 0 then s else satF s F.pfxEvents.denied
  | some k =>
    let x := tabGet {} s.pfx.slots k
    if x.owner == 0 || x.owner == tenant then s else satF s F.pfxEvents.denied

/-! ## Digests (R286, R287) -/

/-- What a walk or an insertion looks for: the composition, the domain with its key, and the model. -/
structure WalkCtx where
  comp : Nat
  domain : Nat
  key : BitVec 256
  model : Nat
  adapter : Nat
deriving DecidableEq, Repr

/-- The digest of a block after its parent's. -/
def blockDigest (x : WalkCtx) (parent : Nat) (tokens : List Nat) : Nat :=
  (Config.sha384 (leBytes 32 x.key.toNat ++ leBytes 16 parent ++ leBytes 16 x.model ++ leBytes 16 x.adapter ++
    (tokens.map (leBytes 4)).flatten)).toNat % 2 ^ 128

/-- The 64 tokens of block `i`. -/
def blockTokens (tokens : List Nat) (i : Nat) : List Nat := (tokens.drop (64 * i)).take 64

/-! ## Removal (R292, R297, R298, R302, R303) -/

/-- What a record holds is let go: its page references, or in a CACHE composition the pin of its object (R292, R293). -/
def dropHolds (s : State) (x : BlockRec) : State :=
  if roleOf s x.comp == .cache then x.pages.foldl unpinObject s else x.pages.foldl removeRef s

/-- The names of record `n` are removed: its way, and its link in the tree. -/
def unname (s : State) (n : Nat) : State :=
  let x := recOf s n
  let s1 := (bucketWays x.digest).foldl (fun t k =>
    if (wayOf t k).valid && (wayOf t k).block == n && !(wayOf t k).collided then setWay t k {} else t) s
  if x.inTree then setRec s1 x.parent { recOf s1 x.parent with children := (recOf s1 x.parent).children.filter (· != n) } else s1

/-- Removes record `n` with every record among its tree children; `fuel` bounds the depth. -/
def removeRecord : Nat → Nat → State → State
  | 0, _, s => s
  | fuel + 1, n, s =>
    let x := recOf s n
    if !x.used || x.root then s
    else
      let s1 := x.children.foldl (fun t m => removeRecord fuel m t) (unname s n)
      setRec (dropHolds s1 x) n {}

/-- Removes a record. -/
def dropRecord (s : State) (n : Nat) : State := removeRecord s.pfx.records.length n s

/-- A record or one of its tree descendants is PINNED; `fuel` bounds the depth. -/
def pinnedBelow (s : State) : Nat → Nat → Bool
  | 0, _ => false
  | fuel + 1, n => (recOf s n).pinned || (recOf s n).children.any (fun m => pinnedBelow s fuel m)

/-- A way that no eviction takes (R303). -/
def wayPinned (s : State) (k : Nat) : Bool :=
  (wayOf s k).pinned || (!(wayOf s k).collided && pinnedBelow s s.pfx.records.length (wayOf s k).block)

/-- The older of two epochs in serial arithmetic comes first. -/
def olderWay (s : State) (a b : Nat) : Nat := if laterThan (wayOf s a).lastUse (wayOf s b).lastUse then b else a

/-- The victim way of R302. -/
def victimWay (s : State) (d : Nat) : Option Nat :=
  let ks := bucketWays d
  match ks.find? (fun k => !(wayOf s k).valid) with
  | some k => some k
  | none =>
    match ks.filter (fun k => !wayPinned s k) with
    | [] => none
    | k :: rest => some (rest.foldl (olderWay s) k)

/-- Takes the entry out of a way: its record is removed unless it is IN_TREE, in which case it keeps its place (R302). -/
def evictWay (s : State) (k : Nat) : State :=
  let w := wayOf s k
  if !w.valid then s
  else if w.collided then setWay s k {}
  else
    let x := recOf s w.block
    if x.inTree then setRec (setWay s k {}) w.block { x with inTable := false } else setWay (dropRecord s w.block) k {}

/-! ## The tree (R296, R297) -/

/-- Links record `n` at the head of a record's tree children. -/
def linkChild (s : State) (parent n : Nat) : State :=
  let s1 := setRec s n { recOf s n with inTree := true, parent := parent }
  setRec s1 parent { recOf s1 parent with children := n :: (recOf s1 parent).children }

/-- Collides way `k`: its record moves into the tree under its parent, or is removed where the parent is gone (R297). -/
def collide (s : State) (k parent : Nat) : State :=
  let w := wayOf s k
  let n := w.block
  let s1 := satF (setWay s k { w with collided := true, block := 0 }) F.pfxEvents.collisions
  let s2 := setRec s1 n { recOf s1 n with inTable := false }
  if (recOf s2 n).inTree then s2
  else if (recOf s2 parent).used then linkChild s2 parent n
  else dropRecord s2 n

/-! ## Lookup (R294, R295, R299) -/

/-- A record passes the first two checks of R295. -/
def recMatches (x : BlockRec) (pd : Nat) (tokens : List Nat) : Bool := x.used && x.parentDigest == pd && x.tokens == tokens

/-- The first tree child of a record that matches a block, in the request's composition and domain. -/
def treeChild (s : State) (x : WalkCtx) (parent pd : Nat) (tokens : List Nat) : Option Nat :=
  (recOf s parent).children.find? (fun n =>
    (recOf s n).comp == x.comp && (recOf s n).domain == x.domain && recMatches (recOf s n) pd tokens)

/-- Where a block is found: its record, and the way that named it. -/
def findBlock (s : State) (x : WalkCtx) (parent pd : Nat) (tokens : List Nat) : Option (Nat × Option Nat) :=
  let w := (findWay s (blockDigest x pd tokens) x.comp).filter (fun k => !(wayOf s k).collided)
  match w with
  | some k =>
    if recMatches (recOf s (wayOf s k).block) pd tokens then some ((wayOf s k).block, some k)
    else (treeChild s x parent pd tokens).map (fun n => (n, none))
  | none => (treeChild s x parent pd tokens).map (fun n => (n, none))

/-- How far a walk came: the records hit, their digests, the last record and digest. -/
structure Walked where
  records : List Nat := []
  digests : List Nat := []
  parent : Nat
  digest : Nat := 0
deriving DecidableEq, Repr

/-- The walk of R294 over `n` blocks from block `i` on. `take` takes what a record offers, or refuses. -/
def walkFrom (x : WalkCtx) (tokens : List Nat) (take : State → Nat → Nat → Option State) :
    Nat → Nat → Walked → State → Walked × State
  | 0, _, w, s => (w, s)
  | n + 1, i, w, s =>
    let ts := blockTokens tokens i
    let d := blockDigest x w.digest ts
    match findBlock s x w.parent w.digest ts with
    | none =>
      match (findWay s d x.comp).filter (fun k => !(wayOf s k).collided) with
      | some k => if (recOf s (wayOf s k).block).parentDigest == w.digest then (w, collide s k w.parent) else (w, s)
      | none => (w, s)
    | some (r, via) =>
      match take s i r with
      | none => (w, s)
      | some s1 =>
        let s2 := match via with
          | some k => setWay s1 k { wayOf s1 k with lastUse := s.stk.epoch }
          | none => setRec s1 r { recOf s1 r with lastUse := s.stk.epoch }
        walkFrom x tokens take n (i + 1)
          { records := w.records ++ [r], digests := w.digests ++ [d], parent := r, digest := d } (satF s2 F.pfxStats.hits)

/-- Shares every page that a record names as block `i` of entry `q`, over `layers` layers; all of them or none. -/
def sharePages (q layers : Nat) (s : State) (i r : Nat) : Option State :=
  let x := recOf s r
  let ls := List.range layers
  if !ls.all (fun l => canShare s ((x.pages[l]?).getD 0)) then none
  else
    ls.foldl (fun (o : Option State) l =>
      match o with
      | none => none
      | some t =>
        let u := needUnit t q l i
        if !u.1 then none
        else
          let g := (x.pages[l]?).getD 0
          some (addRef (setPageEntry u.2 q l i { valid := true, page := g }) g)) (some s)

/-- The number of leading tokens that two lists share. -/
def commonPrefix : List Nat → List Nat → Nat
  | a :: as, b :: bs => if a = b then commonPrefix as bs + 1 else 0
  | _, _ => 0

/-- The fine match of R299: a child of the last hit with the longest run of leading tokens, at most 63 and at most the rest of
the prompt. -/
def fineMatch (s : State) (x : WalkCtx) (tokens : List Nat) (w : Walked) : Option (Nat × Nat) × State :=
  let i := w.records.length
  let rest := tokens.drop (64 * i)
  let run (n : Nat) : Nat := min 63 (min rest.length (commonPrefix (recOf s n).tokens rest))
  let cs := (recOf s w.parent).children.filter (fun n =>
    (recOf s n).comp == x.comp && (recOf s n).domain == x.domain && (recOf s n).parentDigest == w.digest)
  let best := (cs.map run).foldl max 0
  if best = 0 then (none, s)
  else
    let r := pick s (cs.filter (fun n => run n == best))
    (r.1.map (fun n => (n, best)), r.2)

/-! ## Insertion (R300, R301) -/

/-- A free record of the pool, which the part chooses; records 0 to 4,096 are not of the pool. -/
def chooseRecord (s : State) : Option Nat × State :=
  chooseFree s 4097 (getF s F.pfxBlockCount.count) (fun n => decide (n < getF s F.pfxBlockCount.count) && !(recOf s n).used)

/-- What a new record takes hold of: a reference to each page, or the pin of its object (R292, R293). -/
def holdPages (s : State) (cache : Bool) (pages : List Nat) : Option State :=
  if cache then some (pages.foldl pinObject s)
  else if pages.all (canShare s) then some (pages.foldl addRef s) else none

/-- An insertion stops (R300). -/
def insertStops (s : State) : Option Nat × State := (none, satF s F.pfxEvents.insertStops)

/-- Places a new record in the tree, in a way, or in both (R293, R296 to R300). -/
def insertPlace (s1 : State) (parent n : Nat) (x0 : BlockRec) (collided fine : Bool) : Option Nat × State :=
  let full := (bucketWays x0.digest).all (fun k => (wayOf s1 k).valid && wayPinned s1 k)
  let s2 := if full then satF s1 F.pfxEvents.pinnedFull else s1
  if (collided || full || fine) && !(recOf s2 parent).used then insertStops (dropHolds s2 x0)
  else
    let s3 := setRec s2 n x0
    let s4 := if collided || full || fine then linkChild s3 parent n else s3
    let s5 :=
      if collided then s4
      else
        match victimWay s4 x0.digest with
        | none => s4
        | some v =>
          let t := evictWay s4 v
          if !(recOf t n).used then t
          else
            let w0 : Way :=
              { digest := x0.digest, block := n, comp := x0.comp, valid := true, pinned := x0.pinned, lastUse := x0.lastUse }
            setRec (setWay t v w0) n { recOf t n with inTable := true }
    if (recOf s5 n).used then (some n, satF s5 F.pfxStats.inserts) else insertStops s5

/-- A block whose pages are held: it stops where its digest already names the same block, and is placed otherwise. -/
def insertHeld (s1 : State) (parent n : Nat) (x0 : BlockRec) (fine : Bool) : Option Nat × State :=
  let w := findWay s1 x0.digest x0.comp
  match w.filter (fun k => !(wayOf s1 k).collided) with
  | some k =>
    if recMatches (recOf s1 (wayOf s1 k).block) x0.parentDigest x0.tokens then insertStops (dropHolds s1 x0)
    else insertPlace s1 parent n x0 false fine
  | none => insertPlace s1 parent n x0 w.isSome fine

/-- The record of one block. -/
def blockRecord (s : State) (x : WalkCtx) (pd : Nat) (tokens pages : List Nat) (pin : Bool) : BlockRec :=
  { used := true, parentDigest := pd, digest := blockDigest x pd tokens, comp := x.comp, domain := x.domain,
    tokens := tokens, pages := pages, pinned := pin, lastUse := s.stk.epoch }

/-- Inserts one block under a parent record; answers the new record, or none where the insertion stops. -/
def insertBlock (s : State) (x : WalkCtx) (parent pd : Nat) (tokens pages : List Nat) (pin fine : Bool) :
    Option Nat × State :=
  let r := chooseRecord s
  r.1.elim (insertStops s) (fun n =>
    (holdPages r.2 (roleOf s x.comp == .cache) pages).elim (insertStops r.2) (fun s1 =>
      insertHeld s1 parent n (blockRecord s x pd tokens pages pin) fine))

/-- The model context of composition `c` for a domain slot. -/
def walkCtx (s : State) (c slot : Nat) : Option WalkCtx :=
  match modelOf s c with
  | some m =>
    let d := tabGet {} s.pfx.slots slot
    some { comp := c, domain := d.domain, key := d.key, model := m.1, adapter := m.2 }
  | none => none

/-- The pages of block `b` of entry `i`, every one SEALED and full. -/
def sealedBlock (s : State) (i b layers : Nat) : Option (List Nat) :=
  let es := (List.range layers).map (fun l => pageEntry (manifestOf s i) l b)
  if es.all (fun e => e.valid && (pageOf s e.page).state == .sealed_ && (pageOf s e.page).fill == 64) then
    some (es.map (·.page)) else none

/-- The index track of entry `i`. -/
def trackOf (s : State) (i : Nat) : Option PrefixTrack := tabGet none s.rqt.tracks i
def setTrack (s : State) (i : Nat) (t : Option PrefixTrack) : State :=
  { s with rqt := { s.rqt with tracks := tabPut none s.rqt.tracks i t } }

/-- A request whose blocks may still be inserted (R300, R334). -/
def mayInsert (st : ReqState) : Bool :=
  st == .prefill || st == .decode || st == .handoffOut || st == .parked || st == .dropped

/-- The next block of a request's prompt is inserted, once every layer's page of it is SEALED. -/
def insertNext (s : State) (i b : Nat) : State :=
  let e := entryOf s i
  match trackOf s i, openSlot s e.sharingDomain e.tenant.val, descOf s e.composition.val with
  | some t, some slot, some d =>
    if t.stopped || t.noInsert || b != t.records.length || t.blocks ≤ b || !mayInsert e.state then s
    else
      match walkCtx s e.composition.val slot, sealedBlock s i b d.layers with
      | some x, some pages =>
        let tokens := (blockTokens ((manifestOf s i).history.map (·.token)) b)
        let pd := (t.digests.getLast?).getD 0
        let last := (t.records.getLast?).getD (rootRecord slot)
        let parent := if t.records.isEmpty || (recOf s last).digest == pd then last else 0
        let r := insertBlock s x parent pd tokens pages t.pinInsert t.fine
        match r.1 with
        | some n => setTrack r.2 i (some { t with
            records := t.records ++ [n], digests := t.digests ++ [blockDigest x pd tokens] })
        | none => setTrack r.2 i (some { t with stopped := true })
      | _, _ => s
  | _, _, _ => s

/-- PREFIX_INSERT, once the prefix engine has a lease slot (R180): the last page of block `block` of entry `index` has sealed. -/
def execPrefixInsert (index block : Nat) (s : State) : Host.Outcome State Fault Refusal :=
  act s (runs s && canLease s) (fun s => insertNext s index block)

/-! ## Removal by composition, domain and pressure -/

/-- Removes every entry of composition `c` (R303, R391). -/
def removeComposition (s : State) (c : Nat) : State :=
  let s1 := (tabKeys s.pfx.records (fun x => x.comp == c && !x.root)).foldl dropRecord s
  { s1 with pfx := { s1.pfx with ways := tabDrop s1.pfx.ways (fun _ w => w.comp == c) } }

/-- The digests of the blocks of a domain: a COLLIDED way names its domain by its digest alone (R290). -/
def domainDigests (s : State) (d : Nat) : List Nat :=
  ((s.pfx.records.filter (fun e => e.2.used && !e.2.root && e.2.domain == d)).map (fun e => e.2.digest)).dedup

/-- Way `w` is an entry of domain `d`: through its record, or a COLLIDED way through its digest. -/
def wayInDomain (s : State) (ds : List Nat) (d : Nat) (w : Way) : Bool :=
  w.valid && (if w.collided then ds.contains w.digest else (recOf s w.block).domain == d)

/-- Removes every entry of a domain (R304). -/
def flushDomain (s : State) (d : Nat) : State :=
  let ds := domainDigests s d
  let s1 := { s with pfx := { s.pfx with ways := tabDrop s.pfx.ways (fun _ w => w.collided && wayInDomain s ds d w) } }
  (tabKeys s1.pfx.records (fun x => x.domain == d && !x.root)).foldl dropRecord s1

/-- Clears PINNED in every entry of a domain (R303, R304). -/
def unpinDomain (s : State) (d : Nat) : State :=
  let ds := domainDigests s d
  { s with pfx := { s.pfx with
      records := tabMap {} s.pfx.records (fun _ x => if x.domain == d then { x with pinned := false } else x)
      ways := tabMap {} s.pfx.ways (fun _ w => if wayInDomain s ds d w then { w with pinned := false } else w) } }

/-! ## Domain commands (R289, R304, R308) -/

/-- A domain command completes with a status, and the vector is signalled. -/
def domainDone (s : State) (status : Nat) : State :=
  notify (putF s F.pfxDomainCtl.status status) F.pfxCtl.notifyEnable F.pfxCtl.vector

/-- The tree children that the records of domain `d` have under other root records go under that of slot `k`: after a warm reset the
domain's entries are found again whichever slot it is loaded into (R637). -/
def adoptChildren (s : State) (k d : Nat) : State :=
  let ns := tabKeys s.pfx.records (fun x => x.inTree && x.domain == d && x.parent != rootRecord k && (recOf s x.parent).root)
  ns.foldl (fun t n =>
    let p := (recOf t n).parent
    let t1 := setRec t p { recOf t p with children := (recOf t p).children.filter (· != n) }
    linkChild t1 (rootRecord k) n) s

/-- LOAD of a domain key: 4 domain 0, 3 domain held by another slot, 6 slot holds a domain, 2 unwrap failed, 0 OK. DOMAIN
0 leaves the field as it was (R17), and the LOAD is answered 4 rather than made of the kept DOMAIN (R308; log entry 15). -/
def loadDomain (s : State) (k d owner : Nat) : State :=
  let s1 := putF (putF s F.pfxDomainCtl.slot k) F.pfxDomainCtl.owner owner
  let s2 := if 1 ≤ d ∧ d ≤ 65535 then putF s1 F.pfxDomainCtl.domain d else s1
  let s3 :=
    if s.pfx.scan.isSome then putF s2 F.pfxDomainCtl.status 1
    else if d = 0 ∨ 65535 < d then domainDone s2 4
    else if (slotOfDomain s d).any (· != k) then domainDone s2 3
    else if (tabGet {} s.pfx.slots k).domain != 0 then domainDone s2 6
    else
      match unwrapKey s2 (blobBytes s2 F.pfxDomainBlob.data 5) with
      | none => domainDone s2 2
      | some bs =>
        let x : DomainSlot := { domain := d, owner := owner, key := BitVec.ofNat 256 (leNat bs) }
        let t := { s2 with pfx := { s2.pfx with slots := tabPut {} s2.pfx.slots k x } }
        domainDone (adoptChildren (setRec t (rootRecord k) { recOf t (rootRecord k) with used := true, root := true }) k d) 0
  clearBlob s3 F.pfxDomainBlob.data 5

/-- DOMAIN_LOAD: CMD 1 written to PFX_DOMAIN_CTL. -/
def execDomainLoad (slot : Fin 4096) (domain : Nat) (owner : Tenant) (s : State) : Host.Outcome State Fault Refusal :=
  actAwake s (serves s 6) (.domainLoad slot domain owner) (fun s => loadDomain s slot.val domain owner.val)

/-- A scan of a slot's domain begins: status 5 where the slot is empty, 1 while the scan runs (R304). -/
def beginScan (s : State) (k : Nat) (kind : ScanKind) : State :=
  let s1 := putF s F.pfxDomainCtl.slot k
  if s.pfx.scan.isSome then putF s1 F.pfxDomainCtl.status 1
  else if (tabGet {} s.pfx.slots k).domain = 0 then domainDone s1 5
  else putF { s1 with pfx := { s1.pfx with scan := some (k, kind) } } F.pfxDomainCtl.status 1

/-- DOMAIN_CLEAR: CMD 2 written to PFX_DOMAIN_CTL. -/
def execDomainClear (slot : Fin 4096) (s : State) : Host.Outcome State Fault Refusal :=
  actAwake s (serves s 6) (.domainClear slot) (fun s => clearBlob (beginScan s slot.val .clear) F.pfxDomainBlob.data 5)

/-- DOMAIN_UNPIN: CMD 3 written to PFX_DOMAIN_CTL. -/
def execDomainUnpin (slot : Fin 4096) (s : State) : Host.Outcome State Fault Refusal :=
  actAwake s (serves s 6) (.domainUnpin slot) (fun s => beginScan s slot.val .unpin)

/-- DOMAIN_FLUSH: CMD 4 written to PFX_DOMAIN_CTL. -/
def execDomainFlush (slot : Fin 4096) (s : State) : Host.Outcome State Fault Refusal :=
  actAwake s (serves s 6) (.domainFlush slot) (fun s => beginScan s slot.val .flush)

/-- The end of a scan: its effect on every entry of the domain, and for CLEAR the slot is empty (R289, R304). -/
def endScan (s : State) : State :=
  match s.pfx.scan with
  | none => s
  | some (k, kind) =>
    let d := (tabGet {} s.pfx.slots k).domain
    let s1 := { s with pfx := { s.pfx with scan := none } }
    let s2 := match kind with
      | .unpin => unpinDomain s1 d
      | .flush => flushDomain s1 d
      | .clear =>
        let t := flushDomain s1 d
        { t with pfx := { t.pfx with slots := tabPut {} t.pfx.slots k {} } }
    domainDone s2 0

/-- DOMAIN_SCAN_COMPLETE: the scan has read the whole index. -/
def execDomainScanComplete (s : State) : Host.Outcome State Fault Refusal := act s (runs s) endScan

end Sys2Proof.Machine
end

