-- ==== Sys2Proof/Machine/Owner.lean ====
section
/-! DEFINITION. What the owner of a request does at its entry: the arbiter, the token log, publication of blocks, transfers and
offers, parking and restoring, and the ends of an entry (R226 to R234, R321, R325 to R331, R353 to R362). -/

namespace Sys2Proof.Machine

open Sys2Proof

/-! ## The arbiter (R225, R230, R231) -/

/-- The entry that holds a request ID (R225, R227). -/
def findRequest (s : State) (id : Nat) : Option Nat :=
  (s.rqt.entries.find? (fun e => e.2.state != .free && e.2.requestId == id)).map (·.1)

/-- The entry changed by `f`. -/
def modEntry (s : State) (i : Nat) (f : Entry → Entry) : State := setEntry s i (f (entryOf s i))

/-- The arbiter resolves one more event (R230). -/
def arbitrate (s : State) (i : Nat) : State := modEntry s i (fun e => { e with arbSeq := (e.arbSeq + 1) % 2 ^ 32 })

/-- The steps of entry `i` in flight will be discarded (R231). -/
def invalidate (s : State) (i : Nat) : State :=
  { s with sch := { s.sch with
      steps := tabMap none s.sch.steps (fun _ o => o.map (fun st =>
        { st with reqs := st.reqs.map (fun r => if r.index = i then { r with valid := false } else r) })) } }

/-- An event that discards the steps in flight: APPEND, TRUNCATE, CANCEL, PARK, a capacity action, an RST ownership event. -/
def seizeEntry (s : State) (i : Nat) : State := invalidate (arbitrate s i) i

/-- The commands held at entry `i` (R234). -/
def heldOf (s : State) (i : Nat) : List HeldCommand := tabGet [] s.rqt.held i

/-- The commands held at entry `i` set, with the entry's HELD. -/
def setHeld (s : State) (i : Nat) (l : List HeldCommand) : State :=
  let s1 := { s with rqt := { s.rqt with held := tabPut [] s.rqt.held i l } }
  if (entryOf s1 i).state == .free then s1 else modEntry s1 i (fun e => { e with held := l.length })

/-- The pending input of entry `i`. -/
def inputOf (s : State) (i : Nat) : Option PendingInput := tabGet none s.rqt.inputs i
def setInput (s : State) (i : Nat) (x : Option PendingInput) : State :=
  { s with rqt := { s.rqt with inputs := tabPut none s.rqt.inputs i x } }

/-- The input tokens that wait for their prefill. -/
def inputTokens (s : State) (i : Nat) : List Nat :=
  match inputOf s i with
  | some x => x.tokens
  | none => []

/-- The position after the last one that the pending input will fill. -/
def inputEndOf (s : State) (i : Nat) : Nat := (entryOf s i).length + (inputTokens s i).length

/-- Blocks of entry `i` that were dropped and not recomputed, ascending (R355, R358). -/
def droppedBlocks (s : State) (i : Nat) : List Nat :=
  (((manifestOf s i).pages.filter (fun e => e.2.dropped)).map (fun e => e.1 % 16384)).dedup.mergeSort

/-! ## The token log (R326, R328) -/

/-- The log entries of entry `i`: its committed positions, then its pending input; a forced input is generated output. -/
def logImage (s : State) (i : Nat) : List LogEntry :=
  (manifestOf s i).history.take (entryOf s i).length ++
    (match inputOf s i with
    | some x => x.tokens.map (fun t => { input := !x.forced, token := t })
    | none => [])

/-- An entry as a message carries it: LMC values stay on their part (R60). -/
def sentEntry (e : Entry) : Entry := { e with deadline := 0, admitLmc := 0, lastCommitLmc := 0 }

/-- A message about entry `i` to a part, at the entry's epoch. -/
def requestMsg (s : State) (i : Nat) (dest : PartAddr) (msg : RstMsg) : RstOut :=
  { dest := dest, msg := msg, epoch := (entryOf s i).ownerEpoch, requestId := (entryOf s i).requestId }

/-- The lowest position that the next LOG_APPEND carries. -/
def logStart (s : State) (i : Nat) : Nat :=
  match tabGet none s.rqt.logFrom i with
  | some t => min t (entryOf s i).logged
  | none => (entryOf s i).logged

/-- Something is not in the home's log yet. -/
def logWanted (s : State) (i : Nat) : Bool :=
  (tabGet none s.rqt.logFrom i).isSome || (entryOf s i).logged < (logImage s i).length

/-- Sends LOG_APPEND of every position not in the log, unless one is in flight or nothing is wanted (R328). -/
def sendLog (s : State) (i : Nat) : State :=
  if tabGet false s.rqt.logInFlight i || !logWanted s i then s
  else
    let start := logStart s i
    let s1 := sendRst s (requestMsg s i (entryOf s i).home (.logAppend start (sentEntry (entryOf s i)) ((logImage s i).drop start)))
    { s1 with rqt := { s1.rqt with
        logInFlight := tabPut false s1.rqt.logInFlight i true, logFrom := tabPut none s1.rqt.logFrom i none } }

/-- A truncation to `t` leaves log entries at `t` and beyond that the next LOG_APPEND cuts (R327, R328). -/
def logCut (s : State) (i t : Nat) : State :=
  if (entryOf s i).logged ≤ t && !(tabGet false s.rqt.logInFlight i) then s
  else
    let old := tabGet none s.rqt.logFrom i
    { s with rqt := { s.rqt with
        logFrom := tabPut none s.rqt.logFrom i (some (match old with | some u => min u t | none => t)) } }

/-- The whole of what the request holds is in the log. -/
def isLogged (s : State) (i : Nat) : Bool := !logWanted s i && !(tabGet false s.rqt.logInFlight i)

/-! ## Transfers (R321) -/

/-- The transfer in slot `k`. -/
def transferOf (s : State) (k : Nat) : Option Transfer := tabGet none s.xfr.slots k
def setTransfer (s : State) (k : Nat) (x : Option Transfer) : State :=
  { s with xfr := { s.xfr with slots := tabPut none s.xfr.slots k x } }

/-- A new transfer. -/
def newTransfer (kind : TransferKind) (id i : Nat) (peer : PartAddr) (epoch : Nat) : Transfer :=
  { kind := kind, requestId := id, index := i, peer := peer, epoch := epoch, append := false, tries := 0, pulls := [],
    walked := false, claimSent := false, audited := false, unreachable := false, block := 0, retryWait := false }

/-- Takes a free transfer slot, which the part chooses, with its lease slot (R180, R321). -/
def takeTransfer (s : State) (x : Transfer) : Option Nat × State :=
  let r := chooseFree s 0 2048 (fun k => (transferOf s k).isNone)
  match r.1 with
  | some k => (some k, takeLease (setTransfer r.2 k (some x)) (1536 + k))
  | none => (none, r.2)

/-- A transfer ends, and with it its lease. -/
def endTransfer (s : State) (k : Nat) : State := endLease (setTransfer s k none) (1536 + k)

/-- A message of the handoff of entry `i` has arrived, or its orphan bound begins anew (R336). -/
def hear (s : State) (i : Nat) : State := { s with rqt := { s.rqt with heard := tabPut 0 s.rqt.heard i s.plt.lmc } }

/-- The orphan bound has passed since entry `i` last heard of its transfer: AUDIT_US of the LMC, none while the LMC is held (R56, R59,
R336). -/
def orphanPassed (s : State) (i : Nat) : Bool :=
  lmcRuns s && decide (tabGet 0 s.rqt.heard i + 100 * getF s F.xfrCtl.auditUs ≤ s.plt.lmc)

/-- The slot of a transfer of entry `i` that is one of some kinds. -/
def transferFor (s : State) (i : Nat) (p : TransferKind → Bool) : Option Nat :=
  (s.xfr.slots.find? (fun e =>
    match e.2 with
    | some x => x.index == i && p x.kind
    | none => false)).map (·.1)

/-- Ends every transfer of entry `i`. -/
def endTransfers (s : State) (i : Nat) : State :=
  (tabKeys s.xfr.slots (fun o => match o with | some x => x.index == i | none => false)).foldl endTransfer s

/-! ## Publishing blocks (R329) -/

/-- The number of blocks of entry `i` that the home has published. -/
def publishedBlocks (s : State) (i : Nat) : Nat :=
  ((manifestOf s i).pages.filter (fun e => e.1 < 16384 && e.2.published)).length

/-- The pages of block `b` over the layers, as they travel (R318). -/
def blockBytes (s : State) (d : ModelDescriptor) (pages : List Nat) : List Byte :=
  (pages.map (fun g => memBytes s (granuleAddr g) (pageGranules d * 4096))).flatten

/-- Marks blocks 0 to `n` - 1 PUBLISHED in every layer (R171, R329). -/
def markPublished (s : State) (i n : Nat) : State :=
  setManifest s i { manifestOf s i with
    pages := tabMap {} (manifestOf s i).pages (fun k e => if k % 16384 < n then { e with published := true } else e) }

/-- The digest of block `b` - 1 of a token list; 0 for the root. -/
def chainDigest (x : WalkCtx) (tokens : List Nat) : Nat → Nat
  | 0 => 0
  | b + 1 => blockDigest x (chainDigest x tokens b) (blockTokens tokens b)

/-- The tokens and digests of block `b` for PUB_REF, where the block came from the prefix index. -/
def blockRef (s : State) (i b : Nat) : Option (Nat × Nat × List Nat) :=
  let e := entryOf s i
  match trackOf s i, (openSlot s e.sharingDomain e.tenant.val).bind (walkCtx s e.composition.val) with
  | some t, some x =>
    let tokens := (manifestOf s i).history.map (·.token)
    if b < t.hits + t.remote then some (chainDigest x tokens b, chainDigest x tokens (b + 1), blockTokens tokens b) else none
  | _, _ => none

/-- Sends the next block of a class-P request to its home, once every layer's page of it is SEALED, one at a time; a request that has
been offered sends none (R329, R331). -/
def publishNext (s : State) (i : Nat) : State :=
  let e := entryOf s i
  if e.durability != .p || e.state == .free || e.state == .admitted || e.state == .handoffIn || e.state == .handoffOut ||
      (transferFor s i (· == .publish)).isSome then s
  else
    match descOf s e.composition.val with
    | none => s
    | some d =>
      let b := publishedBlocks s i
      match sealedBlock s i b d.layers with
      | none => s
      | some pages =>
        let x := { newTransfer .publish e.requestId i e.home e.ownerEpoch with block := b }
        let r := takeTransfer s x
        match r.1 with
        | none => r.2
        | some k =>
          let msg := match blockRef s i b with
            | some (pd, dg, ts) => RstMsg.pubRef b pd dg ts
            | none => .publishBlock b (.native (blockBytes s d pages))
          sendRst r.2 { requestMsg r.2 i e.home msg with xfer := k }

/-! ## Offers (R331, R335) -/

/-- The remaining deadline in LMC counts; 0 is none (R60, R318). DESIGN CHOICE (log entry 77): a deadline that has already passed has no
remaining duration, and 0 means none, so 1 is sent. -/
def remainingDeadline (s : State) (i : Nat) : Nat :=
  let d := (entryOf s i).deadline
  if d = 0 then 0 else max 1 (d - s.plt.lmc)

/-- The OFFER of entry `i` in transfer slot `k`. -/
def offerMsg (s : State) (i k : Nat) (append : Bool) : RstOut :=
  let e := entryOf s i
  let m := (modelOf s e.composition.val).getD (0, 0)
  { requestMsg s i e.peer (.offer (remainingDeadline s i) (sentEntry e) m.1 m.2 (logImage s i)) with xfer := k, append := append }

/-- The entry leaves for HANDOFF_OUT with its tail frozen. -/
def enterHandoffOut (s : State) (i : Nat) : State :=
  let s1 := match descOf s (entryOf s i).composition.val with
    | some d => freezeTail s d i
    | none => s
  hear (modEntry s1 i (fun e => { e with state := .handoffOut })) i

/-- The OFFER goes out once the log holds everything and a transfer slot is free (R331, steps 1 and 2). -/
def tryOffer (s : State) (i : Nat) : State :=
  if !(tabGet false s.rqt.offers i) then s
  else if !isLogged s i then sendLog s i
  else
    let e := entryOf s i
    let append := roleOf s e.composition.val == .generation
    let x := { newTransfer .send e.requestId i e.peer e.ownerEpoch with append := append, tries := 1 }
    let r := takeTransfer s x
    match r.1 with
    | none => r.2
    | some k =>
      let s1 := enterHandoffOut { r.2 with rqt := { r.2.rqt with offers := tabPut false r.2.rqt.offers i false } } i
      sendRst s1 (offerMsg s1 i k append)

/-- The request is to be offered to PEER. -/
def wantOffer (s : State) (i : Nat) : State :=
  tryOffer { s with rqt := { s.rqt with offers := tabPut false s.rqt.offers i true } } i

/-- Offers and publications that waited for a transfer slot try again. -/
def retryTransfers (s : State) : State :=
  let s1 := (tabKeys s.rqt.offers (fun b => b)).foldl tryOffer s
  (tabKeys s1.rqt.entries (fun e => e.durability == .p && e.state != .free)).foldl publishNext s1

/-! ## Parking and restoring (R355, R359 to R362) -/

/-- The pages of entry `i` that a parked object holds: valid, REFS 1, by layer and page. -/
def parkablePages (s : State) (i : Nat) : List (Nat × Nat) :=
  ((manifestOf s i).pages.filter (fun e => e.2.valid && (pageOf s e.2.page).refs == 1)).map (fun e => (e.1, e.2.page))

/-- Zeros up to a multiple of 4 KiB. -/
def padGranule (bs : List Byte) : List Byte := bs ++ zeros ((4096 - bs.length % 4096) % 4096)

/-- The bytes of a parked object (R360). -/
def parkedBytes (s : State) (i : Nat) (d : ModelDescriptor) (origin : Nat) : List Byte :=
  let ps := parkablePages s i
  let e := entryOf s i
  let head := leBytes 8 e.requestId ++ leBytes 4 e.length ++ leBytes 2 d.layers ++ leBytes 1 origin ++ leBytes 1 0 ++
    leBytes 2 (pageGranules d) ++ leBytes 2 0 ++ leBytes 4 ps.length ++ zeros 40
  let descs := (ps.map (fun p => leBytes 4 (p.1 % 16384) ++ leBytes 1 (p.1 / 16384) ++ leBytes 1 (pageOf s p.2).fill ++
    leBytes 2 0)).flatten
  padGranule (head ++ descs) ++ (ps.map (fun p => memBytes s (granuleAddr p.2) (pageGranules d * 4096))).flatten

/-- The swap area of a tier: its base and granules (R366). -/
def swapArea (s : State) (tier : Nat) : Nat × Nat :=
  if tier = 2 then (getF s F.stkSwapSlateBase.base * 4096, getF s F.stkSwapSlateSize.granules)
  else (getF s F.stkSwapHostBase.base * 4096, getF s F.stkSwapHostSize.granules)

/-- Granule `a` of an area of a tier is held by an object of the part. -/
def areaUsed (s : State) (tier base n g : Nat) : Bool :=
  s.stk.odt.any (fun e => e.2.state != .free && e.2.tier == tier &&
    overlaps (base + g * 4096) (n * 4096) e.2.location (granuleCount e.2.size * 4096))

/-- A free run of `n` granules in an area, which the part chooses (R148). -/
def chooseRun (s : State) (tier base granules n : Nat) : Option Nat × State :=
  if granules < n then (none, s)
  else
    let r := chooseFree s 0 (granules - n + 1) (fun g => !areaUsed s tier base n g)
    (r.1.map (fun g => base + g * 4096), r.2)

/-- Releases the manifest units of entry `i` that hold no VALID entry (R359). -/
def trimUnits (s : State) (i : Nat) : State :=
  let m := manifestOf s i
  let used (k : Nat) : Bool := m.pages.any (fun e => e.2.valid && 8 * (e.1 / 16384) + e.1 % 16384 / 2048 == k)
  let gone := m.units.filter (fun u => !used u.1)
  setManifest (retireUnits s (gone.map (·.2))) i { m with units := m.units.filter (fun u => used u.1) }

/-- Parks entry `i` on a tier (R359): its tail is frozen, its unshared pages go into a parked object, and it enters PARKED.
`none` where the swap area or the ODT has no room (R361). -/
def parkEntry (s : State) (i tier origin : Nat) : Option State :=
  match descOf s (entryOf s i).composition.val with
  | none => none
  | some d =>
    let s1 := freezeTail s d i
    let bs := parkedBytes s1 i d origin
    let area := swapArea s1 tier
    let r := chooseRun s1 tier area.1 area.2 (granuleCount bs.length)
    match r.1 with
    | none => none
    | some a =>
      let o := createObject r.2 tier (entryOf s i).tenant.val 5 4 a bs
      match o.1 with
      | none => none
      | some h =>
        let s2 := (parkablePages s1 i).foldl (fun t p => clearPage t i (p.1 / 16384) (p.1 % 16384)) o.2
        let s3 := trimUnits s2 i
        let s4 := setManifest s3 i { manifestOf s3 i with parked := h, parkOrigin := origin }
        let s5 := modEntry s4 i (fun e =>
          { e with state := .parked, parkedFromDone := e.state == .done })
        some (satF s5 F.stkCapStats.parks)

/-- The parked object of entry `i` is unpublished (R361). -/
def dropParked (s : State) (i : Nat) : State :=
  let h := (manifestOf s i).parked
  if h = 0 then s
  else
    let s1 := if isCurrent s h then retireObject s (handleIndex h) else s
    setManifest s1 i { manifestOf s1 i with parked := 0, parkOrigin := 0 }

/-- The restore of a PARKED request is under way; a RESUME's tag waits for its end (R362). -/
def beginRestore (s : State) (i : Nat) (tag : Option Nat) : State :=
  let old := (tabGet none s.rqt.restores i).getD []
  { s with rqt := { s.rqt with
      restores := tabPut none s.rqt.restores i (some (match tag with | some t => old ++ [t] | none => old)) } }

/-! ## The ends of an entry -/

/-- Removes every page reference of entry `i`. -/
def dropPages (s : State) (i : Nat) : State := endWait (clearPages s i) i

/-- Forgets what the part keeps beside entry `i`, but for a missed deadline that its next completion has still to tell (R250). -/
def clearSide (s : State) (i : Nat) : State :=
  let s1 := endWait s i
  { s1 with rqt := { s1.rqt with
      held := tabPut [] s1.rqt.held i [], admissions := tabPut none s1.rqt.admissions i none,
      inputs := tabPut none s1.rqt.inputs i none, logInFlight := tabPut false s1.rqt.logInFlight i false,
      logFrom := tabPut none s1.rqt.logFrom i none, offers := tabPut false s1.rqt.offers i false,
      restores := tabPut none s1.rqt.restores i none, tracks := tabPut none s1.rqt.tracks i none,
      missToken := tabPut false s1.rqt.missToken i false, drafts := tabPut [] s1.rqt.drafts i [], missed := tabPut false s1.rqt.missed i false,
      reads := tabPut none s1.rqt.reads i none, taken := tabPut false s1.rqt.taken i false, heard := tabPut 0 s1.rqt.heard i 0 } }

/-- Entry `i` becomes FREE: its references are removed and its manifest retires (R173, R228). -/
def freeEntry (s : State) (i : Nat) : State :=
  let c := (entryOf s i).composition.val
  let s1 := retireManifest (dropParked (dropPages (invalidate s i) i) i) i
  releaseModel (setEntry (clearSide (endTransfers s1 i) i) i {}) c

/-- A request fills the FREE entry `i`. -/
def fillEntry (s : State) (i : Nat) (e : Entry) : State :=
  setEntry { s with rqt := { s.rqt with missCompletion := tabPut false s.rqt.missCompletion i false } } i e

/-- Entry `i` enters FAILED, with the FAILED notice (R228, R338). -/
def failEntry (s : State) (i status : Nat) : State :=
  let s1 := dropParked (endTransfers (endWait (seizeEntry s i) i) i) i
  let s2 := setInput (modEntry s1 i (fun e => { e with state := .failed })) i none
  notice { s2 with rqt := { s2.rqt with offers := tabPut false s2.rqt.offers i false } } i status 0

/-- CLOSE to the home of entry `i` (R330). -/
def sendClose (s : State) (i : Nat) : State := sendRst s (requestMsg s i (entryOf s i).home .close)

end Sys2Proof.Machine
end

