-- ==== Sys2Proof/Machine/Commands.lean ====
section
/-! DEFINITION. The host commands: reading from a submission queue, the refusals of ADMIT, the state table of R239, the walk of an
admission, and deadlines (08_request_table.md). -/

namespace Sys2Proof.Machine

open Sys2Proof

/-! ## The bytes of an entry (R226, R281) -/

/-- EFLAGS. -/
def entryFlags (e : Entry) : Nat :=
  e.deadlineMissed.toNat + 2 * e.resyncPending.toNat + 4 * e.handedOff.toNat + 8 * e.parkedFromDone.toNat +
    16 * e.noticePending.toNat

/-- The code of a durability class. -/
def durabilityCode : Durability → Nat
  | .b => 0 | .p => 1 | .m => 2

/-- DRAFT_STATE. -/
def draftBytes (d : DraftState) : List Byte :=
  leBytes 4 d.rootToken ++ leBytes 4 d.rootLogprob.toNat ++ leBytes 1 d.width ++ leBytes 1 d.rejectRun ++
    leBytes 1 d.acceptRun ++ leBytes 1 d.probeWait ++
    leBytes 1 (d.rootValid.toNat + 2 * d.redraw.toNat +
      4 * (match d.source with | .none => 0 | .draftHead => 1 | .host => 2)) ++
    zeros 3 ++ leBytes 4 d.proposed ++ leBytes 4 d.accepted ++ leBytes 8 d.hostSeq

/-- The eight stop tokens; 0xFFFF_FFFF is unused. -/
def stopBytes (ts : List Nat) : List Byte :=
  ((List.range 8).map (fun j => leBytes 4 ((ts[j]?).getD 0xFFFFFFFF))).flatten

/-- The 256 bytes of an entry. -/
def entryBytes (e : Entry) : List Byte :=
  leBytes 1 (reqCode e.state) ++ leBytes 1 (entryFlags e) ++ leBytes 1 e.composition.val ++
    leBytes 1 (e.priority + 16 * durabilityCode e.durability) ++ leBytes 2 e.tenant.val ++ leBytes 2 e.sharingDomain ++
    leBytes 8 e.requestId ++ leBytes 4 e.length ++ leBytes 4 e.inputEnd ++ leBytes 4 e.turnLimit ++ leBytes 4 e.manifest ++
    leBytes 8 e.deadline ++ leBytes 8 e.stepBudget ++ leBytes 4 e.ownerEpoch ++ leBytes 4 e.logged ++ leBytes 16 e.home ++
    leBytes 16 e.peer ++ leBytes 8 e.admitTag ++ leBytes 16 e.rngState.toNat ++ leBytes 4 e.temperature.toNat ++
    leBytes 4 e.topP.toNat ++ leBytes 4 e.topK ++ zeros 4 ++ stopBytes e.stopTokens ++ draftBytes e.draft ++
    leBytes 8 e.admitLmc ++ leBytes 8 e.engineNs ++ leBytes 4 e.tokensOut ++ leBytes 4 e.steps ++ leBytes 4 e.matched ++
    leBytes 4 e.lastTrunc ++ leBytes 8 e.lastCommitLmc ++ leBytes 4 e.arbSeq ++ leBytes 1 e.held ++ zeros 19

/-! ## Reading a command (R235, R258) -/

/-- The part reads a command of tenant `t`: it runs, reaches the host, is no Mirror, the queue holds a further command, and the
completion queue has a free slot for it besides those of the commands under way. -/
def canRead (s : State) (t : Nat) : Bool :=
  runs s && !hostOff s && tenantOn s t && s.twn.role != .mirror &&
    (queuesOf s t).sqHead != (queuesOf s t).sqTail && decide ((queuesOf s t).outstanding + (queuesOf s t).waiting.length < cqRoom s t)

/-- A read of host memory under the PASID of tenant `t` (R235, R595). -/
def readHost (s : State) (t address size : Nat) : State := emit s (.hostRead (pasidOf s t) address size)

/-- Reads the command at SQ_HEAD: one more is under way. -/
def readCommand (s : State) (t : Nat) : State :=
  let q := queuesOf s t
  setQueues (readHost s t (getF s (F.rqtTSqBase.base.at t) * 4096 + 64 * q.sqHead) 64) t { q with
    sqHead := if q.sqHead + 1 ≥ sqSlots s t then 0 else q.sqHead + 1, outstanding := q.outstanding + 1 }

/-- Reads the tokens of a command (R236, R238). -/
def readTokens (s : State) (t : Nat) (c : HostCommand) : State := if c.count = 0 then s else readHost s t c.addr (4 * c.count)

/-- RQT_CMD_FAULT records the first command that completes with BAD_COMMAND or READ_FAULT (R256, R258). -/
def recordFault (s : State) (t sq status : Nat) : State :=
  let s1 := latch s F.rqtCmdFault.valid F.rqtCmdFault.overflow (fun u =>
    putF (putF (putF u F.rqtCmdFault.tenant t) F.rqtCmdFault.sqIndex sq) F.rqtCmdFault.status status)
  if isSet s F.rqtCmdFault.valid then s1 else notify s1 F.rqtCtl.notifyEnable F.rqtCtl.vector

/-- A command that names no entry completes with a status. -/
def answerBare (s : State) (t : Nat) (h : HeldCommand) (status : Nat) : State :=
  completeBare (if status = 13 ∨ status = 15 then recordFault s t h.sqIndex status else s) t h.opcode h.cmd.requestId
    h.cmd.tag status

/-- A command on entry `i` completes with a status (R242, R244): MOVING names the part that takes the request. -/
def answer (s : State) (i : Nat) (h : HeldCommand) (status : Nat) : State :=
  let e := entryOf s i
  let t := e.tenant.val
  complete (if status = 13 ∨ status = 15 then recordFault s t h.sqIndex status else s) t i h.opcode h.cmd.requestId
    h.cmd.tag status (if h.opcode = 2 then e.matched else 0) (if status = 11 then e.peer else 0)

/-- A command that changes nothing completes with a status. The arbiter has resolved it, so ARB_SEQ counts it (R230), and it discards the
step in flight where it is an APPEND, TRUNCATE, CANCEL or PARK: R231 excepts none. DESIGN CHOICE (log entry 86): the TRUNCATE of R184
at or above LENGTH, of which no field of the entry changes, counts and discards as the others do. -/
def reject (s : State) (i : Nat) (h : HeldCommand) (status : Nat) : State :=
  answer (if 2 ≤ h.opcode ∧ h.opcode ≤ 5 then seizeEntry s i else arbitrate s i) i h status

/-! ## The effects of R228 -/

/-- The root token is discarded, with the draft head's tree for it (R268, R277). -/
def discardRoot (s : State) (i : Nat) (redraw : Bool) : State :=
  modEntry { s with rqt := { s.rqt with drafts := tabPut [] s.rqt.drafts i [] } } i
    (fun e => { e with draft := { e.draft with rootValid := false, redraw := redraw } })

/-- The largest number of positions of a request in composition `c` (R29). -/
def contextLimit (s : State) (c : Nat) : Nat :=
  match descOf s c with
  | some d => min 1048576 d.maxContext
  | none => 1048576

/-- An APPEND that takes effect: what the request must still do follows from its length and from the blocks that were dropped
(R228, R252, R335, R358). -/
def takeAppend (s : State) (i : Nat) (h : HeldCommand) : State :=
  let forced := h.cmd.cflags.testBit 0
  let long := !forced && decide (512 < h.tokens.length)
  let s1 := discardRoot (seizeEntry s i) i (forced && h.tokens.isEmpty)
  let s2 := modEntry s1 i (fun e => { e with
    matched := 0
    resyncPending := if forced then false else e.resyncPending
    inputEnd := if forced then e.inputEnd else e.length + h.tokens.length
    peer := if long then h.cmd.promptPart else e.peer })
  if forced && h.tokens.isEmpty then answer s2 i h 0
  else
    let recompute := !(droppedBlocks s i).isEmpty
    let after : AfterPrefill := if long then .handoff else .commit
    let s3 := setInput s2 i (some { tokens := h.tokens, forced := forced, after := after })
    if long && !recompute then
      let s4 := wantOffer (enterHandoffOut s3 i) i
      answer s4 i h 0
    else
      answer (sendLog (modEntry s3 i (fun e => { e with state := .prefill })) i) i h 0

/-- The status with which an APPEND is refused: FORCE only while RESYNC_PENDING is set (R252), a prompt part for more than 512 tokens
(R33), and the context limit (R29). DESIGN CHOICE (log entry 87): of several the first in this order, which R241 gives for ADMIT. -/
def appendRefusal (s : State) (i : Nat) (h : HeldCommand) : Option Nat :=
  let e := entryOf s i
  if h.cmd.cflags.testBit 0 && !e.resyncPending then some 13
  else if decide (512 < h.tokens.length) && h.cmd.promptPart == 0 then some 7
  else if contextLimit s e.composition.val < e.length + h.tokens.length then some 8
  else none

/-- APPEND where it applies; one that is refused leaves the request as it was (R29, R33). -/
def applyAppend (s : State) (i : Nat) (h : HeldCommand) : State :=
  match appendRefusal s i h with
  | some st => reject s i h st
  | none => takeAppend s i h

/-- TRUNCATE to a position below LENGTH (R184, R228, R277, R328): the pages, the history, the input and the index track end there. -/
def takeTruncate (s : State) (i t : Nat) : State :=
  let s1 := truncatePages (seizeEntry s i) i t
  let s2 := discardRoot (writeHistory s1 i t []) i true
  let s3 := modEntry s2 i (fun e => { e with length := t, lastTrunc := t, inputEnd := min e.inputEnd t })
  let s4 := match trackOf s3 i with
    | some k => setTrack s3 i (some { k with blocks := min k.blocks (t / 64) })
    | none => s3
  if t < (entryOf s i).logged then sendLog (logCut s4 i t) i
  else if tabGet false s.rqt.logInFlight i then logCut s4 i t else s4

/-- TRUNCATE where it applies. -/
def applyTruncate (s : State) (i : Nat) (h : HeldCommand) : State :=
  if (entryOf s i).length ≤ h.cmd.count then reject s i h 0 else answer (takeTruncate s i h.cmd.count) i h 0

/-- The RESUMEs that wait for a restore complete with a status. -/
def endRestore (s : State) (i status : Nat) : State :=
  let e := entryOf s i
  let tags := (tabGet none s.rqt.restores i).getD []
  tags.foldl (fun u g => complete u e.tenant.val i 6 e.requestId g status 0 0)
    { s with rqt := { s.rqt with restores := tabPut none s.rqt.restores i none } }

/-- CANCEL of an active request (R228): the step in flight is discarded, and references and the parked object are removed. -/
def takeCancel (s : State) (i : Nat) : State :=
  let s1 := dropPages (dropParked (endTransfers (seizeEntry s i) i) i) i
  let s2 := setInput (modEntry s1 i (fun e => { e with state := .cancelled, parkedFromDone := false })) i none
  { s2 with rqt := { s2.rqt with offers := tabPut false s2.rqt.offers i false, reads := tabPut none s2.rqt.reads i none } }

/-- An admission under way is set. -/
def setAdmission (s : State) (i : Nat) (a : Option Admission) : State :=
  { s with rqt := { s.rqt with admissions := tabPut none s.rqt.admissions i a } }

/-- The ADMIT and then the CANCEL of an admission that a CANCEL has ended complete, once OPENED has come (R636). -/
def endCancelled (s : State) (i : Nat) (a : Admission) (g : Nat) : State :=
  let e := entryOf s i
  complete (complete (setAdmission s i none) e.tenant.val i 1 e.requestId a.tag 0 0 0) e.tenant.val i 4 e.requestId g 0 0 0

/-- CANCEL in ADMITTED (R636): the walk stops, and the CANCEL completes after the ADMIT, at once where OPENED has come. -/
def cancelAdmission (s : State) (i : Nat) (a : Admission) (h : HeldCommand) : State :=
  let s1 := takeCancel s i
  if a.opened then endCancelled s1 i a h.cmd.tag else setAdmission s1 i (some { a with cancel := some h.cmd.tag })

/-- PARK (R359): the log goes first (R328). A DONE request with dropped blocks recomputes them first (R358); it stays DONE meanwhile, and
the PARK waits at its arbiter. -/
def applyPark (s : State) (i : Nat) (h : HeldCommand) : State :=
  if !(droppedBlocks s i).isEmpty then
    let s1 := setInput (seizeEntry s i) i (some { tokens := [], forced := false, after := .done })
    setHeld s1 i (heldOf s1 i ++ [h])
  else
    match parkEntry (sendLog (seizeEntry s i) i) i h.cmd.tier 0 with
    | some s1 => answer s1 i h 0
    | none => answer (sendLog (seizeEntry s i) i) i h 12

/-- RESUME of a PARKED request: its restore begins, with a new deadline unless it is 0. -/
def applyResume (s : State) (i : Nat) (h : HeldCommand) : State :=
  let s1 := arbitrate s i
  let s2 := if h.cmd.deadline = 0 then s1
    else
      let u := modEntry s1 i (fun e => { e with deadline := h.cmd.deadline })
      { u with rqt := { u.rqt with missed := tabPut false u.rqt.missed i false } }
  beginRestore s2 i (some h.cmd.tag)

/-- QUERY: a copy of the whole entry, RNG_STATE reading as zero (R240). -/
def applyQuery (s : State) (i : Nat) (h : HeldCommand) : State :=
  let s1 := arbitrate s i
  let e := entryOf s1 i
  answer (emit s1 (.hostWrite (pasidOf s1 e.tenant.val) h.cmd.addr true (entryBytes { e with rngState := 0 }))) i h 0

/-- RELEASE: the entry is freed and its ledger closed unless the request was handed off (R228, R328, R330). -/
def applyRelease (s : State) (i : Nat) (h : HeldCommand) : State :=
  let e := entryOf s i
  let s1 := if e.handedOff then s else sendClose (sendLog s i) i
  let s2 := freeEntry s1 i
  complete s2 e.tenant.val i h.opcode h.cmd.requestId h.cmd.tag 0 0 0

/-- The command waits at the arbiter (R234). -/
def hold (s : State) (i : Nat) (h : HeldCommand) : State :=
  if 8 ≤ (heldOf s i).length then reject s i h 12 else setHeld s i (heldOf s i ++ [h])

/-! ## The state table of R239 -/

/-- The admission of entry `i`, where it is under way. -/
def admissionOf (s : State) (i : Nat) : Option Admission := tabGet none s.rqt.admissions i

/-- A DONE request recomputes its dropped blocks for a PARK. -/
def parkWaits (s : State) (i : Nat) : Bool :=
  (entryOf s i).state == .done && (match inputOf s i with | some x => x.after == .done | none => false)

/-- The status that ends an APPEND or TRUNCATE of a PARKED request without a restore (R29, R33, R239), as long as no command before it
still waits for one. -/
def parkedRefusal (s : State) (i : Nat) (h : HeldCommand) : Option Nat :=
  if !(heldOf s i).isEmpty then none
  else if h.opcode = 2 then appendRefusal s i h
  else if (entryOf s i).length ≤ h.cmd.count then some 0 else none

/-- APPEND, TRUNCATE and PARK in a state. -/
def runEdit (s : State) (i : Nat) (h : HeldCommand) (apply : State → Nat → HeldCommand → State) : State :=
  match (entryOf s i).state with
  | .admitted | .prefill | .handoffIn => hold s i h
  | .handoffOut => reject s i h 11
  | .decode | .done => apply s i h
  | .dropped => if h.opcode = 5 then reject s i h 9 else apply s i h
  | .parked =>
    if h.opcode = 5 then reject s i h 0
    else
      match parkedRefusal s i h with
      | some st => reject s i h st
      | none =>
        if 8 ≤ (heldOf s i).length then reject s i h 12
        else beginRestore (setHeld s i (heldOf s i ++ [h])) i none
  | .cancelled | .failed | .free => reject s i h 9

/-- CANCEL in a state. In HANDOFF_IN it is held, but it applies while the entry's directory waits for a unit (R634). -/
def runCancel (s : State) (i : Nat) (h : HeldCommand) : State :=
  match (entryOf s i).state with
  | .admitted =>
    match admissionOf s i with
    | some a => if a.closing then hold s i h else cancelAdmission s i a h
    | none => answer (takeCancel s i) i h 0
  | .handoffIn => if (manifestOf s i).directory = 0 then answer (takeCancel s i) i h 0 else hold s i h
  | .handoffOut => reject s i h 11
  | .prefill | .decode | .parked | .dropped => answer (endRestore (takeCancel s i) i 9) i h 0
  | .done | .failed | .free => reject s i h 1
  | .cancelled => reject s i h 0

/-- RELEASE in a state. -/
def runRelease (s : State) (i : Nat) (h : HeldCommand) : State :=
  match (entryOf s i).state with
  | .done | .cancelled | .failed => applyRelease s i h
  | .handoffOut => reject s i h 11
  | _ => reject s i h 9

/-- RESUME in a state. -/
def runResume (s : State) (i : Nat) (h : HeldCommand) : State :=
  match (entryOf s i).state with
  | .parked => applyResume s i h
  | .handoffOut => reject s i h 11
  | _ => reject s i h 9

/-- A command at the arbiter of entry `i` (R239). While a cancelled admission is not complete, the home of an entry taken over has not
answered, or a PARK recomputes blocks, commands wait behind it (R230, R504, R636). -/
def runCommand (s : State) (i : Nat) (h : HeldCommand) : State :=
  let e := entryOf s i
  if h.opcode = 7 then applyQuery s i h
  else if e.state == .done && e.handedOff && h.opcode != 8 then reject s i h 2
  else if roleOf s e.composition.val == .prompt && (h.opcode == 2 || h.opcode == 3 || h.opcode == 5 || h.opcode == 6) then
    reject s i h 6
  else if (e.state == .cancelled && (admissionOf s i).isSome) || tabGet false s.rqt.taken i || parkWaits s i then hold s i h
  else
    match h.opcode with
    | 2 => runEdit s i h applyAppend
    | 3 => runEdit s i h applyTruncate
    | 4 => runCancel s i h
    | 5 => runEdit s i h applyPark
    | 6 => runResume s i h
    | _ => runRelease s i h

/-- One held command: to the entry, or NO_REQUEST where a RELEASE before it freed the entry. -/
def runHeld (s : State) (i t id : Nat) (h : HeldCommand) : State :=
  if (entryOf s i).state != .free && (entryOf s i).requestId == id then runCommand s i h else answerBare s t h 3

/-- The held commands of entry `i` in arrival order; those that the entry's new state holds are held again (R234). -/
def heldPass (s : State) (i : Nat) : State :=
  let e := entryOf s i
  (heldOf s i).foldl (fun u h => runHeld u i e.tenant.val e.requestId h) (setHeld s i [])

/-- The entry is in a state that holds no command. -/
def isSettled (s : State) (i : Nat) : Bool :=
  if tabGet false s.rqt.taken i then false else
  match (entryOf s i).state with
  | .decode | .dropped | .failed | .handoffOut => true
  | .done => !parkWaits s i
  | .cancelled => (admissionOf s i).isNone
  | _ => false

/-- The entry leaves a state: its held commands apply (R234). -/
def applyHeld (s : State) (i : Nat) : State :=
  let s1 := heldPass s i
  if isSettled s1 i && !(heldOf s1 i).isEmpty then heldPass s1 i else s1

/-- Every held command of an entry `i` that was removed completes with a status, and none is applied (R325, R333). -/
def refuseHeld (s : State) (t i : Nat) (hs : List HeldCommand) (status : Nat) : State :=
  hs.foldl (fun u h => complete u t i h.opcode h.cmd.requestId h.cmd.tag status 0 0) s

/-! ## Commands other than ADMIT -/

/-- The fields of a command are allowed (R236, R241). -/
def fieldsOk (op : Nat) (c : HostCommand) : Bool :=
  (if op = 2 then decide (c.cflags < 2) else c.cflags == 0) &&
    (match op with
    | 2 => c.addr % 4 == 0 && decide (c.count ≤ 1048576) && (c.count != 0 || c.cflags.testBit 0)
    | 5 => c.tier == 2 || c.tier == 4
    | 7 => c.addr % 256 == 0
    | _ => true)

/-- The opcode of a command of a row: the row's, unless the OPCODE byte is none that R236 lists. -/
def opcodeOf (op : Nat) (c : HostCommand) : Nat := if 1 ≤ c.opcode ∧ c.opcode ≤ 8 then op else c.opcode

/-- A command as it reaches the part, from the slot at SQ_HEAD. -/
def arriving (s : State) (t op : Nat) (c : HostCommand) (tokens : Option (List Nat)) : HeldCommand :=
  { opcode := opcodeOf op c, cmd := c, tokens := tokens.getD [], sqIndex := (queuesOf s t).sqHead }

/-- A command that names a request: the checks of R239 and R241, then the arbiter. -/
def serveCommand (s : State) (t op : Nat) (c : HostCommand) (tokens : Option (List Nat)) : State :=
  let h := arriving s t op c tokens
  let s1 := readCommand s t
  if h.opcode != op || !fieldsOk op c then answerBare s1 t h 13
  else
    let s2 := if op = 2 then readTokens s1 t c else s1
    if tokens.isNone then answerBare s2 t h 15
    else if c.requestId / 2 ^ 52 != t then answerBare s2 t h 5
    else
      match findRequest s2 c.requestId with
      | none => answerBare s2 t h 3
      | some i =>
        let s3 := runCommand s2 i h
        if isSettled s3 i && !(heldOf s3 i).isEmpty then applyHeld s3 i else s3

/-! ## ADMIT (R241) -/

/-- Where a tenant's share in a composition is kept (R394). -/
def shareKey (c t : Nat) : Nat := 4096 * c + t

/-- The share of tenant `t` in composition `c`. -/
def shareOf (s : State) (c t : Nat) : Option Share := tabGet none s.sch.shares (shareKey c t)

/-- The part is Active in a twin (R493). -/
def isActivePaired (s : State) : Bool := s.twn.role == .active && s.twn.state == .paired

/-- The fields of an ADMIT are allowed (R236). -/
def admitFieldsOk (c : HostCommand) : Bool :=
  c.cflags == 0 && c.addr % 4 == 0 && c.descAddr % 64 == 0 && 1 ≤ c.count && c.count ≤ 1048576 &&
    c.priorityClass % 16 < 8 && c.priorityClass / 16 < 3

/-- The sampling fields of a descriptor are allowed: TEMPERATURE 0 or above, TOP_P above 0 and at most 1, TOP_K at most 262,144
(R226, R237). -/
def samplingOk (d : AdmitDescriptor) : Bool :=
  (d.temperature.toNat ≤ 0x7F800000 || d.temperature.toNat == 0x80000000) && 0 < d.topP.toNat && d.topP.toNat ≤ 0x3F800000 &&
    d.topK ≤ 262144

/-- The durability class of PRIORITY_CLASS (R226). -/
def classOf (p : Nat) : Durability := if p / 16 = 1 then .p else if p / 16 = 2 then .m else .b

/-- Entries that tenant `t` holds. -/
def entriesHeld (s : State) (t : Nat) : Nat := tabCount s.rqt.entries (fun e => e.state != .free && e.tenant.val == t)

/-- A composition accepts an ADMIT of the tenant: PROMPT or GENERATION, its model fixed, and a share held (R25, R389, R395). -/
def acceptsAdmit (s : State) (c t : Nat) : Bool :=
  match compOf s c with
  | some x => (x.role == .prompt || x.role == .generation) && x.fixed.isSome && !x.unbinding && (shareOf s c t).isSome
  | none => false

/-- The route of an ADMIT is whole (R31, R32). -/
def routeOk (s : State) (c : HostCommand) (d : AdmitDescriptor) : Bool :=
  d.home != 0 && (roleOf s c.composition.val != .prompt || d.dest != 0) &&
    (classOf c.priorityClass != .m || isActivePaired s)

/-- The first of the refusals 1 to 9 of R241 that applies. -/
def admitRefusal (s : State) (t : Nat) (c : HostCommand) (tokens : Option (List Nat)) (desc : Option AdmitDescriptor) :
    Option Nat :=
  if opcodeOf 1 c != 1 || !admitFieldsOk c || !(desc.map samplingOk).getD true then some 13
  else
    match desc with
    | none => some 15
    | some d =>
      if tokens.isNone then some 15
      else if !isSet s F.stkObjCtl.stkLock then some 14
      else if c.requestId / 2 ^ 52 != t then some 5
      else if (findRequest s c.requestId).isSome then some 4
      else if getF s (F.rqtTCtl.maxEntries.at t) ≤ entriesHeld s t ||
          65536 ≤ tabCount s.rqt.entries (fun e => e.state != .free) then some 10
      else if !acceptsAdmit s c.composition.val t then some 6
      else if !routeOk s c d then some 7
      else if contextLimit s c.composition.val < c.count then some 8
      else none

/-- The widest tree of a composition (R278). -/
def maxWidth (s : State) (c : Nat) : Nat :=
  match descOf s c with
  | some d => d.treeNodes - 1
  | none => 0

/-- The entry that an accepted ADMIT fills (R226, R228). -/
def admittedEntry (s : State) (t : Tenant) (c : HostCommand) (d : AdmitDescriptor) (unit : Nat) : Entry :=
  { state := .admitted, composition := c.composition, priority := c.priorityClass % 8, durability := classOf c.priorityClass,
    tenant := t, sharingDomain := c.sharingDomain, requestId := c.requestId, inputEnd := c.count, turnLimit := d.turnLimit,
    manifest := unit, deadline := c.deadline, stepBudget := d.stepBudget, ownerEpoch := 1, home := d.home,
    peer := if roleOf s c.composition.val == .prompt then d.dest else 0, admitTag := c.tag, rngState := d.seed,
    temperature := d.temperature, topP := d.topP, topK := d.topK, stopTokens := d.stopTokens,
    draft := { width := maxWidth s c.composition.val }, admitLmc := s.plt.lmc, arbSeq := 1 }

/-- The directory of entry `i`, allocated where a unit is free; otherwise the entry waits for one (R173, R634). -/
def needDirectory (s : State) (i : Nat) : Bool × State :=
  if (manifestOf s i).directory != 0 then (true, s)
  else
    let r := allocUnit s
    match r.1 with
    | some u =>
      (true, modEntry (setManifest r.2 i { manifestOf r.2 i with directory := u }) i (fun e => { e with manifest := u }))
    | none => (false, waitFor r.2 i 32)

/-- The index track of an admission, with the PFX_T_CTL bits of its tenant (R310). -/
def newTrack (s : State) (t blocks : Nat) : PrefixTrack :=
  { records := [], digests := [], hits := 0, remote := 0, blocks := blocks, noInsert := isSet s (F.pfxTCtl.noInsert.at t),
    pinInsert := isSet s (F.pfxTCtl.pinInsert.at t), fine := isSet s (F.pfxTCtl.fine.at t), stopped := false }

/-- An accepted ADMIT: the entry is filled, the directory allocated, OPEN goes to the home and the walk begins. -/
def takeAdmit (s : State) (t : Tenant) (c : HostCommand) (tokens : List Nat) (d : AdmitDescriptor) : State :=
  let r := chooseFree s 0 65536 (fun i => (entryOf s i).state == .free)
  match r.1 with
  | none => s
  | some i =>
    let s1 := setInput (fillEntry r.2 i (admittedEntry s t c d 0)) i (some { tokens := tokens, forced := false, after := .commit })
    let s2 := setTrack (setAdmission (countDenied s1 c.sharingDomain t.val) i (some { tag := c.tag })) i
      (some (newTrack s t.val (tokens.length / 64)))
    let s3 := (needDirectory s2 i).2
    let m := (modelOf s c.composition.val).getD (0, 0)
    sendRst s3 (requestMsg s3 i d.home (.openLedger (classOf c.priorityClass) (sentEntry (entryOf s3 i)) (twinAddr s) m.1 m.2))

/-- Reads the tokens and the descriptor of an ADMIT whose own fields are allowed (R236 to R238). -/
def readAdmit (s : State) (t : Nat) (c : HostCommand) : State :=
  if opcodeOf 1 c = 1 ∧ admitFieldsOk c then readHost (readTokens s t c) t c.descAddr 128 else s

/-- ADMIT (opcode 1). -/
def execHostAdmit (t : Tenant) (c : HostCommand) (tokens : Option (List Nat)) (desc : Option AdmitDescriptor) (s : State) :
    Host.Outcome State Fault Refusal :=
  act s (canRead s t.val) (fun s =>
    let h := arriving s t.val 1 c (some [])
    let s1 := readAdmit (readCommand s t.val) t.val c
    match admitRefusal s1 t.val c tokens desc, tokens, desc with
    | some st, _, _ => answerBare s1 t.val h st
    | none, some ts, some d => takeAdmit s1 t c ts d
    | none, _, _ => answerBare s1 t.val h 15)

/-! ## The end of an admission (R228, R229, R325, R344, R636) -/

/-- A refused admission: its entry is removed, then the ADMIT, a CANCEL and the held commands complete. -/
def refuseAdmission (s : State) (i status : Nat) : State :=
  let e := entryOf s i
  match admissionOf s i with
  | none => s
  | some a =>
    let hs := heldOf s i
    let s1 := complete (freeEntry s i) e.tenant.val i 1 e.requestId a.tag status 0 0
    let s2 := match a.cancel with
      | some g => complete s1 e.tenant.val i 4 e.requestId g 3 0 0
      | none => s1
    refuseHeld s2 e.tenant.val i hs 3

/-- More than 512 positions left to prefill in a GENERATION composition (R25, R228). -/
def isTooLong (s : State) (i : Nat) : Bool :=
  roleOf s (entryOf s i).composition.val == .generation && decide (512 < (inputTokens s i).length)

/-- The admission goes on once the walk and OPENED are done: PREFILL, or CLOSE and WRONG_ROLE. One that a CANCEL or an error has ended
waits for OPENED alone (R636; log entry 88). -/
def endAdmission (s : State) (i : Nat) : State :=
  match admissionOf s i with
  | none => s
  | some a =>
    if !a.opened || a.closing then s
    else
      match a.cancel with
      | some g => applyHeld (endCancelled s i a g) i
      | none =>
        let e := entryOf s i
        if e.state == .failed then applyHeld (complete (setAdmission s i none) e.tenant.val i 1 e.requestId a.tag 0 0 0) i
        else if !a.walkDone || a.query then s
        else if isTooLong s i then sendClose (setAdmission (dropPages s i) i (some { a with closing := true })) i
        else
          let s1 := modEntry (setAdmission s i none) i (fun e => { e with state := .prefill })
          complete s1 e.tenant.val i 1 e.requestId a.tag 0 e.matched 0

/-- The blocks of the prompt that the part matched so far, and what a walk still lacks: none, or a manifest unit. -/
structure WalkEnd where
  matched : Nat
  hits : Nat
  waits : Bool
deriving DecidableEq, Repr

/-- Every page of a record can be shared. -/
def canShareAll (s : State) (layers r : Nat) : Bool :=
  (List.range layers).all (fun l => canShare s (((recOf s r).pages[l]?).getD 0))

/-- A hit that only lacks manifest units keeps the walk waiting (R634). -/
def lacksUnit (s : State) (x : WalkCtx) (tokens : List Nat) (layers i n : Nat) (w : Walked) : Bool :=
  let b := w.records.length
  decide (b < n) &&
    (match findBlock s x w.parent w.digest (blockTokens tokens b) with
    | some (r, _) => canShareAll s layers r && (sharePages i layers s b r).isNone
    | none => false)

/-- The walk of entry `i` over its input tokens, with the fine match of R299. -/
def walkEntry (s : State) (i : Nat) (tokens : List Nat) : WalkEnd × State :=
  let e := entryOf s i
  match openSlot s e.sharingDomain e.tenant.val, descOf s e.composition.val, trackOf s i with
  | some slot, some d, some t =>
    match walkCtx s e.composition.val slot with
    | none => ({ matched := 0, hits := 0, waits := false }, s)
    | some x =>
      let n := tokens.length / 64
      let r := walkFrom x tokens (sharePages i d.layers) n 0 { parent := rootRecord slot } s
      let h := r.1.records.length
      let s1 := setTrack r.2 i (some { t with records := r.1.records, digests := r.1.digests, hits := h })
      let f := if t.fine && decide (h < ceilDiv tokens.length 64) then fineMatch s1 x tokens r.1 else (none, s1)
      match f.1 with
      | some (c, k) =>
        match sharePages i d.layers f.2 h c with
        | some s2 => ({ matched := 64 * h + k, hits := h, waits := false }, s2)
        | none => ({ matched := 64 * h, hits := h, waits := canShareAll f.2 d.layers c }, f.2)
      | none => ({ matched := 64 * h, hits := h, waits := lacksUnit f.2 x tokens d.layers i n r.1 }, f.2)
  | _, _, _ => ({ matched := 0, hits := 0, waits := false }, s)

/-- The first `m` positions of entry `i` are held: LENGTH and the history take them, and the rest stays pending (R229, R356). -/
def takeMatched (s : State) (i m : Nat) : State :=
  match inputOf s i with
  | none => s
  | some x =>
    let n := (entryOf s i).length
    let k := min (m - n) (x.tokens.length - 1)
    let s1 := writeHistory s i n ((x.tokens.take k).map (fun t => { input := true, token := t }))
    let s2 := setInput s1 i (some { x with tokens := x.tokens.drop k })
    modEntry s2 i (fun e => { e with length := n + k, matched := n + k })

/-- The part asks the home's index for the blocks after the last hit (R344). -/
def wantsQuery (s : State) (i hits blocks : Nat) : Bool :=
  let e := entryOf s i
  isSet s F.xfrCtl.remotePrefix && decide (hits < blocks) && (openSlot s e.sharingDomain e.tenant.val).isSome

/-- PFX_QUERY with up to 64 of the remaining blocks. -/
def sendQuery (s : State) (i hits : Nat) (tokens : List Nat) : State :=
  let e := entryOf s i
  let m := (modelOf s e.composition.val).getD (0, 0)
  let pd := ((trackOf s i).bind (fun t => t.digests.getLast?)).getD 0
  let rest := (tokens.take (64 * (tokens.length / 64))).drop (64 * hits)
  sendRst s (requestMsg s i e.home (.pfxQuery e.sharingDomain pd m.1 m.2 (rest.take 4096)))

/-- The walk of an admission ends; it reads under a lease, for which it waits (R180), and it waits for the units that it needs (R634). -/
def walkEnds (s : State) (i : Nat) (a : Admission) : State :=
  let d := needDirectory s i
  if !d.1 then d.2
  else if !canLease d.2 then waitFor d.2 i 33
  else
    let tokens := inputTokens d.2 i
    let r := walkEntry d.2 i tokens
    let hist := needHistory r.2 i r.1.matched
    if r.1.waits || !hist.1 then waitFor { s with stk := { s.stk with manifestPressure := true } } i 32
    else
      let s1 := takeMatched hist.2 i r.1.matched
      if wantsQuery s1 i r.1.hits (tokens.length / 64) then
        sendQuery (setAdmission s1 i (some { a with walkDone := true, query := true })) i r.1.hits tokens
      else endAdmission (setAdmission s1 i (some { a with walkDone := true })) i

/-! ## Inconsistent page records (R191) -/

/-- Entry `i` references a page whose record was found inconsistent, in a state that an error takes to FAILED (R228). -/
def meetsBroken (s : State) (i : Nat) : Bool :=
  (match (entryOf s i).state with
  | .admitted | .prefill | .decode | .parked | .dropped | .handoffIn | .handoffOut => true
  | _ => false) && (manifestGranules (manifestOf s i)).any (fun g => tabGet false s.stk.broken g)

/-- Such a request ends in FAILED: its RESUMEs and its admission complete, and its held commands meet FAILED. -/
def failLive (s : State) (i : Nat) : State := applyHeld (endAdmission (endRestore (failEntry s i 36) i 9) i) i

/-- Every request that references an inconsistent page ends in FAILED. -/
def failBroken (s : State) : State :=
  if s.stk.broken.isEmpty then s else ((s.rqt.entries.map (·.1)).filter (meetsBroken s)).foldl failLive s

/-- A command whose page work may find a record inconsistent: what it finds takes effect at its end. -/
def actPages (s : State) (taken : Bool) (effect : State → State) : Host.Outcome State Fault Refusal :=
  act s taken (fun s => failBroken (effect s))

/-! ## The commands' meanings -/

/-- APPEND (opcode 2). -/
def execAppend (t : Tenant) (c : HostCommand) (tokens : Option (List Nat)) (s : State) : Host.Outcome State Fault Refusal :=
  actPages s (canRead s t.val) (fun s => serveCommand s t.val 2 c tokens)

/-- TRUNCATE (opcode 3). -/
def execTruncate (t : Tenant) (c : HostCommand) (s : State) : Host.Outcome State Fault Refusal :=
  actPages s (canRead s t.val) (fun s => serveCommand s t.val 3 c (some []))

/-- CANCEL (opcode 4). -/
def execCancel (t : Tenant) (c : HostCommand) (s : State) : Host.Outcome State Fault Refusal :=
  actPages s (canRead s t.val) (fun s => serveCommand s t.val 4 c (some []))

/-- PARK (opcode 5). -/
def execPark (t : Tenant) (c : HostCommand) (s : State) : Host.Outcome State Fault Refusal :=
  actPages s (canRead s t.val) (fun s => serveCommand s t.val 5 c (some []))

/-- RESUME (opcode 6). -/
def execResume (t : Tenant) (c : HostCommand) (s : State) : Host.Outcome State Fault Refusal :=
  actPages s (canRead s t.val) (fun s => serveCommand s t.val 6 c (some []))

/-- QUERY (opcode 7). -/
def execQuery (t : Tenant) (c : HostCommand) (s : State) : Host.Outcome State Fault Refusal :=
  actPages s (canRead s t.val) (fun s => serveCommand s t.val 7 c (some []))

/-- RELEASE (opcode 8). -/
def execRelease (t : Tenant) (c : HostCommand) (s : State) : Host.Outcome State Fault Refusal :=
  actPages s (canRead s t.val) (fun s => serveCommand s t.val 8 c (some []))

/-- WALK_DONE: the prefix walk of entry `index` ends. -/
def execWalkDone (index : Nat) (s : State) : Host.Outcome State Fault Refusal :=
  actPages s (runs s && (entryOf s index).state == .admitted && !isWaiting s index) (fun s =>
    match admissionOf s index with
    | some a => if a.walkDone then s else walkEnds s index a
    | none => s)

/-! ## Deadlines and coalescing (R250, R259) -/

/-- A request whose commits DEADLINE bounds. -/
def awaitsCommit (st : ReqState) : Bool :=
  st == .admitted || st == .prefill || st == .handoffOut || st == .handoffIn || st == .decode || st == .parked || st == .dropped

/-- The present DEADLINE of entry `i` has passed unmet and was not told of yet. -/
def deadlinePassed (s : State) (i : Nat) : Bool :=
  let e := entryOf s i
  awaitsCommit e.state && e.deadline != 0 && decide (e.deadline < s.plt.lmc) && !(tabGet false s.rqt.missed i) && lmcRuns s

/-- DEADLINE_MISS: the LMC exceeds the DEADLINE of entry `index` before its next commit. -/
def execDeadlineMiss (index : Nat) (s : State) : Host.Outcome State Fault Refusal :=
  act s (isReady s && deadlinePassed s index) (fun s =>
    let s1 := modEntry s index (fun e => { e with deadlineMissed := true })
    let s2 := { s1 with rqt := { s1.rqt with
      missed := tabPut false s1.rqt.missed index true, missToken := tabPut false s1.rqt.missToken index true,
      missCompletion := tabPut false s1.rqt.missCompletion index true } }
    notify (satF s2 F.rqtStatus.deadlineMisses) F.rqtCtl.notifyEnable F.rqtCtl.vector)

/-- COALESCE_US_EXPIRY: COALESCE_US has passed since the first unsignalled record of tenant `t`. -/
def execCoalesceUsExpiry (t : Tenant) (s : State) : Host.Outcome State Fault Refusal :=
  act s (isReady s && (queuesOf s t.val).unsignalled != 0) (fun s =>
    let s1 := setQueues s t.val { queuesOf s t.val with unsignalled := 0 }
    if isSet s (F.rqtTCtl.intEnable.at t.val) then signal s1 (64 + t.val) else s1)

end Sys2Proof.Machine
end

