-- ==== Sys2Proof/Machine/Operands.lean ====
section
/-! DEFINITION. Element formats and Shade layouts as values: encodings, rounding, saturation, and the exact arithmetic of the fabric
(R67 to R85, R629). -/

namespace Sys2Proof.Machine

open Sys2Proof

/-! ## Exact values -/

/-- A value of an element format, or an exact result on its way to one: `fin neg n d e` is (-1)^neg × n ÷ d × 2^e. -/
inductive Num where
  | nan
  | inf (neg : Bool)
  | fin (neg : Bool) (n d : Nat) (e : Int)
deriving DecidableEq, Repr

/-- A power of two as a natural number; 1 below 2^0. -/
def pow2 (k : Int) : Nat := 2 ^ k.toNat

/-- The floor of the base-2 logarithm of n ÷ d × 2^e, for n above 0. -/
def floorLog2 (n d : Nat) (e : Int) : Int :=
  let l : Int := (Nat.log2 n : Int) - (Nat.log2 d : Int)
  let l1 := if n * pow2 (-l) < d * pow2 l then l - 1 else l
  l1 + e

/-- The exact product; zero times an infinity is a NaN (R81). -/
def Num.mul : Num → Num → Num
  | .nan, _ => .nan
  | _, .nan => .nan
  | .inf s, .inf t => .inf (s != t)
  | .inf s, .fin t n _ _ => if n = 0 then .nan else .inf (s != t)
  | .fin s n _ _, .inf t => if n = 0 then .nan else .inf (s != t)
  | .fin s n d e, .fin t m c f => .fin (s != t) (n * m) (d * c) (e + f)

/-- The exact quotient of a value and a finite one above zero (R74). -/
def Num.div : Num → Num → Num
  | .fin s n d e, .fin t m c f => .fin (s != t) (n * c) (d * m) (e - f)
  | .inf s, .fin t _ _ _ => .inf (s != t)
  | _, _ => .nan

/-- The exact sum (R81): infinities of unlike sign give a NaN, and a sum of zero is +0 but for two negative zeros. -/
def Num.add : Num → Num → Num
  | .nan, _ => .nan
  | _, .nan => .nan
  | .inf s, .inf t => if s = t then .inf s else .nan
  | .inf s, .fin .. => .inf s
  | .fin .., .inf t => .inf t
  | .fin s n d e, .fin t m c f =>
    let g := min e f
    let x : Int := (n * c * pow2 (e - g) : Nat)
    let y : Int := (m * d * pow2 (f - g) : Nat)
    let z := (if s then -x else x) + (if t then -y else y)
    if z = 0 then .fin (if n = 0 ∧ m = 0 then s && t else false) 0 1 0 else .fin (decide (z < 0)) z.natAbs (d * c) g

/-- The magnitude. -/
def Num.abs : Num → Num
  | .fin _ n d e => .fin false n d e
  | .inf _ => .inf false
  | .nan => .nan

/-- The first value is the smaller, for values that are no NaN. -/
def Num.lt : Num → Num → Bool
  | .fin s n d e, .fin t m c f =>
    let g := min e f
    let x : Int := (n * c * pow2 (e - g) : Nat)
    let y : Int := (m * d * pow2 (f - g) : Nat)
    decide ((if s then -x else x) < (if t then -y else y))
  | .inf s, .inf t => s && !t
  | .inf s, .fin .. => s
  | .fin .., .inf t => !t
  | _, _ => false

/-! ## Encodings (R67) -/

/-- Exponent bits, mantissa bits, bias and the code of the largest finite magnitude of a floating format. -/
structure FloatSpec where
  expBits : Nat
  manBits : Nat
  bias : Int
  largest : Nat
  infinity : Option Nat
  nan : Option Nat
deriving DecidableEq, Repr

/-- The floating formats with a sign; `infinity` is the code of the infinity that a format has, `nan` its canonical NaN
(R67, R68). -/
def floatSpec : Format → Option FloatSpec
  | .fp32 => some ⟨8, 23, 127, 0x7F7FFFFF, some 0x7F800000, some 0x7FC00000⟩
  | .bf16 => some ⟨8, 7, 127, 0x7F7F, some 0x7F80, some 0x7FC0⟩
  | .fp16 => some ⟨5, 10, 15, 0x7BFF, some 0x7C00, some 0x7E00⟩
  | .e4m3 => some ⟨4, 3, 7, 0x7E, none, some 0x7F⟩
  | .e5m2 => some ⟨5, 2, 15, 0x7B, some 0x7C, some 0x7E⟩
  | .e3m2 => some ⟨3, 2, 3, 0x1F, none, none⟩
  | .e2m3 => some ⟨2, 3, 1, 0x1F, none, none⟩
  | .e2m1 => some ⟨2, 1, 1, 7, none, none⟩
  | .int8 | .int4 | .e8m0 => none

/-- Bits of an element. -/
def formatWidth : Format → Nat
  | .fp32 => 32 | .bf16 | .fp16 => 16 | .e4m3 | .e5m2 | .int8 | .e8m0 => 8 | .e3m2 | .e2m3 => 6 | .e2m1 | .int4 => 4

/-- The value of a floating code. -/
def floatValue (f : FloatSpec) (code : Nat) : Num :=
  let w := f.expBits + f.manBits
  let neg := code.testBit w
  let mag := code % 2 ^ w
  if some mag = f.infinity then .inf neg
  else if f.largest < mag then .nan
  else
    let x := mag / 2 ^ f.manBits
    let m := mag % 2 ^ f.manBits
    if x = 0 then .fin neg m 1 (1 - f.bias - (f.manBits : Int))
    else .fin neg (2 ^ f.manBits + m) 1 ((x : Int) - f.bias - (f.manBits : Int))

/-- The value of a code of a format. -/
def valueOf (f : Format) (code : Nat) : Num :=
  match floatSpec f with
  | some sp => floatValue sp code
  | none =>
    match f with
    | .int8 => let c := code % 256; if 128 ≤ c then .fin true (256 - c) 1 0 else .fin false c 1 0
    | .int4 => let c := code % 16; if 8 ≤ c then .fin true (16 - c) 1 0 else .fin false c 1 0
    | _ => let c := code % 256; if c = 255 then .nan else .fin false 1 1 ((c : Int) - 127)

/-! ## Rounding (R75) -/

/-- How a conversion rounds: to nearest with ties to even, or stochastically with 16 random bits. -/
inductive Rounding where
  | nearest
  | stochastic (bits : Nat)
deriving DecidableEq, Repr

/-- n ÷ d as an integer under a rounding. -/
def roundQuotient (r : Rounding) (n d : Nat) : Nat :=
  match r with
  | .nearest =>
    let q := n / d
    let t := 2 * (n % d)
    if d < t ∨ (t = d ∧ q % 2 = 1) then q + 1 else q
  | .stochastic u => (n * 65536 + (u % 65536) * d) / (d * 65536)

/-- n ÷ d × 2^e in units of 2^q, rounded. -/
def roundAt (r : Rounding) (n d : Nat) (e q : Int) : Nat := roundQuotient r (n * pow2 (e - q)) (d * pow2 (q - e))

/-- The sticky flags that an operation sets (R80). -/
structure Sticky where
  saturated : Bool := false
  nanLost : Bool := false
  nanScale : Bool := false
  accOverflow : Bool := false
deriving DecidableEq, Repr

/-- Both sets of flags. -/
def Sticky.or (a b : Sticky) : Sticky :=
  { saturated := a.saturated || b.saturated, nanLost := a.nanLost || b.nanLost, nanScale := a.nanScale || b.nanScale,
    accOverflow := a.accOverflow || b.accOverflow }

/-- A format that saturates (R77). -/
def saturates : Format → Bool
  | .fp32 | .bf16 | .fp16 => false
  | _ => true

/-- Conversion into a floating format (R75, R77, R78, R79). -/
def toFloat (f : Format) (sp : FloatSpec) (r : Rounding) (x : Num) : Nat × Sticky :=
  let sign (neg : Bool) : Nat := if neg then 2 ^ (sp.expBits + sp.manBits) else 0
  let overBound (neg : Bool) : Nat × Sticky :=
    if saturates f then (sign neg + sp.largest, { saturated := true }) else (sign neg + sp.infinity.getD sp.largest, {})
  match x with
  | .nan =>
    match sp.nan with
    | some c => (c, {})
    | none => (0, { nanLost := true })
  | .inf neg => overBound neg
  | .fin neg n d e =>
    if n = 0 then (sign neg, {})
    else
      let q := max (floorLog2 n d e) (1 - sp.bias) - (sp.manBits : Int)
      let k := roundAt r n d e q
      let code := if k < 2 ^ sp.manBits then k
        else (q + (sp.manBits : Int) + sp.bias).toNat * 2 ^ sp.manBits + (k - 2 ^ sp.manBits)
      if sp.largest < code then overBound neg else (sign neg + code, {})

/-- Conversion into an integer format of `w` bits (R75, R77, R78). -/
def toInt (w : Nat) (r : Rounding) (x : Num) : Nat × Sticky :=
  let top := 2 ^ (w - 1)
  match x with
  | .nan => (0, { nanLost := true })
  | .inf neg => (if neg then top else top - 1, { saturated := true })
  | .fin neg n d e =>
    let k := roundAt r n d e 0
    if neg then (if top < k then (top, { saturated := true }) else ((2 ^ w - k) % 2 ^ w, {}))
    else if top ≤ k then (top - 1, { saturated := true }) else (k, {})

/-- Conversion into E8M0 (R629): toward zero, of the magnitude. -/
def toE8m0 (x : Num) : Nat × Sticky :=
  match x with
  | .nan => (255, {})
  | .inf _ => (254, { saturated := true })
  | .fin _ n d e =>
    if n = 0 then (0, {})
    else
      let l := floorLog2 n d e
      if l < -127 then (0, {}) else if 127 < l then (254, { saturated := true }) else ((l + 127).toNat, {})

/-- Conversion into a format. -/
def convertNum (f : Format) (r : Rounding) (x : Num) : Nat × Sticky :=
  match floatSpec f with
  | some sp => toFloat f sp r x
  | none =>
    match f with
    | .int8 => toInt 8 r x
    | .int4 => toInt 4 r x
    | _ => toE8m0 x

/-! ## FP32 results (R81, R82, R85) -/

/-- The value of an FP32 word. -/
def fp32Value (w : BitVec 32) : Num := valueOf .fp32 w.toNat

/-- A value is finite. -/
def Num.isFinite : Num → Bool
  | .fin .. => true
  | _ => false

/-- An exact result rounded once to FP32; ACC_OVERFLOW where it became infinite from finite operands. -/
def toFp32 (finite : Bool) (x : Num) : BitVec 32 × Sticky :=
  let c := (convertNum .fp32 .nearest x).1
  (BitVec.ofNat 32 c, { accOverflow := finite && c % 2 ^ 31 == 0x7F800000 })

/-- One FP32 addition. -/
def fp32Add (a b : BitVec 32) : BitVec 32 × Sticky :=
  toFp32 ((fp32Value a).isFinite && (fp32Value b).isFinite) ((fp32Value a).add (fp32Value b))

/-- A value added to an accumulator with one rounding (R81). -/
def accumulate (acc : BitVec 32) (x : Num) : BitVec 32 × Sticky :=
  toFp32 ((fp32Value acc).isFinite && x.isFinite) ((fp32Value acc).add x)

/-- Products of element codes added one after another (R81, R82). -/
def accumulateAll (a b : Format) : List (Nat × Nat) → BitVec 32 → BitVec 32 × Sticky
  | [], acc => (acc, {})
  | p :: ps, acc =>
    let r := accumulate acc ((valueOf a p.1).mul (valueOf b p.2))
    let t := accumulateAll a b ps r.1
    (t.1, r.2.or t.2)

/-- FP32 fused multiply-add, rounded once (R85). -/
def fp32Fma (a b c : BitVec 32) : BitVec 32 × Sticky :=
  toFp32 ((fp32Value a).isFinite && (fp32Value b).isFinite && (fp32Value c).isFinite)
    (((fp32Value a).mul (fp32Value b)).add (fp32Value c))

/-- The canonical FP32 NaN (R68). -/
def fp32Nan : BitVec 32 := 0x7FC00000

/-- An FP32 word with every NaN made the canonical one (R68). -/
def canonical32 (w : BitVec 32) : BitVec 32 := if fp32Value w == .nan then fp32Nan else w

/-- IEEE 754 leaves the choice of a minimum or maximum open: one operand is a NaN, or both are zeros of unlike sign (log entry
17). -/
def minMaxOpen (a b : BitVec 32) : Bool :=
  fp32Value a == .nan || fp32Value b == .nan || (a.toNat % 2 ^ 31 == 0 && b.toNat % 2 ^ 31 == 0 && a != b)

/-- The smaller or the larger FP32 value; where the choice is open, one of the two operands, a NaN as the canonical one. -/
def fp32MinMax (larger : Bool) (a b : BitVec 32) : BitVec 32 :=
  if minMaxOpen a b then canonical32 (if Config.minMaxFirst larger a b then a else b)
  else if (fp32Value a).lt (fp32Value b) == larger then b else a

/-- The outcome of a comparison: 0 less, 1 equal, 2 greater, 3 unordered. -/
def compareOutcome (a b : BitVec 32) : Nat :=
  if fp32Value a == .nan || fp32Value b == .nan then 3
  else if (fp32Value a).lt (fp32Value b) then 0
  else if (fp32Value b).lt (fp32Value a) then 2 else 1

/-- A vector operation on two FP32 values. -/
def vectorOp (op : VectorOp) (a b : BitVec 32) : BitVec 32 × Sticky :=
  match op with
  | .add => fp32Add a b
  | .multiply => toFp32 ((fp32Value a).isFinite && (fp32Value b).isFinite) ((fp32Value a).mul (fp32Value b))
  | .min => (fp32MinMax false a b, {})
  | .max => (fp32MinMax true a b, {})
  | .compare => (canonical32 (Config.compareWord (compareOutcome a b)), {})

/-- A select: one of two values by the word of a comparison. -/
def fp32Select (c a b : BitVec 32) : BitVec 32 := canonical32 (if Config.selectsFirst c then a else b)

/-- One level of the pairwise tree of a reduction over lanes (R85; log entry 17). -/
def pairUp (f : BitVec 32 → BitVec 32 → BitVec 32 × Sticky) : List (BitVec 32) → List (BitVec 32) × Sticky
  | a :: b :: l =>
    let r := f a b
    let t := pairUp f l
    (r.1 :: t.1, r.2.or t.2)
  | l => (l, {})

/-- The sum or maximum across up to 32 lanes (R85). -/
def reduceLanes (f : BitVec 32 → BitVec 32 → BitVec 32 × Sticky) : Nat → List (BitVec 32) → BitVec 32 × Sticky
  | 0, l => ((l.head?).getD 0, {})
  | k + 1, l =>
    let r := pairUp f l
    let t := reduceLanes f k r.1
    (t.1, r.2.or t.2)

/-! ## Shade (R70 to R74) -/

/-- The element format of a layout. -/
def shadeFormat : Shade → Format
  | .shade4 => .int4 | .shade6e3m2 => .e3m2 | .shade6e2m3 => .e2m3 | .shade8 => .e4m3

/-- The scale format of a layout. -/
def scaleFormat : Shade → Format
  | .shade8 => .e8m0
  | _ => .e4m3

/-- The element bytes of a block. -/
def blockBytesOf (l : Shade) : Nat := 4 * formatWidth (shadeFormat l)

/-- What a scale byte reads as (R73). -/
def scaleValue (l : Shade) (c : Nat) : Num :=
  match l with
  | .shade8 => valueOf .e8m0 c
  | _ => valueOf .e4m3 (c % 128)

/-- Codes of `w` bits packed into bytes, the first in the lowest bits (R71). -/
def packCodes (w : Nat) (cs : List Nat) : List Byte :=
  leBytes ((w * cs.length + 7) / 8) ((cs.zipIdx.map (fun c => (c.1 % 2 ^ w) * 2 ^ (w * c.2))).sum)

/-- `n` codes of `w` bits from bytes. -/
def unpackCodes (w n : Nat) (bs : List Byte) : List Nat :=
  let v := leNat bs
  (List.range n).map (fun i => v / 2 ^ (w * i) % 2 ^ w)

/-- The element value times its scale (R70, R73): zeros under a zero scale, NaN under a NaN. -/
def scaled (scale x : Num) : Num :=
  match scale with
  | .nan => .nan
  | .fin _ 0 _ _ => .fin false 0 1 0
  | s => x.mul s

/-- The blocks of a Shade row: the element codes and the scale byte of each (R71). -/
def rowBlocks (l : Shade) (row : List Byte) : List (List Nat × Nat) :=
  let b := blockBytesOf l
  let k := row.length / (b + 1)
  (List.range k).map (fun i =>
    (unpackCodes (formatWidth (shadeFormat l)) 32 ((row.drop (i * b)).take b), ((row[k * b + i]?).getD 0).toNat))

/-- The values of a Shade row. -/
def rowValues (l : Shade) (row : List Byte) : List Num :=
  ((rowBlocks l row).map (fun b => b.1.map (fun c => scaled (scaleValue l b.2) (valueOf (shadeFormat l) c)))).flatten

/-- The largest magnitude of some values; `nan` where one of them is. -/
def largestMagnitude (xs : List Num) : Num :=
  xs.foldl (fun m x =>
    match m, x with
    | .nan, _ => .nan
    | _, .nan => .nan
    | m, x => if m.lt x.abs then x.abs else m) (.fin false 0 1 0)

/-- The divisor q of R74, as a fraction. -/
def shadeTop : Shade → Num
  | .shade4 => .fin false 7 1 0
  | .shade6e3m2 => .fin false 28 1 0
  | _ => .fin false 15 2 0

/-- The E4M3 scale at or above a value (R74): at least 2^-9, at most 448. -/
def scaleUp (x : Num) : Nat :=
  match x with
  | .fin _ n d e =>
    if n = 0 then 0
    else
      let q := max (floorLog2 n d e) (-6) - 3
      let k := (n * pow2 (e - q) + d * pow2 (q - e) - 1) / (d * pow2 (q - e))
      min 0x7E (if k < 8 then k else (q + 3 + 7).toNat * 8 + (k - 8))
  | _ => 0x7E

/-- The scale byte of a block (R74). -/
def scaleOf (l : Shade) (a : Num) : Nat :=
  match l with
  | .shade8 =>
    match a with
    | .fin _ n d e => if n = 0 then 0 else (max (-127) (min 127 (floorLog2 n d e - 8)) + 127).toNat
    | _ => 254
  | l => scaleUp (a.div (shadeTop l))

/-- Quantises 32 values, with a rounding for each (R74): the element codes, the scale byte and the flags. A block of zeros has scale 0 in
Shade-4 and Shade-6; its quotients are 0 over 0, and each element is written as code 0 (DESIGN CHOICE, log entry 76). -/
def quantiseBlock (l : Shade) (rs : List Rounding) (xs : List Num) : List Nat × Nat × Sticky :=
  match largestMagnitude xs with
  | .nan => (List.replicate 32 0, (if l == .shade8 then 255 else 127), { nanScale := true })
  | a =>
    let c := scaleOf l a
    let es := (xs.zip rs).map (fun x =>
      match scaleValue l c with
      | .fin _ 0 _ _ => (0, ({} : Sticky))
      | s => convertNum (shadeFormat l) x.2 (x.1.div s))
    (es.map (·.1), c, es.foldl (fun f e => f.or e.2) {})

/-! ## Block products (R63, R64, R83) -/

/-- The narrow formats of eight and six bits (R63). -/
def isByteFormat : Format → Bool
  | .e4m3 | .e5m2 | .e3m2 | .e2m3 | .int8 => true
  | _ => false

/-- The formats of four bits (R63). -/
def isNibbleFormat : Format → Bool
  | .e2m1 | .int4 => true
  | _ => false

/-- The array takes the operand pair, in either order (R63, R64). -/
def pairTaken (a b : Format) : Bool :=
  ((isByteFormat a || isNibbleFormat a) && (isByteFormat b || isNibbleFormat b)) || (a == .bf16 && b == .bf16) ||
    (a == .fp16 && b == .fp16)

/-- The element format of an operand of a block product. -/
def operandFormat : DotOperand → Format
  | .shade l _ => shadeFormat l
  | .plain f _ => f

/-- An operand of a block product as blocks of 32 exact values with a scale. -/
def dotBlocks : DotOperand → List (List Num × Num)
  | .shade l row => (rowBlocks l row).map (fun b => (b.1.map (valueOf (shadeFormat l)), scaleValue l b.2))
  | .plain f vs =>
    (List.range ((vs.length + 31) / 32)).map (fun i => (((vs.drop (32 * i)).take 32).map (valueOf f), .fin false 1 1 0))

/-- The exact sum of the element products of a block pair; a sum of no value but zeros is +0 (DESIGN CHOICE, log entry 76). -/
def blockSum (a b : List Num) : Num := (List.zipWith Num.mul a b).foldl Num.add (.fin false 0 1 0)

/-- A block as the array takes it: under a zero scale its elements are +0, and under a NaN scale NaN (R73). -/
def asRead (b : List Num × Num) : List Num × Num :=
  match b.2 with
  | .nan => (b.1.map (fun _ => .nan), .fin false 1 1 0)
  | .fin _ 0 _ _ => (b.1.map (fun _ => .fin false 0 1 0), .fin false 1 1 0)
  | _ => b

/-- The sum of the element products of a block pair times the two scales (R83). -/
def scaledSum (a b : List Num × Num) : Num :=
  ((blockSum (asRead a).1 (asRead b).1).mul (asRead a).2).mul (asRead b).2

/-- Block pairs added one after another: each is rounded once to FP32 and added (R83). -/
def dotAll : List (List Num × Num) → List (List Num × Num) → BitVec 32 → BitVec 32 × Sticky
  | a :: as, b :: bs, acc =>
    let p := scaledSum a b
    let r := toFp32 p.isFinite p
    let t := fp32Add acc r.1
    let u := dotAll as bs t.1
    (u.1, (r.2.or t.2).or u.2)
  | _, _, acc => (acc, {})

end Sys2Proof.Machine
end

