-- ==== Sys2Proof/Machine/Functions.lean ====
section
/-! DEFINITION. The functions of the vector lanes and of the stack cores: exp2 and the reciprocal within the limits of R87, the rotary
phase pair within that of R88, and the evaluation of a function table (R85 to R88, R203, R209). Where a rule states a limit
and no value, the value is a free one that is put within the limit. -/

namespace Sys2Proof.Machine

open Sys2Proof

/-! ## exp2 and the reciprocal (R87; log entry 75) -/

/-- `w` where it is a magnitude within `k` units in the last place of `r`, and else `r`; both are FP32 magnitudes. -/
def within (k r w : Nat) : Nat := if w ≤ r + k ∧ r ≤ w + k ∧ w ≤ 0x7F800000 then w else r

/-- The terms of the exponential series of `z` from term `k` on, in units of 2^-64: `t` is the term before it. -/
def expTerms (z : Nat) : Nat → Nat → Nat → Nat
  | 0, _, _ => 0
  | fuel + 1, k, t => t * z / (2 ^ 64 * k) + expTerms z fuel (k + 1) (t * z / (2 ^ 64 * k))

/-- 2 to the power `f` over 2^64, for `f` below 2^64, in units of 2^-64. -/
def exp2Fraction (f : Nat) : Nat := 2 ^ 64 + expTerms (f * 12786308645202655660 / 2 ^ 64) 24 1 (2 ^ 64)

/-- x × 2^64 as an integer, rounded down. -/
def fixed64 (neg : Bool) (n d : Nat) (e : Int) : Int :=
  let q := n * pow2 (e + 64) / (d * pow2 (-(e + 64)))
  let r := n * pow2 (e + 64) % (d * pow2 (-(e + 64)))
  if neg then -((q : Int) + (if r = 0 then 0 else 1)) else q

/-- 2 to an FP32 power, rounded to nearest: +infinity above the overflow point and +0 below the underflow point. -/
def exp2Nearest (x : BitVec 32) : Nat :=
  match fp32Value x with
  | .nan => fp32Nan.toNat
  | .inf neg => if neg then 0 else 0x7F800000
  | .fin neg n d e =>
    let v := fixed64 neg n d (min e 80)
    if 2 ^ 71 ≤ v then 0x7F800000
    else if v < -(2 ^ 72) then 0
    else (convertNum .fp32 .nearest (.fin false (exp2Fraction (v % 2 ^ 64).toNat) 1 (v / 2 ^ 64 - 64))).1

/-- exp2 by its table: within 2 units in the last place, and exact where the result is +0, +infinity or a NaN (R87). -/
def stackExp2 (x : BitVec 32) : BitVec 32 :=
  let r := exp2Nearest x
  if r = 0 ∨ 0x7F800000 ≤ r then BitVec.ofNat 32 r else BitVec.ofNat 32 (within 2 r (Config.stackExp2 x).toNat)

/-- The reciprocal by its table: within 1 unit in the last place, ±infinity at ±0 (R87). -/
def stackReciprocal (x : BitVec 32) : BitVec 32 :=
  match fp32Value x with
  | .nan => fp32Nan
  | .inf neg => BitVec.ofNat 32 (if neg then 2 ^ 31 else 0)
  | .fin neg n d e =>
    let sign := if neg then 2 ^ 31 else 0
    if n = 0 then BitVec.ofNat 32 (sign + 0x7F800000)
    else
      let r := (convertNum .fp32 .nearest (.fin false d n (-e))).1
      BitVec.ofNat 32 (sign + (if 0x7F800000 ≤ r then r else within 1 r ((Config.stackReciprocal x).toNat % 2 ^ 31)))

/-! ## The rotary phase pair (R88; log entry 75) -/

/-- 1 over 2 pi, in units of 2^-384. -/
def invTwoPi : Nat :=
  0x28be60db9391054a7f09d5f47d4d377036d8a5664f10e4107f9458eaf7aef1586dc91b8e909374b801924bba82746487

/-- The phase of a position and a frequency in radians for each position, in turns of 2^-64: the product is not rounded to FP32. -/
def rotaryPhase (position : Nat) (frequency : BitVec 32) : BitVec 64 :=
  match fp32Value frequency with
  | .fin neg n d e =>
    let p := position * n * invTwoPi * pow2 (e - 320) / (d * pow2 (320 - e))
    if neg then -(BitVec.ofNat 64 p) else BitVec.ofNat 64 p
  | _ => 0

/-- The terms of the alternating series of sine or cosine of `a` from term `k` on, in units of 2^-60. -/
def circleTerms (a : Nat) : Nat → Nat → Int → Int
  | 0, _, _ => 0
  | fuel + 1, k, t =>
    let u := -(t * a * a) / (2 ^ 120 * k * (k + 1) : Nat)
    u + circleTerms a fuel (k + 2) u

/-- Sine and cosine of `r` over 2^62 of a quarter turn, in units of 2^-60. -/
def quarterSine (r : Nat) : Int :=
  let a := r * 1811004864519280711 / 2 ^ 62
  a + circleTerms a 14 2 a
def quarterCosine (r : Nat) : Int := 2 ^ 60 + circleTerms (r * 1811004864519280711 / 2 ^ 62) 14 1 (2 ^ 60)

/-- Sine of a phase, in units of 2^-60. -/
def phaseSine (p : BitVec 64) : Int :=
  let r := p.toNat % 2 ^ 62
  match p.toNat / 2 ^ 62 with
  | 0 => quarterSine r
  | 1 => quarterCosine r
  | 2 => -quarterSine r
  | _ => -quarterCosine r

/-- Cosine of a phase, in units of 2^-60. -/
def phaseCosine (p : BitVec 64) : Int := phaseSine (p + BitVec.ofNat 64 (2 ^ 62))

/-- `v` over 2^60 as a value. -/
def sixtieth (v : Int) : Num := .fin (decide (v < 0)) v.natAbs 1 (-60)

/-- The free word where it is within 2^-21 of `v` over 2^60, and else the FP32 value nearest to that. -/
def nearSixtieth (v : Int) (w : BitVec 32) : BitVec 32 :=
  match (fp32Value w).add (sixtieth (-v)) with
  | .fin _ n d e => if (Num.fin false 1 1 (-21)).lt (.fin false n d e) then (toFp32 true (sixtieth v)).1 else w
  | _ => (toFp32 true (sixtieth v)).1

/-- Sine and cosine of a rotary phase: the limit of R88 holds up to position 1,048,576. -/
def rotaryPair (position : Nat) (frequency : BitVec 32) : BitVec 32 × BitVec 32 :=
  let p := rotaryPhase position frequency
  if !(fp32Value frequency).isFinite then (fp32Nan, fp32Nan)
  else if position ≤ 1048576 then
    (nearSixtieth (phaseSine p) (Config.sine position p), nearSixtieth (phaseCosine p) (Config.cosine position p))
  else (canonical32 (Config.sine position p), canonical32 (Config.cosine position p))

/-! ## Function tables (R86; log entry 74) -/

/-- An FP32 value put between two others. -/
def clamp32 (low high x : BitVec 32) : BitVec 32 := fp32MinMax false high (fp32MinMax true low x)

/-- The reduced argument of a table function: clamped under 0, without its sign under 3 and 4. -/
def reduceArgument (body : List Byte) (table reduction : Nat) (x : BitVec 32) : BitVec 32 :=
  match reduction with
  | 0 => clamp32 (Config.tableLow body table) (Config.tableHigh body table) x
  | 3 | 4 => x &&& 0x7FFFFFFF#32
  | _ => x

/-- c0 + c1 t + c2 t², by two fused multiply-adds (R85, R86). -/
def segmentValue (c0 c1 c2 t : BitVec 32) : BitVec 32 × Sticky :=
  let h := fp32Fma c2 t c1
  let r := fp32Fma h.1 t c0
  (r.1, h.2.or r.2)

/-- A table function of a finite value: `coef k` gives coefficient `k` of the table, three for each of its 256 segments. -/
def tableValue (coef : Nat → BitVec 32) (body : List Byte) (table : Nat) (x : BitVec 32) : BitVec 32 :=
  let reduction := Config.tableReduction body table % 5
  let y := reduceArgument body table reduction x
  let g := Config.tableSegment reduction y % 256
  let v := (segmentValue (coef (3 * g)) (coef (3 * g + 1)) (coef (3 * g + 2)) (Config.tablePlace reduction y)).1
  match reduction with
  | 1 | 2 => Config.tableScale reduction x v
  | 3 => if x.getLsbD 31 then v ^^^ 0x80000000#32 else v
  | _ => v

/-- A table function with its flag: every NaN is the canonical one (R68), and an infinite result of a finite value sets ACC_OVERFLOW
(R80). -/
def tableResult (coef : Nat → BitVec 32) (body : List Byte) (table : Nat) (x : BitVec 32) : BitVec 32 × Sticky :=
  let r := if fp32Value x == .nan then fp32Nan else canonical32 (tableValue coef body table x)
  (r, { accOverflow := (fp32Value x).isFinite && r.toNat % 2 ^ 31 == 0x7F800000 })

end Sys2Proof.Machine
end

