-- ==== Sys2Proof/Machine/Attention.lean ====
section
/-! DEFINITION. The arithmetic of a stack-core pass and of the merge of partial results, with the masks of a query row
(R202, R203, R206 to R209). -/

namespace Sys2Proof.Machine

open Sys2Proof

/-! ## FP32 steps -/

/-- FP32 results of one operation. -/
def fAdd (a b : BitVec 32) : BitVec 32 := (fp32Add a b).1
def fMul (a b : BitVec 32) : BitVec 32 := (vectorOp .multiply a b).1
def fMax (a b : BitVec 32) : BitVec 32 := fp32MinMax true a b

/-- FP32 -infinity and the FP32 nearest log2 e. -/
def fNegInf : BitVec 32 := 0xFF800000
def fLog2e : BitVec 32 := 0x3FB8AA3B

/-- The value with its sign turned. -/
def fNeg (a : BitVec 32) : BitVec 32 := a ^^^ 0x80000000

/-- exp2((x - mx) × log2 e); 0 where x is -infinity. -/
def fExp (x mx : BitVec 32) : BitVec 32 := if x = fNegInf then 0 else stackExp2 (fMul (fAdd x (fNeg mx)) fLog2e)

/-- An FP32 value rounded once to BF16, ties to even, as an FP32 word. -/
def toBf16 (x : BitVec 32) : BitVec 32 := BitVec.ofNat 32 ((convertNum .bf16 .nearest (fp32Value x)).1 * 65536)

/-! ## Rows of a page (R203) -/

/-- The layout of a KV format; none is BF16 (R100). -/
def kvShade (f : Nat) : Option Shade :=
  match f with
  | 0 => some .shade4
  | 1 => some .shade6e3m2
  | 2 => some .shade6e2m3
  | 3 => some .shade8
  | _ => none

/-- BF16 codes of bytes. -/
def bf16Codes (bs : List Byte) : List Nat := unpackCodes 16 (bs.length / 2) bs

/-- A key row as an operand of a block product. -/
def keyOperand (f : Nat) (row : List Byte) : DotOperand :=
  match kvShade f with
  | some l => .shade l row
  | none => .plain .bf16 (bf16Codes row)

/-- The exact elements of a value row. -/
def valueElements (f : Nat) (row : List Byte) : List Num :=
  match kvShade f with
  | some l => rowValues l row
  | none => (bf16Codes row).map (valueOf .bf16)

/-- A position that a query row attends: its score with the flags of its sums, and its value elements. -/
structure Seen where
  score : BitVec 32
  flags : Sticky
  values : List Num
deriving DecidableEq, Repr

/-- What a query row has of a key and a value row: the score is the dot product of R83 times SCALE. -/
def seenRow (f : Nat) (scale : BitVec 32) (q : List (BitVec 16)) (key value : List Byte) : Seen :=
  let r := dotAll (dotBlocks (.plain .bf16 (q.map (·.toNat)))) (dotBlocks (keyOperand f key)) 0
  let x := vectorOp .multiply scale r.1
  { score := x.1, flags := r.2.or x.2, values := valueElements f value }

/-! ## Running statistics (R202, R210) -/

/-- m, l and o of a query row, and the flags of the FP32 results on the way, which count where a region forms them (R80). -/
structure Stat where
  m : BitVec 32
  l : BitVec 32
  o : List (BitVec 32)
  flags : Sticky
deriving DecidableEq, Repr

/-- Before the first page. -/
def statStart (d : Nat) : Stat := { m := fNegInf, l := 0, o := List.replicate d 0, flags := {} }

/-- Every flag of a list of results. -/
def allFlags (rs : List (BitVec 32 × Sticky)) : Sticky := rs.foldl (fun f r => f.or r.2) {}

/-- A value added to a flagged sum. -/
def flaggedAdd (r : BitVec 32 × Sticky) (x : BitVec 32) : BitVec 32 × Sticky :=
  let t := fp32Add r.1 x
  (t.1, r.2.or t.2)

/-- An exact product added to a flagged accumulator. -/
def flaggedAcc (w : BitVec 32) (r : BitVec 32 × Sticky) (v : Num) : BitVec 32 × Sticky :=
  let t := accumulate r.1 ((fp32Value w).mul v)
  (t.1, r.2.or t.2)

/-- One page: `xs` gives the positions that the row may attend, in ascending order. -/
def statPage (s : Stat) (xs : List Seen) : Stat :=
  let mx := xs.foldl (fun m x => fMax m x.score) s.m
  let seen := xs.foldl (fun f x => f.or x.flags) s.flags
  if mx = fNegInf then { s with flags := seen }
  else
    let a := fExp s.m mx
    let ps := xs.map (fun x => (toBf16 (fExp x.score mx), x.values))
    let l := ps.foldl (fun l p => flaggedAdd l p.1) (vectorOp .multiply s.l a)
    let o := ps.foldl (fun o p => List.zipWith (flaggedAcc p.1) o p.2) (s.o.map (fun x => vectorOp .multiply x a))
    { m := mx, l := l.1, o := o.map (·.1), flags := (seen.or l.2).or (allFlags o) }

/-! ## Masks (R206) -/

/-- The window of a layer lets position `i` attend position `t`; WINDOW 0 is no window. -/
def inWindow (w i t : Nat) : Bool := w == 0 || decide (i + 1 ≤ t + w)

/-- The positions of page `x` with their rows: committed ones below `n`, and the step rows, the node of which stands beside its
position. A step row lies at row FILL + node of the tail, so at the place of position n + node. -/
def pageRows (n x : Nat) (stepRows : List (Nat × Nat)) : List (Nat × Nat × Option Nat) :=
  ((List.range 64).filter (fun i => decide (64 * x + i < n))).map (fun i => (64 * x + i, i, none)) ++
    (stepRows.filter (fun r => (n + r.1) / 64 == x)).map (fun r => (r.2, (n + r.1) % 64, some r.1))

/-- The row may attend a position: a committed one inside its window, a step row of its ancestor map inside it. -/
def mayAttend (w : Nat) (r : PassRow) (t : Nat) (node : Option Nat) : Bool :=
  inWindow w r.position t &&
    (match node with
    | none => true
    | some k => r.mask.getLsbD k)

/-! ## A pass (R202) -/

/-- A row of KV memory: head `h`, kind `v`, row index `i` of the page at granule `g`. -/
def kvRow (s : State) (d : ModelDescriptor) (g h v i : Nat) : List Byte :=
  memBytes s (granuleAddr g + rowOffset d h v i) (rowBytes d)

/-- What a pass's row attends on one page. -/
def attended (s : State) (d : ModelDescriptor) (p : Pass) (e : LayerEntry) (r : PassRow) (x : Nat × Nat) : List Seen :=
  ((pageRows p.length x.1 p.stepRows).filter (fun t => mayAttend e.window r t.1 t.2.2)).map (fun t =>
    seenRow d.kvFormat e.scale r.vector (kvRow s d x.2 p.head 0 t.2.1) (kvRow s d x.2 p.head 1 t.2.1))

/-- The result of a query row of a pass. -/
def passRow (s : State) (d : ModelDescriptor) (p : Pass) (e : LayerEntry) (r : PassRow) : Stat :=
  p.pages.foldl (fun st x => statPage st (attended s d p e r x)) (statStart d.headDim)

/-- What a pass returns, row by row. -/
def passResults (s : State) (d : ModelDescriptor) (p : Pass) (e : LayerEntry) : List PassResult :=
  p.rows.map (fun r =>
    let t := passRow s d p e r
    { step := p.step, index := p.index, layer := p.layer, head := p.head, query := r.query, node := r.node,
      lowest := ((p.pages.map (·.1)).min?).getD 0, m := t.m, l := t.l, o := t.o })

/-! ## The merge (R209) -/

/-- x × a + y × b, as three FP32 results. -/
def mergeSum (x a y b : BitVec 32) : BitVec 32 × Sticky :=
  let p := vectorOp .multiply x a
  let q := vectorOp .multiply y b
  let r := fp32Add p.1 q.1
  (r.1, (p.2.or q.2).or r.2)

/-- One partial result joins the running statistics. -/
def mergeOne (s : Stat) (p : PassResult) : Stat :=
  if p.m = fNegInf then s
  else
    let mx := fMax s.m p.m
    let a := fExp s.m mx
    let b := fExp p.m mx
    let l := mergeSum s.l a p.l b
    let o := List.zipWith (fun x y => mergeSum x a y b) s.o p.o
    { m := mx, l := l.1, o := o.map (·.1), flags := (s.flags.or l.2).or (allFlags o) }

/-- The merged output of a row with its flags: the partials in ascending order of the lowest page index that each read. -/
def mergeAll (ps : List PassResult) : List (BitVec 32) × Sticky :=
  let sorted := ps.mergeSort (fun a b => a.lowest ≤ b.lowest)
  let st := sorted.foldl mergeOne (statStart (((ps.head?).map (fun p => p.o.length)).getD 0))
  if st.l.toNat % 2 ^ 31 = 0 then (st.o.map (fun _ => 0), st.flags)
  else
    let out := st.o.map (fun x => vectorOp .multiply x (stackReciprocal st.l))
    (out.map (·.1), st.flags.or (allFlags out))

end Sys2Proof.Machine
end

