-- ==== Sys2Proof/Machine/Coherence.lean ====
section
/-! DEFINITION. Package coherence: caching agents, the directory home of each line with its transactions, poison, and the hold window
(15_tray_fabric_and_coherence.md, R437 to R443; R106). A request that must wait for answers stays at the home until FORWARD and
HOLD_WINDOW_END bring them. -/

namespace Sys2Proof.Machine

open Sys2Proof

/-! ## Lines -/

/-- The agent number that stands for an agent without a cache. -/
def noCache : Nat := 72

/-- Line `l` in the cache of agent `a`. -/
def cacheLine (s : State) (a l : Nat) : CacheLine := tabGet {} s.coh.lines (lineKey a l)
def setCacheLine (s : State) (a l : Nat) (c : CacheLine) : State :=
  { s with coh := { s.coh with lines := tabPut {} s.coh.lines (lineKey a l) c } }

/-- Line `l` at its home. -/
def homeLine (s : State) (l : Nat) : HomeLine := tabGet {} s.coh.home l
def setHomeLine (s : State) (l : Nat) (h : HomeLine) : State :=
  { s with coh := { s.coh with home := tabPut {} s.coh.home l h } }

/-- The 128 bytes of a line in memory. -/
def lineBytes (s : State) (l : Nat) : List Byte := tabGetRun 0 s.mem (l * 128) 128

/-- A line written to memory by its home. -/
def storeLine (s : State) (l : Nat) (bs : List Byte) : State := { s with mem := tabPutRun 0 s.mem (l * 128) (bs.take 128) }

/-- A line with bytes written at an offset. -/
def mergeLine (d : List Byte) (off : Nat) (bs : List Byte) : List Byte := (d.take off ++ bs ++ d.drop (off + bs.length)).take 128

/-- The line lies in a range of R130 that the part can reach. -/
def lineMapped (s : State) (l : Nat) : Bool := inOchre s (l * 128) 128 || inSlate s (l * 128) 128

/-! ## Directory entries (R438) -/

/-- The home keeps an entry of a line while it is SHARED or EXCLUSIVE. -/
def hasEntry (h : HomeLine) : Bool := h.state != .uncached

/-- The stack and set of a line's directory entry: 8,192 sets of 16 ways on each logic die. -/
def directorySetOf (l : Nat) : Nat × Nat := (stackOf (l * 128), Config.directorySet l % 8192)

/-- The listed entries of the set of line `l`. -/
def setEntries (s : State) (l : Nat) : List (Nat × HomeLine) :=
  s.coh.home.filter (fun e => hasEntry e.2 && directorySetOf e.1 == directorySetOf l)

/-- The least recently used entry of the set of line `l`, where all 16 ways are taken. -/
def victimLine (s : State) (l : Nat) : Option Nat :=
  let es := setEntries s l
  if es.length < 16 then none
  else (es.foldl (fun m e =>
    match m with
    | none => some e
    | some f => if e.2.used < f.2.used then some e else some f) none).map (·.1)

/-- A home line with its entry used now. -/
def useEntry (s : State) (l : Nat) (h : HomeLine) : State :=
  let s1 := { s with coh := { s.coh with uses := s.coh.uses + 1 } }
  setHomeLine s1 l { h with used := s.coh.uses + 1 }

/-! ## Grants and answers (R440, R441) -/

/-- What an agent without a cache, or a request that the home refuses, is told. -/
def tellData (s : State) (a l : Nat) (bs : List Byte) (poisoned : Bool) : State := emit s (.lineData a l bs poisoned)

/-- The state of a line without an entry. -/
def uncachedLine (h : HomeLine) : HomeLine := { h with state := .uncached, owner := 0, sharers := [], used := 0 }

/-- What stays of line `l` at agent `a` once its copy has gone: a forward that still waits there for its answer. -/
def leaveLine (s : State) (a l : Nat) : State :=
  setCacheLine s a l (if (cacheLine s a l).waitingForward then { waitingForward := true } else {})

/-- Agent `a` writes a Modified line back as it evicts it (R439); what waits for its answer then finds memory current. -/
def writeBack (s : State) (a l : Nat) : State :=
  let c := cacheLine s a l
  if c.state != .modified then s
  else
    let s1 := storeLine (leaveLine s a l) l c.data
    let h := homeLine s1 l
    if h.state == .owned && h.owner == a && h.busy.isNone then setHomeLine s1 l (uncachedLine h) else s1

/-- The lines that the cache of agent `a` holds: 2 MiB of a region, and 512 KiB of a control core, of which 72 make the 1,081,344
lines of the package (R46, R50, R438). -/
def cacheLimit (a : Nat) : Nat := if a < 64 then 16384 else 4096

/-- The lines of which agent `a` holds a copy. -/
def heldLines (s : State) (a : Nat) : List Nat :=
  (s.coh.lines.filter (fun e => e.1 / 2 ^ 41 == a && e.2.state != .invalid)).map (fun e => e.1 % 2 ^ 41)

/-- Agent `a` evicts a line: a Modified one goes back to its home, a clean one goes without a word (R439). -/
def evictLine (s : State) (a l : Nat) : State :=
  if (cacheLine s a l).state == .modified then writeBack s a l else leaveLine s a l

/-- Room for line `l` in the cache of agent `a`: where it is full it evicts one that the part chooses, out of its hold window if any is
(log entry 89). -/
def makeRoom (s : State) (a l : Nat) : State :=
  let held := heldLines s a
  if held.contains l || decide (held.length < cacheLimit a) then s
  else
    let free := held.filter (fun k => !(cacheLine s a k).holding)
    let r := pick s (if free.isEmpty then held else free)
    match r.1 with
    | some v => evictLine r.2 a v
    | none => r.2

/-- Agent `a` wins line `l` in a state with its data, and makes its store; the hold window begins (R442). -/
def grantLine (s : State) (a l : Nat) (st : CacheState) (d : List Byte) (store : Option (Nat × List Byte)) : State :=
  let c : CacheLine := match store with
    | some w => { state := .modified, data := mergeLine d w.1 w.2, holding := true }
    | none => { state := st, data := d, holding := true }
  tellData (setCacheLine (makeRoom s a l) a l c) a l d false

/-- How the owner answered: with a Modified copy, a clean one, or NOT_PRESENT. -/
inductive OwnerAnswer where
  | modified (data : List Byte)
  | clean
  | absent
deriving DecidableEq, Repr

/-- Grants agent `a` exclusive ownership: from a Modified copy, which stays dirty, or from memory (R440). -/
def grantExclusive (s : State) (a l : Nat) (store : Option (Nat × List Byte)) (ans : OwnerAnswer) : State :=
  let s1 := useEntry s l { homeLine s l with state := .owned, owner := a, sharers := [] }
  match ans with
  | .modified d => grantLine s1 a l .modified d store
  | _ => grantLine s1 a l .exclusive (lineBytes s1 l) store

/-- A write of `n` bytes at an offset of line `l` meets a protected granule when it takes effect (R137). -/
def nowProtected (s : State) (l off n : Nat) : Bool := writeRefused s (l * 128 + off) n

/-- Exclusive ownership with the store for which it was asked; a store into a granule that was protected meanwhile is refused. -/
def grantStore (s : State) (a l : Nat) (store : Option (Nat × List Byte)) (ans : OwnerAnswer) : State :=
  match store with
  | some w =>
    if nowProtected s l w.1 w.2.length then emit (grantExclusive s a l none ans) (.accessError a l .writeProtected)
    else grantExclusive s a l store ans
  | none => grantExclusive s a l none ans

/-- A write of line `l` is refused at its home: what a cache had modified goes back to memory (R138). -/
def refuseWrite (s : State) (a l : Nat) (ans : OwnerAnswer) : State :=
  let s1 := match ans with
    | .modified d => storeLine s l d
    | _ => s
  emit (setHomeLine s1 l (uncachedLine (homeLine s1 l))) (.accessError a l .writeProtected)

/-- READ_SHARED once the owner, if any, has answered. -/
def grantShared (s : State) (a l : Nat) (ans : OwnerAnswer) : State :=
  let h := homeLine s l
  match h.state with
  | .uncached => grantExclusive s a l none .clean
  | .shared => grantLine (useEntry s l { h with sharers := if h.sharers.contains a then h.sharers else h.sharers ++ [a] })
      a l .shared (lineBytes s l) none
  | .owned =>
    match ans with
    | .modified d =>
      grantLine (storeLine (useEntry s l { h with state := .shared, owner := 0, sharers := [h.owner, a].dedup }) l d)
        a l .shared d none
    | .clean => grantLine (useEntry s l { h with state := .shared, owner := 0, sharers := [h.owner, a].dedup })
        a l .shared (lineBytes s l) none
    | .absent => grantLine (useEntry s l { h with state := .shared, owner := 0, sharers := [a] })
        a l .shared (lineBytes s l) none

/-- A request takes its effect once every awaited agent has answered; `ans` is the owner's answer. The write-protect bits are those of
this moment (R137). -/
def completeReq (s : State) (l : Nat) (q : CohReq) (ans : OwnerAnswer) : State :=
  let h := homeLine s l
  match q with
  | .readShared a => grantShared s a l ans
  | .readExclusive a store => grantStore s a l store ans
  | .upgrade a store => grantStore s a l store ans
  | .writeFull a d => if nowProtected s l 0 128 then refuseWrite s a l ans else grantExclusive s a l (some (0, d)) ans
  | .uncachedRead =>
    match ans with
    | .modified d => tellData (storeLine (setHomeLine s l { h with state := .shared, sharers := [h.owner], owner := 0 }) l d)
        noCache l d false
    | _ => tellData s noCache l (lineBytes s l) false
  | .invalidatingWrite off d =>
    let base := match ans with
      | .modified m => m
      | _ => lineBytes s l
    if nowProtected s l off d.length then refuseWrite s noCache l ans
    else storeLine (setHomeLine s l (uncachedLine h)) l (mergeLine base off d)
  | .replace =>
    let s1 := match ans with
      | .modified d => storeLine s l d
      | _ => s
    wrapF (setHomeLine s1 l (uncachedLine (homeLine s1 l))) F.lnkCohStats.replacements 1

/-- The agents that a request must hear from. -/
def mustAnswer (h : HomeLine) (q : CohReq) : List Nat :=
  match q with
  | .readShared _ | .uncachedRead => if h.state == .owned then [h.owner] else []
  | .readExclusive a _ | .upgrade a _ | .writeFull a _ =>
    if h.state == .owned then [h.owner] else if h.state == .shared then h.sharers.filter (· != a) else []
  | .invalidatingWrite .. | .replace => if h.state == .owned then [h.owner] else if h.state == .shared then h.sharers else []

/-- The request leaves its line with an entry. -/
def takesEntry : CohReq → Bool
  | .readShared _ | .readExclusive .. | .upgrade .. | .writeFull .. => true
  | _ => false

/-- A request at a POISONED line (R440, R441). -/
def poisonedReq (s : State) (l : Nat) (q : CohReq) : State :=
  match q with
  | .readShared a | .readExclusive a _ | .upgrade a _ => tellData s a l [] true
  | .uncachedRead => tellData s noCache l [] true
  | .invalidatingWrite off d =>
    if nowProtected s l off d.length then emit s (.accessError noCache l .writeProtected)
    else if off = 0 ∧ 128 ≤ d.length then storeLine (setHomeLine s l { uncachedLine (homeLine s l) with poisoned := false }) l d
    else tellData s noCache l [] true
  | .writeFull a d =>
    if nowProtected s l 0 128 then emit s (.accessError a l .writeProtected)
    else grantLine (useEntry s l { homeLine s l with poisoned := false, state := .owned, owner := a, sharers := [] })
      a l .modified d (some (0, d))
  | .replace => s

/-! ## The home at work (R438, R440) -/

/-- Lines whose request waits for the entry of line `v`. -/
def waitingFor (s : State) (v : Nat) : List Nat := (s.coh.home.filter (fun e => e.2.needs == some v)).map (·.1)

/-- The requests that waited for the entry of line `v` stand at the head of their queues again. -/
def resumeLines (s : State) (v : Nat) : State :=
  (waitingFor s v).foldl (fun u l =>
    let h := homeLine u l
    match h.busy with
    | some q => setHomeLine u l { h with busy := none, needs := none, queue := q :: h.queue }
    | none => setHomeLine u l { h with needs := none }) s

/-- Begins one request at a line that is not busy; answers the lines that are to be looked at next. -/
def beginReq (s : State) (l : Nat) (q : CohReq) : List Nat × State :=
  let h := homeLine s l
  if h.poisoned then ([], poisonedReq s l q)
  else
    match if takesEntry q && !hasEntry h then victimLine s l else none with
    | some v =>
      let s1 := setHomeLine s l { h with busy := some q, needs := some v }
      ([v], setHomeLine s1 v { homeLine s1 v with queue := .replace :: (homeLine s1 v).queue })
    | none =>
      match mustAnswer h q with
      | [] =>
        let s1 := completeReq s l q .clean
        if q == .replace then (waitingFor s1 l, resumeLines s1 l) else ([], s1)
      | as => ([], setHomeLine s l { h with busy := some q, awaiting := as })

/-- The homes of some lines act on their queues; `fuel` bounds the requests. -/
def work : Nat → List Nat → State → State
  | 0, _, s => s
  | _, [], s => s
  | fuel + 1, l :: ls, s =>
    let h := homeLine s l
    if h.busy.isSome then work fuel ls s
    else
      match h.queue with
      | [] => work fuel ls s
      | q :: rest =>
        let r := beginReq (setHomeLine s l { h with queue := rest }) l q
        work fuel (r.1 ++ l :: ls) r.2

/-- The number of requests that wait at homes. -/
def waitingReqs (s : State) : Nat := (s.coh.home.map (fun e => e.2.queue.length + 2)).sum

/-- Acts on what waits at line `l`. -/
def workLine (s : State) (l : Nat) : State := work (4 * waitingReqs s + 8) [l] s

/-- A request reaches the home of line `l`, behind those that wait there. -/
def request (s : State) (l : Nat) (q : CohReq) : State :=
  workLine (setHomeLine s l { homeLine s l with queue := (homeLine s l).queue ++ [q] }) l

/-- An answer has come: the request takes its effect once none is awaited. -/
def takeAnswer (s : State) (a l : Nat) (ans : OwnerAnswer) : State :=
  let h := homeLine s l
  match h.busy with
  | none => s
  | some q =>
    let left := h.awaiting.filter (· != a)
    if left.isEmpty then
      let s1 := completeReq (setHomeLine s l { h with busy := none, awaiting := [] }) l q ans
      if q == .replace then
        let ls := waitingFor s1 l
        work (4 * waitingReqs s1 + 8) (ls ++ [l]) (resumeLines s1 l)
      else workLine s1 l
    else setHomeLine s l { h with awaiting := left }

/-- The state in which a forward leaves the agent's line. -/
def afterForward (q : CohReq) (st : CacheState) : CacheState :=
  match q, st with
  | _, .invalid => .invalid
  | .readShared _, _ => .shared
  | .uncachedRead, .modified => .shared
  | .uncachedRead, st => st
  | _, _ => .invalid

/-- Agent `a` answers the forward or invalidation of line `l` (R439, R440). -/
def answerForward (s : State) (a l : Nat) : State :=
  let c := cacheLine s a l
  match (homeLine s l).busy with
  | none => s
  | some q =>
    let st := afterForward q c.state
    let ans : OwnerAnswer := match c.state with
      | .invalid => .absent
      | .modified => .modified c.data
      | _ => .clean
    let s1 := if st == .invalid then setCacheLine s a l {} else setCacheLine s a l { c with state := st, waitingForward := false }
    let s2 := if c.state == .invalid then wrapF s1 F.lnkCohStats.notPresent 1 else s1
    takeAnswer s2 a l ans

/-! ## Poison and the caches of regions (R106) -/

/-- Line `l` becomes POISONED: its copies are gone and the record tells of it. -/
def poisonLine (s : State) (l : Nat) : State :=
  let h := homeLine s l
  let q := match h.busy with
    | some q => q :: h.queue
    | none => h.queue
  let s1 := { s with coh := { s.coh with lines := tabDrop s.coh.lines (fun k _ => k % 2 ^ 41 == l) } }
  let s2 := setHomeLine s1 l { poisoned := true, queue := q }
  let s3 := latch s2 F.lnkCohPoison.valid F.lnkCohPoison.overflow (fun u => putF u F.lnkCohPoison.line l)
  workLine (if isSet s F.lnkCohPoison.valid then s3 else notify s3 F.lnkCtl.notifyEnable F.lnkCtl.vector) l

/-- The lines of agent `a`. -/
def agentLines (s : State) (a : Nat) : List Nat :=
  (s.coh.lines.filter (fun e => e.1 / 2 ^ 41 == a)).map (fun e => e.1 % 2 ^ 41)

/-- Invalidates the cache of agent `a`, as a scrub does (R105); a forward that waits there finds no line. -/
def clearCache (s : State) (a : Nat) : State := (agentLines s a).foldl (fun u l => leaveLine u a l) s

/-- Writes back every Modified line of agent `a` (R106). -/
def writeBackAll (s : State) (a : Nat) : State := (agentLines s a).foldl (fun u l => writeBack u a l) s

/-- Writes back the Modified lines that a faulted region's cache can still read, and poisons the others; which they are is the
part's (R106; log entry 2). -/
def rescueLines (s : State) (a : Nat) : State :=
  (agentLines s a).foldl (fun u l =>
    if (cacheLine u a l).state != .modified then u
    else
      let r := drawFree u
      if r.1 % 2 = 0 then writeBack r.2 a l else poisonLine r.2 l) s

/-! ## Commands -/

/-- The agent runs: a region's cache only while the fabric is on and its region executes (R103). -/
def agentRuns (s : State) (a : Nat) : Bool :=
  isReady s && (decide (64 ≤ a) ||
    (isAwake s && ((regionOf s a).state == .serving || (regionOf s a).state == .draining)))

/-- A store of an agent is refused: outside the ranges of R130 or into Slate, or into a protected granule (R138). -/
def storeRefused (s : State) (l : Nat) (store : Option (Nat × List Byte)) : Option RemoteStatus :=
  if !lineMapped s l then some .addressError
  else
    match store with
    | none => none
    | some w =>
      if !inOchre s (l * 128) 128 || decide (128 < w.1 + w.2.length) then some .addressError
      else if writeRefused s (l * 128 + w.1) w.2.length then some .writeProtected
      else none

/-- A request of a caching agent: a hit in its cache, a refusal, or a request at the home. -/
def agentRequest (s : State) (a l : Nat) (store : Option (Nat × List Byte)) (q : CohReq) (hit : CacheState → Bool) : State :=
  let c := cacheLine s a l
  (storeRefused s l store).elim
    (if hit c.state then
      match store with
      | some w => tellData (setCacheLine s a l { c with state := .modified, data := mergeLine c.data w.1 w.2 }) a l c.data false
      | none => tellData s a l c.data false
    else request s l q)
    (fun st => emit s (.accessError a l st))

/-- The agent owns its line. -/
def isOwned (st : CacheState) : Bool := st == .exclusive || st == .modified

/-- READ_SHARED: agent `a` asks for a shared copy of a line. -/
def execReadShared (a : AgentNo) (line : Nat) (s : State) : Host.Outcome State Fault Refusal :=
  act s (agentRuns s a.val) (fun s => agentRequest s a.val line none (.readShared a.val) (· != .invalid))

/-- READ_EXCLUSIVE: agent `a` asks for an exclusive copy, and makes its store with it. -/
def execReadExclusive (a : AgentNo) (line : Nat) (store : Option (Nat × List Byte)) (s : State) :
    Host.Outcome State Fault Refusal :=
  act s (agentRuns s a.val) (fun s => agentRequest s a.val line store (.readExclusive a.val store) isOwned)

/-- UPGRADE: agent `a` asks to own a line that it shares. -/
def execUpgrade (a : AgentNo) (line : Nat) (store : Option (Nat × List Byte)) (s : State) : Host.Outcome State Fault Refusal :=
  act s (agentRuns s a.val) (fun s => agentRequest s a.val line store (.upgrade a.val store) isOwned)

/-- WRITE_FULL: agent `a` takes ownership without data and writes all 128 bytes. -/
def execWriteFull (a : AgentNo) (line : Nat) (data : List Byte) (s : State) : Host.Outcome State Fault Refusal :=
  act s (agentRuns s a.val && data.length == 128) (fun s =>
    agentRequest s a.val line (some (0, data)) (.writeFull a.val data) isOwned)

/-- WRITEBACK: agent `a` evicts a Modified line. -/
def execWriteback (a : AgentNo) (line : Nat) (s : State) : Host.Outcome State Fault Refusal :=
  act s (agentRuns s a.val) (fun s => workLine (writeBack s a.val line) line)

/-- UNCACHED_READ: an agent without a cache reads a line. -/
def execUncachedRead (line : Nat) (s : State) : Host.Outcome State Fault Refusal :=
  act s (isReady s) (fun s =>
    if lineMapped s line then request s line .uncachedRead else emit s (.accessError noCache line .addressError))

/-- INVALIDATING_WRITE: an agent without a cache writes a line, or part of it. -/
def execInvalidatingWrite (line offset : Nat) (data : List Byte) (s : State) : Host.Outcome State Fault Refusal :=
  act s (isReady s) (fun s =>
    match storeRefused s line (some (offset, data)) with
    | some st => emit s (.accessError noCache line st)
    | none => request s line (.invalidatingWrite offset data))

/-- FORWARD: a forward or invalidation reaches agent `a`; in its hold window it waits there (R442). -/
def execForward (a : AgentNo) (line : Nat) (s : State) : Host.Outcome State Fault Refusal :=
  act s (isReady s && (homeLine s line).awaiting.contains a.val) (fun s =>
    let c := cacheLine s a.val line
    if c.holding && c.state != .invalid then setCacheLine s a.val line { c with waitingForward := true }
    else answerForward s a.val line)

/-- HOLD_WINDOW_END: the hold window of agent `a` on a line ends, and what waited there is answered. -/
def execHoldWindowEnd (a : AgentNo) (line : Nat) (s : State) : Host.Outcome State Fault Refusal :=
  act s (isReady s) (fun s =>
    let c := cacheLine s a.val line
    if !c.holding && !c.waitingForward then s
    else
      let s1 := setCacheLine s a.val line { c with holding := false, waitingForward := false }
      if c.waitingForward then answerForward s1 a.val line else s1)

/-- DELAY_LINE_CALIBRATION: the delay line is calibrated against the LMC. -/
def execDelayLineCalibration (s : State) : Host.Outcome State Fault Refusal :=
  act s (isReady s && lmcRuns s) (fun s => { s with coh := { s.coh with calibrated := s.plt.lmc } })

end Sys2Proof.Machine
end

