-- ==== Sys2Proof/Machine/Images.lean ====
section
/-! DEFINITION. Structure images: their layout, signatures, the verified-digest cache and the checks that regions, microcode slots,
the package and the firmware share (R91 to R102, R110, R112, R552, R554, R555). -/

namespace Sys2Proof.Machine

open Sys2Proof

/-! ## Layout (R93 to R95, R100) -/

/-- ASCII "EODRSTIM", its first letter in the low byte (R93). -/
def imageMagic : BitVec 64 := 0x4D49545352444F45

/-- The section types that an image of a KIND may hold (R95). -/
def allowedSections (kind : Nat) : List Nat :=
  match kind with
  | 0 => [3, 0x11, 0x12]
  | 1 => [1, 2, 3, 4, 5, 6, 7, 8, 9]
  | 2 => [8, 0x10]
  | 3 => [0x20]
  | _ => []

/-- The section types that an image of a KIND holds exactly once (R95). -/
def singleSections (kind : Nat) : List Nat :=
  match kind with
  | 0 => [3, 0x11, 0x12]
  | 1 => [3, 6, 7, 8]
  | 2 => [8, 0x10]
  | 3 => [0x20]
  | _ => []

/-- Sections of a type. -/
def countSections (im : Image) (t : Nat) : Nat := (im.sections.filter (fun e => e.type == t)).length

/-- No two of the bodies overlap. -/
def bodiesApart : List SectionEntry → Bool
  | [] => true
  | e :: es => es.all (fun f => !overlaps e.offset e.length f.offset f.length) && bodiesApart es

/-- The fields of a model descriptor hold values that R100 allows, and its reserved bytes and unused ranges are zero. -/
def descriptorOk (d : ModelDescriptor) : Bool :=
  1 ≤ d.layers && d.layers ≤ 128 && 1 ≤ d.kvHeads && d.kvHeads ≤ 16 && [64, 96, 128, 256].contains d.headDim && d.kvFormat ≤ 4 &&
    d.draft ≤ 1 && d.treeNodes ≤ 64 && d.treeDepth ≤ 16 && 1 ≤ d.vocab && d.vocab ≤ 262144 && d.maxContext ≤ 1048576 &&
    fieldAt d.bytes 16 1 ≤ 8 && zeroAt d.bytes 17 15 && zeroAt d.bytes 96 32 &&
    zeroAt d.bytes (32 + 8 * d.audioRanges.length) (64 - 8 * d.audioRanges.length)

/-- The largest image of a KIND (R91, R556). -/
def largestImage (kind : Nat) : Nat :=
  match kind with
  | 0 => 64 * 2 ^ 20 | 1 => 48 * 2 ^ 20 | 2 => 2 ^ 20 | _ => 32 * 2 ^ 20

/-- The header and the section table keep to their layouts: SECTION_COUNT, IMAGE_LENGTH, reserved bytes, offsets and targets (R91, R93,
R94; log entry 84). -/
def layoutGood (im : Image) : Bool :=
  1 ≤ im.sectionCount && im.sectionCount ≤ 64 && im.length % 64 == 0 && im.length ≤ largestImage im.kind && im.zeros &&
    im.sections.all (fun e => e.zeros && e.offset % 64 == 0 && (e.target ≤ 11 || e.target == 0xFFFF))

/-- A type stands once for each of the logical clusters that `p` asks for, and nowhere else. -/
def oncePerCluster (im : Image) (t : Nat) (needed : Bool) : Bool :=
  (List.range 12).all (fun j =>
    let n := (im.sections.filter (fun e => e.type == t && e.target == j)).length
    n ≤ 1 && (!needed || n == 1)) &&
    im.sections.all (fun e => e.type != t || e.target ≤ 11)

/-- The sections of a region image per logical cluster: CELL_CONFIG and SWITCH_CONFIG one each, FUNCTION_TABLES up to one, of 24 KiB
(R95, R96). -/
def clustersGood (im : Image) : Bool :=
  im.kind != 1 ||
    (oncePerCluster im 1 true && oncePerCluster im 2 true && oncePerCluster im 4 false &&
      im.sections.all (fun e => e.type != 4 || e.length == 24576))

/-- The live bytes of a kernel at a point (R99). -/
def liveBytes (im : Image) (k point : Nat) : Nat :=
  ((im.live.filter (fun r => r.kernel == k && r.point == point)).map (·.length)).sum

/-- The kernel table and the live map of a region image: up to 1,024 kernels of different KERNEL_IDs up to 1,023, and at each point the
lengths that LIVE_IN and LIVE_OUT allow (R97, R99). -/
def kernelsGood (im : Image) : Bool :=
  im.kind != 1 ||
    ((im.body 7).length % 32 == 0 && (im.body 6).length % 16 == 0 && im.kernels.length ≤ 1024 &&
      decide ((im.kernels.map (·.id)).Nodup) &&
      im.kernels.all (fun k => k.id ≤ 1023 && liveBytes im k.id 0 == k.liveIn) &&
      im.live.all (fun r => r.point == 0 || im.kernels.all (fun k => k.id != r.kernel || liveBytes im k.id r.point ≤ k.liveOut)))

/-- The layer table of a microcode image: one entry for each layer, each within R194. -/
def layersGood (im : Image) : Bool :=
  im.kind != 2 ||
    (match im.descriptor with
    | some d => im.layerTable.length == d.layers && im.layerTable.all (fun e => e.window ≤ 1048576 && 1 ≤ e.queryPerKv) &&
        ((bodyEntries 16 (im.body 0x10)).take d.layers).all (fun b => zeroAt b 9 7)
    | none => false)

/-- The image is well formed (R95). -/
def wellFormed (im : Image) : Bool :=
  layoutGood im &&
    im.sections.all (fun e => decide (256 + 32 * im.sections.length ≤ e.offset) && decide (e.offset + e.length + 256 ≤ im.length)) &&
    bodiesApart im.sections &&
    im.sections.all (fun e => (allowedSections im.kind).contains e.type) &&
    (singleSections im.kind).all (fun t => countSections im t == 1) &&
    (countSections im 4 == 0 || countSections im 9 == 1) &&
    im.sections.all (fun e => e.type != 8 || e.length == 128) &&
    (match im.descriptor with
    | some d => descriptorOk d
    | none => countSections im 8 == 0) &&
    clustersGood im && kernelsGood im && layersGood im

/-- MAGIC, FORMAT_MAJOR and FORMAT_MINOR (check 1). -/
def headerGood (s : State) (im : Image) : Bool :=
  im.magic == imageMagic && im.formatMajor == 1 && im.formatMinor ≤ getF s F.fabCaps.fabFormatMinorMax

/-- The STEPPINGS bit for B0 (check 2). -/
def forB0 (im : Image) : Bool := im.steppings.testBit 1

/-- The code of a ROLE (R93, R409). -/
def roleCode : Role → Nat
  | .none => 0 | .prompt => 1 | .generation => 2 | .cache => 3

/-! ## Keys and signatures (R96, R554, R555) -/

/-- KEY_ID of a public key: the SHA-384 of its 96 bytes. -/
def keyId (key : BitVec 768) : BitVec 384 := Config.sha384 (leBytes 96 key.toNat)

/-- The keys of a list that a use admits. -/
def listKeys (l : Option KeyList) (use : ListedKey → Bool) : List (BitVec 768) :=
  match l with
  | some l => (l.keys.filter use).map (·.key)
  | none => []

/-- The keys that the part accepts for an image of a KIND (R555). -/
def acceptedKeys (s : State) (kind : Nat) : List (BitVec 768) :=
  match kind with
  | 0 => listKeys s.plt.rootList (·.package) ++ listKeys s.plt.ownerList (·.package)
  | 3 => listKeys s.plt.rootList (·.firmware)
  | _ => listKeys s.plt.ownerList (·.structureUse)

/-- The signature is valid under R96. -/
def signatureOk (s : State) (im : Image) : Bool :=
  (acceptedKeys s im.kind).any (fun k => keyId k == im.keyId && Config.ecdsaVerify k im.digest im.sigR im.sigS)

/-! ## The verified-digest cache (R110) -/

/-- A digest that passed the signature check enters the cache; in a full one it takes the place of an entry that the part chooses. -/
def cacheDigest (s : State) (d : BitVec 384) : State :=
  if s.fab.vdc.contains d then s
  else if s.fab.vdc.length < 64 then { s with fab := { s.fab with vdc := s.fab.vdc ++ [d] } }
  else
    let r := drawFree s
    { r.2 with fab := { r.2.fab with vdc := s.fab.vdc.eraseIdx (r.1 % 64) ++ [d] } }

/-- The cache is emptied. -/
def flushDigests (s : State) : State := { s with fab := { s.fab with vdc := [] } }

/-- The signature check with the cache: whether the image passes, and the state with its digest. -/
def checkSignature (s : State) (im : Image) : Bool × State :=
  if s.fab.vdc.contains im.digest then (true, s)
  else if signatureOk s im then (true, cacheDigest s im.digest)
  else (false, s)

/-! ## The checks of R102 -/

/-- The version of the loaded package image (check 6). -/
def packageOk (s : State) (im : Image) : Bool :=
  match s.fab.pkg with
  | some p => im.pkgMinVersion ≤ p.securityVersion
  | none => false

/-- What MODEL_MISMATCH compares (R104). -/
def identityOf (im : Image) : Option (Nat × Nat × ModelDescriptor) := im.descriptor.map (fun d => (im.modelId, im.adapterId, d))

/-- The image names the model that composition `c` holds fixed, where it holds one (check 8). -/
def modelMatches (s : State) (c : Nat) (im : Image) : Bool :=
  match (compOf s c).bind (·.fixed) with
  | some f => identityOf im == some f
  | none => true

/-- Checks 1 to 6 of R102 on an image of a KIND for composition `c`, as the first failing cause in the codes of R123. -/
def earlyCause (s : State) (kind c : Nat) (im : Image) : Option Nat :=
  if !headerGood s im then some 1
  else if !forB0 im then some 2
  else if im.kind != kind || im.role != roleCode (roleOf s c) then some 3
  else if !wellFormed im then some 1
  else if im.securityVersion < getF s F.fabCtl.fabImageFloor then some 4
  else if !packageOk s im then some 5
  else none

/-- The checks of R102 in order on an image for composition `c`: the cause of the first failure, and the state with the digest that
passed. `other` holds the identity of attached microcode. -/
def verifyImage (s : State) (kind c : Nat) (im : Image) (other : Bool) (readbackOk : Bool) : Option Nat × State :=
  match earlyCause s kind c im with
  | some cause => (some cause, s)
  | none =>
    let r := checkSignature s im
    if !r.1 then (some 6, r.2)
    else if !modelMatches r.2 c im || !other then (some 7, r.2)
    else if !readbackOk then (some 10, r.2)
    else (none, r.2)

/-- The composition's model becomes fixed with the first image that passes (R104), and its KV area is divided into slots (R389). -/
def fixModel (s : State) (c : Nat) (im : Image) : State :=
  match compOf s c with
  | some x => if x.fixed.isSome then s else setComp s c (some { x with fixed := identityOf im })
  | none => s

/-- The resolution of the object of an image load, as work of tenant 0 (R633): a published object (R92) of KIND 2, as R101 asks for a
handle that is an image; the manual names no KIND for the other loads, and the part asks for it there too (log entry 85). -/
def resolveImage (s : State) (h bit : Nat) : Bool :=
  match resolve s h 0 bit with
  | .ok i => (odtOf s i).kind == 2 && ((odtOf s i).state == .published || (odtOf s i).state == .moving)
  | _ => false

/-! ## Reading an object (R92, R153) -/

/-- Byte `o` of the plaintext of object `i`, as an engine reads it. -/
def objectByte (s : State) (i o : Nat) : Byte :=
  let e := odtOf s i
  if e.size ≤ o then 0
  else if isEncrypted e && e.tier != 1 then
    match xtsKey s e.keySlot with
    | some k =>
      let u := o / 4096
      let a := if e.tier = 3 then e.location * 16384 else e.location
      let cell (j : Nat) : Byte :=
        if e.tier = 3 then tabGet 0 s.stk.umber j else if e.tier = 4 then tabGet 0 s.stk.hostObj j else memByte s j
      ((Config.xtsDecrypt k (i + u * 2 ^ 32) (readRun cell (a + u * 4096) 4096))[o % 4096]?).getD 0
    | none => 0
  else if e.tier = 3 then tabGet 0 s.stk.umber (e.location * 16384 + o)
  else if e.tier = 4 then tabGet 0 s.stk.hostObj (e.location + o)
  else memByte s (e.location + o)

/-- The object that a handle names can be read: an ENCRYPTED one needs its key (R154). -/
def objectReadable (s : State) (h : Nat) : Bool :=
  let e := odtOf s (handleIndex h)
  !isEncrypted e || (xtsKey s e.keySlot).isSome

/-- The image that stands in the object of a handle; `none` where the object ends before IMAGE_LENGTH says so, or cannot be read (log
entry 84). -/
def imageOf (s : State) (h : Nat) : Option Image :=
  let rd := objectByte s (handleIndex h)
  let len := fieldAt (readRun rd 16 8) 0 8
  if !objectReadable s h || decide (len < 512) || decide ((odtOf s (handleIndex h)).size < len) then none else some (decodeImage rd)

/-- A read of an object in host memory has to wait (R603). -/
def mustWait (s : State) (h : Nat) : Bool := (odtOf s (handleIndex h)).tier == 4 && hostOff s

/-- The image of a handle where its read ended whole, and the state with the error that was met (R465, R476). -/
def readImage (s : State) (h : Nat) (r : ReadEnd) : Option Image × State :=
  let s1 := askHost s (odtOf s (handleIndex h))
  match r with
  | .whole => (imageOf s1 h, s1)
  | .errorAt o => (none, readFailed s1 (odtOf s1 (handleIndex h)) o)

end Sys2Proof.Machine
end

