-- ==== Sys2Proof/Machine/Flags.lean ====
section
/-! DEFINITION. The sticky flags of a region, its Ivory, and the arithmetic actions of a kernel on both (R76, R80 to R88, R124). -/

namespace Sys2Proof.Machine

open Sys2Proof

/-- Sets the sticky flags of region `n` (R80, R124). -/
def setSticky (s : State) (n : Nat) (f : Sticky) : State :=
  let put (u : State) (on : Bool) (g : Field) : State := if on then putF u g 1 else u
  put (put (put (put s f.saturated (F.fabRgnFlags.saturated.at n)) f.nanLost (F.fabRgnFlags.nanLost.at n))
    f.nanScale (F.fabRgnFlags.nanScale.at n)) f.accOverflow (F.fabRgnFlags.accOverflow.at n)

/-- Clears the sticky flags of region `n`, as a scrub does (R105). -/
def clearSticky (s : State) (n : Nat) : State :=
  putF (putF (putF (putF s (F.fabRgnFlags.saturated.at n) 0) (F.fabRgnFlags.nanLost.at n) 0)
    (F.fabRgnFlags.nanScale.at n) 0) (F.fabRgnFlags.accOverflow.at n) 0

/-- Bytes of a region's Ivory: 30 MiB (R46, R105). -/
def ivoryBytes : Nat := 30 * 2 ^ 20

/-- The first byte of the Ivory of a logical cell of a logical cluster; cell 255 is the cluster's shared Ivory (R46, R99). -/
def ivoryBase (cluster cell : Nat) : Nat := cluster * 2621440 + min cell 16 * 98304

/-- Writes bytes into the Ivory of region `n`. -/
def writeIvory (s : State) (n a : Nat) (bs : List Byte) : State :=
  setRegion s n { regionOf s n with ivory := tabPutRun 0 (regionOf s n).ivory a (bs.take (ivoryBytes - a)) }

/-- Bytes of the Ivory of region `n`. -/
def readIvory (s : State) (n a k : Nat) : List Byte := tabGetRun 0 (regionOf s n).ivory a k

/-! ## Accumulators and latches of a cell (R62, R65, R66) -/

/-- Where a region keeps an accumulator of a cell: of the bank that receives array results, or of the one that drains (R65). -/
def accKey (x : Region) (cell output : Nat) (draining : Bool) : Nat :=
  512 * cell + (if tabGet false x.banks cell != draining then 256 else 0) + output

/-- An accumulator of region `n`. -/
def accOf (s : State) (n cell output : Nat) (draining : Bool) : BitVec 32 :=
  tabGet 0 (regionOf s n).acc (accKey (regionOf s n) cell output draining)
def setAcc (s : State) (n cell output : Nat) (draining : Bool) (v : BitVec 32) : State :=
  setRegion s n { regionOf s n with acc := tabPut 0 (regionOf s n).acc (accKey (regionOf s n) cell output draining) v }

/-- The kernel that runs on region `n`. -/
def kernelNow (s : State) (n : Nat) : Nat := ((regionOf s n).running.map (·.kernel)).getD 0

/-- An option of the configuration latches of a logical cell of region `n`, for the kernel that runs there; 0 where no image has set
them (R62, R66). -/
def latchOf (s : State) (n cell option : Nat) : Nat :=
  let body := tabGet [] (regionOf s n).latches (cell / 16)
  if body.isEmpty then 0 else Config.latchOption body (kernelNow s n) (cell % 16) option

/-- Array shape: 1 for four 8 × 8 arrays, each with its own quarter of each bank. -/
def arrayShape (s : State) (n cell : Nat) : Nat := latchOf s n cell 0 % 2
/-- Reduction: 0 local, 1 chain, 2 cluster sum. -/
def reductionOf (s : State) (n cell : Nat) : Nat := latchOf s n cell 1 % 3
/-- Operand source: 0 the cell's scratch, 1 the cluster's shared Ivory. -/
def operandSource (s : State) (n cell : Nat) : Nat := latchOf s n cell 2 % 2
/-- The conversion site rounds stochastically: the image selects it there, and its FLAGS tell of such sites (R66, R75, R93). -/
def siteStochastic (s : State) (n cell site : Nat) : Bool :=
  (((regionOf s n).image.map (·.stochastic)).getD false) && latchOf s n cell (3 + site) % 2 == 1

/-- The next 16 random bits of a cell's generator (R75, R76). -/
def drawCell (s : State) (n cell : Nat) : Nat × State :=
  let r := Config.cellDraw (tabGet 0 (regionOf s n).rng cell)
  (r.1.toNat % 65536, setRegion s n { regionOf s n with rng := tabPut 0 (regionOf s n).rng cell r.2 })

/-- The roundings of `k` conversions at a site: a stochastic site draws once for every value of the list, in its order, whatever the
value is (DESIGN CHOICE, log entry 76). -/
def drawRoundings (n cell : Nat) (stochastic : Bool) : Nat → State → List Rounding × State
  | 0, s => ([], s)
  | k + 1, s =>
    if !stochastic then (List.replicate (k + 1) .nearest, s)
    else
      let d := drawCell s n cell
      let r := drawRoundings n cell stochastic k d.2
      (.stochastic d.1 :: r.1, r.2)

/-! ## Actions of a kernel -/

/-- An FP32 result left in Ivory with its flags. -/
def leaveWord (s : State) (n dest : Nat) (r : BitVec 32 × Sticky) : State :=
  setSticky (writeIvory s n dest (leBytes 4 r.1.toNat)) n r.2

/-- Values of a format converted at a site of a cell and left in Ivory (R75 to R80). -/
def leaveConverted (s : State) (n cell site dest : Nat) (target : Format) (xs : List Num) : State :=
  let d := drawRoundings n cell (siteStochastic s n cell site) xs.length s
  let cs := (xs.zip d.1).map (fun v => convertNum target v.2 v.1)
  setSticky (writeIvory d.2 n dest (packCodes (formatWidth target) (cs.map (·.1)))) n (cs.foldl (fun f c => f.or c.2) {})

/-- The values in blocks of 32; the last is filled up with zeros, as Tilrov pads a dimension (R72). -/
def blocksOf32 (vs : List (BitVec 32)) : List (List (BitVec 32)) :=
  (List.range ((vs.length + 31) / 32)).map (fun i =>
    let b := (vs.drop (32 * i)).take 32
    b ++ List.replicate (32 - b.length) 0)

/-- Quantises blocks one after another: element bytes, scale bytes and flags (R71, R74). -/
def quantiseRow (n cell : Nat) (l : Shade) (stochastic : Bool) :
    List (List (BitVec 32)) → State → (List Byte × List Byte × Sticky) × State
  | [], s => (([], [], {}), s)
  | b :: bs, s =>
    let d := drawRoundings n cell stochastic 32 s
    let q := quantiseBlock l d.1 (b.map fp32Value)
    let r := quantiseRow n cell l stochastic bs d.2
    ((packCodes (formatWidth (shadeFormat l)) q.1 ++ r.1.1, leBytes 1 q.2.1 ++ r.1.2.1, q.2.2.or r.1.2.2), r.2)

/-- A Shade row quantised at a site of a cell and left in Ivory. -/
def leaveQuantised (s : State) (n cell site dest : Nat) (l : Shade) (vs : List (BitVec 32)) : State :=
  let r := quantiseRow n cell l (siteStochastic s n cell site) (blocksOf32 vs) s
  setSticky (writeIvory r.2 n dest (r.1.1 ++ r.1.2.1)) n r.1.2.2

/-- A result takes the place of the accumulator it was added into, in the bank that receives (R65, R81). -/
def leaveAcc (s : State) (n cell output : Nat) (r : BitVec 32 × Sticky) : State :=
  setSticky (setAcc s n cell output false r.1) n r.2

/-- The accumulators of one output of several cells added in FP32, in the order of the cells (R66). -/
def sumCells (s : State) (n output : Nat) : List Nat → BitVec 32 × Sticky
  | [] => (0, {})
  | c :: cs => cs.foldl (fun r d =>
      let t := fp32Add r.1 (accOf s n d output false)
      (t.1, r.2.or t.2)) (accOf s n c output false, {})

/-- The tiles of some cells added into the accumulators of one of them. -/
def sumTiles (s : State) (n : Nat) (cells : List Nat) (dest : Nat) : State :=
  (List.range 256).foldl (fun t o => leaveAcc t n dest o (sumCells s n o cells)) s

/-- Coefficient `k` of a function table of a logical cluster (R86). -/
def coefficient (s : State) (n cluster table k : Nat) : BitVec 32 :=
  tabGet 0 (regionOf s n).functions (6144 * cluster + 768 * table + k)

/-- An arithmetic action of a kernel on region `n`. The array takes no operand pair but those of R63; a chain and a cluster sum run only
where the latches of their cells select them (R66). Attention, merges and row writes are the scheduler's. -/
def fabricOp (s : State) (n : Nat) (op : FabricOp) : State :=
  match op with
  | .convert src tgt site cell vs dest => leaveConverted s n cell.val site dest tgt (vs.map (valueOf src))
  | .quantise l site cell vs dest => leaveQuantised s n cell.val site dest l vs
  | .dequantise l row dest =>
    let rs := (rowValues l row).map (fun x => toFp32 x.isFinite x)
    setSticky (writeIvory s n dest ((rs.map (fun r => leBytes 4 r.1.toNat)).flatten)) n (rs.foldl (fun f r => f.or r.2) {})
  | .accumulate cell o a b ps =>
    if pairTaken a b then leaveAcc s n cell.val o.val (accumulateAll a b ps (accOf s n cell.val o.val false)) else s
  | .blockDot cell o a b =>
    if pairTaken (operandFormat a) (operandFormat b) then
      leaveAcc s n cell.val o.val (dotAll (dotBlocks a) (dotBlocks b) (accOf s n cell.val o.val false))
    else s
  | .swapBanks cell =>
    setRegion s n { regionOf s n with
      banks := tabPut false (regionOf s n).banks cell.val (!(tabGet false (regionOf s n).banks cell.val)) }
  | .drain cell o clear dest =>
    let s1 := leaveWord s n dest (accOf s n cell.val o.val true, {})
    if clear then setAcc s1 n cell.val o.val true 0 else s1
  | .chainSum cluster first count =>
    let cells := (List.range (min count (16 - first.val))).map (fun i => 16 * cluster.val + first.val + i)
    if cells.all (fun c => reductionOf s n c == 1) then
      match cells.getLast? with
      | some d => sumTiles s n cells d
      | none => s
    else s
  | .clusterSum cluster cells dest =>
    let cs := ((List.range 16).filter (fun c => cells.any (fun d => d.val == c))).map (fun c => 16 * cluster.val + c)
    if cs.all (fun c => reductionOf s n c == 2) then sumTiles s n cs (16 * cluster.val + dest.val) else s
  | .vector o a b dest => leaveWord s n dest (vectorOp o a b)
  | .select c a b dest => leaveWord s n dest (fp32Select c a b, {})
  | .fma a b c dest => leaveWord s n dest (fp32Fma a b c)
  | .reduce sum vs dest =>
    leaveWord s n dest (reduceLanes (if sum then fp32Add else fun a b => (fp32MinMax true a b, {})) 5 vs)
  | .lookup cluster k x dest =>
    leaveWord s n dest
      (tableResult (coefficient s n cluster.val k.val) (tabGet [] (regionOf s n).latches cluster.val) k.val x)
  | .rotary p f dest =>
    let r := rotaryPair (p % 2 ^ 32) f
    writeIvory s n dest (leBytes 4 r.1.toNat ++ leBytes 4 r.2.toNat)
  | .attend .. | .merge .. | .row _ => s
  | .write dest bs => writeIvory s n dest bs

end Sys2Proof.Machine
end

