-- ==== Sys2Proof/Machine/Units.lean ====
section
/-! DEFINITION. Steps and their units: charging, contexts in save slots, the results of passes, the reissue of a step, and the regions
that units hold (R99, R209, R231, R396, R399, R405, R408). -/

namespace Sys2Proof.Machine

open Sys2Proof

/-! ## Steps -/

/-- Step `k`. -/
def stepOf (s : State) (k : Nat) : Option Step := tabGet none s.sch.steps k
def setStep (s : State) (k : Nat) (x : Option Step) : State :=
  { s with sch := { s.sch with steps := tabPut none s.sch.steps k x } }

/-- The part of step `k` for entry `i`. -/
def partOf (st : Step) (i : Nat) : Option StepReq := st.reqs.find? (fun q => q.index == i)

/-- The step under way for entry `i`. -/
def stepFor (s : State) (i : Nat) : Option Nat :=
  (s.sch.steps.find? (fun e =>
    match e.2 with
    | some st => (partOf st i).isSome
    | none => false)).map (·.1)

/-- A new step. -/
def newStep (s : State) (st : Step) : Nat × State :=
  (s.sch.nextStep,
    { s with sch := { s.sch with
        steps := tabPut none s.sch.steps s.sch.nextStep (some st), nextStep := s.sch.nextStep + 1 } })

/-- Drops the results and the waiting passes of stack attention of step `k`, as a unit of it ends. -/
def dropPasses (s : State) (k : Nat) : State :=
  { s with ucode := { s.ucode with
      results := s.ucode.results.filter (fun r => r.step != k || r.fabric)
      waiting := s.ucode.waiting.filter (fun p => p.2.step != k) } }

/-- Drops the results and the waiting passes of step `k`. -/
def dropResults (s : State) (k : Nat) : State :=
  { s with ucode := { s.ucode with
      results := s.ucode.results.filter (fun r => r.step != k)
      waiting := s.ucode.waiting.filter (fun p => p.2.step != k) } }

/-- A region's running unit; without one it is idle from now on (R576). -/
def setRunning (s : State) (n : Nat) (u : Option Unit) : State :=
  setRegion s n { regionOf s n with running := u, idleSince := s.plt.lmc }

/-! ## Leases of sequencer threads (R180; log entry 38) -/

/-- The lease slot of thread `t` of region `n`. -/
def threadLease (n t : Nat) : Nat := 16 * n + t

/-- The threads of region `n` take their leases, before a kernel of a unit reads. -/
def takeThreads (s : State) (n : Nat) : State := (List.range 16).foldl (fun u t => takeLease u (threadLease n t)) s

/-- The threads of region `n` stop, and their leases end. -/
def endThreads (s : State) (n : Nat) : State :=
  let s1 := (List.range 16).foldl (fun u t => endLease u (threadLease n t)) s
  setRegion s1 n { regionOf s1 n with threads := [] }

/-! ## Save slots (R405) -/

/-- The context in save slot `j` of region `n`. -/
def saveOf (s : State) (n j : Nat) : Option Context := tabGet none (regionOf s n).saves j
def setSave (s : State) (n j : Nat) (c : Option Context) : State :=
  setRegion s n { regionOf s n with saves := tabPut none (regionOf s n).saves j c }

/-- The live ranges of a kernel at a point on region `n`, with their bytes (R99). -/
def liveRanges (s : State) (n kernel point : Nat) : List (Nat × List Byte) :=
  match (regionOf s n).image with
  | some im =>
    (im.live.filter (fun r => r.kernel == kernel && r.point == point)).map (fun r =>
      (ivoryBase r.cluster r.cell + r.offset, readIvory s n (ivoryBase r.cluster r.cell + r.offset) r.length))
  | none => []

/-- Saves the unit on region `n` in one of its free save slots, which leaves the region free; `none` where none is free. `point` is
0xFFFF at its exit. -/
def saveUnit (s : State) (n : Nat) (u : Unit) (point : Nat) : Option State :=
  let r := chooseFree s 0 4 (fun j => (saveOf s n j).isNone)
  match r.1, stepOf s u.step with
  | some j, some st =>
    let s1 := setSave r.2 n j (some
      { step := u.step, kernel := u.kernel, atExit := point == 0xFFFF, ranges := liveRanges s n u.kernel point })
    some (setStep (setRunning s1 n none) u.step (some { st with save := some (n, j) }))
  | _, _ => none

/-- Restores the context of step `k` on region `n` and frees its slot. -/
def restoreContext (s : State) (n k : Nat) : State :=
  match stepOf s k with
  | some st =>
    match st.save with
    | some (m, j) =>
      match saveOf s m j with
      | some c =>
        let s1 := c.ranges.foldl (fun t r => writeIvory t n r.1 r.2) s
        setStep (setSave s1 m j none) k (some { st with save := none })
      | none => s
    | none => s
  | none => s

/-- Frees the save slot of a step that ends. -/
def freeSave (s : State) (st : Step) : State :=
  match st.save with
  | some (m, j) => setSave s m j none
  | none => s

/-! ## The end of a step -/

/-- Frees the region that step `k` holds in place. -/
def freeHeld (s : State) (k : Nat) : State :=
  (List.range 64).foldl (fun t n =>
    match (regionOf t n).running with
    | some u => if u.step = k ∧ u.ended then setRunning t n none else t
    | none => t) s

/-- Step `k` ends: nothing of it is left on regions and in save slots. -/
def endStep (s : State) (k : Nat) : State :=
  match stepOf s k with
  | some st => dropResults (freeHeld (setStep (freeSave s st) k none) k) k
  | none => s

/-- The part of step `k` for entry `i` ends; with its last request the step does. -/
def leaveStep (s : State) (k i : Nat) : State :=
  match stepOf s k with
  | some st =>
    let left := st.reqs.filter (fun q => q.index != i)
    if left.isEmpty then endStep s k else setStep s k (some { st with reqs := left })
  | none => s

/-! ## Charging (R399) -/

/-- The parts of a charge for requests with weights: each rounded down, and the rest to the first. -/
def splitCharge (total : Nat) (ws : List Nat) : List Nat :=
  let parts := ws.map (fun w => total * w / max 1 ws.sum)
  match parts with
  | [] => []
  | p :: ps => (p + (total - parts.sum)) :: ps

/-- A request's part: its ENGINE_NS while the entry holds it, and its tenant's deficit. -/
def chargeRequest (c : Nat) (s : State) (q : StepReq × Nat) : State :=
  let e := entryOf s q.1.index
  let s1 := if e.state != .free && e.requestId == q.1.requestId then
      modEntry s q.1.index (fun e => { e with engineNs := (e.engineNs + q.2) % 2 ^ 64 })
    else s
  let key := 4096 * c + q.1.requestId / 2 ^ 52
  match tabGet none s1.sch.shares key with
  | some sh =>
    { s1 with sch := { s1.sch with shares := tabPut none s1.sch.shares key (some { sh with deficit := sh.deficit - (q.2 : Int) }) } }
  | none => s1

/-- Charges the unit that has held region `n` until now; the pages that its passes read count for it alone. -/
def chargeUnit (s : State) (n : Nat) : State :=
  match runningUnit s n with
  | none => s
  | some u =>
    match stepOf s u.step with
    | none => s
    | some st =>
      let total := (s.plt.lmc - u.start) * 10
      let parts := splitCharge total (st.reqs.map (fun q => 1 + q.pagesRead))
      let s1 := (st.reqs.zip parts).foldl (chargeRequest st.comp) s
      let s2 := { s1 with sch := { s1.sch with
        regionNs := tabPut 0 s1.sch.regionNs st.comp ((tabGet 0 s1.sch.regionNs st.comp + total) % 2 ^ 64) } }
      setStep s2 u.step (some { st with reqs := st.reqs.map (fun q => { q with pagesRead := 0 }) })

/-! ## Reissue (R408) -/

/-- The request of a part of a step is still in a state that has work. -/
def stillReady (s : State) (q : StepReq) : Bool :=
  let e := entryOf s q.index
  q.valid && e.requestId == q.requestId &&
    (e.state == .prefill || e.state == .dropped || e.state == .decode || e.state == .handoffIn || e.state == .done)

/-- Step `k` starts again from its first unit, with the requests of its batch that have not left their ready state. -/
def reissueStep (s : State) (k : Nat) : State :=
  match stepOf s k with
  | none => s
  | some st =>
    let reqs := st.reqs.filter (stillReady s)
    let s1 := satF (endStep s k) F.schStats.reissues
    if reqs.isEmpty then s1
    else (newStep s1 { st with reqs := reqs, begun := false, complete := false, save := none }).2

/-- The unit on region `n` is abandoned: it is charged, its threads stop, and its step is reissued (R107, R399, R408). -/
def abandonUnit (s : State) (n : Nat) : State :=
  match (regionOf s n).running with
  | none => s
  | some u =>
    let s1 := chargeUnit s n
    reissueStep (endThreads (setRunning s1 n none) n) u.step

end Sys2Proof.Machine
end

