-- ==== Sys2Proof/Machine/Fabric.lean ====
section
/-! DEFINITION. Regions and the package image: loading, verification, draining, scrubbing, faults and repair
(04_structure_images.md). -/

namespace Sys2Proof.Machine

open Sys2Proof

/-! ## States of a region (R101) -/

/-- Region `n` enters a state: its events are signalled (R126), its fault record goes with FAULTED (R123), and the composition's
model is released once nothing holds it (R104). -/
def setRegionState (s : State) (n : Nat) (st : RegionState) : State :=
  let x := regionOf s n
  let s1 := setRegion s n { x with state := st, idleSince := s.plt.lmc }
  let s2 := if x.state == .faulted && st != .faulted then
      putF (putF s1 (F.fabRgnFault.cause.at n) 0) (F.fabRgnFault.cluster.at n) 0
    else s1
  let s3 := match x.comp with
    | some c => releaseModel s2 c.val
    | none => s2
  if st == .ready || st == .empty || st == .faulted then notify s3 (F.fabRgnNotify.enable.at n) (F.fabRgnNotify.vector.at n)
  else s3

/-- The cause of a FAULTED region (R123). -/
def faultCause (s : State) (n : Nat) : Nat := getF s (F.fabRgnFault.cause.at n)

/-- Scrubs region `n`: Ivory, cache and sticky flags (R105), and with them what its image had set in its cells and switches. -/
def scrubRegion (s : State) (n : Nat) : State :=
  let s1 := setRegion s n { regionOf s n with
    ivory := [], latches := [], switches := [], functions := [], acc := [], banks := [], rng := [], image := none,
    loadedHandle := 0, drainTo := none }
  clearSticky (clearCache (endThreads s1 n) n) n

/-- Region `n` is scrubbed and EMPTY. -/
def emptyRegion (s : State) (n : Nat) : State := setRegionState (scrubRegion s n) n .empty

/-- The lease slot under which a region streams an image: its first thread's (R180). -/
def loadLease (n : Nat) : Nat := threadLease n 0

/-- Region `n` enters FAULTED with a cause: a load is abandoned, kernels under way are abandoned, and the cache is written back or
poisoned (R101, R106, R107). -/
def faultRegion (s : State) (n cause cluster : Nat) : State :=
  let st := (regionOf s n).state
  let s1 := if st == .serving || st == .draining then rescueLines (abandonUnit s n) n else s
  let s2 := endThreads s1 n
  let s3 := setRegion s2 n { regionOf s2 n with loadHandle := 0, drainTo := none, image := none, loadedHandle := 0 }
  let s4 := putF (putF s3 (F.fabRgnFault.cause.at n) cause) (F.fabRgnFault.cluster.at n) cluster
  setRegionState s4 n .faulted

/-- Region `n` begins to stream an image: a handle that does not resolve to an image faults it at once (R101, R633). -/
def beginLoad (s : State) (n h : Nat) : State :=
  let s1 := setRegionState (setRegion s n { regionOf s n with loadHandle := h }) n .loading
  if resolveImage s1 h 0 then takeLease s1 (loadLease n) else faultRegion s1 n 12 0

/-! ## Region commands (R101, R121, R122) -/

/-- CMD_STATUS of region `n`: 0 OK, 1 BUSY, 2 NOT_BOUND. -/
def cmdStatus (s : State) (n status : Nat) : State := putF s (F.fabRgnState.cmdStatus.at n) status

/-- A command's write of IMAGE_HANDLE, where the write covers it. -/
def putHandle (s : State) (n : Nat) (h : Option Nat) : State :=
  match h with
  | some h => putF s (F.fabRgnCtl.imageHandle.at n) h
  | none => s

/-- IMAGE_HANDLE of region `n`. -/
def imageHandle (s : State) (n : Nat) : Nat := getF s (F.fabRgnCtl.imageHandle.at n)

/-- LOAD. -/
def doLoad (s : State) (n : Nat) : State :=
  let x := regionOf s n
  if x.state != .empty then cmdStatus s n 1
  else if x.comp.isNone then cmdStatus s n 2
  else cmdStatus (beginLoad s n (imageHandle s n)) n 0

/-- START. -/
def doStart (s : State) (n : Nat) : State :=
  if (regionOf s n).state != .ready then cmdStatus s n 1 else cmdStatus (setRegionState s n .serving) n 0

/-- DRAIN and RELOAD of a SERVING region: no new kernel is dispatched to it. -/
def beginDrain (s : State) (n : Nat) (target : Option Nat) : State :=
  let s1 := setRegionState s n .draining
  cmdStatus (setRegion s1 n { regionOf s1 n with drainTo := target }) n 0

/-- DRAIN. -/
def doDrain (s : State) (n : Nat) : State :=
  match (regionOf s n).state with
  | .ready => cmdStatus (emptyRegion s n) n 0
  | .serving => beginDrain s n none
  | _ => cmdStatus s n 1

/-- RELOAD. -/
def doReload (s : State) (n : Nat) : State :=
  if (regionOf s n).state == .serving then beginDrain s n (some (imageHandle s n)) else cmdStatus s n 1

/-- RESET. -/
def doReset (s : State) (n : Nat) : State :=
  if (regionOf s n).state == .faulted && faultCause s n != 8 && faultCause s n != 13 then cmdStatus (emptyRegion s n) n 0
  else cmdStatus s n 1

/-- The repair of a region (R114, R553, R569): the record is burned, and the region is EMPTY under its new map. DESIGN CHOICE (log entry
90): where FUSE_LOCK refuses the record, BURN_STATUS tells LOCKED and CMD_STATUS reads BUSY; R569 names no register. -/
def repairRegion (s : State) (n : Nat) : State :=
  if !spareLeft s n then cmdStatus (putF s (F.fabRgnFault.cause.at n) 13) n 0
  else if isSet s F.fuseCtl.fuseLock then cmdStatus (putF s F.fuseStatus.burnStatus 6) n 1
  else cmdStatus (emptyRegion (burnRepair s n (getF s (F.fabRgnFault.cluster.at n))) n) n 0

/-- RESET_REPAIR. -/
def doResetRepair (s : State) (n : Nat) : State :=
  if (regionOf s n).state != .faulted || faultCause s n == 13 then cmdStatus s n 1
  else if faultCause s n == 8 || faultCause s n == 9 then repairRegion s n
  else cmdStatus (emptyRegion s n) n 0

/-- LOAD (CMD 1). -/
def execLoad (n : RegionNo) (handle : Option Nat) (s : State) : Host.Outcome State Fault Refusal :=
  actAwake s (serves s 3) (.load n handle) (fun s => doLoad (putHandle s n.val handle) n.val)

/-- START (CMD 2). -/
def execStart (n : RegionNo) (handle : Option Nat) (s : State) : Host.Outcome State Fault Refusal :=
  actAwake s (serves s 3) (.start n handle) (fun s => doStart (putHandle s n.val handle) n.val)

/-- DRAIN (CMD 3). -/
def execDrain (n : RegionNo) (handle : Option Nat) (s : State) : Host.Outcome State Fault Refusal :=
  actAwake s (serves s 3) (.drain n handle) (fun s => doDrain (putHandle s n.val handle) n.val)

/-- RELOAD (CMD 4). -/
def execReload (n : RegionNo) (handle : Option Nat) (s : State) : Host.Outcome State Fault Refusal :=
  actAwake s (serves s 3) (.reload n handle) (fun s => doReload (putHandle s n.val handle) n.val)

/-- RESET (CMD 5). -/
def execReset (n : RegionNo) (handle : Option Nat) (s : State) : Host.Outcome State Fault Refusal :=
  actAwake s (serves s 3) (.reset n handle) (fun s => doReset (putHandle s n.val handle) n.val)

/-- RESET_REPAIR (CMD 6). -/
def execResetRepair (n : RegionNo) (handle : Option Nat) (s : State) : Host.Outcome State Fault Refusal :=
  actAwake s (serves s 3) (.resetRepair n handle) (fun s => doResetRepair (putHandle s n.val handle) n.val)

/-! ## The course of a load (R101 to R104) -/

/-- The read of the image of region `n` ends, from its object: VERIFYING, or LOAD_READ where it failed. -/
def endRead (s : State) (n : Nat) (read : ReadEnd) : State :=
  let r := readImage s (regionOf s n).loadHandle read
  match r.1 with
  | some im =>
    let s1 := endLease r.2 (loadLease n)
    setRegionState (setRegion s1 n { regionOf s1 n with image := some im }) n .verifying
  | none => faultRegion r.2 n 11 0

/-- IMAGE_READ_COMPLETE: the read of the image ends. -/
def execImageReadComplete (n : RegionNo) (read : ReadEnd) (s : State) : Host.Outcome State Fault Refusal :=
  act s (runs s && (regionOf s n.val).state == .loading && !mustWait s (regionOf s n.val).loadHandle) (fun s => endRead s n.val read)

/-- The image of the microcode that composition `c` is attached to names the same model (check 8). -/
def microcodeMatches (s : State) (c : Nat) (im : Image) : Bool :=
  match tabGet none s.ucode.attached c with
  | some j =>
    match (tabGet {} s.ucode.slots j.val).image with
    | some u => identityOf u == identityOf im
    | none => true
  | none => true

/-- The first states of the generators of a region's cells (R76). -/
def seedCells (seed : BitVec 64) : Tab (BitVec 32) :=
  (List.range 192).foldl (fun m k => tabPut 0 m k (Config.cellSeed seed k)) []

/-- What the sections of a type give the 12 logical clusters. -/
def perCluster {α : Type} [DecidableEq α] (d : α) (im : Image) (t : Nat) (f : List Byte → α) : Tab α :=
  (List.range 12).foldl (fun m j => if (im.sections.any (fun e => e.type == t && e.target == j)) then tabPut d m j (f (im.clusterBody t j)) else m)
    []

/-- The function memories of the logical clusters: 6,144 words each, those of the cluster's FUNCTION_TABLES (R62, R96). -/
def functionWords (im : Image) : Tab (BitVec 32) :=
  (List.range 12).foldl (fun m j =>
    tabPutRun 0 m (6144 * j) ((bodyEntries 4 ((im.clusterBody 4 j).take 24576)).map (fun b => BitVec.ofNat 32 (leNat b)))) []

/-- The initial contents that an IVORY_INIT section gives the Ivory of its target (R95). -/
def initIvory (s : State) (n : Nat) (e : SectionEntry) : State :=
  let base := if e.target ≤ 11 then ivoryBase e.target 0 else 0
  (Config.ivoryPlan e.target e.body).foldl (fun t b => writeIvory t n (base + b.1) [b.2]) s

/-- An image that passes is in place: the latches of its cells, its switches, function memories and generators are set, and its initial
Ivory contents are written (R46, R62, R66, R76, R91, R95). -/
def placeImage (s : State) (n : Nat) (im : Image) : State :=
  let x := regionOf s n
  let s1 := setRegion s n { x with
    loadedHandle := x.loadHandle, loadHandle := 0, latches := perCluster [] im 1 id, switches := perCluster [] im 2 id,
    functions := functionWords im, rng := seedCells im.roundingSeed }
  (im.sections.filter (fun e => e.type == 5)).foldl (fun t e => initIvory t n e) s1

/-- The end of VERIFYING. -/
def endVerify (s : State) (n : Nat) (readbackOk : Bool) : State :=
  match (regionOf s n).image, (regionOf s n).comp with
  | some im, some c =>
    let r := verifyImage s 1 c.val im (microcodeMatches s c.val im) readbackOk
    match r.1 with
    | some cause => faultRegion r.2 n cause 0
    | none => setRegionState (placeImage (fixModel r.2 c.val im) n im) n .ready
  | _, _ => s

/-- VERIFY_COMPLETE: the checks of R102 are made. -/
def execVerifyComplete (n : RegionNo) (readbackOk : Bool) (s : State) : Host.Outcome State Fault Refusal :=
  act s (runs s && (regionOf s n.val).state == .verifying) (fun s => endVerify s n.val readbackOk)

/-! ## The end of a drain (R101, R105, R106) -/

/-- Nothing holds region `n` any more: a unit that completed in place is saved first, where a slot is free (R405). -/
def vacate (s : State) (n : Nat) : Option State :=
  match (regionOf s n).running with
  | none => some s
  | some u => if u.ended then saveUnit s n u 0xFFFF else none

/-- The region is written back and scrubbed, and goes on as its target says. -/
def endDrain (s : State) (n : Nat) : State :=
  match vacate s n with
  | none => s
  | some s1 =>
    let target := (regionOf s1 n).drainTo
    let s2 := scrubRegion (writeBackAll s1 n) n
    match target with
    | some h => beginLoad s2 n h
    | none => setRegionState s2 n .empty

/-- DRAIN_COMPLETE: kernels done, live ranges saved, cache written back, scrub done. -/
def execDrainComplete (n : RegionNo) (s : State) : Host.Outcome State Fault Refusal :=
  act s (runs s && (regionOf s n.val).state == .draining) (fun s => endDrain s n.val)

/-! ## Faults (R101, R115) -/

/-- CLUSTER_FAULT: a cluster fault or an uncorrectable Ivory error in physical cluster `cluster`; one in a cluster that no logical cluster
of the region stands for (R113), or in a FAULTED region, changes nothing. -/
def execClusterFault (n : RegionNo) (cluster : Fin 256) (kind : ClusterFaultKind) (s : State) : Host.Outcome State Fault Refusal :=
  act s (runs s && (clustersInUse s n.val).contains cluster.val && (regionOf s n.val).state != .faulted) (fun s =>
    faultRegion s n.val (match kind with | .cluster => 8 | .ivory => 9) cluster.val)

/-! ## The package image (R111, R112, R118) -/

/-- FAB_PKG_STATUS. -/
def pkgStatus (s : State) (st : Nat) : State := putF s F.fabPkgCtl.fabPkgStatus st

/-- Every region is EMPTY or FAULTED. -/
def regionsIdle (s : State) : Bool := s.fab.regions.all (fun e => e.2.state == .empty || e.2.state == .faulted)

/-- The load of a package image begins: its engine holds a lease of its group while it reads, and waits for one (R180). -/
def beginPackage (s : State) (h : Nat) : State :=
  if (s.fab.pkgLoading).isSome || !regionsIdle s then pkgStatus s 1
  else if !resolveImage s h 0 then pkgStatus s 2
  else
    let k := engineLease s
    let s1 := match k with
      | some j => takeLease s j
      | none => s
    pkgStatus { s1 with fab := { s1.fab with pkgLoading := some (h, k) } } 7

/-- FAB_PKG_LOAD: 1 written to FAB_PKG_LOAD, with FAB_PKG_HANDLE. -/
def execFabPkgLoad (handle : Nat) (s : State) : Host.Outcome State Fault Refusal :=
  actAwake s (serves s 3) (.fabPkgLoad handle) (fun s => beginPackage (putF s F.fabPkgCtl.fabPkgHandle handle) (handle % 2 ^ 32))

/-- The checks of R112 in order, as a FAB_PKG_STATUS, with the digest that passed. -/
def verifyPackage (s : State) (im : Image) : Nat × State :=
  if !headerGood s im then (3, s)
  else if !forB0 im then (9, s)
  else if im.kind != 0 || im.role != 0 || im.modelId != 0 || im.adapterId != 0 || im.pkgMinVersion != 0 then (3, s)
  else if !wellFormed im then (3, s)
  else if im.securityVersion < getF s F.fabCtl.fabImageFloor then (4, s)
  else
    let r := checkSignature s im
    (if r.1 then 0 else 5, r.2)

/-- A package image that was read is checked and takes the place of the earlier one; a failed load leaves the earlier one. A region that
left EMPTY and FAULTED meanwhile keeps the image out (R111). -/
def placePackage (s : State) (h : Nat) (image : Option Image) : State :=
  match image with
  | none => pkgStatus s 6
  | some im =>
    if !regionsIdle s then pkgStatus s 1
    else
      let r := verifyPackage s im
      if r.1 = 0 then
        putF (putF (pkgStatus { r.2 with fab := { r.2.fab with pkg := some im } } 0) F.fabPkgLoaded.fabPkgLoadedHandle h)
          F.fabPkgLoaded.fabPkgLoadedVersion im.securityVersion
      else pkgStatus r.2 r.1

/-- The read of the package image ends; an engine that still waits for its lease reads under one taken now, or waits on (R180). -/
def endPackage (s : State) (h : Nat) (k : Option Nat) (read : ReadEnd) : State :=
  if k.isNone && !canLease s || mustWait s h then s
  else
    let r := readImage s h read
    let s1 := match k with
      | some j => endLease r.2 j
      | none => r.2
    placePackage { s1 with fab := { s1.fab with pkgLoading := none } } h r.1

/-- PACKAGE_LOAD_COMPLETE: the read of the package image ends. -/
def execPackageLoadComplete (read : ReadEnd) (s : State) : Host.Outcome State Fault Refusal :=
  act s (runs s) (fun s =>
    match s.fab.pkgLoading with
    | none => s
    | some (h, k) => endPackage s h k read)

/-- FAB_VDC_FLUSH: the verified-digest cache is emptied. -/
def execFabVdcFlush (s : State) : Host.Outcome State Fault Refusal := actAwake s (serves s 3) .fabVdcFlush flushDigests

end Sys2Proof.Machine
end

