-- ==== Sys2Proof/Machine/Microcode.lean ====
section
/-! DEFINITION. Stack attention: microcode slots, attachments, the routing and issue of passes, their results, and the faults of stack
cores and of pages (07_stack_attention.md). -/

namespace Sys2Proof.Machine

open Sys2Proof

/-! ## Slots and attachments (R195, R220 to R222) -/

/-- Microcode slot `j`. -/
def slotOf (s : State) (j : Nat) : UcodeSlot := tabGet {} s.ucode.slots j
def setSlot (s : State) (j : Nat) (x : UcodeSlot) : State :=
  { s with ucode := { s.ucode with slots := tabPut {} s.ucode.slots j x } }

/-- The slot to which composition `c` is attached. -/
def attachedTo (s : State) (c : Nat) : Option (Fin 16) := tabGet none s.ucode.attached c

/-- A load into a slot runs. -/
def isLoading (s : State) : Bool :=
  (List.range 16).any (fun j => (slotOf s j).state == .loading || (slotOf s j).state == .verifying)

/-- STATUS of STK_UCODE_CTL: 0 OK, 1 BUSY, 2 NOT_BOUND, 3 NO_SLOT, 4 in progress, 5 MISMATCH, 6 LOAD_FAILED. While a load into a slot
runs, it reads in progress (R195). -/
def ucodeStatus (s : State) (st : Nat) : State := putF s F.stkUcodeCtl.status (if isLoading s then 4 else st)

/-- Signals the vector of STK_ATTN_NOTIFY. -/
def attnNotify (s : State) : State := notify s F.stkAttnNotify.enable F.stkAttnNotify.vector

/-- Composition `c` is attached to slot `j`, whose image fixes its model (R104). -/
def attachComp (s : State) (c : Nat) (j : Fin 16) (im : Image) : State :=
  let x := slotOf s j.val
  let s1 := setSlot s j.val { x with users := x.users + 1 }
  fixModel { s1 with ucode := { s1.ucode with attached := tabPut none s1.ucode.attached c (some j) } } c im

/-- A READY slot that holds the handle. -/
def readySlot (s : State) (h : Nat) : Option (Fin 16) :=
  (List.finRange 16).find? (fun j => (slotOf s j.val).state == .ready && (slotOf s j.val).handle == h)

/-- The image of a READY slot against a composition: checks 3 and 8 of R102. -/
def slotMatches (s : State) (c : Nat) (im : Image) : Bool := im.role == roleCode (roleOf s c) && modelMatches s c im

/-- A slot goes to FAULTED with a cause, and ATTACH ends with LOAD_FAILED. -/
def faultSlot (s : State) (j cause : Nat) : State :=
  attnNotify (ucodeStatus (setSlot s j { state := .faulted, handle := (slotOf s j).handle, cause := cause }) 6)

/-- A load begins into an EMPTY slot, which the part chooses; the engine that reads takes its lease, or waits for one (R142, R180). -/
def beginUcode (s : State) (h c : Nat) : State :=
  let r := chooseFree s 0 16 (fun j => (slotOf s j).state == .empty)
  match r.1 with
  | none => ucodeStatus r.2 3
  | some j =>
    let s1 := setSlot r.2 j { state := .loading, handle := h }
    if !resolveImage s1 h 1 then faultSlot s1 j 12
    else
      let k := engineLease s1
      let s2 := match k with
        | some m => takeLease s1 m
        | none => s1
      ucodeStatus (setSlot s2 j
        { state := .loading, handle := h, loadFor := some ⟨c % 256, Nat.mod_lt _ (by decide)⟩, lease := k }) 4

/-- An ATTACH of composition `c` waits for a load. -/
def isAttaching (s : State) (c : Nat) : Bool := (List.range 16).any (fun j => ((slotOf s j).loadFor.map (·.val)) == some c)

/-- ATTACH of composition `c` to the microcode that `h` names. One for a composition whose ATTACH or DETACH is under way completes with
BUSY (log entry 20). -/
def doAttach (s : State) (h c : Nat) : State :=
  if (compOf s c).isNone then ucodeStatus s 2
  else if (attachedTo s c).isSome || isAttaching s c then ucodeStatus s 1
  else
    match readySlot s h with
    | some j =>
      match (slotOf s j.val).image with
      | some im => if slotMatches s c im then ucodeStatus (attachComp s c j im) 0 else ucodeStatus s 5
      | none => ucodeStatus s 5
    | none => beginUcode s h c

/-- ATTACH: CMD 1 written to STK_UCODE_CTL. -/
def execAttach (handle : Nat) (comp : CompNo) (s : State) : Host.Outcome State Fault Refusal :=
  actAwake s (serves s 4) (.attach handle comp) (fun s =>
    doAttach (putF (putF s F.stkUcodeCtl.handle handle) F.stkUcodeCtl.composition comp.val) (handle % 2 ^ 32) comp.val)

/-- VERIFYING of a slot: the checks of R102 with KIND 2 on the image that was read, and the attachment that waits for them. -/
def verifyUcode (s : State) (j : Fin 16) (c : CompNo) (im : Image) (readbackOk : Bool) : State :=
  let r := verifyImage s 2 c.val im true readbackOk
  match r.1 with
  | some cause => faultSlot r.2 j.val cause
  | none =>
    let s1 := setSlot r.2 j.val { state := .ready, handle := (slotOf s j.val).handle, image := some im }
    attnNotify (ucodeStatus (attachComp s1 c.val j im) 0)

/-- The end of a slot's load: its read ends, and with it the lease, and the slot goes through VERIFYING. An engine that still waits for
its lease reads under one taken now, or waits on (R180). -/
def endUcode (s : State) (j : Fin 16) (c : CompNo) (read : ReadEnd) (readbackOk : Bool) : State :=
  let x := slotOf s j.val
  if x.lease.isNone && !canLease s || mustWait s x.handle then s
  else
    let r := readImage s x.handle read
    let s1 := match x.lease with
      | some k => endLease r.2 k
      | none => r.2
    match r.1 with
    | none => faultSlot s1 j.val 11
    | some im => verifyUcode (setSlot s1 j.val { x with state := .verifying, lease := none }) j c im readbackOk

/-- UCODE_LOAD_COMPLETE: the load of a slot ends. -/
def execUcodeLoadComplete (slot : Fin 16) (read : ReadEnd) (readbackOk : Bool) (s : State) : Host.Outcome State Fault Refusal :=
  act s (runs s) (fun s =>
    match (slotOf s slot.val).loadFor with
    | some c => endUcode s slot c read readbackOk
    | none => s)

/-- DETACH of composition `c` (R197). -/
def doDetach (s : State) (c : Nat) : State :=
  if (compOf s c).isNone then ucodeStatus s 2
  else if (attachedTo s c).isNone then ucodeStatus s 0
  else ucodeStatus { s with ucode := { s.ucode with detaching := tabPut false s.ucode.detaching c true } } 4

/-- DETACH: CMD 2 written to STK_UCODE_CTL. -/
def execDetach (comp : CompNo) (s : State) : Host.Outcome State Fault Refusal :=
  actAwake s (serves s 4) (.detach comp) (fun s => doDetach (putF s F.stkUcodeCtl.composition comp.val) comp.val)

/-- A step of composition `c`. -/
def stepIn (s : State) (c k : Nat) : Bool :=
  match stepOf s k with
  | some st => st.comp == c
  | none => false

/-- A stack-routed layer step of composition `c` is under way: passes wait or run, or their results wait for the end of the unit. -/
def stackBusy (s : State) (c : Nat) : Bool :=
  s.ucode.waiting.any (fun p => p.2.comp == c) ||
    s.ucode.passes.any (fun e => match e.2 with | some p => p.comp == c | none => false) ||
    s.ucode.results.any (fun r => stepIn s c r.step)

/-- Composition `c` leaves its slot, which returns to EMPTY with its last user. -/
def detachComp (s : State) (c : Nat) : State :=
  match attachedTo s c with
  | none => s
  | some j =>
    let x := slotOf s j.val
    let s1 := setSlot s j.val (if x.users ≤ 1 then {} else { x with users := x.users - 1 })
    releaseModel { s1 with ucode := { s1.ucode with
      attached := tabPut none s1.ucode.attached c none, detaching := tabPut false s1.ucode.detaching c false } } c

/-- DETACH_COMPLETE: every stack-routed layer step dispatched before has ended. -/
def execDetachComplete (comp : CompNo) (s : State) : Host.Outcome State Fault Refusal :=
  act s (runs s && tabGet false s.ucode.detaching comp.val && !stackBusy s comp.val) (fun s =>
    ucodeStatus (detachComp s comp.val) 0)

/-- STK_UCODE_CLEAR: FAULTED slots whose bits are 1 return to EMPTY (R221). -/
def execStkUcodeClear (mask : BitVec 64) (s : State) : Host.Outcome State Fault Refusal :=
  actAwake s (serves s 4) (.stkUcodeClear mask) (fun s =>
    (List.range 16).foldl (fun t j => if mask.getLsbD j && (slotOf t j).state == .faulted then setSlot t j {} else t) s)

/-! ## Stack cores (R192, R216) -/

/-- Core `i` of stack `st` is in service (R223). -/
def coreOk (s : State) (st i : Nat) : Bool := (getF s (F.stkCoreStatus.coreOk.at st)).testBit i

/-- No core of stack `st` works. -/
def stackDead (s : State) (st : Nat) : Bool := getF s (F.stkCoreStatus.coreOk.at st) == 0

/-- The pass in lease slot `k`, 4 × core + slot with cores numbered 4 × stack + core (R180). -/
def passOf (s : State) (k : Nat) : Option Pass := tabGet none s.ucode.passes k

/-- A waiting pass takes a free slot of a core of its stack, which the part chooses, and its lease; with it, it reads the manifest entries
of its pages (R205). -/
def placePass (s : State) (st : Nat) (p : Pass) : Option State :=
  let r := chooseFree s (16 * st) 16 (fun k => coreOk s st (k % 16 / 4) && (passOf s k).isNone)
  match r.1 with
  | some k => some (takeLease { r.2 with ucode := { r.2.ucode with passes := tabPut none r.2.ucode.passes k (some p) } } (1024 + k))
  | none => none

/-! ## Routing and issue (R193, R196, R201, R207, R216) -/

/-- The layer table entry of layer `l` for composition `c` (R194). -/
def layerOf (s : State) (c l : Nat) : Option LayerEntry :=
  (attachedTo s c).bind (fun j => ((slotOf s j.val).image).bind (fun im => im.layerTable[l]?))

/-- Composition `c` holds pages on a stack without a working core (R216). -/
def onDeadStack (s : State) (c : Nat) : Bool :=
  match compOf s c with
  | some x => s.stk.pages.any (fun e => inKvArea x e.1 && stackDead s (e.1 / 2 ^ 24))
  | none => false

/-- Query positions of a part of a step. -/
def positionsOf (q : StepReq) : Nat :=
  match q.kind with
  | .decode => 1 + q.tree.length
  | .redraw => 1
  | .prefill | .recompute => q.upTo - q.position

/-- Routes of a layer step (R193): stack attention, fabric attention, or a wait for the microcode (R196). -/
inductive Route where
  | stack (e : LayerEntry)
  | fabric
  | wait
deriving DecidableEq, Repr

/-- The route of `count` query positions of layer `l` of composition `c`. Without a layer table G is unknown: more than 64 positions
go to the fabric whatever it is. -/
def routeOf (s : State) (c l count : Nat) : Route :=
  if 64 < count || onDeadStack s c then .fabric
  else
    match layerOf s c l with
    | none => .wait
    | some e =>
      if 64 < e.queryPerKv * count then .fabric
      else if tabGet false s.ucode.detaching c then .wait
      else .stack e

/-- The depth of node `k` of a tree: the root has depth 0 (R262). -/
def depthOf (tree : List CandNode) : Nat → Nat → Nat
  | 0, _ => 0
  | fuel + 1, k => if k = 0 then 0 else depthOf tree fuel (((tree[k - 1]?).map (·.parent)).getD 0) + 1

/-- The ancestor map of node `k` (R263). -/
def ancestorMap (tree : List CandNode) : Nat → Nat → BitVec 64
  | 0, k => (1#64) <<< k
  | fuel + 1, k =>
    if k = 0 then 1#64 else ((1#64) <<< k) ||| ancestorMap tree fuel (((tree[k - 1]?).map (·.parent)).getD 0)

/-- The position of node `k` of a part of a step. -/
def nodePosition (q : StepReq) (k : Nat) : Nat :=
  match q.kind with
  | .decode => q.position + depthOf q.tree 64 k
  | .redraw => q.position - 1
  | .prefill | .recompute => q.position + k

/-- The step rows that node `k` may attend. -/
def nodeMask (q : StepReq) (k : Nat) : BitVec 64 :=
  match q.kind with
  | .decode => ancestorMap q.tree 64 k
  | .redraw => 0
  | .prefill | .recompute => BitVec.ofNat 64 (2 ^ (k + 1) - 1)

/-- The step rows of a part of a step: node and position. A redraw step writes none (R277). -/
def stepRowsOf (q : StepReq) : List (Nat × Nat) :=
  match q.kind with
  | .redraw => []
  | _ => (List.range (positionsOf q)).map (fun k => (k, nodePosition q k))

/-- A query row of a part of a step, with its position and its ancestor map. -/
def rowOf (q : StepReq) (r : QueryRow) : PassRow :=
  { query := r.query, node := r.node, position := nodePosition q r.node, mask := nodeMask q r.node, vector := r.vector }

/-- A page holds positions that the window of some query row of the step lets it attend (R207). -/
def pageWanted (w : Nat) (q : StepReq) (p : Nat) : Bool :=
  (List.range (positionsOf q)).any (fun k => inWindow w (nodePosition q k) (64 * p + 63))

/-- The pages of layer `l` that hold committed positions or step rows of a part of a step, with their granules (R201). -/
def pagesRead (s : State) (q : StepReq) (l w : Nat) : List (Nat × Nat) :=
  let top := ceilDiv (q.position + (stepRowsOf q).length) 64
  ((List.range top).filter (fun p => (pageEntry (manifestOf s q.index) l p).valid && pageWanted w q p)).map (fun p =>
    (p, (pageEntry (manifestOf s q.index) l p).page))

/-- A list in groups of 16 (R193). -/
def groups16 {α : Type} (l : List α) : List (List α) := (List.range ((l.length + 15) / 16)).map (fun i => (l.drop (16 * i)).take 16)

/-- The pages on stack `st` that a pass of a valid part of a step reads, as its manifest names them now; none for a part that was
discarded. -/
def pagesNow (s : State) (st : Nat) (p : Pass) : Option (List (Nat × Nat)) :=
  match (stepOf s p.step).bind (fun x => partOf x p.index), ((slotOf s p.slot).image).bind (fun im => im.layerTable[p.layer]?) with
  | some q, some e => if q.valid then some ((pagesRead s q p.layer e.window).filter (fun x => x.2 / 2 ^ 24 == st)) else none
  | _, _ => none

/-- Waiting passes take the free slots, in issue order (R215); those of a part that was discarded are issued no more. -/
def fillCores (s : State) : State :=
  s.ucode.waiting.foldl (fun t w =>
    match pagesNow t w.1 w.2 with
    | none => t
    | some ps =>
      match placePass t w.1 { w.2 with pages := ps } with
      | some u => u
      | none => { t with ucode := { t.ucode with waiting := t.ucode.waiting ++ [w] } })
    { s with ucode := { s.ucode with waiting := [] } }

/-- The passes of one request's layer step, with their stacks (R193, R199, R201). -/
def passesOf (s : State) (k c : Nat) (q : StepReq) (w : LayerWork) (e : LayerEntry) (heads : Nat) (slot : Nat) :
    List (Nat × Pass) :=
  let pages := pagesRead s q w.layer e.window
  let homes := (List.range 32).filter (fun st => pages.any (fun p => p.2 / 2 ^ 24 == st))
  (homes.map (fun st =>
    ((List.range heads).map (fun h =>
      (groups16 (w.queries.filter (fun r => r.index == q.index && r.head == h))).map (fun rs =>
        (st, ({ step := k, index := q.index, comp := c, slot := slot, layer := w.layer, head := h, length := q.position,
                pages := pages.filter (fun p => p.2 / 2 ^ 24 == st), stepRows := stepRowsOf q,
                rows := rs.map (rowOf q) } : Pass))))).flatten)).flatten

/-- Issues the passes of the requests of a step that are routed to the stacks, and counts the pages that they read (R399). -/
def issuePasses (s : State) (k : Nat) (st : Step) (w : LayerWork) : State :=
  match descOf s st.comp, attachedTo s st.comp with
  | some d, some slot =>
    let per := st.reqs.map (fun q =>
      match routeOf s st.comp w.layer (positionsOf q) with
      | .stack e => (q, if q.valid then passesOf s k st.comp q w e d.kvHeads slot.val else [])
      | _ => (q, []))
    let s1 := setStep s k (some { st with
      reqs := per.map (fun x => { x.1 with pagesRead := x.1.pagesRead + (x.2.map (fun p => p.2.pages.length)).sum }) })
    fillCores { s1 with ucode := { s1.ucode with waiting := s1.ucode.waiting ++ (per.map (·.2)).flatten } }
  | _, _ => s

/-- A row that a step writes at row index FILL + node of the tail, or of the page that it prefills (R175, R269). -/
def writeRow (s : State) (st : Step) (w : RowWrite) : State :=
  match partOf st w.index, descOf s st.comp with
  | some q, some d =>
    let n := q.position + w.node
    let e := pageEntry (manifestOf s w.index) w.layer (n / 64)
    if q.valid && q.kind != .redraw && decide (w.node < positionsOf q) && decide (w.head < d.kvHeads) && e.valid &&
        (pageOf s e.page).state == .open_ then
      memWrite s (granuleAddr e.page + rowOffset d w.head w.value.toNat (n % 64)) (w.bytes.take (rowBytes d))
    else s
  | _, _ => s

/-- Passes of step `k` wait or run. -/
def passesLeft (s : State) (k : Nat) : Bool :=
  s.ucode.waiting.any (fun p => p.2.step == k) ||
    s.ucode.passes.any (fun e => match e.2 with | some p => p.step == k | none => false)

/-- A partial result belongs to a query row of a layer step. -/
def isOfRow (k index layer head query node : Nat) (r : PassResult) : Bool :=
  r.step == k && r.index == index && r.layer == layer && r.head == head && r.query == query && r.node == node

/-- The results of a query row join (R209), and their output is left in Ivory, converted at a conversion site to the format that the image
names. -/
def mergeRow (s : State) (n k index layer head query node : Nat) (format : Format) (site cell dest : Nat) : State :=
  let r := mergeAll (s.ucode.results.filter (isOfRow k index layer head query node))
  let s1 := { s with ucode := { s.ucode with results := s.ucode.results.filter (fun r => !isOfRow k index layer head query node r) } }
  leaveConverted (setSticky s1 n r.2) n cell site dest format (r.1.map fp32Value)

/-! ## Attention in the fabric (R210, R211) -/

/-- What a row attends on page `x`: committed rows of the page at granule `g`, where the manifest names one, and new rows of the step
from Ivory, which stand there in the KV format (log entry 75). -/
def fabricSeen (s : State) (n : Nat) (d : ModelDescriptor) (q : StepReq) (window : Nat) (scale : BitVec 32) (r : PassRow) (head x : Nat)
    (g : Option Nat) (rows : List IvoryRow) : List Seen :=
  let old := match g with
    | some g => ((pageRows q.position x []).filter (fun t => mayAttend window r t.1 t.2.2)).map (fun t =>
        seenRow d.kvFormat scale r.vector (kvRow s d g head 0 t.2.1) (kvRow s d g head 1 t.2.1))
    | none => []
  old ++ ((rows.filter (fun w => (q.position + w.node) / 64 == x &&
      mayAttend window r (nodePosition q w.node) (some w.node))).map (fun w =>
    seenRow d.kvFormat scale r.vector (readIvory s n w.key (rowBytes d)) (readIvory s n w.value (rowBytes d))))

/-- Fabric attention of one query row over `count` pages from page index `first` on: a partial result, as a pass returns one. The
thread reads under its lease (R180), and pages of a part that was discarded are read no more. -/
def attendPages (s : State) (n k thread layer window : Nat) (scale : BitVec 32) (row : QueryRow) (first count : Nat)
    (rows : List IvoryRow) : State :=
  match (stepOf s k).bind (fun st => (partOf st row.index).map (fun q => (st, q))) with
  | none => s
  | some (st, q) =>
    match descOf s st.comp with
    | none => s
    | some d =>
      if !q.valid || (tabGet none s.stk.leases (threadLease n thread)).isNone then s
      else
        let t := (List.range count).foldl (fun a j =>
          let e := pageEntry (manifestOf s row.index) layer (first + j)
          statPage a (fabricSeen s n d q window scale (rowOf q row) row.head (first + j) (if e.valid then some e.page else none) rows))
          (statStart d.headDim)
        let s1 := { s with ucode := { s.ucode with results := s.ucode.results ++
          [{ step := k, index := row.index, layer := layer, head := row.head, query := row.query, node := row.node, lowest := first,
             fabric := true, m := t.m, l := t.l, o := t.o }] } }
        setSticky s1 n t.flags

/-! ## The end of a pass (R216, R217) -/

/-- Drops block `b` of entry `i` in every layer, whatever the REFS of its pages (R217, R355). -/
def dropBlock (s : State) (i b layers : Nat) : State :=
  (List.range layers).foldl (fun t l =>
    let e := pageEntry (manifestOf t i) l b
    if e.valid then removeRef (setPageEntry t i l b { e with valid := false, dropped := true, page := 0 }) e.page else t) s

/-- The manifest of entry `i` names granule `g` for layer `l`, page `b`. -/
def holdsPage (s : State) (i l b g : Nat) : Bool :=
  let e := pageEntry (manifestOf s i) l b
  e.valid && e.page == g

/-- A pass met an uncorrectable error in the page at granule `g`: the step does not commit, and the block leaves the manifest of the
request that still references the page, whatever has become of the step (R217). -/
def badPage (s : State) (p : Pass) (g : Nat) : State :=
  let s1 := latch s F.stkAttnErr.valid F.stkAttnErr.overflow (fun u => putF u F.stkAttnErr.granule g)
  let s2 := if isSet s F.stkAttnErr.valid then s1 else attnNotify s1
  let s3 := { s2 with stk := { s2.stk with outOfUse := tabPut false s2.stk.outOfUse g true } }
  match p.pages.find? (fun x => x.2 == g), descOf s3 p.comp with
  | some x, some d =>
    if !holdsPage s3 p.index p.layer x.1 g then s3
    else
      let s4 := dropBlock (seizeEntry s3 p.index) p.index x.1 d.layers
      if (entryOf s4 p.index).state == .decode then modEntry s4 p.index (fun e => { e with state := .dropped }) else s4
  | _, _ => s3

/-- The pass in slot `k` of stack `st` ends: its lease ends, and its results wait for the merge of its step. -/
def endPass (s : State) (st k : Nat) (p : Pass) (bad : Option Nat) : State :=
  let s1 := endLease { s with ucode := { s.ucode with passes := tabPut none s.ucode.passes k none } } (1024 + k)
  let s2 := wrapF s1 (F.stkCoreStatus.passes.at st) 1
  let s3 := match bad with
    | some g => badPage s2 p g
    | none =>
      match stepOf s p.step, descOf s p.comp, ((slotOf s p.slot).image).bind (fun im => im.layerTable[p.layer]?) with
      | some _, some d, some e => { s2 with ucode := { s2.ucode with results := s2.ucode.results ++ passResults s d p e } }
      | _, _, _ => s2
  fillCores s3

/-- PASS_COMPLETE: a pass has read its last row, or has met the page at granule `bad` that it cannot read. -/
def execPassComplete (st : StackNo) (core slot : Fin 4) (bad : Option Nat) (s : State) : Host.Outcome State Fault Refusal :=
  act s (runs s) (fun s =>
    let k := 16 * st.val + 4 * core.val + slot.val
    match passOf s k with
    | some p => endPass s st.val k p bad
    | none => s)

/-- A step whose passes no core of their stack can run any more starts again, routed anew (R216; log entry 21). -/
def restartStep (s : State) (k : Nat) : State :=
  match stepOf s k with
  | none => s
  | some st =>
    let s1 := (List.range 64).foldl (fun t n =>
      match runningUnit t n with
      | some u =>
        if u.step = k then
          endThreads (setRunning (chargeUnit t n) n none) n
        else t
      | none => t) s
    let s2 := endStep s1 k
    let reqs := st.reqs.filter (stillReady s)
    if reqs.isEmpty then s2 else (newStep s2 { st with reqs := reqs, begun := false, complete := false, save := none }).2

/-- A stack core leaves service until the next cold reset; its passes are issued again on the other cores of its stack (R216). -/
def loseCore (s : State) (st core : Nat) : State :=
  let s1 := attnNotify (putF s (F.stkCoreStatus.coreOk.at st) (getF s (F.stkCoreStatus.coreOk.at st) - 2 ^ core))
  let lost := ((List.range 4).map (fun j => 16 * st + 4 * core + j)).filterMap (fun k => (passOf s k).map (fun p => (k, p)))
  let s2 := lost.foldl (fun t x => endLease { t with ucode := { t.ucode with
      passes := tabPut none t.ucode.passes x.1 none } } (1024 + x.1)) s1
  let s3 := { s2 with ucode := { s2.ucode with waiting := lost.map (fun x => (st, x.2)) ++ s2.ucode.waiting } }
  if stackDead s3 st then (((s3.ucode.waiting.filter (fun w => w.1 == st)).map (fun w => w.2.step)).dedup).foldl restartStep s3
  else fillCores s3

/-- STACK_CORE_FAULT: a core fails a self-check or stops acknowledging. -/
def execStackCoreFault (st : StackNo) (core : Fin 4) (s : State) : Host.Outcome State Fault Refusal :=
  act s (runs s && coreOk s st.val core.val) (fun s => loseCore s st.val core.val)

end Sys2Proof.Machine
end

