-- ==== Sys2Proof/Machine/Bind.lean ====
section
/-! DEFINITION. Compositions and shares: BIND, UNBIND, ADD_REGIONS, REMOVE_REGIONS and SET (R387 to R395, R551). -/

namespace Sys2Proof.Machine

open Sys2Proof

/-- The vector of SCH_CTL. -/
def schNotify (s : State) : State := notify s F.schCtl.notifyEnable F.schCtl.vector

/-- The status of SCH_COMP_CMD at the completion of a command: 0 OK, 1 BUSY, 2 IN_USE, 3 BAD_ROLE, 4 NOT_BOUND, 5 NOT_CONFIGURED,
6 OUT_OF_RANGE, 7 NOT_EMPTY. -/
def compStatus (s : State) (st : Nat) : State := schNotify (putF s F.schCompCmd.status st)

/-- The regions that SCH_BIND_REGIONS names. -/
def namedRegions (s : State) : List Nat := (List.range 64).filter (fun n => (getF s F.schBindRegions.regions).testBit n)

/-- A region is EMPTY and belongs to no composition. -/
def isLoose (s : State) (n : Nat) : Bool := (regionOf s n).state == .empty && (regionOf s n).comp.isNone

/-- A region is EMPTY or FAULTED. -/
def isIdle (s : State) (n : Nat) : Bool := (regionOf s n).state == .empty || (regionOf s n).state == .faulted

/-- Regions bound to a composition, or to none. -/
def tieRegions (s : State) (ns : List Nat) (c : Option CompNo) : State :=
  ns.foldl (fun t n => setRegion t n { regionOf t n with comp := c }) s

/-- The bound compositions. -/
def boundComps (s : State) : List (Nat × Composition) := s.sch.comps.filterMap (fun e => e.2.map (fun x => (e.1, x)))

/-! ## BIND (R387) -/

/-- The composition that the SCH_BIND_ registers describe. -/
def newComp (s : State) (role : Role) : Composition :=
  { role := role, stackMask := getF s F.schBindStacks.stacks, kvOffset := getF s F.schBindKv.kvOffset,
    kvGranules := getF s F.schBindKv.kvGranules, slateGib := getF s F.schBindCache.slateGib,
    umberGib := getF s F.schBindCache.umberGib, fixed := none, pointer := 0, unbinding := false }

/-- The KV areas of two compositions overlap on a stack that both share (check 6). -/
def areasMeet (x y : Composition) : Bool :=
  x.stackMask &&& y.stackMask != 0 && decide (x.kvOffset < y.kvOffset + y.kvGranules) && decide (y.kvOffset < x.kvOffset + x.kvGranules)

/-- The Umber capacity in whole GiB (check 7). -/
def umberGibs (s : State) : Nat :=
  if s.fls.state == .scanning || s.fls.state == .ready then getF s F.flsLogical.logicalUnits * 16384 / gib else 0

/-- The bound CACHE compositions. -/
def cacheComps (s : State) : List (Nat × Composition) := (boundComps s).filter (fun e => e.2.role == .cache)

/-- The quotas of the bound CACHE compositions and of one more exceed a limit (check 7). -/
def quotasExceed (s : State) (x : Composition) : Bool :=
  let l := x :: (cacheComps s).map (·.2)
  decide (getF s F.sltStatus.capacityGib - getF s F.sltCtl.privateGib < (l.map (·.slateGib)).sum) ||
    decide (umberGibs s < (l.map (·.umberGib)).sum) ||
    decide (getF s F.xfrBlockAreaSize.granules < (l.map (·.kvGranules)).sum)

/-- METER_BINDING is not zero and BINDING_MATCH is 0 (R551). -/
def meterUnbound (s : State) : Bool := meterBinding s != 0 && !isSet s F.mtrStatus.bindingMatch

/-- The status of the first check of R387 that fails. -/
def bindRefusal (s : State) (c : CompNo) (role : Role) : Option Nat :=
  let x := newComp s role
  let cache := role == .cache
  if !isSet s F.stkObjCtl.stkLock || !isSet s F.schCtl.schLock || meterUnbound s then some 5
  else if (compOf s c.val).isSome then some 2
  else if role == .none || (cache && !(namedRegions s).isEmpty) ||
      (!cache && ((namedRegions s).isEmpty || (shareStacks x).isEmpty)) then some 3
  else if !(namedRegions s).all (isLoose s) then some 2
  else if !cache && (x.kvGranules == 0 || decide (localGranules s < x.kvOffset + x.kvGranules)) then some 6
  else if !cache && (boundComps s).any (fun e => e.2.role != .cache && areasMeet x e.2) then some 2
  else if cache && quotasExceed s x then some 6
  else none

/-- The composition is bound, and the meter is told of it before the command completes (R393, R521). -/
def doBind (s : State) (c : CompNo) (role : Role) : State :=
  match bindRefusal s c role with
  | some st => compStatus s st
  | none =>
    let s1 := tieRegions (setComp s c.val (some (newComp s role))) (namedRegions s) (some c)
    let s2 := { s1 with sch := { s1.sch with regionNs := tabPut 0 s1.sch.regionNs c.val 0 } }
    compStatus (sendFeed s2 (.bind (compBody s2 c (newComp s role)))) 0

/-- A command of SCH_COMP_CMD: its fields are written, and it waits for no other; BUSY while an UNBIND is in progress (R391). -/
def compCommand (s : State) (c : CompNo) (effect : State → State) : State :=
  if s.sch.cmdBusy then compStatus s 1 else effect (putF s F.schCompCmd.composition c.val)

/-- BIND: CMD 1 written to SCH_COMP_CMD. -/
def execBind (c : CompNo) (role : Role) (s : State) : Host.Outcome State Fault Refusal :=
  actAwake s (serves s 9) (.bind c role) (fun s =>
    compCommand s c (fun s => doBind (putF s F.schCompCmd.role (roleNo role)) c role))

/-! ## UNBIND (R391) -/

/-- A tenant holds a ledger that is not FREE, and no share in a CACHE composition other than `c`. -/
def ledgerNeeds (s : State) (c t : Nat) : Bool :=
  s.xfr.ledgers.any (fun e => e.2.lstate != .free && e.2.tenant.val == t) &&
    !(cacheComps s).any (fun e => e.1 != c && (shareOf s e.1 t).isSome)

/-- The tenants that hold a ledger which is not FREE. -/
def ledgerTenants (s : State) : List Nat :=
  ((s.xfr.ledgers.filter (fun e => e.2.lstate != .free)).map (fun e => e.2.tenant.val)).dedup

/-- One of the conditions that keep composition `c` bound holds. -/
def keepsBound (s : State) (c : Nat) (x : Composition) : Bool :=
  !(regionsOf s c).all (isIdle s) ||
    s.rqt.entries.any (fun e => e.2.state != .free && e.2.composition.val == c) ||
    (attachedTo s c).isSome ||
    (x.role == .cache && (ledgerTenants s).any (ledgerNeeds s c))

/-- Removes every share of composition `c`. -/
def dropShares (s : State) (c : Nat) : State :=
  { s with sch := { s.sch with shares := tabDrop s.sch.shares (fun k _ => k / 4096 == c) } }

/-- The contexts of composition `c` leave the save slots, with its steps. -/
def dropSteps (s : State) (c : Nat) : State :=
  (tabKeys s.sch.steps (fun o => match o with | some st => st.comp == c | none => false)).foldl endStep s

/-- Steps 1 to 3 of UNBIND. -/
def beginUnbind (s : State) (c : Nat) (x : Composition) : State :=
  let s1 := dropShares (removeComposition (dropSteps s c) c) c
  let s2 := tieRegions s1 (regionsOf s1 c) none
  setComp s2 c ((compOf s2 c).map (fun y => { y with unbinding := true, fixed := y.fixed.or x.fixed }))

/-- UNBIND: its checks, and its steps up to the wait. -/
def doUnbind (s : State) (c : CompNo) : State :=
  match compOf s c.val with
  | none => compStatus s 4
  | some x =>
    if keepsBound s c.val x then compStatus s 7
    else
      let s1 := beginUnbind s c.val x
      putF { s1 with sch := { s1.sch with cmdBusy := true } } F.schCompCmd.status 8

/-- UNBIND: CMD 2 written to SCH_COMP_CMD. -/
def execUnbind (c : CompNo) (s : State) : Host.Outcome State Fault Refusal :=
  actAwake s (serves s 9) (.unbind c) (fun s => compCommand s c (fun s => doUnbind s c))

/-- The last step of UNBIND. -/
def endUnbind (s : State) (c : CompNo) (x : Composition) : State :=
  let s1 := showPressure (setComp (sendFeed s (.unbind (compBody s c x))) c.val none) c.val 0 0
  compStatus { s1 with sch := { s1.sch with cmdBusy := false } } 0

/-- UNBIND_COMPLETE: every slot of the KV area is FREE. -/
def execUnbindComplete (c : CompNo) (s : State) : Host.Outcome State Fault Refusal :=
  act s (runs s) (fun s =>
    match compOf s c.val with
    | some x => if x.unbinding && allPagesFree s x then endUnbind s c x else s
    | none => s)

/-! ## Regions (R390) -/

/-- ADD_REGIONS. -/
def doAddRegions (s : State) (c : CompNo) : State :=
  match compOf s c.val with
  | none => compStatus s 4
  | some x =>
    if x.role == .cache then compStatus s 3
    else if !(namedRegions s).all (isLoose s) then compStatus s 2
    else
      let s1 := tieRegions s (namedRegions s) (some c)
      compStatus (sendFeed s1 (.resource (compBody s1 c x))) 0

/-- ADD_REGIONS: CMD 3 written to SCH_COMP_CMD. -/
def execAddRegions (c : CompNo) (s : State) : Host.Outcome State Fault Refusal :=
  actAwake s (serves s 9) (.addRegions c) (fun s => compCommand s c (fun s => doAddRegions s c))

/-- A save slot of region `n` holds a context. -/
def holdsContext (s : State) (n : Nat) : Bool := (regionOf s n).saves.any (fun e => e.2.isSome)

/-- REMOVE_REGIONS. -/
def doRemoveRegions (s : State) (c : CompNo) : State :=
  match compOf s c.val with
  | none => compStatus s 4
  | some x =>
    let ns := namedRegions s
    if !ns.all (fun n => (regionOf s n).comp == some c) then compStatus s 2
    else if !ns.all (fun n => isIdle s n && !holdsContext s n) then compStatus s 7
    else
      let s1 := releaseModel (tieRegions s ns none) c.val
      compStatus (sendFeed s1 (.resource (compBody s1 c x))) 0

/-- REMOVE_REGIONS: CMD 4 written to SCH_COMP_CMD. -/
def execRemoveRegions (c : CompNo) (s : State) : Host.Outcome State Fault Refusal :=
  actAwake s (serves s 9) (.removeRegions c) (fun s => compCommand s c (fun s => doRemoveRegions s c))

/-! ## Shares (R394, R395) -/

/-- Tenant `t` needs its share in composition `c`. -/
def shareNeeded (s : State) (c t : Nat) (x : Composition) : Bool :=
  s.rqt.entries.any (fun e => e.2.state != .free && e.2.composition.val == c && e.2.tenant.val == t) ||
    (x.role == .cache && ledgerNeeds s c t)

/-- The share table with an entry set or removed. -/
def putShare (s : State) (c t : Nat) (x : Option Share) : State :=
  { s with sch := { s.sch with shares := tabPut none s.sch.shares (shareKey c t) x } }

/-- The status of SET (0 OK, 1 NOT_BOUND, 2 TABLE_FULL, 3 IN_USE) with its effect. -/
def doSet (s : State) (t c w : Nat) : Nat × State :=
  match compOf s c with
  | none => (1, s)
  | some x =>
    if x.unbinding then (1, s)
    else if w = 0 then
      if (shareOf s c t).isSome && shareNeeded s c t x then (3, s) else (0, putShare s c t none)
    else
      match shareOf s c t with
      | some sh => (0, putShare s c t (some { sh with weight := w }))
      | none =>
        if 16384 ≤ tabCount s.sch.shares (fun o => o.isSome) then (2, s)
        else (0, putShare s c t (some { weight := w, deficit := 0 }))

/-- SET: CMD 1 written to SCH_SHARE_CMD. -/
def execSet (t : Tenant) (c : CompNo) (weight : Nat) (s : State) : Host.Outcome State Fault Refusal :=
  actAwake s (serves s 9) (.set t c weight) (fun s =>
    let s1 := putF (putF (putF s F.schShareCmd.composition c.val) F.schShareCmd.tenant t.val) F.schShareCmd.weight weight
    let r := doSet s1 t.val c.val (weight % 65536)
    schNotify (putF r.2 F.schShareCmd.status r.1))

end Sys2Proof.Machine
end

