-- ==== Sys2Proof/Machine/Ledger.lean ====
section
/-! DEFINITION. The home of a request: its ledgers, token logs and published blocks, ownership, and recovery
(R26, R322 to R330, R333, R337, R340, R344, R392). -/

namespace Sys2Proof.Machine

open Sys2Proof

/-! ## Ledgers -/

/-- Ledger `k` of the ledger table. -/
def ledgerOf (s : State) (k : Nat) : Ledger := tabGet {} s.xfr.ledgers k
def setLedger (s : State) (k : Nat) (l : Ledger) : State :=
  { s with xfr := { s.xfr with ledgers := tabPut {} s.xfr.ledgers k l } }

/-- The ledger of a request (R322). -/
def findLedger (s : State) (id : Nat) : Option Nat :=
  (s.xfr.ledgers.find? (fun e => e.2.lstate != .free && e.2.requestId == id)).map (·.1)

/-- The lowest-numbered CACHE composition in which a tenant holds a share (R26, R392). -/
def cacheCompOf (s : State) (t : Nat) : Option Nat :=
  (List.range 256).find? (fun c => roleOf s c == .cache && (shareOf s c t).isSome)

/-- The manifest units of ledger `k`. -/
def ledgerUnits (s : State) (k : Nat) : LedgerUnits := tabGet {} s.xfr.units k
def setLedgerUnits (s : State) (k : Nat) (u : LedgerUnits) : State :=
  { s with xfr := { s.xfr with units := tabPut {} s.xfr.units k u } }

/-- Every unit that a ledger holds. -/
def LedgerUnits.all (u : LedgerUnits) : List Nat := (u.dir :: (u.logs ++ u.blocks)).filter (· != 0)

/-- One more unit of ledger `k`, allocated from the manifest pool, which `f` puts in its place. -/
def addUnit (s : State) (k : Nat) (f : LedgerUnits → Nat → LedgerUnits) : Bool × State :=
  let a := allocUnit s
  match a.1 with
  | some u => (true, setLedgerUnits a.2 k (f (ledgerUnits a.2 k) u))
  | none => (false, a.2)

/-- The next unit that a ledger of `n` log units and `b` block units lacks: LOG_DIR, a log unit, or a block unit. -/
def nextUnit (u : LedgerUnits) (n b : Nat) : Option (LedgerUnits → Nat → LedgerUnits) :=
  if u.dir = 0 then some (fun x v => { x with dir := v })
  else if u.logs.length < n then some (fun x v => { x with logs := x.logs ++ [v] })
  else if u.blocks.length < b then some (fun x v => { x with blocks := x.blocks ++ [v] })
  else none

/-- The units that ledger `k` needs are allocated, as far as the pool has them; `fuel` bounds their number. -/
def fillUnits (k n b : Nat) : Nat → State → Bool × State
  | 0, s => (true, s)
  | fuel + 1, s =>
    match nextUnit (ledgerUnits s k) n b with
    | none => (true, s)
    | some f =>
      let r := addUnit s k f
      if r.1 then fillUnits k n b fuel r.2 else r

/-- Ledger `k` has the units of a log of `n` positions and of `b` blocks (R322, R323). -/
def needLedgerUnits (s : State) (k n b : Nat) : Bool × State :=
  fillUnits k (ceilDiv n 2048) (ceilDiv b 2048) (1 + ceilDiv n 2048 + ceilDiv b 2048) s

/-- An answer to the sender of a message. -/
def reply (s : State) (h : RstHeader) (m : RstMsg) (status : RstStatus) (epoch : Nat) : State :=
  sendRst s { dest := h.source, msg := m, status := status, epoch := epoch, requestId := h.requestId, xfer := h.xfer }

/-- The sender of a message is the ledger's owner at its current epoch (R324). -/
def isOwner (l : Ledger) (h : RstHeader) : Bool := h.source == l.owner && h.epoch == l.ownerEpoch

/-- What a message about a request meets at the home: the ledger, or the STATUS of its answer (R26, R319). -/
def homeLedger (s : State) (h : RstHeader) : Except RstStatus Nat :=
  if (cacheCompOf s (h.requestId / 2 ^ 52)).isNone then .error .notHome
  else
    match findLedger s h.requestId with
    | none => .error .noLedger
    | some k => .ok k

/-- What a message that changes a ledger meets: only the owner at the current epoch changes it (R324). -/
def ownedLedger (s : State) (h : RstHeader) : Except RstStatus Nat :=
  match homeLedger s h with
  | .error e => .error e
  | .ok k => if isOwner (ledgerOf s k) h then .ok k else .error .staleEpoch

/-! ## OPEN and LOG_APPEND (R325 to R327) -/

/-- OPEN at the home. -/
def onOpen (s : State) (h : RstHeader) (d : Durability) (e : Entry) (twin : PartAddr) (model adapter : Nat) : State :=
  if (cacheCompOf s (h.requestId / 2 ^ 52)).isNone then reply s h .opened .notHome h.epoch
  else if (findLedger s h.requestId).isSome then reply s h .opened .duplicate h.epoch
  else
    let r := chooseFree s 0 (getF s F.xfrLedgerCount.count) (fun k => (ledgerOf s k).lstate == .free)
    match r.1 with
    | none => reply r.2 h .opened .noSpace h.epoch
    | some k =>
      let u := needLedgerUnits r.2 k 0 0
      if !u.1 then reply u.2 h .opened .noSpace h.epoch
      else
        let l : Ledger :=
          { lstate := .open, durability := d, tenant := e.tenant, ownerEpoch := h.epoch, requestId := h.requestId,
            owner := h.source, ownerTwin := twin, modelId := model, adapterId := adapter, openedLmc := s.plt.lmc, entry := e }
        reply (setLedger u.2 k l) h .opened .ok h.epoch

/-- LOG_APPEND at the home: the log is cut to START and continued, blocks beyond it leave, and the entry is replaced. -/
def onLogAppend (s : State) (h : RstHeader) (start : Nat) (e : Entry) (es : List LogEntry) : State :=
  match ownedLedger s h with
  | .error st => reply s h (.logAck 0) st h.epoch
  | .ok k =>
    let l := ledgerOf s k
    if l.log.length < start then reply s h (.logAck l.log.length) .badMessage l.ownerEpoch
    else
      let blocks := min l.blocks.length (start / 64)
      let u := needLedgerUnits s k (start + es.length) blocks
      if !u.1 then reply u.2 h (.logAck l.log.length) .noSpace l.ownerEpoch
      else
        let s1 := (l.blocks.drop blocks).foldl unpinObject u.2
        let l1 : Ledger :=
          { l with log := l.log.take start ++ es, blocks := l.blocks.take blocks, entry := e, appendLmc := s.plt.lmc,
                   lstate := if l.lstate = .recovering then .open else l.lstate }
        reply (setLedger s1 k l1) h (.logAck l1.log.length) .ok l1.ownerEpoch

/-! ## Publishing (R329, R344, R392) -/

/-- The tokens of block `b` of a ledger, where its log holds them all. -/
def ledgerTokens (l : Ledger) (b : Nat) : Option (List Nat) :=
  if l.log.length < 64 * (b + 1) then none else some (((l.log.drop (64 * b)).take 64).map (·.token))

/-- The index context of a ledger's request on the home: the home holds the domain's key under R288. -/
def ledgerCtx (s : State) (c domain tenant model adapter : Nat) : Option (WalkCtx × Nat) :=
  match openSlot s domain tenant with
  | some slot =>
    some ({ comp := c, domain := domain, key := (tabGet {} s.pfx.slots slot).key, model := model, adapter := adapter }, slot)
  | none => none

/-- The digest of the blocks before block `b` of a ledger, in order from the root's digest. -/
def ledgerDigest (x : WalkCtx) (l : Ledger) : Nat → Nat
  | 0 => 0
  | b + 1 => blockDigest x (ledgerDigest x l b) (((l.log.drop (64 * b)).take 64).map (·.token))

/-- The record with a digest in a composition and domain, or the root of the domain for the digest of no block. -/
def recordOfDigest (s : State) (x : WalkCtx) (slot pd : Nat) : Nat :=
  if pd = 0 then rootRecord slot
  else ((s.pfx.records.find? (fun e =>
    e.2.used && !e.2.root && e.2.digest == pd && e.2.comp == x.comp && e.2.domain == x.domain)).map (·.1)).getD 0

/-- Granules of the block sets listed for a tenant (R392). -/
def listedGranules (s : State) (t : Nat) : Nat :=
  ((s.xfr.ledgers.filter (fun e => e.2.lstate != .free && e.2.tenant.val == t)).map (fun e =>
    (e.2.blocks.map (fun h => granuleCount (odtOf s (handleIndex h)).size)).sum)).sum

/-- The set of a block as a KIND of object. -/
def setKind (s : State) (h kind : Nat) : State := setOdt s (handleIndex h) { odtOf s (handleIndex h) with kind := kind }

/-- Inserts a new block set into the home's index where the tenant's PFX_T_CTL lets it (R300, R329); whether it did. -/
def insertSet (s : State) (c : Nat) (l : Ledger) (b h : Nat) : Bool × State :=
  let t := l.tenant.val
  match ledgerCtx s c l.entry.sharingDomain t l.modelId l.adapterId, ledgerTokens l b with
  | some (x, slot), some tokens =>
    if isSet s (F.pfxTCtl.noInsert.at t) then (false, s)
    else
      let pd := ledgerDigest x l b
      let r := insertBlock s x (recordOfDigest s x slot pd) pd tokens [h] (isSet s (F.pfxTCtl.pinInsert.at t))
        (isSet s (F.pfxTCtl.fine.at t))
      (r.1.isSome, r.2)
  | _, _ => (false, s)

/-- Lists a set as the next block of a ledger, pinned, and answers PUB_ACK. -/
def listBlock (s : State) (h : RstHeader) (k set : Nat) : State :=
  let l := ledgerOf s k
  let s1 := setLedger (pinObject s set) k { l with blocks := l.blocks ++ [set] }
  reply s1 h (.pubAck (l.blocks.length + 1)) .ok l.ownerEpoch

/-- A block that is no next block of the ledger: already published, or ahead of the others. -/
def blockPlace (s : State) (h : RstHeader) (k b : Nat) : Option State :=
  let l := ledgerOf s k
  if b < l.blocks.length then some (reply s h (.pubAck l.blocks.length) .ok l.ownerEpoch)
  else if l.blocks.length < b then some (reply s h (.pubAck l.blocks.length) .badMessage l.ownerEpoch)
  else none

/-- PUBLISH_BLOCK at the home: the pages become one object of the block area, inserted into the index or not, pinned and
listed. -/
def onPublishBlock (s : State) (h : RstHeader) (b : Nat) (bs : List Byte) : State :=
  match ownedLedger s h with
  | .error st => reply s h (.pubAck 0) st h.epoch
  | .ok k =>
    let l := ledgerOf s k
    match blockPlace s h k b, cacheCompOf s l.tenant.val with
    | some s1, _ => s1
    | none, none => reply s h (.pubAck l.blocks.length) .notHome l.ownerEpoch
    | none, some c =>
      let full : State → State := fun u => reply u h (.pubAck l.blocks.length) .noSpace l.ownerEpoch
      let quota := ((compOf s c).map (·.kvGranules)).getD 0
      let u := needLedgerUnits s k l.log.length (b + 1)
      if quota < listedGranules s l.tenant.val + granuleCount bs.length || !u.1 then full u.2
      else
        let r := chooseRun u.2 1 (getF s F.xfrBlockAreaBase.base * 4096) (getF s F.xfrBlockAreaSize.granules)
          (granuleCount bs.length)
        match r.1 with
        | none => full r.2
        | some a =>
          let o := createObject r.2 1 l.tenant.val 4 4 a bs
          match o.1 with
          | none => full o.2
          | some set =>
            let i := insertSet o.2 c l b set
            listBlock (if i.1 then i.2 else setKind i.2 set 3) h k set

/-- PUB_REF at the home: on a hit of its own index the set is pinned and listed, otherwise PUB_NEED. -/
def onPubRef (s : State) (h : RstHeader) (b pd : Nat) (tokens : List Nat) : State :=
  match ownedLedger s h with
  | .error st => reply s h (.pubAck 0) st h.epoch
  | .ok k =>
    let l := ledgerOf s k
    let need := reply s h (.pubNeed b) .ok l.ownerEpoch
    match blockPlace s h k b, cacheCompOf s l.tenant.val with
    | some s1, _ => s1
    | none, none => need
    | none, some c =>
      match ledgerCtx s c l.entry.sharingDomain l.tenant.val l.modelId l.adapterId with
      | none => need
      | some (x, slot) =>
        match findBlock s x (recordOfDigest s x slot pd) pd tokens with
        | some (r, _) =>
          match (recOf s r).pages with
          | set :: _ =>
            let u := needLedgerUnits s k l.log.length (b + 1)
            if isCurrent u.2 set && u.1 then listBlock u.2 h k set else need
          | [] => need
        | none => need

/-- PFX_QUERY at the home: the walk of its own index over the carried blocks (R344). -/
def onPfxQuery (s : State) (h : RstHeader) (domain pd model adapter : Nat) (tokens : List Nat) : State :=
  let t := h.requestId / 2 ^ 52
  match cacheCompOf s t with
  | none => reply s h (.pfxAnswer 0 []) .notHome h.epoch
  | some c =>
    match ledgerCtx s c domain t model adapter with
    | none => reply s h (.pfxAnswer 0 []) .ok h.epoch
    | some (x, slot) =>
      let w := walkFrom x tokens (fun u _ _ => some u) (min 64 (tokens.length / 64)) 0
        { parent := recordOfDigest s x slot pd, digest := pd } s
      let hs := (w.1.records.map (fun r => ((recOf w.2 r).pages.head?).getD 0))
      reply w.2 h (.pfxAnswer hs.length hs) .ok h.epoch

/-- OBJ_READ at the home: the bytes of a current object from an offset on, where the transfer engine may read it (R142). A part without
a CACHE composition for the tenant is no home (R26). -/
def onObjRead (s : State) (h : RstHeader) (handle offset : Nat) : State :=
  if (cacheCompOf s (h.requestId / 2 ^ 52)).isNone then reply s h (.objData handle offset (.native [])) .notHome h.epoch
  else
    let i := handleIndex handle
    let e := odtOf s i
    let readable := isCurrent s handle && (e.state == .writable || e.state == .published || e.state == .moving) &&
      (e.tenant == 0 || e.tenant == h.requestId / 2 ^ 52) && e.prot.testBit 2
    let bytes := if readable then objectBytes s i else none
    sendRst s
      { dest := h.source, msg := .objData handle offset (.native ((bytes.getD []).drop (offset * 4096))),
        status := if bytes.isSome then .ok else .badMessage, epoch := h.epoch, requestId := h.requestId, xfer := h.xfer,
        protect := e.prot.testBit 4 }

/-! ## Reads that need a lease (R180) -/

/-- A message whose answer reads this home's index or an object. -/
def serveAsk (s : State) (h : RstHeader) : RstMsg → State
  | .pubRef b pd _ tokens => onPubRef s h b pd tokens
  | .pfxQuery domain pd model adapter tokens => onPfxQuery s h domain pd model adapter tokens
  | .objRead handle offset => onObjRead s h handle offset
  | _ => s

/-- The engine that reads takes and ends its lease within the answer, and waits for one that is free. -/
def onAsk (s : State) (h : RstHeader) (m : RstMsg) : State :=
  if canLease s then serveAsk s h m else { s with xfr := { s.xfr with asks := s.xfr.asks ++ [(h, m)] } }

/-- The messages that waited for a lease are looked at again. -/
def retryAsks (s : State) : State := s.xfr.asks.foldl (fun t a => onAsk t a.1 a.2) { s with xfr := { s.xfr with asks := [] } }

/-! ## CLOSE, ownership and recovery (R330, R333, R336, R337, R340) -/

/-- Unpins a listed block, and unpublishes a KIND 3 set that nothing pins any more. -/
def releaseBlock (s : State) (set : Nat) : State :=
  let s1 := unpinObject s set
  let e := odtOf s1 (handleIndex set)
  if isCurrent s1 set && e.kind == 3 && e.pinCount == 0 && e.state == .published then retireObject s1 (handleIndex set) else s1

/-- CLOSE at the home. -/
def onClose (s : State) (h : RstHeader) : State :=
  match ownedLedger s h with
  | .error st => reply s h .closed st h.epoch
  | .ok k =>
    let l := ledgerOf s k
    let s1 := retireUnits (l.blocks.foldl releaseBlock s) (ledgerUnits s k).all
    let s2 := setLedger (setLedgerUnits s1 k {}) k {}
    reply s2 h .closed .ok l.ownerEpoch

/-- The ledger's owner becomes another part at the next epoch. -/
def newOwner (s : State) (k : Nat) (owner twin : PartAddr) (st : LState) : State :=
  let l := ledgerOf s k
  setLedger s k { l with owner := owner, ownerTwin := twin, ownerEpoch := (l.ownerEpoch + 1) % 2 ^ 32, lstate := st }

/-- A ledger as a message carries it: LMC values stay on their part (R60). -/
def sentLedger (l : Ledger) : Ledger := { l with openedLmc := 0, appendLmc := 0, entry := sentEntry l.entry }

/-- RECOVER with the ledger to a part. -/
def sendRecover (s : State) (k : Nat) (dest : PartAddr) (takeover : Bool) : State :=
  let l := ledgerOf s k
  sendRst s { dest := dest, msg := .recover (sentLedger l), epoch := l.ownerEpoch, requestId := l.requestId, takeover := takeover }

/-- CLAIM at the home: GRANT to the receiver of a handoff, to a claimer that already owns, and to the twin of a failed owner,
which RECOVER follows (R340, R504); DENY otherwise. -/
def onClaim (s : State) (h : RstHeader) (offering twin : PartAddr) : State :=
  match homeLedger s h with
  | .error st => reply s h (.deny 0) st h.epoch
  | .ok k =>
    let l := ledgerOf s k
    if h.takeover then
      if l.ownerTwin == h.source && l.ownerTwin != 0 then
        let s1 := newOwner s k h.source twin .open
        sendRecover (reply s1 h .grant .ok (ledgerOf s1 k).ownerEpoch) k h.source true
      else reply s h (.deny l.owner) .staleEpoch l.ownerEpoch
    else if l.owner == h.source && l.ownerEpoch == h.epoch then reply s h .grant .ok l.ownerEpoch
    else if l.owner == offering && h.epoch == l.ownerEpoch + 1 then
      let s1 := newOwner s k h.source twin l.lstate
      reply s1 h .grant .ok (ledgerOf s1 k).ownerEpoch
    else reply s h (.deny l.owner) .staleEpoch l.ownerEpoch

/-- WHO_OWNS at the home: OWNER_IS to the asker and RESUME to the owner (R336). -/
def onWhoOwns (s : State) (h : RstHeader) : State :=
  match homeLedger s h with
  | .error st => reply s h (.ownerIs 0) st h.epoch
  | .ok k =>
    let l := ledgerOf s k
    sendRst (reply s h (.ownerIs l.owner) .ok l.ownerEpoch)
      { dest := l.owner, msg := .resume, epoch := l.ownerEpoch, requestId := l.requestId }

/-- A request that no part holds: LSTATE is LOST, and the request is recorded (R337). -/
def setLost (s : State) (k : Nat) : State :=
  let l := ledgerOf s k
  let s1 := setLedger s k { l with lstate := .lost }
  let s2 := latch s1 F.xfrLost.valid F.xfrLost.overflow (fun u => putF u F.xfrLostId.requestId l.requestId)
  if isSet s F.xfrLost.valid then s2 else notify s2 F.xfrCtl.notifyEnable F.xfrNotify.vector

/-- The owner's answer that it holds no entry, or a target's that it takes nothing (R337, R341). -/
def onRefused (s : State) (h : RstHeader) : State :=
  match findLedger s h.requestId with
  | some k => if isOwner (ledgerOf s k) h && (ledgerOf s k).lstate != .lost then setLost s k else s
  | none => s

/-- A recovery of ledger `k` to the target of XFR_RECOVER_TARGET. -/
def recoverLedger (s : State) (k : Nat) : State :=
  let target := getF s F.xfrRecoverTargetLo.addr + 2 ^ 64 * getF s F.xfrRecoverTargetHi.addr
  sendRecover (newOwner s k target 0 .recovering) k target false

/-- A recovery command completes with STATUS and COUNT (R348). -/
def recoverDone (s : State) (status count : Nat) : State :=
  notify (putF (putF s F.xfrRecoverCtl.status status) F.xfrRecoverCtl.count count) F.xfrCtl.notifyEnable F.xfrNotify.vector

/-- A recovery target that names no part. -/
def noTarget (s : State) : Bool := getF s F.xfrRecoverTargetLo.addr == 0 && getF s F.xfrRecoverTargetHi.addr == 0

/-- RECOVER_REQUEST: CMD 1 written to XFR_RECOVER_CTL. -/
def execRecoverRequest (s : State) : Host.Outcome State Fault Refusal :=
  actAwake s (serves s 7) .recoverRequest (fun s =>
    match findLedger s (getF s F.xfrRecoverId.requestId) with
    | none => recoverDone s 2 0
    | some k => if noTarget s then recoverDone s 4 0 else recoverDone (recoverLedger s k) 0 1)

/-- RECOVER_FAILED_PART: CMD 2 written to XFR_RECOVER_CTL. -/
def execRecoverFailedPart (s : State) : Host.Outcome State Fault Refusal :=
  actAwake s (serves s 7) .recoverFailedPart (fun s =>
    let failed := getF s F.xfrRecoverFailedLo.addr + 2 ^ 64 * getF s F.xfrRecoverFailedHi.addr
    let ks := tabKeys s.xfr.ledgers (fun l => l.lstate != .free && l.owner == failed)
    if ks.isEmpty then recoverDone s 3 0
    else if noTarget s then recoverDone s 4 0
    else recoverDone (ks.foldl recoverLedger s) 0 ks.length)

end Sys2Proof.Machine
end

