-- ==== Sys2Proof/Machine/Handoff.lean ====
section
/-! DEFINITION. The parts of a handoff and the owner of a request: answers of the home, OFFER and its transfer, the orphan audit,
recovery on a new owner, and remote prefix reads (R325, R328, R329, R331 to R341, R344). -/

namespace Sys2Proof.Machine

open Sys2Proof

/-! ## Answers of the home (R325, R328, R329, R338) -/

/-- A request that R338 calls active. -/
def isActive (st : ReqState) : Bool :=
  st == .admitted || st == .prefill || st == .decode || st == .parked || st == .dropped

/-- STALE_EPOCH for a request that the part holds in an active state (R338). -/
def onStale (s : State) (i : Nat) : State :=
  if isActive (entryOf s i).state then failLive s i else s

/-- OPENED: the admission goes on, or is refused (R325). -/
def onOpened (s : State) (h : RstHeader) : State :=
  match findRequest s h.requestId with
  | none => s
  | some i =>
    match admissionOf s i with
    | none => s
    | some a =>
      if a.opened then s
      else
        match h.status with
        | .ok => endAdmission (sendLog (setAdmission s i (some { a with opened := true })) i) i
        | .duplicate => refuseAdmission s i 4
        | _ => refuseAdmission s i 7

/-- The LENGTH − LOGGED of entry `i` has reached LOG_BATCH (R328). -/
def batchReached (s : State) (i : Nat) : Bool :=
  decide (getF s F.xfrCtl.logBatch + (entryOf s i).logged ≤ (entryOf s i).length)

/-- A LOG_APPEND is due: a cut, pending input, a full batch, or an event of R328 that waits. -/
def logDue (s : State) (i : Nat) : Bool :=
  (tabGet none s.rqt.logFrom i).isSome || decide ((entryOf s i).logged < (entryOf s i).inputEnd) || batchReached s i ||
    !(inputTokens s i).isEmpty || tabGet false s.rqt.offers i || (entryOf s i).state == .parked || (entryOf s i).state == .done

/-- LOG_ACK: LOGGED takes its value, and what waited for it goes on. -/
def onLogAck (s : State) (h : RstHeader) (length : Nat) : State :=
  match findRequest s h.requestId with
  | none => s
  | some i =>
    let s1 := { s with rqt := { s.rqt with logInFlight := tabPut false s.rqt.logInFlight i false } }
    match h.status with
    | .ok =>
      let s2 := tryOffer (modEntry s1 i (fun e => { e with logged := length })) i
      if logDue s2 i && (entryOf s2 i).state != .handoffIn then sendLog s2 i else s2
    | .staleEpoch => onStale s1 i
    | _ => s1

/-- PUB_ACK: blocks below BLOCKS are published, and the next follows. -/
def onPubAck (s : State) (h : RstHeader) (blocks : Nat) : State :=
  match findRequest s h.requestId with
  | none => s
  | some i =>
    let s1 := match transferFor s i (· == .publish) with
      | some k => endTransfer s k
      | none => s
    match h.status with
    | .ok => retryTransfers (publishNext (markPublished s1 i blocks) i)
    | .staleEpoch => onStale s1 i
    | _ => retryTransfers s1

/-- PUB_NEED: the block itself follows. -/
def onPubNeed (s : State) (h : RstHeader) (b : Nat) : State :=
  match findRequest s h.requestId with
  | none => s
  | some i =>
    let e := entryOf s i
    match descOf s e.composition.val with
    | none => s
    | some d =>
      match sealedBlock s i b d.layers, transferFor s i (· == .publish) with
      | some pages, some k =>
        sendRst (takeLease s (1536 + k)) { requestMsg s i e.home (.publishBlock b (.native (blockBytes s d pages))) with xfer := k }
      | _, _ => s

/-- CLOSED: a refused admission ends (R325). -/
def onClosed (s : State) (h : RstHeader) : State :=
  match findRequest s h.requestId with
  | none => s
  | some i =>
    match admissionOf s i with
    | some a => if a.closing then refuseAdmission s i 6 else s
    | none => s

/-! ## The sender (R331, R335, R337) -/

/-- The handoff is abandoned with this part owner: FAILED with HANDOFF_FAILED. -/
def failHandoff (s : State) (i : Nat) : State := applyHeld (failEntry s i 37) i

/-- The request has gone to `peer`: DONE with HANDED_OFF (R331, step 10). -/
def handedOff (s : State) (i : Nat) (peer : PartAddr) : State :=
  let s1 := dropPages (endTransfers (seizeEntry s i) i) i
  let s2 := setInput (modEntry s1 i (fun e => { e with state := .done, handedOff := true, peer := peer })) i none
  retryTransfers (notice s2 i 33 peer)

/-- RELEASE from the receiver. -/
def onRelease (s : State) (h : RstHeader) : State :=
  match findRequest s h.requestId with
  | none => s
  | some i =>
    let e := entryOf s i
    if e.state == .handoffOut && h.epoch == e.ownerEpoch + 1 && h.source == e.peer then handedOff s i h.source else s

/-- OFFER_ACK: an OFFER with APPEND set that met DUPLICATE is sent again after the orphan bound (R335). -/
def onOfferAck (s : State) (h : RstHeader) : State :=
  match (findRequest s h.requestId).bind (fun i => transferFor s i (· == .send)) with
  | some k =>
    match transferOf s k with
    | some x => if h.status == .duplicate && x.append then setTransfer s k (some { x with retryWait := true }) else s
    | none => s
  | none => s

/-- OFFER_RESEND: the orphan bound has passed since the DUPLICATE. -/
def resendOffer (s : State) (i : Nat) : State :=
  match transferFor s i (· == .send) with
  | some k =>
    match transferOf s k with
    | some x =>
      if x.retryWait then
        sendRst (setTransfer s k (some { x with retryWait := false })) (offerMsg s i k x.append)
      else s
    | none => s
  | none => s

/-- RESUME at the part it names (R337). -/
def onResume (s : State) (h : RstHeader) : State :=
  match findRequest s h.requestId with
  | none => sendRst s { dest := h.source, msg := .resume, status := .noRequest, epoch := h.epoch, requestId := h.requestId }
  | some i =>
    let e := entryOf s i
    if e.state != .handoffOut || e.ownerEpoch != h.epoch then s
    else
      match transferFor s i (· == .send) with
      | none => s
      | some k =>
        match transferOf s k with
        | none => s
        | some x =>
          if x.retryWait then s
          else if getF s F.xfrCtl.offerTries ≤ x.tries then failHandoff s i
          else sendRst (setTransfer (arbitrate s i) k (some { x with tries := x.tries + 1 })) (offerMsg s i k x.append)

/-- The rows of a sealed page as they travel (R320). -/
def travelRows (s : State) (d : ModelDescriptor) (g fill : Nat) : List Byte :=
  if 64 ≤ fill then memBytes s (granuleAddr g) (pageBytes d)
  else ((List.range (2 * d.kvHeads)).map (fun hv =>
    memBytes s (granuleAddr g + hv * 64 * rowBytes d) (fill * rowBytes d))).flatten

/-- PAGE_DATA of one page of entry `i`. -/
def sendPage (s : State) (h : RstHeader) (i : Nat) (d : ModelDescriptor) (l p : Nat) : State :=
  let e := pageEntry (manifestOf s i) l p
  let fill := (pageOf s e.page).fill
  if e.valid then reply s h (.pageData p l fill (.native (travelRows s d e.page fill))) .ok (entryOf s i).ownerEpoch
  else reply s h (.pageData p l 0 (.native [])) .badMessage (entryOf s i).ownerEpoch

/-- The lease of the transfer of entry `i` that sends, taken anew where R182 ended it, before its pages are read (R180). -/
def sendLease (s : State) (i : Nat) : State :=
  match transferFor s i (fun k => k == .send || k == .publish) with
  | some k => takeLease s (1536 + k)
  | none => s

/-- PULL at the sender. -/
def onPull (s : State) (h : RstHeader) (first count layer : Nat) : State :=
  let refuse (st : RstStatus) : State := reply s h (.pageData first layer 0 (.native [])) st h.epoch
  match findRequest s h.requestId with
  | none => refuse .noRequest
  | some i =>
    let e := entryOf s i
    match descOf s e.composition.val with
    | some d =>
      if e.state == .handoffOut && h.epoch == e.ownerEpoch && h.source == e.peer then
        (List.range count).foldl (fun u j => sendPage u h i d layer (first + j)) (sendLease s i)
      else refuse .staleEpoch
    | none => refuse .staleEpoch

/-! ## The receiver (R331, R332, R334) -/

/-- The lowest-numbered composition of a role that serves a model and in which the tenant holds a share (R332). -/
def offerComp (s : State) (role : Role) (model adapter t : Nat) : Option Nat :=
  (List.range 256).find? (fun c =>
    roleOf s c == role && modelOf s c == some (model, adapter) && (shareOf s c t).isSome &&
      !((compOf s c).map (·.unbinding)).getD true)

/-- Input blocks at the head of a log: full blocks whose entries are all input. -/
def inputBlocks (es : List LogEntry) : Nat := ((es.takeWhile (·.input)).length) / 64

/-- The layers and pages of a request that are not here yet, up to its LENGTH. -/
def missingPages (s : State) (i : Nat) (d : ModelDescriptor) : List (Nat × Nat) :=
  let top := ceilDiv (entryOf s i).length 64
  ((List.range d.layers).map (fun l =>
    ((List.range top).filter (fun p => !(pageEntry (manifestOf s i) l p).valid)).map (fun p => (l, p)))).flatten

/-- Allocates pages, in order, until one must wait; answers those allocated. -/
def allocMissing (x : Composition) (d : ModelDescriptor) (i : Nat) : List (Nat × Nat) → State → List (Nat × Nat) × State
  | [], s => ([], s)
  | (l, p) :: rest, s =>
    let r := copyOnWrite s x d i l p 0 none
    match r.1 with
    | some st => ([], waitFor r.2 i st)
    | none =>
      let q := allocMissing x d i rest r.2
      ((l, p) :: q.1, q.2)

/-- Runs of following pages of one layer: layer, first page and count. -/
def pageRuns : List (Nat × Nat) → List (Nat × Nat × Nat)
  | [] => []
  | (l, p) :: rest =>
    match pageRuns rest with
    | (l', p', n) :: more => if l = l' ∧ p + 1 = p' ∧ n < 65535 then (l, p, n + 1) :: more else (l, p, 1) :: (l', p', n) :: more
    | [] => [(l, p, 1)]

/-- CLAIM(e + 1) to the home, once every page is here (R331, step 7). -/
def sendClaim (s : State) (i k : Nat) (x : Transfer) : State :=
  let e := entryOf s i
  sendRst (setTransfer s k (some { x with claimSent := true }))
    { requestMsg s i e.home (.claim x.peer (twinAddr s)) with epoch := x.epoch + 1, xfer := k }

/-- Pulls what is missing as far as there is space, or claims the request. -/
def continuePulls (s : State) (i k : Nat) : State :=
  match transferOf s k, compOf s (entryOf s i).composition.val, descOf s (entryOf s i).composition.val with
  | some x, some c, some d =>
    let r := allocMissing c d i (missingPages s i d) s
    let s1 := setTransfer r.2 k (some { x with pulls := x.pulls ++ r.1 })
    let s2 := (pageRuns r.1).foldl (fun u p =>
      sendRst u { requestMsg u i x.peer (.pull p.2.1 p.2.2 p.1) with epoch := x.epoch, xfer := k }) s1
    if (missingPages s2 i d).isEmpty && (x.pulls ++ r.1).isEmpty && !x.claimSent then sendClaim s2 i k x else s2
  | _, _, _ => s

/-- The receiver's walk over the first `n` blocks, which are full blocks of input positions (R331, step 4), under a lease (R180); what it
lacks, if anything: a manifest unit (32) or a lease slot (33). -/
def walkOffered (s : State) (i n : Nat) : Option Nat × State :=
  let e := entryOf s i
  match openSlot s e.sharingDomain e.tenant.val, descOf s e.composition.val with
  | some slot, some d =>
    match walkCtx s e.composition.val slot, trackOf s i with
    | some x, some t =>
      let tokens := (manifestOf s i).history.map (·.token)
      let r := walkFrom x tokens (sharePages i d.layers) n 0 { parent := rootRecord slot } s
      if !canLease s then (some 33, s)
      else if lacksUnit r.2 x tokens d.layers i n r.1 then (some 32, { s with stk := { s.stk with manifestPressure := true } })
      else (none, setTrack r.2 i (some { t with
        records := r.1.records, digests := r.1.digests, hits := r.1.records.length }))
    | _, _ => (none, s)
  | _, _ => (none, s)

/-- The receiver goes on: directory and history, walk, pulls. -/
def continueReceive (s : State) (i : Nat) : State :=
  match transferFor s i (· == .receive) with
  | none => s
  | some k =>
    match transferOf s k with
    | none => s
    | some x =>
      let e := entryOf s i
      let d := needDirectory s i
      if !d.1 then d.2
      else
        let hist := needHistory d.2 i e.length
        if !hist.1 then waitFor hist.2 i 32
        else if x.walked then continuePulls hist.2 i k
        else
          let blocks := ((trackOf hist.2 i).map (·.blocks)).getD 0
          let w := walkOffered hist.2 i blocks
          match w.1 with
          | some code => waitFor w.2 i code
          | none => continuePulls (setTransfer w.2 k (some { x with walked := true })) i k

/-- OFFER at the receiver (R331, step 3; R332). -/
def onOffer (s : State) (h : RstHeader) (remaining : Nat) (e : Entry) (model adapter : Nat) (es : List LogEntry) : State :=
  let refuse (st : RstStatus) : State := reply s h .offerAck st h.epoch
  match offerComp s (if h.append then .prompt else .generation) model adapter e.tenant.val with
  | none => refuse .noComposition
  | some c =>
    if (findRequest s h.requestId).isSome then refuse .duplicate
    else
      let r := chooseFree s 0 65536 (fun i => (entryOf s i).state == .free)
      match r.1 with
      | none => refuse .busy
      | some i =>
        let t := takeTransfer r.2 (newTransfer .receive h.requestId i h.source h.epoch)
        if t.1.isNone then refuse .busy
        else if e.durability == .m && !isActivePaired s then refuse .noTwin
        else
          let e1 : Entry :=
            { e with state := .handoffIn, composition := ⟨c % 256, Nat.mod_lt _ (by decide)⟩, manifest := 0, handedOff := false,
                     parkedFromDone := false, noticePending := false, peer := h.source, ownerEpoch := h.epoch,
                     deadline := if remaining = 0 then 0 else s.plt.lmc + remaining, admitLmc := s.plt.lmc, held := 0 }
          let s1 := hear (arbitrate (fillEntry t.2 i e1) i) i
          let s2 := writeHistory s1 i 0 (es.take e.length)
          let rest := (es.drop e.length).map (·.token)
          let s3 := if h.append then setInput s2 i (some { tokens := rest, forced := false, after := .commit }) else s2
          let s4 := setTrack (countDenied s3 e.sharingDomain e.tenant.val) i
            (some (newTrack s3 e.tenant.val (inputBlocks (es.take e.length))))
          continueReceive (reply s4 h .offerAck .ok h.epoch) i

/-- Scatters the rows of a short page to their places (R320). -/
def placeRows (s : State) (d : ModelDescriptor) (g fill : Nat) (rows : List Byte) : State :=
  (List.range (2 * d.kvHeads)).foldl (fun u hv =>
    memWrite u (granuleAddr g + hv * 64 * rowBytes d) ((rows.drop (hv * fill * rowBytes d)).take (fill * rowBytes d))) s

/-- A page that arrived is written, zero-filled and sealed with the sender's FILL (R320, R331, step 5). -/
def storePage (s : State) (d : ModelDescriptor) (g fill : Nat) (rows : List Byte) : State :=
  if 64 ≤ fill then sealPage (memWrite s (granuleAddr g) (rows.take (pageBytes d))) g 64
  else sealPage (placeRows (zeroTail s d g fill) d g fill rows) g fill

/-- PAGE_DATA at the receiver. -/
def onPageData (s : State) (h : RstHeader) (page layer fill : Nat) (rows : List Byte) : State :=
  match findRequest s h.requestId with
  | none => s
  | some i =>
    match transferFor s i (· == .receive), descOf s (entryOf s i).composition.val with
    | some k, some d =>
      match transferOf s k with
      | none => s
      | some x =>
        let e := pageEntry (manifestOf s i) layer page
        if h.status != .ok || h.source != x.peer || !x.pulls.contains (layer, page) || !e.valid then s
        else
          let s1 := storePage s d e.page (min 64 fill) rows
          continueReceive (setTransfer s1 k (some { x with pulls := x.pulls.filter (· != (layer, page)) })) i
    | _, _ => s

/-- The receiver abandons the handoff: its entry is freed, and held commands complete with NOT_OWNER (R333). -/
def abandon (s : State) (i : Nat) : State :=
  let hs := heldOf s i
  let t := (entryOf s i).tenant.val
  retryTransfers (refuseHeld (freeEntry s i) t i hs 2)

/-- The pulled blocks enter the receiver's own index (R334). -/
def insertPulled (s : State) (i : Nat) : State :=
  match trackOf s i with
  | some t => ((List.range (t.blocks - t.records.length)).map (· + t.records.length)).foldl (fun u b => insertNext u i b) s
  | none => s

/-- GRANT of a handoff (R331, step 9). -/
def granted (s : State) (i k : Nat) (x : Transfer) : State :=
  let prompt := roleOf s (entryOf s i).composition.val == .prompt
  let s1 := endTransfer (seizeEntry s i) k
  let s2 := modEntry s1 i (fun e => { e with
    ownerEpoch := x.epoch + 1, state := if prompt then .prefill else .decode, peer := if prompt then x.peer else 0 })
  let s3 := sendRst s2 (requestMsg s2 i x.peer .release)
  let s4 := insertPulled (notice s3 i 34 0) i
  retryTransfers (publishNext (applyHeld s4 i) i)

/-- GRANT at the claimer: of a handoff, or of a takeover, which RECOVER follows (R504). -/
def onGrant (s : State) (h : RstHeader) : State :=
  match findRequest s h.requestId with
  | none => s
  | some i =>
    if tabGet false s.rqt.taken i then modEntry s i (fun e => { e with ownerEpoch := h.epoch })
    else
      match transferFor s i (· == .receive) with
      | none => s
      | some k =>
        match transferOf s k with
        | some x =>
          if (entryOf s i).state == .handoffIn && x.claimSent && h.epoch == x.epoch + 1 then granted s i k x else s
        | none => s

/-- A takeover that the home does not grant: FAILED in an active state (R338), abandoned in HANDOFF_IN. -/
def takeoverDenied (s : State) (i : Nat) : State :=
  let s1 := { s with rqt := { s.rqt with taken := tabPut false s.rqt.taken i false } }
  if (entryOf s i).state == .handoffIn then abandon s1 i
  else if isActive (entryOf s i).state then onStale s1 i
  else applyHeld s1 i

/-- DENY at the claimer. -/
def onDeny (s : State) (h : RstHeader) : State :=
  match findRequest s h.requestId with
  | none => s
  | some i =>
    if tabGet false s.rqt.taken i then takeoverDenied s i
    else if (entryOf s i).state == .handoffIn && (transferFor s i (· == .receive)).isSome then abandon s i
    else s

/-! ## Orphan audit (R336) and takeover claims (R340, R504) -/

/-- CLAIM with TAKEOVER for entry `i`. -/
def claimTakeover (s : State) (i : Nat) : State :=
  let e := entryOf s i
  let s1 := { s with rqt := { s.rqt with taken := tabPut false s.rqt.taken i true } }
  sendRst s1 { requestMsg s1 i e.home (.claim 0 (twinAddr s)) with epoch := e.ownerEpoch + 1, takeover := true }

/-- The transfer of a handoff entry. -/
def handoffTransfer (s : State) (i : Nat) : Option Nat := transferFor s i (fun k => k == .send || k == .receive)

/-- WHO_OWNS to the home. -/
def askOwner (s : State) (i : Nat) : State := sendRst s (requestMsg s i (entryOf s i).home .whoOwns)

/-- ORPHAN_AUDIT: AUDIT_US passed without a message of the transfer of entry `index`. -/
def auditEntry (s : State) (i : Nat) : State :=
  let st := (entryOf s i).state
  let s1 := hear (satF s F.xfrStatus.audits) i
  if st != .handoffOut && st != .handoffIn then s
  else
    match handoffTransfer s i with
    | none => askOwner s1 i
    | some k =>
      match transferOf s k with
      | none => s
      | some x => if x.retryWait then s else askOwner (setTransfer s1 k (some { x with audited := true })) i

/-- The home cannot say who owns the request: NO_LEDGER, or the home unreachable. -/
def auditLost (s : State) (i : Nat) : State :=
  if (entryOf s i).state == .handoffOut then failHandoff s i
  else if (entryOf s i).state == .handoffIn then abandon s i
  else s

/-- OWNER_IS for an entry in HANDOFF_OUT. -/
def auditOut (s : State) (i : Nat) (owner : PartAddr) (epoch : Nat) : State :=
  if !acceptsAddr s owner && laterThan epoch (entryOf s i).ownerEpoch then handedOff s i owner else arbitrate s i

/-- OWNER_IS for an entry in HANDOFF_IN with its transfer. -/
def auditIn (s : State) (i k : Nat) (x : Transfer) (owner : PartAddr) (epoch : Nat) : State :=
  if acceptsAddr s owner then (if x.claimSent && epoch == x.epoch + 1 then granted s i k x else arbitrate s i)
  else if owner == x.peer && epoch == x.epoch then
    (if x.claimSent then sendClaim (arbitrate s i) i k x else if x.unreachable then abandon s i else arbitrate s i)
  else if laterThan epoch x.epoch then abandon s i
  else arbitrate s i

/-- Entry `i` is being rebuilt from a ledger (R341). -/
def isRecovering (s : State) (i : Nat) : Bool :=
  (tabGet none s.rqt.reads i).isSome || (transferFor s i (· == .recovery)).isSome ||
    ((inputOf s i).map (fun x => x.after == .resync)).getD false

/-- OWNER_IS at the asker: the table of R336, or after a failover R504. -/
def onOwnerIs (s : State) (h : RstHeader) (owner : PartAddr) : State :=
  match findRequest s h.requestId with
  | none => s
  | some i =>
    let st := (entryOf s i).state
    if st != .handoffOut && st != .handoffIn then s
    else if h.status != .ok then auditLost s i
    else
      match handoffTransfer s i with
      | none =>
        if isRecovering s i then (if !acceptsAddr s owner && laterThan h.epoch (entryOf s i).ownerEpoch then abandon s i else arbitrate s i)
        else if st == .handoffIn then (if acceptsAddr s owner then claimTakeover (arbitrate s i) i else abandon s i)
        else auditOut s i owner h.epoch
      | some k =>
        match transferOf s k with
        | none => s
        | some x =>
          let s1 := setTransfer s k (some { x with audited := false })
          if st == .handoffOut then auditOut s1 i owner h.epoch else auditIn s1 i k { x with audited := false } owner h.epoch

/-! ## Block reads of admissions and recoveries (R339, R344) -/

/-- The block reads of entry `i`. -/
def readsOf (s : State) (i : Nat) : Option BlockReads := tabGet none s.rqt.reads i
def setReads (s : State) (i : Nat) (x : Option BlockReads) : State :=
  { s with rqt := { s.rqt with reads := tabPut none s.rqt.reads i x } }

/-- The pages of block `b` are marked DROPPED where the entry has none, so that they are recomputed from the history. -/
def markDropped (s : State) (i b layers : Nat) : State :=
  (List.range layers).foldl (fun u l =>
    if (pageEntry (manifestOf u i) l b).valid then u else setPageEntry u i l b { dropped := true }) s

/-- Every block that a recovery could not read is to be recomputed from the log (R339, R341). -/
def markRest (s : State) (i : Nat) (d : ModelDescriptor) : State :=
  (List.range (ceilDiv (entryOf s i).length 64)).foldl (fun u b => markDropped u i b d.layers) s

/-- The end of a recovery: DECODE with RESYNC_PENDING and the RESYNC notice (R341, step 3). -/
def resyncDone (s : State) (i : Nat) : State :=
  let s1 := setInput (endTransfers (discardRoot (seizeEntry s i) i true) i) i none
  let s2 := modEntry s1 i (fun e => { e with state := .decode, resyncPending := true })
  applyHeld (notice s2 i 35 0) i

/-- The reads of a recovery are over: the rest is recomputed in the fabric, then RESYNC. -/
def rebuildRest (s : State) (i : Nat) (d : ModelDescriptor) : State :=
  let s1 := markRest (setReads s i none) i d
  if (droppedBlocks s1 i).isEmpty then resyncDone s1 i
  else setInput s1 i (some { tokens := [], forced := false, after := .resync })

/-- The reads of an admission are over. -/
def endQuery (s : State) (i : Nat) : State :=
  let s1 := setReads s i none
  let s2 := match transferFor s1 i (· == .objRead) with
    | some k => retryTransfers (endTransfer s1 k)
    | none => s1
  match admissionOf s2 i with
  | some a => endAdmission (setAdmission s2 i (some { a with query := false })) i
  | none => s2

/-- The reads of entry `i` are over. -/
def endReads (s : State) (i : Nat) (d : ModelDescriptor) : State :=
  if (entryOf s i).state == .handoffIn then rebuildRest s i d else endQuery s i

/-- The prefix walk of a class-B recovery over the logged tokens (R339): the full blocks of input positions, which R286 lets a walk look
up. -/
def walkLogged (s : State) (i : Nat) : Option Nat × State := walkOffered s i (inputBlocks (manifestOf s i).history)

/-- Asks for the next block, once its pages are allocated. -/
def askBlock (s : State) (i k : Nat) (c : Composition) (d : ModelDescriptor) (r : BlockReads) (handle : Nat) : State :=
  let ps := ((List.range d.layers).map (fun l => (l, r.next))).filter (fun p => !(pageEntry (manifestOf s i) p.1 p.2).valid)
  let a := allocMissing c d i ps s
  if a.1.length < ps.length then a.2
  else
    sendRst (setReads a.2 i (some { r with asked := true }))
      { requestMsg a.2 i (entryOf s i).home (.objRead handle 0) with xfer := k }

/-- The reads of entry `i` go on: a transfer slot, the directory and history, the walk of a class-B recovery, and block by
block. -/
def continueReads (s : State) (i : Nat) : State :=
  match readsOf s i, compOf s (entryOf s i).composition.val, descOf s (entryOf s i).composition.val with
  | some r, some c, some d =>
    if r.asked then s
    else
      let e := entryOf s i
      let recovery := e.state == .handoffIn
      let kind : TransferKind := if recovery then .recovery else .objRead
      let t := match transferFor s i (· == kind) with
        | some k => (some k, s)
        | none => takeTransfer s (newTransfer kind e.requestId i e.home e.ownerEpoch)
      match t.1 with
      | none => t.2
      | some k =>
        let u := needDirectory t.2 i
        let hist := needHistory u.2 i e.length
        if !u.1 then u.2
        else if !hist.1 then waitFor hist.2 i 32
        else
          let w := if recovery && e.durability == .b && !r.walked then walkLogged hist.2 i else (none, hist.2)
          match w.1, r.handles with
          | some code, _ => waitFor w.2 i code
          | none, [] => endReads w.2 i d
          | none, handle :: _ =>
            askBlock (setReads w.2 i (some { r with walked := true })) i k c d { r with walked := true } handle
  | _, _, _ => s

/-- Writes the pages of a block set into the pages of block `b`. -/
def storeBlock (s : State) (i b : Nat) (d : ModelDescriptor) (bs : List Byte) : State :=
  (List.range d.layers).foldl (fun u l =>
    storePage u d (pageEntry (manifestOf u i) l b).page 64 (bs.drop (l * pageGranules d * 4096))) s

/-- Clears the pages of a block that could not be read. -/
def clearBlock (s : State) (i b layers : Nat) : State := (List.range layers).foldl (fun u l => clearPage u i l b) s

/-- A block of an admission's prompt came from the home's index: its positions are matched (R344). -/
def countRemote (s : State) (i b : Nat) : State :=
  match trackOf s i with
  | some t => takeMatched (setTrack s i (some { t with remote := t.remote + 1 })) i (64 * (b + 1))
  | none => s

/-- OBJ_DATA at the reader. A block that cannot be read ends the reads of an admission, and is recomputed in a recovery. -/
def onObjData (s : State) (h : RstHeader) (handle : Nat) (bs : List Byte) : State :=
  match findRequest s h.requestId with
  | none => s
  | some i =>
    match readsOf s i, descOf s (entryOf s i).composition.val with
    | some r, some d =>
      match r.handles with
      | [] => s
      | next :: rest =>
        if !r.asked || next != handle then s
        else
          let recovery := (entryOf s i).state == .handoffIn
          let good := h.status == .ok && decide (d.layers * pageGranules d * 4096 ≤ bs.length)
          let s1 := if good then storeBlock s i r.next d bs else clearBlock s i r.next d.layers
          let s2 := if good && !recovery then countRemote s1 i r.next else s1
          let left := if good || recovery then rest else []
          continueReads (setReads s2 i (some { r with handles := left, next := r.next + 1, asked := false })) i
    | _, _ => s

/-- PFX_ANSWER at the asker: the admission reads the matched sets, or goes on without them (R344). -/
def onPfxAnswer (s : State) (h : RstHeader) (matched : Nat) (handles : List Nat) : State :=
  match findRequest s h.requestId with
  | none => s
  | some i =>
    match admissionOf s i, trackOf s i with
    | some a, some t =>
      if (entryOf s i).state != .admitted || !a.query || (readsOf s i).isSome then s
      else if h.status != .ok || matched = 0 || handles.isEmpty then endQuery s i
      else
        continueReads (setReads s i (some
          { handles := handles.take matched, next := t.hits, asked := false, walked := true })) i
    | _, _ => s

/-! ## Recovery at the new owner (R341) -/

/-- The entry that takes the place of the failed holder's. -/
def recoveredEntry (e : Entry) (c : CompNo) (l : Ledger) : Entry :=
  { e with state := .handoffIn, composition := c, length := l.log.length, logged := l.log.length,
           inputEnd := min e.inputEnd l.log.length, ownerEpoch := l.ownerEpoch, peer := 0, handedOff := false,
           parkedFromDone := false, noticePending := false, resyncPending := false, held := 0 }

/-- The pages of a class-M request that the Mirror held: those below 64 × floor(LOGGED ÷ 64) stay, and the others go. -/
def keepMirrored (s : State) (i : Nat) (l : Ledger) (same : Bool) : State :=
  if same && l.durability == .m then
    (((manifestOf s i).pages.filter (fun e => l.log.length / 64 ≤ e.1 % 16384)).map (·.1)).foldl
      (fun u key => clearPage u i (key / 16384) (key % 16384)) s
  else clearPages s i

/-- What a recovery cuts off at the part that held the request: its RESUMEs complete with BAD_STATE, and its ADMIT with OK, since the
request goes on. -/
def cutWaits (s : State) (i : Nat) : State :=
  let s1 := endRestore s i 9
  match admissionOf s1 i with
  | some a => complete (setAdmission s1 i none) (entryOf s1 i).tenant.val i 1 (entryOf s1 i).requestId a.tag 0 0 0
  | none => s1

/-- Rebuilds entry `i` from a ledger. -/
def rebuild (s : State) (i : Nat) (l : Ledger) (c : CompNo) (e : Entry) (same : Bool) : State :=
  let hs := heldOf s i
  let s1 := keepMirrored (dropParked (endTransfers (invalidate s i) i) i) i l same
  let e1 := { recoveredEntry e c l with manifest := (manifestOf s1 i).directory }
  let s2 := hear (setHeld (arbitrate (if same then setEntry s1 i e1 else fillEntry s1 i e1) i) i hs) i
  let s3 := setInput (writeHistory s2 i 0 l.log) i none
  let s3 := setTrack (if l.durability == .b then countDenied s3 e.sharingDomain e.tenant.val else s3) i
    (some { newTrack s2 e.tenant.val 0 with blocks := inputBlocks l.log })
  let s4 := { s3 with rqt := { s3.rqt with
    taken := tabPut false s3.rqt.taken i false, logInFlight := tabPut false s3.rqt.logInFlight i false,
    logFrom := tabPut none s3.rqt.logFrom i none, offers := tabPut false s3.rqt.offers i false,
    restores := tabPut none s3.rqt.restores i none, admissions := tabPut none s3.rqt.admissions i none } }
  continueReads (setReads s4 i (some
    { handles := if l.durability == .p then l.blocks.take (l.log.length / 64) else [], next := 0, asked := false,
      walked := l.durability != .b })) i

/-- RECOVER at the part that takes the request over, or its refusal at the home. -/
def onRecover (s : State) (h : RstHeader) (l : Ledger) : State :=
  if h.status != .ok then onRefused s h
  else
    match findRequest s h.requestId with
    | some i => rebuild (cutWaits s i) i l (entryOf s i).composition (entryOf s i) true
    | none =>
      match offerComp s .generation l.modelId l.adapterId l.tenant.val with
      | none => reply s h (.recover l) .noComposition h.epoch
      | some c =>
        let r := chooseFree s 0 65536 (fun i => (entryOf s i).state == .free)
        match r.1 with
        | none => reply s h (.recover l) .busy h.epoch
        | some i =>
          rebuild r.2 i l ⟨c % 256, Nat.mod_lt _ (by decide)⟩ { l.entry with deadline := 0, admitLmc := s.plt.lmc } false

/-! ## What goes on when space comes free (R200, R634) -/

/-- Every receiver and reader tries again. -/
def continueAll (s : State) : State :=
  (tabKeys s.rqt.entries (fun e => e.state == .handoffIn || e.state == .admitted)).foldl
    (fun u i => if isWaiting u i then u else continueReads (continueReceive u i) i) s

end Sys2Proof.Machine
end

