-- ==== Sys2Proof/Machine/Wake.lean ====
section
/-! DEFINITION. The power state, its POWER frame and the wake events of Charcoal (R520, R578, R580, R581, R588). -/

namespace Sys2Proof.Machine

open Sys2Proof

/-- The code of a power state in a POWER frame: 0 White, 1 Grey, 2 Charcoal; 3 is Black, 4 and 5 a warm and a cold reset (R520). -/
def powerCode (s : State) : Nat :=
  match s.pwr.state with
  | .white => 0 | .grey => 1 | .charcoal | .leaving => 2
  | .entering => if s.pwr.exitGrey then 1 else 0

/-- The POWER frame before a change of power state, a reset or a trip, where the part sends frames (R520, R578). -/
def sendPower (s : State) (target : Nat) : State :=
  if feedOn s then sendFeed s (.power (powerCode s) target (getF s F.pwrLimit.limitW)) else s

/-- The vector of PWR_CTL (R588). -/
def pwrNotify (s : State) : State := notify s F.pwrCtl.notifyEnable F.pwrCtl.vector

/-- PWR_STATUS.STATE changes. -/
def setPwrState (s : State) (st : PwrState) : State :=
  if s.pwr.state == st then s else pwrNotify { s with pwr := { s.pwr with state := st } }

/-- The exit from Charcoal begins (R580). -/
def leaveCharcoal (s : State) (grey : Bool) : State :=
  let s1 := sendPower s (if grey then 1 else 0)
  setPwrState { s1 with pwr := { s1.pwr with exitGrey := grey } } .leaving

/-- A wake event, which a bit of PWR_WAKE enables or nothing can disable: the exit begins, at once or at the end of the entry (R581). -/
def wakePart (s : State) : State :=
  match s.pwr.state with
  | .charcoal => leaveCharcoal s false
  | .entering => { s with pwr := { s.pwr with wakePending := true } }
  | _ => s

/-- A wake event of a source: 0 DOORBELL, 1 RST, 2 TRAY, 3 TIMER. -/
def wakeBy (s : State) (source : Nat) : State :=
  if (getF s F.pwrWake.sources).testBit source then wakePart s else s

end Sys2Proof.Machine
end

