-- ==== Sys2Proof/Machine/Rst.lean ====
section
/-! DEFINITION. RST datagrams as they arrive: policing, protection, coded blocks, the connection, delivery of the messages in order,
and the timers of the transport and the audit (R313 to R318, R336, R377, R384, R385, R453 to R458, R492). -/

namespace Sys2Proof.Machine

open Sys2Proof

/-! ## The engine -/

/-- The bytes of a page payload that has been gathered and decoded. -/
def nativeBytes : PagePayload → List Byte
  | .native bs => bs
  | .coded b => b.body

/-- A message of a handoff's transfer, which the orphan bound counts from (R336). -/
def isTransferMsg : RstMsg → Bool
  | .offerAck | .pull .. | .pageData .. | .grant | .deny .. | .release | .resume | .recover .. => true
  | _ => false

/-- The entry of a handoff hears a message of its transfer. -/
def hearMsg (s : State) (h : RstHeader) (m : RstMsg) : State :=
  match findRequest s h.requestId with
  | some i =>
    if isTransferMsg m && ((entryOf s i).state == .handoffOut || (entryOf s i).state == .handoffIn) then hear s i else s
  | none => s

/-- A whole message takes its effect (R318). -/
def takeMsg (s : State) (h : RstHeader) (m : RstMsg) : State :=
  match m with
  | .openLedger d e twin model adapter => onOpen s h d e twin model adapter
  | .opened => onOpened s h
  | .logAppend start e es => onLogAppend s h start e es
  | .logAck n => onLogAck s h n
  | .publishBlock b p => onPublishBlock s h b (nativeBytes p)
  | .pubRef .. | .objRead .. | .pfxQuery .. => onAsk s h m
  | .pubAck n => onPubAck s h n
  | .pubNeed b => onPubNeed s h b
  | .offer remaining e model adapter es => onOffer s h remaining e model adapter es
  | .offerAck => onOfferAck s h
  | .pull first count layer => onPull s h first count layer
  | .pageData page layer fill rows => onPageData s h page layer fill (nativeBytes rows)
  | .claim offering twin => onClaim s h offering twin
  | .grant => onGrant s h
  | .deny _ => onDeny s h
  | .release => onRelease s h
  | .whoOwns => onWhoOwns s h
  | .ownerIs owner => onOwnerIs s h owner
  | .resume => if h.status == .noRequest then onRefused s h else onResume s h
  | .recover l => onRecover s h l
  | .objData handle _ bytes => onObjData s h handle (nativeBytes bytes)
  | .close => onClose s h
  | .closed => onClosed s h
  | .pfxAnswer matched handles => onPfxAnswer s h matched handles
  | .none => s

/-- The engine takes a whole message, after those that wait for a lease (R180). -/
def engine (s : State) (h : RstHeader) (m : RstMsg) : State := takeMsg (hearMsg (retryAsks s) h m) h m

/-- A mirror port that is UP carries a message that the Mirror passes to the Active (R492). -/
def passMessage (s : State) (h : RstHeader) (m : RstMsg) : State :=
  let r := pick s (mirrorPorts s)
  match r.1 with
  | some p => enqueue r.2 p (.passedRst h m)
  | none => r.2

/-- A whole message: to the engine, or on a Mirror to the Active. -/
def deliverWhole (s : State) (h : RstHeader) (m : RstMsg) : State :=
  if s.twn.role == .mirror then passMessage s h m else engine s h m

/-- A datagram in its turn: page bytes gather until LAST, other messages take effect at LAST (R314, R317). -/
def deliver (s : State) (h : RstHeader) (m : RstMsg) : State :=
  match connOf s h.source with
  | none => s
  | some c =>
    match msgPayload m with
    | some p =>
      let all := c.gathered ++ nativeBytes p
      if h.last then deliverWhole (setConn s { c with gathered := [] }) h (withPayload m (.native all))
      else setConn s { c with gathered := all }
    | none => if h.last then deliverWhole s h m else s

/-- The datagram is the next one: it is delivered, and after it those that were held ahead of the gap (R316). -/
def deliverAll (peer : PartAddr) : Nat → State → RstHeader → RstMsg → State
  | 0, s, _, _ => s
  | fuel + 1, s, h, m =>
    match connOf s peer with
    | none => s
    | some c =>
      let s1 := deliver (setConn s { c with expected := (c.expected + 1) % 2 ^ 32 }) h m
      match connOf s1 peer with
      | none => s1
      | some c1 =>
        match c1.heldIn.find? (fun e => e.1 == c1.expected) with
        | none => s1
        | some e => deliverAll peer fuel (setConn s1 { c1 with heldIn := c1.heldIn.filter (fun f => f.1 != e.1) }) e.2.1 e.2.2

/-- A datagram with a good payload meets its connection. -/
def onConnection (s0 s : State) (h : RstHeader) (m : RstMsg) : State :=
  match connOf s h.source with
  | none => s
  | some c =>
    if h.connection != c.ident then s
    else
      let s1 := takeAck s h
      let c1 := (connOf s1 h.source).getD c
      match arrivalOf c1 h.seq with
      | .next => acknowledge s0 (deliverAll h.source (c1.heldIn.length + 1) s1 h m) h.source
      | .held => acknowledge s0 (setConn s1 { c1 with heldIn := c1.heldIn ++ [(h.seq, h, m)] }) h.source
      | .discarded => acknowledge s0 s1 h.source

/-- The message with its page payload decoded, or how its block fails (R377). -/
def decodeMessage (s : State) (m : RstMsg) : Except BlockResult RstMsg :=
  match msgBlock m with
  | none => .ok m
  | some b =>
    match decodeBlock s b with
    | .ok bs => .ok (withPayload m (.native bs))
    | r => .error r

/-- A datagram whose tag fails is discarded, unacknowledged and counted (R385). -/
def rejectTag (s : State) : State := notify (satF s F.codErrors.gcm) F.codCtl.notifyEnable F.codCtl.vector

/-- A message that the Mirror passed on over a mirror port that is UP. -/
def isPassed (s : State) (h : RstHeader) : Bool := (mirrorPorts s).contains h.port && s.twn.role == .active

/-- An arriving RST datagram with a message: metered, checked, decoded, and given to its connection. -/
def receive (s0 : State) (h : RstHeader) (m : RstMsg) : State :=
  if isPassed s0 h then engine s0 h m
  else
    let p := police s0 h.port (rstClass (rstType m)) (h.requestId / 2 ^ 52) h.bytes h.dscp
    if !p.1 then p.2
    else if !h.gcmOk then rejectTag p.2
    else
      match decodeMessage p.2 m with
      | .error r => rejectBlock p.2 r
      | .ok m1 => onConnection s0 p.2 h m1

/-- The engine accepts a datagram: XFR_LOCK is set, the datagram is for the part (R313, R348), and its port carries traffic: no frame of a
tray other than the part's own passes a Roale port (R38, R411). -/
def takesRst (s : State) (h : RstHeader) : Bool :=
  isReady s && isSet s F.xfrCtl.xfrLock && portIsUp s h.port.val && (acceptsAddr s h.dest || isPassed s h)

/-- A frame that waits for the end of Charcoal stands in its receive queue, and an RST datagram wakes the part; a full queue of an
Ethernet port discards the frame (R456, R457, R581). -/
def holdFrame (s : State) (c : Instr) (port : PortNo) (cls bytes : Nat) : State :=
  let n := receivedBytes s port.val cls + bytes
  if decide (12 ≤ port.val) && decide (524288 < n) then satF s F.tmRxStats.fullDiscards
  else
    wakeBy { s with pwr := { s.pwr with held := s.pwr.held ++ [c] },
                    tm := { s.tm with received := tabPut 0 s.tm.received (8 * port.val + cls) n } } 1

/-- A frame of a command: taken, or held while the part is not awake. -/
def actFrame (s : State) (taken : Bool) (c : Instr) (port : PortNo) (cls bytes : Nat) (effect : State → State) :
    Host.Outcome State Fault Refusal :=
  if taken && !isAwake s then .next (holdFrame s c port cls bytes) else act s taken effect

/-- A row of the RST message table. -/
def rstRow (s : State) (h : RstHeader) (m : RstMsg) (c : Instr) : Host.Outcome State Fault Refusal :=
  actFrame s (takesRst s h) c h.port (rstClass (rstType m)) h.bytes (fun s => receive s h m)

/-- OPEN (TYPE 1). -/
def execRstOpen (h : RstHeader) (durability : Durability) (entry : Entry) (twin : PartAddr) (modelId adapterId : Nat)
    (s : State) : Host.Outcome State Fault Refusal :=
  rstRow s h (.openLedger durability entry twin modelId adapterId) (.rstOpen h durability entry twin modelId adapterId)

/-- OPENED (TYPE 2). -/
def execRstOpened (h : RstHeader) (s : State) : Host.Outcome State Fault Refusal := rstRow s h .opened (.rstOpened h)

/-- LOG_APPEND (TYPE 3). -/
def execLogAppend (h : RstHeader) (start : Nat) (entry : Entry) (entries : List LogEntry) (s : State) :
    Host.Outcome State Fault Refusal :=
  rstRow s h (.logAppend start entry entries) (.logAppend h start entry entries)

/-- LOG_ACK (TYPE 4). -/
def execLogAck (h : RstHeader) (length : Nat) (s : State) : Host.Outcome State Fault Refusal :=
  rstRow s h (.logAck length) (.logAck h length)

/-- PUBLISH_BLOCK (TYPE 5). -/
def execPublishBlock (h : RstHeader) (block : Nat) (pages : PagePayload) (s : State) : Host.Outcome State Fault Refusal :=
  rstRow s h (.publishBlock block pages) (.publishBlock h block pages)

/-- PUB_REF (TYPE 6). -/
def execPubRef (h : RstHeader) (block parentDigest digest : Nat) (tokens : List Nat) (s : State) :
    Host.Outcome State Fault Refusal :=
  rstRow s h (.pubRef block parentDigest digest tokens) (.pubRef h block parentDigest digest tokens)

/-- PUB_ACK (TYPE 7). -/
def execPubAck (h : RstHeader) (blocks : Nat) (s : State) : Host.Outcome State Fault Refusal :=
  rstRow s h (.pubAck blocks) (.pubAck h blocks)

/-- PUB_NEED (TYPE 8). -/
def execPubNeed (h : RstHeader) (block : Nat) (s : State) : Host.Outcome State Fault Refusal :=
  rstRow s h (.pubNeed block) (.pubNeed h block)

/-- OFFER (TYPE 9). -/
def execOffer (h : RstHeader) (remaining : Nat) (entry : Entry) (modelId adapterId : Nat) (entries : List LogEntry)
    (s : State) : Host.Outcome State Fault Refusal :=
  rstRow s h (.offer remaining entry modelId adapterId entries) (.offer h remaining entry modelId adapterId entries)

/-- OFFER_ACK (TYPE 10). -/
def execOfferAck (h : RstHeader) (s : State) : Host.Outcome State Fault Refusal := rstRow s h .offerAck (.offerAck h)

/-- PULL (TYPE 11). -/
def execPull (h : RstHeader) (first count layer : Nat) (s : State) : Host.Outcome State Fault Refusal :=
  rstRow s h (.pull first count layer) (.pull h first count layer)

/-- PAGE_DATA (TYPE 12). -/
def execPageData (h : RstHeader) (page layer fill : Nat) (rows : PagePayload) (s : State) : Host.Outcome State Fault Refusal :=
  rstRow s h (.pageData page layer fill rows) (.pageData h page layer fill rows)

/-- CLAIM (TYPE 13). -/
def execClaim (h : RstHeader) (offering twin : PartAddr) (s : State) : Host.Outcome State Fault Refusal :=
  rstRow s h (.claim offering twin) (.claim h offering twin)

/-- GRANT (TYPE 14). -/
def execGrant (h : RstHeader) (s : State) : Host.Outcome State Fault Refusal := rstRow s h .grant (.grant h)

/-- DENY (TYPE 15). -/
def execDeny (h : RstHeader) (owner : PartAddr) (s : State) : Host.Outcome State Fault Refusal :=
  rstRow s h (.deny owner) (.deny h owner)

/-- RELEASE (TYPE 16). -/
def execRstRelease (h : RstHeader) (s : State) : Host.Outcome State Fault Refusal := rstRow s h .release (.rstRelease h)

/-- WHO_OWNS (TYPE 17). -/
def execWhoOwns (h : RstHeader) (s : State) : Host.Outcome State Fault Refusal := rstRow s h .whoOwns (.whoOwns h)

/-- OWNER_IS (TYPE 18). -/
def execOwnerIs (h : RstHeader) (owner : PartAddr) (s : State) : Host.Outcome State Fault Refusal :=
  rstRow s h (.ownerIs owner) (.ownerIs h owner)

/-- RESUME (TYPE 19). -/
def execRstResume (h : RstHeader) (s : State) : Host.Outcome State Fault Refusal := rstRow s h .resume (.rstResume h)

/-- RECOVER (TYPE 20). -/
def execRecover (h : RstHeader) (ledger : Ledger) (s : State) : Host.Outcome State Fault Refusal :=
  rstRow s h (.recover ledger) (.recover h ledger)

/-- OBJ_READ (TYPE 21). -/
def execObjRead (h : RstHeader) (handle offset : Nat) (s : State) : Host.Outcome State Fault Refusal :=
  rstRow s h (.objRead handle offset) (.objRead h handle offset)

/-- OBJ_DATA (TYPE 22). -/
def execObjData (h : RstHeader) (handle offset : Nat) (bytes : PagePayload) (s : State) : Host.Outcome State Fault Refusal :=
  rstRow s h (.objData handle offset bytes) (.objData h handle offset bytes)

/-- CLOSE (TYPE 23). -/
def execClose (h : RstHeader) (s : State) : Host.Outcome State Fault Refusal := rstRow s h .close (.close h)

/-- CLOSED (TYPE 24). -/
def execClosed (h : RstHeader) (s : State) : Host.Outcome State Fault Refusal := rstRow s h .closed (.closed h)

/-- PFX_QUERY (TYPE 25). -/
def execPfxQuery (h : RstHeader) (domain parentDigest modelId adapterId : Nat) (tokens : List Nat) (s : State) :
    Host.Outcome State Fault Refusal :=
  rstRow s h (.pfxQuery domain parentDigest modelId adapterId tokens) (.pfxQuery h domain parentDigest modelId adapterId tokens)

/-- PFX_ANSWER (TYPE 26). -/
def execPfxAnswer (h : RstHeader) (matched : Nat) (handles : List Nat) (s : State) : Host.Outcome State Fault Refusal :=
  rstRow s h (.pfxAnswer matched handles) (.pfxAnswer h matched handles)

/-! ## The transport's own datagrams and timers (R316, R385) -/

/-- A datagram without a message: RESET drops the connection, SYN opens it, and its ACK is taken. -/
def transportOnly (s : State) (h : RstHeader) : State :=
  if h.reset then dropConn s h.source
  else if h.syn then
    let s1 := takeSyn s h
    if ((connOf s h.source).map (·.open_)).getD true then s1 else takeAck s1 h
  else
    match connOf s h.source with
    | some c => if h.connection == c.ident then takeAck s h else s
    | none => s

/-- RST_TRANSPORT_ONLY: ACK_ONLY, SYN or RESET without a message. -/
def execRstTransportOnly (h : RstHeader) (s : State) : Host.Outcome State Fault Refusal :=
  actFrame s (takesRst s h) (.rstTransportOnly h) h.port 0 h.bytes (fun s => transportOnly s h)

/-- What entry `i` awaits from an unreachable peer ends as if the answer were lost (R316, R325, R336). -/
def entryLost (peer : PartAddr) (s : State) (i : Nat) : State :=
  let e := entryOf s i
  let home := e.home == peer
  match admissionOf s i with
  | some a =>
    if home && a.closing then refuseAdmission s i 6
    else if home && !a.opened then refuseAdmission s i 7
    else if home && a.query then endQuery s i
    else s
  | none =>
    if home && tabGet false s.rqt.taken i then takeoverDenied s i
    else
      let s1 := if home && tabGet false s.rqt.logInFlight i then
          { s with rqt := { s.rqt with
            logInFlight := tabPut false s.rqt.logInFlight i false,
            logFrom := tabPut none s.rqt.logFrom i (some (logStart s i)) } }
        else s
      let s2 := match readsOf s1 i, descOf s1 e.composition.val with
        | some r, some d =>
          if home && r.asked then
            continueReads (setReads (clearBlock s1 i r.next d.layers) i (some { r with handles := [], asked := false })) i
          else s1
        | _, _ => s1
      let s3 := match transferFor s2 i (· == .publish) with
        | some k => if home then endTransfer s2 k else s2
        | none => s2
      match handoffTransfer s3 i with
      | none => if home && (e.state == .handoffIn) && (readsOf s3 i).isNone && (inputOf s3 i).isNone then auditLost s3 i else s3
      | some k =>
        match transferOf s3 k with
        | none => s3
        | some x =>
          if home && x.audited then auditLost s3 i
          else if x.peer == peer then setTransfer s3 k (some { x with unreachable := true })
          else s3

/-- A recovery whose target is unreachable (R348). -/
def recoveryLost (s : State) (peer : PartAddr) : State :=
  if s.xfr.ledgers.any (fun e => e.2.lstate == .recovering && e.2.owner == peer) then putF s F.xfrRecoverCtl.status 4 else s

/-- A peer is unreachable: the connection goes, every exchange with the peer ends, and the vector is signalled (R316, R348). -/
def unreachable (s : State) (peer : PartAddr) : State :=
  let s1 := (tabKeys s.rqt.entries (fun e => e.state != .free)).foldl (entryLost peer) (dropConn s peer)
  notify (recoveryLost s1 peer) F.xfrCtl.notifyEnable F.xfrNotify.vector

/-- The resend wait of the datagram `seq` to `peer` ends without an acknowledgement. -/
def retransmit (s : State) (peer : PartAddr) (seq : Nat) : State :=
  match connOf s peer with
  | none => s
  | some c =>
    match c.unacked.find? (fun d => d.2.seq == seq) with
    | none => s
    | some (n, d) =>
      if getF s F.xfrRto.retries ≤ n then unreachable s peer
      else
        let raw := { d with msg := rawPayload s d.msg }
        let c1 := { c with unacked := c.unacked.map (fun u => if u.2.seq == seq then (n + 1, raw) else u) }
        (sendDatagram (setConn s c1) raw).2

/-- RST_RETRANSMIT. -/
def execRstRetransmit (peer : PartAddr) (seq : Nat) (s : State) : Host.Outcome State Fault Refusal :=
  act s (runs s) (fun s => retransmit s peer seq)

/-- ORPHAN_AUDIT. -/
def execOrphanAudit (index : Nat) (s : State) : Host.Outcome State Fault Refusal :=
  act s (runs s && isSet s F.xfrCtl.xfrLock && orphanPassed s index) (fun s => auditEntry s index)

/-- OFFER_RESEND. -/
def execOfferResend (index : Nat) (s : State) : Host.Outcome State Fault Refusal :=
  act s (runs s && orphanPassed s index) (fun s => resendOffer s index)

end Sys2Proof.Machine
end

