-- ==== Sys2Proof/Machine/Codec.lean ====
section
/-! DEFINITION. The link codec at work: canonical codes, coding and decoding of blocks, rejection of bad ones, the table slots and
the COD_ table commands (13_link_codec.md). -/

namespace Sys2Proof.Machine

open Sys2Proof

/-- Blocks coded with slot `j` that are sent and not yet acknowledged, on RST connections and in coded tensor writes (R383). -/
def inFlight (s : State) (j : Nat) : Nat :=
  ((s.xfr.conns.map (fun c => (c.unacked.filter (fun d =>
    match msgBlock d.2.msg with
    | some b => !b.raw && b.slot == j
    | none => false)).length)).sum) +
  ((s.lnk.ops.map (fun e =>
    match e.2 with
    | some x => (x.left.filter (fun b => tabGet 0 x.codedWith b == j + 1)).length
    | none => 0)).sum)

/-- The 128 bytes of COD_TABLE_DATA as 256 code lengths: byte k holds those of byte values 2k and 2k + 1 (R374). -/
def tableLengths (s : State) : List Nat :=
  ((List.range 16).map (fun i =>
    ((leBytes 8 (getF s (F.codTableData.data.at i))).map (fun b => [b.toNat % 16, b.toNat / 16])).flatten)).flatten

/-- A table is valid (R374): no length above 12, at least one not 0, and the Kraft sum at most 1. -/
def tableValid (ls : List Nat) : Bool :=
  ls.all (· ≤ 12) && ls.any (· != 0) && decide ((ls.map (fun l => if l = 0 then 0 else 2 ^ (12 - l))).sum ≤ 4096)

/-- Table slot `j` set. -/
def setTable (s : State) (j : Nat) (t : CodecTable) : State :=
  { s with cod := { s.cod with tables := tabPut {} s.cod.tables j t } }

/-- A command on a slot with blocks in flight or its bit in ENC_MASK set is refused (R383). -/
def slotBusy (s : State) (j : Nat) : Bool := inFlight s j != 0 || (getF s F.codCtl.encMask).testBit j

/-- LOAD of the table in COD_TABLE_DATA: status 0 OK, 2 SLOT_BUSY, 3 BAD_TABLE. A TAG of 0 names no table (log entry 15). -/
def loadTable (s : State) (j tag : Nat) : State :=
  let s1 := putF s F.codTableCtl.slot j
  let s2 := if 1 ≤ tag ∧ tag ≤ 255 then putF s1 F.codTableCtl.tag tag else s1
  let t := getF s2 F.codTableCtl.tag
  let ls := tableLengths s2
  if slotBusy s2 j then putF s2 F.codTableCtl.status 2
  else if !tableValid ls || t == 0 then putF s2 F.codTableCtl.status 3
  else putF (setTable s2 j { loaded := true, tag := t, lengths := ls }) F.codTableCtl.status 0

/-- TABLE_LOAD: CMD 1 written to COD_TABLE_CTL. -/
def execTableLoad (slot : Fin 4) (tag : Nat) (s : State) : Host.Outcome State Fault Refusal :=
  actAwake s (serves s 8) (.tableLoad slot tag) (fun s => loadTable s slot.val tag)

/-- TABLE_CLEAR: CMD 2 written to COD_TABLE_CTL. -/
def execTableClear (slot : Fin 4) (s : State) : Host.Outcome State Fault Refusal :=
  actAwake s (serves s 8) (.tableClear slot) (fun s =>
    let s1 := putF s F.codTableCtl.slot slot.val
    if slotBusy s1 slot.val then putF s1 F.codTableCtl.status 2
    else putF (setTable s1 slot.val {}) F.codTableCtl.status 0)

end Sys2Proof.Machine
end

