-- ==== Sys2Proof/Machine/Tables.lean ====
section
/-! DEFINITION. The tables that the part keeps in Ochre, as bytes: what a read of memory finds of the object table, the page records,
manifests and histories, the prefix index, the ledgers and their logs, and the request side table (R13, R140, R157, R167 to R171,
R290, R291, R322, R323, R326, R356, R366). The typed tables of State are their contents (log entry 24). -/

namespace Sys2Proof.Machine

open Sys2Proof

/-! ## Records -/

/-- Byte `i` of a little-endian value. -/
def byteOf (v i : Nat) : Byte := BitVec.ofNat 8 (v / 256 ^ i)

/-- STATE of an object (R140). -/
def objStateCode : ObjState → Nat
  | .free => 0 | .writable => 1 | .publishing => 2 | .published => 3 | .moving => 4 | .retiring => 5

/-- The 64 bytes of an ODT entry (R140). -/
def odtBytes (e : OdtEntry) : List Byte :=
  leBytes 2 e.generation ++ leBytes 1 (objStateCode e.state) ++ leBytes 1 e.tier ++ leBytes 2 e.tenant ++ leBytes 1 e.kind ++
    leBytes 1 e.prot ++ leBytes 2 e.pinCount ++ leBytes 2 e.keySlot ++ zeros 4 ++ leBytes 8 e.location ++ leBytes 8 e.size ++
    leBytes 8 e.newLocation ++ leBytes 8 e.crc ++ zeros 16

/-- STATE of a page record (R168). -/
def pageStateCode : PageState → Nat
  | .free => 0 | .open_ => 1 | .sealed_ => 2 | .retired => 3 | .inside => 4

/-- A page record (R168). -/
def pageWord (p : PageRec) : Nat := pageStateCode p.state + 512 * p.fill + 2 ^ 16 * p.refs + 2 ^ 32 * p.epochOrOwner

/-- A page entry (R171). -/
def pageEntryWord (e : PageEntry) : Nat :=
  2 ^ 31 * e.valid.toNat + 2 ^ 30 * e.dropped.toNat + 2 ^ 29 * e.published.toNat + e.page % 2 ^ 29

/-- A log entry (R326). -/
def logWord (e : LogEntry) : Nat := 2 ^ 31 * e.input.toNat + e.token % 2 ^ 31

/-- The 32 bytes of a way (R290). -/
def wayBytes (w : Way) : List Byte :=
  leBytes 16 w.digest ++ leBytes 4 w.block ++ leBytes 1 w.comp ++
    leBytes 1 (w.valid.toNat + 2 * w.pinned.toNat + 4 * w.collided.toNat) ++ zeros 2 ++ leBytes 4 w.lastUse ++ zeros 4

/-- The record after `n` among the tree children of its parent; 0 for none (R291). -/
def nextSibling (s : State) (n : Nat) : Nat :=
  let x := recOf s n
  if !x.inTree || x.root then 0 else (((recOf s x.parent).children.dropWhile (· != n)).drop 1).headD 0

/-- The 1,024 bytes of block record `n` (R291). -/
def blockRecordBytes (s : State) (n : Nat) : List Byte :=
  let x := recOf s n
  if !x.used then zeros 1024
  else
    leBytes 16 x.parentDigest ++ leBytes 16 x.digest ++ leBytes 4 (x.children.headD 0) ++ leBytes 4 (nextSibling s n) ++
      leBytes 4 x.lastUse ++ leBytes 1 x.comp ++
      leBytes 1 (x.inTable.toNat + 2 * x.inTree.toNat + 4 * x.root.toNat + 8 * x.pinned.toNat) ++ leBytes 2 x.domain ++ zeros 16 ++
      ((List.range 64).map (fun j => leBytes 4 ((x.tokens[j]?).getD 0))).flatten ++
      ((List.range 128).map (fun l => leBytes 4 ((x.pages[l]?).getD 0))).flatten ++ zeros 192

/-- LSTATE of a ledger (R323). -/
def ledgerStateCode : LState → Nat
  | .free => 0 | .open => 1 | .lost => 2 | .recovering => 3

/-- The 512 bytes of a ledger with its units (R323). -/
def ledgerBytes (l : Ledger) (u : LedgerUnits) : List Byte :=
  leBytes 1 (ledgerStateCode l.lstate) ++ leBytes 1 (durabilityCode l.durability) ++ leBytes 2 l.tenant.val ++
    leBytes 4 l.ownerEpoch ++ leBytes 8 l.requestId ++ leBytes 16 l.owner ++ leBytes 16 l.ownerTwin ++ leBytes 4 l.log.length ++
    leBytes 4 u.dir ++ leBytes 4 l.blocks.length ++ zeros 4 ++
    ((List.range 8).map (fun j => leBytes 4 ((u.blocks[j]?).getD 0))).flatten ++ leBytes 16 l.modelId ++ leBytes 16 l.adapterId ++
    leBytes 8 l.openedLmc ++ leBytes 8 l.appendLmc ++ zeros 112 ++ entryBytes l.entry

/-! ## Units of the manifest pool (R170, R323, R326, R356) -/

/-- The word at index `j` of a list of words; 0 beyond it. -/
def wordAt (ws : List Nat) (j : Nat) : Nat := (ws[j]?).getD 0

/-- The page entry `j` of unit `k` = 8 l + n of a manifest: that of page 2,048 n + j of layer l (R170). -/
def unitEntry (m : Manifest) (k j : Nat) : Nat := pageEntryWord (tabGet {} m.pages (16384 * (k / 8) + 2048 * (k % 8) + j))

/-- The word at index `j` of the unit `u` where a manifest holds it: its directory, a unit of page entries, or a unit of its history. -/
def manifestWord (m : Manifest) (u j : Nat) : Option Nat :=
  if m.directory = u then some (if j < 1024 then tabGet 0 m.units j else 0)
  else if m.historyDir = u then some (if j < 512 then tabGet 0 m.historyUnits j else 0)
  else
    match m.units.find? (fun e => e.2 == u), m.historyUnits.find? (fun e => e.2 == u) with
    | some e, _ => some (unitEntry m e.1 j)
    | none, some e => some (wordAt (m.history.map logWord) (2048 * e.1 + j))
    | none, none => none

/-- The word at index `j` of the unit `u` where a ledger holds it: its log directory, a log unit, or a unit of block handles. -/
def ledgerWord (l : Ledger) (x : LedgerUnits) (u j : Nat) : Option Nat :=
  if x.dir = u then some (if j < 512 then wordAt x.logs j else 0)
  else
    match x.logs.findIdx? (· == u), x.blocks.findIdx? (· == u) with
    | some k, _ => some (wordAt (l.log.map logWord) (2048 * k + j))
    | none, some k => some (wordAt l.blocks (2048 * k + j))
    | none, none => none

/-- The word at index `j` of unit `u`; 0 in a unit that nothing holds. -/
def unitWord (s : State) (u j : Nat) : Nat :=
  if u = 0 then 0
  else
    match s.rqt.manifests.findSome? (fun e => manifestWord e.2 u j) with
    | some v => v
    | none => (s.xfr.units.findSome? (fun e => ledgerWord (tabGet {} s.xfr.ledgers e.1) e.2 u j)).getD 0

/-! ## Memory as it reads -/

/-- The tables in Ochre: the local address of each, its bytes, and the byte at an offset of it. -/
def tables (s : State) : List (Nat × Nat × (Nat → Byte)) :=
  [(getF s F.stkOchreCfg.odtBase * 2 ^ 26, 2 ^ 26, fun o => ((odtBytes (odtOf s (o / 64)))[o % 64]?).getD 0),
   (getF s F.stkPageRecBase.base * 4096, localGranules s * 8 * 32, fun o =>
     byteOf (pageWord (pageOf s (o / 8 / localGranules s * 2 ^ 24 + o / 8 % localGranules s))) (o % 8)),
   (getF s F.stkManifestBase.base * 8192, getF s F.stkManifestUnits.count * 8192, fun o =>
     byteOf (unitWord s (o / 8192) (o % 8192 / 4)) (o % 4)),
   (getF s F.pfxTableBase.base * 2 ^ 31, (if getF s F.pfxBlockCount.count = 0 then 0 else 2 ^ 31), fun o =>
     ((wayBytes (wayOf s (o / 32)))[o % 32]?).getD 0),
   (getF s F.pfxBlockBase.base * 1024, getF s F.pfxBlockCount.count * 1024, fun o =>
     ((blockRecordBytes s (o / 1024))[o % 1024]?).getD 0),
   (getF s F.xfrLedgerBase.base * 4096, getF s F.xfrLedgerCount.count * 512, fun o =>
     ((ledgerBytes (tabGet {} s.xfr.ledgers (o / 512)) (tabGet {} s.xfr.units (o / 512)))[o % 512]?).getD 0),
   (getF s F.stkReqSideBase.base * 4096, (if getF s F.stkReqSideBase.base = 0 then 0 else 2 ^ 19), fun o =>
     let m := tabGet {} s.rqt.manifests (o / 8)
     byteOf (m.historyDir + 2 ^ 32 * m.parked) (o % 8))]

/-- A byte of memory as it reads: that of a table of the part, once STK_LOCK fixes where they stand, or else the byte stored there
(R169). -/
def readByte (s : State) (a : Nat) : Byte :=
  if !isSet s F.stkObjCtl.stkLock then memByte s a
  else
    match (tables s).find? (fun t => decide (t.1 ≤ a) && decide (a < t.1 + t.2.1)) with
    | some t => t.2.2 (a - t.1)
    | none => memByte s a

/-- `n` bytes from `a` as they read. -/
def readBytes (s : State) (a n : Nat) : List Byte := (List.range n).map (fun i => readByte s (a + i))

end Sys2Proof.Machine
end

