-- ==== Sys2Proof/Machine/Remote.lean ====
section
/-! DEFINITION. Tray memory at both ends: remote operations of sequencer threads with their outstanding slots, retries and fences, and
what a target does with MEM_REQ and TENSOR frames (15_tray_fabric_and_coherence.md, R415 to R434; R458, R508, R511). -/

namespace Sys2Proof.Machine

open Sys2Proof

/-! ## Members and routes (R417 to R419) -/

/-- The state of member `m`. -/
def memberOf (s : State) (m : Nat) : MemberState := tabGet .absent s.lnk.members m
def setMemberState (s : State) (m : Nat) (v : MemberState) : State :=
  { s with lnk := { s.lnk with members := tabPut .absent s.lnk.members m v } }

/-- A Roale port number of the traffic manager. -/
def roalePort (p : Nat) : PortNo := ⟨p % 12, Nat.lt_of_lt_of_le (Nat.mod_lt _ (by decide)) (by decide)⟩

/-- The port that takes a frame of region `r` for member `m`: number `r` modulo the ports of the mask, ascending. -/
def regionPort (s : State) (m r : Nat) : Option Nat :=
  let ps := routePorts s m
  ps[r % ps.length]?

/-- The port that takes a frame which no region issues: the lowest of the mask. -/
def lowestPort (s : State) (m : Nat) : Option Nat := (routePorts s m).head?

/-! ## An access at its home (R425, R426, R431) -/

/-- A value as a two's complement number of `n` bytes. -/
def signedOf (n v : Nat) : Int := if 2 ^ (8 * n - 1) ≤ v then (v : Int) - (2 ^ (8 * n) : Nat) else v

/-- What an atomic of `n` bytes writes (R425): `x` is the operand, or for CAS the compare value, and `swap` its swap value. -/
def atomicResult (op : MemOp) (n old x swap : Nat) : Nat :=
  match op with
  | .add => (old + x) % 2 ^ (8 * n)
  | .minS => if signedOf n x < signedOf n old then x else old
  | .minU => if x < old then x else old
  | .maxS => if signedOf n old < signedOf n x then x else old
  | .maxU => if old < x then x else old
  | .swap => x
  | .cas => if old = x then swap else old
  | .load | .store => old

/-- An uncached read of a line: a Modified copy goes to memory, and its owner keeps a shared one (R440). -/
def readLine (s : State) (l : Nat) : State :=
  let h := homeLine s l
  let c := cacheLine s h.owner l
  if h.state == .owned && c.state == .modified then
    storeLine (setHomeLine (setCacheLine s h.owner l { c with state := .shared }) l
      { h with state := .shared, sharers := [h.owner], owner := 0 }) l c.data
  else s

/-- An access meets a POISONED line that it does not overwrite whole (R440). -/
def meetsPoison (s : State) (whole : Bool) (a n : Nat) : Bool :=
  (linesOf a n).any (fun l => (homeLine s l).poisoned && !(whole && decide (a ≤ l * 128) && decide (l * 128 + 128 ≤ a + n)))

/-- The home of a line is waiting for an agent's answer, so that the access cannot be served now (R431; log entry 18). -/
def meetsBusy (s : State) (a n : Nat) : Bool := (linesOf a n).any (fun l => (homeLine s l).busy.isSome)

/-- Clears the poison of the lines that a write covers whole (R440). -/
def clearPoison (s : State) (a n : Nat) : State :=
  (linesOf a n).foldl (fun u l =>
    if (homeLine u l).poisoned then setHomeLine u l { homeLine u l with poisoned := false } else u) s

/-- A local read or write of `n` bytes at local address `a` by an agent without a cache: its status, the bytes it returns, and the
state after it (R423, R425, R426, R431). -/
def memAccess (s : State) (op : MemOp) (n a operand : Nat) (data : List Byte) : RemoteStatus × List Byte × State :=
  if !(inOchre s a n || (op == .load && inSlate s a n)) then (.addressError, [], s)
  else if op != .load && writeRefused s a n then (.writeProtected, [], s)
  else if meetsPoison s (op == .store) a n then (.poisoned, [], s)
  else if meetsBusy s a n then (.retry, [], s)
  else
    match op with
    | .load => (.ok, readBytes s a n, (linesOf a n).foldl readLine s)
    | .store => (.ok, [], memWrite (clearPoison s a n) a (data.take n))
    | op =>
      let old := leNat (memBytes s a n)
      (.ok, leBytes n old, memWrite s a (leBytes n (atomicResult op n old (operand % 2 ^ (8 * n)) (leNat data))))

/-! ## Completion at the issuing thread (R427, R431 to R434) -/

/-- Where an operation is kept: by region and outstanding slot. -/
def opKey (r slot : Nat) : Nat := 64 * r + slot
def opOf (s : State) (r slot : Nat) : Option RemoteOp := tabGet none s.lnk.ops (opKey r slot)
def setOp (s : State) (r slot : Nat) (x : Option RemoteOp) : State :=
  { s with lnk := { s.lnk with ops := tabPut none s.lnk.ops (opKey r slot) x } }

/-- A store or a coded tensor write is posted (R432). -/
def isPosted (x : RemoteOp) : Bool :=
  match x.kind with
  | .mem .store | .tensor .. => true
  | _ => false

/-- Thread `t` of region `r` parks, or runs again. -/
def park (s : State) (r t : Nat) (on : Bool) : State :=
  setRegion s r { regionOf s r with threads := tabPut false (regionOf s r).threads t on }

/-- Region number `r`. -/
def regionNo (r : Nat) : RegionNo := ⟨r % 64, Nat.mod_lt _ (by decide)⟩

/-- An operation's status at its thread, with the bytes that a load or an atomic returns, which go to the thread's destination with OK
alone (R427, R431); the counters of R444. -/
def tellThread (s : State) (r : Nat) (x : RemoteOp) (st : RemoteStatus) (bs : List Byte) : State :=
  let s1 := wrapF s F.lnkStats.remoteOps 1
  let s2 := if st == .timeout then satF s1 F.lnkStats.timeouts else s1
  let s3 := match x.dest with
    | some a => if st == .ok && !isPosted x then writeIvory s2 r a (bs.take x.size) else s2
    | none => s2
  emit s3 (.remoteDone (regionNo r) x.thread st (if st == .ok then bs else []))

/-- The thread's place in the tables of fences. -/
def threadKey (r t : Nat) : Nat := 16 * r + t

/-- Posted operations of a thread that have not completed. -/
def postedLeft (s : State) (r t : Nat) : Bool :=
  s.lnk.ops.any (fun e =>
    match e.2 with
    | some x => e.1 / 64 == r && x.thread == t && isPosted x
    | none => false) ||
  s.lnk.opQueue.any (fun e => e.1 == r && e.2.thread == t && isPosted e.2)

/-- A fence that waits for nothing more completes with the first status other than OK, or OK (R432). -/
def endFence (s : State) (r t : Nat) : State :=
  if !(tabGet false s.lnk.fences (threadKey r t)) || postedLeft s r t then s
  else
    let st := (tabGet none s.lnk.postedBad (threadKey r t)).getD .ok
    let s1 := { s with lnk := { s.lnk with
      fences := tabPut false s.lnk.fences (threadKey r t) false,
      postedBad := tabPut none s.lnk.postedBad (threadKey r t) none } }
    emit (park s1 r t false) (.remoteDone (regionNo r) t st [])

/-- The thread's part of a completion: it runs again, or its posted status is kept for the next fence. -/
def endAtThread (s : State) (r : Nat) (x : RemoteOp) (st : RemoteStatus) : State :=
  if isPosted x then
    let k := threadKey r x.thread
    let s1 := if st == .ok || (tabGet none s.lnk.postedBad k).isSome then s
      else { s with lnk := { s.lnk with postedBad := tabPut none s.lnk.postedBad k (some st) } }
    endFence s1 r x.thread
  else park s r x.thread false

/-! ## Sending (R419, R425, R430) -/

/-- A layout of Stage A (R373). -/
def stageLayout (f : Nat) : Option Shade :=
  if f = 1 then some .shade8 else if f = 2 then some .shade6e3m2 else if f = 3 then some .shade6e2m3 else none

/-- The rows of `k` elements that Stage A makes of BF16 bytes: element bytes, then scale bytes (R71, R370). -/
def stageARow (l : Shade) (k : Nat) (bs : List Byte) : List Byte :=
  let xs := (List.range k).map (fun i => valueOf .bf16 (leNat ((bs.drop (2 * i)).take 2)))
  let qs := (List.range (k / 32)).map (fun i => quantiseBlock l (List.replicate 32 .nearest) ((xs.drop (32 * i)).take 32))
  (qs.map (fun q => packCodes (formatWidth (shadeFormat l)) q.1)).flatten ++ (qs.map (fun q => leBytes 1 q.2.1)).flatten

/-- The Stage-A bytes of a tensor (R369, R370). -/
def stageA (format k : Nat) (bs : List Byte) : List Byte :=
  match stageLayout format with
  | none => bs
  | some l =>
    if k = 0 then []
    else ((List.range (bs.length / (2 * k))).map (fun i => stageARow l k ((bs.drop (2 * k * i)).take (2 * k)))).flatten

/-- Block `b` of a coded tensor write as it enters the encode queue of port `p`; raw where it is sent again (R372, R376, R377). -/
def tensorBlock (s : State) (p format b : Nat) (raw : Bool) (data : List Byte) : CodedBlock × State :=
  let bs := (data.drop (4096 * b)).take 4096
  let s1 := enterEncode s p bs.length
  (if raw then rawBlock format bs else portBlock s1 p (getF s F.codCtl.actSlot) format bs, s1)

/-- Block `b` of the operation in a slot was coded with a table slot, or sent raw (R383). -/
def noteCoded (s : State) (r slot b : Nat) (blk : CodedBlock) : State :=
  match opOf s r slot with
  | some x => setOp s r slot (some { x with codedWith := tabPut 0 x.codedWith b (if blk.raw then 0 else blk.slot + 1) })
  | none => s

/-- The frames of an operation leave on its port. -/
def sendOp (s : State) (r slot : Nat) (x : RemoteOp) (blocks : List Nat) (raw : Bool) : State :=
  let tag : FrameTag := { generation := x.generation, region := regionNo r, slot := ⟨slot % 64, Nat.mod_lt _ (by decide)⟩ }
  match x.kind with
  | .mem op => enqueue s (roalePort x.port) (.memReq op x.member x.tenant tag x.size x.address x.operand x.data)
  | .tensor f _ =>
    blocks.foldl (fun u b =>
      let t := tensorBlock u x.port f b raw x.data
      enqueueBlock (countBlock (noteCoded t.2 r slot b t.1) (some t.1)) (roalePort x.port)
        (.tensor x.member x.tenant tag x.address b x.size t.1)) s

/-- Places an operation in an outstanding slot and sends it, or completes it at once where its member has left or its route has
failed (R431, R511; log entry 19). -/
def placeOp (s : State) (r slot : Nat) (x : RemoteOp) : State :=
  match memberOf s x.member, hopsTo s x.member, regionPort s x.member r with
  | .enrolled, _ + 1, some p =>
    let y := { x with
      generation := tabGet 0 s.lnk.generations (opKey r slot), issued := s.lnk.issues, port := p
      left := match x.kind with
        | .tensor .. => List.range (ceilDiv x.size 4096)
        | _ => [] }
    let s1 := { s with lnk := { s.lnk with issues := s.lnk.issues + 1 } }
    if (portOf s p).state != .up then endAtThread (tellThread s1 r y .linkDown []) r y .linkDown
    else sendOp (setOp s1 r slot (some y)) r slot y y.left false
  | .enrolled, _, _ => endAtThread (tellThread s r x .linkDown []) r x .linkDown
  | _, _, _ => endAtThread (tellThread s r x .departed []) r x .departed

/-- An outstanding slot of region `r` that is free, which the part chooses. -/
def freeSlot (s : State) (r : Nat) : Option Nat × State := chooseFree s 0 64 (fun k => (opOf s r k).isNone)

/-- Operations that wait for a slot of region `r` take the free ones in order; `fuel` bounds them. -/
def fillSlots (r : Nat) : Nat → State → State
  | 0, s => s
  | fuel + 1, s =>
    match s.lnk.opQueue.find? (fun e => e.1 == r) with
    | none => s
    | some e =>
      let f := freeSlot s r
      match f.1 with
      | none => s
      | some k =>
        let s1 := { f.2 with lnk := { f.2.lnk with opQueue := f.2.lnk.opQueue.erase e } }
        let s2 := if isPosted e.2 then park s1 r e.2.thread false else s1
        fillSlots r fuel (placeOp s2 r k e.2)

/-- An operation completes with a status: its thread learns it, its slot is free, and what waits for a slot takes it. The slot's
generation advances where a reply may still come (R434). -/
def completeOp (s : State) (r slot : Nat) (st : RemoteStatus) (bs : List Byte) : State :=
  match opOf s r slot with
  | none => s
  | some x =>
    let s1 := setOp s r slot none
    let k := opKey r slot
    let s2 := if st == .timeout || st == .linkDown then
        { s1 with lnk := { s1.lnk with generations := tabPut 0 s1.lnk.generations k ((tabGet 0 s1.lnk.generations k + 1) % 16) } }
      else s1
    let s3 := endAtThread (tellThread s2 r x st bs) r x st
    fillSlots r s3.lnk.opQueue.length s3

/-! ## Issue (R420 to R425, R432) -/

/-- The tenant of an operation: that of a kernel unit's request, or 0 (R422). -/
def unitTenant (s : State) (r : Nat) : Nat :=
  match runningUnit s r with
  | some u =>
    if ((kernelOf s r u.kernel).map (·.unit)) == some 1 then 0
    else
      match (tabGet none s.sch.steps u.step).bind (fun x => x.reqs.head?) with
      | some q => (entryOf s q.index).tenant.val
      | none => 0
  | none => 0

/-- The permission bit for a kind of operation. -/
def twtPermission (k : RemoteKind) : Field :=
  match k with
  | .mem .load => F.lnkTwtAttr.read
  | .mem .store => F.lnkTwtAttr.write
  | .mem _ => F.lnkTwtAttr.atomic
  | .tensor .. => F.lnkTwtAttr.tensor

/-- One VALID entry of the Tenant Window Table covers the access (R421). -/
def twtCovers (s : State) (k : RemoteKind) (tenant member a n : Nat) : Bool :=
  (List.range 4096).any (fun i =>
    isSet s (F.lnkTwtAttr.valid.at i) && getF s (F.lnkTwtAttr.tenant.at i) == tenant &&
      (getF s (F.lnkTwtAttr.members.at i)).testBit member &&
      decide (getF s (F.lnkTwtBase.base.at i) * 4096 ≤ a) &&
      decide (a + n ≤ (getF s (F.lnkTwtLimit.limit.at i) + 1) * 4096) && isSet s ((twtPermission k).at i))

/-- Size and alignment of an operation are allowed (R425, R430). -/
def opShapeOk (k : RemoteKind) (a n : Nat) : Bool :=
  match k with
  | .mem .load | .mem .store => [8, 16, 32, 64, 128, 256].contains n && a % n == 0
  | .mem .cas => n == 8 && a % 8 == 0
  | .mem _ => (n == 4 || n == 8) && a % n == 0
  | .tensor .. => 1 ≤ n && n ≤ 2 ^ 24

/-- The first access DENIED is recorded (R421, R444). -/
def recordDenied (s : State) (r tenant address : Nat) : State :=
  let s1 := latch s F.lnkFault.valid F.lnkFault.overflow (fun u =>
    putF (putF (putF u F.lnkFault.tenant tenant) F.lnkFault.region r) F.lnkFaultAddr.trayAddress address)
  if isSet s F.lnkFault.valid then s1 else notify s1 F.lnkCtl.notifyEnable F.lnkCtl.vector

/-- An access whose member is the part itself, inside the package (R420). -/
def localOp (s : State) (r : Nat) (x : RemoteOp) : State :=
  match x.kind with
  | .mem op =>
    let m := memAccess s op x.size x.address x.operand x.data
    endAtThread (tellThread m.2.2 r x m.1 m.2.1) r x m.1
  | .tensor .. =>
    let m := memAccess s .store x.size x.address 0 x.data
    endAtThread (tellThread m.2.2 r x m.1 []) r x m.1

/-- An operation takes a slot, or its thread parks until one is free (R432). -/
def takeSlot (s : State) (r : Nat) (x : RemoteOp) : State :=
  let f := freeSlot s r
  let s1 := if isPosted x then f.2 else park f.2 r x.thread true
  match f.1 with
  | some k => placeOp s1 r k x
  | none => park { s1 with lnk := { s1.lnk with opQueue := s1.lnk.opQueue ++ [(r, x)] } } r x.thread true

/-- A sequencer thread issues an operation at a tray address. -/
def issueOp (s : State) (r thread : Nat) (kind : RemoteKind) (address size operand : Nat) (data : List Byte) (dest : Option Nat) :
    State :=
  let bytes := match kind with
    | .tensor f k => stageA f k data
    | _ => data
  let n := match kind with
    | .tensor .. => bytes.length
    | _ => size
  let a := address % 2 ^ 48
  let m := address / 2 ^ 48 % 16
  let tenant := unitTenant s r
  let x : RemoteOp := { member := m, thread := thread, tenant := tenant, kind := kind, size := n, address := a,
                        operand := operand, data := bytes, dest := dest }
  if !opShapeOk kind a n then endAtThread (tellThread s r x .addressError []) r x .addressError
  else if m = s.lnk.member then localOp s r x
  else if !twtCovers s kind tenant m a n then
    let s1 := recordDenied s r tenant (address % 2 ^ 52)
    endAtThread (tellThread s1 r x .denied []) r x .denied
  else takeSlot s r x

/-- A thread of region `r` executes: the region has a unit and the thread is not parked. -/
def threadRuns (s : State) (r t : Nat) : Bool :=
  runs s && (runningUnit s r).isSome && ((regionOf s r).state == .serving || (regionOf s r).state == .draining) &&
    !(tabGet false (regionOf s r).threads t)

/-- REMOTE_OP_ISSUE: a sequencer thread issues a load, store, atomic or coded tensor write. -/
def execRemoteOpIssue (r : RegionNo) (thread : Fin 16) (kind : RemoteKind) (address size operand : Nat) (data : List Byte)
    (s : State) (dest : Option Nat := none) : Host.Outcome State Fault Refusal :=
  act s (threadRuns s r.val thread.val) (fun s => issueOp s r.val thread.val kind address size operand data dest)

/-- REMOTE_FENCE: the thread parks until its posted operations have completed. -/
def execRemoteFence (r : RegionNo) (thread : Fin 16) (s : State) : Host.Outcome State Fault Refusal :=
  act s (threadRuns s r.val thread.val) (fun s =>
    let s1 := park s r.val thread.val true
    endFence { s1 with lnk := { s1.lnk with fences := tabPut false s1.lnk.fences (threadKey r.val thread.val) true } }
      r.val thread.val)

/-! ## Replies (R429, R431, R433, R434) -/

/-- A reply names an operation under way, in its slot's present generation; a reply of an older generation is counted. -/
def replyOp (s : State) (f : FrameHeader) : Option RemoteOp × State :=
  let r := f.tag.region.val
  if f.tag.generation % 16 != tabGet 0 s.lnk.generations (opKey r f.tag.slot.val) then (none, satF s F.lnkStats.lateReplies)
  else (opOf s r f.tag.slot.val, s)

/-- RETRY: the operation waits to be issued again (R433). -/
def retryOp (s : State) (r slot : Nat) (x : RemoteOp) (blocks : List Nat) : State :=
  setOp s r slot (some { x with waiting := true, tries := x.tries + 1, again := (x.again ++ blocks).dedup })

/-- A reply frame is for the part and its port, which is UP in tray mode, carries it (R414). -/
def frameHere (s : State) (f : FrameHeader) : Bool :=
  isReady s && f.dest.val == s.lnk.member && (portOf s f.port.val).state == .up && (portOf s f.port.val).mode == 1

/-- MEM_RSP: a reply completes its operation, or asks for it again. -/
def execMemRsp (f : FrameHeader) (status : RemoteStatus) (data : List Byte) (s : State) : Host.Outcome State Fault Refusal :=
  act s (frameHere s f) (fun s =>
    let p := replyOp s f
    match p.1 with
    | none => p.2
    | some x =>
      if f.poisoned then completeOp p.2 f.tag.region.val f.tag.slot.val .poisoned []
      else if status == .retry then retryOp p.2 f.tag.region.val f.tag.slot.val x []
      else completeOp p.2 f.tag.region.val f.tag.slot.val status data)

/-- TENSOR_ACK: a block's answer (R430). -/
def execTensorAck (f : FrameHeader) (index : Nat) (status : RemoteStatus) (s : State) : Host.Outcome State Fault Refusal :=
  act s (frameHere s f) (fun s =>
    let r := f.tag.region.val
    let k := f.tag.slot.val
    let p := replyOp s f
    match p.1 with
    | none => p.2
    | some x =>
      if f.poisoned then completeOp p.2 r k .poisoned []
      else if status == .retry then retryOp p.2 r k x [index]
      else if status == .ok then
        let left := x.left.filter (· != index)
        if left.isEmpty then completeOp p.2 r k .ok []
        else setOp p.2 r k (some { x with left := left, again := x.again.filter (· != index) })
      else completeOp p.2 r k status [])

/-- The operations of region `r` to a member that wait after RETRY, in their issue order. -/
def waitingOps (s : State) (r m : Nat) : List (Nat × RemoteOp) :=
  (s.lnk.ops.filterMap (fun e =>
    match e.2 with
    | some x => if e.1 / 64 = r ∧ x.member = m ∧ x.waiting then some (e.1 % 64, x) else none
    | none => none)).mergeSort (fun a b => a.2.issued ≤ b.2.issued)

/-- An operation is issued again: with DEPARTED where its member has left, and otherwise as it was (R431, R511). -/
def reissue (s : State) (r : Nat) (e : Nat × RemoteOp) : State :=
  let x := e.2
  if memberOf s x.member != .enrolled then completeOp s r e.1 .departed []
  else
    let y := { x with waiting := false, again := [] }
    sendOp (setOp s r e.1 (some y)) r e.1 y x.again true

/-- RETRY_REISSUE: the wait of the oldest operation that received RETRY is over; each later one of the region to the member follows
at once (R429, R433). -/
def execRetryReissue (r : RegionNo) (slot : Fin 64) (s : State) : Host.Outcome State Fault Refusal :=
  act s (runs s) (fun s =>
    match opOf s r.val slot.val with
    | none => s
    | some x =>
      let ws := waitingOps s r.val x.member
      if (ws.head?).map (·.1) != some slot.val then s else ws.foldl (fun u e => reissue u r.val e) s)

/-- REPLY_TIMEOUT: an operation completes with its last status, RETRY while it waits for its turn, else TIMEOUT (R433; log
entry 19). -/
def execReplyTimeout (r : RegionNo) (slot : Fin 64) (s : State) : Host.Outcome State Fault Refusal :=
  act s (runs s) (fun s =>
    match opOf s r.val slot.val with
    | none => s
    | some x => completeOp s r.val slot.val (if x.waiting then .retry else .timeout) [])

/-! ## Ports (R411, R417, R434) -/

/-- The operations whose frames port `p` took and that have no reply. -/
def opsOnPort (s : State) (p : Nat) : List (Nat × Nat) :=
  s.lnk.ops.filterMap (fun e =>
    match e.2 with
    | some x => if x.port = p ∧ !x.waiting then some (e.1 / 64, e.1 % 64) else none
    | none => none)

/-- A Roale port set. -/
def setPort (s : State) (p : Nat) (x : Port) : State :=
  { s with lnk := { s.lnk with ports := tabPut {} s.lnk.ports p x } }

/-- A port leaves UP for another state: what was in flight on it completes with LINK_DOWN (R434), and the vector is signalled. -/
def leaveUp (s : State) (p : Nat) (st : PortState) : State :=
  let was := (portOf s p).state
  let s1 := setPort s p { portOf s p with state := st, neighbour := 0 }
  if was != .up then s1
  else
    let s2 := (opsOnPort s1 p).foldl (fun u k => completeOp u k.1 k.2 .linkDown []) s1
    notify s2 F.lnkCtl.notifyEnable F.lnkCtl.vector

/-- The HELLO of the part (R417). -/
def helloFrame (s : State) : Frame := .hello s.lnk.trayId s.lnk.member (s.lnk.twin.getD 16)

/-- PORT_UP: the port has trained at 200 Gb/s per lane; its MODE takes effect, and HELLO goes out (R411, R414, R417). Until
the neighbour's HELLO comes it is no member (16). -/
def execPortUp (p : RoalePort) (s : State) : Host.Outcome State Fault Refusal :=
  act s (s.plt.mainRails && getF s (F.lnkPortCfg.mode.at p.val) != 0 && (portOf s p.val).state != .up) (fun s =>
    let s1 := setPort s p.val { state := .up, mode := getF s (F.lnkPortCfg.mode.at p.val), neighbour := 16 }
    enqueue s1 (roalePort p.val) (helloFrame s1))

/-- PORT_DOWN: the port leaves UP. -/
def execPortDown (p : RoalePort) (s : State) : Host.Outcome State Fault Refusal :=
  act s s.plt.mainRails (fun s => leaveUp s p.val .down)

/-- HELLO: the neighbour's tray, member and twin decide the port's state (R414, R417). -/
def execHello (p : RoalePort) (trayId : Nat) (member : Member) (twin : Nat) (s : State) : Host.Outcome State Fault Refusal :=
  act s (s.plt.mainRails && (portOf s p.val).state != .down && (portOf s p.val).state != .training) (fun s =>
    if trayId != s.lnk.trayId || memberOf s member.val != .enrolled then leaveUp s p.val .foreign
    else if (portOf s p.val).mode = 2 ∧ (s.lnk.twin ≠ some member.val ∨ twin ≠ s.lnk.member) then leaveUp s p.val .mismatch
    else setPort s p.val { portOf s p.val with state := .up, neighbour := member.val })

/-! ## The target (R418, R423, R426, R429) -/

/-- Where a retry barrier is kept: by member and region. -/
def barrierKey (m r : Nat) : Nat := 64 * m + r
def barrierOf (s : State) (m r : Nat) : Option Nat := tabGet none s.lnk.barriers (barrierKey m r)
def setBarrier (s : State) (m r : Nat) (v : Option Nat) : State :=
  { s with lnk := { s.lnk with barriers := tabPut none s.lnk.barriers (barrierKey m r) v } }

/-- Drops every barrier of a member that leaves (R429). -/
def dropBarriers (s : State) (m : Nat) : State :=
  { s with lnk := { s.lnk with barriers := tabDrop s.lnk.barriers (fun k _ => k / 64 == m) } }

/-- A member is DEPARTING or DEPARTED. -/
def memberLeaves (s : State) (m : Nat) (st : MemberState) : State :=
  let s1 := setMemberState s m st
  if st == .departing || st == .departed then dropBarriers s1 m else s1

/-- A reply to the sender of a frame. -/
def replyFrame (s : State) (f : FrameHeader) (x : Frame) : State :=
  match lowestPort s f.source.val with
  | some p => enqueue s (roalePort p) x
  | none => s

/-- The part accepts MEM_REQ and TENSOR frames from the sender on the port (R418). -/
def acceptsFrame (s : State) (f : FrameHeader) : Bool :=
  s.lnk.enrolled && (portOf s f.port.val).state == .up && (portOf s f.port.val).mode == 1 &&
    memberOf s f.source.val == .enrolled

/-- What becomes of a frame at its target: `perform` answers the status of the access and the state after it, and `answer` makes the
reply. RETRY sets a barrier, and the frame of the recorded slot drops it (R429). -/
def serveFrame (s : State) (f : FrameHeader) (cls bytes : Nat) (perform : State → RemoteStatus × List Byte × State)
    (answer : RemoteStatus → List Byte → Frame) : State :=
  let m := f.source.val
  let r := f.tag.region.val
  let slot := f.tag.slot.val
  if !acceptsFrame s f then satF s F.lnkStats.unenrolled
  else if s.plt.departing.isSome then replyFrame s f (answer .departed [])
  else if f.poisoned then replyFrame s f (answer .poisoned [])
  else
    let q := police s (roalePort f.port.val) cls f.tenant.val bytes 0
    let barred := match barrierOf s m r with
      | some k => k != slot
      | none => false
    if barred then replyFrame q.2 f (answer .retry [])
    else
      let x := if q.1 then perform q.2 else (.retry, [], q.2)
      if x.1 == .retry then replyFrame (setBarrier x.2.2 m r (some slot)) f (answer .retry [])
      else replyFrame (setBarrier x.2.2 m r none) f (answer x.1 x.2.1)

/-- A MEM_REQ or TENSOR frame that waits in its receive queue for the end of Charcoal, and wakes the part (R581). -/
def holdLink (s : State) (c : Instr) (port cls bytes : Nat) : State :=
  wakeBy { s with pwr := { s.pwr with held := s.pwr.held ++ [c] },
                  tm := { s.tm with received := tabPut 0 s.tm.received (8 * port + cls) (receivedBytes s port cls + bytes) } } 2

/-- A frame for the part: taken, or held while the part is not awake. -/
def actLink (s : State) (f : FrameHeader) (c : Instr) (cls bytes : Nat) (effect : State → State) :
    Host.Outcome State Fault Refusal :=
  let here := isReady s && f.dest.val == s.lnk.member
  if here && acceptsFrame s f && !isAwake s then .next (holdLink s c f.port.val cls bytes) else act s here effect

/-- A MEM_REQ frame. -/
def memReq (s : State) (f : FrameHeader) (op : MemOp) (operand : Nat) (data : List Byte) : State :=
  serveFrame s f 5 (36 + data.length) (fun u => memAccess u op f.size f.address operand data)
    (fun st bs => .memRsp f.source.val f.tag st bs)

/-- MEM_REQ LOAD. -/
def execMemReqLoad (f : FrameHeader) (s : State) : Host.Outcome State Fault Refusal :=
  actLink s f (.memReqLoad f) 5 36 (fun s => memReq s f .load 0 [])

/-- MEM_REQ STORE. -/
def execMemReqStore (f : FrameHeader) (data : List Byte) (s : State) : Host.Outcome State Fault Refusal :=
  actLink s f (.memReqStore f data) 5 (36 + data.length) (fun s => memReq s f .store 0 data)

/-- MEM_REQ ADD. -/
def execMemReqAdd (f : FrameHeader) (operand : Nat) (s : State) : Host.Outcome State Fault Refusal :=
  actLink s f (.memReqAdd f operand) 5 36 (fun s => memReq s f .add operand [])

/-- MEM_REQ MIN_S. -/
def execMemReqMinS (f : FrameHeader) (operand : Nat) (s : State) : Host.Outcome State Fault Refusal :=
  actLink s f (.memReqMinS f operand) 5 36 (fun s => memReq s f .minS operand [])

/-- MEM_REQ MIN_U. -/
def execMemReqMinU (f : FrameHeader) (operand : Nat) (s : State) : Host.Outcome State Fault Refusal :=
  actLink s f (.memReqMinU f operand) 5 36 (fun s => memReq s f .minU operand [])

/-- MEM_REQ MAX_S. -/
def execMemReqMaxS (f : FrameHeader) (operand : Nat) (s : State) : Host.Outcome State Fault Refusal :=
  actLink s f (.memReqMaxS f operand) 5 36 (fun s => memReq s f .maxS operand [])

/-- MEM_REQ MAX_U. -/
def execMemReqMaxU (f : FrameHeader) (operand : Nat) (s : State) : Host.Outcome State Fault Refusal :=
  actLink s f (.memReqMaxU f operand) 5 36 (fun s => memReq s f .maxU operand [])

/-- MEM_REQ SWAP. -/
def execMemReqSwap (f : FrameHeader) (operand : Nat) (s : State) : Host.Outcome State Fault Refusal :=
  actLink s f (.memReqSwap f operand) 5 36 (fun s => memReq s f .swap operand [])

/-- MEM_REQ CAS. -/
def execMemReqCas (f : FrameHeader) (compare swap : Nat) (s : State) : Host.Outcome State Fault Refusal :=
  actLink s f (.memReqCas f compare swap) 5 44 (fun s => memReq s f .cas compare (leBytes 8 swap))

/-- The whole of a tensor write lies in writable Ochre: a block is decoded and written at its place (R423, R430). -/
def writeBlock (s : State) (f : FrameHeader) (index : Nat) (b : CodedBlock) : RemoteStatus × List Byte × State :=
  match decodeBlock s b with
  | .ok bs => memAccess s .store bs.length (f.address + 4096 * index) 0 bs
  | r => (.retry, [], rejectBlock s r)

/-- TENSOR: one coded block of a tensor write. -/
def execTensor (f : FrameHeader) (index total : Nat) (block : CodedBlock) (s : State) : Host.Outcome State Fault Refusal :=
  let n := 44 + block.stageASize
  actLink s f (.tensor f index total block) 6 n (fun s =>
    serveFrame s f 6 n (fun u => writeBlock u f index block) (fun st _ => .tensorAck f.source.val f.tag index st))

/-- RETRY_BARRIER_TIMEOUT: REPLY_TIMEOUT_US passed with no frame of the recorded slot. -/
def execRetryBarrierTimeout (member : Member) (region : RegionNo) (s : State) : Host.Outcome State Fault Refusal :=
  act s (isReady s) (fun s => setBarrier s member.val region.val none)

/-- CTRL_DEPART: the sender is DEPARTING, at the first of its two announcements (R511). -/
def execCtrlDepart (p : RoalePort) (source : Member) (s : State) : Host.Outcome State Fault Refusal :=
  act s (s.plt.mainRails && (portOf s p.val).state != .down) (fun s =>
    if memberOf s source.val == .enrolled then memberLeaves s source.val .departing else s)

/-- FRAME_FORWARD: a frame for another member passes on, where FORWARD is set for its port; `issuer` is its issuing region's number or its
SEQ, which names the port of the member's mask as at the sender. A port that does not end at the member takes none, since a route crosses
one forwarder; a departing part forwards no more (R419, R511). -/
def execFrameForward (p : PortNo) (dest : Member) (bytes : Nat) (class_ : Fin 8) (s : State) (issuer : Option Nat := none) :
    Host.Outcome State Fault Refusal :=
  act s (isReady s && p.val < 12 && dest.val != s.lnk.member && (portOf s p.val).state == .up && s.plt.departing.isNone &&
      isSet s (F.lnkPortCfg.forward.at p.val)) (fun s =>
    match regionPort s dest.val (issuer.getD 0) with
    | some k =>
      if (portOf s k).state == .up && (portOf s k).neighbour == dest.val then
        enqueue s (roalePort k) (.forwarded dest.val bytes class_.val)
      else s
    | none => s)

/-- How region `n` answers a region access (R508). -/
def regionAnswer (s : State) (n : Nat) : RemoteStatus :=
  match (regionOf s n).state with
  | .serving => .ok
  | .draining => if (runningUnit s n).isSome then .ok else .retry
  | .empty => if (regionOf s n).comp.isSome then .retry else .departed
  | .loading | .verifying | .ready => .retry
  | .faulted => .departed

/-- REGION_ACCESS: a write into a region's Ivory, answered by the region's state (R508). One of the sequencer thread of a region `source`
that ends with DEPARTED, or with RETRY once its tries are over, abandons the unit there, whose step is reissued (R509). -/
def execRegionAccess (r : RegionNo) (offset : Nat) (data : List Byte) (s : State) (source : Option RegionNo := none)
    (last : Bool := false) : Host.Outcome State Fault Refusal :=
  act s (runs s) (fun s =>
    let a := regionAnswer s r.val
    let s1 := emit (if a == .ok then writeIvory s r.val offset data else s) (.regionAnswer r a)
    match source with
    | some n => if a == .departed || (a == .retry && last) then abandonUnit s1 n.val else s1
    | none => s1)

end Sys2Proof.Machine
end

