-- ==== Sys2Proof/Machine/View.lean ====
section
/-! DEFINITION. What a read of a register returns: stored fields, and the read-only fields that show a part of State of their own
(R14 to R16, R18, R19, R594 and the register tables). -/

namespace Sys2Proof.Machine

open Sys2Proof

/-! ## Codes of the register tables -/

def boolCode (b : Bool) : Nat := if b then 1 else 0

/-- PLT_STATUS.STATE (R568). -/
def pltCode : PltState → Nat
  | .rom => 0 | .fuseInvalid => 1 | .loading => 2 | .training => 3 | .ready => 4 | .failed => 5

/-- PWR_STATUS.STATE (R588). -/
def pwrCode : PwrState → Nat
  | .white => 0 | .grey => 1 | .charcoal => 2 | .entering => 3 | .leaving => 4

/-- FAB_RGN_STATE.STATE (R101, R122). -/
def regionCode : RegionState → Nat
  | .empty => 0 | .loading => 1 | .verifying => 2 | .ready => 3 | .serving => 4 | .draining => 5 | .faulted => 6

/-- STK_UCODE_SLOT.STATE (R220). -/
def slotCode : SlotState → Nat
  | .empty => 0 | .loading => 1 | .verifying => 2 | .ready => 3 | .faulted => 4

/-- LNK_PORT_STATUS.STATE (R444). -/
def portCode : PortState → Nat
  | .down => 0 | .training => 1 | .up => 2 | .foreign => 3 | .mismatch => 4

/-- LNK_MEMBER_STATE (R417, R444). -/
def memberCode : MemberState → Nat
  | .absent => 0 | .enrolled => 1 | .departing => 2 | .departed => 3

/-- FLS_STATUS.STATE (R489). -/
def flashCode : FlashState → Nat
  | .notConfigured => 0 | .scanning => 1 | .ready => 2 | .failed => 3

/-- TWN_STATUS.STATE (R513). -/
def twinCode : TwinState → Nat
  | .solo => 0 | .syncing => 1 | .paired => 2 | .fencing => 3 | .alone => 4

/-- A map with bit n for each number that `p` admits. -/
def bitMap (n : Nat) (p : Nat → Bool) : Nat := (((List.range n).filter p).map (2 ^ ·)).sum

/-- Sixty-four bits of a list of bytes, from byte 8 i. -/
def word64 (bs : List Byte) (i : Nat) : Nat := leNat ((bs.drop (8 * i)).take 8)

/-! ## Read-only fields that show State -/

/-- Free granules of an area of `n` granules at `base` (R348, R366). -/
def areaFree (s : State) (tier base n : Nat) : Nat :=
  n - ((List.range n).filter (fun g => areaUsed s tier base 1 g)).length

/-- The oldest epoch that an occupied lease slot holds (R189). -/
def oldestEpoch (s : State) : Nat :=
  s.stk.leases.foldl (fun m e =>
    match e.2 with
    | some x => if laterThan m x.epoch then x.epoch else m
    | none => m) s.stk.epoch

/-- Pacing, for the limit or for a temperature (R573, R586). -/
def pacing (s : State) : Bool := s.pwr.limitPacing || s.pwr.throttled.any (·.2)

/-- PWR_STATS.PACING_MS: the milliseconds spent pacing so far (R575, R588). -/
def pacingMs (s : State) : Nat :=
  min ((s.pwr.pacingRest + (if pacing s then s.plt.lmc - s.pwr.pacingSince else 0)) / usCounts 1000) (2 ^ 32 - 1)

/-- Fabric die `d` may not run below 0.65 V (R52). -/
def dieBusy (s : State) (d : Nat) : Bool :=
  (List.range 16).any (fun i => (regionOf s (16 * d + i)).state != .empty && (regionOf s (16 * d + i)).state != .faulted)

/-- SUPPLY_d: off in Charcoal, else what the sensor reads within the limits of R52 and R574. -/
def supplyMv (s : State) (d : Nat) : Nat :=
  if !isAwake s then 0
  else
    let v := min (Config.fabricMillivolts d s.plt.lmc) (getF s F.pwrLimit.maxFabricMv)
    if dieBusy s d then max 650 v else v

/-- The register field of a die's temperature: dies 0 to 3 fabric, 4 and 5 I/O, 6 to 37 stacks (R588). -/
def tempField (d : Nat) : Field :=
  if d < 6 then { F.pwrTempDies.temp0 with lo := 8 * d }
  else { F.pwrTempStacks.temp0 with off := F.pwrTempStacks.temp0.off + 8 * ((d - 6) / 8), lo := 8 * ((d - 6) % 8), stride := 0 }

/-- TEMP of a die: the latest reading that an event told of, or what the sensor reads before any (log entry 50). -/
def dieTemp (s : State) (d : Nat) : Nat :=
  if getF s (tempField d) = 0 then Config.dieTemperature d s.plt.lmc else getF s (tempField d)

/-- A read-only field, or the field of an array of registers, with what register `i` shows. -/
structure View where
  field : Field
  count : Nat
  value : State → Nat → Nat

/-- The platform, the fuses, power and PCI Express (R568, R569, R588). -/
def viewsPlatform : List View := [
  ⟨F.pltLmc.pltLmcValue, 1, fun s _ => s.plt.lmc⟩,
  ⟨F.pltId.ordering, 1, fun s _ => s.plt.ordering⟩,
  ⟨F.pltStatus.cause, 1, fun s _ => s.plt.cause⟩,
  ⟨F.pltStatus.meterUnbound, 1, fun s _ => boolCode (meterUnbound s)⟩,
  ⟨F.pltStatus.refclkLost, 1, fun s _ => boolCode s.plt.lmcHeld⟩,
  ⟨F.pltStatus.fwFallback, 1, fun s _ => boolCode s.plt.fwFallback⟩,
  ⟨F.pltStatus.state, 1, fun s _ => pltCode s.plt.state⟩,
  ⟨F.pltChain.address, 1, fun s _ => s.plt.chainAddr⟩,
  ⟨F.pltFwStatus.runningSlot, 1, fun s _ => boolCode s.plt.runningB⟩,
  ⟨F.pltFwStatus.runningVersion, 1, fun s _ => s.plt.runningVersion⟩,
  ⟨F.fuseStatus.valid, 1, fun s _ => bitMap 4 (slotValid s)⟩,
  ⟨F.fuseStatus.revoked, 1, fun s _ => bitMap 4 (slotRevoked s)⟩,
  ⟨F.fuseStatus.used, 1, fun s _ => bitMap 4 (slotUsed s)⟩,
  ⟨F.fuseStatus.active, 1, fun s _ => (s.plt.activeSlot.map (·.val)).getD 0⟩,
  ⟨F.fuseNonce.nonce, 1, fun s _ => Config.fuseNonce s.plt.nonceNo⟩,
  ⟨F.fuseThermo.value, 1, fun s _ => s.plt.thermo⟩,
  ⟨F.fuseRepair.free, 1, fun s _ => 1024 - s.plt.repairs.length⟩,
  ⟨F.fuseRepair.used, 1, fun s _ => s.plt.repairs.length⟩,
  ⟨F.fuseGenWindow.data, 64, fun s i => slotField s (getF s F.fuseCtl.select) (8 * i) 8⟩,
  ⟨F.fuseRepairRec.data, 256, fun s i =>
    repairOf s (4 * i) + 2 ^ 16 * repairOf s (4 * i + 1) + 2 ^ 32 * repairOf s (4 * i + 2) + 2 ^ 48 * repairOf s (4 * i + 3)⟩,
  ⟨F.pwrStatus.pacing, 1, fun s _ => boolCode (pacing s)⟩,
  ⟨F.pwrStats.pacingMs, 1, fun s _ => pacingMs s⟩,
  ⟨F.pwrInput.vin56Mv, 1, fun s _ =>
    if getF s F.pwrInput.vin56Mv = 0 then Config.inputMillivolts s.plt.lmc else getF s F.pwrInput.vin56Mv⟩,
  ⟨F.pwrInput.powerW, 1, fun s _ => Config.inputWatts s.plt.lmc⟩,
  ⟨F.pwrFabricMv.supply0, 1, fun s _ => supplyMv s 0⟩,
  ⟨F.pwrFabricMv.supply1, 1, fun s _ => supplyMv s 1⟩,
  ⟨F.pwrFabricMv.supply2, 1, fun s _ => supplyMv s 2⟩,
  ⟨F.pwrFabricMv.supply3, 1, fun s _ => supplyMv s 3⟩,
  ⟨F.pwrStatus.throttling, 1, fun s _ => boolCode (s.pwr.throttled.any (·.2))⟩,
  ⟨F.pwrStatus.boundsNotGuaranteed, 1, fun s _ => boolCode (s.pwr.overHot.any (·.2))⟩,
  ⟨F.pwrStatus.state, 1, fun s _ => pwrCode s.pwr.state⟩] ++
  (List.range 38).map (fun d => ⟨tempField d, 1, fun s _ => dieTemp s d⟩)

/-- Regions, the package, stacks and microcode (R118 to R125, R188 to R190, R220, R222, R366). -/
def viewsMemory : List View := [
  ⟨F.fabRgnState.loadedHandle, 64, fun s n => (regionOf s n).loadedHandle⟩,
  ⟨F.fabRgnState.bound, 64, fun s n => boolCode (regionOf s n).comp.isSome⟩,
  ⟨F.fabRgnState.composition, 64, fun s n => ((regionOf s n).comp.map (·.val)).getD 0⟩,
  ⟨F.fabRgnState.state, 64, fun s n => regionCode (regionOf s n).state⟩,
  ⟨F.fabRgnMap.spareLeft, 64, fun s n => boolCode (spareLeft s n)⟩,
  ⟨F.fabRgnMap.excluded, 64, fun s n => excludedOf s n⟩,
  ⟨F.fabServingMap.serving, 1, fun s _ => bitMap 64 (fun n => (regionOf s n).state == .serving)⟩,
  ⟨F.fabFaultedMap.faulted, 1, fun s _ => bitMap 64 (fun n => (regionOf s n).state == .faulted)⟩,
  ⟨F.stkManifestUnits.free, 1, fun s _ => freeUnits s⟩,
  ⟨F.stkLeaseEpoch.oldest, 1, fun s _ => oldestEpoch s⟩,
  ⟨F.stkLeaseEpoch.current, 1, fun s _ => s.stk.epoch⟩,
  ⟨F.stkPageStats.retiredWaiting, 1, fun s _ => tabCount s.stk.pages (fun p => p.state == .retired)⟩,
  ⟨F.stkPageStats.leasesHeld, 1, fun s _ => tabCount s.stk.leases (fun l => l.isSome)⟩,
  ⟨F.stkUcodeSlot.handle, 16, fun s j => (tabGet {} s.ucode.slots j).handle⟩,
  ⟨F.stkUcodeSlot.cause, 16, fun s j => (tabGet {} s.ucode.slots j).cause⟩,
  ⟨F.stkUcodeSlot.users, 16, fun s j => (tabGet {} s.ucode.slots j).users⟩,
  ⟨F.stkUcodeSlot.state, 16, fun s j => slotCode (tabGet {} s.ucode.slots j).state⟩,
  ⟨F.stkCompUcode.attached, 256, fun s c => boolCode (tabGet none s.ucode.attached c).isSome⟩,
  ⟨F.stkCompUcode.slot, 256, fun s c => ((tabGet none s.ucode.attached c).map (·.val)).getD 0⟩,
  ⟨F.stkSwapSlateSize.free, 1, fun s _ =>
    areaFree s 2 (getF s F.stkSwapSlateBase.base * 4096) (getF s F.stkSwapSlateSize.granules)⟩,
  ⟨F.stkSwapHostSize.free, 1, fun s _ =>
    areaFree s 4 (getF s F.stkSwapHostBase.base * 4096) (getF s F.stkSwapHostSize.granules)⟩]

/-- Requests, the prefix index, transfers, the codec and the scheduler (R257, R259, R307, R348, R386, R409). -/
def viewsEngine : List View := [
  ⟨F.rqtStatus.inUse, 1, fun s _ => tabCount s.rqt.entries (fun e => e.state != .free)⟩,
  ⟨F.rqtTHeads.trTail, 4096, fun s t => (queuesOf s t).trTail⟩,
  ⟨F.rqtTHeads.cqTail, 4096, fun s t => (queuesOf s t).cqTail⟩,
  ⟨F.rqtTHeads.sqHead, 4096, fun s t => (queuesOf s t).sqHead⟩,
  ⟨F.rqtTStatus.inUse, 4096, fun s t => tabCount s.rqt.entries (fun e => e.state != .free && e.tenant.val == t)⟩,
  ⟨F.pfxBlockCount.free, 1, fun s _ => getF s F.pfxBlockCount.count - 4097 - tabCount s.pfx.records (fun r => r.used && !r.root)⟩,
  ⟨F.xfrLedgerCount.inUse, 1, fun s _ => tabCount s.xfr.ledgers (fun l => l.lstate != .free)⟩,
  ⟨F.xfrBlockAreaSize.free, 1, fun s _ =>
    areaFree s 1 (getF s F.xfrBlockAreaBase.base * 4096) (getF s F.xfrBlockAreaSize.granules)⟩,
  ⟨F.xfrStatus.inFlight, 1, fun s _ => tabCount s.xfr.slots (fun x => x.isSome)⟩,
  ⟨F.codSlot.inFlight, 4, fun s j => inFlight s j⟩,
  ⟨F.codSlot.tag, 4, fun s j => (tabGet {} s.cod.tables j).tag⟩,
  ⟨F.codSlot.loaded, 4, fun s j => boolCode (tabGet {} s.cod.tables j).loaded⟩,
  ⟨F.schCompState.bound, 256, fun s c => boolCode (compOf s c).isSome⟩,
  ⟨F.schCompState.role, 256, fun s c => roleNo (roleOf s c)⟩,
  ⟨F.schCompState.regions, 256, fun s c => (regionsOf s c).length⟩,
  ⟨F.schCompState.stacks, 256, fun s c => ((compOf s c).map (fun x => (shareStacks x).length)).getD 0⟩,
  ⟨F.schCompState.shares, 256, fun s c => (s.sch.shares.filter (fun e => e.1 / 4096 == c && e.2.isSome)).length⟩,
  ⟨F.schCompRegions.regions, 256, fun s c => bitMap 64 (fun n => ((regionOf s n).comp.map (·.val)) == some c)⟩,
  ⟨F.schCompEngine.regionNs, 256, fun s c => tabGet 0 s.sch.regionNs c⟩]

/-- Links, traffic, flash, the twin and the record lane (R444, R460, R489, R513, R536). -/
def viewsLink : List View := [
  ⟨F.lnkTray.trayId, 1, fun s _ => s.lnk.trayId⟩,
  ⟨F.lnkTray.twinValid, 1, fun s _ => boolCode s.lnk.twin.isSome⟩,
  ⟨F.lnkTray.twinMember, 1, fun s _ => s.lnk.twin.getD 0⟩,
  ⟨F.lnkTray.enrolled, 1, fun s _ => boolCode s.lnk.enrolled⟩,
  ⟨F.lnkTray.member, 1, fun s _ => s.lnk.member⟩,
  ⟨F.lnkMemberState.states, 1, fun s _ => ((List.range 16).map (fun m => 4 ^ m * memberCode (memberOf s m))).sum⟩,
  ⟨F.lnkRoute.hops, 16, fun s m => hopsTo s m⟩,
  ⟨F.lnkPortStatus.neighbour, 12, fun s p => if (portOf s p).state == .up then (portOf s p).neighbour else 0⟩,
  ⟨F.lnkPortStatus.state, 12, fun s p => portCode (portOf s p).state⟩,
  ⟨F.tmPortStatus.capacity, 16, fun s p => capacity s p⟩,
  ⟨F.codPortStatus.occupancy, 16, fun s p => encodeBytes s p / 1024⟩,
  ⟨F.codPortStatus.bypass, 16, fun s p => boolCode (inBypass s p)⟩,
  ⟨F.tmPortStatus.backlog, 16, fun s p => bitMap 8 (fun k => !(queueOf s p k).isEmpty)⟩,
  ⟨F.flsStatus.freeBlocks, 1, fun s _ => freeBlocks s⟩,
  ⟨F.flsStatus.cause, 1, fun s _ => s.fls.cause⟩,
  ⟨F.flsStatus.throttled, 1, fun s _ => boolCode (s.fls.foreground && s.fls.credit == 0)⟩,
  ⟨F.flsStatus.gcMode, 1, fun s _ => gcMode s⟩,
  ⟨F.flsStatus.state, 1, fun s _ => flashCode s.fls.state⟩,
  ⟨F.flsCounts.slcBlocks, 1, fun s _ => oneBitBlocks s⟩,
  ⟨F.flsCounts.retired, 1, fun s _ => tabCount s.fls.blocks (fun b => b.retired)⟩,
  ⟨F.flsSeq.next, 1, fun s _ => s.fls.sequence⟩,
  ⟨F.twnStatus.twinMember, 1, fun s _ => s.lnk.twin.getD 0⟩,
  ⟨F.twnStatus.mirrorPorts, 1, fun s _ => (mirrorPorts s).length⟩,
  ⟨F.twnStatus.inSync, 1, fun s _ => boolCode s.twn.inSync⟩,
  ⟨F.twnStatus.phase, 1, fun s _ => s.twn.phase⟩,
  ⟨F.twnStatus.role, 1, fun s _ => twinRoleNo s.twn.role⟩,
  ⟨F.twnStatus.state, 1, fun s _ => twinCode s.twn.state⟩,
  ⟨F.twnMseqSent.mseq, 1, fun s _ => s.twn.sent⟩,
  ⟨F.twnMseqApplied.mseq, 1, fun s _ => s.twn.applied⟩,
  ⟨F.twnCopy.bytesLeft, 1, fun s _ => (s.twn.copyOut.map (·.2)).sum⟩,
  ⟨F.mtrWindow.data, 32, fun s i => ((s.lane.latched.map (fun r => word64 (meterRecordBytes r) i))).getD 0⟩,
  ⟨F.mtrCert.data, 128, fun s i => if laneOn s then word64 s.mtr.certificate i else 0⟩]

def views : List View := viewsPlatform ++ viewsMemory ++ viewsEngine ++ viewsLink

/-- Register `i` of the array holds the field. -/
def View.index (v : View) (f : Field) : Option Nat :=
  if v.field.lo != f.lo || f.off < v.field.off then none
  else if v.field.stride = 0 then (if f.off = v.field.off then some 0 else none)
  else
    let d := f.off - v.field.off
    if d % v.field.stride = 0 ∧ d / v.field.stride < v.count then some (d / v.field.stride) else none

/-- What a field reads as: zero where it is WO, else what it shows (R14). -/
def readField (s : State) (f : Field) : Nat :=
  if f.access == .wo then 0
  else
    match views.findSome? (fun v => (v.index f).map (v.value s)) with
    | some x => x % 2 ^ f.width
    | none => getF s f

/-- What the 64-bit register at `off` reads as: zero where the part does not serve its block or has no such register, and zero in
reserved bits (R16, R592, R594). -/
def readRegister (s : State) (off : Nat) : Nat :=
  if serves s (blockOf off) then ((fieldsAt off).map (fun f => 2 ^ f.lo * readField s f)).sum else 0

end Sys2Proof.Machine
end

