-- ==== Sys2Proof/Machine/Twin.lean ====
section
/-! DEFINITION. The twin: pairing, the copy of the mirrored areas, mirror records at the Mirror, heartbeats, fencing, failover and role
switches (18_twin_and_live_service.md, R490 to R507). -/

namespace Sys2Proof.Machine

open Sys2Proof

/-! ## State and role (R493, R507, R513) -/

/-- Twin state, role and cause change; a change of state or role is signalled, and a change of role sends the meter a resource
vector. -/
def setTwin (s : State) (st : TwinState) (role : TwinRole) (cause : Nat) : State :=
  let moved := s.twn.state != st || s.twn.role != role
  let s1 := putF { s with twn := { s.twn with state := st, role := role } } F.twnStatus.cause cause
  let s2 := if s.twn.role != role && feedOn s then sendFeed s1 (.resource (packageBody s1)) else s1
  if moved then notify s2 F.twnCtl.notifyEnable F.twnCtl.vector else s2

/-- The part exchanges heartbeats with its twin. -/
def isPairing (s : State) : Bool := s.twn.state == .syncing || s.twn.state == .paired

/-! ## JOIN (R490, R491) -/

/-- The RWL fields of the registers of a block, register by register, except XFR_ADDR_LO and XFR_ADDR_HI. -/
def lockedFields (rs : List Reg) : List Field :=
  (rs.map (fun r =>
    ((r.fields.filter (fun f => f.access == .rwl && f.off != F.xfrAddrLo.addr.off && f.off != F.xfrAddrHi.addr.off)).map (fun f =>
      (((List.range r.count).map (fun i =>
        (List.range r.count2).map (fun j => { f with off := r.base + i * r.stride + j * r.stride2 }))).flatten))).flatten)).flatten

/-- The values under TWN_CONFIG_DIGEST, eight bytes each in this order (log entry 20). -/
def configValues (s : State) : List Nat :=
  (lockedFields (regsStk ++ regsPfx ++ regsXfr ++ regsSch ++ regsSlt)).map (getF s) ++
    ((List.range 256).map (fun c => [readRegister s (F.schCompState.bound.at c).off, readRegister s (F.schCompRegions.regions.at c).off,
      readRegister s (F.stkCompUcode.slot.at c).off])).flatten ++
    (s.sch.shares.filterMap (fun e => e.2.map (fun x => [e.1, x.weight]))).flatten ++
    [getF s F.twnCtl.hbIntervalUs, getF s F.twnCtl.misses, getF s F.twnCtl.fenceWaitUs]

/-- TWN_CONFIG_DIGEST (R490). -/
def configDigest (s : State) : BitVec 384 := Config.sha384 ((configValues s).map (leBytes 8)).flatten

/-- The digest shown in TWN_CONFIG_DIGEST_0 to _5. -/
def showDigest (s : State) (d : BitVec 384) : State :=
  (List.range 6).foldl (fun t i => putF t (F.twnConfigDigest.digest.at i) (d.toNat / 2 ^ (64 * i))) s

/-- The role that a JOIN asks for: ROLE_REQ, else the fused default (R491). -/
def askedRole (s : State) (req : TwinRole) : TwinRole :=
  if req != .none then req else if fusedRole s = 1 then .active else if fusedRole s = 2 then .mirror else .none

/-- Why the two parts do not join, in the codes of TWN_STATUS.CAUSE (R490, R491, R550). -/
def joinRefusal (s : State) (role : TwinRole) (d : BitVec 384) (p : PeerReport) : Option Nat :=
  if !hasFeature s 0 then some 2
  else if p.ordering != s.plt.ordering then some 10
  else if (mirrorPorts s).length < 2 || p.mirrorPorts < 2 then some 2
  else if p.version != getF s F.twnCaps.version then some 5
  else if p.digest != d then some 1
  else if role == .none then some 11
  else if p.role == .none || p.role == role then some 3
  else if role == .mirror && (s.rqt.entries.any (fun e => e.2.state != .free) || s.xfr.ledgers.any (fun e => e.2.lstate != .free)) then
    some 4
  else none

/-- The Mirror's copies are gone: every mirrored area is empty (R493). -/
def discardCopies (s : State) : State :=
  { s with
    rqt := { queues := s.rqt.queues }
    xfr := { s.xfr with ledgers := [], units := [], slots := [] }
    pfx := { s.pfx with ways := [], records := [], scan := none }
    stk := { s.stk with
      odt := tabMap {} s.stk.odt (fun _ e => if isBlockObject s e then { generation := (e.generation + 1) % 4096 } else e)
      wp := tabDrop s.stk.wp (fun k _ => s.stk.pages.any (fun p =>
          decide (granuleAddr p.1 / 4096 ≤ k) && decide (k < granuleAddr p.1 / 4096 + granulesOf s p.1)) ||
        s.stk.odt.any (fun o => isBlockObject s o.2 && decide (o.2.location / 4096 ≤ k) &&
          decide (k < o.2.location / 4096 + granuleCount o.2.size)))
      pages := [], usedUnits := [], retiredUnits := [], waits := [], manifestPressure := false }
    twn := { } }

/-- The bodies that copy every mirrored area whole (R493, R494). -/
def copyBodies (s : State) : List MirrorBody :=
  changeBodies { s with
    rqt := { s.rqt with entries := [], manifests := [] }
    xfr := { s.xfr with ledgers := [] }
    pfx := { s.pfx with ways := [], records := [] }
    stk := { s.stk with odt := [], pages := [] } } s

/-- Sends records of the copy, each a change of its own, and counts their bytes as left to copy until the Mirror has applied them
(R513; log entry 20). -/
def sendCopy (s : State) : List MirrorBody → State
  | [] => s
  | b :: bs =>
    let s1 := sendRecord s true b
    sendCopy { s1 with twn := { s1.twn with
      copyOut := s1.twn.copyOut ++ [(s1.twn.sent, recordBytes { mseq := 0, last := true, body := b } - 32)] } } bs

/-- The two parts join: the Active begins its copy, and the Mirror starts with none. -/
def doJoin (s : State) (role : TwinRole) : State :=
  if role == .active then
    let s1 := setTwin { s with twn := { s.twn with
      phase := 0, inSync := false, sent := 0, applied := 0, copyOut := [], stopped := false, fenceSent := false,
      mirroredPages := [], beatSent := s.plt.lmc, beatHeard := s.plt.lmc } } .syncing .active 0
    let pages := unmirroredPages s1
    sendCopy (markMirrored (sendCopy s1 (copyBodies s1)) pages) [.syncDone]
  else
    let s1 := discardCopies s
    setTwin { s1 with twn := { s1.twn with beatSent := s.plt.lmc, beatHeard := s.plt.lmc } } .syncing .mirror 0

/-- JOIN on both parts. -/
def execJoin (roleReq : TwinRole) (peer : PeerReport) (s : State) : Host.Outcome State Fault Refusal :=
  actAwake s (serves s 14) (.join roleReq peer) (fun s =>
    if s.twn.state != .solo && s.twn.state != .alone then s
    else
      let d := configDigest s
      let s1 := showDigest s d
      if !peer.joined then s1
      else
        match joinRefusal s (askedRole s roleReq) d peer with
        | some cause => putF s1 F.twnStatus.cause cause
        | none => doJoin s1 (askedRole s roleReq))

/-! ## SUSPEND (R493) -/

/-- The Mirror leaves the pair (R493). -/
def mirrorLeaves (s : State) (cause : Nat) : State :=
  let s1 := setTwin s .solo .none cause
  { discardCopies s1 with twn := {} }

/-- The Active goes on without a Mirror. -/
def activeAlone (s : State) (cause : Nat) : State :=
  setTwin { s with twn := { s.twn with phase := 0, inSync := false, copyOut := [], stopped := false, fenceSent := false } } .alone .active
    cause

/-- SUSPEND, at the Active that takes the command and at the Mirror that it reaches. -/
def execSuspend (s : State) : Host.Outcome State Fault Refusal :=
  actAwake s (serves s 14) .suspend (fun s =>
    if !isPairing s then s
    else if s.twn.role == .active then activeAlone s 9
    else if s.twn.role == .mirror then mirrorLeaves s 9
    else s)

/-! ## The Mirror (R496, R497) -/

/-- The Mirror can apply a record. -/
def recordOk (s : State) : MirrorBody → Bool
  | .entry i _ | .manifest i _ => decide (i < 65536)
  | .ledger k _ => decide (k < getF s F.xfrLedgerCount.count)
  | .odt i _ => decide (i < 2 ^ 20)
  | .way k _ => decide (k < 2 ^ 26)
  | .block n _ => decide (n < getF s F.pfxBlockCount.count)
  | .pageRec g _ => inStackLocal s (granuleAddr g) 4096
  | .bytes a d => inOchre s a d.length && decide (d.length ≤ 8192)
  | .page g o d => inStackLocal s (granuleAddr g + o) d.length && decide (d.length ≤ 8192)
  | .completion .. | .confirm .. | .syncDone => true
  | .bad => false

/-- The unconfirmed completions of a tenant, without the first (R499). -/
def dropFirst (t : Nat) : List (Nat × Completion) → List (Nat × Completion)
  | [] => []
  | e :: l => if e.1 = t then l else e :: dropFirst t l

/-- A record takes effect at the Mirror. -/
def applyRecord (s : State) : MirrorBody → State
  | .entry i e => setEntry s i (mapEntryLmc (ownLmc s.plt.lmc) (ownDeadline s.plt.lmc) e)
  | .ledger k l => setLedger s k (mapLedgerLmc (ownLmc s.plt.lmc) l)
  | .odt i e =>
    let old := odtOf s i
    let s1 := if old.state == .published && old.tier == 1 then protectRange s old.location old.size false else s
    setOdt (if e.state == .published && e.tier == 1 then protectRange s1 e.location e.size true else s1) i e
  | .way k w => setWay s k w
  | .block n x => setRec s n x
  | .pageRec g r => setPage (protect s (granuleAddr g) (granulesOf s g) (r.state == .sealed_)) g r
  | .manifest i m => setManifest s i m
  | .bytes a d => memWrite s a d
  | .page g o d =>
    let s1 := memWrite s (granuleAddr g + o) d
    { s1 with twn := { s1.twn with mirroredPages := tabPut false s1.twn.mirroredPages g true } }
  | .completion t id tag op st code missed pos detail index peer =>
    { s with twn := { s.twn with unconfirmed := s.twn.unconfirmed ++ [(t.val,
      { requestId := id, tag := tag, opcode := op, status := st, stateCode := code, deadlineMissed := missed, position := pos,
        detail := detail, index := index, peer := peer })] } }
  | .confirm t _ => { s with twn := { s.twn with unconfirmed := dropFirst t.val s.twn.unconfirmed } }
  | .syncDone => setTwin { s with twn := { s.twn with inSync := true } } .paired .mirror 0
  | .bad => s

/-- The records from `n` on that are here, up to the first with LAST set; none where one is missing. -/
def wholeChange (rs : List MirrorRecord) : Nat → Nat → Option (List MirrorRecord)
  | 0, _ => none
  | fuel + 1, n =>
    match rs.find? (fun r => r.mseq == n) with
    | none => none
    | some r => if r.last then some [r] else (wholeChange rs fuel (n + 1)).map (r :: ·)

/-- Applies every change that is here whole, in MSEQ order; a record that cannot be applied stops the acknowledgements. -/
def applyChanges : Nat → State → State
  | 0, s => s
  | fuel + 1, s =>
    if s.twn.stopped then s
    else
      match wholeChange s.twn.incomplete (s.twn.incomplete.length + 1) (s.twn.applied + 1) with
      | none => s
      | some rs =>
        if rs.all (fun r => recordOk s r.body) then
          let s1 := rs.foldl (fun t r => applyRecord t r.body) s
          let n := s.twn.applied + rs.length
          applyChanges fuel { s1 with twn := { s1.twn with
            applied := n, incomplete := s1.twn.incomplete.filter (fun r => decide (n < r.mseq)) } }
        else putF { s with twn := { s.twn with stopped := true } } F.twnStatus.cause 6

/-- The port carries mirror frames from the twin (R39, R414). -/
def mirrorPortUp (s : State) (p : RoalePort) : Bool := (portOf s p.val).state == .up && (portOf s p.val).mode == 2

/-- MIRROR: a frame of mirror records. -/
def execMirror (p : RoalePort) (records : List MirrorRecord) (s : State) : Host.Outcome State Fault Refusal :=
  act s (isReady s && mirrorPortUp s p && s.twn.role == .mirror && isPairing s) (fun s =>
    let fresh := records.filter (fun r => decide (s.twn.applied < r.mseq) && !(s.twn.incomplete.any (fun q => q.mseq == r.mseq)))
    let s1 := { s with twn := { s.twn with incomplete := s.twn.incomplete ++ fresh } }
    applyChanges (s1.twn.incomplete.length + 1) s1)

/-! ## What the Active learns (R493, R499, R501, R506) -/

/-- The Active learns that the Mirror has applied every record up to MSEQ `n`: SYNCING ends with SYNC_DONE, and the COPY of a switch
with its last page. What waits for the records is let go at the end of the command. -/
def learnApplied (s : State) (n : Nat) : State :=
  let m := max s.twn.applied (min n s.twn.sent)
  let left := s.twn.copyOut.filter (fun e => decide (m < e.1))
  let s1 := { s with twn := { s.twn with applied := m, copyOut := left } }
  if !left.isEmpty then s1
  else if s1.twn.state == .syncing then setTwin { s1 with twn := { s1.twn with inSync := true } } .paired .active 0
  else if s1.twn.phase = 1 then { s1 with twn := { s1.twn with phase := 2, stopped := true } }
  else s1

/-- MIRROR_ACKNOWLEDGEMENT: the Mirror has applied the records up to MSEQ. -/
def execMirrorAcknowledgement (mseq : Nat) (s : State) : Host.Outcome State Fault Refusal :=
  act s (isReady s && mirrors s) (fun s => learnApplied s mseq)

/-- HEARTBEAT: a frame of the twin with its role, its state and its MSEQ values. -/
def execHeartbeat (p : RoalePort) (source : Member) (role : TwinRole) (state : TwinState) (_sent applied : Nat) (s : State) :
    Host.Outcome State Fault Refusal :=
  act s (isReady s && mirrorPortUp s p && s.lnk.twin == some source.val && isPairing s) (fun s =>
    let s := { s with twn := { s.twn with beatHeard := s.plt.lmc } }
    if s.twn.role == .active && role == .mirror && (state == .syncing || state == .paired) then learnApplied s applied
    else s)

/-- `us` microseconds of the LMC have passed since the LMC read `since`; while it is held nothing is evaluated (R56, R59). -/
def hasPassed (s : State) (since us : Nat) : Bool := lmcRuns s && decide (since + usCounts us ≤ s.plt.lmc)

/-- HEARTBEAT_SEND: HB_INTERVAL_US after the latest, a HEARTBEAT goes out on every mirror port that is UP (R501). -/
def execHeartbeatSend (s : State) : Host.Outcome State Fault Refusal :=
  act s (isReady s && isPairing s && hasPassed s s.twn.beatSent (getF s F.twnCtl.hbIntervalUs) &&
      !(s.twn.role == .mirror && s.twn.stopped)) (fun s =>
    (mirrorPorts s).foldl (fun t p => enqueue t p (.heartbeat s.twn.role s.twn.state s.twn.sent s.twn.applied))
      { s with twn := { s.twn with beatSent := s.plt.lmc } })

/-! ## Loss and fencing (R493, R502, R564, R567) -/

/-- A chain frame of the part; SEQ is the sender's choice (R563; log entry 2). -/
def sendChain (s : State) (dest cmd : Nat) (payload : List Nat) : State :=
  let r := drawFree s
  emit r.2 (.chain { dest := dest, source := s.plt.chainAddr, cmd := cmd, seq := r.1 % 256, status := 0, payload := payload })

/-- FENCE_REQ for the twin. -/
def sendFence (s : State) : State :=
  match s.lnk.twin with
  | some m =>
    sendChain { s with twn := { s.twn with fenceSent := true, fenceLmc := s.plt.lmc } } 0 0x08 [Config.chainAddress m % 64]
  | none => s

/-- No heartbeat came for MISSES intervals. -/
def loseHeartbeats (s : State) : State :=
  let s1 := satF s F.twnStats.losses
  match s.twn.state, s.twn.role with
  | .syncing, .mirror => mirrorLeaves s1 8
  | .syncing, .active => activeAlone s1 8
  | .paired, .mirror => sendFence (setTwin { s1 with twn := { s1.twn with fenceSent := false } } .fencing .mirror 8)
  | .paired, .active => setTwin { s1 with twn := { s1.twn with fenceSent := false, fenceLmc := s.plt.lmc } } .fencing .active 8
  | _, _ => s

/-- HEARTBEAT_LOSS: no heartbeat has arrived for MISSES × HB_INTERVAL_US (R501). -/
def execHeartbeatLoss (s : State) : Host.Outcome State Fault Refusal :=
  act s (isReady s && isPairing s && hasPassed s s.twn.beatHeard (getF s F.twnCtl.misses * getF s F.twnCtl.hbIntervalUs)) loseHeartbeats

/-- FENCE_WAIT_EXPIRY: FENCE_WAIT_US passed on an Active that has not been fenced. -/
def execFenceWaitExpiry (s : State) : Host.Outcome State Fault Refusal :=
  act s (isReady s && s.twn.state == .fencing && s.twn.role == .active && !s.twn.fenceSent &&
    hasPassed s s.twn.fenceLmc (getF s F.twnCtl.fenceWaitUs)) sendFence

/-- FENCE_TIMEOUT: no confirmation came within t_fence, 700 µs (R502). -/
def execFenceTimeout (s : State) : Host.Outcome State Fault Refusal :=
  act s (isReady s && s.twn.state == .fencing && s.twn.fenceSent && hasPassed s s.twn.fenceLmc 700) (fun s =>
    notify (putF s F.twnStatus.cause 7) F.twnCtl.notifyEnable F.twnCtl.vector)

/-! ## Becoming the Active (R503, R504, R506) -/

/-- The Mirror holds what a prefix record names: the rows of its pages, or the block set of a CACHE composition, which lies in a mirrored
area (R494). -/
def holdsRecord (s : State) (r : BlockRec) : Bool :=
  if roleOf s r.comp == .cache then r.pages.all (isCurrent s) else r.pages.all (fun g => tabGet false s.twn.mirroredPages g)

/-- Prefix records that name a page which the part does not hold are removed (R503). -/
def dropUnheld (s : State) : State :=
  (tabKeys s.pfx.records (fun r => r.used && !r.root && !holdsRecord s r)).foldl
    (fun t n => if (recOf t n).used then dropRecord t n else t) s

/-- The units of the manifest pool that the copied manifests hold are in use, and every copied ledger takes its own (R170, R322). -/
def claimUnits (s : State) : State :=
  let us := (s.rqt.manifests.map (fun e =>
    (e.2.directory :: e.2.historyDir :: (e.2.units.map (·.2) ++ e.2.historyUnits.map (·.2))).filter (· != 0))).flatten
  let s1 := { s with
    stk := { s.stk with usedUnits := us.foldl (fun m u => tabPut false m u true) [] }
    xfr := { s.xfr with units := [] } }
  (s1.xfr.ledgers.filter (fun e => e.2.lstate != .free)).foldl
    (fun t e => (needLedgerUnits t e.1 e.2.log.length e.2.blocks.length).2) s1

/-- Input that was not prefilled when the roles were exchanged stands in the token history above LENGTH (R506; log entry 20). -/
def resumeInput (s : State) (i : Nat) : State :=
  let e := entryOf s i
  if e.state != .prefill then s
  else
    let m := manifestOf s i
    let rest := m.history.drop e.length
    setInput (setManifest s i { m with history := m.history.take e.length }) i
      (some { tokens := rest.map (·.token), forced := rest.any (fun x => !x.input),
              after := if rest.isEmpty then .decode else .commit })

/-- Unsolicited Neighbor Advertisements for an address, on each Ethernet port that is up (R503, R506). -/
def advertise (s : State) (a : PartAddr) : State :=
  if a = 0 then s
  else (([0, 1, 2, 3] : List EthPort).filter (fun p => portIsUp s (12 + p.val))).foldl (fun t p => emit t (.advert p a)) s

/-- A new Active claims what it holds (R504). -/
def claimEntry (s : State) (i : Nat) : State :=
  match (entryOf s i).state with
  | .free => s
  | .handoffOut => hear s i
  | .handoffIn => askOwner { hear s i with rqt := { s.rqt with taken := tabPut false s.rqt.taken i true } } i
  | _ => claimTakeover s i

/-- A Mirror takes over: steps 4 to 7 of R503. -/
def takeOver (s : State) : State :=
  let s1 := { s with twn := { s.twn with incomplete := [], stopped := false, fenceSent := false, inSync := false, tookOver := true } }
  let s2 := claimUnits (dropUnheld s1)
  let s3 := advertise (advertise s2 (partAddr s2)) (twinAddr s2)
  let s4 := satF (setTwin s3 .alone .active 0) F.twnStats.failovers
  let s5 := s4.twn.unconfirmed.foldl (fun t e => giveRecord t e.1 (.completion e.2)) s4
  let s6 := { s5 with twn := { s5.twn with unconfirmed := [] } }
  (tabKeys s6.rqt.entries (fun e => e.state != .free)).foldl claimEntry s6

/-- FENCED: the chain's answer to FENCE_REQ; OUTCOME 0 confirms that the twin is off. -/
def endFencing (s : State) (outcome : Nat) : State :=
  if s.twn.state != .fencing || outcome != 0 then s
  else if s.twn.role == .mirror then takeOver s
  else activeAlone s (getF s F.twnStatus.cause)

/-- The chain removes the pairing: an Active keeps serving, and a Mirror discards its copies (R493). -/
def unpair (s : State) : State :=
  if s.twn.state == .solo then s
  else if s.twn.role == .mirror then mirrorLeaves s 0
  else
    let s1 := setTwin s .solo .none 0
    { s1 with twn := { s1.twn with
      phase := 0, inSync := false, copyOut := [], stopped := false, fenceSent := false, tookOver := false, mirroredPages := [] } }

/-! ## Role switching (R506) -/

/-- SWITCH at a PAIRED Active: phase COPY begins. -/
def beginSwitch (s : State) : State :=
  let s1 := { s with twn := { s.twn with phase := 1 } }
  let bodies := changeBodies { s1 with rqt := { s1.rqt with manifests := [] }, stk := { s1.stk with pages := [] } } s1
  let s2 := markMirrored (sendCopy s1 bodies) (unmirroredPages s1)
  if s2.twn.copyOut.isEmpty then { s2 with twn := { s2.twn with phase := 2, stopped := true } } else s2

/-- SWITCH. -/
def execSwitch (s : State) : Host.Outcome State Fault Refusal :=
  actAwake s (serves s 14) .switch (fun s => if isActivePaired s && s.twn.phase == 0 then beginSwitch s else s)

/-- Every submission queue is read to its tail, what was read is resolved, no step is in flight, and the Mirror has applied every
change. -/
def handoverReady (s : State) : Bool :=
  s.twn.phase == 2 && s.twn.held.isEmpty &&
    s.rqt.queues.all (fun e => !(tenantOn s e.1) || (e.2.sqHead == e.2.sqTail && e.2.outstanding == 0)) &&
    s.rqt.admissions.all (fun e => e.2.isNone) && s.rqt.held.all (fun e => e.2.isEmpty) &&
    s.sch.steps.all (fun e => e.2.isNone)

/-- The OPEN tails and the token entries of every request, as the last change of the Active. -/
def handoverBodies (s : State) : List MirrorBody :=
  (((carriedGranules s).dedup.filter (fun g => (pageOf s g).state == .open_)).map (pageBodies s)).flatten ++
    (s.rqt.manifests.filter (fun e => isCarried s e.1)).map (fun e =>
      .manifest e.1 { e.2 with history := e.2.history ++
        (match inputOf s e.1 with
        | some x => x.tokens.map (fun t => { input := !x.forced, token := t })
        | none => []) })

/-- The two parts exchange their addresses (R506). -/
def swapAddrs (s : State) : State :=
  let a := partAddr s
  let b := twinAddr s
  match s.lnk.twin with
  | none => s
  | some m =>
    let put (t : State) (lo hi : Field) (v : Nat) : State := putF (putF t lo (v % 2 ^ 64)) hi (v / 2 ^ 64)
    let s1 := put (put s F.xfrAddrLo.addr F.xfrAddrHi.addr b) (F.xfrMemberLo.addr.at m) (F.xfrMemberHi.addr.at m) a
    advertise (put s1 (F.xfrMemberLo.addr.at s.lnk.member) (F.xfrMemberHi.addr.at s.lnk.member) b) b

/-- The old Active as the new Mirror: it keeps the copies that the areas of R494 ask for, and releases the pages that no class-M request
references. -/
def becomeMirror (s : State) : State :=
  let s0 := { s with twn := { s.twn with phase := 0, stopped := false } }
  let kept := (carriedGranules s0).dedup
  let s1 := { s0 with
    rqt := { entries := s0.rqt.entries, manifests := s0.rqt.manifests.filter (fun e => isCarried s0 e.1), queues := s0.rqt.queues }
    xfr := { s0.xfr with conns := [], slots := [] }
    stk := { s0.stk with
      pages := s0.stk.pages.filter (fun e => kept.contains e.1)
      wp := tabDrop s0.stk.wp (fun k _ => s0.stk.pages.any (fun p => !(kept.contains p.1) &&
        decide (granuleAddr p.1 / 4096 ≤ k) && decide (k < granuleAddr p.1 / 4096 + granulesOf s0 p.1)))
      waits := [], manifestPressure := false }
    twn := { s0.twn with
      applied := s0.twn.sent, copyOut := [], unconfirmed := [],
      mirroredPages := s0.twn.mirroredPages.filter (fun e => kept.contains e.1) } }
  setTwin (swapAddrs s1) .paired .mirror 0

/-- The old Mirror as the new Active: requests continue where they stood. -/
def becomeActive (s : State) : State :=
  let s1 := claimUnits { s with
    xfr := { s.xfr with conns := [] }
    twn := { s.twn with sent := s.twn.applied, unconfirmed := [], incomplete := [] } }
  let s2 := (tabKeys s1.rqt.entries (fun e => e.state != .free)).foldl resumeInput s1
  let s3 := setTwin (swapAddrs s2) .paired .active 0
  (tabKeys s3.rqt.entries (fun e => e.state == .handoffIn)).foldl claimEntry
    { s3 with twn := { s3.twn with mirroredPages := s3.twn.mirroredPages.filter (fun e => (carriedGranules s3).contains e.1) } }

/-- HANDOVER: the last change of the Active is mirrored, and the two parts exchange roles and addresses. -/
def execHandover (s : State) : Host.Outcome State Fault Refusal :=
  act s (runs s && s.twn.state == .paired) (fun s =>
    if s.twn.role == .active then
      (if handoverReady s then
        satF (becomeMirror (sendChange s (handoverBodies s))) F.twnStats.switches
      else s)
    else if s.twn.role == .mirror && s.twn.incomplete.isEmpty then satF (becomeActive s) F.twnStats.switches
    else s)

end Sys2Proof.Machine
end

