-- ==== Sys2Proof/Machine/Startup.lean ====
section
/-! DEFINITION. Resets, departures and the start of the part (R511, R537 to R543, R546, R554, R557, R601, R616 to R618, R630, R632,
R635, R637). -/

namespace Sys2Proof.Machine

open Sys2Proof

/-! ## Writes that a reset or a loss of the rails interrupts (log entry 45) -/

/-- Byte `i` of the staged slot: FUSE_STAGE_0 to _63 (R548, R569). -/
def stageByte (s : State) (i : Nat) : Byte := BitVec.ofNat 8 (getF s (F.fuseStage.data.at (i / 8)) / 256 ^ (i % 8))

/-- The staged slot, 512 bytes. -/
def stageBytes (s : State) : List Byte := (List.range 512).map (stageByte s)

/-- Burns bytes into generation slot `k`: fuses go from 0 to 1 only (R544). -/
def burnSlot (s : State) (k : Nat) (bs : List Byte) : State :=
  { s with plt := { s.plt with
      fuses := tabPutRun 0 s.plt.fuses (512 * k) ((slotBytes s k 0 512).zipWith (fun a b => a ||| b) bs) } }

/-- A slot that a burn stopped in: any of its staged bits are burned. -/
def interruptBurn (s : State) : State :=
  match s.plt.burning with
  | none => s
  | some (k, staged) =>
    let free := (List.range 512).map (fun i => BitVec.ofNat 8 (Config.choice (s.fresh + i)))
    let s1 := burnSlot { s with fresh := s.fresh + 512 } k.val (staged.zipWith (fun a b => a &&& b) free)
    { s1 with plt := { s1.plt with burning := none, nonceNo := s1.plt.nonceNo + 1 } }

/-- The slot of the boot flash that is not running (R558). -/
def setIdleSlot (s : State) (im : Option Image) : State :=
  if s.plt.runningB then { s with plt := { s.plt with bootA := im } } else { s with plt := { s.plt with bootB := im } }

/-- The idle slot after a write of it that was stopped: the old image, the new one, or none. -/
def interruptStage (s : State) : State :=
  match s.plt.staging with
  | none => s
  | some im =>
    let r := pick s [if s.plt.runningB then s.plt.bootA else s.plt.bootB, some im, none]
    setIdleSlot { r.2 with plt := { r.2.plt with staging := none } } (r.1.getD none)

/-- Burns and boot-flash writes under way are stopped. -/
def stopWrites (s : State) : State := interruptStage (interruptBurn s)

/-! ## Cold reset and loss of the rails (R537, R541, R542) -/

/-- What the platform keeps through a loss of the main rails: fuses, board devices and the chain port. -/
def coldPlatform (p : Platform) : Platform :=
  { lmcHeld := p.lmcHeld, vaux3 := p.vaux3, fuses := p.fuses, thermo := p.thermo, repairs := p.repairs, ordering := p.ordering,
    nonceNo := p.nonceNo, bootA := p.bootA, bootB := p.bootB, preferB := p.preferB, tries := p.tries,
    flashRootList := p.flashRootList, chainAddr := p.chainAddr, chainKeyId := p.chainKeyId, lastOff := p.lastOff,
    thermTripLow := p.thermTripLow }

/-- Everything that a cold reset clears is at its reset value. The meter, Umber's cells, host memory, the queue of commands and
what the part has sent stay. -/
def coldState (s0 : State) : State :=
  let s := stopWrites s0
  { pending := s.pending, fresh := s.fresh, out := s.out, mtr := s.mtr, plt := coldPlatform s.plt,
    stk := { umber := s.stk.umber, hostObj := s.stk.hostObj }, fls := { blocks := s.fls.blocks } }

/-- The main rails go off with a LAST_OFF cause: 1 command, 2 chain POWER_OFF, 3 THERMAL_TRIP, 4 VIN56_UNDER, 5 VIN56_OVER, 6 fenced,
7 STANDBY_LOST (R541, R571). -/
def railsOff (s : State) (cause : Nat) : State :=
  let c := coldState s
  { c with plt := { c.plt with mainRails := false, starting := none, lastOff := cause } }

/-- The main rails come on: step 3 of R538 begins, and THERM_TRIP_N is released (R618). -/
def startRails (s : State) : State :=
  let s1 := if s.plt.thermTripLow then emit { s with plt := { s.plt with thermTripLow := false } } (.thermTrip false) else s
  if s1.plt.mainRails then s1
  else { s1 with plt := { s1.plt with mainRails := true, starting := some .cold, state := .rom } }

/-! ## Warm reset (R542, R601, R630, R632, R635, R637) -/

/-- The key is that of an RQT_T_CTL.ENABLE field. -/
def isTenantEnable (k : Nat) : Bool :=
  let b := F.rqtTCtl.enable.key
  decide (b ≤ k) && decide (k < b + 4096 * 4096) && (k - b) % 4096 == 0

/-- A status that read busy reads 0: no command is under way (log entry 46). -/
def idleStatus (s : State) (e : Field × Nat) : State := if getF s e.1 = e.2 then putF s e.1 0 else s

/-- The statuses of commands, with their codes for busy. -/
def busyCodes : List (Field × Nat) :=
  [(F.pltFwStatus.status, 1), (F.pltKeylist.status, 1), (F.pltAttest.status, 1), (F.pltWrapCtl.status, 1), (F.fuseStatus.burnStatus, 1),
   (F.pwrStatus.cmdStatus, 5), (F.fabPkgCtl.fabPkgStatus, 7), (F.stkUcodeCtl.status, 4), (F.schCompCmd.status, 8),
   (F.xfrRecoverCtl.status, 1)]

/-- The registers after a warm reset (R630, R635, R637). -/
def warmFields (s : State) : State :=
  let s1 := { s with fields := tabDrop s.fields (fun k _ => isTenantEnable k) }
  let s2 := busyCodes.foldl idleStatus s1
  putF (putF (putF (putF (putF s2 F.stkObjSqTail.tail 0) F.stkObjSqHead.head 0) F.stkObjCqHead.head 0) F.twnStatus.cause 0)
    F.pfxDomainCtl.status 0

/-- The pages that an interrupted copy of an object to Umber has programmed: some of its units, none of which the map names
(R479, R632). -/
def interruptedCopy (s : State) (handle first n : Nat) : State :=
  let r := drawFree s
  let js := (List.range (r.1 % (n + 1))).map (fun k =>
    { page := { ptype := .data, sequence := 0, unit_ := first + k, handle := handle }, oneBit := true, credit := true : ProgramJob })
  (programJobs {} js r.2).2

/-- Object `i` after a warm reset (R632). -/
def warmObject (s : State) (i : Nat) : State :=
  let e := odtOf s i
  match e.state with
  | .publishing =>
    failPublish (if e.tier = 3 then interruptedCopy s (handleOf s i) e.location (unitsOf e.size) else s) i
  | .moving =>
    let s1 := if e.newTier = 3 then interruptedCopy s (handleOf s i) e.newLocation (unitsOf e.size) else s
    setOdt s1 i { e with state := .published, newTier := 0, newLocation := 0, lease := none }
  | .retiring => reclaimObject s {} i
  | _ => s

/-- Region `n` after a warm reset: EMPTY and scrubbed, except that one FAULTED with cause NO_SPARE stays so (R48, R542). The manual does
not settle a region that has no spare left but reads another cause; it follows R542's table (log entry 93). -/
def warmRegion (s : State) (n : Nat) : State :=
  let x := regionOf s n
  let stays := x.state == .faulted && faultCause s n == 13
  let s1 := setRegion (clearSticky s n) n { state := if stays then .faulted else .empty, comp := x.comp }
  if stays then s1 else putF (putF s1 (F.fabRgnFault.cause.at n) 0) (F.fabRgnFault.cluster.at n) 0

/-- Compositions and shares after a warm reset: one whose UNBIND was in progress is removed (R391, R542). -/
def warmComps (s0 : State) : State :=
  let s := ((boundComps s0).filter (fun e => e.2.unbinding)).foldl (fun t e => showPressure t e.1 0 0) s0
  { s with sch :=
    { comps := tabMap none s.sch.comps (fun _ x => x.bind (fun c => if c.unbinding then none else some { c with pointer := 0 })),
      shares := tabMap none s.sch.shares (fun _ x => x.map (fun y => { y with deficit := 0 })),
      regionNs := s.sch.regionNs, nextStep := s.sch.nextStep } }

/-- Every entry, ledger and transfer slot FREE: their pages, units and parked objects go (R542); so do the leases, the object commands
under way and the XTS keys (R154, R632). -/
def warmRequests (s : State) : State :=
  let s1 := { s with
    rqt := { entries := s.rqt.entries, manifests := s.rqt.manifests }
    stk := { s.stk with leases := [], waits := [], objWaiting := [], objOut := [], freeing := [], sqTaken := false, objCqTail := 0,
                        objSeq := 0, objPhase := true, xts := [] }
    ucode := {} }
  let s2 := (tabKeys s1.rqt.entries (fun e => e.state != .free)).foldl freeEntry s1
  let s3 := retireUnits s2 ((s2.xfr.units.map (fun e => e.2.all)).flatten)
  let s4 := releaseCopies (reclaimUnits { s3 with rqt := {}, xfr := {} }) {}
  (tabKeys s4.stk.odt (fun e => e.state != .free)).foldl warmObject s4

/-- What the platform keeps through a warm reset. -/
def warmPlatform (p : Platform) : Platform :=
  { p with
    state := .rom, cause := 0, fwFallback := false, starting := some (if p.starting == some .cold then .cold else .warm),
    rootList := none, ownerList := none, wrapKey := none, departing := none }

/-- The endpoint in a reset of the part: the MSI-X table goes, and the configuration of the host stays (R601). -/
def warmPcie (p : Pcie) : Pcie := { p with table := [], pending := [], waiting := [], fatal := false }

/-- The state in which a warm reset leaves the part (R542). -/
def warmState (s0 : State) : State :=
  let s1 := stopWrites ((List.range 72).foldl writeBackAll s0)
  let s2 := warmComps { s1 with
    coh := { home := (s1.coh.home.filter (fun e => e.2.poisoned)).map (fun e => (e.1, { poisoned := true })),
             calibrated := s1.coh.calibrated } }
  let s3 := (tabKeys s2.fab.regions (fun _ => true)).foldl warmRegion s2
  let s4 := warmRequests s3
  let s5 := (boundComps s4).foldl (fun t e => releaseModel t e.1) s4
  let s6 := warmFields { s5 with
    fab := { regions := s5.fab.regions }
    pfx := { ways := s5.pfx.ways, records := s5.pfx.records }
    cod := { tables := s5.cod.tables }
    lnk := { member := s5.lnk.member, members := s5.lnk.members, generations := s5.lnk.generations }
    tm := {}
    twn := {}
    lane := { s5.lane with sentThisMs := false }
    pwr := { fastRefresh := s5.pwr.fastRefresh, throttled := s5.pwr.throttled, overHot := s5.pwr.overHot,
             limitPacing := s5.pwr.limitPacing, pacingSince := s5.pwr.pacingSince, pacingRest := s5.pwr.pacingRest }
    pcie := warmPcie s5.pcie
    plt := warmPlatform s5.plt }
  let s7 := updatePressure s6
  { s7 with pcie := warmPcie s7.pcie }

/-! ## Departure (R511, R541, R583) -/

/-- What follows a departure, after the POWER frame that tells the meter of it (R520, R578, R583). -/
def endDeparture (s : State) : AfterDeparture → State
  | .reset .warm => warmState (sendPower s 4)
  | .reset .cold => coldState (sendPower s 5)
  | .black cause => railsOff (sendPower s 3) cause

/-- Of two ends of one departure, the one that keeps less (log entry 47). -/
def AfterDeparture.rank : AfterDeparture → Nat
  | .reset .warm => 0 | .reset .cold => 1 | .black _ => 2

/-- The part departs where it is enrolled, and else goes on at once. -/
def depart (s : State) (a : AfterDeparture) : State :=
  if !(isReady s && s.lnk.enrolled) then endDeparture s a
  else
    match s.plt.departing with
    | some b => if b.rank < a.rank then { s with plt := { s.plt with departing := some a } } else s
    | none =>
      let s1 := sendChain { s with plt := { s.plt with departing := some a } } 0 0x0B [2]
      ((List.range 12).filter (fun p => (portOf s p).state == .up)).foldl (fun t p => enqueue t (roalePort p) .depart) s1

/-- The part serves no operation and has none outstanding. -/
def operationsDone (s : State) : Bool := s.lnk.ops.all (fun e => e.2.isNone) && s.lnk.opQueue.isEmpty

/-- DEPARTURE_COMPLETE: the part announces DEPARTED, then resets or powers off. -/
def execDepartureComplete (s : State) : Host.Outcome State Fault Refusal :=
  act s (operationsDone s) (fun s =>
    match s.plt.departing with
    | some a => endDeparture (sendChain s 0 0x0B [3]) a
    | none => s)

/-- WARM_RESET: RESET_CMD 1. -/
def execWarmReset (s : State) : Host.Outcome State Fault Refusal := act s (serves s 0) (fun s => depart s (.reset .warm))

/-- COLD_RESET: RESET_CMD 2. -/
def execColdReset (s : State) : Host.Outcome State Fault Refusal := act s (serves s 0) (fun s => depart s (.reset .cold))

/-! ## Key lists and firmware (R552, R554 to R557) -/

/-- ASCII "EODRKEYL", its first letter in the low byte (R554). -/
def keyListMagic : BitVec 64 := 0x4C59454B52444F45

/-- A key list against the hash of its authority: 0 OK, 3 FORMAT, 4 BAD_AUTHORITY, 5 BAD_SIGNATURE (R554, R568). -/
def keyListStatus (l : KeyList) (authority hash : Nat) : Nat :=
  if l.magic != keyListMagic || l.keys.length < 1 || 16 < l.keys.length then 3
  else if l.authority != authority || hash == 0 || (keyId l.authorityKey).toNat != hash then 4
  else if Config.ecdsaVerify l.authorityKey l.digest l.sigR l.sigS then 0
  else 5

/-- A firmware image against R557, in the codes of PLT_FW_STATUS: 0 OK, 3 FORMAT, 4 BAD_SIGNATURE, 5 BELOW_FLOOR (R552, R558). -/
def firmwareStatus (s : State) (im : Image) : Nat :=
  if !headerGood s im || !forB0 im || im.kind != 3 || !wellFormed im || 128 < im.securityVersion then 3
  else if !signatureOk s im then 4
  else if im.securityVersion < s.plt.thermo then 5
  else 0

/-- The ROM boots a firmware image. -/
def boots (s : State) (im : Option Image) : Bool :=
  match im with
  | some im => firmwareStatus s im == 0
  | none => false

/-- The slot that the ROM boots, true for B: the preferred one while its try count lasts, else the other one (R557; log entry 48). -/
def bootChoice (s : State) : Option Bool :=
  let slot (b : Bool) := if b then s.plt.bootB else s.plt.bootA
  if 0 < s.plt.tries && boots s (slot s.plt.preferB) then some s.plt.preferB
  else if boots s (slot (!s.plt.preferB)) then some (!s.plt.preferB)
  else none

/-! ## Slate at a start (R461 to R463) -/

/-- Channel `k` holds a DIMM that R461 allows, like that of channel 0, and trains. -/
def channelGood (cs : List (Nat × Nat × Bool)) (k : Nat) : Bool :=
  match cs[k]?, cs[0]? with
  | some (g, r, ok), some (g0, r0, _) => ok && g == g0 && r == r0 && 16 ≤ g && g ≤ 256 && 1 ≤ r && r ≤ 3
  | _, _ => false

/-- A DIMM is fitted in channel `k`. -/
def channelFitted (cs : List (Nat × Nat × Bool)) (k : Nat) : Bool :=
  match cs[k]? with
  | some (g, _, _) => g != 0
  | none => false

/-- j of R462: the channels that stay in use are SLC_0 to SLC_j−1 and SLC_6 to SLC_6+j−1. -/
def slateWidth (cs : List (Nat × Nat × Bool)) : Nat :=
  ((List.range 6).find? (fun i => !(channelGood cs i && channelGood cs (i + 6)))).getD 6

/-- Slate is trained: SLT_STATUS (R463). -/
def trainSlate (s : State) (cs : List (Nat × Nat × Bool)) : State :=
  let j := slateWidth cs
  let failing := (List.range 12).any (fun k => channelFitted cs k && j ≤ k % 6)
  let first := (cs[0]?).getD (0, 0, false)
  putF (putF (putF (putF s F.sltStatus.capacityGib (2 * j * first.1)) F.sltStatus.speed (if j = 0 then 0 else first.2.1))
    F.sltStatus.failed (if failing then bitMap 12 (fun k => j ≤ k % 6) else 0)) F.sltStatus.populated (bitMap 12 (fun k => k % 6 < j))

/-! ## The course of a start (R538, R540, R543) -/

/-- A step fails: STATE is FAILED with a cause (R540). -/
def failStart (s : State) (cause : Nat) : State :=
  notify { s with plt := { s.plt with state := .failed, cause := cause, starting := none } } F.pltCtl.notifyEnable F.pltCtl.vector

/-- Step 3 of a cold start: the straps are sampled, and LAST_OFF is reported (R571, R616). -/
def sampleStraps (s : State) (f : StartFacts) : State :=
  putF { s with plt := { s.plt with strapSpi1v8 := f.strapSpi1v8, strapSris := f.strapSris, strapTest := f.strapTest } }
    F.pwrStatus.lastOff s.plt.lastOff

/-- The package image after a warm reset (R111): reloaded from FAB_PKG_LOADED_HANDLE, with every check of R112; one in host memory that
the part cannot reach fails (R603). -/
def reloadPackage (s : State) (read : ReadEnd) : State :=
  let h := getF s F.fabPkgLoaded.fabPkgLoadedHandle
  if h = 0 then pkgStatus s 8
  else
    let r := if mustWait s h then (none, s) else readImage s h read
    let s1 := if resolveImage s h 0 then placePackage r.2 h r.1 else pkgStatus s 2
    if getF s1 F.fabPkgCtl.fabPkgStatus = 0 then s1
    else putF (putF s1 F.fabPkgLoaded.fabPkgLoadedHandle 0) F.fabPkgLoaded.fabPkgLoadedVersion 0

/-- BIND is sent again for every composition that the part still holds (R524). -/
def sendBinds (s : State) : State :=
  (boundComps s).foldl (fun t e => if h : e.1 < 256 then sendFeed t (.bind (compBody t ⟨e.1, h⟩ e.2)) else t) s

/-- Step 8: READY, with the try count back at 3 (R557). -/
def becomeReady (s : State) : State :=
  notify { s with plt := { s.plt with state := .ready, starting := none, tries := 3 } } F.pltCtl.notifyEnable F.pltCtl.vector

/-- Steps 6 to 8: the SEAL frame, readiness, self-tests and training (R539, R543). -/
def runFirmware (s : State) (k : ResetKind) (f : StartFacts) : State :=
  let s1 := { s with plt := { s.plt with state := .training } }
  let s2 := if feedOn s1 then sendSeal s1 else s1
  let s3 := emit { s2 with pcie := { s2.pcie with functionReset := false } } (.ready (!s2.pcie.functionReset))
  match k with
  | .cold =>
    if !f.stacksOk then failStart s3 2
    else if !f.selfTestOk then failStart s3 3
    else becomeReady (trainSlate s3 f.slate)
  | .warm =>
    if !f.selfTestOk then failStart s3 3
    else
      let s4 := reloadPackage s3 f.packageRead
      becomeReady (if feedOn s4 then sendBinds s4 else s4)

/-- Step 5: the root key list, the firmware and DICE layer 0 (R555, R557, R559, R564). -/
def bootFirmware (s : State) (k : ResetKind) (f : StartFacts) : State :=
  match s.plt.flashRootList with
  | none => failStart s 4
  | some l =>
    if keyListStatus l 1 (rootHash s) != 0 then failStart s 4
    else
      let s1 := { s with plt := { s.plt with rootList := some l } }
      match bootChoice s1 with
      | none => failStart s1 1
      | some b =>
        match (if b then s1.plt.bootB else s1.plt.bootA) with
        | none => failStart s1 1
        | some im =>
          runFirmware { s1 with plt := { s1.plt with
            fwFallback := b != s1.plt.preferB, tries := s1.plt.tries - 1, runningB := b, runningVersion := im.securityVersion,
            runningDigest := im.digest, chainKeyId := if s1.plt.vaux3 then Config.deviceKeyId else 0 } } k f

/-- POWER_UP_START: steps 3 to 8 of R538 after a start of the rails or a reset. -/
def startPart (s : State) (f : StartFacts) : State :=
  match s.plt.starting with
  | none => s
  | some .cold =>
    if !f.railsOk then failStart s 5
    else
      let s1 := selectGeneration (sampleStraps s f)
      if s1.plt.activeSlot.isNone then { s1 with plt := { s1.plt with state := .fuseInvalid, starting := none } }
      else if s1.plt.strapTest then failStart s1 3
      else bootFirmware s1 .cold f
  | some .warm =>
    if s.plt.activeSlot.isNone then { s with plt := { s.plt with state := .fuseInvalid, starting := none } }
    else if s.plt.strapTest then failStart s 3
    else bootFirmware s .warm f

/-- POWER_UP_START. -/
def execPowerUpStart (facts : StartFacts) (s : State) : Host.Outcome State Fault Refusal :=
  act s s.plt.mainRails (fun s => startPart s facts)

end Sys2Proof.Machine
end

