-- ==== Sys2Proof/Machine/Boot.lean ====
section
/-! DEFINITION. Commands of the PLT_ and FUSE_ blocks: firmware, key lists, attestation, the wrapping key, the thermometer and the burn
of a fuse generation (R544 to R561, R568, R569). -/

namespace Sys2Proof.Machine

open Sys2Proof

/-! ## Firmware and key lists (R552, R555, R558) -/

/-- PLT_FW_STATUS.STATUS. -/
def fwStatus (s : State) (st : Nat) : State := putF s F.pltFwStatus.status st

/-- A command waits until its read of host memory can be issued (R603). -/
def waitHost (s : State) (c : Instr) : State := { s with pcie := { s.pcie with waiting := s.pcie.waiting ++ [c] } }

/-- STAGE: the object is resolved and checked as R557 checks it, and the write of the idle slot begins. -/
def doStage (s : State) (h : Nat) (read : ReadEnd) : State :=
  if !resolveImage s h 2 then fwStatus s 2
  else if mustWait s h then waitHost (fwStatus s 1) (.stage h read)
  else
    let r := readImage s h read
    match r.1 with
    | none => fwStatus r.2 3
    | some im =>
      let st := firmwareStatus r.2 im
      if st = 0 then fwStatus { r.2 with plt := { r.2.plt with staging := some im } } 1 else fwStatus r.2 st

/-- STAGE (CMD 1 of PLT_FW_CTL, with HANDLE). -/
def execStage (handle : Nat) (read : ReadEnd) (s : State) : Host.Outcome State Fault Refusal :=
  actAwake s (serves s 0) (.stage handle read) (fun s =>
    let s1 := putF s F.pltFwCtl.handle handle
    if getF s F.pltFwStatus.status = 1 then s1 else doStage s1 (handle % 2 ^ 32) read)

/-- The end of a STAGE: the image stands in the idle slot, which is preferred with a try count of 3, or the flash failed. -/
def endStage (s : State) (ok : Bool) : State :=
  match s.plt.staging with
  | none => s
  | some im =>
    let s1 := { s with plt := { s.plt with staging := none } }
    if ok then
      let s2 := setIdleSlot s1 (some im)
      fwStatus { s2 with plt := { s2.plt with preferB := !s2.plt.runningB, tries := 3 } } 0
    else fwStatus (setIdleSlot s1 none) 6

/-- STAGE_COMPLETE. -/
def execStageComplete (ok : Bool) (s : State) : Host.Outcome State Fault Refusal := act s s.plt.mainRails (fun s => endStage s ok)

/-- ADVANCE: the thermometer goes up to the version of the running firmware (R552, R569; log entry 49). -/
def doAdvance (s : State) : State :=
  if getF s F.pltFwStatus.status = 1 then s
  else if isSet s F.fuseCtl.fuseLock then putF s F.fuseStatus.burnStatus 6
  else if s.plt.runningVersion ≤ s.plt.thermo then fwStatus s 7
  else fwStatus { s with plt := { s.plt with thermo := min 128 s.plt.runningVersion } } 0

/-- ADVANCE (CMD 2 of PLT_FW_CTL). -/
def execAdvance (s : State) : Host.Outcome State Fault Refusal := actAwake s (serves s 0) .advance doAdvance

/-- PLT_KEYLIST.STATUS. -/
def listStatus (s : State) (st : Nat) : State := putF s F.pltKeylist.status st

/-- The key list that stands in object `i`, where its read ended whole, and the state with the error that was met (R465, R476, R554). -/
def readKeyList (s : State) (i : Nat) (r : ReadEnd) : Option KeyList × State :=
  let s1 := askHost s (odtOf s i)
  match r with
  | .whole => (decodeKeyList (objectByte s1 i) (odtOf s1 i).size, s1)
  | .errorAt o => (none, readFailed s1 (odtOf s1 i) o)

/-- The owner list that was read is checked and taken; the key chain changes (R110, R554, R555). A read with an error is a FORMAT error
(log entry 84). -/
def takeKeyList (s : State) (list : Option KeyList) : State :=
  match list with
  | none => listStatus s 3
  | some l =>
    let st := keyListStatus l 2 (ownerHash s)
    if st = 0 then listStatus (flushDigests { s with plt := { s.plt with ownerList := some l } }) 0 else listStatus s st

/-- KEYLIST_LOAD: the object is resolved, as work of tenant 0, and read (R142, R633). -/
def doKeylistLoad (s : State) (h : Nat) (read : ReadEnd) : State :=
  match resolve s h 0 2 with
  | .ok i =>
    if mustWait s h then waitHost (listStatus s 1) (.keylistLoad h read)
    else
      let r := readKeyList s i read
      takeKeyList r.2 r.1
  | _ => listStatus s 2

/-- KEYLIST_LOAD (CMD 1 of PLT_KEYLIST, with HANDLE). -/
def execKeylistLoad (handle : Nat) (read : ReadEnd) (s : State) : Host.Outcome State Fault Refusal :=
  actAwake s (serves s 0) (.keylistLoad handle read)
    (fun s =>
      let s1 := putF s F.pltKeylist.handle handle
      if getF s F.pltKeylist.status = 1 then s1 else doKeylistLoad s1 (handle % 2 ^ 32) read)

/-- KEYLIST_CLEAR (CMD 2 of PLT_KEYLIST). -/
def execKeylistClear (s : State) : Host.Outcome State Fault Refusal :=
  actAwake s (serves s 0) .keylistClear (fun s => listStatus (flushDigests { s with plt := { s.plt with ownerList := none } }) 0)

/-! ## Attestation and the wrapping key (R559 to R561) -/

/-- ATTEST: the read of the nonce at ADDR begins, under the PASID of tenant 0 (R561). -/
def doAttest (s : State) (address : Nat) : State :=
  if getF s F.pltAttest.status = 1 then s
  else
    let s1 := putF (putF s F.pltAttest.addr (address / 4096)) F.pltAttest.status 1
    if hostOff s then waitHost s1 (.attest address) else readHost s1 0 (getF s1 F.pltAttest.addr * 4096) 48

/-- ATTEST (CMD 1 of PLT_ATTEST, with ADDR). -/
def execAttest (address : Nat) (s : State) : Host.Outcome State Fault Refusal :=
  actAwake s (serves s 0) (.attest address) (fun s => doAttest s address)

/-- ESTABLISH: the read of the peer key at ADDR begins, under the PASID of tenant 0 (R560, R595). -/
def doEstablish (s : State) (address : Nat) : State :=
  if getF s F.pltWrapCtl.status = 1 then s
  else
    let s1 := putF (putF s F.pltWrapCtl.addr (address / 4096)) F.pltWrapCtl.status 1
    if hostOff s then waitHost s1 (.establish address) else readHost s1 0 (getF s1 F.pltWrapCtl.addr * 4096) 96

/-- A command whose read of host memory waited goes on: the read is issued (R603). -/
def resumeRead (s : State) (c : Instr) : State :=
  match c with
  | .stage h read => doStage s h read
  | .keylistLoad h read => doKeylistLoad s h read
  | .attest _ => readHost s 0 (getF s F.pltAttest.addr * 4096) 48
  | .establish _ => readHost s 0 (getF s F.pltWrapCtl.addr * 4096) 96
  | _ => s

/-- Every command whose read waited goes on. -/
def resumeReads (s : State) : State := s.pcie.waiting.foldl resumeRead { s with pcie := { s.pcie with waiting := [] } }

/-- ESTABLISH (CMD 1 of PLT_WRAP_CTL, with ADDR). -/
def execEstablish (address : Nat) (s : State) : Host.Outcome State Fault Refusal :=
  actAwake s (serves s 0) (.establish address) (fun s => doEstablish s address)

/-- `n` bytes of the active generation from offset `o`; zeros where no slot is active. -/
def activeBytes (s : State) (o n : Nat) : List Byte :=
  match s.plt.activeSlot with
  | some k => slotBytes s k.val o n
  | none => List.replicate n 0

/-- The measurement of DICE layer 0 (R559; log entry 1). -/
def measurement (s : State) : BitVec 384 :=
  Config.sha384 (leBytes 48 s.plt.runningDigest.toNat ++ activeBytes s 0 504 ++ leBytes 1 s.plt.thermo ++
    leBytes 1 (boolCode (hasFeature s 3)))

/-- The bytes of a key list object (R554). -/
def keyListBytes (l : KeyList) : List Byte :=
  leBytes 8 l.magic.toNat ++ leBytes 4 l.authority ++ leBytes 4 l.keys.length ++ leBytes 96 l.authorityKey.toNat ++
    (l.keys.map (fun k => leBytes 96 k.key.toNat ++
      leBytes 8 (boolCode k.firmware + 2 * boolCode k.package + 4 * boolCode k.structureUse))).flatten ++
    leBytes 48 l.sigR.toNat ++ leBytes 48 l.sigS.toNat

/-- Bytes 0 to 335 of the evidence (R561). -/
def evidenceHead (s : State) (nonce : List Byte) : List Byte :=
  [0x45, 0x4F, 0x44, 0x52, 0x45, 0x56, 0x49, 0x44] ++ nonce ++ leBytes 48 s.plt.runningDigest.toNat ++
    leBytes 4 s.plt.runningVersion ++ leBytes 1 s.plt.thermo ++ leBytes 1 ((s.plt.activeSlot.map (·.val)).getD 0) ++
    leBytes 1 (getF s F.mtrStatus.bindingMatch + 2 * boolCode (hasFeature s 3) + 4 * getF s F.mtrStatus.brokenSeal) ++ [0] ++
    leBytes 48 (Config.sha384 (activeBytes s 0 504)).toNat ++ leBytes 4 (getF s F.fabPkgLoaded.fabPkgLoadedVersion) ++
    leBytes 4 (getF s F.fabCtl.fabImageFloor) ++ leBytes 8 (getF s F.mtrMeterIdLo.id) ++ leBytes 8 (getF s F.mtrMeterIdHi.id) ++
    leBytes 96 (Config.wrapPublic (activeBytes s 4 48) (activeBytes s 52 48)).toNat ++
    (match s.plt.ownerList with
    | some l => leBytes 48 (Config.sha384 (keyListBytes l)).toNat
    | none => List.replicate 48 0) ++ leBytes 8 s.plt.lmc

/-- The evidence (R561): the alias key is named by the measurement. -/
def evidence (s : State) (nonce : List Byte) : List Byte :=
  let m := measurement s
  let head := evidenceHead s nonce
  head ++ leBytes 96 (Config.sign m.toNat (Config.sha384 head)).toNat ++ Config.certificates m

/-- An attestation read ends: the evidence is written at ADDR + 64, or the read failed (R561, R596). R597 names the writes that have
Relaxed Ordering, and the evidence is none of them. -/
def endAttest (s : State) (nonce : Option (List Byte)) : State :=
  if getF s F.pltAttest.status != 1 || s.pcie.waiting.any (fun c => match c with | .attest _ => true | _ => false) then s
  else
    match nonce with
    | none => putF s F.pltAttest.status 2
    | some bs =>
      putF (emit s (.hostWrite (pasidOf s 0) (getF s F.pltAttest.addr * 4096 + 64) false (evidence s (bs.take 48)))) F.pltAttest.status 0

/-- A wrap read ends: the wrapping key is set, or the read failed or gave no point of the curve (R560, R596). -/
def endEstablish (s : State) (peer : Option (List Byte)) : State :=
  if getF s F.pltWrapCtl.status != 1 || s.pcie.waiting.any (fun c => match c with | .establish _ => true | _ => false) then s
  else
    match peer with
    | none => putF s F.pltWrapCtl.status 2
    | some bs =>
      match Config.wrapSession (activeBytes s 4 48) (activeBytes s 52 48) (bs.take 96) with
      | none => putF s F.pltWrapCtl.status 3
      | some k => putF { s with plt := { s.plt with wrapKey := some k } } F.pltWrapCtl.status 0

/-! ## The burn of a generation (R548, R549) -/

/-- FUSE_STATUS.BURN_STATUS. -/
def burnStatus (s : State) (st : Nat) : State := putF s F.fuseStatus.burnStatus st

/-- A BURN ends: FUSE_NONCE changes, whatever the outcome. -/
def endBurn (s : State) (st : Nat) : State :=
  burnStatus { s with plt := { s.plt with burning := none, nonceNo := s.plt.nonceNo + 1 } } st

/-- `n` bytes of FUSE_AUTH from offset `o`, as a number. -/
def authField (s : State) (o n : Nat) : Nat :=
  leNat ((List.range n).map (fun i => BitVec.ofNat 8 (getF s (F.fuseAuth.data.at ((o + i) / 8)) / 256 ^ ((o + i) % 8))))

/-- The key whose hash authorises a BURN: the owner's, or the root's where there is none. -/
def burnAuthority (s : State) : Nat := if ownerHash s = 0 then rootHash s else ownerHash s

/-- The staged slot is signed by that key, with the nonce. -/
def burnAuthorised (s : State) : Bool :=
  let key : BitVec 768 := BitVec.ofNat 768 (authField s 0 96)
  burnAuthority s != 0 && (keyId key).toNat == burnAuthority s &&
    Config.ecdsaVerify key (Config.sha384 ((stageBytes s).take 508 ++ leBytes 8 (Config.fuseNonce s.plt.nonceNo)))
      (BitVec.ofNat 384 (authField s 96 48)) (BitVec.ofNat 384 (authField s 144 48))

/-- The staged slot has its CRC right and REVOKE zero. -/
def stageGood (s : State) : Bool :=
  let bs := stageBytes s
  leNat ((bs.drop 504).take 4) == (crc32 (bs.take 504)).toNat && leNat (bs.drop 508) == 0

/-- The lowest slot above the active one whose bits are all zero. -/
def freeSlotAbove (s : State) : Option (Fin 4) :=
  match s.plt.activeSlot with
  | none => none
  | some a => ([0, 1, 2, 3] : List (Fin 4)).find? (fun k => decide (a < k) && !slotUsed s k.val)

/-- BURN: the checks, and the start of the burn. -/
def doBurn (s : State) : State :=
  if s.plt.burning.isSome then s
  else if isSet s F.fuseCtl.fuseLock then endBurn s 6
  else if !burnAuthorised s then endBurn s 2
  else if !stageGood s then endBurn s 3
  else
    match freeSlotAbove s with
    | none => endBurn s 4
    | some k => burnStatus { s with plt := { s.plt with burning := some (k, stageBytes s) } } 1

/-- BURN (CMD 1 of FUSE_CTL). -/
def execBurn (s : State) : Host.Outcome State Fault Refusal := actAwake s (serves s 1) .burn doBurn

/-- What a slot holds whose read-back failed: anything that is not all zero and is never an active generation (R549). -/
def spoilSlot (s : State) (k : Nat) : State :=
  let bs := (List.range 512).map (fun i => BitVec.ofNat 8 (Config.choice (s.fresh + i)))
  let s1 := burnSlot { s with fresh := s.fresh + 512 } k bs
  if slotUsed s1 k && !slotLives s1 k then s1 else burnSlot s1 k (List.replicate 512 255)

/-- BURN_COMPLETE: the read-back agrees and the old slot is revoked, or it fails. -/
def finishBurn (s : State) (readbackOk : Bool) : State :=
  match s.plt.burning with
  | none => s
  | some (k, staged) =>
    if readbackOk then
      let s1 := burnSlot s k.val staged
      endBurn (match s1.plt.activeSlot with | some a => revokeSlot s1 a.val | none => s1) 0
    else endBurn (spoilSlot s k.val) 5

/-- BURN_COMPLETE. -/
def execBurnComplete (readbackOk : Bool) (s : State) : Host.Outcome State Fault Refusal :=
  act s s.plt.mainRails (fun s => finishBurn s readbackOk)

end Sys2Proof.Machine
end

