-- ==== Sys2Proof/Machine/Sampling.lean ====
section
/-! DEFINITION. Sampling and the acceptance of a candidate tree, over exact weights: a distribution is a list of weights by token, of
which a token's probability is its part of their sum (R251, R264, R270 to R272, R278, R279). -/

namespace Sys2Proof.Machine

open Sys2Proof

/-! ## Draws -/

/-- The random state of a request, and the number of the part's next free value (R226; log entry 2). -/
structure Draw where
  rng : BitVec 128
  fresh : Nat
deriving DecidableEq, Repr

/-- A uniform draw in units of 2^-64; RNG_STATE advances once. -/
def uniform (d : Draw) : Nat × Draw := ((Config.rngDraw d.rng).1 % 2 ^ 64, { d with rng := (Config.rngDraw d.rng).2 })

/-- A value that the manual leaves open, below `n`. -/
def freeBelow (n : Nat) (d : Draw) : Nat × Draw := (Config.choice d.fresh % max 1 n, { d with fresh := d.fresh + 1 })

/-- The weight of a token. -/
def massOf (p : List Nat) (x : Nat) : Nat := (p[x]?).getD 0

/-- The token at which the running sum of the weights passes a threshold. -/
def tokenAt : List Nat → Nat → Nat
  | [], _ => 0
  | w :: p, t => if t < w then 0 else tokenAt p (t - w) + 1

/-- A token drawn from a distribution; a free one where nothing is left to draw from. -/
def drawToken (p : List Nat) (d : Draw) : Nat × Draw :=
  let u := uniform d
  if p.sum = 0 then freeBelow p.length u.2 else (tokenAt p (u.1 * p.sum / 2 ^ 64), u.2)

/-! ## The distribution of a row of logits (R251) -/

/-- The place of an FP32 value in the order of the reals; both zeros are one. -/
def fp32Key (w : BitVec 32) : Int := if w.getLsbD 31 then -((w.toNat % 2 ^ 31 : Nat) : Int) else (w.toNat : Int)

/-- An FP32 value is a NaN. -/
def fp32IsNan (w : BitVec 32) : Bool := 0x7F800000 < w.toNat % 2 ^ 31

/-- The first of the largest elements: its index and value. -/
def largest {α : Type} (lt : α → α → Bool) : List α → Option (Nat × α)
  | [] => none
  | a :: l =>
    match largest lt l with
    | none => some (0, a)
    | some (k, b) => if lt a b then some (k + 1, b) else some (0, a)

/-- The token with the largest logit, the lowest token value on a tie; a free one where a logit is a NaN. -/
def argmaxLogit (logits : List (BitVec 32)) (d : Draw) : Nat × Draw :=
  if logits.any fp32IsNan then freeBelow logits.length d
  else (((largest (fun a b => decide (fp32Key a < fp32Key b)) logits).map (·.1)).getD 0, d)

/-- TEMPERATURE is 0. -/
def isGreedy (temperature : BitVec 32) : Bool := temperature.toNat % 2 ^ 31 == 0

/-- The tokens by descending weight, the lower token value first among equals. -/
def ranked (p : List Nat) : List Nat :=
  (List.range p.length).mergeSort (fun a b => decide (massOf p b < massOf p a) || (massOf p a == massOf p b && decide (a ≤ b)))

/-- An FP32 value from 0 to 1 as a numerator and a power of two. -/
def fp32Ratio (w : BitVec 32) : Nat × Nat :=
  let e := w.toNat / 2 ^ 23 % 256
  let f := w.toNat % 2 ^ 23
  if e = 0 then (f, 149) else if e ≤ 150 then (2 ^ 23 + f, 150 - e) else ((2 ^ 23 + f) * 2 ^ (e - 150), 0)

/-- The shortest leading run of tokens whose weights, over `total`, sum to at least TOP_P. -/
def leadingRun (p : List Nat) (top : Nat × Nat) (total : Nat) : List Nat → Nat → List Nat
  | [], _ => []
  | x :: l, sum =>
    if top.1 * total ≤ (sum + massOf p x) * 2 ^ top.2 then [x] else x :: leadingRun p top total l (sum + massOf p x)

/-- A distribution with only some tokens kept. -/
def keepOnly (p : List Nat) (ks : List Nat) : List Nat := (List.range p.length).map (fun x => if ks.contains x then massOf p x else 0)

/-- The distribution of a row of logits under a request's sampling fields: all its weight on one token where TEMPERATURE is 0. -/
def distOf (e : Entry) (logits : List (BitVec 32)) (d : Draw) : List Nat × Draw :=
  if isGreedy e.temperature then
    let x := argmaxLogit logits d
    ((List.range logits.length).map (fun t => if t = x.1 then 1 else 0), x.2)
  else
    let p := Config.softmax e.temperature logits
    let order := if e.topK = 0 then ranked p else (ranked p).take e.topK
    (keepOnly p (leadingRun p (fp32Ratio e.topP) ((order.map (massOf p)).sum) order 0), d)

/-- The token that a distribution gives: its only one where TEMPERATURE is 0, a drawn one otherwise. -/
def takeToken (greedy : Bool) (p : List Nat) (d : Draw) : Nat × Draw :=
  if greedy then (tokenAt p 0, d) else drawToken p d

/-- The logarithm of a token's probability. -/
def logOf (p : List Nat) (x : Nat) : BitVec 32 := Config.logprob (massOf p x * 2 ^ 64 / max 1 p.sum)

/-! ## Acceptance (R270) -/

/-- What is known of the draft distribution at a candidate: all of it in units of 2^-64, the probability of the candidate alone as a
numerator over a power of two, an infinite one, or a point mass. -/
inductive DraftProb where
  | all (q : List Nat)
  | one (num log2 : Nat)
  | infinite
  | point
deriving DecidableEq, Repr

/-- The Q field of a candidate, where HAS_PROB is set and Q is above 0. -/
def qField (q : BitVec 16) : DraftProb :=
  let e := q.toNat / 2 ^ 7 % 256
  let f := q.toNat % 2 ^ 7
  if q.getLsbD 15 || q.toNat == 0 || (e == 255 && f != 0) then .point
  else if e = 255 then .infinite
  else if e = 0 then .one f 133
  else if e ≤ 134 then .one (128 + f) (134 - e)
  else .one ((128 + f) * 2 ^ (e - 134)) 0

/-- q(x) as a numerator over a denominator; an infinite one has denominator 0. -/
def probOf (q : DraftProb) (x : Nat) : Nat × Nat :=
  match q with
  | .all l => (massOf l x, 2 ^ 64)
  | .one a k => (a, 2 ^ k)
  | .infinite => (1, 0)
  | .point => (1, 1)

/-- A uniform draw is below min(1, p(x) ÷ q(x)); where p(x) and q(x) are both 0 the manual gives no quotient, and it is open. -/
def passes (p : List Nat) (q : DraftProb) (x : Nat) (d : Draw) : Bool × Draw :=
  let u := uniform d
  let a := probOf q x
  if massOf p x * a.2 = 0 ∧ a.1 * p.sum = 0 then
    let f := freeBelow 2 u.2
    (f.1 == 0, f.2)
  else (decide (u.1 * a.1 * p.sum < massOf p x * a.2 * 2 ^ 64), u.2)

/-- The weights of normalise(max(0, p - q)) after a rejection at `x`. -/
def residual (p : List Nat) (q : DraftProb) (x : Nat) : List Nat :=
  match q with
  | .all l => (List.range p.length).map (fun t => massOf p t * 2 ^ 64 - massOf l t * p.sum)
  | .one a k => (List.range p.length).map (fun t => if t = x then massOf p t * 2 ^ k - a * p.sum else massOf p t * 2 ^ k)
  | .infinite | .point => (List.range p.length).map (fun t => if t = x then 0 else massOf p t)

/-- The token of node `k` of a tree other than the root. -/
def nodeToken (tree : List CandNode) (k : Nat) : Nat := ((tree[k - 1]?).map (·.token)).getD 0

/-- The children of node `j`, ascending. -/
def childrenOf (tree : List CandNode) (j : Nat) : List Nat :=
  ((List.range tree.length).filter (fun k => ((tree[k]?).map (·.parent)) == some j)).map (· + 1)

/-- The source of the draft probabilities of a tree. -/
structure TreeProb where
  source : TreeSource
  hasProb : Bool
  requestId : Nat
  position : Nat
deriving DecidableEq, Repr

/-- What is known of the draft distribution at node `j` for its child `c`. -/
def draftProb (t : TreeProb) (tree : List CandNode) (j c : Nat) : DraftProb :=
  if t.source == .draftHead then .all (Config.draftDist t.requestId t.position j)
  else if t.hasProb then qField (((tree[c - 1]?).map (·.q)).getD 0) else .point

/-- The first child that is accepted, with what is left of the distribution. -/
def acceptChild (greedy : Bool) (t : TreeProb) (tree : List CandNode) (j : Nat) :
    List Nat → List Nat → Draw → Option Nat × List Nat × Draw
  | [], p, d => (none, p, d)
  | c :: cs, p, d =>
    let x := nodeToken tree c
    if greedy then
      if x = tokenAt p 0 ∧ massOf p x ≠ 0 then (some c, p, d) else acceptChild greedy t tree j cs p d
    else
      let q := draftProb t tree j c
      let r := passes p q x d
      if r.1 then (some c, p, r.2) else acceptChild greedy t tree j cs (residual p q x) r.2

/-- The outcome of a tree: the path, the LOGPROB of each of its tokens but the root's, whether it was cut, the next root with its
LOGPROB, and the draws. -/
structure Accepted where
  path : List Nat
  logs : List (BitVec 32)
  cut : Bool
  root : Nat
  rootLog : BitVec 32
  draw : Draw
deriving DecidableEq, Repr

/-- The walk from node `j` down (R270), cut at the nodes that `ends` names (R272); `fuel` bounds the depth. -/
def walkTree (e : Entry) (t : TreeProb) (tree : List CandNode) (logits : List (List (BitVec 32))) (ends : Nat → Bool) :
    Nat → Nat → List Nat → List (BitVec 32) → Draw → Accepted
  | 0, _, path, logs, d => { path := path, logs := logs, cut := true, root := 0, rootLog := 0, draw := d }
  | fuel + 1, j, path, logs, d =>
    if ends j then { path := path, logs := logs, cut := true, root := 0, rootLog := 0, draw := d }
    else
      let p := distOf e ((logits[j]?).getD []) d
      let r := acceptChild (isGreedy e.temperature) t tree j (childrenOf tree j) p.1 p.2
      match r.1 with
      | some c => walkTree e t tree logits ends fuel c (path ++ [c]) (logs ++ [logOf p.1 (nodeToken tree c)]) r.2.2
      | none =>
        let x := takeToken (isGreedy e.temperature) r.2.1 r.2.2
        { path := path, logs := logs, cut := false, root := x.1, rootLog := logOf p.1 x.1, draw := x.2 }

/-! ## The tree of a step (R264) -/

/-- Depths of the nodes 1 and on of a list whose parents precede them. -/
def depths (l : List CandNode) : List Nat :=
  l.foldl (fun ds n => ds ++ [(if n.parent = 0 then 0 else (ds[n.parent - 1]?).getD 0) + 1]) []

/-- The nodes of depth at most TREE_DEPTH, numbered densely with their parents' new numbers; parents precede children. -/
def dropDeep (limit : Nat) (l : List CandNode) : List CandNode :=
  let kept := ((List.range l.length).zip (depths l)).filter (fun x => decide (x.2 ≤ limit))
  let number (k : Nat) : Nat := if k = 0 then 0 else (kept.findIdx (fun x => x.1 + 1 == k)) + 1
  kept.filterMap (fun x => (l[x.1]?).map (fun n => { n with parent := number n.parent }))

/-- The tree that a step verifies, at most `limit` nodes with the root. -/
def cutTree (depth limit : Nat) (l : List CandNode) : List CandNode := (dropDeep depth l).take (limit - 1)

/-! ## WIDTH (R278, R279) -/

/-- WIDTH after the commit of a verifying step of which `a` candidates were accepted. -/
def widthAfter (rejectLimit recoverCount widest : Nat) (d : DraftState) (a : Nat) : DraftState :=
  if a = 0 then
    if d.rejectRun + 1 < rejectLimit then { d with rejectRun := d.rejectRun + 1, acceptRun := 0 }
    else { d with width := d.width / 2, rejectRun := 0, acceptRun := 0, probeWait := 0 }
  else if d.acceptRun + 1 < recoverCount || d.width == widest then
    { d with acceptRun := min 255 (d.acceptRun + 1), rejectRun := 0 }
  else { d with width := min widest (max 1 (2 * d.width)), acceptRun := 0, rejectRun := 0 }

/-- DRAFT_STATE after a commit of a step with `n` candidates of which `a` were accepted, PROBE_WAIT included. -/
def draftAfter (rejectLimit recoverCount widest : Nat) (probe : Bool) (d : DraftState) (n a : Nat) : DraftState :=
  if n = 0 then (if d.width = 0 then { d with probeWait := min 255 (d.probeWait + 1) } else d)
  else
    let x := if probe then { d with probeWait := 0 } else d
    { widthAfter rejectLimit recoverCount widest x a with
      proposed := (d.proposed + n) % 2 ^ 32, accepted := (d.accepted + a) % 2 ^ 32 }

end Sys2Proof.Machine
end

