-- ==== Sys2Proof/Machine/Sched.lean ====
section
/-! DEFINITION. The region scheduler: ready work, the deficit scheme, the forming of a step and its batch, the dispatch, completion and
preemption of units (R264 to R267, R396 to R406, R408). -/

namespace Sys2Proof.Machine

open Sys2Proof

/-! ## The next unit of a request (R229, R277, R357) -/

/-- What the next step of a request does, and the positions that it covers. -/
structure NextWork where
  kind : StepKind
  position : Nat
  upTo : Nat
deriving DecidableEq, Repr

/-- The next work of entry `i`: its lowest dropped block, then one page block of its input, then a redraw or a decode. -/
def nextWork (s : State) (i : Nat) : Option NextWork :=
  let e := entryOf s i
  match droppedBlocks s i with
  | b :: _ => some { kind := .recompute, position := 64 * b, upTo := min (64 * b + 64) e.length }
  | [] =>
    let n := (inputTokens s i).length
    if e.state == .handoffIn then none
    else if e.state == .prefill && n != 0 then
      some { kind := .prefill, position := e.length, upTo := min (64 * (e.length / 64) + 64) (e.length + n) }
    else if e.state == .done then none
    else if e.draft.redraw || !e.draft.rootValid then some { kind := .redraw, position := e.length, upTo := e.length }
    else some { kind := .decode, position := e.length, upTo := e.length + 1 }

/-- The order of victims (R353): lowest PRIORITY, latest DEADLINE with 0 counted as latest, oldest LAST_COMMIT_LMC, highest index. -/
def victimBefore (s : State) (i j : Nat) : Bool :=
  let a := entryOf s i
  let b := entryOf s j
  let da := if a.deadline = 0 then 2 ^ 64 else a.deadline
  let db := if b.deadline = 0 then 2 ^ 64 else b.deadline
  if a.priority != b.priority then decide (a.priority < b.priority)
  else if da != db then decide (db < da)
  else if a.lastCommitLmc != b.lastCommitLmc then decide (a.lastCommitLmc < b.lastCommitLmc)
  else decide (j < i)

/-- The entries of composition `c` in a state, ascending. -/
def entriesIn (s : State) (c : Nat) (p : Entry → Bool) : List Nat :=
  tabKeys s.rqt.entries (fun e => e.composition.val == c && p e)

/-- The DROPPED request of composition `c` that is recomputed next: the highest-ranked, only while no stack of the composition is under
pressure (R357). -/
def recomputable (s : State) (c i : Nat) : Bool :=
  (entryOf s i).state == .dropped && !underPressure s c &&
    (entriesIn s c (fun e => e.state == .dropped)).all (fun j => j == i || !victimBefore s i j)

/-- A DROPPED request begins the PREFILL that recomputes its blocks (R228, R357). -/
def startRecompute (s : State) (i : Nat) : State :=
  setInput (modEntry s i (fun e => { e with state := .prefill })) i (some { tokens := [], forced := false, after := .decode })

/-- The PREFILL of a DROPPED request ends in DECODE without a commit. -/
def endRecompute (s : State) (i : Nat) : State := applyHeld (setInput (modEntry s i (fun e => { e with state := .decode })) i none) i

/-- A DROPPED request is scheduled: its PREFILL begins, and ends at once where a TRUNCATE has left no block to recompute. -/
def scheduleDropped (s : State) (i : Nat) : State :=
  if (droppedBlocks s i).isEmpty then endRecompute (startRecompute s i) i else startRecompute s i

/-! ## Ready work (R397) -/

/-- Step `k` runs a unit now. -/
def stepRuns (s : State) (k : Nat) : Bool :=
  (List.range 64).any (fun n => match runningUnit s n with | some u => u.step == k | none => false)

/-- A step of entry `i` runs, or has completed and awaits its commit. -/
def stepBusy (s : State) (i : Nat) : Bool :=
  match stepFor s i with
  | none => false
  | some k => stepRuns s k || (match stepOf s k with | some st => st.complete | none => false)

/-- A PROMPT composition under pressure starts no new PREFILL (R352). -/
def prefillHeld (s : State) (c i : Nat) : Bool :=
  roleOf s c == .prompt && underPressure s c && (entryOf s i).state == .prefill &&
    (match inputOf s i with | some x => !x.started | none => false)

/-- Entry `i` is in a state that has work. -/
def workState (s : State) (c i : Nat) : Bool :=
  let e := entryOf s i
  match e.state with
  | .prefill | .decode => !e.resyncPending
  | .dropped => recomputable s c i && !e.resyncPending
  | .handoffIn => match inputOf s i with | some x => x.after == .resync | none => false
  | .done => parkWaits s i
  | _ => false

/-- Entry `i` has ready work in composition `c`. -/
def hasWork (s : State) (c i : Nat) : Bool :=
  let e := entryOf s i
  e.composition.val == c && (shareOf s c e.tenant.val).isSome && workState s c i && 1 ≤ ringFree s e.tenant.val &&
    !isWaiting s i && !(tabGet false s.rqt.taken i) && (nextWork s i).isSome && !prefillHeld s c i && !stepBusy s i

/-- The requests of composition `c` with ready work that `p` admits, ascending. -/
def readyEntries (s : State) (c : Nat) (p : Nat → Bool) : List Nat :=
  (entriesIn s c (fun e => e.state != .free)).filter (fun i => hasWork s c i && p i)

/-- The order of requests within a tenant (R398): highest PRIORITY, earliest DEADLINE with 0 counted as latest, oldest ADMIT_LMC, lowest
entry index. -/
def turnBefore (s : State) (i j : Nat) : Bool :=
  let a := entryOf s i
  let b := entryOf s j
  let da := if a.deadline = 0 then 2 ^ 64 else a.deadline
  let db := if b.deadline = 0 then 2 ^ 64 else b.deadline
  if a.priority != b.priority then decide (b.priority < a.priority)
  else if da != db then decide (da < db)
  else if a.admitLmc != b.admitLmc then decide (a.admitLmc < b.admitLmc)
  else decide (i < j)

/-- The first request of a list under R398. -/
def firstTurn (s : State) : List Nat → Option Nat
  | [] => none
  | i :: l => some (l.foldl (fun a b => if turnBefore s b a then b else a) i)

/-! ## The deficit scheme (R400, R401) -/

/-- The tenants with a share in composition `c`, ascending. -/
def shareTenants (s : State) (c : Nat) : List Nat := (s.sch.shares.filter (fun e => e.1 / 4096 == c)).map (fun e => e.1 % 4096)

/-- The weight and the deficit of a tenant's share. -/
def weightFor (s : State) (c t : Nat) : Nat := ((shareOf s c t).map (·.weight)).getD 0
def deficitOf (s : State) (c t : Nat) : Int := ((shareOf s c t).map (·.deficit)).getD 0

/-- A tenant's deficit set. -/
def putDeficit (s : State) (c t : Nat) (d : Int) : State :=
  match shareOf s c t with
  | some sh => { s with sch := { s.sch with shares := tabPut none s.sch.shares (shareKey c t) (some { sh with deficit := d }) } }
  | none => s

/-- The round pointer of composition `c` set to a tenant. -/
def setPointer (s : State) (c t : Nat) : State := setComp s c ((compOf s c).map (fun x => { x with pointer := t }))

/-- The round pointer advances past a tenant. -/
def advancePointer (s : State) (c t : Nat) : State :=
  setPointer s c (((shareTenants s c).find? (fun u => decide (t < u))).getD 0)

/-- The round pointer goes over tenants up to one that has ready work and a deficit above 0; a tenant without ready work keeps no
credit. -/
def roundFrom (c : Nat) (ready : Nat → Bool) : List Nat → State → Option Nat × State
  | [], s => (none, s)
  | t :: l, s =>
    if ready t && decide (0 < deficitOf s c t) then (some t, s)
    else roundFrom c ready l (if ready t then s else putDeficit s c t (min (deficitOf s c t) 0))

/-- The wraps that a tenant needs until its deficit is above 0. -/
def wrapsNeeded (s : State) (c q t : Nat) : Nat :=
  if 0 < deficitOf s c t then 1 else (-(deficitOf s c t)).toNat / max 1 (weightFor s c t * q) + 1

/-- The credit of `k` wraps of the pointer for the tenants with ready work. -/
def creditAll (s : State) (c q k : Nat) (ts : List Nat) : State :=
  ts.foldl (fun u t =>
    let a := weightFor u c t * q
    putDeficit u c t (min (deficitOf u c t + (k * a : Nat)) (a : Nat))) s

/-- `pick` of R401: the tenant that receives the next unit. Rounds in which no tenant comes above 0 are taken together. -/
def pickTenant (s : State) (c : Nat) (ready : Nat → Bool) : Option Nat × State :=
  let ts := shareTenants s c
  let rs := ts.filter ready
  match rs with
  | [] => (none, s)
  | r0 :: _ =>
    let p := ((compOf s c).map (·.pointer)).getD 0
    let tail := if (ts.filter (fun t => p ≤ t)).isEmpty then ts else ts.filter (fun t => p ≤ t)
    let a := roundFrom c ready tail s
    match a.1 with
    | some t => (some t, setPointer a.2 c t)
    | none =>
      let q := getF s (F.schCompCfg.quantumNs.at c)
      let k := rs.foldl (fun m t => min m (wrapsNeeded a.2 c q t)) (wrapsNeeded a.2 c q r0)
      let s1 := if 1 < k then (ts.filter (fun t => !ready t)).foldl (fun u t => putDeficit u c t (min (deficitOf u c t) 0)) a.2
        else a.2
      let b := roundFrom c ready ts (creditAll s1 c q k rs)
      (b.1, match b.1 with
        | some t => setPointer b.2 c t
        | none => b.2)

/-! ## The tree of a step (R264 to R268, R279) -/

/-- A host slot that fails any check other than the first two is counted (R267, R284). -/
def refuseSlot (s : State) (t : Nat) : State :=
  let s1 := satF s F.rqtSpecErr.refused
  if isSet s F.rqtSpecErr.valid then s1 else putF (putF s1 F.rqtSpecErr.tenant t) F.rqtSpecErr.valid 1

/-- Every candidate names a parent before it and a token of the vocabulary (R262, R265, R267). -/
def treeGood (d : ModelDescriptor) (l : List CandNode) : Bool :=
  l.length ≤ 63 && (l.zipIdx).all (fun x => decide (x.1.parent < x.2 + 1) && decide (x.1.token < d.vocab))

/-- The later checks of R267. -/
def slotGood (d : ModelDescriptor) (c : CandSlot) : Bool :=
  c.seqHead == c.seqTail && decide (2 ≤ c.nodes) && decide (c.nodes ≤ 64) && treeGood d c.list

/-- The host address of the candidate slot of entry `i` (R266). -/
def slotAddress (s : State) (i : Nat) : Nat :=
  let e := entryOf s i
  let t := e.tenant.val
  1024 * (getF s (F.rqtTCandBase.base.at t) + e.requestId % 2 ^ 52 % 2 ^ getF s (F.rqtTSpecCtl.candLog2.at t))

/-- The host slot's tree for entry `i`, where it may be used; the part reads the slot under the tenant's PASID. -/
def hostTree (s : State) (i : Nat) (d : ModelDescriptor) (bytes : Option (List Byte)) : Option CandSlot × State :=
  let e := entryOf s i
  let s1 := readHost s e.tenant.val (slotAddress s i) 1024
  match bytes.map decodeSlot with
  | none => (none, s1)
  | some x =>
    let s2 := if slotGood d x then s1 else refuseSlot s1 e.tenant.val
    (if slotGood d x && x.requestId == e.requestId && x.rootPosition == e.length then some x else none, s2)

/-- A probe is due at WIDTH 0 (R279). -/
def probeDue (s : State) (e : Entry) : Bool :=
  e.draft.width == 0 && getF s F.rqtSpecCtl.probeInterval != 0 && decide (getF s F.rqtSpecCtl.probeInterval ≤ e.draft.probeWait)

/-- N of R264 for entry `i` as far as the part's own limits go. -/
def treeLimit (s : State) (i : Nat) (d : ModelDescriptor) : Nat :=
  let e := entryOf s i
  let w := if probeDue s e then 1 else e.draft.width
  min (min (w + 1) (max 1 d.treeNodes)) (64 - e.length % 64)

/-- The tree of the next decoding step of entry `i`, with its source. -/
structure ChosenTree where
  tree : List CandNode := []
  source : TreeSource := .none
  hasProb : Bool := false
  hostSeq : Nat := 0
deriving DecidableEq, Repr

/-- The draft head's tree for the root of entry `i`, where it is a valid one (R265, R268). -/
def draftTree (s : State) (i : Nat) (d : ModelDescriptor) (n : Nat) : ChosenTree :=
  let l := tabGet [] s.rqt.drafts i
  if d.draft = 1 ∧ l ≠ [] ∧ treeGood d l then { tree := cutTree d.treeDepth n l, source := .draftHead } else {}

/-- The first source that the tenant's selection allows and that yields a tree (R265). Only GENERATION compositions verify trees
(R25, R34). -/
def chooseTree (s : State) (i : Nat) (d : ModelDescriptor) (slot : Option (List Byte)) : ChosenTree × State :=
  let n := treeLimit s i d
  let source := if roleOf s (entryOf s i).composition.val == .generation then
      getF s (F.rqtTSpecCtl.source.at (entryOf s i).tenant.val)
    else 0
  let h := if source = 2 ∨ source = 3 then hostTree s i d slot else (none, s)
  let draft : ChosenTree := if source = 1 ∨ source = 3 then draftTree s i d n else {}
  match h.1 with
  | some x => ({ tree := cutTree d.treeDepth n (x.list.take (x.nodes - 1)), source := .host, hasProb := x.hasProb, hostSeq := x.seqHead }, h.2)
  | none => (draft, h.2)

/-! ## Preparing a request's part of a step (R183, R198, R231, R261) -/

/-- Block `b` stays marked as dropped while its pages are written again, and keeps its PUBLISHED bit. -/
def keepDropped (old : Manifest) (s : State) (i b layers : Nat) : State :=
  (List.range layers).foldl (fun t l =>
    let e := pageEntry (manifestOf t i) l b
    if e.valid then setPageEntry t i l b { e with dropped := true, published := (pageEntry old l b).published } else t) s

/-- The pages and the history units that a request's part writes; the stack for which it waits (32: manifest units). -/
def takePages (s : State) (x : Composition) (d : ModelDescriptor) (i : Nat) (w : NextWork) : Option Nat × State :=
  if w.kind == .redraw then (none, s)
  else
    let r := needTails x d i (pagesBetween d w.position (w.upTo - 1)) s
    let s1 := if w.kind == .recompute then keepDropped (manifestOf s i) r.2 i (w.position / 64) d.layers else r.2
    match r.1 with
    | some st => (some st, s1)
    | none =>
      let h := needHistory s1 i w.upTo
      (if h.1 then none else some 32, h.2)

/-- The source of a tree that a step uses, and SEQ_HEAD of a host slot, stand in DRAFT_STATE (R281). -/
def noteSource (s : State) (i : Nat) (t : ChosenTree) : State :=
  if t.source == .none then s
  else modEntry s i (fun e => { e with draft := { e.draft with
    source := t.source, hostSeq := if t.source == .host then t.hostSeq else e.draft.hostSeq } })

/-- The part of a step for entry `i`; none where an allocation waits. -/
def preparePart (s : State) (x : Composition) (d : ModelDescriptor) (i : Nat) (w : NextWork) (slot : Option (List Byte)) :
    Option StepReq × State :=
  let s0 := if (entryOf s i).state == .dropped then scheduleDropped s i else s
  let r := takePages s0 x d i w
  match r.1 with
  | some st => (none, waitFor r.2 i st)
  | none =>
    let e := entryOf r.2 i
    let t := if w.kind == .decode then chooseTree r.2 i d slot else ({}, r.2)
    let s1 := noteSource (setInput t.2 i ((inputOf t.2 i).map (fun y => { y with started := true }))) i t.1
    (some { index := i, requestId := e.requestId, arbSeq := e.arbSeq, kind := w.kind, valid := true, position := w.position,
            upTo := w.upTo, tree := t.1.tree, hasProb := t.1.hasProb, source := t.1.source,
            probe := probeDue s e && !t.1.tree.isEmpty, pagesRead := 0 }, s1)

/-! ## Which work a kernel serves (R396, R402, R405) -/

/-- A step kind is that of layer units. -/
def isLayerKind (k : StepKind) : Bool := k == .decode || k == .redraw

/-- The host candidate slot that was read for entry `i`. -/
def slotFor (cs : List (Nat × List Byte)) (i : Nat) : Option (List Byte) := (cs.find? (fun e => e.1 == i)).map (·.2)

/-- The query positions of the next work of entry `i`, with the tree that it would verify (R193). -/
def positionsNext (s : State) (i : Nat) (w : NextWork) (slot : Option (List Byte)) : Nat :=
  match w.kind, descOf s (entryOf s i).composition.val with
  | .decode, some d => 1 + (chooseTree s i d slot).1.tree.length
  | .decode, none | .redraw, _ => 1
  | _, _ => w.upTo - w.position

/-- The unit's layer work is routed to stack attention without a READY slot (R196, R397). -/
def lacksMicrocode (s : State) (c : Nat) (work : Option LayerWork) (count : Nat) : Bool :=
  match work with
  | some w => !w.queries.isEmpty && routeOf s c w.layer count == .wait
  | none => false

/-- A save slot of region `n` is free. -/
def hasFreeSave (s : State) (n : Nat) : Bool := (List.range 4).any (fun j => (saveOf s n j).isNone)

/-- The region that step `k` holds in place after the end of a unit. -/
def heldRegion (s : State) (k : Nat) : Option Nat :=
  (List.range 64).find? (fun n => match (regionOf s n).running with | some u => u.step == k && u.ended | none => false)

/-- The next unit of step `k` may be the kernel on region `r`: a context stopped inside its kernel goes on with it, and a step that holds
another region can leave it. -/
def stepFits (s : State) (r : Nat) (kernel : Kernel) (work : Option LayerWork) (k : Nat) : Bool :=
  match stepOf s k with
  | none => false
  | some st =>
    !st.complete && (st.begun || st.reqs.all (fun q => isLayerKind q.kind == (kernel.unit == 1))) &&
      !(st.reqs.any (fun q => lacksMicrocode s st.comp work (positionsOf q))) &&
      (match st.save with
      | some (m, j) => match saveOf s m j with | some x => x.atExit || x.kernel == kernel.id | none => true
      | none => match heldRegion s k with | some m => m == r || hasFreeSave s m | none => true)

/-- The kernel may be the next unit of entry `i` on region `r`; a handover begins no further step (R506). -/
def unitFits (s : State) (c r : Nat) (kernel : Kernel) (work : Option LayerWork) (cs : List (Nat × List Byte)) (i : Nat) : Bool :=
  match stepFor s i with
  | some k => stepFits s r kernel work k
  | none =>
    match nextWork s i with
    | some w => !s.twn.stopped && isLayerKind w.kind == (kernel.unit == 1) && 
      !lacksMicrocode s c work (positionsNext s i w (slotFor cs i))
    | none => false

/-! ## Forming a step (R402) -/

/-- Fills a batch by repeated picks of requests without a step, up to `limit` of them. -/
def fillBatch (c : Nat) (x : Composition) (d : ModelDescriptor) (fits : State → Nat → Bool) (cs : List (Nat × List Byte))
    (limit : Nat) : Nat → List StepReq → State → List StepReq × State
  | 0, batch, s => (batch, s)
  | fuel + 1, batch, s =>
    if limit ≤ batch.length then (batch, s)
    else
      let rs := readyEntries s c (fun i => (stepFor s i).isNone && fits s i && !(batch.any (fun q => q.index == i)))
      let p := pickTenant s c (fun t => rs.any (fun i => (entryOf s i).tenant.val == t))
      match p.1 with
      | none => (batch, p.2)
      | some t =>
        match firstTurn p.2 (rs.filter (fun i => (entryOf p.2 i).tenant.val == t)) with
        | none => (batch, p.2)
        | some i =>
          match nextWork p.2 i with
          | none => (batch, p.2)
          | some w =>
            let q := preparePart p.2 x d i w (slotFor cs i)
            match q.1 with
            | none => fillBatch c x d fits cs limit fuel batch q.2
            | some part => fillBatch c x d fits cs limit fuel (batch ++ [part]) (advancePointer q.2 c t)

/-! ## Dispatch (R396, R401, R404, R405) -/

/-- A part of a step that was discarded before its commit leaves it (R231). -/
def discardPart (s : State) (k : Nat) (q : StepReq) : State :=
  let s1 := leaveStep s k q.index
  let e := entryOf s1 q.index
  if e.state != .free && e.requestId == q.requestId then modEntry s1 q.index (fun e => { e with steps := (e.steps + 1) % 2 ^ 32 }) else s1

/-- The discarded parts of step `k` leave it. -/
def purgeStep (s : State) (k : Nat) : State :=
  match stepOf s k with
  | some st => (st.reqs.filter (fun q => !q.valid)).foldl (fun t q => discardPart t k q) s
  | none => s

/-- The discarded parts of the waiting steps of composition `c` leave them. -/
def purgeWaiting (s : State) (c : Nat) : State :=
  (tabKeys s.sch.steps (fun o => match o with | some st => st.comp == c && !st.complete | none => false)).foldl
    (fun t k => if stepRuns t k then t else purgeStep t k) s

/-- The step that takes region `r` leaves what it holds elsewhere, and its context comes to the region. -/
def bringStep (s : State) (r k : Nat) : State :=
  match heldRegion s k with
  | some m =>
    if m = r then s
    else
      match (regionOf s m).running with
      | some u =>
        match saveUnit s m u 0xFFFF with
        | some t => restoreContext t r k
        | none => s
      | none => s
  | none => restoreContext s r k

/-- A unit of step `k` begins on region `r` (R399, R406, R577): its threads take their leases (R180), its step rows are written and its
passes issued. -/
def startUnit (s : State) (r k : Nat) (kernel : Kernel) (work : Option LayerWork) : State :=
  let s1 := bringStep s r k
  let s2 := setRunning (wrapF s1 F.schStats.switches 1) r (some { step := k, kernel := kernel.id, start := s.plt.lmc, ended := false })
  let s3 := takeThreads { s2 with pwr := { s2.pwr with gated := tabPut false s2.pwr.gated r false } } r
  match stepOf s3 k with
  | none => s3
  | some st =>
    let st1 := { st with begun := true }
    let s4 := setStep s3 k (some st1)
    match work with
    | none => s4
    | some w => issuePasses (w.rows.foldl (fun t row => if row.layer = w.layer then writeRow t st1 row else t) s4) k st1 w

/-- Region `r` is free for another step: the step that holds it in place is saved; none where no save slot is free. -/
def leaveRegion (s : State) (r k : Nat) : Option State :=
  match (regionOf s r).running with
  | none => some s
  | some u => if u.step = k then some s else saveUnit s r u 0xFFFF

/-- A unit of step `k` goes to region `r`. Where another step holds the region and no save slot is free, the region is not preempted, and
the holder's next unit takes it in place. -/
def giveRegion (s : State) (r k : Nat) (kernel : Kernel) (work : Option LayerWork) : State :=
  match leaveRegion s r k with
  | some t => startUnit t r k kernel work
  | none =>
    let s1 := satF s F.schStats.noSlot
    match (regionOf s1 r).running with
    | some u => if stepFits s1 r kernel work u.step then startUnit s1 r u.step kernel work else s1
    | none => s1

/-- The new step that a picked request begins: a batch for a layer unit, the request alone for a kernel unit. -/
def beginStep (s : State) (c r : Nat) (x : Composition) (d : ModelDescriptor) (kernel : Kernel) (work : Option LayerWork)
    (cs : List (Nat × List Byte)) : Option Nat × State :=
  let limit := if kernel.unit = 1 then getF s (F.schCompCfg.batch.at c) else 1
  let b := fillBatch c x d (fun t i => unitFits t c r kernel work cs i) cs limit (s.rqt.entries.length + 1) [] s
  if b.1.isEmpty then (none, b.2)
  else
    let n := newStep b.2 { comp := c, reqs := b.1, begun := false, complete := false, save := none }
    (some n.1, n.2)

/-- The scheduler's choice for region `r` of composition `c`: the picked request's step goes on, or a new step begins. -/
def dispatch (s : State) (c r : Nat) (x : Composition) (d : ModelDescriptor) (kernel : Kernel) (work : Option LayerWork)
    (cs : List (Nat × List Byte)) : State :=
  let s0 := purgeWaiting s c
  let rs := readyEntries s0 c (fun i => unitFits s0 c r kernel work cs i)
  let p := pickTenant s0 c (fun t => rs.any (fun i => (entryOf s0 i).tenant.val == t))
  match p.1 with
  | none => p.2
  | some t =>
    match firstTurn p.2 (rs.filter (fun i => (entryOf p.2 i).tenant.val == t)) with
    | none => p.2
    | some i =>
      match stepFor p.2 i with
      | some k =>
        let s1 := giveRegion p.2 r k kernel work
        if kernel.unit = 1 then s1 else advancePointer s1 c t
      | none =>
        let b := beginStep p.2 c r x d kernel work cs
        match b.1 with
        | some k => giveRegion b.2 r k kernel work
        | none => b.2

/-- The part runs work: it is awake and no Mirror (R492). -/
def mayRun (s : State) : Bool := runs s && s.twn.role != .mirror

/-- UNIT_DISPATCH: SERVING region `r` is to run the kernel that its image requests next. -/
def execUnitDispatch (r : RegionNo) (kernel : Nat) (work : Option LayerWork) (slots : List (Nat × List Byte)) (s : State) :
    Host.Outcome State Fault Refusal :=
  actPages s (mayRun s && (regionOf s r.val).state == .serving && (runningUnit s r.val).isNone) (fun s =>
    match (regionOf s r.val).comp, kernelOf s r.val kernel with
    | some c, some k =>
      match compOf s c.val, descOf s c.val with
      | some x, some d => dispatch s c.val r.val x d k work slots
      | _, _ => s
    | _, _ => s)

/-! ## Completion (R209, R399, R404) -/

/-- One action of the unit's kernel: attention over pages, a merge, a row, or an action on Ivory. -/
def unitOp (n k : Nat) (s : State) (op : FabricOp) : State :=
  match op with
  | .attend thread layer window scale row first count rows => attendPages s n k thread.val layer window scale row first count rows
  | .merge index layer head query node format site cell dest => mergeRow s n k index layer head query node format site cell.val dest
  | .row w =>
    match stepOf s k with
    | some st => writeRow s st w
    | none => s
  | _ => fabricOp s n op

/-- The unit on region `n` ends: its actions are done, it is charged, and its step holds the region until the next dispatch, or has
completed. -/
def endUnit (s : State) (n : Nat) (u : Unit) (ops : List FabricOp) (last : Bool) : State :=
  let s1 := dropPasses (ops.foldl (unitOp n u.step) s) u.step
  let s2 := endThreads (chargeUnit s1 n) n
  let s3 := setRunning s2 n (if last then none else some { u with ended := true })
  match stepOf s3 u.step with
  | none => setRunning s3 n none
  | some st => if last then setStep s3 u.step (some { st with complete := true }) else purgeStep s3 u.step

/-- UNIT_COMPLETE: the unit's kernel has reached its end, and every pass of it has returned. `last` tells that the image's code requests
no further unit of the step. -/
def execUnitComplete (r : RegionNo) (ops : List FabricOp) (last : Bool) (s : State) : Host.Outcome State Fault Refusal :=
  act s (runs s) (fun s =>
    match runningUnit s r.val with
    | some u => if passesLeft s u.step then s else endUnit s r.val u ops last
    | none => s)

/-! ## Preemption points (R404, R405) -/

/-- A request of the running unit's tenant with a higher PRIORITY than every request of the unit has ready work. -/
def higherWaits (s : State) (c : Nat) (st : Step) : Bool :=
  (readyEntries s c (fun _ => true)).any (fun i =>
    st.reqs.any (fun q => q.requestId / 2 ^ 52 == (entryOf s i).tenant.val) &&
      st.reqs.all (fun q => decide ((entryOf s q.index).priority < (entryOf s i).priority)))

/-- The slice of the unit is over and a tenant with a deficit above 0 has ready work. -/
def sliceOver (s : State) (c : Nat) (u : Unit) : Bool :=
  decide (u.start + usCounts (getF s (F.schCompCfg.sliceUs.at c)) ≤ s.plt.lmc) &&
    (readyEntries s c (fun _ => true)).any (fun i => decide (0 < deficitOf s c (entryOf s i).tenant.val))

/-- The unit on region `n` stops at a point of its kernel, and its context goes to a save slot. -/
def preemptUnit (s : State) (n : Nat) (u : Unit) (point : Nat) : State :=
  let s1 := chargeUnit s n
  match saveUnit s1 n u point with
  | some t => endThreads t n
  | none => satF s F.schStats.noSlot

/-- PREEMPTION_POINT: a kernel on region `r` reaches a preemption point. -/
def execPreemptionPoint (r : RegionNo) (point : Nat) (s : State) : Host.Outcome State Fault Refusal :=
  act s (mayRun s) (fun s =>
    match runningUnit s r.val with
    | none => s
    | some u =>
      match stepOf s u.step, kernelOf s r.val u.kernel with
      | some st, some k =>
        if k.unit != 1 && k.preemptible && (sliceOver s st.comp u || higherWaits s st.comp st) then preemptUnit s r.val u point else s
      | _, _ => s)

end Sys2Proof.Machine
end

