-- ==== Sys2Proof/Machine/Capacity.lean ====
section
/-! DEFINITION. Capacity actions: eviction of index entries, dropping, preemption, restoring, recomputation, and the reclamation of pages
and leases (R174, R181, R182, R351 to R363). -/

namespace Sys2Proof.Machine

open Sys2Proof

/-! ## Index entries (R302, R303, R351) -/

/-- When a record was last used: by its way where it has one. -/
def recordUse (s : State) (n : Nat) : Nat :=
  let x := recOf s n
  match (bucketWays x.digest).find? (fun k => x.inTable && (wayOf s k).valid && !(wayOf s k).collided && (wayOf s k).block == n) with
  | some k => (wayOf s k).lastUse
  | none => x.lastUse

/-- The records of composition `c` that eviction may take: neither PINNED nor above a PINNED record. -/
def evictable (s : State) (c : Nat) : List Nat :=
  (tabKeys s.pfx.records (fun x => x.used && x.comp == c && !x.root)).filter (fun n => !pinnedBelow s s.pfx.records.length n)

/-- A record or one below it names a page on stack `st` that nothing else references. -/
def freesSlot (s : State) (st : Nat) : Nat → Nat → Bool
  | 0, _ => false
  | fuel + 1, n =>
    (recOf s n).pages.any (fun g => g / 2 ^ 24 == st && (pageOf s g).state == .sealed_ && (pageOf s g).refs == 1) ||
      (recOf s n).children.any (freesSlot s st fuel)

/-- An entry whose removal would free a slot on stack `st` remains. -/
def evictionHelps (s : State) (c st : Nat) : Bool := (evictable s c).any (freesSlot s st s.pfx.records.length)

/-- The record used longest ago. -/
def oldestRecord (s : State) : List Nat → Option Nat
  | [] => none
  | n :: l => some (l.foldl (fun a b => if laterThan (recordUse s a) (recordUse s b) then b else a) n)

/-- Composition `c` is under pressure on stack `st`. -/
def pressedOn (s : State) (c st : Nat) : Bool := (getF s (F.stkCapPressure.stacks.at c)).testBit st

/-- Removes entries of composition `c`, the longest unused first, while its pressure on stack `st` lasts and a removal can help. -/
def evictFor (c st : Nat) : Nat → State → State
  | 0, s => s
  | fuel + 1, s =>
    if !pressedOn s c st || !evictionHelps s c st then s
    else
      match oldestRecord s (evictable s c) with
      | some n => evictFor c st fuel (pressComp (dropRecord s n) c)
      | none => s

/-- PRESSURE_EVICTION: the first action on a stack under pressure, for every composition that is under pressure on it. -/
def execPressureEviction (st : StackNo) (s : State) : Host.Outcome State Fault Refusal :=
  act s (runs s) (fun s =>
    ((boundComps s).filter (fun e => pressedOn s e.1 st.val)).foldl
      (fun t e => evictFor e.1 st.val t.pfx.records.length t) s)

/-! ## Victims (R352 to R355) -/

/-- Block `b` of entry `i` is droppable. -/
def isDroppable (s : State) (d : ModelDescriptor) (i b : Nat) : Bool :=
  decide (b < (entryOf s i).length / 64) &&
    (List.range d.layers).all (fun l =>
      let e := pageEntry (manifestOf s i) l b
      e.valid && !e.dropped && (pageOf s e.page).state == .sealed_ && (pageOf s e.page).fill == 64 && (pageOf s e.page).refs == 1)

/-- The droppable blocks of entry `i`, ascending. -/
def droppable (s : State) (d : ModelDescriptor) (i : Nat) : List Nat :=
  (List.range ((entryOf s i).length / 64)).filter (isDroppable s d i)

/-- A droppable block of entry `i` has a page on a stack under pressure. -/
def dropHelps (s : State) (d : ModelDescriptor) (c i : Nat) : Bool :=
  (droppable s d i).any (fun b => (List.range d.layers).any (fun l => pressedOn s c ((pageEntry (manifestOf s i) l b).page / 2 ^ 24)))

/-- The DONE requests of composition `c` that are victims. -/
def doneVictims (s : State) (d : ModelDescriptor) (c : Nat) : List Nat :=
  (entriesIn s c (fun e => e.state == .done)).filter (dropHelps s d c)

/-- The first request of a list in the order of victims. -/
def firstVictim (s : State) : List Nat → Option Nat
  | [] => none
  | i :: l => some (l.foldl (fun a b => if victimBefore s b a then b else a) i)

/-- A GENERATION composition preempts: it has PREEMPT_REGIONS regions or more, or the manifest pool is short (R350, R352). -/
def preempts (s : State) (c : Nat) : Bool :=
  s.stk.manifestPressure || decide (getF s F.stkCapCtl.preemptRegions ≤ (regionsOf s c).length)

/-- Victims among requests may be taken: GENERATION, under pressure, and no index entry is left whose removal would help on a stack. -/
def takesVictims (s : State) (c : Nat) : Bool :=
  roleOf s c == .generation && underPressure s c && (List.range 32).all (fun st => !pressedOn s c st || !evictionHelps s c st)

/-- Entry `i` is the next victim of a drop: a DONE request first, then DECODE or DROPPED in the order of R353. -/
def isDropVictim (s : State) (d : ModelDescriptor) (c i : Nat) : Bool :=
  takesVictims s c &&
    (if (doneVictims s d c).isEmpty then
      !preempts s c &&
        firstVictim s ((entriesIn s c (fun e => e.state == .decode || e.state == .dropped)).filter
          (fun j => !(droppable s d j).isEmpty)) == some i
    else (doneVictims s d c).contains i)

/-- Entry `i` is the next victim of a preemption. A request with dropped blocks recomputes them before it could be parked (R358), so it
is passed over. -/
def isPreemptVictim (s : State) (d : ModelDescriptor) (c i : Nat) : Bool :=
  takesVictims s c && preempts s c && (doneVictims s d c).isEmpty &&
    firstVictim s ((entriesIn s c (fun e => e.state == .decode)).filter (fun j => (droppedBlocks s j).isEmpty)) == some i

/-! ## Dropping (R355) -/

/-- Drops blocks in ascending order until the pressure ends. -/
def dropWhile (c i layers : Nat) : List Nat → State → State
  | [], s => s
  | b :: bs, s =>
    if !underPressure s c then s
    else dropWhile c i layers bs (pressComp (satF (dropBlock s i b layers) F.stkCapStats.droppedBlocks) c)

/-- The drop of a victim, which has reached its arbiter: a request in DECODE enters DROPPED. -/
def dropVictim (s : State) (d : ModelDescriptor) (c i : Nat) : State :=
  let s1 := dropWhile c i d.layers (droppable s d i) s
  if (entryOf s1 i).state == .decode && !(droppedBlocks s1 i).isEmpty then modEntry s1 i (fun e => { e with state := .dropped }) else s1

/-- DROP: the victim's droppable blocks. -/
def execDrop (index : Nat) (s : State) : Host.Outcome State Fault Refusal :=
  act s (runs s) (fun s =>
    let c := (entryOf s index).composition.val
    match descOf s c with
    | some d => if isDropVictim s d c index then dropVictim (seizeEntry s index) d c index else s
    | none => s)

/-! ## Preemption (R359, R361) -/

/-- The preemption of a victim: its log goes first (R328), it is parked on SWAP_TIER, or drops its blocks where there is no room. -/
def preemptVictim (s : State) (d : ModelDescriptor) (c i : Nat) : State :=
  let s1 := sendLog (seizeEntry s i) i
  match parkEntry s1 i (getF s F.stkCapCtl.swapTier) 1 with
  | some s2 => s2
  | none => dropVictim s1 d c i

/-- PREEMPT: the victim goes to the swap tier; one in host memory can be written while the part may issue requests (R603). -/
def execPreempt (index : Nat) (s : State) : Host.Outcome State Fault Refusal :=
  act s (runs s && (getF s F.stkCapCtl.swapTier != 4 || !hostOff s)) (fun s =>
    let c := (entryOf s index).composition.val
    match descOf s c with
    | some d => if isPreemptVictim s d c index then preemptVictim s d c index else s
    | none => s)

/-! ## Restoring (R362) -/

/-- The preempted requests of composition `c` whose restore has not begun. -/
def preempted (s : State) (c : Nat) : List Nat :=
  (entriesIn s c (fun e => e.state == .parked)).filter (fun i => (manifestOf s i).parkOrigin == 1 && (tabGet none s.rqt.restores i).isNone)

/-- RESTORE: the highest-ranked preempted request, once no stack of its composition is under pressure. -/
def execRestore (index : Nat) (s : State) : Host.Outcome State Fault Refusal :=
  act s (runs s) (fun s =>
    let c := (entryOf s index).composition.val
    if (preempted s c).contains index && !underPressure s c && (preempted s c).all (fun j => j == index || !victimBefore s index j) then
      beginRestore s index none
    else s)

/-- The pages of a parked object: layer, page index, FILL and bytes (R360). -/
def parkedPages (d : ModelDescriptor) (bs : List Byte) : List (Nat × Nat × Nat × List Byte) :=
  let n := leNat ((bs.drop 20).take 4)
  let g := pageGranules d * 4096
  let base := ceilDiv (64 + 8 * n) 4096 * 4096
  (List.range n).map (fun j =>
    (leNat ((bs.drop (64 + 8 * j + 4)).take 1), leNat ((bs.drop (64 + 8 * j)).take 4), leNat ((bs.drop (64 + 8 * j + 5)).take 1),
      (bs.drop (base + j * g)).take g))

/-- One page of a restore: allocated, written, sealed and entered in the manifest; the stack for which it waits (32: a unit). -/
def restorePage (s : State) (x : Composition) (d : ModelDescriptor) (i : Nat) (p : Nat × Nat × Nat × List Byte) : Option Nat × State :=
  let u := needUnit s i p.1 p.2.1
  if !u.1 then (some 32, u.2)
  else
    let st := placeOf x (entryOf s i).requestId p.1 p.2.1
    let a := allocPage u.2 x d i st
    match a.1 with
    | none => (some st, a.2)
    | some g =>
      let s1 := sealPage (memWrite a.2 (granuleAddr g) p.2.2.2) g p.2.2.1
      (none, setPageEntry s1 i p.1 p.2.1 { valid := true, page := g })

/-- The pages of a restore in order, up to the first that waits. -/
def restorePages (x : Composition) (d : ModelDescriptor) (i : Nat) : List (Nat × Nat × Nat × List Byte) → State → Option Nat × State
  | [], s => (none, s)
  | p :: ps, s =>
    let r := restorePage s x d i p
    match r.1 with
    | some st => (some st, r.2)
    | none => restorePages x d i ps r.2

/-- Every page is back: the object is unpublished, and the request enters DECODE or DONE. -/
def restored (s : State) (i : Nat) : State :=
  let s1 := modEntry (dropParked (seizeEntry s i) i) i (fun e =>
    { e with state := if e.parkedFromDone then .done else .decode, parkedFromDone := false })
  applyHeld (endRestore s1 i 0) i

/-- A restore reads host memory. -/
def restoreUsesHost (s : State) (i : Nat) : Bool := (odtOf s (handleIndex (manifestOf s i).parked)).tier == 4

/-- The end of the restore of entry `i`, which reads the parked object under a lease (R180). One that has to wait changes nothing but its
wait; a parked object that does not read fails the request. -/
def endRestoring (s : State) (i : Nat) (x : Composition) (d : ModelDescriptor) : State :=
  if !canLease s then waitFor s i 33
  else
    let e := odtOf s (handleIndex (manifestOf s i).parked)
    match objectBytes s (handleIndex (manifestOf s i).parked) with
    | none => applyHeld (endRestore (failEntry s i 36) i 9) i
    | some bs =>
      let r := restorePages x d i (parkedPages d bs) (askHost s e)
      match r.1 with
      | some st => waitFor s i st
      | none => restored r.2 i

/-- RESTORE_COMPLETE. -/
def execRestoreComplete (index : Nat) (s : State) : Host.Outcome State Fault Refusal :=
  act s (runs s && (entryOf s index).state == .parked && (tabGet none s.rqt.restores index).isSome && !isWaiting s index &&
      (!restoreUsesHost s index || !hostOff s)) (fun s =>
    let c := (entryOf s index).composition.val
    match compOf s c, descOf s c with
    | some x, some d => endRestoring s index x d
    | _, _ => s)

/-! ## Recomputation (R357) -/

/-- RECOMPUTE: the highest-ranked DROPPED request begins its PREFILL. -/
def execRecompute (index : Nat) (s : State) : Host.Outcome State Fault Refusal :=
  act s (runs s && recomputable s (entryOf s index).composition.val index) (fun s => scheduleDropped s index)

/-! ## Reclamation and leases (R174, R181, R182) -/

/-- PAGE_RECLAIM: the reclaim condition of a retired page is met; what waited for space goes on. -/
def execPageReclaim (granule : Nat) (s : State) : Host.Outcome State Fault Refusal :=
  act s (isReady s && canReclaim s granule) (fun s => continueAll (reclaimUnits (reclaimPage s granule)))

/-- What the end of lease `k` does to the read that its holder has under way, by the groups of R180: the load of a region fails and a
unit on one is abandoned, a pass's step starts again, and a copy or a load of microcode or of the package image fails. A
transfer's next read takes its lease anew (log entry 38). -/
def expireHolder (s : State) (k : Nat) : State :=
  if k < 1024 then
    if (regionOf s (k / 16)).state == .loading then (if k % 16 = 0 then faultRegion s (k / 16) 11 0 else s) else abandonUnit s (k / 16)
  else if k < 1536 then
    match passOf s (k - 1024) with
    | some p => restartStep { s with ucode := { s.ucode with passes := tabPut none s.ucode.passes (k - 1024) none } } p.step
    | none => s
  else if k < 3584 then s
  else
    match s.stk.odt.find? (fun e => e.2.lease == some k), s.ucode.slots.find? (fun e => e.2.lease == some k), s.fab.pkgLoading with
    | some e, _, _ => endCopy s (handleOf s e.1) .whole false {}
    | none, some e, _ => faultSlot s e.1 11
    | none, none, some (h, some j) => if j = k then placePackage { s with fab := { s.fab with pkgLoading := none } } h none else s
    | none, none, _ => s

/-- LEASE_EPOCH_TICK: E advances every 1,000 counts of the LMC, and what the end of leases lets go goes on (R179, R181, R634). -/
def execLeaseEpochTick (s : State) : Host.Outcome State Fault Refusal :=
  act s (lmcRuns s && decide (s.stk.epochLmc + 1000 ≤ s.plt.lmc)) (fun s => continueAll (retryAsks (epochTick s)))

/-- LEASE_EXPIRY: a lease 2^28 epochs old is ended (R182). -/
def execLeaseExpiry (slot : Fin 4096) (s : State) : Host.Outcome State Fault Refusal :=
  act s (isReady s) (fun s =>
    match tabGet none s.stk.leases slot.val with
    | some l =>
      if leaseTooOld s l.epoch then
        continueAll (retryAsks (expireHolder (satF (endLease s slot.val) F.stkPageStats.expired) slot.val))
      else s
    | none => s)

end Sys2Proof.Machine
end

