-- ==== Sys2Proof/Machine/Chain.lean ====
section
/-! DEFINITION. The chain port: commands of the tray controller on the Tray Management Chain (R537, R562 to R567). -/

namespace Sys2Proof.Machine

open Sys2Proof

/-! ## Frames (R562, R563) -/

/-- The frame is addressed to the part or broadcast. -/
def isMine (s : State) (h : ChainHead) : Bool := (s.plt.chainAddr != 0 && h.dest == s.plt.chainAddr) || h.dest == 63

/-- Something arrived on MC_IN (R568). -/
def ringHeard (s : State) : State := if s.plt.mainRails then putF s F.pltChain.ringOk 1 else s

/-- A frame leaves unchanged on MC_OUT. -/
def passChain (s : State) (bytes : List Byte) : State := emit s (.chainPassed bytes)

/-- A chain command that arrives: a frame with a wrong CRC is passed on and counted, one for another part is passed on, and one for the
part is consumed; a broadcast is passed on as well. -/
def chainRow (s : State) (h : ChainHead) (bytes : List Byte) (effect : State → State) : Host.Outcome State Fault Refusal :=
  act s s.plt.vaux3 (fun s =>
    let s1 := ringHeard s
    if !h.crcOk then passChain (satF s1 F.pltChain.crcErrors) bytes
    else if h.dest == 63 then effect (passChain s1 bytes)
    else if isMine s1 h then effect s1
    else passChain s1 bytes)

/-- The six header bytes and the payload of a frame as it is passed on, with its CRC (R563). -/
def chainBytes (h : ChainHead) (cmd : Nat) (payload : List Byte) : List Byte :=
  let body := leBytes 1 h.dest ++ leBytes 1 h.source ++ leBytes 1 cmd ++ leBytes 1 h.seq ++ leBytes 1 payload.length ++ [0] ++ payload
  let crc := leBytes 4 (crc32 body).toNat
  body ++ (if h.crcOk then crc else crc.map (fun b => b ^^^ 255))

/-- The answer to a command that the tray controller sent to the part alone: STATUS 0 OK, 1 NOT_READY, 2 BAD_FRAME, 3 REFUSED. -/
def answerChain (s : State) (h : ChainHead) (cmd status : Nat) (payload : List Nat) : State :=
  if h.dest = 63 then s
  else emit s (.chain { dest := 0, source := s.plt.chainAddr, cmd := cmd + 128, seq := h.seq, status := status, payload := payload })

/-- A command that the part serves only once it is READY (R564). -/
def whenReady (s : State) (h : ChainHead) (cmd : Nat) (effect : State → State) : State :=
  if isReady s then effect s else answerChain s h cmd 1 []

/-! ## Commands that VAUX3 alone serves -/

/-- ENUM: a part at address 0 takes NEXT, and the frame goes on with the number after it (R565). -/
def execEnum (h : ChainHead) (next : Nat) (s : State) : Host.Outcome State Fault Refusal :=
  act s s.plt.vaux3 (fun s =>
    let s1 := ringHeard s
    if !h.crcOk then passChain (satF s1 F.pltChain.crcErrors) (chainBytes h 0x01 (leBytes 1 next))
    else if s1.plt.chainAddr = 0 ∧ 1 ≤ next ∧ next ≤ 62 then
      emit { s1 with plt := { s1.plt with chainAddr := next } } (.chainEnum h.seq (next + 1))
    else emit s1 (.chainEnum h.seq next))

/-- GET_ID: ordering code, stepping and the DeviceID KEY_ID. -/
def execGetId (h : ChainHead) (s : State) : Host.Outcome State Fault Refusal :=
  chainRow s h (chainBytes h 0x02 []) (fun s =>
    answerChain s h 0x02 0 ([s.plt.ordering, 0xB0] ++ (leBytes 48 s.plt.chainKeyId.toNat).map (·.toNat)))

/-- POWER_ON: R538 starts at step 2; it has no effect while the main rails are on (R617). -/
def execPowerOn (h : ChainHead) (s : State) : Host.Outcome State Fault Refusal :=
  chainRow s h (chainBytes h 0x05 []) (fun s => answerChain (startRails s) h 0x05 0 [])

/-- FENCE: the main rails go off with no departure; answered once they are off. -/
def execFence (h : ChainHead) (s : State) : Host.Outcome State Fault Refusal :=
  chainRow s h (chainBytes h 0x09 []) (fun s => answerChain (if s.plt.mainRails then railsOff s 6 else s) h 0x09 0 [])

/-- STATUS: rails on, PLT_STATUS.STATE and the twin state. -/
def execStatus (h : ChainHead) (s : State) : Host.Outcome State Fault Refusal :=
  chainRow s h (chainBytes h 0x0C []) (fun s =>
    answerChain s h 0x0C 0 [boolCode s.plt.mainRails, pltCode s.plt.state, twinCode s.twn.state])

/-! ## Commands that wait for READY -/

/-- A pairing that changes ends the twin, and a mirror port whose neighbour is another member is in MISMATCH (R414, R493). -/
def pairWith (s : State) (twin : Option Nat) : State :=
  if s.lnk.twin == twin then s
  else
    let s1 := unpair s
    let s2 := { s1 with lnk := { s1.lnk with twin := twin } }
    ((List.range 12).filter (fun p => (portOf s2 p).state == .up && (portOf s2 p).mode == 2 &&
      (match twin with | some m => (portOf s2 p).neighbour != m | none => true))).foldl (fun t p => leaveUp t p .mismatch) s2

/-- LNK_TRAY is set: tray, member, twin and enrolment. -/
def setTray (s : State) (trayId member : Nat) (twin : Option Nat) (enrolled : Bool) : State :=
  pairWith { s with lnk := { s.lnk with trayId := trayId, member := member, enrolled := enrolled } } twin

/-- SET_MEMBER: BAD_FRAME where a field is out of range, REFUSED where the member number is ENROLLED for another address (R566). -/
def execSetMember (h : ChainHead) (trayId : Nat) (member : Nat) (twin : Nat) (enrolled : Bool) (s : State) :
    Host.Outcome State Fault Refusal :=
  chainRow s h (chainBytes h 0x03 (leBytes 4 trayId ++ leBytes 1 member ++ leBytes 1 twin ++ leBytes 1 (boolCode enrolled))) (fun s =>
    whenReady s h 0x03 (fun s =>
      if 16 ≤ member ∨ (16 ≤ twin ∧ twin ≠ 0xFF) ∨ 2 ^ 32 ≤ trayId then answerChain s h 0x03 2 []
      else if enrolled && memberOf s member == .enrolled && !(s.lnk.enrolled && s.lnk.member == member) then answerChain s h 0x03 3 []
      else answerChain (setTray s trayId member (if twin = 0xFF then none else some twin) enrolled) h 0x03 0 []))

/-- A member state's code in LNK_MEMBER_STATE (R417, R444). -/
def memberStateOf : Nat → MemberState
  | 1 => .enrolled | 2 => .departing | 3 => .departed | _ => .absent

/-- ANNOUNCE: the state of every member (R429, R566). -/
def execAnnounce (h : ChainHead) (states : List (Fin 4)) (s : State) : Host.Outcome State Fault Refusal :=
  let packed := ((List.range 16).map (fun m => 4 ^ m * ((states[m]?).map (·.val)).getD 0)).sum
  chainRow s h (chainBytes h 0x04 (leBytes 4 s.lnk.trayId ++ leBytes 4 packed)) (fun s =>
    whenReady s h 0x04 (fun s =>
      answerChain ((List.range 16).foldl (fun t m => memberLeaves t m (memberStateOf (((states[m]?).map (·.val)).getD 0))) s) h 0x04 0 []))

/-- POWER_OFF: the part departs, then enters Black. -/
def execPowerOff (h : ChainHead) (s : State) : Host.Outcome State Fault Refusal :=
  chainRow s h (chainBytes h 0x06 []) (fun s => whenReady s h 0x06 (fun s => depart (answerChain s h 0x06 0 []) (.black 2)))

/-- RESET with KIND 1 warm, 2 cold (R541). -/
def execChainReset (h : ChainHead) (kind : Nat) (s : State) : Host.Outcome State Fault Refusal :=
  chainRow s h (chainBytes h 0x07 (leBytes 1 kind)) (fun s =>
    whenReady s h 0x07 (fun s =>
      match kind with
      | 1 => depart (answerChain s h 0x07 0 []) (.reset .warm)
      | 2 => depart (answerChain s h 0x07 0 []) (.reset .cold)
      | _ => answerChain s h 0x07 2 []))

/-- FENCED: the end of the FENCING wait (R493, R564, R567). -/
def execFenced (h : ChainHead) (target : Nat) (outcome : Nat) (s : State) : Host.Outcome State Fault Refusal :=
  chainRow s h (chainBytes h 0x0A (leBytes 1 target ++ leBytes 1 outcome)) (fun s =>
    whenReady s h 0x0A (fun s => answerChain (endFencing s outcome) h 0x0A 0 []))

/-- DEPART_ANSWER: the controller's answer to DEPART is consumed (R564). -/
def execDepartAnswer (h : ChainHead) (s : State) : Host.Outcome State Fault Refusal :=
  chainRow s h (chainBytes h 0x8B []) (fun s => s)

/-! ## The ring (R562, R568) -/

/-- CHAIN_FORWARD: a frame for another part, or one with a wrong CRC, goes on. A frame for the part with no declared CMD is answered
BAD_FRAME (R563). -/
def execChainForward (h : ChainHead) (bytes : List Byte) (s : State) : Host.Outcome State Fault Refusal :=
  chainRow s h bytes (fun s => answerChain s h ((((bytes[2]?).map (·.toNat)).getD 0) % 128) 2 [])

/-- CHAIN_RING_SILENT: no symbol arrived on MC_IN for 1 ms. -/
def execChainRingSilent (s : State) : Host.Outcome State Fault Refusal :=
  act s (s.plt.vaux3 && s.plt.mainRails) (fun s => putF s F.pltChain.ringOk 0)

end Sys2Proof.Machine
end

