-- ==== Sys2Proof/Machine/Power.lean ====
section
/-! DEFINITION. Power: host commands, supplies, the power limit, temperatures and the reference clock (R11, R59, R571 to R588, R617,
R618, R622). -/

namespace Sys2Proof.Machine

open Sys2Proof

/-! ## Power commands (R578 to R580, R583) -/

/-- PWR_STATUS.CMD_STATUS: 0 OK, 1 BUSY, 2 REFUSED_REGIONS, 3 REFUSED_ACTIVE, 4 REFUSED_TWIN, 5 in progress. -/
def pwrStatus (s : State) (st : Nat) : State := putF s F.pwrStatus.cmdStatus st

/-- A change of power state, or a departure, is under way. -/
def powerBusy (s : State) : Bool := s.pwr.state == .entering || s.pwr.state == .leaving || s.plt.departing.isSome

/-- White or Grey: at once from each other, and by the exit from Charcoal. -/
def awakeCommand (s : State) (grey : Bool) : State :=
  let target : PwrState := if grey then .grey else .white
  if powerBusy s then pwrStatus s 1
  else if s.pwr.state == .charcoal then pwrStatus (leaveCharcoal s grey) 5
  else if s.pwr.state == target then pwrStatus s 0
  else
    let s1 := sendPower s (if grey then 1 else 0)
    pwrStatus (setPwrState { s1 with pwr := { s1.pwr with gated := [] } } target) 0

/-- WHITE (CMD 1). -/
def execWhite (s : State) : Host.Outcome State Fault Refusal := act s (serves s 2) (fun s => awakeCommand s false)

/-- GREY (CMD 2). -/
def execGrey (s : State) : Host.Outcome State Fault Refusal := act s (serves s 2) (fun s => awakeCommand s true)

/-- An object command is under way. -/
def objectUnderWay (s : State) : Bool :=
  !s.stk.objWaiting.isEmpty || s.stk.odt.any (fun e => e.2.state == .publishing || e.2.state == .moving)

/-- Requests, transfers, object commands or the rebuild of Umber refuse Charcoal (R579). -/
def charcoalActive (s : State) : Bool :=
  s.rqt.entries.any (fun e => e.2.state == .admitted || e.2.state == .prefill || e.2.state == .handoffIn ||
      e.2.state == .handoffOut) ||
    s.xfr.slots.any (fun x => x.2.isSome) || objectUnderWay s || s.fls.state == .scanning

/-- Why the part refuses Charcoal, as a CMD_STATUS (R579). -/
def charcoalRefusal (s : State) : Option Nat :=
  if !regionsIdle s then some 2
  else if charcoalActive s then some 3
  else if s.twn.state == .syncing || s.twn.state == .paired || s.twn.state == .fencing then some 4
  else none

/-- CHARCOAL: refused with a signal, or the entry begins (R579, R580). -/
def charcoalCommand (s : State) : State :=
  if powerBusy s then pwrStatus s 1
  else if s.pwr.state == .charcoal then pwrStatus s 0
  else
    match charcoalRefusal s with
    | some st => pwrNotify (pwrStatus s st)
    | none =>
      let s1 := sendPower s 2
      pwrStatus (setPwrState { s1 with pwr := { s1.pwr with exitGrey := s1.pwr.state == .grey, gated := [] } } .entering) 5

/-- CHARCOAL (CMD 3). -/
def execCharcoal (s : State) : Host.Outcome State Fault Refusal := act s (serves s 2) charcoalCommand

/-- BLACK: the part departs, then every main rail goes off (R583). -/
def execBlack (s : State) : Host.Outcome State Fault Refusal :=
  act s (serves s 2) (fun s => if powerBusy s then pwrStatus s 1 else depart (pwrStatus s 5) (.black 1))

/-- CHARCOAL_ENTRY_COMPLETE: STATE reads Charcoal; a wake event that arrived meanwhile starts the exit (R580, R581). -/
def execCharcoalEntryComplete (s : State) : Host.Outcome State Fault Refusal :=
  act s (isReady s && s.pwr.state == .entering) (fun s =>
    let s1 := satF (pwrStatus (setPwrState s .charcoal) 0) F.pwrStats.charcoalEntries
    if s1.pwr.wakePending then leaveCharcoal { s1 with pwr := { s1.pwr with wakePending := false } } false else s1)

/-- WAKE_TIME: the LMC has reached PWR_WAKE_TIME (R581). -/
def execWakeTime (s : State) : Host.Outcome State Fault Refusal :=
  act s (isReady s && getF s F.pwrWakeTime.lmc != 0 && decide (getF s F.pwrWakeTime.lmc ≤ s.plt.lmc)) (fun s => wakeBy s 3)

/-- GREY_IDLE: a SERVING region that has been without a unit for GREY_IDLE_US is gated (R576, R577). -/
def execGreyIdle (r : RegionNo) (s : State) : Host.Outcome State Fault Refusal :=
  act s (isReady s && s.pwr.state == .grey && (regionOf s r.val).state == .serving && (runningUnit s r.val).isNone &&
      hasPassed s (regionOf s r.val).idleSince (getF s F.pwrLimit.greyIdleUs)) (fun s =>
    { s with pwr := { s.pwr with gated := tabPut false s.pwr.gated r.val true } })

/-! ## Supplies (R571, R617, R618, R622) -/

/-- POWER_EN_RISE: the part starts at step 2 of R538, unless its main rails are on. -/
def execPowerEnRise (s : State) : Host.Outcome State Fault Refusal := act s s.plt.vaux3 startRails

/-- POWER_EN_FALL: the effect of POWER_OFF (R617). -/
def execPowerEnFall (s : State) : Host.Outcome State Fault Refusal :=
  act s (s.plt.vaux3 && s.plt.mainRails) (fun s => depart s (.black 2))

/-- PWR_INPUT.VIN56_MV and PWR_STATUS.VIN56_LOW; a change of VIN56_LOW is signalled. -/
def readVin56 (s : State) (mv : Nat) : State :=
  let low := boolCode (decide (mv < 50000))
  let s1 := putF s F.pwrInput.vin56Mv mv
  if getF s1 F.pwrStatus.vin56Low = low then s1 else pwrNotify (putF s1 F.pwrStatus.vin56Low low)

/-- VIN56_LOW: from 47 V to below 50 V. -/
def execVin56Low (millivolts : Nat) (s : State) : Host.Outcome State Fault Refusal :=
  act s (s.plt.mainRails && decide (47000 ≤ millivolts) && decide (millivolts < 50000)) (fun s => readVin56 s millivolts)

/-- VIN56_UNDER: below 47 V for 1 ms. -/
def execVin56Under (millivolts : Nat) (s : State) : Host.Outcome State Fault Refusal :=
  act s (s.plt.mainRails && decide (millivolts < 47000)) (fun s => railsOff s 4)

/-- VIN56_OVER: above 62 V for 10 µs. -/
def execVin56Over (millivolts : Nat) (s : State) : Host.Outcome State Fault Refusal :=
  act s (s.plt.mainRails && decide (62000 < millivolts)) (fun s => railsOff s 5)

/-- VIN56_IN_RANGE: 50 V or above again. -/
def execVin56InRange (millivolts : Nat) (s : State) : Host.Outcome State Fault Refusal :=
  act s (s.plt.mainRails && decide (50000 ≤ millivolts)) (fun s => readVin56 s millivolts)

/-- VAUX3_LOSS: the main rails go off, and the chain port loses its address and its records (R537, R542, R622). -/
def execVaux3Loss (s : State) : Host.Outcome State Fault Refusal :=
  act s s.plt.vaux3 (fun s =>
    let s1 := if s.plt.mainRails then railsOff s 7 else s
    let s2 := if s1.plt.thermTripLow then emit s1 (.thermTrip false) else s1
    { s2 with plt := { s2.plt with vaux3 := false, thermTripLow := false, chainAddr := 0, chainKeyId := 0, lastOff := 7 } })

/-- VAUX3_RETURN: the chain port starts at address 0 with LAST_OFF STANDBY_LOST (R571, R622). -/
def execVaux3Return (s : State) : Host.Outcome State Fault Refusal :=
  act s (!s.plt.vaux3) (fun s => { s with plt := { s.plt with vaux3 := true, chainAddr := 0, lastOff := 7 } })

/-! ## The power limit and temperatures (R11, R573, R575, R584, R586, R587) -/

/-- Pacing begins or ends: its time is counted, and the change is signalled (R575, R588). -/
def pacingEdge (before : Bool) (s : State) : State :=
  let now := pacing s
  if before == now then s
  else if now then pwrNotify { s with pwr := { s.pwr with pacingSince := s.plt.lmc } }
  else pwrNotify { s with pwr := { s.pwr with pacingRest := s.pwr.pacingRest + (s.plt.lmc - s.pwr.pacingSince) } }

/-- PACING_CHANGE: the power manager starts or ends pacing for LIMIT_W. -/
def execPacingChange (on : Bool) (s : State) : Host.Outcome State Fault Refusal :=
  act s s.plt.mainRails (fun s => pacingEdge (pacing s) { s with pwr := { s.pwr with limitPacing := on } })

/-- The number of a die: fabric 0 to 3, I/O 4 and 5, stacks 6 to 37. -/
def dieNo : Die → Nat
  | .fabric d => d.val | .io d => 4 + d.val | .stack st => 6 + st.val

/-- A die's hottest reading, in its register: 0 °C and below reads 0. -/
def readDie (s : State) (d : Nat) (reading : Int) : State := putF s (tempField d) (min 255 reading.toNat)

/-- A die throttles, or no longer: THROTTLING and what follows from it. -/
def throttleDie (s : State) (d : Nat) (on : Bool) : State :=
  let was := s.pwr.throttled.any (·.2)
  let before := pacing s
  let s1 := { s with pwr := { s.pwr with throttled := tabPut false s.pwr.throttled d on } }
  let now := s1.pwr.throttled.any (·.2)
  let s2 := if was == now then s1 else pwrNotify (if now then satF s1 F.pwrStats.throttles else s1)
  pacingEdge before s2

/-- THROTTLING: a reading above 95 °C. -/
def execThrottling (d : Die) (reading : Int) (s : State) : Host.Outcome State Fault Refusal :=
  act s (s.plt.mainRails && decide (95 < reading + 1)) (fun s => throttleDie (readDie s (dieNo d) reading) (dieNo d) true)

/-- THROTTLING_END: a reading below 93 °C. -/
def execThrottlingEnd (d : Die) (reading : Int) (s : State) : Host.Outcome State Fault Refusal :=
  act s (s.plt.mainRails && decide (reading + 1 < 93)) (fun s => throttleDie (readDie s (dieNo d) reading) (dieNo d) false)

/-- BOUNDS_NOT_GUARANTEED: a reading above 100 °C sets the status, and readings at or below 100 °C of every die clear it (R11). -/
def execBoundsNotGuaranteed (d : Die) (reading : Int) (s : State) : Host.Outcome State Fault Refusal :=
  act s s.plt.mainRails (fun s =>
    let was := s.pwr.overHot.any (·.2)
    let s1 := readDie s (dieNo d) reading
    let s2 := { s1 with pwr := { s1.pwr with overHot := tabPut false s1.pwr.overHot (dieNo d) (decide (100 < reading + 1)) } }
    let now := s2.pwr.overHot.any (·.2)
    if was == now then s2 else pwrNotify (if now then putF s2 F.pwrStatus.bngEvent 1 else s2))

/-- THERMAL_TRIP: a reading of 110 °C or above; it overrides any change of state under way (R587, R618). -/
def execThermalTrip (_d : Die) (reading : Int) (s : State) : Host.Outcome State Fault Refusal :=
  act s (s.plt.mainRails && decide (110 ≤ reading + 1)) (fun s =>
    let s1 := railsOff (sendPower s 3) 3
    emit { s1 with plt := { s1.plt with thermTripLow := true } } (.thermTrip true))

/-- STACK_REFRESH_RATE: twice the base rate above 85 °C, and the base rate again below 83 °C (R584). -/
def execStackRefreshRate (st : StackNo) (reading : Int) (s : State) : Host.Outcome State Fault Refusal :=
  act s s.plt.mainRails (fun s =>
    let fast (b : Bool) (s : State) : State := { s with pwr := { s.pwr with fastRefresh := tabPut false s.pwr.fastRefresh st.val b } }
    let s1 := readDie s (dieNo (.stack st)) reading
    if 85 < reading + 1 then fast true s1 else if reading + 1 < 83 then fast false s1 else s1)

/-! ## The reference clock (R59) -/

/-- REFCLK_LOSS: the LMC holds, and the loss is recorded and signalled. -/
def execRefclkLoss (s : State) : Host.Outcome State Fault Refusal :=
  act s (s.plt.mainRails && !s.plt.lmcHeld) (fun s =>
    notify (putF { s with plt := { s.plt with lmcHeld := true } } F.pltStatus.refclkEvent 1) F.pltCtl.notifyEnable F.pltCtl.vector)

/-- REFCLK_RETURN: the LMC resumes from the held value. -/
def execRefclkReturn (s : State) : Host.Outcome State Fault Refusal :=
  act s true (fun s => { s with plt := { s.plt with lmcHeld := false } })

end Sys2Proof.Machine
end

