-- ==== Sys2Proof/Machine/Pcie.lean ====
section
/-! DEFINITION. The PCI Express endpoint: register writes, locks, doorbells, BAR 4, MSI-X, resets, link loss, host reads and errors, and
the Ethernet ports' links (R14 to R19, R135 to R138, R247, R254, R259, R260, R414, R539, R589 to R607, R614, R635). -/

namespace Sys2Proof.Machine

open Sys2Proof

/-! ## Errors (R606) -/

/-- An error that AER reports, by its bit in the error status registers (log entry 10). -/
def reportAer (s : State) (code : Nat) : State := emit s (.aer code)

/-- A request that completes as Unsupported Request (R18, R135, R606). -/
def unsupported (s : State) : State := reportAer (satF (emit s .unsupported) F.pltPcieErr.urSent) 20

/-! ## Register writes (R14 to R19) -/

/-- The lock bit of a block (R593). -/
def lockOf : LockBlock → Field
  | .fuse => F.fuseCtl.fuseLock | .pwr => F.pwrCtl.pwrLock | .fab => F.fabCtl.fabLock | .stk => F.stkObjCtl.stkLock
  | .rqt => F.rqtCtl.rqtLock | .pfx => F.pfxCtl.pfxLock | .xfr => F.xfrCtl.xfrLock | .cod => F.codCtl.codLock
  | .sch => F.schCtl.schLock | .lnk => F.lnkCtl.lnkLock | .tm => F.tmCtl.tmLock | .slt => F.sltCtl.sltLock

/-- The number of the block (R593). -/
def lockBlockNo : LockBlock → Nat
  | .fuse => 1 | .pwr => 2 | .fab => 3 | .stk => 4 | .rqt => 5 | .pfx => 6 | .xfr => 7 | .cod => 8 | .sch => 9 | .lnk => 10
  | .tm => 11 | .slt => 12

/-- LOCK_SET: a write of 1 to the lock bit of a block. -/
def execLockSet (block : LockBlock) (s : State) : Host.Outcome State Fault Refusal :=
  act s (serves s (lockBlockNo block)) (fun s => setLock s (lockOf block))

/-- A value written to a field that its Meaning lists takes effect (R17). FLS_LOCK has its own command. A table's address inside the
interleaved part can be tested once INTERLEAVED_GIB is set; before that the part takes every value (log entry 94). -/
def putValid (s : State) (f : Field) (v : Nat) : State :=
  match f.valid with
  | .all => putF s f v
  | .range lo hi => if lo ≤ v ∧ v ≤ hi then putF s f v else s
  | .oneOf l => if l.contains v then putF s f v else s
  | .sticky => if v = 1 ∧ f.off ≠ F.flsCtl.flsLock.off then setLock s f else s
  | .interleaved => if 1 ≤ v ∧ v < stackGib s then putF s f v else s
  | .inInterleaved => if interGib s = 0 ∨ v * 2 ^ f.lo < 32 * interGib s * gib then putF s f v else s
  | .notLower => if v < getF s f then s else if v = getF s f then s else flushDigests (putF s f v)
  | .belowSoft => if v < getF s F.flsGcCfg.softPm then putF s f v else s

/-- The part ignores writes of the field now: queue registers in use (R259, R635). -/
def fieldInUse (s : State) (f : Field) : Bool :=
  let t := (f.off - F.rqtTSqBase.base.off) / 64
  let tenantReg := decide (F.rqtTSqBase.base.off ≤ f.off) && decide (f.off < F.rqtTSqBase.base.off + 4096 * 64)
  (tenantReg && tenantOn s t &&
    (decide (f.off < F.rqtTCtl.enable.off + 64 * t) || decide (f.key = (F.rqtTCtl.pasid.at t).key))) ||
  (s.stk.sqTaken && (f.off == F.stkObjSqBase.base.off || f.off == F.stkObjQsize.sqLog2.off || f.off == F.stkObjCqBase.base.off))

/-- A write of one field: `mask` gives the bits of the register that the access covers (R14, R19). -/
def writeField (mask value : Nat) (s : State) (f : Field) : State :=
  let m := mask / 2 ^ f.lo % 2 ^ f.width
  let w := value / 2 ^ f.lo % 2 ^ f.width &&& m
  let cur := getF s f
  let v := cur - (cur &&& m) + w
  if m = 0 || fieldInUse s f then s
  else
    match f.access with
    | .ro => s
    | .rw1c => putF s f (cur - (cur &&& w))
    | .wo => if f.width = 64 then putF s f v else s
    | .rw => putValid s f v
    | .rwl => if isLocked s (blockOf f.off) then s else putValid s f v

/-- A lock bit takes effect after the other fields of its register, and an address inside the interleaved part after the size of that
part: 0 for the fields that go first. -/
def writeTurn (f : Field) : Nat :=
  match f.valid with
  | .sticky => 2 | .inInterleaved => 1 | _ => 0

/-- A write of the fields of the register at `off`. -/
def writeFields (s : State) (off mask value : Nat) : State :=
  let fs := fieldsAt off
  ((List.range 3).flatMap (fun k => fs.filter (fun f => writeTurn f == k))).foldl (writeField mask value) s

/-- The bits of the register that a write covers, merged with what the others hold. -/
def mergeBits (old mask value : Nat) : Nat := old - (old &&& mask) + (value &&& mask)

/-! ## Registers whose writes act (R247, R259, R260, R414, R455, R601, R635) -/

/-- A write of RQT_T_CTL.ENABLE: 0 to 1 restarts the tenant's queues; 1 to 0 is refused while the tenant holds an entry. -/
def writeEnable (s : State) (t : Nat) (on : Bool) : State :=
  let f := F.rqtTCtl.enable.at t
  if on == isSet s f then s
  else if on then putF (setQueues s t {}) f 1
  else if s.rqt.entries.any (fun e => e.2.state != .free && e.2.tenant.val == t) then s
  else putF s f 0

/-- A write of RQT_T_CTL of tenant `t`. -/
def writeTenantCtl (s : State) (t mask value : Nat) : State :=
  let s1 := ((fieldsAt (F.rqtTCtl.enable.at t).off).filter (fun f => f.lo != 0)).foldl (writeField mask value) s
  if mask % 2 = 1 then writeEnable s1 t (value % 2 == 1) else s1

/-- RQT_T_CTL_ENABLE: a 64-bit write of a tenant's RQT_T_CTL. -/
def execRqtTCtlEnable (t : Tenant) (value : BitVec 64) (s : State) : Host.Outcome State Fault Refusal :=
  act s (serves s 5) (fun s => writeTenantCtl s t.val (2 ^ 64 - 1) value.toNat)

/-- A write of LNK_PORT_CFG: one that covers MODE or MEDIUM makes an UP port retrain. -/
def writePortCfg (s : State) (p mask value : Nat) : State :=
  let s1 := writeFields s (F.lnkPortCfg.mode.at p).off mask value
  if mask % 64 != 0 && (portOf s1 p).state == .up then leaveUp s1 p .training else s1

/-- PORT_CFG_WRITE. -/
def execPortCfgWrite (p : RoalePort) (value : BitVec 64) (s : State) : Host.Outcome State Fault Refusal :=
  act s (serves s 10) (fun s => writePortCfg s p.val (2 ^ 64 - 1) value.toNat)

/-- The first doorbell write that the part ignores is recorded: 0 SQ_TAIL, 1 CQ_HEAD, 2 TR_HEAD, 3 and 4 those of the object queues
(R602, R607). -/
def doorbellFault (s : State) (t reg : Nat) : State :=
  let s1 := latch s F.pltPcieDbFault.valid F.pltPcieDbFault.overflow (fun u =>
    putF (putF u F.pltPcieDbFault.tenant t) F.pltPcieDbFault.register reg)
  if isSet s F.pltPcieDbFault.valid then s1 else notify s1 F.pltPcieCtl.notifyEnable F.pltPcieCtl.vector

/-- A head at `v` passes the tail: it cannot be reached from `head` over slots that were written and not released. -/
def passesTail (n head tail v : Nat) : Bool := decide ((tail + n - head) % n < (v + n - head) % n)

/-- A write of STK_OBJ_SQ_TAIL; the first one after a reset fixes the bases and sizes. -/
def writeObjTail (s : State) (v : Nat) : State :=
  if objSqSlots s ≤ v then doorbellFault s 0 3
  else putF { s with stk := { s.stk with sqTaken := true } } F.stkObjSqTail.tail v

/-- A write of STK_OBJ_CQ_HEAD. -/
def writeObjHead (s : State) (v : Nat) : State :=
  if decide (objCqSlots s ≤ v) || passesTail (objCqSlots s) (getF s F.stkObjCqHead.head) s.stk.objCqTail v then doorbellFault s 0 4
  else
    let s1 := putF s F.stkObjCqHead.head v
    flushObj s1.stk.objOut.length s1

/-- STK_OBJ_SQ_TAIL. -/
def execStkObjSqTail (value : Nat) (s : State) : Host.Outcome State Fault Refusal :=
  act s (serves s 4) (fun s => writeObjTail s (value % 2 ^ 16))

/-- STK_OBJ_CQ_HEAD. -/
def execStkObjCqHead (value : Nat) (s : State) : Host.Outcome State Fault Refusal :=
  act s (serves s 4) (fun s => writeObjHead s (value % 2 ^ 16))

/-- The index of an array of registers with a stride that stands at `off`. -/
def arrayIndex (f : Field) (count off : Nat) : Option Nat :=
  if f.off ≤ off ∧ (off - f.off) % f.stride = 0 ∧ (off - f.off) / f.stride < count then some ((off - f.off) / f.stride) else none

/-- A write to the register at `off`, with what it does besides the fields. -/
def writeRegister (s : State) (off mask value : Nat) : State :=
  if off = F.stkObjSqTail.tail.off then
    writeObjTail s (mergeBits (getF s F.stkObjSqTail.tail) (mask % 2 ^ 16) value % 2 ^ 16)
  else if off = F.stkObjCqHead.head.off then
    writeObjHead s (mergeBits (getF s F.stkObjCqHead.head) (mask % 2 ^ 16) value % 2 ^ 16)
  else if off = F.mtrSelect.recordNo.off then selectRecord s (mergeBits (getF s F.mtrSelect.recordNo) mask value)
  else
    match arrayIndex F.rqtTCtl.enable 4096 off, arrayIndex F.lnkPortCfg.mode 12 off, arrayIndex F.tmMeterBurst.cbs 8192 off with
    | some t, _, _ => writeTenantCtl s t mask value
    | _, some p, _ => writePortCfg s p mask value
    | _, _, some m => fillMeter (writeFields s off mask value) m
    | _, _, _ => releaseVectors (writeFields s off mask value)

/-! ## The MSI-X table (R592, R599 to R601) -/

/-- The DWORD `d` of an MSI-X entry written: address, upper address, data, vector control. -/
def writeEntry (e : MsixEntry) (d v : Nat) : MsixEntry :=
  match d with
  | 0 => { e with address := e.address / 2 ^ 32 * 2 ^ 32 + v / 4 * 4 }
  | 1 => { e with address := e.address % 2 ^ 32 + v * 2 ^ 32 }
  | 2 => { e with data := v }
  | _ => { e with masked := v % 2 == 1 }

/-- A write of DWORD `n` of the MSI-X table. -/
def writeTable (s : State) (n v : Nat) : State :=
  { s with pcie := { s.pcie with table := tabMod {} s.pcie.table (n / 4) (fun e => writeEntry e (n % 4) v) } }

/-- A write into the MSI-X table, of one or two DWORDs; an unmasked vector sends its message. -/
def writeMsix (s : State) (off width value : Nat) : State :=
  let n := (off - 0x03000000) / 4
  let s1 := writeTable s n (value % 2 ^ 32)
  releaseVectors (if width = 8 then writeTable s1 (n + 1) (value / 2 ^ 32 % 2 ^ 32) else s1)

/-- A write to BAR 0: aligned accesses of 32 or 64 bits reach the MSI-X table or a register of a block that the part serves. -/
def writeBar0 (s : State) (off width value : Nat) : State :=
  if 0x04000000 ≤ off ∨ (width ≠ 4 ∧ width ≠ 8) ∨ off % width ≠ 0 then unsupported s
  else if 0x03000000 ≤ off ∧ off < 0x03010400 then writeMsix s off width value
  else if 0x03000000 ≤ off || !serves s (blockOf off) then s
  else if width = 8 then writeRegister s off (2 ^ 64 - 1) (value % 2 ^ 64)
  else if off % 8 = 4 then writeRegister s (off - 4) ((2 ^ 32 - 1) * 2 ^ 32) (value % 2 ^ 32 * 2 ^ 32)
  else writeRegister s off (2 ^ 32 - 1) (value % 2 ^ 32)

/-- DWORD `n` of the MSI-X table as it reads. -/
def tableDword (s : State) (n : Nat) : Nat :=
  let e := tabGet {} s.pcie.table (n / 4)
  match n % 4 with
  | 0 => e.address % 2 ^ 32
  | 1 => e.address / 2 ^ 32
  | 2 => e.data
  | _ => e.masked.toNat

/-- The aligned 64 bits at an offset of BAR 0: MSI-X table, Pending Bit Array, or a register. -/
def readQuad (s : State) (off : Nat) : Nat :=
  if 0x03000000 ≤ off ∧ off < 0x03010400 then
    tableDword s ((off - 0x03000000) / 4) + 2 ^ 32 * tableDword s ((off - 0x03000000) / 4 + 1)
  else if 0x03020000 ≤ off ∧ off < 0x03020208 then
    bitMap 64 (fun i => tabGet false s.pcie.pending ((off - 0x03020000) * 8 + i))
  else if 0x03000000 ≤ off then 0
  else readRegister s off

/-- A read of BAR 0: what it returns, or an Unsupported Request (R18, R592, R606). No row of the table reads a register. -/
def readBar0 (s : State) (off width : Nat) : Option Nat × State :=
  if 0x04000000 ≤ off ∨ (width ≠ 4 ∧ width ≠ 8) ∨ off % width ≠ 0 then (none, unsupported s)
  else
    let q := readQuad s (off / 8 * 8)
    (some (if width = 8 then q else q / 2 ^ (8 * (off % 8)) % 2 ^ 32), s)

/-- VECTOR_UNMASK: the mask bit of an entry is cleared, and a set Pending Bit sends one message (R600). -/
def execVectorUnmask (vec : Fin 4160) (s : State) : Host.Outcome State Fault Refusal :=
  act s s.plt.mainRails (fun s =>
    releaseVector { s with pcie := { s.pcie with table := tabMod {} s.pcie.table vec.val (fun e => { e with masked := false }) } }
      vec.val)

/-! ## Doorbells of tenants (R254, R581, R602) -/

/-- A read of a doorbell page returns zero (R254). -/
def readDoorbell (_s : State) (_offset : Nat) : Nat := 0

/-- A write to a tenant's doorbell page, which wakes the part from Charcoal and waits there. -/
def actDoorbell (s : State) (c : Instr) (effect : State → State) : Host.Outcome State Fault Refusal :=
  if isReady s && !isAwake s then .next (wakeBy { s with pwr := { s.pwr with held := s.pwr.held ++ [c] } } 0)
  else act s (isReady s) effect

/-- A write of SQ_TAIL. -/
def writeSqTail (s : State) (t v : Nat) : State :=
  if !tenantOn s t then s
  else if sqSlots s t ≤ v then doorbellFault s t 0
  else setQueues s t { queuesOf s t with sqTail := v }

/-- A write of CQ_HEAD: records that wait are written as far as there is room (R249). -/
def writeCqHead (s : State) (t v : Nat) : State :=
  let q := queuesOf s t
  if !tenantOn s t then s
  else if decide (cqSlots s t ≤ v) || passesTail (cqSlots s t) q.cqHead q.cqTail v then doorbellFault s t 1
  else flushTenant (setQueues s t { q with cqHead := v }) t

/-- A write of TR_HEAD. -/
def writeTrHead (s : State) (t v : Nat) : State :=
  let q := queuesOf s t
  if !tenantOn s t then s
  else if decide (trSlots s t ≤ v) || passesTail (trSlots s t) q.trHead q.trTail v then doorbellFault s t 2
  else flushTenant (setQueues s t { q with trHead := v }) t

/-- SQ_TAIL. -/
def execSqTail (t : Tenant) (value : Nat) (s : State) : Host.Outcome State Fault Refusal :=
  actDoorbell s (.sqTail t value) (fun s => writeSqTail s t.val (value % 2 ^ 16))

/-- CQ_HEAD. -/
def execCqHead (t : Tenant) (value : Nat) (s : State) : Host.Outcome State Fault Refusal :=
  actDoorbell s (.cqHead t value) (fun s => writeCqHead s t.val (value % 2 ^ 16))

/-- TR_HEAD. -/
def execTrHead (t : Tenant) (value : Nat) (s : State) : Host.Outcome State Fault Refusal :=
  actDoorbell s (.trHead t value) (fun s => writeTrHead s t.val (value % 2 ^ 20))

/-! ## BAR 4 (R135 to R138, R581) -/

/-- A BAR 4 access, which always wakes the part from Charcoal and waits there. -/
def actBar4 (s : State) (c : Instr) (effect : State → State) : Host.Outcome State Fault Refusal :=
  if isReady s && !isAwake s then .next (wakePart { s with pwr := { s.pwr with held := s.pwr.held ++ [c] } })
  else act s s.plt.mainRails effect

/-- `n` bytes at `x` lie within BAR 4's part of Ochre. -/
def inBar4 (s : State) (x n : Nat) : Bool := isReady s && decide (x + n ≤ 32 * interGib s * gib) && decide (x + n ≤ 2 ^ s.pcie.bar4Log2)

/-- The granule of address `a` belongs to a protected object without HOST_APERTURE, where it stands, moves to, or still stands for the
leases that read its old copy (R136, R143, R153). -/
def isHidden (s : State) (a : Nat) : Bool :=
  let covers (location size : Nat) : Bool := decide (location ≤ a) && decide (a < location + granuleCount size * 4096)
  let secret (e : OdtEntry) : Bool := isEncrypted e && !(e.prot.testBit 3)
  s.stk.odt.any (fun e =>
    e.2.state != .free && secret e.2 &&
      ((e.2.tier == 1 && covers e.2.location e.2.size) || (e.2.newTier == 1 && covers e.2.newLocation e.2.size))) ||
    s.stk.oldCopies.any (fun c => secret c.2 && c.2.tier == 1 && covers c.2.location c.2.size)

/-- A byte as BAR 4 reads it, those of the part's tables among them (R169); a byte of a POISONED line is a free value (log entry 51). -/
def bar4Byte (s : State) (a : Nat) : Byte :=
  if isHidden s a then 0
  else if (homeLine s (a / 128)).poisoned then BitVec.ofNat 8 (Config.choice (s.fresh + a))
  else readByte s a

/-- A BAR 4 read. -/
def readBar4 (s : State) (x n : Nat) : State :=
  if !inBar4 s x n then unsupported s
  else
    let s1 := emit s (.readData ((List.range n).map (fun i => bar4Byte s (x + i))))
    { (linesOf x n).foldl readLine s1 with fresh := s1.fresh + (x + n) }

/-- BAR4_READ. -/
def execBar4Read (offset size : Nat) (s : State) : Host.Outcome State Fault Refusal :=
  actBar4 s (.bar4Read offset size) (fun s => readBar4 s offset size)

/-- A refused write is recorded with its granule and signalled (R138, R160). -/
def recordViolation (s : State) (a : Nat) : State :=
  notify (latch s F.stkWpViolation.valid F.stkWpViolation.overflow (fun u => putF u F.stkWpViolation.granule (a / 4096)))
    F.stkObjNotify.enable F.stkObjNotify.vector

/-- The part of `n` bytes at `a` that lies in line `l`, as an invalidating write at its home. -/
def writeLine (a : Nat) (bs : List Byte) (s : State) (l : Nat) : State :=
  let first := max a (l * 128)
  request s l (.invalidatingWrite (first - l * 128) ((bs.drop (first - a)).take ((l + 1) * 128 - first)))

/-- A BAR 4 write. -/
def writeBar4 (s : State) (x : Nat) (bs : List Byte) : State :=
  if !inBar4 s x bs.length then unsupported s
  else if writeRefused s x bs.length then recordViolation s x
  else (linesOf x bs.length).foldl (writeLine x bs) s

/-- BAR4_WRITE. -/
def execBar4Write (offset : Nat) (data : List Byte) (s : State) : Host.Outcome State Fault Refusal :=
  actBar4 s (.bar4Write offset data) (fun s => writeBar4 s offset data)

/-! ## Bus mastering and the link (R603, R604) -/

/-- Host traffic may go on: what waits is written and signalled. -/
def resumeHost (s : State) : State :=
  if hostOff s then s
  else
    let s1 := flushAll (resumeReads s)
    releaseVectors (flushObj s1.stk.objOut.length s1)

/-- BUS_MASTER_ENABLE: a change of Bus Master Enable or of D3hot. -/
def execBusMasterEnable (enabled d3hot : Bool) (s : State) : Host.Outcome State Fault Refusal :=
  act s s.plt.mainRails (fun s => resumeHost { s with pcie := { s.pcie with busMaster := enabled, d3hot := d3hot } })

/-- The restore of entry `i` fails at its read: the request fails, and what waited for the restore completes (R151, R596). -/
def failRestore (s : State) (i : Nat) : State :=
  if (entryOf s i).state == .parked && (tabGet none s.rqt.restores i).isSome then applyHeld (endRestore (failEntry s i 36) i 9) i else s

/-- A copy reads host memory. -/
def copyReadsHost (s : State) (e : OdtEntry) : Bool :=
  (e.state == .publishing && (odtOf s (handleIndex e.source)).tier == 4) || (e.state == .moving && e.tier == 4)

/-- The loads of images from the objects that `p` tells fail at their reads: of regions, of microcode, of the package (R596). -/
def failLoads (s : State) (p : Nat → Bool) : State :=
  let s1 := (tabKeys s.fab.regions (fun x => x.state == .loading && p x.loadHandle)).foldl (fun t n => endRead t n (.errorAt 0)) s
  let s2 := (tabKeys s1.ucode.slots (fun x => x.loadFor.isSome && p x.handle)).foldl (fun t j =>
    faultSlot (match (slotOf t j).lease with | some k => endLease t k | none => t) j 11) s1
  match s2.fab.pkgLoading with
  | some (h, k) =>
    if p h then
      let s3 := match k with
        | some j => endLease s2 j
        | none => s2
      placePackage { s3 with fab := { s3.fab with pkgLoading := none } } h none
    else s2
  | none => s2

/-- A read of the object of handle `h` reaches host memory. -/
def inHost (s : State) (h : Nat) : Bool := (odtOf s (handleIndex h)).tier == 4

/-- Every read of host memory that is outstanding fails (R604). -/
def failReads (s : State) : State :=
  let s1 := endEstablish (endAttest s none) none
  let s2 := (tabKeys s1.stk.odt (copyReadsHost s1)).foldl (fun t i => endCopy t (handleOf t i) .whole false {}) s1
  let s3 := (tabKeys s2.rqt.restores (fun r => r.isSome)).foldl (fun t i => if restoreUsesHost t i then failRestore t i else t) s2
  failLoads s3 (inHost s3)

/-- DL_UP_LOSS. -/
def execDlUpLoss (s : State) : Host.Outcome State Fault Refusal :=
  act s (s.plt.mainRails && isSet s F.pltPcieLink.dlUp) (fun s =>
    failReads (satF (putF { s with pcie := { s.pcie with linkDownPending := true } } F.pltPcieLink.dlUp 0) F.pltPcieLink.linkDowns))

/-- DL_UP_RETURN: the link is up; after a loss the vector is signalled. -/
def execDlUpReturn (speed width : Nat) (flit : Bool) (s : State) : Host.Outcome State Fault Refusal :=
  act s s.plt.mainRails (fun s =>
    let s1 := putF (putF (putF (putF s F.pltPcieLink.dlUp 1) F.pltPcieLink.flit (boolCode flit)) F.pltPcieLink.width width)
      F.pltPcieLink.speed speed
    let s2 := resumeHost { s1 with pcie := { s1.pcie with linkDownPending := false } }
    if s.pcie.linkDownPending then notify s2 F.pltPcieCtl.notifyEnable F.pltPcieCtl.vector else s2)

/-! ## Resets of the endpoint (R541, R601, R605) -/

/-- The endpoint resets at once: configuration and MSI-X table, and the link unless only the function resets. -/
def resetEndpoint (s : State) (function : Bool) : State :=
  let s1 := { s with pcie := { functionReset := function, linkDownPending := false } }
  if function then s1
  else putF (putF (putF (putF s1 F.pltPcieLink.dlUp 0) F.pltPcieLink.flit 0) F.pltPcieLink.width 0) F.pltPcieLink.speed 0

/-- The endpoint resets, and the rest of the part departs and then resets. -/
def endpointReset (s : State) (function : Bool) : Host.Outcome State Fault Refusal :=
  act s s.plt.mainRails (fun s => depart (resetEndpoint s function) (.reset .warm))

/-- PERST#. -/
def execPerst (s : State) : Host.Outcome State Fault Refusal := endpointReset s false

/-- Hot Reset. -/
def execHotReset (s : State) : Host.Outcome State Fault Refusal := endpointReset s false

/-- Link Disable. -/
def execLinkDisable (s : State) : Host.Outcome State Fault Refusal := endpointReset s false

/-- Function Level Reset. -/
def execFunctionLevelReset (s : State) : Host.Outcome State Fault Refusal := endpointReset s true

/-! ## Configuration requests (R539, R590, R591) -/

/-- A DWORD of the configuration space: the values of R590 and R591, and else what the manual does not give (log entry 10). -/
def configDword (s : State) (off : Nat) : Nat :=
  let x := Config.configSpace off % 2 ^ 32
  match off with
  | 0x00 => 0x6400 * 65536 + 0x1F5C
  | 0x08 => 0x120000B0
  | 0x10 => x / 2 ^ 26 * 2 ^ 26 + 4
  | 0x18 => x / 2 ^ 24 * 2 ^ 24 + 4
  | 0x20 => 0xC
  | 0x24 => x / 2 ^ (s.pcie.bar4Log2 - 32) * 2 ^ (s.pcie.bar4Log2 - 32)
  | 0x2C => 0x6400 * 65536 + 0x1F5C
  | 0x30 => 0
  | 0x3C => x - x / 256 % 256 * 256
  | _ => x

/-- What a configuration request does. -/
def configure (s : State) : CfgAccess → State
  | .read off => emit s (.configData (configDword s (off / 4 * 4)))
  | .msix enable functionMask =>
    releaseVectors { s with pcie := { s.pcie with msixEnable := enable, functionMask := functionMask } }
  | .bar4Size log2 => if 36 ≤ log2 ∧ log2 ≤ 41 then { s with pcie := { s.pcie with bar4Log2 := log2 } } else s
  | .other => s

/-- CONFIGURATION_REQUEST: Retry Status until step 6 of a start. -/
def execConfigurationRequest (a : CfgAccess) (s : State) : Host.Outcome State Fault Refusal :=
  act s s.plt.mainRails (fun s => if s.plt.starting.isSome then emit s .configRetry else configure s a)

/-! ## Host reads and errors (R596, R603, R606) -/

/-- A failed read of host memory is counted and reported. -/
def countReadError (s : State) : HostReadResult → State
  | .data _ => s
  | .unsupported => satF s F.pltPcieErr.hostAborts
  | .poisoned => reportAer (satF s F.pltPcieErr.poisonedIn) 12
  | .timeout => reportAer (satF s F.pltPcieErr.completionTimeouts) 14

/-- The command at the head of a tenant's queue could not be read: READ_FAULT (R242, R258). -/
def failCommandRead (s : State) (t opcode requestId tag : Nat) : State :=
  if !canRead s t then s
  else
    let sq := (queuesOf s t).sqHead
    completeBare (recordFault (readCommand s t) t sq 15) t opcode requestId tag 15

/-- The operation that issued a read of host memory goes on with its data, or fails. Commands, copies, loads and restores whose reads
succeed go on by their own commands. -/
def endHostRead (s : State) (use : HostReadUse) (result : HostReadResult) : State :=
  let s1 := countReadError s result
  match use, result with
  | .attest, .data bs => endAttest s1 (some bs)
  | .attest, _ => endAttest s1 none
  | .wrap, .data bs => endEstablish s1 (some bs)
  | .wrap, _ => endEstablish s1 none
  | .command _ _ _ _, .data _ | .object _, .data _ | .restore _, .data _ => s1
  | .command t op id tag, _ => failCommandRead s1 t.val op id tag
  | .object h, _ =>
    failLoads (if copyReadsHost s1 (odtOf s1 (handleIndex h)) then endCopy s1 h .whole false {} else s1) (fun k => k == h && inHost s1 h)
  | .restore i, _ => if restoreUsesHost s1 i then failRestore s1 i else s1

/-- HOST_READ_COMPLETION. -/
def execHostReadCompletion (use : HostReadUse) (result : HostReadResult) (s : State) : Host.Outcome State Fault Refusal :=
  act s (isReady s) (fun s => endHostRead s use result)

/-- POISONED_WRITE: discarded, counted and reported. -/
def execPoisonedWrite (bar : Bar) (s : State) : Host.Outcome State Fault Refusal :=
  act s (s.plt.mainRails && [Bar.bar0, Bar.bar2, Bar.bar4].contains bar) (fun s => reportAer (satF s F.pltPcieErr.poisonedIn) 12)

/-- The AER error of a fatal condition. -/
def fatalCode : FatalKind → Nat
  | .malformed => 18 | .flowControl => 13 | .dataLink => 4 | .internal => 22

/-- MALFORMED_TLP and the other fatal conditions: R603 until reset. -/
def execMalformedTlp (kind : FatalKind) (s : State) : Host.Outcome State Fault Refusal :=
  act s s.plt.mainRails (fun s => reportAer { s with pcie := { s.pcie with fatal := true } } (fatalCode kind))

/-! ## Ethernet links (R451, R614) -/

/-- ETHERNET_PORT_UP: the port trained at 400 or 800 Gb/s, in units of MB/s. -/
def execEthernetPortUp (p : EthPort) (rate : Nat) (s : State) : Host.Outcome State Fault Refusal :=
  act s (s.plt.mainRails && (rate == 400 || rate == 800)) (fun s =>
    { s with lnk := { s.lnk with ethUp := tabPut 0 s.lnk.ethUp p.val (rate * 125) } })

/-- ETHERNET_PORT_DOWN: the port loses its link. -/
def execEthernetPortDown (p : EthPort) (s : State) : Host.Outcome State Fault Refusal :=
  act s s.plt.mainRails (fun s => { s with lnk := { s.lnk with ethUp := tabPut 0 s.lnk.ethUp p.val 0 } })

end Sys2Proof.Machine
end

