-- ==== Sys2Proof/Machine/Charcoal.lean ====
section
/-! DEFINITION. The end of the exit from Charcoal, and what the part held through it (R580 to R582). -/

namespace Sys2Proof.Machine

open Sys2Proof

/-- What a command or message that waited does; one that no power state holds back does nothing here. -/
def servedWhenAwake (c : Instr) (s : State) : Host.Outcome State Fault Refusal :=
  match c with
  | .load n handle => execLoad n handle s
  | .start n handle => execStart n handle s
  | .drain n handle => execDrain n handle s
  | .reload n handle => execReload n handle s
  | .reset n handle => execReset n handle s
  | .resetRepair n handle => execResetRepair n handle s
  | .fabPkgLoad handle => execFabPkgLoad handle s
  | .fabVdcFlush => execFabVdcFlush s
  | .attach handle comp => execAttach handle comp s
  | .detach comp => execDetach comp s
  | .stkUcodeClear mask => execStkUcodeClear mask s
  | .xtsLoad slot => execXtsLoad slot s
  | .xtsClear slot => execXtsClear slot s
  | .domainLoad slot domain owner => execDomainLoad slot domain owner s
  | .domainClear slot => execDomainClear slot s
  | .domainUnpin slot => execDomainUnpin slot s
  | .domainFlush slot => execDomainFlush slot s
  | .tableLoad slot tag => execTableLoad slot tag s
  | .tableClear slot => execTableClear slot s
  | .gcmLoad slot => execGcmLoad slot s
  | .gcmClear slot => execGcmClear slot s
  | .bind c role => execBind c role s
  | .unbind c => execUnbind c s
  | .addRegions c => execAddRegions c s
  | .removeRegions c => execRemoveRegions c s
  | .set t c weight => execSet t c weight s
  | .recoverRequest => execRecoverRequest s
  | .recoverFailedPart => execRecoverFailedPart s
  | .join roleReq peer => execJoin roleReq peer s
  | .switch => execSwitch s
  | .suspend => execSuspend s
  | .stage handle read => execStage handle read s
  | .advance => execAdvance s
  | .keylistLoad handle read => execKeylistLoad handle read s
  | .keylistClear => execKeylistClear s
  | .attest address => execAttest address s
  | .establish address => execEstablish address s
  | .burn => execBurn s
  | .discard nand => execDiscard s nand
  | .flsLock nand => execFlsLock nand s
  | .sqTail t value => execSqTail t value s
  | .cqHead t value => execCqHead t value s
  | .trHead t value => execTrHead t value s
  | .bar4Read offset size => execBar4Read offset size s
  | .bar4Write offset data => execBar4Write offset data s
  | .rstOpen h durability entry twin modelId adapterId => execRstOpen h durability entry twin modelId adapterId s
  | .rstOpened h => execRstOpened h s
  | .logAppend h start entry entries => execLogAppend h start entry entries s
  | .logAck h length => execLogAck h length s
  | .publishBlock h block pages => execPublishBlock h block pages s
  | .pubRef h block parentDigest digest tokens => execPubRef h block parentDigest digest tokens s
  | .pubAck h blocks => execPubAck h blocks s
  | .pubNeed h block => execPubNeed h block s
  | .offer h remaining entry modelId adapterId entries => execOffer h remaining entry modelId adapterId entries s
  | .offerAck h => execOfferAck h s
  | .pull h first count layer => execPull h first count layer s
  | .pageData h page layer fill rows => execPageData h page layer fill rows s
  | .claim h offering twin => execClaim h offering twin s
  | .grant h => execGrant h s
  | .deny h owner => execDeny h owner s
  | .rstRelease h => execRstRelease h s
  | .whoOwns h => execWhoOwns h s
  | .ownerIs h owner => execOwnerIs h owner s
  | .rstResume h => execRstResume h s
  | .recover h ledger => execRecover h ledger s
  | .objRead h handle offset => execObjRead h handle offset s
  | .objData h handle offset bytes => execObjData h handle offset bytes s
  | .close h => execClose h s
  | .closed h => execClosed h s
  | .pfxQuery h domain parentDigest modelId adapterId tokens => execPfxQuery h domain parentDigest modelId adapterId tokens s
  | .pfxAnswer h matched handles => execPfxAnswer h matched handles s
  | .rstTransportOnly h => execRstTransportOnly h s
  | .memReqLoad f => execMemReqLoad f s
  | .memReqStore f data => execMemReqStore f data s
  | .memReqAdd f operand => execMemReqAdd f operand s
  | .memReqMinS f operand => execMemReqMinS f operand s
  | .memReqMinU f operand => execMemReqMinU f operand s
  | .memReqMaxS f operand => execMemReqMaxS f operand s
  | .memReqMaxU f operand => execMemReqMaxU f operand s
  | .memReqSwap f operand => execMemReqSwap f operand s
  | .memReqCas f compare swap => execMemReqCas f compare swap s
  | .tensor f index total block => execTensor f index total block s
  | _ => .next s

/-- The state after a held command or message is served as usual (R581). -/
def serveHeld (s : State) (c : Instr) : State :=
  match servedWhenAwake c s with
  | .next t => t
  | _ => s

/-- Every region is scrubbed, and the part reads White or the state requested: an EMPTY region stays EMPTY and a FAULTED one
FAULTED (R580, R582). -/
def endCharcoal (s : State) : State :=
  let s1 := (List.range 64).foldl scrubRegion s
  let s2 := pwrStatus (setPwrState s1 (if s1.pwr.exitGrey then .grey else .white)) 0
  { s2 with pwr := { s2.pwr with held := [], wakePending := false }, tm := { s2.tm with received := [] } }

/-- CHARCOAL_EXIT_COMPLETE: the regions are scrubbed, and what the part held is served in the order it arrived. -/
def execCharcoalExitComplete (s : State) : Host.Outcome State Fault Refusal :=
  .next (if isReady s && s.pwr.state == .leaving then s.pwr.held.foldl serveHeld (finish s (endCharcoal s)) else s)

end Sys2Proof.Machine
end

