-- ==== Sys2Proof/Machine/Commit.lean ====
section
/-! DEFINITION. The commit of a step at the arbiter: recomputed blocks, prefilled positions, drawn roots and accepted trees, with their
token records (R226 to R233, R245 to R252, R261, R270 to R279, R328, R356 to R358). -/

namespace Sys2Proof.Machine

open Sys2Proof

/-! ## Records and the ends of a turn -/

/-- A token lies in a declared audio range (R100, R245). -/
def isAudio (d : ModelDescriptor) (t : Nat) : Bool := d.audioRanges.any (fun r => decide (r.1 ≤ t) && decide (t ≤ r.2))

/-- A token of a commit with its LOGPROB, and whether it came from a candidate. -/
structure Committed where
  token : Nat
  log : BitVec 32
  drafted : Bool
deriving DecidableEq, Repr

/-- Token records from a position on; the last has FINAL where the commit is final, and the first tells of a missed deadline (R246, R250,
R275). -/
def tokenRecords (d : ModelDescriptor) (e : Entry) (i pos : Nat) (final missed : Bool) (l : List Committed) : List TokenRecord :=
  ((List.range l.length).zip l).map (fun x =>
    { requestId := e.requestId, position := pos + x.1, token := x.2.token, logprob := x.2.log, audio := isAudio d x.2.token,
      final := final && x.1 + 1 == l.length, drafted := x.2.drafted, deadlineMissed := missed && x.1 == 0, index := i })

/-- The records of a commit of entry `i` go to its tenant. -/
def giveTokens (s : State) (d : ModelDescriptor) (i pos : Nat) (final : Bool) (l : List Committed) : State :=
  let e := entryOf s i
  let rs := tokenRecords d e i pos final (tabGet false s.rqt.missToken i) l
  let s1 := rs.foldl (fun t r => giveRecord t e.tenant.val (.token r)) s
  let s2 := modEntry s1 i (fun e => { e with tokensOut := (e.tokensOut + l.length) % 2 ^ 32 })
  if l.isEmpty then s2 else { s2 with rqt := { s2.rqt with missToken := tabPut false s2.rqt.missToken i false } }

/-- DEADLINE after a commit: STEP_BUDGET later, or none (R250). -/
def nextDeadline (s : State) (i : Nat) : State :=
  let s1 := modEntry s i (fun e => { e with
    lastCommitLmc := s.plt.lmc
    deadline := if e.stepBudget = 0 then 0 else (s.plt.lmc + e.stepBudget) % 2 ^ 64 })
  { s1 with rqt := { s1.rqt with missed := tabPut false s1.rqt.missed i false } }

/-- The request is DONE: the log takes everything, the FINISHED notice follows its records, and held commands apply. -/
def finishRequest (s : State) (i : Nat) : State :=
  let s1 := setInput (modEntry s i (fun e => { e with state := .done })) i none
  applyHeld (notice (sendLog s1 i) i 32 0) i

/-- The entry's resolved step is counted, and the arbiter has resolved one more event (R226, R230). -/
def countStep (s : State) (i : Nat) : State := arbitrate (modEntry s i (fun e => { e with steps := (e.steps + 1) % 2 ^ 32 })) i

/-- What follows every commit of positions: the log, and the publication of blocks (R328, R329). -/
def afterPositions (s : State) (i : Nat) : State := publishNext (if batchReached s i then sendLog s i else s) i

/-! ## Rows (R174, R175, R274) -/

/-- FILL of the pages of entry `i` that hold positions `n` to `m` - 1, in every layer. -/
def fillTo (s : State) (d : ModelDescriptor) (i m : Nat) : State :=
  (List.range d.layers).foldl (fun t l =>
    let e := pageEntry (manifestOf t i) l ((m - 1) / 64)
    if e.valid && (pageOf t e.page).state == .open_ then fillPage t e.page ((m - 1) % 64 + 1) else t) s

/-- Copies the rows of one step row to another, for every head and kind of the page at granule `g`. -/
def moveRow (s : State) (d : ModelDescriptor) (g src dst : Nat) : State :=
  (List.range (2 * d.kvHeads)).foldl (fun t hv =>
    memWrite t (granuleAddr g + (hv * 64 + dst) * rowBytes d) (memBytes t (granuleAddr g + (hv * 64 + src) * rowBytes d) (rowBytes d))) s

/-- The compaction of an accepted path into the tail that takes position `n`, in every layer. -/
def compact (s : State) (d : ModelDescriptor) (i n : Nat) (path : List Nat) : State :=
  (List.range d.layers).foldl (fun t l =>
    let e := pageEntry (manifestOf t i) l (n / 64)
    if e.valid && (pageOf t e.page).state == .open_ then
      ((List.range path.length).zip path).foldl (fun u x =>
        if x.1 = x.2 then u else moveRow u d e.page (n % 64 + x.2) (n % 64 + x.1)) t
    else t) s

/-! ## Draws of a root (R261, R272, R277) -/

/-- The random state of entry `i` and the part's next free value. -/
def drawOf (s : State) (i : Nat) : Draw := { rng := (entryOf s i).rngState, fresh := s.fresh }

/-- What a root's row of logits gives: the token with its LOGPROB, and the draws. -/
def rootDraw (s : State) (i : Nat) (logits : List (BitVec 32)) : Nat × BitVec 32 × Draw :=
  let e := entryOf s i
  let p := distOf e logits (drawOf s i)
  let x := takeToken (isGreedy e.temperature) p.1 p.2
  (x.1, logOf p.1 x.1, x.2)

/-- The draws of a commit take effect. -/
def keepDraw (s : State) (i : Nat) (d : Draw) : State :=
  modEntry { s with fresh := d.fresh } i (fun e => { e with rngState := d.rng })

/-- The draft head's tree for the root just drawn (R268). -/
def keepTree (s : State) (i : Nat) (draft : List CandNode) : State :=
  { s with rqt := { s.rqt with drafts := tabPut [] s.rqt.drafts i draft } }

/-- A root that was drawn at LENGTH; one in STOP_TOKENS ends the request at once, with its record and no rows. -/
def takeRoot (s : State) (d : ModelDescriptor) (i : Nat) (r : Nat × BitVec 32 × Draw) : State :=
  let s1 := modEntry (keepDraw s i r.2.2) i (fun e => { e with
    draft := { e.draft with rootToken := r.1, rootLogprob := r.2.1, rootValid := true, redraw := false } })
  if (entryOf s1 i).stopTokens.contains r.1 then
    finishRequest (giveTokens s1 d i (entryOf s1 i).length true [{ token := r.1, log := r.2.1, drafted := false }]) i
  else s1

/-! ## Recomputed blocks (R357, R358) -/

/-- What follows the recomputation of the last dropped block. -/
def afterRecompute (s : State) (i : Nat) : State :=
  match inputOf s i with
  | none => s
  | some x =>
    match x.after with
    | .commit => s
    | .decode => endRecompute s i
    | .done => applyHeld (setInput s i none) i
    | .handoff => applyHeld (wantOffer (enterHandoffOut s i) i) i
    | .resync => resyncDone s i

/-- A block's pages are written again: they seal as they fill, and are dropped no longer. -/
def commitBlock (s : State) (d : ModelDescriptor) (i : Nat) (q : StepReq) : State :=
  let b := q.position / 64
  let s1 := fillTo s d i q.upTo
  let s2 := (List.range d.layers).foldl (fun t l =>
    setPageEntry t i l b { pageEntry (manifestOf t i) l b with dropped := false }) s1
  if (droppedBlocks s2 i).isEmpty then afterRecompute s2 i else s2

/-! ## Prefilled positions (R228, R252, R277, R356) -/

/-- Positions of the input are committed; the last of them draws the root. -/
def commitPrefill (s : State) (d : ModelDescriptor) (i : Nat) (q : StepReq) (logits : List (List (BitVec 32))) : State :=
  match inputOf s i with
  | none => s
  | some x =>
    let k := q.upTo - q.position
    let s1 := fillTo s d i q.upTo
    let s2 := writeHistory s1 i q.position ((x.tokens.take k).map (fun t => { input := !x.forced, token := t }))
    let s3 := setInput (modEntry s2 i (fun e => { e with length := q.upTo })) i
      (if (x.tokens.drop k).isEmpty then none else some { x with tokens := x.tokens.drop k })
    let s4 := afterPositions s3 i
    if (x.tokens.drop k).isEmpty then takeRoot s4 d i (rootDraw s4 i ((logits[0]?).getD [])) else s4

/-! ## Accepted trees (R270 to R279) -/

/-- The node at which a path is cut: a stop token, the turn limit or the context limit (R272). -/
def endsAt (s : State) (e : Entry) (tree : List CandNode) (j : Nat) : Bool :=
  let n := e.length + depthOf tree 64 j + 1
  (j != 0 && e.stopTokens.contains (nodeToken tree j)) || (e.turnLimit != 0 && decide (e.turnLimit ≤ n - e.inputEnd)) ||
    decide (contextLimit s e.composition.val ≤ n)

/-- The outcome of a decoding step of entry `i`. -/
def resolveTree (s : State) (i : Nat) (q : StepReq) (logits : List (List (BitVec 32))) : Accepted :=
  let e := entryOf s i
  walkTree e { source := q.source, hasProb := q.hasProb, requestId := e.requestId, position := e.length } q.tree logits
    (endsAt s e q.tree) 65 0 [0] [] (drawOf s i)

/-- The commit is final (R272). -/
def isFinal (s : State) (i : Nat) (a : Accepted) : Bool := a.cut || (entryOf s i).stopTokens.contains a.root

/-- The tokens whose records a decoding step writes: the root, the accepted candidates, and a next root that stops the request. -/
def treeTokens (s : State) (i : Nat) (q : StepReq) (a : Accepted) : List Committed :=
  let e := entryOf s i
  { token := e.draft.rootToken, log := e.draft.rootLogprob, drafted := false } ::
    (((a.path.drop 1).zip a.logs).map (fun x => { token := nodeToken q.tree x.1, log := x.2, drafted := true })) ++
    (if !a.cut && e.stopTokens.contains a.root then [{ token := a.root, log := a.rootLog, drafted := false }] else [])

/-- DRAFT_STATE and the counts of verified candidates after the commit (R278, R279, R283). -/
def commitDraft (s : State) (i : Nat) (q : StepReq) (a : Accepted) : State :=
  let n := q.tree.length
  let k := a.path.length - 1
  let s1 := modEntry s i (fun e =>
    let x := draftAfter (getF s F.rqtSpecCtl.rejectLimit) (getF s F.rqtSpecCtl.recoverCount) (maxWidth s e.composition.val) q.probe
      e.draft n k
    { e with draft := { x with
        rootToken := if a.cut then x.rootToken else a.root
        rootLogprob := if a.cut then x.rootLogprob else a.rootLog
        rootValid := !a.cut
        redraw := false } })
  if n = 0 then s1 else wrapF (wrapF s1 F.rqtSpecStats.proposed n) F.rqtSpecStats.accepted k

/-- What follows a commit of tokens: DONE, or from PREFILL the OFFER of a PROMPT composition or DECODE (R228). -/
def afterTokens (s : State) (i : Nat) (final : Bool) : State :=
  if final then finishRequest s i
  else if (entryOf s i).state == .prefill then
    let s1 := setInput s i none
    if roleOf s1 (entryOf s1 i).composition.val == .prompt then applyHeld (wantOffer (enterHandoffOut s1 i) i) i
    else applyHeld (modEntry s1 i (fun e => { e with state := .decode })) i
  else s

/-- The positions of an accepted path are committed, with their records. -/
def commitTree (s : State) (d : ModelDescriptor) (i : Nat) (q : StepReq) (a : Accepted) : State :=
  let e := entryOf s i
  let n := e.length
  let m := n + a.path.length
  let s1 := fillTo (compact s d i n a.path) d i m
  let tokens := e.draft.rootToken :: ((a.path.drop 1).map (nodeToken q.tree))
  let s2 := writeHistory s1 i n (tokens.map (fun t => { input := false, token := t }))
  let l := treeTokens s i q a
  let final := isFinal s i a
  let s3 := commitDraft (keepDraw (modEntry s2 i (fun e => { e with length := m })) i a.draw) i q a
  let s4 := afterPositions (nextDeadline (giveTokens s3 d i n final l) i) i
  afterTokens s4 i final

/-! ## The commit at the arbiter -/

/-- A discarded commit is an event at the arbiter of the entry that still holds its request (R230). -/
def countDiscard (s : State) (q : StepReq) : State :=
  let e := entryOf s q.index
  if e.state != .free && e.requestId == q.requestId then arbitrate s q.index else s

/-- Token records and positions that a commit adds. -/
def commitSize (s : State) (i : Nat) (q : StepReq) (logits : List (List (BitVec 32))) : Nat × Nat :=
  match q.kind with
  | .decode =>
    let a := resolveTree s i q logits
    ((treeTokens s i q a).length, a.path.length)
  | .prefill => (1, q.upTo - q.position)
  | .redraw => (1, 0)
  | .recompute => (1, 0)

/-- The commit need not wait: the ring has room for its records (R249, R273), the log follows closely enough (R328), and no answer of
the home is awaited (R504). -/
def mayCommit (s : State) (i : Nat) (size : Nat × Nat) : Bool :=
  let e := entryOf s i
  decide (size.1 ≤ ringFree s e.tenant.val) && (size.2 == 0 || decide (e.length + size.2 ≤ e.logged + 128)) &&
    !(tabGet false s.rqt.taken i)

/-- The commit takes effect; with a root that it draws comes the draft head's tree. -/
def commitStep (s : State) (d : ModelDescriptor) (k i : Nat) (q : StepReq) (logits : List (List (BitVec 32))) (draft : List CandNode) :
    State :=
  let s0 := countStep (leaveStep s k i) i
  let s1 := if q.kind == .recompute then s0 else keepTree s0 i draft
  match q.kind with
  | .recompute => commitBlock s1 d i q
  | .prefill => commitPrefill s1 d i q logits
  | .redraw => takeRoot s1 d i (rootDraw s1 i ((logits[0]?).getD []))
  | .decode => commitTree s1 d i q (resolveTree s1 i q logits)

/-- The commit of entry `i`'s part of its completed step `k`. -/
def commitPart (s : State) (k i : Nat) (st : Step) (q : StepReq) (logits : List (List (BitVec 32))) (draft : List CandNode) :
    State :=
  if !st.complete then s
  else if !q.valid then discardPart (countDiscard s q) k q
  else
    match descOf s st.comp with
    | none => s
    | some d => if mayCommit s i (commitSize s i q logits) then commitStep s d k i q logits draft else s

/-- STEP_COMMIT: the commit of entry `index`'s completed step reaches the arbiter. `logits` gives the rows of logits that the image left for
the nodes of its tree, `draft` the tree that the draft head forms for a root that the commit draws. -/
def execStepCommit (index : Nat) (logits : List (List (BitVec 32))) (s : State) (draft : List CandNode := []) :
    Host.Outcome State Fault Refusal :=
  actPages s (runs s) (fun s =>
    match stepFor s index with
    | some k =>
      match stepOf s k with
      | some st =>
        match partOf st index with
        | some q => commitPart s k index st q logits draft
        | none => s
      | none => s
    | none => s)

end Sys2Proof.Machine
end

