-- ==== Sys2Proof/Machine/Meter.lean ====
section
/-! DEFINITION. The meter die: its time and energy, its log, the event frames it acts on, what it counts, its seal and faults, and its
I3C port (R514 to R535). -/

namespace Sys2Proof.Machine

open Sys2Proof

/-! ## Time, energy and the log (R517, R518, R527, R529) -/

/-- The meter's own time and energy go on to the event (R517, R518). -/
def meterAdvance (s : State) (m : MeterStamp) : State :=
  { s with mtr := { s.mtr with
      mtc := (s.mtr.mtc + m.periods) % 2 ^ 64, energy := (s.mtr.energy + m.millijoules) % 2 ^ 64 } }

/-- A meter command: what the meter does with it while MTR_VAUX3 is present (R516). -/
def actMeter (s : State) (m : MeterStamp) (effect : State → State) : Host.Outcome State Fault Refusal :=
  act s s.mtr.powered (fun s => effect (meterAdvance s m))

/-- The new record of a type with a stamp, an energy and a body, signed, in its slot of the log, and its copy on the record lane
(R527, R529, R534). -/
def logRecord (s : State) (type mtc energy : Nat) (body : List Byte) : State :=
  let x := s.mtr
  let r0 : MeterRecord :=
    { recordNo := x.newest + 1, boot := x.boot, type := type, brokenSeal := x.broken, meterFault := x.fault, mtc := mtc,
      energy := energy, prevHash := x.prevHash, body := body, sigR := 0, sigS := 0 }
  let sig := Config.meterSign x.meterId (Config.sha384 ((meterRecordBytes r0).take 160))
  let r := { r0 with sigR := sig.1, sigS := sig.2 }
  let s1 := { s with mtr := { x with
    log := tabPut none x.log (r.recordNo % 2 ^ 20) (some r), newest := r.recordNo
    prevHash := Config.sha384 (meterRecordBytes r)
    feedFaults := if type = 9 then (x.feedFaults + 1) % 2 ^ 32 else x.feedFaults } }
  let s2 := emit s1 (.record (meterRecordBytes r))
  if x.ibi && x.dynAddr.isSome then emit s2 (.inBand r.recordNo) else s2

/-- A record stamped now. -/
def logNow (s : State) (type : Nat) (body : List Byte) : State := logRecord s type s.mtr.mtc s.mtr.energy body

/-- A FEED_FAULT record: 0 GAP, 1 CRC, 2 UNDECLARED, 3 NOT_OPEN, 4 SILENT (R522, R528). -/
def feedFault (s : State) (first last cause : Nat) : State := logNow s 9 (leBytes 4 first ++ leBytes 4 last ++ leBytes 1 cause)

/-! ## Compositions (R520, R524, R525, R528) -/

/-- The 48 bytes of a composition body of a frame. -/
def bodyBytes (b : CompositionBody) : List Byte :=
  leBytes 1 b.composition.val ++ leBytes 1 b.role ++ leBytes 1 b.regionCount ++ leBytes 1 b.stackCount ++ leBytes 4 b.kvGranules ++
    leBytes 2 b.slateGib ++ leBytes 2 0 ++ leBytes 4 b.umberGib ++ leBytes 1 b.package.toNat ++ leBytes 1 b.twinRole ++
    leBytes 1 b.member ++ List.replicate 29 0

/-- The composition body of a record. -/
def countBody (b : CompositionBody) (seq cause bound regionTicks stackTicks : Nat) : List Byte :=
  bodyBytes b ++ leBytes 4 seq ++ leBytes 1 cause ++ leBytes 3 0 ++ leBytes 8 bound ++ leBytes 8 regionTicks ++ leBytes 8 stackTicks

/-- The open composition `c`. -/
def meterComp (s : State) (c : Nat) : Option MeterComp := tabGet none s.mtr.comps c
def setMeterComp (s : State) (c : Nat) (x : Option MeterComp) : State :=
  { s with mtr := { s.mtr with comps := tabPut none s.mtr.comps c x } }

/-- The counts of an open composition up to meter time `t`. -/
def countTo (x : MeterComp) (t : Nat) : MeterComp :=
  { x with
    since := max x.since t
    bound := x.bound + (t - x.since)
    regionTicks := x.regionTicks + (t - x.since) * x.body.regionCount
    stackTicks := x.stackTicks + (t - x.since) * x.body.stackCount }

/-- Closes composition `c` at meter time `t`: CAUSE 0 UNBIND, 1 POWER, 2 FEED_LOST, 3 REBIND. -/
def closeComp (t energy cause : Nat) (s : State) (c : Nat) : State :=
  match meterComp s c with
  | none => s
  | some x =>
    let y := countTo x t
    setMeterComp (logRecord s 4 t energy (countBody y.body y.seq cause y.bound y.regionTicks y.stackTicks)) c none

/-- The open compositions, ascending. -/
def openComps (s : State) : List Nat := tabKeys s.mtr.comps (fun x => x.isSome)

/-- Opens a composition: an OPEN record with counts of zero. -/
def openComp (s : State) (seq : Nat) (b : CompositionBody) : State :=
  setMeterComp (logNow s 2 (countBody b seq 0 0 0 0)) b.composition.val
    (some { body := b, seq := seq, since := s.mtr.mtc, bound := 0, regionTicks := 0, stackTicks := 0 })

/-! ## Frames (R519, R522) -/

/-- A frame that is kept: its FEED_SEQ and its arrival. -/
def keepFrame (s : State) (seq : Nat) : State :=
  { s with mtr := { s.mtr with lastSeq := seq, lastFrame := s.mtr.mtc, lastEnergy := s.mtr.energy } }

/-- A frame that follows on the last one kept, opens a new count after a cold reset of the part, or leaves a gap. -/
def frameGap (s : State) (f : FeedHead) : State :=
  if s.mtr.lastSeq != 0 && f.seq != 1 && decide (s.mtr.lastSeq + 1 < f.seq) then feedFault s (s.mtr.lastSeq + 1) (f.seq - 1) 0 else s

/-- A frame that was kept already: the second copy. -/
def isSecondCopy (s : State) (f : FeedHead) : Bool :=
  s.mtr.lastSeq != 0 && decide (f.seq ≤ s.mtr.lastSeq) && !(f.seq == 1 && decide (1 < s.mtr.lastSeq))

/-- A frame that arrives at the meter, and what it does where it is kept and its TYPE is declared. -/
def actFeed (s : State) (m : MeterStamp) (f : FeedHead) (effect : State → State) : Host.Outcome State Fault Refusal :=
  actMeter s m (fun s =>
    let s1 := { s with mtr := { s.mtr with silent := false, heard := s.mtr.mtc } }
    if !f.crcOk then feedFault s1 (s1.mtr.lastSeq + 1) (s1.mtr.lastSeq + 1) 1
    else if isSecondCopy s1 f then s1
    else
      let s2 := keepFrame (frameGap s1 f) f.seq
      if f.declared then effect s2 else feedFault s2 f.seq f.seq 2)

/-- FEED_BIND. -/
def execFeedBind (m : MeterStamp) (f : FeedHead) (b : CompositionBody) (s : State) : Host.Outcome State Fault Refusal :=
  actFeed s m f (fun s => openComp (closeComp s.mtr.mtc s.mtr.energy 3 s b.composition.val) f.seq b)

/-- An UNBIND of an open composition. -/
def endComp (s : State) (seq : Nat) (b : CompositionBody) (x : MeterComp) : State :=
  closeComp s.mtr.mtc s.mtr.energy 0 (setMeterComp s b.composition.val
    (some { countTo x s.mtr.mtc with body := b, seq := seq })) b.composition.val

/-- FEED_UNBIND. -/
def execFeedUnbind (m : MeterStamp) (f : FeedHead) (b : CompositionBody) (s : State) : Host.Outcome State Fault Refusal :=
  actFeed s m f (fun s =>
    match meterComp s b.composition.val with
    | none => feedFault s f.seq f.seq 3
    | some x => endComp s f.seq b x)

/-- A RESOURCE frame of an open composition: a CHANGE record with the counts of the interval so far. -/
def changeComp (s : State) (seq : Nat) (b : CompositionBody) (x : MeterComp) : State :=
  let y := countTo x s.mtr.mtc
  setMeterComp (logNow s 3 (countBody b seq 0 y.bound y.regionTicks y.stackTicks)) b.composition.val
    (some { y with body := b, seq := seq })

/-- FEED_RESOURCE. With PACKAGE set the event concerns the part, and no composition changes. -/
def execFeedResource (m : MeterStamp) (f : FeedHead) (b : CompositionBody) (s : State) : Host.Outcome State Fault Refusal :=
  actFeed s m f (fun s =>
    if b.package then logNow s 3 (countBody b f.seq 0 0 0 0)
    else
      match meterComp s b.composition.val with
      | none => feedFault s f.seq f.seq 3
      | some x => changeComp s f.seq b x)

/-- A frame body of 48 bytes with its FEED_SEQ. -/
def frameBody (body : List Byte) (seq : Nat) : List Byte := (body ++ List.replicate (48 - body.length) 0).take 48 ++ leBytes 4 seq

/-- FEED_SEAL. -/
def execFeedSeal (m : MeterStamp) (f : FeedHead) (body : List Byte) (s : State) : Host.Outcome State Fault Refusal :=
  actFeed s m f (fun s => logNow s 7 (frameBody body f.seq))

/-- FEED_POWER: a TO of Black or of a reset closes every open composition. -/
def execFeedPower (m : MeterStamp) (f : FeedHead) (source target limit : Nat) (s : State) : Host.Outcome State Fault Refusal :=
  actFeed s m f (fun s =>
    let s1 := logNow s 8 (frameBody (leBytes 1 source ++ leBytes 1 target ++ leBytes 2 limit) f.seq)
    if target = 3 ∨ target = 4 ∨ target = 5 then (openComps s1).foldl (closeComp s1.mtr.mtc s1.mtr.energy 1) s1 else s1)

/-- FEED_KEEPALIVE. -/
def execFeedKeepalive (m : MeterStamp) (f : FeedHead) (s : State) : Host.Outcome State Fault Refusal :=
  actFeed s m f (fun s => s)

/-- SILENT: no frame for 10 ms of meter time (R523). -/
def execSilent (m : MeterStamp) (s : State) : Host.Outcome State Fault Refusal :=
  actMeter s m (fun s =>
    if s.mtr.silent || decide (s.mtr.mtc < s.mtr.heard + 100000) then s
    else
      let s1 := feedFault { s with mtr := { s.mtr with silent := true } } (s.mtr.lastSeq + 1) (s.mtr.lastSeq + 1) 4
      (openComps s1).foldl (closeComp s1.mtr.lastFrame s1.mtr.lastEnergy 2) s1)

/-! ## Intervals (R525) -/

/-- The INTERVAL record of composition `c` at the boundary `t`, from which its counts start again. -/
def intervalComp (t : Nat) (s : State) (c : Nat) : State :=
  match meterComp s c with
  | none => s
  | some x =>
    let y := countTo x t
    setMeterComp (logRecord s 5 t s.mtr.energy (countBody y.body y.seq 0 y.bound y.regionTicks y.stackTicks)) c
      (some { y with bound := 0, regionTicks := 0, stackTicks := 0 })

/-- INTERVAL: the end of INTERVAL_S seconds of meter time. -/
def execInterval (m : MeterStamp) (lowWatts highWatts lowMv highMv : Nat) (s : State) : Host.Outcome State Fault Refusal :=
  actMeter s m (fun s =>
    let t := s.mtr.intervalStart + s.mtr.intervalS * 10000000
    if s.mtr.mtc < t then s
    else
      let s1 := (openComps s).foldl (intervalComp t) s
      let s2 := logRecord s1 6 t s1.mtr.energy (leBytes 8 s1.mtr.interval ++ leBytes 8 (s1.mtr.energy - s1.mtr.intervalEnergy) ++
        leBytes 4 lowWatts ++ leBytes 4 highWatts ++ leBytes 4 lowMv ++ leBytes 4 highMv)
      { s2 with mtr := { s2.mtr with interval := s2.mtr.interval + 1, intervalStart := t, intervalEnergy := s2.mtr.energy } })

/-! ## Seal and faults (R530, R531) -/

/-- TAMPER: a mesh segment broke. -/
def execTamper (m : MeterStamp) (segment : Nat) (s : State) : Host.Outcome State Fault Refusal :=
  actMeter s m (fun s => logNow { s with mtr := { s.mtr with broken := true } } 10 (leBytes 1 segment))

/-- METER_FAULT: where the NOR failed, the part chooses whether it still accepts the record. -/
def execMeterFault (m : MeterStamp) (cause : MeterFaultCause) (s : State) : Host.Outcome State Fault Refusal :=
  actMeter s m (fun s =>
    let s1 := match cause with
      | .oscillator => logNow s 12 (leBytes 1 0)
      | .converter => logNow s 12 (leBytes 1 1)
      | .nor =>
        let d := drawFree s
        if d.1 % 2 = 0 then logNow d.2 12 (leBytes 1 2) else d.2
    { s1 with mtr := { s1.mtr with fault := true } })

/-! ## Lane status and supply (R516, R535) -/

/-- A lane status frame, and what IO_0 takes from it. -/
def laneStatus (s : State) : State :=
  let s0 := { s with mtr := { s.mtr with statusAt := s.mtr.mtc } }
  let s1 := emit s0 (.laneStatus s.mtr.meterId s.mtr.boot s.mtr.newest s.mtr.broken s.mtr.fault)
  if !s.plt.mainRails then s1
  else
    let s2 := { s1 with lane := { s1.lane with heardAt := s1.plt.lmc } }
    learnMeter (if getF s2 F.mtrStatus.state = 2 then putF s2 F.mtrStatus.state (min 1 (getF s2 F.mtrNewest.recordNo)) else s2)
      s.mtr.meterId

/-- LANE_STATUS_FRAME: 100 ms of meter time. -/
def execLaneStatusFrame (m : MeterStamp) (s : State) : Host.Outcome State Fault Refusal :=
  actMeter s m (fun s => if s.mtr.mtc < s.mtr.statusAt + 1000000 then s else laneStatus s)

/-- MTR_VAUX3_LOSS: the meter stops. -/
def execMtrVaux3Loss (m : MeterStamp) (s : State) : Host.Outcome State Fault Refusal :=
  actMeter s m (fun s => { s with mtr := { s.mtr with
    powered := false, comps := [], lastSeq := 0, lastFrame := 0, lastEnergy := 0, heard := 0, silent := false, dynAddr := none,
    ibi := false, pointer := 0 } })

/-- The body of a START record. -/
def startBody (s : State) : List Byte :=
  leBytes 16 s.mtr.meterId ++ leBytes 4 Config.meterRomVersion ++ leBytes 4 s.mtr.intervalS ++ leBytes 32 Config.meterRomHash

/-- The meter starts: BOOT grows, the time counter restarts, and ENERGY_TOTAL is what the newest record kept. -/
def startMeter (s : State) : State :=
  let x := s.mtr
  let e := match tabGet none x.log (x.newest % 2 ^ 20) with
    | some r => r.energy
    | none => x.energy
  let s1 := { s with mtr := { x with
    powered := true, boot := (x.boot + 1) % 2 ^ 32, mtc := 0, energy := e, interval := 0, intervalStart := 0, intervalEnergy := e } }
  laneStatus (logNow s1 1 (startBody s1))

/-- MTR_VAUX3_RETURN. -/
def execMtrVaux3Return (s : State) : Host.Outcome State Fault Refusal := act s (!s.mtr.powered) startMeter

/-! ## The I3C port (R532, R533) -/

/-- IDENTITY. -/
def execIdentity (m : MeterStamp) (s : State) : Host.Outcome State Fault Refusal :=
  actMeter s m (fun s => emit s (.i3c (leBytes 16 s.mtr.meterId ++ leBytes 4 Config.meterRomVersion ++ leBytes 8 s.mtr.newest ++
    leBytes 4 (min (s.mtr.newest - 1) 1048575))))

/-- I3C_STATUS. -/
def execI3cStatus (m : MeterStamp) (s : State) : Host.Outcome State Fault Refusal :=
  actMeter s m (fun s =>
    emit s (.i3c (leBytes 8 (s.mtr.broken.toNat + 2 * s.mtr.fault.toNat + s.mtr.feedFaults * 2 ^ 32))))

/-- POINTER. -/
def execPointer (m : MeterStamp) (recordNo : Nat) (s : State) : Host.Outcome State Fault Refusal :=
  actMeter s m (fun s => { s with mtr := { s.mtr with pointer := recordNo % 2 ^ 64 } })

/-- The 256 bytes that RECORD returns for a record number. -/
def recordAt (s : State) (k : Nat) : List Byte :=
  match tabGet none s.mtr.log (k % 2 ^ 20) with
  | some r => if r.recordNo = k then meterRecordBytes r else List.replicate 256 255
  | none => List.replicate 256 255

/-- RECORD. -/
def execRecord (m : MeterStamp) (s : State) : Host.Outcome State Fault Refusal :=
  actMeter s m (fun s =>
    emit { s with mtr := { s.mtr with pointer := (s.mtr.pointer + 1) % 2 ^ 64 } } (.i3c (recordAt s s.mtr.pointer)))

/-- CERTIFICATE. -/
def execCertificate (m : MeterStamp) (s : State) : Host.Outcome State Fault Refusal :=
  actMeter s m (fun s => emit s (.i3c (s.mtr.certificate.take 1024)))

/-- MARK. -/
def execMark (m : MeterStamp) (bytes : List Byte) (s : State) : Host.Outcome State Fault Refusal :=
  actMeter s m (fun s => logNow s 11 (bytes.take 8))

/-- ENTDAA: a target without a dynamic address takes the one that the controller assigns. -/
def execEntdaa (m : MeterStamp) (address : BitVec 7) (s : State) : Host.Outcome State Fault Refusal :=
  actMeter s m (fun s =>
    if s.mtr.dynAddr.isSome then emit s .i3cNack else { s with mtr := { s.mtr with dynAddr := some address } })

/-- SETDASA: a target without a dynamic address takes one under its static address. -/
def execSetdasa (m : MeterStamp) (static address : BitVec 7) (s : State) : Host.Outcome State Fault Refusal :=
  actMeter s m (fun s =>
    if s.mtr.dynAddr.isSome || static != s.mtr.staticAddr then emit s .i3cNack
    else { s with mtr := { s.mtr with dynAddr := some address } })

/-- A directed read of a target that has a dynamic address. -/
def directed (s : State) (bytes : List Byte) : State :=
  if s.mtr.dynAddr.isSome then emit s (.i3c bytes) else emit s .i3cNack

/-- GETPID. -/
def execGetpid (m : MeterStamp) (s : State) : Host.Outcome State Fault Refusal := actMeter s m (fun s => directed s Config.i3cPid)

/-- GETBCR. -/
def execGetbcr (m : MeterStamp) (s : State) : Host.Outcome State Fault Refusal := actMeter s m (fun s => directed s Config.i3cBcr)

/-- GETDCR. -/
def execGetdcr (m : MeterStamp) (s : State) : Host.Outcome State Fault Refusal := actMeter s m (fun s => directed s Config.i3cDcr)

/-- GETSTATUS. -/
def execGetstatus (m : MeterStamp) (s : State) : Host.Outcome State Fault Refusal :=
  actMeter s m (fun s => directed { s with fresh := s.fresh + 1 } (Config.i3cStatus s.fresh))

/-- ENEC: bit 0 of the events enables in-band interrupts. -/
def execEnec (m : MeterStamp) (events : Byte) (s : State) : Host.Outcome State Fault Refusal :=
  actMeter s m (fun s => { s with mtr := { s.mtr with ibi := s.mtr.ibi || events.getLsbD 0 } })

end Sys2Proof.Machine
end

