-- ==== Sys2Proof/Machine/Writes.lean ====
section
/-! DEFINITION. REGISTER_WRITE: a write to BAR 0 sets fields, and one that covers a WO field triggers the command that the field names
(R14, R17, R592 to R594). The command is that of the field's own row; the outside facts that such a row carries (the end of an
object's read, what the NAND reports) are those of a course without error (log entry 95). -/

namespace Sys2Proof.Machine

open Sys2Proof

/-- The outcome of a command. -/
abbrev Answer := Host.Outcome State Fault Refusal

/-! ## The commands of the registers, as the values of their WO fields name them -/

/-- PLT_ and FUSE_ (R548, R552, R555, R560, R561, R568, R569). -/
def platformCommand (s : State) (off v : Nat) : Option (State → Answer) :=
  if off = F.pltCtl.resetCmd.off then
    match v % 4 with
    | 1 => some execWarmReset | 2 => some execColdReset | _ => none
  else if off = F.pltFwCtl.cmd.off then
    match v % 4 with
    | 1 => some (execStage (getF s F.pltFwCtl.handle) .whole) | 2 => some execAdvance | _ => none
  else if off = F.pltKeylist.cmd.off then
    match v % 4 with
    | 1 => some (execKeylistLoad (getF s F.pltKeylist.handle) .whole) | 2 => some execKeylistClear | _ => none
  else if off = F.pltAttest.cmd.off then
    if v % 2 = 1 then some (execAttest (getF s F.pltAttest.addr * 4096)) else none
  else if off = F.pltWrapCtl.cmd.off then
    if v % 2 = 1 then some (execEstablish (getF s F.pltWrapCtl.addr * 4096)) else none
  else if off = F.fuseCtl.cmd.off then (if v % 2 = 1 then some execBurn else none)
  else if off = F.pwrCtl.cmd.off then
    match v % 8 with
    | 1 => some execWhite | 2 => some execGrey | 3 => some execCharcoal | 4 => some execBlack | _ => none
  else none

/-- The regions' windows and FAB_ (R101, R110, R117, R118, R121). -/
def fabricCommand (s : State) (off v : Nat) : Option (State → Answer) :=
  if off = F.fabCtl.fabVdcFlush.off then (if v / 2 % 2 = 1 then some execFabVdcFlush else none)
  else if off = F.fabPkgCtl.fabPkgLoad.off then
    if v % 2 = 1 then some (execFabPkgLoad (getF s F.fabPkgCtl.fabPkgHandle)) else none
  else
    match arrayIndex F.fabRgnCtl.cmd 64 off with
    | none => none
    | some n =>
      let r : RegionNo := Fin.ofNat 64 n
      match v % 16 with
      | 1 => some (execLoad r none) | 2 => some (execStart r none) | 3 => some (execDrain r none)
      | 4 => some (execReload r none) | 5 => some (execReset r none) | 6 => some (execResetRepair r none)
      | _ => none

/-- Key slots, microcode, code tables and domains (R154, R195, R219, R289, R304, R383, R385). -/
def slotCommand (s : State) (off v : Nat) : Option (State → Answer) :=
  if off = F.stkXtsSlot.cmd.off then
    let k : Fin 1024 := Fin.ofNat 1024 (getF s F.stkXtsSlot.slot)
    match v % 4 with
    | 1 => some (execXtsLoad k) | 2 => some (execXtsClear k) | _ => none
  else if off = F.stkUcodeCtl.cmd.off then
    let c : CompNo := Fin.ofNat 256 (getF s F.stkUcodeCtl.composition)
    match v % 4 with
    | 1 => some (execAttach (getF s F.stkUcodeCtl.handle) c) | 2 => some (execDetach c) | _ => none
  else if off = F.stkUcodeClear.clear.off then some (execStkUcodeClear (BitVec.ofNat 64 v))
  else if off = F.pfxDomainCtl.cmd.off then
    let k : Fin 4096 := Fin.ofNat 4096 (getF s F.pfxDomainCtl.slot)
    match v % 8 with
    | 1 => some (execDomainLoad k (getF s F.pfxDomainCtl.domain) (Fin.ofNat 4096 (getF s F.pfxDomainCtl.owner)))
    | 2 => some (execDomainClear k) | 3 => some (execDomainUnpin k) | 4 => some (execDomainFlush k)
    | _ => none
  else if off = F.codTableCtl.cmd.off then
    let k : Fin 4 := Fin.ofNat 4 (getF s F.codTableCtl.slot)
    match v % 4 with
    | 1 => some (execTableLoad k (getF s F.codTableCtl.tag)) | 2 => some (execTableClear k) | _ => none
  else if off = F.codGcmCtl.cmd.off then
    let k : Fin 256 := Fin.ofNat 256 (getF s F.codGcmCtl.slot)
    match v % 4 with
    | 1 => some (execGcmLoad k) | 2 => some (execGcmClear k) | _ => none
  else none

/-- The role of a code of SCH_COMP_CMD.ROLE (R409). -/
def roleOfCode : Nat → Role
  | 1 => .prompt | 2 => .generation | 3 => .cache | _ => .none

/-- Compositions, shares, recovery, Umber and the twin (R340, R348, R387 to R395, R409, R479, R489, R506, R513). -/
def serviceCommand (s : State) (off v : Nat) : Option (State → Answer) :=
  if off = F.schCompCmd.cmd.off then
    let c : CompNo := Fin.ofNat 256 (getF s F.schCompCmd.composition)
    match v % 8 with
    | 1 => some (execBind c (roleOfCode (getF s F.schCompCmd.role))) | 2 => some (execUnbind c)
    | 3 => some (execAddRegions c) | 4 => some (execRemoveRegions c)
    | _ => none
  else if off = F.schShareCmd.cmd.off then
    if v % 2 = 1 then
      some (execSet (Fin.ofNat 4096 (getF s F.schShareCmd.tenant)) (Fin.ofNat 256 (getF s F.schShareCmd.composition))
        (getF s F.schShareCmd.weight))
    else none
  else if off = F.xfrRecoverCtl.cmd.off then
    match v % 4 with
    | 1 => some execRecoverRequest | 2 => some execRecoverFailedPart | _ => none
  else if off = F.flsCmd.cmd.off then (if v % 4 = 1 then some (fun s => execDiscard s) else none)
  else if off = F.twnCtl.cmd.off then
    match v % 8 with
    | 2 => some execSwitch | 3 => some execSuspend | _ => none
  else none

/-- The command that a value written to the low half of the register at `off` triggers, once its fields are set. -/
def registerCommand (s : State) (off v : Nat) : Option (State → Answer) :=
  (platformCommand s off v).or ((fabricCommand s off v).or ((slotCommand s off v).or (serviceCommand s off v)))

/-! ## The write -/

/-- The write reaches the low half of a register of a block that the part serves. -/
def reachesCommand (s : State) (off width : Nat) : Bool :=
  s.plt.mainRails && decide (off < 0x03000000) && decide (off % 8 = 0) && (width == 4 || width == 8) && serves s (blockOf off)

/-- REGISTER_WRITE: a write of 4 or 8 bytes at an offset of BAR 0. JOIN and FLS_LOCK, which act on what lies outside the part, have only
rows of their own (log entry 95). -/
def execRegisterWrite (offset : Nat) (width : Nat) (value : BitVec 64) (s : State) : Host.Outcome State Fault Refusal :=
  let written := writeBar0 s offset width value.toNat
  match (if reachesCommand s offset width then registerCommand written offset value.toNat else none) with
  | some run => run (finish s written)
  | none => act s s.plt.mainRails (fun _ => written)

end Sys2Proof.Machine
end

