-- ==== Sys2Proof/Machine/Dispatch.lean ====
section
/-! DEFINITION. The meaning of every command: one arm for each constructor of `Instr`, in the table's order by family. -/

namespace Sys2Proof.Machine

open Sys2Proof

/-- What a command does to everything but the queue. -/
def exec (i : Instr) (s : State) : Host.Outcome State Fault Refusal :=
  match i with
  | .hostAdmit t c tokens desc => Sys2Proof.Machine.execHostAdmit t c tokens desc s
  | .append t c tokens => Sys2Proof.Machine.execAppend t c tokens s
  | .truncate t c => Sys2Proof.Machine.execTruncate t c s
  | .cancel t c => Sys2Proof.Machine.execCancel t c s
  | .park t c => Sys2Proof.Machine.execPark t c s
  | .resume t c => Sys2Proof.Machine.execResume t c s
  | .query t c => Sys2Proof.Machine.execQuery t c s
  | .release t c => Sys2Proof.Machine.execRelease t c s
  | .allocate c => Sys2Proof.Machine.execAllocate c s
  | .publish c => Sys2Proof.Machine.execPublish c s
  | .seal c => Sys2Proof.Machine.execSeal c s
  | .move c => Sys2Proof.Machine.execMove c s
  | .unpublish c => Sys2Proof.Machine.execUnpublish c s
  | .free c => Sys2Proof.Machine.execFree c s
  | .pin c => Sys2Proof.Machine.execPin c s
  | .unpin c => Sys2Proof.Machine.execUnpin c s
  | .adopt c => Sys2Proof.Machine.execAdopt c s
  | .copyComplete handle copied source nand => Sys2Proof.Machine.execCopyComplete handle copied s source nand
  | .objectReclaim index nand => Sys2Proof.Machine.execObjectReclaim index s nand
  | .load n handle => Sys2Proof.Machine.execLoad n handle s
  | .start n handle => Sys2Proof.Machine.execStart n handle s
  | .drain n handle => Sys2Proof.Machine.execDrain n handle s
  | .reload n handle => Sys2Proof.Machine.execReload n handle s
  | .reset n handle => Sys2Proof.Machine.execReset n handle s
  | .resetRepair n handle => Sys2Proof.Machine.execResetRepair n handle s
  | .imageReadComplete n read => Sys2Proof.Machine.execImageReadComplete n read s
  | .verifyComplete n readbackOk => Sys2Proof.Machine.execVerifyComplete n readbackOk s
  | .drainComplete n => Sys2Proof.Machine.execDrainComplete n s
  | .clusterFault n cluster kind => Sys2Proof.Machine.execClusterFault n cluster kind s
  | .fabPkgLoad handle => Sys2Proof.Machine.execFabPkgLoad handle s
  | .fabVdcFlush => Sys2Proof.Machine.execFabVdcFlush s
  | .attach handle comp => Sys2Proof.Machine.execAttach handle comp s
  | .ucodeLoadComplete slot read readbackOk => Sys2Proof.Machine.execUcodeLoadComplete slot read readbackOk s
  | .detach comp => Sys2Proof.Machine.execDetach comp s
  | .detachComplete comp => Sys2Proof.Machine.execDetachComplete comp s
  | .stkUcodeClear mask => Sys2Proof.Machine.execStkUcodeClear mask s
  | .xtsLoad slot => Sys2Proof.Machine.execXtsLoad slot s
  | .xtsClear slot => Sys2Proof.Machine.execXtsClear slot s
  | .domainLoad slot domain owner => Sys2Proof.Machine.execDomainLoad slot domain owner s
  | .domainClear slot => Sys2Proof.Machine.execDomainClear slot s
  | .domainUnpin slot => Sys2Proof.Machine.execDomainUnpin slot s
  | .domainFlush slot => Sys2Proof.Machine.execDomainFlush slot s
  | .tableLoad slot tag => Sys2Proof.Machine.execTableLoad slot tag s
  | .tableClear slot => Sys2Proof.Machine.execTableClear slot s
  | .gcmLoad slot => Sys2Proof.Machine.execGcmLoad slot s
  | .gcmClear slot => Sys2Proof.Machine.execGcmClear slot s
  | .bind c role => Sys2Proof.Machine.execBind c role s
  | .unbind c => Sys2Proof.Machine.execUnbind c s
  | .unbindComplete c => Sys2Proof.Machine.execUnbindComplete c s
  | .addRegions c => Sys2Proof.Machine.execAddRegions c s
  | .removeRegions c => Sys2Proof.Machine.execRemoveRegions c s
  | .set t c weight => Sys2Proof.Machine.execSet t c weight s
  | .recoverRequest => Sys2Proof.Machine.execRecoverRequest s
  | .recoverFailedPart => Sys2Proof.Machine.execRecoverFailedPart s
  | .join roleReq peer => Sys2Proof.Machine.execJoin roleReq peer s
  | .switch => Sys2Proof.Machine.execSwitch s
  | .handover => Sys2Proof.Machine.execHandover s
  | .suspend => Sys2Proof.Machine.execSuspend s
  | .warmReset => Sys2Proof.Machine.execWarmReset s
  | .coldReset => Sys2Proof.Machine.execColdReset s
  | .stage handle read => Sys2Proof.Machine.execStage handle read s
  | .stageComplete ok => Sys2Proof.Machine.execStageComplete ok s
  | .advance => Sys2Proof.Machine.execAdvance s
  | .keylistLoad handle read => Sys2Proof.Machine.execKeylistLoad handle read s
  | .keylistClear => Sys2Proof.Machine.execKeylistClear s
  | .attest address => Sys2Proof.Machine.execAttest address s
  | .establish address => Sys2Proof.Machine.execEstablish address s
  | .burn => Sys2Proof.Machine.execBurn s
  | .burnComplete readbackOk => Sys2Proof.Machine.execBurnComplete readbackOk s
  | .white => Sys2Proof.Machine.execWhite s
  | .grey => Sys2Proof.Machine.execGrey s
  | .charcoal => Sys2Proof.Machine.execCharcoal s
  | .black => Sys2Proof.Machine.execBlack s
  | .discard nand => Sys2Proof.Machine.execDiscard s nand
  | .flsLock nand => Sys2Proof.Machine.execFlsLock nand s
  | .rebuildComplete => Sys2Proof.Machine.execRebuildComplete s
  | .lockSet block => Sys2Proof.Machine.execLockSet block s
  | .mtrSelect recordNo => Sys2Proof.Machine.execMtrSelect recordNo s
  | .rqtTCtlEnable t value => Sys2Proof.Machine.execRqtTCtlEnable t value s
  | .portCfgWrite p value => Sys2Proof.Machine.execPortCfgWrite p value s
  | .registerWrite offset width value => Sys2Proof.Machine.execRegisterWrite offset width value s
  | .sqTail t value => Sys2Proof.Machine.execSqTail t value s
  | .cqHead t value => Sys2Proof.Machine.execCqHead t value s
  | .trHead t value => Sys2Proof.Machine.execTrHead t value s
  | .stkObjSqTail value => Sys2Proof.Machine.execStkObjSqTail value s
  | .stkObjCqHead value => Sys2Proof.Machine.execStkObjCqHead value s
  | .bar4Read offset size => Sys2Proof.Machine.execBar4Read offset size s
  | .bar4Write offset data => Sys2Proof.Machine.execBar4Write offset data s
  | .vectorUnmask vec => Sys2Proof.Machine.execVectorUnmask vec s
  | .rstOpen h durability entry twin modelId adapterId => Sys2Proof.Machine.execRstOpen h durability entry twin modelId adapterId s
  | .rstOpened h => Sys2Proof.Machine.execRstOpened h s
  | .logAppend h start entry entries => Sys2Proof.Machine.execLogAppend h start entry entries s
  | .logAck h length => Sys2Proof.Machine.execLogAck h length s
  | .publishBlock h block pages => Sys2Proof.Machine.execPublishBlock h block pages s
  | .pubRef h block parentDigest digest tokens => Sys2Proof.Machine.execPubRef h block parentDigest digest tokens s
  | .pubAck h blocks => Sys2Proof.Machine.execPubAck h blocks s
  | .pubNeed h block => Sys2Proof.Machine.execPubNeed h block s
  | .offer h remaining entry modelId adapterId entries => Sys2Proof.Machine.execOffer h remaining entry modelId adapterId entries s
  | .offerAck h => Sys2Proof.Machine.execOfferAck h s
  | .pull h first count layer => Sys2Proof.Machine.execPull h first count layer s
  | .pageData h page layer fill rows => Sys2Proof.Machine.execPageData h page layer fill rows s
  | .claim h offering twin => Sys2Proof.Machine.execClaim h offering twin s
  | .grant h => Sys2Proof.Machine.execGrant h s
  | .deny h owner => Sys2Proof.Machine.execDeny h owner s
  | .rstRelease h => Sys2Proof.Machine.execRstRelease h s
  | .whoOwns h => Sys2Proof.Machine.execWhoOwns h s
  | .ownerIs h owner => Sys2Proof.Machine.execOwnerIs h owner s
  | .rstResume h => Sys2Proof.Machine.execRstResume h s
  | .recover h ledger => Sys2Proof.Machine.execRecover h ledger s
  | .objRead h handle offset => Sys2Proof.Machine.execObjRead h handle offset s
  | .objData h handle offset bytes => Sys2Proof.Machine.execObjData h handle offset bytes s
  | .close h => Sys2Proof.Machine.execClose h s
  | .closed h => Sys2Proof.Machine.execClosed h s
  | .pfxQuery h domain parentDigest modelId adapterId tokens => Sys2Proof.Machine.execPfxQuery h domain parentDigest modelId adapterId tokens s
  | .pfxAnswer h matched handles => Sys2Proof.Machine.execPfxAnswer h matched handles s
  | .rstTransportOnly h => Sys2Proof.Machine.execRstTransportOnly h s
  | .rstRetransmit peer seq => Sys2Proof.Machine.execRstRetransmit peer seq s
  | .orphanAudit index => Sys2Proof.Machine.execOrphanAudit index s
  | .offerResend index => Sys2Proof.Machine.execOfferResend index s
  | .walkDone index => Sys2Proof.Machine.execWalkDone index s
  | .memReqLoad f => Sys2Proof.Machine.execMemReqLoad f s
  | .memReqStore f data => Sys2Proof.Machine.execMemReqStore f data s
  | .memReqAdd f operand => Sys2Proof.Machine.execMemReqAdd f operand s
  | .memReqMinS f operand => Sys2Proof.Machine.execMemReqMinS f operand s
  | .memReqMinU f operand => Sys2Proof.Machine.execMemReqMinU f operand s
  | .memReqMaxS f operand => Sys2Proof.Machine.execMemReqMaxS f operand s
  | .memReqMaxU f operand => Sys2Proof.Machine.execMemReqMaxU f operand s
  | .memReqSwap f operand => Sys2Proof.Machine.execMemReqSwap f operand s
  | .memReqCas f compare swap => Sys2Proof.Machine.execMemReqCas f compare swap s
  | .memRsp f status data => Sys2Proof.Machine.execMemRsp f status data s
  | .tensor f index total block => Sys2Proof.Machine.execTensor f index total block s
  | .tensorAck f index status => Sys2Proof.Machine.execTensorAck f index status s
  | .mirror p records => Sys2Proof.Machine.execMirror p records s
  | .hello p trayId member twin => Sys2Proof.Machine.execHello p trayId member twin s
  | .heartbeat p source role state sent applied => Sys2Proof.Machine.execHeartbeat p source role state sent applied s
  | .ctrlDepart p source => Sys2Proof.Machine.execCtrlDepart p source s
  | .frameForward p dest bytes class_ issuer => Sys2Proof.Machine.execFrameForward p dest bytes class_ s issuer
  | .portUp p => Sys2Proof.Machine.execPortUp p s
  | .portDown p => Sys2Proof.Machine.execPortDown p s
  | .egressFrameStart p => Sys2Proof.Machine.execEgressFrameStart p s
  | .remoteOpIssue r thread kind address size operand data dest => Sys2Proof.Machine.execRemoteOpIssue r thread kind address size operand data s dest
  | .remoteFence r thread => Sys2Proof.Machine.execRemoteFence r thread s
  | .retryReissue r slot => Sys2Proof.Machine.execRetryReissue r slot s
  | .replyTimeout r slot => Sys2Proof.Machine.execReplyTimeout r slot s
  | .retryBarrierTimeout member region => Sys2Proof.Machine.execRetryBarrierTimeout member region s
  | .regionAccess r offset data source last => Sys2Proof.Machine.execRegionAccess r offset data s source last
  | .readShared a line => Sys2Proof.Machine.execReadShared a line s
  | .readExclusive a line store => Sys2Proof.Machine.execReadExclusive a line store s
  | .upgrade a line store => Sys2Proof.Machine.execUpgrade a line store s
  | .writeback a line => Sys2Proof.Machine.execWriteback a line s
  | .uncachedRead line => Sys2Proof.Machine.execUncachedRead line s
  | .invalidatingWrite line offset data => Sys2Proof.Machine.execInvalidatingWrite line offset data s
  | .writeFull a line data => Sys2Proof.Machine.execWriteFull a line data s
  | .forward a line => Sys2Proof.Machine.execForward a line s
  | .holdWindowEnd a line => Sys2Proof.Machine.execHoldWindowEnd a line s
  | .delayLineCalibration => Sys2Proof.Machine.execDelayLineCalibration s
  | .unitDispatch r kernel work slots => Sys2Proof.Machine.execUnitDispatch r kernel work slots s
  | .unitComplete r ops last => Sys2Proof.Machine.execUnitComplete r ops last s
  | .preemptionPoint r point => Sys2Proof.Machine.execPreemptionPoint r point s
  | .passComplete st core slot bad => Sys2Proof.Machine.execPassComplete st core slot bad s
  | .stepCommit index logits draft => Sys2Proof.Machine.execStepCommit index logits s draft
  | .stackCoreFault st core => Sys2Proof.Machine.execStackCoreFault st core s
  | .deadlineMiss index => Sys2Proof.Machine.execDeadlineMiss index s
  | .leaseEpochTick => Sys2Proof.Machine.execLeaseEpochTick s
  | .leaseExpiry slot => Sys2Proof.Machine.execLeaseExpiry slot s
  | .pageReclaim granule => Sys2Proof.Machine.execPageReclaim granule s
  | .prefixInsert index block => Sys2Proof.Machine.execPrefixInsert index block s
  | .pressureEviction st => Sys2Proof.Machine.execPressureEviction st s
  | .drop index => Sys2Proof.Machine.execDrop index s
  | .preempt index => Sys2Proof.Machine.execPreempt index s
  | .restore index => Sys2Proof.Machine.execRestore index s
  | .restoreComplete index => Sys2Proof.Machine.execRestoreComplete index s
  | .recompute index => Sys2Proof.Machine.execRecompute index s
  | .gcCollect nand => Sys2Proof.Machine.execGcCollect s nand
  | .fold nand => Sys2Proof.Machine.execFold s nand
  | .slateScrub corrected uncorrectable => Sys2Proof.Machine.execSlateScrub corrected uncorrectable s
  | .keepalive => Sys2Proof.Machine.execKeepalive s
  | .feedBind m f b => Sys2Proof.Machine.execFeedBind m f b s
  | .feedUnbind m f b => Sys2Proof.Machine.execFeedUnbind m f b s
  | .feedResource m f b => Sys2Proof.Machine.execFeedResource m f b s
  | .feedSeal m f body => Sys2Proof.Machine.execFeedSeal m f body s
  | .feedPower m f source target limit => Sys2Proof.Machine.execFeedPower m f source target limit s
  | .feedKeepalive m f => Sys2Proof.Machine.execFeedKeepalive m f s
  | .silent m => Sys2Proof.Machine.execSilent m s
  | .interval m lowWatts highWatts lowMv highMv => Sys2Proof.Machine.execInterval m lowWatts highWatts lowMv highMv s
  | .tamper m segment => Sys2Proof.Machine.execTamper m segment s
  | .meterFault m cause => Sys2Proof.Machine.execMeterFault m cause s
  | .laneStatusFrame m => Sys2Proof.Machine.execLaneStatusFrame m s
  | .recordCopy r => Sys2Proof.Machine.execRecordCopy r s
  | .recordLaneSilent => Sys2Proof.Machine.execRecordLaneSilent s
  | .mtrVaux3Loss m => Sys2Proof.Machine.execMtrVaux3Loss m s
  | .mtrVaux3Return => Sys2Proof.Machine.execMtrVaux3Return s
  | .identity m => Sys2Proof.Machine.execIdentity m s
  | .i3cStatus m => Sys2Proof.Machine.execI3cStatus m s
  | .pointer m recordNo => Sys2Proof.Machine.execPointer m recordNo s
  | .record m => Sys2Proof.Machine.execRecord m s
  | .certificate m => Sys2Proof.Machine.execCertificate m s
  | .mark m bytes => Sys2Proof.Machine.execMark m bytes s
  | .entdaa m address => Sys2Proof.Machine.execEntdaa m address s
  | .setdasa m static address => Sys2Proof.Machine.execSetdasa m static address s
  | .getpid m => Sys2Proof.Machine.execGetpid m s
  | .getbcr m => Sys2Proof.Machine.execGetbcr m s
  | .getdcr m => Sys2Proof.Machine.execGetdcr m s
  | .getstatus m => Sys2Proof.Machine.execGetstatus m s
  | .enec m events => Sys2Proof.Machine.execEnec m events s
  | .enum h next => Sys2Proof.Machine.execEnum h next s
  | .getId h => Sys2Proof.Machine.execGetId h s
  | .setMember h trayId member twin enrolled => Sys2Proof.Machine.execSetMember h trayId member twin enrolled s
  | .announce h states => Sys2Proof.Machine.execAnnounce h states s
  | .powerOn h => Sys2Proof.Machine.execPowerOn h s
  | .powerOff h => Sys2Proof.Machine.execPowerOff h s
  | .chainReset h kind => Sys2Proof.Machine.execChainReset h kind s
  | .fence h => Sys2Proof.Machine.execFence h s
  | .fenced h target outcome => Sys2Proof.Machine.execFenced h target outcome s
  | .status h => Sys2Proof.Machine.execStatus h s
  | .departAnswer h => Sys2Proof.Machine.execDepartAnswer h s
  | .chainForward h bytes => Sys2Proof.Machine.execChainForward h bytes s
  | .chainRingSilent => Sys2Proof.Machine.execChainRingSilent s
  | .heartbeatSend => Sys2Proof.Machine.execHeartbeatSend s
  | .heartbeatLoss => Sys2Proof.Machine.execHeartbeatLoss s
  | .fenceWaitExpiry => Sys2Proof.Machine.execFenceWaitExpiry s
  | .fenceTimeout => Sys2Proof.Machine.execFenceTimeout s
  | .mirrorAcknowledgement mseq => Sys2Proof.Machine.execMirrorAcknowledgement mseq s
  | .departureComplete => Sys2Proof.Machine.execDepartureComplete s
  | .powerEnRise => Sys2Proof.Machine.execPowerEnRise s
  | .powerEnFall => Sys2Proof.Machine.execPowerEnFall s
  | .vin56Low millivolts => Sys2Proof.Machine.execVin56Low millivolts s
  | .vin56Under millivolts => Sys2Proof.Machine.execVin56Under millivolts s
  | .vin56Over millivolts => Sys2Proof.Machine.execVin56Over millivolts s
  | .vin56InRange millivolts => Sys2Proof.Machine.execVin56InRange millivolts s
  | .vaux3Loss => Sys2Proof.Machine.execVaux3Loss s
  | .vaux3Return => Sys2Proof.Machine.execVaux3Return s
  | .throttling d reading => Sys2Proof.Machine.execThrottling d reading s
  | .throttlingEnd d reading => Sys2Proof.Machine.execThrottlingEnd d reading s
  | .boundsNotGuaranteed d reading => Sys2Proof.Machine.execBoundsNotGuaranteed d reading s
  | .thermalTrip d reading => Sys2Proof.Machine.execThermalTrip d reading s
  | .stackRefreshRate st reading => Sys2Proof.Machine.execStackRefreshRate st reading s
  | .greyIdle r => Sys2Proof.Machine.execGreyIdle r s
  | .wakeTime => Sys2Proof.Machine.execWakeTime s
  | .refclkLoss => Sys2Proof.Machine.execRefclkLoss s
  | .refclkReturn => Sys2Proof.Machine.execRefclkReturn s
  | .pacingChange on => Sys2Proof.Machine.execPacingChange on s
  | .charcoalEntryComplete => Sys2Proof.Machine.execCharcoalEntryComplete s
  | .charcoalExitComplete => Sys2Proof.Machine.execCharcoalExitComplete s
  | .perst => Sys2Proof.Machine.execPerst s
  | .hotReset => Sys2Proof.Machine.execHotReset s
  | .linkDisable => Sys2Proof.Machine.execLinkDisable s
  | .functionLevelReset => Sys2Proof.Machine.execFunctionLevelReset s
  | .dlUpLoss => Sys2Proof.Machine.execDlUpLoss s
  | .dlUpReturn speed width flit => Sys2Proof.Machine.execDlUpReturn speed width flit s
  | .busMasterEnable enabled d3hot => Sys2Proof.Machine.execBusMasterEnable enabled d3hot s
  | .configurationRequest a => Sys2Proof.Machine.execConfigurationRequest a s
  | .hostReadCompletion use result => Sys2Proof.Machine.execHostReadCompletion use result s
  | .poisonedWrite bar => Sys2Proof.Machine.execPoisonedWrite bar s
  | .malformedTlp kind => Sys2Proof.Machine.execMalformedTlp kind s
  | .coalesceUsExpiry t => Sys2Proof.Machine.execCoalesceUsExpiry t s
  | .powerUpStart facts => Sys2Proof.Machine.execPowerUpStart facts s
  | .packageLoadComplete read => Sys2Proof.Machine.execPackageLoadComplete read s
  | .domainScanComplete => Sys2Proof.Machine.execDomainScanComplete s
  | .ethernetPortUp p rate => Sys2Proof.Machine.execEthernetPortUp p rate s
  | .ethernetPortDown p => Sys2Proof.Machine.execEthernetPortDown p s

end Sys2Proof.Machine
end

