-- ==== Sys2Proof/Machine/Wire.lean ====
section
/-! DEFINITION. The bytes that stand on a link for what the part sends and for the heads of what reaches it: RST datagrams (R314 to R319,
R373), Roale frames (R415), mirror records (R495), event frames (R519, R520) and chain frames (R563). The commands and outputs carry the
same fields under their names (log entry 98). -/

namespace Sys2Proof.Machine

open Sys2Proof

/-! ## Coded blocks (R373) -/

/-- The 8-byte header of a coded block and its body. -/
def codedBytes (b : CodedBlock) : List Byte :=
  leBytes 2 b.stageASize ++ leBytes 2 b.wireSize ++ leBytes 1 (b.slot % 4 + 4 * b.raw.toNat) ++ leBytes 1 b.format ++
    leBytes 1 b.tableTag ++ zeros 1 ++ b.body

/-- The coded block that bytes hold. -/
def codedOf (b : List Byte) : CodedBlock :=
  { stageASize := fieldAt b 0 2, wireSize := fieldAt b 2 2, slot := fieldAt b 4 1 % 4, raw := (fieldAt b 4 1).testBit 2,
    format := fieldAt b 5 1, tableTag := fieldAt b 6 1, body := (b.drop 8).take (fieldAt b 2 2) }

/-- A page payload. -/
def pagePayloadBytes : PagePayload → List Byte
  | .native bs => bs
  | .coded b => codedBytes b

/-! ## RST datagrams (R315, R317 to R319) -/

/-- STATUS of an answer (R319). -/
def rstStatusCode : RstStatus → Nat
  | .ok => 0 | .notHome => 1 | .noLedger => 2 | .staleEpoch => 3 | .noRequest => 4 | .busy => 5 | .wrongRole => 6 | .noSpace => 7
  | .badMessage => 8 | .duplicate => 9 | .noComposition => 10 | .noTwin => 11

/-- The STATUS values in the order of their codes. -/
def rstStatuses : List RstStatus :=
  [.ok, .notHome, .noLedger, .staleEpoch, .noRequest, .busy, .wrongRole, .noSpace, .badMessage, .duplicate, .noComposition, .noTwin]

/-- ARG of a message (R318). -/
def rstArg : RstMsg → Nat
  | .openLedger k .. => durabilityCode k
  | .logAppend start .. => start
  | .logAck n | .pubAck n | .pubNeed n | .pfxAnswer n _ => n
  | .publishBlock b _ | .pubRef b _ _ _ => b
  | .offer r .. => r
  | .pull f n l => f + 2 ^ 16 * n + 2 ^ 32 * l
  | .pageData p l _ _ => p + 2 ^ 16 + 2 ^ 32 * l
  | .objRead h o | .objData h o _ => h + 2 ^ 32 * o
  | .pfxQuery d .. => d
  | _ => 0

/-- 32-bit words. -/
def wordBytes (ws : List Nat) : List Byte := (ws.map (leBytes 4)).flatten

/-- The payload of a message (R318). -/
def rstBody : RstMsg → List Byte
  | .openLedger _ e t m a => entryBytes e ++ leBytes 16 t ++ leBytes 16 m ++ leBytes 16 a
  | .logAppend _ e es => entryBytes e ++ wordBytes (es.map logWord)
  | .publishBlock _ p | .pageData _ _ _ p | .objData _ _ p => pagePayloadBytes p
  | .pubRef _ pd d ts => leBytes 16 pd ++ leBytes 16 d ++ wordBytes ts
  | .offer _ e m a es => entryBytes e ++ leBytes 16 m ++ leBytes 16 a ++ wordBytes (es.map logWord)
  | .claim o t => leBytes 16 o ++ leBytes 16 t
  | .deny o | .ownerIs o => leBytes 16 o
  | .recover l => ledgerBytes l {}
  | .pfxQuery _ pd m a ts => leBytes 16 pd ++ leBytes 16 m ++ leBytes 16 a ++ wordBytes ts
  | .pfxAnswer _ hs => wordBytes hs
  | _ => []

/-- The bytes of a datagram's payload before any encryption: what its message holds from CHUNK on, or the page payload that the
datagram was given (R314, R384). -/
def chunkBytes (d : Datagram) : List Byte :=
  let n := datagramBytes d.msg d.sealed_.isSome
  if (msgPayload d.msg).isSome then rstBody d.msg else ((rstBody d.msg).drop (d.chunk * n)).take n

/-- The transport header (R315). -/
def transportBytes (d : Datagram) : List Byte :=
  leBytes 4 d.connection ++ leBytes 4 d.seq ++ leBytes 4 d.ack ++ leBytes 2 d.window ++
    leBytes 2 (d.ackOnly.toNat + 2 * d.syn.toNat + 4 * d.reset.toNat)

/-- The message header over a payload of `n` bytes (R317). -/
def messageBytes (d : Datagram) (n : Nat) : List Byte :=
  leBytes 1 (rstType d.msg) ++ leBytes 1 (d.last.toNat + 2 * d.takeover.toNat + 4 * d.append.toNat) ++
    leBytes 2 (rstStatusCode d.status) ++ leBytes 4 d.epoch ++ leBytes 8 d.requestId ++ leBytes 2 d.xfer ++ leBytes 2 n ++
    leBytes 4 d.chunk ++ leBytes 8 (rstArg d.msg)

/-- A datagram, with its payload as it is before AES-256-GCM (R314, R384). -/
def datagramWire (d : Datagram) : List Byte :=
  transportBytes d ++ messageBytes d (chunkBytes d).length ++ chunkBytes d

/-- The headers of a datagram that reaches `port` from `source` for `dest`; `none` for a STATUS that R319 lacks. -/
def headerOf (source dest : PartAddr) (port : PortNo) (dscp : Nat) (gcmOk : Bool) (b : List Byte) : Option RstHeader :=
  (rstStatuses[fieldAt b 18 2]?).map (fun st =>
    { source := source, dest := dest, connection := fieldAt b 0 4, seq := fieldAt b 4 4, ack := fieldAt b 8 4,
      window := fieldAt b 12 2, ackOnly := (fieldAt b 14 2).testBit 0, syn := (fieldAt b 14 2).testBit 1,
      reset := (fieldAt b 14 2).testBit 2, last := (fieldAt b 17 1).testBit 0, takeover := (fieldAt b 17 1).testBit 1,
      append := (fieldAt b 17 1).testBit 2, status := st, epoch := fieldAt b 20 4, requestId := fieldAt b 24 8,
      xfer := fieldAt b 32 2, chunk := fieldAt b 36 4, port := port, bytes := b.length, dscp := dscp, gcmOk := gcmOk })

/-! ## Roale frames (R415) -/

/-- OP of a MEM_REQ frame. -/
def memOpCode : MemOp → Nat
  | .load => 1 | .store => 2 | .add => 3 | .minS => 4 | .minU => 5 | .maxS => 6 | .maxU => 7 | .swap => 8 | .cas => 9

/-- STATUS of a remote operation (R431). -/
def remoteStatusCode : RemoteStatus → Nat
  | .ok => 0 | .retry => 1 | .departed => 2 | .poisoned => 3 | .writeProtected => 4 | .addressError => 5 | .denied => 6
  | .timeout => 7 | .linkDown => 8

/-- TAG of a frame. -/
def tagWord (t : FrameTag) : Nat := t.slot.val + 64 * t.region.val + 4096 * t.generation

/-- A frame with a good trailer: its header and its payload. -/
def roaleFrame (type source dest tenant tag op size status address operand : Nat) (payload : List Byte) : List Byte :=
  leBytes 1 type ++ leBytes 1 0 ++ leBytes 1 source ++ leBytes 1 dest ++ leBytes 2 tenant ++ leBytes 2 payload.length ++
    leBytes 2 tag ++ leBytes 1 op ++ leBytes 1 size ++ leBytes 1 status ++ zeros 3 ++ leBytes 8 address ++ leBytes 8 operand ++
    payload ++ zeros 4

/-- The member that an RST destination is (R312). -/
def memberOfAddr (s : State) (a : PartAddr) : Nat := ((List.range 16).find? (fun m => memberAddr s m == a)).getD 0

/-- A frame that the part sends of its own. CTRL frames have no layout in the manual, and of a frame that the part passes on for another
member it holds the length alone. -/
def frameWire (s : State) : Frame → Option (List Byte)
  | .memReq op d t g n a v bs =>
    some (roaleFrame 2 s.lnk.member d t (tagWord g) (memOpCode op) n.log2 0 a (if op == .load || op == .store then 0 else v) bs)
  | .memRsp d g st bs => some (roaleFrame 3 s.lnk.member d 0 (tagWord g) 0 2 (remoteStatusCode st) 0 0 bs)
  | .tensor d t g a i n b =>
    some (roaleFrame 4 s.lnk.member d t (tagWord g) 0 2 0 a (i + 2 ^ 32 * n) (codedBytes b))
  | .tensorAck d g i st => some (roaleFrame 5 s.lnk.member d 0 (tagWord g) 0 2 (remoteStatusCode st) 0 i [])
  | .rst d => some (roaleFrame 1 s.lnk.member (memberOfAddr s d.dest) 0 0 0 2 0 0 0 (datagramWire d))
  | .mirror .. | .hello .. | .heartbeat .. | .depart | .forwarded .. | .passedRst .. => none

/-- The header of a frame that arrives on a port (R415, R416). -/
def frameHeaderOf (port : RoalePort) (b : List Byte) : FrameHeader :=
  { port := port, source := Fin.ofNat 16 (fieldAt b 2 1), dest := Fin.ofNat 16 (fieldAt b 3 1), tenant := Fin.ofNat 4096 (fieldAt b 4 2),
    tag := { generation := fieldAt b 8 2 / 4096, region := Fin.ofNat 64 (fieldAt b 8 2 / 64), slot := Fin.ofNat 64 (fieldAt b 8 2) },
    size := 2 ^ fieldAt b 11 1, address := fieldAt b 16 8 % 2 ^ 48,
    poisoned := fieldAt b (32 + fieldAt b 6 2) 4 == 0xDEAD0000 }

/-! ## Mirror records (R495) -/

/-- KIND of a mirror record. -/
def mirrorKind : MirrorBody → Nat
  | .entry .. => 1
  | .ledger .. | .odt .. | .way .. | .block .. | .pageRec .. | .manifest .. | .bytes .. => 2
  | .page .. => 3 | .completion .. => 4 | .confirm .. => 5 | .syncDone => 6 | .bad => 0

/-- KEY of a mirror record: for BYTES the local address at which the table entry stands. -/
def mirrorKey (s : State) : MirrorBody → Nat
  | .entry i _ => i
  | .ledger k _ => getF s F.xfrLedgerBase.base * 4096 + 512 * k
  | .odt i _ => getF s F.stkOchreCfg.odtBase * 2 ^ 26 + 64 * i
  | .way w _ => getF s F.pfxTableBase.base * 2 ^ 31 + 32 * w
  | .block n _ => getF s F.pfxBlockBase.base * 1024 + 1024 * n
  | .pageRec g _ => getF s F.stkPageRecBase.base * 4096 + 8 * (g / 2 ^ 24 * localGranules s + g % 2 ^ 24)
  | .manifest _ m => getF s F.stkManifestBase.base * 8192 + 8192 * m.directory
  | .bytes a _ => a
  | .page g o _ => g + 2 ^ 32 * o
  | .confirm _ n => n
  | .completion .. | .syncDone | .bad => 0

/-- The header of a mirror record. -/
def mirrorHeader (s : State) (r : MirrorRecord) : List Byte :=
  leBytes 1 (mirrorKind r.body) ++ leBytes 1 r.last.toNat ++
    leBytes 2 (match r.body with
      | .completion t .. | .confirm t _ => t.val
      | _ => 0) ++
    leBytes 4 (recordBytes r - 32) ++ leBytes 8 r.mseq ++ leBytes 8 (mirrorKey s r.body) ++ zeros 8

/-! ## Event frames (R519, R520) -/

/-- TYPE of an event frame. -/
def feedType : FeedBody → Nat
  | .bind _ => 1 | .unbind _ => 2 | .resource _ => 3 | .seal .. => 4 | .power .. => 5 | .keepalive => 6

/-- The 48 bytes of BODY. -/
def feedBodyBytes : FeedBody → List Byte
  | .bind b | .unbind b | .resource b => bodyBytes b
  | .seal locks v fw => leBytes 2 locks ++ leBytes 4 v ++ leBytes 32 fw ++ zeros 10
  | .power x y l => leBytes 1 x ++ leBytes 1 y ++ leBytes 2 l ++ zeros 44
  | .keepalive => zeros 48

/-- The 64 bytes of an event frame. -/
def feedFrame (seq : Nat) (b : FeedBody) : List Byte :=
  let h := leBytes 4 seq ++ leBytes 1 (feedType b) ++ zeros 3 ++ feedBodyBytes b ++ zeros 4
  h ++ leBytes 4 (crc32 h).toNat

/-- The head of an event frame as the meter reads it, with the CRC of one copy (R519, R522). -/
def feedHeadOf (b : List Byte) : FeedHead :=
  { seq := fieldAt b 0 4, crcOk := fieldAt b 60 4 == (crc32 (b.take 60)).toNat,
    declared := decide (1 ≤ fieldAt b 4 1) && decide (fieldAt b 4 1 ≤ 6) }

/-- A composition body (R520). -/
def compositionBodyOf (b : List Byte) : CompositionBody :=
  { composition := Fin.ofNat 256 (fieldAt b 8 1), role := fieldAt b 9 1, regionCount := fieldAt b 10 1, stackCount := fieldAt b 11 1,
    kvGranules := fieldAt b 12 4, slateGib := fieldAt b 16 2, umberGib := fieldAt b 20 4, package := (fieldAt b 24 1).testBit 0,
    twinRole := fieldAt b 25 1, member := fieldAt b 26 1 }

/-! ## Chain frames (R563) -/

/-- A chain frame with its CRC. -/
def chainFrame (dest source cmd seq status : Nat) (payload : List Byte) : List Byte :=
  let h := leBytes 1 dest ++ leBytes 1 source ++ leBytes 1 cmd ++ leBytes 1 seq ++ leBytes 1 payload.length ++ leBytes 1 status ++ payload
  h ++ leBytes 4 (crc32 h).toNat

/-- The head of a chain frame that arrives. -/
def chainHeadOf (b : List Byte) : ChainHead :=
  let n := 6 + fieldAt b 4 1
  { dest := fieldAt b 0 1 % 64, source := fieldAt b 1 1 % 64, seq := fieldAt b 3 1,
    crcOk := fieldAt b n 4 == (crc32 (b.take n)).toNat }

/-! ## What leaves the part -/

/-- The bytes that an output stands for on its link, where the manual lays them out; an answer on the chain leaves as it was built, and
ENUM as the broadcast that the part passes on (R564, R565). -/
def outputWire (s : State) : Output → Option (List Byte)
  | .frame p _ (.rst d) => if p.val < 12 then frameWire s (.rst d) else some (datagramWire d)
  | .frame _ _ f => frameWire s f
  | .chain f => some (chainFrame f.dest f.source f.cmd f.seq f.status (f.payload.map (BitVec.ofNat 8)))
  | .chainPassed bs => some bs
  | .chainEnum q n => some (chainFrame 63 0 1 q 0 (leBytes 1 n))
  | .feed q b => some (feedFrame q b)
  | .record bs | .i3c bs => some bs
  | _ => none

end Sys2Proof.Machine
end

