-- ==== Sys2Proof/Safety.lean ====
section
/-! DEFINITION. What counts as a safe run: a run of steps that each answer a next state. -/

namespace Sys2Proof

open Sys2Proof.Machine

/-- The state after a step, where the step answers one. -/
def Safety.next? (s : State) : Option State :=
  match step s with
  | .next t => some t
  | .fault _ => none
  | .refused _ => none

/-- A run of `k` steps is safe when every one of them answers a next state. -/
def Safety.safeFor : Nat → State → Prop
  | 0, _ => True
  | k + 1, s => ∃ t, step s = .next t ∧ Safety.safeFor k t

/-! ## What every step keeps -/

/-- The meter's log (R527, R529): each of the latest 1,048,576 records stands in the slot of its number, and the record after it, or
the meter where it is the newest, holds the SHA-384 of the whole of it. -/
def Safety.MeterChain (x : Meter) : Prop :=
  ∀ k, 1 ≤ k → k ≤ x.newest → x.newest < k + 2 ^ 20 →
    ∃ r, tabGet none x.log (k % 2 ^ 20) = some r ∧ r.recordNo = k ∧
      (if k = x.newest then x.prevHash = Config.sha384 (meterRecordBytes r)
       else ∃ q, tabGet none x.log ((k + 1) % 2 ^ 20) = some q ∧ q.prevHash = Config.sha384 (meterRecordBytes r))

/-- Bit `i` of byte `a` of the fuse bank is burned (R544). -/
def Safety.burned (s : State) (a i : Nat) : Bool := (tabGet 0 s.plt.fuses a).getLsbD i

/-- What an Active holds back for its Mirror (R493, R499): nothing of the present command waits to be numbered, a part that does not
mirror holds nothing back, and what it holds longest belongs to a change that the Mirror has not applied. -/
def Safety.HoldOk (s : State) : Prop :=
  s.twn.newHeld = [] ∧ (mirrors s = false → s.twn.held = []) ∧ ∀ e, s.twn.held.head? = some e → s.twn.applied < e.1

/-- STK_CAP_PRESSURE_c shows composition `c` under pressure on stack `st` (R368). -/
def Safety.shown (s : State) (c st : Nat) : Bool := (getF s (F.stkCapPressure.stacks.at c)).testBit st

/-- Capacity pressure as R349 and R350 state it, for a bound PROMPT or GENERATION composition with a fixed descriptor and a stack of
its share: the register shows pressure while the free slots are below LOW, an allocation waits or the manifest pool runs short, and
shows none once the slots are at or above HIGH, nothing waits and the pool is at twice MANIFEST_LOW. -/
def Safety.PressureOk (s : State) : Prop :=
  ∀ c x st, c < 256 → compOf s c = some x → x.fixed.isSome = true → (x.role = .prompt ∨ x.role = .generation) → st < 32 →
    x.stackMask.testBit st = true →
    (slotsLeft s x st < getF s (F.stkCapWm.low.at c) ∨ allocWaits s c st = true → Safety.shown s c st = true) ∧
    (x.role = .generation → freeUnits s < getF s F.stkCapCtl.manifestLow → Safety.shown s c st = true) ∧
    (max (getF s (F.stkCapWm.low.at c) + 1) (getF s (F.stkCapWm.high.at c)) ≤ slotsLeft s x st → allocWaits s c st = false →
      (x.role = .generation → 2 * getF s F.stkCapCtl.manifestLow ≤ freeUnits s ∧ s.stk.waits.any (fun e => e.2 == 33) = false) →
      Safety.shown s c st = false)

end Sys2Proof
end

