-- ==== Sys2Proof/WellFormed.lean ====
section
/-! DEFINITION. Well-formed commands: every operand fits the field of the manual that carries it. No meaning relies on it: a
meaning cuts a value to its field or checks it itself. -/

namespace Sys2Proof

/-- The value fits `n` bits. -/
def fits (n v : Nat) : Bool := decide (v < 2 ^ n)

/-- The 64 bytes of a host command of the row with OPCODE `op`, or of a command with an OPCODE that R236 lacks, which every row takes. -/
def HostCommand.wf (op : Nat) (c : HostCommand) : Bool :=
  c.bytes.length == 64 && (c.opcode == op || c.opcode == 0 || decide (8 < c.opcode))

/-- Tokens are 32-bit values (R236). -/
def tokensWf (l : List Nat) : Bool := l.all (fits 32)

/-- The tokens that the part reads for a command: as many as COUNT says, or none where the read fails. -/
def readTokensWf (c : HostCommand) : Option (List Nat) → Bool
  | none => true
  | some l => tokensWf l && decide (l.length = c.count)

/-- The 128 bytes of an admission descriptor (R237). -/
def AdmitDescriptor.wf (d : AdmitDescriptor) : Bool := d.bytes.length == 128

/-- The 64 bytes of an object command of the row with OPCODE `op`, or of a command with an OPCODE that R150 lacks. -/
def ObjCommand.wf (op : Nat) (c : ObjCommand) : Bool :=
  c.bytes.length == 64 && (c.opcode == op || c.opcode == 0 || decide (9 < c.opcode))

/-- A read that fails does so at a byte of what it reads, within the 2^64 bytes that lengths count (R465). -/
def ReadEnd.wf : ReadEnd → Bool
  | .whole => true
  | .errorAt o => fits 64 o

/-- Candidate slots have 1,024 bytes (R266). -/
def slotsWf (l : List (Nat × List Byte)) : Bool := l.all (fun p => fits 16 p.1 && p.2.length == 1024)

/-- A node of a draft tree: its token and its parent fit the fields of a slot's node (R266). -/
def draftWf (l : List CandNode) : Bool := l.all (fun n => fits 32 n.token && fits 8 n.parent)

/-- A handle in a command register (R140). -/
def handleWf : Option Nat → Bool
  | none => true
  | some h => fits 32 h

/-- A request-table entry (R226). -/
def Entry.wf (e : Entry) : Bool :=
  fits 3 e.priority && fits 16 e.sharingDomain && fits 64 e.requestId && fits 32 e.length && fits 32 e.inputEnd &&
    fits 32 e.turnLimit && fits 32 e.manifest && fits 64 e.deadline && fits 64 e.stepBudget && fits 32 e.ownerEpoch &&
    fits 32 e.logged && fits 128 e.home && fits 128 e.peer && fits 64 e.admitTag && fits 32 e.topK &&
    tokensWf e.stopTokens && fits 64 e.admitLmc && fits 64 e.engineNs && fits 32 e.tokensOut && fits 32 e.steps &&
    fits 32 e.matched && fits 32 e.lastTrunc && fits 64 e.lastCommitLmc && fits 32 e.arbSeq && decide (e.held ≤ 8)

/-- Log entries: bits [30:0] token, bit 31 INPUT (R326). -/
def logWf (l : List LogEntry) : Bool := l.all (fun e => fits 31 e.token)

/-- The headers of an RST datagram (R315, R317); a part address has 128 bits (R311). -/
def RstHeader.wf (h : RstHeader) : Bool :=
  fits 128 h.source && fits 128 h.dest && fits 32 h.connection && fits 32 h.seq && fits 32 h.ack && fits 16 h.window &&
    fits 32 h.epoch && fits 64 h.requestId && decide (h.xfer < 2048) && fits 32 h.chunk && fits 6 h.dscp

/-- A coded block (R373). -/
def CodedBlock.wf (b : CodedBlock) : Bool :=
  decide (1 ≤ b.stageASize) && decide (b.stageASize ≤ 4096) && decide (1 ≤ b.wireSize) && decide (b.wireSize ≤ 4096) &&
    fits 2 b.slot && decide (b.format ≤ 3) && fits 8 b.tableTag && decide (b.body.length = b.wireSize)

/-- A page payload: one datagram carries at most 8,192 bytes (R314), or one coded block. -/
def PagePayload.wf : PagePayload → Bool
  | .native bs => decide (bs.length ≤ 8192)
  | .coded b => b.wf

/-- A frame header (R415): an access size of 4 to 256 bytes, a power of two, and a 48-bit local address. -/
def FrameHeader.wf (f : FrameHeader) : Bool :=
  fits 4 f.tag.generation && ([4, 8, 16, 32, 64, 128, 256] : List Nat).contains f.size && fits 48 f.address

/-- A chain frame's head (R563). -/
def ChainHead.wf (h : ChainHead) : Bool := fits 6 h.dest && fits 6 h.source && fits 8 h.seq

/-- The head of an event frame (R519). -/
def FeedHead.wf (f : FeedHead) : Bool := fits 32 f.seq

/-- A composition body (R520). -/
def CompositionBody.wf (b : CompositionBody) : Bool :=
  fits 8 b.role && fits 8 b.regionCount && fits 8 b.stackCount && fits 32 b.kvGranules && fits 16 b.slateGib &&
    fits 32 b.umberGib && fits 8 b.twinRole && fits 8 b.member

/-- A composition role that BIND may name (R21, R388). -/
def roleWf : Role → Bool
  | .none => false
  | _ => true

/-- A well-formed command. -/
def Instr.wf : Instr → Bool
  | .hostAdmit _ c ts d => c.wf 1 && readTokensWf c ts && (match d with | none => true | some x => x.wf)
  | .append _ c ts => c.wf 2 && readTokensWf c ts
  | .truncate _ c => c.wf 3
  | .cancel _ c => c.wf 4
  | .park _ c => c.wf 5
  | .resume _ c => c.wf 6
  | .query _ c => c.wf 7
  | .release _ c => c.wf 8
  | .allocate c => c.wf 1
  | .publish c => c.wf 2
  | .seal c => c.wf 3
  | .move c => c.wf 4
  | .unpublish c => c.wf 5
  | .free c => c.wf 6
  | .pin c => c.wf 7
  | .unpin c => c.wf 8
  | .adopt c => c.wf 9
  | .copyComplete h _ r _ => fits 32 h && r.wf
  | .objectReclaim i _ => fits 20 i
  | .load _ h | .start _ h | .drain _ h | .reload _ h | .reset _ h | .resetRepair _ h => handleWf h
  | .clusterFault _ c _ => decide (c.val < 16)
  | .fabPkgLoad h | .attach h _ => fits 32 h
  | .stage h r | .keylistLoad h r => fits 32 h && r.wf
  | .imageReadComplete _ r | .ucodeLoadComplete _ r _ | .packageLoadComplete r => r.wf
  | .unitDispatch _ k _ ss => decide (k < 1024) && slotsWf ss
  | .stepCommit i _ ds => fits 16 i && draftWf ds
  | .domainLoad _ d _ => fits 16 d
  | .tableLoad _ t => fits 8 t
  | .bind _ r => roleWf r
  | .set _ _ w => fits 16 w
  | .attest a | .establish a => fits 64 a
  | .mtrSelect n => fits 64 n
  | .registerWrite off w v => fits 26 off && (w == 4 || w == 8) && fits (8 * w) v.toNat
  | .sqTail _ v | .cqHead _ v => fits 16 v
  | .trHead _ v => fits 20 v
  | .stkObjSqTail v | .stkObjCqHead v => fits 16 v
  | .bar4Write _ bs => !bs.isEmpty
  | .bar4Read _ n => decide (0 < n)
  | .rstOpen h _ e tw m a => h.wf && e.wf && fits 128 tw && fits 128 m && fits 128 a
  | .logAppend h st e es => h.wf && fits 32 st && e.wf && logWf es
  | .logAck h n => h.wf && fits 32 n
  | .publishBlock h b p => h.wf && fits 32 b && p.wf
  | .pubRef h b pd dg ts => h.wf && fits 32 b && fits 128 pd && fits 128 dg && tokensWf ts
  | .pubAck h n => h.wf && fits 32 n
  | .pubNeed h b => h.wf && fits 32 b
  | .offer h r e m a es => h.wf && fits 64 r && e.wf && fits 128 m && fits 128 a && logWf es
  | .pull h f c l => h.wf && fits 32 f && fits 16 c && fits 16 l
  | .pageData h p l f d => h.wf && fits 32 p && fits 16 l && fits 16 f && d.wf
  | .claim h o t => h.wf && fits 128 o && fits 128 t
  | .deny h o | .ownerIs h o => h.wf && fits 128 o
  | .recover h _ => h.wf
  | .objRead h x o => h.wf && fits 32 x && fits 32 o
  | .objData h x o d => h.wf && fits 32 x && fits 32 o && d.wf
  | .pfxQuery h d pd m a ts => h.wf && fits 16 d && fits 128 pd && fits 128 m && fits 128 a && tokensWf ts
  | .pfxAnswer h n hs => h.wf && fits 32 n && hs.all (fits 32)
  | .rstOpened h | .offerAck h | .grant h | .rstRelease h | .whoOwns h | .rstResume h | .close h | .closed h
  | .rstTransportOnly h => h.wf
  | .rstRetransmit p n => fits 128 p && fits 32 n
  | .memReqLoad f => f.wf
  | .memReqStore f d => f.wf && decide (d.length = f.size)
  | .memReqAdd f v | .memReqMinS f v | .memReqMinU f v | .memReqMaxS f v | .memReqMaxU f v | .memReqSwap f v =>
    f.wf && fits 64 v
  | .memReqCas f c w => f.wf && fits 64 c && fits 64 w
  | .memRsp f _ _ => f.wf
  | .tensor f i t b => f.wf && fits 32 i && fits 32 t && b.wf
  | .tensorAck f i _ => f.wf && fits 32 i
  | .hello _ t _ _ => fits 32 t
  | .frameForward p _ n _ _ => decide (p.val < 12) && decide (n ≤ 8276)
  | .readExclusive _ _ (some (o, bs)) | .upgrade _ _ (some (o, bs)) => decide (o + bs.length ≤ 128)
  | .invalidatingWrite _ o bs => decide (o + bs.length ≤ 128)
  | .writeFull _ _ bs => decide (bs.length = 128)
  | .feedBind _ f b | .feedUnbind _ f b | .feedResource _ f b => f.wf && b.wf
  | .feedSeal _ f bs => f.wf && decide (bs.length ≤ 46)
  | .feedPower _ f x y l => f.wf && fits 8 x && fits 8 y && fits 16 l
  | .feedKeepalive _ f => f.wf
  | .enum h n => h.wf && fits 6 n
  | .getId h | .powerOn h | .powerOff h | .fence h | .status h | .departAnswer h => h.wf
  | .setMember h t m w _ => h.wf && fits 32 t && fits 8 m && fits 8 w
  | .announce h l => h.wf && decide (l.length = 16)
  | .chainReset h k => h.wf && fits 8 k
  | .fenced h t o => h.wf && fits 8 t && fits 8 o
  | .chainForward h bs => h.wf && decide (bs.length ≤ 74)
  | .vin56Low v => decide (47000 ≤ v) && decide (v < 50000)
  | .vin56Under v => decide (v < 47000)
  | .vin56Over v => decide (62000 < v)
  | .vin56InRange v => decide (50000 ≤ v)
  | .verifyComplete .. | .drainComplete _ | .fabVdcFlush | .detach _
  | .detachComplete _ | .stkUcodeClear _ | .xtsLoad _ | .xtsClear _ | .domainClear _ | .domainUnpin _ | .domainFlush _
  | .tableClear _ | .gcmLoad _ | .gcmClear _ | .unbind _ | .unbindComplete _ | .addRegions _ | .removeRegions _
  | .recoverRequest | .recoverFailedPart | .join .. | .switch | .handover | .suspend | .warmReset | .coldReset
  | .stageComplete _ | .advance | .keylistClear | .burn | .burnComplete _ | .white | .grey | .charcoal | .black | .discard _
  | .flsLock _ | .rebuildComplete | .lockSet _ | .rqtTCtlEnable .. | .portCfgWrite .. | .vectorUnmask _ | .orphanAudit _
  | .offerResend _ | .walkDone _ | .mirror .. | .heartbeat .. | .ctrlDepart .. | .portUp _ | .portDown _
  | .egressFrameStart _ | .remoteOpIssue .. | .remoteFence .. | .retryReissue .. | .replyTimeout ..
  | .retryBarrierTimeout .. | .regionAccess .. | .readShared .. | .readExclusive _ _ none | .upgrade _ _ none
  | .writeback .. | .uncachedRead _ | .forward .. | .holdWindowEnd .. | .delayLineCalibration | .unitComplete ..
  | .preemptionPoint .. | .passComplete .. | .stackCoreFault .. | .deadlineMiss _
  | .leaseEpochTick | .leaseExpiry _ | .pageReclaim _ | .prefixInsert .. | .pressureEviction _ | .drop _ | .preempt _
  | .restore _ | .restoreComplete _ | .recompute _ | .gcCollect _ | .fold _ | .slateScrub .. | .keepalive | .silent _
  | .interval .. | .tamper .. | .meterFault .. | .laneStatusFrame _ | .recordCopy _ | .recordLaneSilent | .mtrVaux3Loss _
  | .mtrVaux3Return | .identity _ | .i3cStatus _ | .pointer .. | .record _ | .certificate _ | .mark .. | .entdaa ..
  | .setdasa .. | .getpid _ | .getbcr _ | .getdcr _ | .getstatus _ | .enec .. | .chainRingSilent | .heartbeatSend
  | .heartbeatLoss | .fenceWaitExpiry | .fenceTimeout | .mirrorAcknowledgement _ | .departureComplete | .powerEnRise
  | .powerEnFall | .vaux3Loss | .vaux3Return | .throttling .. | .throttlingEnd .. | .boundsNotGuaranteed ..
  | .thermalTrip .. | .stackRefreshRate .. | .greyIdle _ | .wakeTime | .refclkLoss | .refclkReturn | .pacingChange _
  | .charcoalEntryComplete | .charcoalExitComplete | .perst | .hotReset | .linkDisable | .functionLevelReset | .dlUpLoss
  | .dlUpReturn .. | .busMasterEnable .. | .configurationRequest _ | .hostReadCompletion .. | .poisonedWrite _
  | .malformedTlp _ | .coalesceUsExpiry _ | .powerUpStart _ | .domainScanComplete
  | .ethernetPortUp .. | .ethernetPortDown _ => true

end Sys2Proof
end

