-- ==== Sys2Proof/Certificates/Slice0/Obligations.lean ====
section
/-! DEFINITION. The statements for the provers. Each speaks of every state and operand that meets its hypotheses. -/

open Sys2Proof Sys2Proof.Machine

/-! ## The block as a whole -/

namespace Sys2Proof

/-- A command answers a next state of which `P` holds. -/
def Completes (c : Instr) (s : State) (P : State → Prop) : Prop := ∃ t, exec c s = .next t ∧ P t

/-- A command takes the effect `u`. What the end of every command adds to it is what FinishKeepsTheEffect says. -/
def Effect (c : Instr) (s u : State) : Prop := exec c s = .next (finish s u)

/-- What a command sends has `o` in it, and what was sent before stays. -/
def Sends (s t : State) (o : Output) : Prop := ∃ l k, t.out = l ++ o :: (k ++ s.out)

/-- A register field that the end of a command leaves alone: any but STK_CAP_PRESSURE and the block counts of COD_STATS. -/
def quietField (f : Field) : Bool :=
  f.key != F.codStats.rawBlocks.key && f.key != F.codStats.codedBlocks.key &&
    (decide (f.key < 0x004a2000 * 64) || decide (0x004a2800 * 64 ≤ f.key))

/-- The parts of State that commands change. -/
inductive StatePart where
  | fresh | fields | mem | plt | pwr | pcie | stk | fab | ucode | sch | rqt | pfx | xfr | cod | lnk | coh | tm | fls | twn | mtr
  | lane | out
deriving DecidableEq, Repr

/-- A part is the same in two states. -/
def StatePart.same (s t : State) : StatePart → Prop
  | .fresh => t.fresh = s.fresh
  | .fields => t.fields = s.fields
  | .mem => t.mem = s.mem
  | .plt => t.plt = s.plt
  | .pwr => t.pwr = s.pwr
  | .pcie => t.pcie = s.pcie
  | .stk => t.stk = s.stk
  | .fab => t.fab = s.fab
  | .ucode => t.ucode = s.ucode
  | .sch => t.sch = s.sch
  | .rqt => t.rqt = s.rqt
  | .pfx => t.pfx = s.pfx
  | .xfr => t.xfr = s.xfr
  | .cod => t.cod = s.cod
  | .lnk => t.lnk = s.lnk
  | .coh => t.coh = s.coh
  | .tm => t.tm = s.tm
  | .fls => t.fls = s.fls
  | .twn => t.twn = s.twn
  | .mtr => t.mtr = s.mtr
  | .lane => t.lane = s.lane
  | .out => t.out = s.out

/-- The parts that a command never changes, whatever the state. Every other part may change where the rules have it. -/
def neverChanged : Instr → List StatePart
  | .hostAdmit .. | .allocate .. | .publish .. | .seal .. | .move .. | .unpublish .. | .free .. | .pin .. | .unpin ..
  | .adopt .. | .stkObjSqTail .. | .stkObjCqHead .. | .vectorUnmask .. | .orphanAudit .. | .offerResend ..
  | .frameForward .. | .deadlineMiss .. | .restore .. | .recordLaneSilent | .getId .. | .status .. | .departAnswer ..
  | .chainForward .. | .chainRingSilent | .heartbeatSend | .fenceWaitExpiry | .fenceTimeout | .vin56Low ..
  | .vin56InRange .. | .configurationRequest .. | .poisonedWrite .. | .malformedTlp .. | .coalesceUsExpiry .. =>
    [.mem, .plt, .pwr, .fab, .ucode, .sch, .pfx, .lnk, .coh, .fls, .mtr, .lane]
  | .append .. | .truncate .. | .cancel .. | .park .. | .resume .. | .query .. | .release .. | .preempt ..
  | .restoreComplete .. | .recompute .. =>
    [.plt, .pwr, .fab, .ucode, .pfx, .lnk, .fls, .mtr, .lane]
  | .copyComplete .. =>
    [.plt, .pwr, .fab, .ucode, .sch, .pfx, .lnk, .mtr, .lane]
  | .objectReclaim .. | .rebuildComplete | .gcCollect .. | .fold .. | .slateScrub .. =>
    [.mem, .plt, .pwr, .fab, .ucode, .sch, .pfx, .lnk, .coh, .mtr, .lane]
  | .load .. | .unitDispatch .. =>
    [.plt, .pfx, .lnk, .fls, .mtr, .lane]
  | .start .. | .reload .. =>
    [.mem, .plt, .ucode, .pfx, .lnk, .coh, .fls, .mtr, .lane]
  | .drain .. | .reset .. =>
    [.mem, .plt, .ucode, .pfx, .lnk, .fls, .mtr, .lane]
  | .resetRepair .. =>
    [.mem, .ucode, .pfx, .lnk, .fls, .mtr, .lane]
  | .imageReadComplete .. | .verifyComplete .. | .drainComplete .. | .clusterFault .. | .unitComplete ..
  | .stepCommit .. =>
    [.plt, .pwr, .pfx, .lnk, .fls, .mtr, .lane]
  | .fabPkgLoad .. | .fabVdcFlush =>
    [.mem, .plt, .ucode, .sch, .pfx, .lnk, .coh, .fls, .mtr, .lane]
  | .attach .. =>
    [.mem, .plt, .fab, .pfx, .lnk, .coh, .fls, .mtr, .lane]
  | .ucodeLoadComplete .. | .regionAccess .. | .stackCoreFault .. =>
    [.mem, .plt, .pwr, .pfx, .lnk, .coh, .fls, .mtr, .lane]
  | .detach .. | .stkUcodeClear .. =>
    [.mem, .plt, .fab, .sch, .pfx, .lnk, .coh, .fls, .mtr, .lane]
  | .detachComplete .. | .passComplete .. =>
    [.mem, .plt, .pwr, .fab, .pfx, .lnk, .coh, .fls, .mtr, .lane]
  | .xtsLoad .. | .xtsClear .. | .tableLoad .. | .tableClear .. | .gcmLoad .. | .gcmClear .. | .recoverRequest
  | .recoverFailedPart | .switch | .attest .. | .establish .. | .throttling .. | .throttlingEnd ..
  | .boundsNotGuaranteed .. | .stackRefreshRate .. | .greyIdle .. | .pacingChange .. =>
    [.mem, .plt, .fab, .ucode, .sch, .pfx, .lnk, .coh, .fls, .mtr, .lane]
  | .domainLoad .. | .domainClear .. | .domainUnpin .. | .domainFlush .. =>
    [.mem, .plt, .fab, .ucode, .sch, .lnk, .coh, .fls, .mtr, .lane]
  | .bind .. | .removeRegions .. =>
    [.mem, .plt, .ucode, .pfx, .lnk, .coh, .fls, .mtr]
  | .unbind .. =>
    [.mem, .plt, .lnk, .coh, .fls, .mtr, .lane]
  | .unbindComplete .. =>
    [.mem, .plt, .pwr, .fab, .ucode, .pfx, .lnk, .coh, .fls, .mtr]
  | .addRegions .. =>
    [.mem, .plt, .ucode, .sch, .pfx, .lnk, .coh, .fls, .mtr]
  | .set .. =>
    [.mem, .plt, .fab, .ucode, .pfx, .lnk, .coh, .fls, .mtr, .lane]
  | .join .. | .suspend =>
    [.mem, .plt, .fab, .ucode, .sch, .lnk, .coh, .fls, .mtr]
  | .handover | .lockSet .. | .mtrSelect .. | .heartbeat .. | .keepalive | .recordCopy .. | .mirrorAcknowledgement .. =>
    [.mem, .plt, .pwr, .fab, .ucode, .sch, .pfx, .lnk, .coh, .fls, .mtr]
  | .warmReset | .coldReset | .black | .registerWrite .. | .powerOff .. | .chainReset .. | .fence ..
  | .departureComplete | .powerEnFall | .vin56Under .. | .vin56Over .. | .vaux3Loss | .thermalTrip ..
  | .charcoalExitComplete | .perst | .hotReset | .linkDisable | .functionLevelReset =>
    [.mtr]
  | .stage .. | .advance | .burn =>
    [.mem, .fab, .ucode, .sch, .pfx, .lnk, .coh, .fls, .mtr, .lane]
  | .stageComplete .. | .burnComplete .. | .enum .. | .powerOn .. | .powerEnRise | .vaux3Return | .refclkLoss
  | .refclkReturn =>
    [.mem, .pwr, .fab, .ucode, .sch, .pfx, .lnk, .coh, .fls, .mtr, .lane]
  | .keylistLoad .. | .keylistClear =>
    [.mem, .ucode, .sch, .pfx, .lnk, .coh, .fls, .mtr, .lane]
  | .white | .grey | .charcoal | .sqTail .. | .cqHead .. | .trHead .. | .rstTransportOnly .. | .wakeTime
  | .charcoalEntryComplete =>
    [.mem, .plt, .fab, .ucode, .sch, .pfx, .lnk, .coh, .fls, .mtr]
  | .discard .. =>
    [.mem, .plt, .fab, .ucode, .sch, .pfx, .lnk, .coh, .mtr, .lane]
  | .flsLock .. =>
    [.mem, .plt, .fab, .ucode, .sch, .pfx, .lnk, .coh, .mtr]
  | .rqtTCtlEnable .. =>
    [.mem, .plt, .pwr, .ucode, .sch, .pfx, .lnk, .coh, .fls, .mtr]
  | .portCfgWrite .. =>
    [.mem, .plt, .pwr, .ucode, .sch, .pfx, .coh, .fls, .mtr]
  | .bar4Read .. | .bar4Write .. =>
    [.plt, .fab, .ucode, .sch, .pfx, .lnk, .fls, .mtr]
  | .rstOpen .. | .rstOpened .. | .logAppend .. | .logAck .. | .publishBlock .. | .pubRef .. | .pubAck ..
  | .pubNeed .. | .offer .. | .offerAck .. | .pull .. | .pageData .. | .claim .. | .grant .. | .deny ..
  | .rstRelease .. | .whoOwns .. | .ownerIs .. | .rstResume .. | .recover .. | .objRead .. | .objData .. | .close ..
  | .closed .. | .pfxQuery .. | .pfxAnswer .. =>
    [.plt, .fab, .ucode, .lnk, .fls, .mtr]
  | .rstRetransmit .. | .walkDone .. | .pageReclaim .. =>
    [.plt, .pwr, .fab, .ucode, .lnk, .fls, .mtr, .lane]
  | .memReqLoad .. | .memReqStore .. | .memReqAdd .. | .memReqMinS .. | .memReqMinU .. | .memReqMaxS ..
  | .memReqMaxU .. | .memReqSwap .. | .memReqCas .. | .tensor .. =>
    [.plt, .fab, .ucode, .sch, .pfx, .fls, .mtr]
  | .memRsp .. | .tensorAck .. | .hello .. | .portDown .. | .remoteFence .. | .retryReissue .. | .replyTimeout .. =>
    [.mem, .plt, .pwr, .ucode, .sch, .pfx, .coh, .fls, .mtr, .lane]
  | .mirror .. =>
    [.plt, .pwr, .fab, .ucode, .sch, .lnk, .fls, .mtr]
  | .ctrlDepart .. | .portUp .. | .retryBarrierTimeout .. | .announce .. | .ethernetPortUp .. | .ethernetPortDown .. =>
    [.mem, .plt, .pwr, .fab, .ucode, .sch, .pfx, .coh, .fls, .mtr, .lane]
  | .egressFrameStart .. =>
    [.fresh, .fields, .mem, .plt, .pwr, .pcie, .stk, .fab, .ucode, .sch, .rqt, .pfx, .xfr, .lnk, .coh, .fls, .twn, .mtr, .lane]
  | .remoteOpIssue .. =>
    [.plt, .pwr, .ucode, .sch, .pfx, .fls, .mtr, .lane]
  | .readShared .. | .readExclusive .. | .upgrade .. | .writeback .. | .uncachedRead .. | .invalidatingWrite ..
  | .writeFull .. | .forward .. | .holdWindowEnd .. =>
    [.plt, .pwr, .fab, .ucode, .sch, .pfx, .lnk, .fls, .mtr, .lane]
  | .delayLineCalibration =>
    [.mem, .plt, .pwr, .fab, .ucode, .sch, .pfx, .lnk, .fls, .mtr, .lane]
  | .preemptionPoint .. =>
    [.mem, .plt, .pwr, .ucode, .pfx, .lnk, .coh, .fls, .mtr, .lane]
  | .leaseEpochTick =>
    [.plt, .pwr, .fab, .ucode, .lnk, .mtr, .lane]
  | .leaseExpiry .. =>
    [.plt, .pwr, .lnk, .mtr, .lane]
  | .prefixInsert .. | .pressureEviction .. | .domainScanComplete =>
    [.mem, .plt, .pwr, .fab, .ucode, .sch, .lnk, .coh, .fls, .mtr, .lane]
  | .drop .. =>
    [.mem, .plt, .pwr, .fab, .ucode, .pfx, .lnk, .coh, .fls, .mtr, .lane]
  | .feedBind .. | .feedUnbind .. | .feedResource .. | .feedSeal .. | .feedPower .. | .feedKeepalive .. | .silent ..
  | .interval .. | .tamper .. | .meterFault .. | .mtrVaux3Loss .. | .identity .. | .i3cStatus .. | .pointer ..
  | .record .. | .certificate .. | .mark .. | .entdaa .. | .setdasa .. | .getpid .. | .getbcr .. | .getdcr ..
  | .getstatus .. | .enec .. =>
    [.mem, .plt, .pwr, .fab, .ucode, .sch, .pfx, .lnk, .coh, .fls, .lane]
  | .laneStatusFrame .. | .mtrVaux3Return =>
    [.mem, .plt, .pwr, .fab, .ucode, .sch, .pfx, .lnk, .coh, .fls]
  | .setMember .. =>
    [.mem, .plt, .pwr, .ucode, .sch, .coh, .fls, .mtr]
  | .fenced .. | .heartbeatLoss =>
    [.mem, .plt, .pwr, .fab, .ucode, .sch, .lnk, .coh, .fls, .mtr]
  | .dlUpLoss | .hostReadCompletion .. =>
    [.pwr, .pfx, .lnk, .mtr, .lane]
  | .dlUpReturn .. | .busMasterEnable .. =>
    [.mem, .pwr, .ucode, .sch, .pfx, .lnk, .coh, .fls, .mtr, .lane]
  | .powerUpStart .. =>
    [.mem, .pwr, .ucode, .sch, .pfx, .lnk, .coh, .fls, .mtr]
  | .packageLoadComplete .. =>
    [.mem, .plt, .pwr, .ucode, .sch, .pfx, .lnk, .coh, .fls, .mtr, .lane]

end Sys2Proof

/-- O1. A step takes the command at the front of the queue, and is that command on the state with the queue's rest.
On an empty queue one period of the reference clock passes: the LMC counts one, modulo 2^64, while the main rails are on and
the clock runs, and nothing else changes (the model's choice, log entry 12). -/
def Obligations.StepRunsFront : Prop :=
  (∀ (c : Instr) (rest : List Instr) (s : State), s.pending = c :: rest → step s = exec c { s with pending := rest }) ∧
  (∀ s : State, s.pending = [] →
     step s = .next (if s.plt.mainRails && !s.plt.lmcHeld then { s with plt := { s.plt with lmc := (s.plt.lmc + 1) % 2 ^ 64 } } else s))

/-- O2. No command is refused and none stops the block: each answers a next state, in every state, and leaves the queue to the
step. -/
def Obligations.EveryCommandAnswers : Prop :=
  ∀ (c : Instr) (s : State), ∃ t, exec c s = .next t ∧ t.pending = s.pending

/-- O3. What each command leaves alone: the parts of State that it never changes. Every byte of Ochre and Slate reads as before after a
command that changes neither memory nor a cached copy. -/
def Obligations.CommandsKeepTheirParts : Prop :=
  (∀ (c : Instr) (s t : State), exec c s = .next t → ∀ p ∈ neverChanged c, p.same s t) ∧
  (∀ (c : Instr) (s t : State), StatePart.mem ∈ neverChanged c → StatePart.coh ∈ neverChanged c → exec c s = .next t →
    ∀ a, memByte t a = memByte s a)

/-- O4. The end of a command (`finish`) changes capacity pressure and output alone: every register but STK_CAP_PRESSURE and the
block counts of COD_STATS, every page, object, entry, ledger, region, fuse and byte is what the command's own effect left. -/
def Obligations.FinishKeepsTheEffect : Prop :=
  ∀ s0 s : State,
    (finish s0 s).mem = s.mem ∧ (finish s0 s).plt = s.plt ∧ (finish s0 s).pwr = s.pwr ∧ (finish s0 s).fab = s.fab ∧
    (finish s0 s).ucode = s.ucode ∧ (finish s0 s).sch = s.sch ∧ (finish s0 s).pfx = s.pfx ∧ (finish s0 s).lnk = s.lnk ∧
    (finish s0 s).coh = s.coh ∧ (finish s0 s).fls = s.fls ∧ (finish s0 s).mtr = s.mtr ∧ (finish s0 s).lane = s.lane ∧
    (finish s0 s).stk.odt = s.stk.odt ∧ (finish s0 s).stk.pages = s.stk.pages ∧ (finish s0 s).stk.wp = s.stk.wp ∧
    (finish s0 s).stk.leases = s.stk.leases ∧ (finish s0 s).rqt.manifests = s.rqt.manifests ∧
    (finish s0 s).xfr.ledgers = s.xfr.ledgers ∧ (finish s0 s).cod.tables = s.cod.tables ∧
    (∀ i, entryOf (finish s0 s) i = { entryOf s i with noticePending := (entryOf (finish s0 s) i).noticePending }) ∧
    (∀ f : Field, quietField f = true → getF (finish s0 s) f = getF s f)

/-! ## What every step keeps -/

/-- O5. Memory keeps its canonical form (rising addresses, no byte that is 0) through every step. -/
def Obligations.MemoryStaysCanonical : Prop :=
  ∀ s t : State, step s = .next t → Memory.wf s.mem = true → Memory.wf t.mem = true

/-- O6. Fuses go from 0 to 1 only: no step clears a burned fuse.
Once the seal is broken or the meter has failed, no step clears that state. -/
def Obligations.WhatIsNeverUndone : Prop :=
  (∀ s t : State, step s = .next t → ∀ a i, Safety.burned s a i = true → Safety.burned t a i = true) ∧
  (∀ s t : State, step s = .next t → (s.mtr.broken = true → t.mtr.broken = true) ∧ (s.mtr.fault = true → t.mtr.fault = true))

/-- O7. The meter's log: RECORD_NO k stands in slot k mod 1,048,576, each new record takes the oldest one's place, and every record
carries the SHA-384 of the one before it, through every step. -/
def Obligations.MeterLogStaysChained : Prop :=
  ∀ s t : State, step s = .next t → Safety.MeterChain s.mtr → Safety.MeterChain t.mtr ∧ s.mtr.newest ≤ t.mtr.newest

/-- O8. What an Active holds back waits for a change that its Mirror has not applied, and a part that does not mirror holds nothing
back, after every step. -/
def Obligations.HeldOutputWaitsForTheMirror : Prop :=
  ∀ s t : State, step s = .next t → Safety.HoldOk s → Safety.HoldOk t

/-- O9. STK_CAP_PRESSURE shows the pressure of R349 and R350 after every step. -/
def Obligations.PressureStaysShown : Prop :=
  ∀ s t : State, step s = .next t → Safety.PressureOk s → Safety.PressureOk t

/-- O10. The reset state meets every invariant: canonical memory, a chained log, nothing held, and pressure shown. -/
def Obligations.ResetMeetsTheInvariants : Prop :=
  Memory.wf State.reset.mem = true ∧ Safety.MeterChain State.reset.mtr ∧ Safety.HoldOk State.reset ∧ Safety.PressureOk State.reset

/-! ## Resets, departures and the rails (20, 21) -/

namespace Sys2Proof

/-- The part asks to depart, tells the tray controller (DEPART with STATE DEPARTING), and sends DEPART on every Roale port that is
UP; `a` follows (R511). -/
def announceDeparture (s : State) (a : AfterDeparture) : State :=
  ((List.range 12).filter (fun p => (portOf s p).state == .up)).foldl (fun t p => enqueue t (roalePort p) .depart)
    (sendChain { s with plt := { s.plt with departing := some a } } 0 0x0B [2])

/-- The part has nothing to depart from, or does not serve yet. -/
def departsAtOnce (s : State) : Prop := isReady s = false ∨ s.lnk.enrolled = false

/-- What a cold reset or a loss of the rails leaves of `s`, by R542 and R630: everything but the meter, the fuses, the boot flash, the
chain address and the cells of Umber is at its reset value. -/
def ColdCleared (s t : State) : Prop :=
  t.mem = [] ∧ t.plt.lmc = 0 ∧ t.plt.state = .rom ∧ t.plt.rootList = none ∧ t.plt.ownerList = none ∧ t.plt.wrapKey = none ∧
  t.plt.departing = none ∧ t.fab = {} ∧ t.ucode = {} ∧ t.sch = {} ∧ t.pfx = {} ∧ t.coh = {} ∧ t.lnk = {} ∧ t.pwr = {} ∧
  t.stk.odt = [] ∧ t.stk.pages = [] ∧ t.stk.leases = [] ∧ t.stk.xts = [] ∧ t.rqt.manifests = [] ∧ (∀ i, (entryOf t i).state = .free) ∧
  t.xfr.ledgers = [] ∧ t.xfr.slots = [] ∧ t.cod.tables = [] ∧ t.twn.state = .solo ∧ t.twn.role = .none ∧
  (∀ f : Field, quietField f = true → getF t f = f.reset) ∧
  t.fls.blocks = s.fls.blocks ∧ t.mtr = s.mtr ∧ t.plt.chainAddr = s.plt.chainAddr ∧ t.plt.thermo = s.plt.thermo

/-- What a warm reset leaves of `s`, by R542 and R630: the part is at the ROM with the LMC counting; the twin, enrolment, key lists, keys,
images and cached lines are gone, and member number, fuses and meter stay. -/
def WarmCleared (s t : State) : Prop :=
  t.plt.state = .rom ∧ t.plt.lmc = s.plt.lmc ∧ t.plt.starting.isSome = true ∧ t.plt.rootList = none ∧ t.plt.ownerList = none ∧
  t.plt.wrapKey = none ∧ t.plt.departing = none ∧ t.plt.chainAddr = s.plt.chainAddr ∧ t.plt.fuses = s.plt.fuses ∧ t.fab.pkg = none ∧
  t.fab.vdc = [] ∧ t.ucode = {} ∧ t.stk.xts = [] ∧ t.stk.leases = [] ∧ t.pfx.slots = [] ∧ t.pfx.scan = none ∧ t.coh.lines = [] ∧
  t.lnk.enrolled = false ∧ t.lnk.trayId = 0 ∧ t.lnk.member = s.lnk.member ∧ t.twn.state = .solo ∧ t.twn.role = .none ∧
  t.pwr.state = .white ∧ t.pwr.held = [] ∧ (∀ i, (entryOf t i).state = .free) ∧ t.xfr.ledgers = [] ∧
  (∀ t' < 4096, isSet t (F.rqtTCtl.enable.at t') = false) ∧ getF t F.pfxDomainCtl.status = 0

end Sys2Proof

/-- O11. An enrolled part that serves departs before it resets or powers off: nothing else of it changes until the departure ends. -/
def Obligations.ResetsDepartFirst : Prop :=
  (∀ s, isReady s = true → s.lnk.enrolled = true → s.plt.departing = none →
    Effect .warmReset s (announceDeparture s (.reset .warm)) ∧ Effect .coldReset s (announceDeparture s (.reset .cold)) ∧
    Effect .perst s (announceDeparture (resetEndpoint s false) (.reset .warm)) ∧
    Effect .functionLevelReset s (announceDeparture (resetEndpoint s true) (.reset .warm)) ∧
    (s.plt.vaux3 = true → Effect .powerEnFall s (announceDeparture s (.black 2))) ∧
    (isAwake s = true → Effect .black s (announceDeparture (putF s F.pwrStatus.cmdStatus 5) (.black 1)))) ∧
  (∀ s h, isReady s = true → s.lnk.enrolled = true → s.plt.departing = none → s.plt.vaux3 = true → h.crcOk = true →
    h.dest = s.plt.chainAddr → s.plt.chainAddr ≠ 0 → s.plt.chainAddr ≠ 63 →
    Effect (.chainReset h 1) s (announceDeparture (answerChain (putF s F.pltChain.ringOk 1) h 0x07 0 []) (.reset .warm)) ∧
    Effect (.chainReset h 2) s (announceDeparture (answerChain (putF s F.pltChain.ringOk 1) h 0x07 0 []) (.reset .cold)) ∧
    Effect (.powerOff h) s (announceDeparture (answerChain (putF s F.pltChain.ringOk 1) h 0x06 0 []) (.black 2)))

/-- O12. A departure ends, once no operation is outstanding, with DEPARTED on the chain, and then the reset or the loss of the rails that
it was for.
A cold reset of a part that has nothing to depart from clears what R542 says, and the part starts again from the ROM. -/
def Obligations.DepartureEnds : Prop :=
  (∀ s, operationsDone s = true →
     (∀ a, s.plt.departing = some a → Effect .departureComplete s (endDeparture (sendChain s 0 0x0B [3]) a)) ∧
     (s.plt.departing = some (.reset .cold) →
       Completes .departureComplete s (fun t => ColdCleared s t ∧ t.plt.mainRails = true ∧ t.plt.starting = some .cold)) ∧
     (∀ cause, s.plt.departing = some (.black cause) →
       Completes .departureComplete s (fun t => ColdCleared s t ∧ t.plt.mainRails = false ∧ t.plt.lastOff = cause))) ∧
  (∀ s, departsAtOnce s → serves s 0 = true →
     Completes .coldReset s (fun t => ColdCleared s t ∧ t.plt.mainRails = true ∧ t.plt.starting = some .cold))

/-- O13. A warm reset of a part that has nothing to depart from clears what R542 says and keeps the rest; a reset of the endpoint (PERST#, a
hot reset, a link disable, a function-level reset) is one and clears Bus Master Enable with it. Each completes: WARM_RESET, PERST,
HOT_RESET, LINK_DISABLE, FUNCTION_LEVEL_RESET. -/
def Obligations.WarmResetClears : Prop :=
  (∀ s, departsAtOnce s → serves s 0 = true →
    Completes .warmReset s (fun t => WarmCleared s t ∧ t.pcie.busMaster = s.pcie.busMaster)) ∧
  (∀ s, departsAtOnce s → s.plt.mainRails = true →
    Completes .perst s (fun t => WarmCleared s t ∧ t.pcie.busMaster = false) ∧
    Completes .hotReset s (fun t => WarmCleared s t ∧ t.pcie.busMaster = false) ∧
    Completes .linkDisable s (fun t => WarmCleared s t ∧ t.pcie.busMaster = false) ∧
    Completes .functionLevelReset s (fun t => WarmCleared s t ∧ t.pcie.busMaster = false))

/-- O14. What cuts the main rails at once, without a departure, leaves what R542 says of Black, with LAST_OFF's cause: the supplies, the
temperature, the chain's FENCE, and the loss of VAUX3, which also clears the chain address. -/
def Obligations.RailsGoOff : Prop :=
  (∀ s mv, s.plt.mainRails = true → mv < 47000 →
    Completes (.vin56Under mv) s (fun t => ColdCleared s t ∧ t.plt.mainRails = false ∧ t.plt.lastOff = 4)) ∧
  (∀ s mv, s.plt.mainRails = true → 62000 < mv →
    Completes (.vin56Over mv) s (fun t => ColdCleared s t ∧ t.plt.mainRails = false ∧ t.plt.lastOff = 5)) ∧
  (∀ s d r, s.plt.mainRails = true → 109 ≤ r →
    Completes (.thermalTrip d r) s (fun t => ColdCleared s t ∧ t.plt.mainRails = false ∧ t.plt.lastOff = 3 ∧ t.plt.thermTripLow = true ∧
      Sends s t (.thermTrip true))) ∧
  (∀ s h, s.plt.mainRails = true → s.plt.vaux3 = true → h.crcOk = true → h.dest = s.plt.chainAddr → s.plt.chainAddr ≠ 0 →
    s.plt.chainAddr ≠ 63 →
    Completes (.fence h) s (fun t => ColdCleared s t ∧ t.plt.mainRails = false ∧ t.plt.lastOff = 6 ∧
      Sends s t (.chain { dest := 0, source := s.plt.chainAddr, cmd := 0x89, seq := h.seq, status := 0, payload := [] }))) ∧
  (∀ s, s.plt.vaux3 = true → s.plt.mainRails = true →
    Completes .vaux3Loss s (fun t => t.plt.mainRails = false ∧ t.plt.vaux3 = false ∧ t.plt.chainAddr = 0 ∧ t.plt.lastOff = 7 ∧
      t.mem = [] ∧ t.fab = {} ∧ t.mtr = s.mtr)) ∧
  (∀ s, s.plt.vaux3 = true → s.plt.mainRails = true → departsAtOnce s →
    Completes .powerEnFall s (fun t => ColdCleared s t ∧ t.plt.mainRails = false ∧ t.plt.lastOff = 2)) ∧
  (∀ s, serves s 2 = true → departsAtOnce s → isAwake s = true → s.plt.departing = none →
    Completes .black s (fun t => ColdCleared s t ∧ t.plt.mainRails = false ∧ t.plt.lastOff = 1))

/-- O15. The rails come on: POWER_EN, or POWER_ON on the chain, which is answered, starts step 3 of a cold start and releases
THERM_TRIP_N; neither has an effect while they are on. VAUX3 returns with the chain port at address 0. -/
def Obligations.RailsComeOn : Prop :=
  (∀ s, s.plt.vaux3 = true → s.plt.mainRails = false →
    Completes .powerEnRise s (fun t => t.plt = { s.plt with mainRails := true, starting := some .cold, state := .rom, thermTripLow := false } ∧
      t.fields = s.fields ∧ (s.plt.thermTripLow = true → Sends s t (.thermTrip false)))) ∧
  (∀ s, s.plt.vaux3 = true → s.plt.mainRails = true → s.plt.thermTripLow = false → Effect .powerEnRise s s) ∧
  (∀ s h, s.plt.vaux3 = true → h.crcOk = true → h.dest = s.plt.chainAddr → s.plt.chainAddr ≠ 0 → s.plt.chainAddr ≠ 63 →
    s.plt.thermTripLow = false →
    Completes (.powerOn h) s (fun t => t.plt.mainRails = true ∧
      t.plt.starting = (if s.plt.mainRails then s.plt.starting else some .cold) ∧ t.plt.chainAddr = s.plt.chainAddr ∧
      Sends s t (.chain { dest := 0, source := s.plt.chainAddr, cmd := 0x85, seq := h.seq, status := 0, payload := [] }))) ∧
  (∀ s, s.plt.vaux3 = false →
    Effect .vaux3Return s { s with plt := { s.plt with vaux3 := true, chainAddr := 0, lastOff := 7 } })

/-! ## Power, temperatures and the chain (20, 21) -/

namespace Sys2Proof

/-- The chain port receives a good frame for its own address alone. -/
def ChainHere (s : State) (h : ChainHead) : Prop :=
  s.plt.vaux3 = true ∧ h.crcOk = true ∧ h.dest = s.plt.chainAddr ∧ s.plt.chainAddr ≠ 0 ∧ s.plt.chainAddr ≠ 63

/-- RING_OK reads 1 while the main rails are on. -/
def heard (s : State) : State := if s.plt.mainRails then putF s F.pltChain.ringOk 1 else s

/-- The answer of the chain port to the tray controller (R563). -/
def answer (s : State) (h : ChainHead) (cmd status : Nat) (payload : List Nat) : State :=
  emit s (.chain { dest := 0, source := s.plt.chainAddr, cmd := cmd, seq := h.seq, status := status, payload := payload })

end Sys2Proof

/-- O16. White and Grey are reached at once from each other, with a POWER frame to the meter where the part sends frames, and from
Charcoal by the exit from it.
Charcoal: the entry begins where every region is EMPTY or FAULTED, nothing is under way and the twin allows it; it completes in
Charcoal, unless a wake event arrived, which starts the exit; the exit scrubs every region and ends in White or the state asked for, and
what the part held is served in its order. A timer wakes the part, and a region without work for GREY_IDLE_US is gated in Grey. Each of
WHITE, GREY, CHARCOAL, CHARCOAL_ENTRY_COMPLETE, CHARCOAL_EXIT_COMPLETE, WAKE_TIME and GREY_IDLE completes. -/
def Obligations.PowerStatesChange : Prop :=
  (∀ s, serves s 2 = true → s.plt.departing = none →
     (s.pwr.state = .white → Effect .white s (putF s F.pwrStatus.cmdStatus 0)) ∧
     (s.pwr.state = .grey → Effect .grey s (putF s F.pwrStatus.cmdStatus 0)) ∧
     (s.pwr.state = .grey → feedOn s = false →
       Effect .white s (putF (pwrNotify { s with pwr := { s.pwr with state := .white, gated := [] } }) F.pwrStatus.cmdStatus 0)) ∧
     (s.pwr.state = .white → feedOn s = false →
       Effect .grey s (putF (pwrNotify { s with pwr := { s.pwr with state := .grey, gated := [] } }) F.pwrStatus.cmdStatus 0)) ∧
     (s.pwr.state = .charcoal → feedOn s = true →
       Completes .white s (fun t => t.pwr = { s.pwr with state := .leaving, exitGrey := false } ∧ getF t F.pwrStatus.cmdStatus = 5 ∧
         Sends s t (.feed s.lane.nextSeq (.power 2 0 (getF s F.pwrLimit.limitW)))) ∧
       Completes .grey s (fun t => t.pwr = { s.pwr with state := .leaving, exitGrey := true } ∧ getF t F.pwrStatus.cmdStatus = 5 ∧
         Sends s t (.feed s.lane.nextSeq (.power 2 1 (getF s F.pwrLimit.limitW)))))) ∧
  (∀ s, serves s 2 = true → s.plt.departing = none → isAwake s = true → regionsIdle s = true → charcoalActive s = false →
    (s.twn.state = .solo ∨ s.twn.state = .alone) →
    Completes .charcoal s (fun t => t.pwr = { s.pwr with state := .entering, gated := [], exitGrey := s.pwr.state == .grey } ∧
      getF t F.pwrStatus.cmdStatus = 5 ∧ t.fab = s.fab)) ∧
  (∀ s, isReady s = true → s.pwr.state = .entering → s.pwr.wakePending = false →
    Completes .charcoalEntryComplete s (fun t => t.pwr = { s.pwr with state := .charcoal } ∧ getF t F.pwrStatus.cmdStatus = 0 ∧
      t.fab = s.fab)) ∧
  (∀ s, isReady s = true → s.pwr.state = .entering → s.pwr.wakePending = true →
    Completes .charcoalEntryComplete s (fun t => t.pwr = { s.pwr with state := .leaving, wakePending := false, exitGrey := false })) ∧
  (∀ s, isReady s = true → s.pwr.state = .leaving →
    exec .charcoalExitComplete s = .next (s.pwr.held.foldl serveHeld (finish s (endCharcoal s))) ∧
    (endCharcoal s).pwr.state = (if s.pwr.exitGrey then .grey else .white) ∧ (endCharcoal s).pwr.held = [] ∧
    getF (endCharcoal s) F.pwrStatus.cmdStatus = 0) ∧
  (∀ s, isReady s = true → s.pwr.state = .charcoal → (getF s F.pwrWake.sources).testBit 3 = true →
    getF s F.pwrWakeTime.lmc ≠ 0 → getF s F.pwrWakeTime.lmc ≤ s.plt.lmc →
    Completes .wakeTime s (fun t => t.pwr = { s.pwr with state := .leaving, exitGrey := false })) ∧
  (∀ s n, isReady s = true → s.pwr.state = .grey → (regionOf s n.val).state = .serving → runningUnit s n.val = none →
    hasPassed s (regionOf s n.val).idleSince (getF s F.pwrLimit.greyIdleUs) = true →
    Effect (.greyIdle n) s { s with pwr := { s.pwr with gated := tabPut false s.pwr.gated n.val true } })

/-- O17. The input supply: every reading stands in PWR_INPUT, and VIN56_LOW tells of one below 50 V; a change of it is signalled.
Temperatures: a die that throttles paces the part, and one that cools no longer does; a reading above 100 °C sets BNG_EVENT; a
stack above 85 °C refreshes twice as often until it is below 83 °C. Pacing for the limit begins and ends.
The reference clock: its loss holds the LMC, sets REFCLK_EVENT and is signalled; its return lets the LMC go on from where it
stood. -/
def Obligations.ReadingsAct : Prop :=
  (∀ s mv, s.plt.mainRails = true → mv < 2 ^ 16 →
     (47000 ≤ mv → mv < 50000 → Completes (.vin56Low mv) s (fun t =>
       getF t F.pwrInput.vin56Mv = mv ∧ getF t F.pwrStatus.vin56Low = 1 ∧ t.pwr = s.pwr ∧ t.plt = s.plt ∧
       (getF s F.pwrStatus.vin56Low = 0 → isSet s F.pwrCtl.notifyEnable = true → vectorOpen s (getF s F.pwrCtl.vector) = true →
         Sends s t (.msix (getF s F.pwrCtl.vector))))) ∧
     (50000 ≤ mv → Completes (.vin56InRange mv) s (fun t =>
       getF t F.pwrInput.vin56Mv = mv ∧ getF t F.pwrStatus.vin56Low = 0 ∧ t.pwr = s.pwr ∧ t.plt = s.plt))) ∧
  (∀ s d r, s.plt.mainRails = true → 95 ≤ r → Completes (.throttling d r) s (fun t =>
    tabGet false t.pwr.throttled (dieNo d) = true ∧ pacing t = true ∧ t.plt = s.plt ∧ t.fab = s.fab ∧
    (∀ e, e ≠ dieNo d → tabGet false t.pwr.throttled e = tabGet false s.pwr.throttled e))) ∧
  (∀ s d r, s.plt.mainRails = true → r < 92 → Completes (.throttlingEnd d r) s (fun t =>
    tabGet false t.pwr.throttled (dieNo d) = false ∧ t.plt = s.plt ∧ t.fab = s.fab ∧
    (∀ e, e ≠ dieNo d → tabGet false t.pwr.throttled e = tabGet false s.pwr.throttled e))) ∧
  (∀ s d r, s.plt.mainRails = true → 100 ≤ r → s.pwr.overHot = [] → Completes (.boundsNotGuaranteed d r) s (fun t =>
    getF t F.pwrStatus.bngEvent = 1 ∧ tabGet false t.pwr.overHot (dieNo d) = true)) ∧
  (∀ s st r, s.plt.mainRails = true → Completes (.stackRefreshRate st r) s (fun t =>
    (85 ≤ r → tabGet false t.pwr.fastRefresh st.val = true) ∧ (r < 82 → tabGet false t.pwr.fastRefresh st.val = false) ∧
    (82 ≤ r → r < 85 → t.pwr.fastRefresh = s.pwr.fastRefresh))) ∧
  (∀ s on, s.plt.mainRails = true → Completes (.pacingChange on) s (fun t =>
    t.pwr.limitPacing = on ∧ t.pwr.throttled = s.pwr.throttled ∧ t.plt = s.plt)) ∧
  (∀ s, s.plt.mainRails = true → s.plt.lmcHeld = false → Completes .refclkLoss s (fun t =>
    t.plt = { s.plt with lmcHeld := true } ∧ getF t F.pltStatus.refclkEvent = 1 ∧
    (isSet s F.pltCtl.notifyEnable = true → vectorOpen s (getF s F.pltCtl.vector) = true → Sends s t (.msix (getF s F.pltCtl.vector))))) ∧
  (∀ s, Effect .refclkReturn s { s with plt := { s.plt with lmcHeld := false } })

/-- O18. The chain port: it takes an address from ENUM, answers GET_ID and STATUS whatever the main rails do, and passes on what is not
for it; a frame with a wrong CRC is passed on and counted. -/
def Obligations.ChainPortServes : Prop :=
  (∀ s h next, s.plt.vaux3 = true → h.crcOk = true → s.plt.chainAddr = 0 → 1 ≤ next → next ≤ 62 →
    Effect (.enum h next) s (emit { heard s with plt := { s.plt with chainAddr := next } } (.chainEnum h.seq (next + 1)))) ∧
  (∀ s h next, s.plt.vaux3 = true → h.crcOk = true → s.plt.chainAddr ≠ 0 →
    Effect (.enum h next) s (emit (heard s) (.chainEnum h.seq next))) ∧
  (∀ s h, ChainHere s h → Effect (.getId h) s (answer (heard s) h 0x82 0
    ([s.plt.ordering, 0xB0] ++ (leBytes 48 s.plt.chainKeyId.toNat).map (·.toNat)))) ∧
  (∀ s h, ChainHere s h → Effect (.status h) s (answer (heard s) h 0x8C 0
    [boolCode s.plt.mainRails, pltCode s.plt.state, twinCode s.twn.state])) ∧
  (∀ s h, ChainHere s h → Effect (.departAnswer h) s (heard s)) ∧
  (∀ s h bs, s.plt.vaux3 = true → h.crcOk = true → h.dest ≠ 63 → (s.plt.chainAddr = 0 ∨ h.dest ≠ s.plt.chainAddr) →
    Effect (.chainForward h bs) s (emit (heard s) (.chainPassed bs))) ∧
  (∀ s h bs, s.plt.vaux3 = true → h.crcOk = false →
    Effect (.chainForward h bs) s (emit (satF (heard s) F.pltChain.crcErrors) (.chainPassed bs))) ∧
  (∀ s, s.plt.vaux3 = true → s.plt.mainRails = true → Effect .chainRingSilent s (putF s F.pltChain.ringOk 0))

/-- O19. The tray controller's commands to a part that is READY: SET_MEMBER sets LNK_TRAY, and is BAD_FRAME with a field out of range
and REFUSED for a member number that is ENROLLED elsewhere; ANNOUNCE sets every member's state; FENCED with OUTCOME 0 ends the wait of an
Active. A part that is not READY answers NOT_READY. -/
def Obligations.TrayCommands : Prop :=
  (∀ s h tray m tw en, ChainHere s h → isReady s = true → m < 16 → (tw < 16 ∨ tw = 0xFF) → tray < 2 ^ 32 →
    (en = true → memberOf s m ≠ .enrolled) → s.lnk.twin = (if tw = 0xFF then none else some tw) →
    Effect (.setMember h tray m tw en) s
      (answer { heard s with lnk := { s.lnk with trayId := tray, member := m, enrolled := en } } h 0x83 0 [])) ∧
  (∀ s h tray m tw en, ChainHere s h → isReady s = true → (16 ≤ m ∨ (16 ≤ tw ∧ tw ≠ 0xFF) ∨ 2 ^ 32 ≤ tray) →
    Effect (.setMember h tray m tw en) s (answer (heard s) h 0x83 2 [])) ∧
  (∀ s h tray m tw, ChainHere s h → isReady s = true → m < 16 → (tw < 16 ∨ tw = 0xFF) → tray < 2 ^ 32 → memberOf s m = .enrolled →
    (s.lnk.enrolled = false ∨ s.lnk.member ≠ m) → Effect (.setMember h tray m tw true) s (answer (heard s) h 0x83 3 [])) ∧
  (∀ s h states, ChainHere s h → isReady s = true → states.length = 16 → Completes (.announce h states) s (fun t =>
    (∀ m < 16, memberOf t m = memberStateOf ((states[m]?.map (·.val)).getD 0)) ∧
    t.lnk.member = s.lnk.member ∧ t.lnk.enrolled = s.lnk.enrolled)) ∧
  (∀ s h target, ChainHere s h → isReady s = true → s.twn.state = .fencing → s.twn.role = .active →
    Completes (.fenced h target 0) s (fun t => t.twn.state = .alone ∧ t.twn.role = .active)) ∧
  (∀ s h target outcome, ChainHere s h → isReady s = true → (s.twn.state ≠ .fencing ∨ outcome ≠ 0) →
    Effect (.fenced h target outcome) s (answer (heard s) h 0x8A 0 [])) ∧
  (∀ s h, ChainHere s h → isReady s = false →
    (∀ tray m tw en, Effect (.setMember h tray m tw en) s (answer (heard s) h 0x83 1 [])) ∧
    (∀ states, Effect (.announce h states) s (answer (heard s) h 0x84 1 [])) ∧
    Effect (.powerOff h) s (answer (heard s) h 0x86 1 []) ∧ (∀ k, Effect (.chainReset h k) s (answer (heard s) h 0x87 1 [])) ∧
    (∀ target outcome, Effect (.fenced h target outcome) s (answer (heard s) h 0x8A 1 [])))

/-! ## Start, firmware, attestation and fuses (20) -/

/-- O20. A start: rails that do not come up, no living fuse generation, or the test strap stop it under their own states and causes.
A start ends in READY: after a warm reset, with a root key list and firmware that the ROM accepts, the firmware of the slot that
it boots runs with a try count of 3; a list, a firmware or a self-test that fails ends it in FAILED with causes 4, 1 and 3. -/
def Obligations.StartsEnd : Prop :=
  (∀ s f, s.plt.mainRails = true → s.plt.starting = some .cold → f.railsOk = false → Completes (.powerUpStart f) s (fun t =>
    t.plt.state = .failed ∧ t.plt.cause = 5 ∧ t.plt.starting = none ∧ t.plt.chainAddr = s.plt.chainAddr ∧ t.mem = s.mem)) ∧
  (∀ s f, s.plt.mainRails = true → s.plt.starting = some .cold → f.railsOk = true → highestSlot s = none →
    Completes (.powerUpStart f) s (fun t => t.plt.state = .fuseInvalid ∧ t.plt.activeSlot = none ∧ t.plt.starting = none ∧
      t.plt.strapSpi1v8 = f.strapSpi1v8 ∧ t.plt.strapSris = f.strapSris ∧ t.plt.strapTest = f.strapTest)) ∧
  (∀ s f, s.plt.mainRails = true → s.plt.starting = some .cold → f.railsOk = true → highestSlot s ≠ none → f.strapTest = true →
    Completes (.powerUpStart f) s (fun t => t.plt.state = .failed ∧ t.plt.cause = 3 ∧ t.plt.activeSlot = highestSlot s)) ∧
  (∀ s f, s.plt.mainRails = true → s.plt.starting = some .warm → s.plt.activeSlot ≠ none → s.plt.strapTest = false →
    s.plt.flashRootList = none → Completes (.powerUpStart f) s (fun t => t.plt.state = .failed ∧ t.plt.cause = 4)) ∧
  (∀ s f l, s.plt.mainRails = true → s.plt.starting = some .warm → s.plt.activeSlot ≠ none → s.plt.strapTest = false →
     s.plt.flashRootList = some l →
     Completes (.powerUpStart f) s (fun t =>
       t.mem = s.mem ∧ t.plt.lmc = s.plt.lmc ∧ t.plt.fuses = s.plt.fuses ∧ t.plt.starting = none ∧
       (keyListStatus l 1 (rootHash s) ≠ 0 → t.plt.state = .failed ∧ t.plt.cause = 4) ∧
       (keyListStatus l 1 (rootHash s) = 0 → bootChoice { s with plt := { s.plt with rootList := some l } } = none →
         t.plt.state = .failed ∧ t.plt.cause = 1) ∧
       (∀ b im, keyListStatus l 1 (rootHash s) = 0 → bootChoice { s with plt := { s.plt with rootList := some l } } = some b →
         (if b then s.plt.bootB else s.plt.bootA) = some im →
         (f.selfTestOk = true → t.plt.state = .ready ∧ t.plt.tries = 3 ∧ t.plt.runningB = b ∧ t.plt.rootList = some l ∧
           t.plt.runningVersion = im.securityVersion ∧ t.plt.runningDigest = im.digest ∧ t.plt.fwFallback = (b != s.plt.preferB)) ∧
         (f.selfTestOk = false → t.plt.state = .failed ∧ t.plt.cause = 3))))

/-- O21. STAGE names a firmware object, is refused where it does not resolve, does not read, or is not firmware that the part accepts, and
writes the slot that is not running; when the write ends, that slot is preferred with a try count of 3, or the flash failed. An object in
host memory that the part cannot reach is waited for.
ADVANCE burns the thermometer up to the version of the running firmware, and is refused with ABOVE_RUNNING where it stands there
already, and where the fuses are locked. STAGE, STAGE_COMPLETE and ADVANCE complete. -/
def Obligations.FirmwareAdvances : Prop :=
  (∀ s h, serves s 0 = true → isAwake s = true → getF s F.pltFwStatus.status ≠ 1 →
    (∀ r, resolveImage s (h % 2 ^ 32) 2 = false →
      Effect (.stage h r) s (putF (putF s F.pltFwCtl.handle h) F.pltFwStatus.status 2)) ∧
    (resolveImage s (h % 2 ^ 32) 2 = true → mustWait s (h % 2 ^ 32) = false →
      (∀ o, Completes (.stage h (.errorAt o)) s (fun t => getF t F.pltFwStatus.status = 3 ∧ t.plt = s.plt)) ∧
      (imageOf s (h % 2 ^ 32) = none → Completes (.stage h .whole) s (fun t => getF t F.pltFwStatus.status = 3 ∧ t.plt = s.plt)) ∧
      (∀ x, imageOf s (h % 2 ^ 32) = some x → Completes (.stage h .whole) s (fun t =>
        (firmwareStatus s x = 0 → getF t F.pltFwStatus.status = 1 ∧ t.plt = { s.plt with staging := some x }) ∧
        (firmwareStatus s x ≠ 0 → getF t F.pltFwStatus.status = firmwareStatus s x ∧ t.plt = s.plt)))) ∧
    (∀ r, resolveImage s (h % 2 ^ 32) 2 = true → mustWait s (h % 2 ^ 32) = true → Completes (.stage h r) s (fun t =>
      getF t F.pltFwStatus.status = 1 ∧ t.plt = s.plt ∧ t.pcie.waiting = s.pcie.waiting ++ [.stage (h % 2 ^ 32) r]))) ∧
  (∀ s x, s.plt.mainRails = true → s.plt.staging = some x →
    Completes (.stageComplete true) s (fun t => getF t F.pltFwStatus.status = 0 ∧
      t.plt = { s.plt with staging := none, preferB := !s.plt.runningB, tries := 3,
                           bootA := (if s.plt.runningB then some x else s.plt.bootA),
                           bootB := (if s.plt.runningB then s.plt.bootB else some x) }) ∧
    Completes (.stageComplete false) s (fun t => getF t F.pltFwStatus.status = 6 ∧
      t.plt = { s.plt with staging := none, bootA := (if s.plt.runningB then none else s.plt.bootA),
                           bootB := (if s.plt.runningB then s.plt.bootB else none) })) ∧
  (∀ s, serves s 0 = true → isAwake s = true → getF s F.pltFwStatus.status ≠ 1 →
     (isSet s F.fuseCtl.fuseLock = false → s.plt.thermo < s.plt.runningVersion → s.plt.runningVersion ≤ 128 →
       Effect .advance s (putF { s with plt := { s.plt with thermo := s.plt.runningVersion } } F.pltFwStatus.status 0)) ∧
     (isSet s F.fuseCtl.fuseLock = false → s.plt.runningVersion ≤ s.plt.thermo →
       Effect .advance s (putF s F.pltFwStatus.status 7)) ∧
     (isSet s F.fuseCtl.fuseLock = true → Effect .advance s (putF s F.fuseStatus.burnStatus 6)))

/-- O22. The owner key list: KEYLIST_LOAD takes a list that its authority signed and empties the verified-digest cache, and else says why
not; KEYLIST_CLEAR drops the list and empties the cache.
ATTEST and ESTABLISH begin a read at ADDR under the PASID of tenant 0; when it ends, the evidence is written at ADDR + 64 or the wrapping
key is set, and a read that fails, or a point off the curve, ends in a status of its own. KEYLIST_LOAD, KEYLIST_CLEAR, ATTEST,
ESTABLISH and HOST_READ_COMPLETION complete. -/
def Obligations.KeysAndAttestation : Prop :=
  (∀ s h i, serves s 0 = true → isAwake s = true → getF s F.pltKeylist.status ≠ 1 → resolve s (h % 2 ^ 32) 0 2 = .ok i →
    mustWait s (h % 2 ^ 32) = false →
    (∀ l, decodeKeyList (objectByte s i) (odtOf s i).size = some l → Completes (.keylistLoad h .whole) s (fun t =>
      getF t F.pltKeylist.status = keyListStatus l 2 (ownerHash s) ∧ getF t F.pltKeylist.handle = h % 2 ^ 32 ∧
      t.plt.ownerList = (if keyListStatus l 2 (ownerHash s) = 0 then some l else s.plt.ownerList) ∧
      t.fab.vdc = (if keyListStatus l 2 (ownerHash s) = 0 then [] else s.fab.vdc))) ∧
    (decodeKeyList (objectByte s i) (odtOf s i).size = none → Completes (.keylistLoad h .whole) s (fun t =>
      getF t F.pltKeylist.status = 3 ∧ t.plt = s.plt ∧ t.fab = s.fab)) ∧
    (∀ o, Completes (.keylistLoad h (.errorAt o)) s (fun t => getF t F.pltKeylist.status = 3 ∧ t.plt = s.plt ∧ t.fab = s.fab))) ∧
  (∀ s h r, serves s 0 = true → isAwake s = true → getF s F.pltKeylist.status ≠ 1 →
    (∀ i, resolve s (h % 2 ^ 32) 0 2 ≠ .ok i) →
    Effect (.keylistLoad h r) s (putF (putF s F.pltKeylist.handle h) F.pltKeylist.status 2)) ∧
  (∀ s, serves s 0 = true → isAwake s = true → Effect .keylistClear s
    (putF { s with plt := { s.plt with ownerList := none }, fab := { s.fab with vdc := [] } } F.pltKeylist.status 0)) ∧
  (∀ s a, serves s 0 = true → isAwake s = true →
    (getF s F.pltAttest.status ≠ 1 → hostOff s = false →
      Effect (.attest a) s (readHost (putF (putF s F.pltAttest.addr (a / 4096)) F.pltAttest.status 1) 0
        (a / 4096 % 2 ^ F.pltAttest.addr.width * 4096) 48)) ∧
    (getF s F.pltWrapCtl.status ≠ 1 → hostOff s = false →
      Effect (.establish a) s (readHost (putF (putF s F.pltWrapCtl.addr (a / 4096)) F.pltWrapCtl.status 1) 0
        (a / 4096 % 2 ^ F.pltWrapCtl.addr.width * 4096) 96)) ∧
    (getF s F.pltAttest.status ≠ 1 → hostOff s = true → Completes (.attest a) s (fun t => getF t F.pltAttest.status = 1 ∧
      t.pcie.waiting = s.pcie.waiting ++ [.attest a] ∧ t.plt = s.plt))) ∧
  (∀ s bs, isReady s = true → s.pcie.waiting = [] →
    (getF s F.pltAttest.status = 1 →
      Effect (.hostReadCompletion .attest (.data bs)) s (putF (emit s (.hostWrite (pasidOf s 0)
        (getF s F.pltAttest.addr * 4096 + 64) false (evidence s (bs.take 48)))) F.pltAttest.status 0) ∧
      Effect (.hostReadCompletion .attest .unsupported) s (putF (satF s F.pltPcieErr.hostAborts) F.pltAttest.status 2)) ∧
    (getF s F.pltWrapCtl.status = 1 →
      Completes (.hostReadCompletion .wrap (.data bs)) s (fun t =>
        match Config.wrapSession (activeBytes s 4 48) (activeBytes s 52 48) (bs.take 96) with
        | some k => t.plt = { s.plt with wrapKey := some k } ∧ getF t F.pltWrapCtl.status = 0
        | none => t.plt = s.plt ∧ getF t F.pltWrapCtl.status = 3) ∧
      Effect (.hostReadCompletion .wrap .timeout) s
        (putF (emit (satF s F.pltPcieErr.completionTimeouts) (.aer 14)) F.pltWrapCtl.status 2)))

/-- O23. BURN checks the lock, the signature, the staged slot and the free slots in this order, and FUSE_NONCE changes with its end; a
burn that reads back right leaves the staged bits in the slot and revokes the active one, and one that does not leaves a slot that is
never active. -/
def Obligations.GenerationsBurn : Prop :=
  (∀ s, serves s 1 = true → isAwake s = true → s.plt.burning = none → Completes .burn s (fun t =>
    let status := if isSet s F.fuseCtl.fuseLock then 6 else if !burnAuthorised s then 2 else if !stageGood s then 3
      else if (freeSlotAbove s).isNone then 4 else 1
    getF t F.fuseStatus.burnStatus = status ∧ t.plt.fuses = s.plt.fuses ∧
    t.plt.nonceNo = (if status = 1 then s.plt.nonceNo else s.plt.nonceNo + 1) ∧
    t.plt.burning = (if status = 1 then (freeSlotAbove s).map (fun k => (k, stageBytes s)) else none))) ∧
  (∀ s k a staged, s.plt.mainRails = true → s.plt.burning = some (k, staged) → staged.length = 512 → s.plt.activeSlot = some a → a ≠ k →
    Completes (.burnComplete true) s (fun t => getF t F.fuseStatus.burnStatus = 0 ∧ t.plt.nonceNo = s.plt.nonceNo + 1 ∧
      t.plt.burning = none ∧ t.plt.activeSlot = some a ∧
      (∀ i < 512, tabGet 0 t.plt.fuses (512 * k.val + i) = tabGet 0 s.plt.fuses (512 * k.val + i) ||| (staged[i]?).getD 0) ∧
      (∀ i < 4, tabGet 0 t.plt.fuses (512 * a.val + 508 + i) = 255#8))) ∧
  (∀ s k staged, s.plt.mainRails = true → s.plt.burning = some (k, staged) →
    Completes (.burnComplete false) s (fun t => getF t F.fuseStatus.burnStatus = 5 ∧ t.plt.nonceNo = s.plt.nonceNo + 1 ∧
      t.plt.burning = none ∧ t.plt.activeSlot = s.plt.activeSlot ∧ slotUsed t k.val = true ∧ slotLives t k.val = false))

/-! ## Regions and the package (04) -/

namespace Sys2Proof

/-- Every region but `n` is the same. -/
def OthersStay (s t : State) (n : Nat) : Prop := ∀ m, m ≠ n → regionOf t m = regionOf s m

/-- Region `n` is in a state, with nothing of an image, of Ivory or of a drain left in it, and keeps its binding (R105). -/
def Scrubbed (s t : State) (n : Nat) (st : RegionState) : Prop :=
  (regionOf t n).state = st ∧ (regionOf t n).ivory = [] ∧ (regionOf t n).acc = [] ∧ (regionOf t n).latches = [] ∧
  (regionOf t n).functions = [] ∧ (regionOf t n).rng = [] ∧ (regionOf t n).image = none ∧ (regionOf t n).loadedHandle = 0 ∧
  (regionOf t n).drainTo = none ∧ (regionOf t n).comp = (regionOf s n).comp ∧ getF t (F.fabRgnFlags.saturated.at n) = 0

/-- The fabric serves the command. -/
def FabricUp (s : State) : Prop := serves s 3 = true ∧ isAwake s = true

/-- Region `n` is FAULTED with a cause and a cluster. -/
def FaultedWith (t : State) (n cause cluster : Nat) : Prop :=
  (regionOf t n).state = .faulted ∧ getF t (F.fabRgnFault.cause.at n) = cause ∧ getF t (F.fabRgnFault.cluster.at n) = cluster

end Sys2Proof

/-- O24. LOAD of a bound EMPTY region streams the image of IMAGE_HANDLE, or faults where the handle does not resolve; one that is not
EMPTY is BUSY, and one that is not bound says so. START puts a READY region to work.
DRAIN empties a READY region and drains a SERVING one; RELOAD drains a SERVING one towards IMAGE_HANDLE; RESET empties a FAULTED
region, but not one of a cluster fault or without a spare; RESET_REPAIR burns a repair record for a cluster that failed. Each is BUSY in
any other state. A write of the command that covers IMAGE_HANDLE writes it too. LOAD, START, DRAIN, RELOAD, RESET and RESET_REPAIR
complete. -/
def Obligations.RegionCommands : Prop :=
  (∀ s (n : RegionNo) (h : Nat), FabricUp s →
     ((regionOf s n.val).state = .empty → (regionOf s n.val).comp.isSome = true → resolveImage s (h % 2 ^ 32) 0 = true →
       Completes (.load n (some h)) s (fun t => (regionOf t n.val).state = .loading ∧ (regionOf t n.val).loadHandle = h % 2 ^ 32 ∧
         getF t (F.fabRgnState.cmdStatus.at n.val) = 0 ∧ getF t (F.fabRgnCtl.imageHandle.at n.val) = h % 2 ^ 32 ∧ OthersStay s t n.val)) ∧
     ((regionOf s n.val).state = .empty → (regionOf s n.val).comp.isSome = true → resolveImage s (h % 2 ^ 32) 0 = false →
       Completes (.load n (some h)) s (fun t => FaultedWith t n.val 12 0 ∧ getF t (F.fabRgnState.cmdStatus.at n.val) = 0))) ∧
  (∀ s (n : RegionNo), FabricUp s → (regionOf s n.val).state = .empty → (regionOf s n.val).comp.isSome = true →
     resolveImage s (imageHandle s n.val) 0 = true → Completes (.load n none) s (fun t => (regionOf t n.val).state = .loading ∧
       (regionOf t n.val).loadHandle = imageHandle s n.val ∧ OthersStay s t n.val)) ∧
  (∀ s (n : RegionNo) (h : Option Nat), FabricUp s →
     ((regionOf s n.val).state = .empty → (regionOf s n.val).comp = none →
       Effect (.load n h) s (putF (putHandle s n.val h) (F.fabRgnState.cmdStatus.at n.val) 2)) ∧
     ((regionOf s n.val).state ≠ .empty → Effect (.load n h) s (putF (putHandle s n.val h) (F.fabRgnState.cmdStatus.at n.val) 1)) ∧
     ((regionOf s n.val).state = .ready → Completes (.start n h) s (fun t =>
       regionOf t n.val = { regionOf s n.val with state := .serving, idleSince := s.plt.lmc } ∧
       getF t (F.fabRgnState.cmdStatus.at n.val) = 0 ∧ OthersStay s t n.val ∧ t.stk.odt = s.stk.odt)) ∧
     ((regionOf s n.val).state ≠ .ready → Effect (.start n h) s (putF (putHandle s n.val h) (F.fabRgnState.cmdStatus.at n.val) 1)) ∧
     ((regionOf s n.val).state = .ready → Completes (.drain n h) s (fun t =>
       Scrubbed s t n.val .empty ∧ getF t (F.fabRgnState.cmdStatus.at n.val) = 0 ∧ OthersStay s t n.val)) ∧
     ((regionOf s n.val).state = .serving → Completes (.drain n h) s (fun t =>
       regionOf t n.val = { regionOf s n.val with state := .draining, drainTo := none, idleSince := s.plt.lmc } ∧
       getF t (F.fabRgnState.cmdStatus.at n.val) = 0 ∧ OthersStay s t n.val)) ∧
     ((regionOf s n.val).state ≠ .ready → (regionOf s n.val).state ≠ .serving →
       Effect (.drain n h) s (putF (putHandle s n.val h) (F.fabRgnState.cmdStatus.at n.val) 1)) ∧
     ((regionOf s n.val).state = .serving → Completes (.reload n h) s (fun t =>
       regionOf t n.val = { regionOf s n.val with
         state := .draining, idleSince := s.plt.lmc
         drainTo := some (match h with | some x => x % 2 ^ 32 | none => imageHandle s n.val) } ∧
       getF t (F.fabRgnState.cmdStatus.at n.val) = 0 ∧ OthersStay s t n.val)) ∧
     ((regionOf s n.val).state ≠ .serving → Effect (.reload n h) s (putF (putHandle s n.val h) (F.fabRgnState.cmdStatus.at n.val) 1)) ∧
     ((regionOf s n.val).state = .faulted → faultCause s n.val ≠ 8 → faultCause s n.val ≠ 13 → Completes (.reset n h) s (fun t =>
       Scrubbed s t n.val .empty ∧ getF t (F.fabRgnFault.cause.at n.val) = 0 ∧ getF t (F.fabRgnState.cmdStatus.at n.val) = 0 ∧
       OthersStay s t n.val)) ∧
     (((regionOf s n.val).state ≠ .faulted ∨ faultCause s n.val = 8 ∨ faultCause s n.val = 13) →
       Effect (.reset n h) s (putF (putHandle s n.val h) (F.fabRgnState.cmdStatus.at n.val) 1)) ∧
     (∀ i, (regionOf s n.val).state = .faulted → (faultCause s n.val = 8 ∨ faultCause s n.val = 9) → firstRepair s n.val = none →
       freeRepair s = some i → isSet s F.fuseCtl.fuseLock = false → Completes (.resetRepair n h) s (fun t =>
         Scrubbed s t n.val .empty ∧
         t.plt.repairs = tabPut 0 s.plt.repairs i (repairRecord n.val (getF s (F.fabRgnFault.cluster.at n.val))) ∧
         getF t (F.fabRgnFault.cause.at n.val) = 0 ∧ OthersStay s t n.val)) ∧
     ((regionOf s n.val).state = .faulted → (faultCause s n.val = 8 ∨ faultCause s n.val = 9) → spareLeft s n.val = false →
       Completes (.resetRepair n h) s (fun t => (regionOf t n.val).state = .faulted ∧ getF t (F.fabRgnFault.cause.at n.val) = 13 ∧
         t.plt.repairs = s.plt.repairs)))

/-- O25. The course of a load: the image that stands in the object is verified, and a read that failed, or an object that ends before its
image, faults the region; an image that passes every check of R102 leaves the region READY under its handle, with the latches, switches and
function memories of its sections, and the first check that fails is the fault's cause. A drained region without work is scrubbed
and EMPTY, or loads its target. A cluster fault stops a region, except in a cluster that it does not use.
The package image: a load begins while every region is EMPTY or FAULTED; an image that passes every check of R112 takes the place
of the earlier one, and a load that fails says why and leaves the earlier one. FAB_VDC_FLUSH empties the verified-digest cache.
IMAGE_READ_COMPLETE, VERIFY_COMPLETE, DRAIN_COMPLETE, CLUSTER_FAULT, FAB_PKG_LOAD, PACKAGE_LOAD_COMPLETE and FAB_VDC_FLUSH complete. -/
def Obligations.RegionsTakeTheirCourse : Prop :=
  (∀ s (n : RegionNo), runs s = true → (regionOf s n.val).state = .loading → mustWait s (regionOf s n.val).loadHandle = false →
    (∀ im, imageOf s (regionOf s n.val).loadHandle = some im → Completes (.imageReadComplete n .whole) s (fun t =>
      (regionOf t n.val).state = .verifying ∧ (regionOf t n.val).image = some im ∧
      (regionOf t n.val).loadHandle = (regionOf s n.val).loadHandle ∧ OthersStay s t n.val)) ∧
    (imageOf s (regionOf s n.val).loadHandle = none → Completes (.imageReadComplete n .whole) s (fun t =>
      FaultedWith t n.val 11 0 ∧ (regionOf t n.val).image = none ∧ OthersStay s t n.val)) ∧
    (∀ o, Completes (.imageReadComplete n (.errorAt o)) s (fun t =>
      FaultedWith t n.val 11 0 ∧ (regionOf t n.val).image = none ∧ OthersStay s t n.val))) ∧
  (∀ s (n : RegionNo) r, (regionOf s n.val).state = .loading → mustWait s (regionOf s n.val).loadHandle = true →
    exec (.imageReadComplete n r) s = .next s) ∧
  (∀ s (n : RegionNo) im (c : CompNo) ok, runs s = true → (regionOf s n.val).state = .verifying → (regionOf s n.val).image = some im →
    (regionOf s n.val).comp = some c → Completes (.verifyComplete n ok) s (fun t =>
      (∀ cause, (verifyImage s 1 c.val im (microcodeMatches s c.val im) ok).1 = some cause →
        (regionOf t n.val).state = .faulted ∧ getF t (F.fabRgnFault.cause.at n.val) = cause % 16) ∧
      ((verifyImage s 1 c.val im (microcodeMatches s c.val im) ok).1 = none →
        (regionOf t n.val).state = .ready ∧ (regionOf t n.val).loadedHandle = (regionOf s n.val).loadHandle ∧
        (regionOf t n.val).image = some im ∧ (regionOf t n.val).functions = functionWords im ∧
        (∀ j < 12, im.sections.any (fun e => e.type == 1 && e.target == j) = true →
          tabGet [] (regionOf t n.val).latches j = im.clusterBody 1 j)))) ∧
  (∀ s (n : RegionNo), runs s = true → (regionOf s n.val).state = .draining → (regionOf s n.val).running = none →
    (regionOf s n.val).drainTo = none → Completes (.drainComplete n) s (fun t => Scrubbed s t n.val .empty ∧ OthersStay s t n.val)) ∧
  (∀ s (n : RegionNo) h, runs s = true → (regionOf s n.val).state = .draining → (regionOf s n.val).running = none →
    (regionOf s n.val).drainTo = some h → resolveImage s h 0 = true → Completes (.drainComplete n) s (fun t =>
      (regionOf t n.val).state = .loading ∧ (regionOf t n.val).loadHandle = h ∧ (regionOf t n.val).ivory = [] ∧ OthersStay s t n.val)) ∧
  (∀ s (n : RegionNo) (k : Fin 256) kind, runs s = true → k.val ∈ clustersInUse s n.val → (regionOf s n.val).state ≠ .faulted →
    Completes (.clusterFault n k kind) s (fun t => FaultedWith t n.val (if kind = .cluster then 8 else 9) k.val ∧ OthersStay s t n.val)) ∧
  (∀ s (n : RegionNo) (k : Fin 256) kind, k.val ∉ clustersInUse s n.val → exec (.clusterFault n k kind) s = .next s) ∧
  (∀ s h, FabricUp s → s.fab.pkgLoading = none → regionsIdle s = true → resolveImage s (h % 2 ^ 32) 0 = true →
    Completes (.fabPkgLoad h) s (fun t => getF t F.fabPkgCtl.fabPkgStatus = 7 ∧
      t.fab = { s.fab with pkgLoading := some (h % 2 ^ 32, engineLease s) } ∧ getF t F.fabPkgCtl.fabPkgHandle = h % 2 ^ 32)) ∧
  (∀ s h, FabricUp s → (s.fab.pkgLoading ≠ none ∨ regionsIdle s = false) →
    Effect (.fabPkgLoad h) s (putF (putF s F.fabPkgCtl.fabPkgHandle h) F.fabPkgCtl.fabPkgStatus 1)) ∧
  (∀ s h, FabricUp s → s.fab.pkgLoading = none → regionsIdle s = true → resolveImage s (h % 2 ^ 32) 0 = false →
    Effect (.fabPkgLoad h) s (putF (putF s F.fabPkgCtl.fabPkgHandle h) F.fabPkgCtl.fabPkgStatus 2)) ∧
  (∀ s h k, runs s = true → s.fab.pkgLoading = some (h, k) → (k.isSome = true ∨ canLease s = true) → mustWait s h = false →
    (∀ im, imageOf s h = some im → regionsIdle s = true → Completes (.packageLoadComplete .whole) s (fun t =>
      getF t F.fabPkgCtl.fabPkgStatus = (verifyPackage s im).1 ∧ t.fab.pkgLoading = none ∧ t.fab.regions = s.fab.regions ∧
      t.fab.pkg = (if (verifyPackage s im).1 = 0 then some im else s.fab.pkg) ∧
      ((verifyPackage s im).1 = 0 → getF t F.fabPkgLoaded.fabPkgLoadedHandle = h % 2 ^ 32 ∧
        getF t F.fabPkgLoaded.fabPkgLoadedVersion = im.securityVersion % 2 ^ 32))) ∧
    (∀ im, imageOf s h = some im → regionsIdle s = false → Completes (.packageLoadComplete .whole) s (fun t =>
      getF t F.fabPkgCtl.fabPkgStatus = 1 ∧ t.fab = { s.fab with pkgLoading := none })) ∧
    (imageOf s h = none → Completes (.packageLoadComplete .whole) s (fun t =>
      getF t F.fabPkgCtl.fabPkgStatus = 6 ∧ t.fab = { s.fab with pkgLoading := none })) ∧
    (∀ o, Completes (.packageLoadComplete (.errorAt o)) s (fun t =>
      getF t F.fabPkgCtl.fabPkgStatus = 6 ∧ t.fab = { s.fab with pkgLoading := none }))) ∧
  (∀ s, FabricUp s → Effect .fabVdcFlush s { s with fab := { s.fab with vdc := [] } })

/-! ## Microcode and stack attention (07) -/

/-- O26. ATTACH uses a READY slot that holds the handle, where its image is right for the composition, and else loads an EMPTY slot; a
composition that is not bound, an attachment or a load of the same composition, and 16 used slots refuse it. The load ends in READY and
the attachment, or in FAULTED with the cause of the first check that fails; STATUS reads in progress while a load runs (log entry 20).
DETACH waits until the composition's stack-routed layer steps have ended; then the composition leaves its slot, which is EMPTY
after its last user. STK_UCODE_CLEAR empties the FAULTED slots that its mask names, and no other.
A pass that ends leaves its slot, is counted, and its results wait for the merge of its step. A core that leaves service is shown
in CORE_OK and signalled; where it held no pass, nothing else changes.
ATTACH, UCODE_LOAD_COMPLETE, DETACH, DETACH_COMPLETE, STK_UCODE_CLEAR, PASS_COMPLETE and STACK_CORE_FAULT complete. -/
def Obligations.MicrocodeAndPasses : Prop :=
  (∀ s h (c : CompNo), serves s 4 = true → isAwake s = true → compOf s c.val ≠ none → attachedTo s c.val = none →
    isAttaching s c.val = false →
    (∀ j im, readySlot s (h % 2 ^ 32) = some j → (slotOf s j.val).image = some im → slotMatches s c.val im = true →
      Completes (.attach h c) s (fun t => getF t F.stkUcodeCtl.status = (if isLoading s then 4 else 0) ∧ attachedTo t c.val = some j ∧
        slotOf t j.val = { slotOf s j.val with users := (slotOf s j.val).users + 1 } ∧
        (∀ d, d ≠ c.val → attachedTo t d = attachedTo s d))) ∧
    (∀ j im, readySlot s (h % 2 ^ 32) = some j → (slotOf s j.val).image = some im → slotMatches s c.val im = false →
      Completes (.attach h c) s (fun t => getF t F.stkUcodeCtl.status = (if isLoading s then 4 else 5) ∧ t.ucode = s.ucode)) ∧
    (readySlot s (h % 2 ^ 32) = none → (∃ j < 16, (slotOf s j).state = .empty) → resolveImage s (h % 2 ^ 32) 1 = true →
      Completes (.attach h c) s (fun t => getF t F.stkUcodeCtl.status = 4 ∧ ∃ j : Fin 16, (slotOf s j.val).state = .empty ∧
        slotOf t j.val = { state := .loading, handle := h % 2 ^ 32, loadFor := some c, lease := engineLease s } ∧
        (∀ k, k ≠ j.val → slotOf t k = slotOf s k))) ∧
    (readySlot s (h % 2 ^ 32) = none → (∃ j < 16, (slotOf s j).state = .empty) → resolveImage s (h % 2 ^ 32) 1 = false →
      Completes (.attach h c) s (fun t => getF t F.stkUcodeCtl.status = (if isLoading s then 4 else 6) ∧
        ∃ j : Fin 16, (slotOf s j.val).state = .empty ∧ slotOf t j.val = { state := .faulted, handle := h % 2 ^ 32, cause := 12 } ∧
        (∀ k, k ≠ j.val → slotOf t k = slotOf s k))) ∧
    (readySlot s (h % 2 ^ 32) = none → (∀ j < 16, (slotOf s j).state ≠ .empty) →
      Completes (.attach h c) s (fun t => getF t F.stkUcodeCtl.status = (if isLoading s then 4 else 3) ∧ t.ucode = s.ucode))) ∧
  (∀ s h (c : CompNo), serves s 4 = true → isAwake s = true →
    (compOf s c.val = none → Completes (.attach h c) s (fun t =>
      getF t F.stkUcodeCtl.status = (if isLoading s then 4 else 2) ∧ t.ucode = s.ucode)) ∧
    (compOf s c.val ≠ none → (attachedTo s c.val ≠ none ∨ isAttaching s c.val = true) →
      Completes (.attach h c) s (fun t => getF t F.stkUcodeCtl.status = (if isLoading s then 4 else 1) ∧ t.ucode = s.ucode))) ∧
  (∀ s (c : CompNo) (j : Fin 16), runs s = true → (slotOf s j.val).loadFor = some c →
    ((slotOf s j.val).lease.isSome = true ∨ canLease s = true) → mustWait s (slotOf s j.val).handle = false →
    (∀ im ok, imageOf s (slotOf s j.val).handle = some im → Completes (.ucodeLoadComplete j .whole ok) s (fun t =>
      (∀ cause, (verifyImage s 2 c.val im true ok).1 = some cause →
        getF t F.stkUcodeCtl.status = (if isLoading t then 4 else 6) ∧
        slotOf t j.val = { state := .faulted, handle := (slotOf s j.val).handle, cause := cause }) ∧
      ((verifyImage s 2 c.val im true ok).1 = none →
        getF t F.stkUcodeCtl.status = (if isLoading t then 4 else 0) ∧ attachedTo t c.val = some j ∧
        slotOf t j.val = { state := .ready, handle := (slotOf s j.val).handle, image := some im, users := 1 }))) ∧
    (∀ ok, imageOf s (slotOf s j.val).handle = none → Completes (.ucodeLoadComplete j .whole ok) s (fun t =>
      getF t F.stkUcodeCtl.status = (if isLoading t then 4 else 6) ∧
      slotOf t j.val = { state := .faulted, handle := (slotOf s j.val).handle, cause := 11 })) ∧
    (∀ o ok, Completes (.ucodeLoadComplete j (.errorAt o) ok) s (fun t =>
      getF t F.stkUcodeCtl.status = (if isLoading t then 4 else 6) ∧
      slotOf t j.val = { state := .faulted, handle := (slotOf s j.val).handle, cause := 11 }))) ∧
  (∀ s (j : Fin 16) r ok, runs s = true → mustWait s (slotOf s j.val).handle = true → Effect (.ucodeLoadComplete j r ok) s s) ∧
  (∀ s (c : CompNo), serves s 4 = true → isAwake s = true →
    (compOf s c.val = none → Effect (.detach c) s (ucodeStatus (putF s F.stkUcodeCtl.composition c.val) 2)) ∧
    (compOf s c.val ≠ none → attachedTo s c.val = none →
      Effect (.detach c) s (ucodeStatus (putF s F.stkUcodeCtl.composition c.val) 0)) ∧
    (compOf s c.val ≠ none → attachedTo s c.val ≠ none → Completes (.detach c) s (fun t => getF t F.stkUcodeCtl.status = 4 ∧
      t.ucode = { s.ucode with detaching := tabPut false s.ucode.detaching c.val true }))) ∧
  (∀ s (c : CompNo) (j : Fin 16), runs s = true → tabGet false s.ucode.detaching c.val = true → stackBusy s c.val = false →
    attachedTo s c.val = some j → Completes (.detachComplete c) s (fun t =>
      getF t F.stkUcodeCtl.status = (if isLoading t then 4 else 0) ∧
      attachedTo t c.val = none ∧ tabGet false t.ucode.detaching c.val = false ∧
      slotOf t j.val = (if (slotOf s j.val).users ≤ 1 then {} else { slotOf s j.val with users := (slotOf s j.val).users - 1 }))) ∧
  (∀ s mask, serves s 4 = true → isAwake s = true → Completes (.stkUcodeClear mask) s (fun t =>
    ∀ j, slotOf t j = (if j < 16 ∧ mask.getLsbD j = true ∧ (slotOf s j).state = .faulted then {} else slotOf s j))) ∧
  (∀ s (st : StackNo) (core slot : Fin 4) p stp d e, runs s = true → s.ucode.waiting = [] →
    passOf s (16 * st.val + 4 * core.val + slot.val) = some p → stepOf s p.step = some stp → descOf s p.comp = some d →
    ((slotOf s p.slot).image).bind (fun im => im.layerTable[p.layer]?) = some e →
    Completes (.passComplete st core slot none) s (fun t =>
      passOf t (16 * st.val + 4 * core.val + slot.val) = none ∧
      getF t (F.stkCoreStatus.passes.at st.val) = (getF s (F.stkCoreStatus.passes.at st.val) + 1) % 2 ^ F.stkCoreStatus.passes.width ∧
      (∀ k, k ≠ 16 * st.val + 4 * core.val + slot.val → passOf t k = passOf s k) ∧
      t.ucode.results = s.ucode.results ++ passResults s d p e)) ∧
  (∀ s (st : StackNo) (core : Fin 4), runs s = true → coreOk s st.val core.val = true → s.ucode.waiting = [] →
    (∀ j < 4, passOf s (16 * st.val + 4 * core.val + j) = none) →
    Effect (.stackCoreFault st core) s (attnNotify (putF s (F.stkCoreStatus.coreOk.at st.val)
      (getF s (F.stkCoreStatus.coreOk.at st.val) - 2 ^ core.val))))

/-! ## Keys, tables and domains (05, 10, 13) -/

/-- O27. The XTS and GCM key slots: LOAD unwraps the blob under the wrapping key, where the feature is fused, and a LOAD that fails leaves
the slot; CLEAR empties the slot. The blob registers read 0 after each.
The codec's table slots: LOAD takes a valid table with its TAG, CLEAR empties the slot, and both are refused while the slot has
blocks in flight or its bit in ENC_MASK set.
XTS_LOAD, XTS_CLEAR, GCM_LOAD, GCM_CLEAR, TABLE_LOAD and TABLE_CLEAR complete. -/
def Obligations.KeyAndTableSlots : Prop :=
  (∀ s (k : Fin 1024), serves s 4 = true → isAwake s = true →
    (∀ bs, hasFeature s 1 = true → unwrapKey s (blobBytes s F.stkXtsBlob.data 9) = some bs → Completes (.xtsLoad k) s (fun t =>
      getF t F.stkXtsSlot.slot = k.val ∧ (∀ i < 9, getF t (F.stkXtsBlob.data.at i) = 0) ∧ getF t F.stkXtsSlot.status = 0 ∧
      t.stk.xts = tabPut none s.stk.xts k.val (some (BitVec.ofNat 512 (leNat bs))))) ∧
    ((hasFeature s 1 = false ∨ s.plt.wrapKey = none ∨ unwrapKey s (blobBytes s F.stkXtsBlob.data 9) = none) →
      Completes (.xtsLoad k) s (fun t =>
      getF t F.stkXtsSlot.status = 2 ∧ t.stk.xts = s.stk.xts ∧ (∀ i < 9, getF t (F.stkXtsBlob.data.at i) = 0))) ∧
    Completes (.xtsClear k) s (fun t => getF t F.stkXtsSlot.status = 0 ∧ t.stk.xts = tabPut none s.stk.xts k.val none ∧
      (∀ i < 9, getF t (F.stkXtsBlob.data.at i) = 0))) ∧
  (∀ s (k : Fin 256), serves s 8 = true → isAwake s = true →
    (∀ bs, hasFeature s 2 = true → unwrapKey s (blobBytes s F.codGcmBlob.data 5) = some bs → Completes (.gcmLoad k) s (fun t =>
      (∀ i < 5, getF t (F.codGcmBlob.data.at i) = 0) ∧ getF t F.codGcmCtl.status = 0 ∧
      (tabGet {} t.cod.gcm k.val).gen = ((tabGet {} s.cod.gcm k.val).gen + 1) % 2 ^ 24 ∧
      (tabGet {} t.cod.gcm k.val).key = some (BitVec.ofNat 256 (leNat bs)))) ∧
    ((hasFeature s 2 = false ∨ s.plt.wrapKey = none ∨ unwrapKey s (blobBytes s F.codGcmBlob.data 5) = none) →
      Completes (.gcmLoad k) s (fun t =>
      getF t F.codGcmCtl.status = 2 ∧ (tabGet {} t.cod.gcm k.val).key = (tabGet {} s.cod.gcm k.val).key ∧
      (∀ i < 5, getF t (F.codGcmBlob.data.at i) = 0))) ∧
    Completes (.gcmClear k) s (fun t => getF t F.codGcmCtl.status = 0 ∧ (tabGet {} t.cod.gcm k.val).key = none ∧
      (tabGet {} t.cod.gcm k.val).gen = (tabGet {} s.cod.gcm k.val).gen ∧ (∀ i < 5, getF t (F.codGcmBlob.data.at i) = 0))) ∧
  (∀ s (j : Fin 4), serves s 8 = true → isAwake s = true →
     (∀ tag, slotBusy s j.val = false → 1 ≤ tag → tag ≤ 255 → tableValid (tableLengths s) = true →
       Effect (.tableLoad j tag) s (putF (setTable (putF (putF s F.codTableCtl.slot j.val) F.codTableCtl.tag tag) j.val
         { loaded := true, tag := tag, lengths := tableLengths s }) F.codTableCtl.status 0)) ∧
     (∀ tag, slotBusy s j.val = false → 1 ≤ tag → tag ≤ 255 → tableValid (tableLengths s) = false →
       Effect (.tableLoad j tag) s (putF (putF (putF s F.codTableCtl.slot j.val) F.codTableCtl.tag tag) F.codTableCtl.status 3)) ∧
     (∀ tag, slotBusy s j.val = true → 1 ≤ tag → tag ≤ 255 →
       Effect (.tableLoad j tag) s (putF (putF (putF s F.codTableCtl.slot j.val) F.codTableCtl.tag tag) F.codTableCtl.status 2)) ∧
     (slotBusy s j.val = false → Effect (.tableClear j) s
       (putF (setTable (putF s F.codTableCtl.slot j.val) j.val {}) F.codTableCtl.status 0)) ∧
     (slotBusy s j.val = true → Effect (.tableClear j) s (putF (putF s F.codTableCtl.slot j.val) F.codTableCtl.status 2)))

/-- O28. Sharing domains: LOAD gives an empty slot a domain, its owner and its key, and its root record; CLEAR, UNPIN and FLUSH begin a scan
of a slot that holds a domain, and complete at once with status 5 where it holds none. A scan ends with its effect on every entry of the
domain, and a CLEAR empties the slot. A LOAD of domain 0 is refused (log entry 15), and a command during a scan is BUSY.
DOMAIN_LOAD, DOMAIN_CLEAR, DOMAIN_UNPIN, DOMAIN_FLUSH and DOMAIN_SCAN_COMPLETE complete. -/
def Obligations.DomainSlots : Prop :=
  (∀ s (k : Fin 4096) d (o : Tenant), serves s 6 = true → isAwake s = true → s.pfx.scan = none →
    (1 ≤ d → d ≤ 65535 → slotOfDomain s d = none → (tabGet {} s.pfx.slots k.val).domain = 0 →
      (∀ bs, unwrapKey s (blobBytes s F.pfxDomainBlob.data 5) = some bs → Completes (.domainLoad k d o) s (fun t =>
        getF t F.pfxDomainCtl.status = 0 ∧ (∀ i < 5, getF t (F.pfxDomainBlob.data.at i) = 0) ∧
        t.pfx.slots = tabPut {} s.pfx.slots k.val { domain := d, owner := o.val, key := BitVec.ofNat 256 (leNat bs) } ∧
        (recOf t (rootRecord k.val)).used = true ∧ (recOf t (rootRecord k.val)).root = true)) ∧
      (unwrapKey s (blobBytes s F.pfxDomainBlob.data 5) = none → Completes (.domainLoad k d o) s (fun t =>
        getF t F.pfxDomainCtl.status = 2 ∧ (∀ i < 5, getF t (F.pfxDomainBlob.data.at i) = 0) ∧ t.pfx = s.pfx))) ∧
    (d = 0 → Completes (.domainLoad k d o) s (fun t => getF t F.pfxDomainCtl.status = 4 ∧ t.pfx = s.pfx)) ∧
    (1 ≤ d → d ≤ 65535 → (∃ j, slotOfDomain s d = some j ∧ j ≠ k.val) →
      Completes (.domainLoad k d o) s (fun t => getF t F.pfxDomainCtl.status = 3 ∧ t.pfx = s.pfx)) ∧
    (1 ≤ d → d ≤ 65535 → slotOfDomain s d = none → (tabGet {} s.pfx.slots k.val).domain ≠ 0 →
      Completes (.domainLoad k d o) s (fun t => getF t F.pfxDomainCtl.status = 6 ∧ t.pfx = s.pfx))) ∧
  (∀ s (k : Fin 4096), serves s 6 = true → isAwake s = true → s.pfx.scan = none → (tabGet {} s.pfx.slots k.val).domain ≠ 0 →
    Completes (.domainClear k) s (fun t => getF t F.pfxDomainCtl.status = 1 ∧ t.pfx = { s.pfx with scan := some (k.val, .clear) } ∧
      (∀ i < 5, getF t (F.pfxDomainBlob.data.at i) = 0)) ∧
    Completes (.domainUnpin k) s (fun t => getF t F.pfxDomainCtl.status = 1 ∧ t.pfx = { s.pfx with scan := some (k.val, .unpin) }) ∧
    Completes (.domainFlush k) s (fun t => getF t F.pfxDomainCtl.status = 1 ∧ t.pfx = { s.pfx with scan := some (k.val, .flush) })) ∧
  (∀ s (k : Fin 4096), serves s 6 = true → isAwake s = true → s.pfx.scan = none → (tabGet {} s.pfx.slots k.val).domain = 0 →
    Completes (.domainClear k) s (fun t => getF t F.pfxDomainCtl.status = 5 ∧ t.pfx = s.pfx ∧
      (∀ i < 5, getF t (F.pfxDomainBlob.data.at i) = 0)) ∧
    Completes (.domainUnpin k) s (fun t => getF t F.pfxDomainCtl.status = 5 ∧ t.pfx = s.pfx) ∧
    Completes (.domainFlush k) s (fun t => getF t F.pfxDomainCtl.status = 5 ∧ t.pfx = s.pfx)) ∧
  (∀ s (k : Fin 4096) d (o : Tenant), serves s 6 = true → isAwake s = true → s.pfx.scan ≠ none →
    Completes (.domainLoad k d o) s (fun t => getF t F.pfxDomainCtl.status = 1 ∧ t.pfx = s.pfx) ∧
    Completes (.domainClear k) s (fun t => getF t F.pfxDomainCtl.status = 1 ∧ t.pfx = s.pfx) ∧
    Completes (.domainUnpin k) s (fun t => getF t F.pfxDomainCtl.status = 1 ∧ t.pfx = s.pfx) ∧
    Completes (.domainFlush k) s (fun t => getF t F.pfxDomainCtl.status = 1 ∧ t.pfx = s.pfx)) ∧
  (∀ s k, runs s = true →
    (s.pfx.scan = some (k, .unpin) → Completes .domainScanComplete s (fun t => getF t F.pfxDomainCtl.status = 0 ∧ t.pfx.scan = none ∧
      t.pfx.slots = s.pfx.slots ∧
      (∀ n, recOf t n = (if (recOf s n).domain = (tabGet {} s.pfx.slots k).domain then { recOf s n with pinned := false }
        else recOf s n)))) ∧
    (s.pfx.scan = some (k, .flush) → Completes .domainScanComplete s (fun t => getF t F.pfxDomainCtl.status = 0 ∧ t.pfx.scan = none ∧
      t.pfx.slots = s.pfx.slots ∧ (∀ n, (recOf t n).domain = (tabGet {} s.pfx.slots k).domain → (recOf t n).used = true →
        (recOf t n).root = true))) ∧
    (s.pfx.scan = some (k, .clear) → Completes .domainScanComplete s (fun t => getF t F.pfxDomainCtl.status = 0 ∧ t.pfx.scan = none ∧
      tabGet {} t.pfx.slots k = {})))

/-! ## Compositions and shares (14) -/

/-- O29. BIND makes a composition of the registers and the regions that they name, after every check of R387, tells the meter, and
completes with the status of the first check that fails. A command that arrives during an UNBIND is BUSY (log entry 20). BIND
completes. -/
def Obligations.CompositionsBind : Prop :=
  ∀ s (c : CompNo) role, serves s 9 = true → isAwake s = true →
    (s.sch.cmdBusy = false → bindRefusal s c role = none → Completes (.bind c role) s (fun t =>
      getF t F.schCompCmd.status = 0 ∧ compOf t c.val = some (newComp s role) ∧
      (∀ d, d ≠ c.val → compOf t d = compOf s d) ∧
      (∀ n ∈ namedRegions s, (regionOf t n).comp = some c ∧ (regionOf t n).state = .empty) ∧
      (∀ n, n ∉ namedRegions s → regionOf t n = regionOf s n) ∧
      (∃ b : CompositionBody, b.composition = c ∧ b.role = roleNo role ∧ b.package = false ∧ Sends s t (.feed s.lane.nextSeq (.bind b))))) ∧
    (∀ st, s.sch.cmdBusy = false → bindRefusal s c role = some st → Completes (.bind c role) s (fun t =>
      getF t F.schCompCmd.status = st ∧ t.sch = s.sch ∧ t.fab = s.fab ∧ t.lane = s.lane)) ∧
    (s.sch.cmdBusy = true → Effect (.bind c role) s (schNotify (putF s F.schCompCmd.status 1)))

/-- O30. UNBIND of a composition that nothing keeps bound removes its steps, entries and shares, frees its regions and is busy until every
page of its KV area is FREE; then the meter is told and the composition is gone. What keeps it bound, and a composition that is not bound,
refuse it.
ADD_REGIONS and REMOVE_REGIONS move the regions that SCH_BIND_REGIONS names between a composition and none, and the meter is told;
each is refused for a composition that is not bound, and where a region does not allow it.
SET gives a tenant its share in a bound composition, changes its weight, or removes it with weight 0 unless the tenant needs it;
no more than 16,384 shares stand.
UNBIND, UNBIND_COMPLETE, ADD_REGIONS, REMOVE_REGIONS and SET complete. -/
def Obligations.CompositionsChange : Prop :=
  (∀ s (c : CompNo), serves s 9 = true → isAwake s = true → s.sch.cmdBusy = false →
    (compOf s c.val = none → Effect (.unbind c) s (compStatus (putF s F.schCompCmd.composition c.val) 4)) ∧
    (∀ x, compOf s c.val = some x → keepsBound s c.val x = true →
      Effect (.unbind c) s (compStatus (putF s F.schCompCmd.composition c.val) 7)) ∧
    (∀ x, compOf s c.val = some x → keepsBound s c.val x = false → Completes (.unbind c) s (fun t =>
      getF t F.schCompCmd.status = 8 ∧ t.sch.cmdBusy = true ∧ (∃ y, compOf t c.val = some y ∧ y.unbinding = true ∧ y.role = x.role) ∧
      (∀ tn < 4096, shareOf t c.val tn = none) ∧ (∀ n < 64, (regionOf s n).comp = some c → (regionOf t n).comp = none)))) ∧
  (∀ s (c : CompNo) x, runs s = true → compOf s c.val = some x → x.unbinding = true → allPagesFree s x = true →
    Completes (.unbindComplete c) s (fun t => getF t F.schCompCmd.status = 0 ∧ compOf t c.val = none ∧ t.sch.cmdBusy = false ∧
      Sends s t (.feed s.lane.nextSeq (.unbind (compBody s c x))))) ∧
  (∀ s (c : CompNo) x, runs s = true → compOf s c.val = some x → allPagesFree s x = false → Effect (.unbindComplete c) s s) ∧
  (∀ s (c : CompNo), serves s 9 = true → isAwake s = true → s.sch.cmdBusy = false →
     (∀ x, compOf s c.val = some x → x.role ≠ .cache → (namedRegions s).all (isLoose s) = true → Completes (.addRegions c) s (fun t =>
       getF t F.schCompCmd.status = 0 ∧ (∀ n ∈ namedRegions s, regionOf t n = { regionOf s n with comp := some c }) ∧
       (∀ n, n ∉ namedRegions s → regionOf t n = regionOf s n) ∧ t.sch = s.sch ∧
       (∃ b : CompositionBody, b.composition = c ∧ Sends s t (.feed s.lane.nextSeq (.resource b))))) ∧
     (∀ x, compOf s c.val = some x → x.role ≠ .cache → (namedRegions s).all (isLoose s) = false →
       Effect (.addRegions c) s (compStatus (putF s F.schCompCmd.composition c.val) 2)) ∧
     (compOf s c.val = none → Effect (.addRegions c) s (compStatus (putF s F.schCompCmd.composition c.val) 4) ∧
       Effect (.removeRegions c) s (compStatus (putF s F.schCompCmd.composition c.val) 4)) ∧
     (∀ x, compOf s c.val = some x → (∀ n ∈ namedRegions s, (regionOf s n).comp = some c) →
       (∀ n ∈ namedRegions s, isIdle s n = true ∧ holdsContext s n = false) → Completes (.removeRegions c) s (fun t =>
         getF t F.schCompCmd.status = 0 ∧ (∀ n ∈ namedRegions s, regionOf t n = { regionOf s n with comp := none }) ∧
         (∀ n, n ∉ namedRegions s → regionOf t n = regionOf s n) ∧
         (∃ b : CompositionBody, b.composition = c ∧ Sends s t (.feed s.lane.nextSeq (.resource b))))) ∧
     (∀ x, compOf s c.val = some x → (∀ n ∈ namedRegions s, (regionOf s n).comp = some c) →
       (∃ n ∈ namedRegions s, isIdle s n = false) → Effect (.removeRegions c) s (compStatus (putF s F.schCompCmd.composition c.val) 7))) ∧
  (∀ s (t' : Tenant) (c : CompNo) w, serves s 9 = true → isAwake s = true → w < 65536 →
     (compOf s c.val = none → Completes (.set t' c w) s (fun t => getF t F.schShareCmd.status = 1 ∧ t.sch = s.sch)) ∧
     (∀ x, compOf s c.val = some x → x.unbinding = false → w ≠ 0 →
       (shareOf s c.val t'.val ≠ none ∨ tabCount s.sch.shares (fun o => o.isSome) < 16384) → Completes (.set t' c w) s (fun t =>
         getF t F.schShareCmd.status = 0 ∧
         shareOf t c.val t'.val = some { weight := w, deficit := ((shareOf s c.val t'.val).map (·.deficit)).getD 0 } ∧
         t.sch.comps = s.sch.comps)) ∧
     (∀ x, compOf s c.val = some x → x.unbinding = false → w ≠ 0 → shareOf s c.val t'.val = none →
       16384 ≤ tabCount s.sch.shares (fun o => o.isSome) → Completes (.set t' c w) s (fun t =>
         getF t F.schShareCmd.status = 2 ∧ t.sch = s.sch)) ∧
     (∀ x, compOf s c.val = some x → x.unbinding = false → w = 0 → shareNeeded s c.val t'.val x = false →
       Completes (.set t' c w) s (fun t =>
       getF t F.schShareCmd.status = 0 ∧ shareOf t c.val t'.val = none)) ∧
     (∀ x, compOf s c.val = some x → x.unbinding = false → w = 0 → shareOf s c.val t'.val ≠ none → shareNeeded s c.val t'.val x = true →
       Completes (.set t' c w) s (fun t => getF t F.schShareCmd.status = 3 ∧ t.sch = s.sch)))

/-! ## Host commands (08) -/

namespace Sys2Proof

/-- The 64 bytes of a completion are written in the tenant's queue under its PASID, the final 8 after the rest, or the completion waits
for room in the queue or for the Mirror (R244, R247, R249, R499). -/
def Reported (t : State) (tn op id tag status : Nat) : Prop :=
  ∃ r : Completion, r.opcode = op ∧ r.requestId = id ∧ r.tag = tag ∧ r.status = status ∧
    ((∃ slot lmc seq phase, let a := getF t (F.rqtTCqBase.base.at tn) * 4096 + 64 * slot
        Output.hostWrite (pasidOf t tn) a false ((completionBytes r lmc seq phase).take 56) ∈ t.out ∧
        Output.hostWrite (pasidOf t tn) (a + 56) false ((completionBytes r lmc seq phase).drop 56) ∈ t.out) ∨
      RecordOut.completion r ∈ (queuesOf t tn).waiting ∨
      ∃ n, (n, HeldOut.record tn (.completion r)) ∈ t.twn.held)

/-- No inconsistent record was found, and each page that entry `i` references is named once, and is SEALED or its own OPEN page (R174,
R191). -/
def RefsSound (s : State) (i : Nat) : Prop :=
  s.stk.broken = [] ∧ (manifestGranules (manifestOf s i)).Nodup ∧
  ∀ g ∈ manifestGranules (manifestOf s i), refOk s i g = true

/-- A command of tenant `tn` is read, has the opcode and good fields, and names entry `i`, of the tenant, with nothing held before it and
no rule that
refuses it whatever the entry's state; the entry's page references are sound. -/
def Meets (s : State) (tn : Tenant) (op : Nat) (c : HostCommand) (i : Nat) : Prop :=
  canRead s tn.val = true ∧ c.opcode = op ∧ fieldsOk op c = true ∧ c.requestId / 2 ^ 52 = tn.val ∧ findRequest s c.requestId = some i ∧
  (entryOf s i).tenant = tn ∧ (entryOf s i).handedOff = false ∧ roleOf s (entryOf s i).composition.val ≠ .prompt ∧
  tabGet false s.rqt.taken i = false ∧ heldOf s i = [] ∧ RefsSound s i

end Sys2Proof

/-- O31. ADMIT: the first refusal of R241 that applies is its status and no entry changes; else a FREE entry takes its fields and those
of the descriptor, in ADMITTED, its first tokens are its input, and the walk and the answer of the home are awaited.
ADMIT (hostAdmit) completes. -/
def Obligations.AdmitFillsAnEntry : Prop :=
  (∀ s (tn : Tenant) c tokens desc st, canRead s tn.val = true → admitRefusal s tn.val c tokens desc = some st →
    Completes (.hostAdmit tn c tokens desc) s (fun t => Reported t tn.val (opcodeOf 1 c) c.requestId c.tag st ∧
      t.rqt.manifests = s.rqt.manifests ∧ ∀ i, (entryOf t i).state = (entryOf s i).state)) ∧
  (∀ s (tn : Tenant) c ts d, canRead s tn.val = true → admitRefusal s tn.val c (some ts) (some d) = none →
    (∃ i < 65536, (entryOf s i).state = .free) →
    Completes (.hostAdmit tn c (some ts) (some d)) s (fun t => ∃ i < 65536, (entryOf s i).state = .free ∧
      (entryOf t i).state = .admitted ∧ (entryOf t i).requestId = c.requestId ∧ (entryOf t i).tenant = tn ∧
      (entryOf t i).composition = c.composition ∧ (entryOf t i).priority = c.priorityClass % 8 ∧
      (entryOf t i).durability = classOf c.priorityClass ∧ (entryOf t i).sharingDomain = c.sharingDomain ∧
      (entryOf t i).deadline = c.deadline ∧ (entryOf t i).inputEnd = c.count ∧ (entryOf t i).length = 0 ∧
      (entryOf t i).home = d.home ∧ (entryOf t i).rngState = d.seed ∧ (entryOf t i).ownerEpoch = 1 ∧
      (entryOf t i).admitTag = c.tag ∧ inputTokens t i = ts ∧
      (∃ a, admissionOf t i = some a ∧ a.tag = c.tag ∧ a.opened = false ∧ a.walkDone = false) ∧
      ∀ j, j ≠ i → (entryOf t j).state = (entryOf s j).state))

/-- O32. APPEND and TRUNCATE of a request in DECODE: tokens to prefill, and an earlier end. What TRUNCATE names at or beyond LENGTH
completes and changes nothing of the request but ARB_SEQ and the step in flight (log entry 86).
APPEND and TRUNCATE complete. -/
def Obligations.AppendAndTruncate : Prop :=
  (∀ s tn c i ts, Meets s tn 2 c i → (entryOf s i).state = .decode → c.cflags = 0 → ts.length ≤ 512 →
    (entryOf s i).length + ts.length ≤ contextLimit s (entryOf s i).composition.val →
    Completes (.append tn c (some ts)) s (fun t => Reported t tn.val 2 c.requestId c.tag 0 ∧ (entryOf t i).state = .prefill ∧
      (entryOf t i).inputEnd = (entryOf s i).length + ts.length ∧ (entryOf t i).length = (entryOf s i).length ∧
      (entryOf t i).draft.rootValid = false ∧ inputOf t i = some { tokens := ts, forced := false, after := .commit })) ∧
  (∀ s tn c i, Meets s tn 3 c i → (entryOf s i).state = .decode → c.count < (entryOf s i).length →
    Completes (.truncate tn c) s (fun t => Reported t tn.val 3 c.requestId c.tag 0 ∧ (entryOf t i).state = .decode ∧
      (entryOf t i).length = c.count ∧ (entryOf t i).lastTrunc = c.count ∧
      (entryOf t i).inputEnd = min (entryOf s i).inputEnd c.count ∧ (entryOf t i).draft.rootValid = false)) ∧
  (∀ s tn c i, Meets s tn 3 c i → (entryOf s i).state = .decode → (entryOf s i).length ≤ c.count →
    Completes (.truncate tn c) s (fun t => Reported t tn.val 3 c.requestId c.tag 0 ∧ entryOf t i =
      { entryOf s i with arbSeq := ((entryOf s i).arbSeq + 1) % 2 ^ 32, noticePending := (entryOf t i).noticePending }))

/-- O33. CANCEL ends an active request; PARK puts a request away on a tier, or refuses where the swap area has no room; RESUME begins the
restore of a PARKED one, with its new deadline; QUERY writes the entry with RNG_STATE as zero; RELEASE frees an entry that has ended. A
command
that names no request of the tenant completes with NO_REQUEST. CANCEL, PARK, RESUME, QUERY and RELEASE complete. -/
def Obligations.CancelParkResumeQueryRelease : Prop :=
  (∀ s tn c i, Meets s tn 4 c i → ((entryOf s i).state = .prefill ∨ (entryOf s i).state = .decode) →
    Completes (.cancel tn c) s (fun t => Reported t tn.val 4 c.requestId c.tag 0 ∧ (entryOf t i).state = .cancelled ∧
      inputOf t i = none)) ∧
  (∀ s tn c i, Meets s tn 5 c i → (entryOf s i).state = .decode → droppedBlocks s i = [] →
    parkEntry (sendLog (seizeEntry s i) i) i c.tier 0 ≠ none → Completes (.park tn c) s (fun t =>
      Reported t tn.val 5 c.requestId c.tag 0 ∧ (entryOf t i).state = .parked ∧ (entryOf t i).parkedFromDone = false ∧
      (manifestOf t i).parked ≠ 0)) ∧
  (∀ s tn c i, Meets s tn 5 c i → (entryOf s i).state = .decode → droppedBlocks s i = [] →
    parkEntry (sendLog (seizeEntry s i) i) i c.tier 0 = none → Completes (.park tn c) s (fun t =>
      Reported t tn.val 5 c.requestId c.tag 12 ∧ (entryOf t i).state = .decode)) ∧
  (∀ s tn c i, Meets s tn 6 c i → (entryOf s i).state = .parked →
    Completes (.resume tn c) s (fun t => (entryOf t i).state = .parked ∧
      tabGet none t.rqt.restores i = some ((tabGet none s.rqt.restores i).getD [] ++ [c.tag]) ∧
      (entryOf t i).deadline = (if c.deadline = 0 then (entryOf s i).deadline else c.deadline))) ∧
  (∀ s tn c i, Meets s tn 7 c i → Completes (.query tn c) s (fun t => Reported t tn.val 7 c.requestId c.tag 0 ∧
    Output.hostWrite (pasidOf s tn.val) c.addr true (entryBytes { entryOf s i with
      arbSeq := ((entryOf s i).arbSeq + 1) % 2 ^ 32, rngState := 0 }) ∈ t.out ∧
    entryOf t i = { entryOf s i with
      arbSeq := ((entryOf s i).arbSeq + 1) % 2 ^ 32, noticePending := (entryOf t i).noticePending })) ∧
  (∀ s tn c i, Meets s tn 8 c i → (entryOf s i).state = .done →
    Completes (.release tn c) s (fun t => Reported t tn.val 8 c.requestId c.tag 0 ∧ (entryOf t i).state = .free)) ∧
  (∀ s tn c, canRead s tn.val = true → c.requestId / 2 ^ 52 = tn.val → findRequest s c.requestId = none → c.opcode = 4 →
    fieldsOk 4 c = true → Completes (.cancel tn c) s (fun t => Reported t tn.val 4 c.requestId c.tag 3 ∧ t.rqt.manifests = s.rqt.manifests))

/-- O34. A prefix walk that ends without a hit leaves the request in ADMITTED until the home has opened its ledger; a deadline that passes
is told of once; records that were not signalled are, when COALESCE_US has passed.
WALK_DONE, DEADLINE_MISS and COALESCE_US_EXPIRY complete. -/
def Obligations.WalksDeadlinesAndCoalescing : Prop :=
  (∀ s i a x, runs s = true → s.stk.broken = [] → canLease s = true → (entryOf s i).state = .admitted → isWaiting s i = false →
    admissionOf s i = some a → a.walkDone = false →
    a.opened = false → (entryOf s i).sharingDomain = 0 → (manifestOf s i).directory ≠ 0 → (manifestOf s i).historyDir ≠ 0 →
    inputOf s i = some x → (entryOf s i).length = 0 → Completes (.walkDone i) s (fun t =>
      admissionOf t i = some { a with walkDone := true } ∧ (entryOf t i).state = .admitted ∧ (entryOf t i).matched = 0 ∧
      (entryOf t i).length = 0)) ∧
  (∀ s i, isReady s = true → deadlinePassed s i = true → Completes (.deadlineMiss i) s (fun t =>
    (entryOf t i).deadlineMissed = true ∧ (entryOf t i).state = (entryOf s i).state ∧ tabGet false t.rqt.missed i = true ∧
    deadlinePassed t i = false ∧
    getF t F.rqtStatus.deadlineMisses =
      min (getF s F.rqtStatus.deadlineMisses + 1) (max (getF s F.rqtStatus.deadlineMisses)
        (2 ^ F.rqtStatus.deadlineMisses.width - 1)))) ∧
  (∀ s (tn : Tenant), isReady s = true → (queuesOf s tn.val).unsignalled ≠ 0 → isSet s (F.rqtTCtl.intEnable.at tn.val) = true →
    Effect (.coalesceUsExpiry tn) s (signal (setQueues s tn.val { queuesOf s tn.val with unsignalled := 0 }) (64 + tn.val)))

/-! ## Request State Transfer (11) -/

namespace Sys2Proof

/-- The header and the message of a row of the RST message table. -/
def rstOf : Instr → Option (RstHeader × RstMsg)
  | .rstOpen h d e twin m a => some (h, .openLedger d e twin m a)
  | .rstOpened h => some (h, .opened)
  | .logAppend h start e es => some (h, .logAppend start e es)
  | .logAck h n => some (h, .logAck n)
  | .publishBlock h b p => some (h, .publishBlock b p)
  | .pubRef h b pd dg ts => some (h, .pubRef b pd dg ts)
  | .pubAck h n => some (h, .pubAck n)
  | .pubNeed h b => some (h, .pubNeed b)
  | .offer h r e m a es => some (h, .offer r e m a es)
  | .offerAck h => some (h, .offerAck)
  | .pull h f n l => some (h, .pull f n l)
  | .pageData h p l f rows => some (h, .pageData p l f rows)
  | .claim h o tw => some (h, .claim o tw)
  | .grant h => some (h, .grant)
  | .deny h o => some (h, .deny o)
  | .rstRelease h => some (h, .release)
  | .whoOwns h => some (h, .whoOwns)
  | .ownerIs h o => some (h, .ownerIs o)
  | .rstResume h => some (h, .resume)
  | .recover h l => some (h, .recover l)
  | .objRead h x o => some (h, .objRead x o)
  | .objData h x o bs => some (h, .objData x o bs)
  | .close h => some (h, .close)
  | .closed h => some (h, .closed)
  | .pfxQuery h d pd m a ts => some (h, .pfxQuery d pd m a ts)
  | .pfxAnswer h n hs => some (h, .pfxAnswer n hs)
  | _ => none

/-- The transfer engine takes messages now, none waits for a lease (R180), and this one came whole from the Mirror (R313, R348, R492). -/
def EngineTakes (s : State) (h : RstHeader) : Prop :=
  isReady s = true ∧ isAwake s = true ∧ isSet s F.xfrCtl.xfrLock = true ∧ isPassed s h = true ∧ s.xfr.asks = []

/-- The home serves the tenant of the request, and ledger `k` is that of the request. -/
def AtHome (s : State) (h : RstHeader) (k : Nat) : Prop :=
  EngineTakes s h ∧ (cacheCompOf s (h.requestId / 2 ^ 52)).isSome = true ∧ findLedger s h.requestId = some k

/-- The part holds the request in entry `i`. -/
def AtOwner (s : State) (h : RstHeader) (i : Nat) : Prop := EngineTakes s h ∧ findRequest s h.requestId = some i

end Sys2Proof

/-- O35. Every RST message meets the engine: at once where the Mirror passed it on; from a peer it is metered, its tag and its block are
checked, and its connection delivers it in order; a datagram that fails is discarded. Those without a message act on the connection.
OPEN, OPENED, LOG_APPEND, LOG_ACK, PUBLISH_BLOCK, PUB_REF, PUB_ACK, PUB_NEED, OFFER, OFFER_ACK, PULL, PAGE_DATA, CLAIM, GRANT, DENY,
RELEASE, WHO_OWNS, OWNER_IS, RESUME, RECOVER, OBJ_READ, OBJ_DATA, CLOSE, CLOSED, PFX_QUERY, PFX_ANSWER, RST_TRANSPORT_ONLY and
RST_RETRANSMIT complete. -/
def Obligations.MessagesReachTheEngine : Prop :=
  (∀ s h, EngineTakes s h →
    (∀ d e twin m a, Effect (.rstOpen h d e twin m a) s (engine s h (.openLedger d e twin m a))) ∧
    Effect (.rstOpened h) s (engine s h .opened) ∧
    (∀ start e es, Effect (.logAppend h start e es) s (engine s h (.logAppend start e es))) ∧
    (∀ n, Effect (.logAck h n) s (engine s h (.logAck n))) ∧
    (∀ b p, Effect (.publishBlock h b p) s (engine s h (.publishBlock b p))) ∧
    (∀ b pd dg ts, Effect (.pubRef h b pd dg ts) s (engine s h (.pubRef b pd dg ts))) ∧
    (∀ n, Effect (.pubAck h n) s (engine s h (.pubAck n))) ∧
    (∀ b, Effect (.pubNeed h b) s (engine s h (.pubNeed b))) ∧
    (∀ r e m a es, Effect (.offer h r e m a es) s (engine s h (.offer r e m a es))) ∧
    Effect (.offerAck h) s (engine s h .offerAck) ∧
    (∀ f n l, Effect (.pull h f n l) s (engine s h (.pull f n l))) ∧
    (∀ p l f rows, Effect (.pageData h p l f rows) s (engine s h (.pageData p l f rows))) ∧
    (∀ o tw, Effect (.claim h o tw) s (engine s h (.claim o tw))) ∧
    Effect (.grant h) s (engine s h .grant) ∧
    (∀ o, Effect (.deny h o) s (engine s h (.deny o))) ∧
    Effect (.rstRelease h) s (engine s h .release) ∧
    Effect (.whoOwns h) s (engine s h .whoOwns) ∧
    (∀ o, Effect (.ownerIs h o) s (engine s h (.ownerIs o))) ∧
    Effect (.rstResume h) s (engine s h .resume) ∧
    (∀ l, Effect (.recover h l) s (engine s h (.recover l))) ∧
    (∀ x o, Effect (.objRead h x o) s (engine s h (.objRead x o))) ∧
    (∀ x o bs, Effect (.objData h x o bs) s (engine s h (.objData x o bs))) ∧
    Effect (.close h) s (engine s h .close) ∧
    Effect (.closed h) s (engine s h .closed) ∧
    (∀ d pd m a ts, Effect (.pfxQuery h d pd m a ts) s (engine s h (.pfxQuery d pd m a ts))) ∧
    (∀ n hs, Effect (.pfxAnswer h n hs) s (engine s h (.pfxAnswer n hs)))) ∧
  (∀ c h m s, rstOf c = some (h, m) → isReady s = true → isAwake s = true → isSet s F.xfrCtl.xfrLock = true →
    portIsUp s h.port.val = true → acceptsAddr s h.dest = true → isPassed s h = false → ∀ u,
    (police s h.port (rstClass (rstType m)) (h.requestId / 2 ^ 52) h.bytes h.dscp = (false, u) → Effect c s u) ∧
    (police s h.port (rstClass (rstType m)) (h.requestId / 2 ^ 52) h.bytes h.dscp = (true, u) →
      (h.gcmOk = false → Effect c s (notify (satF u F.codErrors.gcm) F.codCtl.notifyEnable F.codCtl.vector)) ∧
      (∀ m1 k, h.gcmOk = true → decodeMessage u m = .ok m1 → connOf u h.source = some k → h.connection ≠ k.ident → Effect c s u) ∧
      (∀ m1 k k1, h.gcmOk = true → decodeMessage u m = .ok m1 → connOf u h.source = some k → h.connection = k.ident →
        connOf (takeAck u h) h.source = some k1 →
        (arrivalOf k1 h.seq = .next →
          Effect c s (acknowledge s (deliverAll h.source (k1.heldIn.length + 1) (takeAck u h) h m1) h.source)) ∧
        (arrivalOf k1 h.seq = .held →
          Effect c s (acknowledge s (setConn (takeAck u h) { k1 with heldIn := k1.heldIn ++ [(h.seq, h, m1)] }) h.source)) ∧
        (arrivalOf k1 h.seq = .discarded → Effect c s (acknowledge s (takeAck u h) h.source))))) ∧
  (∀ h s, takesRst s h = true → isAwake s = true →
    (h.reset = true → Effect (.rstTransportOnly h) s (dropConn s h.source)) ∧
    (h.reset = false → h.syn = true → connOf s h.source = none → Effect (.rstTransportOnly h) s (takeSyn s h)) ∧
    (∀ k, h.reset = false → h.syn = false → connOf s h.source = some k → h.connection = k.ident →
      Effect (.rstTransportOnly h) s (takeAck s h))) ∧
  (∀ s peer seq k n d, runs s = true → connOf s peer = some k → k.unacked.find? (fun x => x.2.seq == seq) = some (n, d) →
    (getF s F.xfrRto.retries ≤ n → Effect (.rstRetransmit peer seq) s (unreachable s peer)) ∧
    (n < getF s F.xfrRto.retries → Effect (.rstRetransmit peer seq) s
      (sendDatagram (setConn s { k with unacked := k.unacked.map (fun u =>
        if u.2.seq == seq then (n + 1, { d with msg := rawPayload s d.msg }) else u) }) { d with msg := rawPayload s d.msg }).2))

/-- O36. The home: only the owner at the current epoch changes a ledger; LOG_APPEND cuts the log to START and continues it; CLOSE frees the
ledger; CLAIM moves ownership to the receiver of the owner's handoff at the next epoch, and is denied to others; WHO_OWNS answers with the
owner and sends it RESUME. A second OPEN is a DUPLICATE, and a part without a CACHE composition of the tenant is not the home.
Recovery by the host: a ledger goes to the target at the next epoch in RECOVERING, alone or with every ledger of a failed part; no
such request, no ledger of the part, and no target end it with a status.
PUBLISH_BLOCK and PUB_REF list the next block of a ledger, or say which one is next; OBJ_READ answers with an object's bytes, and PFX_QUERY
with what the home's index holds. OPEN, LOG_APPEND, PUBLISH_BLOCK, PUB_REF, CLAIM, WHO_OWNS, CLOSE, OBJ_READ, PFX_QUERY, RECOVER_REQUEST
and RECOVER_FAILED_PART complete. -/
def Obligations.HomeKeepsLedgers : Prop :=
  (∀ s h d e twin m a, EngineTakes s h →
    (cacheCompOf s (h.requestId / 2 ^ 52) = none →
      Effect (.rstOpen h d e twin m a) s (reply s h .opened .notHome h.epoch)) ∧
    ((cacheCompOf s (h.requestId / 2 ^ 52)).isSome = true → (findLedger s h.requestId).isSome = true →
      Effect (.rstOpen h d e twin m a) s (reply s h .opened .duplicate h.epoch)) ∧
    ((cacheCompOf s (h.requestId / 2 ^ 52)).isSome = true → findLedger s h.requestId = none →
      (∃ k < getF s F.xfrLedgerCount.count, (ledgerOf s k).lstate = .free) →
      (∃ u, 1 ≤ u ∧ u < getF s F.stkManifestUnits.count ∧ tabGet false s.stk.usedUnits u = false) →
      Completes (.rstOpen h d e twin m a) s (fun t => ∃ k, (ledgerOf s k).lstate = .free ∧ ledgerOf t k =
        { lstate := .open, durability := d, tenant := e.tenant, ownerEpoch := h.epoch, requestId := h.requestId, owner := h.source,
          ownerTwin := twin, modelId := m, adapterId := a, openedLmc := s.plt.lmc, entry := e } ∧
        ∀ j, j ≠ k → ledgerOf t j = ledgerOf s j))) ∧
  (∀ s h k start e es, AtHome s h k →
    (isOwner (ledgerOf s k) h = false → Effect (.logAppend h start e es) s (reply s h (.logAck 0) .staleEpoch h.epoch)) ∧
    (isOwner (ledgerOf s k) h = true → (ledgerOf s k).log.length < start →
      Effect (.logAppend h start e es) s (reply s h (.logAck (ledgerOf s k).log.length) .badMessage (ledgerOf s k).ownerEpoch)) ∧
    (isOwner (ledgerOf s k) h = true → start ≤ (ledgerOf s k).log.length → (ledgerOf s k).blocks = [] →
      nextUnit (ledgerUnits s k) (ceilDiv (start + es.length) 2048) 0 = none →
      Effect (.logAppend h start e es) s (reply (setLedger s k { ledgerOf s k with
          log := (ledgerOf s k).log.take start ++ es, blocks := [], entry := e, appendLmc := s.plt.lmc,
          lstate := if (ledgerOf s k).lstate = .recovering then .open else (ledgerOf s k).lstate }) h
        (.logAck (min start (ledgerOf s k).log.length + es.length)) .ok (ledgerOf s k).ownerEpoch))) ∧
  (∀ s h k, AtHome s h k →
    (isOwner (ledgerOf s k) h = true → Completes (.close h) s (fun t => (ledgerOf t k).lstate = .free ∧
      ∀ j, j ≠ k → ledgerOf t j = ledgerOf s j)) ∧
    (isOwner (ledgerOf s k) h = false → Effect (.close h) s (reply s h .closed .staleEpoch h.epoch))) ∧
  (∀ s h k offering twin, AtHome s h k → h.takeover = false →
    ((ledgerOf s k).owner = h.source → (ledgerOf s k).ownerEpoch = h.epoch →
      Effect (.claim h offering twin) s (reply s h .grant .ok (ledgerOf s k).ownerEpoch)) ∧
    ((ledgerOf s k).owner = offering → (ledgerOf s k).owner ≠ h.source → h.epoch = (ledgerOf s k).ownerEpoch + 1 →
      Effect (.claim h offering twin) s (reply (setLedger s k { ledgerOf s k with
        owner := h.source, ownerTwin := twin, ownerEpoch := h.epoch % 2 ^ 32 }) h .grant .ok (h.epoch % 2 ^ 32))) ∧
    ((ledgerOf s k).owner ≠ offering → (ledgerOf s k).owner ≠ h.source →
      Effect (.claim h offering twin) s (reply s h (.deny (ledgerOf s k).owner) .staleEpoch (ledgerOf s k).ownerEpoch))) ∧
  (∀ s h k, AtHome s h k → Effect (.whoOwns h) s
    (sendRst (reply s h (.ownerIs (ledgerOf s k).owner) .ok (ledgerOf s k).ownerEpoch)
      { dest := (ledgerOf s k).owner, msg := .resume, epoch := (ledgerOf s k).ownerEpoch, requestId := (ledgerOf s k).requestId })) ∧
  (∀ s h k b bs, AtHome s h k →
    (isOwner (ledgerOf s k) h = false →
      Effect (.publishBlock h b (.native bs)) s (reply s h (.pubAck 0) .staleEpoch h.epoch)) ∧
    (isOwner (ledgerOf s k) h = true → b < (ledgerOf s k).blocks.length → Effect (.publishBlock h b (.native bs)) s
      (reply s h (.pubAck (ledgerOf s k).blocks.length) .ok (ledgerOf s k).ownerEpoch)) ∧
    (isOwner (ledgerOf s k) h = true → (ledgerOf s k).blocks.length < b → Effect (.publishBlock h b (.native bs)) s
      (reply s h (.pubAck (ledgerOf s k).blocks.length) .badMessage (ledgerOf s k).ownerEpoch)) ∧
    (∀ c x g, isOwner (ledgerOf s k) h = true → b = (ledgerOf s k).blocks.length →
      cacheCompOf s (ledgerOf s k).tenant.val = some c → compOf s c = some x →
      listedGranules s (ledgerOf s k).tenant.val + granuleCount bs.length ≤ x.kvGranules →
      nextUnit (ledgerUnits s k) (ceilDiv (ledgerOf s k).log.length 2048) (ceilDiv (b + 1) 2048) = none →
      granuleCount bs.length + g ≤ getF s F.xfrBlockAreaSize.granules →
      areaUsed s 1 (getF s F.xfrBlockAreaBase.base * 4096) (granuleCount bs.length) g = false → (chooseEntry s).1 ≠ none →
      Completes (.publishBlock h b (.native bs)) s (fun t => ∃ set, (ledgerOf t k).blocks = (ledgerOf s k).blocks ++ [set] ∧
        (odtOf t (handleIndex set)).state = .published ∧ (odtOf t (handleIndex set)).tier = 1 ∧
        (odtOf t (handleIndex set)).size = bs.length ∧ 1 ≤ (odtOf t (handleIndex set)).pinCount))) ∧
  (∀ s h k b pd dg ts, AtHome s h k → canLease s = true → isOwner (ledgerOf s k) h = true →
    (b < (ledgerOf s k).blocks.length → Effect (.pubRef h b pd dg ts) s
      (reply s h (.pubAck (ledgerOf s k).blocks.length) .ok (ledgerOf s k).ownerEpoch)) ∧
    (∀ c, b = (ledgerOf s k).blocks.length → cacheCompOf s (ledgerOf s k).tenant.val = some c →
      ledgerCtx s c (ledgerOf s k).entry.sharingDomain (ledgerOf s k).tenant.val (ledgerOf s k).modelId (ledgerOf s k).adapterId = none →
      Effect (.pubRef h b pd dg ts) s (reply s h (.pubNeed b) .ok (ledgerOf s k).ownerEpoch)) ∧
    (∀ c x slot r w set rest, b = (ledgerOf s k).blocks.length → cacheCompOf s (ledgerOf s k).tenant.val = some c →
      ledgerCtx s c (ledgerOf s k).entry.sharingDomain (ledgerOf s k).tenant.val (ledgerOf s k).modelId (ledgerOf s k).adapterId
        = some (x, slot) → findBlock s x (recordOfDigest s x slot pd) pd ts = some (r, w) → (recOf s r).pages = set :: rest →
      isCurrent s set = true →
      nextUnit (ledgerUnits s k) (ceilDiv (ledgerOf s k).log.length 2048) (ceilDiv (b + 1) 2048) = none →
      Effect (.pubRef h b pd dg ts) s (listBlock s h k set))) ∧
  (∀ s h x o, EngineTakes s h → canLease s = true →
    (cacheCompOf s (h.requestId / 2 ^ 52) = none →
      Effect (.objRead h x o) s (reply s h (.objData x o (.native [])) .notHome h.epoch)) ∧
    (∀ bs, (cacheCompOf s (h.requestId / 2 ^ 52)).isSome = true → isCurrent s x = true →
      (odtOf s (handleIndex x)).state = .published → (odtOf s (handleIndex x)).tenant = h.requestId / 2 ^ 52 →
      (odtOf s (handleIndex x)).prot.testBit 2 = true → objectBytes s (handleIndex x) = some bs → Effect (.objRead h x o) s
        (sendRst s { dest := h.source, msg := .objData x o (.native (bs.drop (o * 4096))), status := .ok, epoch := h.epoch,
                     requestId := h.requestId, xfer := h.xfer, protect := (odtOf s (handleIndex x)).prot.testBit 4 })) ∧
    ((cacheCompOf s (h.requestId / 2 ^ 52)).isSome = true → isCurrent s x = false → Effect (.objRead h x o) s
        (sendRst s { dest := h.source, msg := .objData x o (.native []), status := .badMessage, epoch := h.epoch,
                     requestId := h.requestId, xfer := h.xfer, protect := (odtOf s (handleIndex x)).prot.testBit 4 }))) ∧
  (∀ s h d pd m a ts, EngineTakes s h → canLease s = true →
    (cacheCompOf s (h.requestId / 2 ^ 52) = none →
      Effect (.pfxQuery h d pd m a ts) s (reply s h (.pfxAnswer 0 []) .notHome h.epoch)) ∧
    (∀ c, cacheCompOf s (h.requestId / 2 ^ 52) = some c → ledgerCtx s c d (h.requestId / 2 ^ 52) m a = none →
      Effect (.pfxQuery h d pd m a ts) s (reply s h (.pfxAnswer 0 []) .ok h.epoch)) ∧
    (∀ c x slot, cacheCompOf s (h.requestId / 2 ^ 52) = some c → ledgerCtx s c d (h.requestId / 2 ^ 52) m a = some (x, slot) →
      findBlock s x (recordOfDigest s x slot pd) pd (ts.take 64) = none → Effect (.pfxQuery h d pd m a ts) s
        (reply s h (.pfxAnswer 0 []) .ok h.epoch))) ∧
  (∀ s, serves s 7 = true → isAwake s = true →
     (findLedger s (getF s F.xfrRecoverId.requestId) = none → Effect .recoverRequest s (recoverDone s 2 0)) ∧
     (∀ k, findLedger s (getF s F.xfrRecoverId.requestId) = some k → noTarget s = true → Effect .recoverRequest s (recoverDone s 4 0)) ∧
     (∀ k, findLedger s (getF s F.xfrRecoverId.requestId) = some k → noTarget s = false → Completes .recoverRequest s (fun t =>
       getF t F.xfrRecoverCtl.status = 0 ∧ getF t F.xfrRecoverCtl.count = 1 ∧ ledgerOf t k = { ledgerOf s k with
         owner := getF s F.xfrRecoverTargetLo.addr + 2 ^ 64 * getF s F.xfrRecoverTargetHi.addr, ownerTwin := 0,
         ownerEpoch := ((ledgerOf s k).ownerEpoch + 1) % 2 ^ 32, lstate := .recovering })) ∧
     (tabKeys s.xfr.ledgers (fun l => l.lstate != .free && l.owner ==
         getF s F.xfrRecoverFailedLo.addr + 2 ^ 64 * getF s F.xfrRecoverFailedHi.addr) = [] →
       Effect .recoverFailedPart s (recoverDone s 3 0)) ∧
     (∀ k, tabKeys s.xfr.ledgers (fun l => l.lstate != .free && l.owner ==
         getF s F.xfrRecoverFailedLo.addr + 2 ^ 64 * getF s F.xfrRecoverFailedHi.addr) = [k] → noTarget s = false →
       Completes .recoverFailedPart s (fun t => getF t F.xfrRecoverCtl.status = 0 ∧ getF t F.xfrRecoverCtl.count = 1 ∧
         (ledgerOf t k).lstate = .recovering ∧ (ledgerOf t k).ownerEpoch = ((ledgerOf s k).ownerEpoch + 1) % 2 ^ 32)))

/-- O37. The owner and the parts of a handoff: OPENED, LOG_ACK and CLOSED move an admission and the log; RELEASE ends the sender's part in
DONE with HANDED_OFF, GRANT makes the receiver the owner, DENY and an audit that finds another owner end its entry; an audit asks the home,
and an OFFER is sent again after a DUPLICATE. An OFFER fills an entry in HANDOFF_IN, or is refused; PULL is answered with the pages, and
PAGE_DATA seals the page that was pulled; PUB_ACK marks what is published, and PUB_NEED is answered with the block. RECOVER rebuilds a
request, or loses it where no part takes it. OPENED, LOG_ACK, PUB_ACK, PUB_NEED, OFFER, OFFER_ACK, PULL, PAGE_DATA, GRANT, DENY, RELEASE,
OWNER_IS, RESUME, RECOVER, OBJ_DATA, CLOSED, PFX_ANSWER, ORPHAN_AUDIT and OFFER_RESEND complete. -/
def Obligations.OwnersHandOff : Prop :=
  (∀ s h i a, AtOwner s h i → admissionOf s i = some a → a.opened = false → h.status = .duplicate → a.cancel = none →
    heldOf s i = [] → Completes (.rstOpened h) s (fun t => (entryOf t i).state = .free ∧
      Reported t (entryOf s i).tenant.val 1 (entryOf s i).requestId a.tag 4)) ∧
  (∀ s h i n, AtOwner s h i → h.status = .ok → tabGet false s.rqt.offers i = false → (entryOf s i).state = .decode →
    (entryOf s i).inputEnd ≤ n → n ≤ (entryOf s i).length → tabGet none s.rqt.logFrom i = none → inputOf s i = none →
    (entryOf s i).length < getF s F.xfrCtl.logBatch + n →
    Completes (.logAck h n) s (fun t => (entryOf t i).logged = n ∧ tabGet false t.rqt.logInFlight i = false ∧
      (entryOf t i).state = .decode)) ∧
  (∀ s h i, AtOwner s h i → (entryOf s i).state = .handoffOut → h.epoch = (entryOf s i).ownerEpoch + 1 →
    h.source = (entryOf s i).peer → Completes (.rstRelease h) s (fun t =>
      (entryOf t i).state = .done ∧ (entryOf t i).handedOff = true ∧ (entryOf t i).peer = h.source ∧ inputOf t i = none)) ∧
  (∀ s h i, AtOwner s h i → (entryOf s i).state ≠ .handoffIn → ((entryOf s i).state ≠ .handoffOut ∨ h.epoch ≠ (entryOf s i).ownerEpoch + 1 ∨
    h.source ≠ (entryOf s i).peer) →
    Effect (.rstRelease h) s (if (entryOf s i).state = .handoffOut then hear s i else s)) ∧
  (∀ s h i k x, AtOwner s h i → tabGet false s.rqt.taken i = false → (entryOf s i).state = .handoffIn →
    transferFor s i (· == .receive) = some k → transferOf s k = some x →
    ((x.claimSent = false ∨ h.epoch ≠ x.epoch + 1) → Effect (.grant h) s (hear s i)) ∧
    (x.claimSent = true → h.epoch = x.epoch + 1 → Effect (.grant h) s (granted (hear s i) i k x)) ∧
    (∀ o, Effect (.deny h o) s (abandon (hear s i) i))) ∧
  (∀ s h i, AtOwner s h i → tabGet false s.rqt.taken i = true → (entryOf s i).state = .decode →
    Effect (.grant h) s (modEntry s i (fun e => { e with ownerEpoch := h.epoch }))) ∧
  (∀ s h, EngineTakes s h → findRequest s h.requestId = none → h.status = .ok → Effect (.rstResume h) s
    (sendRst s { dest := h.source, msg := .resume, status := .noRequest, epoch := h.epoch, requestId := h.requestId })) ∧
  (∀ s i, runs s = true → isSet s F.xfrCtl.xfrLock = true → orphanPassed s i = true → (entryOf s i).state = .handoffIn →
    handoffTransfer s i = none → Effect (.orphanAudit i) s (askOwner (hear (satF s F.xfrStatus.audits) i) i)) ∧
  (∀ s i, orphanPassed s i = false → exec (.orphanAudit i) s = .next s ∧ exec (.offerResend i) s = .next s) ∧
  (∀ s h i n k, AtOwner s h i → h.status = .ok → transferFor s i (· == .publish) = some k → Completes (.pubAck h n) s (fun t =>
    ∀ e ∈ (manifestOf t i).pages, e.1 % 16384 < n → e.2.published = true)) ∧
  (∀ s h i b d pages k, AtOwner s h i → descOf s (entryOf s i).composition.val = some d → sealedBlock s i b d.layers = some pages →
    transferFor s i (· == .publish) = some k → Effect (.pubNeed h b) s (sendRst (takeLease s (1536 + k))
      { requestMsg s i (entryOf s i).home (.publishBlock b (.native (blockBytes s d pages))) with xfer := k })) ∧
  (∀ s h r e m a es, EngineTakes s h →
    (offerComp s (if h.append then .prompt else .generation) m a e.tenant.val = none →
      Effect (.offer h r e m a es) s (reply s h .offerAck .noComposition h.epoch)) ∧
    (∀ c i, offerComp s (if h.append then .prompt else .generation) m a e.tenant.val = some c → findRequest s h.requestId = some i →
      Effect (.offer h r e m a es) s (reply s h .offerAck .duplicate h.epoch)) ∧
    (∀ c, offerComp s (if h.append then .prompt else .generation) m a e.tenant.val = some c → findRequest s h.requestId = none →
      (∃ i < 65536, (entryOf s i).state = .free) → (∃ k < 2048, transferOf s k = none) →
      (e.durability = .m → isActivePaired s = true) → Completes (.offer h r e m a es) s (fun t =>
        ∃ i < 65536, (entryOf s i).state = .free ∧ (entryOf t i).state = .handoffIn ∧ (entryOf t i).requestId = e.requestId ∧
          (entryOf t i).length = e.length ∧ (entryOf t i).composition.val = c % 256 ∧ (entryOf t i).peer = h.source ∧
          (entryOf t i).ownerEpoch = h.epoch ∧ (entryOf t i).deadline = (if r = 0 then 0 else s.plt.lmc + r) ∧
          (manifestOf t i).history = es.take e.length ∧ (transferFor t i (· == .receive)).isSome = true))) ∧
  (∀ s h i k x, AtOwner s h i → transferFor s i (· == .send) = some k → transferOf s k = some x →
    (h.status = .duplicate → x.append = true →
      Completes (.offerAck h) s (fun t => transferOf t k = some { x with retryWait := true })) ∧
    (h.status = .ok → Completes (.offerAck h) s (fun t => transferOf t k = some x))) ∧
  (∀ s h i f n l d, AtOwner s h i → (entryOf s i).state = .handoffOut → h.epoch = (entryOf s i).ownerEpoch →
    h.source = (entryOf s i).peer → descOf s (entryOf s i).composition.val = some d →
    Effect (.pull h f n l) s ((List.range n).foldl (fun u j => sendPage u h i d l (f + j)) (sendLease (hear s i) i))) ∧
  (∀ s h f n l, EngineTakes s h → findRequest s h.requestId = none →
    Effect (.pull h f n l) s (reply s h (.pageData f l 0 (.native [])) .noRequest h.epoch)) ∧
  (∀ s h i k x d p l f rows, AtOwner s h i → (entryOf s i).state = .handoffIn → transferFor s i (· == .receive) = some k →
    transferOf s k = some x → descOf s (entryOf s i).composition.val = some d → h.status = .ok → h.source = x.peer →
    x.pulls.contains (l, p) = true → (pageEntry (manifestOf s i) l p).valid = true → f ≤ 64 →
    Completes (.pageData h p l f (.native rows)) s (fun t =>
      (pageOf t (pageEntry (manifestOf s i) l p).page).state = .sealed_ ∧
      (pageOf t (pageEntry (manifestOf s i) l p).page).fill = f)) ∧
  (∀ s h i o, AtOwner s h i → (entryOf s i).state = .decode → Effect (.ownerIs h o) s s) ∧
  (∀ s h i o, AtOwner s h i → (entryOf s i).state = .handoffIn → h.status = .noLedger → Effect (.ownerIs h o) s (abandon s i)) ∧
  (∀ s h i o, AtOwner s h i → (entryOf s i).state = .handoffOut → handoffTransfer s i = none → isRecovering s i = false →
    h.status = .ok → acceptsAddr s o = false → laterThan h.epoch (entryOf s i).ownerEpoch = true →
    Effect (.ownerIs h o) s (handedOff s i o)) ∧
  (∀ s h l, EngineTakes s h → h.status = .ok → findRequest s h.requestId = none →
    (offerComp s .generation l.modelId l.adapterId l.tenant.val = none →
      Effect (.recover h l) s (reply s h (.recover l) .noComposition h.epoch)) ∧
    (∀ c, offerComp s .generation l.modelId l.adapterId l.tenant.val = some c → (∃ i < 65536, (entryOf s i).state = .free) →
      Completes (.recover h l) s (fun t => ∃ i < 65536, (entryOf s i).state = .free ∧
        ((entryOf t i).state = .handoffIn ∨ (entryOf t i).state = .decode) ∧ (entryOf t i).requestId = l.entry.requestId ∧
        (entryOf t i).composition.val = c % 256 ∧ (entryOf t i).length = l.log.length ∧
        (entryOf t i).ownerEpoch = l.ownerEpoch ∧ (manifestOf t i).history = l.log))) ∧
  (∀ s h k l, EngineTakes s h → h.status = .busy → findRequest s h.requestId = none → findLedger s h.requestId = some k →
    isOwner (ledgerOf s k) h = true → (ledgerOf s k).lstate = .recovering → Effect (.recover h l) s (setLost s k)) ∧
  (∀ s h i r d next rest o bs, AtOwner s h i → readsOf s i = some r → descOf s (entryOf s i).composition.val = some d →
    r.handles = next :: rest → r.asked = true → h.status = .ok → d.layers * pageGranules d * 4096 ≤ bs.length → heldOf s i = [] →
    Completes (.objData h next o (.native bs)) s (fun t => ∀ l < d.layers,
      (pageOf t (pageEntry (manifestOf s i) l r.next).page).state = .sealed_ ∧
      (pageOf t (pageEntry (manifestOf s i) l r.next).page).fill = 64)) ∧
  (∀ s h i x o bs, AtOwner s h i → readsOf s i = none → Effect (.objData h x o (.native bs)) s s) ∧
  (∀ s h i a, AtOwner s h i → admissionOf s i = some a →
    (a.closing = true → heldOf s i = [] → Completes (.closed h) s (fun t => (entryOf t i).state = .free ∧
      Reported t (entryOf s i).tenant.val 1 (entryOf s i).requestId a.tag 6)) ∧
    (a.closing = false → Effect (.closed h) s s)) ∧
  (∀ s h i a n hs, AtOwner s h i → admissionOf s i = some a → (entryOf s i).state = .admitted →
    (a.query = false → Effect (.pfxAnswer h n hs) s s) ∧
    (∀ x, a.query = true → readsOf s i = none → trackOf s i = some x → (h.status ≠ .ok ∨ n = 0) → a.opened = false →
      transferFor s i (· == .objRead) = none → Completes (.pfxAnswer h n hs) s (fun t =>
        admissionOf t i = some { a with query := false } ∧ (entryOf t i).state = .admitted))) ∧
  (∀ s i k x, runs s = true → orphanPassed s i = true → transferFor s i (· == .send) = some k → transferOf s k = some x →
    (x.retryWait = true → Effect (.offerResend i) s
      (sendRst (setTransfer s k (some { x with retryWait := false })) (offerMsg s i k x.append))) ∧
    (x.retryWait = false → Effect (.offerResend i) s s))

/-! ## The twin (18) -/

namespace Sys2Proof

/-- FENCE_REQ for twin `m` (R502, R563). -/
def fenceRequest (s : State) (m q : Nat) : Output :=
  .chain { dest := 0, source := s.plt.chainAddr, cmd := 0x08, seq := q, status := 0, payload := [Config.chainAddress m % 64] }

end Sys2Proof

/-- O38. JOIN is taken by a part that is SOLO or ALONE: what stops the two parts is TWN_STATUS.CAUSE and no more; else the Active is SYNCING,
and the Mirror starts with every mirrored area empty. SUSPEND ends the pair: the Active is ALONE and keeps what it holds, the Mirror is
SOLO and discards its copies. SWITCH begins a role switch of a PAIRED Active, and HANDOVER ends it with the roles exchanged.
JOIN, SUSPEND, SWITCH and HANDOVER complete. -/
def Obligations.TwinsPair : Prop :=
  (∀ s role (p : PeerReport), serves s 14 = true → isAwake s = true →
    (s.twn.state ≠ .solo → s.twn.state ≠ .alone → Effect (.join role p) s s) ∧
    ((s.twn.state = .solo ∨ s.twn.state = .alone) →
      (p.joined = false → Effect (.join role p) s (showDigest s (configDigest s))) ∧
      (∀ cause, p.joined = true → joinRefusal s (askedRole s role) (configDigest s) p = some cause →
        Effect (.join role p) s (putF (showDigest s (configDigest s)) F.twnStatus.cause cause)) ∧
      (p.joined = true → joinRefusal s (askedRole s role) (configDigest s) p = none → askedRole s role = .active →
        Completes (.join role p) s (fun t => t.twn.state = .syncing ∧ t.twn.role = .active ∧ getF t F.twnStatus.cause = 0 ∧
          t.rqt.manifests = s.rqt.manifests ∧ t.xfr.ledgers = s.xfr.ledgers)) ∧
      (p.joined = true → joinRefusal s (askedRole s role) (configDigest s) p = none → askedRole s role = .mirror →
        Completes (.join role p) s (fun t => t.twn.state = .syncing ∧ t.twn.role = .mirror ∧ getF t F.twnStatus.cause = 0 ∧
          (∀ i, (entryOf t i).state = .free) ∧ t.rqt.manifests = [] ∧ t.xfr.ledgers = [] ∧ t.pfx.records = [] ∧ t.stk.pages = [])))) ∧
  (∀ s, serves s 14 = true → isAwake s = true →
    (isPairing s = false → Effect .suspend s s) ∧
    (isPairing s = true → s.twn.role = .active → Completes .suspend s (fun t => t.twn.state = .alone ∧ t.twn.role = .active ∧
      getF t F.twnStatus.cause = 9 ∧ t.rqt.manifests = s.rqt.manifests ∧ t.xfr.ledgers = s.xfr.ledgers ∧ t.stk.pages = s.stk.pages)) ∧
    (isPairing s = true → s.twn.role = .mirror → Completes .suspend s (fun t => t.twn.state = .solo ∧ t.twn.role = .none ∧
      getF t F.twnStatus.cause = 9 ∧ (∀ i, (entryOf t i).state = .free) ∧ t.xfr.ledgers = [] ∧ t.stk.pages = [])) ∧
    (s.twn.role = .active → s.twn.state = .paired → s.twn.phase = 0 → Completes .switch s (fun t =>
      t.twn.state = .paired ∧ t.twn.role = .active ∧ (t.twn.phase = 1 ∨ t.twn.phase = 2 ∧ t.twn.stopped = true))) ∧
    ((s.twn.role ≠ .active ∨ s.twn.state ≠ .paired ∨ s.twn.phase ≠ 0) → Effect .switch s s)) ∧
  (∀ s, runs s = true → s.twn.state = .paired →
    (s.twn.role = .active → handoverReady s = true → Completes .handover s (fun t =>
      t.twn.state = .paired ∧ t.twn.role = .mirror ∧ t.xfr.ledgers = s.xfr.ledgers)) ∧
    (s.twn.role = .active → handoverReady s = false → Effect .handover s s) ∧
    (s.twn.role = .mirror → s.twn.incomplete = [] →
      Completes .handover s (fun t => t.twn.state = .paired ∧ t.twn.role = .active)))

/-- O39. Mirror records take effect at the Mirror in MSEQ order, a whole change at a time; one that is early waits, and one that cannot be
applied stops the acknowledgements. The Active learns from acknowledgements and heartbeats what the Mirror has applied, and SYNCING ends
with the last of the copy. A heartbeat is sent HB_INTERVAL_US of the LMC after the one before.
MIRROR, MIRROR_ACKNOWLEDGEMENT, HEARTBEAT and HEARTBEAT_SEND complete. -/
def Obligations.MirrorsApplyInOrder : Prop :=
  (∀ s (p : RoalePort) b, isReady s = true → mirrorPortUp s p = true → s.twn.role = .mirror → isPairing s = true →
    s.twn.incomplete = [] → s.twn.stopped = false →
    (∀ i m, b = .manifest i m → i < 65536 → Completes (.mirror p [{ mseq := s.twn.applied + 1, last := true, body := b }]) s
      (fun t => t.twn.applied = s.twn.applied + 1 ∧ t.twn.incomplete = [] ∧ manifestOf t i = m ∧
        ∀ j, j ≠ i → manifestOf t j = manifestOf s j)) ∧
    (b = .syncDone → Completes (.mirror p [{ mseq := s.twn.applied + 1, last := true, body := b }]) s
      (fun t => t.twn.applied = s.twn.applied + 1 ∧ t.twn.state = .paired ∧ t.twn.role = .mirror)) ∧
    (recordOk s b = false → Completes (.mirror p [{ mseq := s.twn.applied + 1, last := true, body := b }]) s
      (fun t => t.twn.applied = s.twn.applied ∧ t.twn.stopped = true ∧ getF t F.twnStatus.cause = 6 ∧ t.mem = s.mem ∧
        t.rqt.manifests = s.rqt.manifests)) ∧
    (∀ n last, s.twn.applied + 1 < n → Effect (.mirror p [{ mseq := n, last := last, body := b }]) s
      { s with twn := { s.twn with incomplete := [{ mseq := n, last := last, body := b }] } }) ∧
    (∀ n last, n ≤ s.twn.applied → Effect (.mirror p [{ mseq := n, last := last, body := b }]) s s)) ∧
  (∀ s n, isReady s = true → mirrors s = true →
    (s.twn.copyOut.any (fun e => decide (max s.twn.applied (min n s.twn.sent) < e.1)) = true →
      Completes (.mirrorAcknowledgement n) s (fun t => t.twn.applied = max s.twn.applied (min n s.twn.sent) ∧
        t.twn.state = s.twn.state ∧ t.twn.phase = s.twn.phase)) ∧
    (s.twn.copyOut.all (fun e => decide (e.1 ≤ max s.twn.applied (min n s.twn.sent))) = true → s.twn.state = .syncing →
      Completes (.mirrorAcknowledgement n) s (fun t => t.twn.state = .paired ∧ t.twn.role = .active ∧
        t.twn.applied = max s.twn.applied (min n s.twn.sent))) ∧
    (s.twn.copyOut.all (fun e => decide (e.1 ≤ max s.twn.applied (min n s.twn.sent))) = true → s.twn.state = .paired → s.twn.phase = 1 →
      Completes (.mirrorAcknowledgement n) s (fun t => t.twn.phase = 2 ∧ t.twn.stopped = true ∧ t.twn.state = .paired))) ∧
  (∀ s (p : RoalePort) (m : Member) role st sent n, isReady s = true → mirrorPortUp s p = true → isPairing s = true →
    (s.lnk.twin = some m.val → s.twn.role = .active → role = .mirror → (st = .syncing ∨ st = .paired) →
      Effect (.heartbeat p m role st sent n) s (learnApplied { s with twn := { s.twn with beatHeard := s.plt.lmc } } n)) ∧
    (s.lnk.twin = some m.val → s.twn.role = .mirror →
      Effect (.heartbeat p m role st sent n) s { s with twn := { s.twn with beatHeard := s.plt.lmc } }) ∧
    (s.lnk.twin ≠ some m.val → exec (.heartbeat p m role st sent n) s = .next s)) ∧
  (∀ s, isReady s = true → isPairing s = true → (s.twn.role ≠ .mirror ∨ s.twn.stopped = false) →
    (hasPassed s s.twn.beatSent (getF s F.twnCtl.hbIntervalUs) = true → Effect .heartbeatSend s ((mirrorPorts s).foldl
      (fun t p => enqueue t p (.heartbeat s.twn.role s.twn.state s.twn.sent s.twn.applied))
        { s with twn := { s.twn with beatSent := s.plt.lmc } })) ∧
    (hasPassed s s.twn.beatSent (getF s F.twnCtl.hbIntervalUs) = false → exec .heartbeatSend s = .next s))

/-- O40. The loss of the twin: while SYNCING the Active goes on ALONE and the Mirror leaves; while PAIRED both are FENCING, and the Mirror
asks for the fence at once, the Active after FENCE_WAIT_US; no answer within t_fence is told. Nothing of this while the LMC is held.
HEARTBEAT_LOSS, FENCE_WAIT_EXPIRY and FENCE_TIMEOUT complete. -/
def Obligations.TwinsAreFenced : Prop :=
  (∀ s, isReady s = true → hasPassed s s.twn.beatHeard (getF s F.twnCtl.misses * getF s F.twnCtl.hbIntervalUs) = true →
    (s.twn.state = .syncing → s.twn.role = .active → Completes .heartbeatLoss s (fun t => t.twn.state = .alone ∧ t.twn.role = .active ∧
      getF t F.twnStatus.cause = 8)) ∧
    (s.twn.state = .syncing → s.twn.role = .mirror → Completes .heartbeatLoss s (fun t => t.twn.state = .solo ∧ t.twn.role = .none ∧
      getF t F.twnStatus.cause = 8 ∧ (∀ i, (entryOf t i).state = .free))) ∧
    (s.twn.state = .paired → s.twn.role = .active → Completes .heartbeatLoss s (fun t => t.twn.state = .fencing ∧ t.twn.role = .active ∧
      t.twn.fenceSent = false ∧ getF t F.twnStatus.cause = 8)) ∧
    (∀ m, s.twn.state = .paired → s.twn.role = .mirror → s.lnk.twin = some m → Completes .heartbeatLoss s (fun t =>
      t.twn.state = .fencing ∧ t.twn.role = .mirror ∧ t.twn.fenceSent = true ∧ t.rqt.manifests = s.rqt.manifests ∧
      ∃ q, Sends s t (fenceRequest s m q)))) ∧
  (∀ s m, isReady s = true → s.twn.state = .fencing → s.twn.role = .active → s.twn.fenceSent = false → s.lnk.twin = some m →
    hasPassed s s.twn.fenceLmc (getF s F.twnCtl.fenceWaitUs) = true → Completes .fenceWaitExpiry s (fun t => t.twn.state = .fencing ∧
      t.twn.fenceSent = true ∧
      ∃ q, Sends s t (fenceRequest s m q))) ∧
  (∀ s, isReady s = true → s.twn.state = .fencing → s.twn.fenceSent = true →
    hasPassed s s.twn.fenceLmc 700 = true → Effect .fenceTimeout s (notify (putF s F.twnStatus.cause 7) F.twnCtl.notifyEnable F.twnCtl.vector)) ∧
  (∀ s, (isPairing s = false ∨ lmcRuns s = false) → exec .heartbeatLoss s = .next s) ∧
  (∀ s, (s.twn.state ≠ .fencing ∨ lmcRuns s = false) → exec .fenceTimeout s = .next s ∧ exec .fenceWaitExpiry s = .next s)

/-! ## Umber and Slate (17) -/

/-- O41. DISCARD unmaps its range where no object lies in it, and nothing else; it is refused before Umber is READY and over an object's
units. FLS_LOCK identifies the NAND once: the rebuild starts, or Umber fails with the cause of R466 and R473; the rebuild ends in READY
with the map of R486. Collection and folding move pages and leave every unit mapped that was, whatever programs fail, and erase a block
that holds nothing more to keep. A scrub of Slate counts what it corrected and records the first line that it could not.
DISCARD, FLS_LOCK, REBUILD_COMPLETE, GC_COLLECT, FOLD and SLATE_SCRUB complete. -/
def Obligations.FlashAndSlate : Prop :=
  (∀ s f, serves s 13 = true → isAwake s = true →
    (s.fls.state ≠ .ready → Effect (.discard f) s (putF s F.flsCmd.status 3)) ∧
    (s.fls.state = .ready → meetsObject s none (getF s F.flsDiscardFirst.first) (getF s F.flsDiscardUnits.units) = true →
      Effect (.discard f) s (putF s F.flsCmd.status 2)) ∧
    (s.fls.state = .ready → meetsObject s none (getF s F.flsDiscardFirst.first) (getF s F.flsDiscardUnits.units) = false →
      Completes (.discard f) s (fun t => getF t F.flsCmd.status = 0 ∧ t.fls.state = .ready ∧
        (∀ u, (mapOf t u).isSome = (if getF s F.flsDiscardFirst.first ≤ u ∧
          u < getF s F.flsDiscardFirst.first + getF s F.flsDiscardUnits.units then false else (mapOf s u).isSome)) ∧
        (f.programFails = [] → ∀ u, mapOf t u = (if getF s F.flsDiscardFirst.first ≤ u ∧
          u < getF s F.flsDiscardFirst.first + getF s F.flsDiscardUnits.units then none else mapOf s u))))) ∧
  (∀ s nand, serves s 13 = true → isAwake s = true →
    (isSet s F.flsCtl.flsLock = true → exec (.flsLock nand) s = .next s) ∧
    (isSet s F.flsCtl.flsLock = false → Completes (.flsLock nand) s (fun t => isSet t F.flsCtl.flsLock = true ∧ t.fls.nand = some nand ∧
      t.fls.blocks = s.fls.blocks ∧
      let u : State := { s with fls := { s.fls with nand := some nand } }
      (nand.supported = false → t.fls.state = .failed ∧ t.fls.cause = 2) ∧
      (nand.supported = true → getF s F.sltCtl.privateGib < privateNeeded u → t.fls.state = .failed ∧ t.fls.cause = 1) ∧
      (nand.supported = true → privateNeeded u ≤ getF s F.sltCtl.privateGib → mapLimit u < getF s F.flsLogical.logicalUnits →
        t.fls.state = .failed ∧ t.fls.cause = 3) ∧
      (nand.supported = true → privateNeeded u ≤ getF s F.sltCtl.privateGib → getF s F.flsLogical.logicalUnits ≤ mapLimit u →
        t.fls.state = .scanning ∧ t.fls.cause = 0 ∧ t.fls.scanStart = s.plt.lmc)))) ∧
  (∀ s, isReady s = true → s.fls.state = .scanning → s.stk.objWaiting = [] → Completes .rebuildComplete s (fun t =>
    t.fls.state = .ready ∧ t.fls.map = rebuiltMap s ∧ t.fls.sequence = highestSeq s + 1)) ∧
  (∀ s f, runs s = true → s.fls.state = .ready →
    Completes (.gcCollect f) s (fun t => ∀ u, (mapOf t u).isSome = (mapOf s u).isSome) ∧
    Completes (.fold f) s (fun t => ∀ u, (mapOf t u).isSome = (mapOf s u).isSome) ∧
    (∀ b, gcMode s ≠ 0 → victim s = some b → keptPages s b = [] →
      Completes (.gcCollect {}) s (fun t => flashBlock t b = {} ∧ t.fls.map = s.fls.map)) ∧
    (getF s F.flsGcCfg.slcMinPm * goodBlocks s < 1000 * oneBitBlocks s →
      tabKeys s.fls.blocks (fun b => b.oneBit && b.closed && !b.retired) ≠ [] →
      (∀ b ∈ tabKeys s.fls.blocks (fun b => b.oneBit && b.closed && !b.retired), keptPages s b = []) →
      Completes (.fold {}) s (fun t => t.fls.map = s.fls.map ∧
        ∃ b ∈ tabKeys s.fls.blocks (fun b => b.oneBit && b.closed && !b.retired), flashBlock t b = {}))) ∧
  (∀ s n, runs s = true → scrubDue s = true →
    Effect (.slateScrub n []) s (satAddF { s with fls := { s.fls with slateScrubbed := s.plt.lmc } } F.sltEccStats.corrected n) ∧
    (∀ a l, isSet s F.sltErr.valid = false → Completes (.slateScrub n (a :: l)) s (fun t =>
      isSet t F.sltErr.valid = true ∧ getF t F.sltErrAddr.address = a % 2 ^ F.sltErrAddr.address.width ∧
      getF t F.sltErr.channel = channelOf s a % 2 ^ F.sltErr.channel.width)))

/-! ## Registers and doorbells (02, 08, 22) -/

/-- O42. Registers: a write of a field that is read-only, or locked, leaves it; ones written clear a write-one-to-clear field; another field
takes the value. LOCK_SET sets the lock bit of a block that the part serves. RQT_T_CTL.ENABLE restarts the tenant's queues, and is not
cleared while the tenant holds an entry. A port that is UP retrains at a write of its configuration. A clear mask bit sends a vector's
pending message. A write that covers a WO field acts as the command that the field names (log entry 95).
REGISTER_WRITE, LOCK_SET, RQT_T_CTL_ENABLE, PORT_CFG_WRITE and VECTOR_UNMASK complete. -/
def Obligations.RegistersTakeWrites : Prop :=
  (∀ s (f : Field) v, f.lo + f.width ≤ 64 → v < 2 ^ 64 → getF s f < 2 ^ f.width → fieldInUse s f = false →
    (f.access = .ro → writeField (2 ^ 64 - 1) v s f = s) ∧
    (f.access = .rw1c → getF (writeField (2 ^ 64 - 1) v s f) f = getF s f - (getF s f &&& (v / 2 ^ f.lo % 2 ^ f.width))) ∧
    (f.access = .rwl → isLocked s (blockOf f.off) = true → writeField (2 ^ 64 - 1) v s f = s) ∧
    (f.width ≠ 0 → f.access = .rw → f.valid = .all → getF (writeField (2 ^ 64 - 1) v s f) f = v / 2 ^ f.lo % 2 ^ f.width) ∧
    (∀ g : Field, g.key ≠ f.key → f.access ≠ .rwl → f.access ≠ .rw → getF (writeField (2 ^ 64 - 1) v s f) g = getF s g)) ∧
  (∀ s (v : BitVec 64),
    (∀ off width, s.plt.mainRails = true → (0x04000000 ≤ off ∨ (width ≠ 4 ∧ width ≠ 8) ∨ off % width ≠ 0) →
      Effect (.registerWrite off width v) s (unsupported s)) ∧
    (∀ off width, s.plt.mainRails = true → off < 0x03000000 → (width = 4 ∨ width = 8) → off % width = 0 → serves s (blockOf off) = false →
      Effect (.registerWrite off width v) s s) ∧
    (∀ off, s.plt.mainRails = true → off < 0x03000000 → off % 8 = 0 → serves s (blockOf off) = true →
      registerCommand (writeRegister s off (2 ^ 64 - 1) v.toNat) off v.toNat = none →
      Effect (.registerWrite off 8 v) s (writeRegister s off (2 ^ 64 - 1) v.toNat)) ∧
    (∀ off run, s.plt.mainRails = true → off < 0x03000000 → off % 8 = 0 → serves s (blockOf off) = true →
      registerCommand (writeRegister s off (2 ^ 64 - 1) v.toNat) off v.toNat = some run →
      exec (.registerWrite off 8 v) s = run (finish s (writeRegister s off (2 ^ 64 - 1) v.toNat)))) ∧
  (∀ s b, serves s (lockBlockNo b) = true → Completes (.lockSet b) s (fun t => isSet t (lockOf b) = true ∧
    ∀ f : Field, f.key ≠ (lockOf b).key → quietField f = true → getF t f = getF s f)) ∧
  (∀ s b, serves s (lockBlockNo b) = false → exec (.lockSet b) s = .next s) ∧
  (∀ s (tn : Tenant) (v : BitVec 64), serves s 5 = true →
    (v.getLsbD 0 = true → isSet s (F.rqtTCtl.enable.at tn.val) = false → Completes (.rqtTCtlEnable tn v) s (fun t =>
      isSet t (F.rqtTCtl.enable.at tn.val) = true ∧ (queuesOf t tn.val).sqTail = 0 ∧ (queuesOf t tn.val).sqHead = 0)) ∧
    (v.getLsbD 0 = false → isSet s (F.rqtTCtl.enable.at tn.val) = true →
      s.rqt.entries.any (fun e => e.2.state != .free && e.2.tenant.val == tn.val) = true → Completes (.rqtTCtlEnable tn v) s (fun t =>
        isSet t (F.rqtTCtl.enable.at tn.val) = true)) ∧
    (v.getLsbD 0 = false → s.rqt.entries.any (fun e => e.2.state != .free && e.2.tenant.val == tn.val) = false →
      Completes (.rqtTCtlEnable tn v) s (fun t => isSet t (F.rqtTCtl.enable.at tn.val) = false))) ∧
  (∀ s (p : RoalePort) v, serves s 10 = true → (portOf s p.val).state = .up → Completes (.portCfgWrite p v) s (fun t =>
    (portOf t p.val).state = .training)) ∧
  (∀ s (k : Fin 4160), s.plt.mainRails = true → Completes (.vectorUnmask k) s (fun t =>
    (tabGet {} t.pcie.table k.val).masked = false ∧
    (tabGet false s.pcie.pending k.val = true → hostOff s = false → s.pcie.msixEnable = true → s.pcie.functionMask = false →
      (k.val < 2048 ∨ isSet s F.pltPcieCtl.vectorExt = true) → Sends s t (.msix k.val))))

/-- O43. Doorbells: a tail or a head within the queue is taken and what waited for room is written; one outside is ignored and recorded as
the first doorbell fault; one of a tenant that is not enabled does nothing; in Charcoal a doorbell waits, and wakes the part.
SQ_TAIL, CQ_HEAD, TR_HEAD, STK_OBJ_SQ_TAIL and STK_OBJ_CQ_HEAD complete. -/
def Obligations.DoorbellsRing : Prop :=
  (∀ s (tn : Tenant) v, isReady s = true → isAwake s = true →
    (tenantOn s tn.val = false →
      Effect (.sqTail tn v) s s ∧ Effect (.cqHead tn v) s s ∧ Effect (.trHead tn v) s s) ∧
    (tenantOn s tn.val = true →
      (v % 2 ^ 16 < sqSlots s tn.val → Effect (.sqTail tn v) s (setQueues s tn.val { queuesOf s tn.val with sqTail := v % 2 ^ 16 })) ∧
      (sqSlots s tn.val ≤ v % 2 ^ 16 → Effect (.sqTail tn v) s (doorbellFault s tn.val 0)) ∧
      (v % 2 ^ 16 < cqSlots s tn.val →
        passesTail (cqSlots s tn.val) (queuesOf s tn.val).cqHead (queuesOf s tn.val).cqTail (v % 2 ^ 16) = false →
        Effect (.cqHead tn v) s (flushTenant (setQueues s tn.val { queuesOf s tn.val with cqHead := v % 2 ^ 16 }) tn.val)) ∧
      ((cqSlots s tn.val ≤ v % 2 ^ 16 ∨
          passesTail (cqSlots s tn.val) (queuesOf s tn.val).cqHead (queuesOf s tn.val).cqTail (v % 2 ^ 16) = true) →
        Effect (.cqHead tn v) s (doorbellFault s tn.val 1)) ∧
      (v % 2 ^ 20 < trSlots s tn.val →
        passesTail (trSlots s tn.val) (queuesOf s tn.val).trHead (queuesOf s tn.val).trTail (v % 2 ^ 20) = false →
        Effect (.trHead tn v) s (flushTenant (setQueues s tn.val { queuesOf s tn.val with trHead := v % 2 ^ 20 }) tn.val)) ∧
      ((trSlots s tn.val ≤ v % 2 ^ 20 ∨
          passesTail (trSlots s tn.val) (queuesOf s tn.val).trHead (queuesOf s tn.val).trTail (v % 2 ^ 20) = true) →
        Effect (.trHead tn v) s (doorbellFault s tn.val 2)))) ∧
  (∀ s (tn : Tenant) v, isReady s = true → s.pwr.state = .charcoal →
    (getF s F.pwrWake.sources).testBit 0 = true →
    (∀ c, (c = .sqTail tn v ∨ c = .cqHead tn v ∨ c = .trHead tn v) → Completes c s (fun t =>
      t.pwr.state = .leaving ∧ t.pwr.exitGrey = false ∧ t.pwr.held = s.pwr.held ++ [c] ∧ t.rqt = s.rqt ∧ t.stk = s.stk ∧
      t.mem = s.mem))) ∧
  (∀ s v, serves s 4 = true →
    (v % 2 ^ 16 < objSqSlots s → Completes (.stkObjSqTail v) s (fun t =>
      getF t F.stkObjSqTail.tail = v % 2 ^ 16 ∧ t.stk.sqTaken = true ∧ t.stk.odt = s.stk.odt)) ∧
    (objSqSlots s ≤ v % 2 ^ 16 → Effect (.stkObjSqTail v) s (doorbellFault s 0 3)) ∧
    (v % 2 ^ 16 < objCqSlots s → passesTail (objCqSlots s) (getF s F.stkObjCqHead.head) s.stk.objCqTail (v % 2 ^ 16) = false →
      Effect (.stkObjCqHead v) s (flushObj s.stk.objOut.length (putF s F.stkObjCqHead.head (v % 2 ^ 16)))) ∧
    ((objCqSlots s ≤ v % 2 ^ 16 ∨ passesTail (objCqSlots s) (getF s F.stkObjCqHead.head) s.stk.objCqTail (v % 2 ^ 16) = true) →
      Effect (.stkObjCqHead v) s (doorbellFault s 0 4))) ∧
  (∀ s n r, n < 4096 → r < 8 →
    (isSet s F.pltPcieDbFault.valid = false →
      isSet (doorbellFault s n r) F.pltPcieDbFault.valid = true ∧ getF (doorbellFault s n r) F.pltPcieDbFault.tenant = n ∧
      getF (doorbellFault s n r) F.pltPcieDbFault.register = r) ∧
    (isSet s F.pltPcieDbFault.valid = true → doorbellFault s n r = putF s F.pltPcieDbFault.overflow 1))

/-! ## The host link (22) -/

/-- O44. The link: its loss fails every outstanding read of host memory, and its return shows what was trained and is signalled after a
loss. Bus Master Enable and D3hot stand as the host set them. A configuration request is retried until the start has reached its step 6.
A poisoned write and a fatal condition are reported; a host read that fails ends the command that needed it with READ_FAULT.
DL_UP_LOSS, DL_UP_RETURN, BUS_MASTER_ENABLE, CONFIGURATION_REQUEST, POISONED_WRITE, MALFORMED_TLP, HOST_READ_COMPLETION,
ETHERNET_PORT_UP and ETHERNET_PORT_DOWN complete. -/
def Obligations.HostLinkActs : Prop :=
  (∀ s, s.plt.mainRails = true → isSet s F.pltPcieLink.dlUp = true →
    Effect .dlUpLoss s (failReads (satF (putF { s with pcie := { s.pcie with linkDownPending := true } } F.pltPcieLink.dlUp 0)
      F.pltPcieLink.linkDowns))) ∧
  (∀ s, s.plt.mainRails = true → isSet s F.pltPcieLink.dlUp = true → getF s F.pltAttest.status ≠ 1 → getF s F.pltWrapCtl.status ≠ 1 →
    s.stk.odt = [] → s.rqt.restores = [] → Completes .dlUpLoss s (fun t => isSet t F.pltPcieLink.dlUp = false ∧
      t.pcie.linkDownPending = true ∧ t.pcie.busMaster = s.pcie.busMaster)) ∧
  (∀ s sp w fl, s.plt.mainRails = true → sp < 2 ^ F.pltPcieLink.speed.width → w < 2 ^ F.pltPcieLink.width.width →
    Completes (.dlUpReturn sp w fl) s (fun t => isSet t F.pltPcieLink.dlUp = true ∧ getF t F.pltPcieLink.speed = sp ∧
      getF t F.pltPcieLink.width = w ∧ getF t F.pltPcieLink.flit = boolCode fl ∧ t.pcie.linkDownPending = false)) ∧
  (∀ s en d3, s.plt.mainRails = true → Completes (.busMasterEnable en d3) s (fun t => t.pcie.busMaster = en ∧ t.pcie.d3hot = d3 ∧
    t.pcie.msixEnable = s.pcie.msixEnable)) ∧
  (∀ s, s.plt.mainRails = true →
    (∀ a, s.plt.starting.isSome = true → Effect (.configurationRequest a) s (emit s .configRetry)) ∧
    (s.plt.starting = none →
      (∀ off, Effect (.configurationRequest (.read off)) s (emit s (.configData (configDword s (off / 4 * 4))))) ∧
      Effect (.configurationRequest (.read 0)) s (emit s (.configData 0x64001F5C)) ∧
      (∀ en fm, Completes (.configurationRequest (.msix en fm)) s (fun t => t.pcie.msixEnable = en ∧ t.pcie.functionMask = fm ∧
        t.pcie.busMaster = s.pcie.busMaster)) ∧
      (∀ n, 36 ≤ n → n ≤ 41 → Effect (.configurationRequest (.bar4Size n)) s { s with pcie := { s.pcie with bar4Log2 := n } }) ∧
      (∀ n, (n < 36 ∨ 41 < n) → Effect (.configurationRequest (.bar4Size n)) s s))) ∧
  (∀ s, s.plt.mainRails = true →
    (∀ b, (b = Bar.bar0 ∨ b = Bar.bar2 ∨ b = Bar.bar4) →
      Effect (.poisonedWrite b) s (emit (satF s F.pltPcieErr.poisonedIn) (.aer 12))) ∧
    (∀ k, Completes (.malformedTlp k) s (fun t => t.pcie.fatal = true ∧ Sends s t (.aer (fatalCode k))))) ∧
  (∀ s (tn : Tenant) op id tag, isReady s = true → canRead s tn.val = true →
    Completes (.hostReadCompletion (.command tn op id tag) .poisoned) s
    (fun t => Reported t tn.val op id tag 15 ∧ isSet t F.rqtCmdFault.valid = true ∧
      (isSet s F.rqtCmdFault.valid = false → getF t F.rqtCmdFault.status = 15 ∧ getF t F.rqtCmdFault.tenant = tn.val) ∧
      t.rqt.manifests = s.rqt.manifests)) ∧
  (∀ s bs, isReady s = true → (∀ tn op id tag, Effect (.hostReadCompletion (.command tn op id tag) (.data bs)) s s) ∧
    (∀ h, Effect (.hostReadCompletion (.object h) (.data bs)) s s) ∧ (∀ i, Effect (.hostReadCompletion (.restore i) (.data bs)) s s)) ∧
  (∀ s (p : EthPort) r, s.plt.mainRails = true →
    ((r = 400 ∨ r = 800) → Effect (.ethernetPortUp p r) s { s with lnk := { s.lnk with ethUp := tabPut 0 s.lnk.ethUp p.val (r * 125) } }) ∧
    Effect (.ethernetPortDown p) s { s with lnk := { s.lnk with ethUp := tabPut 0 s.lnk.ethUp p.val 0 } })

/-! ## Memory as BAR 4 and the tray reach it (05, 15) -/

namespace Sys2Proof

/-- Nothing is under way at the home of line `l`, and no cache holds it. -/
def LineStill (s : State) (l : Nat) : Prop :=
  (homeLine s l).busy = none ∧ (homeLine s l).queue = [] ∧ (homeLine s l).poisoned = false ∧ (homeLine s l).state = .uncached ∧
  modifiedCopy s l = none

/-- A line has at most one Modified copy, in the cache of the owner that its home records, with all 128 bytes (R437). -/
def OneOwner (s : State) (l : Nat) : Prop :=
  ∀ e ∈ s.coh.lines, e.1 % 2 ^ 41 = l → e.2.state = .modified →
    (homeLine s l).state = .owned ∧ cacheLine s (homeLine s l).owner l = e.2 ∧ e.2.data.length = 128

/-- Every byte of Ochre and Slate reads the same. -/
def SameBytes (s t : State) : Prop := ∀ a, memByte t a = memByte s a

/-- The bytes `bs` stand at `x` and on, and every other byte reads as before. -/
def StoredAt (s t : State) (x : Nat) (bs : List Byte) : Prop :=
  ∀ a, memByte t a = if x ≤ a ∧ a < x + bs.length then (bs[a - x]?).getD 0 else memByte s a

/-- Operation, operand and data of a row that is a MEM_REQ frame. -/
def reqOf : Instr → Option (FrameHeader × MemOp × Nat × List Byte)
  | .memReqLoad f => some (f, .load, 0, [])
  | .memReqStore f d => some (f, .store, 0, d)
  | .memReqAdd f x => some (f, .add, x, [])
  | .memReqMinS f x => some (f, .minS, x, [])
  | .memReqMinU f x => some (f, .minU, x, [])
  | .memReqMaxS f x => some (f, .maxS, x, [])
  | .memReqMaxU f x => some (f, .maxU, x, [])
  | .memReqSwap f x => some (f, .swap, x, [])
  | .memReqCas f x w => some (f, .cas, x, leBytes 8 w)
  | _ => none

/-- The part takes the frame now: it is READY, awake, in service, and the frame is whole, for it, and from an ENROLLED member. -/
def FrameTaken (s : State) (f : FrameHeader) : Prop :=
  isReady s = true ∧ isAwake s = true ∧ f.dest.val = s.lnk.member ∧ acceptsFrame s f = true ∧ s.plt.departing = none ∧
  f.poisoned = false

/-- The access of a frame at its target in `u`, with its barrier dropped and its reply on its way (R426, R429, R431). -/
def frameAnswered (u : State) (f : FrameHeader) (op : MemOp) (x : Nat) (d : List Byte) : State :=
  let m := memAccess u op f.size f.address x d
  replyFrame (setBarrier m.2.2 f.source.val f.tag.region.val none) f (.memRsp f.source.val f.tag m.1 m.2.1)

/-- No retry barrier of the sender's region keeps the frame out (R429). -/
def notBarred (s : State) (f : FrameHeader) : Prop :=
  barrierOf s f.source.val f.tag.region.val = none ∨ barrierOf s f.source.val f.tag.region.val = some f.tag.slot.val

end Sys2Proof

/-- O45. BAR 4: a read answers the bytes of Ochre and changes none; a write stores its bytes and no other; a write that meets a protected
granule is recorded and stores nothing; an access outside is Unsupported; in Charcoal an access waits, and wakes the part. Once STK_LOCK is
set the tables of the part read as the bytes of their entries, the ODT among them (log entry 96). BAR4_READ and BAR4_WRITE complete. -/
def Obligations.BarFourReachesOchre : Prop :=
  (∀ s x n, isReady s = true → isAwake s = true →
    (inBar4 s x n = true → Completes (.bar4Read x n) s (fun t =>
      Sends s t (.readData ((List.range n).map (fun i => bar4Byte s (x + i)))) ∧ t.stk.odt = s.stk.odt ∧
      ((∀ l ∈ linesOf x n, OneOwner s l) → SameBytes s t))) ∧
    (inBar4 s x n = false → Effect (.bar4Read x n) s (unsupported s)) ∧
    (∀ a, isHidden s a = true → bar4Byte s a = 0) ∧
    (∀ a, isHidden s a = false → (homeLine s (a / 128)).poisoned = false → bar4Byte s a = readByte s a) ∧
    (∀ a, isSet s F.stkObjCtl.stkLock = false → readByte s a = memByte s a) ∧
    (∀ i o, isSet s F.stkObjCtl.stkLock = true → i < 2 ^ 20 → o < 64 →
      readByte s (getF s F.stkOchreCfg.odtBase * 2 ^ 26 + (64 * i + o)) = ((odtBytes (odtOf s i))[o]?).getD 0)) ∧
  (∀ s x bs, isReady s = true → isAwake s = true →
    (inBar4 s x bs.length = true → writeRefused s x bs.length = false → (∀ l ∈ linesOf x bs.length, LineStill s l) →
      Completes (.bar4Write x bs) s (fun t => StoredAt s t x bs ∧ t.stk.odt = s.stk.odt ∧ t.stk.wp = s.stk.wp)) ∧
    (inBar4 s x bs.length = true → writeRefused s x bs.length = true →
      Completes (.bar4Write x bs) s (fun t => SameBytes s t ∧ isSet t F.stkWpViolation.valid = true ∧
        (isSet s F.stkWpViolation.valid = false →
          getF t F.stkWpViolation.granule = x / 4096 % 2 ^ F.stkWpViolation.granule.width))) ∧
    (inBar4 s x bs.length = false → Effect (.bar4Write x bs) s (unsupported s))) ∧
  (∀ s x n bs, isReady s = true → s.pwr.state = .charcoal →
    ∀ c, (c = .bar4Read x n ∨ c = .bar4Write x bs) → Completes c s (fun t =>
      t.pwr.state = .leaving ∧ t.pwr.exitGrey = false ∧ t.pwr.held = s.pwr.held ++ [c] ∧ t.mem = s.mem ∧ t.coh = s.coh ∧
      t.stk = s.stk))

/-- O46. An access by an agent without a cache: outside Ochre, or a load outside Slate, it is ADDRESS_ERROR; a store into a protected granule
is WRITE_PROTECTED; a POISONED line that is not overwritten whole is POISONED; else a store stores its bytes, an atomic its result and
returns the old value, a load returns the bytes, and every other byte reads as before. -/
def Obligations.AccessesReachMemory : Prop :=
  ∀ s op n a x (d : List Byte),
    (inOchre s a n = false → (op ≠ .load ∨ inSlate s a n = false) → memAccess s op n a x d = (.addressError, [], s)) ∧
    (inOchre s a n = true → op ≠ .load → writeRefused s a n = true → memAccess s op n a x d = (.writeProtected, [], s)) ∧
    ((inOchre s a n = true ∧ writeRefused s a n = false ∨ op = .load ∧ inSlate s a n = true) → meetsPoison s (op == .store) a n = true →
      memAccess s op n a x d = (.poisoned, [], s)) ∧
    ((inOchre s a n = true ∨ inSlate s a n = true) → op = .load → meetsPoison s false a n = false → meetsBusy s a n = false →
      (memAccess s op n a x d).1 = .ok ∧ (memAccess s op n a x d).2.1 = readBytes s a n ∧
      ((∀ l ∈ linesOf a n, OneOwner s l) → SameBytes s (memAccess s op n a x d).2.2)) ∧
    (inOchre s a n = true → op = .store → writeRefused s a n = false → meetsPoison s true a n = false → meetsBusy s a n = false →
      (memAccess s op n a x d).1 = .ok ∧ (memAccess s op n a x d).2.1 = [] ∧ StoredAt s (memAccess s op n a x d).2.2 a (d.take n)) ∧
    (inOchre s a n = true → op ≠ .store → op ≠ .load → writeRefused s a n = false → meetsPoison s false a n = false →
      meetsBusy s a n = false →
      (memAccess s op n a x d).1 = .ok ∧ (memAccess s op n a x d).2.1 = leBytes n (leNat (memBytes s a n)) ∧
      StoredAt s (memAccess s op n a x d).2.2 a (leBytes n (atomicResult op n (leNat (memBytes s a n)) x (leNat d))))

/-- O47. A MEM_REQ frame that the part takes has the effect of its access at ADDRESS and is answered with its status; a frame that the
policers turn away, or that a retry barrier keeps out, is answered RETRY and changes no memory. A frame from a member that is not ENROLLED
is counted alone; a departing part answers DEPARTED, and a poisoned frame is answered POISONED; in Charcoal a frame waits. A coded block
is decoded and stored at its place. MEM_REQ LOAD, STORE, ADD, MIN_S, MIN_U, MAX_S, MAX_U, SWAP and CAS and TENSOR complete. -/
def Obligations.FramesReachMemory : Prop :=
  (∀ f s u, FrameTaken s f → notBarred u f → meetsBusy u f.address f.size = false →
    (∀ d, police s (roalePort f.port.val) 5 f.tenant.val (36 + d.length) 0 = (true, u) →
      Effect (.memReqStore f d) s (frameAnswered u f .store 0 d)) ∧
    (∀ x w, police s (roalePort f.port.val) 5 f.tenant.val 44 0 = (true, u) →
      Effect (.memReqCas f x w) s (frameAnswered u f .cas x (leBytes 8 w))) ∧
    (police s (roalePort f.port.val) 5 f.tenant.val 36 0 = (true, u) →
      Effect (.memReqLoad f) s (frameAnswered u f .load 0 []) ∧
      (∀ x, Effect (.memReqAdd f x) s (frameAnswered u f .add x [])) ∧
      (∀ x, Effect (.memReqMinS f x) s (frameAnswered u f .minS x [])) ∧
      (∀ x, Effect (.memReqMinU f x) s (frameAnswered u f .minU x [])) ∧
      (∀ x, Effect (.memReqMaxS f x) s (frameAnswered u f .maxS x [])) ∧
      (∀ x, Effect (.memReqMaxU f x) s (frameAnswered u f .maxU x [])) ∧
      (∀ x, Effect (.memReqSwap f x) s (frameAnswered u f .swap x [])))) ∧
  (∀ c f op x d s, reqOf c = some (f, op, x, d) → FrameTaken s f → ∀ ok u,
    police s (roalePort f.port.val) 5 f.tenant.val (36 + d.length) 0 = (ok, u) →
    (notBarred u f → ok = false → Effect c s (replyFrame (setBarrier u f.source.val f.tag.region.val (some f.tag.slot.val)) f
        (.memRsp f.source.val f.tag .retry []))) ∧
    (¬ notBarred u f → Effect c s (replyFrame u f (.memRsp f.source.val f.tag .retry [])))) ∧
  (∀ c f op x d s, reqOf c = some (f, op, x, d) → isReady s = true → isAwake s = true → f.dest.val = s.lnk.member →
    (acceptsFrame s f = false → Effect c s (satF s F.lnkStats.unenrolled)) ∧
    (acceptsFrame s f = true → s.plt.departing ≠ none → Effect c s (replyFrame s f (.memRsp f.source.val f.tag .departed []))) ∧
    (acceptsFrame s f = true → s.plt.departing = none → f.poisoned = true →
      Effect c s (replyFrame s f (.memRsp f.source.val f.tag .poisoned [])))) ∧
  (∀ c f op x d s, reqOf c = some (f, op, x, d) → isReady s = true → isAwake s = false → f.dest.val = s.lnk.member →
    acceptsFrame s f = true → Completes c s (fun t => t.pwr.held = s.pwr.held ++ [c] ∧ t.mem = s.mem ∧ t.coh = s.coh ∧
      (s.pwr.state = .charcoal → (getF s F.pwrWake.sources).testBit 2 = true → t.pwr.state = .leaving))) ∧
  (∀ f i total blk s bs u, FrameTaken s f → police s (roalePort f.port.val) 6 f.tenant.val (44 + blk.stageASize) 0 = (true, u) →
    notBarred u f → decodeBlock u blk = .ok bs → (memAccess u .store bs.length (f.address + 4096 * i) 0 bs).1 ≠ .retry →
    Effect (.tensor f i total blk) s (replyFrame
      (setBarrier (memAccess u .store bs.length (f.address + 4096 * i) 0 bs).2.2 f.source.val f.tag.region.val none) f
      (.tensorAck f.source.val f.tag i (memAccess u .store bs.length (f.address + 4096 * i) 0 bs).1)))

/-! ## Links, and the threads that use them (15, 16) -/

/-- O48. Ports: a port that trains is UP with HELLO on it; HELLO decides UP, FOREIGN or MISMATCH; a port that leaves UP is signalled. A frame
for another member passes where FORWARD is set, on the port of the member's mask that its issuer's number names. A departing member is
DEPARTING, with no barrier left. The egress takes queue 0 first. A region answers a write by its state, and one that ends DEPARTED abandons
the unit of the region whose thread wrote. PORT_UP, PORT_DOWN, HELLO, CTRL_DEPART, FRAME_FORWARD, RETRY_BARRIER_TIMEOUT,
EGRESS_FRAME_START and REGION_ACCESS complete. -/
def Obligations.PortsTrainAndForward : Prop :=
  (∀ s (p : RoalePort), s.plt.mainRails = true →
    (getF s (F.lnkPortCfg.mode.at p.val) ≠ 0 → (portOf s p.val).state ≠ .up → Completes (.portUp p) s (fun t =>
      portOf t p.val = { state := .up, mode := getF s (F.lnkPortCfg.mode.at p.val), neighbour := 16 } ∧
      (∀ k, k ≠ p.val → portOf t k = portOf s k))) ∧
    ((portOf s p.val).state = .up → s.lnk.ops = [] → Effect (.portDown p) s
      (notify (setPort s p.val { portOf s p.val with state := .down, neighbour := 0 }) F.lnkCtl.notifyEnable F.lnkCtl.vector)) ∧
    ((portOf s p.val).state ≠ .up → Effect (.portDown p) s (setPort s p.val { portOf s p.val with state := .down, neighbour := 0 }))) ∧
  (∀ s (p : RoalePort) tray (m : Member) tw, s.plt.mainRails = true → (portOf s p.val).state ≠ .down →
    (portOf s p.val).state ≠ .training →
    ((tray ≠ s.lnk.trayId ∨ memberOf s m.val ≠ .enrolled) → Completes (.hello p tray m tw) s (fun t =>
      (portOf t p.val).state = .foreign)) ∧
    (tray = s.lnk.trayId → memberOf s m.val = .enrolled → (portOf s p.val).mode = 2 → (s.lnk.twin ≠ some m.val ∨ tw ≠ s.lnk.member) →
      Completes (.hello p tray m tw) s (fun t => (portOf t p.val).state = .mismatch)) ∧
    (tray = s.lnk.trayId → memberOf s m.val = .enrolled → ((portOf s p.val).mode ≠ 2 ∨ s.lnk.twin = some m.val ∧ tw = s.lnk.member) →
      Effect (.hello p tray m tw) s (setPort s p.val { portOf s p.val with state := .up, neighbour := m.val }))) ∧
  (∀ s (p : RoalePort) (m : Member), s.plt.mainRails = true → (portOf s p.val).state ≠ .down →
    (memberOf s m.val = .enrolled → Completes (.ctrlDepart p m) s (fun t => memberOf t m.val = .departing ∧
      (∀ r < 64, barrierOf t m.val r = none) ∧ ∀ k, k ≠ m.val → memberOf t k = memberOf s k)) ∧
    (memberOf s m.val ≠ .enrolled → Effect (.ctrlDepart p m) s s)) ∧
  (∀ s (p : PortNo) (m : Member) n cl k w, isReady s = true → p.val < 12 → m.val ≠ s.lnk.member → (portOf s p.val).state = .up →
    s.plt.departing = none → isSet s (F.lnkPortCfg.forward.at p.val) = true →
    regionPort s m.val (w.getD 0) = some k →
    ((portOf s k).state = .up → (portOf s k).neighbour = m.val →
      Effect (.frameForward p m n cl w) s (enqueue s (roalePort k) (.forwarded m.val n cl.val))) ∧
    ((portOf s k).state ≠ .up ∨ (portOf s k).neighbour ≠ m.val → Effect (.frameForward p m n cl w) s s)) ∧
  (∀ s (m : Member) (r : RegionNo), isReady s = true → Effect (.retryBarrierTimeout m r) s (setBarrier s m.val r.val none)) ∧
  (∀ s (p : PortNo), isReady s = true → 
    exec (.egressFrameStart p) s =
      .next (leaveEncode (retryFrames (startFrame (retryFrames s p.val) p) p.val) p.val) ∧
    (portIsUp s p.val = false → startFrame s p = s) ∧
    (portIsUp s p.val = true → (queueOf s p.val 0).isEmpty = false → rateAllows s p.val 0 = true → startFrame s p = sendHead s p 0)) ∧
  (∀ s (r : RegionNo) off bs w la, runs s = true →
    ((regionOf s r.val).state = .serving →
      Effect (.regionAccess r off bs w la) s (emit (writeIvory s r.val off bs) (.regionAnswer r .ok))) ∧
    (((regionOf s r.val).state = .loading ∨ (regionOf s r.val).state = .verifying ∨ (regionOf s r.val).state = .ready) →
      Effect (.regionAccess r off bs w false) s (emit s (.regionAnswer r .retry)) ∧
      ∀ n : RegionNo, Effect (.regionAccess r off bs (some n) true) s (abandonUnit (emit s (.regionAnswer r .retry)) n.val)) ∧
    ((regionOf s r.val).state = .faulted →
      Effect (.regionAccess r off bs none la) s (emit s (.regionAnswer r .departed)) ∧
      ∀ n : RegionNo, Effect (.regionAccess r off bs (some n) la) s (abandonUnit (emit s (.regionAnswer r .departed)) n.val)))

/-- O49. A thread's remote operation: one of a wrong shape is ADDRESS_ERROR and one that no window allows DENIED and recorded; one to the part
itself acts on its memory; another takes a slot, and its thread parks unless it is posted. A reply completes it, RETRY makes it wait and be
issued again, and no reply in time is TIMEOUT. A fence parks its thread until every posted operation has completed.
REMOTE_OP_ISSUE, REMOTE_FENCE, MEM_RSP, TENSOR_ACK, REPLY_TIMEOUT and RETRY_REISSUE complete. -/
def Obligations.ThreadsUseTheTray : Prop :=
  (∀ s (r : RegionNo) (th : Fin 16) k a n x d de, threadRuns s r.val th.val = true →
    Effect (.remoteOpIssue r th k a n x d de) s (issueOp s r.val th.val k a n x d de) ∧
    (∀ op, k = .mem op → opShapeOk k (a % 2 ^ 48) n = false → Completes (.remoteOpIssue r th k a n x d de) s (fun t =>
      Sends s t (.remoteDone r th.val .addressError []) ∧ t.mem = s.mem ∧ t.coh = s.coh ∧ t.lnk.ops = s.lnk.ops)) ∧
    (∀ op, k = .mem op → opShapeOk k (a % 2 ^ 48) n = true → a / 2 ^ 48 % 16 ≠ s.lnk.member →
      twtCovers s k (unitTenant s r.val) (a / 2 ^ 48 % 16) (a % 2 ^ 48) n = false →
      Completes (.remoteOpIssue r th k a n x d de) s (fun t =>
        Sends s t (.remoteDone r th.val .denied []) ∧ t.mem = s.mem ∧ t.coh = s.coh ∧ isSet t F.lnkFault.valid = true)) ∧
    (∀ op, k = .mem op → op ≠ .store → opShapeOk k (a % 2 ^ 48) n = true → a / 2 ^ 48 % 16 = s.lnk.member →
      Completes (.remoteOpIssue r th k a n x d de) s (fun t =>
        let m := memAccess s op n (a % 2 ^ 48) x d
        Sends s t (.remoteDone r th.val m.1 (if m.1 = .ok then m.2.1 else [])) ∧ t.mem = m.2.2.mem ∧ t.coh = m.2.2.coh))) ∧
  (∀ s (r : RegionNo) (th : Fin 16), threadRuns s r.val th.val = true →
    (postedLeft s r.val th.val = true → Completes (.remoteFence r th) s (fun t =>
      tabGet false (regionOf t r.val).threads th.val = true ∧ tabGet false t.lnk.fences (threadKey r.val th.val) = true)) ∧
    (postedLeft s r.val th.val = false → Completes (.remoteFence r th) s (fun t =>
      tabGet false (regionOf t r.val).threads th.val = false ∧ tabGet false t.lnk.fences (threadKey r.val th.val) = false ∧
      tabGet none t.lnk.postedBad (threadKey r.val th.val) = none ∧
      Sends s t (.remoteDone r th.val ((tabGet none s.lnk.postedBad (threadKey r.val th.val)).getD .ok) [])))) ∧
  (∀ s (f : FrameHeader) st d x, frameHere s f = true → opOf s f.tag.region.val f.tag.slot.val = some x →
    f.tag.generation % 16 = tabGet 0 s.lnk.generations (opKey f.tag.region.val f.tag.slot.val) →
    (f.poisoned = false → st ≠ .retry → Effect (.memRsp f st d) s (completeOp s f.tag.region.val f.tag.slot.val st d)) ∧
    (f.poisoned = false → Effect (.memRsp f .retry d) s (retryOp s f.tag.region.val f.tag.slot.val x [])) ∧
    (∀ i, f.poisoned = false → Effect (.tensorAck f i .retry) s (retryOp s f.tag.region.val f.tag.slot.val x [i])) ∧
    (∀ i, f.poisoned = false → x.left = [i] →
      Effect (.tensorAck f i .ok) s (completeOp s f.tag.region.val f.tag.slot.val .ok [])) ∧
    (f.poisoned = true → (∀ i, Effect (.tensorAck f i st) s (completeOp s f.tag.region.val f.tag.slot.val .poisoned [])) ∧
      Effect (.memRsp f st d) s (completeOp s f.tag.region.val f.tag.slot.val .poisoned []))) ∧
  (∀ s (f : FrameHeader) st d, frameHere s f = true →
    f.tag.generation % 16 ≠ tabGet 0 s.lnk.generations (opKey f.tag.region.val f.tag.slot.val) →
    Effect (.memRsp f st d) s (satF s F.lnkStats.lateReplies)) ∧
  (∀ s (r : RegionNo) (k : Fin 64) x, runs s = true → opOf s r.val k.val = some x →
    Effect (.replyTimeout r k) s (completeOp s r.val k.val (if x.waiting then .retry else .timeout) []) ∧
    (((waitingOps s r.val x.member).head?).map (·.1) = some k.val →
      Effect (.retryReissue r k) s ((waitingOps s r.val x.member).foldl (fun u e => reissue u r.val e) s)) ∧
    (((waitingOps s r.val x.member).head?).map (·.1) ≠ some k.val → Effect (.retryReissue r k) s s)) ∧
  (∀ s r k x st bs, opOf s r k = some x → s.lnk.opQueue = [] → r < 64 → isPosted x = false →
    opOf (completeOp s r k st bs) r k = none ∧ tabGet false (regionOf (completeOp s r k st bs) r).threads x.thread = false ∧
    (∃ l, (completeOp s r k st bs).out = .remoteDone (regionNo r) x.thread st (if st = .ok then bs else []) :: l))

/-! ## Package coherence (15) -/

namespace Sys2Proof

/-- Line `l` is owned by agent `o`, and its home does nothing else. -/
def OwnedBy (s : State) (l o : Nat) : Prop :=
  (homeLine s l).state = .owned ∧ (homeLine s l).owner = o ∧ (homeLine s l).busy = none ∧ (homeLine s l).queue = [] ∧
  (homeLine s l).poisoned = false

/-- Agent `a` wins line `l` with the copy `c`: the home names it as the owner, and every other copy of the line is as before. -/
def Wins (s t : State) (a l : Nat) (c : CacheLine) : Prop :=
  cacheLine t a l = c ∧ (homeLine t l).state = .owned ∧ (homeLine t l).owner = a ∧ (homeLine t l).busy = none ∧
  ∀ b, b ≠ a → cacheLine t b l = cacheLine s b l

end Sys2Proof

/-- O50. Coherence: a request that its agent's own copy serves, and one that R130 or R138 refuses, go no further. At a line that no cache
holds, the home grants ownership at once, with the line's bytes, and a store of the agent lands in its copy; a line that another
agent owns waits for that agent's answer. An agent without a cache reads and writes the line's bytes; a POISONED line answers POISONED.
An agent writes a Modified line back as it evicts it, and the line is then UNCACHED; a copy that is not Modified stays. A forward
that reaches an agent in its hold window waits there; the end of the window answers it. A Modified copy answers a READ_SHARED: memory takes
it, and both agents share it. The delay line is calibrated against the LMC. READ_SHARED, READ_EXCLUSIVE, UPGRADE, WRITE_FULL, WRITEBACK,
UNCACHED_READ, INVALIDATING_WRITE, FORWARD, HOLD_WINDOW_END and DELAY_LINE_CALIBRATION complete. -/
def Obligations.LinesStayCoherent : Prop :=
  (∀ s (a : AgentNo) l, agentRuns s a.val = true →
    (storeRefused s l none = none → (cacheLine s a.val l).state ≠ .invalid →
      Effect (.readShared a l) s (tellData s a.val l (cacheLine s a.val l).data false)) ∧
    (storeRefused s l none = none → isOwned (cacheLine s a.val l).state = true →
      Effect (.readExclusive a l none) s (tellData s a.val l (cacheLine s a.val l).data false) ∧
      Effect (.upgrade a l none) s (tellData s a.val l (cacheLine s a.val l).data false)) ∧
    (∀ st, storeRefused s l none = some st → Effect (.readShared a l) s (emit s (.accessError a.val l st))) ∧
    (∀ w st, storeRefused s l w = some st → Effect (.readExclusive a l w) s (emit s (.accessError a.val l st)) ∧
      Effect (.upgrade a l w) s (emit s (.accessError a.val l st))) ∧
    (∀ d st, d.length = 128 → storeRefused s l (some (0, d)) = some st →
      Effect (.writeFull a l d) s (emit s (.accessError a.val l st)))) ∧
  (∀ s (a : AgentNo) l, agentRuns s a.val = true → l < 2 ^ 41 → LineStill s l → (setEntries s l).length < 16 →
    (cacheLine s a.val l).state = .invalid → (heldLines s a.val).length < cacheLimit a.val →
    (storeRefused s l none = none →
      Completes (.readShared a l) s (fun t => Wins s t a.val l { state := .exclusive, data := lineBytes s l, holding := true } ∧
        SameBytes s t ∧ Sends s t (.lineData a.val l (lineBytes s l) false)) ∧
      Completes (.readExclusive a l none) s (fun t =>
        Wins s t a.val l { state := .exclusive, data := lineBytes s l, holding := true } ∧
        SameBytes s t ∧ Sends s t (.lineData a.val l (lineBytes s l) false)) ∧
      Completes (.upgrade a l none) s (fun t => Wins s t a.val l { state := .exclusive, data := lineBytes s l, holding := true } ∧
        SameBytes s t ∧ Sends s t (.lineData a.val l (lineBytes s l) false))) ∧
    (∀ off bs, storeRefused s l (some (off, bs)) = none →
      Completes (.readExclusive a l (some (off, bs))) s (fun t =>
        Wins s t a.val l { state := .modified, data := mergeLine (lineBytes s l) off bs, holding := true } ∧
        StoredAt s t (l * 128 + off) bs) ∧
      Completes (.upgrade a l (some (off, bs))) s (fun t =>
        Wins s t a.val l { state := .modified, data := mergeLine (lineBytes s l) off bs, holding := true } ∧
        StoredAt s t (l * 128 + off) bs)) ∧
    (∀ d, d.length = 128 → storeRefused s l (some (0, d)) = none → Completes (.writeFull a l d) s (fun t =>
      Wins s t a.val l { state := .modified, data := d, holding := true } ∧ StoredAt s t (l * 128) d))) ∧
  (∀ s (a : AgentNo) l o, agentRuns s a.val = true → l < 2 ^ 41 → OwnedBy s l o → o ≠ a.val → storeRefused s l none = none →
    (cacheLine s a.val l).state = .invalid → Completes (.readShared a l) s (fun t =>
      (homeLine t l).busy = some (.readShared a.val) ∧ (homeLine t l).awaiting = [o] ∧ t.coh.lines = s.coh.lines ∧ t.mem = s.mem)) ∧
  (∀ s l, isReady s = true → lineMapped s l = true → LineStill s l →
    Completes (.uncachedRead l) s (fun t => Sends s t (.lineData noCache l (lineBytes s l) false) ∧ SameBytes s t) ∧
    (∀ off bs, storeRefused s l (some (off, bs)) = none →
      Completes (.invalidatingWrite l off bs) s (fun t => StoredAt s t (l * 128 + off) bs))) ∧
  (∀ s l, isReady s = true →
    (lineMapped s l = false → Effect (.uncachedRead l) s (emit s (.accessError noCache l .addressError))) ∧
    (∀ off bs st, storeRefused s l (some (off, bs)) = some st →
      Effect (.invalidatingWrite l off bs) s (emit s (.accessError noCache l st))) ∧
    (lineMapped s l = true → (homeLine s l).poisoned = true → (homeLine s l).busy = none → (homeLine s l).queue = [] →
      Completes (.uncachedRead l) s (fun t => Sends s t (.lineData noCache l [] true) ∧ t.mem = s.mem))) ∧
  (∀ s (a : AgentNo) l, agentRuns s a.val = true → l < 2 ^ 41 →
    (OwnedBy s l a.val → OneOwner s l → (cacheLine s a.val l).state = .modified → (cacheLine s a.val l).waitingForward = false →
      Completes (.writeback a l) s (fun t => cacheLine t a.val l = {} ∧ (homeLine t l).state = .uncached ∧ SameBytes s t)) ∧
    ((cacheLine s a.val l).state ≠ .modified → (homeLine s l).queue = [] → Effect (.writeback a l) s s)) ∧
  (∀ s (a b : AgentNo) l, isReady s = true → l < 2 ^ 41 → (homeLine s l).awaiting = [a.val] →
    ((cacheLine s a.val l).holding = true → (cacheLine s a.val l).state ≠ .invalid →
      Effect (.forward a l) s (setCacheLine s a.val l { cacheLine s a.val l with waitingForward := true })) ∧
    (a ≠ b → (cacheLine s a.val l).holding = false → (cacheLine s a.val l).state = .modified → OneOwner s l →
      (homeLine s l).busy = some (.readShared b.val) → (homeLine s l).state = .owned → (homeLine s l).owner = a.val →
      (homeLine s l).queue = [] → (heldLines s b.val).length < cacheLimit b.val → Completes (.forward a l) s (fun t =>
        cacheLine t a.val l = { cacheLine s a.val l with state := .shared, waitingForward := false } ∧
        cacheLine t b.val l = { state := .shared, data := (cacheLine s a.val l).data, holding := true } ∧
        (homeLine t l).state = .shared ∧ (homeLine t l).sharers = [a.val, b.val] ∧ (homeLine t l).busy = none ∧
        lineBytes t l = (cacheLine s a.val l).data ∧ SameBytes s t))) ∧
  (∀ s (a : AgentNo) l, isReady s = true → a.val ∉ (homeLine s l).awaiting → exec (.forward a l) s = .next s) ∧
  (∀ s (a : AgentNo) l, isReady s = true →
    ((cacheLine s a.val l).holding = true → (cacheLine s a.val l).waitingForward = false →
      Effect (.holdWindowEnd a l) s (setCacheLine s a.val l { cacheLine s a.val l with holding := false, waitingForward := false })) ∧
    ((cacheLine s a.val l).waitingForward = true →
      Effect (.holdWindowEnd a l) s
        (answerForward (setCacheLine s a.val l { cacheLine s a.val l with holding := false, waitingForward := false }) a.val l))) ∧
  (∀ s, isReady s = true → s.plt.lmcHeld = false →
    Effect .delayLineCalibration s { s with coh := { s.coh with calibrated := s.plt.lmc } })

/-! ## The region scheduler and the arbiter (14, 09) -/

namespace Sys2Proof

/-- An entry whose step has drawn the root `r` at LENGTH, and whose arbiter has resolved one more event. -/
def withRoot (e : Entry) (r : Nat × BitVec 32 × Draw) : Entry :=
  { e with
    rngState := r.2.2.rng
    steps := (e.steps + 1) % 2 ^ 32
    arbSeq := (e.arbSeq + 1) % 2 ^ 32
    draft := { e.draft with rootToken := r.1, rootLogprob := r.2.1, rootValid := true, redraw := false } }

end Sys2Proof

/-- O51. Units: one is dispatched on a SERVING region that runs none; it ends once its passes have returned, with its step complete or its
region held for the next unit; layer units and kernels that are not preemptible are not preempted, and a preempted kernel leaves its
context in a free save slot of its region, or goes on where none is free. UNIT_DISPATCH, UNIT_COMPLETE and PREEMPTION_POINT complete.
The commit of a step: it waits until its step is complete, and for room in the ring, the log and an answer of the home; a part that
was discarded is not committed and changes nothing of the request but STEPS and ARB_SEQ; a redraw draws the root at LENGTH, with which comes
the draft head's tree, and adds no position. STEP_COMMIT completes. -/
def Obligations.StepsRunAndCommit : Prop :=
  (∀ s (r : RegionNo) kernel w (cs : List (Nat × List Byte)),
    (∀ c k x d, mayRun s = true → (regionOf s r.val).state = .serving → runningUnit s r.val = none → (regionOf s r.val).comp = some c →
      kernelOf s r.val kernel = some k → compOf s c.val = some x → descOf s c.val = some d →
      Effect (.unitDispatch r kernel w cs) s (failBroken (dispatch s c.val r.val x d k w cs))) ∧
    ((mayRun s = false ∨ (regionOf s r.val).state ≠ .serving ∨ runningUnit s r.val ≠ none) →
      exec (.unitDispatch r kernel w cs) s = .next s)) ∧
  (∀ s (r : RegionNo) (ops : List FabricOp) last u, runs s = true → runningUnit s r.val = some u →
    (passesLeft s u.step = true → Effect (.unitComplete r ops last) s s) ∧
    (∀ st, passesLeft s u.step = false → stepOf s u.step = some st →
      Completes (.unitComplete r [] true) s (fun t =>
        stepOf t u.step = some { st with complete := true, reqs := st.reqs.map (fun q => { q with pagesRead := 0 }) } ∧
        (regionOf t r.val).running = none ∧ (regionOf t r.val).threads = [] ∧ OthersStay s t r.val ∧ t.mem = s.mem ∧
        (∀ k, k ≠ u.step → stepOf t k = stepOf s k)) ∧
      ((∀ q ∈ st.reqs, q.valid = true) → Completes (.unitComplete r [] false) s (fun t =>
        stepOf t u.step = some { st with reqs := st.reqs.map (fun q => { q with pagesRead := 0 }) } ∧
        (regionOf t r.val).running = some { u with ended := true } ∧ OthersStay s t r.val ∧ t.mem = s.mem)))) ∧
  (∀ s (r : RegionNo) ops last point, runs s = true → runningUnit s r.val = none →
    Effect (.unitComplete r ops last) s s ∧ (s.twn.role ≠ .mirror → Effect (.preemptionPoint r point) s s)) ∧
  (∀ s (r : RegionNo) point u st k, mayRun s = true → runningUnit s r.val = some u → stepOf s u.step = some st →
    kernelOf s r.val u.kernel = some k →
    ((k.unit = 1 ∨ k.preemptible = false) → Effect (.preemptionPoint r point) s s) ∧
    (sliceOver s st.comp u = false → higherWaits s st.comp st = false → Effect (.preemptionPoint r point) s s) ∧
    (k.unit ≠ 1 → k.preemptible = true → (sliceOver s st.comp u = true ∨ higherWaits s st.comp st = true) →
      ((∃ j < 4, saveOf s r.val j = none) → Completes (.preemptionPoint r point) s (fun t =>
        (regionOf t r.val).running = none ∧ (regionOf t r.val).threads = [] ∧ OthersStay s t r.val ∧
        ∃ j < 4, saveOf s r.val j = none ∧ saveOf t r.val j = some
          { step := u.step, kernel := u.kernel, atExit := point == 0xFFFF, ranges := liveRanges s r.val u.kernel point } ∧
          (∃ x, stepOf t u.step = some x ∧ x.save = some (r.val, j)))) ∧
      ((∀ j < 4, saveOf s r.val j ≠ none) → Completes (.preemptionPoint r point) s (fun t =>
        regionOf t r.val = regionOf s r.val ∧
        getF t F.schStats.noSlot = min (getF s F.schStats.noSlot + 1) (max (getF s F.schStats.noSlot) (2 ^ F.schStats.noSlot.width - 1)))))) ∧
  (∀ s i lg dr, runs s = true → s.stk.broken = [] → stepFor s i = none → Effect (.stepCommit i lg dr) s s) ∧
  (∀ s i lg dr k st q, runs s = true → s.stk.broken = [] → stepFor s i = some k → stepOf s k = some st → partOf st i = some q →
    (st.complete = false → Effect (.stepCommit i lg dr) s s) ∧
    (st.complete = true → q.valid = false → (entryOf s q.index).state ≠ .free → (entryOf s q.index).requestId = q.requestId →
      Completes (.stepCommit i lg dr) s (fun t =>
        (entryOf t q.index).steps = ((entryOf s q.index).steps + 1) % 2 ^ 32 ∧
        (entryOf t q.index).arbSeq = ((entryOf s q.index).arbSeq + 1) % 2 ^ 32 ∧ entryOf t q.index =
          { entryOf s q.index with steps := (entryOf t q.index).steps, arbSeq := (entryOf t q.index).arbSeq, noticePending := (entryOf t q.index).noticePending } ∧
        t.rqt.manifests = s.rqt.manifests ∧ t.mem = s.mem)) ∧
    (∀ d, st.complete = true → q.valid = true → descOf s st.comp = some d →
      (mayCommit s i (commitSize s i q lg) = false → Effect (.stepCommit i lg dr) s s) ∧
      (mayCommit s i (commitSize s i q lg) = true → Effect (.stepCommit i lg dr) s (failBroken (commitStep s d k i q lg dr))) ∧
      (mayCommit s i (commitSize s i q lg) = true → q.kind = .redraw →
        let r := rootDraw s i ((lg[0]?).getD [])
        (entryOf s i).stopTokens.contains r.1 = false → Completes (.stepCommit i lg dr) s (fun t =>
          entryOf t i = { withRoot (entryOf s i) r with noticePending := (entryOf t i).noticePending } ∧
          tabGet [] t.rqt.drafts i = dr ∧
          t.rqt.manifests = s.rqt.manifests ∧ t.mem = s.mem))))

/-! ## Leases, pages and capacity (05, 06, 10, 12) -/

namespace Sys2Proof

/-- No receiver and no reader waits for page slots, units or leases to come back. -/
def NobodyWaits (s : State) : Prop := ∀ e ∈ s.rqt.entries, e.2.state ≠ .handoffIn ∧ e.2.state ≠ .admitted

/-- No object command, FREE or old copy waits. -/
def NoObjectWaits (s : State) : Prop := s.stk.objWaiting = [] ∧ s.stk.freeing = [] ∧ s.stk.oldCopies = []

end Sys2Proof

/-- O52. LEASE_EPOCH_TICK, LEASE_EXPIRY, PAGE_RECLAIM and OBJECT_RECLAIM complete. The lease epoch counts once in 1,000 counts of the LMC, and
neither it nor a page or an object moves while the LMC is held. A lease 2^28 epochs old ends and is
counted, and a load of a region that held it fails. A retired page, or a RETIRING object, whose leases have ended is free again, and its
protection is lifted; what waited for any of them goes on.
PREFIX_INSERT, PRESSURE_EVICTION, DROP, PREEMPT, RESTORE, RESTORE_COMPLETE and RECOMPUTE complete. The next block of a
prompt is inserted, or the insertion stops; an eviction adds no entry of the index and changes no request.
Capacity actions: the victim of a drop loses blocks and no position, and is DROPPED where it was decoding; the victim of a
preemption is PARKED with ORIGIN 1, or is dropped where the swap area has no room; who is not the next victim stays. The highest-ranked
preempted request is restored once nothing presses; a restore that waits changes nothing but its wait, and one whose object does not
read fails the request. A DROPPED request is recomputed in a PREFILL without input, which ends at once where no block is left to
recompute. -/
def Obligations.SpaceComesBack : Prop :=
  (∀ s, lmcRuns s = true → s.stk.epochLmc + 1000 ≤ s.plt.lmc →
    Effect .leaseEpochTick s (continueAll (retryAsks (epochTick s))) ∧
    (NobodyWaits s → s.xfr.asks = [] → NoObjectWaits s → Completes .leaseEpochTick s (fun t =>
      t.stk.epoch = (s.stk.epoch + 1) % 2 ^ 32 ∧ t.stk.epochLmc = s.stk.epochLmc + 1000 ∧ t.stk.odt = s.stk.odt ∧
      t.stk.pages = s.stk.pages ∧ t.stk.leases = s.stk.leases))) ∧
  (∀ s, s.plt.lmc < s.stk.epochLmc + 1000 → exec .leaseEpochTick s = .next s) ∧
  (∀ s, s.plt.lmcHeld = true → exec .leaseEpochTick s = .next s ∧ (∀ g, exec (.pageReclaim g) s = .next s) ∧
    (∀ i f, exec (.objectReclaim i f) s = .next s)) ∧
  (∀ s (k : Fin 4096), isReady s = true →
    (tabGet none s.stk.leases k.val = none → Effect (.leaseExpiry k) s s) ∧
    (∀ l, tabGet none s.stk.leases k.val = some l →
      (leaseTooOld s l.epoch = false → Effect (.leaseExpiry k) s s) ∧
      (leaseTooOld s l.epoch = true → Effect (.leaseExpiry k) s
        (continueAll (retryAsks (expireHolder (satF (endLease s k.val) F.stkPageStats.expired) k.val)))) ∧
      (leaseTooOld s l.epoch = true → NobodyWaits s → s.xfr.asks = [] → 1536 ≤ k.val → k.val < 3584 →
        Completes (.leaseExpiry k) s (fun t =>
        tabGet none t.stk.leases k.val = none ∧ (∀ j, j ≠ k.val → tabGet none t.stk.leases j = tabGet none s.stk.leases j) ∧
        getF t F.stkPageStats.expired =
          min (getF s F.stkPageStats.expired + 1) (max (getF s F.stkPageStats.expired) (2 ^ F.stkPageStats.expired.width - 1)))) ∧
      (∀ n : RegionNo, leaseTooOld s l.epoch = true → NobodyWaits s → s.xfr.asks = [] → k.val = 16 * n.val →
        (regionOf s n.val).state = .loading → Completes (.leaseExpiry k) s (fun t => FaultedWith t n.val 11 0 ∧
          tabGet none t.stk.leases k.val = none ∧
          OthersStay s t n.val)))) ∧
  (∀ s g, isReady s = true →
    (canReclaim s g = false → exec (.pageReclaim g) s = .next s) ∧
    (canReclaim s g = true → Effect (.pageReclaim g) s (continueAll (reclaimUnits (reclaimPage s g)))) ∧
    (canReclaim s g = true → NobodyWaits s →
      Completes (.pageReclaim g) s (fun t => pageOf t g = {} ∧
        (∀ h, (h < g ∨ g + granulesOf s g ≤ h) → h ≠ g → pageOf t h = pageOf s h) ∧
        (∀ h, g < h → h < g + granulesOf s g → (pageOf t h).state = .free) ∧
        (∀ i < granulesOf s g, isProtected t (granuleAddr g + 4096 * i) = false) ∧ t.mem = s.mem))) ∧
  (∀ s i f, isReady s = true → lmcRuns s = true →
    ((odtOf s i).state ≠ .retiring → exec (.objectReclaim i f) s = .next s) ∧
    ((odtOf s i).state = .retiring →
      (leasesPast s (odtOf s i).retireEpoch = false → exec (.objectReclaim i f) s = .next s) ∧
      (leasesPast s (odtOf s i).retireEpoch = true → Effect (.objectReclaim i f) s (releaseLeased (reclaimObject s f i) f)) ∧
      (leasesPast s (odtOf s i).retireEpoch = true → NoObjectWaits s → Completes (.objectReclaim i f) s (fun t =>
        odtOf t i = { generation := (odtOf s i).generation % 4096 } ∧ ∀ j, j ≠ i → odtOf t j = odtOf s j)))) ∧
  (∀ s i b, runs s = true → canLease s = false → exec (.prefixInsert i b) s = .next s) ∧
  (∀ s i b tr, runs s = true → canLease s = true → trackOf s i = some tr →
    ((tr.stopped = true ∨ tr.noInsert = true ∨ b ≠ tr.records.length ∨ tr.blocks ≤ b) → Effect (.prefixInsert i b) s s) ∧
    (∀ k d x pages, tr.stopped = false → tr.noInsert = false → b = tr.records.length → b < tr.blocks →
      mayInsert (entryOf s i).state = true → openSlot s (entryOf s i).sharingDomain (entryOf s i).tenant.val = some k →
      descOf s (entryOf s i).composition.val = some d → walkCtx s (entryOf s i).composition.val k = some x →
      sealedBlock s i b d.layers = some pages → Completes (.prefixInsert i b) s (fun t =>
        trackOf t i = some { tr with stopped := true } ∨
        ∃ n, 4097 ≤ n ∧ (recOf s n).used = false ∧ (recOf t n).used = true ∧ trackOf t i = some { tr with
          records := tr.records ++ [n]
          digests := tr.digests ++
            [blockDigest x ((tr.digests.getLast?).getD 0) (blockTokens ((manifestOf s i).history.map (·.token)) b)] }))) ∧
  (∀ s (st : StackNo), runs s = true → Completes (.pressureEviction st) s (fun t => t.rqt.manifests = s.rqt.manifests ∧
    (∀ i, (entryOf t i).state = (entryOf s i).state) ∧ (∀ n, (recOf s n).used = false → (recOf t n).used = false)) ∧
    ((∀ e ∈ boundComps s, pressedOn s e.1 st.val = false) → Effect (.pressureEviction st) s s)) ∧
  (∀ s i d, runs s = true → descOf s (entryOf s i).composition.val = some d →
    (isDropVictim s d (entryOf s i).composition.val i = false → Effect (.drop i) s s) ∧
    (isDropVictim s d (entryOf s i).composition.val i = true → (entryOf s i).state = .decode → Completes (.drop i) s (fun t =>
      (entryOf t i).length = (entryOf s i).length ∧ (entryOf t i).arbSeq = ((entryOf s i).arbSeq + 1) % 2 ^ 32 ∧
      ((entryOf t i).state = .dropped ∧ droppedBlocks t i ≠ [] ∨ (entryOf t i).state = .decode ∧ droppedBlocks t i = []))) ∧
    (isDropVictim s d (entryOf s i).composition.val i = true → (entryOf s i).state ≠ .decode →
      Effect (.drop i) s (dropVictim (seizeEntry s i) d (entryOf s i).composition.val i)) ∧
    ((getF s F.stkCapCtl.swapTier ≠ 4 ∨ hostOff s = false) →
      (isPreemptVictim s d (entryOf s i).composition.val i = false → Effect (.preempt i) s s) ∧
      (isPreemptVictim s d (entryOf s i).composition.val i = true →
        ((parkEntry (sendLog (seizeEntry s i) i) i (getF s F.stkCapCtl.swapTier) 1).isSome = true →
          Completes (.preempt i) s (fun t => (entryOf t i).state = .parked ∧ (manifestOf t i).parked ≠ 0 ∧
            (manifestOf t i).parkOrigin = 1 ∧ (entryOf t i).length = (entryOf s i).length)) ∧
        (parkEntry (sendLog (seizeEntry s i) i) i (getF s F.stkCapCtl.swapTier) 1 = none →
          Effect (.preempt i) s (dropVictim (sendLog (seizeEntry s i) i) d (entryOf s i).composition.val i)))) ∧
    (getF s F.stkCapCtl.swapTier = 4 → hostOff s = true → exec (.preempt i) s = .next s)) ∧
  (∀ s i, runs s = true →
    (i ∈ preempted s (entryOf s i).composition.val → underPressure s (entryOf s i).composition.val = false →
      (∀ j ∈ preempted s (entryOf s i).composition.val, j ≠ i → victimBefore s i j = false) →
      Completes (.restore i) s (fun t => tabGet none t.rqt.restores i = some [] ∧ entryOf t i = entryOf s i)) ∧
    ((i ∉ preempted s (entryOf s i).composition.val ∨ underPressure s (entryOf s i).composition.val = true) →
      Effect (.restore i) s s)) ∧
  (∀ s i x d tags, runs s = true → (entryOf s i).state = .parked → tabGet none s.rqt.restores i = some tags → isWaiting s i = false →
    (restoreUsesHost s i = false ∨ hostOff s = false) →
    compOf s (entryOf s i).composition.val = some x → descOf s (entryOf s i).composition.val = some d →
    (canLease s = false → Effect (.restoreComplete i) s (waitFor s i 33)) ∧
    (canLease s = true →
      (objectBytes s (handleIndex (manifestOf s i).parked) = none → heldOf s i = [] → Completes (.restoreComplete i) s (fun t =>
        (entryOf t i).state = .failed ∧ (∀ g ∈ tags, Reported t (entryOf s i).tenant.val 6 (entryOf s i).requestId g 9))) ∧
      (∀ bs r, objectBytes s (handleIndex (manifestOf s i).parked) = some bs →
        restorePages x d i (parkedPages d bs) (askHost s (odtOf s (handleIndex (manifestOf s i).parked))) = r →
        (∀ st, r.1 = some st → Effect (.restoreComplete i) s (waitFor s i st)) ∧
        (r.1 = none → heldOf s i = [] → Completes (.restoreComplete i) s (fun t =>
          (entryOf t i).state = (if (entryOf s i).parkedFromDone then .done else .decode) ∧ (manifestOf t i).parked = 0 ∧
          (entryOf t i).length = (entryOf s i).length ∧ tabGet none t.rqt.restores i = none ∧
          (∀ g ∈ tags, Reported t (entryOf s i).tenant.val 6 (entryOf s i).requestId g 0)))))) ∧
  (∀ s i, runs s = true →
    (recomputable s (entryOf s i).composition.val i = false → exec (.recompute i) s = .next s) ∧
    (recomputable s (entryOf s i).composition.val i = true → droppedBlocks s i ≠ [] → Completes (.recompute i) s (fun t =>
      (entryOf t i).state = .prefill ∧ inputOf t i = some { tokens := [], forced := false, after := .decode } ∧
      (entryOf t i).length = (entryOf s i).length)) ∧
    (recomputable s (entryOf s i).composition.val i = true → droppedBlocks s i = [] → heldOf s i = [] →
      Completes (.recompute i) s (fun t => (entryOf t i).state = .decode ∧ inputOf t i = none)))

/-! ## Objects (05) -/

namespace Sys2Proof

/-- The part takes a command of the opcode of its row and runs it at once. -/
def ObjTaken (s : State) (op : Nat) (c : ObjCommand) : Prop :=
  canReadObj s = true ∧ c.opcode = op ∧ tierAllowed op c.tier = true ∧ isSet s F.stkObjCtl.stkLock = true ∧ objMustWait s op c = false

/-- The 32 bytes of an object completion are written under the PASID of tenant 0, the final 8 after the rest, or the completion waits for
room
in its queue (R151, R249). -/
def ObjReported (t : State) (handle status tag : Nat) : Prop :=
  (∃ slot seq phase, let a := getF t F.stkObjCqBase.base * 4096 + 32 * slot
    let bs := objCompletionBytes { handle := handle, status := status, tag := tag } seq phase
    Output.hostWrite (pasidOf t 0) a false (bs.take 24) ∈ t.out ∧ Output.hostWrite (pasidOf t 0) (a + 24) false (bs.drop 24) ∈ t.out) ∨
  { handle := handle, status := status, tag := tag } ∈ t.stk.objOut

/-- A command ends in a status and leaves the ODT. -/
def ObjEnds (c : Instr) (s : State) (handle status tag : Nat) : Prop :=
  Completes c s (fun t => ObjReported t handle status tag ∧ t.stk.odt = s.stk.odt)

/-- A command changes ODT entry `i` to `e` and no other. -/
def OdtBecomes (s t : State) (i : Nat) (e : OdtEntry) : Prop := odtOf t i = e ∧ ∀ j, j ≠ i → odtOf t j = odtOf s j

/-- What stops the row `r` of opcode `op`, in the order of R151 and R152. -/
def ObjStops (r : Instr) (op : Nat) (c : ObjCommand) (s : State) : Prop :=
  ((c.opcode = 0 ∨ 9 < c.opcode ∨ tierAllowed op c.tier = false) → ObjEnds r s c.handle 11 c.tag) ∧
  (c.opcode = op → tierAllowed op c.tier = true → isSet s F.stkObjCtl.stkLock = false → ObjEnds r s c.handle 8 c.tag) ∧
  (c.opcode = op → tierAllowed op c.tier = true → isSet s F.stkObjCtl.stkLock = true → objMustWait s op c = true →
    Completes r s (fun t => t.stk.objWaiting = s.stk.objWaiting ++ [(op, c)] ∧ t.stk.odt = s.stk.odt))

/-- What stops a command that names an object: a handle that is not current, a state that does not allow it, a pin. -/
def HandleStops (r : Instr) (op : Nat) (c : ObjCommand) (s : State) : Prop :=
  ObjTaken s op c →
    (isCurrent s c.handle = false → ObjEnds r s c.handle 1 c.tag) ∧
    (isCurrent s c.handle = true →
      ((op = 2 ∧ (odtOf s (handleIndex c.handle)).state ≠ .writable ∧ (odtOf s (handleIndex c.handle)).state ≠ .published ∨
        (op = 3 ∨ op = 6) ∧ (odtOf s (handleIndex c.handle)).state ≠ .writable ∨
        (op = 4 ∨ op = 5 ∨ op = 7 ∨ op = 8) ∧ (odtOf s (handleIndex c.handle)).state ≠ .published) →
        ObjEnds r s c.handle 2 c.tag) ∧
      ((odtOf s (handleIndex c.handle)).state = .published →
        ((op = 4 ∨ op = 5) ∧ (odtOf s (handleIndex c.handle)).pinCount ≠ 0 ∨
          op = 7 ∧ 65535 ≤ (odtOf s (handleIndex c.handle)).pinCount ∨
          op = 8 ∧ (odtOf s (handleIndex c.handle)).pinCount = 0) → ObjEnds r s c.handle 3 c.tag))

end Sys2Proof

/-- O53. ALLOCATE, PUBLISH, SEAL, MOVE, UNPUBLISH, FREE, PIN, UNPIN, ADOPT and COPY_COMPLETE complete.
What stops an object command, in the order of R151 and R152: an OPCODE that the table lacks or a TIER that the opcode does not allow, a
part that is not configured,
an earlier command on the handle; then a handle that is not current, a state that does not allow it, and a pin.
What object commands do: ALLOCATE makes an Ochre object WRITABLE in a FREE entry; PUBLISH and MOVE begin their copies under a lease;
SEAL publishes a WRITABLE object with its CRC; UNPUBLISH retires, FREE frees, each with the next generation, and a FREE completes once no
lease could read the object; PIN and UNPIN count; ADOPT
publishes what the spare areas of Umber name. A copy that fails leaves the object as it was; one that succeeds publishes or moves it. -/
def Obligations.ObjectsChange : Prop :=
  (∀ s c, canReadObj s = true →
    ObjStops (.allocate c) 1 c s ∧
    ObjStops (.publish c) 2 c s ∧
    ObjStops (.seal c) 3 c s ∧
    ObjStops (.move c) 4 c s ∧
    ObjStops (.unpublish c) 5 c s ∧
    ObjStops (.free c) 6 c s ∧
    ObjStops (.pin c) 7 c s ∧
    ObjStops (.unpin c) 8 c s ∧
    ObjStops (.adopt c) 9 c s) ∧
  (∀ s c,
    HandleStops (.publish c) 2 c s ∧
    HandleStops (.seal c) 3 c s ∧
    HandleStops (.move c) 4 c s ∧
    HandleStops (.unpublish c) 5 c s ∧
    HandleStops (.free c) 6 c s ∧
    HandleStops (.pin c) 7 c s ∧
    HandleStops (.unpin c) 8 c s) ∧
  (∀ s c, canReadObj s = false → exec (.allocate c) s = .next s ∧ exec (.publish c) s = .next s ∧ exec (.adopt c) s = .next s) ∧
  (∀ s (c : ObjCommand), ObjTaken s 1 c → (∃ i, 1 ≤ i ∧ i < 2 ^ 20 ∧ (odtOf s i).state = .free) →
    (∀ st, destStatus s none 1 c.location c.size c.prot c.keySlot = some st → ObjEnds (.allocate c) s 0 st c.tag) ∧
    (destStatus s none 1 c.location c.size c.prot c.keySlot = none → Completes (.allocate c) s (fun t =>
      ∃ i, 1 ≤ i ∧ i < 2 ^ 20 ∧ (odtOf s i).state = .free ∧ ObjReported t (handleOf s i) 0 c.tag ∧ OdtBecomes s t i
        { generation := (odtOf s i).generation, state := .writable, tier := 1, tenant := c.tenant.val, kind := c.kind % 256,
          prot := c.prot % 32, keySlot := c.keySlot % 1024, location := c.location, size := c.size }))) ∧
  (∀ s (c : ObjCommand) i e, i = handleIndex c.handle → e = odtOf s i → isCurrent s c.handle = true →
    (ObjTaken s 2 c → (e.state = .writable ∨ e.state = .published) → (∃ j, 1 ≤ j ∧ j < 2 ^ 20 ∧ (odtOf s j).state = .free) →
      destStatus s none c.tier c.location e.size c.prot c.keySlot = none → Completes (.publish c) s (fun t =>
        ∃ j, 1 ≤ j ∧ j < 2 ^ 20 ∧ (odtOf s j).state = .free ∧ OdtBecomes s t j
          { generation := (odtOf s j).generation, state := .publishing, tier := c.tier, tenant := c.tenant.val, kind := c.kind % 256,
            prot := c.prot % 32, keySlot := c.keySlot % 1024, location := c.location, size := e.size, source := c.handle,
            tag := c.tag, lease := engineLease s })) ∧
    (ObjTaken s 3 c → e.state = .writable → Completes (.seal c) s (fun t => ObjReported t c.handle 0 c.tag ∧ OdtBecomes s t i
      { e with state := .published, crc := (crc64 (memBytes s e.location e.size)).toNat, newLocation := 0, newTier := 0, source := 0,
               lease := none })) ∧
    (ObjTaken s 4 c → e.state = .published → e.pinCount = 0 →
      (∀ st, destStatus s (some i) c.tier c.location e.size e.prot e.keySlot = some st → ObjEnds (.move c) s c.handle st c.tag) ∧
      (destStatus s (some i) c.tier c.location e.size e.prot e.keySlot = none → Completes (.move c) s (fun t => OdtBecomes s t i
        { e with state := .moving, newLocation := c.location, newTier := c.tier, tag := c.tag, lease := engineLease s }))) ∧
    (ObjTaken s 5 c → e.state = .published → e.pinCount = 0 → Completes (.unpublish c) s (fun t =>
      ObjReported t c.handle 0 c.tag ∧ OdtBecomes s t i
        { e with state := .retiring, generation := (e.generation + 1) % 4096, retireEpoch := s.stk.epoch })) ∧
    (ObjTaken s 6 c → e.state = .writable → Completes (.free c) s (fun t =>
      OdtBecomes s t i { generation := (e.generation + 1) % 4096 } ∧
      (leasesPast s s.stk.epoch = true → ObjReported t c.handle 0 c.tag) ∧
      (leasesPast s s.stk.epoch = false →
        t.stk.freeing = s.stk.freeing ++ [(s.stk.epoch, { handle := c.handle, status := 0, tag := c.tag })]))) ∧
    (ObjTaken s 7 c → e.state = .published → e.pinCount < 65535 → Completes (.pin c) s (fun t =>
      ObjReported t c.handle 0 c.tag ∧ OdtBecomes s t i { e with pinCount := e.pinCount + 1 })) ∧
    (ObjTaken s 8 c → e.state = .published → 0 < e.pinCount → Completes (.unpin c) s (fun t =>
      ObjReported t c.handle 0 c.tag ∧ OdtBecomes s t i { e with pinCount := e.pinCount - 1 }))) ∧
  (∀ s (c : ObjCommand), ObjTaken s 9 c → (2 ^ 32 ≤ c.handle ∨ handleIndex c.handle ≠ 0 ∧ (odtOf s (handleIndex c.handle)).state ≠ .free) →
    ObjEnds (.adopt c) s c.handle 2 c.tag) ∧
  (∀ s (c : ObjCommand) i, i = handleIndex c.handle → ObjTaken s 9 c → i ≠ 0 → c.handle < 2 ^ 32 → (odtOf s i).state = .free →
    1 ≤ c.size → c.size ≤ 2 ^ 40 → c.location + unitsOf c.size ≤ logicalUnits s → c.prot.testBit 4 = false →
    (adoptMatches s c.handle c.location (unitsOf c.size) = false → ObjEnds (.adopt c) s c.handle 10 c.tag) ∧
    (adoptMatches s c.handle c.location (unitsOf c.size) = true → Completes (.adopt c) s (fun t =>
      ObjReported t c.handle 0 c.tag ∧ (odtOf t i).state = .published ∧ (odtOf t i).tier = 3 ∧ (odtOf t i).location = c.location ∧
      (odtOf t i).size = c.size ∧ (odtOf t i).generation = handleGen c.handle ∧ (odtOf t i).tenant = c.tenant.val ∧
      ∀ j, j ≠ i → odtOf t j = odtOf s j))) ∧
  (∀ s h r ok f, runs s = true → (copyUsesHost s h = false ∨ hostOff s = false) → isCurrent s h = false →
    Effect (.copyComplete h ok r f) s s) ∧
  (∀ s h i e f, i = handleIndex h → e = odtOf s i → runs s = true → (copyUsesHost s h = false ∨ hostOff s = false) →
    isCurrent s h = true → s.stk.objWaiting = [] →
    (e.state ≠ .publishing → e.state ≠ .moving → ∀ r ok, Effect (.copyComplete h ok r f) s s) ∧
    (∀ r ok, (ok = false ∨ r ≠ .whole) →
      (e.state = .publishing → Completes (.copyComplete h ok r f) s (fun t =>
        ObjReported t e.source 6 e.tag ∧ OdtBecomes s t i { generation := (e.generation + 1) % 4096 })) ∧
      (e.state = .moving → Completes (.copyComplete h ok r f) s (fun t => ObjReported t h 6 e.tag ∧
        OdtBecomes s t i { e with state := .published, newLocation := 0, newTier := 0, lease := none }))) ∧
    (e.state = .publishing → e.tier ≠ 3 → isEncrypted e = false → isEncrypted (odtOf s (handleIndex e.source)) = false →
      Completes (.copyComplete h true .whole f) s (fun t => ObjReported t h 0 e.tag ∧ (odtOf t i).state = .published ∧
        (odtOf t i).tier = e.tier ∧ (odtOf t i).location = e.location ∧ (odtOf t i).generation = e.generation ∧
        ∀ j, j ≠ i → odtOf t j = odtOf s j)) ∧
    (e.state = .moving → e.newTier ≠ 3 → isEncrypted e = false → Completes (.copyComplete h true .whole f) s (fun t =>
      ObjReported t h 0 e.tag ∧ OdtBecomes s t i
        { e with state := .published, tier := e.newTier, location := e.newLocation, newLocation := 0, newTier := 0, lease := none })))

/-! ## The meter and its feed (19) -/

namespace Sys2Proof

/-- The meter time of an event. -/
def meterNow (s : State) (m : MeterStamp) : Nat := (s.mtr.mtc + m.periods) % 2 ^ 64

/-- The meter writes one record: the next RECORD_NO in its slot of the log, chained to the one before, with its copy on the lane. -/
def Logged (s t : State) (type mtc : Nat) (body : List Byte) : Prop :=
  t.mtr.newest = s.mtr.newest + 1 ∧ ∃ r, tabGet none t.mtr.log ((s.mtr.newest + 1) % 2 ^ 20) = some r ∧
    r.recordNo = s.mtr.newest + 1 ∧ r.boot = t.mtr.boot ∧ r.type = type ∧ r.brokenSeal = t.mtr.broken ∧ r.mtc = mtc ∧ r.body = body ∧
    r.prevHash = s.mtr.prevHash ∧ t.mtr.prevHash = Config.sha384 (meterRecordBytes r) ∧ Sends s t (.record (meterRecordBytes r))

/-- Every composition but `c` counts on as it did. -/
def OtherCountsStay (s t : State) (c : Nat) : Prop := ∀ d, d ≠ c → meterComp t d = meterComp s d

/-- The meter keeps the frame: it is whole, new, of a declared TYPE, and skips no FEED_SEQ. -/
def FrameKept (s : State) (f : FeedHead) : Prop :=
  s.mtr.powered = true ∧ f.crcOk = true ∧ f.declared = true ∧ isSecondCopy s f = false ∧
  (s.mtr.lastSeq = 0 ∨ f.seq = 1 ∨ f.seq ≤ s.mtr.lastSeq + 1)

/-- The body of a FEED_FAULT record. -/
def faultBody (first last cause : Nat) : List Byte := leBytes 4 first ++ leBytes 4 last ++ leBytes 1 cause

/-- What the meter does with a frame that it does not act on: a bad CRC and a TYPE that is not declared leave a FEED_FAULT record, a second
copy leaves nothing (R519, R522). -/
def FrameTurnedAway (c : Instr) (s : State) (m : MeterStamp) (f : FeedHead) : Prop :=
  (f.crcOk = false → Completes c s (fun t => Logged s t 9 (meterNow s m) (faultBody (s.mtr.lastSeq + 1) (s.mtr.lastSeq + 1) 1) ∧
    t.mtr.comps = s.mtr.comps ∧ t.mtr.lastSeq = s.mtr.lastSeq)) ∧
  (f.crcOk = true → isSecondCopy s f = true → Completes c s (fun t => t.mtr.newest = s.mtr.newest ∧ t.mtr.log = s.mtr.log ∧
    t.mtr.comps = s.mtr.comps ∧ t.mtr.lastSeq = s.mtr.lastSeq)) ∧
  (f.crcOk = true → f.declared = false → isSecondCopy s f = false →
    (s.mtr.lastSeq = 0 ∨ f.seq = 1 ∨ f.seq ≤ s.mtr.lastSeq + 1) → Completes c s (fun t =>
      Logged s t 9 (meterNow s m) (faultBody f.seq f.seq 2) ∧ t.mtr.comps = s.mtr.comps ∧ t.mtr.lastSeq = f.seq))

end Sys2Proof

/-- O54. The meter acts on the frames that it keeps: BIND opens a count, UNBIND closes it, RESOURCE changes it, each with its record; SEAL and
POWER are logged, and a POWER towards Black or a reset closes every count; KEEPALIVE shows that the part lives. A second copy adds nothing;
a bad CRC, a TYPE that is not declared, and a composition that is not open leave a FEED_FAULT record.
FEED_BIND, FEED_UNBIND, FEED_RESOURCE, FEED_SEAL, FEED_POWER and FEED_KEEPALIVE complete. -/
def Obligations.MeterTakesFrames : Prop :=
  (∀ s m f, s.mtr.powered = true →
    (∀ b, FrameTurnedAway (.feedBind m f b) s m f ∧ FrameTurnedAway (.feedUnbind m f b) s m f ∧
      FrameTurnedAway (.feedResource m f b) s m f) ∧
    (∀ body, FrameTurnedAway (.feedSeal m f body) s m f) ∧
    (∀ src target limit, FrameTurnedAway (.feedPower m f src target limit) s m f) ∧
    FrameTurnedAway (.feedKeepalive m f) s m f) ∧
  (∀ s m f b, FrameKept s f →
    (meterComp s b.composition.val = none → Completes (.feedBind m f b) s (fun t =>
      Logged s t 2 (meterNow s m) (countBody b f.seq 0 0 0 0) ∧ OtherCountsStay s t b.composition.val ∧ t.mtr.lastSeq = f.seq ∧
      meterComp t b.composition.val =
        some { body := b, seq := f.seq, since := meterNow s m, bound := 0, regionTicks := 0, stackTicks := 0 })) ∧
    (meterComp s b.composition.val = none →
      Completes (.feedUnbind m f b) s (fun t => Logged s t 9 (meterNow s m) (faultBody f.seq f.seq 3) ∧ t.mtr.comps = s.mtr.comps) ∧
      (b.package = false → Completes (.feedResource m f b) s (fun t =>
        Logged s t 9 (meterNow s m) (faultBody f.seq f.seq 3) ∧ t.mtr.comps = s.mtr.comps))) ∧
    (b.package = true → Completes (.feedResource m f b) s (fun t =>
      Logged s t 3 (meterNow s m) (countBody b f.seq 0 0 0 0) ∧ t.mtr.comps = s.mtr.comps)) ∧
    (∀ x, meterComp s b.composition.val = some x →
      Completes (.feedUnbind m f b) s (fun t => meterComp t b.composition.val = none ∧ OtherCountsStay s t b.composition.val ∧
        Logged s t 4 (meterNow s m) (countBody b f.seq 0 (x.bound + (meterNow s m - x.since))
          (x.regionTicks + (meterNow s m - x.since) * x.body.regionCount)
          (x.stackTicks + (meterNow s m - x.since) * x.body.stackCount))) ∧
      (b.package = false → Completes (.feedResource m f b) s (fun t => OtherCountsStay s t b.composition.val ∧
        meterComp t b.composition.val = some { countTo x (meterNow s m) with body := b, seq := f.seq } ∧
        Logged s t 3 (meterNow s m) (countBody b f.seq 0 (x.bound + (meterNow s m - x.since))
          (x.regionTicks + (meterNow s m - x.since) * x.body.regionCount)
          (x.stackTicks + (meterNow s m - x.since) * x.body.stackCount)))))) ∧
  (∀ s m f, FrameKept s f →
    (∀ body, Completes (.feedSeal m f body) s (fun t => Logged s t 7 (meterNow s m) (frameBody body f.seq) ∧ t.mtr.comps = s.mtr.comps)) ∧
    (∀ src target limit, target ≠ 3 → target ≠ 4 → target ≠ 5 → Completes (.feedPower m f src target limit) s (fun t =>
      Logged s t 8 (meterNow s m) (frameBody (leBytes 1 src ++ leBytes 1 target ++ leBytes 2 limit) f.seq) ∧
      t.mtr.comps = s.mtr.comps)) ∧
    (∀ src target limit, (target = 3 ∨ target = 4 ∨ target = 5) → Completes (.feedPower m f src target limit) s (fun t =>
      (∀ c, meterComp t c = none) ∧ s.mtr.newest < t.mtr.newest)) ∧
    Completes (.feedKeepalive m f) s (fun t => t.mtr.lastSeq = f.seq ∧ t.mtr.newest = s.mtr.newest ∧ t.mtr.comps = s.mtr.comps ∧
      t.mtr.lastFrame = meterNow s m ∧ t.mtr.silent = false))

/-- O55. SILENT, INTERVAL, TAMPER, METER_FAULT, LANE_STATUS_FRAME, MTR_VAUX3_LOSS, MTR_VAUX3_RETURN, KEEPALIVE, RECORD_COPY,
RECORD_LANE_SILENT
and MTR_SELECT complete. The meter by itself: silence of 10 ms is logged once and closes every count; the end of an interval starts every
count again; a broken seal
and a fault are logged and last; a lane status frame is sent; the loss of its supply stops it, and the return starts it at the next BOOT.
Without its supply it does nothing, and what its own timers have not yet reached it does not do.
The part's side of the feed: a millisecond without a frame sends KEEPALIVE, twice as every frame. A record copy takes its slot of the
mailbox and shows in MTR_NEWEST and MTR_STATUS; a silent lane shows in MTR_STATUS; MTR_SELECT latches the record that it names, or none. -/
def Obligations.MeterRunsItself : Prop :=
  (∀ s m, s.mtr.powered = true →
    ((s.mtr.silent = true ∨ meterNow s m < s.mtr.heard + 100000) → Completes (.silent m) s (fun t =>
      t.mtr.newest = s.mtr.newest ∧ t.mtr.comps = s.mtr.comps ∧ t.mtr.log = s.mtr.log)) ∧
    (s.mtr.silent = false → s.mtr.heard + 100000 ≤ meterNow s m → Completes (.silent m) s (fun t => t.mtr.silent = true ∧
      (∀ c, meterComp t c = none) ∧
      s.mtr.newest < t.mtr.newest ∧
      (s.mtr.comps = [] → Logged s t 9 (meterNow s m) (faultBody (s.mtr.lastSeq + 1) (s.mtr.lastSeq + 1) 4)))) ∧
    (∀ lw hw lv hv, meterNow s m < s.mtr.intervalStart + s.mtr.intervalS * 10000000 → Completes (.interval m lw hw lv hv) s (fun t =>
      t.mtr.newest = s.mtr.newest ∧ t.mtr.comps = s.mtr.comps ∧ t.mtr.interval = s.mtr.interval)) ∧
    (∀ lw hw lv hv, s.mtr.intervalStart + s.mtr.intervalS * 10000000 ≤ meterNow s m → Completes (.interval m lw hw lv hv) s (fun t =>
      t.mtr.interval = s.mtr.interval + 1 ∧ t.mtr.intervalStart = s.mtr.intervalStart + s.mtr.intervalS * 10000000 ∧
      (∀ c x, meterComp s c = some x → ∃ y, meterComp t c = some y ∧ y.bound = 0 ∧ y.regionTicks = 0 ∧ y.stackTicks = 0 ∧
        y.body = x.body) ∧
      (s.mtr.comps = [] → Logged s t 6 (s.mtr.intervalStart + s.mtr.intervalS * 10000000)
        (leBytes 8 s.mtr.interval ++ leBytes 8 ((s.mtr.energy + m.millijoules) % 2 ^ 64 - s.mtr.intervalEnergy) ++
          leBytes 4 lw ++ leBytes 4 hw ++ leBytes 4 lv ++ leBytes 4 hv)))) ∧
    (∀ seg, Completes (.tamper m seg) s (fun t => t.mtr.broken = true ∧ Logged s t 10 (meterNow s m) (leBytes 1 seg) ∧
      t.mtr.comps = s.mtr.comps)) ∧
    (∀ cause, Completes (.meterFault m cause) s (fun t => t.mtr.fault = true ∧ t.mtr.comps = s.mtr.comps ∧
      (cause = .oscillator → Logged s t 12 (meterNow s m) (leBytes 1 0)) ∧
      (cause = .converter → Logged s t 12 (meterNow s m) (leBytes 1 1)))) ∧
    (meterNow s m < s.mtr.statusAt + 1000000 → Completes (.laneStatusFrame m) s (fun t => t.mtr.newest = s.mtr.newest ∧
      t.mtr.log = s.mtr.log ∧ t.out = s.out)) ∧
    (s.mtr.statusAt + 1000000 ≤ meterNow s m → Completes (.laneStatusFrame m) s (fun t => t.mtr.newest = s.mtr.newest ∧
      t.mtr.log = s.mtr.log ∧
      Sends s t (.laneStatus s.mtr.meterId s.mtr.boot s.mtr.newest s.mtr.broken s.mtr.fault) ∧
      (s.plt.mainRails = true → getF t F.mtrMeterIdLo.id = s.mtr.meterId % 2 ^ 64 ∧
        getF t F.mtrStatus.bindingMatch = (if s.mtr.meterId = meterBinding s then 1 else 0)))) ∧
    Completes (.mtrVaux3Loss m) s (fun t => t.mtr.powered = false ∧ t.mtr.comps = [] ∧ t.mtr.dynAddr = none ∧ t.mtr.log = s.mtr.log ∧
      t.mtr.newest = s.mtr.newest ∧ t.mtr.broken = s.mtr.broken ∧ t.mtr.fault = s.mtr.fault ∧ t.plt = s.plt)) ∧
  (∀ s, s.mtr.powered = false →
    (Completes .mtrVaux3Return s (fun t => t.mtr.powered = true ∧ t.mtr.boot = (s.mtr.boot + 1) % 2 ^ 32 ∧ t.mtr.mtc = 0 ∧
      t.mtr.broken = s.mtr.broken ∧ t.mtr.fault = s.mtr.fault ∧ Logged s t 1 0 (startBody s))) ∧
    (∀ m, exec (.silent m) s = .next s ∧ (∀ seg, exec (.tamper m seg) s = .next s) ∧ exec (.laneStatusFrame m) s = .next s ∧
      (∀ bs, exec (.mark m bs) s = .next s) ∧ (∀ f, exec (.feedKeepalive m f) s = .next s))) ∧
  (∀ s, s.mtr.powered = true → exec .mtrVaux3Return s = .next s) ∧
  (∀ s, feedOn s = true → s.plt.lmc < s.lane.msAt + usCounts 1000 → exec .keepalive s = .next s) ∧
  (∀ s, feedOn s = true → s.lane.msAt + usCounts 1000 ≤ s.plt.lmc →
    (s.lane.sentThisMs = true → Effect .keepalive s { s with lane := { s.lane with
      sentThisMs := false, msAt := s.plt.lmc - s.plt.lmc % usCounts 1000 } }) ∧
    (s.lane.sentThisMs = false → Completes .keepalive s (fun t => t.lane.nextSeq = (s.lane.nextSeq + 1) % 2 ^ 32 ∧
      t.lane.sentThisMs = false ∧ ∃ l, t.out = l ++ (.feed s.lane.nextSeq .keepalive) :: (.feed s.lane.nextSeq .keepalive) :: s.out))) ∧
  (∀ s, feedOn s = false → exec .keepalive s = .next s) ∧
  (∀ s (r : MeterRecord), s.plt.mainRails = true → s.mtr.powered = true → Completes (.recordCopy r) s (fun t =>
    tabGet none t.lane.mailbox (r.recordNo % 4096) = some r ∧
    (∀ k, k ≠ r.recordNo % 4096 → tabGet none t.lane.mailbox k = tabGet none s.lane.mailbox k) ∧
    getF t F.mtrNewest.recordNo = r.recordNo % 2 ^ 64 ∧ getF t F.mtrStatus.state = 1 ∧
    getF t F.mtrStatus.brokenSeal = r.brokenSeal.toNat ∧ getF t F.mtrStatus.meterFault = r.meterFault.toNat ∧
    t.lane.latched = s.lane.latched ∧ t.mtr = s.mtr ∧
    ((r.type = 9 ∨ r.type = 10 ∨ r.type = 12) → isSet s F.mtrCtl.notifyEnable = true → vectorOpen s (getF s F.mtrCtl.vector) = true →
      Sends s t (.msix (getF s F.mtrCtl.vector))))) ∧
  (∀ s, lmcRuns s = true → s.lane.heardAt + usCounts 1000000 ≤ s.plt.lmc → Effect .recordLaneSilent s (putF s F.mtrStatus.state 2)) ∧
  (∀ s, s.plt.lmc < s.lane.heardAt + usCounts 1000000 → exec .recordLaneSilent s = .next s) ∧
  (∀ s n, serves s 15 = true → n < 2 ^ 64 →
    (∀ r, tabGet none s.lane.mailbox (n % 4096) = some r → r.recordNo = n → Completes (.mtrSelect n) s (fun t =>
      t.lane.latched = some r ∧ getF t F.mtrSelectStatus.status = 0 ∧ getF t F.mtrSelect.recordNo = n ∧ t.mtr = s.mtr)) ∧
    ((∀ r, tabGet none s.lane.mailbox (n % 4096) = some r → r.recordNo ≠ n) → Completes (.mtrSelect n) s (fun t =>
      t.lane.latched = none ∧ getF t F.mtrSelectStatus.status = 1 ∧ getF t F.mtrSelect.recordNo = n ∧ t.mtr = s.mtr)))

/-! ## The I3C port of the meter (19) -/

namespace Sys2Proof

/-- What no I3C command changes (R533): time and energy go on as the meter's own instruments have it, and every count, state and identity
stays, as does every slot of the log but the next. -/
def MeasuresStay (s t : State) (m : MeterStamp) : Prop :=
  t.mtr.mtc = meterNow s m ∧ t.mtr.energy = (s.mtr.energy + m.millijoules) % 2 ^ 64 ∧ t.mtr.comps = s.mtr.comps ∧
  t.mtr.boot = s.mtr.boot ∧ t.mtr.broken = s.mtr.broken ∧ t.mtr.fault = s.mtr.fault ∧ t.mtr.feedFaults = s.mtr.feedFaults ∧
  t.mtr.interval = s.mtr.interval ∧ t.mtr.intervalStart = s.mtr.intervalStart ∧ t.mtr.intervalEnergy = s.mtr.intervalEnergy ∧
  t.mtr.meterId = s.mtr.meterId ∧ t.mtr.staticAddr = s.mtr.staticAddr ∧ t.mtr.intervalS = s.mtr.intervalS ∧
  t.mtr.certificate = s.mtr.certificate ∧ t.plt = s.plt ∧
  ∀ k, k ≠ (s.mtr.newest + 1) % 2 ^ 20 → tabGet none t.mtr.log k = tabGet none s.mtr.log k

/-- A command of the port that logs nothing: it completes, changes no measure and no record, and does nothing without the meter's supply. -/
def OnlyReads (c : Instr) (s : State) (m : MeterStamp) : Prop :=
  (s.mtr.powered = true → Completes c s (fun t => MeasuresStay s t m ∧ t.mtr.log = s.mtr.log ∧ t.mtr.newest = s.mtr.newest)) ∧
  (s.mtr.powered = false → exec c s = .next s)

end Sys2Proof

/-- O56. MARK, and every other command of the I3C port, completes. A MARK records the reader's bytes with the meter time of its arrival. No
I3C command changes a measurement, a count, a fuse or an
earlier record: time and energy go on as the meter's own instruments have it, every count and state stays, and no slot of the log changes
but the one that a MARK's record takes. -/
def Obligations.MarksChangeNothingElse : Prop :=
  (∀ s m bs, (s.mtr.powered = true → Completes (.mark m bs) s (fun t =>
      Logged s t 11 (meterNow s m) (bs.take 8) ∧ MeasuresStay s t m)) ∧
    (s.mtr.powered = false → exec (.mark m bs) s = .next s)) ∧
  (∀ s m, OnlyReads (.identity m) s m ∧ OnlyReads (.i3cStatus m) s m ∧ OnlyReads (.record m) s m ∧ OnlyReads (.certificate m) s m ∧
    OnlyReads (.getpid m) s m ∧ OnlyReads (.getbcr m) s m ∧ OnlyReads (.getdcr m) s m ∧ OnlyReads (.getstatus m) s m ∧
    (∀ k, OnlyReads (.pointer m k) s m) ∧ (∀ a, OnlyReads (.entdaa m a) s m) ∧ (∀ x a, OnlyReads (.setdasa m x a) s m) ∧
    ∀ e, OnlyReads (.enec m e) s m)

/-- O57. The I3C port answers: IDENTITY, STATUS, RECORD and CERTIFICATE their bytes; RECORD reads the record at POINTER, or 0xFF where the log
does not hold it, and moves on; ENTDAA and SETDASA give a dynamic address to a target without one; a directed read is answered under
a dynamic address alone; ENEC enables in-band interrupts. IDENTITY, I3C_STATUS, POINTER, RECORD, CERTIFICATE, ENTDAA, SETDASA, GETPID,
GETBCR,
GETDCR, GETSTATUS and ENEC complete. -/
def Obligations.I3cPortAnswers : Prop :=
  ∀ s m, s.mtr.powered = true →
    Completes (.identity m) s (fun t => Sends s t (.i3c (leBytes 16 s.mtr.meterId ++ leBytes 4 Config.meterRomVersion ++
      leBytes 8 s.mtr.newest ++ leBytes 4 (min (s.mtr.newest - 1) 1048575))) ∧ t.mtr.pointer = s.mtr.pointer) ∧
    Completes (.i3cStatus m) s (fun t => Sends s t (.i3c (leBytes 8
      (s.mtr.broken.toNat + 2 * s.mtr.fault.toNat + s.mtr.feedFaults * 2 ^ 32)))) ∧
    (∀ k, Completes (.pointer m k) s (fun t => t.mtr.pointer = k % 2 ^ 64 ∧ t.mtr.dynAddr = s.mtr.dynAddr)) ∧
    (∀ r, tabGet none s.mtr.log (s.mtr.pointer % 2 ^ 20) = some r → r.recordNo = s.mtr.pointer → Completes (.record m) s (fun t =>
      Sends s t (.i3c (meterRecordBytes r)) ∧ t.mtr.pointer = (s.mtr.pointer + 1) % 2 ^ 64)) ∧
    ((∀ r, tabGet none s.mtr.log (s.mtr.pointer % 2 ^ 20) = some r → r.recordNo ≠ s.mtr.pointer) → Completes (.record m) s (fun t =>
      Sends s t (.i3c (List.replicate 256 255)) ∧ t.mtr.pointer = (s.mtr.pointer + 1) % 2 ^ 64)) ∧
    Completes (.certificate m) s (fun t => Sends s t (.i3c (s.mtr.certificate.take 1024))) ∧
    (∀ a, (s.mtr.dynAddr = none → Completes (.entdaa m a) s (fun t => t.mtr.dynAddr = some a)) ∧
      (s.mtr.dynAddr ≠ none → Completes (.entdaa m a) s (fun t => t.mtr.dynAddr = s.mtr.dynAddr ∧ Sends s t .i3cNack)) ∧
      (s.mtr.dynAddr = none → Completes (.setdasa m s.mtr.staticAddr a) s (fun t => t.mtr.dynAddr = some a)) ∧
      (∀ x, (s.mtr.dynAddr ≠ none ∨ x ≠ s.mtr.staticAddr) → Completes (.setdasa m x a) s (fun t =>
        t.mtr.dynAddr = s.mtr.dynAddr ∧ Sends s t .i3cNack))) ∧
    (s.mtr.dynAddr ≠ none →
      Completes (.getpid m) s (fun t => Sends s t (.i3c Config.i3cPid)) ∧
      Completes (.getbcr m) s (fun t => Sends s t (.i3c Config.i3cBcr)) ∧
      Completes (.getdcr m) s (fun t => Sends s t (.i3c Config.i3cDcr)) ∧
      Completes (.getstatus m) s (fun t => Sends s t (.i3c (Config.i3cStatus s.fresh)))) ∧
    (s.mtr.dynAddr = none →
      Completes (.getpid m) s (fun t => Sends s t .i3cNack) ∧ Completes (.getbcr m) s (fun t => Sends s t .i3cNack) ∧
      Completes (.getdcr m) s (fun t => Sends s t .i3cNack) ∧ Completes (.getstatus m) s (fun t => Sends s t .i3cNack)) ∧
    (∀ e : Byte, Completes (.enec m e) s (fun t => t.mtr.ibi = (s.mtr.ibi || e.getLsbD 0) ∧ t.mtr.dynAddr = s.mtr.dynAddr))

/-! ## Rules stated whole -/

namespace Sys2Proof

/-- Vector `k` with its Mask bit clear. -/
def unmasked (s : State) (k : Nat) : State :=
  { s with pcie := { s.pcie with table := tabMod {} s.pcie.table k (fun e => { e with masked := false }) } }

end Sys2Proof

/-- O58. Vectors (R600): an event of an open vector sends one message, whatever register named the vector. An event of a vector that may not
send sets its Pending Bit alone, and one that finds the bit set adds nothing; the unmasking of a vector sends one message for its Pending
Bit and clears it, and sends none where the bit is clear. VECTOR_UNMASK completes. -/
def Obligations.VectorsSendOneMessage : Prop :=
  (∀ s k, vectorOpen s k = true → (signal s k).out = .msix k :: s.out ∧ (signal s k).pcie = s.pcie) ∧
  (∀ s e f v w, isSet s e = true → isSet s f = true → getF s v = getF s w → notify s e v = notify s f w) ∧
  (∀ s k, vectorOpen s k = false → tabGet false (signal s k).pcie.pending k = true ∧ (signal s k).out = s.out ∧
    (∀ j, j ≠ k → tabGet false (signal s k).pcie.pending j = tabGet false s.pcie.pending j) ∧
    (signal (signal s k) k).out = s.out ∧ tabGet false (signal (signal s k) k).pcie.pending k = true) ∧
  (∀ s (k : Fin 4160), s.plt.mainRails = true → vectorOpen (unmasked s k.val) k.val = true →
    ∃ u, Effect (.vectorUnmask k) s u ∧ tabGet false u.pcie.pending k.val = false ∧ (tabGet {} u.pcie.table k.val).masked = false ∧
      u.out = (if tabGet false s.pcie.pending k.val then .msix k.val :: s.out else s.out))

/-- O59. SILENT completes. Silence (R523): where no frame has arrived for 10 ms of meter time, the meter writes a FEED_FAULT record with
cause SILENT, and then a
CLOSE record with cause FEED_LOST for every open composition, at the meter time of the last frame kept, with the counts up to it; no
composition stays open. -/
def Obligations.SilenceClosesEveryCount : Prop :=
  ∀ s m, s.mtr.powered = true → s.mtr.silent = false → s.mtr.heard + 100000 ≤ meterNow s m → Completes (.silent m) s (fun t =>
    (∃ r : MeterRecord, r.type = 9 ∧ r.recordNo = s.mtr.newest + 1 ∧ r.mtc = meterNow s m ∧
      r.body = faultBody (s.mtr.lastSeq + 1) (s.mtr.lastSeq + 1) 4 ∧ Sends s t (.record (meterRecordBytes r))) ∧
    (∀ c x, meterComp s c = some x → ∃ r : MeterRecord, r.type = 4 ∧ s.mtr.newest + 1 < r.recordNo ∧ r.mtc = s.mtr.lastFrame ∧
      r.energy = s.mtr.lastEnergy ∧ r.body = countBody x.body x.seq 2 (x.bound + (s.mtr.lastFrame - x.since))
        (x.regionTicks + (s.mtr.lastFrame - x.since) * x.body.regionCount)
        (x.stackTicks + (s.mtr.lastFrame - x.since) * x.body.stackCount) ∧
      Sends s t (.record (meterRecordBytes r))) ∧
    ∀ c, meterComp t c = none)

/-! ## What stands on the links (11, 13, 14, 19, 21) -/

/-- O60. The headers that the part writes read back as they were written, with every field at every value that it may have: the transport and
message headers of an RST datagram (R315 to R317), the header of a Roale frame with a good trailer (R415, R416), the header of a coded block
(R373), an event frame with its CRC (R519, R520) and a chain frame with its CRC (R563). -/
def Obligations.HeadersReadBack : Prop :=
  (∀ (d : Datagram) source dest port dscp ok, d.connection < 2 ^ 32 → d.seq < 2 ^ 32 → d.ack < 2 ^ 32 → d.window < 2 ^ 16 →
    d.epoch < 2 ^ 32 → d.requestId < 2 ^ 64 → d.xfer < 2 ^ 16 → d.chunk < 2 ^ 32 →
    headerOf source dest port dscp ok (datagramWire d) = some
      { source := source, dest := dest, connection := d.connection, seq := d.seq, ack := d.ack, window := d.window,
        ackOnly := d.ackOnly, syn := d.syn, reset := d.reset, last := d.last, takeover := d.takeover, append := d.append,
        status := d.status, epoch := d.epoch, requestId := d.requestId, xfer := d.xfer, chunk := d.chunk, port := port,
        bytes := 48 + (chunkBytes d).length, dscp := dscp, gcmOk := ok }) ∧
  (∀ (port : RoalePort) (source dest : Member) (tenant : Tenant) (tag : FrameTag) type op size status address operand payload,
    tag.generation < 16 → size < 256 → address < 2 ^ 48 → payload.length < 2 ^ 16 →
    frameHeaderOf port (roaleFrame type source.val dest.val tenant.val (tagWord tag) op size status address operand payload) =
      { port := port, source := source, dest := dest, tenant := tenant, tag := tag, size := 2 ^ size, address := address,
        poisoned := false }) ∧
  (∀ b : CodedBlock, b.stageASize < 2 ^ 16 → b.wireSize = b.body.length → b.wireSize < 2 ^ 16 → b.slot < 4 → b.format < 256 →
    b.tableTag < 256 → codedOf (codedBytes b) = b) ∧
  (∀ q b, q < 2 ^ 32 → feedHeadOf (feedFrame q b) = { seq := q, crcOk := true, declared := true }) ∧
  (∀ q (b : CompositionBody), b.role < 256 → b.regionCount < 256 → b.stackCount < 256 → b.kvGranules < 2 ^ 32 → b.slateGib < 2 ^ 16 →
    b.umberGib < 2 ^ 32 → b.twinRole < 256 → b.member < 256 →
    compositionBodyOf (feedFrame q (.bind b)) = b ∧ compositionBodyOf (feedFrame q (.unbind b)) = b ∧
      compositionBodyOf (feedFrame q (.resource b)) = b) ∧
  (∀ dest source cmd seq status payload, dest < 64 → source < 64 → seq < 256 → payload.length < 256 →
    chainHeadOf (chainFrame dest source cmd seq status payload) = { dest := dest, source := source, seq := seq, crcOk := true })
end

