-- ==== Sys2Proof/Laws/Tab.lean ====
section
/-! SUPPORT. Reading after writing, and the canonical form, for the sparse arrays of State. -/

namespace Sys2Proof.Machine

/-! ## Reading after writing -/

variable {α : Type}

@[simp] theorem tabGet_nil (d : α) (k : Nat) : tabGet d [] k = d := rfl

theorem tabGet_del_self (d : α) (m : Tab α) (k : Nat) : tabGet d (tabDel m k) k = d := by
  induction m with
  | nil => rfl
  | cons e m ih =>
    obtain ⟨k', v⟩ := e
    by_cases h : k' = k <;> simp [tabDel, tabGet, h, ih]

theorem tabGet_del_other (d : α) (m : Tab α) {k j : Nat} (h : j ≠ k) : tabGet d (tabDel m k) j = tabGet d m j := by
  induction m with
  | nil => rfl
  | cons e m ih =>
    obtain ⟨k', v⟩ := e
    by_cases h1 : k' = k
    · simp [tabDel, tabGet, h1, ih, Ne.symm h]
    · simp [tabDel, tabGet, h1, ih]

theorem tabGet_ins_self (d : α) (m : Tab α) (k : Nat) (v : α) : tabGet d (tabIns m k v) k = v := by
  induction m with
  | nil => simp [tabIns, tabGet]
  | cons e m ih =>
    obtain ⟨k', v'⟩ := e
    by_cases h1 : k' = k
    · simp [tabIns, tabGet, h1]
    · by_cases h2 : k < k' <;> simp [tabIns, tabGet, h1, h2, ih]

theorem tabGet_ins_other (d : α) (m : Tab α) {k j : Nat} (v : α) (h : j ≠ k) :
    tabGet d (tabIns m k v) j = tabGet d m j := by
  induction m with
  | nil => simp [tabIns, tabGet, Ne.symm h]
  | cons e m ih =>
    obtain ⟨k', v'⟩ := e
    by_cases h1 : k' = k
    · simp [tabIns, tabGet, h1, Ne.symm h]
    · by_cases h2 : k < k'
      · simp [tabIns, tabGet, h1, h2, Ne.symm h]
      · simp [tabIns, tabGet, h1, h2, ih]

variable [DecidableEq α]

/-- What was put is read back. -/
@[simp] theorem tabGet_put_self (d : α) (m : Tab α) (k : Nat) (v : α) : tabGet d (tabPut d m k v) k = v := by
  unfold tabPut
  split
  · next h => rw [h]; exact tabGet_del_self d m k
  · exact tabGet_ins_self d m k v

/-- A write leaves every other key alone. -/
theorem tabGet_put_other (d : α) (m : Tab α) {k j : Nat} (v : α) (h : j ≠ k) :
    tabGet d (tabPut d m k v) j = tabGet d m j := by
  unfold tabPut
  split
  · exact tabGet_del_other d m h
  · exact tabGet_ins_other d m v h

/-- Reading after a write, at any key. -/
theorem tabGet_put (d : α) (m : Tab α) (k j : Nat) (v : α) :
    tabGet d (tabPut d m k v) j = if j = k then v else tabGet d m j := by
  split
  · next h => rw [h]; exact tabGet_put_self d m k v
  · next h => exact tabGet_put_other d m v h

@[simp] theorem tabGet_mod_self (d : α) (m : Tab α) (k : Nat) (f : α → α) :
    tabGet d (tabMod d m k f) k = f (tabGet d m k) := tabGet_put_self d m k _

theorem tabGet_mod_other (d : α) (m : Tab α) {k j : Nat} (f : α → α) (h : j ≠ k) :
    tabGet d (tabMod d m k f) j = tabGet d m j := tabGet_put_other d m _ h

/-- Reading after a run of writes. -/
theorem tabGet_putRun (d : α) (vs : List α) (m : Tab α) (k j : Nat) :
    tabGet d (tabPutRun d m k vs) j = if h : k ≤ j ∧ j < k + vs.length then vs[j - k] else tabGet d m j := by
  induction vs generalizing m k with
  | nil => simp only [tabPutRun, List.length_nil]; split <;> first | omega | rfl
  | cons v vs ih =>
    simp only [tabPutRun, ih, List.length_cons]
    by_cases h1 : k + 1 ≤ j ∧ j < k + 1 + vs.length
    · have h2 : k ≤ j ∧ j < k + (vs.length + 1) := by omega
      rw [dif_pos h1, dif_pos h2]
      have e : j - k = (j - (k + 1)) + 1 := by omega
      simp only [e, List.getElem_cons_succ]
    · rw [dif_neg h1]
      by_cases h3 : j = k
      · subst h3
        have h2 : j ≤ j ∧ j < j + (vs.length + 1) := by omega
        rw [dif_pos h2]; simp
      · have h2 : ¬(k ≤ j ∧ j < k + (vs.length + 1)) := by omega
        rw [dif_neg h2, tabGet_put_other d m v h3]

/-- A run of writes leaves every key outside it alone. -/
theorem tabGet_putRun_other (d : α) (vs : List α) (m : Tab α) (k j : Nat) (h : j < k ∨ k + vs.length ≤ j) :
    tabGet d (tabPutRun d m k vs) j = tabGet d m j := by
  rw [tabGet_putRun, dif_neg (by omega)]

omit [DecidableEq α] in
@[simp] theorem tabGetRun_length (d : α) (m : Tab α) (k n : Nat) : (tabGetRun d m k n).length = n := by
  induction n generalizing k with
  | zero => rfl
  | succ n ih => simp [tabGetRun, ih]

omit [DecidableEq α] in
/-- A run read at once is the run read one by one. -/
theorem getElem_tabGetRun (d : α) (m : Tab α) (k n i : Nat) (h : i < (tabGetRun d m k n).length) :
    (tabGetRun d m k n)[i] = tabGet d m (k + i) := by
  induction n generalizing k i with
  | zero => simp [tabGetRun] at h
  | succ n ih =>
    cases i with
    | zero => rfl
    | succ i =>
      have e : k + 1 + i = k + (i + 1) := by omega
      simp only [tabGetRun, List.getElem_cons_succ, ih, e]

/-! ## The canonical form -/

omit [DecidableEq α] in
theorem tabRising_mono {lo lo' : Option Nat} (m : Tab α) (h : ∀ l', lo' = some l' → ∃ l, lo = some l ∧ l' ≤ l)
    (hr : tabRising lo m = true) : tabRising lo' m = true := by
  cases m with
  | nil => rfl
  | cons e m =>
    obtain ⟨k, v⟩ := e
    simp only [tabRising, Bool.and_eq_true] at hr ⊢
    refine ⟨?_, hr.2⟩
    cases lo' with
    | none => rfl
    | some l' =>
      obtain ⟨l, rfl, hl⟩ := h l' rfl
      have := of_decide_eq_true hr.1
      exact decide_eq_true (by omega)

omit [DecidableEq α] in
theorem tabRising_none {lo : Option Nat} (m : Tab α) (h : tabRising lo m = true) : tabRising none m = true :=
  tabRising_mono m (by intro l' h'; cases h') h

omit [DecidableEq α] in
theorem tabRising_filter (lo : Option Nat) (m : Tab α) (p : Nat × α → Bool) (h : tabRising lo m = true) :
    tabRising lo (m.filter p) = true := by
  induction m generalizing lo with
  | nil => rfl
  | cons e m ih =>
    obtain ⟨k, v⟩ := e
    simp only [tabRising, Bool.and_eq_true] at h
    by_cases hp : p (k, v)
    · rw [List.filter_cons_of_pos hp]
      simp only [tabRising, Bool.and_eq_true]
      exact ⟨h.1, ih (some k) h.2⟩
    · rw [List.filter_cons_of_neg hp]
      refine ih lo (tabRising_mono m ?_ h.2)
      intro l' hl
      subst hl
      exact ⟨k, rfl, by have := of_decide_eq_true h.1; omega⟩

omit [DecidableEq α] in
theorem tabDel_eq_filter (m : Tab α) (k : Nat) : tabDel m k = m.filter (fun e => !(e.1 == k)) := by
  induction m with
  | nil => rfl
  | cons e m ih =>
    obtain ⟨k', v⟩ := e
    by_cases h : k' = k <;> simp [tabDel, h, ih]

omit [DecidableEq α] in
theorem tabRising_ins (lo : Option Nat) (m : Tab α) (k : Nat) (v : α) (h : tabRising lo m = true)
    (hk : ∀ l, lo = some l → l < k) : tabRising lo (tabIns m k v) = true := by
  induction m generalizing lo with
  | nil =>
    cases lo with
    | none => rfl
    | some l => simp [tabIns, tabRising, hk l rfl]
  | cons e m ih =>
    obtain ⟨k', v'⟩ := e
    simp only [tabRising, Bool.and_eq_true] at h
    by_cases h1 : k' = k
    · subst h1
      simp only [tabIns, if_true, tabRising, Bool.and_eq_true]
      exact h
    · by_cases h2 : k < k'
      · simp only [tabIns, if_neg h1, if_pos h2, tabRising, Bool.and_eq_true]
        refine ⟨?_, decide_eq_true h2, h.2⟩
        cases lo with
        | none => rfl
        | some l => exact decide_eq_true (hk l rfl)
      · simp only [tabIns, if_neg h1, if_neg h2, tabRising, Bool.and_eq_true]
        exact ⟨h.1, ih (some k') h.2 (by intro l hl; cases hl; omega)⟩

omit [DecidableEq α] in
theorem mem_tabIns (m : Tab α) (k : Nat) (v : α) (e : Nat × α) (h : e ∈ tabIns m k v) : e = (k, v) ∨ e ∈ m := by
  induction m with
  | nil => simpa [tabIns] using h
  | cons e' m ih =>
    obtain ⟨k', v'⟩ := e'
    by_cases h1 : k' = k
    · simp only [tabIns, if_pos h1, List.mem_cons] at h
      rcases h with h | h
      · exact .inl h
      · exact .inr (List.mem_cons_of_mem _ h)
    · by_cases h2 : k < k'
      · simp only [tabIns, if_neg h1, if_pos h2, List.mem_cons] at h
        rcases h with h | h
        · exact .inl h
        · exact .inr (by simpa using h)
      · simp only [tabIns, if_neg h1, if_neg h2, List.mem_cons] at h
        rcases h with h | h
        · exact .inr (by simp [h])
        · rcases ih h with h | h
          · exact .inl h
          · exact .inr (List.mem_cons_of_mem _ h)

/-- A write keeps the canonical form. -/
theorem tabWf_put (d : α) (m : Tab α) (k : Nat) (v : α) (h : tabWf d m = true) : tabWf d (tabPut d m k v) = true := by
  simp only [tabWf, Bool.and_eq_true, List.all_eq_true] at h ⊢
  unfold tabPut
  split
  · rw [tabDel_eq_filter]
    exact ⟨tabRising_filter none m _ h.1, fun e he => h.2 e (List.mem_filter.1 he).1⟩
  · next hv =>
    refine ⟨tabRising_ins none m k v h.1 (by intro l hl; cases hl), fun e he => ?_⟩
    rcases mem_tabIns m k v e he with rfl | he
    · simpa using hv
    · exact h.2 e he

/-- A run of writes keeps the canonical form. -/
theorem tabWf_putRun (d : α) (vs : List α) (m : Tab α) (k : Nat) (h : tabWf d m = true) :
    tabWf d (tabPutRun d m k vs) = true := by
  induction vs generalizing m k with
  | nil => exact h
  | cons v vs ih => exact ih _ _ (tabWf_put d m k v h)

/-- Dropping entries keeps the canonical form. -/
theorem tabWf_drop (d : α) (m : Tab α) (p : Nat → α → Bool) (h : tabWf d m = true) : tabWf d (tabDrop m p) = true := by
  simp only [tabWf, Bool.and_eq_true, List.all_eq_true] at h ⊢
  exact ⟨tabRising_filter none m _ h.1, fun e he => h.2 e (List.mem_filter.1 he).1⟩

end Sys2Proof.Machine
end

