-- ==== Sys2Proof/Laws/Output.lean ====
section
/-! SUPPORT. What giving output can change: `Told` holds of every operation that writes records, sends messages, sends mirror
records or signals a vector, and the end of a command changes capacity pressure besides. -/

namespace Sys2Proof.Machine

open Sys2Proof

/-- Fields that the counts of sent blocks do not write. -/
def Field.isTold (f : Field) : Bool := f.key != F.codStats.rawBlocks.key && f.key != F.codStats.codedBlocks.key

/-- Fields that neither counts of sent blocks nor capacity pressure write. -/
def Field.isQuiet (f : Field) : Bool := f.isTold && (decide (f.key < 0x004a2000 * 64) || decide (0x004a2800 * 64 ≤ f.key))

/-! ## Register fields -/

theorem getF_putF_self (s : State) (f : Field) (v : Nat) : getF (putF s f v) f = v % 2 ^ f.width :=
  tabGet_put_self _ _ _ _

theorem tabGet_put_other' {α : Type} [DecidableEq α] (d d' : α) (m : Tab α) {k j : Nat} (v : α) (h : j ≠ k) :
    tabGet d (tabPut d' m k v) j = tabGet d m j := by
  unfold tabPut
  split
  · exact tabGet_del_other d m h
  · exact tabGet_ins_other d m v h

/-- A write leaves every field of another place alone. -/
theorem getF_putF_other (s : State) (f g : Field) (v : Nat) (h : f.key ≠ g.key) : getF (putF s g v) f = getF s f :=
  tabGet_put_other' _ _ _ _ h

theorem getF_satF_other (s : State) (f g : Field) (h : f.key ≠ g.key) : getF (satF s g) f = getF s f := by
  unfold satF
  split
  · exact getF_putF_other s f g _ h
  · rfl

/-! ## The relation -/

/-- `t` differs from `s` in output alone: records, messages and signals, what waits for a queue, a window or the Mirror, and the
counts of what was sent. -/
structure Told (s t : State) : Prop where
  pending : t.pending = s.pending
  mem : t.mem = s.mem
  plt : t.plt = s.plt
  pwr : t.pwr = s.pwr
  stk : t.stk = s.stk
  fab : t.fab = s.fab
  ucode : t.ucode = s.ucode
  sch : t.sch = s.sch
  pfx : t.pfx = s.pfx
  lnk : t.lnk = s.lnk
  coh : t.coh = s.coh
  fls : t.fls = s.fls
  mtr : t.mtr = s.mtr
  lane : t.lane = s.lane
  pcie : t.pcie = { s.pcie with pending := t.pcie.pending }
  rqt : t.rqt = { s.rqt with queues := t.rqt.queues, entries := t.rqt.entries }
  entry : ∀ i, entryOf t i = { entryOf s i with noticePending := (entryOf t i).noticePending }
  xfr : t.xfr = { s.xfr with conns := t.xfr.conns }
  cod : t.cod = { s.cod with gcm := t.cod.gcm, bypass := t.cod.bypass }
  tm : t.tm = { s.tm with queues := t.tm.queues, waiting := t.tm.waiting }
  twn : t.twn = { s.twn with
    sent := t.twn.sent, held := t.twn.held, newHeld := t.twn.newHeld, mirroredPages := t.twn.mirroredPages
    written := t.twn.written }
  field : ∀ f : Field, f.isTold = true → getF t f = getF s f
  out : ∃ l, t.out = l ++ s.out

theorem Told.refl (s : State) : Told s s := by
  constructor <;> first | rfl | (intros; rfl) | exact ⟨[], rfl⟩

theorem Told.trans {s t u : State} (h : Told s t) (k : Told t u) : Told s u where
  pending := k.pending.trans h.pending
  mem := k.mem.trans h.mem
  plt := k.plt.trans h.plt
  pwr := k.pwr.trans h.pwr
  stk := k.stk.trans h.stk
  fab := k.fab.trans h.fab
  ucode := k.ucode.trans h.ucode
  sch := k.sch.trans h.sch
  pfx := k.pfx.trans h.pfx
  lnk := k.lnk.trans h.lnk
  coh := k.coh.trans h.coh
  fls := k.fls.trans h.fls
  mtr := k.mtr.trans h.mtr
  lane := k.lane.trans h.lane
  pcie := by have a := k.pcie; rw [h.pcie] at a; exact a
  rqt := by have a := k.rqt; rw [h.rqt] at a; exact a
  entry := fun i => by have a := k.entry i; rw [h.entry i] at a; exact a
  xfr := by have a := k.xfr; rw [h.xfr] at a; exact a
  cod := by have a := k.cod; rw [h.cod] at a; exact a
  tm := by have a := k.tm; rw [h.tm] at a; exact a
  twn := by have a := k.twn; rw [h.twn] at a; exact a
  field := fun f q => (k.field f q).trans (h.field f q)
  out := by
    obtain ⟨l, a⟩ := h.out
    obtain ⟨l', b⟩ := k.out
    exact ⟨l' ++ l, by rw [b, a, List.append_assoc]⟩

theorem Told.foldl {α : Type} (g : State → α → State) (h : ∀ s a, Told s (g s a)) (l : List α) (s : State) :
    Told s (l.foldl g s) := by
  induction l generalizing s with
  | nil => exact .refl s
  | cons a l ih => exact (h s a).trans (ih _)

/-! ## Output -/

theorem told_emit (s : State) (o : Output) : Told s (emit s o) := by
  constructor <;> first | rfl | (intros; rfl) | exact ⟨[o], rfl⟩

theorem told_putF (s : State) (f : Field) (v : Nat) (h : f.isTold = false) : Told s (putF s f v) := by
  constructor <;> first | rfl | exact ⟨[], rfl⟩ | skip
  · intros; rfl
  · intro g hg
    refine getF_putF_other s g f v ?_
    intro e
    simp only [Field.isTold, e] at hg
    simp only [Field.isTold] at h
    rw [h] at hg
    cases hg

theorem told_satF (s : State) (f : Field) (h : f.isTold = false) : Told s (satF s f) := by
  unfold satF
  split
  · exact told_putF s f _ h
  · exact .refl s

theorem told_fresh (s : State) (n : Nat) : Told s { s with fresh := n } := by
  constructor <;> first | rfl | (intros; rfl) | exact ⟨[], rfl⟩

theorem told_pick {α : Type} (s : State) (l : List α) : Told s (pick s l).2 := by
  rcases l with _ | ⟨a, _ | ⟨b, l⟩⟩
  · exact .refl s
  · exact .refl s
  · exact told_fresh s _

theorem told_signal (s : State) (k : Nat) : Told s (signal s k) := by
  unfold signal
  split
  · exact told_emit s _
  · constructor <;> first | rfl | (intros; rfl) | exact ⟨[], rfl⟩

theorem told_notify (s : State) (enable vector : Field) : Told s (notify s enable vector) := by
  unfold notify
  split
  · exact told_signal s _
  · exact .refl s

theorem told_setQueues (s : State) (t : Nat) (q : TenantQueues) : Told s (setQueues s t q) := by
  constructor <;> first | rfl | (intros; rfl) | exact ⟨[], rfl⟩

theorem told_noticePending (s : State) (i : Nat) (b : Bool) :
    Told s (setEntry s i { entryOf s i with noticePending := b }) := by
  constructor <;> first | rfl | exact ⟨[], rfl⟩ | skip
  · intro j
    simp only [entryOf, setEntry]
    by_cases h : j = i
    · subst h; rw [tabGet_put_self]
    · rw [tabGet_put_other _ _ _ h]
  · intros; rfl

/-! ## Records -/

theorem told_countRecord (s : State) (t : Nat) : Told s (countRecord s t) := by
  unfold countRecord
  split
  · exact .refl s
  · dsimp only
    split
    · exact (told_setQueues s t _).trans (told_signal _ _)
    · exact told_setQueues s t _

theorem told_emitAll (l : List Output) (s : State) : Told s (emitAll s l) := by
  induction l generalizing s with
  | nil => exact .refl s
  | cons o l ih => exact (told_emit s o).trans (ih _)

theorem told_postRecord (s : State) (p a : Nat) (bs : List Byte) : Told s (postRecord s p a bs) := told_emitAll _ s

/-- A change of what the twin sends, holds and has mirrored. -/
theorem told_twn (s : State) (w : Twin)
    (h : w = { s.twn with
      sent := w.sent, held := w.held, newHeld := w.newHeld, mirroredPages := w.mirroredPages, written := w.written }) :
    Told s { s with twn := w } := by
  constructor <;> first | rfl | exact h | (intros; rfl) | exact ⟨[], rfl⟩

theorem told_noteWritten (s : State) (t q : Nat) : Told s (noteWritten s t q) := by
  unfold noteWritten
  split
  · exact told_twn s _ rfl
  · exact .refl s

theorem told_writeCompletion (s : State) (t : Nat) (r : Completion) : Told s (writeCompletion s t r) :=
  (((told_setQueues s t _).trans (told_postRecord _ _ _ _)).trans (told_noteWritten _ _ _)).trans (told_countRecord _ _)

theorem told_writeToken (s : State) (t : Nat) (r : TokenRecord) : Told s (writeToken s t r) :=
  ((told_setQueues s t _).trans (told_postRecord _ _ _ _)).trans (told_countRecord _ _)

theorem told_flushRecord (t : Nat) (acc : State × List RecordOut) (r : RecordOut) : Told acc.1 (flushRecord t acc r).1 := by
  cases r with
  | completion c =>
    unfold flushRecord
    dsimp only
    split
    · exact .refl _
    · exact told_writeCompletion _ _ _
  | token k =>
    unfold flushRecord
    dsimp only
    split
    · exact .refl _
    · exact told_writeToken _ _ _

theorem told_flushRecords (t : Nat) (l : List RecordOut) (acc : State × List RecordOut) :
    Told acc.1 (l.foldl (flushRecord t) acc).1 := by
  induction l generalizing acc with
  | nil => exact .refl _
  | cons r l ih => exact (told_flushRecord t acc r).trans (ih _)

theorem told_markNotice (w : List RecordOut) (s : State) (n : Nat × Nat) : Told s (markNotice w s n) := by
  unfold markNotice
  split
  · exact .refl s
  · exact told_noticePending s _ _

theorem told_flushWith (s : State) (t : Nat) (new : List RecordOut) : Told s (flushWith s t new) := by
  unfold flushWith
  dsimp only
  refine Told.trans ?_ (Told.foldl _ (told_markNotice _) _ _)
  refine Told.trans ?_ (told_setQueues _ _ _)
  exact (told_setQueues s t _).trans (told_flushRecords t _ (_, []))

theorem told_flushTenant (s : State) (t : Nat) : Told s (flushTenant s t) := told_flushWith s t []

theorem told_putRecord (s : State) (t : Nat) (r : RecordOut) : Told s (putRecord s t r) := told_flushWith s t [r]

/-! ## Frames and messages -/

theorem told_enqueue (s : State) (p : PortNo) (f : Frame) : Told s (enqueue s p f) := by
  unfold enqueue putFrame
  dsimp only
  repeat' split
  all_goals constructor <;> first | rfl | (intros; rfl) | exact ⟨[], rfl⟩

theorem told_setBypass (s : State) (p : Nat) (on : Bool) : Told s (setBypass s p on) := by
  constructor <;> first | rfl | (intros; rfl) | exact ⟨[], rfl⟩

theorem told_enterEncode (s : State) (p n : Nat) : Told s (enterEncode s p n) := by
  unfold enterEncode
  split
  · exact told_setBypass s _ _
  · exact .refl s

theorem told_leaveEncode (s : State) (p : Nat) : Told s (leaveEncode s p) := by
  unfold leaveEncode
  split
  · exact told_setBypass s _ _
  · exact .refl s

theorem told_enqueueBlock (s : State) (p : PortNo) (f : Frame) : Told s (enqueueBlock s p f) :=
  (told_enqueue s p f).trans (told_leaveEncode _ _)

theorem told_codePayload (s : State) (p : Nat) (m : RstMsg) : Told s (codePayload s p m).2 := by
  unfold codePayload
  split
  · exact told_enterEncode s _ _
  · exact told_enterEncode s _ _
  · exact .refl s

theorem told_coded (s : State) (p : PortNo) (d : Datagram) : Told s (coded s p d).2 := by
  unfold coded
  split
  · exact .refl s
  · exact told_codePayload s _ _

theorem told_setConn (s : State) (c : Connection) : Told s (setConn s c) := by
  constructor <;> first | rfl | (intros; rfl) | exact ⟨[], rfl⟩

theorem told_dropConn (s : State) (a : PartAddr) : Told s (dropConn s a) := by
  constructor <;> first | rfl | (intros; rfl) | exact ⟨[], rfl⟩

theorem told_countBlock (s : State) (b : Option CodedBlock) : Told s (countBlock s b) := by
  unfold countBlock
  split
  · split
    · exact told_satF s _ (by decide)
    · exact told_satF s _ (by decide)
  · exact .refl s

theorem told_rstPort (s : State) (a : PartAddr) (n : Nat) : Told s (rstPort s a n).2 := by
  unfold rstPort
  split
  · exact .refl s
  · exact told_pick s _

theorem told_sendDatagram (s : State) (d : Datagram) : Told s (sendDatagram s d).2 := by
  unfold sendDatagram
  dsimp only
  split
  · exact (((told_rstPort s _ _).trans (told_coded _ _ _)).trans (told_countBlock _ _)).trans (told_enqueueBlock _ _ _)
  · exact told_rstPort s _ _

theorem told_sealDatagram (s : State) (d : Datagram) (r : Datagram × State) (h : sealDatagram s d = some r) :
    Told s r.2 := by
  unfold sealDatagram at h
  split at h
  · cases h
  · dsimp only at h
    split at h
    · cases h
    · cases h
      constructor <;> first | rfl | (intros; rfl) | exact ⟨[], rfl⟩

theorem told_gcmReset (s : State) (d : Datagram) : Told s (gcmReset s d) :=
  ((told_dropConn s _).trans (told_sendDatagram _ _)).trans (told_notify _ _ _)

theorem told_pump (peer : PartAddr) (fuel : Nat) (s : State) : Told s (pump peer fuel s) := by
  induction fuel generalizing s with
  | zero => exact .refl s
  | succ n ih =>
    unfold pump
    split
    · exact .refl s
    · split
      · exact .refl s
      · split
        · exact .refl s
        · dsimp only
          split
          · exact told_gcmReset s _
          · next heq =>
            split at heq
            · exact (((told_sealDatagram s _ _ heq).trans (told_sendDatagram _ _)).trans (told_setConn _ _)).trans (ih _)
            · cases heq
              exact ((told_sendDatagram s _).trans (told_setConn _ _)).trans (ih _)

theorem told_openConn (s : State) (a : PartAddr) : Told s (openConn s a) :=
  (told_setConn s _).trans (told_sendDatagram _ _)

theorem told_transmit (s : State) (m : RstOut) : Told s (transmit s m) := by
  unfold transmit
  split
  · exact .refl s
  · dsimp only
    have h : Told s (if (connOf s m.dest).isSome = true then s else openConn s m.dest) := by
      split
      · exact .refl s
      · exact told_openConn s _
    split
    · exact h
    · exact (h.trans (told_setConn _ _)).trans (told_pump _ _ _)

theorem told_letGo (s : State) (o : HeldOut) : Told s (letGo s o) := by
  cases o with
  | record t r => exact told_putRecord s t r
  | rst m => exact told_transmit s m

/-! ## The Mirror -/

theorem told_give (s : State) (o : HeldOut) : Told s (give s o) := by
  unfold give
  split
  · exact told_twn s _ rfl
  · exact told_letGo s o

theorem told_giveRecord (s : State) (t : Nat) (r : RecordOut) : Told s (giveRecord s t r) := told_give s _

theorem told_sendRst (s : State) (m : RstOut) : Told s (sendRst s m) := told_give s _

theorem told_sendRecord (s : State) (last : Bool) (b : MirrorBody) : Told s (sendRecord s last b) := by
  unfold sendRecord
  dsimp only
  have h : Told s (pick { s with twn := { s.twn with sent := s.twn.sent + 1 } } (mirrorPorts s)).2 :=
    (told_twn s _ rfl).trans (told_pick _ _)
  split
  · exact h.trans (told_enqueue _ _ _)
  · exact h

theorem told_sendChange (l : List MirrorBody) (s : State) : Told s (sendChange s l) := by
  induction l generalizing s with
  | nil => exact .refl s
  | cons b l ih =>
    cases l with
    | nil => exact told_sendRecord s true b
    | cons c l => exact (told_sendRecord s false b).trans (ih _)

theorem told_markMirrored (s : State) (gs : List Nat) : Told s (markMirrored s gs) := told_twn s _ rfl

theorem told_releaseHeld (fuel : Nat) (s : State) : Told s (releaseHeld fuel s) := by
  induction fuel generalizing s with
  | zero => exact .refl s
  | succ n ih =>
    unfold releaseHeld
    split
    · exact .refl s
    · split
      · exact .refl s
      · exact ((told_twn s _ rfl).trans (told_letGo _ _)).trans (ih _)

theorem told_releaseAll (s : State) : Told s (releaseAll s) :=
  (told_twn s _ rfl).trans (Told.foldl letGo told_letGo _ _)

/-- Mirroring a command's changes is output and nothing else. -/
theorem told_mirrorChange (s0 s : State) : Told s (mirrorChange s0 s) := by
  unfold mirrorChange
  split
  · split
    · exact .refl s
    · exact told_releaseAll s
  · dsimp only
    have h : Told s (markMirrored (sendChange s (changeBodies s0 s ++ completionBodies s.twn.newHeld)) (unmirroredPages s)) :=
      (told_sendChange _ s).trans (told_markMirrored _ _)
    generalize markMirrored (sendChange s (changeBodies s0 s ++ completionBodies s.twn.newHeld)) (unmirroredPages s) = s1 at h ⊢
    refine Told.trans ?_ (told_sendChange _ _)
    refine Told.trans ?_ (told_twn _ _ rfl)
    refine Told.trans ?_ (told_releaseHeld _ _)
    exact h.trans (told_twn s1 _ rfl)

end Sys2Proof.Machine
end

