-- ==== Sys2Proof/Laws/Finish.lean ====
section
/-! SUPPORT. What the end of a command can change (`finish`): output, and capacity pressure with its register. Every other part
of State stands as the command's own effect left it. -/

namespace Sys2Proof.Machine

open Sys2Proof

/-- `t` differs from `s` in output and in capacity pressure alone. -/
structure Finished (s t : State) : Prop where
  told : Told s { t with stk := s.stk, fields := s.fields }
  stk : t.stk = { s.stk with pressed := t.stk.pressed, manifestPressure := t.stk.manifestPressure }
  field : ∀ f : Field, f.isQuiet = true → getF t f = getF s f

theorem Told.within {s t : State} (h : Told s t) (k : Stacks) (fs : Tab Nat) :
    Told { s with stk := k, fields := fs } { t with stk := k, fields := fs } where
  pending := h.pending
  mem := h.mem
  plt := h.plt
  pwr := h.pwr
  stk := rfl
  fab := h.fab
  ucode := h.ucode
  sch := h.sch
  pfx := h.pfx
  lnk := h.lnk
  coh := h.coh
  fls := h.fls
  mtr := h.mtr
  lane := h.lane
  pcie := h.pcie
  rqt := h.rqt
  entry := h.entry
  xfr := h.xfr
  cod := h.cod
  tm := h.tm
  twn := h.twn
  field := fun _ _ => rfl
  out := h.out

theorem isQuiet_isTold {f : Field} (h : f.isQuiet = true) : f.isTold = true := by
  simp only [Field.isQuiet, Bool.and_eq_true] at h
  exact h.1

theorem Told.finished {s t : State} (h : Told s t) : Finished s t where
  told := h.within s.stk s.fields
  stk := by rw [h.stk]
  field := fun f hf => h.field f (isQuiet_isTold hf)

theorem Finished.refl (s : State) : Finished s s := (Told.refl s).finished

theorem Finished.trans {s t u : State} (h : Finished s t) (k : Finished t u) : Finished s u where
  told := h.told.trans (k.told.within s.stk s.fields)
  stk := by have a := k.stk; rw [h.stk] at a; exact a
  field := fun f hf => (k.field f hf).trans (h.field f hf)

theorem Finished.foldl {α : Type} (g : State → α → State) (l : List α) (h : ∀ s, ∀ a ∈ l, Finished s (g s a)) (s : State) :
    Finished s (l.foldl g s) := by
  induction l generalizing s with
  | nil => exact .refl s
  | cons a l ih =>
    exact (h s a (List.mem_cons_self ..)).trans (ih (fun s b hb => h s b (List.mem_cons_of_mem _ hb)) _)

theorem finished_pressed (s : State) (p : Tab Nat) (b : Bool) :
    Finished s { s with stk := { s.stk with pressed := p, manifestPressure := b } } where
  told := .refl s
  stk := rfl
  field := fun _ _ => rfl

theorem finished_pressure (s : State) (c v : Nat) (h : c < 256) : Finished s (putF s (F.stkCapPressure.stacks.at c) v) where
  told := .refl s
  stk := rfl
  field := by
    intro f hf
    refine getF_putF_other s f _ v ?_
    intro e
    have k : (F.stkCapPressure.stacks.at c).key = (0x004a2000 + 8 * c) * 64 + 0 := rfl
    simp only [Field.isQuiet, e, k, Bool.and_eq_true, Bool.or_eq_true, decide_eq_true_eq] at hf
    omega

theorem finished_showPressure (s : State) (c own bits : Nat) (h : c < 256) : Finished s (showPressure s c own bits) := by
  unfold showPressure
  dsimp only
  have a : Finished s { s with stk := { s.stk with pressed := tabPut 0 s.stk.pressed c own } } := finished_pressed s _ _
  have b := a.trans (finished_pressure _ c bits h)
  split
  · exact b.trans (told_notify _ _ _).finished
  · exact b

theorem finished_pressComp (s : State) (c : Nat) (h : c < 256) : Finished s (pressComp s c) := by
  unfold pressComp
  split
  · exact finished_showPressure s c _ _ h
  · exact finished_showPressure s c _ _ h

/-- The update of capacity pressure changes pressure, its register and its signals, and nothing else. -/
theorem finished_updatePressure (s : State) : Finished s (updatePressure s) := by
  unfold updatePressure
  dsimp only
  split
  · exact .refl s
  · refine (finished_pressed s _ _).trans (Finished.foldl pressComp _ (fun t c hc => finished_pressComp t c ?_) _)
    simpa using (List.mem_filter.1 hc).2

/-- The end of a command changes output and capacity pressure, and nothing else. -/
theorem finished_finish (s0 s : State) : Finished s (finish s0 s) :=
  (finished_updatePressure s).trans (told_mirrorChange s0 _).finished

/-! ## Field by field -/

section
variable (s0 s : State)

@[simp] theorem finish_pending : (finish s0 s).pending = s.pending := (finished_finish s0 s).told.pending
@[simp] theorem finish_mem : (finish s0 s).mem = s.mem := (finished_finish s0 s).told.mem
@[simp] theorem finish_plt : (finish s0 s).plt = s.plt := (finished_finish s0 s).told.plt
@[simp] theorem finish_pwr : (finish s0 s).pwr = s.pwr := (finished_finish s0 s).told.pwr
@[simp] theorem finish_fab : (finish s0 s).fab = s.fab := (finished_finish s0 s).told.fab
@[simp] theorem finish_ucode : (finish s0 s).ucode = s.ucode := (finished_finish s0 s).told.ucode
@[simp] theorem finish_sch : (finish s0 s).sch = s.sch := (finished_finish s0 s).told.sch
@[simp] theorem finish_pfx : (finish s0 s).pfx = s.pfx := (finished_finish s0 s).told.pfx
@[simp] theorem finish_lnk : (finish s0 s).lnk = s.lnk := (finished_finish s0 s).told.lnk
@[simp] theorem finish_coh : (finish s0 s).coh = s.coh := (finished_finish s0 s).told.coh
@[simp] theorem finish_fls : (finish s0 s).fls = s.fls := (finished_finish s0 s).told.fls
@[simp] theorem finish_mtr : (finish s0 s).mtr = s.mtr := (finished_finish s0 s).told.mtr
@[simp] theorem finish_lane : (finish s0 s).lane = s.lane := (finished_finish s0 s).told.lane

@[simp] theorem finish_odt : (finish s0 s).stk.odt = s.stk.odt := by rw [(finished_finish s0 s).stk]
@[simp] theorem finish_wp : (finish s0 s).stk.wp = s.stk.wp := by rw [(finished_finish s0 s).stk]
@[simp] theorem finish_xts : (finish s0 s).stk.xts = s.stk.xts := by rw [(finished_finish s0 s).stk]
@[simp] theorem finish_pages : (finish s0 s).stk.pages = s.stk.pages := by rw [(finished_finish s0 s).stk]
@[simp] theorem finish_epoch : (finish s0 s).stk.epoch = s.stk.epoch := by rw [(finished_finish s0 s).stk]
@[simp] theorem finish_leases : (finish s0 s).stk.leases = s.stk.leases := by rw [(finished_finish s0 s).stk]
@[simp] theorem finish_usedUnits : (finish s0 s).stk.usedUnits = s.stk.usedUnits := by rw [(finished_finish s0 s).stk]
@[simp] theorem finish_waits : (finish s0 s).stk.waits = s.stk.waits := by rw [(finished_finish s0 s).stk]
@[simp] theorem finish_objCqTail : (finish s0 s).stk.objCqTail = s.stk.objCqTail := by rw [(finished_finish s0 s).stk]
@[simp] theorem finish_objOut : (finish s0 s).stk.objOut = s.stk.objOut := by rw [(finished_finish s0 s).stk]
@[simp] theorem finish_objWaiting : (finish s0 s).stk.objWaiting = s.stk.objWaiting := by rw [(finished_finish s0 s).stk]

@[simp] theorem finish_manifests : (finish s0 s).rqt.manifests = s.rqt.manifests := by
  have h := (finished_finish s0 s).told.rqt; rw [h]
@[simp] theorem finish_rqtHeld : (finish s0 s).rqt.held = s.rqt.held := by
  have h := (finished_finish s0 s).told.rqt; rw [h]
@[simp] theorem finish_admissions : (finish s0 s).rqt.admissions = s.rqt.admissions := by
  have h := (finished_finish s0 s).told.rqt; rw [h]
@[simp] theorem finish_missed : (finish s0 s).rqt.missed = s.rqt.missed := by
  have h := (finished_finish s0 s).told.rqt; rw [h]
@[simp] theorem finish_inputs : (finish s0 s).rqt.inputs = s.rqt.inputs := by
  have h := (finished_finish s0 s).told.rqt; rw [h]
@[simp] theorem finish_restores : (finish s0 s).rqt.restores = s.rqt.restores := by
  have h := (finished_finish s0 s).told.rqt; rw [h]

@[simp] theorem finish_xfrSlots : (finish s0 s).xfr.slots = s.xfr.slots := by
  have h := (finished_finish s0 s).told.xfr; rw [h]
@[simp] theorem finish_ledgers : (finish s0 s).xfr.ledgers = s.xfr.ledgers := by
  have h := (finished_finish s0 s).told.xfr; rw [h]
@[simp] theorem finish_codTables : (finish s0 s).cod.tables = s.cod.tables := by
  have h := (finished_finish s0 s).told.cod; rw [h]
@[simp] theorem finish_busMaster : (finish s0 s).pcie.busMaster = s.pcie.busMaster := by
  have h := (finished_finish s0 s).told.pcie; rw [h]
@[simp] theorem finish_received : (finish s0 s).tm.received = s.tm.received := by
  have h := (finished_finish s0 s).told.tm; rw [h]
@[simp] theorem finish_twnState : (finish s0 s).twn.state = s.twn.state := by
  have h := (finished_finish s0 s).told.twn; rw [h]
@[simp] theorem finish_twnRole : (finish s0 s).twn.role = s.twn.role := by
  have h := (finished_finish s0 s).told.twn; rw [h]

/-- The state of an entry stands as the command left it, but for NOTICE_PENDING. -/
theorem finish_entry (i : Nat) :
    entryOf (finish s0 s) i = { entryOf s i with noticePending := (entryOf (finish s0 s) i).noticePending } :=
  (finished_finish s0 s).told.entry i

/-- A register field stands as the command left it, but for capacity pressure and the counts of sent blocks. -/
theorem finish_getF (f : Field) (h : f.isQuiet = true) : getF (finish s0 s) f = getF s f :=
  (finished_finish s0 s).field f h

/-- The end of a command adds to what was sent. -/
theorem finish_out : ∃ l, (finish s0 s).out = l ++ s.out := (finished_finish s0 s).told.out

end

/-- A command that is taken ends in the finish of its effect. -/
theorem act_taken (s : State) (effect : State → State) : act s true effect = .next (finish s (effect s)) := rfl

/-- A command that is not taken changes nothing. -/
theorem act_notTaken (s : State) (effect : State → State) : act s false effect = .next s := rfl

/-- An awake part takes a command at once. -/
theorem actAwake_taken (s : State) (c : Instr) (effect : State → State) (h : isAwake s = true) :
    actAwake s true c effect = .next (finish s (effect s)) := by simp [actAwake, act, h]

end Sys2Proof.Machine
end

