-- ==== Sys2Proof/Laws/Keep.lean ====
section
/-! SUPPORT. `Keep w s t`: every part of State whose bit in `w` is clear is the same in `t` as in `s`. -/

namespace Sys2Proof.Machine

open Sys2Proof

/-- What lasts through every command: the canonical form of memory, burned fuses, the meter's log, seal and fault. -/
structure Lasts (s t : State) : Prop where
  mem : Memory.wf s.mem = true → Memory.wf t.mem = true
  fuses : ∀ a i, Safety.burned s a i = true → Safety.burned t a i = true
  chain : Safety.MeterChain s.mtr → Safety.MeterChain t.mtr
  newest : s.mtr.newest ≤ t.mtr.newest
  broken : s.mtr.broken = true → t.mtr.broken = true
  fault : s.mtr.fault = true → t.mtr.fault = true

theorem Lasts.refl (s : State) : Lasts s s := ⟨id, fun _ _ h => h, id, Nat.le_refl _, id, id⟩

theorem Lasts.trans {s t u : State} (h : Lasts s t) (k : Lasts t u) : Lasts s u where
  mem := k.mem ∘ h.mem
  fuses := fun a i x => k.fuses a i (h.fuses a i x)
  chain := k.chain ∘ h.chain
  newest := h.newest.trans k.newest
  broken := k.broken ∘ h.broken
  fault := k.fault ∘ h.fault

theorem Lasts.of {s t : State} (h1 : t.mem = s.mem) (h2 : t.plt.fuses = s.plt.fuses) (h3 : t.mtr.log = s.mtr.log)
    (h4 : t.mtr.newest = s.mtr.newest) (h5 : t.mtr.prevHash = s.mtr.prevHash) (h6 : t.mtr.broken = s.mtr.broken)
    (h7 : t.mtr.fault = s.mtr.fault) : Lasts s t where
  mem := by rw [h1]; exact id
  fuses := by unfold Safety.burned; rw [h2]; exact fun _ _ h => h
  chain := by unfold Safety.MeterChain; rw [h3, h4, h5]; exact id
  newest := Nat.le_of_eq h4.symm
  broken := by rw [h6]; exact id
  fault := by rw [h7]; exact id

/-- The parts of State whose bit in `w` is clear are unchanged, and what lasts lasts. -/
structure Keep (w : Nat) (s t : State) : Prop where
  pending : w.testBit 0 = true ∨ t.pending = s.pending
  fresh : w.testBit 1 = true ∨ t.fresh = s.fresh
  fields : w.testBit 2 = true ∨ t.fields = s.fields
  mem : w.testBit 3 = true ∨ t.mem = s.mem
  plt : w.testBit 4 = true ∨ t.plt = s.plt
  pwr : w.testBit 5 = true ∨ t.pwr = s.pwr
  pcie : w.testBit 6 = true ∨ t.pcie = s.pcie
  stk : w.testBit 7 = true ∨ t.stk = s.stk
  fab : w.testBit 8 = true ∨ t.fab = s.fab
  ucode : w.testBit 9 = true ∨ t.ucode = s.ucode
  sch : w.testBit 10 = true ∨ t.sch = s.sch
  rqt : w.testBit 11 = true ∨ t.rqt = s.rqt
  pfx : w.testBit 12 = true ∨ t.pfx = s.pfx
  xfr : w.testBit 13 = true ∨ t.xfr = s.xfr
  cod : w.testBit 14 = true ∨ t.cod = s.cod
  lnk : w.testBit 15 = true ∨ t.lnk = s.lnk
  coh : w.testBit 16 = true ∨ t.coh = s.coh
  tm : w.testBit 17 = true ∨ t.tm = s.tm
  fls : w.testBit 18 = true ∨ t.fls = s.fls
  twn : w.testBit 19 = true ∨ t.twn = s.twn
  mtr : w.testBit 20 = true ∨ t.mtr = s.mtr
  lane : w.testBit 21 = true ∨ t.lane = s.lane
  out : w.testBit 22 = true ∨ t.out = s.out
  lasts : Lasts s t

theorem Keep.refl (w : Nat) (s : State) : Keep w s s := by
  constructor <;> first | exact .inr rfl | exact Lasts.refl s

theorem Keep.orTrans {α : Type} {p : Bool} {a b c : α} (h : p = true ∨ b = a) (k : p = true ∨ c = b) : p = true ∨ c = a := by
  rcases h with h | h
  · exact .inl h
  · rcases k with k | k
    · exact .inl k
    · exact .inr (k.trans h)

theorem Keep.trans {w : Nat} {s t u : State} (h : Keep w s t) (k : Keep w t u) : Keep w s u where
  pending := orTrans h.pending k.pending
  fresh := orTrans h.fresh k.fresh
  fields := orTrans h.fields k.fields
  mem := orTrans h.mem k.mem
  plt := orTrans h.plt k.plt
  pwr := orTrans h.pwr k.pwr
  pcie := orTrans h.pcie k.pcie
  stk := orTrans h.stk k.stk
  fab := orTrans h.fab k.fab
  ucode := orTrans h.ucode k.ucode
  sch := orTrans h.sch k.sch
  rqt := orTrans h.rqt k.rqt
  pfx := orTrans h.pfx k.pfx
  xfr := orTrans h.xfr k.xfr
  cod := orTrans h.cod k.cod
  lnk := orTrans h.lnk k.lnk
  coh := orTrans h.coh k.coh
  tm := orTrans h.tm k.tm
  fls := orTrans h.fls k.fls
  twn := orTrans h.twn k.twn
  mtr := orTrans h.mtr k.mtr
  lane := orTrans h.lane k.lane
  out := orTrans h.out k.out
  lasts := h.lasts.trans k.lasts

theorem Keep.orMono {v w i : Nat} {p : Prop} (hw : v &&& w = v) (h : v.testBit i = true ∨ p) : w.testBit i = true ∨ p := by
  rcases h with h | h
  · left
    have e : (v &&& w).testBit i = true := by rw [hw]; exact h
    rw [Nat.testBit_land, Bool.and_eq_true] at e
    exact e.2
  · exact .inr h

theorem Keep.mono {v w : Nat} {s t : State} (h : Keep v s t) (hw : v &&& w = v) : Keep w s t where
  pending := orMono hw h.pending
  fresh := orMono hw h.fresh
  fields := orMono hw h.fields
  mem := orMono hw h.mem
  plt := orMono hw h.plt
  pwr := orMono hw h.pwr
  pcie := orMono hw h.pcie
  stk := orMono hw h.stk
  fab := orMono hw h.fab
  ucode := orMono hw h.ucode
  sch := orMono hw h.sch
  rqt := orMono hw h.rqt
  pfx := orMono hw h.pfx
  xfr := orMono hw h.xfr
  cod := orMono hw h.cod
  lnk := orMono hw h.lnk
  coh := orMono hw h.coh
  tm := orMono hw h.tm
  fls := orMono hw h.fls
  twn := orMono hw h.twn
  mtr := orMono hw h.mtr
  lane := orMono hw h.lane
  out := orMono hw h.out
  lasts := h.lasts

theorem Keep.landTrans {u v w : Nat} (h : u &&& v = u) (k : v &&& w = v) : u &&& w = u := by
  calc u &&& w = (u &&& v) &&& w := by rw [h]
    _ = u &&& (v &&& w) := Nat.land_assoc _ _ _
    _ = u := by rw [k, h]

/-- One more operation, which changes no more than `w` allows. -/
theorem Keep.comp {v w : Nat} {s x y : State} (h : Keep w s x) (k : Keep v x y) (hw : v &&& w = v) : Keep w s y :=
  h.trans (k.mono hw)

/-- The same, the last operation first. -/
theorem Keep.after {v w : Nat} {s x y : State} (k : Keep v x y) (h : Keep w s x) (hw : v &&& w = v) : Keep w s y :=
  h.comp k hw

/-- One more operation that changes what `w` allows. -/
theorem Keep.next {w : Nat} {s x y : State} (k : Keep w x y) (h : Keep w s x) : Keep w s y := h.trans k

/-- One more record update. -/
theorem Keep.lit {w : Nat} {s x : State} {v_fresh : Nat} {v_fields : Tab Nat} {v_mem : List Host.Cell} {v_plt : Platform} {v_pwr : Power} {v_pcie : Pcie} {v_stk : Stacks} {v_fab : Fabric} {v_ucode : Microcode} {v_sch : Scheduler} {v_rqt : Requests} {v_pfx : Prefix} {v_xfr : Xfer} {v_cod : Codec} {v_lnk : Link} {v_coh : Coherence} {v_tm : Traffic} {v_fls : Flash} {v_twn : Twin} {v_mtr : Meter} {v_lane : Lane} {v_out : List Output}
    (h : Keep w s x)
    (k : Keep w x ⟨x.pending, v_fresh, v_fields, v_mem, v_plt, v_pwr, v_pcie, v_stk, v_fab, v_ucode, v_sch, v_rqt, v_pfx, v_xfr, v_cod, v_lnk, v_coh, v_tm, v_fls, v_twn, v_mtr, v_lane, v_out⟩) :
    Keep w s ⟨x.pending, v_fresh, v_fields, v_mem, v_plt, v_pwr, v_pcie, v_stk, v_fab, v_ucode, v_sch, v_rqt, v_pfx, v_xfr, v_cod, v_lnk, v_coh, v_tm, v_fls, v_twn, v_mtr, v_lane, v_out⟩ :=
  h.trans k

theorem Keep.foldl {α : Type} {w : Nat} {s x : State} {g : State → α → State} {l : List α} (h : Keep w s x)
    (k : ∀ t a, Keep w t (g t a)) : Keep w s (l.foldl g x) := by
  induction l generalizing x with
  | nil => exact h
  | cons a l ih => exact ih (h.trans (k x a))

theorem Keep.foldl2 {α β : Type} {w : Nat} {s : State} {x : β × State} {g : β × State → α → β × State} {l : List α}
    (h : Keep w s x.2) (k : ∀ t a, Keep w t.2 (g t a).2) : Keep w s (l.foldl g x).2 := by
  induction l generalizing x with
  | nil => exact h
  | cons a l ih => exact ih (h.trans (k x a))

/-- The outcome is a next state, and it keeps what `w` says. -/
structure KeepO (w : Nat) (s : State) (o : Host.Outcome State Fault Refusal) : Prop where
  of : ∀ t, o = .next t → Keep w s t
  answers : ∃ t, o = .next t

theorem KeepO.next {w : Nat} {s t : State} (h : Keep w s t) : KeepO w s (.next t) := by
  refine ⟨?_, _, rfl⟩
  intro u e
  cases e
  exact h

theorem KeepO.mono {v w : Nat} {s : State} {o : Host.Outcome State Fault Refusal} (h : KeepO v s o) (hw : v &&& w = v) :
    KeepO w s o := ⟨fun t e => (h.of t e).mono hw, h.answers⟩

end Sys2Proof.Machine
end

