-- ==== Sys2Proof/Laws/FramesA.lean ====
section
/-! SUPPORT. What each operation may change, as a mask of the parts of State (Keep): the operations, first part. -/

namespace Sys2Proof.Machine

open Sys2Proof

set_option linter.all false

theorem keep_endWait (s : State) (a1 : Nat) : Keep 128 s (endWait s a1) := by
  unfold endWait
  with_reducible repeat' first
    | apply Keep.refl | assumption | dsimp only
    | (apply Keep.lit; on_goal 2 => (constructor <;> first | exact .inr rfl | exact .inl rfl | exact .of rfl rfl rfl rfl rfl rfl rfl))
  all_goals rfl

theorem keep_clearSide (s : State) (a1 : Nat) : Keep 2176 s (clearSide s a1) := by
  unfold clearSide
  try dsimp only
  with_reducible repeat' first
    | apply Keep.refl | assumption | apply (keep_endWait _ _).after | dsimp only
    | (apply Keep.lit; on_goal 2 => (constructor <;> first | exact .inr rfl | exact .inl rfl | exact .of rfl rfl rfl rfl rfl rfl rfl))
  all_goals rfl

theorem keep_putF (s : State) (a1 : Field) (a2 : Nat) : Keep 4 s (putF s a1 a2) := by
  unfold putF
  with_reducible repeat' first
    | apply Keep.refl | assumption | dsimp only
    | (apply Keep.lit; on_goal 2 => (constructor <;> first | exact .inr rfl | exact .inl rfl | exact .of rfl rfl rfl rfl rfl rfl rfl))
  all_goals rfl

theorem keep_latch {w : Nat} (s : State) (v o : Field) (fill : State → State) (hw : 4 &&& w = 4) (he : ∀ u, Keep w u (fill u)) :
    Keep w s (latch s v o fill) := by
  unfold latch
  split
  · exact (keep_putF s o 1).mono hw
  · exact (he s).trans ((keep_putF _ v 1).mono hw)

theorem keep_inconsistent (s : State) (a1 : Nat) : Keep 132 s (inconsistent s a1) := by
  unfold inconsistent
  with_reducible repeat' first
    | (intro) | apply Keep.refl | assumption | apply (keep_latch _ _ _ _ ?_ ?_).next
    | apply (keep_putF _ _ _).after | dsimp only
    | (apply Keep.lit; on_goal 2 => (constructor <;> first | exact .inr rfl | exact .inl rfl | exact .of rfl rfl rfl rfl rfl rfl rfl))
  all_goals rfl

theorem keep_setPage (s : State) (a1 : Nat) (a2 : PageRec) : Keep 128 s (setPage s a1 a2) := by
  unfold setPage
  with_reducible repeat' first
    | apply Keep.refl | assumption | dsimp only
    | (apply Keep.lit; on_goal 2 => (constructor <;> first | exact .inr rfl | exact .inl rfl | exact .of rfl rfl rfl rfl rfl rfl rfl))
  all_goals rfl

theorem keep_retirePage (s : State) (a1 : Nat) : Keep 128 s (retirePage s a1) := by
  unfold retirePage
  with_reducible repeat' first
    | apply Keep.refl | assumption | apply (keep_setPage _ _ _).after | dsimp only
    | (apply Keep.lit; on_goal 2 => (constructor <;> first | exact .inr rfl | exact .inl rfl | exact .of rfl rfl rfl rfl rfl rfl rfl))
  all_goals rfl

theorem keep_removeRef (s : State) (a1 : Nat) : Keep 132 s (removeRef s a1) := by
  unfold removeRef
  try dsimp only
  with_reducible repeat' first
    | apply Keep.refl | assumption | apply (keep_retirePage _ _).after
    | apply (keep_setPage _ _ _).after | apply (keep_inconsistent _ _).after | split | dsimp only
    | (apply Keep.lit; on_goal 2 => (constructor <;> first | exact .inr rfl | exact .inl rfl | exact .of rfl rfl rfl rfl rfl rfl rfl))
  all_goals rfl

theorem keep_setManifest (s : State) (a1 : Nat) (a2 : Manifest) : Keep 2048 s (setManifest s a1 a2) := by
  unfold setManifest
  with_reducible repeat' first
    | apply Keep.refl | assumption | split | dsimp only
    | (apply Keep.lit; on_goal 2 => (constructor <;> first | exact .inr rfl | exact .inl rfl | exact .of rfl rfl rfl rfl rfl rfl rfl))
  all_goals rfl

theorem keep_clearPages (s : State) (a1 : Nat) : Keep 2180 s (clearPages s a1) := by
  unfold clearPages
  try dsimp only
  with_reducible repeat' first
    | (intro) | apply Keep.refl | assumption | apply (keep_setManifest _ _ _).after
    | apply (keep_removeRef _ _).after | apply Keep.foldl | split | dsimp only
    | (apply Keep.lit; on_goal 2 => (constructor <;> first | exact .inr rfl | exact .inl rfl | exact .of rfl rfl rfl rfl rfl rfl rfl))
  all_goals rfl

theorem keep_dropPages (s : State) (a1 : Nat) : Keep 2180 s (dropPages s a1) := by
  unfold dropPages
  with_reducible repeat' first
    | apply Keep.refl | assumption | apply (keep_clearPages _ _).after
    | apply (keep_endWait _ _).after
  all_goals rfl

theorem keep_setOdt (s : State) (a1 : Nat) (a2 : OdtEntry) : Keep 128 s (setOdt s a1 a2) := by
  unfold setOdt
  with_reducible repeat' first
    | apply Keep.refl | assumption | dsimp only
    | (apply Keep.lit; on_goal 2 => (constructor <;> first | exact .inr rfl | exact .inl rfl | exact .of rfl rfl rfl rfl rfl rfl rfl))
  all_goals rfl

theorem keep_retireObject (s : State) (a1 : Nat) : Keep 128 s (retireObject s a1) := by
  unfold retireObject
  with_reducible repeat' first
    | apply Keep.refl | assumption | apply (keep_setOdt _ _ _).after | dsimp only
    | (apply Keep.lit; on_goal 2 => (constructor <;> first | exact .inr rfl | exact .inl rfl | exact .of rfl rfl rfl rfl rfl rfl rfl))
  all_goals rfl

theorem keep_dropParked (s : State) (a1 : Nat) : Keep 2176 s (dropParked s a1) := by
  unfold dropParked
  try dsimp only
  with_reducible repeat' first
    | apply Keep.refl | assumption | apply (keep_retireObject _ _).after
    | apply (keep_setManifest _ _ _).after | split | dsimp only
    | (apply Keep.lit; on_goal 2 => (constructor <;> first | exact .inr rfl | exact .inl rfl | exact .of rfl rfl rfl rfl rfl rfl rfl))
  all_goals rfl

theorem keep_wake (s : State) (a1 : Nat) : Keep 128 s (wake s a1) := by
  unfold wake
  with_reducible repeat' first
    | (intro) | apply Keep.refl | assumption | dsimp only
    | (apply Keep.lit; on_goal 2 => (constructor <;> first | exact .inr rfl | exact .inl rfl | exact .of rfl rfl rfl rfl rfl rfl rfl))
  all_goals rfl

theorem keep_endLease (s : State) (a1 : Nat) : Keep 128 s (endLease s a1) := by
  unfold endLease
  try dsimp only
  with_reducible repeat' first
    | apply Keep.refl | assumption | apply (keep_wake _ _).after | split | dsimp only
    | (apply Keep.lit; on_goal 2 => (constructor <;> first | exact .inr rfl | exact .inl rfl | exact .of rfl rfl rfl rfl rfl rfl rfl))
  all_goals rfl

theorem keep_setTransfer (s : State) (a1 : Nat) (a2 : Option Transfer) : Keep 8192 s (setTransfer s a1 a2) := by
  unfold setTransfer
  with_reducible repeat' first
    | apply Keep.refl | assumption | dsimp only
    | (apply Keep.lit; on_goal 2 => (constructor <;> first | exact .inr rfl | exact .inl rfl | exact .of rfl rfl rfl rfl rfl rfl rfl))
  all_goals rfl

theorem keep_endTransfer (s : State) (a1 : Nat) : Keep 8320 s (endTransfer s a1) := by
  unfold endTransfer
  with_reducible repeat' first
    | apply Keep.refl | assumption | apply (keep_setTransfer _ _ _).after
    | apply (keep_endLease _ _).after
  all_goals rfl

theorem keep_endTransfers (s : State) (a1 : Nat) : Keep 8320 s (endTransfers s a1) := by
  unfold endTransfers
  with_reducible repeat' first
    | (intro) | apply Keep.refl | assumption | apply (keep_endTransfer _ _).after
    | apply Keep.foldl | split | dsimp only
  all_goals rfl

theorem keep_invalidate (s : State) (a1 : Nat) : Keep 1024 s (invalidate s a1) := by
  unfold invalidate
  with_reducible repeat' first
    | (intro) | apply Keep.refl | assumption | split | dsimp only
    | (apply Keep.lit; on_goal 2 => (constructor <;> first | exact .inr rfl | exact .inl rfl | exact .of rfl rfl rfl rfl rfl rfl rfl))
  all_goals rfl

theorem keep_setComp (s : State) (a1 : Nat) (a2 : Option Composition) : Keep 1024 s (setComp s a1 a2) := by
  unfold setComp
  with_reducible repeat' first
    | apply Keep.refl | assumption | dsimp only
    | (apply Keep.lit; on_goal 2 => (constructor <;> first | exact .inr rfl | exact .inl rfl | exact .of rfl rfl rfl rfl rfl rfl rfl))
  all_goals rfl

theorem keep_releaseModel (s : State) (a1 : Nat) : Keep 1024 s (releaseModel s a1) := by
  unfold releaseModel
  with_reducible repeat' first
    | apply Keep.refl | assumption | apply (keep_setComp _ _ _).after | split | dsimp only
    | (apply Keep.lit; on_goal 2 => (constructor <;> first | exact .inr rfl | exact .inl rfl | exact .of rfl rfl rfl rfl rfl rfl rfl))
  all_goals rfl

theorem keep_retireUnits (s : State) (a1 : List Nat) : Keep 128 s (retireUnits s a1) := by
  unfold retireUnits
  with_reducible repeat' first
    | (intro) | apply Keep.refl | assumption | dsimp only
    | (apply Keep.lit; on_goal 2 => (constructor <;> first | exact .inr rfl | exact .inl rfl | exact .of rfl rfl rfl rfl rfl rfl rfl))
  all_goals rfl

theorem keep_retireManifest (s : State) (a1 : Nat) : Keep 2176 s (retireManifest s a1) := by
  unfold retireManifest
  try dsimp only
  with_reducible repeat' first
    | apply Keep.refl | assumption | apply (keep_retireUnits _ _).after
    | apply (keep_setManifest _ _ _).after | split | dsimp only
    | (apply Keep.lit; on_goal 2 => (constructor <;> first | exact .inr rfl | exact .inl rfl | exact .of rfl rfl rfl rfl rfl rfl rfl))
  all_goals rfl

theorem keep_setEntry (s : State) (a1 : Nat) (a2 : Entry) : Keep 2048 s (setEntry s a1 a2) := by
  unfold setEntry
  with_reducible repeat' first
    | apply Keep.refl | assumption | dsimp only
    | (apply Keep.lit; on_goal 2 => (constructor <;> first | exact .inr rfl | exact .inl rfl | exact .of rfl rfl rfl rfl rfl rfl rfl))
  all_goals rfl

theorem keep_freeEntry (s : State) (a1 : Nat) : Keep 11396 s (freeEntry s a1) := by
  unfold freeEntry
  try dsimp only
  with_reducible repeat' first
    | apply Keep.refl | assumption | apply (keep_setEntry _ _ _).after
    | apply (keep_retireManifest _ _).after | apply (keep_releaseModel _ _).after | apply (keep_invalidate _ _).after
    | apply (keep_endTransfers _ _).after | apply (keep_dropParked _ _).after | apply (keep_dropPages _ _).after
    | apply (keep_clearSide _ _).after | split | dsimp only
    | (apply Keep.lit; on_goal 2 => (constructor <;> first | exact .inr rfl | exact .inl rfl | exact .of rfl rfl rfl rfl rfl rfl rfl))
  all_goals rfl

theorem keep_setQueues (s : State) (a1 : Nat) (a2 : TenantQueues) : Keep 2048 s (setQueues s a1 a2) := by
  unfold setQueues
  with_reducible repeat' first
    | apply Keep.refl | assumption | dsimp only
    | (apply Keep.lit; on_goal 2 => (constructor <;> first | exact .inr rfl | exact .inl rfl | exact .of rfl rfl rfl rfl rfl rfl rfl))
  all_goals rfl

theorem keep_commandEnds (s : State) (a1 : Nat) : Keep 2048 s (commandEnds s a1) := by
  unfold commandEnds
  with_reducible repeat' first
    | apply Keep.refl | assumption | apply (keep_setQueues _ _ _).after | dsimp only
    | (apply Keep.lit; on_goal 2 => (constructor <;> first | exact .inr rfl | exact .inl rfl | exact .of rfl rfl rfl rfl rfl rfl rfl))
  all_goals rfl

theorem keep_markNotice (a0 : List RecordOut) (s : State) (a2 : Nat × Nat) : Keep 2048 s (markNotice a0 s a2) := by
  unfold markNotice
  with_reducible repeat' first
    | (intro) | apply Keep.refl | assumption | apply (keep_setEntry _ _ _).after | split
    | dsimp only
    | (apply Keep.lit; on_goal 2 => (constructor <;> first | exact .inr rfl | exact .inl rfl | exact .of rfl rfl rfl rfl rfl rfl rfl))
  all_goals rfl

theorem keep_emit (s : State) (a1 : Output) : Keep 4194304 s (emit s a1) := by
  unfold emit
  with_reducible repeat' first
    | apply Keep.refl | assumption | dsimp only
    | (apply Keep.lit; on_goal 2 => (constructor <;> first | exact .inr rfl | exact .inl rfl | exact .of rfl rfl rfl rfl rfl rfl rfl))
  all_goals rfl

theorem keep_signal (s : State) (a1 : Nat) : Keep 4194368 s (signal s a1) := by
  unfold signal
  with_reducible repeat' first
    | apply Keep.refl | assumption | apply (keep_emit _ _).after | split | dsimp only
    | (apply Keep.lit; on_goal 2 => (constructor <;> first | exact .inr rfl | exact .inl rfl | exact .of rfl rfl rfl rfl rfl rfl rfl))
  all_goals rfl

theorem keep_countRecord (s : State) (a1 : Nat) : Keep 4196416 s (countRecord s a1) := by
  unfold countRecord
  try dsimp only
  with_reducible repeat' first
    | apply Keep.refl | assumption | apply (keep_signal _ _).after
    | apply (keep_setQueues _ _ _).after | split | dsimp only
    | (apply Keep.lit; on_goal 2 => (constructor <;> first | exact .inr rfl | exact .inl rfl | exact .of rfl rfl rfl rfl rfl rfl rfl))
  all_goals rfl

theorem keep_noteWritten (s : State) (a1 a2 : Nat) : Keep 524288 s (noteWritten s a1 a2) := by
  unfold noteWritten
  with_reducible repeat' first
    | apply Keep.refl | assumption | split | dsimp only
    | (apply Keep.lit; on_goal 2 => (constructor <;> first | exact .inr rfl | exact .inl rfl | exact .of rfl rfl rfl rfl rfl rfl rfl))
  all_goals rfl

theorem keep_emitAll (s : State) (a1 : List Output) : Keep 4194304 s (emitAll s a1) := by
  fun_induction emitAll s a1
  all_goals (try dsimp only)
  with_reducible repeat' first
    | apply Keep.refl | assumption | apply (keep_emit _ _).after
    | apply Keep.after (by assumption)
  all_goals rfl

theorem keep_postRecord (s : State) (a1 a2 : Nat) (a3 : List Byte) : Keep 4194304 s (postRecord s a1 a2 a3) := by
  unfold postRecord
  try dsimp only
  with_reducible repeat' first
    | apply Keep.refl | assumption | apply (keep_emitAll _ _).after | dsimp only
  all_goals rfl

theorem keep_writeCompletion (s : State) (a1 : Nat) (a2 : Completion) : Keep 4720704 s (writeCompletion s a1 a2) := by
  unfold writeCompletion
  try dsimp only
  with_reducible repeat' first
    | apply Keep.refl | assumption | apply (keep_postRecord _ _ _ _).after
    | apply (keep_noteWritten _ _ _).after | apply (keep_countRecord _ _).after | apply (keep_setQueues _ _ _).after | split
    | dsimp only
    | (apply Keep.lit; on_goal 2 => (constructor <;> first | exact .inr rfl | exact .inl rfl | exact .of rfl rfl rfl rfl rfl rfl rfl))
  all_goals rfl

theorem keep_writeToken (s : State) (a1 : Nat) (a2 : TokenRecord) : Keep 4196416 s (writeToken s a1 a2) := by
  unfold writeToken
  try dsimp only
  with_reducible repeat' first
    | apply Keep.refl | assumption | apply (keep_postRecord _ _ _ _).after
    | apply (keep_countRecord _ _).after | apply (keep_setQueues _ _ _).after | split | dsimp only
    | (apply Keep.lit; on_goal 2 => (constructor <;> first | exact .inr rfl | exact .inl rfl | exact .of rfl rfl rfl rfl rfl rfl rfl))
  all_goals rfl

theorem keep_flushRecords (t : Nat) (l : List RecordOut) (acc : State × List RecordOut) :
    Keep 4720704 acc.1 (l.foldl (flushRecord t) acc).1 := by
  induction l generalizing acc with
  | nil => exact Keep.refl _ _
  | cons r l ih =>
    refine Keep.trans ?_ (ih _)
    cases r with
    | completion c =>
      unfold flushRecord
      dsimp only
      split
      · exact Keep.refl _ _
      · exact (keep_writeCompletion _ _ _).mono rfl
    | token k =>
      unfold flushRecord
      dsimp only
      split
      · exact Keep.refl _ _
      · exact (keep_writeToken _ _ _).mono rfl

theorem keep_flushWith (s : State) (t : Nat) (new : List RecordOut) : Keep 4720704 s (flushWith s t new) := by
  unfold flushWith
  extract_lets all q r
  have h1 : Keep 4720704 s r.1 :=
    Keep.trans ((keep_setQueues s t { queuesOf s t with waiting := [] }).mono rfl) (keep_flushRecords t all (_, []))
  clear_value r
  exact Keep.foldl (h1.comp (keep_setQueues _ _ _) rfl) (fun u n => (keep_markNotice _ _ _).mono rfl)

theorem keep_putRecord (s : State) (a1 : Nat) (a2 : RecordOut) : Keep 4720704 s (putRecord s a1 a2) := by
  unfold putRecord
  with_reducible repeat' first
    | apply Keep.refl | assumption | apply (keep_flushWith _ _ _).after
  all_goals rfl

theorem keep_setBypass (s : State) (a1 : Nat) (a2 : Bool) : Keep 16384 s (setBypass s a1 a2) := by
  unfold setBypass
  with_reducible repeat' first
    | apply Keep.refl | assumption | dsimp only
    | (apply Keep.lit; on_goal 2 => (constructor <;> first | exact .inr rfl | exact .inl rfl | exact .of rfl rfl rfl rfl rfl rfl rfl))
  all_goals rfl

theorem keep_enterEncode (s : State) (a1 a2 : Nat) : Keep 16384 s (enterEncode s a1 a2) := by
  unfold enterEncode
  with_reducible repeat' first
    | apply Keep.refl | assumption | apply (keep_setBypass _ _ _).after | split
  all_goals rfl

theorem keep_codePayload (s : State) (a1 : Nat) (a2 : RstMsg) : Keep 16384 s (codePayload s a1 a2).2 := by
  unfold codePayload
  try dsimp only
  with_reducible repeat' first
    | apply Keep.refl | assumption | apply (keep_enterEncode _ _ _).after | split | dsimp only
  all_goals rfl

theorem keep_coded (s : State) (a1 : PortNo) (a2 : Datagram) : Keep 16384 s (coded s a1 a2).2 := by
  unfold coded
  try dsimp only
  with_reducible repeat' first
    | apply Keep.refl | assumption | apply (keep_codePayload _ _ _).after | split | dsimp only
    | (apply Keep.lit; on_goal 2 => (constructor <;> first | exact .inr rfl | exact .inl rfl | exact .of rfl rfl rfl rfl rfl rfl rfl))
  all_goals rfl

theorem keep_satF (s : State) (a1 : Field) : Keep 4 s (satF s a1) := by
  unfold satF
  with_reducible repeat' first
    | apply Keep.refl | assumption | apply (keep_putF _ _ _).after | split
  all_goals rfl

theorem keep_countBlock (s : State) (a1 : Option CodedBlock) : Keep 4 s (countBlock s a1) := by
  unfold countBlock
  with_reducible repeat' first
    | apply Keep.refl | assumption | apply (keep_satF _ _).after | split
  all_goals rfl

theorem keep_putFrame (s : State) (a1 : Nat) (a2 : Queued) : Keep 131072 s (putFrame s a1 a2) := by
  unfold putFrame
  try dsimp only
  with_reducible repeat' first
    | (intro) | apply Keep.refl | assumption | split | dsimp only
    | (apply Keep.lit; on_goal 2 => (constructor <;> first | exact .inr rfl | exact .inl rfl | exact .of rfl rfl rfl rfl rfl rfl rfl))
  all_goals rfl

theorem keep_enqueue (s : State) (a1 : PortNo) (a2 : Frame) : Keep 131072 s (enqueue s a1 a2) := by
  unfold enqueue
  with_reducible repeat' first
    | apply Keep.refl | assumption | apply (keep_putFrame _ _ _).after | dsimp only
    | (apply Keep.lit; on_goal 2 => (constructor <;> first | exact .inr rfl | exact .inl rfl | exact .of rfl rfl rfl rfl rfl rfl rfl))
  all_goals rfl

theorem keep_leaveEncode (s : State) (a1 : Nat) : Keep 16384 s (leaveEncode s a1) := by
  unfold leaveEncode
  with_reducible repeat' first
    | apply Keep.refl | assumption | apply (keep_setBypass _ _ _).after | split
  all_goals rfl

theorem keep_enqueueBlock (s : State) (a1 : PortNo) (a2 : Frame) : Keep 147456 s (enqueueBlock s a1 a2) := by
  unfold enqueueBlock
  with_reducible repeat' first
    | apply Keep.refl | assumption | apply (keep_leaveEncode _ _).after
    | apply (keep_enqueue _ _ _).after
  all_goals rfl

theorem keep_pick {α : Type} (s : State) (a2 : List α) : Keep 2 s (pick s a2).2 := by
  unfold pick
  try dsimp only
  with_reducible repeat' first
    | (intro) | apply Keep.refl | assumption | apply Keep.foldl2 | apply Keep.foldl | split
    | dsimp only
    | (apply Keep.lit; on_goal 2 => (constructor <;> first | exact .inr rfl | exact .inl rfl | exact .of rfl rfl rfl rfl rfl rfl rfl))
  all_goals rfl

theorem keep_rstPort (s : State) (a1 : PartAddr) (a2 : Nat) : Keep 2 s (rstPort s a1 a2).2 := by
  unfold rstPort
  try dsimp only
  with_reducible repeat' first
    | (intro) | apply Keep.refl | assumption | apply (keep_pick _ _).after | split | dsimp only
  all_goals rfl

theorem keep_sendDatagram (s : State) (a1 : Datagram) : Keep 147462 s (sendDatagram s a1).2 := by
  unfold sendDatagram
  try dsimp only
  with_reducible repeat' first
    | apply Keep.refl | assumption | apply (keep_rstPort _ _ _).after
    | apply (keep_enqueueBlock _ _ _).after | apply (keep_countBlock _ _).after | apply (keep_coded _ _ _).after | split
    | dsimp only
  all_goals rfl

theorem keep_setConn (s : State) (a1 : Connection) : Keep 8192 s (setConn s a1) := by
  unfold setConn
  with_reducible repeat' first
    | (intro) | apply Keep.refl | assumption | dsimp only
    | (apply Keep.lit; on_goal 2 => (constructor <;> first | exact .inr rfl | exact .inl rfl | exact .of rfl rfl rfl rfl rfl rfl rfl))
  all_goals rfl

theorem keep_openConn (s : State) (a1 : PartAddr) : Keep 155654 s (openConn s a1) := by
  unfold openConn
  try dsimp only
  with_reducible repeat' first
    | apply Keep.refl | assumption | apply (keep_setConn _ _).after
    | apply (keep_sendDatagram _ _).after | dsimp only
    | (apply Keep.lit; on_goal 2 => (constructor <;> first | exact .inr rfl | exact .inl rfl | exact .of rfl rfl rfl rfl rfl rfl rfl))
  all_goals rfl

theorem keep_dropConn (s : State) (a1 : PartAddr) : Keep 8192 s (dropConn s a1) := by
  unfold dropConn
  with_reducible repeat' first
    | (intro) | apply Keep.refl | assumption | dsimp only
    | (apply Keep.lit; on_goal 2 => (constructor <;> first | exact .inr rfl | exact .inl rfl | exact .of rfl rfl rfl rfl rfl rfl rfl))
  all_goals rfl

theorem keep_notify (s : State) (a1 a2 : Field) : Keep 4194368 s (notify s a1 a2) := by
  unfold notify
  with_reducible repeat' first
    | apply Keep.refl | assumption | apply (keep_signal _ _).after | split
  all_goals rfl

theorem keep_gcmReset (s : State) (a1 : Datagram) : Keep 4350022 s (gcmReset s a1) := by
  unfold gcmReset
  try dsimp only
  with_reducible repeat' first
    | apply Keep.refl | assumption | apply (keep_notify _ _ _).after
    | apply (keep_dropConn _ _).after | apply (keep_sendDatagram _ _).after | split | dsimp only
    | (apply Keep.lit; on_goal 2 => (constructor <;> first | exact .inr rfl | exact .inl rfl | exact .of rfl rfl rfl rfl rfl rfl rfl))
  all_goals rfl

theorem keep_sealDatagram (s : State) (d : Datagram) (r : Datagram × State) (h : sealDatagram s d = some r) : Keep 16384 s r.2 := by
  unfold sealDatagram at h
  split at h
  · cases h
  · dsimp only at h
    split at h
    · cases h
    · cases h
      constructor <;> first | exact .inr rfl | exact .inl rfl | exact .of rfl rfl rfl rfl rfl rfl rfl

theorem keep_pump (peer : PartAddr) (n : Nat) (s : State) : Keep 4350022 s (pump peer n s) := by
  induction n generalizing s with
  | zero => exact Keep.refl _ _
  | succ fuel ih =>
    unfold pump
    split
    · exact Keep.refl _ _
    · split
      · exact Keep.refl _ _
      · split
        · exact Keep.refl _ _
        · next c _ _ d rest _ _ =>
          extract_lets d1 sent
          have ks : ∀ r, sent = some r → Keep 4350022 s r.2 := by
            unfold sent
            intro r hr
            split at hr
            · exact (keep_sealDatagram _ _ _ hr).mono rfl
            · cases hr
              exact Keep.refl _ _
          clear_value sent
          split
          · exact (keep_gcmReset _ _).mono rfl
          · next d2 s1 =>
            have k1 := ks _ rfl
            extract_lets r c1
            have k2 : Keep 4350022 s1 r.2 := (keep_sendDatagram _ _).mono rfl
            exact ((k1.trans k2).comp (keep_setConn _ _) rfl).trans (ih _)

theorem keep_transmit (s : State) (a1 : RstOut) : Keep 4350022 s (transmit s a1) := by
  unfold transmit
  try dsimp only
  with_reducible repeat' first
    | apply Keep.refl | assumption | apply (keep_pump _ _ _).after
    | apply (keep_openConn _ _).after | apply (keep_setConn _ _).after | split | dsimp only
    | (apply Keep.lit; on_goal 2 => (constructor <;> first | exact .inr rfl | exact .inl rfl | exact .of rfl rfl rfl rfl rfl rfl rfl))
  all_goals rfl

theorem keep_letGo (s : State) (a1 : HeldOut) : Keep 4876358 s (letGo s a1) := by
  unfold letGo
  try dsimp only
  with_reducible repeat' first
    | (intro) | apply Keep.refl | assumption | apply (keep_transmit _ _).after
    | apply (keep_putRecord _ _ _).after | apply Keep.foldl2 | apply Keep.foldl | split | dsimp only
    | (apply Keep.lit; on_goal 2 => (constructor <;> first | exact .inr rfl | exact .inl rfl | exact .of rfl rfl rfl rfl rfl rfl rfl))
  all_goals rfl

theorem keep_give (s : State) (a1 : HeldOut) : Keep 4876358 s (give s a1) := by
  unfold give
  try dsimp only
  with_reducible repeat' first
    | apply Keep.refl | assumption | apply (keep_letGo _ _).after | split | dsimp only
    | (apply Keep.lit; on_goal 2 => (constructor <;> first | exact .inr rfl | exact .inl rfl | exact .of rfl rfl rfl rfl rfl rfl rfl))
  all_goals rfl

theorem keep_giveRecord (s : State) (a1 : Nat) (a2 : RecordOut) : Keep 4876358 s (giveRecord s a1 a2) := by
  unfold giveRecord
  with_reducible repeat' first
    | apply Keep.refl | assumption | apply (keep_give _ _).after
  all_goals rfl

theorem keep_takeMiss (s : State) (a1 : Nat) : Keep 2048 s (takeMiss s a1).2 := by
  unfold takeMiss
  try dsimp only
  with_reducible repeat' first
    | apply Keep.refl | assumption | dsimp only
    | (apply Keep.lit; on_goal 2 => (constructor <;> first | exact .inr rfl | exact .inl rfl | exact .of rfl rfl rfl rfl rfl rfl rfl))
  all_goals rfl

theorem keep_complete (s : State) (a1 a2 a3 a4 a5 a6 a7 : Nat) (a8 : PartAddr) :
    Keep 4876358 s (complete s a1 a2 a3 a4 a5 a6 a7 a8) := by
  unfold complete
  try dsimp only
  with_reducible repeat' first
    | apply Keep.refl | assumption | apply (keep_takeMiss _ _).after
    | apply (keep_giveRecord _ _ _).after | apply (keep_commandEnds _ _).after | dsimp only
    | (apply Keep.lit; on_goal 2 => (constructor <;> first | exact .inr rfl | exact .inl rfl | exact .of rfl rfl rfl rfl rfl rfl rfl))
  all_goals rfl

theorem keep_refuseHeld (s : State) (a1 a2 : Nat) (a3 : List HeldCommand) (a4 : Nat) :
    Keep 4876358 s (refuseHeld s a1 a2 a3 a4) := by
  unfold refuseHeld
  try dsimp only
  with_reducible repeat' first
    | (intro) | apply Keep.refl | assumption | apply (keep_complete _ _ _ _ _ _ _ _ _).after
    | apply Keep.foldl | dsimp only
  all_goals rfl

theorem keep_sendRst (s : State) (a1 : RstOut) : Keep 4876358 s (sendRst s a1) := by
  unfold sendRst
  with_reducible repeat' first
    | apply Keep.refl | assumption | apply (keep_give _ _).after
  all_goals rfl

theorem keep_chooseFree (s : State) (a1 a2 : Nat) (a3 : Nat → Bool) : Keep 2 s (chooseFree s a1 a2 a3).2 := by
  unfold chooseFree
  try dsimp only
  with_reducible repeat' first
    | apply Keep.refl | assumption | split | dsimp only
    | (apply Keep.lit; on_goal 2 => (constructor <;> first | exact .inr rfl | exact .inl rfl | exact .of rfl rfl rfl rfl rfl rfl rfl))
  all_goals rfl

theorem keep_takeLease (s : State) (a1 : Nat) : Keep 128 s (takeLease s a1) := by
  unfold takeLease
  with_reducible repeat' first
    | (intro) | apply Keep.refl | assumption | dsimp only
    | (apply Keep.lit; on_goal 2 => (constructor <;> first | exact .inr rfl | exact .inl rfl | exact .of rfl rfl rfl rfl rfl rfl rfl))
  all_goals rfl

theorem keep_takeTransfer (s : State) (a1 : Transfer) : Keep 8322 s (takeTransfer s a1).2 := by
  unfold takeTransfer
  try dsimp only
  with_reducible repeat' first
    | (intro) | apply Keep.refl | assumption | apply (keep_takeLease _ _).after
    | apply (keep_chooseFree _ _ _ _).after | apply (keep_setTransfer _ _ _).after | split | dsimp only
  all_goals rfl

theorem keep_publishNext (s : State) (a1 : Nat) : Keep 4876486 s (publishNext s a1) := by
  unfold publishNext
  try dsimp only
  with_reducible repeat' first
    | apply Keep.refl | assumption | apply (keep_takeTransfer _ _).after
    | apply (keep_sendRst _ _).after | split | dsimp only
    | (apply Keep.lit; on_goal 2 => (constructor <;> first | exact .inr rfl | exact .inl rfl | exact .of rfl rfl rfl rfl rfl rfl rfl))
  all_goals rfl

theorem keep_protect (s : State) (a1 a2 : Nat) (a3 : Bool) : Keep 128 s (protect s a1 a2 a3) := by
  unfold protect
  with_reducible repeat' first
    | apply Keep.refl | assumption | dsimp only
    | (apply Keep.lit; on_goal 2 => (constructor <;> first | exact .inr rfl | exact .inl rfl | exact .of rfl rfl rfl rfl rfl rfl rfl))
  all_goals rfl

theorem keep_sealPage (s : State) (a1 a2 : Nat) : Keep 128 s (sealPage s a1 a2) := by
  unfold sealPage
  with_reducible repeat' first
    | apply Keep.refl | assumption | apply (keep_protect _ _ _ _).after
    | apply (keep_setPage _ _ _).after | dsimp only
    | (apply Keep.lit; on_goal 2 => (constructor <;> first | exact .inr rfl | exact .inl rfl | exact .of rfl rfl rfl rfl rfl rfl rfl))
  all_goals rfl

theorem keep_dropCopies (s : State) (a n : Nat) : Keep 65544 s (dropCopies s a n) := by
  have h : Lasts s (dropCopies s a n) := by
    refine ⟨fun h => ?_, fun _ _ h => h, id, Nat.le_refl _, id, id⟩
    change tabWf 0 ((linesOf a n).foldl (mergeCopy s) s.mem) = true
    have k : ∀ (l : List Nat) (m : List Host.Cell), tabWf 0 m = true → tabWf 0 (l.foldl (mergeCopy s) m) = true := by
      intro l
      induction l with
      | nil => exact fun _ h => h
      | cons x l ih =>
        intro m hm
        refine ih _ ?_
        unfold mergeCopy
        split
        · exact tabWf_putRun _ _ _ _ hm
        · exact hm
    exact k _ _ h
  constructor <;> first | exact .inr rfl | exact .inl rfl | exact h

theorem keep_memWrite (s : State) (a : Nat) (bs : List Byte) : Keep 65544 s (memWrite s a bs) := by
  refine (keep_dropCopies s a bs.length).trans ?_
  unfold memWrite
  generalize dropCopies s a bs.length = u
  have h : Lasts u { u with mem := tabPutRun 0 u.mem a bs } :=
    ⟨fun h => tabWf_putRun _ _ _ _ h, fun _ _ h => h, id, Nat.le_refl _, id, id⟩
  constructor <;> first | exact .inr rfl | exact .inl rfl | exact h

theorem keep_zeroTail (s : State) (a1 : ModelDescriptor) (a2 a3 : Nat) : Keep 65544 s (zeroTail s a1 a2 a3) := by
  unfold zeroTail
  with_reducible repeat' first
    | (intro) | apply Keep.refl | assumption | apply (keep_memWrite _ _ _).after
    | apply Keep.foldl | dsimp only
  all_goals rfl

theorem keep_freezePage (s : State) (a1 : ModelDescriptor) (a2 a3 a4 : Nat) : Keep 67720 s (freezePage s a1 a2 a3 a4) := by
  unfold freezePage
  try dsimp only
  with_reducible repeat' first
    | apply Keep.refl | assumption | apply (keep_zeroTail _ _ _ _).after
    | apply (keep_sealPage _ _ _).after | apply (keep_setManifest _ _ _).after | apply (keep_retirePage _ _).after | split
    | dsimp only
    | (apply Keep.lit; on_goal 2 => (constructor <;> first | exact .inr rfl | exact .inl rfl | exact .of rfl rfl rfl rfl rfl rfl rfl))
  all_goals rfl

theorem keep_freezeTail (s : State) (a1 : ModelDescriptor) (a2 : Nat) : Keep 67720 s (freezeTail s a1 a2) := by
  unfold freezeTail
  with_reducible repeat' first
    | (intro) | apply Keep.refl | assumption | apply (keep_freezePage _ _ _ _ _).after
    | apply Keep.foldl2 | apply Keep.foldl | split | dsimp only
  all_goals rfl

theorem keep_hear (s : State) (a1 : Nat) : Keep 2048 s (hear s a1) := by
  unfold hear
  with_reducible repeat' first
    | apply Keep.refl | assumption | dsimp only
    | (apply Keep.lit; on_goal 2 => (constructor <;> first | exact .inr rfl | exact .inl rfl | exact .of rfl rfl rfl rfl rfl rfl rfl))
  all_goals rfl

theorem keep_modEntry (s : State) (a1 : Nat) (a2 : Entry → Entry) : Keep 2048 s (modEntry s a1 a2) := by
  unfold modEntry
  with_reducible repeat' first
    | apply Keep.refl | assumption | apply (keep_setEntry _ _ _).after
  all_goals rfl

theorem keep_enterHandoffOut (s : State) (a1 : Nat) : Keep 67720 s (enterHandoffOut s a1) := by
  unfold enterHandoffOut
  try dsimp only
  with_reducible repeat' first
    | (intro) | apply Keep.refl | assumption | apply (keep_modEntry _ _ _).after
    | apply (keep_hear _ _).after | apply (keep_freezeTail _ _ _).after | split | dsimp only
    | (apply Keep.lit; on_goal 2 => (constructor <;> first | exact .inr rfl | exact .inl rfl | exact .of rfl rfl rfl rfl rfl rfl rfl))
  all_goals rfl

theorem keep_sendLog (s : State) (a1 : Nat) : Keep 4876358 s (sendLog s a1) := by
  unfold sendLog
  try dsimp only
  with_reducible repeat' first
    | apply Keep.refl | assumption | apply (keep_sendRst _ _).after | split | dsimp only
    | (apply Keep.lit; on_goal 2 => (constructor <;> first | exact .inr rfl | exact .inl rfl | exact .of rfl rfl rfl rfl rfl rfl rfl))
  all_goals rfl

theorem keep_tryOffer (s : State) (a1 : Nat) : Keep 4942030 s (tryOffer s a1) := by
  unfold tryOffer
  try dsimp only
  with_reducible repeat' first
    | apply Keep.refl | assumption | apply (keep_sendLog _ _).after
    | apply (keep_enterHandoffOut _ _).after | apply (keep_takeTransfer _ _).after | apply (keep_sendRst _ _).after | split
    | dsimp only
    | (apply Keep.lit; on_goal 2 => (constructor <;> first | exact .inr rfl | exact .inl rfl | exact .of rfl rfl rfl rfl rfl rfl rfl))
  all_goals rfl

theorem keep_retryTransfers (s : State) : Keep 4942030 s (retryTransfers s) := by
  unfold retryTransfers
  try dsimp only
  with_reducible repeat' first
    | (intro) | apply Keep.refl | assumption | apply (keep_tryOffer _ _).after
    | apply (keep_publishNext _ _).after | apply Keep.foldl | dsimp only
  all_goals rfl

theorem keep_abandon (s : State) (a1 : Nat) : Keep 4943054 s (abandon s a1) := by
  unfold abandon
  try dsimp only
  with_reducible repeat' first
    | apply Keep.refl | assumption | apply (keep_retryTransfers _).after
    | apply (keep_refuseHeld _ _ _ _ _).after | apply (keep_freeEntry _ _).after | dsimp only
  all_goals rfl

theorem keep_chargeRequest (a0 : Nat) (s : State) (a2 : StepReq × Nat) : Keep 3072 s (chargeRequest a0 s a2) := by
  unfold chargeRequest
  try dsimp only
  with_reducible repeat' first
    | (intro) | apply Keep.refl | assumption | apply (keep_modEntry _ _ _).after | split
    | dsimp only
    | (apply Keep.lit; on_goal 2 => (constructor <;> first | exact .inr rfl | exact .inl rfl | exact .of rfl rfl rfl rfl rfl rfl rfl))
  all_goals rfl

theorem keep_setStep (s : State) (a1 : Nat) (a2 : Option Step) : Keep 1024 s (setStep s a1 a2) := by
  unfold setStep
  with_reducible repeat' first
    | apply Keep.refl | assumption | dsimp only
    | (apply Keep.lit; on_goal 2 => (constructor <;> first | exact .inr rfl | exact .inl rfl | exact .of rfl rfl rfl rfl rfl rfl rfl))
  all_goals rfl

theorem keep_chargeUnit (s : State) (a1 : Nat) : Keep 3072 s (chargeUnit s a1) := by
  unfold chargeUnit
  try dsimp only
  with_reducible repeat' first
    | (intro) | apply Keep.refl | assumption | apply (keep_setStep _ _ _).after
    | apply (keep_chargeRequest _ _ _).after | apply Keep.foldl | split | dsimp only
    | (apply Keep.lit; on_goal 2 => (constructor <;> first | exact .inr rfl | exact .inl rfl | exact .of rfl rfl rfl rfl rfl rfl rfl))
  all_goals rfl

theorem keep_setRegion (s : State) (a1 : Nat) (a2 : Region) : Keep 256 s (setRegion s a1 a2) := by
  unfold setRegion
  with_reducible repeat' first
    | apply Keep.refl | assumption | dsimp only
    | (apply Keep.lit; on_goal 2 => (constructor <;> first | exact .inr rfl | exact .inl rfl | exact .of rfl rfl rfl rfl rfl rfl rfl))
  all_goals rfl

theorem keep_endThreads (s : State) (a1 : Nat) : Keep 384 s (endThreads s a1) := by
  unfold endThreads
  try dsimp only
  with_reducible repeat' first
    | (intro) | apply Keep.refl | assumption | apply (keep_setRegion _ _ _).after
    | apply (keep_endLease _ _).after | apply Keep.foldl | dsimp only
    | (apply Keep.lit; on_goal 2 => (constructor <;> first | exact .inr rfl | exact .inl rfl | exact .of rfl rfl rfl rfl rfl rfl rfl))
  all_goals rfl

theorem keep_dropResults (s : State) (a1 : Nat) : Keep 512 s (dropResults s a1) := by
  unfold dropResults
  with_reducible repeat' first
    | (intro) | apply Keep.refl | assumption | dsimp only
    | (apply Keep.lit; on_goal 2 => (constructor <;> first | exact .inr rfl | exact .inl rfl | exact .of rfl rfl rfl rfl rfl rfl rfl))
  all_goals rfl

theorem keep_setRunning (s : State) (a1 : Nat) (a2 : Option Unit) : Keep 256 s (setRunning s a1 a2) := by
  unfold setRunning
  with_reducible repeat' first
    | apply Keep.refl | assumption | apply (keep_setRegion _ _ _).after | dsimp only
    | (apply Keep.lit; on_goal 2 => (constructor <;> first | exact .inr rfl | exact .inl rfl | exact .of rfl rfl rfl rfl rfl rfl rfl))
  all_goals rfl

theorem keep_freeHeld (s : State) (a1 : Nat) : Keep 256 s (freeHeld s a1) := by
  unfold freeHeld
  with_reducible repeat' first
    | (intro) | apply Keep.refl | assumption | apply (keep_setRunning _ _ _).after
    | apply Keep.foldl | split | dsimp only
  all_goals rfl

theorem keep_setSave (s : State) (a1 a2 : Nat) (a3 : Option Context) : Keep 256 s (setSave s a1 a2 a3) := by
  unfold setSave
  with_reducible repeat' first
    | apply Keep.refl | assumption | apply (keep_setRegion _ _ _).after | dsimp only
    | (apply Keep.lit; on_goal 2 => (constructor <;> first | exact .inr rfl | exact .inl rfl | exact .of rfl rfl rfl rfl rfl rfl rfl))
  all_goals rfl

theorem keep_freeSave (s : State) (a1 : Step) : Keep 256 s (freeSave s a1) := by
  unfold freeSave
  with_reducible repeat' first
    | apply Keep.refl | assumption | apply (keep_setSave _ _ _ _).after | split
  all_goals rfl

theorem keep_endStep (s : State) (a1 : Nat) : Keep 1792 s (endStep s a1) := by
  unfold endStep
  with_reducible repeat' first
    | apply Keep.refl | assumption | apply (keep_freeSave _ _).after
    | apply (keep_freeHeld _ _).after | apply (keep_dropResults _ _).after | apply (keep_setStep _ _ _).after | split
  all_goals rfl

theorem keep_newStep (s : State) (a1 : Step) : Keep 1024 s (newStep s a1).2 := by
  unfold newStep
  with_reducible repeat' first
    | apply Keep.refl | assumption | dsimp only
    | (apply Keep.lit; on_goal 2 => (constructor <;> first | exact .inr rfl | exact .inl rfl | exact .of rfl rfl rfl rfl rfl rfl rfl))
  all_goals rfl

theorem keep_reissueStep (s : State) (a1 : Nat) : Keep 1796 s (reissueStep s a1) := by
  unfold reissueStep
  try dsimp only
  with_reducible repeat' first
    | apply Keep.refl | assumption | apply (keep_newStep _ _).after
    | apply (keep_endStep _ _).after | apply (keep_satF _ _).after | split | dsimp only
    | (apply Keep.lit; on_goal 2 => (constructor <;> first | exact .inr rfl | exact .inl rfl | exact .of rfl rfl rfl rfl rfl rfl rfl))
  all_goals rfl

theorem keep_abandonUnit (s : State) (a1 : Nat) : Keep 3972 s (abandonUnit s a1) := by
  unfold abandonUnit
  try dsimp only
  with_reducible repeat' first
    | apply Keep.refl | assumption | apply (keep_reissueStep _ _).after
    | apply (keep_setRunning _ _ _).after | apply (keep_endThreads _ _).after | apply (keep_chargeUnit _ _).after | split
    | dsimp only
  all_goals rfl

theorem keep_acknowledge (a0 s : State) (a2 : PartAddr) : Keep 147462 s (acknowledge a0 s a2) := by
  unfold acknowledge
  with_reducible repeat' first
    | apply Keep.refl | assumption | apply (keep_sendDatagram _ _).after | split | dsimp only
  all_goals rfl

theorem keep_markMirrored (s : State) (a1 : List Nat) : Keep 524288 s (markMirrored s a1) := by
  unfold markMirrored
  try dsimp only
  with_reducible repeat' first
    | (intro) | apply Keep.refl | assumption | apply Keep.foldl | dsimp only
    | (apply Keep.lit; on_goal 2 => (constructor <;> first | exact .inr rfl | exact .inl rfl | exact .of rfl rfl rfl rfl rfl rfl rfl))
  all_goals rfl

theorem keep_releaseAll (s : State) : Keep 4876358 s (releaseAll s) := by
  unfold releaseAll
  try dsimp only
  with_reducible repeat' first
    | (intro) | apply Keep.refl | assumption | apply (keep_letGo _ _).after | apply Keep.foldl2
    | apply Keep.foldl | dsimp only
    | (apply Keep.lit; on_goal 2 => (constructor <;> first | exact .inr rfl | exact .inl rfl | exact .of rfl rfl rfl rfl rfl rfl rfl))
  all_goals rfl

theorem keep_releaseHeld (a0 : Nat) (s : State) : Keep 4876358 s (releaseHeld a0 s) := by
  fun_induction releaseHeld a0 s
  all_goals (try dsimp only)
  with_reducible repeat' first
    | apply Keep.refl | assumption | apply (keep_letGo _ _).after
    | apply Keep.after (by assumption) | split | dsimp only
    | (apply Keep.lit; on_goal 2 => (constructor <;> first | exact .inr rfl | exact .inl rfl | exact .of rfl rfl rfl rfl rfl rfl rfl))
  all_goals rfl

theorem keep_sendRecord (s : State) (a1 : Bool) (a2 : MirrorBody) : Keep 655362 s (sendRecord s a1 a2) := by
  unfold sendRecord
  try dsimp only
  with_reducible repeat' first
    | apply Keep.refl | assumption | apply (keep_pick _ _).after
    | apply (keep_enqueue _ _ _).after | split | dsimp only
    | (apply Keep.lit; on_goal 2 => (constructor <;> first | exact .inr rfl | exact .inl rfl | exact .of rfl rfl rfl rfl rfl rfl rfl))
  all_goals rfl

theorem keep_sendChange (s : State) (a1 : List MirrorBody) : Keep 655362 s (sendChange s a1) := by
  fun_induction sendChange s a1
  all_goals (try dsimp only)
  with_reducible repeat' first
    | apply Keep.refl | assumption | apply (keep_sendRecord _ _ _).after
    | apply Keep.after (by assumption)
  all_goals rfl

theorem keep_mirrorChange (s0 s : State) : Keep 4876358 s (mirrorChange s0 s) := by
  have c : ∀ u b, Keep 4876358 u (sendChange u b) := fun u b => (keep_sendChange u b).mono rfl
  have m : ∀ u b, Keep 4876358 u (markMirrored u b) := fun u b => (keep_markMirrored u b).mono rfl
  unfold mirrorChange
  split
  · split
    · exact Keep.refl _ _
    · exact keep_releaseAll s
  · extract_lets pages s1 _ s2 s3
    have h1 : Keep 4876358 s s1 := (c _ _).trans (m _ _)
    have h2 : Keep 4876358 s1 s2 := by
      clear h1
      clear_value s1
      constructor <;> first | exact .inr rfl | exact .inl rfl | exact .of rfl rfl rfl rfl rfl rfl rfl
    have h3 : Keep 4876358 s2 s3 := by
      clear h1 h2
      clear_value s2
      exact keep_releaseHeld _ _
    have h := (h1.trans h2).trans h3
    clear h1 h2 h3
    clear_value s3
    have h4 : Keep 4876358 s3 { s3 with twn := { s3.twn with written := [] } } := by
      constructor <;> first | exact .inr rfl | exact .inl rfl | exact .of rfl rfl rfl rfl rfl rfl rfl
    exact (h.trans h4).trans (c _ _)

theorem keep_showPressure (s : State) (a1 a2 a3 : Nat) : Keep 4194500 s (showPressure s a1 a2 a3) := by
  unfold showPressure
  try dsimp only
  with_reducible repeat' first
    | (intro) | apply Keep.refl | assumption | apply (keep_notify _ _ _).after
    | apply (keep_putF _ _ _).after | split | dsimp only
    | (apply Keep.lit; on_goal 2 => (constructor <;> first | exact .inr rfl | exact .inl rfl | exact .of rfl rfl rfl rfl rfl rfl rfl))
  all_goals rfl

theorem keep_pressComp (s : State) (a1 : Nat) : Keep 4194500 s (pressComp s a1) := by
  unfold pressComp
  try dsimp only
  with_reducible repeat' first
    | apply Keep.refl | assumption | apply (keep_showPressure _ _ _ _).after | split | dsimp only
  all_goals rfl

theorem keep_updatePressure (s : State) : Keep 4194500 s (updatePressure s) := by
  unfold updatePressure
  try dsimp only
  with_reducible repeat' first
    | (intro) | apply Keep.refl | assumption | apply (keep_pressComp _ _).after
    | apply Keep.foldl | split | dsimp only
    | (apply Keep.lit; on_goal 2 => (constructor <;> first | exact .inr rfl | exact .inl rfl | exact .of rfl rfl rfl rfl rfl rfl rfl))
  all_goals rfl

theorem keep_finish (a0 s : State) : Keep 4876486 s (finish a0 s) := by
  unfold finish
  with_reducible repeat' first
    | apply Keep.refl | assumption | apply (keep_updatePressure _).after
    | apply (keep_mirrorChange _ _).after
  all_goals rfl

theorem keep_act {w : Nat} (s : State) (taken : Bool) (effect : State → State) (hw : 4876486 &&& w = 4876486)
    (he : ∀ u, Keep w u (effect u)) : KeepO w s (act s taken effect) := by
  unfold act
  refine KeepO.next ?_
  split
  · exact (he s).trans ((keep_finish s _).mono hw)
  · exact Keep.refl _ _

theorem keep_actAwake {w : Nat} (s : State) (taken : Bool) (c : Instr) (effect : State → State) (hw : 4876518 &&& w = 4876518)
    (he : ∀ u, Keep w u (effect u)) : KeepO w s (actAwake s taken c effect) := by
  unfold actAwake
  split
  · exact KeepO.next (Keep.mono (v := 32) (by constructor <;> first | exact .inr rfl | exact .inl rfl | exact .of rfl rfl rfl rfl rfl rfl rfl) (Keep.landTrans rfl hw))
  · exact keep_act s taken effect (Keep.landTrans rfl hw) he

theorem keep_sendFeed (s : State) (a1 : FeedBody) : Keep 6291456 s (sendFeed s a1) := by
  unfold sendFeed
  with_reducible repeat' first
    | apply Keep.refl | assumption | apply (keep_emitAll _ _).after | dsimp only
    | (apply Keep.lit; on_goal 2 => (constructor <;> first | exact .inr rfl | exact .inl rfl | exact .of rfl rfl rfl rfl rfl rfl rfl))
  all_goals rfl

theorem keep_sendPower (s : State) (a1 : Nat) : Keep 6291456 s (sendPower s a1) := by
  unfold sendPower
  with_reducible repeat' first
    | apply Keep.refl | assumption | apply (keep_sendFeed _ _).after | split
  all_goals rfl

theorem keep_pwrNotify (s : State) : Keep 4194368 s (pwrNotify s) := by
  unfold pwrNotify
  with_reducible repeat' first
    | apply Keep.refl | assumption | apply (keep_notify _ _ _).after | split
  all_goals rfl

theorem keep_setPwrState (s : State) (a1 : PwrState) : Keep 4194400 s (setPwrState s a1) := by
  unfold setPwrState
  with_reducible repeat' first
    | apply Keep.refl | assumption | apply (keep_pwrNotify _).after | split | dsimp only
    | (apply Keep.lit; on_goal 2 => (constructor <;> first | exact .inr rfl | exact .inl rfl | exact .of rfl rfl rfl rfl rfl rfl rfl))
  all_goals rfl

theorem keep_leaveCharcoal (s : State) (a1 : Bool) : Keep 6291552 s (leaveCharcoal s a1) := by
  unfold leaveCharcoal
  try dsimp only
  with_reducible repeat' first
    | apply Keep.refl | assumption | apply (keep_setPwrState _ _).after
    | apply (keep_sendPower _ _).after | split | dsimp only
    | (apply Keep.lit; on_goal 2 => (constructor <;> first | exact .inr rfl | exact .inl rfl | exact .of rfl rfl rfl rfl rfl rfl rfl))
  all_goals rfl

theorem keep_wakePart (s : State) : Keep 6291552 s (wakePart s) := by
  unfold wakePart
  with_reducible repeat' first
    | apply Keep.refl | assumption | apply (keep_leaveCharcoal _ _).after | split | dsimp only
    | (apply Keep.lit; on_goal 2 => (constructor <;> first | exact .inr rfl | exact .inl rfl | exact .of rfl rfl rfl rfl rfl rfl rfl))
  all_goals rfl

theorem keep_actBar4 {w : Nat} (s : State) (c : Instr) (effect : State → State) (hw : 6973670 &&& w = 6973670)
    (he : ∀ u, Keep w u (effect u)) : KeepO w s (actBar4 s c effect) := by
  unfold actBar4
  split
  · refine KeepO.next (Keep.mono (v := 6973670) ?_ hw)
    refine Keep.trans (t := { s with pwr := { s.pwr with held := s.pwr.held ++ [c] } }) ?_ ((keep_wakePart _).mono rfl)
    constructor <;> first | exact .inr rfl | exact .inl rfl | exact .of rfl rfl rfl rfl rfl rfl rfl
  · exact keep_act s _ effect (Keep.landTrans rfl hw) he

theorem keep_wakeBy (s : State) (a1 : Nat) : Keep 6291552 s (wakeBy s a1) := by
  unfold wakeBy
  with_reducible repeat' first
    | apply Keep.refl | assumption | apply (keep_wakePart _).after | split
  all_goals rfl

theorem keep_actDoorbell {w : Nat} (s : State) (c : Instr) (effect : State → State) (hw : 6973670 &&& w = 6973670)
    (he : ∀ u, Keep w u (effect u)) : KeepO w s (actDoorbell s c effect) := by
  unfold actDoorbell
  split
  · refine KeepO.next (Keep.mono (v := 6973670) ?_ hw)
    refine Keep.trans (t := { s with pwr := { s.pwr with held := s.pwr.held ++ [c] } }) ?_ ((keep_wakeBy _ 0).mono rfl)
    constructor <;> first | exact .inr rfl | exact .inl rfl | exact .of rfl rfl rfl rfl rfl rfl rfl
  · exact keep_act s _ effect (Keep.landTrans rfl hw) he

theorem keep_meterAdvance (s : State) (a1 : MeterStamp) : Keep 1048576 s (meterAdvance s a1) := by
  unfold meterAdvance
  with_reducible repeat' first
    | apply Keep.refl | assumption | dsimp only
    | (apply Keep.lit; on_goal 2 => (constructor <;> first | exact .inr rfl | exact .inl rfl | exact .of rfl rfl rfl rfl rfl rfl rfl))
  all_goals rfl

theorem keep_actMeter {w : Nat} (s : State) (m : MeterStamp) (effect : State → State) (hw : 5925062 &&& w = 5925062)
    (he : ∀ u, Keep w u (effect u)) : KeepO w s (actMeter s m effect) := by
  unfold actMeter
  refine keep_act s _ _ (Keep.landTrans rfl hw) ?_
  intro u
  exact Keep.trans ((keep_meterAdvance u m).mono (Keep.landTrans rfl hw)) (he _)

theorem chain_next (x : Meter) (r : MeterRecord) (b : Nat) (hr : r.recordNo = x.newest + 1) (hp : r.prevHash = x.prevHash)
    (h : Safety.MeterChain x) :
    Safety.MeterChain { x with
      log := tabPut none x.log (r.recordNo % 2 ^ 20) (some r), newest := r.recordNo, prevHash := Config.sha384 (meterRecordBytes r),
      feedFaults := b } := by
  intro k h1 h2 h3
  dsimp only at h2 h3 ⊢
  rw [hr] at h2 h3 ⊢
  by_cases e : k = x.newest + 1
  · refine ⟨r, ?_, hr.trans e.symm, ?_⟩
    · rw [e]
      exact tabGet_put_self _ _ _ _
    · rw [if_pos e]
  · obtain ⟨q, hq, hk, hc⟩ := h k h1 (by omega) (by omega)
    refine ⟨q, ?_, hk, ?_⟩
    · rw [tabGet_put_other _ _ _ (by omega)]
      exact hq
    · rw [if_neg e]
      by_cases f : k = x.newest
      · rw [if_pos f] at hc
        refine ⟨r, ?_, hp.trans hc⟩
        rw [f]
        exact tabGet_put_self _ _ _ _
      · rw [if_neg f] at hc
        obtain ⟨p, hp1, hp2⟩ := hc
        refine ⟨p, ?_, hp2⟩
        rw [tabGet_put_other _ _ _ (by omega)]
        exact hp1

theorem keep_logRecord (s : State) (type mtc energy : Nat) (body : List Byte) :
    Keep 5242880 s (logRecord s type mtc energy body) := by
  unfold logRecord
  extract_lets x r0 sig r s1 s2
  have h : Lasts s s1 :=
    ⟨id, fun _ _ h => h, fun h => chain_next s.mtr r _ rfl rfl h, Nat.le_succ _, id, id⟩
  have k1 : Keep 5242880 s s1 := by
    constructor <;> first | exact .inr rfl | exact .inl rfl | exact h
  have k2 : Keep 5242880 s1 s2 := (keep_emit _ _).mono rfl
  split
  · exact (k1.trans k2).trans ((keep_emit _ _).mono rfl)
  · exact k1.trans k2

theorem keep_logNow (s : State) (a1 : Nat) (a2 : List Byte) : Keep 5242880 s (logNow s a1 a2) := by
  unfold logNow
  with_reducible repeat' first
    | apply Keep.refl | assumption | apply (keep_logRecord _ _ _ _ _).after
  all_goals rfl

theorem keep_feedFault (s : State) (a1 a2 a3 : Nat) : Keep 5242880 s (feedFault s a1 a2 a3) := by
  unfold feedFault
  with_reducible repeat' first
    | apply Keep.refl | assumption | apply (keep_logNow _ _ _).after
  all_goals rfl

theorem keep_frameGap (s : State) (a1 : FeedHead) : Keep 5242880 s (frameGap s a1) := by
  unfold frameGap
  with_reducible repeat' first
    | apply Keep.refl | assumption | apply (keep_feedFault _ _ _ _).after | split
  all_goals rfl

theorem keep_keepFrame (s : State) (a1 : Nat) : Keep 1048576 s (keepFrame s a1) := by
  unfold keepFrame
  with_reducible repeat' first
    | apply Keep.refl | assumption | dsimp only
    | (apply Keep.lit; on_goal 2 => (constructor <;> first | exact .inr rfl | exact .inl rfl | exact .of rfl rfl rfl rfl rfl rfl rfl))
  all_goals rfl

theorem keep_actFeed {w : Nat} (s : State) (m : MeterStamp) (f : FeedHead) (effect : State → State) (hw : 5925062 &&& w = 5925062)
    (he : ∀ u, Keep w u (effect u)) : KeepO w s (actFeed s m f effect) := by
  unfold actFeed
  refine keep_actMeter s m _ hw ?_
  intro u
  dsimp only
  have a : Keep w u { u with mtr := { u.mtr with silent := false, heard := u.mtr.mtc } } :=
    Keep.mono (v := 1048576) (by constructor <;> first | exact .inr rfl | exact .inl rfl | exact .of rfl rfl rfl rfl rfl rfl rfl) (Keep.landTrans rfl hw)
  have b : ∀ x i j k, Keep w x (feedFault x i j k) := fun x i j k => (keep_feedFault x i j k).mono (Keep.landTrans rfl hw)
  have c : ∀ x, Keep w x (keepFrame (frameGap x f) f.seq) := fun x =>
    ((keep_frameGap x f).mono (Keep.landTrans rfl hw)).trans ((keep_keepFrame _ _).mono (Keep.landTrans rfl hw))
  split
  · exact a.trans (b _ _ _ _)
  · split
    · exact a
    · split
      · exact (a.trans (c _)).trans (he _)
      · exact (a.trans (c _)).trans (b _ _ _ _)

theorem keep_holdFrame (s : State) (a1 : Instr) (a2 : PortNo) (a3 a4 : Nat) : Keep 6422628 s (holdFrame s a1 a2 a3 a4) := by
  unfold holdFrame
  try dsimp only
  with_reducible repeat' first
    | apply Keep.refl | assumption | apply (keep_wakeBy _ _).after | apply (keep_satF _ _).after
    | split | dsimp only
    | (apply Keep.lit; on_goal 2 => (constructor <;> first | exact .inr rfl | exact .inl rfl | exact .of rfl rfl rfl rfl rfl rfl rfl))
  all_goals rfl

theorem keep_actFrame {w : Nat} (s : State) (taken : Bool) (c : Instr) (port : PortNo) (cls bytes : Nat) (effect : State → State)
    (hw : 6973670 &&& w = 6973670) (he : ∀ u, Keep w u (effect u)) : KeepO w s (actFrame s taken c port cls bytes effect) := by
  unfold actFrame
  split
  · exact KeepO.next ((keep_holdFrame s c port cls bytes).mono (Keep.landTrans rfl hw))
  · exact keep_act s _ effect (Keep.landTrans rfl hw) he

theorem keep_holdLink (s : State) (a1 : Instr) (a2 a3 a4 : Nat) : Keep 6422624 s (holdLink s a1 a2 a3 a4) := by
  unfold holdLink
  with_reducible repeat' first
    | apply Keep.refl | assumption | apply (keep_wakeBy _ _).after | dsimp only
    | (apply Keep.lit; on_goal 2 => (constructor <;> first | exact .inr rfl | exact .inl rfl | exact .of rfl rfl rfl rfl rfl rfl rfl))
  all_goals rfl

theorem keep_actLink {w : Nat} (s : State) (f : FrameHeader) (c : Instr) (cls bytes : Nat) (effect : State → State)
    (hw : 6973670 &&& w = 6973670) (he : ∀ u, Keep w u (effect u)) : KeepO w s (actLink s f c cls bytes effect) := by
  unfold actLink
  dsimp only
  split
  · exact KeepO.next ((keep_holdLink s c f.port.val cls bytes).mono (Keep.landTrans rfl hw))
  · exact keep_act s _ effect (Keep.landTrans rfl hw) he

theorem keep_completeBare (s : State) (a1 a2 a3 a4 a5 : Nat) : Keep 4876358 s (completeBare s a1 a2 a3 a4 a5) := by
  unfold completeBare
  try dsimp only
  with_reducible repeat' first
    | apply Keep.refl | assumption | apply (keep_complete _ _ _ _ _ _ _ _ _).after
    | apply (keep_giveRecord _ _ _).after | apply (keep_commandEnds _ _).after | split | dsimp only
    | (apply Keep.lit; on_goal 2 => (constructor <;> first | exact .inr rfl | exact .inl rfl | exact .of rfl rfl rfl rfl rfl rfl rfl))
  all_goals rfl

theorem keep_recordFault (s : State) (a1 a2 a3 : Nat) : Keep 4194372 s (recordFault s a1 a2 a3) := by
  unfold recordFault
  try dsimp only
  with_reducible repeat' first
    | (intro) | apply Keep.refl | assumption | apply (keep_notify _ _ _).after
    | apply (keep_latch _ _ _ _ ?_ ?_).next | apply (keep_putF _ _ _).after | split | dsimp only
  all_goals rfl

theorem keep_answerBare (s : State) (a1 : Nat) (a2 : HeldCommand) (a3 : Nat) : Keep 4876358 s (answerBare s a1 a2 a3) := by
  unfold answerBare
  try dsimp only
  with_reducible repeat' first
    | apply Keep.refl | assumption | apply (keep_recordFault _ _ _ _).after
    | apply (keep_completeBare _ _ _ _ _ _).after | split | dsimp only
  all_goals rfl

theorem keep_answer (s : State) (a1 : Nat) (a2 : HeldCommand) (a3 : Nat) : Keep 4876358 s (answer s a1 a2 a3) := by
  unfold answer
  try dsimp only
  with_reducible repeat' first
    | apply Keep.refl | assumption | apply (keep_recordFault _ _ _ _).after
    | apply (keep_complete _ _ _ _ _ _ _ _ _).after | split | dsimp only
  all_goals rfl

theorem keep_arbitrate (s : State) (a1 : Nat) : Keep 2048 s (arbitrate s a1) := by
  unfold arbitrate
  with_reducible repeat' first
    | (intro) | apply Keep.refl | assumption | apply (keep_modEntry _ _ _).after | dsimp only
    | (apply Keep.lit; on_goal 2 => (constructor <;> first | exact .inr rfl | exact .inl rfl | exact .of rfl rfl rfl rfl rfl rfl rfl))
  all_goals rfl

theorem keep_seizeEntry (s : State) (a1 : Nat) : Keep 3072 s (seizeEntry s a1) := by
  unfold seizeEntry
  with_reducible repeat' first
    | apply Keep.refl | assumption | apply (keep_arbitrate _ _).after
    | apply (keep_invalidate _ _).after
  all_goals rfl

theorem keep_reject (s : State) (a1 : Nat) (a2 : HeldCommand) (a3 : Nat) : Keep 4877382 s (reject s a1 a2 a3) := by
  unfold reject
  with_reducible repeat' first
    | apply Keep.refl | assumption | apply (keep_seizeEntry _ _).after
    | apply (keep_arbitrate _ _).after | apply (keep_answer _ _ _ _).after | split
  all_goals rfl

theorem keep_discardRoot (s : State) (a1 : Nat) (a2 : Bool) : Keep 2048 s (discardRoot s a1 a2) := by
  unfold discardRoot
  with_reducible repeat' first
    | (intro) | apply Keep.refl | assumption | apply (keep_modEntry _ _ _).after | dsimp only
    | (apply Keep.lit; on_goal 2 => (constructor <;> first | exact .inr rfl | exact .inl rfl | exact .of rfl rfl rfl rfl rfl rfl rfl))
  all_goals rfl

theorem keep_setInput (s : State) (a1 : Nat) (a2 : Option PendingInput) : Keep 2048 s (setInput s a1 a2) := by
  unfold setInput
  with_reducible repeat' first
    | apply Keep.refl | assumption | dsimp only
    | (apply Keep.lit; on_goal 2 => (constructor <;> first | exact .inr rfl | exact .inl rfl | exact .of rfl rfl rfl rfl rfl rfl rfl))
  all_goals rfl

theorem keep_wantOffer (s : State) (a1 : Nat) : Keep 4942030 s (wantOffer s a1) := by
  unfold wantOffer
  with_reducible repeat' first
    | apply Keep.refl | assumption | apply (keep_tryOffer _ _).after | dsimp only
    | (apply Keep.lit; on_goal 2 => (constructor <;> first | exact .inr rfl | exact .inl rfl | exact .of rfl rfl rfl rfl rfl rfl rfl))
  all_goals rfl

theorem keep_takeAppend (s : State) (a1 : Nat) (a2 : HeldCommand) : Keep 4943054 s (takeAppend s a1 a2) := by
  unfold takeAppend
  try dsimp only
  with_reducible repeat' first
    | (intro) | apply Keep.refl | assumption | apply (keep_wantOffer _ _).after
    | apply (keep_setInput _ _ _).after | apply (keep_discardRoot _ _ _).after | apply (keep_seizeEntry _ _).after
    | apply (keep_answer _ _ _ _).after | apply (keep_sendLog _ _).after | apply (keep_enterHandoffOut _ _).after
    | apply (keep_modEntry _ _ _).after | split | dsimp only
    | (apply Keep.lit; on_goal 2 => (constructor <;> first | exact .inr rfl | exact .inl rfl | exact .of rfl rfl rfl rfl rfl rfl rfl))
  all_goals rfl

theorem keep_applyAppend (s : State) (a1 : Nat) (a2 : HeldCommand) : Keep 4943054 s (applyAppend s a1 a2) := by
  unfold applyAppend
  with_reducible repeat' first
    | apply Keep.refl | assumption | apply (keep_takeAppend _ _ _).after
    | apply (keep_reject _ _ _ _).after | split
  all_goals rfl

theorem keep_chooseRun (s : State) (a1 a2 a3 a4 : Nat) : Keep 2 s (chooseRun s a1 a2 a3 a4).2 := by
  unfold chooseRun
  try dsimp only
  with_reducible repeat' first
    | (intro) | apply Keep.refl | assumption | apply (keep_chooseFree _ _ _ _).after | split
    | dsimp only
  all_goals rfl

theorem keep_setPageEntry (s : State) (a1 a2 a3 : Nat) (a4 : PageEntry) : Keep 2048 s (setPageEntry s a1 a2 a3 a4) := by
  unfold setPageEntry
  with_reducible repeat' first
    | apply Keep.refl | assumption | apply (keep_setManifest _ _ _).after | split | dsimp only
    | (apply Keep.lit; on_goal 2 => (constructor <;> first | exact .inr rfl | exact .inl rfl | exact .of rfl rfl rfl rfl rfl rfl rfl))
  all_goals rfl

theorem keep_clearPage (s : State) (a1 a2 a3 : Nat) : Keep 2180 s (clearPage s a1 a2 a3) := by
  unfold clearPage
  try dsimp only
  with_reducible repeat' first
    | apply Keep.refl | assumption | apply (keep_setPageEntry _ _ _ _ _).after
    | apply (keep_removeRef _ _).after | split | dsimp only
    | (apply Keep.lit; on_goal 2 => (constructor <;> first | exact .inr rfl | exact .inl rfl | exact .of rfl rfl rfl rfl rfl rfl rfl))
  all_goals rfl

theorem keep_chooseEntry (s : State) : Keep 2 s (chooseEntry s).2 := by
  unfold chooseEntry
  with_reducible repeat' first
    | (intro) | apply Keep.refl | assumption | apply (keep_chooseFree _ _ _ _).after | dsimp only
  all_goals rfl

theorem keep_protectRange (s : State) (a1 a2 : Nat) (a3 : Bool) : Keep 128 s (protectRange s a1 a2 a3) := by
  unfold protectRange
  with_reducible repeat' first
    | apply Keep.refl | assumption | apply (keep_protect _ _ _ _).after
  all_goals rfl

theorem keep_publishEntry (s : State) (a1 : Nat) (a2 : OdtEntry) (a3 : List Byte) : Keep 128 s (publishEntry s a1 a2 a3) := by
  unfold publishEntry
  try dsimp only
  with_reducible repeat' first
    | apply Keep.refl | assumption | apply (keep_protectRange _ _ _ _).after
    | apply (keep_setOdt _ _ _).after | split | dsimp only
    | (apply Keep.lit; on_goal 2 => (constructor <;> first | exact .inr rfl | exact .inl rfl | exact .of rfl rfl rfl rfl rfl rfl rfl))
  all_goals rfl

theorem keep_tierWrite (s : State) (a1 a2 : Nat) (a3 : List Byte) : Keep 4259976 s (tierWrite s a1 a2 a3) := by
  unfold tierWrite
  with_reducible repeat' first
    | apply Keep.refl | assumption | apply (keep_memWrite _ _ _).after
    | apply (keep_emit _ _).after | split | dsimp only
    | (apply Keep.lit; on_goal 2 => (constructor <;> first | exact .inr rfl | exact .inl rfl | exact .of rfl rfl rfl rfl rfl rfl rfl))
  all_goals rfl

theorem keep_createObject (s : State) (a1 a2 a3 a4 a5 : Nat) (a6 : List Byte) :
    Keep 4259978 s (createObject s a1 a2 a3 a4 a5 a6).2 := by
  unfold createObject
  try dsimp only
  with_reducible repeat' first
    | apply Keep.refl | assumption | apply (keep_tierWrite _ _ _ _).after
    | apply (keep_publishEntry _ _ _ _).after | apply (keep_chooseEntry _).after | split | dsimp only
    | (apply Keep.lit; on_goal 2 => (constructor <;> first | exact .inr rfl | exact .inl rfl | exact .of rfl rfl rfl rfl rfl rfl rfl))
  all_goals rfl

theorem keep_trimUnits (s : State) (a1 : Nat) : Keep 2176 s (trimUnits s a1) := by
  unfold trimUnits
  try dsimp only
  with_reducible repeat' first
    | (intro) | apply Keep.refl | assumption | apply (keep_retireUnits _ _).after
    | apply (keep_setManifest _ _ _).after | split | dsimp only
    | (apply Keep.lit; on_goal 2 => (constructor <;> first | exact .inr rfl | exact .inl rfl | exact .of rfl rfl rfl rfl rfl rfl rfl))
  all_goals rfl

theorem keep_parkEntry (s : State) (i tier origin : Nat) (t : State) (h : parkEntry s i tier origin = some t) : Keep 4262030 s t := by
  unfold parkEntry at h
  split at h
  · cases h
  · next d _ =>
    have h1 : Keep 4262030 s (freezeTail s d i) := (keep_freezeTail _ _ _).mono rfl
    generalize freezeTail s d i = s1 at h h1
    dsimp only at h
    have h2 : Keep 4262030 s1 (chooseRun s1 tier (swapArea s1 tier).1 (swapArea s1 tier).2
      (granuleCount (parkedBytes s1 i d origin).length)).2 := (keep_chooseRun _ _ _ _ _).mono rfl
    generalize chooseRun s1 tier (swapArea s1 tier).1 (swapArea s1 tier).2
      (granuleCount (parkedBytes s1 i d origin).length) = r at h h2
    obtain ⟨a, s2⟩ := r
    cases a with
    | none => cases h
    | some a =>
      dsimp only at h h2
      have h3 : Keep 4262030 s2 (createObject s2 tier (entryOf s i).tenant.val 5 4 a (parkedBytes s1 i d origin)).2 :=
        (keep_createObject _ _ _ _ _ _ _).mono rfl
      generalize createObject s2 tier (entryOf s i).tenant.val 5 4 a (parkedBytes s1 i d origin) = o at h h3
      obtain ⟨hd, s3⟩ := o
      cases hd with
      | none => cases h
      | some hd =>
        dsimp only at h h3
        injection h with h
        have k2 : Keep 4262030 s3 ((parkablePages s1 i).foldl (fun t p => clearPage t i (p.1 / 16384) (p.1 % 16384)) s3) :=
          Keep.foldl (Keep.refl _ _) (fun u p => (keep_clearPage _ _ _ _).mono rfl)
        generalize (parkablePages s1 i).foldl (fun t p => clearPage t i (p.1 / 16384) (p.1 % 16384)) s3 = s4 at h k2
        subst h
        exact Keep.comp (Keep.comp (Keep.comp (Keep.comp (((h1.trans h2).trans h3).trans k2) (keep_trimUnits _ _) rfl)
          (keep_setManifest _ _ _) rfl) (keep_modEntry _ _ _) rfl) (keep_satF _ _) rfl

theorem keep_setHeld (s : State) (a1 : Nat) (a2 : List HeldCommand) : Keep 2048 s (setHeld s a1 a2) := by
  unfold setHeld
  try dsimp only
  with_reducible repeat' first
    | (intro) | apply Keep.refl | assumption | apply (keep_modEntry _ _ _).after | split
    | dsimp only
    | (apply Keep.lit; on_goal 2 => (constructor <;> first | exact .inr rfl | exact .inl rfl | exact .of rfl rfl rfl rfl rfl rfl rfl))
  all_goals rfl

theorem keep_applyPark (s : State) (a1 : Nat) (a2 : HeldCommand) : Keep 4943054 s (applyPark s a1 a2) := by
  unfold applyPark
  try dsimp only
  with_reducible repeat' first
    | apply Keep.refl | assumption | apply (keep_setHeld _ _ _).after
    | apply (keep_parkEntry _ _ _ _ _ ‹parkEntry _ _ _ _ = some _›).after | apply (keep_setInput _ _ _).after
    | apply (keep_seizeEntry _ _).after | apply (keep_answer _ _ _ _).after | apply (keep_sendLog _ _).after | split
    | dsimp only
    | (apply Keep.lit; on_goal 2 => (constructor <;> first | exact .inr rfl | exact .inl rfl | exact .of rfl rfl rfl rfl rfl rfl rfl))
  all_goals rfl

theorem keep_applyQuery (s : State) (a1 : Nat) (a2 : HeldCommand) : Keep 4876358 s (applyQuery s a1 a2) := by
  unfold applyQuery
  try dsimp only
  with_reducible repeat' first
    | apply Keep.refl | assumption | apply (keep_arbitrate _ _).after
    | apply (keep_answer _ _ _ _).after | apply (keep_emit _ _).after | dsimp only
    | (apply Keep.lit; on_goal 2 => (constructor <;> first | exact .inr rfl | exact .inl rfl | exact .of rfl rfl rfl rfl rfl rfl rfl))
  all_goals rfl

theorem keep_logCut (s : State) (a1 a2 : Nat) : Keep 2048 s (logCut s a1 a2) := by
  unfold logCut
  try dsimp only
  with_reducible repeat' first
    | apply Keep.refl | assumption | split | dsimp only
    | (apply Keep.lit; on_goal 2 => (constructor <;> first | exact .inr rfl | exact .inl rfl | exact .of rfl rfl rfl rfl rfl rfl rfl))
  all_goals rfl

theorem keep_setTrack (s : State) (a1 : Nat) (a2 : Option PrefixTrack) : Keep 2048 s (setTrack s a1 a2) := by
  unfold setTrack
  with_reducible repeat' first
    | apply Keep.refl | assumption | dsimp only
    | (apply Keep.lit; on_goal 2 => (constructor <;> first | exact .inr rfl | exact .inl rfl | exact .of rfl rfl rfl rfl rfl rfl rfl))
  all_goals rfl

theorem keep_setInside (s : State) (a1 a2 : Nat) (a3 : PageState) : Keep 128 s (setInside s a1 a2 a3) := by
  unfold setInside
  with_reducible repeat' first
    | apply Keep.refl | assumption | dsimp only
    | (apply Keep.lit; on_goal 2 => (constructor <;> first | exact .inr rfl | exact .inl rfl | exact .of rfl rfl rfl rfl rfl rfl rfl))
  all_goals rfl

theorem keep_allocPage (s : State) (a1 : Composition) (a2 : ModelDescriptor) (a3 a4 : Nat) :
    Keep 65674 s (allocPage s a1 a2 a3 a4).2 := by
  unfold allocPage
  try dsimp only
  with_reducible repeat' first
    | apply Keep.refl | assumption | apply (keep_setInside _ _ _ _).after
    | apply (keep_memWrite _ _ _).after | apply (keep_pick _ _).after | apply (keep_setPage _ _ _).after | split | dsimp only
    | (apply Keep.lit; on_goal 2 => (constructor <;> first | exact .inr rfl | exact .inl rfl | exact .of rfl rfl rfl rfl rfl rfl rfl))
  all_goals rfl

theorem keep_copyRows (s : State) (a1 : ModelDescriptor) (a2 a3 a4 : Nat) : Keep 65544 s (copyRows s a1 a2 a3 a4) := by
  unfold copyRows
  with_reducible repeat' first
    | (intro) | apply Keep.refl | assumption | apply (keep_memWrite _ _ _).after
    | apply Keep.foldl | dsimp only
  all_goals rfl

theorem keep_allocUnit (s : State) : Keep 130 s (allocUnit s).2 := by
  unfold allocUnit
  try dsimp only
  with_reducible repeat' first
    | (intro) | apply Keep.refl | assumption | apply (keep_chooseFree _ _ _ _).after | split
    | dsimp only
    | (apply Keep.lit; on_goal 2 => (constructor <;> first | exact .inr rfl | exact .inl rfl | exact .of rfl rfl rfl rfl rfl rfl rfl))
  all_goals rfl

theorem keep_needUnit (s : State) (a1 a2 a3 : Nat) : Keep 2178 s (needUnit s a1 a2 a3).2 := by
  unfold needUnit
  try dsimp only
  with_reducible repeat' first
    | apply Keep.refl | assumption | apply (keep_allocUnit _).after
    | apply (keep_setManifest _ _ _).after | split | dsimp only
    | (apply Keep.lit; on_goal 2 => (constructor <;> first | exact .inr rfl | exact .inl rfl | exact .of rfl rfl rfl rfl rfl rfl rfl))
  all_goals rfl

theorem keep_copyOnWrite (s : State) (x : Composition) (d : ModelDescriptor) (i l p k : Nat) (src : Option Nat) :
    Keep 67726 s (copyOnWrite s x d i l p k src).2 := by
  unfold copyOnWrite
  extract_lets u st a
  have h1 : Keep 67726 s u.2 := (keep_needUnit _ _ _ _).mono rfl
  clear_value u
  split
  · exact h1
  · split
    · exact h1
    · split
      · cases src with
        | none => exact h1
        | some o => exact h1.comp (keep_inconsistent _ _) rfl
      · have h2 : Keep 67726 u.2 a.2 := (keep_allocPage _ _ _ _ _).mono rfl
        clear_value a
        have h := h1.trans h2
        clear h1 h2
        split
        · exact h
        · next g _ =>
          extract_lets s1 q s2
          have h3 : Keep 67726 a.2 s1 := by
            unfold s1
            cases src with
            | none => exact Keep.refl _ _
            | some o => exact (keep_copyRows _ _ _ _ _).mono rfl
          have h4 : Keep 67726 s1 s2 := by
            clear h3
            clear_value s1
            exact Keep.comp ((keep_setPage _ _ _).mono rfl) (keep_setPageEntry _ _ _ _ _) rfl
          have h5 := (h.trans h3).trans h4
          clear h h3 h4
          clear_value s2
          cases src with
          | none => exact h5
          | some o => exact h5.comp (keep_removeRef _ _) rfl

theorem keep_truncateLayer (s : State) (a1 : Composition) (a2 : ModelDescriptor) (a3 a4 a5 : Nat) :
    Keep 67726 s (truncateLayer s a1 a2 a3 a4 a5) := by
  unfold truncateLayer
  try dsimp only
  with_reducible repeat' first
    | (intro) | apply Keep.refl | assumption | apply (keep_copyOnWrite _ _ _ _ _ _ _ _).after
    | apply (keep_clearPage _ _ _ _).after | apply (keep_setPage _ _ _).after | apply Keep.foldl2 | apply Keep.foldl | split
    | dsimp only
    | (apply Keep.lit; on_goal 2 => (constructor <;> first | exact .inr rfl | exact .inl rfl | exact .of rfl rfl rfl rfl rfl rfl rfl))
  all_goals rfl

theorem keep_truncatePages (s : State) (a1 a2 : Nat) : Keep 67726 s (truncatePages s a1 a2) := by
  unfold truncatePages
  with_reducible repeat' first
    | (intro) | apply Keep.refl | assumption | apply (keep_truncateLayer _ _ _ _ _ _).after
    | apply Keep.foldl2 | apply Keep.foldl | split | dsimp only
  all_goals rfl

theorem keep_writeHistory (s : State) (a1 a2 : Nat) (a3 : List LogEntry) : Keep 2048 s (writeHistory s a1 a2 a3) := by
  unfold writeHistory
  with_reducible repeat' first
    | apply Keep.refl | assumption | apply (keep_setManifest _ _ _).after | split | dsimp only
    | (apply Keep.lit; on_goal 2 => (constructor <;> first | exact .inr rfl | exact .inl rfl | exact .of rfl rfl rfl rfl rfl rfl rfl))
  all_goals rfl

theorem keep_takeTruncate (s : State) (a1 a2 : Nat) : Keep 4943054 s (takeTruncate s a1 a2) := by
  unfold takeTruncate
  try dsimp only
  with_reducible repeat' first
    | (intro) | apply Keep.refl | assumption | apply (keep_writeHistory _ _ _ _).after
    | apply (keep_truncatePages _ _ _).after | apply (keep_setTrack _ _ _).after | apply (keep_logCut _ _ _).after
    | apply (keep_discardRoot _ _ _).after | apply (keep_seizeEntry _ _).after | apply (keep_sendLog _ _).after
    | apply (keep_modEntry _ _ _).after | split | dsimp only
    | (apply Keep.lit; on_goal 2 => (constructor <;> first | exact .inr rfl | exact .inl rfl | exact .of rfl rfl rfl rfl rfl rfl rfl))
  all_goals rfl

theorem keep_applyTruncate (s : State) (a1 : Nat) (a2 : HeldCommand) : Keep 4943054 s (applyTruncate s a1 a2) := by
  unfold applyTruncate
  with_reducible repeat' first
    | apply Keep.refl | assumption | apply (keep_takeTruncate _ _ _).after
    | apply (keep_reject _ _ _ _).after | apply (keep_answer _ _ _ _).after | split
  all_goals rfl

theorem keep_hold (s : State) (a1 : Nat) (a2 : HeldCommand) : Keep 4877382 s (hold s a1 a2) := by
  unfold hold
  with_reducible repeat' first
    | apply Keep.refl | assumption | apply (keep_setHeld _ _ _).after
    | apply (keep_reject _ _ _ _).after | split
  all_goals rfl

theorem keep_setAdmission (s : State) (a1 : Nat) (a2 : Option Admission) : Keep 2048 s (setAdmission s a1 a2) := by
  unfold setAdmission
  with_reducible repeat' first
    | apply Keep.refl | assumption | dsimp only
    | (apply Keep.lit; on_goal 2 => (constructor <;> first | exact .inr rfl | exact .inl rfl | exact .of rfl rfl rfl rfl rfl rfl rfl))
  all_goals rfl

theorem keep_endCancelled (s : State) (a1 : Nat) (a2 : Admission) (a3 : Nat) : Keep 4876358 s (endCancelled s a1 a2 a3) := by
  unfold endCancelled
  try dsimp only
  with_reducible repeat' first
    | apply Keep.refl | assumption | apply (keep_setAdmission _ _ _).after
    | apply (keep_complete _ _ _ _ _ _ _ _ _).after | dsimp only
  all_goals rfl

theorem keep_takeCancel (s : State) (i : Nat) : Keep 11396 s (takeCancel s i) := by
  unfold takeCancel
  extract_lets s1 s2
  have h1 : Keep 11396 s s1 :=
    ((((keep_seizeEntry s i).mono rfl).comp (keep_endTransfers _ i) rfl).comp (keep_dropParked _ i) rfl).comp (keep_dropPages _ i) rfl
  have h2 : Keep 11396 s1 s2 := Keep.comp ((keep_modEntry _ _ _).mono rfl) (keep_setInput _ _ _) rfl
  refine (h1.trans h2).trans ?_
  clear h1 h2
  clear_value s2
  constructor <;> first | exact .inr rfl | exact .inl rfl | exact .of rfl rfl rfl rfl rfl rfl rfl

theorem keep_cancelAdmission (s : State) (i : Nat) (a : Admission) (h : HeldCommand) :
    Keep 4877510 s (cancelAdmission s i a h) := by
  unfold cancelAdmission
  dsimp only
  have h1 : Keep 4877510 s (takeCancel s i) := (keep_takeCancel s i).mono rfl
  split
  · exact h1.comp (keep_endCancelled _ _ _ _) rfl
  · exact h1.comp (keep_setAdmission _ _ _) rfl

theorem keep_endRestore (s : State) (a1 a2 : Nat) : Keep 4876358 s (endRestore s a1 a2) := by
  unfold endRestore
  try dsimp only
  with_reducible repeat' first
    | (intro) | apply Keep.refl | assumption | apply (keep_complete _ _ _ _ _ _ _ _ _).after
    | apply Keep.foldl | dsimp only
    | (apply Keep.lit; on_goal 2 => (constructor <;> first | exact .inr rfl | exact .inl rfl | exact .of rfl rfl rfl rfl rfl rfl rfl))
  all_goals rfl

theorem keep_runCancel (s : State) (a1 : Nat) (a2 : HeldCommand) : Keep 4877510 s (runCancel s a1 a2) := by
  unfold runCancel
  with_reducible repeat' first
    | apply Keep.refl | assumption | apply (keep_endRestore _ _ _).after
    | apply (keep_cancelAdmission _ _ _ _).after | apply (keep_takeCancel _ _).after | apply (keep_hold _ _ _).after
    | apply (keep_reject _ _ _ _).after | apply (keep_answer _ _ _ _).after | split
  all_goals rfl

theorem keep_beginRestore (s : State) (a1 : Nat) (a2 : Option Nat) : Keep 2048 s (beginRestore s a1 a2) := by
  unfold beginRestore
  try dsimp only
  with_reducible repeat' first
    | apply Keep.refl | assumption | split | dsimp only
    | (apply Keep.lit; on_goal 2 => (constructor <;> first | exact .inr rfl | exact .inl rfl | exact .of rfl rfl rfl rfl rfl rfl rfl))
  all_goals rfl

theorem keep_runEdit {w : Nat} (s : State) (i : Nat) (h : HeldCommand) (apply : State → Nat → HeldCommand → State)
    (hw : 4877382 &&& w = 4877382) (he : ∀ u, Keep w u (apply u i h)) : Keep w s (runEdit s i h apply) := by
  have a : ∀ k, Keep w s (reject s i h k) := fun k => (keep_reject s i h k).mono (Keep.landTrans rfl hw)
  have b : Keep w s (hold s i h) := (keep_hold s i h).mono (Keep.landTrans rfl hw)
  have c : Keep w s (beginRestore (setHeld s i (heldOf s i ++ [h])) i none) :=
    Keep.mono (v := 4877382) (Keep.comp (Keep.mono (keep_setHeld s i _) rfl) (keep_beginRestore _ i none) rfl) hw
  unfold runEdit
  repeat' first | exact a _ | exact b | exact c | exact he s | split

theorem keep_sendClose (s : State) (a1 : Nat) : Keep 4876358 s (sendClose s a1) := by
  unfold sendClose
  with_reducible repeat' first
    | apply Keep.refl | assumption | apply (keep_sendRst _ _).after
  all_goals rfl

theorem keep_applyRelease (s : State) (a1 : Nat) (a2 : HeldCommand) : Keep 4877510 s (applyRelease s a1 a2) := by
  unfold applyRelease
  try dsimp only
  with_reducible repeat' first
    | apply Keep.refl | assumption | apply (keep_sendClose _ _).after
    | apply (keep_sendLog _ _).after | apply (keep_complete _ _ _ _ _ _ _ _ _).after | apply (keep_freeEntry _ _).after | split
    | dsimp only
  all_goals rfl

theorem keep_runRelease (s : State) (a1 : Nat) (a2 : HeldCommand) : Keep 4877510 s (runRelease s a1 a2) := by
  unfold runRelease
  with_reducible repeat' first
    | apply Keep.refl | assumption | apply (keep_applyRelease _ _ _).after
    | apply (keep_reject _ _ _ _).after | split
  all_goals rfl

theorem keep_applyResume (s : State) (a1 : Nat) (a2 : HeldCommand) : Keep 2048 s (applyResume s a1 a2) := by
  unfold applyResume
  try dsimp only
  with_reducible repeat' first
    | (intro) | apply Keep.refl | assumption | apply (keep_beginRestore _ _ _).after
    | apply (keep_arbitrate _ _).after | apply (keep_modEntry _ _ _).after | split | dsimp only
    | (apply Keep.lit; on_goal 2 => (constructor <;> first | exact .inr rfl | exact .inl rfl | exact .of rfl rfl rfl rfl rfl rfl rfl))
  all_goals rfl

theorem keep_runResume (s : State) (a1 : Nat) (a2 : HeldCommand) : Keep 4877382 s (runResume s a1 a2) := by
  unfold runResume
  with_reducible repeat' first
    | apply Keep.refl | assumption | apply (keep_applyResume _ _ _).after
    | apply (keep_reject _ _ _ _).after | split
  all_goals rfl

theorem keep_runCommand (s : State) (a1 : Nat) (a2 : HeldCommand) : Keep 4943054 s (runCommand s a1 a2) := by
  unfold runCommand
  try dsimp only
  with_reducible repeat' first
    | (intro) | apply Keep.refl | assumption | apply (keep_runResume _ _ _).after
    | apply (keep_runRelease _ _ _).after | apply (keep_runEdit _ _ _ _ ?_ ?_).next | apply (keep_runCancel _ _ _).after
    | apply (keep_hold _ _ _).after | apply (keep_applyTruncate _ _ _).after | apply (keep_applyQuery _ _ _).after
    | apply (keep_applyPark _ _ _).after | apply (keep_applyAppend _ _ _).after | apply (keep_reject _ _ _ _).after
    | apply Keep.foldl2 | apply Keep.foldl | split | dsimp only
    | (apply Keep.lit; on_goal 2 => (constructor <;> first | exact .inr rfl | exact .inl rfl | exact .of rfl rfl rfl rfl rfl rfl rfl))
  all_goals rfl

theorem keep_runHeld (s : State) (a1 a2 a3 : Nat) (a4 : HeldCommand) : Keep 4943054 s (runHeld s a1 a2 a3 a4) := by
  unfold runHeld
  with_reducible repeat' first
    | apply Keep.refl | assumption | apply (keep_runCommand _ _ _).after
    | apply (keep_answerBare _ _ _ _).after | split
  all_goals rfl

theorem keep_heldPass (s : State) (a1 : Nat) : Keep 4943054 s (heldPass s a1) := by
  unfold heldPass
  try dsimp only
  with_reducible repeat' first
    | (intro) | apply Keep.refl | assumption | apply (keep_runHeld _ _ _ _ _).after
    | apply (keep_setHeld _ _ _).after | apply Keep.foldl | dsimp only
  all_goals rfl

theorem keep_applyHeld (s : State) (a1 : Nat) : Keep 4943054 s (applyHeld s a1) := by
  unfold applyHeld
  try dsimp only
  with_reducible repeat' first
    | apply Keep.refl | assumption | apply (keep_heldPass _ _).after | split | dsimp only
  all_goals rfl

theorem keep_endAdmission (s : State) (a1 : Nat) : Keep 4943054 s (endAdmission s a1) := by
  unfold endAdmission
  try dsimp only
  with_reducible repeat' first
    | (intro) | apply Keep.refl | assumption | apply (keep_applyHeld _ _).after
    | apply (keep_sendClose _ _).after | apply (keep_endCancelled _ _ _ _).after | apply (keep_setAdmission _ _ _).after
    | apply (keep_modEntry _ _ _).after | apply (keep_complete _ _ _ _ _ _ _ _ _).after | apply (keep_dropPages _ _).after
    | split | dsimp only
    | (apply Keep.lit; on_goal 2 => (constructor <;> first | exact .inr rfl | exact .inl rfl | exact .of rfl rfl rfl rfl rfl rfl rfl))
  all_goals rfl

theorem keep_notice (s : State) (a1 a2 : Nat) (a3 : PartAddr) : Keep 4876358 s (notice s a1 a2 a3) := by
  unfold notice
  try dsimp only
  with_reducible repeat' first
    | apply Keep.refl | assumption | apply (keep_takeMiss _ _).after
    | apply (keep_giveRecord _ _ _).after | split | dsimp only
    | (apply Keep.lit; on_goal 2 => (constructor <;> first | exact .inr rfl | exact .inl rfl | exact .of rfl rfl rfl rfl rfl rfl rfl))
  all_goals rfl

theorem keep_failEntry (s : State) (a1 a2 : Nat) : Keep 4877510 s (failEntry s a1 a2) := by
  unfold failEntry
  try dsimp only
  with_reducible repeat' first
    | (intro) | apply Keep.refl | assumption | apply (keep_notice _ _ _ _).after
    | apply (keep_setInput _ _ _).after | apply (keep_seizeEntry _ _).after | apply (keep_modEntry _ _ _).after
    | apply (keep_endTransfers _ _).after | apply (keep_dropParked _ _).after | apply (keep_endWait _ _).after | dsimp only
    | (apply Keep.lit; on_goal 2 => (constructor <;> first | exact .inr rfl | exact .inl rfl | exact .of rfl rfl rfl rfl rfl rfl rfl))
  all_goals rfl

theorem keep_failLive (s : State) (a1 : Nat) : Keep 4943054 s (failLive s a1) := by
  unfold failLive
  with_reducible repeat' first
    | apply Keep.refl | assumption | apply (keep_failEntry _ _ _).after
    | apply (keep_endAdmission _ _).after | apply (keep_applyHeld _ _).after | apply (keep_endRestore _ _ _).after
  all_goals rfl

theorem keep_failBroken (s : State) : Keep 4943054 s (failBroken s) := by
  unfold failBroken
  with_reducible repeat' first
    | (intro) | apply Keep.refl | assumption | apply (keep_failLive _ _).after | apply Keep.foldl
    | split
  all_goals rfl

theorem keep_actPages {w : Nat} (s : State) (taken : Bool) (effect : State → State) (hw : 4943054 &&& w = 4943054)
    (he : ∀ u, Keep w u (effect u)) : KeepO w s (actPages s taken effect) :=
  keep_act s taken _ (Keep.landTrans rfl hw) (fun u => (he u).trans ((keep_failBroken _).mono hw))

theorem keep_setTwin (s : State) (a1 : TwinState) (a2 : TwinRole) (a3 : Nat) : Keep 6815812 s (setTwin s a1 a2 a3) := by
  unfold setTwin
  try dsimp only
  with_reducible repeat' first
    | apply Keep.refl | assumption | apply (keep_sendFeed _ _).after
    | apply (keep_notify _ _ _).after | apply (keep_putF _ _ _).after | split | dsimp only
    | (apply Keep.lit; on_goal 2 => (constructor <;> first | exact .inr rfl | exact .inl rfl | exact .of rfl rfl rfl rfl rfl rfl rfl))
  all_goals rfl

theorem keep_activeAlone (s : State) (a1 : Nat) : Keep 6815812 s (activeAlone s a1) := by
  unfold activeAlone
  with_reducible repeat' first
    | apply Keep.refl | assumption | apply (keep_setTwin _ _ _ _).after | dsimp only
    | (apply Keep.lit; on_goal 2 => (constructor <;> first | exact .inr rfl | exact .inl rfl | exact .of rfl rfl rfl rfl rfl rfl rfl))
  all_goals rfl

theorem keep_addRef (s : State) (a1 : Nat) : Keep 128 s (addRef s a1) := by
  unfold addRef
  with_reducible repeat' first
    | apply Keep.refl | assumption | apply (keep_setPage _ _ _).after | dsimp only
    | (apply Keep.lit; on_goal 2 => (constructor <;> first | exact .inr rfl | exact .inl rfl | exact .of rfl rfl rfl rfl rfl rfl rfl))
  all_goals rfl

theorem keep_setLedgerUnits (s : State) (a1 : Nat) (a2 : LedgerUnits) : Keep 8192 s (setLedgerUnits s a1 a2) := by
  unfold setLedgerUnits
  with_reducible repeat' first
    | apply Keep.refl | assumption | dsimp only
    | (apply Keep.lit; on_goal 2 => (constructor <;> first | exact .inr rfl | exact .inl rfl | exact .of rfl rfl rfl rfl rfl rfl rfl))
  all_goals rfl

theorem keep_addUnit (s : State) (a1 : Nat) (a2 : LedgerUnits → Nat → LedgerUnits) : Keep 8322 s (addUnit s a1 a2).2 := by
  unfold addUnit
  try dsimp only
  with_reducible repeat' first
    | apply Keep.refl | assumption | apply (keep_setLedgerUnits _ _ _).after
    | apply (keep_allocUnit _).after | split | dsimp only
  all_goals rfl

theorem keep_setRec (s : State) (a1 : Nat) (a2 : BlockRec) : Keep 4096 s (setRec s a1 a2) := by
  unfold setRec
  with_reducible repeat' first
    | apply Keep.refl | assumption | dsimp only
    | (apply Keep.lit; on_goal 2 => (constructor <;> first | exact .inr rfl | exact .inl rfl | exact .of rfl rfl rfl rfl rfl rfl rfl))
  all_goals rfl

theorem keep_linkChild (s : State) (a1 a2 : Nat) : Keep 4096 s (linkChild s a1 a2) := by
  unfold linkChild
  try dsimp only
  with_reducible repeat' first
    | apply Keep.refl | assumption | apply (keep_setRec _ _ _).after | dsimp only
    | (apply Keep.lit; on_goal 2 => (constructor <;> first | exact .inr rfl | exact .inl rfl | exact .of rfl rfl rfl rfl rfl rfl rfl))
  all_goals rfl

theorem keep_adoptChildren (s : State) (a1 a2 : Nat) : Keep 4096 s (adoptChildren s a1 a2) := by
  unfold adoptChildren
  try dsimp only
  with_reducible repeat' first
    | (intro) | apply Keep.refl | assumption | apply (keep_linkChild _ _ _).after
    | apply (keep_setRec _ _ _).after | apply Keep.foldl | dsimp only
    | (apply Keep.lit; on_goal 2 => (constructor <;> first | exact .inr rfl | exact .inl rfl | exact .of rfl rfl rfl rfl rfl rfl rfl))
  all_goals rfl

theorem keep_setPointer (s : State) (a1 a2 : Nat) : Keep 1024 s (setPointer s a1 a2) := by
  unfold setPointer
  with_reducible repeat' first
    | (intro) | apply Keep.refl | assumption | apply (keep_setComp _ _ _).after | dsimp only
    | (apply Keep.lit; on_goal 2 => (constructor <;> first | exact .inr rfl | exact .inl rfl | exact .of rfl rfl rfl rfl rfl rfl rfl))
  all_goals rfl

theorem keep_advancePointer (s : State) (a1 a2 : Nat) : Keep 1024 s (advancePointer s a1 a2) := by
  unfold advancePointer
  with_reducible repeat' first
    | (intro) | apply Keep.refl | assumption | apply (keep_setPointer _ _ _).after | dsimp only
  all_goals rfl

theorem keep_advanceRound (s : State) (a1 a2 : Nat) : Keep 131072 s (advanceRound s a1 a2) := by
  unfold advanceRound
  with_reducible repeat' first
    | apply Keep.refl | assumption | split | dsimp only
    | (apply Keep.lit; on_goal 2 => (constructor <;> first | exact .inr rfl | exact .inl rfl | exact .of rfl rfl rfl rfl rfl rfl rfl))
  all_goals rfl

theorem keep_advertise (s : State) (a1 : PartAddr) : Keep 4194304 s (advertise s a1) := by
  unfold advertise
  with_reducible repeat' first
    | (intro) | apply Keep.refl | assumption | apply (keep_emit _ _).after | apply Keep.foldl
    | split | dsimp only
  all_goals rfl

theorem keep_afterPositions (s : State) (a1 : Nat) : Keep 4876486 s (afterPositions s a1) := by
  unfold afterPositions
  with_reducible repeat' first
    | apply Keep.refl | assumption | apply (keep_sendLog _ _).after
    | apply (keep_publishNext _ _).after | split
  all_goals rfl

theorem keep_endRecompute (s : State) (a1 : Nat) : Keep 4943054 s (endRecompute s a1) := by
  unfold endRecompute
  with_reducible repeat' first
    | (intro) | apply Keep.refl | assumption | apply (keep_applyHeld _ _).after
    | apply (keep_setInput _ _ _).after | apply (keep_modEntry _ _ _).after | dsimp only
    | (apply Keep.lit; on_goal 2 => (constructor <;> first | exact .inr rfl | exact .inl rfl | exact .of rfl rfl rfl rfl rfl rfl rfl))
  all_goals rfl

theorem keep_resyncDone (s : State) (a1 : Nat) : Keep 4943054 s (resyncDone s a1) := by
  unfold resyncDone
  try dsimp only
  with_reducible repeat' first
    | (intro) | apply Keep.refl | assumption | apply (keep_notice _ _ _ _).after
    | apply (keep_applyHeld _ _).after | apply (keep_setInput _ _ _).after | apply (keep_discardRoot _ _ _).after
    | apply (keep_seizeEntry _ _).after | apply (keep_modEntry _ _ _).after | apply (keep_endTransfers _ _).after | dsimp only
    | (apply Keep.lit; on_goal 2 => (constructor <;> first | exact .inr rfl | exact .inl rfl | exact .of rfl rfl rfl rfl rfl rfl rfl))
  all_goals rfl

theorem keep_afterRecompute (s : State) (a1 : Nat) : Keep 4943054 s (afterRecompute s a1) := by
  unfold afterRecompute
  with_reducible repeat' first
    | apply Keep.refl | assumption | apply (keep_resyncDone _ _).after
    | apply (keep_endRecompute _ _).after | apply (keep_applyHeld _ _).after | apply (keep_wantOffer _ _).after
    | apply (keep_setInput _ _ _).after | apply (keep_enterHandoffOut _ _).after | split
  all_goals rfl

theorem keep_finishRequest (s : State) (a1 : Nat) : Keep 4943054 s (finishRequest s a1) := by
  unfold finishRequest
  try dsimp only
  with_reducible repeat' first
    | (intro) | apply Keep.refl | assumption | apply (keep_notice _ _ _ _).after
    | apply (keep_applyHeld _ _).after | apply (keep_setInput _ _ _).after | apply (keep_sendLog _ _).after
    | apply (keep_modEntry _ _ _).after | dsimp only
    | (apply Keep.lit; on_goal 2 => (constructor <;> first | exact .inr rfl | exact .inl rfl | exact .of rfl rfl rfl rfl rfl rfl rfl))
  all_goals rfl

theorem keep_afterTokens (s : State) (a1 : Nat) (a2 : Bool) : Keep 4943054 s (afterTokens s a1 a2) := by
  unfold afterTokens
  try dsimp only
  with_reducible repeat' first
    | (intro) | apply Keep.refl | assumption | apply (keep_finishRequest _ _).after
    | apply (keep_applyHeld _ _).after | apply (keep_wantOffer _ _).after | apply (keep_setInput _ _ _).after
    | apply (keep_enterHandoffOut _ _).after | apply (keep_modEntry _ _ _).after | split | dsimp only
    | (apply Keep.lit; on_goal 2 => (constructor <;> first | exact .inr rfl | exact .inl rfl | exact .of rfl rfl rfl rfl rfl rfl rfl))
  all_goals rfl

theorem keep_setHomeLine (s : State) (a1 : Nat) (a2 : HomeLine) : Keep 65536 s (setHomeLine s a1 a2) := by
  unfold setHomeLine
  with_reducible repeat' first
    | apply Keep.refl | assumption | dsimp only
    | (apply Keep.lit; on_goal 2 => (constructor <;> first | exact .inr rfl | exact .inl rfl | exact .of rfl rfl rfl rfl rfl rfl rfl))
  all_goals rfl

theorem keep_setCacheLine (s : State) (a1 a2 : Nat) (a3 : CacheLine) : Keep 65536 s (setCacheLine s a1 a2 a3) := by
  unfold setCacheLine
  with_reducible repeat' first
    | apply Keep.refl | assumption | dsimp only
    | (apply Keep.lit; on_goal 2 => (constructor <;> first | exact .inr rfl | exact .inl rfl | exact .of rfl rfl rfl rfl rfl rfl rfl))
  all_goals rfl

theorem keep_leaveLine (s : State) (a1 a2 : Nat) : Keep 65536 s (leaveLine s a1 a2) := by
  unfold leaveLine
  with_reducible repeat' first
    | apply Keep.refl | assumption | apply (keep_setCacheLine _ _ _ _).after | split | dsimp only
    | (apply Keep.lit; on_goal 2 => (constructor <;> first | exact .inr rfl | exact .inl rfl | exact .of rfl rfl rfl rfl rfl rfl rfl))
  all_goals rfl

theorem keep_storeLine (s : State) (l : Nat) (bs : List Byte) : Keep 8 s (storeLine s l bs) := by
  have h : Lasts s (storeLine s l bs) :=
    ⟨fun h => tabWf_putRun _ _ _ _ h, fun _ _ h => h, id, Nat.le_refl _, id, id⟩
  constructor <;> first | exact .inr rfl | exact .inl rfl | exact h

theorem keep_writeBack (s : State) (a1 a2 : Nat) : Keep 65544 s (writeBack s a1 a2) := by
  unfold writeBack
  try dsimp only
  with_reducible repeat' first
    | apply Keep.refl | assumption | apply (keep_storeLine _ _ _).after
    | apply (keep_leaveLine _ _ _).after | apply (keep_setHomeLine _ _ _).after | split | dsimp only
  all_goals rfl

theorem keep_evictLine (s : State) (a1 a2 : Nat) : Keep 65544 s (evictLine s a1 a2) := by
  unfold evictLine
  with_reducible repeat' first
    | apply Keep.refl | assumption | apply (keep_writeBack _ _ _).after
    | apply (keep_leaveLine _ _ _).after | split
  all_goals rfl

theorem keep_makeRoom (s : State) (a1 a2 : Nat) : Keep 65546 s (makeRoom s a1 a2) := by
  unfold makeRoom
  try dsimp only
  with_reducible repeat' first
    | (intro) | apply Keep.refl | assumption | apply (keep_evictLine _ _ _).after
    | apply (keep_pick _ _).after | split | dsimp only
  all_goals rfl

theorem keep_tellData (s : State) (a1 a2 : Nat) (a3 : List Byte) (a4 : Bool) : Keep 4194304 s (tellData s a1 a2 a3 a4) := by
  unfold tellData
  with_reducible repeat' first
    | apply Keep.refl | assumption | apply (keep_emit _ _).after
  all_goals rfl

theorem keep_grantLine (s : State) (a1 a2 : Nat) (a3 : CacheState) (a4 : List Byte) (a5 : Option (Nat × List Byte)) :
    Keep 4259850 s (grantLine s a1 a2 a3 a4 a5) := by
  unfold grantLine
  try dsimp only
  with_reducible repeat' first
    | apply Keep.refl | assumption | apply (keep_tellData _ _ _ _ _).after
    | apply (keep_makeRoom _ _ _).after | apply (keep_setCacheLine _ _ _ _).after | split | dsimp only
    | (apply Keep.lit; on_goal 2 => (constructor <;> first | exact .inr rfl | exact .inl rfl | exact .of rfl rfl rfl rfl rfl rfl rfl))
  all_goals rfl

theorem keep_useEntry (s : State) (a1 : Nat) (a2 : HomeLine) : Keep 65536 s (useEntry s a1 a2) := by
  unfold useEntry
  try dsimp only
  with_reducible repeat' first
    | apply Keep.refl | assumption | apply (keep_setHomeLine _ _ _).after | dsimp only
    | (apply Keep.lit; on_goal 2 => (constructor <;> first | exact .inr rfl | exact .inl rfl | exact .of rfl rfl rfl rfl rfl rfl rfl))
  all_goals rfl

theorem keep_grantExclusive (s : State) (a1 a2 : Nat) (a3 : Option (Nat × List Byte)) (a4 : OwnerAnswer) :
    Keep 4259850 s (grantExclusive s a1 a2 a3 a4) := by
  unfold grantExclusive
  try dsimp only
  with_reducible repeat' first
    | apply Keep.refl | assumption | apply (keep_useEntry _ _ _).after
    | apply (keep_grantLine _ _ _ _ _ _).after | split | dsimp only
    | (apply Keep.lit; on_goal 2 => (constructor <;> first | exact .inr rfl | exact .inl rfl | exact .of rfl rfl rfl rfl rfl rfl rfl))
  all_goals rfl

theorem keep_grantShared (s : State) (a1 a2 : Nat) (a3 : OwnerAnswer) : Keep 4259850 s (grantShared s a1 a2 a3) := by
  unfold grantShared
  try dsimp only
  with_reducible repeat' first
    | apply Keep.refl | assumption | apply (keep_grantExclusive _ _ _ _ _).after
    | apply (keep_useEntry _ _ _).after | apply (keep_grantLine _ _ _ _ _ _).after | apply (keep_storeLine _ _ _).after | split
    | dsimp only
    | (apply Keep.lit; on_goal 2 => (constructor <;> first | exact .inr rfl | exact .inl rfl | exact .of rfl rfl rfl rfl rfl rfl rfl))
  all_goals rfl

theorem keep_grantStore (s : State) (a1 a2 : Nat) (a3 : Option (Nat × List Byte)) (a4 : OwnerAnswer) :
    Keep 4259850 s (grantStore s a1 a2 a3 a4) := by
  unfold grantStore
  with_reducible repeat' first
    | apply Keep.refl | assumption | apply (keep_grantExclusive _ _ _ _ _).after
    | apply (keep_emit _ _).after | split | dsimp only
  all_goals rfl

theorem keep_refuseWrite (s : State) (a1 a2 : Nat) (a3 : OwnerAnswer) : Keep 4259848 s (refuseWrite s a1 a2 a3) := by
  unfold refuseWrite
  try dsimp only
  with_reducible repeat' first
    | apply Keep.refl | assumption | apply (keep_storeLine _ _ _).after
    | apply (keep_setHomeLine _ _ _).after | apply (keep_emit _ _).after | split | dsimp only
  all_goals rfl

theorem keep_wrapF (s : State) (a1 : Field) (a2 : Nat) : Keep 4 s (wrapF s a1 a2) := by
  unfold wrapF
  with_reducible repeat' first
    | apply Keep.refl | assumption | apply (keep_putF _ _ _).after
  all_goals rfl

theorem keep_completeReq (s : State) (a1 : Nat) (a2 : CohReq) (a3 : OwnerAnswer) :
    Keep 4259854 s (completeReq s a1 a2 a3) := by
  unfold completeReq
  try dsimp only
  with_reducible repeat' first
    | apply Keep.refl | assumption | apply (keep_wrapF _ _ _).after
    | apply (keep_refuseWrite _ _ _ _).after | apply (keep_grantStore _ _ _ _ _).after | apply (keep_grantShared _ _ _ _).after
    | apply (keep_grantExclusive _ _ _ _ _).after | apply (keep_tellData _ _ _ _ _).after | apply (keep_storeLine _ _ _).after
    | apply (keep_setHomeLine _ _ _).after | split | dsimp only
    | (apply Keep.lit; on_goal 2 => (constructor <;> first | exact .inr rfl | exact .inl rfl | exact .of rfl rfl rfl rfl rfl rfl rfl))
  all_goals rfl

theorem keep_poisonedReq (s : State) (a1 : Nat) (a2 : CohReq) : Keep 4259850 s (poisonedReq s a1 a2) := by
  unfold poisonedReq
  with_reducible repeat' first
    | apply Keep.refl | assumption | apply (keep_useEntry _ _ _).after
    | apply (keep_grantLine _ _ _ _ _ _).after | apply (keep_tellData _ _ _ _ _).after | apply (keep_storeLine _ _ _).after
    | apply (keep_setHomeLine _ _ _).after | apply (keep_emit _ _).after | split | dsimp only
    | (apply Keep.lit; on_goal 2 => (constructor <;> first | exact .inr rfl | exact .inl rfl | exact .of rfl rfl rfl rfl rfl rfl rfl))
  all_goals rfl

theorem keep_resumeLines (s : State) (a1 : Nat) : Keep 65536 s (resumeLines s a1) := by
  unfold resumeLines
  try dsimp only
  with_reducible repeat' first
    | (intro) | apply Keep.refl | assumption | apply (keep_setHomeLine _ _ _).after
    | apply Keep.foldl | split | dsimp only
    | (apply Keep.lit; on_goal 2 => (constructor <;> first | exact .inr rfl | exact .inl rfl | exact .of rfl rfl rfl rfl rfl rfl rfl))
  all_goals rfl

theorem keep_beginReq (s : State) (a1 : Nat) (a2 : CohReq) : Keep 4259854 s (beginReq s a1 a2).2 := by
  unfold beginReq
  try dsimp only
  with_reducible repeat' first
    | apply Keep.refl | assumption | apply (keep_resumeLines _ _).after
    | apply (keep_poisonedReq _ _ _).after | apply (keep_completeReq _ _ _ _).after | apply (keep_setHomeLine _ _ _).after
    | split | dsimp only
    | (apply Keep.lit; on_goal 2 => (constructor <;> first | exact .inr rfl | exact .inl rfl | exact .of rfl rfl rfl rfl rfl rfl rfl))
  all_goals rfl

theorem keep_work (a0 : Nat) (a1 : List Nat) (s : State) : Keep 4259854 s (work a0 a1 s) := by
  fun_induction work a0 a1 s
  all_goals (try dsimp only)
  with_reducible repeat' first
    | apply Keep.refl | assumption | apply (keep_beginReq _ _ _).after
    | apply (keep_setHomeLine _ _ _).after | apply Keep.after (by assumption) | split | dsimp only
    | (apply Keep.lit; on_goal 2 => (constructor <;> first | exact .inr rfl | exact .inl rfl | exact .of rfl rfl rfl rfl rfl rfl rfl))
  all_goals rfl

theorem keep_workLine (s : State) (a1 : Nat) : Keep 4259854 s (workLine s a1) := by
  unfold workLine
  with_reducible repeat' first
    | apply Keep.refl | assumption | apply (keep_work _ _ _).after
  all_goals rfl

theorem keep_request (s : State) (a1 : Nat) (a2 : CohReq) : Keep 4259854 s (request s a1 a2) := by
  unfold request
  with_reducible repeat' first
    | apply Keep.refl | assumption | apply (keep_workLine _ _).after
    | apply (keep_setHomeLine _ _ _).after | dsimp only
    | (apply Keep.lit; on_goal 2 => (constructor <;> first | exact .inr rfl | exact .inl rfl | exact .of rfl rfl rfl rfl rfl rfl rfl))
  all_goals rfl

theorem keep_agentRequest (s : State) (a l : Nat) (store : Option (Nat × List Byte)) (q : CohReq) (hit : CacheState → Bool) :
    Keep 4259854 s (agentRequest s a l store q hit) := by
  have c : ∀ u n x, Keep 4259854 u (setCacheLine u a n x) := fun u n x => (keep_setCacheLine u a n x).mono rfl
  have d : ∀ u n b f, Keep 4259854 u (tellData u a n b f) := fun u n b f => (keep_tellData u a n b f).mono rfl
  unfold agentRequest
  extract_lets x
  cases storeRefused s l store with
  | none =>
    change Keep 4259854 s (if _ then _ else _)
    split
    · split
      · exact (c _ _ _).trans (d _ _ _ _)
      · exact d _ _ _ _
    · exact keep_request _ _ _
  | some st => exact (keep_emit _ _).mono rfl

theorem keep_waitFor (s : State) (a1 a2 : Nat) : Keep 128 s (waitFor s a1 a2) := by
  unfold waitFor
  with_reducible repeat' first
    | apply Keep.refl | assumption | dsimp only
    | (apply Keep.lit; on_goal 2 => (constructor <;> first | exact .inr rfl | exact .inl rfl | exact .of rfl rfl rfl rfl rfl rfl rfl))
  all_goals rfl

theorem keep_allocMissing (a0 : Composition) (a1 : ModelDescriptor) (a2 : Nat) (a3 : List (Nat × Nat)) (s : State) :
    Keep 67726 s (allocMissing a0 a1 a2 a3 s).2 := by
  fun_induction allocMissing a0 a1 a2 a3 s
  all_goals (try dsimp only)
  with_reducible repeat' first
    | apply Keep.refl | assumption | apply (keep_waitFor _ _ _).after
    | apply (keep_copyOnWrite _ _ _ _ _ _ _ _).after | apply Keep.after (by assumption) | split | dsimp only
  all_goals rfl

theorem keep_answerChain (s : State) (a1 : ChainHead) (a2 a3 : Nat) (a4 : List Nat) :
    Keep 4194304 s (answerChain s a1 a2 a3 a4) := by
  unfold answerChain
  with_reducible repeat' first
    | apply Keep.refl | assumption | apply (keep_emit _ _).after | split | dsimp only
    | (apply Keep.lit; on_goal 2 => (constructor <;> first | exact .inr rfl | exact .inl rfl | exact .of rfl rfl rfl rfl rfl rfl rfl))
  all_goals rfl

theorem keep_takeAnswer (s : State) (a1 a2 : Nat) (a3 : OwnerAnswer) : Keep 4259854 s (takeAnswer s a1 a2 a3) := by
  unfold takeAnswer
  try dsimp only
  with_reducible repeat' first
    | apply Keep.refl | assumption | apply (keep_workLine _ _).after
    | apply (keep_work _ _ _).after | apply (keep_resumeLines _ _).after | apply (keep_completeReq _ _ _ _).after
    | apply (keep_setHomeLine _ _ _).after | split | dsimp only
    | (apply Keep.lit; on_goal 2 => (constructor <;> first | exact .inr rfl | exact .inl rfl | exact .of rfl rfl rfl rfl rfl rfl rfl))
  all_goals rfl

theorem keep_answerForward (s : State) (a1 a2 : Nat) : Keep 4259854 s (answerForward s a1 a2) := by
  unfold answerForward
  try dsimp only
  with_reducible repeat' first
    | apply Keep.refl | assumption | apply (keep_takeAnswer _ _ _ _).after
    | apply (keep_wrapF _ _ _).after | apply (keep_setCacheLine _ _ _ _).after | split | dsimp only
    | (apply Keep.lit; on_goal 2 => (constructor <;> first | exact .inr rfl | exact .inl rfl | exact .of rfl rfl rfl rfl rfl rfl rfl))
  all_goals rfl

theorem keep_setLedger (s : State) (a1 : Nat) (a2 : Ledger) : Keep 8192 s (setLedger s a1 a2) := by
  unfold setLedger
  with_reducible repeat' first
    | apply Keep.refl | assumption | dsimp only
    | (apply Keep.lit; on_goal 2 => (constructor <;> first | exact .inr rfl | exact .inl rfl | exact .of rfl rfl rfl rfl rfl rfl rfl))
  all_goals rfl

theorem keep_setWay (s : State) (a1 : Nat) (a2 : Way) : Keep 4096 s (setWay s a1 a2) := by
  unfold setWay
  with_reducible repeat' first
    | apply Keep.refl | assumption | dsimp only
    | (apply Keep.lit; on_goal 2 => (constructor <;> first | exact .inr rfl | exact .inl rfl | exact .of rfl rfl rfl rfl rfl rfl rfl))
  all_goals rfl

theorem keep_applyRecord (s : State) (a1 : MirrorBody) : Keep 6895820 s (applyRecord s a1) := by
  unfold applyRecord
  try dsimp only
  with_reducible repeat' first
    | apply Keep.refl | assumption | apply (keep_setWay _ _ _).after
    | apply (keep_setLedger _ _ _).after | apply (keep_setRec _ _ _).after | apply (keep_setTwin _ _ _ _).after
    | apply (keep_protectRange _ _ _ _).after | apply (keep_memWrite _ _ _).after | apply (keep_protect _ _ _ _).after
    | apply (keep_setEntry _ _ _).after | apply (keep_setOdt _ _ _).after | apply (keep_setManifest _ _ _).after
    | apply (keep_setPage _ _ _).after | split | dsimp only
    | (apply Keep.lit; on_goal 2 => (constructor <;> first | exact .inr rfl | exact .inl rfl | exact .of rfl rfl rfl rfl rfl rfl rfl))
  all_goals rfl

theorem keep_applyChanges (a0 : Nat) (s : State) : Keep 6895820 s (applyChanges a0 s) := by
  fun_induction applyChanges a0 s
  all_goals (try dsimp only)
  with_reducible repeat' first
    | (intro) | apply Keep.refl | assumption | apply (keep_applyRecord _ _).after
    | apply (keep_putF _ _ _).after | apply Keep.after (by assumption) | apply Keep.foldl | split | dsimp only
    | (apply Keep.lit; on_goal 2 => (constructor <;> first | exact .inr rfl | exact .inl rfl | exact .of rfl rfl rfl rfl rfl rfl rfl))
  all_goals rfl

theorem keep_setReads (s : State) (a1 : Nat) (a2 : Option BlockReads) : Keep 2048 s (setReads s a1 a2) := by
  unfold setReads
  with_reducible repeat' first
    | apply Keep.refl | assumption | dsimp only
    | (apply Keep.lit; on_goal 2 => (constructor <;> first | exact .inr rfl | exact .inl rfl | exact .of rfl rfl rfl rfl rfl rfl rfl))
  all_goals rfl

theorem keep_askBlock (s : State) (a1 a2 : Nat) (a3 : Composition) (a4 : ModelDescriptor) (a5 : BlockReads) (a6 : Nat) :
    Keep 4942030 s (askBlock s a1 a2 a3 a4 a5 a6) := by
  unfold askBlock
  try dsimp only
  with_reducible repeat' first
    | (intro) | apply Keep.refl | assumption | apply (keep_setReads _ _ _).after
    | apply (keep_allocMissing _ _ _ _ _).after | apply (keep_sendRst _ _).after | split | dsimp only
    | (apply Keep.lit; on_goal 2 => (constructor <;> first | exact .inr rfl | exact .inl rfl | exact .of rfl rfl rfl rfl rfl rfl rfl))
  all_goals rfl

theorem keep_askHost (s : State) (a1 : OdtEntry) : Keep 4194304 s (askHost s a1) := by
  unfold askHost
  with_reducible repeat' first
    | apply Keep.refl | assumption | apply (keep_emit _ _).after | split
  all_goals rfl

theorem keep_askOwner (s : State) (a1 : Nat) : Keep 4876358 s (askOwner s a1) := by
  unfold askOwner
  with_reducible repeat' first
    | apply Keep.refl | assumption | apply (keep_sendRst _ _).after
  all_goals rfl

theorem keep_fixModel (s : State) (a1 : Nat) (a2 : Image) : Keep 1024 s (fixModel s a1 a2) := by
  unfold fixModel
  with_reducible repeat' first
    | apply Keep.refl | assumption | apply (keep_setComp _ _ _).after | split | dsimp only
    | (apply Keep.lit; on_goal 2 => (constructor <;> first | exact .inr rfl | exact .inl rfl | exact .of rfl rfl rfl rfl rfl rfl rfl))
  all_goals rfl

theorem keep_setSlot (s : State) (a1 : Nat) (a2 : UcodeSlot) : Keep 512 s (setSlot s a1 a2) := by
  unfold setSlot
  with_reducible repeat' first
    | apply Keep.refl | assumption | dsimp only
    | (apply Keep.lit; on_goal 2 => (constructor <;> first | exact .inr rfl | exact .inl rfl | exact .of rfl rfl rfl rfl rfl rfl rfl))
  all_goals rfl

theorem keep_attachComp (s : State) (a1 : Nat) (a2 : Fin 16) (a3 : Image) : Keep 1536 s (attachComp s a1 a2 a3) := by
  unfold attachComp
  try dsimp only
  with_reducible repeat' first
    | apply Keep.refl | assumption | apply (keep_setSlot _ _ _).after
    | apply (keep_fixModel _ _ _).after | dsimp only
    | (apply Keep.lit; on_goal 2 => (constructor <;> first | exact .inr rfl | exact .inl rfl | exact .of rfl rfl rfl rfl rfl rfl rfl))
  all_goals rfl

theorem keep_setSticky (s : State) (a1 : Nat) (a2 : Sticky) : Keep 4 s (setSticky s a1 a2) := by
  unfold setSticky
  try dsimp only
  with_reducible repeat' first
    | apply Keep.refl | assumption | apply (keep_putF _ _ _).after | split | dsimp only
  all_goals rfl

theorem keep_attendPages (s : State) (a1 a2 a3 a4 a5 : Nat) (a6 : BitVec 32) (a7 : QueryRow) (a8 a9 : Nat) (a10 : List IvoryRow) :
    Keep 516 s (attendPages s a1 a2 a3 a4 a5 a6 a7 a8 a9 a10) := by
  unfold attendPages
  try dsimp only
  with_reducible repeat' first
    | (intro) | apply Keep.refl | assumption | apply (keep_setSticky _ _ _).after
    | apply Keep.foldl | split | dsimp only
    | (apply Keep.lit; on_goal 2 => (constructor <;> first | exact .inr rfl | exact .inl rfl | exact .of rfl rfl rfl rfl rfl rfl rfl))
  all_goals rfl

theorem keep_attnNotify (s : State) : Keep 4194368 s (attnNotify s) := by
  unfold attnNotify
  with_reducible repeat' first
    | apply Keep.refl | assumption | apply (keep_notify _ _ _).after | split
  all_goals rfl

theorem keep_auditEntry (s : State) (a1 : Nat) : Keep 4876358 s (auditEntry s a1) := by
  unfold auditEntry
  try dsimp only
  with_reducible repeat' first
    | apply Keep.refl | assumption | apply (keep_askOwner _ _).after
    | apply (keep_hear _ _).after | apply (keep_satF _ _).after | apply (keep_setTransfer _ _ _).after | split | dsimp only
    | (apply Keep.lit; on_goal 2 => (constructor <;> first | exact .inr rfl | exact .inl rfl | exact .of rfl rfl rfl rfl rfl rfl rfl))
  all_goals rfl

theorem keep_chooseRecord (s : State) : Keep 2 s (chooseRecord s).2 := by
  unfold chooseRecord
  with_reducible repeat' first
    | (intro) | apply Keep.refl | assumption | apply (keep_chooseFree _ _ _ _).after | dsimp only
  all_goals rfl

theorem keep_pinObject (s : State) (a1 : Nat) : Keep 128 s (pinObject s a1) := by
  unfold pinObject
  try dsimp only
  with_reducible repeat' first
    | apply Keep.refl | assumption | apply (keep_setOdt _ _ _).after | split | dsimp only
    | (apply Keep.lit; on_goal 2 => (constructor <;> first | exact .inr rfl | exact .inl rfl | exact .of rfl rfl rfl rfl rfl rfl rfl))
  all_goals rfl

theorem keep_holdPages (s : State) (a1 : Bool) (a2 : List Nat) (t : State) (h : holdPages s a1 a2 = some t) :
    Keep 128 s t := by
  unfold holdPages at h
  try dsimp only at h
  repeat' split at h
  all_goals (first | cases h | skip)
  with_reducible repeat' first
    | (intro) | apply Keep.refl | assumption | apply (keep_pinObject _ _).after
    | apply (keep_addRef _ _).after | apply Keep.foldl | split
  all_goals rfl

end Sys2Proof.Machine
end

