-- ==== Sys2Proof/Laws/FramesB.lean ====
section
/-! SUPPORT. What each operation may change, as a mask of the parts of State (Keep): the operations, second part. -/

namespace Sys2Proof.Machine

open Sys2Proof

set_option linter.all false

theorem keep_unpinObject (s : State) (a1 : Nat) : Keep 128 s (unpinObject s a1) := by
  unfold unpinObject
  try dsimp only
  with_reducible repeat' first
    | apply Keep.refl | assumption | apply (keep_setOdt _ _ _).after | split | dsimp only
    | (apply Keep.lit; on_goal 2 => (constructor <;> first | exact .inr rfl | exact .inl rfl | exact .of rfl rfl rfl rfl rfl rfl rfl))
  all_goals rfl

theorem keep_dropHolds (s : State) (a1 : BlockRec) : Keep 132 s (dropHolds s a1) := by
  unfold dropHolds
  with_reducible repeat' first
    | (intro) | apply Keep.refl | assumption | apply (keep_unpinObject _ _).after
    | apply (keep_removeRef _ _).after | apply Keep.foldl | split
  all_goals rfl

theorem keep_unname (s : State) (a1 : Nat) : Keep 4096 s (unname s a1) := by
  unfold unname
  try dsimp only
  with_reducible repeat' first
    | (intro) | apply Keep.refl | assumption | apply (keep_setWay _ _ _).after
    | apply (keep_setRec _ _ _).after | apply Keep.foldl | split | dsimp only
    | (apply Keep.lit; on_goal 2 => (constructor <;> first | exact .inr rfl | exact .inl rfl | exact .of rfl rfl rfl rfl rfl rfl rfl))
  all_goals rfl

theorem keep_removeRecord (fuel n : Nat) (s : State) : Keep 4228 s (removeRecord fuel n s) := by
  induction fuel generalizing n s with
  | zero => exact Keep.refl _ _
  | succ fuel ih =>
    unfold removeRecord
    extract_lets x s1
    have h : Keep 4228 s s1 := Keep.foldl ((keep_unname s n).mono rfl) (fun u m => ih m u)
    split
    · exact Keep.refl _ _
    · exact (h.comp (keep_dropHolds _ _) rfl).comp (keep_setRec _ _ _) rfl

theorem keep_dropRecord (s : State) (a1 : Nat) : Keep 4228 s (dropRecord s a1) := by
  unfold dropRecord
  with_reducible repeat' first
    | apply Keep.refl | assumption | apply (keep_removeRecord _ _ _).after
  all_goals rfl

theorem keep_evictWay (s : State) (a1 : Nat) : Keep 4228 s (evictWay s a1) := by
  unfold evictWay
  try dsimp only
  with_reducible repeat' first
    | apply Keep.refl | assumption | apply (keep_dropRecord _ _).after
    | apply (keep_setWay _ _ _).after | apply (keep_setRec _ _ _).after | split | dsimp only
    | (apply Keep.lit; on_goal 2 => (constructor <;> first | exact .inr rfl | exact .inl rfl | exact .of rfl rfl rfl rfl rfl rfl rfl))
  all_goals rfl

theorem keep_insertStops (s : State) : Keep 4 s (insertStops s).2 := by
  unfold insertStops
  with_reducible repeat' first
    | apply Keep.refl | assumption | apply (keep_satF _ _).after
  all_goals rfl

theorem keep_insertPlace (s1 : State) (parent n : Nat) (x0 : BlockRec) (collided fine : Bool) :
    Keep 4228 s1 (insertPlace s1 parent n x0 collided fine).2 := by
  have z : ∀ u, Keep 4228 u (insertStops u).2 := fun u => (keep_insertStops u).mono rfl
  have p : ∀ u i r, Keep 4228 u (setRec u i r) := fun u i r => (keep_setRec u i r).mono rfl
  have q : ∀ u f, Keep 4228 u (satF u f) := fun u f => (keep_satF u f).mono rfl
  unfold insertPlace
  extract_lets full s2 s3 s4 _ s5
  have h2 : Keep 4228 s1 s2 := by
    unfold s2
    split
    · exact q _ _
    · exact Keep.refl _ _
  have h3 : Keep 4228 s2 s3 := p _ _ _
  have h4 : Keep 4228 s3 s4 := by
    clear h2 h3
    clear_value s3
    unfold s4
    split
    · exact (keep_linkChild _ _ _).mono rfl
    · exact Keep.refl _ _
  have h5 : Keep 4228 s4 s5 := by
    clear h2 h3 h4
    clear_value s4
    unfold s5
    split
    · exact Keep.refl _ _
    · split
      · exact Keep.refl _ _
      · next v _ =>
        extract_lets u
        have k : Keep 4228 s4 u := keep_evictWay _ _
        split
        · exact k
        · exact (k.trans ((keep_setWay _ _ _).mono rfl)).trans (p _ _ _)
  have h := ((h2.trans h3).trans h4).trans h5
  split
  · exact (h2.trans ((keep_dropHolds _ _).mono rfl)).trans (z _)
  · clear h2 h3 h4 h5
    clear_value s5
    split
    · exact h.trans (q _ _)
    · exact h.trans (z _)

theorem keep_insertHeld (s : State) (a1 a2 : Nat) (a3 : BlockRec) (a4 : Bool) : Keep 4228 s (insertHeld s a1 a2 a3 a4).2 := by
  unfold insertHeld
  try dsimp only
  with_reducible repeat' first
    | (intro) | apply Keep.refl | assumption | apply (keep_insertPlace _ _ _ _ _ _).after
    | apply (keep_insertStops _).after | apply (keep_dropHolds _ _).after | split | dsimp only
  all_goals rfl

theorem keep_insertBlock (s : State) (x : WalkCtx) (parent pd : Nat) (tokens pages : List Nat) (pin fine : Bool) :
    Keep 4230 s (insertBlock s x parent pd tokens pages pin fine).2 := by
  have z : ∀ u, Keep 4230 u (insertStops u).2 := fun u => (keep_insertStops u).mono rfl
  have h1 : Keep 4230 s (chooseRecord s).2 := (keep_chooseRecord s).mono rfl
  unfold insertBlock
  generalize chooseRecord s = r at h1 ⊢
  obtain ⟨o, s0⟩ := r
  dsimp only at h1 ⊢
  cases o with
  | none =>
    rw [Option.elim_none]
    exact z s
  | some n =>
    rw [Option.elim_some]
    generalize hs : holdPages s0 (roleOf s x.comp == .cache) pages = o
    cases o with
    | none =>
      rw [Option.elim_none]
      exact h1.trans (z s0)
    | some s1 =>
      rw [Option.elim_some]
      have h2 : Keep 4230 s0 s1 := (keep_holdPages _ _ _ _ hs).mono rfl
      have h3 := (keep_insertHeld s1 parent n (blockRecord s x pd tokens pages pin) fine).mono (w := 4230) rfl
      generalize insertHeld s1 parent n (blockRecord s x pd tokens pages pin) fine = q at h3 ⊢
      exact (h1.trans h2).trans h3

theorem keep_insertNext (s : State) (a1 a2 : Nat) : Keep 6278 s (insertNext s a1 a2) := by
  unfold insertNext
  try dsimp only
  with_reducible repeat' first
    | apply Keep.refl | assumption | apply (keep_insertBlock _ _ _ _ _ _ _ _).after
    | apply (keep_setTrack _ _ _).after | split | dsimp only
    | (apply Keep.lit; on_goal 2 => (constructor <;> first | exact .inr rfl | exact .inl rfl | exact .of rfl rfl rfl rfl rfl rfl rfl))
  all_goals rfl

theorem keep_insertPulled (s : State) (a1 : Nat) : Keep 6278 s (insertPulled s a1) := by
  unfold insertPulled
  with_reducible repeat' first
    | (intro) | apply Keep.refl | assumption | apply (keep_insertNext _ _ _).after
    | apply Keep.foldl | split | dsimp only
  all_goals rfl

theorem keep_granted (s : State) (a1 a2 : Nat) (a3 : Transfer) : Keep 4947150 s (granted s a1 a2 a3) := by
  unfold granted
  try dsimp only
  with_reducible repeat' first
    | (intro) | apply Keep.refl | assumption | apply (keep_insertPulled _ _).after
    | apply (keep_notice _ _ _ _).after | apply (keep_applyHeld _ _).after | apply (keep_seizeEntry _ _).after
    | apply (keep_retryTransfers _).after | apply (keep_modEntry _ _ _).after | apply (keep_publishNext _ _).after
    | apply (keep_sendRst _ _).after | apply (keep_endTransfer _ _).after | split | dsimp only
    | (apply Keep.lit; on_goal 2 => (constructor <;> first | exact .inr rfl | exact .inl rfl | exact .of rfl rfl rfl rfl rfl rfl rfl))
  all_goals rfl

theorem keep_sendClaim (s : State) (a1 a2 : Nat) (a3 : Transfer) : Keep 4876358 s (sendClaim s a1 a2 a3) := by
  unfold sendClaim
  try dsimp only
  with_reducible repeat' first
    | apply Keep.refl | assumption | apply (keep_sendRst _ _).after
    | apply (keep_setTransfer _ _ _).after | dsimp only
    | (apply Keep.lit; on_goal 2 => (constructor <;> first | exact .inr rfl | exact .inl rfl | exact .of rfl rfl rfl rfl rfl rfl rfl))
  all_goals rfl

theorem keep_auditIn (s : State) (a1 a2 : Nat) (a3 : Transfer) (a4 : PartAddr) (a5 : Nat) :
    Keep 4947150 s (auditIn s a1 a2 a3 a4 a5) := by
  unfold auditIn
  with_reducible repeat' first
    | apply Keep.refl | assumption | apply (keep_sendClaim _ _ _ _).after
    | apply (keep_granted _ _ _ _).after | apply (keep_arbitrate _ _).after | apply (keep_abandon _ _).after | split
  all_goals rfl

theorem keep_failHandoff (s : State) (a1 : Nat) : Keep 4943054 s (failHandoff s a1) := by
  unfold failHandoff
  with_reducible repeat' first
    | apply Keep.refl | assumption | apply (keep_failEntry _ _ _).after
    | apply (keep_applyHeld _ _).after
  all_goals rfl

theorem keep_auditLost (s : State) (a1 : Nat) : Keep 4943054 s (auditLost s a1) := by
  unfold auditLost
  with_reducible repeat' first
    | apply Keep.refl | assumption | apply (keep_failHandoff _ _).after
    | apply (keep_abandon _ _).after | split
  all_goals rfl

theorem keep_handedOff (s : State) (a1 : Nat) (a2 : PartAddr) : Keep 4943054 s (handedOff s a1 a2) := by
  unfold handedOff
  try dsimp only
  with_reducible repeat' first
    | (intro) | apply Keep.refl | assumption | apply (keep_notice _ _ _ _).after
    | apply (keep_setInput _ _ _).after | apply (keep_seizeEntry _ _).after | apply (keep_retryTransfers _).after
    | apply (keep_modEntry _ _ _).after | apply (keep_endTransfers _ _).after | apply (keep_dropPages _ _).after | dsimp only
    | (apply Keep.lit; on_goal 2 => (constructor <;> first | exact .inr rfl | exact .inl rfl | exact .of rfl rfl rfl rfl rfl rfl rfl))
  all_goals rfl

theorem keep_auditOut (s : State) (a1 : Nat) (a2 : PartAddr) (a3 : Nat) : Keep 4943054 s (auditOut s a1 a2 a3) := by
  unfold auditOut
  with_reducible repeat' first
    | apply Keep.refl | assumption | apply (keep_handedOff _ _ _).after
    | apply (keep_arbitrate _ _).after | split
  all_goals rfl

theorem keep_pwrStatus (s : State) (a1 : Nat) : Keep 4 s (pwrStatus s a1) := by
  unfold pwrStatus
  with_reducible repeat' first
    | apply Keep.refl | assumption | apply (keep_putF _ _ _).after
  all_goals rfl

theorem keep_awakeCommand (s : State) (a1 : Bool) : Keep 6291556 s (awakeCommand s a1) := by
  unfold awakeCommand
  try dsimp only
  with_reducible repeat' first
    | apply Keep.refl | assumption | apply (keep_pwrStatus _ _).after
    | apply (keep_leaveCharcoal _ _).after | apply (keep_setPwrState _ _).after | apply (keep_sendPower _ _).after | split
    | dsimp only
    | (apply Keep.lit; on_goal 2 => (constructor <;> first | exact .inr rfl | exact .inl rfl | exact .of rfl rfl rfl rfl rfl rfl rfl))
  all_goals rfl

theorem keep_dropBlock (s : State) (a1 a2 a3 : Nat) : Keep 2180 s (dropBlock s a1 a2 a3) := by
  unfold dropBlock
  try dsimp only
  with_reducible repeat' first
    | (intro) | apply Keep.refl | assumption | apply (keep_setPageEntry _ _ _ _ _).after
    | apply (keep_removeRef _ _).after | apply Keep.foldl | split | dsimp only
    | (apply Keep.lit; on_goal 2 => (constructor <;> first | exact .inr rfl | exact .inl rfl | exact .of rfl rfl rfl rfl rfl rfl rfl))
  all_goals rfl

theorem keep_badPage (s : State) (a1 : Pass) (a2 : Nat) : Keep 4197572 s (badPage s a1 a2) := by
  unfold badPage
  try dsimp only
  with_reducible repeat' first
    | (intro) | apply Keep.refl | assumption | apply (keep_dropBlock _ _ _ _).after
    | apply (keep_attnNotify _).after | apply (keep_seizeEntry _ _).after | apply (keep_modEntry _ _ _).after
    | apply (keep_latch _ _ _ _ ?_ ?_).next | apply (keep_putF _ _ _).after | split | dsimp only
    | (apply Keep.lit; on_goal 2 => (constructor <;> first | exact .inr rfl | exact .inl rfl | exact .of rfl rfl rfl rfl rfl rfl rfl))
  all_goals rfl

theorem keep_claimTakeover (s : State) (a1 : Nat) : Keep 4876358 s (claimTakeover s a1) := by
  unfold claimTakeover
  try dsimp only
  with_reducible repeat' first
    | apply Keep.refl | assumption | apply (keep_sendRst _ _).after | dsimp only
    | (apply Keep.lit; on_goal 2 => (constructor <;> first | exact .inr rfl | exact .inl rfl | exact .of rfl rfl rfl rfl rfl rfl rfl))
  all_goals rfl

theorem keep_claimEntry (s : State) (a1 : Nat) : Keep 4876358 s (claimEntry s a1) := by
  unfold claimEntry
  with_reducible repeat' first
    | apply Keep.refl | assumption | apply (keep_claimTakeover _ _).after
    | apply (keep_askOwner _ _).after | apply (keep_hear _ _).after | split | dsimp only
    | (apply Keep.lit; on_goal 2 => (constructor <;> first | exact .inr rfl | exact .inl rfl | exact .of rfl rfl rfl rfl rfl rfl rfl))
  all_goals rfl

theorem keep_fillUnits (a0 a1 a2 a3 : Nat) (s : State) : Keep 8322 s (fillUnits a0 a1 a2 a3 s).2 := by
  fun_induction fillUnits a0 a1 a2 a3 s
  all_goals (try dsimp only)
  with_reducible repeat' first
    | apply Keep.refl | assumption | apply (keep_addUnit _ _ _).after
    | apply Keep.after (by assumption) | split | dsimp only
  all_goals rfl

theorem keep_needLedgerUnits (s : State) (a1 a2 a3 : Nat) : Keep 8322 s (needLedgerUnits s a1 a2 a3).2 := by
  unfold needLedgerUnits
  with_reducible repeat' first
    | apply Keep.refl | assumption | apply (keep_fillUnits _ _ _ _ _).after
  all_goals rfl

theorem keep_claimUnits (s : State) : Keep 8322 s (claimUnits s) := by
  unfold claimUnits
  try dsimp only
  with_reducible repeat' first
    | (intro) | apply Keep.refl | assumption | apply (keep_needLedgerUnits _ _ _ _).after
    | apply Keep.foldl2 | apply Keep.foldl | split | dsimp only
    | (apply Keep.lit; on_goal 2 => (constructor <;> first | exact .inr rfl | exact .inl rfl | exact .of rfl rfl rfl rfl rfl rfl rfl))
  all_goals rfl

theorem keep_resumeInput (s : State) (a1 : Nat) : Keep 2048 s (resumeInput s a1) := by
  unfold resumeInput
  try dsimp only
  with_reducible repeat' first
    | (intro) | apply Keep.refl | assumption | apply (keep_setInput _ _ _).after
    | apply (keep_setManifest _ _ _).after | split | dsimp only
    | (apply Keep.lit; on_goal 2 => (constructor <;> first | exact .inr rfl | exact .inl rfl | exact .of rfl rfl rfl rfl rfl rfl rfl))
  all_goals rfl

theorem keep_swapAddrs (s : State) : Keep 4194308 s (swapAddrs s) := by
  unfold swapAddrs
  try dsimp only
  with_reducible repeat' first
    | apply Keep.refl | assumption | apply (keep_advertise _ _).after
    | apply (keep_putF _ _ _).after | split | dsimp only
  all_goals rfl

theorem keep_becomeActive (s : State) : Keep 6973638 s (becomeActive s) := by
  unfold becomeActive
  try dsimp only
  with_reducible repeat' first
    | (intro) | apply Keep.refl | assumption | apply (keep_swapAddrs _).after
    | apply (keep_resumeInput _ _).after | apply (keep_claimUnits _).after | apply (keep_claimEntry _ _).after
    | apply (keep_setTwin _ _ _ _).after | apply Keep.foldl | dsimp only
    | (apply Keep.lit; on_goal 2 => (constructor <;> first | exact .inr rfl | exact .inl rfl | exact .of rfl rfl rfl rfl rfl rfl rfl))
  all_goals rfl

theorem keep_becomeMirror (s : State) : Keep 6826180 s (becomeMirror s) := by
  unfold becomeMirror
  try dsimp only
  with_reducible repeat' first
    | (intro) | apply Keep.refl | assumption | apply (keep_swapAddrs _).after
    | apply (keep_setTwin _ _ _ _).after | split | dsimp only
    | (apply Keep.lit; on_goal 2 => (constructor <;> first | exact .inr rfl | exact .inl rfl | exact .of rfl rfl rfl rfl rfl rfl rfl))
  all_goals rfl

theorem keep_becomeReady (s : State) : Keep 4194384 s (becomeReady s) := by
  unfold becomeReady
  with_reducible repeat' first
    | apply Keep.refl | assumption | apply (keep_notify _ _ _).after | split | dsimp only
    | (apply Keep.lit; on_goal 2 => (constructor <;> first | exact .inr rfl | exact .inl rfl | exact .of rfl rfl rfl rfl rfl rfl rfl))
  all_goals rfl

theorem keep_cmdStatus (s : State) (a1 a2 : Nat) : Keep 4 s (cmdStatus s a1 a2) := by
  unfold cmdStatus
  with_reducible repeat' first
    | apply Keep.refl | assumption | apply (keep_putF _ _ _).after
  all_goals rfl

theorem keep_setRegionState (s : State) (a1 : Nat) (a2 : RegionState) : Keep 4195652 s (setRegionState s a1 a2) := by
  unfold setRegionState
  try dsimp only
  with_reducible repeat' first
    | apply Keep.refl | assumption | apply (keep_setRegion _ _ _).after
    | apply (keep_notify _ _ _).after | apply (keep_releaseModel _ _).after | apply (keep_putF _ _ _).after | split | dsimp only
    | (apply Keep.lit; on_goal 2 => (constructor <;> first | exact .inr rfl | exact .inl rfl | exact .of rfl rfl rfl rfl rfl rfl rfl))
  all_goals rfl

theorem keep_beginDrain (s : State) (a1 : Nat) (a2 : Option Nat) : Keep 4195652 s (beginDrain s a1 a2) := by
  unfold beginDrain
  try dsimp only
  with_reducible repeat' first
    | apply Keep.refl | assumption | apply (keep_setRegionState _ _ _).after
    | apply (keep_cmdStatus _ _ _).after | apply (keep_setRegion _ _ _).after | dsimp only
    | (apply Keep.lit; on_goal 2 => (constructor <;> first | exact .inr rfl | exact .inl rfl | exact .of rfl rfl rfl rfl rfl rfl rfl))
  all_goals rfl

theorem keep_drawFree (s : State) : Keep 2 s (drawFree s).2 := by
  unfold drawFree
  with_reducible repeat' first
    | apply Keep.refl | assumption | dsimp only
    | (apply Keep.lit; on_goal 2 => (constructor <;> first | exact .inr rfl | exact .inl rfl | exact .of rfl rfl rfl rfl rfl rfl rfl))
  all_goals rfl

theorem keep_poisonLine (s : State) (a1 : Nat) : Keep 4259918 s (poisonLine s a1) := by
  unfold poisonLine
  try dsimp only
  with_reducible repeat' first
    | (intro) | apply Keep.refl | assumption | apply (keep_workLine _ _).after
    | apply (keep_setHomeLine _ _ _).after | apply (keep_notify _ _ _).after | apply (keep_latch _ _ _ _ ?_ ?_).next
    | apply (keep_putF _ _ _).after | split | dsimp only
    | (apply Keep.lit; on_goal 2 => (constructor <;> first | exact .inr rfl | exact .inl rfl | exact .of rfl rfl rfl rfl rfl rfl rfl))
  all_goals rfl

theorem keep_rescueLines (s : State) (a1 : Nat) : Keep 4259918 s (rescueLines s a1) := by
  unfold rescueLines
  try dsimp only
  with_reducible repeat' first
    | (intro) | apply Keep.refl | assumption | apply (keep_poisonLine _ _).after
    | apply (keep_drawFree _).after | apply (keep_writeBack _ _ _).after | apply Keep.foldl2 | apply Keep.foldl | split
    | dsimp only
  all_goals rfl

theorem keep_faultRegion (s : State) (a1 a2 a3 : Nat) : Keep 4263886 s (faultRegion s a1 a2 a3) := by
  unfold faultRegion
  try dsimp only
  with_reducible repeat' first
    | apply Keep.refl | assumption | apply (keep_rescueLines _ _).after
    | apply (keep_setRegionState _ _ _).after | apply (keep_abandonUnit _ _).after | apply (keep_endThreads _ _).after
    | apply (keep_setRegion _ _ _).after | apply (keep_putF _ _ _).after | split | dsimp only
    | (apply Keep.lit; on_goal 2 => (constructor <;> first | exact .inr rfl | exact .inl rfl | exact .of rfl rfl rfl rfl rfl rfl rfl))
  all_goals rfl

theorem keep_beginLoad (s : State) (a1 a2 : Nat) : Keep 4263886 s (beginLoad s a1 a2) := by
  unfold beginLoad
  try dsimp only
  with_reducible repeat' first
    | apply Keep.refl | assumption | apply (keep_faultRegion _ _ _ _).after
    | apply (keep_setRegionState _ _ _).after | apply (keep_setRegion _ _ _).after | apply (keep_takeLease _ _).after | split
    | dsimp only
    | (apply Keep.lit; on_goal 2 => (constructor <;> first | exact .inr rfl | exact .inl rfl | exact .of rfl rfl rfl rfl rfl rfl rfl))
  all_goals rfl

theorem keep_writeObjCompletion (s : State) (a1 : ObjCompletion) : Keep 4194496 s (writeObjCompletion s a1) := by
  unfold writeObjCompletion
  try dsimp only
  with_reducible repeat' first
    | apply Keep.refl | assumption | apply (keep_notify _ _ _).after
    | apply (keep_postRecord _ _ _ _).after | split | dsimp only
    | (apply Keep.lit; on_goal 2 => (constructor <;> first | exact .inr rfl | exact .inl rfl | exact .of rfl rfl rfl rfl rfl rfl rfl))
  all_goals rfl

theorem keep_flushObj (a0 : Nat) (s : State) : Keep 4194496 s (flushObj a0 s) := by
  fun_induction flushObj a0 s
  all_goals (try dsimp only)
  with_reducible repeat' first
    | apply Keep.refl | assumption | apply (keep_writeObjCompletion _ _).after
    | apply Keep.after (by assumption) | split | dsimp only
    | (apply Keep.lit; on_goal 2 => (constructor <;> first | exact .inr rfl | exact .inl rfl | exact .of rfl rfl rfl rfl rfl rfl rfl))
  all_goals rfl

theorem keep_completeObj (s : State) (a1 a2 a3 : Nat) : Keep 4194496 s (completeObj s a1 a2 a3) := by
  unfold completeObj
  try dsimp only
  with_reducible repeat' first
    | apply Keep.refl | assumption | apply (keep_flushObj _ _).after | dsimp only
    | (apply Keep.lit; on_goal 2 => (constructor <;> first | exact .inr rfl | exact .inl rfl | exact .of rfl rfl rfl rfl rfl rfl rfl))
  all_goals rfl

theorem keep_beginMove (s : State) (a1 : ObjCommand) (a2 : OdtEntry) : Keep 4194496 s (beginMove s a1 a2) := by
  unfold beginMove
  try dsimp only
  with_reducible repeat' first
    | apply Keep.refl | assumption | apply (keep_completeObj _ _ _ _).after
    | apply (keep_takeLease _ _).after | apply (keep_setOdt _ _ _).after | split | dsimp only
    | (apply Keep.lit; on_goal 2 => (constructor <;> first | exact .inr rfl | exact .inl rfl | exact .of rfl rfl rfl rfl rfl rfl rfl))
  all_goals rfl

theorem keep_pkgStatus (s : State) (a1 : Nat) : Keep 4 s (pkgStatus s a1) := by
  unfold pkgStatus
  with_reducible repeat' first
    | apply Keep.refl | assumption | apply (keep_putF _ _ _).after
  all_goals rfl

theorem keep_beginPackage (s : State) (a1 : Nat) : Keep 388 s (beginPackage s a1) := by
  unfold beginPackage
  try dsimp only
  with_reducible repeat' first
    | apply Keep.refl | assumption | apply (keep_pkgStatus _ _).after
    | apply (keep_takeLease _ _).after | split | dsimp only
    | (apply Keep.lit; on_goal 2 => (constructor <;> first | exact .inr rfl | exact .inl rfl | exact .of rfl rfl rfl rfl rfl rfl rfl))
  all_goals rfl

theorem keep_beginPublish (s : State) (a1 : ObjCommand) (a2 : OdtEntry) : Keep 4194498 s (beginPublish s a1 a2) := by
  unfold beginPublish
  try dsimp only
  with_reducible repeat' first
    | apply Keep.refl | assumption | apply (keep_completeObj _ _ _ _).after
    | apply (keep_protectRange _ _ _ _).after | apply (keep_chooseEntry _).after | apply (keep_takeLease _ _).after
    | apply (keep_setOdt _ _ _).after | split | dsimp only
    | (apply Keep.lit; on_goal 2 => (constructor <;> first | exact .inr rfl | exact .inl rfl | exact .of rfl rfl rfl rfl rfl rfl rfl))
  all_goals rfl

theorem keep_domainDone (s : State) (a1 : Nat) : Keep 4194372 s (domainDone s a1) := by
  unfold domainDone
  with_reducible repeat' first
    | apply Keep.refl | assumption | apply (keep_notify _ _ _).after
    | apply (keep_putF _ _ _).after | split
  all_goals rfl

theorem keep_beginScan (s : State) (a1 : Nat) (a2 : ScanKind) : Keep 4198468 s (beginScan s a1 a2) := by
  unfold beginScan
  try dsimp only
  with_reducible repeat' first
    | apply Keep.refl | assumption | apply (keep_domainDone _ _).after
    | apply (keep_putF _ _ _).after | split | dsimp only
    | (apply Keep.lit; on_goal 2 => (constructor <;> first | exact .inr rfl | exact .inl rfl | exact .of rfl rfl rfl rfl rfl rfl rfl))
  all_goals rfl

theorem keep_putDeficit (s : State) (a1 a2 : Nat) (a3 : ℤ) : Keep 1024 s (putDeficit s a1 a2 a3) := by
  unfold putDeficit
  with_reducible repeat' first
    | apply Keep.refl | assumption | split | dsimp only
    | (apply Keep.lit; on_goal 2 => (constructor <;> first | exact .inr rfl | exact .inl rfl | exact .of rfl rfl rfl rfl rfl rfl rfl))
  all_goals rfl

theorem keep_creditAll (s : State) (a1 a2 a3 : Nat) (a4 : List Nat) : Keep 1024 s (creditAll s a1 a2 a3 a4) := by
  unfold creditAll
  try dsimp only
  with_reducible repeat' first
    | (intro) | apply Keep.refl | assumption | apply (keep_putDeficit _ _ _ _).after
    | apply Keep.foldl | dsimp only
  all_goals rfl

theorem keep_roundFrom (a0 : Nat) (a1 : Nat → Bool) (a2 : List Nat) (s : State) : Keep 1024 s (roundFrom a0 a1 a2 s).2 := by
  fun_induction roundFrom a0 a1 a2 s
  all_goals (try dsimp only)
  with_reducible repeat' first
    | apply Keep.refl | assumption | apply (keep_putDeficit _ _ _ _).after
    | apply Keep.after (by assumption) | split
  all_goals rfl

theorem keep_pickTenant (s : State) (a1 : Nat) (a2 : Nat → Bool) : Keep 1024 s (pickTenant s a1 a2).2 := by
  unfold pickTenant
  try dsimp only
  with_reducible repeat' first
    | (intro) | apply Keep.refl | assumption | apply (keep_roundFrom _ _ _ _).after
    | apply (keep_creditAll _ _ _ _ _).after | apply (keep_putDeficit _ _ _ _).after | apply (keep_setPointer _ _ _).after
    | apply Keep.foldl2 | apply Keep.foldl | split | dsimp only
  all_goals rfl

theorem keep_readHost (s : State) (a1 a2 a3 : Nat) : Keep 4194304 s (readHost s a1 a2 a3) := by
  unfold readHost
  with_reducible repeat' first
    | apply Keep.refl | assumption | apply (keep_emit _ _).after
  all_goals rfl

theorem keep_refuseSlot (s : State) (a1 : Nat) : Keep 4 s (refuseSlot s a1) := by
  unfold refuseSlot
  try dsimp only
  with_reducible repeat' first
    | apply Keep.refl | assumption | apply (keep_satF _ _).after | apply (keep_putF _ _ _).after
    | split | dsimp only
  all_goals rfl

theorem keep_hostTree (s : State) (a1 : Nat) (a2 : ModelDescriptor) (a3 : Option (List Byte)) :
    Keep 4194308 s (hostTree s a1 a2 a3).2 := by
  unfold hostTree
  try dsimp only
  with_reducible repeat' first
    | apply Keep.refl | assumption | apply (keep_refuseSlot _ _).after
    | apply (keep_readHost _ _ _ _).after | split | dsimp only
  all_goals rfl

theorem keep_chooseTree (s : State) (a1 : Nat) (a2 : ModelDescriptor) (a3 : Option (List Byte)) :
    Keep 4194308 s (chooseTree s a1 a2 a3).2 := by
  unfold chooseTree
  try dsimp only
  with_reducible repeat' first
    | apply Keep.refl | assumption | apply (keep_hostTree _ _ _ _).after | split | dsimp only
    | (apply Keep.lit; on_goal 2 => (constructor <;> first | exact .inr rfl | exact .inl rfl | exact .of rfl rfl rfl rfl rfl rfl rfl))
  all_goals rfl

theorem keep_noteSource (s : State) (a1 : Nat) (a2 : ChosenTree) : Keep 2048 s (noteSource s a1 a2) := by
  unfold noteSource
  with_reducible repeat' first
    | (intro) | apply Keep.refl | assumption | apply (keep_modEntry _ _ _).after | split
    | dsimp only
    | (apply Keep.lit; on_goal 2 => (constructor <;> first | exact .inr rfl | exact .inl rfl | exact .of rfl rfl rfl rfl rfl rfl rfl))
  all_goals rfl

theorem keep_startRecompute (s : State) (a1 : Nat) : Keep 2048 s (startRecompute s a1) := by
  unfold startRecompute
  with_reducible repeat' first
    | (intro) | apply Keep.refl | assumption | apply (keep_setInput _ _ _).after
    | apply (keep_modEntry _ _ _).after | dsimp only
    | (apply Keep.lit; on_goal 2 => (constructor <;> first | exact .inr rfl | exact .inl rfl | exact .of rfl rfl rfl rfl rfl rfl rfl))
  all_goals rfl

theorem keep_scheduleDropped (s : State) (a1 : Nat) : Keep 4943054 s (scheduleDropped s a1) := by
  unfold scheduleDropped
  with_reducible repeat' first
    | apply Keep.refl | assumption | apply (keep_startRecompute _ _).after
    | apply (keep_endRecompute _ _).after | split
  all_goals rfl

theorem keep_keepDropped (a0 : Manifest) (s : State) (a2 a3 a4 : Nat) : Keep 2048 s (keepDropped a0 s a2 a3 a4) := by
  unfold keepDropped
  try dsimp only
  with_reducible repeat' first
    | (intro) | apply Keep.refl | assumption | apply (keep_setPageEntry _ _ _ _ _).after
    | apply Keep.foldl | split | dsimp only
    | (apply Keep.lit; on_goal 2 => (constructor <;> first | exact .inr rfl | exact .inl rfl | exact .of rfl rfl rfl rfl rfl rfl rfl))
  all_goals rfl

theorem keep_historyUnit (s : State) (a1 a2 : Nat) : Keep 2178 s (historyUnit s a1 a2).2 := by
  unfold historyUnit
  try dsimp only
  with_reducible repeat' first
    | apply Keep.refl | assumption | apply (keep_allocUnit _).after
    | apply (keep_setManifest _ _ _).after | split | dsimp only
    | (apply Keep.lit; on_goal 2 => (constructor <;> first | exact .inr rfl | exact .inl rfl | exact .of rfl rfl rfl rfl rfl rfl rfl))
  all_goals rfl

theorem keep_needHistory (s : State) (a1 a2 : Nat) : Keep 2178 s (needHistory s a1 a2).2 := by
  unfold needHistory
  try dsimp only
  with_reducible repeat' first
    | (intro) | apply Keep.refl | assumption | apply (keep_historyUnit _ _ _).after
    | apply (keep_allocUnit _).after | apply (keep_setManifest _ _ _).after | apply Keep.foldl2 | apply Keep.foldl | split
    | dsimp only
    | (apply Keep.lit; on_goal 2 => (constructor <;> first | exact .inr rfl | exact .inl rfl | exact .of rfl rfl rfl rfl rfl rfl rfl))
  all_goals rfl

theorem keep_needTail (s : State) (a1 : Composition) (a2 : ModelDescriptor) (a3 a4 a5 : Nat) :
    Keep 67726 s (needTail s a1 a2 a3 a4 a5).2 := by
  unfold needTail
  try dsimp only
  with_reducible repeat' first
    | apply Keep.refl | assumption | apply (keep_copyOnWrite _ _ _ _ _ _ _ _).after | split
    | dsimp only
  all_goals rfl

theorem keep_needTails (a0 : Composition) (a1 : ModelDescriptor) (a2 : Nat) (a3 : List (Nat × Nat)) (s : State) :
    Keep 67726 s (needTails a0 a1 a2 a3 s).2 := by
  fun_induction needTails a0 a1 a2 a3 s
  all_goals (try dsimp only)
  with_reducible repeat' first
    | apply Keep.refl | assumption | apply (keep_needTail _ _ _ _ _ _).after
    | apply Keep.after (by assumption) | split | dsimp only
  all_goals rfl

theorem keep_takePages (s : State) (a1 : Composition) (a2 : ModelDescriptor) (a3 : Nat) (a4 : NextWork) :
    Keep 67726 s (takePages s a1 a2 a3 a4).2 := by
  unfold takePages
  try dsimp only
  with_reducible repeat' first
    | apply Keep.refl | assumption | apply (keep_needTails _ _ _ _ _).after
    | apply (keep_needHistory _ _ _).after | apply (keep_keepDropped _ _ _ _ _).after | split | dsimp only
  all_goals rfl

theorem keep_preparePart (s : State) (a1 : Composition) (a2 : ModelDescriptor) (a3 : Nat) (a4 : NextWork) (a5 : Option (List Byte)) :
    Keep 4943054 s (preparePart s a1 a2 a3 a4 a5).2 := by
  unfold preparePart
  try dsimp only
  with_reducible repeat' first
    | (intro) | apply Keep.refl | assumption | apply (keep_takePages _ _ _ _ _).after
    | apply (keep_scheduleDropped _ _).after | apply (keep_noteSource _ _ _).after | apply (keep_chooseTree _ _ _ _).after
    | apply (keep_waitFor _ _ _).after | apply (keep_setInput _ _ _).after | split | dsimp only
    | (apply Keep.lit; on_goal 2 => (constructor <;> first | exact .inr rfl | exact .inl rfl | exact .of rfl rfl rfl rfl rfl rfl rfl))
  all_goals rfl

theorem keep_fillBatch (a0 : Nat) (a1 : Composition) (a2 : ModelDescriptor) (a3 : State → Nat → Bool) (a4 : List (Nat × List Byte)) (a5 a6 : Nat) (a7 : List StepReq) (s : State) :
    Keep 4943054 s (fillBatch a0 a1 a2 a3 a4 a5 a6 a7 s).2 := by
  fun_induction fillBatch a0 a1 a2 a3 a4 a5 a6 a7 s
  all_goals (try dsimp only)
  with_reducible repeat' first
    | (intro) | apply Keep.refl | assumption | apply (keep_preparePart _ _ _ _ _ _).after
    | apply (keep_pickTenant _ _ _).after | apply (keep_advancePointer _ _ _).after | apply Keep.after (by assumption) | split
    | dsimp only
  all_goals rfl

theorem keep_beginStep (s : State) (a1 a2 : Nat) (a3 : Composition) (a4 : ModelDescriptor) (a5 : Kernel) (a6 : Option LayerWork) (a7 : List (Nat × List Byte)) :
    Keep 4943054 s (beginStep s a1 a2 a3 a4 a5 a6 a7).2 := by
  unfold beginStep
  try dsimp only
  with_reducible repeat' first
    | (intro) | apply Keep.refl | assumption | apply (keep_fillBatch _ _ _ _ _ _ _ _ _).after
    | apply (keep_newStep _ _).after | split | dsimp only
    | (apply Keep.lit; on_goal 2 => (constructor <;> first | exact .inr rfl | exact .inl rfl | exact .of rfl rfl rfl rfl rfl rfl rfl))
  all_goals rfl

theorem keep_sendCopy (s : State) (a1 : List MirrorBody) : Keep 655362 s (sendCopy s a1) := by
  fun_induction sendCopy s a1
  all_goals (try dsimp only)
  with_reducible repeat' first
    | apply Keep.refl | assumption | apply (keep_sendRecord _ _ _).after
    | apply Keep.after (by assumption) | dsimp only
    | (apply Keep.lit; on_goal 2 => (constructor <;> first | exact .inr rfl | exact .inl rfl | exact .of rfl rfl rfl rfl rfl rfl rfl))
  all_goals rfl

theorem keep_beginSwitch (s : State) : Keep 657538 s (beginSwitch s) := by
  unfold beginSwitch
  extract_lets _ s1 _ _ bodies s2
  have h1 : Keep 657538 s s1 := by
    constructor <;> first | exact .inr rfl | exact .inl rfl | exact .of rfl rfl rfl rfl rfl rfl rfl
  have h2 : Keep 657538 s1 s2 := Keep.comp ((keep_sendCopy _ _).mono rfl) (keep_markMirrored _ _) rfl
  refine (h1.trans h2).trans ?_
  clear h1 h2
  clear_value s2
  split
  · constructor <;> first | exact .inr rfl | exact .inl rfl | exact .of rfl rfl rfl rfl rfl rfl rfl
  · exact Keep.refl _ _

theorem keep_ucodeStatus (s : State) (a1 : Nat) : Keep 4 s (ucodeStatus s a1) := by
  unfold ucodeStatus
  with_reducible repeat' first
    | apply Keep.refl | assumption | apply (keep_putF _ _ _).after | split
  all_goals rfl

theorem keep_faultSlot (s : State) (a1 a2 : Nat) : Keep 4194884 s (faultSlot s a1 a2) := by
  unfold faultSlot
  with_reducible repeat' first
    | apply Keep.refl | assumption | apply (keep_ucodeStatus _ _).after
    | apply (keep_attnNotify _).after | apply (keep_setSlot _ _ _).after | split | dsimp only
    | (apply Keep.lit; on_goal 2 => (constructor <;> first | exact .inr rfl | exact .inl rfl | exact .of rfl rfl rfl rfl rfl rfl rfl))
  all_goals rfl

theorem keep_beginUcode (s : State) (a1 a2 : Nat) : Keep 4195014 s (beginUcode s a1 a2) := by
  unfold beginUcode
  try dsimp only
  with_reducible repeat' first
    | (intro) | apply Keep.refl | assumption | apply (keep_faultSlot _ _ _).after
    | apply (keep_ucodeStatus _ _).after | apply (keep_setSlot _ _ _).after | apply (keep_takeLease _ _).after
    | apply (keep_chooseFree _ _ _ _).after | split | dsimp only
    | (apply Keep.lit; on_goal 2 => (constructor <;> first | exact .inr rfl | exact .inl rfl | exact .of rfl rfl rfl rfl rfl rfl rfl))
  all_goals rfl

theorem keep_dropShares (s : State) (a1 : Nat) : Keep 1024 s (dropShares s a1) := by
  unfold dropShares
  with_reducible repeat' first
    | (intro) | apply Keep.refl | assumption | dsimp only
    | (apply Keep.lit; on_goal 2 => (constructor <;> first | exact .inr rfl | exact .inl rfl | exact .of rfl rfl rfl rfl rfl rfl rfl))
  all_goals rfl

theorem keep_dropSteps (s : State) (a1 : Nat) : Keep 1792 s (dropSteps s a1) := by
  unfold dropSteps
  with_reducible repeat' first
    | (intro) | apply Keep.refl | assumption | apply (keep_endStep _ _).after | apply Keep.foldl
    | split | dsimp only
  all_goals rfl

theorem keep_removeComposition (s : State) (a1 : Nat) : Keep 4228 s (removeComposition s a1) := by
  unfold removeComposition
  try dsimp only
  with_reducible repeat' first
    | (intro) | apply Keep.refl | assumption | apply (keep_dropRecord _ _).after
    | apply Keep.foldl | dsimp only
    | (apply Keep.lit; on_goal 2 => (constructor <;> first | exact .inr rfl | exact .inl rfl | exact .of rfl rfl rfl rfl rfl rfl rfl))
  all_goals rfl

theorem keep_tieRegions (s : State) (a1 : List Nat) (a2 : Option CompNo) : Keep 256 s (tieRegions s a1 a2) := by
  unfold tieRegions
  with_reducible repeat' first
    | (intro) | apply Keep.refl | assumption | apply (keep_setRegion _ _ _).after
    | apply Keep.foldl | dsimp only
    | (apply Keep.lit; on_goal 2 => (constructor <;> first | exact .inr rfl | exact .inl rfl | exact .of rfl rfl rfl rfl rfl rfl rfl))
  all_goals rfl

theorem keep_beginUnbind (s : State) (a1 : Nat) (a2 : Composition) : Keep 6020 s (beginUnbind s a1 a2) := by
  unfold beginUnbind
  try dsimp only
  with_reducible repeat' first
    | (intro) | apply Keep.refl | assumption | apply (keep_tieRegions _ _ _).after
    | apply (keep_removeComposition _ _).after | apply (keep_dropSteps _ _).after | apply (keep_dropShares _ _).after
    | apply (keep_setComp _ _ _).after | dsimp only
    | (apply Keep.lit; on_goal 2 => (constructor <;> first | exact .inr rfl | exact .inl rfl | exact .of rfl rfl rfl rfl rfl rfl rfl))
  all_goals rfl

theorem keep_blockFor (s : State) (a1 : Bool) : Keep 2 s (blockFor s a1).2 := by
  unfold blockFor
  with_reducible repeat' first
    | apply Keep.refl | assumption | apply (keep_chooseFree _ _ _ _).after | split
  all_goals rfl

theorem keep_reply (s : State) (a1 : RstHeader) (a2 : RstMsg) (a3 : RstStatus) (a4 : Nat) :
    Keep 4876358 s (reply s a1 a2 a3 a4) := by
  unfold reply
  with_reducible repeat' first
    | apply Keep.refl | assumption | apply (keep_sendRst _ _).after | dsimp only
    | (apply Keep.lit; on_goal 2 => (constructor <;> first | exact .inr rfl | exact .inl rfl | exact .of rfl rfl rfl rfl rfl rfl rfl))
  all_goals rfl

theorem keep_blockPlace (s : State) (a1 : RstHeader) (a2 a3 : Nat) (t : State) (h : blockPlace s a1 a2 a3 = some t) :
    Keep 4876358 s t := by
  unfold blockPlace at h
  try dsimp only at h
  repeat' split at h
  all_goals (first | cases h | skip)
  with_reducible repeat' first
    | apply Keep.refl | assumption | apply (keep_reply _ _ _ _ _).after | split | dsimp only
  all_goals rfl

theorem keep_failStart (s : State) (a1 : Nat) : Keep 4194384 s (failStart s a1) := by
  unfold failStart
  with_reducible repeat' first
    | apply Keep.refl | assumption | apply (keep_notify _ _ _).after | split | dsimp only
    | (apply Keep.lit; on_goal 2 => (constructor <;> first | exact .inr rfl | exact .inl rfl | exact .of rfl rfl rfl rfl rfl rfl rfl))
  all_goals rfl

theorem keep_cacheDigest (s : State) (a1 : BitVec 384) : Keep 258 s (cacheDigest s a1) := by
  unfold cacheDigest
  try dsimp only
  with_reducible repeat' first
    | apply Keep.refl | assumption | apply (keep_drawFree _).after | split | dsimp only
    | (apply Keep.lit; on_goal 2 => (constructor <;> first | exact .inr rfl | exact .inl rfl | exact .of rfl rfl rfl rfl rfl rfl rfl))
  all_goals rfl

theorem keep_checkSignature (s : State) (a1 : Image) : Keep 258 s (checkSignature s a1).2 := by
  unfold checkSignature
  with_reducible repeat' first
    | apply Keep.refl | assumption | apply (keep_cacheDigest _ _).after | split
  all_goals rfl

theorem keep_verifyPackage (s : State) (a1 : Image) : Keep 258 s (verifyPackage s a1).2 := by
  unfold verifyPackage
  try dsimp only
  with_reducible repeat' first
    | apply Keep.refl | assumption | apply (keep_checkSignature _ _).after | split | dsimp only
  all_goals rfl

theorem keep_placePackage (s : State) (a1 : Nat) (a2 : Option Image) : Keep 262 s (placePackage s a1 a2) := by
  unfold placePackage
  try dsimp only
  with_reducible repeat' first
    | apply Keep.refl | assumption | apply (keep_verifyPackage _ _).after
    | apply (keep_pkgStatus _ _).after | apply (keep_putF _ _ _).after | split | dsimp only
    | (apply Keep.lit; on_goal 2 => (constructor <;> first | exact .inr rfl | exact .inl rfl | exact .of rfl rfl rfl rfl rfl rfl rfl))
  all_goals rfl

theorem keep_flashError (s : State) (a1 : Nat) : Keep 4194372 s (flashError s a1) := by
  unfold flashError
  try dsimp only
  with_reducible repeat' first
    | (intro) | apply Keep.refl | assumption | apply (keep_notify _ _ _).after
    | apply (keep_satF _ _).after | apply (keep_latch _ _ _ _ ?_ ?_).next | apply (keep_putF _ _ _).after | split | dsimp only
  all_goals rfl

theorem keep_slateError (s : State) (a1 : Nat) : Keep 4194372 s (slateError s a1) := by
  unfold slateError
  try dsimp only
  with_reducible repeat' first
    | (intro) | apply Keep.refl | assumption | apply (keep_notify _ _ _).after
    | apply (keep_satF _ _).after | apply (keep_latch _ _ _ _ ?_ ?_).next | apply (keep_putF _ _ _).after | split | dsimp only
  all_goals rfl

theorem keep_readFailed (s : State) (a1 : OdtEntry) (a2 : Nat) : Keep 4194372 s (readFailed s a1 a2) := by
  unfold readFailed
  with_reducible repeat' first
    | apply Keep.refl | assumption | apply (keep_slateError _ _).after
    | apply (keep_flashError _ _).after | split
  all_goals rfl

theorem keep_readImage (s : State) (a1 : Nat) (a2 : ReadEnd) : Keep 4194372 s (readImage s a1 a2).2 := by
  unfold readImage
  try dsimp only
  with_reducible repeat' first
    | apply Keep.refl | assumption | apply (keep_readFailed _ _ _).after
    | apply (keep_askHost _ _).after | split | dsimp only
  all_goals rfl

theorem keep_reloadPackage (s : State) (a1 : ReadEnd) : Keep 4194630 s (reloadPackage s a1) := by
  unfold reloadPackage
  try dsimp only
  with_reducible repeat' first
    | apply Keep.refl | assumption | apply (keep_readImage _ _ _).after
    | apply (keep_placePackage _ _ _).after | apply (keep_pkgStatus _ _).after | apply (keep_putF _ _ _).after | split
    | dsimp only
  all_goals rfl

theorem keep_sendBinds (s : State) : Keep 6291456 s (sendBinds s) := by
  unfold sendBinds
  with_reducible repeat' first
    | (intro) | apply Keep.refl | assumption | apply (keep_sendFeed _ _).after
    | apply Keep.foldl2 | apply Keep.foldl | split | dsimp only
  all_goals rfl

theorem keep_sendSeal (s : State) : Keep 6291456 s (sendSeal s) := by
  unfold sendSeal
  try dsimp only
  with_reducible repeat' first
    | (intro) | apply Keep.refl | assumption | apply (keep_sendFeed _ _).after | split
    | dsimp only
  all_goals rfl

theorem keep_trainSlate (s : State) (a1 : List (Nat × Nat × Bool)) : Keep 4 s (trainSlate s a1) := by
  unfold trainSlate
  try dsimp only
  with_reducible repeat' first
    | (intro) | apply Keep.refl | assumption | apply (keep_putF _ _ _).after | split | dsimp only
  all_goals rfl

theorem keep_runFirmware (s : State) (a1 : ResetKind) (a2 : StartFacts) : Keep 6291798 s (runFirmware s a1 a2) := by
  unfold runFirmware
  try dsimp only
  with_reducible repeat' first
    | (intro) | apply Keep.refl | assumption | apply (keep_trainSlate _ _).after
    | apply (keep_sendSeal _).after | apply (keep_sendBinds _).after | apply (keep_reloadPackage _ _).after
    | apply (keep_failStart _ _).after | apply (keep_becomeReady _).after | apply (keep_emit _ _).after | split | dsimp only
    | (apply Keep.lit; on_goal 2 => (constructor <;> first | exact .inr rfl | exact .inl rfl | exact .of rfl rfl rfl rfl rfl rfl rfl))
  all_goals rfl

theorem keep_bootFirmware (s : State) (a1 : ResetKind) (a2 : StartFacts) : Keep 6291798 s (bootFirmware s a1 a2) := by
  unfold bootFirmware
  try dsimp only
  with_reducible repeat' first
    | apply Keep.refl | assumption | apply (keep_runFirmware _ _ _).after
    | apply (keep_failStart _ _).after | split | dsimp only
    | (apply Keep.lit; on_goal 2 => (constructor <;> first | exact .inr rfl | exact .inl rfl | exact .of rfl rfl rfl rfl rfl rfl rfl))
  all_goals rfl

theorem keep_writeIvory (s : State) (a1 a2 : Nat) (a3 : List Byte) : Keep 256 s (writeIvory s a1 a2 a3) := by
  unfold writeIvory
  with_reducible repeat' first
    | apply Keep.refl | assumption | apply (keep_setRegion _ _ _).after | dsimp only
    | (apply Keep.lit; on_goal 2 => (constructor <;> first | exact .inr rfl | exact .inl rfl | exact .of rfl rfl rfl rfl rfl rfl rfl))
  all_goals rfl

theorem keep_restoreContext (s : State) (a1 a2 : Nat) : Keep 1280 s (restoreContext s a1 a2) := by
  unfold restoreContext
  try dsimp only
  with_reducible repeat' first
    | (intro) | apply Keep.refl | assumption | apply (keep_writeIvory _ _ _ _).after
    | apply (keep_setSave _ _ _ _).after | apply (keep_setStep _ _ _).after | apply Keep.foldl2 | apply Keep.foldl | split
    | dsimp only
    | (apply Keep.lit; on_goal 2 => (constructor <;> first | exact .inr rfl | exact .inl rfl | exact .of rfl rfl rfl rfl rfl rfl rfl))
  all_goals rfl

theorem keep_saveUnit (s : State) (a1 : Nat) (a2 : Unit) (a3 : Nat) (t : State) (h : saveUnit s a1 a2 a3 = some t) :
    Keep 1282 s t := by
  unfold saveUnit at h
  try dsimp only at h
  repeat' split at h
  all_goals (first | cases h | skip)
  with_reducible repeat' first
    | (intro) | apply Keep.refl | assumption | apply (keep_setSave _ _ _ _).after
    | apply (keep_setRunning _ _ _).after | apply (keep_setStep _ _ _).after | apply (keep_chooseFree _ _ _ _).after | split
    | dsimp only
    | (apply Keep.lit; on_goal 2 => (constructor <;> first | exact .inr rfl | exact .inl rfl | exact .of rfl rfl rfl rfl rfl rfl rfl))
  all_goals rfl

theorem keep_bringStep (s : State) (a1 a2 : Nat) : Keep 1282 s (bringStep s a1 a2) := by
  unfold bringStep
  with_reducible repeat' first
    | apply Keep.refl | assumption
    | apply (keep_saveUnit _ _ _ _ _ ‹saveUnit _ _ _ _ = some _›).after | apply (keep_restoreContext _ _ _).after | split
  all_goals rfl

theorem keep_burnRepair (s : State) (a1 a2 : Nat) : Keep 16 s (burnRepair s a1 a2) := by
  unfold burnRepair
  with_reducible repeat' first
    | apply Keep.refl | assumption | split | dsimp only
    | (apply Keep.lit; on_goal 2 => (constructor <;> first | exact .inr rfl | exact .inl rfl | exact .of rfl rfl rfl rfl rfl rfl rfl))
  all_goals rfl

theorem keep_burnSlot (s : State) (k : Nat) (bs : List Byte) : Keep 16 s (burnSlot s k bs) := by
  have h : Lasts s (burnSlot s k bs) := by
    refine ⟨id, fun a i h => ?_, id, Nat.le_refl _, id, id⟩
    unfold Safety.burned at h ⊢
    change (tabGet 0 (tabPutRun 0 s.plt.fuses (512 * k) ((slotBytes s k 0 512).zipWith (fun a b => a ||| b) bs)) a).getLsbD i = true
    rw [tabGet_putRun]
    split
    · next hx =>
      rw [List.getElem_zipWith]
      have e : (slotBytes s k 0 512)[a - 512 * k]'(by
          have := hx.2
          rw [List.length_zipWith] at this
          omega) = tabGet 0 s.plt.fuses a := by
        unfold slotBytes
        rw [getElem_tabGetRun]
        congr 1
        omega
      rw [e, BitVec.getLsbD_or, h]
      rfl
    · exact h
  constructor <;> first | exact .inr rfl | exact .inl rfl | exact h

theorem keep_burnStatus (s : State) (a1 : Nat) : Keep 4 s (burnStatus s a1) := by
  unfold burnStatus
  with_reducible repeat' first
    | apply Keep.refl | assumption | apply (keep_putF _ _ _).after
  all_goals rfl

theorem keep_passChain (s : State) (a1 : List Byte) : Keep 4194304 s (passChain s a1) := by
  unfold passChain
  with_reducible repeat' first
    | apply Keep.refl | assumption | apply (keep_emit _ _).after
  all_goals rfl

theorem keep_ringHeard (s : State) : Keep 4 s (ringHeard s) := by
  unfold ringHeard
  with_reducible repeat' first
    | apply Keep.refl | assumption | apply (keep_putF _ _ _).after | split
  all_goals rfl

theorem keep_chainRow {w : Nat} (s : State) (h : ChainHead) (bytes : List Byte) (effect : State → State)
    (hw : 4876486 &&& w = 4876486) (he : ∀ u, Keep w u (effect u)) : KeepO w s (chainRow s h bytes effect) := by
  unfold chainRow
  refine keep_act s _ _ hw ?_
  intro u
  dsimp only
  have a : Keep w u (ringHeard u) := (keep_ringHeard u).mono (Keep.landTrans rfl hw)
  have b : ∀ x, Keep w x (passChain x bytes) := fun x => (keep_passChain x bytes).mono (Keep.landTrans rfl hw)
  have c : ∀ x, Keep w x (satF x F.pltChain.crcErrors) := fun x => (keep_satF x _).mono (Keep.landTrans rfl hw)
  split
  · exact (a.trans (c _)).trans (b _)
  · split
    · exact (a.trans (b _)).trans (he _)
    · split
      · exact a.trans (he _)
      · exact a.trans (b _)

theorem keep_setMeterComp (s : State) (a1 : Nat) (a2 : Option MeterComp) : Keep 1048576 s (setMeterComp s a1 a2) := by
  unfold setMeterComp
  with_reducible repeat' first
    | apply Keep.refl | assumption | dsimp only
    | (apply Keep.lit; on_goal 2 => (constructor <;> first | exact .inr rfl | exact .inl rfl | exact .of rfl rfl rfl rfl rfl rfl rfl))
  all_goals rfl

theorem keep_changeComp (s : State) (a1 : Nat) (a2 : CompositionBody) (a3 : MeterComp) :
    Keep 5242880 s (changeComp s a1 a2 a3) := by
  unfold changeComp
  try dsimp only
  with_reducible repeat' first
    | apply Keep.refl | assumption | apply (keep_setMeterComp _ _ _).after
    | apply (keep_logNow _ _ _).after | dsimp only
    | (apply Keep.lit; on_goal 2 => (constructor <;> first | exact .inr rfl | exact .inl rfl | exact .of rfl rfl rfl rfl rfl rfl rfl))
  all_goals rfl

theorem keep_charcoalCommand (s : State) : Keep 6291556 s (charcoalCommand s) := by
  unfold charcoalCommand
  try dsimp only
  with_reducible repeat' first
    | apply Keep.refl | assumption | apply (keep_pwrStatus _ _).after
    | apply (keep_setPwrState _ _).after | apply (keep_pwrNotify _).after | apply (keep_sendPower _ _).after | split
    | dsimp only
    | (apply Keep.lit; on_goal 2 => (constructor <;> first | exact .inr rfl | exact .inl rfl | exact .of rfl rfl rfl rfl rfl rfl rfl))
  all_goals rfl

theorem keep_clearBlob (s : State) (a1 : Field) (a2 : Nat) : Keep 4 s (clearBlob s a1 a2) := by
  unfold clearBlob
  with_reducible repeat' first
    | (intro) | apply Keep.refl | assumption | apply (keep_putF _ _ _).after | apply Keep.foldl
    | dsimp only
  all_goals rfl

theorem keep_clearBlock (s : State) (a1 a2 a3 : Nat) : Keep 2180 s (clearBlock s a1 a2 a3) := by
  unfold clearBlock
  with_reducible repeat' first
    | (intro) | apply Keep.refl | assumption | apply (keep_clearPage _ _ _ _).after
    | apply Keep.foldl | dsimp only
  all_goals rfl

theorem keep_clearCache (s : State) (a1 : Nat) : Keep 65536 s (clearCache s a1) := by
  unfold clearCache
  with_reducible repeat' first
    | (intro) | apply Keep.refl | assumption | apply (keep_leaveLine _ _ _).after
    | apply Keep.foldl | dsimp only
  all_goals rfl

theorem keep_setGcm (s : State) (a1 : Nat) (a2 : GcmSlot) : Keep 16384 s (setGcm s a1 a2) := by
  unfold setGcm
  with_reducible repeat' first
    | apply Keep.refl | assumption | dsimp only
    | (apply Keep.lit; on_goal 2 => (constructor <;> first | exact .inr rfl | exact .inl rfl | exact .of rfl rfl rfl rfl rfl rfl rfl))
  all_goals rfl

theorem keep_clearGcm (s : State) (a1 : Nat) : Keep 16388 s (clearGcm s a1) := by
  unfold clearGcm
  try dsimp only
  with_reducible repeat' first
    | apply Keep.refl | assumption | apply (keep_setGcm _ _ _).after
    | apply (keep_clearBlob _ _ _).after | apply (keep_putF _ _ _).after | dsimp only
    | (apply Keep.lit; on_goal 2 => (constructor <;> first | exact .inr rfl | exact .inl rfl | exact .of rfl rfl rfl rfl rfl rfl rfl))
  all_goals rfl

theorem keep_clearPoison (s : State) (a1 a2 : Nat) : Keep 65536 s (clearPoison s a1 a2) := by
  unfold clearPoison
  with_reducible repeat' first
    | (intro) | apply Keep.refl | assumption | apply (keep_setHomeLine _ _ _).after
    | apply Keep.foldl | split | dsimp only
    | (apply Keep.lit; on_goal 2 => (constructor <;> first | exact .inr rfl | exact .inl rfl | exact .of rfl rfl rfl rfl rfl rfl rfl))
  all_goals rfl

theorem keep_clearSticky (s : State) (a1 : Nat) : Keep 4 s (clearSticky s a1) := by
  unfold clearSticky
  with_reducible repeat' first
    | apply Keep.refl | assumption | apply (keep_putF _ _ _).after
  all_goals rfl

theorem keep_setXts (s : State) (a1 : Nat) (a2 : Option (BitVec 512)) : Keep 128 s (setXts s a1 a2) := by
  unfold setXts
  with_reducible repeat' first
    | apply Keep.refl | assumption | dsimp only
    | (apply Keep.lit; on_goal 2 => (constructor <;> first | exact .inr rfl | exact .inl rfl | exact .of rfl rfl rfl rfl rfl rfl rfl))
  all_goals rfl

theorem keep_clearXts (s : State) (a1 : Nat) : Keep 132 s (clearXts s a1) := by
  unfold clearXts
  with_reducible repeat' first
    | apply Keep.refl | assumption | apply (keep_setXts _ _ _).after
    | apply (keep_clearBlob _ _ _).after | apply (keep_putF _ _ _).after
  all_goals rfl

theorem keep_closeComp (t energy cause : Nat) (s : State) (c : Nat) : Keep 5242880 s (closeComp t energy cause s c) := by
  unfold closeComp
  split
  · exact Keep.refl _ _
  · exact (keep_logRecord _ _ _ _ _).comp (keep_setMeterComp _ _ _) rfl

theorem keep_interruptBurn (s : State) : Keep 18 s (interruptBurn s) := by
  unfold interruptBurn
  try dsimp only
  with_reducible repeat' first
    | (intro) | apply Keep.refl | assumption | apply (keep_burnSlot _ _ _).after | split
    | dsimp only
    | (apply Keep.lit; on_goal 2 => (constructor <;> first | exact .inr rfl | exact .inl rfl | exact .of rfl rfl rfl rfl rfl rfl rfl))
  all_goals rfl

theorem keep_setIdleSlot (s : State) (a1 : Option Image) : Keep 16 s (setIdleSlot s a1) := by
  unfold setIdleSlot
  with_reducible repeat' first
    | apply Keep.refl | assumption | split | dsimp only
    | (apply Keep.lit; on_goal 2 => (constructor <;> first | exact .inr rfl | exact .inl rfl | exact .of rfl rfl rfl rfl rfl rfl rfl))
  all_goals rfl

theorem keep_interruptStage (s : State) : Keep 18 s (interruptStage s) := by
  unfold interruptStage
  try dsimp only
  with_reducible repeat' first
    | apply Keep.refl | assumption | apply (keep_setIdleSlot _ _).after
    | apply (keep_pick _ _).after | split | dsimp only
    | (apply Keep.lit; on_goal 2 => (constructor <;> first | exact .inr rfl | exact .inl rfl | exact .of rfl rfl rfl rfl rfl rfl rfl))
  all_goals rfl

theorem keep_stopWrites (s : State) : Keep 18 s (stopWrites s) := by
  unfold stopWrites
  with_reducible repeat' first
    | apply Keep.refl | assumption | apply (keep_interruptStage _).after
    | apply (keep_interruptBurn _).after
  all_goals rfl

theorem keep_coldState (s : State) : Keep 3145726 s (coldState s) := by
  refine Keep.trans (t := stopWrites s) ((keep_stopWrites s).mono rfl) ?_
  unfold coldState
  generalize stopWrites s = u
  dsimp only
  constructor <;> first | exact .inr rfl | exact .inl rfl | exact ⟨fun _ => rfl, fun _ _ h => h, id, Nat.le_refl _, id, id⟩

theorem keep_setFlashBlock (s : State) (a1 : Nat) (a2 : FlashBlock) : Keep 262144 s (setFlashBlock s a1 a2) := by
  unfold setFlashBlock
  with_reducible repeat' first
    | apply Keep.refl | assumption | dsimp only
    | (apply Keep.lit; on_goal 2 => (constructor <;> first | exact .inr rfl | exact .inl rfl | exact .of rfl rfl rfl rfl rfl rfl rfl))
  all_goals rfl

theorem keep_retireBlock (s : State) (a1 : Nat) : Keep 4456512 s (retireBlock s a1) := by
  unfold retireBlock
  with_reducible repeat' first
    | apply Keep.refl | assumption | apply (keep_setFlashBlock _ _ _).after
    | apply (keep_notify _ _ _).after | split | dsimp only
    | (apply Keep.lit; on_goal 2 => (constructor <;> first | exact .inr rfl | exact .inl rfl | exact .of rfl rfl rfl rfl rfl rfl rfl))
  all_goals rfl

theorem keep_failProgram (s : State) (a1 : Nat) : Keep 4456516 s (failProgram s a1) := by
  unfold failProgram
  try dsimp only
  with_reducible repeat' first
    | apply Keep.refl | assumption | apply (keep_retireBlock _ _).after
    | apply (keep_satF _ _).after | dsimp only
    | (apply Keep.lit; on_goal 2 => (constructor <;> first | exact .inr rfl | exact .inl rfl | exact .of rfl rfl rfl rfl rfl rfl rfl))
  all_goals rfl

theorem keep_jobBlock (s : State) (a1 : ProgramJob) : Keep 2 s (jobBlock s a1).2 := by
  unfold jobBlock
  try dsimp only
  with_reducible repeat' first
    | (intro) | apply Keep.refl | assumption | apply (keep_blockFor _ _).after | split
    | dsimp only
  all_goals rfl

theorem keep_programInto (s : State) (a1 : Nat) (a2 : Bool) (a3 : FlashPage) : Keep 262144 s (programInto s a1 a2 a3) := by
  unfold programInto
  try dsimp only
  with_reducible repeat' first
    | apply Keep.refl | assumption | apply (keep_setFlashBlock _ _ _).after | split | dsimp only
    | (apply Keep.lit; on_goal 2 => (constructor <;> first | exact .inr rfl | exact .inl rfl | exact .of rfl rfl rfl rfl rfl rfl rfl))
  all_goals rfl

theorem keep_setMap (s : State) (a1 : Nat) (a2 : Option (Nat × Nat)) : Keep 262144 s (setMap s a1 a2) := by
  unfold setMap
  with_reducible repeat' first
    | apply Keep.refl | assumption | dsimp only
    | (apply Keep.lit; on_goal 2 => (constructor <;> first | exact .inr rfl | exact .inl rfl | exact .of rfl rfl rfl rfl rfl rfl rfl))
  all_goals rfl

theorem keep_runJobs (a0 : NandReport) (a1 : Nat) (a2 : List ProgramJob) (a3 : List (ProgramJob × Nat × Nat)) (s : State) :
    Keep 4456518 s (runJobs a0 a1 a2 a3 s).2 := by
  fun_induction runJobs a0 a1 a2 a3 s
  all_goals (try dsimp only)
  with_reducible repeat' first
    | (intro) | apply Keep.refl | assumption | apply (keep_setMap _ _ _).after
    | apply (keep_programInto _ _ _ _).after | apply (keep_jobBlock _ _).after | apply (keep_failProgram _ _).after
    | apply Keep.after (by assumption) | split | dsimp only
    | (apply Keep.lit; on_goal 2 => (constructor <;> first | exact .inr rfl | exact .inl rfl | exact .of rfl rfl rfl rfl rfl rfl rfl))
  all_goals rfl

theorem keep_programJobs (a0 : NandReport) (a1 : List ProgramJob) (s : State) : Keep 4456518 s (programJobs a0 a1 s).2 := by
  unfold programJobs
  with_reducible repeat' first
    | apply Keep.refl | assumption | apply (keep_runJobs _ _ _ _ _).after
  all_goals rfl

theorem keep_eraseBlock (s : State) (a1 : NandReport) (a2 : Nat) : Keep 4456518 s (eraseBlock s a1 a2) := by
  unfold eraseBlock
  try dsimp only
  with_reducible repeat' first
    | apply Keep.refl | assumption | apply (keep_programJobs _ _ _).after
    | apply (keep_retireBlock _ _).after | apply (keep_setFlashBlock _ _ _).after | apply (keep_wrapF _ _ _).after | split
    | dsimp only
    | (apply Keep.lit; on_goal 2 => (constructor <;> first | exact .inr rfl | exact .inl rfl | exact .of rfl rfl rfl rfl rfl rfl rfl))
  all_goals rfl

theorem keep_gcUpdate (s : State) : Keep 262144 s (gcUpdate s) := by
  unfold gcUpdate
  with_reducible repeat' first
    | apply Keep.refl | assumption | split | dsimp only
    | (apply Keep.lit; on_goal 2 => (constructor <;> first | exact .inr rfl | exact .inl rfl | exact .of rfl rfl rfl rfl rfl rfl rfl))
  all_goals rfl

theorem keep_collectBlock (s : State) (a1 : NandReport) (a2 : Nat) : Keep 4456518 s (collectBlock s a1 a2) := by
  unfold collectBlock
  try dsimp only
  with_reducible repeat' first
    | (intro) | apply Keep.refl | assumption | apply (keep_gcUpdate _).after
    | apply (keep_eraseBlock _ _ _).after | apply (keep_programJobs _ _ _).after | split | dsimp only
    | (apply Keep.lit; on_goal 2 => (constructor <;> first | exact .inr rfl | exact .inl rfl | exact .of rfl rfl rfl rfl rfl rfl rfl))
  all_goals rfl

theorem keep_collide (s : State) (a1 a2 : Nat) : Keep 4228 s (collide s a1 a2) := by
  unfold collide
  try dsimp only
  with_reducible repeat' first
    | apply Keep.refl | assumption | apply (keep_dropRecord _ _).after
    | apply (keep_setWay _ _ _).after | apply (keep_linkChild _ _ _).after | apply (keep_setRec _ _ _).after
    | apply (keep_satF _ _).after | split | dsimp only
    | (apply Keep.lit; on_goal 2 => (constructor <;> first | exact .inr rfl | exact .inl rfl | exact .of rfl rfl rfl rfl rfl rfl rfl))
  all_goals rfl

theorem keep_fillPage (s : State) (a1 a2 : Nat) : Keep 128 s (fillPage s a1 a2) := by
  unfold fillPage
  with_reducible repeat' first
    | apply Keep.refl | assumption | apply (keep_sealPage _ _ _).after
    | apply (keep_setPage _ _ _).after | split | dsimp only
    | (apply Keep.lit; on_goal 2 => (constructor <;> first | exact .inr rfl | exact .inl rfl | exact .of rfl rfl rfl rfl rfl rfl rfl))
  all_goals rfl

theorem keep_fillTo (s : State) (a1 : ModelDescriptor) (a2 a3 : Nat) : Keep 128 s (fillTo s a1 a2 a3) := by
  unfold fillTo
  try dsimp only
  with_reducible repeat' first
    | (intro) | apply Keep.refl | assumption | apply (keep_fillPage _ _ _).after
    | apply Keep.foldl | split | dsimp only
  all_goals rfl

theorem keep_commitBlock (s : State) (a1 : ModelDescriptor) (a2 : Nat) (a3 : StepReq) :
    Keep 4943054 s (commitBlock s a1 a2 a3) := by
  unfold commitBlock
  try dsimp only
  with_reducible repeat' first
    | (intro) | apply Keep.refl | assumption | apply (keep_fillTo _ _ _ _).after
    | apply (keep_afterRecompute _ _).after | apply (keep_setPageEntry _ _ _ _ _).after | apply Keep.foldl | split | dsimp only
    | (apply Keep.lit; on_goal 2 => (constructor <;> first | exact .inr rfl | exact .inl rfl | exact .of rfl rfl rfl rfl rfl rfl rfl))
  all_goals rfl

theorem keep_commitDraft (s : State) (a1 : Nat) (a2 : StepReq) (a3 : Accepted) : Keep 2052 s (commitDraft s a1 a2 a3) := by
  unfold commitDraft
  try dsimp only
  with_reducible repeat' first
    | (intro) | apply Keep.refl | assumption | apply (keep_wrapF _ _ _).after
    | apply (keep_modEntry _ _ _).after | split | dsimp only
    | (apply Keep.lit; on_goal 2 => (constructor <;> first | exact .inr rfl | exact .inl rfl | exact .of rfl rfl rfl rfl rfl rfl rfl))
  all_goals rfl

theorem keep_giveTokens (s : State) (a1 : ModelDescriptor) (a2 a3 : Nat) (a4 : Bool) (a5 : List Committed) :
    Keep 4876358 s (giveTokens s a1 a2 a3 a4 a5) := by
  unfold giveTokens
  try dsimp only
  with_reducible repeat' first
    | (intro) | apply Keep.refl | assumption | apply (keep_modEntry _ _ _).after
    | apply (keep_giveRecord _ _ _).after | apply Keep.foldl | split | dsimp only
    | (apply Keep.lit; on_goal 2 => (constructor <;> first | exact .inr rfl | exact .inl rfl | exact .of rfl rfl rfl rfl rfl rfl rfl))
  all_goals rfl

theorem keep_keepDraw (s : State) (a1 : Nat) (a2 : Draw) : Keep 2050 s (keepDraw s a1 a2) := by
  unfold keepDraw
  with_reducible repeat' first
    | (intro) | apply Keep.refl | assumption | apply (keep_modEntry _ _ _).after | dsimp only
    | (apply Keep.lit; on_goal 2 => (constructor <;> first | exact .inr rfl | exact .inl rfl | exact .of rfl rfl rfl rfl rfl rfl rfl))
  all_goals rfl

theorem keep_takeRoot (s : State) (a1 : ModelDescriptor) (a2 : Nat) (a3 : Nat × BitVec 32 × Draw) :
    Keep 4943054 s (takeRoot s a1 a2 a3) := by
  unfold takeRoot
  try dsimp only
  with_reducible repeat' first
    | (intro) | apply Keep.refl | assumption | apply (keep_keepDraw _ _ _).after
    | apply (keep_giveTokens _ _ _ _ _ _).after | apply (keep_finishRequest _ _).after | apply (keep_modEntry _ _ _).after
    | split | dsimp only
    | (apply Keep.lit; on_goal 2 => (constructor <;> first | exact .inr rfl | exact .inl rfl | exact .of rfl rfl rfl rfl rfl rfl rfl))
  all_goals rfl

theorem keep_commitPrefill (s : State) (a1 : ModelDescriptor) (a2 : Nat) (a3 : StepReq) (a4 : List (List (BitVec 32))) :
    Keep 4943054 s (commitPrefill s a1 a2 a3 a4) := by
  unfold commitPrefill
  try dsimp only
  with_reducible repeat' first
    | (intro) | apply Keep.refl | assumption | apply (keep_takeRoot _ _ _ _).after
    | apply (keep_fillTo _ _ _ _).after | apply (keep_afterPositions _ _).after | apply (keep_writeHistory _ _ _ _).after
    | apply (keep_setInput _ _ _).after | apply (keep_modEntry _ _ _).after | split | dsimp only
    | (apply Keep.lit; on_goal 2 => (constructor <;> first | exact .inr rfl | exact .inl rfl | exact .of rfl rfl rfl rfl rfl rfl rfl))
  all_goals rfl

theorem keep_moveRow (s : State) (a1 : ModelDescriptor) (a2 a3 a4 : Nat) : Keep 65544 s (moveRow s a1 a2 a3 a4) := by
  unfold moveRow
  with_reducible repeat' first
    | (intro) | apply Keep.refl | assumption | apply (keep_memWrite _ _ _).after
    | apply Keep.foldl | dsimp only
  all_goals rfl

theorem keep_compact (s : State) (a1 : ModelDescriptor) (a2 a3 : Nat) (a4 : List Nat) :
    Keep 65544 s (compact s a1 a2 a3 a4) := by
  unfold compact
  try dsimp only
  with_reducible repeat' first
    | (intro) | apply Keep.refl | assumption | apply (keep_moveRow _ _ _ _ _).after
    | apply Keep.foldl2 | apply Keep.foldl | split | dsimp only
  all_goals rfl

theorem keep_nextDeadline (s : State) (a1 : Nat) : Keep 2048 s (nextDeadline s a1) := by
  unfold nextDeadline
  try dsimp only
  with_reducible repeat' first
    | (intro) | apply Keep.refl | assumption | apply (keep_modEntry _ _ _).after | split
    | dsimp only
    | (apply Keep.lit; on_goal 2 => (constructor <;> first | exact .inr rfl | exact .inl rfl | exact .of rfl rfl rfl rfl rfl rfl rfl))
  all_goals rfl

theorem keep_commitTree (s : State) (a1 : ModelDescriptor) (a2 : Nat) (a3 : StepReq) (a4 : Accepted) :
    Keep 4943054 s (commitTree s a1 a2 a3 a4) := by
  unfold commitTree
  try dsimp only
  with_reducible repeat' first
    | (intro) | apply Keep.refl | assumption | apply (keep_nextDeadline _ _).after
    | apply (keep_compact _ _ _ _ _).after | apply (keep_keepDraw _ _ _).after | apply (keep_giveTokens _ _ _ _ _ _).after
    | apply (keep_commitDraft _ _ _ _).after | apply (keep_fillTo _ _ _ _).after | apply (keep_afterTokens _ _ _).after
    | apply (keep_afterPositions _ _).after | apply (keep_writeHistory _ _ _ _).after | apply (keep_modEntry _ _ _).after
    | dsimp only
    | (apply Keep.lit; on_goal 2 => (constructor <;> first | exact .inr rfl | exact .inl rfl | exact .of rfl rfl rfl rfl rfl rfl rfl))
  all_goals rfl

theorem keep_countStep (s : State) (a1 : Nat) : Keep 2048 s (countStep s a1) := by
  unfold countStep
  with_reducible repeat' first
    | (intro) | apply Keep.refl | assumption | apply (keep_arbitrate _ _).after
    | apply (keep_modEntry _ _ _).after | dsimp only
    | (apply Keep.lit; on_goal 2 => (constructor <;> first | exact .inr rfl | exact .inl rfl | exact .of rfl rfl rfl rfl rfl rfl rfl))
  all_goals rfl

theorem keep_keepTree (s : State) (a1 : Nat) (a2 : List CandNode) : Keep 2048 s (keepTree s a1 a2) := by
  unfold keepTree
  with_reducible repeat' first
    | apply Keep.refl | assumption | dsimp only
    | (apply Keep.lit; on_goal 2 => (constructor <;> first | exact .inr rfl | exact .inl rfl | exact .of rfl rfl rfl rfl rfl rfl rfl))
  all_goals rfl

theorem keep_leaveStep (s : State) (a1 a2 : Nat) : Keep 1792 s (leaveStep s a1 a2) := by
  unfold leaveStep
  try dsimp only
  with_reducible repeat' first
    | (intro) | apply Keep.refl | assumption | apply (keep_endStep _ _).after
    | apply (keep_setStep _ _ _).after | split | dsimp only
    | (apply Keep.lit; on_goal 2 => (constructor <;> first | exact .inr rfl | exact .inl rfl | exact .of rfl rfl rfl rfl rfl rfl rfl))
  all_goals rfl

theorem keep_commitStep (s : State) (a1 : ModelDescriptor) (a2 a3 : Nat) (a4 : StepReq) (a5 : List (List (BitVec 32))) (a6 : List CandNode) :
    Keep 4943822 s (commitStep s a1 a2 a3 a4 a5 a6) := by
  unfold commitStep
  try dsimp only
  with_reducible repeat' first
    | apply Keep.refl | assumption | apply (keep_leaveStep _ _ _).after
    | apply (keep_keepTree _ _ _).after | apply (keep_countStep _ _).after | apply (keep_commitTree _ _ _ _ _).after
    | apply (keep_commitPrefill _ _ _ _ _).after | apply (keep_takeRoot _ _ _ _).after | apply (keep_commitBlock _ _ _ _).after
    | split | dsimp only
  all_goals rfl

theorem keep_countDiscard (s : State) (a1 : StepReq) : Keep 2048 s (countDiscard s a1) := by
  unfold countDiscard
  try dsimp only
  with_reducible repeat' first
    | apply Keep.refl | assumption | apply (keep_arbitrate _ _).after | split | dsimp only
  all_goals rfl

theorem keep_discardPart (s : State) (a1 : Nat) (a2 : StepReq) : Keep 3840 s (discardPart s a1 a2) := by
  unfold discardPart
  try dsimp only
  with_reducible repeat' first
    | (intro) | apply Keep.refl | assumption | apply (keep_leaveStep _ _ _).after
    | apply (keep_modEntry _ _ _).after | split | dsimp only
    | (apply Keep.lit; on_goal 2 => (constructor <;> first | exact .inr rfl | exact .inl rfl | exact .of rfl rfl rfl rfl rfl rfl rfl))
  all_goals rfl

theorem keep_commitPart (s : State) (a1 a2 : Nat) (a3 : Step) (a4 : StepReq) (a5 : List (List (BitVec 32))) (a6 : List CandNode) :
    Keep 4943822 s (commitPart s a1 a2 a3 a4 a5 a6) := by
  unfold commitPart
  try dsimp only
  with_reducible repeat' first
    | apply Keep.refl | assumption | apply (keep_discardPart _ _ _).after
    | apply (keep_countDiscard _ _).after | apply (keep_commitStep _ _ _ _ _ _ _).after | split | dsimp only
  all_goals rfl

theorem keep_schNotify (s : State) : Keep 4194368 s (schNotify s) := by
  unfold schNotify
  with_reducible repeat' first
    | apply Keep.refl | assumption | apply (keep_notify _ _ _).after | split
  all_goals rfl

theorem keep_compStatus (s : State) (a1 : Nat) : Keep 4194372 s (compStatus s a1) := by
  unfold compStatus
  with_reducible repeat' first
    | apply Keep.refl | assumption | apply (keep_schNotify _).after
    | apply (keep_putF _ _ _).after | split
  all_goals rfl

theorem keep_compCommand {w : Nat} (s : State) (c : CompNo) (effect : State → State) (hw : 4194372 &&& w = 4194372)
    (he : ∀ u, Keep w u (effect u)) : Keep w s (compCommand s c effect) := by
  unfold compCommand
  split
  · exact (keep_compStatus s 1).mono hw
  · exact Keep.trans (((keep_putF s F.schCompCmd.composition c.val).mono (w := 4194372) rfl).mono hw) (he _)

theorem keep_park (s : State) (a1 a2 : Nat) (a3 : Bool) : Keep 256 s (park s a1 a2 a3) := by
  unfold park
  with_reducible repeat' first
    | apply Keep.refl | assumption | apply (keep_setRegion _ _ _).after | dsimp only
    | (apply Keep.lit; on_goal 2 => (constructor <;> first | exact .inr rfl | exact .inl rfl | exact .of rfl rfl rfl rfl rfl rfl rfl))
  all_goals rfl

theorem keep_endFence (s : State) (a1 a2 : Nat) : Keep 4227328 s (endFence s a1 a2) := by
  unfold endFence
  try dsimp only
  with_reducible repeat' first
    | apply Keep.refl | assumption | apply (keep_park _ _ _ _).after
    | apply (keep_emit _ _).after | split | dsimp only
    | (apply Keep.lit; on_goal 2 => (constructor <;> first | exact .inr rfl | exact .inl rfl | exact .of rfl rfl rfl rfl rfl rfl rfl))
  all_goals rfl

theorem keep_endAtThread (s : State) (a1 : Nat) (a2 : RemoteOp) (a3 : RemoteStatus) :
    Keep 4227328 s (endAtThread s a1 a2 a3) := by
  unfold endAtThread
  try dsimp only
  with_reducible repeat' first
    | apply Keep.refl | assumption | apply (keep_endFence _ _ _).after
    | apply (keep_park _ _ _ _).after | split | dsimp only
    | (apply Keep.lit; on_goal 2 => (constructor <;> first | exact .inr rfl | exact .inl rfl | exact .of rfl rfl rfl rfl rfl rfl rfl))
  all_goals rfl

theorem keep_freeSlot (s : State) (a1 : Nat) : Keep 2 s (freeSlot s a1).2 := by
  unfold freeSlot
  with_reducible repeat' first
    | (intro) | apply Keep.refl | assumption | apply (keep_chooseFree _ _ _ _).after | dsimp only
  all_goals rfl

theorem keep_setOp (s : State) (a1 a2 : Nat) (a3 : Option RemoteOp) : Keep 32768 s (setOp s a1 a2 a3) := by
  unfold setOp
  with_reducible repeat' first
    | apply Keep.refl | assumption | dsimp only
    | (apply Keep.lit; on_goal 2 => (constructor <;> first | exact .inr rfl | exact .inl rfl | exact .of rfl rfl rfl rfl rfl rfl rfl))
  all_goals rfl

theorem keep_noteCoded (s : State) (a1 a2 a3 : Nat) (a4 : CodedBlock) : Keep 32768 s (noteCoded s a1 a2 a3 a4) := by
  unfold noteCoded
  with_reducible repeat' first
    | apply Keep.refl | assumption | apply (keep_setOp _ _ _ _).after | split | dsimp only
    | (apply Keep.lit; on_goal 2 => (constructor <;> first | exact .inr rfl | exact .inl rfl | exact .of rfl rfl rfl rfl rfl rfl rfl))
  all_goals rfl

theorem keep_tensorBlock (s : State) (a1 a2 a3 : Nat) (a4 : Bool) (a5 : List Byte) :
    Keep 16384 s (tensorBlock s a1 a2 a3 a4 a5).2 := by
  unfold tensorBlock
  try dsimp only
  with_reducible repeat' first
    | apply Keep.refl | assumption | apply (keep_enterEncode _ _ _).after | split | dsimp only
  all_goals rfl

theorem keep_sendOp (s : State) (a1 a2 : Nat) (a3 : RemoteOp) (a4 : List Nat) (a5 : Bool) :
    Keep 180228 s (sendOp s a1 a2 a3 a4 a5) := by
  unfold sendOp
  try dsimp only
  with_reducible repeat' first
    | (intro) | apply Keep.refl | assumption | apply (keep_tensorBlock _ _ _ _ _ _).after
    | apply (keep_noteCoded _ _ _ _ _).after | apply (keep_enqueueBlock _ _ _).after | apply (keep_enqueue _ _ _).after
    | apply (keep_countBlock _ _).after | apply Keep.foldl2 | apply Keep.foldl | split | dsimp only
    | (apply Keep.lit; on_goal 2 => (constructor <;> first | exact .inr rfl | exact .inl rfl | exact .of rfl rfl rfl rfl rfl rfl rfl))
  all_goals rfl

theorem keep_tellThread (s : State) (a1 : Nat) (a2 : RemoteOp) (a3 : RemoteStatus) (a4 : List Byte) :
    Keep 4194564 s (tellThread s a1 a2 a3 a4) := by
  unfold tellThread
  try dsimp only
  with_reducible repeat' first
    | apply Keep.refl | assumption | apply (keep_writeIvory _ _ _ _).after
    | apply (keep_wrapF _ _ _).after | apply (keep_satF _ _).after | apply (keep_emit _ _).after | split | dsimp only
  all_goals rfl

theorem keep_placeOp (s : State) (a1 a2 : Nat) (a3 : RemoteOp) : Keep 4374788 s (placeOp s a1 a2 a3) := by
  unfold placeOp
  try dsimp only
  with_reducible repeat' first
    | apply Keep.refl | assumption | apply (keep_tellThread _ _ _ _ _).after
    | apply (keep_sendOp _ _ _ _ _ _).after | apply (keep_setOp _ _ _ _).after | apply (keep_endAtThread _ _ _ _).after | split
    | dsimp only
    | (apply Keep.lit; on_goal 2 => (constructor <;> first | exact .inr rfl | exact .inl rfl | exact .of rfl rfl rfl rfl rfl rfl rfl))
  all_goals rfl

theorem keep_fillSlots (a0 a1 : Nat) (s : State) : Keep 4374790 s (fillSlots a0 a1 s) := by
  fun_induction fillSlots a0 a1 s
  all_goals (try dsimp only)
  with_reducible repeat' first
    | (intro) | apply Keep.refl | assumption | apply (keep_placeOp _ _ _ _).after
    | apply (keep_freeSlot _ _).after | apply (keep_park _ _ _ _).after | apply Keep.after (by assumption) | split | dsimp only
    | (apply Keep.lit; on_goal 2 => (constructor <;> first | exact .inr rfl | exact .inl rfl | exact .of rfl rfl rfl rfl rfl rfl rfl))
  all_goals rfl

theorem keep_completeOp (s : State) (a1 a2 : Nat) (a3 : RemoteStatus) (a4 : List Byte) :
    Keep 4374790 s (completeOp s a1 a2 a3 a4) := by
  unfold completeOp
  try dsimp only
  with_reducible repeat' first
    | apply Keep.refl | assumption | apply (keep_fillSlots _ _ _).after
    | apply (keep_tellThread _ _ _ _ _).after | apply (keep_setOp _ _ _ _).after | apply (keep_endAtThread _ _ _ _).after
    | split | dsimp only
    | (apply Keep.lit; on_goal 2 => (constructor <;> first | exact .inr rfl | exact .inl rfl | exact .of rfl rfl rfl rfl rfl rfl rfl))
  all_goals rfl

theorem keep_releaseVector (s : State) (a1 : Nat) : Keep 4194368 s (releaseVector s a1) := by
  unfold releaseVector
  with_reducible repeat' first
    | apply Keep.refl | assumption | apply (keep_emit _ _).after | split | dsimp only
    | (apply Keep.lit; on_goal 2 => (constructor <;> first | exact .inr rfl | exact .inl rfl | exact .of rfl rfl rfl rfl rfl rfl rfl))
  all_goals rfl

theorem keep_releaseVectors (s : State) : Keep 4194368 s (releaseVectors s) := by
  unfold releaseVectors
  with_reducible repeat' first
    | (intro) | apply Keep.refl | assumption | apply (keep_releaseVector _ _).after
    | apply Keep.foldl | dsimp only
  all_goals rfl

theorem keep_configure (s : State) (a1 : CfgAccess) : Keep 4194368 s (configure s a1) := by
  unfold configure
  with_reducible repeat' first
    | (intro) | apply Keep.refl | assumption | apply (keep_releaseVectors _).after
    | apply (keep_emit _ _).after | split | dsimp only
    | (apply Keep.lit; on_goal 2 => (constructor <;> first | exact .inr rfl | exact .inl rfl | exact .of rfl rfl rfl rfl rfl rfl rfl))
  all_goals rfl

theorem keep_endQuery (s : State) (a1 : Nat) : Keep 4943054 s (endQuery s a1) := by
  unfold endQuery
  try dsimp only
  with_reducible repeat' first
    | apply Keep.refl | assumption | apply (keep_setReads _ _ _).after
    | apply (keep_endAdmission _ _).after | apply (keep_setAdmission _ _ _).after | apply (keep_retryTransfers _).after
    | apply (keep_endTransfer _ _).after | split | dsimp only
    | (apply Keep.lit; on_goal 2 => (constructor <;> first | exact .inr rfl | exact .inl rfl | exact .of rfl rfl rfl rfl rfl rfl rfl))
  all_goals rfl

theorem keep_markDropped (s : State) (a1 a2 a3 : Nat) : Keep 2048 s (markDropped s a1 a2 a3) := by
  unfold markDropped
  with_reducible repeat' first
    | (intro) | apply Keep.refl | assumption | apply (keep_setPageEntry _ _ _ _ _).after
    | apply Keep.foldl | split | dsimp only
    | (apply Keep.lit; on_goal 2 => (constructor <;> first | exact .inr rfl | exact .inl rfl | exact .of rfl rfl rfl rfl rfl rfl rfl))
  all_goals rfl

theorem keep_markRest (s : State) (a1 : Nat) (a2 : ModelDescriptor) : Keep 2048 s (markRest s a1 a2) := by
  unfold markRest
  with_reducible repeat' first
    | (intro) | apply Keep.refl | assumption | apply (keep_markDropped _ _ _ _).after
    | apply Keep.foldl | dsimp only
  all_goals rfl

theorem keep_rebuildRest (s : State) (a1 : Nat) (a2 : ModelDescriptor) : Keep 4943054 s (rebuildRest s a1 a2) := by
  unfold rebuildRest
  try dsimp only
  with_reducible repeat' first
    | apply Keep.refl | assumption | apply (keep_markRest _ _ _).after
    | apply (keep_setReads _ _ _).after | apply (keep_resyncDone _ _).after | apply (keep_setInput _ _ _).after | split
    | dsimp only
    | (apply Keep.lit; on_goal 2 => (constructor <;> first | exact .inr rfl | exact .inl rfl | exact .of rfl rfl rfl rfl rfl rfl rfl))
  all_goals rfl

theorem keep_endReads (s : State) (a1 : Nat) (a2 : ModelDescriptor) : Keep 4943054 s (endReads s a1 a2) := by
  unfold endReads
  with_reducible repeat' first
    | apply Keep.refl | assumption | apply (keep_rebuildRest _ _ _).after
    | apply (keep_endQuery _ _).after | split
  all_goals rfl

theorem keep_needDirectory (s : State) (a1 : Nat) : Keep 2178 s (needDirectory s a1).2 := by
  unfold needDirectory
  try dsimp only
  with_reducible repeat' first
    | (intro) | apply Keep.refl | assumption | apply (keep_waitFor _ _ _).after
    | apply (keep_allocUnit _).after | apply (keep_modEntry _ _ _).after | apply (keep_setManifest _ _ _).after | split
    | dsimp only
    | (apply Keep.lit; on_goal 2 => (constructor <;> first | exact .inr rfl | exact .inl rfl | exact .of rfl rfl rfl rfl rfl rfl rfl))
  all_goals rfl

theorem keep_sharePages (q layers : Nat) (s : State) (i r : Nat) (t : State) (h : sharePages q layers s i r = some t) :
    Keep 2178 s t := by
  have k : ∀ (g : Nat → Nat) (l : List Nat) (o : Option State), (∀ u, o = some u → Keep 2178 s u) → ∀ t,
      l.foldl (fun (o : Option State) l =>
        match o with
        | none => none
        | some t =>
          let u := needUnit t q l i
          if !u.1 then none
          else
            let p := g l
            some (addRef (setPageEntry u.2 q l i { valid := true, page := p }) p)) o = some t → Keep 2178 s t := by
    intro g l
    induction l with
    | nil =>
      intro o ho t e
      exact ho t e
    | cons a l ih =>
      intro o ho t e
      refine ih _ ?_ t e
      intro u hu
      cases o with
      | none => cases hu
      | some v =>
        dsimp only at hu
        have k1 : Keep 2178 v (needUnit v q a i).2 := keep_needUnit _ _ _ _
        split at hu
        · cases hu
        · cases hu
          exact (((ho v rfl).trans k1).comp (keep_setPageEntry _ _ _ _ _) rfl).comp (keep_addRef _ _) rfl
  unfold sharePages at h
  extract_lets x ls at h
  split at h
  · cases h
  · refine k _ _ (some s) ?_ t h
    intro u e
    cases e
    exact Keep.refl _ _

theorem keep_walkFrom {w : Nat} (x : WalkCtx) (tokens : List Nat) (take : State → Nat → Nat → Option State) (n i : Nat) (k : Walked)
    (s : State) (hw : 4228 &&& w = 4228) (he : ∀ u i r t, take u i r = some t → Keep w u t) :
    Keep w s (walkFrom x tokens take n i k s).2 := by
  have a : ∀ u i j, Keep w u (collide u i j) := fun u i j => (keep_collide u i j).mono (Keep.landTrans rfl hw)
  have b : ∀ u i j, Keep w u (setRec u i j) := fun u i j => (keep_setRec u i j).mono (Keep.landTrans rfl hw)
  have c : ∀ u i j, Keep w u (setWay u i j) := fun u i j => (keep_setWay u i j).mono (Keep.landTrans rfl hw)
  have d : ∀ u f, Keep w u (satF u f) := fun u f => (keep_satF u f).mono (Keep.landTrans rfl hw)
  induction n generalizing i k s with
  | zero => exact Keep.refl _ _
  | succ n ih =>
    unfold walkFrom
    dsimp only
    split
    · split
      · split
        · exact a _ _ _
        · exact Keep.refl _ _
      · exact Keep.refl _ _
    · split
      · exact Keep.refl _ _
      · next hs =>
        refine Keep.trans ?_ (ih _ _ _)
        refine Keep.trans ?_ (d _ _)
        split
        · exact (he _ _ _ _ hs).trans (c _ _ _)
        · exact (he _ _ _ _ hs).trans (b _ _ _)

theorem keep_walkOffered (s : State) (a1 a2 : Nat) : Keep 6278 s (walkOffered s a1 a2).2 := by
  unfold walkOffered
  try dsimp only
  with_reducible repeat' first
    | (intro) | apply Keep.refl | assumption | apply (keep_walkFrom _ _ _ _ _ _ _ ?_ ?_).next
    | apply (keep_sharePages _ _ _ _ _ _ ‹sharePages _ _ _ _ _ = some _›).after | apply (keep_setTrack _ _ _).after
    | apply Keep.foldl2 | apply Keep.foldl | split | dsimp only
    | (apply Keep.lit; on_goal 2 => (constructor <;> first | exact .inr rfl | exact .inl rfl | exact .of rfl rfl rfl rfl rfl rfl rfl))
  all_goals rfl

theorem keep_walkLogged (s : State) (a1 : Nat) : Keep 6278 s (walkLogged s a1).2 := by
  unfold walkLogged
  with_reducible repeat' first
    | apply Keep.refl | assumption | apply (keep_walkOffered _ _ _).after | split
  all_goals rfl

theorem keep_continueReads (s : State) (i : Nat) : Keep 4947150 s (continueReads s i) := by
  have kt : ∀ x, Keep 4947150 s (takeTransfer s x).2 := fun x => (keep_takeTransfer s x).mono rfl
  unfold continueReads
  split
  · next r c d _ _ _ =>
    split
    · exact Keep.refl _ _
    · extract_lets e recovery kind t u hist w
      have h1 : Keep 4947150 s t.2 := by
        unfold t
        split
        · exact Keep.refl _ _
        · exact kt _
      have h2 : Keep 4947150 t.2 u.2 := (keep_needDirectory _ _).mono rfl
      have h3 : Keep 4947150 u.2 hist.2 := (keep_needHistory _ _ _).mono rfl
      have h4 : Keep 4947150 hist.2 w.2 := by
        clear h1 h2 h3
        clear_value hist
        unfold w
        split
        · exact (keep_walkLogged _ _).mono rfl
        · exact Keep.refl _ _
      have g := h1.trans h2
      have g' := g.trans h3
      have h := g'.trans h4
      clear h2 h3 h4
      clear_value w
      clear_value hist
      clear_value u
      split
      · exact h1
      · split
        · exact g
        · split
          · exact g'.comp (keep_waitFor _ _ _) rfl
          · split
            · exact h.comp (keep_waitFor _ _ _) rfl
            · exact h.comp (keep_endReads _ _ _) rfl
            · exact Keep.comp (Keep.comp h (keep_setReads _ _ _) rfl) (keep_askBlock _ _ _ _ _ _ _) rfl
  · exact Keep.refl _ _

theorem keep_continuePulls (s : State) (a1 a2 : Nat) : Keep 4942030 s (continuePulls s a1 a2) := by
  unfold continuePulls
  try dsimp only
  with_reducible repeat' first
    | (intro) | apply Keep.refl | assumption | apply (keep_sendClaim _ _ _ _).after
    | apply (keep_allocMissing _ _ _ _ _).after | apply (keep_sendRst _ _).after | apply (keep_setTransfer _ _ _).after
    | apply Keep.foldl2 | apply Keep.foldl | split | dsimp only
    | (apply Keep.lit; on_goal 2 => (constructor <;> first | exact .inr rfl | exact .inl rfl | exact .of rfl rfl rfl rfl rfl rfl rfl))
  all_goals rfl

theorem keep_continueReceive (s : State) (a1 : Nat) : Keep 4946126 s (continueReceive s a1) := by
  unfold continueReceive
  try dsimp only
  with_reducible repeat' first
    | apply Keep.refl | assumption | apply (keep_continuePulls _ _ _).after
    | apply (keep_walkOffered _ _ _).after | apply (keep_needDirectory _ _).after | apply (keep_needHistory _ _ _).after
    | apply (keep_waitFor _ _ _).after | apply (keep_setTransfer _ _ _).after | split | dsimp only
    | (apply Keep.lit; on_goal 2 => (constructor <;> first | exact .inr rfl | exact .inl rfl | exact .of rfl rfl rfl rfl rfl rfl rfl))
  all_goals rfl

theorem keep_continueAll (s : State) : Keep 4947150 s (continueAll s) := by
  unfold continueAll
  try dsimp only
  with_reducible repeat' first
    | (intro) | apply Keep.refl | assumption | apply (keep_continueReceive _ _).after
    | apply (keep_continueReads _ _).after | apply Keep.foldl2 | apply Keep.foldl | split | dsimp only
    | (apply Keep.lit; on_goal 2 => (constructor <;> first | exact .inr rfl | exact .inl rfl | exact .of rfl rfl rfl rfl rfl rfl rfl))
  all_goals rfl

theorem keep_noteCorrected (s : State) (a1 : NandReport) : Keep 262144 s (noteCorrected s a1) := by
  unfold noteCorrected
  try dsimp only
  with_reducible repeat' first
    | (intro) | apply Keep.refl | assumption | dsimp only
    | (apply Keep.lit; on_goal 2 => (constructor <;> first | exact .inr rfl | exact .inl rfl | exact .of rfl rfl rfl rfl rfl rfl rfl))
  all_goals rfl

theorem keep_flashPublish (s : State) (f : NandReport) (handle first n : Nat) (r : Bool × State)
    (h : flashPublish s f handle first n = some r) : Keep 4456518 s r.2 := by
  unfold flashPublish at h
  extract_lets js q at h
  have k : Keep 4456518 s q.2 := Keep.comp ((keep_noteCorrected _ _).mono rfl) (keep_programJobs _ _ _) rfl
  clear_value q
  split at h
  · cases h
    exact Keep.comp (Keep.foldl k (fun u w => (keep_setMap _ _ _).mono rfl)) (keep_gcUpdate _) rfl
  · split at h
    · cases h
    · cases h
      exact k.comp (keep_gcUpdate _) rfl

theorem keep_copySpace (s : State) (f : NandReport) (tier handle a n : Nat) (r : Bool × State)
    (h : copySpace s f tier handle a n = some r) : Keep 4456518 s r.2 := by
  unfold copySpace at h
  split at h
  · exact keep_flashPublish _ _ _ _ _ _ h
  · cases h
    exact Keep.refl _ _

theorem keep_countDenied (s : State) (a1 a2 : Nat) : Keep 4 s (countDenied s a1 a2) := by
  unfold countDenied
  try dsimp only
  with_reducible repeat' first
    | apply Keep.refl | assumption | apply (keep_satF _ _).after | split | dsimp only
    | (apply Keep.lit; on_goal 2 => (constructor <;> first | exact .inr rfl | exact .inl rfl | exact .of rfl rfl rfl rfl rfl rfl rfl))
  all_goals rfl

theorem keep_reportAer (s : State) (a1 : Nat) : Keep 4194304 s (reportAer s a1) := by
  unfold reportAer
  with_reducible repeat' first
    | apply Keep.refl | assumption | apply (keep_emit _ _).after
  all_goals rfl

theorem keep_countReadError (s : State) (a1 : HostReadResult) : Keep 4194308 s (countReadError s a1) := by
  unfold countReadError
  try dsimp only
  with_reducible repeat' first
    | (intro) | apply Keep.refl | assumption | apply (keep_reportAer _ _).after
    | apply (keep_satF _ _).after | apply Keep.foldl2 | apply Keep.foldl | split | dsimp only
    | (apply Keep.lit; on_goal 2 => (constructor <;> first | exact .inr rfl | exact .inl rfl | exact .of rfl rfl rfl rfl rfl rfl rfl))
  all_goals rfl

theorem keep_takeMatched (s : State) (a1 a2 : Nat) : Keep 2048 s (takeMatched s a1 a2) := by
  unfold takeMatched
  try dsimp only
  with_reducible repeat' first
    | (intro) | apply Keep.refl | assumption | apply (keep_writeHistory _ _ _ _).after
    | apply (keep_setInput _ _ _).after | apply (keep_modEntry _ _ _).after | split | dsimp only
    | (apply Keep.lit; on_goal 2 => (constructor <;> first | exact .inr rfl | exact .inl rfl | exact .of rfl rfl rfl rfl rfl rfl rfl))
  all_goals rfl

theorem keep_countRemote (s : State) (a1 a2 : Nat) : Keep 2048 s (countRemote s a1 a2) := by
  unfold countRemote
  with_reducible repeat' first
    | apply Keep.refl | assumption | apply (keep_takeMatched _ _ _).after
    | apply (keep_setTrack _ _ _).after | split | dsimp only
    | (apply Keep.lit; on_goal 2 => (constructor <;> first | exact .inr rfl | exact .inl rfl | exact .of rfl rfl rfl rfl rfl rfl rfl))
  all_goals rfl

theorem keep_cutWaits (s : State) (a1 : Nat) : Keep 4876358 s (cutWaits s a1) := by
  unfold cutWaits
  try dsimp only
  with_reducible repeat' first
    | apply Keep.refl | assumption | apply (keep_endRestore _ _ _).after
    | apply (keep_setAdmission _ _ _).after | apply (keep_complete _ _ _ _ _ _ _ _ _).after | split | dsimp only
  all_goals rfl

theorem keep_hearMsg (s : State) (a1 : RstHeader) (a2 : RstMsg) : Keep 2048 s (hearMsg s a1 a2) := by
  unfold hearMsg
  with_reducible repeat' first
    | apply Keep.refl | assumption | apply (keep_hear _ _).after | split
  all_goals rfl

theorem keep_onObjRead (s : State) (a1 : RstHeader) (a2 a3 : Nat) : Keep 4876358 s (onObjRead s a1 a2 a3) := by
  unfold onObjRead
  try dsimp only
  with_reducible repeat' first
    | apply Keep.refl | assumption | apply (keep_reply _ _ _ _ _).after
    | apply (keep_sendRst _ _).after | split | dsimp only
    | (apply Keep.lit; on_goal 2 => (constructor <;> first | exact .inr rfl | exact .inl rfl | exact .of rfl rfl rfl rfl rfl rfl rfl))
  all_goals rfl

theorem keep_onPfxQuery (s : State) (h : RstHeader) (domain pd model adapter : Nat) (tokens : List Nat) :
    Keep 4880582 s (onPfxQuery s h domain pd model adapter tokens) := by
  have k : ∀ u m st e, Keep 4880582 u (reply u h m st e) := fun u m st e => (keep_reply u h m st e).mono rfl
  unfold onPfxQuery
  extract_lets t
  split
  · exact k _ _ _ _
  · split
    · exact k _ _ _ _
    · next x slot _ =>
      extract_lets w hs
      have a : Keep 4880582 s w.2 := keep_walkFrom _ _ _ _ _ _ _ rfl (by
        intro u i r t e
        cases e
        exact Keep.refl _ _)
      exact a.trans (k _ _ _ _)

theorem keep_listBlock (s : State) (a1 : RstHeader) (a2 a3 : Nat) : Keep 4876486 s (listBlock s a1 a2 a3) := by
  unfold listBlock
  try dsimp only
  with_reducible repeat' first
    | apply Keep.refl | assumption | apply (keep_reply _ _ _ _ _).after
    | apply (keep_pinObject _ _).after | apply (keep_setLedger _ _ _).after | dsimp only
    | (apply Keep.lit; on_goal 2 => (constructor <;> first | exact .inr rfl | exact .inl rfl | exact .of rfl rfl rfl rfl rfl rfl rfl))
  all_goals rfl

theorem keep_onPubRef (s : State) (a1 : RstHeader) (a2 a3 : Nat) (a4 : List Nat) :
    Keep 4876486 s (onPubRef s a1 a2 a3 a4) := by
  unfold onPubRef
  try dsimp only
  with_reducible repeat' first
    | apply Keep.refl | assumption | apply (keep_listBlock _ _ _ _).after
    | apply (keep_blockPlace _ _ _ _ _ ‹blockPlace _ _ _ _ = some _›).after | apply (keep_reply _ _ _ _ _).after
    | apply (keep_needLedgerUnits _ _ _ _).after | split | dsimp only
  all_goals rfl

theorem keep_serveAsk (s : State) (h : RstHeader) (m : RstMsg) : Keep 4880582 s (serveAsk s h m) := by
  cases m
  case pubRef => exact (keep_onPubRef _ _ _ _ _).mono rfl
  case pfxQuery => exact (keep_onPfxQuery _ _ _ _ _ _ _).mono rfl
  case objRead => exact (keep_onObjRead _ _ _ _).mono rfl
  all_goals exact Keep.refl _ _

theorem keep_onAsk (s : State) (a1 : RstHeader) (a2 : RstMsg) : Keep 4880582 s (onAsk s a1 a2) := by
  unfold onAsk
  with_reducible repeat' first
    | apply Keep.refl | assumption | apply (keep_serveAsk _ _ _).after | split | dsimp only
    | (apply Keep.lit; on_goal 2 => (constructor <;> first | exact .inr rfl | exact .inl rfl | exact .of rfl rfl rfl rfl rfl rfl rfl))
  all_goals rfl

theorem keep_retryAsks (s : State) : Keep 4880582 s (retryAsks s) := by
  unfold retryAsks
  with_reducible repeat' first
    | (intro) | apply Keep.refl | assumption | apply (keep_onAsk _ _ _).after | apply Keep.foldl2
    | apply Keep.foldl | dsimp only
    | (apply Keep.lit; on_goal 2 => (constructor <;> first | exact .inr rfl | exact .inl rfl | exact .of rfl rfl rfl rfl rfl rfl rfl))
  all_goals rfl

theorem keep_newOwner (s : State) (a1 : Nat) (a2 a3 : PartAddr) (a4 : LState) : Keep 8192 s (newOwner s a1 a2 a3 a4) := by
  unfold newOwner
  try dsimp only
  with_reducible repeat' first
    | apply Keep.refl | assumption | apply (keep_setLedger _ _ _).after | dsimp only
    | (apply Keep.lit; on_goal 2 => (constructor <;> first | exact .inr rfl | exact .inl rfl | exact .of rfl rfl rfl rfl rfl rfl rfl))
  all_goals rfl

theorem keep_sendRecover (s : State) (a1 : Nat) (a2 : PartAddr) (a3 : Bool) : Keep 4876358 s (sendRecover s a1 a2 a3) := by
  unfold sendRecover
  try dsimp only
  with_reducible repeat' first
    | apply Keep.refl | assumption | apply (keep_sendRst _ _).after | dsimp only
    | (apply Keep.lit; on_goal 2 => (constructor <;> first | exact .inr rfl | exact .inl rfl | exact .of rfl rfl rfl rfl rfl rfl rfl))
  all_goals rfl

theorem keep_onClaim (s : State) (a1 : RstHeader) (a2 a3 : PartAddr) : Keep 4876358 s (onClaim s a1 a2 a3) := by
  unfold onClaim
  try dsimp only
  with_reducible repeat' first
    | apply Keep.refl | assumption | apply (keep_sendRecover _ _ _ _).after
    | apply (keep_newOwner _ _ _ _ _).after | apply (keep_reply _ _ _ _ _).after | split | dsimp only
  all_goals rfl

theorem keep_releaseBlock (s : State) (a1 : Nat) : Keep 128 s (releaseBlock s a1) := by
  unfold releaseBlock
  try dsimp only
  with_reducible repeat' first
    | apply Keep.refl | assumption | apply (keep_unpinObject _ _).after
    | apply (keep_retireObject _ _).after | split | dsimp only
  all_goals rfl

theorem keep_onClose (s : State) (a1 : RstHeader) : Keep 4876486 s (onClose s a1) := by
  unfold onClose
  try dsimp only
  with_reducible repeat' first
    | (intro) | apply Keep.refl | assumption | apply (keep_releaseBlock _ _).after
    | apply (keep_reply _ _ _ _ _).after | apply (keep_setLedger _ _ _).after | apply (keep_setLedgerUnits _ _ _).after
    | apply (keep_retireUnits _ _).after | apply Keep.foldl | split | dsimp only
    | (apply Keep.lit; on_goal 2 => (constructor <;> first | exact .inr rfl | exact .inl rfl | exact .of rfl rfl rfl rfl rfl rfl rfl))
  all_goals rfl

theorem keep_refuseAdmission (s : State) (a1 a2 : Nat) : Keep 4877510 s (refuseAdmission s a1 a2) := by
  unfold refuseAdmission
  try dsimp only
  with_reducible repeat' first
    | apply Keep.refl | assumption | apply (keep_refuseHeld _ _ _ _ _).after
    | apply (keep_complete _ _ _ _ _ _ _ _ _).after | apply (keep_freeEntry _ _).after | split | dsimp only
  all_goals rfl

theorem keep_onClosed (s : State) (a1 : RstHeader) : Keep 4877510 s (onClosed s a1) := by
  unfold onClosed
  with_reducible repeat' first
    | apply Keep.refl | assumption | apply (keep_refuseAdmission _ _ _).after | split
  all_goals rfl

theorem keep_onStale (s : State) (a1 : Nat) : Keep 4943054 s (onStale s a1) := by
  unfold onStale
  with_reducible repeat' first
    | apply Keep.refl | assumption | apply (keep_failLive _ _).after | split
  all_goals rfl

theorem keep_takeoverDenied (s : State) (a1 : Nat) : Keep 4943054 s (takeoverDenied s a1) := by
  unfold takeoverDenied
  try dsimp only
  with_reducible repeat' first
    | apply Keep.refl | assumption | apply (keep_onStale _ _).after
    | apply (keep_applyHeld _ _).after | apply (keep_abandon _ _).after | split | dsimp only
    | (apply Keep.lit; on_goal 2 => (constructor <;> first | exact .inr rfl | exact .inl rfl | exact .of rfl rfl rfl rfl rfl rfl rfl))
  all_goals rfl

theorem keep_onDeny (s : State) (a1 : RstHeader) : Keep 4943054 s (onDeny s a1) := by
  unfold onDeny
  with_reducible repeat' first
    | apply Keep.refl | assumption | apply (keep_takeoverDenied _ _).after
    | apply (keep_abandon _ _).after | split
  all_goals rfl

theorem keep_onGrant (s : State) (a1 : RstHeader) : Keep 4947150 s (onGrant s a1) := by
  unfold onGrant
  with_reducible repeat' first
    | (intro) | apply Keep.refl | assumption | apply (keep_granted _ _ _ _).after
    | apply (keep_modEntry _ _ _).after | split | dsimp only
    | (apply Keep.lit; on_goal 2 => (constructor <;> first | exact .inr rfl | exact .inl rfl | exact .of rfl rfl rfl rfl rfl rfl rfl))
  all_goals rfl

theorem keep_onLogAck (s : State) (a1 : RstHeader) (a2 : Nat) : Keep 4943054 s (onLogAck s a1 a2) := by
  unfold onLogAck
  try dsimp only
  with_reducible repeat' first
    | (intro) | apply Keep.refl | assumption | apply (keep_onStale _ _).after
    | apply (keep_tryOffer _ _).after | apply (keep_sendLog _ _).after | apply (keep_modEntry _ _ _).after | split | dsimp only
    | (apply Keep.lit; on_goal 2 => (constructor <;> first | exact .inr rfl | exact .inl rfl | exact .of rfl rfl rfl rfl rfl rfl rfl))
  all_goals rfl

theorem keep_onLogAppend (s : State) (a1 : RstHeader) (a2 : Nat) (a3 : Entry) (a4 : List LogEntry) :
    Keep 4876486 s (onLogAppend s a1 a2 a3 a4) := by
  unfold onLogAppend
  try dsimp only
  with_reducible repeat' first
    | (intro) | apply Keep.refl | assumption | apply (keep_reply _ _ _ _ _).after
    | apply (keep_needLedgerUnits _ _ _ _).after | apply (keep_unpinObject _ _).after | apply (keep_setLedger _ _ _).after
    | apply Keep.foldl2 | apply Keep.foldl | split | dsimp only
    | (apply Keep.lit; on_goal 2 => (constructor <;> first | exact .inr rfl | exact .inl rfl | exact .of rfl rfl rfl rfl rfl rfl rfl))
  all_goals rfl

theorem keep_placeRows (s : State) (a1 : ModelDescriptor) (a2 a3 : Nat) (a4 : List Byte) :
    Keep 65544 s (placeRows s a1 a2 a3 a4) := by
  unfold placeRows
  with_reducible repeat' first
    | (intro) | apply Keep.refl | assumption | apply (keep_memWrite _ _ _).after
    | apply Keep.foldl | dsimp only
  all_goals rfl

theorem keep_storePage (s : State) (a1 : ModelDescriptor) (a2 a3 : Nat) (a4 : List Byte) :
    Keep 65672 s (storePage s a1 a2 a3 a4) := by
  unfold storePage
  with_reducible repeat' first
    | apply Keep.refl | assumption | apply (keep_placeRows _ _ _ _ _).after
    | apply (keep_zeroTail _ _ _ _).after | apply (keep_memWrite _ _ _).after | apply (keep_sealPage _ _ _).after | split
  all_goals rfl

theorem keep_storeBlock (s : State) (a1 a2 : Nat) (a3 : ModelDescriptor) (a4 : List Byte) :
    Keep 65672 s (storeBlock s a1 a2 a3 a4) := by
  unfold storeBlock
  with_reducible repeat' first
    | (intro) | apply Keep.refl | assumption | apply (keep_storePage _ _ _ _ _).after
    | apply Keep.foldl | split | dsimp only
  all_goals rfl

theorem keep_onObjData (s : State) (a1 : RstHeader) (a2 : Nat) (a3 : List Byte) : Keep 4947150 s (onObjData s a1 a2 a3) := by
  unfold onObjData
  try dsimp only
  with_reducible repeat' first
    | apply Keep.refl | assumption | apply (keep_storeBlock _ _ _ _ _).after
    | apply (keep_countRemote _ _ _).after | apply (keep_continueReads _ _).after | apply (keep_clearBlock _ _ _ _).after
    | apply (keep_setReads _ _ _).after | split | dsimp only
    | (apply Keep.lit; on_goal 2 => (constructor <;> first | exact .inr rfl | exact .inl rfl | exact .of rfl rfl rfl rfl rfl rfl rfl))
  all_goals rfl

theorem keep_fillEntry (s : State) (a1 : Nat) (a2 : Entry) : Keep 2048 s (fillEntry s a1 a2) := by
  unfold fillEntry
  try dsimp only
  with_reducible repeat' first
    | apply Keep.refl | assumption | apply (keep_setEntry _ _ _).after | dsimp only
    | (apply Keep.lit; on_goal 2 => (constructor <;> first | exact .inr rfl | exact .inl rfl | exact .of rfl rfl rfl rfl rfl rfl rfl))
  all_goals rfl

theorem keep_onOffer (s : State) (a1 : RstHeader) (a2 : Nat) (a3 : Entry) (a4 a5 : Nat) (a6 : List LogEntry) :
    Keep 4946126 s (onOffer s a1 a2 a3 a4 a5 a6) := by
  unfold onOffer
  try dsimp only
  with_reducible repeat' first
    | (intro) | apply Keep.refl | assumption | apply (keep_fillEntry _ _ _).after
    | apply (keep_countDenied _ _ _).after | apply (keep_continueReceive _ _).after | apply (keep_reply _ _ _ _ _).after
    | apply (keep_writeHistory _ _ _ _).after | apply (keep_setTrack _ _ _).after | apply (keep_setInput _ _ _).after
    | apply (keep_arbitrate _ _).after | apply (keep_hear _ _).after | apply (keep_takeTransfer _ _).after
    | apply (keep_chooseFree _ _ _ _).after | split | dsimp only
    | (apply Keep.lit; on_goal 2 => (constructor <;> first | exact .inr rfl | exact .inl rfl | exact .of rfl rfl rfl rfl rfl rfl rfl))
  all_goals rfl

theorem keep_onOfferAck (s : State) (a1 : RstHeader) : Keep 8192 s (onOfferAck s a1) := by
  unfold onOfferAck
  with_reducible repeat' first
    | (intro) | apply Keep.refl | assumption | apply (keep_setTransfer _ _ _).after | split
    | dsimp only
    | (apply Keep.lit; on_goal 2 => (constructor <;> first | exact .inr rfl | exact .inl rfl | exact .of rfl rfl rfl rfl rfl rfl rfl))
  all_goals rfl

theorem keep_onOpen (s : State) (a1 : RstHeader) (a2 : Durability) (a3 : Entry) (a4 : PartAddr) (a5 a6 : Nat) :
    Keep 4876486 s (onOpen s a1 a2 a3 a4 a5 a6) := by
  unfold onOpen
  try dsimp only
  with_reducible repeat' first
    | (intro) | apply Keep.refl | assumption | apply (keep_reply _ _ _ _ _).after
    | apply (keep_needLedgerUnits _ _ _ _).after | apply (keep_setLedger _ _ _).after | apply (keep_chooseFree _ _ _ _).after
    | split | dsimp only
    | (apply Keep.lit; on_goal 2 => (constructor <;> first | exact .inr rfl | exact .inl rfl | exact .of rfl rfl rfl rfl rfl rfl rfl))
  all_goals rfl

theorem keep_onOpened (s : State) (a1 : RstHeader) : Keep 4943054 s (onOpened s a1) := by
  unfold onOpened
  with_reducible repeat' first
    | apply Keep.refl | assumption | apply (keep_refuseAdmission _ _ _).after
    | apply (keep_endAdmission _ _).after | apply (keep_setAdmission _ _ _).after | apply (keep_sendLog _ _).after | split
    | dsimp only
    | (apply Keep.lit; on_goal 2 => (constructor <;> first | exact .inr rfl | exact .inl rfl | exact .of rfl rfl rfl rfl rfl rfl rfl))
  all_goals rfl

theorem keep_onOwnerIs (s : State) (a1 : RstHeader) (a2 : PartAddr) : Keep 4947150 s (onOwnerIs s a1 a2) := by
  unfold onOwnerIs
  try dsimp only
  with_reducible repeat' first
    | apply Keep.refl | assumption | apply (keep_claimTakeover _ _).after
    | apply (keep_auditOut _ _ _ _).after | apply (keep_auditLost _ _).after | apply (keep_auditIn _ _ _ _ _ _).after
    | apply (keep_arbitrate _ _).after | apply (keep_abandon _ _).after | apply (keep_setTransfer _ _ _).after | split
    | dsimp only
    | (apply Keep.lit; on_goal 2 => (constructor <;> first | exact .inr rfl | exact .inl rfl | exact .of rfl rfl rfl rfl rfl rfl rfl))
  all_goals rfl

theorem keep_onPageData (s : State) (a1 : RstHeader) (a2 a3 a4 : Nat) (a5 : List Byte) :
    Keep 4946126 s (onPageData s a1 a2 a3 a4 a5) := by
  unfold onPageData
  try dsimp only
  with_reducible repeat' first
    | apply Keep.refl | assumption | apply (keep_storePage _ _ _ _ _).after
    | apply (keep_continueReceive _ _).after | apply (keep_setTransfer _ _ _).after | split | dsimp only
    | (apply Keep.lit; on_goal 2 => (constructor <;> first | exact .inr rfl | exact .inl rfl | exact .of rfl rfl rfl rfl rfl rfl rfl))
  all_goals rfl

theorem keep_onPfxAnswer (s : State) (a1 : RstHeader) (a2 : Nat) (a3 : List Nat) :
    Keep 4947150 s (onPfxAnswer s a1 a2 a3) := by
  unfold onPfxAnswer
  with_reducible repeat' first
    | apply Keep.refl | assumption | apply (keep_continueReads _ _).after
    | apply (keep_endQuery _ _).after | apply (keep_setReads _ _ _).after | split | dsimp only
    | (apply Keep.lit; on_goal 2 => (constructor <;> first | exact .inr rfl | exact .inl rfl | exact .of rfl rfl rfl rfl rfl rfl rfl))
  all_goals rfl

theorem keep_markPublished (s : State) (a1 a2 : Nat) : Keep 2048 s (markPublished s a1 a2) := by
  unfold markPublished
  with_reducible repeat' first
    | (intro) | apply Keep.refl | assumption | apply (keep_setManifest _ _ _).after | split
    | dsimp only
    | (apply Keep.lit; on_goal 2 => (constructor <;> first | exact .inr rfl | exact .inl rfl | exact .of rfl rfl rfl rfl rfl rfl rfl))
  all_goals rfl

theorem keep_onPubAck (s : State) (a1 : RstHeader) (a2 : Nat) : Keep 4943054 s (onPubAck s a1 a2) := by
  unfold onPubAck
  try dsimp only
  with_reducible repeat' first
    | apply Keep.refl | assumption | apply (keep_markPublished _ _ _).after
    | apply (keep_onStale _ _).after | apply (keep_retryTransfers _).after | apply (keep_publishNext _ _).after
    | apply (keep_endTransfer _ _).after | split | dsimp only
  all_goals rfl

theorem keep_onPubNeed (s : State) (a1 : RstHeader) (a2 : Nat) : Keep 4876486 s (onPubNeed s a1 a2) := by
  unfold onPubNeed
  try dsimp only
  with_reducible repeat' first
    | apply Keep.refl | assumption | apply (keep_takeLease _ _).after
    | apply (keep_sendRst _ _).after | split | dsimp only
    | (apply Keep.lit; on_goal 2 => (constructor <;> first | exact .inr rfl | exact .inl rfl | exact .of rfl rfl rfl rfl rfl rfl rfl))
  all_goals rfl

theorem keep_insertSet (s : State) (c : Nat) (l : Ledger) (b h : Nat) : Keep 4230 s (insertSet s c l b h).2 := by
  unfold insertSet
  extract_lets t
  split
  · split
    · exact Keep.refl _ _
    · next x slot tokens _ _ _ =>
      have k := keep_insertBlock s x (recordOfDigest s x slot (ledgerDigest x l b)) (ledgerDigest x l b) tokens [h]
        (isSet s (F.pfxTCtl.pinInsert.at t)) (isSet s (F.pfxTCtl.fine.at t))
      revert k
      dsimp only
      generalize insertBlock _ _ _ _ _ _ _ _ = r
      exact fun k => k
  · exact Keep.refl _ _

theorem keep_setKind (s : State) (a1 a2 : Nat) : Keep 128 s (setKind s a1 a2) := by
  unfold setKind
  with_reducible repeat' first
    | apply Keep.refl | assumption | apply (keep_setOdt _ _ _).after | dsimp only
    | (apply Keep.lit; on_goal 2 => (constructor <;> first | exact .inr rfl | exact .inl rfl | exact .of rfl rfl rfl rfl rfl rfl rfl))
  all_goals rfl

theorem keep_onPublishBlock (s : State) (a1 : RstHeader) (a2 : Nat) (a3 : List Byte) :
    Keep 4946126 s (onPublishBlock s a1 a2 a3) := by
  unfold onPublishBlock
  try dsimp only
  with_reducible repeat' first
    | (intro) | apply Keep.refl | assumption | apply (keep_setKind _ _ _).after
    | apply (keep_insertSet _ _ _ _ _).after | apply (keep_listBlock _ _ _ _).after
    | apply (keep_blockPlace _ _ _ _ _ ‹blockPlace _ _ _ _ = some _›).after | apply (keep_reply _ _ _ _ _).after
    | apply (keep_needLedgerUnits _ _ _ _).after | apply (keep_createObject _ _ _ _ _ _ _).after
    | apply (keep_chooseRun _ _ _ _ _).after | split | dsimp only
  all_goals rfl

theorem keep_sendLease (s : State) (a1 : Nat) : Keep 128 s (sendLease s a1) := by
  unfold sendLease
  with_reducible repeat' first
    | (intro) | apply Keep.refl | assumption | apply (keep_takeLease _ _).after | split
    | dsimp only
  all_goals rfl

theorem keep_sendPage (s : State) (a1 : RstHeader) (a2 : Nat) (a3 : ModelDescriptor) (a4 a5 : Nat) :
    Keep 4876358 s (sendPage s a1 a2 a3 a4 a5) := by
  unfold sendPage
  try dsimp only
  with_reducible repeat' first
    | apply Keep.refl | assumption | apply (keep_reply _ _ _ _ _).after | split | dsimp only
  all_goals rfl

theorem keep_onPull (s : State) (a1 : RstHeader) (a2 a3 a4 : Nat) : Keep 4876486 s (onPull s a1 a2 a3 a4) := by
  unfold onPull
  try dsimp only
  with_reducible repeat' first
    | (intro) | apply Keep.refl | assumption | apply (keep_sendPage _ _ _ _ _ _).after
    | apply (keep_sendLease _ _).after | apply (keep_reply _ _ _ _ _).after | apply Keep.foldl | split | dsimp only
  all_goals rfl

theorem keep_setLost (s : State) (a1 : Nat) : Keep 4202564 s (setLost s a1) := by
  unfold setLost
  try dsimp only
  with_reducible repeat' first
    | (intro) | apply Keep.refl | assumption | apply (keep_setLedger _ _ _).after
    | apply (keep_notify _ _ _).after | apply (keep_latch _ _ _ _ ?_ ?_).next | apply (keep_putF _ _ _).after | split
    | dsimp only
    | (apply Keep.lit; on_goal 2 => (constructor <;> first | exact .inr rfl | exact .inl rfl | exact .of rfl rfl rfl rfl rfl rfl rfl))
  all_goals rfl

theorem keep_onRefused (s : State) (a1 : RstHeader) : Keep 4202564 s (onRefused s a1) := by
  unfold onRefused
  with_reducible repeat' first
    | apply Keep.refl | assumption | apply (keep_setLost _ _).after | split
  all_goals rfl

theorem keep_keepMirrored (s : State) (a1 : Nat) (a2 : Ledger) (a3 : Bool) : Keep 2180 s (keepMirrored s a1 a2 a3) := by
  unfold keepMirrored
  with_reducible repeat' first
    | (intro) | apply Keep.refl | assumption | apply (keep_clearPage _ _ _ _).after
    | apply (keep_clearPages _ _).after | apply Keep.foldl | split | dsimp only
  all_goals rfl

theorem keep_rebuild (s : State) (i : Nat) (l : Ledger) (c : CompNo) (e : Entry) (same : Bool) :
    Keep 4947150 s (rebuild s i l c e same) := by
  unfold rebuild
  extract_lets hs s1 q e1 s2 s3 r s3' q' s4
  have h1 : Keep 4947150 s s1 :=
    Keep.comp (Keep.comp (Keep.comp ((keep_invalidate s i).mono rfl) (keep_endTransfers _ _) rfl) (keep_dropParked _ _) rfl)
      (keep_keepMirrored _ _ _ _) rfl
  have h2 : Keep 4947150 s1 s2 := by
    clear h1
    clear_value e1 hs s1
    have h : Keep 4947150 s1 (if same then setEntry s1 i e1 else fillEntry s1 i e1) := by
      split
      · exact (keep_setEntry _ _ _).mono rfl
      · exact (keep_fillEntry _ _ _).mono rfl
    exact Keep.comp (Keep.comp (Keep.comp h (keep_arbitrate _ _) rfl) (keep_setHeld _ _ _) rfl) (keep_hear _ _) rfl
  have h3 : Keep 4947150 s2 s3 := by
    clear h1 h2
    clear_value s2
    exact Keep.comp ((keep_writeHistory _ _ _ _).mono rfl) (keep_setInput _ _ _) rfl
  have h4 : Keep 4947150 s3 s3' := by
    clear h1 h2 h3
    clear_value s3
    refine Keep.comp ?_ (keep_setTrack _ _ _) rfl
    split
    · exact (keep_countDenied _ _ _).mono rfl
    · exact Keep.refl _ _
  have h5 : Keep 4947150 s3' s4 := by
    clear h1 h2 h3 h4
    clear_value s3'
    constructor <;> first | exact .inr rfl | exact .inl rfl | exact .of rfl rfl rfl rfl rfl rfl rfl
  have h := (((h1.trans h2).trans h3).trans h4).trans h5
  clear h1 h2 h3 h4 h5
  clear_value s4
  exact (h.comp (keep_setReads _ _ _) rfl).comp (keep_continueReads _ _) rfl

theorem keep_onRecover (s : State) (a1 : RstHeader) (a2 : Ledger) : Keep 4947150 s (onRecover s a1 a2) := by
  unfold onRecover
  try dsimp only
  with_reducible repeat' first
    | (intro) | apply Keep.refl | assumption | apply (keep_rebuild _ _ _ _ _ _).after
    | apply (keep_onRefused _ _).after | apply (keep_cutWaits _ _).after | apply (keep_reply _ _ _ _ _).after
    | apply (keep_chooseFree _ _ _ _).after | split | dsimp only
    | (apply Keep.lit; on_goal 2 => (constructor <;> first | exact .inr rfl | exact .inl rfl | exact .of rfl rfl rfl rfl rfl rfl rfl))
  all_goals rfl

theorem keep_onRelease (s : State) (a1 : RstHeader) : Keep 4943054 s (onRelease s a1) := by
  unfold onRelease
  try dsimp only
  with_reducible repeat' first
    | apply Keep.refl | assumption | apply (keep_handedOff _ _ _).after | split | dsimp only
  all_goals rfl

theorem keep_onResume (s : State) (a1 : RstHeader) : Keep 4943054 s (onResume s a1) := by
  unfold onResume
  try dsimp only
  with_reducible repeat' first
    | apply Keep.refl | assumption | apply (keep_failHandoff _ _).after
    | apply (keep_arbitrate _ _).after | apply (keep_sendRst _ _).after | apply (keep_setTransfer _ _ _).after | split
    | dsimp only
    | (apply Keep.lit; on_goal 2 => (constructor <;> first | exact .inr rfl | exact .inl rfl | exact .of rfl rfl rfl rfl rfl rfl rfl))
  all_goals rfl

theorem keep_onWhoOwns (s : State) (a1 : RstHeader) : Keep 4876358 s (onWhoOwns s a1) := by
  unfold onWhoOwns
  try dsimp only
  with_reducible repeat' first
    | apply Keep.refl | assumption | apply (keep_reply _ _ _ _ _).after
    | apply (keep_sendRst _ _).after | split | dsimp only
    | (apply Keep.lit; on_goal 2 => (constructor <;> first | exact .inr rfl | exact .inl rfl | exact .of rfl rfl rfl rfl rfl rfl rfl))
  all_goals rfl

theorem keep_takeMsg (s : State) (a1 : RstHeader) (a2 : RstMsg) : Keep 4947150 s (takeMsg s a1 a2) := by
  unfold takeMsg
  with_reducible repeat' first
    | apply Keep.refl | assumption | apply (keep_onWhoOwns _ _).after
    | apply (keep_onResume _ _).after | apply (keep_onRelease _ _).after | apply (keep_onRecover _ _ _).after
    | apply (keep_onRefused _ _).after | apply (keep_onPull _ _ _ _ _).after | apply (keep_onPublishBlock _ _ _ _).after
    | apply (keep_onPubNeed _ _ _).after | apply (keep_onPubAck _ _ _).after | apply (keep_onPfxAnswer _ _ _ _).after
    | apply (keep_onPageData _ _ _ _ _ _).after | apply (keep_onOwnerIs _ _ _).after | apply (keep_onOpened _ _).after
    | apply (keep_onOpen _ _ _ _ _ _ _).after | apply (keep_onOfferAck _ _).after | apply (keep_onOffer _ _ _ _ _ _ _).after
    | apply (keep_onObjData _ _ _ _).after | apply (keep_onLogAppend _ _ _ _ _).after | apply (keep_onLogAck _ _ _).after
    | apply (keep_onGrant _ _).after | apply (keep_onDeny _ _).after | apply (keep_onClosed _ _).after
    | apply (keep_onClose _ _).after | apply (keep_onClaim _ _ _ _).after | apply (keep_onAsk _ _ _).after | split
  all_goals rfl

theorem keep_engine (s : State) (a1 : RstHeader) (a2 : RstMsg) : Keep 4947150 s (engine s a1 a2) := by
  unfold engine
  with_reducible repeat' first
    | apply Keep.refl | assumption | apply (keep_takeMsg _ _ _).after
    | apply (keep_retryAsks _).after | apply (keep_hearMsg _ _ _).after
  all_goals rfl

theorem keep_passMessage (s : State) (a1 : RstHeader) (a2 : RstMsg) : Keep 131074 s (passMessage s a1 a2) := by
  unfold passMessage
  try dsimp only
  with_reducible repeat' first
    | apply Keep.refl | assumption | apply (keep_pick _ _).after
    | apply (keep_enqueue _ _ _).after | split | dsimp only
  all_goals rfl

theorem keep_deliverWhole (s : State) (a1 : RstHeader) (a2 : RstMsg) : Keep 4947150 s (deliverWhole s a1 a2) := by
  unfold deliverWhole
  with_reducible repeat' first
    | apply Keep.refl | assumption | apply (keep_passMessage _ _ _).after
    | apply (keep_engine _ _ _).after | split
  all_goals rfl

theorem keep_deliver (s : State) (a1 : RstHeader) (a2 : RstMsg) : Keep 4947150 s (deliver s a1 a2) := by
  unfold deliver
  try dsimp only
  with_reducible repeat' first
    | apply Keep.refl | assumption | apply (keep_deliverWhole _ _ _).after
    | apply (keep_setConn _ _).after | split | dsimp only
    | (apply Keep.lit; on_goal 2 => (constructor <;> first | exact .inr rfl | exact .inl rfl | exact .of rfl rfl rfl rfl rfl rfl rfl))
  all_goals rfl

theorem keep_deliverAll (a0 : PartAddr) (a1 : Nat) (s : State) (a3 : RstHeader) (a4 : RstMsg) :
    Keep 4947150 s (deliverAll a0 a1 s a3 a4) := by
  fun_induction deliverAll a0 a1 s a3 a4
  all_goals (try dsimp only)
  with_reducible repeat' first
    | (intro) | apply Keep.refl | assumption | apply (keep_deliver _ _ _).after
    | apply (keep_setConn _ _).after | apply Keep.after (by assumption) | split | dsimp only
    | (apply Keep.lit; on_goal 2 => (constructor <;> first | exact .inr rfl | exact .inl rfl | exact .of rfl rfl rfl rfl rfl rfl rfl))
  all_goals rfl

theorem keep_railsOff (s : State) (a1 : Nat) : Keep 3145726 s (railsOff s a1) := by
  unfold railsOff
  try dsimp only
  with_reducible repeat' first
    | apply Keep.refl | assumption | apply (keep_coldState _).after | dsimp only
    | (apply Keep.lit; on_goal 2 => (constructor <;> first | exact .inr rfl | exact .inl rfl | exact .of rfl rfl rfl rfl rfl rfl rfl))
  all_goals rfl

theorem keep_warmComps (s : State) : Keep 4195524 s (warmComps s) := by
  unfold warmComps
  try dsimp only
  with_reducible repeat' first
    | (intro) | apply Keep.refl | assumption | apply (keep_showPressure _ _ _ _).after
    | apply Keep.foldl2 | apply Keep.foldl | split | dsimp only
    | (apply Keep.lit; on_goal 2 => (constructor <;> first | exact .inr rfl | exact .inl rfl | exact .of rfl rfl rfl rfl rfl rfl rfl))
  all_goals rfl

theorem keep_idleStatus (s : State) (a1 : Field × Nat) : Keep 4 s (idleStatus s a1) := by
  unfold idleStatus
  with_reducible repeat' first
    | apply Keep.refl | assumption | apply (keep_putF _ _ _).after | split | dsimp only
  all_goals rfl

theorem keep_warmFields (s : State) : Keep 4 s (warmFields s) := by
  unfold warmFields
  try dsimp only
  with_reducible repeat' first
    | (intro) | apply Keep.refl | assumption | apply (keep_idleStatus _ _).after
    | apply (keep_putF _ _ _).after | apply Keep.foldl | dsimp only
    | (apply Keep.lit; on_goal 2 => (constructor <;> first | exact .inr rfl | exact .inl rfl | exact .of rfl rfl rfl rfl rfl rfl rfl))
  all_goals rfl

theorem keep_warmRegion (s : State) (a1 : Nat) : Keep 260 s (warmRegion s a1) := by
  unfold warmRegion
  try dsimp only
  with_reducible repeat' first
    | apply Keep.refl | assumption | apply (keep_clearSticky _ _).after
    | apply (keep_setRegion _ _ _).after | apply (keep_putF _ _ _).after | split | dsimp only
    | (apply Keep.lit; on_goal 2 => (constructor <;> first | exact .inr rfl | exact .inl rfl | exact .of rfl rfl rfl rfl rfl rfl rfl))
  all_goals rfl

end Sys2Proof.Machine
end

