-- ==== Sys2Proof/Laws/FramesC.lean ====
section
/-! SUPPORT. What each operation may change, as a mask of the parts of State (Keep): the operations, third part. -/

namespace Sys2Proof.Machine

open Sys2Proof

set_option linter.all false

theorem keep_freeUnit (s : State) (a1 : Nat) : Keep 128 s (freeUnit s a1) := by
  unfold freeUnit
  with_reducible repeat' first
    | apply Keep.refl | assumption | dsimp only
    | (apply Keep.lit; on_goal 2 => (constructor <;> first | exact .inr rfl | exact .inl rfl | exact .of rfl rfl rfl rfl rfl rfl rfl))
  all_goals rfl

theorem keep_reclaimUnits (s : State) : Keep 128 s (reclaimUnits s) := by
  unfold reclaimUnits
  try dsimp only
  with_reducible repeat' first
    | (intro) | apply Keep.refl | assumption | apply (keep_freeUnit _ _).after
    | apply (keep_wake _ _).after | apply Keep.foldl2 | apply Keep.foldl | split | dsimp only
    | (apply Keep.lit; on_goal 2 => (constructor <;> first | exact .inr rfl | exact .inl rfl | exact .of rfl rfl rfl rfl rfl rfl rfl))
  all_goals rfl

theorem keep_tombstone (s : State) (a1 : NandReport) (a2 a3 a4 : Nat) : Keep 4456518 s (tombstone s a1 a2 a3 a4) := by
  unfold tombstone
  try dsimp only
  with_reducible repeat' first
    | (intro) | apply Keep.refl | assumption | apply (keep_noteCorrected _ _).after
    | apply (keep_gcUpdate _).after | apply (keep_programJobs _ _ _).after | split | dsimp only
    | (apply Keep.lit; on_goal 2 => (constructor <;> first | exact .inr rfl | exact .inl rfl | exact .of rfl rfl rfl rfl rfl rfl rfl))
  all_goals rfl

theorem keep_releaseCopy (s : State) (a1 : NandReport) (a2 : OdtEntry) (a3 : Nat) :
    Keep 4456646 s (releaseCopy s a1 a2 a3) := by
  unfold releaseCopy
  with_reducible repeat' first
    | (intro) | apply Keep.refl | assumption | apply (keep_tombstone _ _ _ _ _).after
    | apply (keep_protectRange _ _ _ _).after | apply Keep.foldl2 | apply Keep.foldl | split | dsimp only
    | (apply Keep.lit; on_goal 2 => (constructor <;> first | exact .inr rfl | exact .inl rfl | exact .of rfl rfl rfl rfl rfl rfl rfl))
  all_goals rfl

theorem keep_releaseCopies (s : State) (a1 : NandReport) : Keep 4456646 s (releaseCopies s a1) := by
  unfold releaseCopies
  try dsimp only
  with_reducible repeat' first
    | (intro) | apply Keep.refl | assumption | apply (keep_releaseCopy _ _ _ _).after
    | apply Keep.foldl2 | apply Keep.foldl | dsimp only
    | (apply Keep.lit; on_goal 2 => (constructor <;> first | exact .inr rfl | exact .inl rfl | exact .of rfl rfl rfl rfl rfl rfl rfl))
  all_goals rfl

theorem keep_endCopyLease (s : State) (a1 : OdtEntry) : Keep 128 s (endCopyLease s a1) := by
  unfold endCopyLease
  with_reducible repeat' first
    | apply Keep.refl | assumption | apply (keep_endLease _ _).after | split
  all_goals rfl

theorem keep_freeOdt (s : State) (a1 a2 : Nat) : Keep 128 s (freeOdt s a1 a2) := by
  unfold freeOdt
  with_reducible repeat' first
    | apply Keep.refl | assumption | apply (keep_setOdt _ _ _).after | dsimp only
    | (apply Keep.lit; on_goal 2 => (constructor <;> first | exact .inr rfl | exact .inl rfl | exact .of rfl rfl rfl rfl rfl rfl rfl))
  all_goals rfl

theorem keep_failPublish (s : State) (a1 : Nat) : Keep 128 s (failPublish s a1) := by
  unfold failPublish
  try dsimp only
  with_reducible repeat' first
    | apply Keep.refl | assumption | apply (keep_freeOdt _ _ _).after
    | apply (keep_endCopyLease _ _).after | apply (keep_protectRange _ _ _ _).after | split | dsimp only
  all_goals rfl

theorem keep_interruptedCopy (s : State) (a1 a2 a3 : Nat) : Keep 4456518 s (interruptedCopy s a1 a2 a3) := by
  unfold interruptedCopy
  try dsimp only
  with_reducible repeat' first
    | (intro) | apply Keep.refl | assumption | apply (keep_programJobs _ _ _).after
    | apply (keep_drawFree _).after | dsimp only
    | (apply Keep.lit; on_goal 2 => (constructor <;> first | exact .inr rfl | exact .inl rfl | exact .of rfl rfl rfl rfl rfl rfl rfl))
  all_goals rfl

theorem keep_reclaimObject (s : State) (a1 : NandReport) (a2 : Nat) : Keep 4456646 s (reclaimObject s a1 a2) := by
  unfold reclaimObject
  try dsimp only
  with_reducible repeat' first
    | apply Keep.refl | assumption | apply (keep_freeOdt _ _ _).after
    | apply (keep_releaseCopy _ _ _ _).after | dsimp only
  all_goals rfl

theorem keep_warmObject (s : State) (a1 : Nat) : Keep 4456646 s (warmObject s a1) := by
  unfold warmObject
  try dsimp only
  with_reducible repeat' first
    | apply Keep.refl | assumption | apply (keep_reclaimObject _ _ _).after
    | apply (keep_interruptedCopy _ _ _ _).after | apply (keep_failPublish _ _).after | apply (keep_setOdt _ _ _).after | split
    | dsimp only
    | (apply Keep.lit; on_goal 2 => (constructor <;> first | exact .inr rfl | exact .inl rfl | exact .of rfl rfl rfl rfl rfl rfl rfl))
  all_goals rfl

theorem keep_warmRequests (s : State) : Keep 4468422 s (warmRequests s) := by
  unfold warmRequests
  try dsimp only
  with_reducible repeat' first
    | (intro) | apply Keep.refl | assumption | apply (keep_warmObject _ _).after
    | apply (keep_releaseCopies _ _).after | apply (keep_reclaimUnits _).after | apply (keep_freeEntry _ _).after
    | apply (keep_retireUnits _ _).after | apply Keep.foldl2 | apply Keep.foldl | split | dsimp only
    | (apply Keep.lit; on_goal 2 => (constructor <;> first | exact .inr rfl | exact .inl rfl | exact .of rfl rfl rfl rfl rfl rfl rfl))
  all_goals rfl

theorem keep_writeBackAll (s : State) (a1 : Nat) : Keep 65544 s (writeBackAll s a1) := by
  unfold writeBackAll
  with_reducible repeat' first
    | (intro) | apply Keep.refl | assumption | apply (keep_writeBack _ _ _).after
    | apply Keep.foldl | dsimp only
  all_goals rfl

theorem keep_warmState (s : State) : Keep 7340030 s (warmState s) := by
  unfold warmState
  extract_lets s1 s2 s3 s4 s5 _ s6 s7
  have h1 : Keep 7340030 s s1 :=
    Keep.comp (Keep.foldl (Keep.refl _ _) (fun u n => (keep_writeBackAll u n).mono rfl)) (keep_stopWrites _) rfl
  have h2 : Keep 7340030 s1 s2 := by
    refine Keep.after (keep_warmComps _) ?_ rfl
    clear h1
    clear_value s1
    constructor <;> first | exact .inr rfl | exact .inl rfl | exact .of rfl rfl rfl rfl rfl rfl rfl
  have h3 : Keep 7340030 s2 s3 := Keep.foldl (Keep.refl _ _) (fun u n => (keep_warmRegion u n).mono rfl)
  have h4 : Keep 7340030 s3 s4 := (keep_warmRequests _).mono rfl
  have h5 : Keep 7340030 s4 s5 := Keep.foldl (Keep.refl _ _) (fun u e => (keep_releaseModel u e.1).mono rfl)
  have h6 : Keep 7340030 s5 s6 := by
    refine Keep.after (keep_warmFields _) ?_ rfl
    clear h1 h2 h3 h4 h5
    clear_value s5
    constructor <;> first | exact .inr rfl | exact .inl rfl | exact .of rfl rfl rfl rfl rfl rfl rfl
  have h7 : Keep 7340030 s6 s7 := (keep_updatePressure _).mono rfl
  refine ((((((h1.trans h2).trans h3).trans h4).trans h5).trans h6).trans h7).trans ?_
  clear h1 h2 h3 h4 h5 h6 h7
  clear_value s7
  constructor <;> first | exact .inr rfl | exact .inl rfl | exact .of rfl rfl rfl rfl rfl rfl rfl

theorem keep_endDeparture (s : State) (a1 : AfterDeparture) : Keep 7340030 s (endDeparture s a1) := by
  unfold endDeparture
  try dsimp only
  with_reducible repeat' first
    | (intro) | apply Keep.refl | assumption | apply (keep_warmState _).after
    | apply (keep_railsOff _ _).after | apply (keep_coldState _).after | apply (keep_sendPower _ _).after | apply Keep.foldl2
    | apply Keep.foldl | split | dsimp only
    | (apply Keep.lit; on_goal 2 => (constructor <;> first | exact .inr rfl | exact .inl rfl | exact .of rfl rfl rfl rfl rfl rfl rfl))
  all_goals rfl

theorem keep_sendChain (s : State) (a1 a2 : Nat) (a3 : List Nat) : Keep 4194306 s (sendChain s a1 a2 a3) := by
  unfold sendChain
  try dsimp only
  with_reducible repeat' first
    | apply Keep.refl | assumption | apply (keep_drawFree _).after | apply (keep_emit _ _).after
    | dsimp only
    | (apply Keep.lit; on_goal 2 => (constructor <;> first | exact .inr rfl | exact .inl rfl | exact .of rfl rfl rfl rfl rfl rfl rfl))
  all_goals rfl

theorem keep_depart (s : State) (a1 : AfterDeparture) : Keep 7340030 s (depart s a1) := by
  unfold depart
  try dsimp only
  with_reducible repeat' first
    | (intro) | apply Keep.refl | assumption | apply (keep_sendChain _ _ _ _).after
    | apply (keep_endDeparture _ _).after | apply (keep_enqueue _ _ _).after | apply Keep.foldl | split | dsimp only
    | (apply Keep.lit; on_goal 2 => (constructor <;> first | exact .inr rfl | exact .inl rfl | exact .of rfl rfl rfl rfl rfl rfl rfl))
  all_goals rfl

theorem keep_detachComp (s : State) (a1 : Nat) : Keep 1536 s (detachComp s a1) := by
  unfold detachComp
  try dsimp only
  with_reducible repeat' first
    | apply Keep.refl | assumption | apply (keep_setSlot _ _ _).after
    | apply (keep_releaseModel _ _).after | split | dsimp only
    | (apply Keep.lit; on_goal 2 => (constructor <;> first | exact .inr rfl | exact .inl rfl | exact .of rfl rfl rfl rfl rfl rfl rfl))
  all_goals rfl

theorem keep_directed (s : State) (a1 : List Byte) : Keep 4194304 s (directed s a1) := by
  unfold directed
  with_reducible repeat' first
    | apply Keep.refl | assumption | apply (keep_emit _ _).after | split
  all_goals rfl

theorem keep_discardCopies (s : State) : Keep 538752 s (discardCopies s) := by
  unfold discardCopies
  with_reducible repeat' first
    | (intro) | apply Keep.refl | assumption | split | dsimp only
    | (apply Keep.lit; on_goal 2 => (constructor <;> first | exact .inr rfl | exact .inl rfl | exact .of rfl rfl rfl rfl rfl rfl rfl))
  all_goals rfl

theorem keep_discardRange (a0 : NandReport) (s : State) : Keep 4456518 s (discardRange a0 s) := by
  unfold discardRange
  try dsimp only
  with_reducible repeat' first
    | apply Keep.refl | assumption | apply (keep_tombstone _ _ _ _ _).after
    | apply (keep_putF _ _ _).after | split | dsimp only
  all_goals rfl

theorem keep_leaveRegion (s : State) (a1 a2 : Nat) (t : State) (h : leaveRegion s a1 a2 = some t) : Keep 1282 s t := by
  unfold leaveRegion at h
  try dsimp only at h
  repeat' split at h
  all_goals (first | cases h | skip)
  with_reducible repeat' first
    | apply Keep.refl | assumption
    | apply (keep_saveUnit _ _ _ _ _ ‹saveUnit _ _ _ _ = some _›).after | split
  all_goals rfl

theorem keep_placePass (s : State) (a1 : Nat) (a2 : Pass) (t : State) (h : placePass s a1 a2 = some t) : Keep 642 s t := by
  unfold placePass at h
  try dsimp only at h
  repeat' split at h
  all_goals (first | cases h | skip)
  with_reducible repeat' first
    | (intro) | apply Keep.refl | assumption | apply (keep_takeLease _ _).after
    | apply (keep_chooseFree _ _ _ _).after | split | dsimp only
    | (apply Keep.lit; on_goal 2 => (constructor <;> first | exact .inr rfl | exact .inl rfl | exact .of rfl rfl rfl rfl rfl rfl rfl))
  all_goals rfl

theorem keep_fillCores (s : State) : Keep 642 s (fillCores s) := by
  unfold fillCores
  with_reducible repeat' first
    | (intro) | apply Keep.refl | assumption
    | apply (keep_placePass _ _ _ _ ‹placePass _ _ _ = some _›).after | apply Keep.foldl2 | apply Keep.foldl | split
    | dsimp only
    | (apply Keep.lit; on_goal 2 => (constructor <;> first | exact .inr rfl | exact .inl rfl | exact .of rfl rfl rfl rfl rfl rfl rfl))
  all_goals rfl

theorem keep_issuePasses (s : State) (a1 : Nat) (a2 : Step) (a3 : LayerWork) : Keep 1666 s (issuePasses s a1 a2 a3) := by
  unfold issuePasses
  try dsimp only
  with_reducible repeat' first
    | (intro) | apply Keep.refl | assumption | apply (keep_fillCores _).after
    | apply (keep_setStep _ _ _).after | split | dsimp only
    | (apply Keep.lit; on_goal 2 => (constructor <;> first | exact .inr rfl | exact .inl rfl | exact .of rfl rfl rfl rfl rfl rfl rfl))
  all_goals rfl

theorem keep_takeThreads (s : State) (a1 : Nat) : Keep 128 s (takeThreads s a1) := by
  unfold takeThreads
  with_reducible repeat' first
    | (intro) | apply Keep.refl | assumption | apply (keep_takeLease _ _).after
    | apply Keep.foldl | dsimp only
  all_goals rfl

theorem keep_writeRow (s : State) (a1 : Step) (a2 : RowWrite) : Keep 65544 s (writeRow s a1 a2) := by
  unfold writeRow
  try dsimp only
  with_reducible repeat' first
    | apply Keep.refl | assumption | apply (keep_memWrite _ _ _).after | split | dsimp only
  all_goals rfl

theorem keep_startUnit (s : State) (a1 a2 : Nat) (a3 : Kernel) (a4 : Option LayerWork) :
    Keep 67502 s (startUnit s a1 a2 a3 a4) := by
  unfold startUnit
  try dsimp only
  with_reducible repeat' first
    | (intro) | apply Keep.refl | assumption | apply (keep_writeRow _ _ _).after
    | apply (keep_takeThreads _ _).after | apply (keep_issuePasses _ _ _ _).after | apply (keep_bringStep _ _ _).after
    | apply (keep_wrapF _ _ _).after | apply (keep_setRunning _ _ _).after | apply (keep_setStep _ _ _).after | apply Keep.foldl
    | split | dsimp only
    | (apply Keep.lit; on_goal 2 => (constructor <;> first | exact .inr rfl | exact .inl rfl | exact .of rfl rfl rfl rfl rfl rfl rfl))
  all_goals rfl

theorem keep_giveRegion (s : State) (a1 a2 : Nat) (a3 : Kernel) (a4 : Option LayerWork) :
    Keep 67502 s (giveRegion s a1 a2 a3 a4) := by
  unfold giveRegion
  try dsimp only
  with_reducible repeat' first
    | apply Keep.refl | assumption | apply (keep_startUnit _ _ _ _ _).after
    | apply (keep_leaveRegion _ _ _ _ ‹leaveRegion _ _ _ = some _›).after | apply (keep_satF _ _).after | split | dsimp only
  all_goals rfl

theorem keep_purgeStep (s : State) (a1 : Nat) : Keep 3840 s (purgeStep s a1) := by
  unfold purgeStep
  with_reducible repeat' first
    | (intro) | apply Keep.refl | assumption | apply (keep_discardPart _ _ _).after
    | apply Keep.foldl | split | dsimp only
  all_goals rfl

theorem keep_purgeWaiting (s : State) (a1 : Nat) : Keep 3840 s (purgeWaiting s a1) := by
  unfold purgeWaiting
  try dsimp only
  with_reducible repeat' first
    | (intro) | apply Keep.refl | assumption | apply (keep_purgeStep _ _).after
    | apply Keep.foldl | split | dsimp only
  all_goals rfl

theorem keep_dispatch (s : State) (a1 a2 : Nat) (a3 : Composition) (a4 : ModelDescriptor) (a5 : Kernel) (a6 : Option LayerWork) (a7 : List (Nat × List Byte)) :
    Keep 4943854 s (dispatch s a1 a2 a3 a4 a5 a6 a7) := by
  unfold dispatch
  try dsimp only
  with_reducible repeat' first
    | (intro) | apply Keep.refl | assumption | apply (keep_purgeWaiting _ _).after
    | apply (keep_giveRegion _ _ _ _ _).after | apply (keep_beginStep _ _ _ _ _ _ _ _).after
    | apply (keep_pickTenant _ _ _).after | apply (keep_advancePointer _ _ _).after | split | dsimp only
  all_goals rfl

theorem keep_doAddRegions (s : State) (a1 : CompNo) : Keep 6291780 s (doAddRegions s a1) := by
  unfold doAddRegions
  try dsimp only
  with_reducible repeat' first
    | apply Keep.refl | assumption | apply (keep_compStatus _ _).after
    | apply (keep_tieRegions _ _ _).after | apply (keep_sendFeed _ _).after | split | dsimp only
  all_goals rfl

theorem keep_doAdopt (s : State) (a1 : ObjCommand) : Keep 4194496 s (doAdopt s a1) := by
  unfold doAdopt
  try dsimp only
  with_reducible repeat' first
    | apply Keep.refl | assumption | apply (keep_completeObj _ _ _ _).after
    | apply (keep_publishEntry _ _ _ _).after | apply (keep_setOdt _ _ _).after | split | dsimp only
    | (apply Keep.lit; on_goal 2 => (constructor <;> first | exact .inr rfl | exact .inl rfl | exact .of rfl rfl rfl rfl rfl rfl rfl))
  all_goals rfl

theorem keep_fwStatus (s : State) (a1 : Nat) : Keep 4 s (fwStatus s a1) := by
  unfold fwStatus
  with_reducible repeat' first
    | apply Keep.refl | assumption | apply (keep_putF _ _ _).after
  all_goals rfl

theorem keep_doAdvance (s : State) : Keep 20 s (doAdvance s) := by
  unfold doAdvance
  with_reducible repeat' first
    | apply Keep.refl | assumption | apply (keep_fwStatus _ _).after
    | apply (keep_putF _ _ _).after | split | dsimp only
    | (apply Keep.lit; on_goal 2 => (constructor <;> first | exact .inr rfl | exact .inl rfl | exact .of rfl rfl rfl rfl rfl rfl rfl))
  all_goals rfl

theorem keep_doAllocate (s : State) (a1 : ObjCommand) : Keep 4194498 s (doAllocate s a1) := by
  unfold doAllocate
  try dsimp only
  with_reducible repeat' first
    | apply Keep.refl | assumption | apply (keep_completeObj _ _ _ _).after
    | apply (keep_chooseEntry _).after | apply (keep_setOdt _ _ _).after | split | dsimp only
    | (apply Keep.lit; on_goal 2 => (constructor <;> first | exact .inr rfl | exact .inl rfl | exact .of rfl rfl rfl rfl rfl rfl rfl))
  all_goals rfl

theorem keep_doAttach (s : State) (a1 a2 : Nat) : Keep 4196038 s (doAttach s a1 a2) := by
  unfold doAttach
  with_reducible repeat' first
    | apply Keep.refl | assumption | apply (keep_beginUcode _ _ _).after
    | apply (keep_ucodeStatus _ _).after | apply (keep_attachComp _ _ _ _).after | split
  all_goals rfl

theorem keep_waitHost (s : State) (a1 : Instr) : Keep 64 s (waitHost s a1) := by
  unfold waitHost
  with_reducible repeat' first
    | apply Keep.refl | assumption | dsimp only
    | (apply Keep.lit; on_goal 2 => (constructor <;> first | exact .inr rfl | exact .inl rfl | exact .of rfl rfl rfl rfl rfl rfl rfl))
  all_goals rfl

theorem keep_doAttest (s : State) (a1 : Nat) : Keep 4194372 s (doAttest s a1) := by
  unfold doAttest
  try dsimp only
  with_reducible repeat' first
    | apply Keep.refl | assumption | apply (keep_waitHost _ _).after
    | apply (keep_readHost _ _ _ _).after | apply (keep_putF _ _ _).after | split | dsimp only
  all_goals rfl

theorem keep_doBind (s : State) (a1 : CompNo) (a2 : Role) : Keep 6292804 s (doBind s a1 a2) := by
  unfold doBind
  try dsimp only
  with_reducible repeat' first
    | apply Keep.refl | assumption | apply (keep_compStatus _ _).after
    | apply (keep_tieRegions _ _ _).after | apply (keep_sendFeed _ _).after | apply (keep_setComp _ _ _).after | split
    | dsimp only
    | (apply Keep.lit; on_goal 2 => (constructor <;> first | exact .inr rfl | exact .inl rfl | exact .of rfl rfl rfl rfl rfl rfl rfl))
  all_goals rfl

theorem keep_endBurn (s : State) (a1 : Nat) : Keep 20 s (endBurn s a1) := by
  unfold endBurn
  with_reducible repeat' first
    | apply Keep.refl | assumption | apply (keep_burnStatus _ _).after | dsimp only
    | (apply Keep.lit; on_goal 2 => (constructor <;> first | exact .inr rfl | exact .inl rfl | exact .of rfl rfl rfl rfl rfl rfl rfl))
  all_goals rfl

theorem keep_doBurn (s : State) : Keep 20 s (doBurn s) := by
  unfold doBurn
  with_reducible repeat' first
    | apply Keep.refl | assumption | apply (keep_endBurn _ _).after
    | apply (keep_burnStatus _ _).after | split | dsimp only
    | (apply Keep.lit; on_goal 2 => (constructor <;> first | exact .inr rfl | exact .inl rfl | exact .of rfl rfl rfl rfl rfl rfl rfl))
  all_goals rfl

theorem keep_doDetach (s : State) (a1 : Nat) : Keep 516 s (doDetach s a1) := by
  unfold doDetach
  with_reducible repeat' first
    | apply Keep.refl | assumption | apply (keep_ucodeStatus _ _).after | split | dsimp only
    | (apply Keep.lit; on_goal 2 => (constructor <;> first | exact .inr rfl | exact .inl rfl | exact .of rfl rfl rfl rfl rfl rfl rfl))
  all_goals rfl

theorem keep_scrubRegion (s : State) (a1 : Nat) : Keep 65924 s (scrubRegion s a1) := by
  unfold scrubRegion
  try dsimp only
  with_reducible repeat' first
    | (intro) | apply Keep.refl | assumption | apply (keep_clearSticky _ _).after
    | apply (keep_clearCache _ _).after | apply (keep_endThreads _ _).after | apply (keep_setRegion _ _ _).after | dsimp only
    | (apply Keep.lit; on_goal 2 => (constructor <;> first | exact .inr rfl | exact .inl rfl | exact .of rfl rfl rfl rfl rfl rfl rfl))
  all_goals rfl

theorem keep_emptyRegion (s : State) (a1 : Nat) : Keep 4261316 s (emptyRegion s a1) := by
  unfold emptyRegion
  with_reducible repeat' first
    | apply Keep.refl | assumption | apply (keep_scrubRegion _ _).after
    | apply (keep_setRegionState _ _ _).after
  all_goals rfl

theorem keep_doDrain (s : State) (a1 : Nat) : Keep 4261316 s (doDrain s a1) := by
  unfold doDrain
  with_reducible repeat' first
    | apply Keep.refl | assumption | apply (keep_emptyRegion _ _).after
    | apply (keep_beginDrain _ _ _).after | apply (keep_cmdStatus _ _ _).after | split
  all_goals rfl

theorem keep_doEstablish (s : State) (a1 : Nat) : Keep 4194372 s (doEstablish s a1) := by
  unfold doEstablish
  try dsimp only
  with_reducible repeat' first
    | apply Keep.refl | assumption | apply (keep_waitHost _ _).after
    | apply (keep_readHost _ _ _ _).after | apply (keep_putF _ _ _).after | split | dsimp only
  all_goals rfl

theorem keep_doFree (s : State) (a1 : ObjCommand) : Keep 4194496 s (doFree s a1) := by
  unfold doFree
  try dsimp only
  with_reducible repeat' first
    | apply Keep.refl | assumption | apply (keep_freeOdt _ _ _).after
    | apply (keep_completeObj _ _ _ _).after | split | dsimp only
    | (apply Keep.lit; on_goal 2 => (constructor <;> first | exact .inr rfl | exact .inl rfl | exact .of rfl rfl rfl rfl rfl rfl rfl))
  all_goals rfl

theorem keep_doJoin (s : State) (a1 : TwinRole) : Keep 6961350 s (doJoin s a1) := by
  unfold doJoin
  try dsimp only
  with_reducible repeat' first
    | apply Keep.refl | assumption | apply (keep_discardCopies _).after
    | apply (keep_sendCopy _ _).after | apply (keep_setTwin _ _ _ _).after | apply (keep_markMirrored _ _).after | split
    | dsimp only
    | (apply Keep.lit; on_goal 2 => (constructor <;> first | exact .inr rfl | exact .inl rfl | exact .of rfl rfl rfl rfl rfl rfl rfl))
  all_goals rfl

theorem keep_listStatus (s : State) (a1 : Nat) : Keep 4 s (listStatus s a1) := by
  unfold listStatus
  with_reducible repeat' first
    | apply Keep.refl | assumption | apply (keep_putF _ _ _).after
  all_goals rfl

theorem keep_readKeyList (s : State) (a1 : Nat) (a2 : ReadEnd) : Keep 4194372 s (readKeyList s a1 a2).2 := by
  unfold readKeyList
  try dsimp only
  with_reducible repeat' first
    | apply Keep.refl | assumption | apply (keep_readFailed _ _ _).after
    | apply (keep_askHost _ _).after | split | dsimp only
  all_goals rfl

theorem keep_flushDigests (s : State) : Keep 256 s (flushDigests s) := by
  unfold flushDigests
  with_reducible repeat' first
    | apply Keep.refl | assumption | dsimp only
    | (apply Keep.lit; on_goal 2 => (constructor <;> first | exact .inr rfl | exact .inl rfl | exact .of rfl rfl rfl rfl rfl rfl rfl))
  all_goals rfl

theorem keep_takeKeyList (s : State) (a1 : Option KeyList) : Keep 276 s (takeKeyList s a1) := by
  unfold takeKeyList
  try dsimp only
  with_reducible repeat' first
    | apply Keep.refl | assumption | apply (keep_flushDigests _).after
    | apply (keep_listStatus _ _).after | split | dsimp only
    | (apply Keep.lit; on_goal 2 => (constructor <;> first | exact .inr rfl | exact .inl rfl | exact .of rfl rfl rfl rfl rfl rfl rfl))
  all_goals rfl

theorem keep_doKeylistLoad (s : State) (a1 : Nat) (a2 : ReadEnd) : Keep 4194644 s (doKeylistLoad s a1 a2) := by
  unfold doKeylistLoad
  try dsimp only
  with_reducible repeat' first
    | apply Keep.refl | assumption | apply (keep_takeKeyList _ _).after
    | apply (keep_readKeyList _ _ _).after | apply (keep_listStatus _ _).after | apply (keep_waitHost _ _).after | split
    | dsimp only
  all_goals rfl

theorem keep_doLoad (s : State) (a1 : Nat) : Keep 4263886 s (doLoad s a1) := by
  unfold doLoad
  try dsimp only
  with_reducible repeat' first
    | apply Keep.refl | assumption | apply (keep_beginLoad _ _ _).after
    | apply (keep_cmdStatus _ _ _).after | split | dsimp only
  all_goals rfl

theorem keep_doMove (s : State) (a1 : ObjCommand) : Keep 4194496 s (doMove s a1) := by
  unfold doMove
  try dsimp only
  with_reducible repeat' first
    | apply Keep.refl | assumption | apply (keep_beginMove _ _ _).after
    | apply (keep_completeObj _ _ _ _).after | split | dsimp only
  all_goals rfl

theorem keep_doPin (s : State) (a1 : ObjCommand) : Keep 4194496 s (doPin s a1) := by
  unfold doPin
  try dsimp only
  with_reducible repeat' first
    | apply Keep.refl | assumption | apply (keep_completeObj _ _ _ _).after
    | apply (keep_setOdt _ _ _).after | split | dsimp only
    | (apply Keep.lit; on_goal 2 => (constructor <;> first | exact .inr rfl | exact .inl rfl | exact .of rfl rfl rfl rfl rfl rfl rfl))
  all_goals rfl

theorem keep_doPublish (s : State) (a1 : ObjCommand) : Keep 4194498 s (doPublish s a1) := by
  unfold doPublish
  try dsimp only
  with_reducible repeat' first
    | apply Keep.refl | assumption | apply (keep_beginPublish _ _ _).after
    | apply (keep_completeObj _ _ _ _).after | split | dsimp only
  all_goals rfl

theorem keep_doReload (s : State) (a1 : Nat) : Keep 4195652 s (doReload s a1) := by
  unfold doReload
  with_reducible repeat' first
    | apply Keep.refl | assumption | apply (keep_beginDrain _ _ _).after
    | apply (keep_cmdStatus _ _ _).after | split
  all_goals rfl

theorem keep_doRemoveRegions (s : State) (a1 : CompNo) : Keep 6292804 s (doRemoveRegions s a1) := by
  unfold doRemoveRegions
  try dsimp only
  with_reducible repeat' first
    | (intro) | apply Keep.refl | assumption | apply (keep_compStatus _ _).after
    | apply (keep_tieRegions _ _ _).after | apply (keep_sendFeed _ _).after | apply (keep_releaseModel _ _).after | split
    | dsimp only
  all_goals rfl

theorem keep_doReset (s : State) (a1 : Nat) : Keep 4261316 s (doReset s a1) := by
  unfold doReset
  with_reducible repeat' first
    | apply Keep.refl | assumption | apply (keep_emptyRegion _ _).after
    | apply (keep_cmdStatus _ _ _).after | split
  all_goals rfl

theorem keep_repairRegion (s : State) (a1 : Nat) : Keep 4261332 s (repairRegion s a1) := by
  unfold repairRegion
  with_reducible repeat' first
    | apply Keep.refl | assumption | apply (keep_emptyRegion _ _).after
    | apply (keep_burnRepair _ _ _).after | apply (keep_cmdStatus _ _ _).after | apply (keep_putF _ _ _).after | split
  all_goals rfl

theorem keep_doResetRepair (s : State) (a1 : Nat) : Keep 4261332 s (doResetRepair s a1) := by
  unfold doResetRepair
  with_reducible repeat' first
    | apply Keep.refl | assumption | apply (keep_repairRegion _ _).after
    | apply (keep_emptyRegion _ _).after | apply (keep_cmdStatus _ _ _).after | split
  all_goals rfl

theorem keep_doSeal (s : State) (a1 : ObjCommand) : Keep 4194496 s (doSeal s a1) := by
  unfold doSeal
  try dsimp only
  with_reducible repeat' first
    | apply Keep.refl | assumption | apply (keep_completeObj _ _ _ _).after
    | apply (keep_publishEntry _ _ _ _).after | split | dsimp only
  all_goals rfl

theorem keep_putShare (s : State) (a1 a2 : Nat) (a3 : Option Share) : Keep 1024 s (putShare s a1 a2 a3) := by
  unfold putShare
  with_reducible repeat' first
    | apply Keep.refl | assumption | dsimp only
    | (apply Keep.lit; on_goal 2 => (constructor <;> first | exact .inr rfl | exact .inl rfl | exact .of rfl rfl rfl rfl rfl rfl rfl))
  all_goals rfl

theorem keep_doSet (s : State) (a1 a2 a3 : Nat) : Keep 1024 s (doSet s a1 a2 a3).2 := by
  unfold doSet
  with_reducible repeat' first
    | (intro) | apply Keep.refl | assumption | apply (keep_putShare _ _ _ _).after | split
    | dsimp only
    | (apply Keep.lit; on_goal 2 => (constructor <;> first | exact .inr rfl | exact .inl rfl | exact .of rfl rfl rfl rfl rfl rfl rfl))
  all_goals rfl

theorem keep_doStage (s : State) (a1 : Nat) (a2 : ReadEnd) : Keep 4194388 s (doStage s a1 a2) := by
  unfold doStage
  try dsimp only
  with_reducible repeat' first
    | apply Keep.refl | assumption | apply (keep_waitHost _ _).after
    | apply (keep_fwStatus _ _).after | apply (keep_readImage _ _ _).after | split | dsimp only
    | (apply Keep.lit; on_goal 2 => (constructor <;> first | exact .inr rfl | exact .inl rfl | exact .of rfl rfl rfl rfl rfl rfl rfl))
  all_goals rfl

theorem keep_doStart (s : State) (a1 : Nat) : Keep 4195652 s (doStart s a1) := by
  unfold doStart
  with_reducible repeat' first
    | apply Keep.refl | assumption | apply (keep_setRegionState _ _ _).after
    | apply (keep_cmdStatus _ _ _).after | split
  all_goals rfl

theorem keep_doUnbind (s : State) (a1 : CompNo) : Keep 4200388 s (doUnbind s a1) := by
  unfold doUnbind
  try dsimp only
  with_reducible repeat' first
    | apply Keep.refl | assumption | apply (keep_compStatus _ _).after
    | apply (keep_beginUnbind _ _ _).after | apply (keep_putF _ _ _).after | split | dsimp only
    | (apply Keep.lit; on_goal 2 => (constructor <;> first | exact .inr rfl | exact .inl rfl | exact .of rfl rfl rfl rfl rfl rfl rfl))
  all_goals rfl

theorem keep_doUnpin (s : State) (a1 : ObjCommand) : Keep 4194496 s (doUnpin s a1) := by
  unfold doUnpin
  try dsimp only
  with_reducible repeat' first
    | apply Keep.refl | assumption | apply (keep_completeObj _ _ _ _).after
    | apply (keep_setOdt _ _ _).after | split | dsimp only
    | (apply Keep.lit; on_goal 2 => (constructor <;> first | exact .inr rfl | exact .inl rfl | exact .of rfl rfl rfl rfl rfl rfl rfl))
  all_goals rfl

theorem keep_doUnpublish (s : State) (a1 : ObjCommand) : Keep 4194496 s (doUnpublish s a1) := by
  unfold doUnpublish
  try dsimp only
  with_reducible repeat' first
    | apply Keep.refl | assumption | apply (keep_completeObj _ _ _ _).after
    | apply (keep_retireObject _ _).after | split | dsimp only
  all_goals rfl

theorem keep_doorbellFault (s : State) (a1 a2 : Nat) : Keep 4194372 s (doorbellFault s a1 a2) := by
  unfold doorbellFault
  try dsimp only
  with_reducible repeat' first
    | (intro) | apply Keep.refl | assumption | apply (keep_notify _ _ _).after
    | apply (keep_latch _ _ _ _ ?_ ?_).next | apply (keep_putF _ _ _).after | split | dsimp only
  all_goals rfl

theorem keep_drawCell (s : State) (a1 a2 : Nat) : Keep 256 s (drawCell s a1 a2).2 := by
  unfold drawCell
  try dsimp only
  with_reducible repeat' first
    | apply Keep.refl | assumption | apply (keep_setRegion _ _ _).after | dsimp only
    | (apply Keep.lit; on_goal 2 => (constructor <;> first | exact .inr rfl | exact .inl rfl | exact .of rfl rfl rfl rfl rfl rfl rfl))
  all_goals rfl

theorem keep_drawRoundings (a0 a1 : Nat) (a2 : Bool) (a3 : Nat) (s : State) : Keep 256 s (drawRoundings a0 a1 a2 a3 s).2 := by
  fun_induction drawRoundings a0 a1 a2 a3 s
  all_goals (try dsimp only)
  with_reducible repeat' first
    | apply Keep.refl | assumption | apply (keep_drawCell _ _ _).after
    | apply Keep.after (by assumption) | split | dsimp only
  all_goals rfl

theorem keep_dropBarriers (s : State) (a1 : Nat) : Keep 32768 s (dropBarriers s a1) := by
  unfold dropBarriers
  with_reducible repeat' first
    | (intro) | apply Keep.refl | assumption | dsimp only
    | (apply Keep.lit; on_goal 2 => (constructor <;> first | exact .inr rfl | exact .inl rfl | exact .of rfl rfl rfl rfl rfl rfl rfl))
  all_goals rfl

theorem keep_dropPasses (s : State) (a1 : Nat) : Keep 512 s (dropPasses s a1) := by
  unfold dropPasses
  with_reducible repeat' first
    | (intro) | apply Keep.refl | assumption | dsimp only
    | (apply Keep.lit; on_goal 2 => (constructor <;> first | exact .inr rfl | exact .inl rfl | exact .of rfl rfl rfl rfl rfl rfl rfl))
  all_goals rfl

theorem keep_dropUnheld (s : State) : Keep 4228 s (dropUnheld s) := by
  unfold dropUnheld
  with_reducible repeat' first
    | (intro) | apply Keep.refl | assumption | apply (keep_dropRecord _ _).after
    | apply Keep.foldl | split | dsimp only
  all_goals rfl

theorem keep_dropWhile (a0 a1 a2 : Nat) (a3 : List Nat) (s : State) : Keep 4196548 s (dropWhile a0 a1 a2 a3 s) := by
  fun_induction dropWhile a0 a1 a2 a3 s
  all_goals (try dsimp only)
  with_reducible repeat' first
    | apply Keep.refl | assumption | apply (keep_dropBlock _ _ _ _).after
    | apply (keep_pressComp _ _).after | apply (keep_satF _ _).after | apply Keep.after (by assumption) | split
  all_goals rfl

theorem keep_dropVictim (s : State) (a1 : ModelDescriptor) (a2 a3 : Nat) : Keep 4196548 s (dropVictim s a1 a2 a3) := by
  unfold dropVictim
  try dsimp only
  with_reducible repeat' first
    | (intro) | apply Keep.refl | assumption | apply (keep_dropWhile _ _ _ _ _).after
    | apply (keep_modEntry _ _ _).after | split | dsimp only
    | (apply Keep.lit; on_goal 2 => (constructor <;> first | exact .inr rfl | exact .inl rfl | exact .of rfl rfl rfl rfl rfl rfl rfl))
  all_goals rfl

theorem keep_endAttest (s : State) (a1 : Option (List Byte)) : Keep 4194308 s (endAttest s a1) := by
  unfold endAttest
  with_reducible repeat' first
    | (intro) | apply Keep.refl | assumption | apply (keep_emit _ _).after
    | apply (keep_putF _ _ _).after | split | dsimp only
  all_goals rfl

theorem keep_endCharcoal (s : State) : Keep 4391396 s (endCharcoal s) := by
  unfold endCharcoal
  extract_lets s1 s2
  have h1 : Keep 4391396 s s1 := Keep.foldl (Keep.refl _ _) (fun u n => (keep_scrubRegion _ _).mono rfl)
  have h2 : Keep 4391396 s1 s2 := by
    clear h1
    clear_value s1
    exact Keep.comp ((keep_setPwrState _ _).mono rfl) (keep_pwrStatus _ _) rfl
  have h := h1.trans h2
  clear h1 h2
  clear_value s2
  refine h.trans ?_
  constructor <;> first | exact .inr rfl | exact .inl rfl | exact .of rfl rfl rfl rfl rfl rfl rfl

theorem keep_endComp (s : State) (a1 : Nat) (a2 : CompositionBody) (a3 : MeterComp) : Keep 5242880 s (endComp s a1 a2 a3) := by
  unfold endComp
  with_reducible repeat' first
    | apply Keep.refl | assumption | apply (keep_closeComp _ _ _ _ _).after
    | apply (keep_setMeterComp _ _ _).after | dsimp only
    | (apply Keep.lit; on_goal 2 => (constructor <;> first | exact .inr rfl | exact .inl rfl | exact .of rfl rfl rfl rfl rfl rfl rfl))
  all_goals rfl

theorem keep_failMove (s : State) (a1 : Nat) : Keep 4194496 s (failMove s a1) := by
  unfold failMove
  try dsimp only
  with_reducible repeat' first
    | apply Keep.refl | assumption | apply (keep_endCopyLease _ _).after
    | apply (keep_completeObj _ _ _ _).after | apply (keep_setOdt _ _ _).after | dsimp only
    | (apply Keep.lit; on_goal 2 => (constructor <;> first | exact .inr rfl | exact .inl rfl | exact .of rfl rfl rfl rfl rfl rfl rfl))
  all_goals rfl

theorem keep_putObjectBytes (s : State) (i : Nat) (e : OdtEntry) (tier a : Nat) (bs : List Byte) (t : State)
    (h : putObjectBytes s i e tier a bs = some t) : Keep 4259976 s t := by
  unfold putObjectBytes at h
  split at h
  · rw [Option.map_eq_some_iff] at h
    obtain ⟨k, -, rfl⟩ := h
    exact keep_tierWrite _ _ _ _
  · cases h
    exact keep_tierWrite _ _ _ _

theorem keep_endMove (s : State) (f : NandReport) (i : Nat) (t : State) (h : endMove s f i = some t) : Keep 4522190 s t := by
  have fm : ∀ u, Keep 4522190 u (failMove u i) := fun u => (keep_failMove u i).mono rfl
  have ec : ∀ u x, Keep 4522190 u (endCopyLease u x) := fun u x => (keep_endCopyLease u x).mono rfl
  unfold endMove at h
  extract_lets e raw bytes at h
  clear_value bytes raw
  split at h
  · cases h
    exact fm s
  · next bs =>
    have cs : ∀ r, copySpace (askHost s e) f e.newTier (handleOf s i) e.newLocation e.size = some r → Keep 4522190 s r.2 :=
      fun r hr => ((keep_askHost s e).mono rfl).comp (keep_copySpace _ _ _ _ _ _ r hr) rfl
    generalize copySpace (askHost s e) f e.newTier (handleOf s i) e.newLocation e.size = o at h cs
    split at h
    · cases h
    · next s0 =>
      cases h
      exact (cs _ rfl).trans (fm _)
    · next s0 =>
      have k0 := cs _ rfl
      dsimp only at k0
      split at h
      · cases h
        exact k0.trans (fm _)
      · next s1 hs =>
        have k1 : Keep 4522190 s0 s1 := by
          split at hs
          · cases hs
            exact (keep_tierWrite _ _ _ _).mono rfl
          · exact (keep_putObjectBytes _ _ _ _ _ _ _ hs).mono rfl
        extract_lets s2 s3 q s4 at h
        have k2 : Keep 4522190 s1 s2 := by
          unfold s2
          split
          · exact (keep_protectRange _ _ _ _).mono rfl
          · exact Keep.refl _ _
        have k3 : Keep 4522190 s2 s3 := (keep_setOdt _ _ _).mono rfl
        have k4 : Keep 4522190 s3 s4 := by
          refine Keep.trans ?_ (ec _ _)
          clear k3 h
          clear_value s3
          constructor <;> first | exact .inr rfl | exact .inl rfl | exact .of rfl rfl rfl rfl rfl rfl rfl
        have k5 : Keep 4522190 s4 t := by
          cases h
          exact (keep_completeObj _ _ _ _).mono rfl
        exact ((((k0.trans k1).trans k2).trans k3).trans k4).trans k5

theorem keep_endPublish (s : State) (f : NandReport) (i : Nat) (t : State) (h : endPublish s f i = some t) :
    Keep 4522190 s t := by
  have co : ∀ u j x y, Keep 4522190 u (completeObj u j x y) := fun u j x y => (keep_completeObj u j x y).mono rfl
  have kf : ∀ u, Keep 4522190 u (failPublish u i) := fun u => (keep_failPublish u i).mono rfl
  unfold endPublish at h
  extract_lets e hd j at h
  split at h
  · cases h
    exact (kf _).trans (co _ _ _ _)
  · next bs _ =>
    have cs : ∀ r, copySpace (askHost s (odtOf s j)) f e.tier (handleOf s i) e.location e.size = some r → Keep 4522190 s r.2 :=
      fun r hr => ((keep_askHost s _).mono rfl).comp (keep_copySpace _ _ _ _ _ _ r hr) rfl
    generalize copySpace (askHost s (odtOf s j)) f e.tier (handleOf s i) e.location e.size = o at h cs
    split at h
    · cases h
    · next s0 =>
      cases h
      exact ((cs _ rfl).trans (kf _)).trans (co _ _ _ _)
    · next s0 =>
      have k0 := cs _ rfl
      dsimp only at k0
      split at h
      · cases h
        exact (k0.trans (kf _)).trans (co _ _ _ _)
      · next s1 hs =>
        have k1 : Keep 4522190 s0 s1 := (keep_putObjectBytes _ _ _ _ _ _ _ hs).mono rfl
        extract_lets src s2 at h
        have k2 : Keep 4522190 s1 s2 := by
          unfold s2
          split
          · exact (keep_protectRange _ _ _ _).mono rfl
          · exact Keep.refl _ _
        have k5 : Keep 4522190 s2 t := by
          cases h
          exact Keep.trans (Keep.comp ((keep_endCopyLease s2 e).mono rfl) (keep_publishEntry _ _ _ _) rfl) (co _ _ _ _)
        exact ((k0.trans k1).trans k2).trans k5

theorem keep_failCopy (s : State) (a1 : Nat) : Keep 4194496 s (failCopy s a1) := by
  unfold failCopy
  try dsimp only
  with_reducible repeat' first
    | apply Keep.refl | assumption | apply (keep_failMove _ _).after
    | apply (keep_failPublish _ _).after | apply (keep_completeObj _ _ _ _).after | split | dsimp only
  all_goals rfl

theorem keep_runObj (s : State) (a1 : Nat) (a2 : ObjCommand) : Keep 4194498 s (runObj s a1 a2) := by
  unfold runObj
  with_reducible repeat' first
    | apply Keep.refl | assumption | apply (keep_doUnpublish _ _).after
    | apply (keep_doUnpin _ _).after | apply (keep_doSeal _ _).after | apply (keep_doPublish _ _).after
    | apply (keep_doPin _ _).after | apply (keep_doMove _ _).after | apply (keep_doFree _ _).after
    | apply (keep_doAllocate _ _).after | apply (keep_doAdopt _ _).after | split | dsimp only
    | (apply Keep.lit; on_goal 2 => (constructor <;> first | exact .inr rfl | exact .inl rfl | exact .of rfl rfl rfl rfl rfl rfl rfl))
  all_goals rfl

theorem keep_retryObj (s : State) : Keep 4194498 s (retryObj s) := by
  unfold retryObj
  with_reducible repeat' first
    | (intro) | apply Keep.refl | assumption | apply (keep_runObj _ _ _).after
    | apply Keep.foldl2 | apply Keep.foldl | dsimp only
    | (apply Keep.lit; on_goal 2 => (constructor <;> first | exact .inr rfl | exact .inl rfl | exact .of rfl rfl rfl rfl rfl rfl rfl))
  all_goals rfl

theorem keep_endCopy (s : State) (handle : Nat) (source : ReadEnd) (copied : Bool) (f : NandReport) :
    Keep 4522190 s (endCopy s handle source copied f) := by
  have ro : ∀ u, Keep 4522190 u (retryObj u) := fun u => (keep_retryObj u).mono rfl
  have fc : ∀ u i, Keep 4522190 u (failCopy u i) := fun u i => (keep_failCopy u i).mono rfl
  unfold endCopy
  extract_lets i st
  split
  · exact Keep.refl _ _
  · split
    · exact (((keep_readFailed _ _ _).mono rfl).trans (fc _ _)).trans (ro _)
    · split
      · exact (fc _ _).trans (ro _)
      · have k : ∀ t, (if st == .publishing then endPublish s f i else endMove s f i) = some t → Keep 4522190 s t := by
          intro t h
          split at h
          · exact keep_endPublish _ _ _ _ h
          · exact keep_endMove _ _ _ _ h
        generalize (if st == .publishing then endPublish s f i else endMove s f i) = o at k ⊢
        cases o with
        | none => exact Keep.refl _ _
        | some t => exact (k t rfl).trans (ro t)

theorem keep_vacate (s : State) (a1 : Nat) (t : State) (h : vacate s a1 = some t) : Keep 1282 s t := by
  unfold vacate at h
  try dsimp only at h
  repeat' split at h
  all_goals (first | cases h | skip)
  with_reducible repeat' first
    | apply Keep.refl | assumption
    | apply (keep_saveUnit _ _ _ _ _ ‹saveUnit _ _ _ _ = some _›).after | split
  all_goals rfl

theorem keep_endDrain (s : State) (a1 : Nat) : Keep 4263886 s (endDrain s a1) := by
  unfold endDrain
  try dsimp only
  with_reducible repeat' first
    | apply Keep.refl | assumption | apply (keep_vacate _ _ _ ‹vacate _ _ = some _›).after
    | apply (keep_scrubRegion _ _).after | apply (keep_writeBackAll _ _).after | apply (keep_beginLoad _ _ _).after
    | apply (keep_setRegionState _ _ _).after | split | dsimp only
  all_goals rfl

theorem keep_endEstablish (s : State) (a1 : Option (List Byte)) : Keep 20 s (endEstablish s a1) := by
  unfold endEstablish
  with_reducible repeat' first
    | (intro) | apply Keep.refl | assumption | apply (keep_putF _ _ _).after | split | dsimp only
    | (apply Keep.lit; on_goal 2 => (constructor <;> first | exact .inr rfl | exact .inl rfl | exact .of rfl rfl rfl rfl rfl rfl rfl))
  all_goals rfl

theorem keep_takeOver (s : State) : Keep 6977734 s (takeOver s) := by
  unfold takeOver
  extract_lets _ s1 s2 s3 s4 s5 _ s6
  have h1 : Keep 6977734 s s1 := by
    constructor <;> first | exact .inr rfl | exact .inl rfl | exact .of rfl rfl rfl rfl rfl rfl rfl
  have h2 : Keep 6977734 s1 s2 := Keep.comp ((keep_dropUnheld _).mono rfl) (keep_claimUnits _) rfl
  have h3 : Keep 6977734 s2 s3 := Keep.comp ((keep_advertise _ _).mono rfl) (keep_advertise _ _) rfl
  have h4 : Keep 6977734 s3 s4 := Keep.comp ((keep_setTwin _ _ _ _).mono rfl) (keep_satF _ _) rfl
  have h5 : Keep 6977734 s4 s5 := Keep.foldl (Keep.refl _ _) (fun u e => (keep_giveRecord u _ _).mono rfl)
  have h6 : Keep 6977734 s5 s6 := by
    clear h1 h2 h3 h4 h5
    clear_value s5
    constructor <;> first | exact .inr rfl | exact .inl rfl | exact .of rfl rfl rfl rfl rfl rfl rfl
  exact Keep.foldl (((((h1.trans h2).trans h3).trans h4).trans h5).trans h6) (fun u n => (keep_claimEntry u n).mono rfl)

theorem keep_endFencing (s : State) (a1 : Nat) : Keep 6977734 s (endFencing s a1) := by
  unfold endFencing
  with_reducible repeat' first
    | apply Keep.refl | assumption | apply (keep_takeOver _).after
    | apply (keep_activeAlone _ _).after | split
  all_goals rfl

theorem keep_readCommand (s : State) (a1 : Nat) : Keep 4196352 s (readCommand s a1) := by
  unfold readCommand
  try dsimp only
  with_reducible repeat' first
    | apply Keep.refl | assumption | apply (keep_readHost _ _ _ _).after
    | apply (keep_setQueues _ _ _).after | split | dsimp only
    | (apply Keep.lit; on_goal 2 => (constructor <;> first | exact .inr rfl | exact .inl rfl | exact .of rfl rfl rfl rfl rfl rfl rfl))
  all_goals rfl

theorem keep_failCommandRead (s : State) (a1 a2 a3 a4 : Nat) : Keep 4876358 s (failCommandRead s a1 a2 a3 a4) := by
  unfold failCommandRead
  try dsimp only
  with_reducible repeat' first
    | apply Keep.refl | assumption | apply (keep_readCommand _ _).after
    | apply (keep_recordFault _ _ _ _).after | apply (keep_completeBare _ _ _ _ _ _).after | split | dsimp only
  all_goals rfl

theorem keep_endRead (s : State) (a1 : Nat) (a2 : ReadEnd) : Keep 4263886 s (endRead s a1 a2) := by
  unfold endRead
  try dsimp only
  with_reducible repeat' first
    | apply Keep.refl | assumption | apply (keep_readImage _ _ _).after
    | apply (keep_faultRegion _ _ _ _).after | apply (keep_setRegionState _ _ _).after | apply (keep_setRegion _ _ _).after
    | apply (keep_endLease _ _).after | split | dsimp only
    | (apply Keep.lit; on_goal 2 => (constructor <;> first | exact .inr rfl | exact .inl rfl | exact .of rfl rfl rfl rfl rfl rfl rfl))
  all_goals rfl

theorem keep_failLoads (s : State) (a1 : Nat → Bool) : Keep 4263886 s (failLoads s a1) := by
  unfold failLoads
  try dsimp only
  with_reducible repeat' first
    | (intro) | apply Keep.refl | assumption | apply (keep_endRead _ _ _).after
    | apply (keep_placePackage _ _ _).after | apply (keep_faultSlot _ _ _).after | apply (keep_endLease _ _).after
    | apply Keep.foldl | split | dsimp only
    | (apply Keep.lit; on_goal 2 => (constructor <;> first | exact .inr rfl | exact .inl rfl | exact .of rfl rfl rfl rfl rfl rfl rfl))
  all_goals rfl

theorem keep_failRestore (s : State) (a1 : Nat) : Keep 4943054 s (failRestore s a1) := by
  unfold failRestore
  with_reducible repeat' first
    | apply Keep.refl | assumption | apply (keep_failEntry _ _ _).after
    | apply (keep_applyHeld _ _).after | apply (keep_endRestore _ _ _).after | split
  all_goals rfl

theorem keep_endHostRead (s : State) (a1 : HostReadUse) (a2 : HostReadResult) : Keep 5205982 s (endHostRead s a1 a2) := by
  unfold endHostRead
  try dsimp only
  with_reducible repeat' first
    | (intro) | apply Keep.refl | assumption | apply (keep_failRestore _ _).after
    | apply (keep_failLoads _ _).after | apply (keep_failCommandRead _ _ _ _ _).after | apply (keep_endEstablish _ _).after
    | apply (keep_endCopy _ _ _ _ _).after | apply (keep_endAttest _ _).after | apply (keep_countReadError _ _).after | split
    | dsimp only
    | (apply Keep.lit; on_goal 2 => (constructor <;> first | exact .inr rfl | exact .inl rfl | exact .of rfl rfl rfl rfl rfl rfl rfl))
  all_goals rfl

theorem keep_endPackage (s : State) (a1 : Nat) (a2 : Option Nat) (a3 : ReadEnd) : Keep 4194758 s (endPackage s a1 a2 a3) := by
  unfold endPackage
  try dsimp only
  with_reducible repeat' first
    | apply Keep.refl | assumption | apply (keep_readImage _ _ _).after
    | apply (keep_placePackage _ _ _).after | apply (keep_endLease _ _).after | split | dsimp only
    | (apply Keep.lit; on_goal 2 => (constructor <;> first | exact .inr rfl | exact .inl rfl | exact .of rfl rfl rfl rfl rfl rfl rfl))
  all_goals rfl

theorem keep_endPass (s : State) (a1 a2 : Nat) (a3 : Pass) (a4 : Option Nat) : Keep 4198086 s (endPass s a1 a2 a3 a4) := by
  unfold endPass
  try dsimp only
  with_reducible repeat' first
    | (intro) | apply Keep.refl | assumption | apply (keep_fillCores _).after
    | apply (keep_badPage _ _ _).after | apply (keep_wrapF _ _ _).after | apply (keep_endLease _ _).after | split | dsimp only
    | (apply Keep.lit; on_goal 2 => (constructor <;> first | exact .inr rfl | exact .inl rfl | exact .of rfl rfl rfl rfl rfl rfl rfl))
  all_goals rfl

theorem keep_restorePage (s : State) (a1 : Composition) (a2 : ModelDescriptor) (a3 : Nat) (a4 : Nat × Nat × Nat × List Byte) :
    Keep 67722 s (restorePage s a1 a2 a3 a4).2 := by
  unfold restorePage
  try dsimp only
  with_reducible repeat' first
    | apply Keep.refl | assumption | apply (keep_needUnit _ _ _ _).after
    | apply (keep_allocPage _ _ _ _ _).after | apply (keep_setPageEntry _ _ _ _ _).after | apply (keep_memWrite _ _ _).after
    | apply (keep_sealPage _ _ _).after | split | dsimp only
    | (apply Keep.lit; on_goal 2 => (constructor <;> first | exact .inr rfl | exact .inl rfl | exact .of rfl rfl rfl rfl rfl rfl rfl))
  all_goals rfl

theorem keep_restorePages (a0 : Composition) (a1 : ModelDescriptor) (a2 : Nat) (a3 : List (Nat × Nat × Nat × List Byte)) (s : State) :
    Keep 67722 s (restorePages a0 a1 a2 a3 s).2 := by
  fun_induction restorePages a0 a1 a2 a3 s
  all_goals (try dsimp only)
  with_reducible repeat' first
    | apply Keep.refl | assumption | apply (keep_restorePage _ _ _ _ _).after
    | apply Keep.after (by assumption) | split | dsimp only
  all_goals rfl

theorem keep_restored (s : State) (a1 : Nat) : Keep 4943054 s (restored s a1) := by
  unfold restored
  try dsimp only
  with_reducible repeat' first
    | (intro) | apply Keep.refl | assumption | apply (keep_applyHeld _ _).after
    | apply (keep_endRestore _ _ _).after | apply (keep_seizeEntry _ _).after | apply (keep_modEntry _ _ _).after
    | apply (keep_dropParked _ _).after | split | dsimp only
    | (apply Keep.lit; on_goal 2 => (constructor <;> first | exact .inr rfl | exact .inl rfl | exact .of rfl rfl rfl rfl rfl rfl rfl))
  all_goals rfl

theorem keep_endRestoring (s : State) (a1 : Nat) (a2 : Composition) (a3 : ModelDescriptor) :
    Keep 4943054 s (endRestoring s a1 a2 a3) := by
  unfold endRestoring
  try dsimp only
  with_reducible repeat' first
    | apply Keep.refl | assumption | apply (keep_restored _ _).after
    | apply (keep_restorePages _ _ _ _ _).after | apply (keep_askHost _ _).after | apply (keep_waitFor _ _ _).after
    | apply (keep_failEntry _ _ _).after | apply (keep_applyHeld _ _).after | apply (keep_endRestore _ _ _).after | split
    | dsimp only
  all_goals rfl

theorem keep_flushDomain (s : State) (a1 : Nat) : Keep 4228 s (flushDomain s a1) := by
  unfold flushDomain
  try dsimp only
  with_reducible repeat' first
    | (intro) | apply Keep.refl | assumption | apply (keep_dropRecord _ _).after
    | apply Keep.foldl | dsimp only
    | (apply Keep.lit; on_goal 2 => (constructor <;> first | exact .inr rfl | exact .inl rfl | exact .of rfl rfl rfl rfl rfl rfl rfl))
  all_goals rfl

theorem keep_unpinDomain (s : State) (a1 : Nat) : Keep 4096 s (unpinDomain s a1) := by
  unfold unpinDomain
  try dsimp only
  with_reducible repeat' first
    | (intro) | apply Keep.refl | assumption | split | dsimp only
    | (apply Keep.lit; on_goal 2 => (constructor <;> first | exact .inr rfl | exact .inl rfl | exact .of rfl rfl rfl rfl rfl rfl rfl))
  all_goals rfl

theorem keep_endScan (s : State) : Keep 4198596 s (endScan s) := by
  unfold endScan
  try dsimp only
  with_reducible repeat' first
    | apply Keep.refl | assumption | apply (keep_unpinDomain _ _).after
    | apply (keep_flushDomain _ _).after | apply (keep_domainDone _ _).after | split | dsimp only
    | (apply Keep.lit; on_goal 2 => (constructor <;> first | exact .inr rfl | exact .inl rfl | exact .of rfl rfl rfl rfl rfl rfl rfl))
  all_goals rfl

theorem keep_endStage (s : State) (a1 : Bool) : Keep 20 s (endStage s a1) := by
  unfold endStage
  try dsimp only
  with_reducible repeat' first
    | apply Keep.refl | assumption | apply (keep_fwStatus _ _).after
    | apply (keep_setIdleSlot _ _).after | split | dsimp only
    | (apply Keep.lit; on_goal 2 => (constructor <;> first | exact .inr rfl | exact .inl rfl | exact .of rfl rfl rfl rfl rfl rfl rfl))
  all_goals rfl

theorem keep_verifyImage (s : State) (a1 a2 : Nat) (a3 : Image) (a4 a5 : Bool) :
    Keep 258 s (verifyImage s a1 a2 a3 a4 a5).2 := by
  unfold verifyImage
  try dsimp only
  with_reducible repeat' first
    | apply Keep.refl | assumption | apply (keep_checkSignature _ _).after | split | dsimp only
  all_goals rfl

theorem keep_verifyUcode (s : State) (a1 : Fin 16) (a2 : CompNo) (a3 : Image) (a4 : Bool) :
    Keep 4196166 s (verifyUcode s a1 a2 a3 a4) := by
  unfold verifyUcode
  try dsimp only
  with_reducible repeat' first
    | apply Keep.refl | assumption | apply (keep_verifyImage _ _ _ _ _ _).after
    | apply (keep_faultSlot _ _ _).after | apply (keep_ucodeStatus _ _).after | apply (keep_attnNotify _).after
    | apply (keep_attachComp _ _ _ _).after | apply (keep_setSlot _ _ _).after | split | dsimp only
    | (apply Keep.lit; on_goal 2 => (constructor <;> first | exact .inr rfl | exact .inl rfl | exact .of rfl rfl rfl rfl rfl rfl rfl))
  all_goals rfl

theorem keep_endUcode (s : State) (a1 : Fin 16) (a2 : CompNo) (a3 : ReadEnd) (a4 : Bool) :
    Keep 4196294 s (endUcode s a1 a2 a3 a4) := by
  unfold endUcode
  try dsimp only
  with_reducible repeat' first
    | apply Keep.refl | assumption | apply (keep_verifyUcode _ _ _ _ _).after
    | apply (keep_readImage _ _ _).after | apply (keep_faultSlot _ _ _).after | apply (keep_setSlot _ _ _).after
    | apply (keep_endLease _ _).after | split | dsimp only
    | (apply Keep.lit; on_goal 2 => (constructor <;> first | exact .inr rfl | exact .inl rfl | exact .of rfl rfl rfl rfl rfl rfl rfl))
  all_goals rfl

theorem keep_endUnbind (s : State) (a1 : CompNo) (a2 : Composition) : Keep 6292676 s (endUnbind s a1 a2) := by
  unfold endUnbind
  try dsimp only
  with_reducible repeat' first
    | apply Keep.refl | assumption | apply (keep_compStatus _ _).after
    | apply (keep_sendFeed _ _).after | apply (keep_showPressure _ _ _ _).after | apply (keep_setComp _ _ _).after | dsimp only
    | (apply Keep.lit; on_goal 2 => (constructor <;> first | exact .inr rfl | exact .inl rfl | exact .of rfl rfl rfl rfl rfl rfl rfl))
  all_goals rfl

theorem keep_setAcc (s : State) (a1 a2 a3 : Nat) (a4 : Bool) (a5 : BitVec 32) : Keep 256 s (setAcc s a1 a2 a3 a4 a5) := by
  unfold setAcc
  with_reducible repeat' first
    | apply Keep.refl | assumption | apply (keep_setRegion _ _ _).after | dsimp only
    | (apply Keep.lit; on_goal 2 => (constructor <;> first | exact .inr rfl | exact .inl rfl | exact .of rfl rfl rfl rfl rfl rfl rfl))
  all_goals rfl

theorem keep_leaveAcc (s : State) (a1 a2 a3 : Nat) (a4 : BitVec 32 × Sticky) : Keep 260 s (leaveAcc s a1 a2 a3 a4) := by
  unfold leaveAcc
  with_reducible repeat' first
    | apply Keep.refl | assumption | apply (keep_setAcc _ _ _ _ _ _).after
    | apply (keep_setSticky _ _ _).after | dsimp only
  all_goals rfl

theorem keep_leaveConverted (s : State) (a1 a2 a3 a4 : Nat) (a5 : Format) (a6 : List Num) :
    Keep 260 s (leaveConverted s a1 a2 a3 a4 a5 a6) := by
  unfold leaveConverted
  try dsimp only
  with_reducible repeat' first
    | (intro) | apply Keep.refl | assumption | apply (keep_drawRoundings _ _ _ _ _).after
    | apply (keep_writeIvory _ _ _ _).after | apply (keep_setSticky _ _ _).after | apply Keep.foldl2 | apply Keep.foldl
    | dsimp only
    | (apply Keep.lit; on_goal 2 => (constructor <;> first | exact .inr rfl | exact .inl rfl | exact .of rfl rfl rfl rfl rfl rfl rfl))
  all_goals rfl

theorem keep_quantiseRow (a0 a1 : Nat) (a2 : Shade) (a3 : Bool) (a4 : List (List (BitVec 32))) (s : State) :
    Keep 256 s (quantiseRow a0 a1 a2 a3 a4 s).2 := by
  fun_induction quantiseRow a0 a1 a2 a3 a4 s
  all_goals (try dsimp only)
  with_reducible repeat' first
    | apply Keep.refl | assumption | apply (keep_drawRoundings _ _ _ _ _).after
    | apply Keep.after (by assumption) | dsimp only
    | (apply Keep.lit; on_goal 2 => (constructor <;> first | exact .inr rfl | exact .inl rfl | exact .of rfl rfl rfl rfl rfl rfl rfl))
  all_goals rfl

theorem keep_leaveQuantised (s : State) (a1 a2 a3 a4 : Nat) (a5 : Shade) (a6 : List (BitVec 32)) :
    Keep 260 s (leaveQuantised s a1 a2 a3 a4 a5 a6) := by
  unfold leaveQuantised
  try dsimp only
  with_reducible repeat' first
    | apply Keep.refl | assumption | apply (keep_quantiseRow _ _ _ _ _ _).after
    | apply (keep_writeIvory _ _ _ _).after | apply (keep_setSticky _ _ _).after | dsimp only
  all_goals rfl

theorem keep_leaveWord (s : State) (a1 a2 : Nat) (a3 : BitVec 32 × Sticky) : Keep 260 s (leaveWord s a1 a2 a3) := by
  unfold leaveWord
  with_reducible repeat' first
    | apply Keep.refl | assumption | apply (keep_writeIvory _ _ _ _).after
    | apply (keep_setSticky _ _ _).after | dsimp only
  all_goals rfl

theorem keep_sumTiles (s : State) (a1 : Nat) (a2 : List Nat) (a3 : Nat) : Keep 260 s (sumTiles s a1 a2 a3) := by
  unfold sumTiles
  with_reducible repeat' first
    | (intro) | apply Keep.refl | assumption | apply (keep_leaveAcc _ _ _ _ _).after
    | apply Keep.foldl | dsimp only
  all_goals rfl

theorem keep_fabricOp (s : State) (a1 : Nat) (a2 : FabricOp) : Keep 260 s (fabricOp s a1 a2) := by
  unfold fabricOp
  try dsimp only
  with_reducible repeat' first
    | (intro) | apply Keep.refl | assumption | apply (keep_sumTiles _ _ _ _).after
    | apply (keep_leaveWord _ _ _ _).after | apply (keep_leaveQuantised _ _ _ _ _ _ _).after
    | apply (keep_leaveConverted _ _ _ _ _ _ _).after | apply (keep_leaveAcc _ _ _ _ _).after
    | apply (keep_setAcc _ _ _ _ _ _).after | apply (keep_writeIvory _ _ _ _).after | apply (keep_setSticky _ _ _).after
    | apply (keep_setRegion _ _ _).after | apply Keep.foldl2 | apply Keep.foldl | split | dsimp only
    | (apply Keep.lit; on_goal 2 => (constructor <;> first | exact .inr rfl | exact .inl rfl | exact .of rfl rfl rfl rfl rfl rfl rfl))
  all_goals rfl

theorem keep_mergeRow (s : State) (a1 a2 a3 a4 a5 a6 a7 : Nat) (a8 : Format) (a9 a10 a11 : Nat) :
    Keep 772 s (mergeRow s a1 a2 a3 a4 a5 a6 a7 a8 a9 a10 a11) := by
  unfold mergeRow
  try dsimp only
  with_reducible repeat' first
    | (intro) | apply Keep.refl | assumption | apply (keep_leaveConverted _ _ _ _ _ _ _).after
    | apply (keep_setSticky _ _ _).after | dsimp only
    | (apply Keep.lit; on_goal 2 => (constructor <;> first | exact .inr rfl | exact .inl rfl | exact .of rfl rfl rfl rfl rfl rfl rfl))
  all_goals rfl

theorem keep_unitOp (a0 a1 : Nat) (s : State) (a3 : FabricOp) : Keep 66316 s (unitOp a0 a1 s a3) := by
  unfold unitOp
  with_reducible repeat' first
    | apply Keep.refl | assumption | apply (keep_mergeRow _ _ _ _ _ _ _ _ _ _ _ _).after
    | apply (keep_fabricOp _ _ _).after | apply (keep_writeRow _ _ _).after
    | apply (keep_attendPages _ _ _ _ _ _ _ _ _ _ _).after | split
  all_goals rfl

theorem keep_endUnit (s : State) (a1 : Nat) (a2 : Unit) (a3 : List FabricOp) (a4 : Bool) :
    Keep 69516 s (endUnit s a1 a2 a3 a4) := by
  unfold endUnit
  try dsimp only
  with_reducible repeat' first
    | (intro) | apply Keep.refl | assumption | apply (keep_unitOp _ _ _ _).after
    | apply (keep_dropPasses _ _).after | apply (keep_purgeStep _ _).after | apply (keep_setRunning _ _ _).after
    | apply (keep_endThreads _ _).after | apply (keep_chargeUnit _ _).after | apply (keep_setStep _ _ _).after
    | apply Keep.foldl | split | dsimp only
    | (apply Keep.lit; on_goal 2 => (constructor <;> first | exact .inr rfl | exact .inl rfl | exact .of rfl rfl rfl rfl rfl rfl rfl))
  all_goals rfl

theorem keep_initIvory (s : State) (a1 : Nat) (a2 : SectionEntry) : Keep 256 s (initIvory s a1 a2) := by
  unfold initIvory
  try dsimp only
  with_reducible repeat' first
    | (intro) | apply Keep.refl | assumption | apply (keep_writeIvory _ _ _ _).after
    | apply Keep.foldl2 | apply Keep.foldl | split | dsimp only
  all_goals rfl

theorem keep_placeImage (s : State) (a1 : Nat) (a2 : Image) : Keep 256 s (placeImage s a1 a2) := by
  unfold placeImage
  try dsimp only
  with_reducible repeat' first
    | (intro) | apply Keep.refl | assumption | apply (keep_initIvory _ _ _).after
    | apply (keep_setRegion _ _ _).after | apply Keep.foldl | dsimp only
    | (apply Keep.lit; on_goal 2 => (constructor <;> first | exact .inr rfl | exact .inl rfl | exact .of rfl rfl rfl rfl rfl rfl rfl))
  all_goals rfl

theorem keep_endVerify (s : State) (a1 : Nat) (a2 : Bool) : Keep 4263886 s (endVerify s a1 a2) := by
  unfold endVerify
  try dsimp only
  with_reducible repeat' first
    | apply Keep.refl | assumption | apply (keep_placeImage _ _ _).after
    | apply (keep_verifyImage _ _ _ _ _ _).after | apply (keep_faultRegion _ _ _ _).after
    | apply (keep_setRegionState _ _ _).after | apply (keep_fixModel _ _ _).after | split | dsimp only
  all_goals rfl

theorem keep_resetEndpoint (s : State) (a1 : Bool) : Keep 68 s (resetEndpoint s a1) := by
  unfold resetEndpoint
  try dsimp only
  with_reducible repeat' first
    | (intro) | apply Keep.refl | assumption | apply (keep_putF _ _ _).after | split | dsimp only
    | (apply Keep.lit; on_goal 2 => (constructor <;> first | exact .inr rfl | exact .inl rfl | exact .of rfl rfl rfl rfl rfl rfl rfl))
  all_goals rfl

theorem keep_endpointReset (s : State) (a1 : Bool) : KeepO 7340030 s (endpointReset s a1) := by
  unfold endpointReset
  with_reducible repeat' first
    | (intro) | apply Keep.refl | assumption | apply KeepO.next
    | apply (keep_resetEndpoint _ _).after | apply (keep_depart _ _).after | apply keep_act | dsimp only
  all_goals rfl

theorem keep_entryLost (peer : PartAddr) (s : State) (i : Nat) : Keep 4947150 s (entryLost peer s i) := by
  have al : ∀ u, Keep 4947150 u (auditLost u i) := fun u => (keep_auditLost u i).mono rfl
  have ra : ∀ n, Keep 4947150 s (refuseAdmission s i n) := fun n => (keep_refuseAdmission s i n).mono rfl
  unfold entryLost
  extract_lets e home _ s1 s2 s3
  split
  · split
    · exact ra _
    · split
      · exact ra _
      · split
        · exact (keep_endQuery _ _).mono rfl
        · exact Keep.refl _ _
  · split
    · exact (keep_takeoverDenied _ _).mono rfl
    · have h1 : Keep 4947150 s s1 := by
        unfold s1
        split
        · constructor <;> first | exact .inr rfl | exact .inl rfl | exact .of rfl rfl rfl rfl rfl rfl rfl
        · exact Keep.refl _ _
      have h2 : Keep 4947150 s1 s2 := by
        clear h1
        clear_value s1
        unfold s2
        split
        · split
          · exact Keep.comp (Keep.comp ((keep_clearBlock _ _ _ _).mono rfl) (keep_setReads _ _ _) rfl) (keep_continueReads _ _) rfl
          · exact Keep.refl _ _
        · exact Keep.refl _ _
      have h3 : Keep 4947150 s2 s3 := by
        clear h1 h2
        clear_value s2
        unfold s3
        split
        · split
          · exact (keep_endTransfer _ _).mono rfl
          · exact Keep.refl _ _
        · exact Keep.refl _ _
      have h := (h1.trans h2).trans h3
      clear h1 h2 h3
      clear_value s3
      split
      · split
        · exact h.trans (al _)
        · exact h
      · split
        · exact h
        · split
          · exact h.trans (al _)
          · split
            · exact h.trans ((keep_setTransfer _ _ _).mono rfl)
            · exact h

theorem keep_releaseFreed (s : State) : Keep 4194496 s (releaseFreed s) := by
  unfold releaseFreed
  try dsimp only
  with_reducible repeat' first
    | (intro) | apply Keep.refl | assumption | apply (keep_completeObj _ _ _ _).after
    | apply Keep.foldl2 | apply Keep.foldl | dsimp only
    | (apply Keep.lit; on_goal 2 => (constructor <;> first | exact .inr rfl | exact .inl rfl | exact .of rfl rfl rfl rfl rfl rfl rfl))
  all_goals rfl

theorem keep_releaseLeased (s : State) (a1 : NandReport) : Keep 4456646 s (releaseLeased s a1) := by
  unfold releaseLeased
  with_reducible repeat' first
    | apply Keep.refl | assumption | apply (keep_releaseFreed _).after
    | apply (keep_retryObj _).after | apply (keep_releaseCopies _ _).after
  all_goals rfl

theorem keep_epochTick (s : State) : Keep 4456646 s (epochTick s) := by
  unfold epochTick
  with_reducible repeat' first
    | apply Keep.refl | assumption | apply (keep_releaseLeased _ _).after
    | apply (keep_reclaimUnits _).after | dsimp only
    | (apply Keep.lit; on_goal 2 => (constructor <;> first | exact .inr rfl | exact .inl rfl | exact .of rfl rfl rfl rfl rfl rfl rfl))
  all_goals rfl

theorem keep_evictFor (a0 a1 a2 : Nat) (s : State) : Keep 4198596 s (evictFor a0 a1 a2 s) := by
  fun_induction evictFor a0 a1 a2 s
  all_goals (try dsimp only)
  with_reducible repeat' first
    | apply Keep.refl | assumption | apply (keep_dropRecord _ _).after
    | apply (keep_pressComp _ _).after | apply Keep.after (by assumption) | split
  all_goals rfl

theorem keep_takeObj (s : State) (a1 : Nat) (a2 : ObjCommand) : Keep 4194502 s (takeObj s a1 a2) := by
  unfold takeObj
  try dsimp only
  with_reducible repeat' first
    | apply Keep.refl | assumption | apply (keep_runObj _ _ _).after
    | apply (keep_completeObj _ _ _ _).after | apply (keep_emit _ _).after | apply (keep_putF _ _ _).after | split | dsimp only
  all_goals rfl

theorem keep_setMemberState (s : State) (a1 : Nat) (a2 : MemberState) : Keep 32768 s (setMemberState s a1 a2) := by
  unfold setMemberState
  with_reducible repeat' first
    | apply Keep.refl | assumption | dsimp only
    | (apply Keep.lit; on_goal 2 => (constructor <;> first | exact .inr rfl | exact .inl rfl | exact .of rfl rfl rfl rfl rfl rfl rfl))
  all_goals rfl

theorem keep_memberLeaves (s : State) (a1 : Nat) (a2 : MemberState) : Keep 32768 s (memberLeaves s a1 a2) := by
  unfold memberLeaves
  try dsimp only
  with_reducible repeat' first
    | apply Keep.refl | assumption | apply (keep_setMemberState _ _ _).after
    | apply (keep_dropBarriers _ _).after | split | dsimp only
  all_goals rfl

theorem keep_whenReady {w : Nat} (s : State) (h : ChainHead) (cmd : Nat) (effect : State → State) (hw : 4194304 &&& w = 4194304)
    (he : ∀ u, Keep w u (effect u)) : Keep w s (whenReady s h cmd effect) := by
  unfold whenReady
  split
  · exact he s
  · exact (keep_answerChain s h cmd 1 []).mono hw

theorem keep_readTokens (s : State) (a1 : Nat) (a2 : HostCommand) : Keep 4194304 s (readTokens s a1 a2) := by
  unfold readTokens
  with_reducible repeat' first
    | apply Keep.refl | assumption | apply (keep_readHost _ _ _ _).after | split
  all_goals rfl

theorem keep_serveCommand (s : State) (a1 a2 : Nat) (a3 : HostCommand) (a4 : Option (List Nat)) :
    Keep 4943054 s (serveCommand s a1 a2 a3 a4) := by
  unfold serveCommand
  try dsimp only
  with_reducible repeat' first
    | apply Keep.refl | assumption | apply (keep_readTokens _ _ _).after
    | apply (keep_readCommand _ _).after | apply (keep_applyHeld _ _).after | apply (keep_runCommand _ _ _).after
    | apply (keep_answerBare _ _ _ _).after | split | dsimp only
  all_goals rfl

theorem keep_readLine (s : State) (a1 : Nat) : Keep 65544 s (readLine s a1) := by
  unfold readLine
  try dsimp only
  with_reducible repeat' first
    | apply Keep.refl | assumption | apply (keep_storeLine _ _ _).after
    | apply (keep_setCacheLine _ _ _ _).after | apply (keep_setHomeLine _ _ _).after | split | dsimp only
    | (apply Keep.lit; on_goal 2 => (constructor <;> first | exact .inr rfl | exact .inl rfl | exact .of rfl rfl rfl rfl rfl rfl rfl))
  all_goals rfl

theorem keep_unsupported (s : State) : Keep 4194308 s (unsupported s) := by
  unfold unsupported
  with_reducible repeat' first
    | apply Keep.refl | assumption | apply (keep_reportAer _ _).after
    | apply (keep_satF _ _).after | apply (keep_emit _ _).after
  all_goals rfl

theorem keep_readBar4 (s : State) (a1 a2 : Nat) : Keep 4259854 s (readBar4 s a1 a2) := by
  unfold readBar4
  try dsimp only
  with_reducible repeat' first
    | (intro) | apply Keep.refl | assumption | apply (keep_unsupported _).after
    | apply (keep_readLine _ _).after | apply (keep_emit _ _).after | apply Keep.foldl | split | dsimp only
    | (apply Keep.lit; on_goal 2 => (constructor <;> first | exact .inr rfl | exact .inl rfl | exact .of rfl rfl rfl rfl rfl rfl rfl))
  all_goals rfl

theorem keep_recordViolation (s : State) (a1 : Nat) : Keep 4194372 s (recordViolation s a1) := by
  unfold recordViolation
  with_reducible repeat' first
    | (intro) | apply Keep.refl | assumption | apply (keep_notify _ _ _).after
    | apply (keep_latch _ _ _ _ ?_ ?_).next | apply (keep_putF _ _ _).after | split | dsimp only
  all_goals rfl

theorem keep_writeLine (a0 : Nat) (a1 : List Byte) (s : State) (a3 : Nat) : Keep 4259854 s (writeLine a0 a1 s a3) := by
  unfold writeLine
  try dsimp only
  with_reducible repeat' first
    | apply Keep.refl | assumption | apply (keep_request _ _ _).after | dsimp only
  all_goals rfl

theorem keep_writeBar4 (s : State) (a1 : Nat) (a2 : List Byte) : Keep 4259918 s (writeBar4 s a1 a2) := by
  unfold writeBar4
  with_reducible repeat' first
    | (intro) | apply Keep.refl | assumption | apply (keep_writeLine _ _ _ _).after
    | apply (keep_recordViolation _ _).after | apply (keep_unsupported _).after | apply Keep.foldl | split
  all_goals rfl

theorem keep_readDie (s : State) (a1 : Nat) (a2 : ℤ) : Keep 4 s (readDie s a1 a2) := by
  unfold readDie
  with_reducible repeat' first
    | apply Keep.refl | assumption | apply (keep_putF _ _ _).after
  all_goals rfl

theorem keep_revokeSlot (s : State) (k : Nat) : Keep 16 s (revokeSlot s k) := by
  have h : Lasts s (revokeSlot s k) := by
    refine ⟨id, fun a i h => ?_, id, Nat.le_refl _, id, id⟩
    unfold Safety.burned at h ⊢
    change (tabGet 0 (tabPutRun 0 s.plt.fuses (512 * k + 508) (List.replicate 4 255#8)) a).getLsbD i = true
    rw [tabGet_putRun]
    split
    · rw [List.getElem_replicate]
      have hi : i < 8 := BitVec.lt_of_getLsbD h
      interval_cases i <;> rfl
    · exact h
  constructor <;> first | exact .inr rfl | exact .inl rfl | exact h

theorem keep_spoilSlot (s : State) (a1 : Nat) : Keep 18 s (spoilSlot s a1) := by
  unfold spoilSlot
  try dsimp only
  with_reducible repeat' first
    | (intro) | apply Keep.refl | assumption | apply (keep_burnSlot _ _ _).after | split
    | dsimp only
    | (apply Keep.lit; on_goal 2 => (constructor <;> first | exact .inr rfl | exact .inl rfl | exact .of rfl rfl rfl rfl rfl rfl rfl))
  all_goals rfl

theorem keep_finishBurn (s : State) (a1 : Bool) : Keep 22 s (finishBurn s a1) := by
  unfold finishBurn
  try dsimp only
  with_reducible repeat' first
    | apply Keep.refl | assumption | apply (keep_spoilSlot _ _).after
    | apply (keep_revokeSlot _ _).after | apply (keep_endBurn _ _).after | apply (keep_burnSlot _ _ _).after | split
    | dsimp only
  all_goals rfl

theorem keep_flushTenant (s : State) (a1 : Nat) : Keep 4720704 s (flushTenant s a1) := by
  unfold flushTenant
  with_reducible repeat' first
    | apply Keep.refl | assumption | apply (keep_flushWith _ _ _).after
  all_goals rfl

theorem keep_flushAll (s : State) : Keep 4720704 s (flushAll s) := by
  unfold flushAll
  with_reducible repeat' first
    | (intro) | apply Keep.refl | assumption | apply (keep_flushTenant _ _).after
    | apply Keep.foldl | dsimp only
  all_goals rfl

theorem keep_resumeRead (s : State) (a1 : Instr) : Keep 4194644 s (resumeRead s a1) := by
  unfold resumeRead
  with_reducible repeat' first
    | apply Keep.refl | assumption | apply (keep_doStage _ _ _).after
    | apply (keep_doKeylistLoad _ _ _).after | apply (keep_readHost _ _ _ _).after | split
  all_goals rfl

theorem keep_resumeReads (s : State) : Keep 4194644 s (resumeReads s) := by
  unfold resumeReads
  with_reducible repeat' first
    | (intro) | apply Keep.refl | assumption | apply (keep_resumeRead _ _).after
    | apply Keep.foldl | dsimp only
    | (apply Keep.lit; on_goal 2 => (constructor <;> first | exact .inr rfl | exact .inl rfl | exact .of rfl rfl rfl rfl rfl rfl rfl))
  all_goals rfl

theorem keep_resumeHost (s : State) : Keep 4721108 s (resumeHost s) := by
  unfold resumeHost
  try dsimp only
  with_reducible repeat' first
    | apply Keep.refl | assumption | apply (keep_resumeReads _).after
    | apply (keep_flushAll _).after | apply (keep_releaseVectors _).after | apply (keep_flushObj _ _).after | split | dsimp only
  all_goals rfl

theorem keep_takeAck (s : State) (a1 : RstHeader) : Keep 4350022 s (takeAck s a1) := by
  unfold takeAck
  try dsimp only
  with_reducible repeat' first
    | (intro) | apply Keep.refl | assumption | apply (keep_pump _ _ _).after
    | apply (keep_setConn _ _).after | split | dsimp only
    | (apply Keep.lit; on_goal 2 => (constructor <;> first | exact .inr rfl | exact .inl rfl | exact .of rfl rfl rfl rfl rfl rfl rfl))
  all_goals rfl

theorem keep_onConnection (a0 s : State) (a2 : RstHeader) (a3 : RstMsg) : Keep 4947150 s (onConnection a0 s a2 a3) := by
  unfold onConnection
  try dsimp only
  with_reducible repeat' first
    | apply Keep.refl | assumption | apply (keep_takeAck _ _).after
    | apply (keep_deliverAll _ _ _ _ _).after | apply (keep_acknowledge _ _ _).after | apply (keep_setConn _ _).after | split
    | dsimp only
    | (apply Keep.lit; on_goal 2 => (constructor <;> first | exact .inr rfl | exact .inl rfl | exact .of rfl rfl rfl rfl rfl rfl rfl))
  all_goals rfl

theorem keep_markFrame (s : State) (a1 : Bool) (a2 a3 : Nat) (a4 : Colour) : Keep 131076 s (markFrame s a1 a2 a3 a4).2 := by
  unfold markFrame
  try dsimp only
  with_reducible repeat' first
    | apply Keep.refl | assumption | apply (keep_satF _ _).after | split | dsimp only
    | (apply Keep.lit; on_goal 2 => (constructor <;> first | exact .inr rfl | exact .inl rfl | exact .of rfl rfl rfl rfl rfl rfl rfl))
  all_goals rfl

theorem keep_police (s : State) (a1 : PortNo) (a2 a3 a4 a5 : Nat) : Keep 131076 s (police s a1 a2 a3 a4 a5).2 := by
  unfold police
  try dsimp only
  with_reducible repeat' first
    | apply Keep.refl | assumption | apply (keep_markFrame _ _ _ _ _).after
    | apply (keep_satF _ _).after | split | dsimp only
  all_goals rfl

theorem keep_rejectBlock (s : State) (a1 : BlockResult) : Keep 4194372 s (rejectBlock s a1) := by
  unfold rejectBlock
  with_reducible repeat' first
    | apply Keep.refl | assumption | apply (keep_notify _ _ _).after
    | apply (keep_satF _ _).after | split
  all_goals rfl

theorem keep_rejectTag (s : State) : Keep 4194372 s (rejectTag s) := by
  unfold rejectTag
  with_reducible repeat' first
    | apply Keep.refl | assumption | apply (keep_notify _ _ _).after
    | apply (keep_satF _ _).after | split
  all_goals rfl

theorem keep_receive (s : State) (a1 : RstHeader) (a2 : RstMsg) : Keep 4947150 s (receive s a1 a2) := by
  unfold receive
  try dsimp only
  with_reducible repeat' first
    | apply Keep.refl | assumption | apply (keep_rejectTag _).after
    | apply (keep_rejectBlock _ _).after | apply (keep_police _ _ _ _ _ _).after | apply (keep_onConnection _ _ _ _).after
    | apply (keep_engine _ _ _).after | split | dsimp only
  all_goals rfl

theorem keep_rstRow (s : State) (a1 : RstHeader) (a2 : RstMsg) (a3 : Instr) : KeepO 7044334 s (rstRow s a1 a2 a3) := by
  unfold rstRow
  with_reducible repeat' first
    | (intro) | apply Keep.refl | assumption | apply KeepO.next
    | apply (keep_receive _ _ _).after | apply keep_actFrame | dsimp only
  all_goals rfl

theorem keep_writeCqHead (s : State) (a1 a2 : Nat) : Keep 4720708 s (writeCqHead s a1 a2) := by
  unfold writeCqHead
  try dsimp only
  with_reducible repeat' first
    | apply Keep.refl | assumption | apply (keep_flushTenant _ _).after
    | apply (keep_doorbellFault _ _ _).after | apply (keep_setQueues _ _ _).after | split | dsimp only
    | (apply Keep.lit; on_goal 2 => (constructor <;> first | exact .inr rfl | exact .inl rfl | exact .of rfl rfl rfl rfl rfl rfl rfl))
  all_goals rfl

theorem keep_failReads (s : State) : Keep 5205982 s (failReads s) := by
  unfold failReads
  try dsimp only
  with_reducible repeat' first
    | (intro) | apply Keep.refl | assumption | apply (keep_failRestore _ _).after
    | apply (keep_failLoads _ _).after | apply (keep_endEstablish _ _).after | apply (keep_endCopy _ _ _ _ _).after
    | apply (keep_endAttest _ _).after | apply Keep.foldl | split | dsimp only
    | (apply Keep.lit; on_goal 2 => (constructor <;> first | exact .inr rfl | exact .inl rfl | exact .of rfl rfl rfl rfl rfl rfl rfl))
  all_goals rfl

theorem keep_loadDomain (s : State) (a1 a2 a3 : Nat) : Keep 4198468 s (loadDomain s a1 a2 a3) := by
  unfold loadDomain
  try dsimp only
  with_reducible repeat' first
    | apply Keep.refl | assumption | apply (keep_clearBlob _ _ _).after
    | apply (keep_domainDone _ _).after | apply (keep_adoptChildren _ _ _).after | apply (keep_setRec _ _ _).after
    | apply (keep_putF _ _ _).after | split | dsimp only
    | (apply Keep.lit; on_goal 2 => (constructor <;> first | exact .inr rfl | exact .inl rfl | exact .of rfl rfl rfl rfl rfl rfl rfl))
  all_goals rfl

theorem keep_putHandle (s : State) (a1 : Nat) (a2 : Option Nat) : Keep 4 s (putHandle s a1 a2) := by
  unfold putHandle
  with_reducible repeat' first
    | apply Keep.refl | assumption | apply (keep_putF _ _ _).after | split
  all_goals rfl

theorem keep_retryFrames (s : State) (a1 : Nat) : Keep 131072 s (retryFrames s a1) := by
  unfold retryFrames
  with_reducible repeat' first
    | (intro) | apply Keep.refl | assumption | apply (keep_putFrame _ _ _).after
    | apply Keep.foldl | dsimp only
    | (apply Keep.lit; on_goal 2 => (constructor <;> first | exact .inr rfl | exact .inl rfl | exact .of rfl rfl rfl rfl rfl rfl rfl))
  all_goals rfl

theorem keep_sendHead (s : State) (a1 : PortNo) (a2 : Nat) : Keep 4325376 s (sendHead s a1 a2) := by
  unfold sendHead
  try dsimp only
  with_reducible repeat' first
    | apply Keep.refl | assumption | apply (keep_emit _ _).after | split | dsimp only
    | (apply Keep.lit; on_goal 2 => (constructor <;> first | exact .inr rfl | exact .inl rfl | exact .of rfl rfl rfl rfl rfl rfl rfl))
  all_goals rfl

theorem keep_setDeficit (s : State) (a1 a2 : Nat) (a3 : ℤ) : Keep 131072 s (setDeficit s a1 a2 a3) := by
  unfold setDeficit
  with_reducible repeat' first
    | apply Keep.refl | assumption | dsimp only
    | (apply Keep.lit; on_goal 2 => (constructor <;> first | exact .inr rfl | exact .inl rfl | exact .of rfl rfl rfl rfl rfl rfl rfl))
  all_goals rfl

theorem keep_weightedRound (a0 : PortNo) (a1 : Nat) (s : State) : Keep 4325376 s (weightedRound a0 a1 s) := by
  fun_induction weightedRound a0 a1 s
  all_goals (try dsimp only)
  with_reducible repeat' first
    | apply Keep.refl | assumption | apply (keep_setDeficit _ _ _ _).after
    | apply (keep_sendHead _ _ _).after | apply (keep_advanceRound _ _ _).after | apply Keep.after (by assumption) | split
    | dsimp only
    | (apply Keep.lit; on_goal 2 => (constructor <;> first | exact .inr rfl | exact .inl rfl | exact .of rfl rfl rfl rfl rfl rfl rfl))
  all_goals rfl

theorem keep_startFrame (s : State) (a1 : PortNo) : Keep 4325376 s (startFrame s a1) := by
  unfold startFrame
  with_reducible repeat' first
    | (intro) | apply Keep.refl | assumption | apply (keep_weightedRound _ _ _).after
    | apply (keep_sendHead _ _ _).after | split | dsimp only
  all_goals rfl

theorem keep_openComp (s : State) (a1 : Nat) (a2 : CompositionBody) : Keep 5242880 s (openComp s a1 a2) := by
  unfold openComp
  with_reducible repeat' first
    | apply Keep.refl | assumption | apply (keep_setMeterComp _ _ _).after
    | apply (keep_logNow _ _ _).after | dsimp only
    | (apply Keep.lit; on_goal 2 => (constructor <;> first | exact .inr rfl | exact .inl rfl | exact .of rfl rfl rfl rfl rfl rfl rfl))
  all_goals rfl

theorem keep_sendFence (s : State) : Keep 4718594 s (sendFence s) := by
  unfold sendFence
  with_reducible repeat' first
    | apply Keep.refl | assumption | apply (keep_sendChain _ _ _ _).after | split | dsimp only
    | (apply Keep.lit; on_goal 2 => (constructor <;> first | exact .inr rfl | exact .inl rfl | exact .of rfl rfl rfl rfl rfl rfl rfl))
  all_goals rfl

theorem keep_setFlashState (s : State) (a1 : FlashState) (a2 : Nat) : Keep 4456512 s (setFlashState s a1 a2) := by
  unfold setFlashState
  with_reducible repeat' first
    | apply Keep.refl | assumption | apply (keep_notify _ _ _).after | split | dsimp only
    | (apply Keep.lit; on_goal 2 => (constructor <;> first | exact .inr rfl | exact .inl rfl | exact .of rfl rfl rfl rfl rfl rfl rfl))
  all_goals rfl

theorem keep_setLock (s : State) (a1 : Field) : Keep 6291460 s (setLock s a1) := by
  unfold setLock
  try dsimp only
  with_reducible repeat' first
    | apply Keep.refl | assumption | apply (keep_sendSeal _).after
    | apply (keep_putF _ _ _).after | split | dsimp only
  all_goals rfl

theorem keep_lockFlash (s : State) (a1 : NandId) : Keep 6553668 s (lockFlash s a1) := by
  unfold lockFlash
  try dsimp only
  with_reducible repeat' first
    | apply Keep.refl | assumption | apply (keep_setLock _ _).after
    | apply (keep_setFlashState _ _ _).after | split | dsimp only
    | (apply Keep.lit; on_goal 2 => (constructor <;> first | exact .inr rfl | exact .inl rfl | exact .of rfl rfl rfl rfl rfl rfl rfl))
  all_goals rfl

theorem keep_loadGcm (s : State) (a1 : Nat) : Keep 16388 s (loadGcm s a1) := by
  unfold loadGcm
  try dsimp only
  with_reducible repeat' first
    | apply Keep.refl | assumption | apply (keep_setGcm _ _ _).after
    | apply (keep_clearBlob _ _ _).after | apply (keep_putF _ _ _).after | split | dsimp only
    | (apply Keep.lit; on_goal 2 => (constructor <;> first | exact .inr rfl | exact .inl rfl | exact .of rfl rfl rfl rfl rfl rfl rfl))
  all_goals rfl

theorem keep_learnApplied (s : State) (a1 : Nat) : Keep 6815812 s (learnApplied s a1) := by
  unfold learnApplied
  try dsimp only
  with_reducible repeat' first
    | (intro) | apply Keep.refl | assumption | apply (keep_setTwin _ _ _ _).after | split
    | dsimp only
    | (apply Keep.lit; on_goal 2 => (constructor <;> first | exact .inr rfl | exact .inl rfl | exact .of rfl rfl rfl rfl rfl rfl rfl))
  all_goals rfl

theorem keep_mirrorLeaves (s : State) (a1 : Nat) : Keep 6830276 s (mirrorLeaves s a1) := by
  unfold mirrorLeaves
  try dsimp only
  with_reducible repeat' first
    | apply Keep.refl | assumption | apply (keep_discardCopies _).after
    | apply (keep_setTwin _ _ _ _).after | dsimp only
    | (apply Keep.lit; on_goal 2 => (constructor <;> first | exact .inr rfl | exact .inl rfl | exact .of rfl rfl rfl rfl rfl rfl rfl))
  all_goals rfl

theorem keep_loseHeartbeats (s : State) : Keep 6830278 s (loseHeartbeats s) := by
  unfold loseHeartbeats
  try dsimp only
  with_reducible repeat' first
    | apply Keep.refl | assumption | apply (keep_mirrorLeaves _ _).after
    | apply (keep_sendFence _).after | apply (keep_activeAlone _ _).after | apply (keep_setTwin _ _ _ _).after
    | apply (keep_satF _ _).after | split | dsimp only
    | (apply Keep.lit; on_goal 2 => (constructor <;> first | exact .inr rfl | exact .inl rfl | exact .of rfl rfl rfl rfl rfl rfl rfl))
  all_goals rfl

theorem keep_setPort (s : State) (a1 : Nat) (a2 : Port) : Keep 32768 s (setPort s a1 a2) := by
  unfold setPort
  with_reducible repeat' first
    | apply Keep.refl | assumption | dsimp only
    | (apply Keep.lit; on_goal 2 => (constructor <;> first | exact .inr rfl | exact .inl rfl | exact .of rfl rfl rfl rfl rfl rfl rfl))
  all_goals rfl

theorem keep_leaveUp (s : State) (a1 : Nat) (a2 : PortState) : Keep 4374854 s (leaveUp s a1 a2) := by
  unfold leaveUp
  try dsimp only
  with_reducible repeat' first
    | (intro) | apply Keep.refl | assumption | apply (keep_setPort _ _ _).after
    | apply (keep_completeOp _ _ _ _ _).after | apply (keep_notify _ _ _).after | apply Keep.foldl2 | apply Keep.foldl | split
    | dsimp only
    | (apply Keep.lit; on_goal 2 => (constructor <;> first | exact .inr rfl | exact .inl rfl | exact .of rfl rfl rfl rfl rfl rfl rfl))
  all_goals rfl

theorem keep_readAdmit (s : State) (a1 : Nat) (a2 : HostCommand) : Keep 4194304 s (readAdmit s a1 a2) := by
  unfold readAdmit
  with_reducible repeat' first
    | apply Keep.refl | assumption | apply (keep_readTokens _ _ _).after
    | apply (keep_readHost _ _ _ _).after | split
  all_goals rfl

theorem keep_takeAdmit (s : State) (a1 : Tenant) (a2 : HostCommand) (a3 : List Nat) (a4 : AdmitDescriptor) :
    Keep 4876486 s (takeAdmit s a1 a2 a3 a4) := by
  unfold takeAdmit
  try dsimp only
  with_reducible repeat' first
    | (intro) | apply Keep.refl | assumption | apply (keep_fillEntry _ _ _).after
    | apply (keep_countDenied _ _ _).after | apply (keep_needDirectory _ _).after | apply (keep_setAdmission _ _ _).after
    | apply (keep_setTrack _ _ _).after | apply (keep_setInput _ _ _).after | apply (keep_chooseFree _ _ _ _).after
    | apply (keep_sendRst _ _).after | split | dsimp only
    | (apply Keep.lit; on_goal 2 => (constructor <;> first | exact .inr rfl | exact .inl rfl | exact .of rfl rfl rfl rfl rfl rfl rfl))
  all_goals rfl

theorem keep_intervalComp (t : Nat) (s : State) (c : Nat) : Keep 5242880 s (intervalComp t s c) := by
  unfold intervalComp
  split
  · exact Keep.refl _ _
  · exact (keep_logRecord _ _ _ _ _).comp (keep_setMeterComp _ _ _) rfl

theorem keep_showDigest (s : State) (a1 : BitVec 384) : Keep 4 s (showDigest s a1) := by
  unfold showDigest
  with_reducible repeat' first
    | (intro) | apply Keep.refl | assumption | apply (keep_putF _ _ _).after | apply Keep.foldl
    | dsimp only
  all_goals rfl

theorem keep_learnMeter (s : State) (a1 : Nat) : Keep 4 s (learnMeter s a1) := by
  unfold learnMeter
  try dsimp only
  with_reducible repeat' first
    | apply Keep.refl | assumption | apply (keep_putF _ _ _).after | split | dsimp only
  all_goals rfl

theorem keep_laneStatus (s : State) : Keep 7340036 s (laneStatus s) := by
  unfold laneStatus
  try dsimp only
  with_reducible repeat' first
    | apply Keep.refl | assumption | apply (keep_learnMeter _ _).after
    | apply (keep_emit _ _).after | apply (keep_putF _ _ _).after | split | dsimp only
    | (apply Keep.lit; on_goal 2 => (constructor <;> first | exact .inr rfl | exact .inl rfl | exact .of rfl rfl rfl rfl rfl rfl rfl))
  all_goals rfl

theorem keep_restartStep (s : State) (a1 : Nat) : Keep 3968 s (restartStep s a1) := by
  unfold restartStep
  try dsimp only
  with_reducible repeat' first
    | (intro) | apply Keep.refl | assumption | apply (keep_newStep _ _).after
    | apply (keep_endStep _ _).after | apply (keep_setRunning _ _ _).after | apply (keep_endThreads _ _).after
    | apply (keep_chargeUnit _ _).after | apply Keep.foldl2 | apply Keep.foldl | split | dsimp only
    | (apply Keep.lit; on_goal 2 => (constructor <;> first | exact .inr rfl | exact .inl rfl | exact .of rfl rfl rfl rfl rfl rfl rfl))
  all_goals rfl

theorem keep_expireHolder (s : State) (a1 : Nat) : Keep 4526030 s (expireHolder s a1) := by
  unfold expireHolder
  with_reducible repeat' first
    | (intro) | apply Keep.refl | assumption | apply (keep_restartStep _ _).after
    | apply (keep_endCopy _ _ _ _ _).after | apply (keep_placePackage _ _ _).after | apply (keep_faultSlot _ _ _).after
    | apply (keep_faultRegion _ _ _ _).after | apply (keep_abandonUnit _ _).after | split | dsimp only
    | (apply Keep.lit; on_goal 2 => (constructor <;> first | exact .inr rfl | exact .inl rfl | exact .of rfl rfl rfl rfl rfl rfl rfl))
  all_goals rfl

theorem keep_memAccess (s : State) (a1 : MemOp) (a2 a3 a4 : Nat) (a5 : List Byte) :
    Keep 65544 s (memAccess s a1 a2 a3 a4 a5).2.2 := by
  unfold memAccess
  try dsimp only
  with_reducible repeat' first
    | (intro) | apply Keep.refl | assumption | apply (keep_readLine _ _).after
    | apply (keep_clearPoison _ _ _).after | apply (keep_memWrite _ _ _).after | apply Keep.foldl2 | apply Keep.foldl | split
    | dsimp only
  all_goals rfl

theorem keep_replyFrame (s : State) (a1 : FrameHeader) (a2 : Frame) : Keep 131072 s (replyFrame s a1 a2) := by
  unfold replyFrame
  with_reducible repeat' first
    | apply Keep.refl | assumption | apply (keep_enqueue _ _ _).after | split
  all_goals rfl

theorem keep_setBarrier (s : State) (a1 a2 : Nat) (a3 : Option Nat) : Keep 32768 s (setBarrier s a1 a2 a3) := by
  unfold setBarrier
  with_reducible repeat' first
    | apply Keep.refl | assumption | dsimp only
    | (apply Keep.lit; on_goal 2 => (constructor <;> first | exact .inr rfl | exact .inl rfl | exact .of rfl rfl rfl rfl rfl rfl rfl))
  all_goals rfl

theorem keep_serveFrame {w : Nat} (s : State) (f : FrameHeader) (cls bytes : Nat)
    (perform : State → RemoteStatus × List Byte × State) (answer : RemoteStatus → List Byte → Frame)
    (hw : 163844 &&& w = 163844) (he : ∀ u, Keep w u (perform u).2.2) : Keep w s (serveFrame s f cls bytes perform answer) := by
  have a : ∀ x y, Keep w x (replyFrame x f y) := fun x y => (keep_replyFrame x f y).mono (Keep.landTrans rfl hw)
  have b : ∀ x i j k, Keep w x (setBarrier x i j k) := fun x i j k => (keep_setBarrier x i j k).mono (Keep.landTrans rfl hw)
  have c : Keep w s (police s (roalePort f.port.val) cls f.tenant.val bytes 0).2 :=
    (keep_police s _ _ _ _ _).mono (Keep.landTrans rfl hw)
  unfold serveFrame
  generalize police s (roalePort f.port.val) cls f.tenant.val bytes 0 = q at c ⊢
  extract_lets m r slot q1 barred x
  have d : Keep w s x.2.2 := by
    change Keep w s (if q.1 = true then perform q.2 else (RemoteStatus.retry, [], q.2)).2.2
    split
    · exact c.trans (he _)
    · exact c
  clear_value x
  split
  · exact (keep_satF s _).mono (Keep.landTrans rfl hw)
  · split
    · exact a _ _
    · split
      · exact a _ _
      · split
        · exact c.trans (a _ _)
        · split
          · exact (d.trans (b _ _ _ _)).trans (a _ _)
          · exact (d.trans (b _ _ _ _)).trans (a _ _)

theorem keep_memReq (s : State) (a1 : FrameHeader) (a2 : MemOp) (a3 : Nat) (a4 : List Byte) :
    Keep 229388 s (memReq s a1 a2 a3 a4) := by
  unfold memReq
  with_reducible repeat' first
    | (intro) | apply Keep.refl | assumption | apply (keep_serveFrame _ _ _ _ _ _ ?_ ?_).next
    | apply (keep_memAccess _ _ _ _ _ _).after | dsimp only
  all_goals rfl

theorem keep_replyOp (s : State) (a1 : FrameHeader) : Keep 4 s (replyOp s a1).2 := by
  unfold replyOp
  try dsimp only
  with_reducible repeat' first
    | apply Keep.refl | assumption | apply (keep_satF _ _).after | split | dsimp only
  all_goals rfl

theorem keep_retryOp (s : State) (a1 a2 : Nat) (a3 : RemoteOp) (a4 : List Nat) : Keep 32768 s (retryOp s a1 a2 a3 a4) := by
  unfold retryOp
  with_reducible repeat' first
    | apply Keep.refl | assumption | apply (keep_setOp _ _ _ _).after | dsimp only
    | (apply Keep.lit; on_goal 2 => (constructor <;> first | exact .inr rfl | exact .inl rfl | exact .of rfl rfl rfl rfl rfl rfl rfl))
  all_goals rfl

theorem keep_selectRecord (s : State) (a1 : Nat) : Keep 2097156 s (selectRecord s a1) := by
  unfold selectRecord
  try dsimp only
  with_reducible repeat' first
    | apply Keep.refl | assumption | apply (keep_putF _ _ _).after | split | dsimp only
    | (apply Keep.lit; on_goal 2 => (constructor <;> first | exact .inr rfl | exact .inl rfl | exact .of rfl rfl rfl rfl rfl rfl rfl))
  all_goals rfl

theorem keep_startMeter (s : State) : Keep 7340036 s (startMeter s) := by
  unfold startMeter
  try dsimp only
  with_reducible repeat' first
    | apply Keep.refl | assumption | apply (keep_laneStatus _).after
    | apply (keep_logNow _ _ _).after | split | dsimp only
    | (apply Keep.lit; on_goal 2 => (constructor <;> first | exact .inr rfl | exact .inl rfl | exact .of rfl rfl rfl rfl rfl rfl rfl))
  all_goals rfl

theorem keep_resendOffer (s : State) (a1 : Nat) : Keep 4876358 s (resendOffer s a1) := by
  unfold resendOffer
  with_reducible repeat' first
    | apply Keep.refl | assumption | apply (keep_sendRst _ _).after
    | apply (keep_setTransfer _ _ _).after | split | dsimp only
    | (apply Keep.lit; on_goal 2 => (constructor <;> first | exact .inr rfl | exact .inl rfl | exact .of rfl rfl rfl rfl rfl rfl rfl))
  all_goals rfl

theorem keep_pacingEdge (a0 : Bool) (s : State) : Keep 4194400 s (pacingEdge a0 s) := by
  unfold pacingEdge
  try dsimp only
  with_reducible repeat' first
    | apply Keep.refl | assumption | apply (keep_pwrNotify _).after | split | dsimp only
    | (apply Keep.lit; on_goal 2 => (constructor <;> first | exact .inr rfl | exact .inl rfl | exact .of rfl rfl rfl rfl rfl rfl rfl))
  all_goals rfl

theorem keep_reclaimPage (s : State) (a1 : Nat) : Keep 1152 s (reclaimPage s a1) := by
  unfold reclaimPage
  try dsimp only
  with_reducible repeat' first
    | apply Keep.refl | assumption | apply (keep_setInside _ _ _ _).after
    | apply (keep_protect _ _ _ _).after | apply (keep_releaseModel _ _).after | apply (keep_wake _ _).after
    | apply (keep_setPage _ _ _).after | split | dsimp only
    | (apply Keep.lit; on_goal 2 => (constructor <;> first | exact .inr rfl | exact .inl rfl | exact .of rfl rfl rfl rfl rfl rfl rfl))
  all_goals rfl

theorem keep_putValid (s : State) (a1 : Field) (a2 : Nat) : Keep 6291716 s (putValid s a1 a2) := by
  unfold putValid
  with_reducible repeat' first
    | apply Keep.refl | assumption | apply (keep_setLock _ _).after
    | apply (keep_flushDigests _).after | apply (keep_putF _ _ _).after | split
  all_goals rfl

theorem keep_writeField (a0 a1 : Nat) (s : State) (a3 : Field) : Keep 6291716 s (writeField a0 a1 s a3) := by
  unfold writeField
  try dsimp only
  with_reducible repeat' first
    | apply Keep.refl | assumption | apply (keep_putValid _ _ _).after
    | apply (keep_putF _ _ _).after | split | dsimp only
  all_goals rfl

theorem keep_writeFields (s : State) (a1 a2 a3 : Nat) : Keep 6291716 s (writeFields s a1 a2 a3) := by
  unfold writeFields
  try dsimp only
  with_reducible repeat' first
    | (intro) | apply Keep.refl | assumption | apply (keep_writeField _ _ _ _).after
    | apply Keep.foldl | dsimp only
  all_goals rfl

theorem keep_writePortCfg (s : State) (a1 a2 a3 : Nat) : Keep 6472006 s (writePortCfg s a1 a2 a3) := by
  unfold writePortCfg
  try dsimp only
  with_reducible repeat' first
    | apply Keep.refl | assumption | apply (keep_writeFields _ _ _ _).after
    | apply (keep_leaveUp _ _ _).after | split | dsimp only
  all_goals rfl

theorem keep_startRails (s : State) : Keep 4194320 s (startRails s) := by
  unfold startRails
  try dsimp only
  with_reducible repeat' first
    | apply Keep.refl | assumption | apply (keep_emit _ _).after | split | dsimp only
    | (apply Keep.lit; on_goal 2 => (constructor <;> first | exact .inr rfl | exact .inl rfl | exact .of rfl rfl rfl rfl rfl rfl rfl))
  all_goals rfl

theorem keep_sampleStraps (s : State) (a1 : StartFacts) : Keep 20 s (sampleStraps s a1) := by
  unfold sampleStraps
  with_reducible repeat' first
    | apply Keep.refl | assumption | apply (keep_putF _ _ _).after | dsimp only
    | (apply Keep.lit; on_goal 2 => (constructor <;> first | exact .inr rfl | exact .inl rfl | exact .of rfl rfl rfl rfl rfl rfl rfl))
  all_goals rfl

theorem keep_selectGeneration (s : State) : Keep 16 s (selectGeneration s) := by
  unfold selectGeneration
  with_reducible repeat' first
    | (intro) | apply Keep.refl | assumption | apply (keep_revokeSlot _ _).after
    | apply Keep.foldl | split | dsimp only
    | (apply Keep.lit; on_goal 2 => (constructor <;> first | exact .inr rfl | exact .inl rfl | exact .of rfl rfl rfl rfl rfl rfl rfl))
  all_goals rfl

theorem keep_startPart (s : State) (a1 : StartFacts) : Keep 6291798 s (startPart s a1) := by
  unfold startPart
  try dsimp only
  with_reducible repeat' first
    | apply Keep.refl | assumption | apply (keep_selectGeneration _).after
    | apply (keep_sampleStraps _ _).after | apply (keep_bootFirmware _ _ _).after | apply (keep_failStart _ _).after | split
    | dsimp only
    | (apply Keep.lit; on_goal 2 => (constructor <;> first | exact .inr rfl | exact .inl rfl | exact .of rfl rfl rfl rfl rfl rfl rfl))
  all_goals rfl

theorem keep_preemptVictim (s : State) (a1 : ModelDescriptor) (a2 a3 : Nat) : Keep 4943054 s (preemptVictim s a1 a2 a3) := by
  unfold preemptVictim
  try dsimp only
  with_reducible repeat' first
    | apply Keep.refl | assumption | apply (keep_dropVictim _ _ _ _).after
    | apply (keep_parkEntry _ _ _ _ _ ‹parkEntry _ _ _ _ = some _›).after | apply (keep_seizeEntry _ _).after
    | apply (keep_sendLog _ _).after | split | dsimp only
  all_goals rfl

theorem keep_preemptUnit (s : State) (a1 : Nat) (a2 : Unit) (a3 : Nat) : Keep 3462 s (preemptUnit s a1 a2 a3) := by
  unfold preemptUnit
  try dsimp only
  with_reducible repeat' first
    | apply Keep.refl | assumption
    | apply (keep_saveUnit _ _ _ _ _ ‹saveUnit _ _ _ _ = some _›).after | apply (keep_endThreads _ _).after
    | apply (keep_chargeUnit _ _).after | apply (keep_satF _ _).after | split | dsimp only
  all_goals rfl

theorem keep_rebuildEnd (s : State) : Keep 4456516 s (rebuildEnd s) := by
  unfold rebuildEnd
  try dsimp only
  with_reducible repeat' first
    | (intro) | apply Keep.refl | assumption | apply (keep_setFlashState _ _ _).after
    | apply (keep_gcUpdate _).after | apply (keep_putF _ _ _).after | split | dsimp only
    | (apply Keep.lit; on_goal 2 => (constructor <;> first | exact .inr rfl | exact .inl rfl | exact .of rfl rfl rfl rfl rfl rfl rfl))
  all_goals rfl

theorem keep_mtrNotify (s : State) (a1 : Bool) : Keep 6291520 s (mtrNotify s a1) := by
  unfold mtrNotify
  with_reducible repeat' first
    | apply Keep.refl | assumption | apply (keep_signal _ _).after | split | dsimp only
    | (apply Keep.lit; on_goal 2 => (constructor <;> first | exact .inr rfl | exact .inl rfl | exact .of rfl rfl rfl rfl rfl rfl rfl))
  all_goals rfl

theorem keep_takeCopy (s : State) (a1 : MeterRecord) : Keep 6291524 s (takeCopy s a1) := by
  unfold takeCopy
  try dsimp only
  with_reducible repeat' first
    | (intro) | apply Keep.refl | assumption | apply (keep_mtrNotify _ _).after
    | apply (keep_learnMeter _ _).after | apply (keep_putF _ _ _).after | apply Keep.foldl2 | apply Keep.foldl | split
    | dsimp only
    | (apply Keep.lit; on_goal 2 => (constructor <;> first | exact .inr rfl | exact .inl rfl | exact .of rfl rfl rfl rfl rfl rfl rfl))
  all_goals rfl

theorem keep_recoverDone (s : State) (a1 a2 : Nat) : Keep 4194372 s (recoverDone s a1 a2) := by
  unfold recoverDone
  with_reducible repeat' first
    | apply Keep.refl | assumption | apply (keep_notify _ _ _).after
    | apply (keep_putF _ _ _).after | split
  all_goals rfl

theorem keep_recoverLedger (s : State) (a1 : Nat) : Keep 4876358 s (recoverLedger s a1) := by
  unfold recoverLedger
  try dsimp only
  with_reducible repeat' first
    | apply Keep.refl | assumption | apply (keep_sendRecover _ _ _ _).after
    | apply (keep_newOwner _ _ _ _ _).after | dsimp only
  all_goals rfl

theorem keep_setTable (s : State) (a1 : Nat) (a2 : CodecTable) : Keep 16384 s (setTable s a1 a2) := by
  unfold setTable
  with_reducible repeat' first
    | apply Keep.refl | assumption | dsimp only
    | (apply Keep.lit; on_goal 2 => (constructor <;> first | exact .inr rfl | exact .inl rfl | exact .of rfl rfl rfl rfl rfl rfl rfl))
  all_goals rfl

theorem keep_loadTable (s : State) (a1 a2 : Nat) : Keep 16388 s (loadTable s a1 a2) := by
  unfold loadTable
  try dsimp only
  with_reducible repeat' first
    | apply Keep.refl | assumption | apply (keep_setTable _ _ _).after
    | apply (keep_putF _ _ _).after | split | dsimp only
    | (apply Keep.lit; on_goal 2 => (constructor <;> first | exact .inr rfl | exact .inl rfl | exact .of rfl rfl rfl rfl rfl rfl rfl))
  all_goals rfl

theorem keep_loadXts (s : State) (a1 : Nat) : Keep 132 s (loadXts s a1) := by
  unfold loadXts
  try dsimp only
  with_reducible repeat' first
    | apply Keep.refl | assumption | apply (keep_setXts _ _ _).after
    | apply (keep_clearBlob _ _ _).after | apply (keep_putF _ _ _).after | split | dsimp only
  all_goals rfl

theorem keep_writeTable (s : State) (a1 a2 : Nat) : Keep 64 s (writeTable s a1 a2) := by
  unfold writeTable
  with_reducible repeat' first
    | (intro) | apply Keep.refl | assumption | dsimp only
    | (apply Keep.lit; on_goal 2 => (constructor <;> first | exact .inr rfl | exact .inl rfl | exact .of rfl rfl rfl rfl rfl rfl rfl))
  all_goals rfl

theorem keep_writeMsix (s : State) (a1 a2 a3 : Nat) : Keep 4194368 s (writeMsix s a1 a2 a3) := by
  unfold writeMsix
  try dsimp only
  with_reducible repeat' first
    | apply Keep.refl | assumption | apply (keep_writeTable _ _ _).after
    | apply (keep_releaseVectors _).after | split | dsimp only
  all_goals rfl

theorem keep_fillMeter (s : State) (a1 : Nat) : Keep 131072 s (fillMeter s a1) := by
  unfold fillMeter
  with_reducible repeat' first
    | apply Keep.refl | assumption | dsimp only
    | (apply Keep.lit; on_goal 2 => (constructor <;> first | exact .inr rfl | exact .inl rfl | exact .of rfl rfl rfl rfl rfl rfl rfl))
  all_goals rfl

theorem keep_writeObjHead (s : State) (a1 : Nat) : Keep 4194500 s (writeObjHead s a1) := by
  unfold writeObjHead
  try dsimp only
  with_reducible repeat' first
    | apply Keep.refl | assumption | apply (keep_doorbellFault _ _ _).after
    | apply (keep_flushObj _ _).after | apply (keep_putF _ _ _).after | split | dsimp only
  all_goals rfl

theorem keep_writeObjTail (s : State) (a1 : Nat) : Keep 4194500 s (writeObjTail s a1) := by
  unfold writeObjTail
  with_reducible repeat' first
    | apply Keep.refl | assumption | apply (keep_doorbellFault _ _ _).after
    | apply (keep_putF _ _ _).after | split | dsimp only
    | (apply Keep.lit; on_goal 2 => (constructor <;> first | exact .inr rfl | exact .inl rfl | exact .of rfl rfl rfl rfl rfl rfl rfl))
  all_goals rfl

theorem keep_writeEnable (s : State) (a1 : Nat) (a2 : Bool) : Keep 2052 s (writeEnable s a1 a2) := by
  unfold writeEnable
  try dsimp only
  with_reducible repeat' first
    | (intro) | apply Keep.refl | assumption | apply (keep_setQueues _ _ _).after
    | apply (keep_putF _ _ _).after | split | dsimp only
    | (apply Keep.lit; on_goal 2 => (constructor <;> first | exact .inr rfl | exact .inl rfl | exact .of rfl rfl rfl rfl rfl rfl rfl))
  all_goals rfl

theorem keep_writeTenantCtl (s : State) (a1 a2 a3 : Nat) : Keep 6293764 s (writeTenantCtl s a1 a2 a3) := by
  unfold writeTenantCtl
  try dsimp only
  with_reducible repeat' first
    | (intro) | apply Keep.refl | assumption | apply (keep_writeEnable _ _ _).after
    | apply (keep_writeField _ _ _ _).after | apply Keep.foldl | split | dsimp only
  all_goals rfl

theorem keep_writeRegister (s : State) (a1 a2 a3 : Nat) : Keep 6474182 s (writeRegister s a1 a2 a3) := by
  unfold writeRegister
  with_reducible repeat' first
    | apply Keep.refl | assumption | apply (keep_writeTenantCtl _ _ _ _).after
    | apply (keep_writeObjTail _ _).after | apply (keep_writeObjHead _ _).after | apply (keep_fillMeter _ _).after
    | apply (keep_writePortCfg _ _ _ _).after | apply (keep_writeFields _ _ _ _).after | apply (keep_selectRecord _ _).after
    | apply (keep_releaseVectors _).after | split
  all_goals rfl

theorem keep_writeBar0 (s : State) (a1 a2 a3 : Nat) : Keep 6474182 s (writeBar0 s a1 a2 a3) := by
  unfold writeBar0
  with_reducible repeat' first
    | apply Keep.refl | assumption | apply (keep_writeRegister _ _ _ _).after
    | apply (keep_writeMsix _ _ _ _).after | apply (keep_unsupported _).after | split
  all_goals rfl

theorem keep_localOp (s : State) (a1 : Nat) (a2 : RemoteOp) : Keep 4292876 s (localOp s a1 a2) := by
  unfold localOp
  try dsimp only
  with_reducible repeat' first
    | apply Keep.refl | assumption | apply (keep_memAccess _ _ _ _ _ _).after
    | apply (keep_tellThread _ _ _ _ _).after | apply (keep_endAtThread _ _ _ _).after | split | dsimp only
  all_goals rfl

theorem keep_recordDenied (s : State) (a1 a2 a3 : Nat) : Keep 4194372 s (recordDenied s a1 a2 a3) := by
  unfold recordDenied
  try dsimp only
  with_reducible repeat' first
    | (intro) | apply Keep.refl | assumption | apply (keep_notify _ _ _).after
    | apply (keep_latch _ _ _ _ ?_ ?_).next | apply (keep_putF _ _ _).after | split | dsimp only
  all_goals rfl

theorem keep_takeSlot (s : State) (a1 : Nat) (a2 : RemoteOp) : Keep 4374790 s (takeSlot s a1 a2) := by
  unfold takeSlot
  try dsimp only
  with_reducible repeat' first
    | apply Keep.refl | assumption | apply (keep_placeOp _ _ _ _).after
    | apply (keep_freeSlot _ _).after | apply (keep_park _ _ _ _).after | split | dsimp only
    | (apply Keep.lit; on_goal 2 => (constructor <;> first | exact .inr rfl | exact .inl rfl | exact .of rfl rfl rfl rfl rfl rfl rfl))
  all_goals rfl

theorem keep_issueOp (s : State) (a1 a2 : Nat) (a3 : RemoteKind) (a4 a5 a6 : Nat) (a7 : List Byte) (a8 : Option Nat) :
    Keep 4440398 s (issueOp s a1 a2 a3 a4 a5 a6 a7 a8) := by
  unfold issueOp
  try dsimp only
  with_reducible repeat' first
    | apply Keep.refl | assumption | apply (keep_takeSlot _ _ _).after
    | apply (keep_recordDenied _ _ _ _).after | apply (keep_localOp _ _ _).after | apply (keep_tellThread _ _ _ _ _).after
    | apply (keep_endAtThread _ _ _ _).after | split | dsimp only
    | (apply Keep.lit; on_goal 2 => (constructor <;> first | exact .inr rfl | exact .inl rfl | exact .of rfl rfl rfl rfl rfl rfl rfl))
  all_goals rfl

theorem keep_reissue (s : State) (a1 : Nat) (a2 : Nat × RemoteOp) : Keep 4374790 s (reissue s a1 a2) := by
  unfold reissue
  try dsimp only
  with_reducible repeat' first
    | apply Keep.refl | assumption | apply (keep_completeOp _ _ _ _ _).after
    | apply (keep_sendOp _ _ _ _ _ _).after | apply (keep_setOp _ _ _ _).after | split | dsimp only
    | (apply Keep.lit; on_goal 2 => (constructor <;> first | exact .inr rfl | exact .inl rfl | exact .of rfl rfl rfl rfl rfl rfl rfl))
  all_goals rfl

theorem keep_recoveryLost (s : State) (a1 : PartAddr) : Keep 4 s (recoveryLost s a1) := by
  unfold recoveryLost
  with_reducible repeat' first
    | (intro) | apply Keep.refl | assumption | apply (keep_putF _ _ _).after | split | dsimp only
  all_goals rfl

theorem keep_unreachable (s : State) (a1 : PartAddr) : Keep 4947150 s (unreachable s a1) := by
  unfold unreachable
  try dsimp only
  with_reducible repeat' first
    | (intro) | apply Keep.refl | assumption | apply (keep_recoveryLost _ _).after
    | apply (keep_entryLost _ _ _).after | apply (keep_notify _ _ _).after | apply (keep_dropConn _ _).after | apply Keep.foldl
    | split | dsimp only
  all_goals rfl

theorem keep_retransmit (s : State) (a1 : PartAddr) (a2 : Nat) : Keep 4947150 s (retransmit s a1 a2) := by
  unfold retransmit
  try dsimp only
  with_reducible repeat' first
    | (intro) | apply Keep.refl | assumption | apply (keep_unreachable _ _).after
    | apply (keep_setConn _ _).after | apply (keep_sendDatagram _ _).after | split | dsimp only
    | (apply Keep.lit; on_goal 2 => (constructor <;> first | exact .inr rfl | exact .inl rfl | exact .of rfl rfl rfl rfl rfl rfl rfl))
  all_goals rfl

theorem keep_takeSyn (s : State) (a1 : RstHeader) : Keep 155654 s (takeSyn s a1) := by
  unfold takeSyn
  try dsimp only
  with_reducible repeat' first
    | apply Keep.refl | assumption | apply (keep_setConn _ _).after
    | apply (keep_sendDatagram _ _).after | split | dsimp only
    | (apply Keep.lit; on_goal 2 => (constructor <;> first | exact .inr rfl | exact .inl rfl | exact .of rfl rfl rfl rfl rfl rfl rfl))
  all_goals rfl

theorem keep_transportOnly (s : State) (a1 : RstHeader) : Keep 4350022 s (transportOnly s a1) := by
  unfold transportOnly
  try dsimp only
  with_reducible repeat' first
    | apply Keep.refl | assumption | apply (keep_takeSyn _ _).after
    | apply (keep_takeAck _ _).after | apply (keep_dropConn _ _).after | split | dsimp only
  all_goals rfl

theorem keep_unpair (s : State) : Keep 6830276 s (unpair s) := by
  unfold unpair
  try dsimp only
  with_reducible repeat' first
    | apply Keep.refl | assumption | apply (keep_mirrorLeaves _ _).after
    | apply (keep_setTwin _ _ _ _).after | split | dsimp only
    | (apply Keep.lit; on_goal 2 => (constructor <;> first | exact .inr rfl | exact .inl rfl | exact .of rfl rfl rfl rfl rfl rfl rfl))
  all_goals rfl

theorem keep_pairWith (s : State) (a1 : Option Nat) : Keep 7010758 s (pairWith s a1) := by
  unfold pairWith
  try dsimp only
  with_reducible repeat' first
    | (intro) | apply Keep.refl | assumption | apply (keep_unpair _).after
    | apply (keep_leaveUp _ _ _).after | apply Keep.foldl | split | dsimp only
    | (apply Keep.lit; on_goal 2 => (constructor <;> first | exact .inr rfl | exact .inl rfl | exact .of rfl rfl rfl rfl rfl rfl rfl))
  all_goals rfl

theorem keep_setTray (s : State) (a1 a2 : Nat) (a3 : Option Nat) (a4 : Bool) : Keep 7010758 s (setTray s a1 a2 a3 a4) := by
  unfold setTray
  with_reducible repeat' first
    | apply Keep.refl | assumption | apply (keep_pairWith _ _).after | dsimp only
    | (apply Keep.lit; on_goal 2 => (constructor <;> first | exact .inr rfl | exact .inl rfl | exact .of rfl rfl rfl rfl rfl rfl rfl))
  all_goals rfl

theorem keep_satAddF (s : State) (a1 : Field) (a2 : Nat) : Keep 4 s (satAddF s a1 a2) := by
  unfold satAddF
  with_reducible repeat' first
    | apply Keep.refl | assumption | apply (keep_putF _ _ _).after
  all_goals rfl

theorem keep_writeSqTail (s : State) (a1 a2 : Nat) : Keep 4196420 s (writeSqTail s a1 a2) := by
  unfold writeSqTail
  with_reducible repeat' first
    | apply Keep.refl | assumption | apply (keep_doorbellFault _ _ _).after
    | apply (keep_setQueues _ _ _).after | split | dsimp only
    | (apply Keep.lit; on_goal 2 => (constructor <;> first | exact .inr rfl | exact .inl rfl | exact .of rfl rfl rfl rfl rfl rfl rfl))
  all_goals rfl

theorem keep_loseCore (s : State) (a1 a2 : Nat) : Keep 4198342 s (loseCore s a1 a2) := by
  unfold loseCore
  try dsimp only
  with_reducible repeat' first
    | (intro) | apply Keep.refl | assumption | apply (keep_restartStep _ _).after
    | apply (keep_fillCores _).after | apply (keep_attnNotify _).after | apply (keep_endLease _ _).after
    | apply (keep_putF _ _ _).after | apply Keep.foldl2 | apply Keep.foldl | split | dsimp only
    | (apply Keep.lit; on_goal 2 => (constructor <;> first | exact .inr rfl | exact .inl rfl | exact .of rfl rfl rfl rfl rfl rfl rfl))
  all_goals rfl

theorem keep_writeBlock (s : State) (a1 : FrameHeader) (a2 : Nat) (a3 : CodedBlock) :
    Keep 4259916 s (writeBlock s a1 a2 a3).2.2 := by
  unfold writeBlock
  with_reducible repeat' first
    | apply Keep.refl | assumption | apply (keep_memAccess _ _ _ _ _ _).after
    | apply (keep_rejectBlock _ _).after | split
  all_goals rfl

theorem keep_throttleDie (s : State) (a1 : Nat) (a2 : Bool) : Keep 4194404 s (throttleDie s a1 a2) := by
  unfold throttleDie
  try dsimp only
  with_reducible repeat' first
    | apply Keep.refl | assumption | apply (keep_pacingEdge _ _).after
    | apply (keep_pwrNotify _).after | apply (keep_satF _ _).after | split | dsimp only
    | (apply Keep.lit; on_goal 2 => (constructor <;> first | exact .inr rfl | exact .inl rfl | exact .of rfl rfl rfl rfl rfl rfl rfl))
  all_goals rfl

theorem keep_writeTrHead (s : State) (a1 a2 : Nat) : Keep 4720708 s (writeTrHead s a1 a2) := by
  unfold writeTrHead
  try dsimp only
  with_reducible repeat' first
    | apply Keep.refl | assumption | apply (keep_flushTenant _ _).after
    | apply (keep_doorbellFault _ _ _).after | apply (keep_setQueues _ _ _).after | split | dsimp only
    | (apply Keep.lit; on_goal 2 => (constructor <;> first | exact .inr rfl | exact .inl rfl | exact .of rfl rfl rfl rfl rfl rfl rfl))
  all_goals rfl

theorem keep_readVin56 (s : State) (a1 : Nat) : Keep 4194372 s (readVin56 s a1) := by
  unfold readVin56
  try dsimp only
  with_reducible repeat' first
    | apply Keep.refl | assumption | apply (keep_pwrNotify _).after
    | apply (keep_putF _ _ _).after | split | dsimp only
  all_goals rfl

theorem keep_sendQuery (s : State) (a1 a2 : Nat) (a3 : List Nat) : Keep 4876358 s (sendQuery s a1 a2 a3) := by
  unfold sendQuery
  try dsimp only
  with_reducible repeat' first
    | (intro) | apply Keep.refl | assumption | apply (keep_sendRst _ _).after | dsimp only
  all_goals rfl

theorem keep_fineMatch (s : State) (a1 : WalkCtx) (a2 : List Nat) (a3 : Walked) : Keep 2 s (fineMatch s a1 a2 a3).2 := by
  unfold fineMatch
  try dsimp only
  with_reducible repeat' first
    | (intro) | apply Keep.refl | assumption | apply (keep_pick _ _).after | apply Keep.foldl2
    | apply Keep.foldl | split | dsimp only
  all_goals rfl

theorem keep_walkEntry (s : State) (a1 : Nat) (a2 : List Nat) : Keep 6278 s (walkEntry s a1 a2).2 := by
  unfold walkEntry
  try dsimp only
  with_reducible repeat' first
    | (intro) | apply Keep.refl | assumption | apply (keep_fineMatch _ _ _ _).after
    | apply (keep_walkFrom _ _ _ _ _ _ _ ?_ ?_).next | apply (keep_sharePages _ _ _ _ _ _ ‹sharePages _ _ _ _ _ = some _›).after
    | apply (keep_setTrack _ _ _).after | apply Keep.foldl2 | apply Keep.foldl | split | dsimp only
    | (apply Keep.lit; on_goal 2 => (constructor <;> first | exact .inr rfl | exact .inl rfl | exact .of rfl rfl rfl rfl rfl rfl rfl))
  all_goals rfl

theorem keep_walkEnds (s : State) (a1 : Nat) (a2 : Admission) : Keep 4947150 s (walkEnds s a1 a2) := by
  unfold walkEnds
  try dsimp only
  with_reducible repeat' first
    | apply Keep.refl | assumption | apply (keep_walkEntry _ _ _).after
    | apply (keep_sendQuery _ _ _ _).after | apply (keep_takeMatched _ _ _).after | apply (keep_needDirectory _ _).after
    | apply (keep_needHistory _ _ _).after | apply (keep_waitFor _ _ _).after | apply (keep_endAdmission _ _).after
    | apply (keep_setAdmission _ _ _).after | split | dsimp only
    | (apply Keep.lit; on_goal 2 => (constructor <;> first | exact .inr rfl | exact .inl rfl | exact .of rfl rfl rfl rfl rfl rfl rfl))
  all_goals rfl

end Sys2Proof.Machine
end

