-- ==== Sys2Proof/Laws/FramesD.lean ====
section
/-! SUPPORT. What each operation may change, as a mask of the parts of State (Keep): the meanings of the commands. -/

namespace Sys2Proof.Machine

open Sys2Proof

set_option linter.all false

theorem keep_execAddRegions (a0 : CompNo) (s : State) : KeepO 6973926 s (execAddRegions a0 s) := by
  unfold execAddRegions
  with_reducible repeat' first
    | (intro) | apply Keep.refl | assumption | apply KeepO.next
    | apply (keep_doAddRegions _ _).after | apply (keep_compCommand _ _ _ ?_ ?_).next | apply keep_actAwake | dsimp only
  all_goals rfl

theorem keep_execAdopt (a0 : ObjCommand) (s : State) : KeepO 4876486 s (execAdopt a0 s) := by
  unfold execAdopt
  with_reducible repeat' first
    | (intro) | apply Keep.refl | assumption | apply KeepO.next
    | apply (keep_takeObj _ _ _).after | apply keep_act | dsimp only
  all_goals rfl

theorem keep_execAdvance (s : State) : KeepO 4876534 s (execAdvance s) := by
  unfold execAdvance
  try dsimp only
  with_reducible repeat' first
    | (intro) | apply Keep.refl | assumption | apply KeepO.next | apply (keep_doAdvance _).after
    | apply keep_actAwake | apply Keep.foldl2 | apply Keep.foldl | split | dsimp only
    | (apply Keep.lit; on_goal 2 => (constructor <;> first | exact .inr rfl | exact .inl rfl | exact .of rfl rfl rfl rfl rfl rfl rfl))
  all_goals rfl

theorem keep_execAllocate (a0 : ObjCommand) (s : State) : KeepO 4876486 s (execAllocate a0 s) := by
  unfold execAllocate
  with_reducible repeat' first
    | (intro) | apply Keep.refl | assumption | apply KeepO.next
    | apply (keep_takeObj _ _ _).after | apply keep_act | dsimp only
  all_goals rfl

theorem keep_execAnnounce (a0 : ChainHead) (a1 : List (Fin 4)) (s : State) : KeepO 4909254 s (execAnnounce a0 a1 s) := by
  unfold execAnnounce
  try dsimp only
  with_reducible repeat' first
    | (intro) | apply Keep.refl | assumption | apply KeepO.next
    | apply (keep_whenReady _ _ _ _ ?_ ?_).next | apply (keep_memberLeaves _ _ _).after | apply keep_chainRow
    | apply (keep_answerChain _ _ _ _ _).after | apply Keep.foldl | dsimp only
  all_goals rfl

theorem keep_execAppend (a0 : Tenant) (a1 : HostCommand) (a2 : Option (List Nat)) (s : State) :
    KeepO 4943054 s (execAppend a0 a1 a2 s) := by
  unfold execAppend
  with_reducible repeat' first
    | (intro) | apply Keep.refl | assumption | apply KeepO.next
    | apply (keep_serveCommand _ _ _ _ _).after | apply keep_actPages | dsimp only
  all_goals rfl

theorem keep_execAttach (a0 : Nat) (a1 : CompNo) (s : State) : KeepO 4878054 s (execAttach a0 a1 s) := by
  unfold execAttach
  with_reducible repeat' first
    | (intro) | apply Keep.refl | assumption | apply KeepO.next
    | apply (keep_doAttach _ _ _).after | apply keep_actAwake | apply (keep_putF _ _ _).after | dsimp only
  all_goals rfl

theorem keep_execAttest (a0 : Nat) (s : State) : KeepO 4876518 s (execAttest a0 s) := by
  unfold execAttest
  with_reducible repeat' first
    | (intro) | apply Keep.refl | assumption | apply KeepO.next | apply (keep_doAttest _ _).after
    | apply keep_actAwake | dsimp only
  all_goals rfl

theorem keep_execBar4Read (a0 a1 : Nat) (s : State) : KeepO 7039214 s (execBar4Read a0 a1 s) := by
  unfold execBar4Read
  with_reducible repeat' first
    | (intro) | apply Keep.refl | assumption | apply KeepO.next
    | apply (keep_readBar4 _ _ _).after | apply keep_actBar4 | dsimp only
  all_goals rfl

theorem keep_execBar4Write (a0 : Nat) (a1 : List Byte) (s : State) : KeepO 7039214 s (execBar4Write a0 a1 s) := by
  unfold execBar4Write
  with_reducible repeat' first
    | (intro) | apply Keep.refl | assumption | apply KeepO.next
    | apply (keep_writeBar4 _ _ _).after | apply keep_actBar4 | dsimp only
  all_goals rfl

theorem keep_execBind (a0 : CompNo) (a1 : Role) (s : State) : KeepO 6974950 s (execBind a0 a1 s) := by
  unfold execBind
  with_reducible repeat' first
    | (intro) | apply Keep.refl | assumption | apply KeepO.next | apply (keep_doBind _ _ _).after
    | apply (keep_compCommand _ _ _ ?_ ?_).next | apply keep_actAwake | apply (keep_putF _ _ _).after | dsimp only
  all_goals rfl

theorem keep_execBlack (s : State) : KeepO 7340030 s (execBlack s) := by
  unfold execBlack
  with_reducible repeat' first
    | (intro) | apply Keep.refl | assumption | apply KeepO.next | apply (keep_depart _ _).after
    | apply (keep_pwrStatus _ _).after | apply keep_act | split | dsimp only
  all_goals rfl

theorem keep_execBoundsNotGuaranteed (a0 : Die) (a1 : ℤ) (s : State) : KeepO 4876518 s (execBoundsNotGuaranteed a0 a1 s) := by
  unfold execBoundsNotGuaranteed
  try dsimp only
  with_reducible repeat' first
    | (intro) | apply Keep.refl | assumption | apply KeepO.next
    | apply (keep_readDie _ _ _).after | apply (keep_pwrNotify _).after | apply keep_act | apply (keep_putF _ _ _).after | split
    | dsimp only
    | (apply Keep.lit; on_goal 2 => (constructor <;> first | exact .inr rfl | exact .inl rfl | exact .of rfl rfl rfl rfl rfl rfl rfl))
  all_goals rfl

theorem keep_execBurn (s : State) : KeepO 4876534 s (execBurn s) := by
  unfold execBurn
  try dsimp only
  with_reducible repeat' first
    | (intro) | apply Keep.refl | assumption | apply KeepO.next | apply (keep_doBurn _).after
    | apply keep_actAwake | apply Keep.foldl2 | apply Keep.foldl | split | dsimp only
    | (apply Keep.lit; on_goal 2 => (constructor <;> first | exact .inr rfl | exact .inl rfl | exact .of rfl rfl rfl rfl rfl rfl rfl))
  all_goals rfl

theorem keep_execBurnComplete (a0 : Bool) (s : State) : KeepO 4876502 s (execBurnComplete a0 s) := by
  unfold execBurnComplete
  with_reducible repeat' first
    | (intro) | apply Keep.refl | assumption | apply KeepO.next
    | apply (keep_finishBurn _ _).after | apply keep_act | dsimp only
  all_goals rfl

theorem keep_execBusMasterEnable (a0 a1 : Bool) (s : State) : KeepO 4876758 s (execBusMasterEnable a0 a1 s) := by
  unfold execBusMasterEnable
  with_reducible repeat' first
    | (intro) | apply Keep.refl | assumption | apply KeepO.next | apply (keep_resumeHost _).after
    | apply keep_act | dsimp only
    | (apply Keep.lit; on_goal 2 => (constructor <;> first | exact .inr rfl | exact .inl rfl | exact .of rfl rfl rfl rfl rfl rfl rfl))
  all_goals rfl

theorem keep_execCancel (a0 : Tenant) (a1 : HostCommand) (s : State) : KeepO 4943054 s (execCancel a0 a1 s) := by
  unfold execCancel
  with_reducible repeat' first
    | (intro) | apply Keep.refl | assumption | apply KeepO.next
    | apply (keep_serveCommand _ _ _ _ _).after | apply keep_actPages | dsimp only
  all_goals rfl

theorem keep_execCertificate (a0 : MeterStamp) (s : State) : KeepO 5925062 s (execCertificate a0 s) := by
  unfold execCertificate
  with_reducible repeat' first
    | (intro) | apply Keep.refl | assumption | apply KeepO.next | apply keep_actMeter
    | apply (keep_emit _ _).after | split | dsimp only
  all_goals rfl

theorem keep_execChainForward (a0 : ChainHead) (a1 : List Byte) (s : State) : KeepO 4876486 s (execChainForward a0 a1 s) := by
  unfold execChainForward
  with_reducible repeat' first
    | (intro) | apply Keep.refl | assumption | apply KeepO.next | apply keep_chainRow
    | apply (keep_answerChain _ _ _ _ _).after | dsimp only
  all_goals rfl

theorem keep_execChainReset (a0 : ChainHead) (a1 : Nat) (s : State) : KeepO 7340030 s (execChainReset a0 a1 s) := by
  unfold execChainReset
  with_reducible repeat' first
    | (intro) | apply Keep.refl | assumption | apply KeepO.next
    | apply (keep_whenReady _ _ _ _ ?_ ?_).next | apply (keep_depart _ _).after | apply keep_chainRow
    | apply (keep_answerChain _ _ _ _ _).after | split | dsimp only
  all_goals rfl

theorem keep_execChainRingSilent (s : State) : KeepO 4876486 s (execChainRingSilent s) := by
  unfold execChainRingSilent
  with_reducible repeat' first
    | (intro) | apply Keep.refl | assumption | apply KeepO.next | apply keep_act
    | apply (keep_putF _ _ _).after | dsimp only
  all_goals rfl

theorem keep_execCharcoal (s : State) : KeepO 6973670 s (execCharcoal s) := by
  unfold execCharcoal
  try dsimp only
  with_reducible repeat' first
    | (intro) | apply Keep.refl | assumption | apply KeepO.next
    | apply (keep_charcoalCommand _).after | apply keep_act | apply Keep.foldl2 | apply Keep.foldl | split | dsimp only
    | (apply Keep.lit; on_goal 2 => (constructor <;> first | exact .inr rfl | exact .inl rfl | exact .of rfl rfl rfl rfl rfl rfl rfl))
  all_goals rfl

theorem keep_execCharcoalEntryComplete (s : State) : KeepO 6973670 s (execCharcoalEntryComplete s) := by
  unfold execCharcoalEntryComplete
  try dsimp only
  with_reducible repeat' first
    | (intro) | apply Keep.refl | assumption | apply KeepO.next
    | apply (keep_pwrStatus _ _).after | apply (keep_leaveCharcoal _ _).after | apply (keep_setPwrState _ _).after
    | apply keep_act | apply (keep_satF _ _).after | split | dsimp only
    | (apply Keep.lit; on_goal 2 => (constructor <;> first | exact .inr rfl | exact .inl rfl | exact .of rfl rfl rfl rfl rfl rfl rfl))
  all_goals rfl

theorem keep_execClaim (a0 : RstHeader) (a1 a2 : PartAddr) (s : State) : KeepO 7044334 s (execClaim a0 a1 a2 s) := by
  unfold execClaim
  with_reducible repeat' first
    | apply Keep.refl | assumption | apply KeepO.next | apply (keep_rstRow _ _ _ _).mono
  all_goals rfl

theorem keep_execClose (a0 : RstHeader) (s : State) : KeepO 7044334 s (execClose a0 s) := by
  unfold execClose
  with_reducible repeat' first
    | apply Keep.refl | assumption | apply KeepO.next | apply (keep_rstRow _ _ _ _).mono
  all_goals rfl

theorem keep_execClosed (a0 : RstHeader) (s : State) : KeepO 7044334 s (execClosed a0 s) := by
  unfold execClosed
  with_reducible repeat' first
    | apply Keep.refl | assumption | apply KeepO.next | apply (keep_rstRow _ _ _ _).mono
  all_goals rfl

theorem keep_execClusterFault (a0 : RegionNo) (a1 : Fin 256) (a2 : ClusterFaultKind) (s : State) :
    KeepO 4943822 s (execClusterFault a0 a1 a2 s) := by
  unfold execClusterFault
  with_reducible repeat' first
    | (intro) | apply Keep.refl | assumption | apply KeepO.next
    | apply (keep_faultRegion _ _ _ _).after | apply keep_act | split | dsimp only
  all_goals rfl

theorem keep_execCoalesceUsExpiry (a0 : Tenant) (s : State) : KeepO 4876486 s (execCoalesceUsExpiry a0 s) := by
  unfold execCoalesceUsExpiry
  try dsimp only
  with_reducible repeat' first
    | (intro) | apply Keep.refl | assumption | apply KeepO.next | apply keep_act
    | apply (keep_signal _ _).after | apply (keep_setQueues _ _ _).after | split | dsimp only
    | (apply Keep.lit; on_goal 2 => (constructor <;> first | exact .inr rfl | exact .inl rfl | exact .of rfl rfl rfl rfl rfl rfl rfl))
  all_goals rfl

theorem keep_execColdReset (s : State) : KeepO 7340030 s (execColdReset s) := by
  unfold execColdReset
  with_reducible repeat' first
    | (intro) | apply Keep.refl | assumption | apply KeepO.next | apply (keep_depart _ _).after
    | apply keep_act | dsimp only
  all_goals rfl

theorem keep_execConfigurationRequest (a0 : CfgAccess) (s : State) : KeepO 4876486 s (execConfigurationRequest a0 s) := by
  unfold execConfigurationRequest
  with_reducible repeat' first
    | (intro) | apply Keep.refl | assumption | apply KeepO.next
    | apply (keep_configure _ _).after | apply keep_act | apply (keep_emit _ _).after | split | dsimp only
  all_goals rfl

theorem keep_execCopyComplete (a0 : Nat) (a1 : ReadEnd) (a2 : Bool) (a3 : NandReport) (s : State) :
    KeepO 5204174 s (execCopyComplete a0 a2 s a1 a3) := by
  unfold execCopyComplete
  with_reducible repeat' first
    | (intro) | apply Keep.refl | assumption | apply KeepO.next
    | apply (keep_endCopy _ _ _ _ _).after | apply keep_act | dsimp only
  all_goals rfl

theorem keep_execCqHead (a0 : Tenant) (a1 : Nat) (s : State) : KeepO 6973670 s (execCqHead a0 a1 s) := by
  unfold execCqHead
  with_reducible repeat' first
    | (intro) | apply Keep.refl | assumption | apply KeepO.next
    | apply (keep_writeCqHead _ _ _).after | apply keep_actDoorbell | dsimp only
  all_goals rfl

theorem keep_execCtrlDepart (a0 : RoalePort) (a1 : Member) (s : State) : KeepO 4909254 s (execCtrlDepart a0 a1 s) := by
  unfold execCtrlDepart
  with_reducible repeat' first
    | (intro) | apply Keep.refl | assumption | apply KeepO.next
    | apply (keep_memberLeaves _ _ _).after | apply keep_act | split | dsimp only
  all_goals rfl

theorem keep_execDeadlineMiss (a0 : Nat) (s : State) : KeepO 4876486 s (execDeadlineMiss a0 s) := by
  unfold execDeadlineMiss
  try dsimp only
  with_reducible repeat' first
    | (intro) | apply Keep.refl | assumption | apply KeepO.next | apply keep_act
    | apply (keep_modEntry _ _ _).after | apply (keep_notify _ _ _).after | apply (keep_satF _ _).after | split | dsimp only
    | (apply Keep.lit; on_goal 2 => (constructor <;> first | exact .inr rfl | exact .inl rfl | exact .of rfl rfl rfl rfl rfl rfl rfl))
  all_goals rfl

theorem keep_execDelayLineCalibration (s : State) : KeepO 4942022 s (execDelayLineCalibration s) := by
  unfold execDelayLineCalibration
  with_reducible repeat' first
    | (intro) | apply Keep.refl | assumption | apply KeepO.next | apply keep_act | dsimp only
    | (apply Keep.lit; on_goal 2 => (constructor <;> first | exact .inr rfl | exact .inl rfl | exact .of rfl rfl rfl rfl rfl rfl rfl))
  all_goals rfl

theorem keep_execDeny (a0 : RstHeader) (a1 : PartAddr) (s : State) : KeepO 7044334 s (execDeny a0 a1 s) := by
  unfold execDeny
  with_reducible repeat' first
    | apply Keep.refl | assumption | apply KeepO.next | apply (keep_rstRow _ _ _ _).mono
  all_goals rfl

theorem keep_execDepartAnswer (a0 : ChainHead) (s : State) : KeepO 4876486 s (execDepartAnswer a0 s) := by
  unfold execDepartAnswer
  with_reducible repeat' first
    | (intro) | apply Keep.refl | assumption | apply KeepO.next | apply keep_chainRow
    | dsimp only
  all_goals rfl

theorem keep_execDepartureComplete (s : State) : KeepO 7340030 s (execDepartureComplete s) := by
  unfold execDepartureComplete
  with_reducible repeat' first
    | (intro) | apply Keep.refl | assumption | apply KeepO.next
    | apply (keep_sendChain _ _ _ _).after | apply (keep_endDeparture _ _).after | apply keep_act | split | dsimp only
  all_goals rfl

theorem keep_execDetach (a0 : CompNo) (s : State) : KeepO 4877030 s (execDetach a0 s) := by
  unfold execDetach
  with_reducible repeat' first
    | (intro) | apply Keep.refl | assumption | apply KeepO.next | apply (keep_doDetach _ _).after
    | apply keep_actAwake | apply (keep_putF _ _ _).after | dsimp only
  all_goals rfl

theorem keep_execDetachComplete (a0 : CompNo) (s : State) : KeepO 4878022 s (execDetachComplete a0 s) := by
  unfold execDetachComplete
  with_reducible repeat' first
    | (intro) | apply Keep.refl | assumption | apply KeepO.next
    | apply (keep_detachComp _ _).after | apply (keep_ucodeStatus _ _).after | apply keep_act | dsimp only
  all_goals rfl

theorem keep_execDiscard (a0 : NandReport) (s : State) : KeepO 5138662 s (execDiscard s a0) := by
  unfold execDiscard
  try dsimp only
  with_reducible repeat' first
    | (intro) | apply Keep.refl | assumption | apply KeepO.next
    | apply (keep_discardRange _ _).after | apply keep_actAwake | apply Keep.foldl2 | apply Keep.foldl | split | dsimp only
    | (apply Keep.lit; on_goal 2 => (constructor <;> first | exact .inr rfl | exact .inl rfl | exact .of rfl rfl rfl rfl rfl rfl rfl))
  all_goals rfl

theorem keep_execDlUpLoss (s : State) : KeepO 5205982 s (execDlUpLoss s) := by
  unfold execDlUpLoss
  with_reducible repeat' first
    | (intro) | apply Keep.refl | assumption | apply KeepO.next | apply (keep_failReads _).after
    | apply keep_act | apply (keep_satF _ _).after | apply (keep_putF _ _ _).after | dsimp only
    | (apply Keep.lit; on_goal 2 => (constructor <;> first | exact .inr rfl | exact .inl rfl | exact .of rfl rfl rfl rfl rfl rfl rfl))
  all_goals rfl

theorem keep_execDlUpReturn (a0 a1 : Nat) (a2 : Bool) (s : State) : KeepO 4876758 s (execDlUpReturn a0 a1 a2 s) := by
  unfold execDlUpReturn
  try dsimp only
  with_reducible repeat' first
    | (intro) | apply Keep.refl | assumption | apply KeepO.next | apply (keep_resumeHost _).after
    | apply keep_act | apply (keep_notify _ _ _).after | apply (keep_putF _ _ _).after | split | dsimp only
    | (apply Keep.lit; on_goal 2 => (constructor <;> first | exact .inr rfl | exact .inl rfl | exact .of rfl rfl rfl rfl rfl rfl rfl))
  all_goals rfl

theorem keep_execDomainClear (a0 : Fin 4096) (s : State) : KeepO 4880614 s (execDomainClear a0 s) := by
  unfold execDomainClear
  with_reducible repeat' first
    | (intro) | apply Keep.refl | assumption | apply KeepO.next
    | apply (keep_clearBlob _ _ _).after | apply (keep_beginScan _ _ _).after | apply keep_actAwake | dsimp only
  all_goals rfl

theorem keep_execDomainFlush (a0 : Fin 4096) (s : State) : KeepO 4880614 s (execDomainFlush a0 s) := by
  unfold execDomainFlush
  with_reducible repeat' first
    | (intro) | apply Keep.refl | assumption | apply KeepO.next
    | apply (keep_beginScan _ _ _).after | apply keep_actAwake | dsimp only
  all_goals rfl

theorem keep_execDomainLoad (a0 : Fin 4096) (a1 : Nat) (a2 : Tenant) (s : State) :
    KeepO 4880614 s (execDomainLoad a0 a1 a2 s) := by
  unfold execDomainLoad
  with_reducible repeat' first
    | (intro) | apply Keep.refl | assumption | apply KeepO.next
    | apply (keep_loadDomain _ _ _ _).after | apply keep_actAwake | dsimp only
  all_goals rfl

theorem keep_execDomainScanComplete (s : State) : KeepO 4880582 s (execDomainScanComplete s) := by
  unfold execDomainScanComplete
  try dsimp only
  with_reducible repeat' first
    | (intro) | apply Keep.refl | assumption | apply KeepO.next | apply (keep_endScan _).after
    | apply keep_act | apply Keep.foldl2 | apply Keep.foldl | split | dsimp only
    | (apply Keep.lit; on_goal 2 => (constructor <;> first | exact .inr rfl | exact .inl rfl | exact .of rfl rfl rfl rfl rfl rfl rfl))
  all_goals rfl

theorem keep_execDomainUnpin (a0 : Fin 4096) (s : State) : KeepO 4880614 s (execDomainUnpin a0 s) := by
  unfold execDomainUnpin
  with_reducible repeat' first
    | (intro) | apply Keep.refl | assumption | apply KeepO.next
    | apply (keep_beginScan _ _ _).after | apply keep_actAwake | dsimp only
  all_goals rfl

theorem keep_execDrain (a0 : RegionNo) (a1 : Option Nat) (s : State) : KeepO 4943334 s (execDrain a0 a1 s) := by
  unfold execDrain
  with_reducible repeat' first
    | (intro) | apply Keep.refl | assumption | apply KeepO.next
    | apply (keep_putHandle _ _ _).after | apply (keep_doDrain _ _).after | apply keep_actAwake | dsimp only
  all_goals rfl

theorem keep_execDrainComplete (a0 : RegionNo) (s : State) : KeepO 4943822 s (execDrainComplete a0 s) := by
  unfold execDrainComplete
  with_reducible repeat' first
    | (intro) | apply Keep.refl | assumption | apply KeepO.next | apply (keep_endDrain _ _).after
    | apply keep_act | dsimp only
  all_goals rfl

theorem keep_execDrop (a0 : Nat) (s : State) : KeepO 4877510 s (execDrop a0 s) := by
  unfold execDrop
  try dsimp only
  with_reducible repeat' first
    | (intro) | apply Keep.refl | assumption | apply KeepO.next
    | apply (keep_dropVictim _ _ _ _).after | apply (keep_seizeEntry _ _).after | apply keep_act | split | dsimp only
  all_goals rfl

theorem keep_execEgressFrameStart (a0 : PortNo) (s : State) : KeepO 4341760 s (execEgressFrameStart a0 s) := by
  unfold execEgressFrameStart
  with_reducible repeat' first
    | apply Keep.refl | assumption | apply KeepO.next | apply (keep_startFrame _ _).after
    | apply (keep_retryFrames _ _).after | apply (keep_leaveEncode _ _).after | split
  all_goals rfl

theorem keep_execEnec (a0 : MeterStamp) (a1 : Byte) (s : State) : KeepO 5925062 s (execEnec a0 a1 s) := by
  unfold execEnec
  with_reducible repeat' first
    | (intro) | apply Keep.refl | assumption | apply KeepO.next | apply keep_actMeter
    | dsimp only
    | (apply Keep.lit; on_goal 2 => (constructor <;> first | exact .inr rfl | exact .inl rfl | exact .of rfl rfl rfl rfl rfl rfl rfl))
  all_goals rfl

theorem keep_execEntdaa (a0 : MeterStamp) (a1 : BitVec 7) (s : State) : KeepO 5925062 s (execEntdaa a0 a1 s) := by
  unfold execEntdaa
  with_reducible repeat' first
    | (intro) | apply Keep.refl | assumption | apply KeepO.next | apply keep_actMeter
    | apply (keep_emit _ _).after | split | dsimp only
    | (apply Keep.lit; on_goal 2 => (constructor <;> first | exact .inr rfl | exact .inl rfl | exact .of rfl rfl rfl rfl rfl rfl rfl))
  all_goals rfl

theorem keep_execEnum (a0 : ChainHead) (a1 : Nat) (s : State) : KeepO 4876502 s (execEnum a0 a1 s) := by
  unfold execEnum
  try dsimp only
  with_reducible repeat' first
    | (intro) | apply Keep.refl | assumption | apply KeepO.next | apply (keep_ringHeard _).after
    | apply (keep_passChain _ _).after | apply keep_act | apply (keep_satF _ _).after | apply (keep_emit _ _).after | split
    | dsimp only
    | (apply Keep.lit; on_goal 2 => (constructor <;> first | exact .inr rfl | exact .inl rfl | exact .of rfl rfl rfl rfl rfl rfl rfl))
  all_goals rfl

theorem keep_execEstablish (a0 : Nat) (s : State) : KeepO 4876518 s (execEstablish a0 s) := by
  unfold execEstablish
  with_reducible repeat' first
    | (intro) | apply Keep.refl | assumption | apply KeepO.next
    | apply (keep_doEstablish _ _).after | apply keep_actAwake | dsimp only
  all_goals rfl

theorem keep_execEthernetPortDown (a0 : EthPort) (s : State) : KeepO 4909254 s (execEthernetPortDown a0 s) := by
  unfold execEthernetPortDown
  with_reducible repeat' first
    | (intro) | apply Keep.refl | assumption | apply KeepO.next | apply keep_act | dsimp only
    | (apply Keep.lit; on_goal 2 => (constructor <;> first | exact .inr rfl | exact .inl rfl | exact .of rfl rfl rfl rfl rfl rfl rfl))
  all_goals rfl

theorem keep_execEthernetPortUp (a0 : EthPort) (a1 : Nat) (s : State) : KeepO 4909254 s (execEthernetPortUp a0 a1 s) := by
  unfold execEthernetPortUp
  with_reducible repeat' first
    | (intro) | apply Keep.refl | assumption | apply KeepO.next | apply keep_act | dsimp only
    | (apply Keep.lit; on_goal 2 => (constructor <;> first | exact .inr rfl | exact .inl rfl | exact .of rfl rfl rfl rfl rfl rfl rfl))
  all_goals rfl

theorem keep_execFabPkgLoad (a0 : Nat) (s : State) : KeepO 4876774 s (execFabPkgLoad a0 s) := by
  unfold execFabPkgLoad
  with_reducible repeat' first
    | (intro) | apply Keep.refl | assumption | apply KeepO.next
    | apply (keep_beginPackage _ _).after | apply keep_actAwake | apply (keep_putF _ _ _).after | dsimp only
  all_goals rfl

theorem keep_execFabVdcFlush (s : State) : KeepO 4876774 s (execFabVdcFlush s) := by
  unfold execFabVdcFlush
  try dsimp only
  with_reducible repeat' first
    | (intro) | apply Keep.refl | assumption | apply KeepO.next
    | apply (keep_flushDigests _).after | apply keep_actAwake | apply Keep.foldl2 | apply Keep.foldl | split | dsimp only
    | (apply Keep.lit; on_goal 2 => (constructor <;> first | exact .inr rfl | exact .inl rfl | exact .of rfl rfl rfl rfl rfl rfl rfl))
  all_goals rfl

theorem keep_execFeedBind (a0 : MeterStamp) (a1 : FeedHead) (a2 : CompositionBody) (s : State) :
    KeepO 5925062 s (execFeedBind a0 a1 a2 s) := by
  unfold execFeedBind
  with_reducible repeat' first
    | (intro) | apply Keep.refl | assumption | apply KeepO.next
    | apply (keep_openComp _ _ _).after | apply (keep_closeComp _ _ _ _ _).after | apply keep_actFeed | dsimp only
  all_goals rfl

theorem keep_execFeedKeepalive (a0 : MeterStamp) (a1 : FeedHead) (s : State) :
    KeepO 5925062 s (execFeedKeepalive a0 a1 s) := by
  unfold execFeedKeepalive
  with_reducible repeat' first
    | (intro) | apply Keep.refl | assumption | apply KeepO.next | apply keep_actFeed | dsimp only
  all_goals rfl

theorem keep_execFeedPower (a0 : MeterStamp) (a1 : FeedHead) (a2 a3 a4 : Nat) (s : State) :
    KeepO 5925062 s (execFeedPower a0 a1 a2 a3 a4 s) := by
  unfold execFeedPower
  try dsimp only
  with_reducible repeat' first
    | (intro) | apply Keep.refl | assumption | apply KeepO.next
    | apply (keep_closeComp _ _ _ _ _).after | apply keep_actFeed | apply (keep_logNow _ _ _).after | apply Keep.foldl | split
    | dsimp only
  all_goals rfl

theorem keep_execFeedResource (a0 : MeterStamp) (a1 : FeedHead) (a2 : CompositionBody) (s : State) :
    KeepO 5925062 s (execFeedResource a0 a1 a2 s) := by
  unfold execFeedResource
  with_reducible repeat' first
    | (intro) | apply Keep.refl | assumption | apply KeepO.next
    | apply (keep_changeComp _ _ _ _).after | apply keep_actFeed | apply (keep_feedFault _ _ _ _).after
    | apply (keep_logNow _ _ _).after | split | dsimp only
  all_goals rfl

theorem keep_execFeedSeal (a0 : MeterStamp) (a1 : FeedHead) (a2 : List Byte) (s : State) :
    KeepO 5925062 s (execFeedSeal a0 a1 a2 s) := by
  unfold execFeedSeal
  with_reducible repeat' first
    | (intro) | apply Keep.refl | assumption | apply KeepO.next | apply keep_actFeed
    | apply (keep_logNow _ _ _).after | dsimp only
  all_goals rfl

theorem keep_execFeedUnbind (a0 : MeterStamp) (a1 : FeedHead) (a2 : CompositionBody) (s : State) :
    KeepO 5925062 s (execFeedUnbind a0 a1 a2 s) := by
  unfold execFeedUnbind
  with_reducible repeat' first
    | (intro) | apply Keep.refl | assumption | apply KeepO.next
    | apply (keep_endComp _ _ _ _).after | apply keep_actFeed | apply (keep_feedFault _ _ _ _).after | split | dsimp only
  all_goals rfl

theorem keep_execFence (a0 : ChainHead) (s : State) : KeepO 7340030 s (execFence a0 s) := by
  unfold execFence
  with_reducible repeat' first
    | (intro) | apply Keep.refl | assumption | apply KeepO.next | apply (keep_railsOff _ _).after
    | apply keep_chainRow | apply (keep_answerChain _ _ _ _ _).after | split | dsimp only
  all_goals rfl

theorem keep_execFenceTimeout (s : State) : KeepO 4876486 s (execFenceTimeout s) := by
  unfold execFenceTimeout
  with_reducible repeat' first
    | (intro) | apply Keep.refl | assumption | apply KeepO.next | apply keep_act
    | apply (keep_notify _ _ _).after | apply (keep_putF _ _ _).after | split | dsimp only
  all_goals rfl

theorem keep_execFenceWaitExpiry (s : State) : KeepO 4876486 s (execFenceWaitExpiry s) := by
  unfold execFenceWaitExpiry
  try dsimp only
  with_reducible repeat' first
    | (intro) | apply Keep.refl | assumption | apply KeepO.next | apply (keep_sendFence _).after
    | apply keep_act | apply Keep.foldl2 | apply Keep.foldl | split | dsimp only
    | (apply Keep.lit; on_goal 2 => (constructor <;> first | exact .inr rfl | exact .inl rfl | exact .of rfl rfl rfl rfl rfl rfl rfl))
  all_goals rfl

theorem keep_execFenced (a0 : ChainHead) (a1 a2 : Nat) (s : State) : KeepO 6977734 s (execFenced a0 a1 a2 s) := by
  unfold execFenced
  with_reducible repeat' first
    | (intro) | apply Keep.refl | assumption | apply KeepO.next
    | apply (keep_whenReady _ _ _ _ ?_ ?_).next | apply (keep_endFencing _ _).after | apply keep_chainRow
    | apply (keep_answerChain _ _ _ _ _).after | dsimp only
  all_goals rfl

theorem keep_execFlsLock (a0 : NandId) (s : State) : KeepO 7235814 s (execFlsLock a0 s) := by
  unfold execFlsLock
  with_reducible repeat' first
    | (intro) | apply Keep.refl | assumption | apply KeepO.next
    | apply (keep_lockFlash _ _).after | apply keep_actAwake | dsimp only
  all_goals rfl

theorem keep_execFold (a0 : NandReport) (s : State) : KeepO 5138630 s (execFold s a0) := by
  unfold execFold
  try dsimp only
  with_reducible repeat' first
    | (intro) | apply Keep.refl | assumption | apply KeepO.next
    | apply (keep_noteCorrected _ _).after | apply (keep_collectBlock _ _ _).after | apply keep_act
    | apply (keep_pick _ _).after | split | dsimp only
  all_goals rfl

theorem keep_execForward (a0 : AgentNo) (a1 : Nat) (s : State) : KeepO 4942030 s (execForward a0 a1 s) := by
  unfold execForward
  try dsimp only
  with_reducible repeat' first
    | (intro) | apply Keep.refl | assumption | apply KeepO.next
    | apply (keep_answerForward _ _ _).after | apply (keep_setCacheLine _ _ _ _).after | apply keep_act | split | dsimp only
    | (apply Keep.lit; on_goal 2 => (constructor <;> first | exact .inr rfl | exact .inl rfl | exact .of rfl rfl rfl rfl rfl rfl rfl))
  all_goals rfl

theorem keep_execFrameForward (a0 : PortNo) (a1 : Member) (a2 : Nat) (a3 : Fin 8) (a4 : Option Nat) (s : State) :
    KeepO 4876486 s (execFrameForward a0 a1 a2 a3 s a4) := by
  unfold execFrameForward
  with_reducible repeat' first
    | (intro) | apply Keep.refl | assumption | apply KeepO.next | apply keep_act
    | apply (keep_enqueue _ _ _).after | split | dsimp only
  all_goals rfl

theorem keep_execFree (a0 : ObjCommand) (s : State) : KeepO 4876486 s (execFree a0 s) := by
  unfold execFree
  with_reducible repeat' first
    | (intro) | apply Keep.refl | assumption | apply KeepO.next
    | apply (keep_takeObj _ _ _).after | apply keep_act | dsimp only
  all_goals rfl

theorem keep_execFunctionLevelReset (s : State) : KeepO 7340030 s (execFunctionLevelReset s) := by
  unfold execFunctionLevelReset
  with_reducible repeat' first
    | apply Keep.refl | assumption | apply KeepO.next | apply (keep_endpointReset _ _).mono
  all_goals rfl

theorem keep_execGcCollect (a0 : NandReport) (s : State) : KeepO 5138630 s (execGcCollect s a0) := by
  unfold execGcCollect
  try dsimp only
  with_reducible repeat' first
    | (intro) | apply Keep.refl | assumption | apply KeepO.next
    | apply (keep_noteCorrected _ _).after | apply (keep_collectBlock _ _ _).after | apply keep_act | split | dsimp only
  all_goals rfl

theorem keep_execGcmClear (a0 : Fin 256) (s : State) : KeepO 4876518 s (execGcmClear a0 s) := by
  unfold execGcmClear
  with_reducible repeat' first
    | (intro) | apply Keep.refl | assumption | apply KeepO.next | apply (keep_clearGcm _ _).after
    | apply keep_actAwake | dsimp only
  all_goals rfl

theorem keep_execGcmLoad (a0 : Fin 256) (s : State) : KeepO 4876518 s (execGcmLoad a0 s) := by
  unfold execGcmLoad
  with_reducible repeat' first
    | (intro) | apply Keep.refl | assumption | apply KeepO.next | apply (keep_loadGcm _ _).after
    | apply keep_actAwake | dsimp only
  all_goals rfl

theorem keep_execGetId (a0 : ChainHead) (s : State) : KeepO 4876486 s (execGetId a0 s) := by
  unfold execGetId
  with_reducible repeat' first
    | (intro) | apply Keep.refl | assumption | apply KeepO.next | apply keep_chainRow
    | apply (keep_answerChain _ _ _ _ _).after | dsimp only
  all_goals rfl

theorem keep_execGetbcr (a0 : MeterStamp) (s : State) : KeepO 5925062 s (execGetbcr a0 s) := by
  unfold execGetbcr
  with_reducible repeat' first
    | (intro) | apply Keep.refl | assumption | apply KeepO.next | apply (keep_directed _ _).after
    | apply keep_actMeter | dsimp only
  all_goals rfl

theorem keep_execGetdcr (a0 : MeterStamp) (s : State) : KeepO 5925062 s (execGetdcr a0 s) := by
  unfold execGetdcr
  with_reducible repeat' first
    | (intro) | apply Keep.refl | assumption | apply KeepO.next | apply (keep_directed _ _).after
    | apply keep_actMeter | dsimp only
  all_goals rfl

theorem keep_execGetpid (a0 : MeterStamp) (s : State) : KeepO 5925062 s (execGetpid a0 s) := by
  unfold execGetpid
  with_reducible repeat' first
    | (intro) | apply Keep.refl | assumption | apply KeepO.next | apply (keep_directed _ _).after
    | apply keep_actMeter | dsimp only
  all_goals rfl

theorem keep_execGetstatus (a0 : MeterStamp) (s : State) : KeepO 5925062 s (execGetstatus a0 s) := by
  unfold execGetstatus
  with_reducible repeat' first
    | (intro) | apply Keep.refl | assumption | apply KeepO.next | apply (keep_directed _ _).after
    | apply keep_actMeter | dsimp only
    | (apply Keep.lit; on_goal 2 => (constructor <;> first | exact .inr rfl | exact .inl rfl | exact .of rfl rfl rfl rfl rfl rfl rfl))
  all_goals rfl

theorem keep_execGrant (a0 : RstHeader) (s : State) : KeepO 7044334 s (execGrant a0 s) := by
  unfold execGrant
  with_reducible repeat' first
    | apply Keep.refl | assumption | apply KeepO.next | apply (keep_rstRow _ _ _ _).mono
  all_goals rfl

theorem keep_execGrey (s : State) : KeepO 6973670 s (execGrey s) := by
  unfold execGrey
  with_reducible repeat' first
    | (intro) | apply Keep.refl | assumption | apply KeepO.next
    | apply (keep_awakeCommand _ _).after | apply keep_act | dsimp only
  all_goals rfl

theorem keep_execGreyIdle (a0 : RegionNo) (s : State) : KeepO 4876518 s (execGreyIdle a0 s) := by
  unfold execGreyIdle
  with_reducible repeat' first
    | (intro) | apply Keep.refl | assumption | apply KeepO.next | apply keep_act | dsimp only
    | (apply Keep.lit; on_goal 2 => (constructor <;> first | exact .inr rfl | exact .inl rfl | exact .of rfl rfl rfl rfl rfl rfl rfl))
  all_goals rfl

theorem keep_execHandover (s : State) : KeepO 6973638 s (execHandover s) := by
  unfold execHandover
  try dsimp only
  with_reducible repeat' first
    | (intro) | apply Keep.refl | assumption | apply KeepO.next
    | apply (keep_becomeMirror _).after | apply (keep_becomeActive _).after | apply keep_act | apply (keep_sendChange _ _).after
    | apply (keep_satF _ _).after | split | dsimp only
  all_goals rfl

theorem keep_execHeartbeat (a0 : RoalePort) (a1 : Member) (a2 : TwinRole) (a3 : TwinState) (a4 a5 : Nat) (s : State) :
    KeepO 6973638 s (execHeartbeat a0 a1 a2 a3 a4 a5 s) := by
  unfold execHeartbeat
  try dsimp only
  with_reducible repeat' first
    | (intro) | apply Keep.refl | assumption | apply KeepO.next
    | apply (keep_learnApplied _ _).after | apply keep_act | split | dsimp only
    | (apply Keep.lit; on_goal 2 => (constructor <;> first | exact .inr rfl | exact .inl rfl | exact .of rfl rfl rfl rfl rfl rfl rfl))
  all_goals rfl

theorem keep_execHeartbeatLoss (s : State) : KeepO 6977734 s (execHeartbeatLoss s) := by
  unfold execHeartbeatLoss
  try dsimp only
  with_reducible repeat' first
    | (intro) | apply Keep.refl | assumption | apply KeepO.next
    | apply (keep_loseHeartbeats _).after | apply keep_act | apply Keep.foldl2 | apply Keep.foldl | split | dsimp only
    | (apply Keep.lit; on_goal 2 => (constructor <;> first | exact .inr rfl | exact .inl rfl | exact .of rfl rfl rfl rfl rfl rfl rfl))
  all_goals rfl

theorem keep_execHeartbeatSend (s : State) : KeepO 4876486 s (execHeartbeatSend s) := by
  unfold execHeartbeatSend
  with_reducible repeat' first
    | (intro) | apply Keep.refl | assumption | apply KeepO.next | apply keep_act
    | apply (keep_enqueue _ _ _).after | apply Keep.foldl | dsimp only
    | (apply Keep.lit; on_goal 2 => (constructor <;> first | exact .inr rfl | exact .inl rfl | exact .of rfl rfl rfl rfl rfl rfl rfl))
  all_goals rfl

theorem keep_execHello (a0 : RoalePort) (a1 : Nat) (a2 : Member) (a3 : Nat) (s : State) :
    KeepO 4909510 s (execHello a0 a1 a2 a3 s) := by
  unfold execHello
  with_reducible repeat' first
    | (intro) | apply Keep.refl | assumption | apply KeepO.next
    | apply (keep_leaveUp _ _ _).after | apply (keep_setPort _ _ _).after | apply keep_act | split | dsimp only
    | (apply Keep.lit; on_goal 2 => (constructor <;> first | exact .inr rfl | exact .inl rfl | exact .of rfl rfl rfl rfl rfl rfl rfl))
  all_goals rfl

theorem keep_execHoldWindowEnd (a0 : AgentNo) (a1 : Nat) (s : State) : KeepO 4942030 s (execHoldWindowEnd a0 a1 s) := by
  unfold execHoldWindowEnd
  try dsimp only
  with_reducible repeat' first
    | (intro) | apply Keep.refl | assumption | apply KeepO.next
    | apply (keep_answerForward _ _ _).after | apply (keep_setCacheLine _ _ _ _).after | apply keep_act | split | dsimp only
    | (apply Keep.lit; on_goal 2 => (constructor <;> first | exact .inr rfl | exact .inl rfl | exact .of rfl rfl rfl rfl rfl rfl rfl))
  all_goals rfl

theorem keep_execHostAdmit (a0 : Tenant) (a1 : HostCommand) (a2 : Option (List Nat)) (a3 : Option AdmitDescriptor) (s : State) :
    KeepO 4876486 s (execHostAdmit a0 a1 a2 a3 s) := by
  unfold execHostAdmit
  try dsimp only
  with_reducible repeat' first
    | (intro) | apply Keep.refl | assumption | apply KeepO.next
    | apply (keep_takeAdmit _ _ _ _ _).after | apply (keep_readAdmit _ _ _).after | apply (keep_readCommand _ _).after
    | apply (keep_answerBare _ _ _ _).after | apply keep_act | split | dsimp only
  all_goals rfl

theorem keep_execHostReadCompletion (a0 : HostReadUse) (a1 : HostReadResult) (s : State) :
    KeepO 5205982 s (execHostReadCompletion a0 a1 s) := by
  unfold execHostReadCompletion
  with_reducible repeat' first
    | (intro) | apply Keep.refl | assumption | apply KeepO.next
    | apply (keep_endHostRead _ _ _).after | apply keep_act | dsimp only
  all_goals rfl

theorem keep_execHotReset (s : State) : KeepO 7340030 s (execHotReset s) := by
  unfold execHotReset
  with_reducible repeat' first
    | apply Keep.refl | assumption | apply KeepO.next | apply (keep_endpointReset _ _).mono
  all_goals rfl

theorem keep_execI3cStatus (a0 : MeterStamp) (s : State) : KeepO 5925062 s (execI3cStatus a0 s) := by
  unfold execI3cStatus
  with_reducible repeat' first
    | (intro) | apply Keep.refl | assumption | apply KeepO.next | apply keep_actMeter
    | apply (keep_emit _ _).after | dsimp only
  all_goals rfl

theorem keep_execIdentity (a0 : MeterStamp) (s : State) : KeepO 5925062 s (execIdentity a0 s) := by
  unfold execIdentity
  with_reducible repeat' first
    | (intro) | apply Keep.refl | assumption | apply KeepO.next | apply keep_actMeter
    | apply (keep_emit _ _).after | dsimp only
  all_goals rfl

theorem keep_execImageReadComplete (a0 : RegionNo) (a1 : ReadEnd) (s : State) :
    KeepO 4943822 s (execImageReadComplete a0 a1 s) := by
  unfold execImageReadComplete
  with_reducible repeat' first
    | (intro) | apply Keep.refl | assumption | apply KeepO.next
    | apply (keep_endRead _ _ _).after | apply keep_act | dsimp only
  all_goals rfl

theorem keep_execInterval (m : MeterStamp) (a b c d : Nat) (s : State) : KeepO 5925062 s (execInterval m a b c d s) := by
  refine keep_actMeter s m _ rfl ?_
  intro u
  extract_lets t s1 s2
  split
  · exact Keep.refl _ _
  · have h1 : Keep 5925062 u s1 := Keep.foldl (Keep.refl _ _) (fun v n => (keep_intervalComp _ _ _).mono rfl)
    have h2 : Keep 5925062 s1 s2 := by
      clear h1
      clear_value s1
      exact (keep_logRecord _ _ _ _ _).mono rfl
    have h := h1.trans h2
    clear h1 h2
    clear_value s2
    refine h.trans ?_
    constructor <;> first | exact .inr rfl | exact .inl rfl | exact .of rfl rfl rfl rfl rfl rfl rfl

theorem keep_execInvalidatingWrite (a0 a1 : Nat) (a2 : List Byte) (s : State) :
    KeepO 4942030 s (execInvalidatingWrite a0 a1 a2 s) := by
  unfold execInvalidatingWrite
  with_reducible repeat' first
    | (intro) | apply Keep.refl | assumption | apply KeepO.next
    | apply (keep_request _ _ _).after | apply keep_act | apply (keep_emit _ _).after | split | dsimp only
  all_goals rfl

theorem keep_execJoin (a0 : TwinRole) (a1 : PeerReport) (s : State) : KeepO 6977766 s (execJoin a0 a1 s) := by
  unfold execJoin
  try dsimp only
  with_reducible repeat' first
    | (intro) | apply Keep.refl | assumption | apply KeepO.next
    | apply (keep_showDigest _ _).after | apply (keep_doJoin _ _).after | apply keep_actAwake | apply (keep_putF _ _ _).after
    | split | dsimp only
  all_goals rfl

theorem keep_execKeepalive (s : State) : KeepO 6973638 s (execKeepalive s) := by
  unfold execKeepalive
  try dsimp only
  with_reducible repeat' first
    | (intro) | apply Keep.refl | assumption | apply KeepO.next | apply (keep_sendFeed _ _).after
    | apply keep_act | split | dsimp only
    | (apply Keep.lit; on_goal 2 => (constructor <;> first | exact .inr rfl | exact .inl rfl | exact .of rfl rfl rfl rfl rfl rfl rfl))
  all_goals rfl

theorem keep_execKeylistClear (s : State) : KeepO 4876790 s (execKeylistClear s) := by
  unfold execKeylistClear
  with_reducible repeat' first
    | (intro) | apply Keep.refl | assumption | apply KeepO.next
    | apply (keep_flushDigests _).after | apply (keep_listStatus _ _).after | apply keep_actAwake | dsimp only
    | (apply Keep.lit; on_goal 2 => (constructor <;> first | exact .inr rfl | exact .inl rfl | exact .of rfl rfl rfl rfl rfl rfl rfl))
  all_goals rfl

theorem keep_execKeylistLoad (a0 : Nat) (a1 : ReadEnd) (s : State) : KeepO 4876790 s (execKeylistLoad a0 a1 s) := by
  unfold execKeylistLoad
  try dsimp only
  with_reducible repeat' first
    | (intro) | apply Keep.refl | assumption | apply KeepO.next
    | apply (keep_doKeylistLoad _ _ _).after | apply keep_actAwake | apply (keep_putF _ _ _).after | split | dsimp only
  all_goals rfl

theorem keep_execLaneStatusFrame (a0 : MeterStamp) (s : State) : KeepO 8022214 s (execLaneStatusFrame a0 s) := by
  unfold execLaneStatusFrame
  try dsimp only
  with_reducible repeat' first
    | (intro) | apply Keep.refl | assumption | apply KeepO.next | apply (keep_laneStatus _).after
    | apply keep_actMeter | apply Keep.foldl2 | apply Keep.foldl | split | dsimp only
    | (apply Keep.lit; on_goal 2 => (constructor <;> first | exact .inr rfl | exact .inl rfl | exact .of rfl rfl rfl rfl rfl rfl rfl))
  all_goals rfl

theorem keep_execLeaseEpochTick (s : State) : KeepO 5209294 s (execLeaseEpochTick s) := by
  unfold execLeaseEpochTick
  try dsimp only
  with_reducible repeat' first
    | (intro) | apply Keep.refl | assumption | apply KeepO.next | apply (keep_epochTick _).after
    | apply (keep_retryAsks _).after | apply (keep_continueAll _).after | apply keep_act | apply Keep.foldl2 | apply Keep.foldl
    | split | dsimp only
    | (apply Keep.lit; on_goal 2 => (constructor <;> first | exact .inr rfl | exact .inl rfl | exact .of rfl rfl rfl rfl rfl rfl rfl))
  all_goals rfl

theorem keep_execLeaseExpiry (a0 : Fin 4096) (s : State) : KeepO 5210062 s (execLeaseExpiry a0 s) := by
  unfold execLeaseExpiry
  with_reducible repeat' first
    | (intro) | apply Keep.refl | assumption | apply KeepO.next
    | apply (keep_expireHolder _ _).after | apply (keep_retryAsks _).after | apply (keep_continueAll _).after | apply keep_act
    | apply (keep_satF _ _).after | apply (keep_endLease _ _).after | split | dsimp only
  all_goals rfl

theorem keep_execLinkDisable (s : State) : KeepO 7340030 s (execLinkDisable s) := by
  unfold execLinkDisable
  with_reducible repeat' first
    | apply Keep.refl | assumption | apply KeepO.next | apply (keep_endpointReset _ _).mono
  all_goals rfl

theorem keep_execLoad (a0 : RegionNo) (a1 : Option Nat) (s : State) : KeepO 4943854 s (execLoad a0 a1 s) := by
  unfold execLoad
  with_reducible repeat' first
    | (intro) | apply Keep.refl | assumption | apply KeepO.next
    | apply (keep_putHandle _ _ _).after | apply (keep_doLoad _ _).after | apply keep_actAwake | dsimp only
  all_goals rfl

theorem keep_execLockSet (a0 : LockBlock) (s : State) : KeepO 6973638 s (execLockSet a0 s) := by
  unfold execLockSet
  with_reducible repeat' first
    | (intro) | apply Keep.refl | assumption | apply KeepO.next | apply (keep_setLock _ _).after
    | apply keep_act | dsimp only
  all_goals rfl

theorem keep_execLogAck (a0 : RstHeader) (a1 : Nat) (s : State) : KeepO 7044334 s (execLogAck a0 a1 s) := by
  unfold execLogAck
  with_reducible repeat' first
    | apply Keep.refl | assumption | apply KeepO.next | apply (keep_rstRow _ _ _ _).mono
  all_goals rfl

theorem keep_execLogAppend (a0 : RstHeader) (a1 : Nat) (a2 : Entry) (a3 : List LogEntry) (s : State) :
    KeepO 7044334 s (execLogAppend a0 a1 a2 a3 s) := by
  unfold execLogAppend
  with_reducible repeat' first
    | apply Keep.refl | assumption | apply KeepO.next | apply (keep_rstRow _ _ _ _).mono
  all_goals rfl

theorem keep_execMalformedTlp (a0 : FatalKind) (s : State) : KeepO 4876486 s (execMalformedTlp a0 s) := by
  unfold execMalformedTlp
  with_reducible repeat' first
    | (intro) | apply Keep.refl | assumption | apply KeepO.next
    | apply (keep_reportAer _ _).after | apply keep_act | dsimp only
    | (apply Keep.lit; on_goal 2 => (constructor <;> first | exact .inr rfl | exact .inl rfl | exact .of rfl rfl rfl rfl rfl rfl rfl))
  all_goals rfl

theorem keep_execMark (a0 : MeterStamp) (a1 : List Byte) (s : State) : KeepO 5925062 s (execMark a0 a1 s) := by
  unfold execMark
  with_reducible repeat' first
    | (intro) | apply Keep.refl | assumption | apply KeepO.next | apply (keep_logNow _ _ _).after
    | apply keep_actMeter | dsimp only
  all_goals rfl

theorem keep_execMemReqAdd (a0 : FrameHeader) (a1 : Nat) (s : State) : KeepO 7071982 s (execMemReqAdd a0 a1 s) := by
  unfold execMemReqAdd
  with_reducible repeat' first
    | (intro) | apply Keep.refl | assumption | apply KeepO.next
    | apply (keep_memReq _ _ _ _ _).after | apply keep_actLink | dsimp only
  all_goals rfl

theorem keep_execMemReqCas (a0 : FrameHeader) (a1 a2 : Nat) (s : State) : KeepO 7071982 s (execMemReqCas a0 a1 a2 s) := by
  unfold execMemReqCas
  with_reducible repeat' first
    | (intro) | apply Keep.refl | assumption | apply KeepO.next
    | apply (keep_memReq _ _ _ _ _).after | apply keep_actLink | dsimp only
  all_goals rfl

theorem keep_execMemReqLoad (a0 : FrameHeader) (s : State) : KeepO 7071982 s (execMemReqLoad a0 s) := by
  unfold execMemReqLoad
  with_reducible repeat' first
    | (intro) | apply Keep.refl | assumption | apply KeepO.next
    | apply (keep_memReq _ _ _ _ _).after | apply keep_actLink | dsimp only
  all_goals rfl

theorem keep_execMemReqMaxS (a0 : FrameHeader) (a1 : Nat) (s : State) : KeepO 7071982 s (execMemReqMaxS a0 a1 s) := by
  unfold execMemReqMaxS
  with_reducible repeat' first
    | (intro) | apply Keep.refl | assumption | apply KeepO.next
    | apply (keep_memReq _ _ _ _ _).after | apply keep_actLink | dsimp only
  all_goals rfl

theorem keep_execMemReqMaxU (a0 : FrameHeader) (a1 : Nat) (s : State) : KeepO 7071982 s (execMemReqMaxU a0 a1 s) := by
  unfold execMemReqMaxU
  with_reducible repeat' first
    | (intro) | apply Keep.refl | assumption | apply KeepO.next
    | apply (keep_memReq _ _ _ _ _).after | apply keep_actLink | dsimp only
  all_goals rfl

theorem keep_execMemReqMinS (a0 : FrameHeader) (a1 : Nat) (s : State) : KeepO 7071982 s (execMemReqMinS a0 a1 s) := by
  unfold execMemReqMinS
  with_reducible repeat' first
    | (intro) | apply Keep.refl | assumption | apply KeepO.next
    | apply (keep_memReq _ _ _ _ _).after | apply keep_actLink | dsimp only
  all_goals rfl

theorem keep_execMemReqMinU (a0 : FrameHeader) (a1 : Nat) (s : State) : KeepO 7071982 s (execMemReqMinU a0 a1 s) := by
  unfold execMemReqMinU
  with_reducible repeat' first
    | (intro) | apply Keep.refl | assumption | apply KeepO.next
    | apply (keep_memReq _ _ _ _ _).after | apply keep_actLink | dsimp only
  all_goals rfl

theorem keep_execMemReqStore (a0 : FrameHeader) (a1 : List Byte) (s : State) : KeepO 7071982 s (execMemReqStore a0 a1 s) := by
  unfold execMemReqStore
  with_reducible repeat' first
    | (intro) | apply Keep.refl | assumption | apply KeepO.next
    | apply (keep_memReq _ _ _ _ _).after | apply keep_actLink | dsimp only
  all_goals rfl

theorem keep_execMemReqSwap (a0 : FrameHeader) (a1 : Nat) (s : State) : KeepO 7071982 s (execMemReqSwap a0 a1 s) := by
  unfold execMemReqSwap
  with_reducible repeat' first
    | (intro) | apply Keep.refl | assumption | apply KeepO.next
    | apply (keep_memReq _ _ _ _ _).after | apply keep_actLink | dsimp only
  all_goals rfl

theorem keep_execMemRsp (a0 : FrameHeader) (a1 : RemoteStatus) (a2 : List Byte) (s : State) :
    KeepO 4909510 s (execMemRsp a0 a1 a2 s) := by
  unfold execMemRsp
  try dsimp only
  with_reducible repeat' first
    | (intro) | apply Keep.refl | assumption | apply KeepO.next
    | apply (keep_retryOp _ _ _ _ _).after | apply (keep_replyOp _ _).after | apply (keep_completeOp _ _ _ _ _).after
    | apply keep_act | split | dsimp only
  all_goals rfl

theorem keep_execMeterFault (m : MeterStamp) (cause : MeterFaultCause) (s : State) :
    KeepO 5925062 s (execMeterFault m cause s) := by
  refine keep_actMeter s m _ rfl ?_
  intro u
  have l : ∀ v b, Keep 5925062 v (logNow v 12 b) := fun v b => (keep_logNow v 12 b).mono rfl
  have f : ∀ v : State, Keep 5925062 v { v with mtr := { v.mtr with fault := true } } := by
    intro v
    have h : Lasts v { v with mtr := { v.mtr with fault := true } } :=
      ⟨id, fun _ _ h => h, id, Nat.le_refl _, id, fun _ => rfl⟩
    constructor <;> first | exact .inr rfl | exact .inl rfl | exact h
  refine Keep.trans ?_ (f _)
  cases cause with
  | oscillator => exact l _ _
  | converter => exact l _ _
  | nor =>
    have d : Keep 5925062 u (drawFree u).2 := (keep_drawFree u).mono rfl
    dsimp only
    split
    · exact d.trans (l _ _)
    · exact d

theorem keep_execMirror (a0 : RoalePort) (a1 : List MirrorRecord) (s : State) : KeepO 7043278 s (execMirror a0 a1 s) := by
  unfold execMirror
  try dsimp only
  with_reducible repeat' first
    | (intro) | apply Keep.refl | assumption | apply KeepO.next
    | apply (keep_applyChanges _ _).after | apply keep_act | dsimp only
    | (apply Keep.lit; on_goal 2 => (constructor <;> first | exact .inr rfl | exact .inl rfl | exact .of rfl rfl rfl rfl rfl rfl rfl))
  all_goals rfl

theorem keep_execMirrorAcknowledgement (a0 : Nat) (s : State) : KeepO 6973638 s (execMirrorAcknowledgement a0 s) := by
  unfold execMirrorAcknowledgement
  with_reducible repeat' first
    | (intro) | apply Keep.refl | assumption | apply KeepO.next
    | apply (keep_learnApplied _ _).after | apply keep_act | dsimp only
  all_goals rfl

theorem keep_execMove (a0 : ObjCommand) (s : State) : KeepO 4876486 s (execMove a0 s) := by
  unfold execMove
  with_reducible repeat' first
    | (intro) | apply Keep.refl | assumption | apply KeepO.next
    | apply (keep_takeObj _ _ _).after | apply keep_act | dsimp only
  all_goals rfl

theorem keep_execMtrSelect (a0 : Nat) (s : State) : KeepO 6973638 s (execMtrSelect a0 s) := by
  unfold execMtrSelect
  with_reducible repeat' first
    | (intro) | apply Keep.refl | assumption | apply KeepO.next
    | apply (keep_selectRecord _ _).after | apply keep_act | dsimp only
  all_goals rfl

theorem keep_execMtrVaux3Loss (a0 : MeterStamp) (s : State) : KeepO 5925062 s (execMtrVaux3Loss a0 s) := by
  unfold execMtrVaux3Loss
  with_reducible repeat' first
    | (intro) | apply Keep.refl | assumption | apply KeepO.next | apply keep_actMeter
    | dsimp only
    | (apply Keep.lit; on_goal 2 => (constructor <;> first | exact .inr rfl | exact .inl rfl | exact .of rfl rfl rfl rfl rfl rfl rfl))
  all_goals rfl

theorem keep_execMtrVaux3Return (s : State) : KeepO 8022214 s (execMtrVaux3Return s) := by
  unfold execMtrVaux3Return
  try dsimp only
  with_reducible repeat' first
    | (intro) | apply Keep.refl | assumption | apply KeepO.next | apply (keep_startMeter _).after
    | apply keep_act | apply Keep.foldl2 | apply Keep.foldl | split | dsimp only
    | (apply Keep.lit; on_goal 2 => (constructor <;> first | exact .inr rfl | exact .inl rfl | exact .of rfl rfl rfl rfl rfl rfl rfl))
  all_goals rfl

theorem keep_execObjData (a0 : RstHeader) (a1 a2 : Nat) (a3 : PagePayload) (s : State) :
    KeepO 7044334 s (execObjData a0 a1 a2 a3 s) := by
  unfold execObjData
  with_reducible repeat' first
    | apply Keep.refl | assumption | apply KeepO.next | apply (keep_rstRow _ _ _ _).mono
  all_goals rfl

theorem keep_execObjRead (a0 : RstHeader) (a1 a2 : Nat) (s : State) : KeepO 7044334 s (execObjRead a0 a1 a2 s) := by
  unfold execObjRead
  with_reducible repeat' first
    | apply Keep.refl | assumption | apply KeepO.next | apply (keep_rstRow _ _ _ _).mono
  all_goals rfl

theorem keep_execObjectReclaim (a0 : Nat) (a1 : NandReport) (s : State) : KeepO 5138630 s (execObjectReclaim a0 s a1) := by
  unfold execObjectReclaim
  with_reducible repeat' first
    | (intro) | apply Keep.refl | assumption | apply KeepO.next
    | apply (keep_releaseLeased _ _).after | apply (keep_reclaimObject _ _ _).after | apply keep_act | dsimp only
  all_goals rfl

theorem keep_execOffer (a0 : RstHeader) (a1 : Nat) (a2 : Entry) (a3 a4 : Nat) (a5 : List LogEntry) (s : State) :
    KeepO 7044334 s (execOffer a0 a1 a2 a3 a4 a5 s) := by
  unfold execOffer
  with_reducible repeat' first
    | apply Keep.refl | assumption | apply KeepO.next | apply (keep_rstRow _ _ _ _).mono
  all_goals rfl

theorem keep_execOfferAck (a0 : RstHeader) (s : State) : KeepO 7044334 s (execOfferAck a0 s) := by
  unfold execOfferAck
  with_reducible repeat' first
    | apply Keep.refl | assumption | apply KeepO.next | apply (keep_rstRow _ _ _ _).mono
  all_goals rfl

theorem keep_execOfferResend (a0 : Nat) (s : State) : KeepO 4876486 s (execOfferResend a0 s) := by
  unfold execOfferResend
  with_reducible repeat' first
    | (intro) | apply Keep.refl | assumption | apply KeepO.next
    | apply (keep_resendOffer _ _).after | apply keep_act | dsimp only
  all_goals rfl

theorem keep_execOrphanAudit (a0 : Nat) (s : State) : KeepO 4876486 s (execOrphanAudit a0 s) := by
  unfold execOrphanAudit
  with_reducible repeat' first
    | (intro) | apply Keep.refl | assumption | apply KeepO.next
    | apply (keep_auditEntry _ _).after | apply keep_act | dsimp only
  all_goals rfl

theorem keep_execOwnerIs (a0 : RstHeader) (a1 : PartAddr) (s : State) : KeepO 7044334 s (execOwnerIs a0 a1 s) := by
  unfold execOwnerIs
  with_reducible repeat' first
    | apply Keep.refl | assumption | apply KeepO.next | apply (keep_rstRow _ _ _ _).mono
  all_goals rfl

theorem keep_execPacingChange (a0 : Bool) (s : State) : KeepO 4876518 s (execPacingChange a0 s) := by
  unfold execPacingChange
  with_reducible repeat' first
    | (intro) | apply Keep.refl | assumption | apply KeepO.next
    | apply (keep_pacingEdge _ _).after | apply keep_act | dsimp only
    | (apply Keep.lit; on_goal 2 => (constructor <;> first | exact .inr rfl | exact .inl rfl | exact .of rfl rfl rfl rfl rfl rfl rfl))
  all_goals rfl

theorem keep_execPackageLoadComplete (a0 : ReadEnd) (s : State) : KeepO 4876742 s (execPackageLoadComplete a0 s) := by
  unfold execPackageLoadComplete
  with_reducible repeat' first
    | (intro) | apply Keep.refl | assumption | apply KeepO.next
    | apply (keep_endPackage _ _ _ _).after | apply keep_act | split | dsimp only
  all_goals rfl

theorem keep_execPageData (a0 : RstHeader) (a1 a2 a3 : Nat) (a4 : PagePayload) (s : State) :
    KeepO 7044334 s (execPageData a0 a1 a2 a3 a4 s) := by
  unfold execPageData
  with_reducible repeat' first
    | apply Keep.refl | assumption | apply KeepO.next | apply (keep_rstRow _ _ _ _).mono
  all_goals rfl

theorem keep_execPageReclaim (a0 : Nat) (s : State) : KeepO 4947150 s (execPageReclaim a0 s) := by
  unfold execPageReclaim
  with_reducible repeat' first
    | (intro) | apply Keep.refl | assumption | apply KeepO.next
    | apply (keep_reclaimPage _ _).after | apply (keep_reclaimUnits _).after | apply (keep_continueAll _).after | apply keep_act
    | dsimp only
  all_goals rfl

theorem keep_execPark (a0 : Tenant) (a1 : HostCommand) (s : State) : KeepO 4943054 s (execPark a0 a1 s) := by
  unfold execPark
  with_reducible repeat' first
    | (intro) | apply Keep.refl | assumption | apply KeepO.next
    | apply (keep_serveCommand _ _ _ _ _).after | apply keep_actPages | dsimp only
  all_goals rfl

theorem keep_execPassComplete (a0 : StackNo) (a1 a2 : Fin 4) (a3 : Option Nat) (s : State) :
    KeepO 4878022 s (execPassComplete a0 a1 a2 a3 s) := by
  unfold execPassComplete
  try dsimp only
  with_reducible repeat' first
    | (intro) | apply Keep.refl | assumption | apply KeepO.next
    | apply (keep_endPass _ _ _ _ _).after | apply keep_act | split | dsimp only
  all_goals rfl

theorem keep_execPerst (s : State) : KeepO 7340030 s (execPerst s) := by
  unfold execPerst
  with_reducible repeat' first
    | apply Keep.refl | assumption | apply KeepO.next | apply (keep_endpointReset _ _).mono
  all_goals rfl

theorem keep_execPfxAnswer (a0 : RstHeader) (a1 : Nat) (a2 : List Nat) (s : State) :
    KeepO 7044334 s (execPfxAnswer a0 a1 a2 s) := by
  unfold execPfxAnswer
  with_reducible repeat' first
    | apply Keep.refl | assumption | apply KeepO.next | apply (keep_rstRow _ _ _ _).mono | split
  all_goals rfl

theorem keep_execPfxQuery (a0 : RstHeader) (a1 a2 a3 a4 : Nat) (a5 : List Nat) (s : State) :
    KeepO 7044334 s (execPfxQuery a0 a1 a2 a3 a4 a5 s) := by
  unfold execPfxQuery
  with_reducible repeat' first
    | apply Keep.refl | assumption | apply KeepO.next | apply (keep_rstRow _ _ _ _).mono
  all_goals rfl

theorem keep_execPin (a0 : ObjCommand) (s : State) : KeepO 4876486 s (execPin a0 s) := by
  unfold execPin
  with_reducible repeat' first
    | (intro) | apply Keep.refl | assumption | apply KeepO.next
    | apply (keep_takeObj _ _ _).after | apply keep_act | dsimp only
  all_goals rfl

theorem keep_execPointer (a0 : MeterStamp) (a1 : Nat) (s : State) : KeepO 5925062 s (execPointer a0 a1 s) := by
  unfold execPointer
  with_reducible repeat' first
    | (intro) | apply Keep.refl | assumption | apply KeepO.next | apply keep_actMeter
    | dsimp only
    | (apply Keep.lit; on_goal 2 => (constructor <;> first | exact .inr rfl | exact .inl rfl | exact .of rfl rfl rfl rfl rfl rfl rfl))
  all_goals rfl

theorem keep_execPoisonedWrite (a0 : Bar) (s : State) : KeepO 4876486 s (execPoisonedWrite a0 s) := by
  unfold execPoisonedWrite
  with_reducible repeat' first
    | (intro) | apply Keep.refl | assumption | apply KeepO.next
    | apply (keep_reportAer _ _).after | apply keep_act | apply (keep_satF _ _).after | dsimp only
  all_goals rfl

theorem keep_execPortCfgWrite (a0 : RoalePort) (a1 : BitVec 64) (s : State) : KeepO 7006662 s (execPortCfgWrite a0 a1 s) := by
  unfold execPortCfgWrite
  with_reducible repeat' first
    | (intro) | apply Keep.refl | assumption | apply KeepO.next
    | apply (keep_writePortCfg _ _ _ _).after | apply keep_act | dsimp only
  all_goals rfl

theorem keep_execPortDown (a0 : RoalePort) (s : State) : KeepO 4909510 s (execPortDown a0 s) := by
  unfold execPortDown
  with_reducible repeat' first
    | (intro) | apply Keep.refl | assumption | apply KeepO.next
    | apply (keep_leaveUp _ _ _).after | apply keep_act | dsimp only
  all_goals rfl

theorem keep_execPortUp (a0 : RoalePort) (s : State) : KeepO 4909254 s (execPortUp a0 s) := by
  unfold execPortUp
  try dsimp only
  with_reducible repeat' first
    | (intro) | apply Keep.refl | assumption | apply KeepO.next
    | apply (keep_setPort _ _ _).after | apply keep_act | apply (keep_enqueue _ _ _).after | dsimp only
    | (apply Keep.lit; on_goal 2 => (constructor <;> first | exact .inr rfl | exact .inl rfl | exact .of rfl rfl rfl rfl rfl rfl rfl))
  all_goals rfl

theorem keep_execPowerEnFall (s : State) : KeepO 7340030 s (execPowerEnFall s) := by
  unfold execPowerEnFall
  with_reducible repeat' first
    | (intro) | apply Keep.refl | assumption | apply KeepO.next | apply (keep_depart _ _).after
    | apply keep_act | dsimp only
  all_goals rfl

theorem keep_execPowerEnRise (s : State) : KeepO 4876502 s (execPowerEnRise s) := by
  unfold execPowerEnRise
  try dsimp only
  with_reducible repeat' first
    | (intro) | apply Keep.refl | assumption | apply KeepO.next | apply (keep_startRails _).after
    | apply keep_act | apply Keep.foldl2 | apply Keep.foldl | split | dsimp only
    | (apply Keep.lit; on_goal 2 => (constructor <;> first | exact .inr rfl | exact .inl rfl | exact .of rfl rfl rfl rfl rfl rfl rfl))
  all_goals rfl

theorem keep_execPowerOff (a0 : ChainHead) (s : State) : KeepO 7340030 s (execPowerOff a0 s) := by
  unfold execPowerOff
  with_reducible repeat' first
    | (intro) | apply Keep.refl | assumption | apply KeepO.next
    | apply (keep_whenReady _ _ _ _ ?_ ?_).next | apply (keep_depart _ _).after | apply keep_chainRow
    | apply (keep_answerChain _ _ _ _ _).after | dsimp only
  all_goals rfl

theorem keep_execPowerOn (a0 : ChainHead) (s : State) : KeepO 4876502 s (execPowerOn a0 s) := by
  unfold execPowerOn
  with_reducible repeat' first
    | (intro) | apply Keep.refl | assumption | apply KeepO.next | apply (keep_startRails _).after
    | apply keep_chainRow | apply (keep_answerChain _ _ _ _ _).after | dsimp only
  all_goals rfl

theorem keep_execPowerUpStart (a0 : StartFacts) (s : State) : KeepO 6973910 s (execPowerUpStart a0 s) := by
  unfold execPowerUpStart
  with_reducible repeat' first
    | (intro) | apply Keep.refl | assumption | apply KeepO.next
    | apply (keep_startPart _ _).after | apply keep_act | dsimp only
  all_goals rfl

theorem keep_execPreempt (a0 : Nat) (s : State) : KeepO 4943054 s (execPreempt a0 s) := by
  unfold execPreempt
  try dsimp only
  with_reducible repeat' first
    | (intro) | apply Keep.refl | assumption | apply KeepO.next
    | apply (keep_preemptVictim _ _ _ _).after | apply keep_act | split | dsimp only
  all_goals rfl

theorem keep_execPreemptionPoint (a0 : RegionNo) (a1 : Nat) (s : State) : KeepO 4877766 s (execPreemptionPoint a0 a1 s) := by
  unfold execPreemptionPoint
  with_reducible repeat' first
    | (intro) | apply Keep.refl | assumption | apply KeepO.next
    | apply (keep_preemptUnit _ _ _ _).after | apply keep_act | split | dsimp only
  all_goals rfl

theorem keep_execPrefixInsert (a0 a1 : Nat) (s : State) : KeepO 4880582 s (execPrefixInsert a0 a1 s) := by
  unfold execPrefixInsert
  with_reducible repeat' first
    | (intro) | apply Keep.refl | assumption | apply KeepO.next
    | apply (keep_insertNext _ _ _).after | apply keep_act | dsimp only
  all_goals rfl

theorem keep_execPressureEviction (a0 : StackNo) (s : State) : KeepO 4880582 s (execPressureEviction a0 s) := by
  unfold execPressureEviction
  with_reducible repeat' first
    | (intro) | apply Keep.refl | assumption | apply KeepO.next
    | apply (keep_evictFor _ _ _ _).after | apply keep_act | apply Keep.foldl | dsimp only
  all_goals rfl

theorem keep_execPubAck (a0 : RstHeader) (a1 : Nat) (s : State) : KeepO 7044334 s (execPubAck a0 a1 s) := by
  unfold execPubAck
  with_reducible repeat' first
    | apply Keep.refl | assumption | apply KeepO.next | apply (keep_rstRow _ _ _ _).mono
  all_goals rfl

theorem keep_execPubNeed (a0 : RstHeader) (a1 : Nat) (s : State) : KeepO 7044334 s (execPubNeed a0 a1 s) := by
  unfold execPubNeed
  with_reducible repeat' first
    | apply Keep.refl | assumption | apply KeepO.next | apply (keep_rstRow _ _ _ _).mono
  all_goals rfl

theorem keep_execPubRef (a0 : RstHeader) (a1 a2 a3 : Nat) (a4 : List Nat) (s : State) :
    KeepO 7044334 s (execPubRef a0 a1 a2 a3 a4 s) := by
  unfold execPubRef
  with_reducible repeat' first
    | apply Keep.refl | assumption | apply KeepO.next | apply (keep_rstRow _ _ _ _).mono
  all_goals rfl

theorem keep_execPublish (a0 : ObjCommand) (s : State) : KeepO 4876486 s (execPublish a0 s) := by
  unfold execPublish
  with_reducible repeat' first
    | (intro) | apply Keep.refl | assumption | apply KeepO.next
    | apply (keep_takeObj _ _ _).after | apply keep_act | dsimp only
  all_goals rfl

theorem keep_execPublishBlock (a0 : RstHeader) (a1 : Nat) (a2 : PagePayload) (s : State) :
    KeepO 7044334 s (execPublishBlock a0 a1 a2 s) := by
  unfold execPublishBlock
  with_reducible repeat' first
    | apply Keep.refl | assumption | apply KeepO.next | apply (keep_rstRow _ _ _ _).mono
  all_goals rfl

theorem keep_execPull (a0 : RstHeader) (a1 a2 a3 : Nat) (s : State) : KeepO 7044334 s (execPull a0 a1 a2 a3 s) := by
  unfold execPull
  with_reducible repeat' first
    | apply Keep.refl | assumption | apply KeepO.next | apply (keep_rstRow _ _ _ _).mono
  all_goals rfl

theorem keep_execQuery (a0 : Tenant) (a1 : HostCommand) (s : State) : KeepO 4943054 s (execQuery a0 a1 s) := by
  unfold execQuery
  with_reducible repeat' first
    | (intro) | apply Keep.refl | assumption | apply KeepO.next
    | apply (keep_serveCommand _ _ _ _ _).after | apply keep_actPages | dsimp only
  all_goals rfl

theorem keep_execReadExclusive (a0 : AgentNo) (a1 : Nat) (a2 : Option (Nat × List Byte)) (s : State) :
    KeepO 4942030 s (execReadExclusive a0 a1 a2 s) := by
  unfold execReadExclusive
  with_reducible repeat' first
    | (intro) | apply Keep.refl | assumption | apply KeepO.next
    | apply (keep_agentRequest _ _ _ _ _ _).after | apply keep_act | dsimp only
  all_goals rfl

theorem keep_execReadShared (a0 : AgentNo) (a1 : Nat) (s : State) : KeepO 4942030 s (execReadShared a0 a1 s) := by
  unfold execReadShared
  with_reducible repeat' first
    | (intro) | apply Keep.refl | assumption | apply KeepO.next
    | apply (keep_agentRequest _ _ _ _ _ _).after | apply keep_act | dsimp only
  all_goals rfl

theorem keep_execRebuildComplete (s : State) : KeepO 5138630 s (execRebuildComplete s) := by
  unfold execRebuildComplete
  with_reducible repeat' first
    | (intro) | apply Keep.refl | assumption | apply KeepO.next | apply (keep_rebuildEnd _).after
    | apply (keep_retryObj _).after | apply keep_act | dsimp only
  all_goals rfl

theorem keep_execRecompute (a0 : Nat) (s : State) : KeepO 4943054 s (execRecompute a0 s) := by
  unfold execRecompute
  with_reducible repeat' first
    | (intro) | apply Keep.refl | assumption | apply KeepO.next
    | apply (keep_scheduleDropped _ _).after | apply keep_act | dsimp only
  all_goals rfl

theorem keep_execRecord (a0 : MeterStamp) (s : State) : KeepO 5925062 s (execRecord a0 s) := by
  unfold execRecord
  with_reducible repeat' first
    | (intro) | apply Keep.refl | assumption | apply KeepO.next | apply keep_actMeter
    | apply (keep_emit _ _).after | dsimp only
    | (apply Keep.lit; on_goal 2 => (constructor <;> first | exact .inr rfl | exact .inl rfl | exact .of rfl rfl rfl rfl rfl rfl rfl))
  all_goals rfl

theorem keep_execRecordCopy (a0 : MeterRecord) (s : State) : KeepO 6973638 s (execRecordCopy a0 s) := by
  unfold execRecordCopy
  with_reducible repeat' first
    | (intro) | apply Keep.refl | assumption | apply KeepO.next | apply (keep_takeCopy _ _).after
    | apply keep_act | dsimp only
  all_goals rfl

theorem keep_execRecordLaneSilent (s : State) : KeepO 4876486 s (execRecordLaneSilent s) := by
  unfold execRecordLaneSilent
  with_reducible repeat' first
    | (intro) | apply Keep.refl | assumption | apply KeepO.next | apply keep_act
    | apply (keep_putF _ _ _).after | dsimp only
  all_goals rfl

theorem keep_execRecover (a0 : RstHeader) (a1 : Ledger) (s : State) : KeepO 7044334 s (execRecover a0 a1 s) := by
  unfold execRecover
  with_reducible repeat' first
    | apply Keep.refl | assumption | apply KeepO.next | apply (keep_rstRow _ _ _ _).mono
  all_goals rfl

theorem keep_execRecoverFailedPart (s : State) : KeepO 4876518 s (execRecoverFailedPart s) := by
  unfold execRecoverFailedPart
  try dsimp only
  with_reducible repeat' first
    | (intro) | apply Keep.refl | assumption | apply KeepO.next
    | apply (keep_recoverLedger _ _).after | apply (keep_recoverDone _ _ _).after | apply keep_actAwake | apply Keep.foldl
    | split | dsimp only
  all_goals rfl

theorem keep_execRecoverRequest (s : State) : KeepO 4876518 s (execRecoverRequest s) := by
  unfold execRecoverRequest
  with_reducible repeat' first
    | (intro) | apply Keep.refl | assumption | apply KeepO.next
    | apply (keep_recoverLedger _ _).after | apply (keep_recoverDone _ _ _).after | apply keep_actAwake | split | dsimp only
  all_goals rfl

theorem keep_execRefclkLoss (s : State) : KeepO 4876502 s (execRefclkLoss s) := by
  unfold execRefclkLoss
  with_reducible repeat' first
    | (intro) | apply Keep.refl | assumption | apply KeepO.next | apply keep_act
    | apply (keep_notify _ _ _).after | apply (keep_putF _ _ _).after | split | dsimp only
    | (apply Keep.lit; on_goal 2 => (constructor <;> first | exact .inr rfl | exact .inl rfl | exact .of rfl rfl rfl rfl rfl rfl rfl))
  all_goals rfl

theorem keep_execRefclkReturn (s : State) : KeepO 4876502 s (execRefclkReturn s) := by
  unfold execRefclkReturn
  with_reducible repeat' first
    | (intro) | apply Keep.refl | assumption | apply KeepO.next | apply keep_act | dsimp only
    | (apply Keep.lit; on_goal 2 => (constructor <;> first | exact .inr rfl | exact .inl rfl | exact .of rfl rfl rfl rfl rfl rfl rfl))
  all_goals rfl

theorem keep_execRegionAccess (a0 : RegionNo) (a1 : Nat) (a2 : List Byte) (a3 : Option RegionNo) (a4 : Bool) (s : State) :
    KeepO 4878278 s (execRegionAccess a0 a1 a2 s a3 a4) := by
  unfold execRegionAccess
  try dsimp only
  with_reducible repeat' first
    | (intro) | apply Keep.refl | assumption | apply KeepO.next
    | apply (keep_writeIvory _ _ _ _).after | apply keep_act | apply (keep_abandonUnit _ _).after | apply (keep_emit _ _).after
    | split | dsimp only
  all_goals rfl

theorem keep_execReload (a0 : RegionNo) (a1 : Option Nat) (s : State) : KeepO 4877798 s (execReload a0 a1 s) := by
  unfold execReload
  with_reducible repeat' first
    | (intro) | apply Keep.refl | assumption | apply KeepO.next
    | apply (keep_putHandle _ _ _).after | apply (keep_doReload _ _).after | apply keep_actAwake | dsimp only
  all_goals rfl

theorem keep_execReset (a0 : RegionNo) (a1 : Option Nat) (s : State) : KeepO 4943334 s (execReset a0 a1 s) := by
  unfold execReset
  with_reducible repeat' first
    | (intro) | apply Keep.refl | assumption | apply KeepO.next
    | apply (keep_putHandle _ _ _).after | apply (keep_doReset _ _).after | apply keep_actAwake | dsimp only
  all_goals rfl

theorem keep_execResetRepair (a0 : RegionNo) (a1 : Option Nat) (s : State) : KeepO 4943350 s (execResetRepair a0 a1 s) := by
  unfold execResetRepair
  with_reducible repeat' first
    | (intro) | apply Keep.refl | assumption | apply KeepO.next
    | apply (keep_putHandle _ _ _).after | apply (keep_doResetRepair _ _).after | apply keep_actAwake | dsimp only
  all_goals rfl

theorem keep_execStart (a0 : RegionNo) (a1 : Option Nat) (s : State) : KeepO 4877798 s (execStart a0 a1 s) := by
  unfold execStart
  with_reducible repeat' first
    | (intro) | apply Keep.refl | assumption | apply KeepO.next
    | apply (keep_putHandle _ _ _).after | apply (keep_doStart _ _).after | apply keep_actAwake | dsimp only
  all_goals rfl

theorem keep_execStage (a0 : Nat) (a1 : ReadEnd) (s : State) : KeepO 4876534 s (execStage a0 a1 s) := by
  unfold execStage
  try dsimp only
  with_reducible repeat' first
    | (intro) | apply Keep.refl | assumption | apply KeepO.next
    | apply (keep_doStage _ _ _).after | apply keep_actAwake | apply (keep_putF _ _ _).after | split | dsimp only
  all_goals rfl

theorem keep_execWarmReset (s : State) : KeepO 7340030 s (execWarmReset s) := by
  unfold execWarmReset
  with_reducible repeat' first
    | (intro) | apply Keep.refl | assumption | apply KeepO.next | apply (keep_depart _ _).after
    | apply keep_act | dsimp only
  all_goals rfl

theorem keep_execWhite (s : State) : KeepO 6973670 s (execWhite s) := by
  unfold execWhite
  with_reducible repeat' first
    | (intro) | apply Keep.refl | assumption | apply KeepO.next
    | apply (keep_awakeCommand _ _).after | apply keep_act | dsimp only
  all_goals rfl

theorem keep_execRemoveRegions (a0 : CompNo) (s : State) : KeepO 6974950 s (execRemoveRegions a0 s) := by
  unfold execRemoveRegions
  with_reducible repeat' first
    | (intro) | apply Keep.refl | assumption | apply KeepO.next
    | apply (keep_doRemoveRegions _ _).after | apply (keep_compCommand _ _ _ ?_ ?_).next | apply keep_actAwake | dsimp only
  all_goals rfl

theorem keep_execSet (a0 : Tenant) (a1 : CompNo) (a2 : Nat) (s : State) : KeepO 4877542 s (execSet a0 a1 a2 s) := by
  unfold execSet
  try dsimp only
  with_reducible repeat' first
    | (intro) | apply Keep.refl | assumption | apply KeepO.next
    | apply (keep_doSet _ _ _ _).after | apply (keep_schNotify _).after | apply keep_actAwake | apply (keep_putF _ _ _).after
    | split | dsimp only
  all_goals rfl

theorem keep_execSuspend (s : State) : KeepO 6977766 s (execSuspend s) := by
  unfold execSuspend
  with_reducible repeat' first
    | (intro) | apply Keep.refl | assumption | apply KeepO.next
    | apply (keep_mirrorLeaves _ _).after | apply (keep_activeAlone _ _).after | apply keep_actAwake | split | dsimp only
  all_goals rfl

theorem keep_execSwitch (s : State) : KeepO 4876518 s (execSwitch s) := by
  unfold execSwitch
  with_reducible repeat' first
    | (intro) | apply Keep.refl | assumption | apply KeepO.next
    | apply (keep_beginSwitch _).after | apply keep_actAwake | split | dsimp only
  all_goals rfl

theorem keep_execUnbind (a0 : CompNo) (s : State) : KeepO 4882406 s (execUnbind a0 s) := by
  unfold execUnbind
  with_reducible repeat' first
    | (intro) | apply Keep.refl | assumption | apply KeepO.next | apply (keep_doUnbind _ _).after
    | apply (keep_compCommand _ _ _ ?_ ?_).next | apply keep_actAwake | dsimp only
  all_goals rfl

theorem keep_execStkUcodeClear (a0 : BitVec 64) (s : State) : KeepO 4877030 s (execStkUcodeClear a0 s) := by
  unfold execStkUcodeClear
  with_reducible repeat' first
    | (intro) | apply Keep.refl | assumption | apply KeepO.next
    | apply (keep_setSlot _ _ _).after | apply keep_actAwake | apply Keep.foldl | split | dsimp only
    | (apply Keep.lit; on_goal 2 => (constructor <;> first | exact .inr rfl | exact .inl rfl | exact .of rfl rfl rfl rfl rfl rfl rfl))
  all_goals rfl

theorem keep_execTableClear (a0 : Fin 4) (s : State) : KeepO 4876518 s (execTableClear a0 s) := by
  unfold execTableClear
  try dsimp only
  with_reducible repeat' first
    | (intro) | apply Keep.refl | assumption | apply KeepO.next
    | apply (keep_setTable _ _ _).after | apply keep_actAwake | apply (keep_putF _ _ _).after | split | dsimp only
    | (apply Keep.lit; on_goal 2 => (constructor <;> first | exact .inr rfl | exact .inl rfl | exact .of rfl rfl rfl rfl rfl rfl rfl))
  all_goals rfl

theorem keep_execTableLoad (a0 : Fin 4) (a1 : Nat) (s : State) : KeepO 4876518 s (execTableLoad a0 a1 s) := by
  unfold execTableLoad
  with_reducible repeat' first
    | (intro) | apply Keep.refl | assumption | apply KeepO.next
    | apply (keep_loadTable _ _ _).after | apply keep_actAwake | dsimp only
  all_goals rfl

theorem keep_execXtsClear (a0 : Fin 1024) (s : State) : KeepO 4876518 s (execXtsClear a0 s) := by
  unfold execXtsClear
  with_reducible repeat' first
    | (intro) | apply Keep.refl | assumption | apply KeepO.next | apply (keep_clearXts _ _).after
    | apply keep_actAwake | dsimp only
  all_goals rfl

theorem keep_execXtsLoad (a0 : Fin 1024) (s : State) : KeepO 4876518 s (execXtsLoad a0 s) := by
  unfold execXtsLoad
  with_reducible repeat' first
    | (intro) | apply Keep.refl | assumption | apply KeepO.next | apply (keep_loadXts _ _).after
    | apply keep_actAwake | dsimp only
  all_goals rfl

theorem keep_execRelease (a0 : Tenant) (a1 : HostCommand) (s : State) : KeepO 4943054 s (execRelease a0 a1 s) := by
  unfold execRelease
  with_reducible repeat' first
    | (intro) | apply Keep.refl | assumption | apply KeepO.next
    | apply (keep_serveCommand _ _ _ _ _).after | apply keep_actPages | dsimp only
  all_goals rfl

theorem keep_execRemoteFence (a0 : RegionNo) (a1 : Fin 16) (s : State) : KeepO 4909510 s (execRemoteFence a0 a1 s) := by
  unfold execRemoteFence
  try dsimp only
  with_reducible repeat' first
    | (intro) | apply Keep.refl | assumption | apply KeepO.next
    | apply (keep_endFence _ _ _).after | apply (keep_park _ _ _ _).after | apply keep_act | dsimp only
    | (apply Keep.lit; on_goal 2 => (constructor <;> first | exact .inr rfl | exact .inl rfl | exact .of rfl rfl rfl rfl rfl rfl rfl))
  all_goals rfl

theorem keep_execRemoteOpIssue (a0 : RegionNo) (a1 : Fin 16) (a2 : RemoteKind) (a3 a4 a5 : Nat) (a6 : List Byte) (a7 : Option Nat) (s : State) :
    KeepO 4975054 s (execRemoteOpIssue a0 a1 a2 a3 a4 a5 a6 s a7) := by
  unfold execRemoteOpIssue
  with_reducible repeat' first
    | (intro) | apply Keep.refl | assumption | apply KeepO.next
    | apply (keep_issueOp _ _ _ _ _ _ _ _ _).after | apply keep_act | dsimp only
  all_goals rfl

theorem keep_execReplyTimeout (a0 : RegionNo) (a1 : Fin 64) (s : State) : KeepO 4909510 s (execReplyTimeout a0 a1 s) := by
  unfold execReplyTimeout
  try dsimp only
  with_reducible repeat' first
    | (intro) | apply Keep.refl | assumption | apply KeepO.next
    | apply (keep_completeOp _ _ _ _ _).after | apply keep_act | split | dsimp only
  all_goals rfl

theorem keep_execRestore (a0 : Nat) (s : State) : KeepO 4876486 s (execRestore a0 s) := by
  unfold execRestore
  try dsimp only
  with_reducible repeat' first
    | (intro) | apply Keep.refl | assumption | apply KeepO.next
    | apply (keep_beginRestore _ _ _).after | apply keep_act | split | dsimp only
  all_goals rfl

theorem keep_execRestoreComplete (a0 : Nat) (s : State) : KeepO 4943054 s (execRestoreComplete a0 s) := by
  unfold execRestoreComplete
  try dsimp only
  with_reducible repeat' first
    | (intro) | apply Keep.refl | assumption | apply KeepO.next
    | apply (keep_endRestoring _ _ _ _).after | apply keep_act | split | dsimp only
  all_goals rfl

theorem keep_execResume (a0 : Tenant) (a1 : HostCommand) (s : State) : KeepO 4943054 s (execResume a0 a1 s) := by
  unfold execResume
  with_reducible repeat' first
    | (intro) | apply Keep.refl | assumption | apply KeepO.next
    | apply (keep_serveCommand _ _ _ _ _).after | apply keep_actPages | dsimp only
  all_goals rfl

theorem keep_execRetryBarrierTimeout (a0 : Member) (a1 : RegionNo) (s : State) :
    KeepO 4909254 s (execRetryBarrierTimeout a0 a1 s) := by
  unfold execRetryBarrierTimeout
  with_reducible repeat' first
    | (intro) | apply Keep.refl | assumption | apply KeepO.next
    | apply (keep_setBarrier _ _ _ _).after | apply keep_act | dsimp only
  all_goals rfl

theorem keep_execRetryReissue (a0 : RegionNo) (a1 : Fin 64) (s : State) : KeepO 4909510 s (execRetryReissue a0 a1 s) := by
  unfold execRetryReissue
  try dsimp only
  with_reducible repeat' first
    | (intro) | apply Keep.refl | assumption | apply KeepO.next
    | apply (keep_reissue _ _ _).after | apply keep_act | apply Keep.foldl | split | dsimp only
  all_goals rfl

theorem keep_execRqtTCtlEnable (a0 : Tenant) (a1 : BitVec 64) (s : State) : KeepO 6973894 s (execRqtTCtlEnable a0 a1 s) := by
  unfold execRqtTCtlEnable
  with_reducible repeat' first
    | (intro) | apply Keep.refl | assumption | apply KeepO.next
    | apply (keep_writeTenantCtl _ _ _ _).after | apply keep_act | dsimp only
  all_goals rfl

theorem keep_execRstOpen (a0 : RstHeader) (a1 : Durability) (a2 : Entry) (a3 : PartAddr) (a4 a5 : Nat) (s : State) :
    KeepO 7044334 s (execRstOpen a0 a1 a2 a3 a4 a5 s) := by
  unfold execRstOpen
  with_reducible repeat' first
    | apply Keep.refl | assumption | apply KeepO.next | apply (keep_rstRow _ _ _ _).mono
  all_goals rfl

theorem keep_execRstOpened (a0 : RstHeader) (s : State) : KeepO 7044334 s (execRstOpened a0 s) := by
  unfold execRstOpened
  with_reducible repeat' first
    | apply Keep.refl | assumption | apply KeepO.next | apply (keep_rstRow _ _ _ _).mono
  all_goals rfl

theorem keep_execRstRelease (a0 : RstHeader) (s : State) : KeepO 7044334 s (execRstRelease a0 s) := by
  unfold execRstRelease
  with_reducible repeat' first
    | apply Keep.refl | assumption | apply KeepO.next | apply (keep_rstRow _ _ _ _).mono
  all_goals rfl

theorem keep_execRstResume (a0 : RstHeader) (s : State) : KeepO 7044334 s (execRstResume a0 s) := by
  unfold execRstResume
  with_reducible repeat' first
    | apply Keep.refl | assumption | apply KeepO.next | apply (keep_rstRow _ _ _ _).mono
  all_goals rfl

theorem keep_execRstRetransmit (a0 : PartAddr) (a1 : Nat) (s : State) : KeepO 4947150 s (execRstRetransmit a0 a1 s) := by
  unfold execRstRetransmit
  with_reducible repeat' first
    | (intro) | apply Keep.refl | assumption | apply KeepO.next
    | apply (keep_retransmit _ _ _).after | apply keep_act | dsimp only
  all_goals rfl

theorem keep_execRstTransportOnly (a0 : RstHeader) (s : State) : KeepO 6973670 s (execRstTransportOnly a0 s) := by
  unfold execRstTransportOnly
  with_reducible repeat' first
    | (intro) | apply Keep.refl | assumption | apply KeepO.next
    | apply (keep_transportOnly _ _).after | apply keep_actFrame | dsimp only
  all_goals rfl

theorem keep_execSeal (a0 : ObjCommand) (s : State) : KeepO 4876486 s (execSeal a0 s) := by
  unfold execSeal
  with_reducible repeat' first
    | (intro) | apply Keep.refl | assumption | apply KeepO.next
    | apply (keep_takeObj _ _ _).after | apply keep_act | dsimp only
  all_goals rfl

theorem keep_execSetMember (a0 : ChainHead) (a1 a2 a3 : Nat) (a4 : Bool) (s : State) :
    KeepO 7010758 s (execSetMember a0 a1 a2 a3 a4 s) := by
  unfold execSetMember
  with_reducible repeat' first
    | (intro) | apply Keep.refl | assumption | apply KeepO.next
    | apply (keep_setTray _ _ _ _ _).after | apply (keep_whenReady _ _ _ _ ?_ ?_).next | apply keep_chainRow
    | apply (keep_answerChain _ _ _ _ _).after | split | dsimp only
  all_goals rfl

theorem keep_execSetdasa (a0 : MeterStamp) (a1 a2 : BitVec 7) (s : State) : KeepO 5925062 s (execSetdasa a0 a1 a2 s) := by
  unfold execSetdasa
  with_reducible repeat' first
    | (intro) | apply Keep.refl | assumption | apply KeepO.next | apply keep_actMeter
    | apply (keep_emit _ _).after | split | dsimp only
    | (apply Keep.lit; on_goal 2 => (constructor <;> first | exact .inr rfl | exact .inl rfl | exact .of rfl rfl rfl rfl rfl rfl rfl))
  all_goals rfl

theorem keep_execSilent (a0 : MeterStamp) (s : State) : KeepO 5925062 s (execSilent a0 s) := by
  unfold execSilent
  try dsimp only
  with_reducible repeat' first
    | (intro) | apply Keep.refl | assumption | apply KeepO.next
    | apply (keep_closeComp _ _ _ _ _).after | apply (keep_feedFault _ _ _ _).after | apply keep_actMeter | apply Keep.foldl
    | split | dsimp only
    | (apply Keep.lit; on_goal 2 => (constructor <;> first | exact .inr rfl | exact .inl rfl | exact .of rfl rfl rfl rfl rfl rfl rfl))
  all_goals rfl

theorem keep_execSlateScrub (a0 : Nat) (a1 : List Nat) (s : State) : KeepO 5138630 s (execSlateScrub a0 a1 s) := by
  unfold execSlateScrub
  with_reducible repeat' first
    | (intro) | apply Keep.refl | assumption | apply KeepO.next
    | apply (keep_satAddF _ _ _).after | apply (keep_slateError _ _).after | apply keep_act | apply Keep.foldl | dsimp only
    | (apply Keep.lit; on_goal 2 => (constructor <;> first | exact .inr rfl | exact .inl rfl | exact .of rfl rfl rfl rfl rfl rfl rfl))
  all_goals rfl

theorem keep_execSqTail (a0 : Tenant) (a1 : Nat) (s : State) : KeepO 6973670 s (execSqTail a0 a1 s) := by
  unfold execSqTail
  with_reducible repeat' first
    | (intro) | apply Keep.refl | assumption | apply KeepO.next
    | apply (keep_writeSqTail _ _ _).after | apply keep_actDoorbell | dsimp only
  all_goals rfl

theorem keep_execStackCoreFault (a0 : StackNo) (a1 : Fin 4) (s : State) : KeepO 4878278 s (execStackCoreFault a0 a1 s) := by
  unfold execStackCoreFault
  with_reducible repeat' first
    | (intro) | apply Keep.refl | assumption | apply KeepO.next
    | apply (keep_loseCore _ _ _).after | apply keep_act | dsimp only
  all_goals rfl

theorem keep_execStackRefreshRate (a0 : StackNo) (a1 : ℤ) (s : State) : KeepO 4876518 s (execStackRefreshRate a0 a1 s) := by
  unfold execStackRefreshRate
  try dsimp only
  with_reducible repeat' first
    | (intro) | apply Keep.refl | assumption | apply KeepO.next
    | apply (keep_readDie _ _ _).after | apply keep_act | split | dsimp only
    | (apply Keep.lit; on_goal 2 => (constructor <;> first | exact .inr rfl | exact .inl rfl | exact .of rfl rfl rfl rfl rfl rfl rfl))
  all_goals rfl

theorem keep_execStageComplete (a0 : Bool) (s : State) : KeepO 4876502 s (execStageComplete a0 s) := by
  unfold execStageComplete
  with_reducible repeat' first
    | (intro) | apply Keep.refl | assumption | apply KeepO.next | apply (keep_endStage _ _).after
    | apply keep_act | dsimp only
  all_goals rfl

theorem keep_execStatus (a0 : ChainHead) (s : State) : KeepO 4876486 s (execStatus a0 s) := by
  unfold execStatus
  with_reducible repeat' first
    | (intro) | apply Keep.refl | assumption | apply KeepO.next | apply keep_chainRow
    | apply (keep_answerChain _ _ _ _ _).after | dsimp only
  all_goals rfl

theorem keep_execStepCommit (a0 : Nat) (a1 : List (List (BitVec 32))) (a2 : List CandNode) (s : State) :
    KeepO 4943822 s (execStepCommit a0 a1 s a2) := by
  unfold execStepCommit
  with_reducible repeat' first
    | (intro) | apply Keep.refl | assumption | apply KeepO.next
    | apply (keep_commitPart _ _ _ _ _ _ _).after | apply keep_actPages | split | dsimp only
  all_goals rfl

theorem keep_execStkObjCqHead (a0 : Nat) (s : State) : KeepO 4876486 s (execStkObjCqHead a0 s) := by
  unfold execStkObjCqHead
  with_reducible repeat' first
    | (intro) | apply Keep.refl | assumption | apply KeepO.next
    | apply (keep_writeObjHead _ _).after | apply keep_act | dsimp only
  all_goals rfl

theorem keep_execStkObjSqTail (a0 : Nat) (s : State) : KeepO 4876486 s (execStkObjSqTail a0 s) := by
  unfold execStkObjSqTail
  with_reducible repeat' first
    | (intro) | apply Keep.refl | assumption | apply KeepO.next
    | apply (keep_writeObjTail _ _).after | apply keep_act | dsimp only
  all_goals rfl

theorem keep_execTamper (m : MeterStamp) (segment : Nat) (s : State) : KeepO 5925062 s (execTamper m segment s) := by
  refine keep_actMeter s m _ rfl ?_
  intro u
  refine Keep.trans (t := { u with mtr := { u.mtr with broken := true } }) ?_ ((keep_logNow _ _ _).mono rfl)
  have h : Lasts u { u with mtr := { u.mtr with broken := true } } :=
    ⟨id, fun _ _ h => h, id, Nat.le_refl _, fun _ => rfl, id⟩
  constructor <;> first | exact .inr rfl | exact .inl rfl | exact h

theorem keep_execTensor (a0 : FrameHeader) (a1 a2 : Nat) (a3 : CodedBlock) (s : State) :
    KeepO 7071982 s (execTensor a0 a1 a2 a3 s) := by
  unfold execTensor
  try dsimp only
  with_reducible repeat' first
    | (intro) | apply Keep.refl | assumption | apply KeepO.next
    | apply (keep_writeBlock _ _ _ _).after | apply (keep_serveFrame _ _ _ _ _ _ ?_ ?_).next | apply keep_actLink | dsimp only
  all_goals rfl

theorem keep_execTensorAck (a0 : FrameHeader) (a1 : Nat) (a2 : RemoteStatus) (s : State) :
    KeepO 4909510 s (execTensorAck a0 a1 a2 s) := by
  unfold execTensorAck
  try dsimp only
  with_reducible repeat' first
    | (intro) | apply Keep.refl | assumption | apply KeepO.next
    | apply (keep_retryOp _ _ _ _ _).after | apply (keep_replyOp _ _).after | apply (keep_completeOp _ _ _ _ _).after
    | apply (keep_setOp _ _ _ _).after | apply keep_act | split | dsimp only
    | (apply Keep.lit; on_goal 2 => (constructor <;> first | exact .inr rfl | exact .inl rfl | exact .of rfl rfl rfl rfl rfl rfl rfl))
  all_goals rfl

theorem keep_execThermalTrip (a0 : Die) (a1 : ℤ) (s : State) : KeepO 7340030 s (execThermalTrip a0 a1 s) := by
  unfold execThermalTrip
  try dsimp only
  with_reducible repeat' first
    | (intro) | apply Keep.refl | assumption | apply KeepO.next | apply (keep_railsOff _ _).after
    | apply (keep_sendPower _ _).after | apply keep_act | apply (keep_emit _ _).after | dsimp only
    | (apply Keep.lit; on_goal 2 => (constructor <;> first | exact .inr rfl | exact .inl rfl | exact .of rfl rfl rfl rfl rfl rfl rfl))
  all_goals rfl

theorem keep_execThrottling (a0 : Die) (a1 : ℤ) (s : State) : KeepO 4876518 s (execThrottling a0 a1 s) := by
  unfold execThrottling
  with_reducible repeat' first
    | (intro) | apply Keep.refl | assumption | apply KeepO.next
    | apply (keep_throttleDie _ _ _).after | apply (keep_readDie _ _ _).after | apply keep_act | dsimp only
  all_goals rfl

theorem keep_execThrottlingEnd (a0 : Die) (a1 : ℤ) (s : State) : KeepO 4876518 s (execThrottlingEnd a0 a1 s) := by
  unfold execThrottlingEnd
  with_reducible repeat' first
    | (intro) | apply Keep.refl | assumption | apply KeepO.next
    | apply (keep_throttleDie _ _ _).after | apply (keep_readDie _ _ _).after | apply keep_act | dsimp only
  all_goals rfl

theorem keep_execTrHead (a0 : Tenant) (a1 : Nat) (s : State) : KeepO 6973670 s (execTrHead a0 a1 s) := by
  unfold execTrHead
  with_reducible repeat' first
    | (intro) | apply Keep.refl | assumption | apply KeepO.next
    | apply (keep_writeTrHead _ _ _).after | apply keep_actDoorbell | dsimp only
  all_goals rfl

theorem keep_execTruncate (a0 : Tenant) (a1 : HostCommand) (s : State) : KeepO 4943054 s (execTruncate a0 a1 s) := by
  unfold execTruncate
  with_reducible repeat' first
    | (intro) | apply Keep.refl | assumption | apply KeepO.next
    | apply (keep_serveCommand _ _ _ _ _).after | apply keep_actPages | dsimp only
  all_goals rfl

theorem keep_execUcodeLoadComplete (a0 : Fin 16) (a1 : ReadEnd) (a2 : Bool) (s : State) :
    KeepO 4878278 s (execUcodeLoadComplete a0 a1 a2 s) := by
  unfold execUcodeLoadComplete
  with_reducible repeat' first
    | (intro) | apply Keep.refl | assumption | apply KeepO.next
    | apply (keep_endUcode _ _ _ _ _).after | apply keep_act | split | dsimp only
  all_goals rfl

theorem keep_execUnbindComplete (a0 : CompNo) (s : State) : KeepO 6974662 s (execUnbindComplete a0 s) := by
  unfold execUnbindComplete
  with_reducible repeat' first
    | (intro) | apply Keep.refl | assumption | apply KeepO.next
    | apply (keep_endUnbind _ _ _).after | apply keep_act | split | dsimp only
  all_goals rfl

theorem keep_execUncachedRead (a0 : Nat) (s : State) : KeepO 4942030 s (execUncachedRead a0 s) := by
  unfold execUncachedRead
  with_reducible repeat' first
    | (intro) | apply Keep.refl | assumption | apply KeepO.next
    | apply (keep_request _ _ _).after | apply keep_act | apply (keep_emit _ _).after | split | dsimp only
  all_goals rfl

theorem keep_execUnitComplete (a0 : RegionNo) (a1 : List FabricOp) (a2 : Bool) (s : State) :
    KeepO 4943822 s (execUnitComplete a0 a1 a2 s) := by
  unfold execUnitComplete
  with_reducible repeat' first
    | (intro) | apply Keep.refl | assumption | apply KeepO.next
    | apply (keep_endUnit _ _ _ _ _).after | apply keep_act | split | dsimp only
  all_goals rfl

theorem keep_execUnitDispatch (a0 : RegionNo) (a1 : Nat) (a2 : Option LayerWork) (a3 : List (Nat × List Byte)) (s : State) :
    KeepO 4943854 s (execUnitDispatch a0 a1 a2 a3 s) := by
  unfold execUnitDispatch
  with_reducible repeat' first
    | (intro) | apply Keep.refl | assumption | apply KeepO.next
    | apply (keep_dispatch _ _ _ _ _ _ _ _).after | apply keep_actPages | split | dsimp only
  all_goals rfl

theorem keep_execUnpin (a0 : ObjCommand) (s : State) : KeepO 4876486 s (execUnpin a0 s) := by
  unfold execUnpin
  with_reducible repeat' first
    | (intro) | apply Keep.refl | assumption | apply KeepO.next
    | apply (keep_takeObj _ _ _).after | apply keep_act | dsimp only
  all_goals rfl

theorem keep_execUnpublish (a0 : ObjCommand) (s : State) : KeepO 4876486 s (execUnpublish a0 s) := by
  unfold execUnpublish
  with_reducible repeat' first
    | (intro) | apply Keep.refl | assumption | apply KeepO.next
    | apply (keep_takeObj _ _ _).after | apply keep_act | dsimp only
  all_goals rfl

theorem keep_execUpgrade (a0 : AgentNo) (a1 : Nat) (a2 : Option (Nat × List Byte)) (s : State) :
    KeepO 4942030 s (execUpgrade a0 a1 a2 s) := by
  unfold execUpgrade
  with_reducible repeat' first
    | (intro) | apply Keep.refl | assumption | apply KeepO.next
    | apply (keep_agentRequest _ _ _ _ _ _).after | apply keep_act | dsimp only
  all_goals rfl

theorem keep_execVaux3Loss (s : State) : KeepO 7340030 s (execVaux3Loss s) := by
  unfold execVaux3Loss
  try dsimp only
  with_reducible repeat' first
    | (intro) | apply Keep.refl | assumption | apply KeepO.next | apply (keep_railsOff _ _).after
    | apply keep_act | apply (keep_emit _ _).after | split | dsimp only
    | (apply Keep.lit; on_goal 2 => (constructor <;> first | exact .inr rfl | exact .inl rfl | exact .of rfl rfl rfl rfl rfl rfl rfl))
  all_goals rfl

theorem keep_execVaux3Return (s : State) : KeepO 4876502 s (execVaux3Return s) := by
  unfold execVaux3Return
  with_reducible repeat' first
    | (intro) | apply Keep.refl | assumption | apply KeepO.next | apply keep_act | dsimp only
    | (apply Keep.lit; on_goal 2 => (constructor <;> first | exact .inr rfl | exact .inl rfl | exact .of rfl rfl rfl rfl rfl rfl rfl))
  all_goals rfl

theorem keep_execVectorUnmask (a0 : Fin 4160) (s : State) : KeepO 4876486 s (execVectorUnmask a0 s) := by
  unfold execVectorUnmask
  with_reducible repeat' first
    | (intro) | apply Keep.refl | assumption | apply KeepO.next
    | apply (keep_releaseVector _ _).after | apply keep_act | dsimp only
    | (apply Keep.lit; on_goal 2 => (constructor <;> first | exact .inr rfl | exact .inl rfl | exact .of rfl rfl rfl rfl rfl rfl rfl))
  all_goals rfl

theorem keep_execVerifyComplete (a0 : RegionNo) (a1 : Bool) (s : State) : KeepO 4943822 s (execVerifyComplete a0 a1 s) := by
  unfold execVerifyComplete
  with_reducible repeat' first
    | (intro) | apply Keep.refl | assumption | apply KeepO.next
    | apply (keep_endVerify _ _ _).after | apply keep_act | split | dsimp only
  all_goals rfl

theorem keep_execVin56InRange (a0 : Nat) (s : State) : KeepO 4876486 s (execVin56InRange a0 s) := by
  unfold execVin56InRange
  with_reducible repeat' first
    | (intro) | apply Keep.refl | assumption | apply KeepO.next
    | apply (keep_readVin56 _ _).after | apply keep_act | dsimp only
  all_goals rfl

theorem keep_execVin56Low (a0 : Nat) (s : State) : KeepO 4876486 s (execVin56Low a0 s) := by
  unfold execVin56Low
  with_reducible repeat' first
    | (intro) | apply Keep.refl | assumption | apply KeepO.next
    | apply (keep_readVin56 _ _).after | apply keep_act | dsimp only
  all_goals rfl

theorem keep_execVin56Over (a0 : Nat) (s : State) : KeepO 7340030 s (execVin56Over a0 s) := by
  unfold execVin56Over
  with_reducible repeat' first
    | (intro) | apply Keep.refl | assumption | apply KeepO.next | apply (keep_railsOff _ _).after
    | apply keep_act | dsimp only
  all_goals rfl

theorem keep_execVin56Under (a0 : Nat) (s : State) : KeepO 7340030 s (execVin56Under a0 s) := by
  unfold execVin56Under
  with_reducible repeat' first
    | (intro) | apply Keep.refl | assumption | apply KeepO.next | apply (keep_railsOff _ _).after
    | apply keep_act | dsimp only
  all_goals rfl

theorem keep_execWakeTime (s : State) : KeepO 6973670 s (execWakeTime s) := by
  unfold execWakeTime
  with_reducible repeat' first
    | (intro) | apply Keep.refl | assumption | apply KeepO.next | apply (keep_wakeBy _ _).after
    | apply keep_act | dsimp only
  all_goals rfl

theorem keep_execWalkDone (a0 : Nat) (s : State) : KeepO 4947150 s (execWalkDone a0 s) := by
  unfold execWalkDone
  with_reducible repeat' first
    | (intro) | apply Keep.refl | assumption | apply KeepO.next
    | apply (keep_walkEnds _ _ _).after | apply keep_actPages | split | dsimp only
  all_goals rfl

theorem keep_execWhoOwns (a0 : RstHeader) (s : State) : KeepO 7044334 s (execWhoOwns a0 s) := by
  unfold execWhoOwns
  with_reducible repeat' first
    | apply Keep.refl | assumption | apply KeepO.next | apply (keep_rstRow _ _ _ _).mono
  all_goals rfl

theorem keep_execWriteFull (a0 : AgentNo) (a1 : Nat) (a2 : List Byte) (s : State) :
    KeepO 4942030 s (execWriteFull a0 a1 a2 s) := by
  unfold execWriteFull
  with_reducible repeat' first
    | (intro) | apply Keep.refl | assumption | apply KeepO.next
    | apply (keep_agentRequest _ _ _ _ _ _).after | apply keep_act | dsimp only
  all_goals rfl

theorem keep_execWriteback (a0 : AgentNo) (a1 : Nat) (s : State) : KeepO 4942030 s (execWriteback a0 a1 s) := by
  unfold execWriteback
  with_reducible repeat' first
    | (intro) | apply Keep.refl | assumption | apply KeepO.next | apply (keep_workLine _ _).after
    | apply (keep_writeBack _ _ _).after | apply keep_act | dsimp only
  all_goals rfl

/-- What a register triggers, if anything, keeps what `w` says. -/
structure RunsO (w : Nat) (o : Option (State → Answer)) : Prop where
  run : ∀ f, o = Option.some f → ∀ u, KeepO w u (f u)

theorem RunsO.none {w : Nat} : RunsO w Option.none := ⟨fun _ h => nomatch h⟩

theorem RunsO.some {w : Nat} {f : State → Answer} (h : ∀ u, KeepO w u (f u)) : RunsO w (Option.some f) :=
  ⟨fun _ e => Option.some.inj e ▸ h⟩

theorem RunsO.ite {w : Nat} {c : Prop} [Decidable c] {a b : Option (State → Answer)} (ha : RunsO w a) (hb : RunsO w b) :
    RunsO w (if c then a else b) := by
  split
  · exact ha
  · exact hb

theorem keep_platformCommand (s : State) (off v : Nat) : RunsO 7340030 (platformCommand s off v) := by
  unfold platformCommand
  try dsimp only
  with_reducible repeat' first
    | exact RunsO.none
    | apply RunsO.ite
    | (apply RunsO.some; intro u)
    | apply (keep_execWarmReset _).mono
    | apply (keep_execColdReset _).mono
    | apply (keep_execStage _ _ _).mono
    | apply (keep_execAdvance _).mono
    | apply (keep_execKeylistLoad _ _ _).mono
    | apply (keep_execKeylistClear _).mono
    | apply (keep_execAttest _ _).mono
    | apply (keep_execEstablish _ _).mono
    | apply (keep_execBurn _).mono
    | apply (keep_execWhite _).mono
    | apply (keep_execGrey _).mono
    | apply (keep_execCharcoal _).mono
    | apply (keep_execBlack _).mono
    | split
  all_goals rfl

theorem keep_fabricCommand (s : State) (off v : Nat) : RunsO 7340030 (fabricCommand s off v) := by
  unfold fabricCommand
  try dsimp only
  with_reducible repeat' first
    | exact RunsO.none
    | apply RunsO.ite
    | (apply RunsO.some; intro u)
    | apply (keep_execFabVdcFlush _).mono
    | apply (keep_execFabPkgLoad _ _).mono
    | apply (keep_execLoad _ _ _).mono
    | apply (keep_execStart _ _ _).mono
    | apply (keep_execDrain _ _ _).mono
    | apply (keep_execReload _ _ _).mono
    | apply (keep_execReset _ _ _).mono
    | apply (keep_execResetRepair _ _ _).mono
    | split
  all_goals rfl

theorem keep_slotCommand (s : State) (off v : Nat) : RunsO 7340030 (slotCommand s off v) := by
  unfold slotCommand
  try dsimp only
  with_reducible repeat' first
    | exact RunsO.none
    | apply RunsO.ite
    | (apply RunsO.some; intro u)
    | apply (keep_execXtsLoad _ _).mono
    | apply (keep_execXtsClear _ _).mono
    | apply (keep_execAttach _ _ _).mono
    | apply (keep_execDetach _ _).mono
    | apply (keep_execStkUcodeClear _ _).mono
    | apply (keep_execDomainLoad _ _ _ _).mono
    | apply (keep_execDomainClear _ _).mono
    | apply (keep_execDomainUnpin _ _).mono
    | apply (keep_execDomainFlush _ _).mono
    | apply (keep_execTableLoad _ _ _).mono
    | apply (keep_execTableClear _ _).mono
    | apply (keep_execGcmLoad _ _).mono
    | apply (keep_execGcmClear _ _).mono
    | split
  all_goals rfl

theorem keep_serviceCommand (s : State) (off v : Nat) : RunsO 7340030 (serviceCommand s off v) := by
  unfold serviceCommand
  try dsimp only
  with_reducible repeat' first
    | exact RunsO.none
    | apply RunsO.ite
    | (apply RunsO.some; intro u)
    | apply (keep_execBind _ _ _).mono
    | apply (keep_execUnbind _ _).mono
    | apply (keep_execAddRegions _ _).mono
    | apply (keep_execRemoveRegions _ _).mono
    | apply (keep_execSet _ _ _ _).mono
    | apply (keep_execRecoverRequest _).mono
    | apply (keep_execRecoverFailedPart _).mono
    | apply (keep_execDiscard _ _).mono
    | apply (keep_execSwitch _).mono
    | apply (keep_execSuspend _).mono
    | split
  all_goals rfl

theorem keep_registerCommand (s : State) (off v : Nat) : RunsO 7340030 (registerCommand s off v) := by
  refine ⟨fun run h u => ?_⟩
  unfold registerCommand at h
  rcases Option.or_eq_some_iff.mp h with a | ⟨-, h⟩
  · exact (keep_platformCommand s off v).run run a u
  · rcases Option.or_eq_some_iff.mp h with a | ⟨-, h⟩
    · exact (keep_fabricCommand s off v).run run a u
    · rcases Option.or_eq_some_iff.mp h with a | ⟨-, h⟩
      · exact (keep_slotCommand s off v).run run a u
      · exact (keep_serviceCommand s off v).run run h u

theorem keep_execRegisterWrite (offset width : Nat) (value : BitVec 64) (s : State) :
    KeepO 7340030 s (execRegisterWrite offset width value s) := by
  unfold execRegisterWrite
  extract_lets written
  have h : Keep 7340030 s written := (keep_writeBar0 s _ _ _).mono rfl
  split
  · next run hr =>
    split at hr
    · have k := (keep_registerCommand _ _ _).run _ hr (finish s written)
      exact ⟨fun t ht => (h.comp (keep_finish s _) rfl).trans (k.of t ht), k.answers⟩
    · cases hr
  · unfold act
    refine KeepO.next ?_
    split
    · exact h.comp (keep_finish s _) rfl
    · exact Keep.refl _ _

/-- What a held command may change. -/
theorem keep_servedWhenAwake (s : State) (c : Instr) : KeepO 7340030 s (servedWhenAwake c s) := by
  cases c
  case load => exact (keep_execLoad _ _ _).mono rfl
  case start => exact (keep_execStart _ _ _).mono rfl
  case drain => exact (keep_execDrain _ _ _).mono rfl
  case reload => exact (keep_execReload _ _ _).mono rfl
  case reset => exact (keep_execReset _ _ _).mono rfl
  case resetRepair => exact (keep_execResetRepair _ _ _).mono rfl
  case fabPkgLoad => exact (keep_execFabPkgLoad _ _).mono rfl
  case fabVdcFlush => exact (keep_execFabVdcFlush _).mono rfl
  case attach => exact (keep_execAttach _ _ _).mono rfl
  case detach => exact (keep_execDetach _ _).mono rfl
  case stkUcodeClear => exact (keep_execStkUcodeClear _ _).mono rfl
  case xtsLoad => exact (keep_execXtsLoad _ _).mono rfl
  case xtsClear => exact (keep_execXtsClear _ _).mono rfl
  case domainLoad => exact (keep_execDomainLoad _ _ _ _).mono rfl
  case domainClear => exact (keep_execDomainClear _ _).mono rfl
  case domainUnpin => exact (keep_execDomainUnpin _ _).mono rfl
  case domainFlush => exact (keep_execDomainFlush _ _).mono rfl
  case tableLoad => exact (keep_execTableLoad _ _ _).mono rfl
  case tableClear => exact (keep_execTableClear _ _).mono rfl
  case gcmLoad => exact (keep_execGcmLoad _ _).mono rfl
  case gcmClear => exact (keep_execGcmClear _ _).mono rfl
  case bind => exact (keep_execBind _ _ _).mono rfl
  case unbind => exact (keep_execUnbind _ _).mono rfl
  case addRegions => exact (keep_execAddRegions _ _).mono rfl
  case removeRegions => exact (keep_execRemoveRegions _ _).mono rfl
  case set => exact (keep_execSet _ _ _ _).mono rfl
  case recoverRequest => exact (keep_execRecoverRequest _).mono rfl
  case recoverFailedPart => exact (keep_execRecoverFailedPart _).mono rfl
  case join => exact (keep_execJoin _ _ _).mono rfl
  case switch => exact (keep_execSwitch _).mono rfl
  case suspend => exact (keep_execSuspend _).mono rfl
  case stage => exact (keep_execStage _ _ _).mono rfl
  case advance => exact (keep_execAdvance _).mono rfl
  case keylistLoad => exact (keep_execKeylistLoad _ _ _).mono rfl
  case keylistClear => exact (keep_execKeylistClear _).mono rfl
  case attest => exact (keep_execAttest _ _).mono rfl
  case establish => exact (keep_execEstablish _ _).mono rfl
  case burn => exact (keep_execBurn _).mono rfl
  case discard => exact (keep_execDiscard _ _).mono rfl
  case flsLock => exact (keep_execFlsLock _ _).mono rfl
  case sqTail => exact (keep_execSqTail _ _ _).mono rfl
  case cqHead => exact (keep_execCqHead _ _ _).mono rfl
  case trHead => exact (keep_execTrHead _ _ _).mono rfl
  case bar4Read => exact (keep_execBar4Read _ _ _).mono rfl
  case bar4Write => exact (keep_execBar4Write _ _ _).mono rfl
  case rstOpen => exact (keep_execRstOpen _ _ _ _ _ _ _).mono rfl
  case rstOpened => exact (keep_execRstOpened _ _).mono rfl
  case logAppend => exact (keep_execLogAppend _ _ _ _ _).mono rfl
  case logAck => exact (keep_execLogAck _ _ _).mono rfl
  case publishBlock => exact (keep_execPublishBlock _ _ _ _).mono rfl
  case pubRef => exact (keep_execPubRef _ _ _ _ _ _).mono rfl
  case pubAck => exact (keep_execPubAck _ _ _).mono rfl
  case pubNeed => exact (keep_execPubNeed _ _ _).mono rfl
  case offer => exact (keep_execOffer _ _ _ _ _ _ _).mono rfl
  case offerAck => exact (keep_execOfferAck _ _).mono rfl
  case pull => exact (keep_execPull _ _ _ _ _).mono rfl
  case pageData => exact (keep_execPageData _ _ _ _ _ _).mono rfl
  case claim => exact (keep_execClaim _ _ _ _).mono rfl
  case grant => exact (keep_execGrant _ _).mono rfl
  case deny => exact (keep_execDeny _ _ _).mono rfl
  case rstRelease => exact (keep_execRstRelease _ _).mono rfl
  case whoOwns => exact (keep_execWhoOwns _ _).mono rfl
  case ownerIs => exact (keep_execOwnerIs _ _ _).mono rfl
  case rstResume => exact (keep_execRstResume _ _).mono rfl
  case recover => exact (keep_execRecover _ _ _).mono rfl
  case objRead => exact (keep_execObjRead _ _ _ _).mono rfl
  case objData => exact (keep_execObjData _ _ _ _ _).mono rfl
  case close => exact (keep_execClose _ _).mono rfl
  case closed => exact (keep_execClosed _ _).mono rfl
  case pfxQuery => exact (keep_execPfxQuery _ _ _ _ _ _ _).mono rfl
  case pfxAnswer => exact (keep_execPfxAnswer _ _ _ _).mono rfl
  case rstTransportOnly => exact (keep_execRstTransportOnly _ _).mono rfl
  case memReqLoad => exact (keep_execMemReqLoad _ _).mono rfl
  case memReqStore => exact (keep_execMemReqStore _ _ _).mono rfl
  case memReqAdd => exact (keep_execMemReqAdd _ _ _).mono rfl
  case memReqMinS => exact (keep_execMemReqMinS _ _ _).mono rfl
  case memReqMinU => exact (keep_execMemReqMinU _ _ _).mono rfl
  case memReqMaxS => exact (keep_execMemReqMaxS _ _ _).mono rfl
  case memReqMaxU => exact (keep_execMemReqMaxU _ _ _).mono rfl
  case memReqSwap => exact (keep_execMemReqSwap _ _ _).mono rfl
  case memReqCas => exact (keep_execMemReqCas _ _ _ _).mono rfl
  case tensor => exact (keep_execTensor _ _ _ _ _).mono rfl
  all_goals exact KeepO.next (Keep.refl _ _)

theorem keep_serveHeld (s : State) (c : Instr) (h : KeepO 7340030 s (servedWhenAwake c s)) : Keep 7340030 s (serveHeld s c) := by
  unfold serveHeld
  split
  · next t e => exact h.of t e
  · exact Keep.refl _ _

theorem keep_execCharcoalExitComplete (s : State) : KeepO 7340030 s (execCharcoalExitComplete s) := by
  unfold execCharcoalExitComplete
  refine KeepO.next ?_
  split
  · exact Keep.foldl (Keep.comp ((keep_endCharcoal s).mono rfl) (keep_finish s _) rfl)
      (fun u c => keep_serveHeld u c (keep_servedWhenAwake u c))
  · exact Keep.refl _ _

/-- The mask of the parts of State that a command may change. -/
def changes : Instr → Nat
  | .hostAdmit .. => 4876486
  | .append .. => 4943054
  | .truncate .. => 4943054
  | .cancel .. => 4943054
  | .park .. => 4943054
  | .resume .. => 4943054
  | .query .. => 4943054
  | .release .. => 4943054
  | .allocate .. => 4876486
  | .publish .. => 4876486
  | .seal .. => 4876486
  | .move .. => 4876486
  | .unpublish .. => 4876486
  | .free .. => 4876486
  | .pin .. => 4876486
  | .unpin .. => 4876486
  | .adopt .. => 4876486
  | .copyComplete .. => 5204174
  | .objectReclaim .. => 5138630
  | .load .. => 4943854
  | .start .. => 4877798
  | .drain .. => 4943334
  | .reload .. => 4877798
  | .reset .. => 4943334
  | .resetRepair .. => 4943350
  | .imageReadComplete .. => 4943822
  | .verifyComplete .. => 4943822
  | .drainComplete .. => 4943822
  | .clusterFault .. => 4943822
  | .fabPkgLoad .. => 4876774
  | .fabVdcFlush => 4876774
  | .attach .. => 4878054
  | .ucodeLoadComplete .. => 4878278
  | .detach .. => 4877030
  | .detachComplete .. => 4878022
  | .stkUcodeClear .. => 4877030
  | .xtsLoad .. => 4876518
  | .xtsClear .. => 4876518
  | .domainLoad .. => 4880614
  | .domainClear .. => 4880614
  | .domainUnpin .. => 4880614
  | .domainFlush .. => 4880614
  | .tableLoad .. => 4876518
  | .tableClear .. => 4876518
  | .gcmLoad .. => 4876518
  | .gcmClear .. => 4876518
  | .bind .. => 6974950
  | .unbind .. => 4882406
  | .unbindComplete .. => 6974662
  | .addRegions .. => 6973926
  | .removeRegions .. => 6974950
  | .set .. => 4877542
  | .recoverRequest => 4876518
  | .recoverFailedPart => 4876518
  | .join .. => 6977766
  | .switch => 4876518
  | .handover => 6973638
  | .suspend => 6977766
  | .warmReset => 7340030
  | .coldReset => 7340030
  | .stage .. => 4876534
  | .stageComplete .. => 4876502
  | .advance => 4876534
  | .keylistLoad .. => 4876790
  | .keylistClear => 4876790
  | .attest .. => 4876518
  | .establish .. => 4876518
  | .burn => 4876534
  | .burnComplete .. => 4876502
  | .white => 6973670
  | .grey => 6973670
  | .charcoal => 6973670
  | .black => 7340030
  | .discard .. => 5138662
  | .flsLock .. => 7235814
  | .rebuildComplete => 5138630
  | .lockSet .. => 6973638
  | .mtrSelect .. => 6973638
  | .rqtTCtlEnable .. => 6973894
  | .portCfgWrite .. => 7006662
  | .registerWrite .. => 7340030
  | .sqTail .. => 6973670
  | .cqHead .. => 6973670
  | .trHead .. => 6973670
  | .stkObjSqTail .. => 4876486
  | .stkObjCqHead .. => 4876486
  | .bar4Read .. => 7039214
  | .bar4Write .. => 7039214
  | .vectorUnmask .. => 4876486
  | .rstOpen .. => 7044334
  | .rstOpened .. => 7044334
  | .logAppend .. => 7044334
  | .logAck .. => 7044334
  | .publishBlock .. => 7044334
  | .pubRef .. => 7044334
  | .pubAck .. => 7044334
  | .pubNeed .. => 7044334
  | .offer .. => 7044334
  | .offerAck .. => 7044334
  | .pull .. => 7044334
  | .pageData .. => 7044334
  | .claim .. => 7044334
  | .grant .. => 7044334
  | .deny .. => 7044334
  | .rstRelease .. => 7044334
  | .whoOwns .. => 7044334
  | .ownerIs .. => 7044334
  | .rstResume .. => 7044334
  | .recover .. => 7044334
  | .objRead .. => 7044334
  | .objData .. => 7044334
  | .close .. => 7044334
  | .closed .. => 7044334
  | .pfxQuery .. => 7044334
  | .pfxAnswer .. => 7044334
  | .rstTransportOnly .. => 6973670
  | .rstRetransmit .. => 4947150
  | .orphanAudit .. => 4876486
  | .offerResend .. => 4876486
  | .walkDone .. => 4947150
  | .memReqLoad .. => 7071982
  | .memReqStore .. => 7071982
  | .memReqAdd .. => 7071982
  | .memReqMinS .. => 7071982
  | .memReqMinU .. => 7071982
  | .memReqMaxS .. => 7071982
  | .memReqMaxU .. => 7071982
  | .memReqSwap .. => 7071982
  | .memReqCas .. => 7071982
  | .memRsp .. => 4909510
  | .tensor .. => 7071982
  | .tensorAck .. => 4909510
  | .mirror .. => 7043278
  | .hello .. => 4909510
  | .heartbeat .. => 6973638
  | .ctrlDepart .. => 4909254
  | .frameForward .. => 4876486
  | .portUp .. => 4909254
  | .portDown .. => 4909510
  | .egressFrameStart .. => 4341760
  | .remoteOpIssue .. => 4975054
  | .remoteFence .. => 4909510
  | .retryReissue .. => 4909510
  | .replyTimeout .. => 4909510
  | .retryBarrierTimeout .. => 4909254
  | .regionAccess .. => 4878278
  | .readShared .. => 4942030
  | .readExclusive .. => 4942030
  | .upgrade .. => 4942030
  | .writeback .. => 4942030
  | .uncachedRead .. => 4942030
  | .invalidatingWrite .. => 4942030
  | .writeFull .. => 4942030
  | .forward .. => 4942030
  | .holdWindowEnd .. => 4942030
  | .delayLineCalibration => 4942022
  | .unitDispatch .. => 4943854
  | .unitComplete .. => 4943822
  | .preemptionPoint .. => 4877766
  | .passComplete .. => 4878022
  | .stepCommit .. => 4943822
  | .stackCoreFault .. => 4878278
  | .deadlineMiss .. => 4876486
  | .leaseEpochTick => 5209294
  | .leaseExpiry .. => 5210062
  | .pageReclaim .. => 4947150
  | .prefixInsert .. => 4880582
  | .pressureEviction .. => 4880582
  | .drop .. => 4877510
  | .preempt .. => 4943054
  | .restore .. => 4876486
  | .restoreComplete .. => 4943054
  | .recompute .. => 4943054
  | .gcCollect .. => 5138630
  | .fold .. => 5138630
  | .slateScrub .. => 5138630
  | .keepalive => 6973638
  | .feedBind .. => 5925062
  | .feedUnbind .. => 5925062
  | .feedResource .. => 5925062
  | .feedSeal .. => 5925062
  | .feedPower .. => 5925062
  | .feedKeepalive .. => 5925062
  | .silent .. => 5925062
  | .interval .. => 5925062
  | .tamper .. => 5925062
  | .meterFault .. => 5925062
  | .laneStatusFrame .. => 8022214
  | .recordCopy .. => 6973638
  | .recordLaneSilent => 4876486
  | .mtrVaux3Loss .. => 5925062
  | .mtrVaux3Return => 8022214
  | .identity .. => 5925062
  | .i3cStatus .. => 5925062
  | .pointer .. => 5925062
  | .record .. => 5925062
  | .certificate .. => 5925062
  | .mark .. => 5925062
  | .entdaa .. => 5925062
  | .setdasa .. => 5925062
  | .getpid .. => 5925062
  | .getbcr .. => 5925062
  | .getdcr .. => 5925062
  | .getstatus .. => 5925062
  | .enec .. => 5925062
  | .enum .. => 4876502
  | .getId .. => 4876486
  | .setMember .. => 7010758
  | .announce .. => 4909254
  | .powerOn .. => 4876502
  | .powerOff .. => 7340030
  | .chainReset .. => 7340030
  | .fence .. => 7340030
  | .fenced .. => 6977734
  | .status .. => 4876486
  | .departAnswer .. => 4876486
  | .chainForward .. => 4876486
  | .chainRingSilent => 4876486
  | .heartbeatSend => 4876486
  | .heartbeatLoss => 6977734
  | .fenceWaitExpiry => 4876486
  | .fenceTimeout => 4876486
  | .mirrorAcknowledgement .. => 6973638
  | .departureComplete => 7340030
  | .powerEnRise => 4876502
  | .powerEnFall => 7340030
  | .vin56Low .. => 4876486
  | .vin56Under .. => 7340030
  | .vin56Over .. => 7340030
  | .vin56InRange .. => 4876486
  | .vaux3Loss => 7340030
  | .vaux3Return => 4876502
  | .throttling .. => 4876518
  | .throttlingEnd .. => 4876518
  | .boundsNotGuaranteed .. => 4876518
  | .thermalTrip .. => 7340030
  | .stackRefreshRate .. => 4876518
  | .greyIdle .. => 4876518
  | .wakeTime => 6973670
  | .refclkLoss => 4876502
  | .refclkReturn => 4876502
  | .pacingChange .. => 4876518
  | .charcoalEntryComplete => 6973670
  | .charcoalExitComplete => 7340030
  | .perst => 7340030
  | .hotReset => 7340030
  | .linkDisable => 7340030
  | .functionLevelReset => 7340030
  | .dlUpLoss => 5205982
  | .dlUpReturn .. => 4876758
  | .busMasterEnable .. => 4876758
  | .configurationRequest .. => 4876486
  | .hostReadCompletion .. => 5205982
  | .poisonedWrite .. => 4876486
  | .malformedTlp .. => 4876486
  | .coalesceUsExpiry .. => 4876486
  | .powerUpStart .. => 6973910
  | .packageLoadComplete .. => 4876742
  | .domainScanComplete => 4880582
  | .ethernetPortUp .. => 4909254
  | .ethernetPortDown .. => 4909254

/-- A command changes no more than its mask says. -/
theorem keep_exec (c : Instr) (s : State) : KeepO (changes c) s (exec c s) :=
  match c with
  | .hostAdmit t c tokens desc => keep_execHostAdmit t c tokens desc s
  | .append t c tokens => keep_execAppend t c tokens s
  | .truncate t c => keep_execTruncate t c s
  | .cancel t c => keep_execCancel t c s
  | .park t c => keep_execPark t c s
  | .resume t c => keep_execResume t c s
  | .query t c => keep_execQuery t c s
  | .release t c => keep_execRelease t c s
  | .allocate c => keep_execAllocate c s
  | .publish c => keep_execPublish c s
  | .seal c => keep_execSeal c s
  | .move c => keep_execMove c s
  | .unpublish c => keep_execUnpublish c s
  | .free c => keep_execFree c s
  | .pin c => keep_execPin c s
  | .unpin c => keep_execUnpin c s
  | .adopt c => keep_execAdopt c s
  | .copyComplete handle copied source nand => keep_execCopyComplete handle source copied nand s
  | .objectReclaim index nand => keep_execObjectReclaim index nand s
  | .load n handle => keep_execLoad n handle s
  | .start n handle => keep_execStart n handle s
  | .drain n handle => keep_execDrain n handle s
  | .reload n handle => keep_execReload n handle s
  | .reset n handle => keep_execReset n handle s
  | .resetRepair n handle => keep_execResetRepair n handle s
  | .imageReadComplete n read => keep_execImageReadComplete n read s
  | .verifyComplete n readbackOk => keep_execVerifyComplete n readbackOk s
  | .drainComplete n => keep_execDrainComplete n s
  | .clusterFault n cluster kind => keep_execClusterFault n cluster kind s
  | .fabPkgLoad handle => keep_execFabPkgLoad handle s
  | .fabVdcFlush => keep_execFabVdcFlush s
  | .attach handle comp => keep_execAttach handle comp s
  | .ucodeLoadComplete slot read readbackOk => keep_execUcodeLoadComplete slot read readbackOk s
  | .detach comp => keep_execDetach comp s
  | .detachComplete comp => keep_execDetachComplete comp s
  | .stkUcodeClear mask => keep_execStkUcodeClear mask s
  | .xtsLoad slot => keep_execXtsLoad slot s
  | .xtsClear slot => keep_execXtsClear slot s
  | .domainLoad slot domain owner => keep_execDomainLoad slot domain owner s
  | .domainClear slot => keep_execDomainClear slot s
  | .domainUnpin slot => keep_execDomainUnpin slot s
  | .domainFlush slot => keep_execDomainFlush slot s
  | .tableLoad slot tag => keep_execTableLoad slot tag s
  | .tableClear slot => keep_execTableClear slot s
  | .gcmLoad slot => keep_execGcmLoad slot s
  | .gcmClear slot => keep_execGcmClear slot s
  | .bind c role => keep_execBind c role s
  | .unbind c => keep_execUnbind c s
  | .unbindComplete c => keep_execUnbindComplete c s
  | .addRegions c => keep_execAddRegions c s
  | .removeRegions c => keep_execRemoveRegions c s
  | .set t c weight => keep_execSet t c weight s
  | .recoverRequest => keep_execRecoverRequest s
  | .recoverFailedPart => keep_execRecoverFailedPart s
  | .join roleReq peer => keep_execJoin roleReq peer s
  | .switch => keep_execSwitch s
  | .handover => keep_execHandover s
  | .suspend => keep_execSuspend s
  | .warmReset => keep_execWarmReset s
  | .coldReset => keep_execColdReset s
  | .stage handle read => keep_execStage handle read s
  | .stageComplete ok => keep_execStageComplete ok s
  | .advance => keep_execAdvance s
  | .keylistLoad handle read => keep_execKeylistLoad handle read s
  | .keylistClear => keep_execKeylistClear s
  | .attest address => keep_execAttest address s
  | .establish address => keep_execEstablish address s
  | .burn => keep_execBurn s
  | .burnComplete readbackOk => keep_execBurnComplete readbackOk s
  | .white => keep_execWhite s
  | .grey => keep_execGrey s
  | .charcoal => keep_execCharcoal s
  | .black => keep_execBlack s
  | .discard nand => keep_execDiscard nand s
  | .flsLock nand => keep_execFlsLock nand s
  | .rebuildComplete => keep_execRebuildComplete s
  | .lockSet block => keep_execLockSet block s
  | .mtrSelect recordNo => keep_execMtrSelect recordNo s
  | .rqtTCtlEnable t value => keep_execRqtTCtlEnable t value s
  | .portCfgWrite p value => keep_execPortCfgWrite p value s
  | .registerWrite offset width value => keep_execRegisterWrite offset width value s
  | .sqTail t value => keep_execSqTail t value s
  | .cqHead t value => keep_execCqHead t value s
  | .trHead t value => keep_execTrHead t value s
  | .stkObjSqTail value => keep_execStkObjSqTail value s
  | .stkObjCqHead value => keep_execStkObjCqHead value s
  | .bar4Read offset size => keep_execBar4Read offset size s
  | .bar4Write offset data => keep_execBar4Write offset data s
  | .vectorUnmask vec => keep_execVectorUnmask vec s
  | .rstOpen h durability entry twin modelId adapterId => keep_execRstOpen h durability entry twin modelId adapterId s
  | .rstOpened h => keep_execRstOpened h s
  | .logAppend h start entry entries => keep_execLogAppend h start entry entries s
  | .logAck h length => keep_execLogAck h length s
  | .publishBlock h block pages => keep_execPublishBlock h block pages s
  | .pubRef h block parentDigest digest tokens => keep_execPubRef h block parentDigest digest tokens s
  | .pubAck h blocks => keep_execPubAck h blocks s
  | .pubNeed h block => keep_execPubNeed h block s
  | .offer h remaining entry modelId adapterId entries => keep_execOffer h remaining entry modelId adapterId entries s
  | .offerAck h => keep_execOfferAck h s
  | .pull h first count layer => keep_execPull h first count layer s
  | .pageData h page layer fill rows => keep_execPageData h page layer fill rows s
  | .claim h offering twin => keep_execClaim h offering twin s
  | .grant h => keep_execGrant h s
  | .deny h owner => keep_execDeny h owner s
  | .rstRelease h => keep_execRstRelease h s
  | .whoOwns h => keep_execWhoOwns h s
  | .ownerIs h owner => keep_execOwnerIs h owner s
  | .rstResume h => keep_execRstResume h s
  | .recover h ledger => keep_execRecover h ledger s
  | .objRead h handle offset => keep_execObjRead h handle offset s
  | .objData h handle offset bytes => keep_execObjData h handle offset bytes s
  | .close h => keep_execClose h s
  | .closed h => keep_execClosed h s
  | .pfxQuery h domain parentDigest modelId adapterId tokens => keep_execPfxQuery h domain parentDigest modelId adapterId tokens s
  | .pfxAnswer h matched handles => keep_execPfxAnswer h matched handles s
  | .rstTransportOnly h => keep_execRstTransportOnly h s
  | .rstRetransmit peer seq => keep_execRstRetransmit peer seq s
  | .orphanAudit index => keep_execOrphanAudit index s
  | .offerResend index => keep_execOfferResend index s
  | .walkDone index => keep_execWalkDone index s
  | .memReqLoad f => keep_execMemReqLoad f s
  | .memReqStore f data => keep_execMemReqStore f data s
  | .memReqAdd f operand => keep_execMemReqAdd f operand s
  | .memReqMinS f operand => keep_execMemReqMinS f operand s
  | .memReqMinU f operand => keep_execMemReqMinU f operand s
  | .memReqMaxS f operand => keep_execMemReqMaxS f operand s
  | .memReqMaxU f operand => keep_execMemReqMaxU f operand s
  | .memReqSwap f operand => keep_execMemReqSwap f operand s
  | .memReqCas f compare swap => keep_execMemReqCas f compare swap s
  | .memRsp f status data => keep_execMemRsp f status data s
  | .tensor f index total block => keep_execTensor f index total block s
  | .tensorAck f index status => keep_execTensorAck f index status s
  | .mirror p records => keep_execMirror p records s
  | .hello p trayId member twin => keep_execHello p trayId member twin s
  | .heartbeat p source role state sent applied => keep_execHeartbeat p source role state sent applied s
  | .ctrlDepart p source => keep_execCtrlDepart p source s
  | .frameForward p dest bytes class_ issuer => keep_execFrameForward p dest bytes class_ issuer s
  | .portUp p => keep_execPortUp p s
  | .portDown p => keep_execPortDown p s
  | .egressFrameStart p => keep_execEgressFrameStart p s
  | .remoteOpIssue r thread kind address size operand data dest => keep_execRemoteOpIssue r thread kind address size operand data dest s
  | .remoteFence r thread => keep_execRemoteFence r thread s
  | .retryReissue r slot => keep_execRetryReissue r slot s
  | .replyTimeout r slot => keep_execReplyTimeout r slot s
  | .retryBarrierTimeout member region => keep_execRetryBarrierTimeout member region s
  | .regionAccess r offset data source last => keep_execRegionAccess r offset data source last s
  | .readShared a line => keep_execReadShared a line s
  | .readExclusive a line store => keep_execReadExclusive a line store s
  | .upgrade a line store => keep_execUpgrade a line store s
  | .writeback a line => keep_execWriteback a line s
  | .uncachedRead line => keep_execUncachedRead line s
  | .invalidatingWrite line offset data => keep_execInvalidatingWrite line offset data s
  | .writeFull a line data => keep_execWriteFull a line data s
  | .forward a line => keep_execForward a line s
  | .holdWindowEnd a line => keep_execHoldWindowEnd a line s
  | .delayLineCalibration => keep_execDelayLineCalibration s
  | .unitDispatch r kernel work slots => keep_execUnitDispatch r kernel work slots s
  | .unitComplete r ops last => keep_execUnitComplete r ops last s
  | .preemptionPoint r point => keep_execPreemptionPoint r point s
  | .passComplete st core slot bad => keep_execPassComplete st core slot bad s
  | .stepCommit index logits draft => keep_execStepCommit index logits draft s
  | .stackCoreFault st core => keep_execStackCoreFault st core s
  | .deadlineMiss index => keep_execDeadlineMiss index s
  | .leaseEpochTick => keep_execLeaseEpochTick s
  | .leaseExpiry slot => keep_execLeaseExpiry slot s
  | .pageReclaim granule => keep_execPageReclaim granule s
  | .prefixInsert index block => keep_execPrefixInsert index block s
  | .pressureEviction st => keep_execPressureEviction st s
  | .drop index => keep_execDrop index s
  | .preempt index => keep_execPreempt index s
  | .restore index => keep_execRestore index s
  | .restoreComplete index => keep_execRestoreComplete index s
  | .recompute index => keep_execRecompute index s
  | .gcCollect nand => keep_execGcCollect nand s
  | .fold nand => keep_execFold nand s
  | .slateScrub corrected uncorrectable => keep_execSlateScrub corrected uncorrectable s
  | .keepalive => keep_execKeepalive s
  | .feedBind m f b => keep_execFeedBind m f b s
  | .feedUnbind m f b => keep_execFeedUnbind m f b s
  | .feedResource m f b => keep_execFeedResource m f b s
  | .feedSeal m f body => keep_execFeedSeal m f body s
  | .feedPower m f source target limit => keep_execFeedPower m f source target limit s
  | .feedKeepalive m f => keep_execFeedKeepalive m f s
  | .silent m => keep_execSilent m s
  | .interval m lowWatts highWatts lowMv highMv => keep_execInterval m lowWatts highWatts lowMv highMv s
  | .tamper m segment => keep_execTamper m segment s
  | .meterFault m cause => keep_execMeterFault m cause s
  | .laneStatusFrame m => keep_execLaneStatusFrame m s
  | .recordCopy r => keep_execRecordCopy r s
  | .recordLaneSilent => keep_execRecordLaneSilent s
  | .mtrVaux3Loss m => keep_execMtrVaux3Loss m s
  | .mtrVaux3Return => keep_execMtrVaux3Return s
  | .identity m => keep_execIdentity m s
  | .i3cStatus m => keep_execI3cStatus m s
  | .pointer m recordNo => keep_execPointer m recordNo s
  | .record m => keep_execRecord m s
  | .certificate m => keep_execCertificate m s
  | .mark m bytes => keep_execMark m bytes s
  | .entdaa m address => keep_execEntdaa m address s
  | .setdasa m static address => keep_execSetdasa m static address s
  | .getpid m => keep_execGetpid m s
  | .getbcr m => keep_execGetbcr m s
  | .getdcr m => keep_execGetdcr m s
  | .getstatus m => keep_execGetstatus m s
  | .enec m events => keep_execEnec m events s
  | .enum h next => keep_execEnum h next s
  | .getId h => keep_execGetId h s
  | .setMember h trayId member twin enrolled => keep_execSetMember h trayId member twin enrolled s
  | .announce h states => keep_execAnnounce h states s
  | .powerOn h => keep_execPowerOn h s
  | .powerOff h => keep_execPowerOff h s
  | .chainReset h kind => keep_execChainReset h kind s
  | .fence h => keep_execFence h s
  | .fenced h target outcome => keep_execFenced h target outcome s
  | .status h => keep_execStatus h s
  | .departAnswer h => keep_execDepartAnswer h s
  | .chainForward h bytes => keep_execChainForward h bytes s
  | .chainRingSilent => keep_execChainRingSilent s
  | .heartbeatSend => keep_execHeartbeatSend s
  | .heartbeatLoss => keep_execHeartbeatLoss s
  | .fenceWaitExpiry => keep_execFenceWaitExpiry s
  | .fenceTimeout => keep_execFenceTimeout s
  | .mirrorAcknowledgement mseq => keep_execMirrorAcknowledgement mseq s
  | .departureComplete => keep_execDepartureComplete s
  | .powerEnRise => keep_execPowerEnRise s
  | .powerEnFall => keep_execPowerEnFall s
  | .vin56Low millivolts => keep_execVin56Low millivolts s
  | .vin56Under millivolts => keep_execVin56Under millivolts s
  | .vin56Over millivolts => keep_execVin56Over millivolts s
  | .vin56InRange millivolts => keep_execVin56InRange millivolts s
  | .vaux3Loss => keep_execVaux3Loss s
  | .vaux3Return => keep_execVaux3Return s
  | .throttling d reading => keep_execThrottling d reading s
  | .throttlingEnd d reading => keep_execThrottlingEnd d reading s
  | .boundsNotGuaranteed d reading => keep_execBoundsNotGuaranteed d reading s
  | .thermalTrip d reading => keep_execThermalTrip d reading s
  | .stackRefreshRate st reading => keep_execStackRefreshRate st reading s
  | .greyIdle r => keep_execGreyIdle r s
  | .wakeTime => keep_execWakeTime s
  | .refclkLoss => keep_execRefclkLoss s
  | .refclkReturn => keep_execRefclkReturn s
  | .pacingChange on => keep_execPacingChange on s
  | .charcoalEntryComplete => keep_execCharcoalEntryComplete s
  | .charcoalExitComplete => keep_execCharcoalExitComplete s
  | .perst => keep_execPerst s
  | .hotReset => keep_execHotReset s
  | .linkDisable => keep_execLinkDisable s
  | .functionLevelReset => keep_execFunctionLevelReset s
  | .dlUpLoss => keep_execDlUpLoss s
  | .dlUpReturn speed width flit => keep_execDlUpReturn speed width flit s
  | .busMasterEnable enabled d3hot => keep_execBusMasterEnable enabled d3hot s
  | .configurationRequest a => keep_execConfigurationRequest a s
  | .hostReadCompletion use result => keep_execHostReadCompletion use result s
  | .poisonedWrite bar => keep_execPoisonedWrite bar s
  | .malformedTlp kind => keep_execMalformedTlp kind s
  | .coalesceUsExpiry t => keep_execCoalesceUsExpiry t s
  | .powerUpStart facts => keep_execPowerUpStart facts s
  | .packageLoadComplete read => keep_execPackageLoadComplete read s
  | .domainScanComplete => keep_execDomainScanComplete s
  | .ethernetPortUp p rate => keep_execEthernetPortUp p rate s
  | .ethernetPortDown p => keep_execEthernetPortDown p s

end Sys2Proof.Machine
end

