-- ==== Sys2Proof/Laws/Held.lean ====
section
/-! SUPPORT. What the end of a command leaves held for the Mirror (R499). -/

namespace Sys2Proof.Machine

open Sys2Proof

/-- The parts of the twin that decide what is held. -/
structure SameHold (s t : State) : Prop where
  held : t.twn.held = s.twn.held
  newHeld : t.twn.newHeld = s.twn.newHeld
  applied : t.twn.applied = s.twn.applied
  role : t.twn.role = s.twn.role
  state : t.twn.state = s.twn.state

theorem SameHold.refl (s : State) : SameHold s s := ⟨rfl, rfl, rfl, rfl, rfl⟩

theorem SameHold.trans {s t u : State} (h : SameHold s t) (k : SameHold t u) : SameHold s u :=
  ⟨k.held.trans h.held, k.newHeld.trans h.newHeld, k.applied.trans h.applied, k.role.trans h.role, k.state.trans h.state⟩

theorem SameHold.of {s t : State} (h : t.twn = s.twn) : SameHold s t := by
  constructor <;> rw [h]

theorem SameHold.mirrors {s t : State} (h : SameHold s t) : mirrors t = mirrors s := by
  unfold Machine.mirrors
  rw [h.role, h.state]

theorem sameHold_sendRecord (s : State) (last : Bool) (b : MirrorBody) : SameHold s (sendRecord s last b) := by
  unfold sendRecord
  extract_lets n _ r
  have h : SameHold s r.2 := by
    have k := (keep_pick { s with twn := { s.twn with sent := n } } (mirrorPorts s)).twn.resolve_left (by decide)
    exact SameHold.trans (t := { s with twn := { s.twn with sent := n } }) ⟨rfl, rfl, rfl, rfl, rfl⟩ (.of k)
  clear_value r
  split
  · exact h.trans (.of ((keep_enqueue _ _ _).twn.resolve_left (by decide)))
  · exact h

theorem sameHold_sendChange (s : State) (l : List MirrorBody) : SameHold s (sendChange s l) := by
  induction l generalizing s with
  | nil => exact .refl s
  | cons b l ih =>
    cases l with
    | nil => exact sameHold_sendRecord s true b
    | cons c l => exact (sameHold_sendRecord s false b).trans (ih _)

theorem sameHold_writeCompletion (s : State) (t : Nat) (r : Completion) : SameHold s (writeCompletion s t r) := by
  unfold writeCompletion
  extract_lets q last s1 s2
  have h1 : SameHold s s2 := by
    refine SameHold.trans (t := s1) (.of rfl) (.of ?_)
    exact (keep_postRecord _ _ _ _).twn.resolve_left (by decide)
  have h2 : SameHold s2 (noteWritten s2 t q.cqSeq) := by
    unfold noteWritten
    split
    · exact ⟨rfl, rfl, rfl, rfl, rfl⟩
    · exact .refl _
  exact (h1.trans h2).trans (.of ((keep_countRecord _ _).twn.resolve_left (by decide)))

theorem sameHold_flushRecords (t : Nat) (l : List RecordOut) (acc : State × List RecordOut) :
    SameHold acc.1 (l.foldl (flushRecord t) acc).1 := by
  induction l generalizing acc with
  | nil => exact .refl _
  | cons r l ih =>
    refine SameHold.trans ?_ (ih _)
    cases r with
    | completion c =>
      unfold flushRecord
      dsimp only
      split
      · exact .refl _
      · exact sameHold_writeCompletion _ _ _
    | token k =>
      unfold flushRecord
      dsimp only
      split
      · exact .refl _
      · exact .of ((keep_writeToken _ _ _).twn.resolve_left (by decide))

theorem sameHold_flushWith (s : State) (t : Nat) (new : List RecordOut) : SameHold s (flushWith s t new) := by
  unfold flushWith
  extract_lets all q r
  have h : SameHold s r.1 := SameHold.trans (t := setQueues s t { queuesOf s t with waiting := [] }) (.of rfl)
    (sameHold_flushRecords t all (_, []))
  refine h.trans (.of ?_)
  exact (Keep.foldl (Keep.comp (Keep.refl 2048 _) (keep_setQueues _ _ _) rfl)
    (fun u n => keep_markNotice _ _ _)).twn.resolve_left (by decide)

/-- Letting something go leaves all else that is held, the role and the state of the twin. -/
theorem sameHold_letGo (s : State) (o : HeldOut) : SameHold s (letGo s o) := by
  cases o with
  | record t r => exact sameHold_flushWith s t [r]
  | rst m => exact .of ((keep_transmit s m).twn.resolve_left (by decide))

/-- Letting go stops at what the Mirror has not applied. -/
theorem releaseHeld_spec (n : Nat) (s : State) (h : s.twn.held.length ≤ n) :
    (releaseHeld n s).twn.newHeld = s.twn.newHeld ∧ mirrors (releaseHeld n s) = mirrors s ∧
      ∀ e, (releaseHeld n s).twn.held.head? = some e → (releaseHeld n s).twn.applied < e.1 := by
  induction n generalizing s with
  | zero =>
    have e : s.twn.held = [] := List.length_eq_zero_iff.1 (by omega)
    refine ⟨rfl, rfl, ?_⟩
    intro x hx
    unfold releaseHeld at hx
    rw [e] at hx
    cases hx
  | succ n ih =>
    unfold releaseHeld
    split
    · next e =>
      refine ⟨rfl, rfl, ?_⟩
      intro x hx
      rw [e] at hx
      cases hx
    · next m o rest e =>
      split
      · next hlt =>
        refine ⟨rfl, rfl, ?_⟩
        intro x hx
        rw [e] at hx
        cases hx
        exact hlt
      · have t := sameHold_letGo { s with twn := { s.twn with held := rest } } o
        have l : (letGo { s with twn := { s.twn with held := rest } } o).twn.held.length ≤ n := by
          rw [t.held]
          rw [e] at h
          simpa using h
        obtain ⟨a, b, c⟩ := ih _ l
        exact ⟨a.trans t.newHeld, b.trans t.mirrors, c⟩

theorem sameHold_foldl (l : List HeldOut) (s : State) : SameHold s (l.foldl letGo s) := by
  induction l generalizing s with
  | nil => exact .refl s
  | cons o l ih => exact (sameHold_letGo s o).trans (ih _)

/-- After every command, what is held waits for the Mirror. -/
theorem holdOk_mirrorChange (s0 s : State) : Safety.HoldOk (mirrorChange s0 s) := by
  unfold mirrorChange
  split
  · next hm =>
    have hm' : mirrors s = false := by simpa using hm
    split
    · next he =>
      simp only [Bool.and_eq_true, List.isEmpty_iff] at he
      refine ⟨he.1.2, fun _ => he.1.1, ?_⟩
      intro e h
      rw [he.1.1] at h
      cases h
    · unfold releaseAll
      extract_lets l _
      have t := sameHold_foldl l { s with twn := { s.twn with held := [], newHeld := [], written := [] } }
      refine ⟨t.newHeld, fun _ => t.held, ?_⟩
      intro e h
      rw [t.held] at h
      cases h
  · next hm =>
    have hm' : mirrors s = true := by simpa using hm
    extract_lets pages s1 _ s2 s3
    have hk : ∀ u g, SameHold u (markMirrored u g) := fun _ _ => ⟨rfl, rfl, rfl, rfl, rfl⟩
    have h1 : SameHold s s1 :=
      (sameHold_sendChange s (changeBodies s0 s ++ completionBodies s.twn.newHeld)).trans (hk _ _)
    have h1m := h1.mirrors.trans hm'
    clear h1
    clear_value s1
    have h2 : s2.twn.newHeld = [] := rfl
    have h2m : mirrors s2 = true := h1m
    have h3 := releaseHeld_spec s2.twn.held.length s2 (Nat.le_refl _)
    change s3.twn.newHeld = _ ∧ mirrors s3 = _ ∧ (∀ e, s3.twn.held.head? = some e → s3.twn.applied < e.1) at h3
    clear_value s3
    have h4 := SameHold.trans (t := { s3 with twn := { s3.twn with written := [] } }) ⟨rfl, rfl, rfl, rfl, rfl⟩
      (sameHold_sendChange { s3 with twn := { s3.twn with written := [] } } (confirmBodies s3))
    obtain ⟨a, b, c⟩ := h3
    refine ⟨h4.newHeld.trans (a.trans h2), fun hf => ?_, ?_⟩
    · have hf' : mirrors s3 = false := h4.mirrors.symm.trans hf
      rw [b, h2m] at hf'
      cases hf'
    · intro e he
      rw [h4.held] at he
      rw [h4.applied]
      exact c e he

/-- The end of a command leaves nothing held that should not be. -/
theorem holdOk_finish (s0 s : State) : Safety.HoldOk (finish s0 s) := holdOk_mirrorChange s0 _

end Sys2Proof.Machine
end

