-- ==== Sys2Proof/Laws/Pressed.lean ====
section
/-! SUPPORT. What the end of a command leaves shown as capacity pressure (R349, R350). -/

namespace Sys2Proof.Machine

open Sys2Proof

theorem testBit_foldl_pow (l : List Nat) (b i : Nat) :
    (l.foldl (fun b st => b ||| 2 ^ st) b).testBit i = (b.testBit i || decide (i ∈ l)) := by
  induction l generalizing b with
  | nil => simp
  | cons a l ih =>
    rw [List.foldl_cons, ih, Nat.testBit_or, Nat.testBit_two_pow, Bool.or_assoc]
    congr 1
    by_cases h : a = i
    · simp [h]
    · have h' : i ≠ a := fun e => h e.symm
      simp [h, h']

/-- A bit of the composition's own pressure. -/
theorem testBit_ownPressure (s : State) (c : Nat) (x : Composition) (old st : Nat) (hr : x.role = .prompt ∨ x.role = .generation)
    (hf : x.fixed.isSome = true) (h32 : st < 32) (hm : x.stackMask.testBit st = true) :
    (ownPressure s c x old).testBit st =
      (decide (slotsLeft s x st < if old.testBit st then max (getF s (F.stkCapWm.low.at c) + 1) (getF s (F.stkCapWm.high.at c))
        else getF s (F.stkCapWm.low.at c)) || allocWaits s c st) := by
  have hn : (x.role == .cache || x.fixed.isNone) = false := by
    rcases hr with h | h <;> rw [h] <;> simp [Option.isNone_eq_false_iff, hf]
  have hs : st ∈ shareStacks x := by
    unfold shareStacks
    rw [List.mem_filter]
    exact ⟨List.mem_range.2 h32, hm⟩
  unfold ownPressure
  rw [hn]
  simp only [Bool.false_eq_true, if_false, testBit_foldl_pow, Nat.zero_testBit, Bool.false_or, List.mem_filter, hs, true_and]
  by_cases h : old.testBit st = true
  · rw [if_pos h, if_pos h]
    exact Bool.decide_eq_true
  · rw [if_neg h, if_neg h]
    exact Bool.decide_eq_true

/-- What pressure depends on, and what showing it leaves alone. -/
structure SameStk (s t : State) : Prop where
  comps : t.sch = s.sch
  rqt : ∀ i, (entryOf t i).composition = (entryOf s i).composition
  stk : t.stk = { s.stk with pressed := t.stk.pressed }
  field : ∀ f : Field, f.isQuiet = true → getF t f = getF s f

theorem SameStk.refl (s : State) : SameStk s s := ⟨rfl, fun _ => rfl, rfl, fun _ _ => rfl⟩

theorem SameStk.trans {s t u : State} (h : SameStk s t) (k : SameStk t u) : SameStk s u where
  comps := k.comps.trans h.comps
  rqt := fun i => (k.rqt i).trans (h.rqt i)
  stk := by have a := k.stk; rw [h.stk] at a; exact a
  field := fun f hf => (k.field f hf).trans (h.field f hf)

theorem Told.sameStk {s t : State} (h : Told s t) : SameStk s t where
  comps := h.sch
  rqt := fun i => by rw [h.entry i]
  stk := by rw [h.stk]
  field := fun f hf => h.field f (isQuiet_isTold hf)

theorem SameStk.slots {s t : State} (h : SameStk s t) (x : Composition) (st : Nat) : slotsLeft t x st = slotsLeft s x st := by
  unfold slotsLeft pageOf
  rw [h.stk]

theorem SameStk.waits {s t : State} (h : SameStk s t) (c st : Nat) : allocWaits t c st = allocWaits s c st := by
  unfold allocWaits
  simp only [h.rqt]
  rw [h.stk]

theorem SameStk.comp {s t : State} (h : SameStk s t) (c : Nat) : compOf t c = compOf s c := by
  unfold compOf
  rw [h.comps]

theorem SameStk.units {s t : State} (h : SameStk s t) : freeUnits t = freeUnits s := by
  unfold freeUnits
  rw [h.stk, h.field _ (by decide)]

theorem isQuiet_wm (c : Nat) (h : c < 256) :
    (F.stkCapWm.low.at c).isQuiet = true ∧ (F.stkCapWm.high.at c).isQuiet = true := by
  have a : (F.stkCapWm.low.at c).key = (0x004a1000 + 8 * c) * 64 + 0 := rfl
  have b : (F.stkCapWm.high.at c).key = (0x004a1000 + 8 * c) * 64 + 32 := rfl
  have r : F.codStats.rawBlocks.key = F.codStats.rawBlocks.off * 64 + F.codStats.rawBlocks.lo := rfl
  have d : F.codStats.codedBlocks.key = F.codStats.codedBlocks.off * 64 + F.codStats.codedBlocks.lo := rfl
  have x : F.codStats.rawBlocks.off = 0x00800000 + (F.codStats.rawBlocks.off - 0x00800000) := by decide
  have y : F.codStats.codedBlocks.off = 0x00800000 + (F.codStats.codedBlocks.off - 0x00800000) := by decide
  constructor
  · simp only [Field.isQuiet, Field.isTold, a, r, d, Bool.and_eq_true, Bool.or_eq_true, decide_eq_true_eq, bne_iff_ne]
    omega
  · simp only [Field.isQuiet, Field.isTold, b, r, d, Bool.and_eq_true, Bool.or_eq_true, decide_eq_true_eq, bne_iff_ne]
    omega

/-- The field of composition `c`. -/
theorem pressure_key (c : Nat) : (F.stkCapPressure.stacks.at c).key = (0x004a2000 + 8 * c) * 64 + 0 := rfl

theorem isTold_pressure (c : Nat) (h : c < 256) : (F.stkCapPressure.stacks.at c).isTold = true := by
  have r : F.codStats.rawBlocks.key = F.codStats.rawBlocks.off * 64 + F.codStats.rawBlocks.lo := rfl
  have d : F.codStats.codedBlocks.key = F.codStats.codedBlocks.off * 64 + F.codStats.codedBlocks.lo := rfl
  have x : F.codStats.rawBlocks.off = 0x00800000 + (F.codStats.rawBlocks.off - 0x00800000) := by decide
  have y : F.codStats.codedBlocks.off = 0x00800000 + (F.codStats.codedBlocks.off - 0x00800000) := by decide
  simp only [Field.isTold, pressure_key, r, d, Bool.and_eq_true, bne_iff_ne]
  omega

theorem sameStk_showPressure (s : State) (c own bits : Nat) (h : c < 256) : SameStk s (showPressure s c own bits) := by
  have f := finished_showPressure s c own bits h
  refine ⟨f.told.sch, fun i => ?_, ?_, f.field⟩
  · have e := congrArg Entry.composition (f.told.entry i)
    exact e
  · unfold showPressure
    dsimp only
    split
    · unfold notify signal
      split
      · split <;> rfl
      · rfl
    · rfl

/-- What `showPressure` shows. -/
theorem showPressure_spec (s : State) (c own bits c' : Nat) (h' : c' < 256) :
    getF (showPressure s c own bits) (F.stkCapPressure.stacks.at c') =
        (if c' = c then bits % 2 ^ 32 else getF s (F.stkCapPressure.stacks.at c')) ∧
      tabGet 0 (showPressure s c own bits).stk.pressed c' = (if c' = c then own else tabGet 0 s.stk.pressed c') ∧
      (showPressure s c own bits).stk.manifestPressure = s.stk.manifestPressure := by
  unfold showPressure
  extract_lets old _ s1
  have a : getF s1 (F.stkCapPressure.stacks.at c') =
      (if c' = c then bits % 2 ^ 32 else getF s (F.stkCapPressure.stacks.at c')) := by
    by_cases e : c' = c
    · rw [if_pos e, e]
      exact getF_putF_self _ _ _
    · rw [if_neg e]
      refine (getF_putF_other _ _ _ _ ?_).trans rfl
      rw [pressure_key, pressure_key]
      omega
  have b : tabGet 0 s1.stk.pressed c' = (if c' = c then own else tabGet 0 s.stk.pressed c') := tabGet_put _ _ _ _ _
  have d : s1.stk.manifestPressure = s.stk.manifestPressure := rfl
  clear_value s1
  split
  · have k := told_notify s1 F.stkCapCtl.notifyEnable F.stkCapCtl.vector
    rw [k.field _ (isTold_pressure c' h'), k.stk]
    exact ⟨a, b, d⟩
  · exact ⟨a, b, d⟩

/-- The bits that a bound composition shows. -/
def pressBits (s : State) (c : Nat) (x : Composition) : Nat :=
  if s.stk.manifestPressure && x.role == .generation then ownPressure s c x (tabGet 0 s.stk.pressed c) ||| x.stackMask
  else ownPressure s c x (tabGet 0 s.stk.pressed c)

theorem SameStk.own {s t : State} (h : SameStk s t) (c : Nat) (x : Composition) (old : Nat) (hc : c < 256) :
    ownPressure t c x old = ownPressure s c x old := by
  unfold ownPressure
  simp only [h.slots, h.waits, h.field _ (isQuiet_wm c hc).1, h.field _ (isQuiet_wm c hc).2]

theorem pressComp_spec (s : State) (c c' : Nat) (h : c < 256) (h' : c' < 256) :
    SameStk s (pressComp s c) ∧ (pressComp s c).stk.manifestPressure = s.stk.manifestPressure ∧
      (c' ≠ c → getF (pressComp s c) (F.stkCapPressure.stacks.at c') = getF s (F.stkCapPressure.stacks.at c') ∧
        tabGet 0 (pressComp s c).stk.pressed c' = tabGet 0 s.stk.pressed c') ∧
      ∀ x, compOf s c = some x → getF (pressComp s c) (F.stkCapPressure.stacks.at c) = pressBits s c x % 2 ^ 32 := by
  unfold pressComp
  split
  · next e =>
    obtain ⟨a, b, d⟩ := showPressure_spec s c 0 0 c' h'
    refine ⟨sameStk_showPressure s c _ _ h, d, fun hn => ?_, fun x hx => ?_⟩
    · rw [if_neg hn] at a b
      exact ⟨a, b⟩
    · rw [e] at hx
      cases hx
  · next x e =>
    dsimp only
    obtain ⟨a, b, d⟩ := showPressure_spec s c (ownPressure s c x (tabGet 0 s.stk.pressed c)) (pressBits s c x) c' h'
    refine ⟨sameStk_showPressure s c _ _ h, d, fun hn => ?_, fun y hy => ?_⟩
    · rw [if_neg hn] at a b
      exact ⟨a, b⟩
    · rw [e] at hy
      cases hy
      obtain ⟨a', -, -⟩ := showPressure_spec s c (ownPressure s c x (tabGet 0 s.stk.pressed c)) (pressBits s c x) c h
      rw [if_pos rfl] at a'
      exact a'

theorem foldl_pressComp (l : List Nat) (hl : l.Nodup) (hb : ∀ c ∈ l, c < 256) (s : State) :
    SameStk s (l.foldl pressComp s) ∧ (l.foldl pressComp s).stk.manifestPressure = s.stk.manifestPressure ∧
      (∀ c, c < 256 → c ∉ l →
        getF (l.foldl pressComp s) (F.stkCapPressure.stacks.at c) = getF s (F.stkCapPressure.stacks.at c)) ∧
      ∀ c x, c ∈ l → compOf s c = some x →
        getF (l.foldl pressComp s) (F.stkCapPressure.stacks.at c) = pressBits s c x % 2 ^ 32 := by
  induction l generalizing s with
  | nil => exact ⟨.refl s, rfl, fun _ _ _ => rfl, fun c x h => by cases h⟩
  | cons a l ih =>
    have ha : a < 256 := hb a (List.mem_cons_self ..)
    have hn := List.nodup_cons.1 hl
    obtain ⟨i1, i2, i3, i4⟩ := ih hn.2 (fun c hc => hb c (List.mem_cons_of_mem _ hc)) (pressComp s a)
    have p := pressComp_spec s a a ha ha
    refine ⟨p.1.trans i1, i2.trans p.2.1, ?_, ?_⟩
    · intro c hc hm
      have hca : c ≠ a := fun e => hm (e ▸ List.mem_cons_self ..)
      exact (i3 c hc (fun h => hm (List.mem_cons_of_mem _ h))).trans ((pressComp_spec s a c ha hc).2.2.1 hca).1
    · intro c x hc hx
      rcases List.mem_cons.1 hc with e | hm
      · subst e
        exact (i3 c ha hn.1).trans (p.2.2.2 x hx)
      · have hc' : c < 256 := hb c hc
        have hca : c ≠ a := fun e => hn.1 (e ▸ hm)
        have q := pressComp_spec s a c ha hc'
        have k := i4 c x hm ((p.1.comp c).trans hx)
        have e1 : pressBits (pressComp s a) c x = pressBits s c x := by
          unfold pressBits
          rw [(q.2.2.1 hca).2, p.2.1, p.1.own c x _ hc']
        exact k.trans (by rw [e1])

theorem mem_keys_of_get {α : Type} (d : α) (m : Tab α) (k : Nat) (v : α) (h : tabGet d m k = v) (hv : v ≠ d) :
    k ∈ m.map (·.1) := by
  induction m with
  | nil =>
    exact absurd h.symm hv
  | cons e m ih =>
    obtain ⟨j, w⟩ := e
    by_cases hj : j = k
    · exact List.mem_cons.2 (.inl hj.symm)
    · refine List.mem_cons_of_mem _ (ih ?_)
      unfold tabGet at h
      simpa [hj] using h

/-- After the update of pressure, the register of every bound composition shows it. -/
theorem pressureOk_update (s : State) : Safety.PressureOk (updatePressure s) := by
  intro c x st hc hx hf hr h32 hm
  unfold updatePressure at hx ⊢
  dsimp only at hx ⊢
  split at hx
  · next he =>
    exfalso
    have k := mem_keys_of_get none s.sch.comps c (some x) hx (by simp)
    rw [List.isEmpty_iff] at he
    have : c ∈ (((s.sch.comps.map (·.1) ++ (s.stk.pressed.map (·.1)).filter (fun c => (compOf s c).isNone)).dedup).filter
        (fun c => decide (c < 256))) := by
      rw [List.mem_filter, List.mem_dedup]
      exact ⟨List.mem_append_left _ k, by simpa using hc⟩
    rw [he] at this
    cases this
  · next he =>
    rw [if_neg he]
    generalize hl : ((s.sch.comps.map (·.1) ++ (s.stk.pressed.map (·.1)).filter (fun c => (compOf s c).isNone)).dedup).filter
        (fun c => decide (c < 256)) = l at hx he ⊢
    have hd : l.Nodup := hl ▸ (List.nodup_dedup _).filter _
    have hb : ∀ c ∈ l, c < 256 := by
      intro c h
      rw [← hl, List.mem_filter] at h
      simpa using h.2
    obtain ⟨i1, i2, -, i4⟩ := foldl_pressComp l hd hb { s with stk := { s.stk with manifestPressure := manifestShort s } }
    have hx' : compOf { s with stk := { s.stk with manifestPressure := manifestShort s } } c = some x := by
      rw [← i1.comp c]
      exact hx
    have hmem : c ∈ l := by
      have k := mem_keys_of_get none s.sch.comps c (some x) hx' (by simp)
      rw [← hl, List.mem_filter, List.mem_dedup]
      exact ⟨List.mem_append_left _ k, by simpa using hc⟩
    have hbits := i4 c x hmem hx'
    rw [Safety.shown, hbits, Nat.testBit_mod_two_pow, decide_eq_true h32, Bool.true_and]
    rw [i1.slots, i1.waits, i1.units, i1.field _ (isQuiet_wm c hc).1, i1.field _ (isQuiet_wm c hc).2,
      i1.field F.stkCapCtl.manifestLow (by decide), i1.stk]
    have hown := testBit_ownPressure { s with stk := { s.stk with manifestPressure := manifestShort s } } c x
      (tabGet 0 s.stk.pressed c) st hr hf h32 hm
    generalize hq : ({ s with stk := { s.stk with manifestPressure := manifestShort s } } : State) = q at *
    have hmp : q.stk.manifestPressure = manifestShort s := by rw [← hq]
    have hun : freeUnits q = freeUnits s := by rw [← hq]; rfl
    have hlo : getF q F.stkCapCtl.manifestLow = getF s F.stkCapCtl.manifestLow := by rw [← hq]; rfl
    have hwa : q.stk.waits = s.stk.waits := by rw [← hq]
    have hpr : q.stk.pressed = s.stk.pressed := by rw [← hq]
    unfold pressBits
    rw [hpr, hmp]
    have hor : (if manifestShort s && x.role == .generation then ownPressure q c x (tabGet 0 s.stk.pressed c) ||| x.stackMask
        else ownPressure q c x (tabGet 0 s.stk.pressed c)).testBit st =
        ((manifestShort s && x.role == .generation) || (ownPressure q c x (tabGet 0 s.stk.pressed c)).testBit st) := by
      split
      · next hg => rw [Nat.testBit_or, hm, hg, Bool.or_true, Bool.true_or]
      · next hg =>
        have : (manifestShort s && x.role == .generation) = false := by simpa using hg
        rw [this, Bool.false_or]
    rw [hor, hown]
    refine ⟨?_, ?_, ?_⟩
    · intro h
      rw [Bool.or_eq_true, Bool.or_eq_true]
      right
      rcases h with h | h
      · left
        rw [decide_eq_true_eq]
        split <;> omega
      · exact .inr h
    · intro hg h
      rw [hun, hlo] at h
      rw [Bool.or_eq_true]
      left
      rw [hg]
      unfold manifestShort
      simp only [beq_self_eq_true, Bool.and_true, Bool.or_eq_true]
      right
      split <;> · rw [decide_eq_true_eq]; omega
    · intro h1 h2 h3
      rw [Bool.or_eq_false_iff, Bool.or_eq_false_iff]
      refine ⟨?_, ?_, h2⟩
      · rcases hr with hr | hr
        · rw [hr]
          exact Bool.and_false _
        · obtain ⟨a, b⟩ := h3 hr
          rw [hun, hlo] at a
          rw [hwa] at b
          have : manifestShort s = false := by
            unfold manifestShort
            simp only [b, Bool.false_or]
            split <;> · rw [decide_eq_false_iff_not]; omega
          rw [this]
          rfl
      · rw [decide_eq_false_iff_not]
        split <;> omega

/-- The end of a command leaves capacity pressure shown as it is. -/
theorem pressureOk_finish (s0 s : State) : Safety.PressureOk (finish s0 s) := by
  have t := told_mirrorChange s0 (updatePressure s)
  have k := t.sameStk
  intro c x st hc hx hf hr h32 hm
  have h := pressureOk_update s c x st hc ((k.comp c).symm.trans hx) hf hr h32 hm
  unfold finish
  rw [Safety.shown, t.field _ (isTold_pressure c hc), k.slots, k.waits, k.units, k.field _ (isQuiet_wm c hc).1,
    k.field _ (isQuiet_wm c hc).2, k.field F.stkCapCtl.manifestLow (by decide), t.stk]
  exact h

end Sys2Proof.Machine
end

