-- ==== Sys2Proof/Laws/Settle.lean ====
section
/-! SUPPORT. How every command ends: in the finish of its effect, with nothing changed, or with its frame or command held (Settles). -/

namespace Sys2Proof.Machine

open Sys2Proof

set_option linter.all false

/-- What a held command or the start of a frame changes: power, the queues of the ports, and what is sent. -/
structure Quietly (s t : State) : Prop where
  keep : Keep 6439012 s t
  field : ∀ f, f.key ≠ F.tmRxStats.fullDiscards.key → getF t f = getF s f

theorem Quietly.of {s t : State} (h : Keep 6439008 s t) : Quietly s t where
  keep := h.mono rfl
  field := fun f _ => by
    have e : t.fields = s.fields := h.fields.resolve_left (by decide)
    unfold getF
    rw [e]

/-- The next state of an outcome has every property that the end of a command gives, that a held command keeps, and that the state
before had. -/
structure Settles (s : State) (o : Host.Outcome State Fault Refusal) : Prop where
  of : ∀ P : State → Prop, (∀ s0 u, P (finish s0 u)) → (∀ a b, Quietly a b → P a → P b) → P s → ∀ t, o = .next t → P t

theorem settles_next {s t : State} (h : Quietly s t) : Settles s (.next t) :=
  ⟨fun _ _ hq hs _ e => by cases e; exact hq _ _ h hs⟩

theorem settles_act (s : State) (taken : Bool) (effect : State → State) : Settles s (act s taken effect) where
  of := by
    intro P hf hq hs t e
    cases taken
    · cases e
      exact hs
    · cases e
      exact hf _ _

theorem settles_actPages (s : State) (taken : Bool) (effect : State → State) : Settles s (actPages s taken effect) :=
  settles_act _ _ _

theorem settles_actAwake (s : State) (taken : Bool) (c : Instr) (effect : State → State) :
    Settles s (actAwake s taken c effect) := by
  unfold actAwake
  split
  · refine settles_next (.of (Keep.mono (v := 32) ?_ rfl))
    constructor <;> first | exact .inr rfl | exact .inl rfl | exact .of rfl rfl rfl rfl rfl rfl rfl
  · exact settles_act _ _ _

theorem keep_held (s : State) (c : Instr) : Keep 6439008 s { s with pwr := { s.pwr with held := s.pwr.held ++ [c] } } := by
  constructor <;> first | exact .inr rfl | exact .inl rfl | exact .of rfl rfl rfl rfl rfl rfl rfl

theorem settles_actDoorbell (s : State) (c : Instr) (effect : State → State) : Settles s (actDoorbell s c effect) := by
  unfold actDoorbell
  split
  · exact settles_next (.of ((keep_held s c).trans ((keep_wakeBy _ _).mono rfl)))
  · exact settles_act _ _ _

theorem settles_actBar4 (s : State) (c : Instr) (effect : State → State) : Settles s (actBar4 s c effect) := by
  unfold actBar4
  split
  · exact settles_next (.of ((keep_held s c).trans ((keep_wakePart _).mono rfl)))
  · exact settles_act _ _ _

theorem quietly_holdFrame (s : State) (c : Instr) (port : PortNo) (cls bytes : Nat) : Quietly s (holdFrame s c port cls bytes) where
  keep := (keep_holdFrame s c port cls bytes).mono rfl
  field := by
    intro f hf
    unfold holdFrame
    dsimp only
    split
    · unfold satF
      split
      · exact getF_putF_other _ _ _ _ hf
      · rfl
    · have h := (keep_wakeBy { s with pwr := { s.pwr with held := s.pwr.held ++ [c] }, tm := { s.tm with received := tabPut 0 s.tm.received (8 * port.val + cls) (receivedBytes s port.val cls + bytes) } } 1).fields
      have e := h.resolve_left (by decide)
      unfold getF
      rw [e]

theorem settles_actFrame (s : State) (taken : Bool) (c : Instr) (port : PortNo) (cls bytes : Nat) (effect : State → State) :
    Settles s (actFrame s taken c port cls bytes effect) := by
  unfold actFrame
  split
  · exact settles_next (quietly_holdFrame s c port cls bytes)
  · exact settles_act _ _ _

theorem settles_actLink (s : State) (f : FrameHeader) (c : Instr) (cls bytes : Nat) (effect : State → State) :
    Settles s (actLink s f c cls bytes effect) := by
  unfold actLink
  dsimp only
  split
  · exact settles_next (.of ((keep_holdLink s c f.port.val cls bytes).mono rfl))
  · exact settles_act _ _ _

theorem settles_rstRow (s : State) (h : RstHeader) (m : RstMsg) (c : Instr) : Settles s (rstRow s h m c) :=
  settles_actFrame _ _ _ _ _ _ _

theorem settles_chainRow (s : State) (h : ChainHead) (bytes : List Byte) (effect : State → State) :
    Settles s (chainRow s h bytes effect) := settles_act _ _ _

theorem settles_actMeter (s : State) (m : MeterStamp) (effect : State → State) : Settles s (actMeter s m effect) :=
  settles_act _ _ _

theorem settles_actFeed (s : State) (m : MeterStamp) (f : FeedHead) (effect : State → State) : Settles s (actFeed s m f effect) :=
  settles_actMeter _ _ _

theorem settles_endpointReset (s : State) (f : Bool) : Settles s (endpointReset s f) := settles_act _ _ _

theorem settles_execEgressFrameStart (p : PortNo) (s : State) : Settles s (execEgressFrameStart p s) := by
  unfold execEgressFrameStart
  split
  · exact settles_next (.of (Keep.comp (Keep.comp (Keep.comp ((keep_retryFrames _ _).mono rfl) (keep_startFrame _ _) rfl)
      (keep_retryFrames _ _) rfl) (keep_leaveEncode _ _) rfl))
  · exact settles_next (.of (Keep.refl _ _))

theorem settles_execHostAdmit (a0 : Tenant) (a1 : HostCommand) (a2 : Option (List Nat)) (a3 : Option AdmitDescriptor) (s : State) : Settles s (execHostAdmit a0 a1 a2 a3 s) := by
  unfold execHostAdmit; exact settles_act _ _ _
theorem settles_execAppend (a0 : Tenant) (a1 : HostCommand) (a2 : Option (List Nat)) (s : State) : Settles s (execAppend a0 a1 a2 s) := by
  unfold execAppend; exact settles_actPages _ _ _
theorem settles_execTruncate (a0 : Tenant) (a1 : HostCommand) (s : State) : Settles s (execTruncate a0 a1 s) := by
  unfold execTruncate; exact settles_actPages _ _ _
theorem settles_execCancel (a0 : Tenant) (a1 : HostCommand) (s : State) : Settles s (execCancel a0 a1 s) := by
  unfold execCancel; exact settles_actPages _ _ _
theorem settles_execPark (a0 : Tenant) (a1 : HostCommand) (s : State) : Settles s (execPark a0 a1 s) := by
  unfold execPark; exact settles_actPages _ _ _
theorem settles_execResume (a0 : Tenant) (a1 : HostCommand) (s : State) : Settles s (execResume a0 a1 s) := by
  unfold execResume; exact settles_actPages _ _ _
theorem settles_execQuery (a0 : Tenant) (a1 : HostCommand) (s : State) : Settles s (execQuery a0 a1 s) := by
  unfold execQuery; exact settles_actPages _ _ _
theorem settles_execRelease (a0 : Tenant) (a1 : HostCommand) (s : State) : Settles s (execRelease a0 a1 s) := by
  unfold execRelease; exact settles_actPages _ _ _
theorem settles_execAllocate (a0 : ObjCommand) (s : State) : Settles s (execAllocate a0 s) := by
  unfold execAllocate; exact settles_act _ _ _
theorem settles_execPublish (a0 : ObjCommand) (s : State) : Settles s (execPublish a0 s) := by
  unfold execPublish; exact settles_act _ _ _
theorem settles_execSeal (a0 : ObjCommand) (s : State) : Settles s (execSeal a0 s) := by
  unfold execSeal; exact settles_act _ _ _
theorem settles_execMove (a0 : ObjCommand) (s : State) : Settles s (execMove a0 s) := by
  unfold execMove; exact settles_act _ _ _
theorem settles_execUnpublish (a0 : ObjCommand) (s : State) : Settles s (execUnpublish a0 s) := by
  unfold execUnpublish; exact settles_act _ _ _
theorem settles_execFree (a0 : ObjCommand) (s : State) : Settles s (execFree a0 s) := by
  unfold execFree; exact settles_act _ _ _
theorem settles_execPin (a0 : ObjCommand) (s : State) : Settles s (execPin a0 s) := by
  unfold execPin; exact settles_act _ _ _
theorem settles_execUnpin (a0 : ObjCommand) (s : State) : Settles s (execUnpin a0 s) := by
  unfold execUnpin; exact settles_act _ _ _
theorem settles_execAdopt (a0 : ObjCommand) (s : State) : Settles s (execAdopt a0 s) := by
  unfold execAdopt; exact settles_act _ _ _
theorem settles_execCopyComplete (a0 : Nat) (a1 : ReadEnd) (a2 : Bool) (a3 : NandReport) (s : State) : Settles s (execCopyComplete a0 a2 s a1 a3) := by
  unfold execCopyComplete; exact settles_act _ _ _
theorem settles_execObjectReclaim (a0 : Nat) (a1 : NandReport) (s : State) : Settles s (execObjectReclaim a0 s a1) := by
  unfold execObjectReclaim; exact settles_act _ _ _
theorem settles_execLoad (a0 : RegionNo) (a1 : Option Nat) (s : State) : Settles s (execLoad a0 a1 s) := by
  unfold execLoad; exact settles_actAwake _ _ _ _
theorem settles_execStart (a0 : RegionNo) (a1 : Option Nat) (s : State) : Settles s (execStart a0 a1 s) := by
  unfold execStart; exact settles_actAwake _ _ _ _
theorem settles_execDrain (a0 : RegionNo) (a1 : Option Nat) (s : State) : Settles s (execDrain a0 a1 s) := by
  unfold execDrain; exact settles_actAwake _ _ _ _
theorem settles_execReload (a0 : RegionNo) (a1 : Option Nat) (s : State) : Settles s (execReload a0 a1 s) := by
  unfold execReload; exact settles_actAwake _ _ _ _
theorem settles_execReset (a0 : RegionNo) (a1 : Option Nat) (s : State) : Settles s (execReset a0 a1 s) := by
  unfold execReset; exact settles_actAwake _ _ _ _
theorem settles_execResetRepair (a0 : RegionNo) (a1 : Option Nat) (s : State) : Settles s (execResetRepair a0 a1 s) := by
  unfold execResetRepair; exact settles_actAwake _ _ _ _
theorem settles_execImageReadComplete (a0 : RegionNo) (a1 : ReadEnd) (s : State) : Settles s (execImageReadComplete a0 a1 s) := by
  unfold execImageReadComplete; exact settles_act _ _ _
theorem settles_execVerifyComplete (a0 : RegionNo) (a1 : Bool) (s : State) : Settles s (execVerifyComplete a0 a1 s) := by
  unfold execVerifyComplete; exact settles_act _ _ _
theorem settles_execDrainComplete (a0 : RegionNo) (s : State) : Settles s (execDrainComplete a0 s) := by
  unfold execDrainComplete; exact settles_act _ _ _
theorem settles_execClusterFault (a0 : RegionNo) (a1 : Fin 256) (a2 : ClusterFaultKind) (s : State) : Settles s (execClusterFault a0 a1 a2 s) := by
  unfold execClusterFault; exact settles_act _ _ _
theorem settles_execFabPkgLoad (a0 : Nat) (s : State) : Settles s (execFabPkgLoad a0 s) := by
  unfold execFabPkgLoad; exact settles_actAwake _ _ _ _
theorem settles_execFabVdcFlush (s : State) : Settles s (execFabVdcFlush s) := by
  unfold execFabVdcFlush; exact settles_actAwake _ _ _ _
theorem settles_execAttach (a0 : Nat) (a1 : CompNo) (s : State) : Settles s (execAttach a0 a1 s) := by
  unfold execAttach; exact settles_actAwake _ _ _ _
theorem settles_execUcodeLoadComplete (a0 : Fin 16) (a1 : ReadEnd) (a2 : Bool) (s : State) : Settles s (execUcodeLoadComplete a0 a1 a2 s) := by
  unfold execUcodeLoadComplete; exact settles_act _ _ _
theorem settles_execDetach (a0 : CompNo) (s : State) : Settles s (execDetach a0 s) := by
  unfold execDetach; exact settles_actAwake _ _ _ _
theorem settles_execDetachComplete (a0 : CompNo) (s : State) : Settles s (execDetachComplete a0 s) := by
  unfold execDetachComplete; exact settles_act _ _ _
theorem settles_execStkUcodeClear (a0 : BitVec 64) (s : State) : Settles s (execStkUcodeClear a0 s) := by
  unfold execStkUcodeClear; exact settles_actAwake _ _ _ _
theorem settles_execXtsLoad (a0 : Fin 1024) (s : State) : Settles s (execXtsLoad a0 s) := by
  unfold execXtsLoad; exact settles_actAwake _ _ _ _
theorem settles_execXtsClear (a0 : Fin 1024) (s : State) : Settles s (execXtsClear a0 s) := by
  unfold execXtsClear; exact settles_actAwake _ _ _ _
theorem settles_execDomainLoad (a0 : Fin 4096) (a1 : Nat) (a2 : Tenant) (s : State) : Settles s (execDomainLoad a0 a1 a2 s) := by
  unfold execDomainLoad; exact settles_actAwake _ _ _ _
theorem settles_execDomainClear (a0 : Fin 4096) (s : State) : Settles s (execDomainClear a0 s) := by
  unfold execDomainClear; exact settles_actAwake _ _ _ _
theorem settles_execDomainUnpin (a0 : Fin 4096) (s : State) : Settles s (execDomainUnpin a0 s) := by
  unfold execDomainUnpin; exact settles_actAwake _ _ _ _
theorem settles_execDomainFlush (a0 : Fin 4096) (s : State) : Settles s (execDomainFlush a0 s) := by
  unfold execDomainFlush; exact settles_actAwake _ _ _ _
theorem settles_execTableLoad (a0 : Fin 4) (a1 : Nat) (s : State) : Settles s (execTableLoad a0 a1 s) := by
  unfold execTableLoad; exact settles_actAwake _ _ _ _
theorem settles_execTableClear (a0 : Fin 4) (s : State) : Settles s (execTableClear a0 s) := by
  unfold execTableClear; exact settles_actAwake _ _ _ _
theorem settles_execGcmLoad (a0 : Fin 256) (s : State) : Settles s (execGcmLoad a0 s) := by
  unfold execGcmLoad; exact settles_actAwake _ _ _ _
theorem settles_execGcmClear (a0 : Fin 256) (s : State) : Settles s (execGcmClear a0 s) := by
  unfold execGcmClear; exact settles_actAwake _ _ _ _
theorem settles_execBind (a0 : CompNo) (a1 : Role) (s : State) : Settles s (execBind a0 a1 s) := by
  unfold execBind; exact settles_actAwake _ _ _ _
theorem settles_execUnbind (a0 : CompNo) (s : State) : Settles s (execUnbind a0 s) := by
  unfold execUnbind; exact settles_actAwake _ _ _ _
theorem settles_execUnbindComplete (a0 : CompNo) (s : State) : Settles s (execUnbindComplete a0 s) := by
  unfold execUnbindComplete; exact settles_act _ _ _
theorem settles_execAddRegions (a0 : CompNo) (s : State) : Settles s (execAddRegions a0 s) := by
  unfold execAddRegions; exact settles_actAwake _ _ _ _
theorem settles_execRemoveRegions (a0 : CompNo) (s : State) : Settles s (execRemoveRegions a0 s) := by
  unfold execRemoveRegions; exact settles_actAwake _ _ _ _
theorem settles_execSet (a0 : Tenant) (a1 : CompNo) (a2 : Nat) (s : State) : Settles s (execSet a0 a1 a2 s) := by
  unfold execSet; exact settles_actAwake _ _ _ _
theorem settles_execRecoverRequest (s : State) : Settles s (execRecoverRequest s) := by
  unfold execRecoverRequest; exact settles_actAwake _ _ _ _
theorem settles_execRecoverFailedPart (s : State) : Settles s (execRecoverFailedPart s) := by
  unfold execRecoverFailedPart; exact settles_actAwake _ _ _ _
theorem settles_execJoin (a0 : TwinRole) (a1 : PeerReport) (s : State) : Settles s (execJoin a0 a1 s) := by
  unfold execJoin; exact settles_actAwake _ _ _ _
theorem settles_execSwitch (s : State) : Settles s (execSwitch s) := by
  unfold execSwitch; exact settles_actAwake _ _ _ _
theorem settles_execHandover (s : State) : Settles s (execHandover s) := by
  unfold execHandover; exact settles_act _ _ _
theorem settles_execSuspend (s : State) : Settles s (execSuspend s) := by
  unfold execSuspend; exact settles_actAwake _ _ _ _
theorem settles_execWarmReset (s : State) : Settles s (execWarmReset s) := by
  unfold execWarmReset; exact settles_act _ _ _
theorem settles_execColdReset (s : State) : Settles s (execColdReset s) := by
  unfold execColdReset; exact settles_act _ _ _
theorem settles_execStage (a0 : Nat) (a1 : ReadEnd) (s : State) : Settles s (execStage a0 a1 s) := by
  unfold execStage; exact settles_actAwake _ _ _ _
theorem settles_execStageComplete (a0 : Bool) (s : State) : Settles s (execStageComplete a0 s) := by
  unfold execStageComplete; exact settles_act _ _ _
theorem settles_execAdvance (s : State) : Settles s (execAdvance s) := by
  unfold execAdvance; exact settles_actAwake _ _ _ _
theorem settles_execKeylistLoad (a0 : Nat) (a1 : ReadEnd) (s : State) : Settles s (execKeylistLoad a0 a1 s) := by
  unfold execKeylistLoad; exact settles_actAwake _ _ _ _
theorem settles_execKeylistClear (s : State) : Settles s (execKeylistClear s) := by
  unfold execKeylistClear; exact settles_actAwake _ _ _ _
theorem settles_execAttest (a0 : Nat) (s : State) : Settles s (execAttest a0 s) := by
  unfold execAttest; exact settles_actAwake _ _ _ _
theorem settles_execEstablish (a0 : Nat) (s : State) : Settles s (execEstablish a0 s) := by
  unfold execEstablish; exact settles_actAwake _ _ _ _
theorem settles_execBurn (s : State) : Settles s (execBurn s) := by
  unfold execBurn; exact settles_actAwake _ _ _ _
theorem settles_execBurnComplete (a0 : Bool) (s : State) : Settles s (execBurnComplete a0 s) := by
  unfold execBurnComplete; exact settles_act _ _ _
theorem settles_execWhite (s : State) : Settles s (execWhite s) := by
  unfold execWhite; exact settles_act _ _ _
theorem settles_execGrey (s : State) : Settles s (execGrey s) := by
  unfold execGrey; exact settles_act _ _ _
theorem settles_execCharcoal (s : State) : Settles s (execCharcoal s) := by
  unfold execCharcoal; exact settles_act _ _ _
theorem settles_execBlack (s : State) : Settles s (execBlack s) := by
  unfold execBlack; exact settles_act _ _ _
theorem settles_execDiscard (a0 : NandReport) (s : State) : Settles s (execDiscard s a0) := by
  unfold execDiscard; exact settles_actAwake _ _ _ _
theorem settles_execFlsLock (a0 : NandId) (s : State) : Settles s (execFlsLock a0 s) := by
  unfold execFlsLock; exact settles_actAwake _ _ _ _
theorem settles_execRebuildComplete (s : State) : Settles s (execRebuildComplete s) := by
  unfold execRebuildComplete; exact settles_act _ _ _
theorem settles_execLockSet (a0 : LockBlock) (s : State) : Settles s (execLockSet a0 s) := by
  unfold execLockSet; exact settles_act _ _ _
theorem settles_execMtrSelect (a0 : Nat) (s : State) : Settles s (execMtrSelect a0 s) := by
  unfold execMtrSelect; exact settles_act _ _ _
theorem settles_execRqtTCtlEnable (a0 : Tenant) (a1 : BitVec 64) (s : State) : Settles s (execRqtTCtlEnable a0 a1 s) := by
  unfold execRqtTCtlEnable; exact settles_act _ _ _
theorem settles_execPortCfgWrite (a0 : RoalePort) (a1 : BitVec 64) (s : State) : Settles s (execPortCfgWrite a0 a1 s) := by
  unfold execPortCfgWrite; exact settles_act _ _ _
theorem settles_execSqTail (a0 : Tenant) (a1 : Nat) (s : State) : Settles s (execSqTail a0 a1 s) := by
  unfold execSqTail; exact settles_actDoorbell _ _ _
theorem settles_execCqHead (a0 : Tenant) (a1 : Nat) (s : State) : Settles s (execCqHead a0 a1 s) := by
  unfold execCqHead; exact settles_actDoorbell _ _ _
theorem settles_execTrHead (a0 : Tenant) (a1 : Nat) (s : State) : Settles s (execTrHead a0 a1 s) := by
  unfold execTrHead; exact settles_actDoorbell _ _ _
theorem settles_execStkObjSqTail (a0 : Nat) (s : State) : Settles s (execStkObjSqTail a0 s) := by
  unfold execStkObjSqTail; exact settles_act _ _ _
theorem settles_execStkObjCqHead (a0 : Nat) (s : State) : Settles s (execStkObjCqHead a0 s) := by
  unfold execStkObjCqHead; exact settles_act _ _ _
theorem settles_execBar4Read (a0 a1 : Nat) (s : State) : Settles s (execBar4Read a0 a1 s) := by
  unfold execBar4Read; exact settles_actBar4 _ _ _
theorem settles_execBar4Write (a0 : Nat) (a1 : List Byte) (s : State) : Settles s (execBar4Write a0 a1 s) := by
  unfold execBar4Write; exact settles_actBar4 _ _ _
theorem settles_execVectorUnmask (a0 : Fin 4160) (s : State) : Settles s (execVectorUnmask a0 s) := by
  unfold execVectorUnmask; exact settles_act _ _ _
theorem settles_execRstOpen (a0 : RstHeader) (a1 : Durability) (a2 : Entry) (a3 : PartAddr) (a4 a5 : Nat) (s : State) : Settles s (execRstOpen a0 a1 a2 a3 a4 a5 s) := by
  unfold execRstOpen; exact settles_rstRow _ _ _ _
theorem settles_execRstOpened (a0 : RstHeader) (s : State) : Settles s (execRstOpened a0 s) := by
  unfold execRstOpened; exact settles_rstRow _ _ _ _
theorem settles_execLogAppend (a0 : RstHeader) (a1 : Nat) (a2 : Entry) (a3 : List LogEntry) (s : State) : Settles s (execLogAppend a0 a1 a2 a3 s) := by
  unfold execLogAppend; exact settles_rstRow _ _ _ _
theorem settles_execLogAck (a0 : RstHeader) (a1 : Nat) (s : State) : Settles s (execLogAck a0 a1 s) := by
  unfold execLogAck; exact settles_rstRow _ _ _ _
theorem settles_execPublishBlock (a0 : RstHeader) (a1 : Nat) (a2 : PagePayload) (s : State) : Settles s (execPublishBlock a0 a1 a2 s) := by
  unfold execPublishBlock; exact settles_rstRow _ _ _ _
theorem settles_execPubRef (a0 : RstHeader) (a1 a2 a3 : Nat) (a4 : List Nat) (s : State) : Settles s (execPubRef a0 a1 a2 a3 a4 s) := by
  unfold execPubRef; exact settles_rstRow _ _ _ _
theorem settles_execPubAck (a0 : RstHeader) (a1 : Nat) (s : State) : Settles s (execPubAck a0 a1 s) := by
  unfold execPubAck; exact settles_rstRow _ _ _ _
theorem settles_execPubNeed (a0 : RstHeader) (a1 : Nat) (s : State) : Settles s (execPubNeed a0 a1 s) := by
  unfold execPubNeed; exact settles_rstRow _ _ _ _
theorem settles_execOffer (a0 : RstHeader) (a1 : Nat) (a2 : Entry) (a3 a4 : Nat) (a5 : List LogEntry) (s : State) : Settles s (execOffer a0 a1 a2 a3 a4 a5 s) := by
  unfold execOffer; exact settles_rstRow _ _ _ _
theorem settles_execOfferAck (a0 : RstHeader) (s : State) : Settles s (execOfferAck a0 s) := by
  unfold execOfferAck; exact settles_rstRow _ _ _ _
theorem settles_execPull (a0 : RstHeader) (a1 a2 a3 : Nat) (s : State) : Settles s (execPull a0 a1 a2 a3 s) := by
  unfold execPull; exact settles_rstRow _ _ _ _
theorem settles_execPageData (a0 : RstHeader) (a1 a2 a3 : Nat) (a4 : PagePayload) (s : State) : Settles s (execPageData a0 a1 a2 a3 a4 s) := by
  unfold execPageData; exact settles_rstRow _ _ _ _
theorem settles_execClaim (a0 : RstHeader) (a1 a2 : PartAddr) (s : State) : Settles s (execClaim a0 a1 a2 s) := by
  unfold execClaim; exact settles_rstRow _ _ _ _
theorem settles_execGrant (a0 : RstHeader) (s : State) : Settles s (execGrant a0 s) := by
  unfold execGrant; exact settles_rstRow _ _ _ _
theorem settles_execDeny (a0 : RstHeader) (a1 : PartAddr) (s : State) : Settles s (execDeny a0 a1 s) := by
  unfold execDeny; exact settles_rstRow _ _ _ _
theorem settles_execRstRelease (a0 : RstHeader) (s : State) : Settles s (execRstRelease a0 s) := by
  unfold execRstRelease; exact settles_rstRow _ _ _ _
theorem settles_execWhoOwns (a0 : RstHeader) (s : State) : Settles s (execWhoOwns a0 s) := by
  unfold execWhoOwns; exact settles_rstRow _ _ _ _
theorem settles_execOwnerIs (a0 : RstHeader) (a1 : PartAddr) (s : State) : Settles s (execOwnerIs a0 a1 s) := by
  unfold execOwnerIs; exact settles_rstRow _ _ _ _
theorem settles_execRstResume (a0 : RstHeader) (s : State) : Settles s (execRstResume a0 s) := by
  unfold execRstResume; exact settles_rstRow _ _ _ _
theorem settles_execRecover (a0 : RstHeader) (a1 : Ledger) (s : State) : Settles s (execRecover a0 a1 s) := by
  unfold execRecover; exact settles_rstRow _ _ _ _
theorem settles_execObjRead (a0 : RstHeader) (a1 a2 : Nat) (s : State) : Settles s (execObjRead a0 a1 a2 s) := by
  unfold execObjRead; exact settles_rstRow _ _ _ _
theorem settles_execObjData (a0 : RstHeader) (a1 a2 : Nat) (a3 : PagePayload) (s : State) : Settles s (execObjData a0 a1 a2 a3 s) := by
  unfold execObjData; exact settles_rstRow _ _ _ _
theorem settles_execClose (a0 : RstHeader) (s : State) : Settles s (execClose a0 s) := by
  unfold execClose; exact settles_rstRow _ _ _ _
theorem settles_execClosed (a0 : RstHeader) (s : State) : Settles s (execClosed a0 s) := by
  unfold execClosed; exact settles_rstRow _ _ _ _
theorem settles_execPfxQuery (a0 : RstHeader) (a1 a2 a3 a4 : Nat) (a5 : List Nat) (s : State) : Settles s (execPfxQuery a0 a1 a2 a3 a4 a5 s) := by
  unfold execPfxQuery; exact settles_rstRow _ _ _ _
theorem settles_execPfxAnswer (a0 : RstHeader) (a1 : Nat) (a2 : List Nat) (s : State) : Settles s (execPfxAnswer a0 a1 a2 s) := by
  unfold execPfxAnswer; exact settles_rstRow _ _ _ _
theorem settles_execRstTransportOnly (a0 : RstHeader) (s : State) : Settles s (execRstTransportOnly a0 s) := by
  unfold execRstTransportOnly; exact settles_actFrame _ _ _ _ _ _ _
theorem settles_execRstRetransmit (a0 : PartAddr) (a1 : Nat) (s : State) : Settles s (execRstRetransmit a0 a1 s) := by
  unfold execRstRetransmit; exact settles_act _ _ _
theorem settles_execOrphanAudit (a0 : Nat) (s : State) : Settles s (execOrphanAudit a0 s) := by
  unfold execOrphanAudit; exact settles_act _ _ _
theorem settles_execOfferResend (a0 : Nat) (s : State) : Settles s (execOfferResend a0 s) := by
  unfold execOfferResend; exact settles_act _ _ _
theorem settles_execWalkDone (a0 : Nat) (s : State) : Settles s (execWalkDone a0 s) := by
  unfold execWalkDone; exact settles_actPages _ _ _
theorem settles_execMemReqLoad (a0 : FrameHeader) (s : State) : Settles s (execMemReqLoad a0 s) := by
  unfold execMemReqLoad; exact settles_actLink _ _ _ _ _ _
theorem settles_execMemReqStore (a0 : FrameHeader) (a1 : List Byte) (s : State) : Settles s (execMemReqStore a0 a1 s) := by
  unfold execMemReqStore; exact settles_actLink _ _ _ _ _ _
theorem settles_execMemReqAdd (a0 : FrameHeader) (a1 : Nat) (s : State) : Settles s (execMemReqAdd a0 a1 s) := by
  unfold execMemReqAdd; exact settles_actLink _ _ _ _ _ _
theorem settles_execMemReqMinS (a0 : FrameHeader) (a1 : Nat) (s : State) : Settles s (execMemReqMinS a0 a1 s) := by
  unfold execMemReqMinS; exact settles_actLink _ _ _ _ _ _
theorem settles_execMemReqMinU (a0 : FrameHeader) (a1 : Nat) (s : State) : Settles s (execMemReqMinU a0 a1 s) := by
  unfold execMemReqMinU; exact settles_actLink _ _ _ _ _ _
theorem settles_execMemReqMaxS (a0 : FrameHeader) (a1 : Nat) (s : State) : Settles s (execMemReqMaxS a0 a1 s) := by
  unfold execMemReqMaxS; exact settles_actLink _ _ _ _ _ _
theorem settles_execMemReqMaxU (a0 : FrameHeader) (a1 : Nat) (s : State) : Settles s (execMemReqMaxU a0 a1 s) := by
  unfold execMemReqMaxU; exact settles_actLink _ _ _ _ _ _
theorem settles_execMemReqSwap (a0 : FrameHeader) (a1 : Nat) (s : State) : Settles s (execMemReqSwap a0 a1 s) := by
  unfold execMemReqSwap; exact settles_actLink _ _ _ _ _ _
theorem settles_execMemReqCas (a0 : FrameHeader) (a1 a2 : Nat) (s : State) : Settles s (execMemReqCas a0 a1 a2 s) := by
  unfold execMemReqCas; exact settles_actLink _ _ _ _ _ _
theorem settles_execMemRsp (a0 : FrameHeader) (a1 : RemoteStatus) (a2 : List Byte) (s : State) : Settles s (execMemRsp a0 a1 a2 s) := by
  unfold execMemRsp; exact settles_act _ _ _
theorem settles_execTensor (a0 : FrameHeader) (a1 a2 : Nat) (a3 : CodedBlock) (s : State) : Settles s (execTensor a0 a1 a2 a3 s) := by
  unfold execTensor; exact settles_actLink _ _ _ _ _ _
theorem settles_execTensorAck (a0 : FrameHeader) (a1 : Nat) (a2 : RemoteStatus) (s : State) : Settles s (execTensorAck a0 a1 a2 s) := by
  unfold execTensorAck; exact settles_act _ _ _
theorem settles_execMirror (a0 : RoalePort) (a1 : List MirrorRecord) (s : State) : Settles s (execMirror a0 a1 s) := by
  unfold execMirror; exact settles_act _ _ _
theorem settles_execHello (a0 : RoalePort) (a1 : Nat) (a2 : Member) (a3 : Nat) (s : State) : Settles s (execHello a0 a1 a2 a3 s) := by
  unfold execHello; exact settles_act _ _ _
theorem settles_execHeartbeat (a0 : RoalePort) (a1 : Member) (a2 : TwinRole) (a3 : TwinState) (a4 a5 : Nat) (s : State) : Settles s (execHeartbeat a0 a1 a2 a3 a4 a5 s) := by
  unfold execHeartbeat; exact settles_act _ _ _
theorem settles_execCtrlDepart (a0 : RoalePort) (a1 : Member) (s : State) : Settles s (execCtrlDepart a0 a1 s) := by
  unfold execCtrlDepart; exact settles_act _ _ _
theorem settles_execFrameForward (a0 : PortNo) (a1 : Member) (a2 : Nat) (a3 : Fin 8) (a4 : Option Nat) (s : State) : Settles s (execFrameForward a0 a1 a2 a3 s a4) := by
  unfold execFrameForward; exact settles_act _ _ _
theorem settles_execPortUp (a0 : RoalePort) (s : State) : Settles s (execPortUp a0 s) := by
  unfold execPortUp; exact settles_act _ _ _
theorem settles_execPortDown (a0 : RoalePort) (s : State) : Settles s (execPortDown a0 s) := by
  unfold execPortDown; exact settles_act _ _ _
theorem settles_execRemoteOpIssue (a0 : RegionNo) (a1 : Fin 16) (a2 : RemoteKind) (a3 a4 a5 : Nat) (a6 : List Byte) (a7 : Option Nat) (s : State) : Settles s (execRemoteOpIssue a0 a1 a2 a3 a4 a5 a6 s a7) := by
  unfold execRemoteOpIssue; exact settles_act _ _ _
theorem settles_execRemoteFence (a0 : RegionNo) (a1 : Fin 16) (s : State) : Settles s (execRemoteFence a0 a1 s) := by
  unfold execRemoteFence; exact settles_act _ _ _
theorem settles_execRetryReissue (a0 : RegionNo) (a1 : Fin 64) (s : State) : Settles s (execRetryReissue a0 a1 s) := by
  unfold execRetryReissue; exact settles_act _ _ _
theorem settles_execReplyTimeout (a0 : RegionNo) (a1 : Fin 64) (s : State) : Settles s (execReplyTimeout a0 a1 s) := by
  unfold execReplyTimeout; exact settles_act _ _ _
theorem settles_execRetryBarrierTimeout (a0 : Member) (a1 : RegionNo) (s : State) : Settles s (execRetryBarrierTimeout a0 a1 s) := by
  unfold execRetryBarrierTimeout; exact settles_act _ _ _
theorem settles_execRegionAccess (a0 : RegionNo) (a1 : Nat) (a2 : List Byte) (a3 : Option RegionNo) (a4 : Bool) (s : State) : Settles s (execRegionAccess a0 a1 a2 s a3 a4) := by
  unfold execRegionAccess; exact settles_act _ _ _
theorem settles_execReadShared (a0 : AgentNo) (a1 : Nat) (s : State) : Settles s (execReadShared a0 a1 s) := by
  unfold execReadShared; exact settles_act _ _ _
theorem settles_execReadExclusive (a0 : AgentNo) (a1 : Nat) (a2 : Option (Nat × List Byte)) (s : State) : Settles s (execReadExclusive a0 a1 a2 s) := by
  unfold execReadExclusive; exact settles_act _ _ _
theorem settles_execUpgrade (a0 : AgentNo) (a1 : Nat) (a2 : Option (Nat × List Byte)) (s : State) : Settles s (execUpgrade a0 a1 a2 s) := by
  unfold execUpgrade; exact settles_act _ _ _
theorem settles_execWriteback (a0 : AgentNo) (a1 : Nat) (s : State) : Settles s (execWriteback a0 a1 s) := by
  unfold execWriteback; exact settles_act _ _ _
theorem settles_execUncachedRead (a0 : Nat) (s : State) : Settles s (execUncachedRead a0 s) := by
  unfold execUncachedRead; exact settles_act _ _ _
theorem settles_execInvalidatingWrite (a0 a1 : Nat) (a2 : List Byte) (s : State) : Settles s (execInvalidatingWrite a0 a1 a2 s) := by
  unfold execInvalidatingWrite; exact settles_act _ _ _
theorem settles_execWriteFull (a0 : AgentNo) (a1 : Nat) (a2 : List Byte) (s : State) : Settles s (execWriteFull a0 a1 a2 s) := by
  unfold execWriteFull; exact settles_act _ _ _
theorem settles_execForward (a0 : AgentNo) (a1 : Nat) (s : State) : Settles s (execForward a0 a1 s) := by
  unfold execForward; exact settles_act _ _ _
theorem settles_execHoldWindowEnd (a0 : AgentNo) (a1 : Nat) (s : State) : Settles s (execHoldWindowEnd a0 a1 s) := by
  unfold execHoldWindowEnd; exact settles_act _ _ _
theorem settles_execDelayLineCalibration (s : State) : Settles s (execDelayLineCalibration s) := by
  unfold execDelayLineCalibration; exact settles_act _ _ _
theorem settles_execUnitDispatch (a0 : RegionNo) (a1 : Nat) (a2 : Option LayerWork) (a3 : List (Nat × List Byte)) (s : State) : Settles s (execUnitDispatch a0 a1 a2 a3 s) := by
  unfold execUnitDispatch; exact settles_actPages _ _ _
theorem settles_execUnitComplete (a0 : RegionNo) (a1 : List FabricOp) (a2 : Bool) (s : State) : Settles s (execUnitComplete a0 a1 a2 s) := by
  unfold execUnitComplete; exact settles_act _ _ _
theorem settles_execPreemptionPoint (a0 : RegionNo) (a1 : Nat) (s : State) : Settles s (execPreemptionPoint a0 a1 s) := by
  unfold execPreemptionPoint; exact settles_act _ _ _
theorem settles_execPassComplete (a0 : StackNo) (a1 a2 : Fin 4) (a3 : Option Nat) (s : State) : Settles s (execPassComplete a0 a1 a2 a3 s) := by
  unfold execPassComplete; exact settles_act _ _ _
theorem settles_execStepCommit (a0 : Nat) (a1 : List (List (BitVec 32))) (a2 : List CandNode) (s : State) : Settles s (execStepCommit a0 a1 s a2) := by
  unfold execStepCommit; exact settles_actPages _ _ _
theorem settles_execStackCoreFault (a0 : StackNo) (a1 : Fin 4) (s : State) : Settles s (execStackCoreFault a0 a1 s) := by
  unfold execStackCoreFault; exact settles_act _ _ _
theorem settles_execDeadlineMiss (a0 : Nat) (s : State) : Settles s (execDeadlineMiss a0 s) := by
  unfold execDeadlineMiss; exact settles_act _ _ _
theorem settles_execLeaseEpochTick (s : State) : Settles s (execLeaseEpochTick s) := by
  unfold execLeaseEpochTick; exact settles_act _ _ _
theorem settles_execLeaseExpiry (a0 : Fin 4096) (s : State) : Settles s (execLeaseExpiry a0 s) := by
  unfold execLeaseExpiry; exact settles_act _ _ _
theorem settles_execPageReclaim (a0 : Nat) (s : State) : Settles s (execPageReclaim a0 s) := by
  unfold execPageReclaim; exact settles_act _ _ _
theorem settles_execPrefixInsert (a0 a1 : Nat) (s : State) : Settles s (execPrefixInsert a0 a1 s) := by
  unfold execPrefixInsert; exact settles_act _ _ _
theorem settles_execPressureEviction (a0 : StackNo) (s : State) : Settles s (execPressureEviction a0 s) := by
  unfold execPressureEviction; exact settles_act _ _ _
theorem settles_execDrop (a0 : Nat) (s : State) : Settles s (execDrop a0 s) := by
  unfold execDrop; exact settles_act _ _ _
theorem settles_execPreempt (a0 : Nat) (s : State) : Settles s (execPreempt a0 s) := by
  unfold execPreempt; exact settles_act _ _ _
theorem settles_execRestore (a0 : Nat) (s : State) : Settles s (execRestore a0 s) := by
  unfold execRestore; exact settles_act _ _ _
theorem settles_execRestoreComplete (a0 : Nat) (s : State) : Settles s (execRestoreComplete a0 s) := by
  unfold execRestoreComplete; exact settles_act _ _ _
theorem settles_execRecompute (a0 : Nat) (s : State) : Settles s (execRecompute a0 s) := by
  unfold execRecompute; exact settles_act _ _ _
theorem settles_execGcCollect (a0 : NandReport) (s : State) : Settles s (execGcCollect s a0) := by
  unfold execGcCollect; exact settles_act _ _ _
theorem settles_execFold (a0 : NandReport) (s : State) : Settles s (execFold s a0) := by
  unfold execFold; exact settles_act _ _ _
theorem settles_execSlateScrub (a0 : Nat) (a1 : List Nat) (s : State) : Settles s (execSlateScrub a0 a1 s) := by
  unfold execSlateScrub; exact settles_act _ _ _
theorem settles_execKeepalive (s : State) : Settles s (execKeepalive s) := by
  unfold execKeepalive; exact settles_act _ _ _
theorem settles_execFeedBind (a0 : MeterStamp) (a1 : FeedHead) (a2 : CompositionBody) (s : State) : Settles s (execFeedBind a0 a1 a2 s) := by
  unfold execFeedBind; exact settles_actFeed _ _ _ _
theorem settles_execFeedUnbind (a0 : MeterStamp) (a1 : FeedHead) (a2 : CompositionBody) (s : State) : Settles s (execFeedUnbind a0 a1 a2 s) := by
  unfold execFeedUnbind; exact settles_actFeed _ _ _ _
theorem settles_execFeedResource (a0 : MeterStamp) (a1 : FeedHead) (a2 : CompositionBody) (s : State) : Settles s (execFeedResource a0 a1 a2 s) := by
  unfold execFeedResource; exact settles_actFeed _ _ _ _
theorem settles_execFeedSeal (a0 : MeterStamp) (a1 : FeedHead) (a2 : List Byte) (s : State) : Settles s (execFeedSeal a0 a1 a2 s) := by
  unfold execFeedSeal; exact settles_actFeed _ _ _ _
theorem settles_execFeedPower (a0 : MeterStamp) (a1 : FeedHead) (a2 a3 a4 : Nat) (s : State) : Settles s (execFeedPower a0 a1 a2 a3 a4 s) := by
  unfold execFeedPower; exact settles_actFeed _ _ _ _
theorem settles_execFeedKeepalive (a0 : MeterStamp) (a1 : FeedHead) (s : State) : Settles s (execFeedKeepalive a0 a1 s) := by
  unfold execFeedKeepalive; exact settles_actFeed _ _ _ _
theorem settles_execSilent (a0 : MeterStamp) (s : State) : Settles s (execSilent a0 s) := by
  unfold execSilent; exact settles_actMeter _ _ _
theorem settles_execInterval (a0 : MeterStamp) (a1 a2 a3 a4 : Nat) (s : State) : Settles s (execInterval a0 a1 a2 a3 a4 s) := by
  unfold execInterval; exact settles_actMeter _ _ _
theorem settles_execTamper (a0 : MeterStamp) (a1 : Nat) (s : State) : Settles s (execTamper a0 a1 s) := by
  unfold execTamper; exact settles_actMeter _ _ _
theorem settles_execMeterFault (a0 : MeterStamp) (a1 : MeterFaultCause) (s : State) : Settles s (execMeterFault a0 a1 s) := by
  unfold execMeterFault; exact settles_actMeter _ _ _
theorem settles_execLaneStatusFrame (a0 : MeterStamp) (s : State) : Settles s (execLaneStatusFrame a0 s) := by
  unfold execLaneStatusFrame; exact settles_actMeter _ _ _
theorem settles_execRecordCopy (a0 : MeterRecord) (s : State) : Settles s (execRecordCopy a0 s) := by
  unfold execRecordCopy; exact settles_act _ _ _
theorem settles_execRecordLaneSilent (s : State) : Settles s (execRecordLaneSilent s) := by
  unfold execRecordLaneSilent; exact settles_act _ _ _
theorem settles_execMtrVaux3Loss (a0 : MeterStamp) (s : State) : Settles s (execMtrVaux3Loss a0 s) := by
  unfold execMtrVaux3Loss; exact settles_actMeter _ _ _
theorem settles_execMtrVaux3Return (s : State) : Settles s (execMtrVaux3Return s) := by
  unfold execMtrVaux3Return; exact settles_act _ _ _
theorem settles_execIdentity (a0 : MeterStamp) (s : State) : Settles s (execIdentity a0 s) := by
  unfold execIdentity; exact settles_actMeter _ _ _
theorem settles_execI3cStatus (a0 : MeterStamp) (s : State) : Settles s (execI3cStatus a0 s) := by
  unfold execI3cStatus; exact settles_actMeter _ _ _
theorem settles_execPointer (a0 : MeterStamp) (a1 : Nat) (s : State) : Settles s (execPointer a0 a1 s) := by
  unfold execPointer; exact settles_actMeter _ _ _
theorem settles_execRecord (a0 : MeterStamp) (s : State) : Settles s (execRecord a0 s) := by
  unfold execRecord; exact settles_actMeter _ _ _
theorem settles_execCertificate (a0 : MeterStamp) (s : State) : Settles s (execCertificate a0 s) := by
  unfold execCertificate; exact settles_actMeter _ _ _
theorem settles_execMark (a0 : MeterStamp) (a1 : List Byte) (s : State) : Settles s (execMark a0 a1 s) := by
  unfold execMark; exact settles_actMeter _ _ _
theorem settles_execEntdaa (a0 : MeterStamp) (a1 : BitVec 7) (s : State) : Settles s (execEntdaa a0 a1 s) := by
  unfold execEntdaa; exact settles_actMeter _ _ _
theorem settles_execSetdasa (a0 : MeterStamp) (a1 a2 : BitVec 7) (s : State) : Settles s (execSetdasa a0 a1 a2 s) := by
  unfold execSetdasa; exact settles_actMeter _ _ _
theorem settles_execGetpid (a0 : MeterStamp) (s : State) : Settles s (execGetpid a0 s) := by
  unfold execGetpid; exact settles_actMeter _ _ _
theorem settles_execGetbcr (a0 : MeterStamp) (s : State) : Settles s (execGetbcr a0 s) := by
  unfold execGetbcr; exact settles_actMeter _ _ _
theorem settles_execGetdcr (a0 : MeterStamp) (s : State) : Settles s (execGetdcr a0 s) := by
  unfold execGetdcr; exact settles_actMeter _ _ _
theorem settles_execGetstatus (a0 : MeterStamp) (s : State) : Settles s (execGetstatus a0 s) := by
  unfold execGetstatus; exact settles_actMeter _ _ _
theorem settles_execEnec (a0 : MeterStamp) (a1 : Byte) (s : State) : Settles s (execEnec a0 a1 s) := by
  unfold execEnec; exact settles_actMeter _ _ _
theorem settles_execEnum (a0 : ChainHead) (a1 : Nat) (s : State) : Settles s (execEnum a0 a1 s) := by
  unfold execEnum; exact settles_act _ _ _
theorem settles_execGetId (a0 : ChainHead) (s : State) : Settles s (execGetId a0 s) := by
  unfold execGetId; exact settles_chainRow _ _ _ _
theorem settles_execSetMember (a0 : ChainHead) (a1 a2 a3 : Nat) (a4 : Bool) (s : State) : Settles s (execSetMember a0 a1 a2 a3 a4 s) := by
  unfold execSetMember; exact settles_chainRow _ _ _ _
theorem settles_execAnnounce (a0 : ChainHead) (a1 : List (Fin 4)) (s : State) : Settles s (execAnnounce a0 a1 s) := by
  unfold execAnnounce; exact settles_chainRow _ _ _ _
theorem settles_execPowerOn (a0 : ChainHead) (s : State) : Settles s (execPowerOn a0 s) := by
  unfold execPowerOn; exact settles_chainRow _ _ _ _
theorem settles_execPowerOff (a0 : ChainHead) (s : State) : Settles s (execPowerOff a0 s) := by
  unfold execPowerOff; exact settles_chainRow _ _ _ _
theorem settles_execChainReset (a0 : ChainHead) (a1 : Nat) (s : State) : Settles s (execChainReset a0 a1 s) := by
  unfold execChainReset; exact settles_chainRow _ _ _ _
theorem settles_execFence (a0 : ChainHead) (s : State) : Settles s (execFence a0 s) := by
  unfold execFence; exact settles_chainRow _ _ _ _
theorem settles_execFenced (a0 : ChainHead) (a1 a2 : Nat) (s : State) : Settles s (execFenced a0 a1 a2 s) := by
  unfold execFenced; exact settles_chainRow _ _ _ _
theorem settles_execStatus (a0 : ChainHead) (s : State) : Settles s (execStatus a0 s) := by
  unfold execStatus; exact settles_chainRow _ _ _ _
theorem settles_execDepartAnswer (a0 : ChainHead) (s : State) : Settles s (execDepartAnswer a0 s) := by
  unfold execDepartAnswer; exact settles_chainRow _ _ _ _
theorem settles_execChainForward (a0 : ChainHead) (a1 : List Byte) (s : State) : Settles s (execChainForward a0 a1 s) := by
  unfold execChainForward; exact settles_chainRow _ _ _ _
theorem settles_execChainRingSilent (s : State) : Settles s (execChainRingSilent s) := by
  unfold execChainRingSilent; exact settles_act _ _ _
theorem settles_execHeartbeatSend (s : State) : Settles s (execHeartbeatSend s) := by
  unfold execHeartbeatSend; exact settles_act _ _ _
theorem settles_execHeartbeatLoss (s : State) : Settles s (execHeartbeatLoss s) := by
  unfold execHeartbeatLoss; exact settles_act _ _ _
theorem settles_execFenceWaitExpiry (s : State) : Settles s (execFenceWaitExpiry s) := by
  unfold execFenceWaitExpiry; exact settles_act _ _ _
theorem settles_execFenceTimeout (s : State) : Settles s (execFenceTimeout s) := by
  unfold execFenceTimeout; exact settles_act _ _ _
theorem settles_execMirrorAcknowledgement (a0 : Nat) (s : State) : Settles s (execMirrorAcknowledgement a0 s) := by
  unfold execMirrorAcknowledgement; exact settles_act _ _ _
theorem settles_execDepartureComplete (s : State) : Settles s (execDepartureComplete s) := by
  unfold execDepartureComplete; exact settles_act _ _ _
theorem settles_execPowerEnRise (s : State) : Settles s (execPowerEnRise s) := by
  unfold execPowerEnRise; exact settles_act _ _ _
theorem settles_execPowerEnFall (s : State) : Settles s (execPowerEnFall s) := by
  unfold execPowerEnFall; exact settles_act _ _ _
theorem settles_execVin56Low (a0 : Nat) (s : State) : Settles s (execVin56Low a0 s) := by
  unfold execVin56Low; exact settles_act _ _ _
theorem settles_execVin56Under (a0 : Nat) (s : State) : Settles s (execVin56Under a0 s) := by
  unfold execVin56Under; exact settles_act _ _ _
theorem settles_execVin56Over (a0 : Nat) (s : State) : Settles s (execVin56Over a0 s) := by
  unfold execVin56Over; exact settles_act _ _ _
theorem settles_execVin56InRange (a0 : Nat) (s : State) : Settles s (execVin56InRange a0 s) := by
  unfold execVin56InRange; exact settles_act _ _ _
theorem settles_execVaux3Loss (s : State) : Settles s (execVaux3Loss s) := by
  unfold execVaux3Loss; exact settles_act _ _ _
theorem settles_execVaux3Return (s : State) : Settles s (execVaux3Return s) := by
  unfold execVaux3Return; exact settles_act _ _ _
theorem settles_execThrottling (a0 : Die) (a1 : ℤ) (s : State) : Settles s (execThrottling a0 a1 s) := by
  unfold execThrottling; exact settles_act _ _ _
theorem settles_execThrottlingEnd (a0 : Die) (a1 : ℤ) (s : State) : Settles s (execThrottlingEnd a0 a1 s) := by
  unfold execThrottlingEnd; exact settles_act _ _ _
theorem settles_execBoundsNotGuaranteed (a0 : Die) (a1 : ℤ) (s : State) : Settles s (execBoundsNotGuaranteed a0 a1 s) := by
  unfold execBoundsNotGuaranteed; exact settles_act _ _ _
theorem settles_execThermalTrip (a0 : Die) (a1 : ℤ) (s : State) : Settles s (execThermalTrip a0 a1 s) := by
  unfold execThermalTrip; exact settles_act _ _ _
theorem settles_execStackRefreshRate (a0 : StackNo) (a1 : ℤ) (s : State) : Settles s (execStackRefreshRate a0 a1 s) := by
  unfold execStackRefreshRate; exact settles_act _ _ _
theorem settles_execGreyIdle (a0 : RegionNo) (s : State) : Settles s (execGreyIdle a0 s) := by
  unfold execGreyIdle; exact settles_act _ _ _
theorem settles_execWakeTime (s : State) : Settles s (execWakeTime s) := by
  unfold execWakeTime; exact settles_act _ _ _
theorem settles_execRefclkLoss (s : State) : Settles s (execRefclkLoss s) := by
  unfold execRefclkLoss; exact settles_act _ _ _
theorem settles_execRefclkReturn (s : State) : Settles s (execRefclkReturn s) := by
  unfold execRefclkReturn; exact settles_act _ _ _
theorem settles_execPacingChange (a0 : Bool) (s : State) : Settles s (execPacingChange a0 s) := by
  unfold execPacingChange; exact settles_act _ _ _
theorem settles_execCharcoalEntryComplete (s : State) : Settles s (execCharcoalEntryComplete s) := by
  unfold execCharcoalEntryComplete; exact settles_act _ _ _
theorem settles_execPerst (s : State) : Settles s (execPerst s) := by
  unfold execPerst; exact settles_endpointReset _ _
theorem settles_execHotReset (s : State) : Settles s (execHotReset s) := by
  unfold execHotReset; exact settles_endpointReset _ _
theorem settles_execLinkDisable (s : State) : Settles s (execLinkDisable s) := by
  unfold execLinkDisable; exact settles_endpointReset _ _
theorem settles_execFunctionLevelReset (s : State) : Settles s (execFunctionLevelReset s) := by
  unfold execFunctionLevelReset; exact settles_endpointReset _ _
theorem settles_execDlUpLoss (s : State) : Settles s (execDlUpLoss s) := by
  unfold execDlUpLoss; exact settles_act _ _ _
theorem settles_execDlUpReturn (a0 a1 : Nat) (a2 : Bool) (s : State) : Settles s (execDlUpReturn a0 a1 a2 s) := by
  unfold execDlUpReturn; exact settles_act _ _ _
theorem settles_execBusMasterEnable (a0 a1 : Bool) (s : State) : Settles s (execBusMasterEnable a0 a1 s) := by
  unfold execBusMasterEnable; exact settles_act _ _ _
theorem settles_execConfigurationRequest (a0 : CfgAccess) (s : State) : Settles s (execConfigurationRequest a0 s) := by
  unfold execConfigurationRequest; exact settles_act _ _ _
theorem settles_execHostReadCompletion (a0 : HostReadUse) (a1 : HostReadResult) (s : State) : Settles s (execHostReadCompletion a0 a1 s) := by
  unfold execHostReadCompletion; exact settles_act _ _ _
theorem settles_execPoisonedWrite (a0 : Bar) (s : State) : Settles s (execPoisonedWrite a0 s) := by
  unfold execPoisonedWrite; exact settles_act _ _ _
theorem settles_execMalformedTlp (a0 : FatalKind) (s : State) : Settles s (execMalformedTlp a0 s) := by
  unfold execMalformedTlp; exact settles_act _ _ _
theorem settles_execCoalesceUsExpiry (a0 : Tenant) (s : State) : Settles s (execCoalesceUsExpiry a0 s) := by
  unfold execCoalesceUsExpiry; exact settles_act _ _ _
theorem settles_execPowerUpStart (a0 : StartFacts) (s : State) : Settles s (execPowerUpStart a0 s) := by
  unfold execPowerUpStart; exact settles_act _ _ _
theorem settles_execPackageLoadComplete (a0 : ReadEnd) (s : State) : Settles s (execPackageLoadComplete a0 s) := by
  unfold execPackageLoadComplete; exact settles_act _ _ _
theorem settles_execDomainScanComplete (s : State) : Settles s (execDomainScanComplete s) := by
  unfold execDomainScanComplete; exact settles_act _ _ _
theorem settles_execEthernetPortUp (a0 : EthPort) (a1 : Nat) (s : State) : Settles s (execEthernetPortUp a0 a1 s) := by
  unfold execEthernetPortUp; exact settles_act _ _ _
theorem settles_execEthernetPortDown (a0 : EthPort) (s : State) : Settles s (execEthernetPortDown a0 s) := by
  unfold execEthernetPortDown; exact settles_act _ _ _

/-- What a register triggers, if anything, settles from every state. -/
structure RunsSettle (o : Option (State → Answer)) : Prop where
  run : ∀ f, o = Option.some f → ∀ u, Settles u (f u)

theorem RunsSettle.none : RunsSettle Option.none := ⟨fun _ h => nomatch h⟩

theorem RunsSettle.some {f : State → Answer} (h : ∀ u, Settles u (f u)) : RunsSettle (Option.some f) :=
  ⟨fun _ e => Option.some.inj e ▸ h⟩

theorem RunsSettle.ite {c : Prop} [Decidable c] {a b : Option (State → Answer)} (ha : RunsSettle a) (hb : RunsSettle b) :
    RunsSettle (if c then a else b) := by
  split
  · exact ha
  · exact hb

theorem RunsSettle.or {a b : Option (State → Answer)} (ha : RunsSettle a) (hb : RunsSettle b) : RunsSettle (a.or b) := by
  refine ⟨fun f h => ?_⟩
  rcases Option.or_eq_some_iff.mp h with h | ⟨-, h⟩
  · exact ha.run f h
  · exact hb.run f h

theorem settles_platformCommand (s : State) (off v : Nat) : RunsSettle (platformCommand s off v) := by
  unfold platformCommand
  try dsimp only
  with_reducible repeat' first
    | exact RunsSettle.none
    | apply RunsSettle.ite
    | (apply RunsSettle.some; intro u)
    | apply settles_execWarmReset
    | apply settles_execColdReset
    | apply settles_execStage
    | apply settles_execAdvance
    | apply settles_execKeylistLoad
    | apply settles_execKeylistClear
    | apply settles_execAttest
    | apply settles_execEstablish
    | apply settles_execBurn
    | apply settles_execWhite
    | apply settles_execGrey
    | apply settles_execCharcoal
    | apply settles_execBlack
    | split

theorem settles_fabricCommand (s : State) (off v : Nat) : RunsSettle (fabricCommand s off v) := by
  unfold fabricCommand
  try dsimp only
  with_reducible repeat' first
    | exact RunsSettle.none
    | apply RunsSettle.ite
    | (apply RunsSettle.some; intro u)
    | apply settles_execFabVdcFlush
    | apply settles_execFabPkgLoad
    | apply settles_execLoad
    | apply settles_execStart
    | apply settles_execDrain
    | apply settles_execReload
    | apply settles_execReset
    | apply settles_execResetRepair
    | split

theorem settles_slotCommand (s : State) (off v : Nat) : RunsSettle (slotCommand s off v) := by
  unfold slotCommand
  try dsimp only
  with_reducible repeat' first
    | exact RunsSettle.none
    | apply RunsSettle.ite
    | (apply RunsSettle.some; intro u)
    | apply settles_execXtsLoad
    | apply settles_execXtsClear
    | apply settles_execAttach
    | apply settles_execDetach
    | apply settles_execStkUcodeClear
    | apply settles_execDomainLoad
    | apply settles_execDomainClear
    | apply settles_execDomainUnpin
    | apply settles_execDomainFlush
    | apply settles_execTableLoad
    | apply settles_execTableClear
    | apply settles_execGcmLoad
    | apply settles_execGcmClear
    | split

theorem settles_serviceCommand (s : State) (off v : Nat) : RunsSettle (serviceCommand s off v) := by
  unfold serviceCommand
  try dsimp only
  with_reducible repeat' first
    | exact RunsSettle.none
    | apply RunsSettle.ite
    | (apply RunsSettle.some; intro u)
    | apply settles_execBind
    | apply settles_execUnbind
    | apply settles_execAddRegions
    | apply settles_execRemoveRegions
    | apply settles_execSet
    | apply settles_execRecoverRequest
    | apply settles_execRecoverFailedPart
    | apply settles_execDiscard
    | apply settles_execSwitch
    | apply settles_execSuspend
    | split

theorem settles_registerCommand (s : State) (off v : Nat) : RunsSettle (registerCommand s off v) :=
  .or (settles_platformCommand s off v) (.or (settles_fabricCommand s off v)
    (.or (settles_slotCommand s off v) (settles_serviceCommand s off v)))

theorem settles_execRegisterWrite (offset width : Nat) (value : BitVec 64) (s : State) :
    Settles s (execRegisterWrite offset width value s) := by
  unfold execRegisterWrite
  extract_lets written
  split
  · next run hr =>
    split at hr
    · have k := (settles_registerCommand _ _ _).run _ hr (finish s written)
      exact ⟨fun P hf hq _ => k.of P hf hq (hf _ _)⟩
    · cases hr
  · exact settles_act _ _ _


/-- What a held command does once it is served. -/
theorem settles_servedWhenAwake (s : State) (c : Instr) : Settles s (servedWhenAwake c s) := by
  cases c
  case load => exact settles_execLoad _ _ _
  case start => exact settles_execStart _ _ _
  case drain => exact settles_execDrain _ _ _
  case reload => exact settles_execReload _ _ _
  case reset => exact settles_execReset _ _ _
  case resetRepair => exact settles_execResetRepair _ _ _
  case fabPkgLoad => exact settles_execFabPkgLoad _ _
  case fabVdcFlush => exact settles_execFabVdcFlush _
  case attach => exact settles_execAttach _ _ _
  case detach => exact settles_execDetach _ _
  case stkUcodeClear => exact settles_execStkUcodeClear _ _
  case xtsLoad => exact settles_execXtsLoad _ _
  case xtsClear => exact settles_execXtsClear _ _
  case domainLoad => exact settles_execDomainLoad _ _ _ _
  case domainClear => exact settles_execDomainClear _ _
  case domainUnpin => exact settles_execDomainUnpin _ _
  case domainFlush => exact settles_execDomainFlush _ _
  case tableLoad => exact settles_execTableLoad _ _ _
  case tableClear => exact settles_execTableClear _ _
  case gcmLoad => exact settles_execGcmLoad _ _
  case gcmClear => exact settles_execGcmClear _ _
  case bind => exact settles_execBind _ _ _
  case unbind => exact settles_execUnbind _ _
  case addRegions => exact settles_execAddRegions _ _
  case removeRegions => exact settles_execRemoveRegions _ _
  case set => exact settles_execSet _ _ _ _
  case recoverRequest => exact settles_execRecoverRequest _
  case recoverFailedPart => exact settles_execRecoverFailedPart _
  case join => exact settles_execJoin _ _ _
  case switch => exact settles_execSwitch _
  case suspend => exact settles_execSuspend _
  case stage => exact settles_execStage _ _ _
  case advance => exact settles_execAdvance _
  case keylistLoad => exact settles_execKeylistLoad _ _ _
  case keylistClear => exact settles_execKeylistClear _
  case attest => exact settles_execAttest _ _
  case establish => exact settles_execEstablish _ _
  case burn => exact settles_execBurn _
  case discard => exact settles_execDiscard _ _
  case flsLock => exact settles_execFlsLock _ _
  case sqTail => exact settles_execSqTail _ _ _
  case cqHead => exact settles_execCqHead _ _ _
  case trHead => exact settles_execTrHead _ _ _
  case bar4Read => exact settles_execBar4Read _ _ _
  case bar4Write => exact settles_execBar4Write _ _ _
  case rstOpen => exact settles_execRstOpen _ _ _ _ _ _ _
  case rstOpened => exact settles_execRstOpened _ _
  case logAppend => exact settles_execLogAppend _ _ _ _ _
  case logAck => exact settles_execLogAck _ _ _
  case publishBlock => exact settles_execPublishBlock _ _ _ _
  case pubRef => exact settles_execPubRef _ _ _ _ _ _
  case pubAck => exact settles_execPubAck _ _ _
  case pubNeed => exact settles_execPubNeed _ _ _
  case offer => exact settles_execOffer _ _ _ _ _ _ _
  case offerAck => exact settles_execOfferAck _ _
  case pull => exact settles_execPull _ _ _ _ _
  case pageData => exact settles_execPageData _ _ _ _ _ _
  case claim => exact settles_execClaim _ _ _ _
  case grant => exact settles_execGrant _ _
  case deny => exact settles_execDeny _ _ _
  case rstRelease => exact settles_execRstRelease _ _
  case whoOwns => exact settles_execWhoOwns _ _
  case ownerIs => exact settles_execOwnerIs _ _ _
  case rstResume => exact settles_execRstResume _ _
  case recover => exact settles_execRecover _ _ _
  case objRead => exact settles_execObjRead _ _ _ _
  case objData => exact settles_execObjData _ _ _ _ _
  case close => exact settles_execClose _ _
  case closed => exact settles_execClosed _ _
  case pfxQuery => exact settles_execPfxQuery _ _ _ _ _ _ _
  case pfxAnswer => exact settles_execPfxAnswer _ _ _ _
  case rstTransportOnly => exact settles_execRstTransportOnly _ _
  case memReqLoad => exact settles_execMemReqLoad _ _
  case memReqStore => exact settles_execMemReqStore _ _ _
  case memReqAdd => exact settles_execMemReqAdd _ _ _
  case memReqMinS => exact settles_execMemReqMinS _ _ _
  case memReqMinU => exact settles_execMemReqMinU _ _ _
  case memReqMaxS => exact settles_execMemReqMaxS _ _ _
  case memReqMaxU => exact settles_execMemReqMaxU _ _ _
  case memReqSwap => exact settles_execMemReqSwap _ _ _
  case memReqCas => exact settles_execMemReqCas _ _ _ _
  case tensor => exact settles_execTensor _ _ _ _ _
  all_goals exact settles_next (.of (Keep.refl _ _))

theorem settles_execCharcoalExitComplete (s : State) : Settles s (execCharcoalExitComplete s) where
  of := by
    intro P hf hq hs t e
    unfold execCharcoalExitComplete at e
    have k : ∀ (l : List Instr) (u : State), P u → P (l.foldl serveHeld u) := by
      intro l
      induction l with
      | nil => exact fun _ h => h
      | cons c l ih =>
        intro u hu
        refine ih _ ?_
        unfold serveHeld
        split
        · next v ev => exact (settles_servedWhenAwake u c).of P hf hq hu v ev
        · exact hu
    cases e
    split
    · exact k _ _ (hf _ _)
    · exact hs

/-- Every command ends in one of these ways. -/
theorem settles_exec (c : Instr) (s : State) : Settles s (exec c s) :=
  match c with
  | .hostAdmit t c tokens desc => settles_execHostAdmit t c tokens desc s
  | .append t c tokens => settles_execAppend t c tokens s
  | .truncate t c => settles_execTruncate t c s
  | .cancel t c => settles_execCancel t c s
  | .park t c => settles_execPark t c s
  | .resume t c => settles_execResume t c s
  | .query t c => settles_execQuery t c s
  | .release t c => settles_execRelease t c s
  | .allocate c => settles_execAllocate c s
  | .publish c => settles_execPublish c s
  | .seal c => settles_execSeal c s
  | .move c => settles_execMove c s
  | .unpublish c => settles_execUnpublish c s
  | .free c => settles_execFree c s
  | .pin c => settles_execPin c s
  | .unpin c => settles_execUnpin c s
  | .adopt c => settles_execAdopt c s
  | .copyComplete handle copied source nand => settles_execCopyComplete handle source copied nand s
  | .objectReclaim index nand => settles_execObjectReclaim index nand s
  | .load n handle => settles_execLoad n handle s
  | .start n handle => settles_execStart n handle s
  | .drain n handle => settles_execDrain n handle s
  | .reload n handle => settles_execReload n handle s
  | .reset n handle => settles_execReset n handle s
  | .resetRepair n handle => settles_execResetRepair n handle s
  | .imageReadComplete n read => settles_execImageReadComplete n read s
  | .verifyComplete n readbackOk => settles_execVerifyComplete n readbackOk s
  | .drainComplete n => settles_execDrainComplete n s
  | .clusterFault n cluster kind => settles_execClusterFault n cluster kind s
  | .fabPkgLoad handle => settles_execFabPkgLoad handle s
  | .fabVdcFlush => settles_execFabVdcFlush s
  | .attach handle comp => settles_execAttach handle comp s
  | .ucodeLoadComplete slot read readbackOk => settles_execUcodeLoadComplete slot read readbackOk s
  | .detach comp => settles_execDetach comp s
  | .detachComplete comp => settles_execDetachComplete comp s
  | .stkUcodeClear mask => settles_execStkUcodeClear mask s
  | .xtsLoad slot => settles_execXtsLoad slot s
  | .xtsClear slot => settles_execXtsClear slot s
  | .domainLoad slot domain owner => settles_execDomainLoad slot domain owner s
  | .domainClear slot => settles_execDomainClear slot s
  | .domainUnpin slot => settles_execDomainUnpin slot s
  | .domainFlush slot => settles_execDomainFlush slot s
  | .tableLoad slot tag => settles_execTableLoad slot tag s
  | .tableClear slot => settles_execTableClear slot s
  | .gcmLoad slot => settles_execGcmLoad slot s
  | .gcmClear slot => settles_execGcmClear slot s
  | .bind c role => settles_execBind c role s
  | .unbind c => settles_execUnbind c s
  | .unbindComplete c => settles_execUnbindComplete c s
  | .addRegions c => settles_execAddRegions c s
  | .removeRegions c => settles_execRemoveRegions c s
  | .set t c weight => settles_execSet t c weight s
  | .recoverRequest => settles_execRecoverRequest s
  | .recoverFailedPart => settles_execRecoverFailedPart s
  | .join roleReq peer => settles_execJoin roleReq peer s
  | .switch => settles_execSwitch s
  | .handover => settles_execHandover s
  | .suspend => settles_execSuspend s
  | .warmReset => settles_execWarmReset s
  | .coldReset => settles_execColdReset s
  | .stage handle read => settles_execStage handle read s
  | .stageComplete ok => settles_execStageComplete ok s
  | .advance => settles_execAdvance s
  | .keylistLoad handle read => settles_execKeylistLoad handle read s
  | .keylistClear => settles_execKeylistClear s
  | .attest address => settles_execAttest address s
  | .establish address => settles_execEstablish address s
  | .burn => settles_execBurn s
  | .burnComplete readbackOk => settles_execBurnComplete readbackOk s
  | .white => settles_execWhite s
  | .grey => settles_execGrey s
  | .charcoal => settles_execCharcoal s
  | .black => settles_execBlack s
  | .discard nand => settles_execDiscard nand s
  | .flsLock nand => settles_execFlsLock nand s
  | .rebuildComplete => settles_execRebuildComplete s
  | .lockSet block => settles_execLockSet block s
  | .mtrSelect recordNo => settles_execMtrSelect recordNo s
  | .rqtTCtlEnable t value => settles_execRqtTCtlEnable t value s
  | .portCfgWrite p value => settles_execPortCfgWrite p value s
  | .registerWrite offset width value => settles_execRegisterWrite offset width value s
  | .sqTail t value => settles_execSqTail t value s
  | .cqHead t value => settles_execCqHead t value s
  | .trHead t value => settles_execTrHead t value s
  | .stkObjSqTail value => settles_execStkObjSqTail value s
  | .stkObjCqHead value => settles_execStkObjCqHead value s
  | .bar4Read offset size => settles_execBar4Read offset size s
  | .bar4Write offset data => settles_execBar4Write offset data s
  | .vectorUnmask vec => settles_execVectorUnmask vec s
  | .rstOpen h durability entry twin modelId adapterId => settles_execRstOpen h durability entry twin modelId adapterId s
  | .rstOpened h => settles_execRstOpened h s
  | .logAppend h start entry entries => settles_execLogAppend h start entry entries s
  | .logAck h length => settles_execLogAck h length s
  | .publishBlock h block pages => settles_execPublishBlock h block pages s
  | .pubRef h block parentDigest digest tokens => settles_execPubRef h block parentDigest digest tokens s
  | .pubAck h blocks => settles_execPubAck h blocks s
  | .pubNeed h block => settles_execPubNeed h block s
  | .offer h remaining entry modelId adapterId entries => settles_execOffer h remaining entry modelId adapterId entries s
  | .offerAck h => settles_execOfferAck h s
  | .pull h first count layer => settles_execPull h first count layer s
  | .pageData h page layer fill rows => settles_execPageData h page layer fill rows s
  | .claim h offering twin => settles_execClaim h offering twin s
  | .grant h => settles_execGrant h s
  | .deny h owner => settles_execDeny h owner s
  | .rstRelease h => settles_execRstRelease h s
  | .whoOwns h => settles_execWhoOwns h s
  | .ownerIs h owner => settles_execOwnerIs h owner s
  | .rstResume h => settles_execRstResume h s
  | .recover h ledger => settles_execRecover h ledger s
  | .objRead h handle offset => settles_execObjRead h handle offset s
  | .objData h handle offset bytes => settles_execObjData h handle offset bytes s
  | .close h => settles_execClose h s
  | .closed h => settles_execClosed h s
  | .pfxQuery h domain parentDigest modelId adapterId tokens => settles_execPfxQuery h domain parentDigest modelId adapterId tokens s
  | .pfxAnswer h matched handles => settles_execPfxAnswer h matched handles s
  | .rstTransportOnly h => settles_execRstTransportOnly h s
  | .rstRetransmit peer seq => settles_execRstRetransmit peer seq s
  | .orphanAudit index => settles_execOrphanAudit index s
  | .offerResend index => settles_execOfferResend index s
  | .walkDone index => settles_execWalkDone index s
  | .memReqLoad f => settles_execMemReqLoad f s
  | .memReqStore f data => settles_execMemReqStore f data s
  | .memReqAdd f operand => settles_execMemReqAdd f operand s
  | .memReqMinS f operand => settles_execMemReqMinS f operand s
  | .memReqMinU f operand => settles_execMemReqMinU f operand s
  | .memReqMaxS f operand => settles_execMemReqMaxS f operand s
  | .memReqMaxU f operand => settles_execMemReqMaxU f operand s
  | .memReqSwap f operand => settles_execMemReqSwap f operand s
  | .memReqCas f compare swap => settles_execMemReqCas f compare swap s
  | .memRsp f status data => settles_execMemRsp f status data s
  | .tensor f index total block => settles_execTensor f index total block s
  | .tensorAck f index status => settles_execTensorAck f index status s
  | .mirror p records => settles_execMirror p records s
  | .hello p trayId member twin => settles_execHello p trayId member twin s
  | .heartbeat p source role state sent applied => settles_execHeartbeat p source role state sent applied s
  | .ctrlDepart p source => settles_execCtrlDepart p source s
  | .frameForward p dest bytes class_ issuer => settles_execFrameForward p dest bytes class_ issuer s
  | .portUp p => settles_execPortUp p s
  | .portDown p => settles_execPortDown p s
  | .egressFrameStart p => settles_execEgressFrameStart p s
  | .remoteOpIssue r thread kind address size operand data dest => settles_execRemoteOpIssue r thread kind address size operand data dest s
  | .remoteFence r thread => settles_execRemoteFence r thread s
  | .retryReissue r slot => settles_execRetryReissue r slot s
  | .replyTimeout r slot => settles_execReplyTimeout r slot s
  | .retryBarrierTimeout member region => settles_execRetryBarrierTimeout member region s
  | .regionAccess r offset data source last => settles_execRegionAccess r offset data source last s
  | .readShared a line => settles_execReadShared a line s
  | .readExclusive a line store => settles_execReadExclusive a line store s
  | .upgrade a line store => settles_execUpgrade a line store s
  | .writeback a line => settles_execWriteback a line s
  | .uncachedRead line => settles_execUncachedRead line s
  | .invalidatingWrite line offset data => settles_execInvalidatingWrite line offset data s
  | .writeFull a line data => settles_execWriteFull a line data s
  | .forward a line => settles_execForward a line s
  | .holdWindowEnd a line => settles_execHoldWindowEnd a line s
  | .delayLineCalibration => settles_execDelayLineCalibration s
  | .unitDispatch r kernel work slots => settles_execUnitDispatch r kernel work slots s
  | .unitComplete r ops last => settles_execUnitComplete r ops last s
  | .preemptionPoint r point => settles_execPreemptionPoint r point s
  | .passComplete st core slot bad => settles_execPassComplete st core slot bad s
  | .stepCommit index logits draft => settles_execStepCommit index logits draft s
  | .stackCoreFault st core => settles_execStackCoreFault st core s
  | .deadlineMiss index => settles_execDeadlineMiss index s
  | .leaseEpochTick => settles_execLeaseEpochTick s
  | .leaseExpiry slot => settles_execLeaseExpiry slot s
  | .pageReclaim granule => settles_execPageReclaim granule s
  | .prefixInsert index block => settles_execPrefixInsert index block s
  | .pressureEviction st => settles_execPressureEviction st s
  | .drop index => settles_execDrop index s
  | .preempt index => settles_execPreempt index s
  | .restore index => settles_execRestore index s
  | .restoreComplete index => settles_execRestoreComplete index s
  | .recompute index => settles_execRecompute index s
  | .gcCollect nand => settles_execGcCollect nand s
  | .fold nand => settles_execFold nand s
  | .slateScrub corrected uncorrectable => settles_execSlateScrub corrected uncorrectable s
  | .keepalive => settles_execKeepalive s
  | .feedBind m f b => settles_execFeedBind m f b s
  | .feedUnbind m f b => settles_execFeedUnbind m f b s
  | .feedResource m f b => settles_execFeedResource m f b s
  | .feedSeal m f body => settles_execFeedSeal m f body s
  | .feedPower m f source target limit => settles_execFeedPower m f source target limit s
  | .feedKeepalive m f => settles_execFeedKeepalive m f s
  | .silent m => settles_execSilent m s
  | .interval m lowWatts highWatts lowMv highMv => settles_execInterval m lowWatts highWatts lowMv highMv s
  | .tamper m segment => settles_execTamper m segment s
  | .meterFault m cause => settles_execMeterFault m cause s
  | .laneStatusFrame m => settles_execLaneStatusFrame m s
  | .recordCopy r => settles_execRecordCopy r s
  | .recordLaneSilent => settles_execRecordLaneSilent s
  | .mtrVaux3Loss m => settles_execMtrVaux3Loss m s
  | .mtrVaux3Return => settles_execMtrVaux3Return s
  | .identity m => settles_execIdentity m s
  | .i3cStatus m => settles_execI3cStatus m s
  | .pointer m recordNo => settles_execPointer m recordNo s
  | .record m => settles_execRecord m s
  | .certificate m => settles_execCertificate m s
  | .mark m bytes => settles_execMark m bytes s
  | .entdaa m address => settles_execEntdaa m address s
  | .setdasa m static address => settles_execSetdasa m static address s
  | .getpid m => settles_execGetpid m s
  | .getbcr m => settles_execGetbcr m s
  | .getdcr m => settles_execGetdcr m s
  | .getstatus m => settles_execGetstatus m s
  | .enec m events => settles_execEnec m events s
  | .enum h next => settles_execEnum h next s
  | .getId h => settles_execGetId h s
  | .setMember h trayId member twin enrolled => settles_execSetMember h trayId member twin enrolled s
  | .announce h states => settles_execAnnounce h states s
  | .powerOn h => settles_execPowerOn h s
  | .powerOff h => settles_execPowerOff h s
  | .chainReset h kind => settles_execChainReset h kind s
  | .fence h => settles_execFence h s
  | .fenced h target outcome => settles_execFenced h target outcome s
  | .status h => settles_execStatus h s
  | .departAnswer h => settles_execDepartAnswer h s
  | .chainForward h bytes => settles_execChainForward h bytes s
  | .chainRingSilent => settles_execChainRingSilent s
  | .heartbeatSend => settles_execHeartbeatSend s
  | .heartbeatLoss => settles_execHeartbeatLoss s
  | .fenceWaitExpiry => settles_execFenceWaitExpiry s
  | .fenceTimeout => settles_execFenceTimeout s
  | .mirrorAcknowledgement mseq => settles_execMirrorAcknowledgement mseq s
  | .departureComplete => settles_execDepartureComplete s
  | .powerEnRise => settles_execPowerEnRise s
  | .powerEnFall => settles_execPowerEnFall s
  | .vin56Low millivolts => settles_execVin56Low millivolts s
  | .vin56Under millivolts => settles_execVin56Under millivolts s
  | .vin56Over millivolts => settles_execVin56Over millivolts s
  | .vin56InRange millivolts => settles_execVin56InRange millivolts s
  | .vaux3Loss => settles_execVaux3Loss s
  | .vaux3Return => settles_execVaux3Return s
  | .throttling d reading => settles_execThrottling d reading s
  | .throttlingEnd d reading => settles_execThrottlingEnd d reading s
  | .boundsNotGuaranteed d reading => settles_execBoundsNotGuaranteed d reading s
  | .thermalTrip d reading => settles_execThermalTrip d reading s
  | .stackRefreshRate st reading => settles_execStackRefreshRate st reading s
  | .greyIdle r => settles_execGreyIdle r s
  | .wakeTime => settles_execWakeTime s
  | .refclkLoss => settles_execRefclkLoss s
  | .refclkReturn => settles_execRefclkReturn s
  | .pacingChange on => settles_execPacingChange on s
  | .charcoalEntryComplete => settles_execCharcoalEntryComplete s
  | .charcoalExitComplete => settles_execCharcoalExitComplete s
  | .perst => settles_execPerst s
  | .hotReset => settles_execHotReset s
  | .linkDisable => settles_execLinkDisable s
  | .functionLevelReset => settles_execFunctionLevelReset s
  | .dlUpLoss => settles_execDlUpLoss s
  | .dlUpReturn speed width flit => settles_execDlUpReturn speed width flit s
  | .busMasterEnable enabled d3hot => settles_execBusMasterEnable enabled d3hot s
  | .configurationRequest a => settles_execConfigurationRequest a s
  | .hostReadCompletion use result => settles_execHostReadCompletion use result s
  | .poisonedWrite bar => settles_execPoisonedWrite bar s
  | .malformedTlp kind => settles_execMalformedTlp kind s
  | .coalesceUsExpiry t => settles_execCoalesceUsExpiry t s
  | .powerUpStart facts => settles_execPowerUpStart facts s
  | .packageLoadComplete read => settles_execPackageLoadComplete read s
  | .domainScanComplete => settles_execDomainScanComplete s
  | .ethernetPortUp p rate => settles_execEthernetPortUp p rate s
  | .ethernetPortDown p => settles_execEthernetPortDown p s

end Sys2Proof.Machine
end

