-- ==== Sys2Proof/Laws/State.lean ====
section
/-! SUPPORT. One lemma for each field of State that an update leaves alone, so that no later proof unfolds a record update. -/

namespace Sys2Proof.Machine

open Sys2Proof

/-! `putF` writes fields. -/

@[simp] theorem putF_pending (s : State) (f : Field) (v : Nat) : (putF s f v).pending = s.pending := rfl
@[simp] theorem putF_fresh (s : State) (f : Field) (v : Nat) : (putF s f v).fresh = s.fresh := rfl
@[simp] theorem putF_mem (s : State) (f : Field) (v : Nat) : (putF s f v).mem = s.mem := rfl
@[simp] theorem putF_plt (s : State) (f : Field) (v : Nat) : (putF s f v).plt = s.plt := rfl
@[simp] theorem putF_pwr (s : State) (f : Field) (v : Nat) : (putF s f v).pwr = s.pwr := rfl
@[simp] theorem putF_pcie (s : State) (f : Field) (v : Nat) : (putF s f v).pcie = s.pcie := rfl
@[simp] theorem putF_stk (s : State) (f : Field) (v : Nat) : (putF s f v).stk = s.stk := rfl
@[simp] theorem putF_fab (s : State) (f : Field) (v : Nat) : (putF s f v).fab = s.fab := rfl
@[simp] theorem putF_ucode (s : State) (f : Field) (v : Nat) : (putF s f v).ucode = s.ucode := rfl
@[simp] theorem putF_sch (s : State) (f : Field) (v : Nat) : (putF s f v).sch = s.sch := rfl
@[simp] theorem putF_rqt (s : State) (f : Field) (v : Nat) : (putF s f v).rqt = s.rqt := rfl
@[simp] theorem putF_pfx (s : State) (f : Field) (v : Nat) : (putF s f v).pfx = s.pfx := rfl
@[simp] theorem putF_xfr (s : State) (f : Field) (v : Nat) : (putF s f v).xfr = s.xfr := rfl
@[simp] theorem putF_cod (s : State) (f : Field) (v : Nat) : (putF s f v).cod = s.cod := rfl
@[simp] theorem putF_lnk (s : State) (f : Field) (v : Nat) : (putF s f v).lnk = s.lnk := rfl
@[simp] theorem putF_coh (s : State) (f : Field) (v : Nat) : (putF s f v).coh = s.coh := rfl
@[simp] theorem putF_tm (s : State) (f : Field) (v : Nat) : (putF s f v).tm = s.tm := rfl
@[simp] theorem putF_fls (s : State) (f : Field) (v : Nat) : (putF s f v).fls = s.fls := rfl
@[simp] theorem putF_twn (s : State) (f : Field) (v : Nat) : (putF s f v).twn = s.twn := rfl
@[simp] theorem putF_mtr (s : State) (f : Field) (v : Nat) : (putF s f v).mtr = s.mtr := rfl
@[simp] theorem putF_lane (s : State) (f : Field) (v : Nat) : (putF s f v).lane = s.lane := rfl
@[simp] theorem putF_out (s : State) (f : Field) (v : Nat) : (putF s f v).out = s.out := rfl

/-! `emit` writes out. -/

@[simp] theorem emit_pending (s : State) (o : Output) : (emit s o).pending = s.pending := rfl
@[simp] theorem emit_fresh (s : State) (o : Output) : (emit s o).fresh = s.fresh := rfl
@[simp] theorem emit_fields (s : State) (o : Output) : (emit s o).fields = s.fields := rfl
@[simp] theorem emit_mem (s : State) (o : Output) : (emit s o).mem = s.mem := rfl
@[simp] theorem emit_plt (s : State) (o : Output) : (emit s o).plt = s.plt := rfl
@[simp] theorem emit_pwr (s : State) (o : Output) : (emit s o).pwr = s.pwr := rfl
@[simp] theorem emit_pcie (s : State) (o : Output) : (emit s o).pcie = s.pcie := rfl
@[simp] theorem emit_stk (s : State) (o : Output) : (emit s o).stk = s.stk := rfl
@[simp] theorem emit_fab (s : State) (o : Output) : (emit s o).fab = s.fab := rfl
@[simp] theorem emit_ucode (s : State) (o : Output) : (emit s o).ucode = s.ucode := rfl
@[simp] theorem emit_sch (s : State) (o : Output) : (emit s o).sch = s.sch := rfl
@[simp] theorem emit_rqt (s : State) (o : Output) : (emit s o).rqt = s.rqt := rfl
@[simp] theorem emit_pfx (s : State) (o : Output) : (emit s o).pfx = s.pfx := rfl
@[simp] theorem emit_xfr (s : State) (o : Output) : (emit s o).xfr = s.xfr := rfl
@[simp] theorem emit_cod (s : State) (o : Output) : (emit s o).cod = s.cod := rfl
@[simp] theorem emit_lnk (s : State) (o : Output) : (emit s o).lnk = s.lnk := rfl
@[simp] theorem emit_coh (s : State) (o : Output) : (emit s o).coh = s.coh := rfl
@[simp] theorem emit_tm (s : State) (o : Output) : (emit s o).tm = s.tm := rfl
@[simp] theorem emit_fls (s : State) (o : Output) : (emit s o).fls = s.fls := rfl
@[simp] theorem emit_twn (s : State) (o : Output) : (emit s o).twn = s.twn := rfl
@[simp] theorem emit_mtr (s : State) (o : Output) : (emit s o).mtr = s.mtr := rfl
@[simp] theorem emit_lane (s : State) (o : Output) : (emit s o).lane = s.lane := rfl

/-! `dropCopies` writes coh, mem. -/

@[simp] theorem dropCopies_pending (s : State) (a n : Nat) : (dropCopies s a n).pending = s.pending := rfl
@[simp] theorem dropCopies_fresh (s : State) (a n : Nat) : (dropCopies s a n).fresh = s.fresh := rfl
@[simp] theorem dropCopies_fields (s : State) (a n : Nat) : (dropCopies s a n).fields = s.fields := rfl
@[simp] theorem dropCopies_plt (s : State) (a n : Nat) : (dropCopies s a n).plt = s.plt := rfl
@[simp] theorem dropCopies_pwr (s : State) (a n : Nat) : (dropCopies s a n).pwr = s.pwr := rfl
@[simp] theorem dropCopies_pcie (s : State) (a n : Nat) : (dropCopies s a n).pcie = s.pcie := rfl
@[simp] theorem dropCopies_stk (s : State) (a n : Nat) : (dropCopies s a n).stk = s.stk := rfl
@[simp] theorem dropCopies_fab (s : State) (a n : Nat) : (dropCopies s a n).fab = s.fab := rfl
@[simp] theorem dropCopies_ucode (s : State) (a n : Nat) : (dropCopies s a n).ucode = s.ucode := rfl
@[simp] theorem dropCopies_sch (s : State) (a n : Nat) : (dropCopies s a n).sch = s.sch := rfl
@[simp] theorem dropCopies_rqt (s : State) (a n : Nat) : (dropCopies s a n).rqt = s.rqt := rfl
@[simp] theorem dropCopies_pfx (s : State) (a n : Nat) : (dropCopies s a n).pfx = s.pfx := rfl
@[simp] theorem dropCopies_xfr (s : State) (a n : Nat) : (dropCopies s a n).xfr = s.xfr := rfl
@[simp] theorem dropCopies_cod (s : State) (a n : Nat) : (dropCopies s a n).cod = s.cod := rfl
@[simp] theorem dropCopies_lnk (s : State) (a n : Nat) : (dropCopies s a n).lnk = s.lnk := rfl
@[simp] theorem dropCopies_tm (s : State) (a n : Nat) : (dropCopies s a n).tm = s.tm := rfl
@[simp] theorem dropCopies_fls (s : State) (a n : Nat) : (dropCopies s a n).fls = s.fls := rfl
@[simp] theorem dropCopies_twn (s : State) (a n : Nat) : (dropCopies s a n).twn = s.twn := rfl
@[simp] theorem dropCopies_mtr (s : State) (a n : Nat) : (dropCopies s a n).mtr = s.mtr := rfl
@[simp] theorem dropCopies_lane (s : State) (a n : Nat) : (dropCopies s a n).lane = s.lane := rfl
@[simp] theorem dropCopies_out (s : State) (a n : Nat) : (dropCopies s a n).out = s.out := rfl

/-! `protect` writes stk. -/

@[simp] theorem protect_pending (s : State) (a n : Nat) (on : Bool) : (protect s a n on).pending = s.pending := rfl
@[simp] theorem protect_fresh (s : State) (a n : Nat) (on : Bool) : (protect s a n on).fresh = s.fresh := rfl
@[simp] theorem protect_fields (s : State) (a n : Nat) (on : Bool) : (protect s a n on).fields = s.fields := rfl
@[simp] theorem protect_mem (s : State) (a n : Nat) (on : Bool) : (protect s a n on).mem = s.mem := rfl
@[simp] theorem protect_plt (s : State) (a n : Nat) (on : Bool) : (protect s a n on).plt = s.plt := rfl
@[simp] theorem protect_pwr (s : State) (a n : Nat) (on : Bool) : (protect s a n on).pwr = s.pwr := rfl
@[simp] theorem protect_pcie (s : State) (a n : Nat) (on : Bool) : (protect s a n on).pcie = s.pcie := rfl
@[simp] theorem protect_fab (s : State) (a n : Nat) (on : Bool) : (protect s a n on).fab = s.fab := rfl
@[simp] theorem protect_ucode (s : State) (a n : Nat) (on : Bool) : (protect s a n on).ucode = s.ucode := rfl
@[simp] theorem protect_sch (s : State) (a n : Nat) (on : Bool) : (protect s a n on).sch = s.sch := rfl
@[simp] theorem protect_rqt (s : State) (a n : Nat) (on : Bool) : (protect s a n on).rqt = s.rqt := rfl
@[simp] theorem protect_pfx (s : State) (a n : Nat) (on : Bool) : (protect s a n on).pfx = s.pfx := rfl
@[simp] theorem protect_xfr (s : State) (a n : Nat) (on : Bool) : (protect s a n on).xfr = s.xfr := rfl
@[simp] theorem protect_cod (s : State) (a n : Nat) (on : Bool) : (protect s a n on).cod = s.cod := rfl
@[simp] theorem protect_lnk (s : State) (a n : Nat) (on : Bool) : (protect s a n on).lnk = s.lnk := rfl
@[simp] theorem protect_coh (s : State) (a n : Nat) (on : Bool) : (protect s a n on).coh = s.coh := rfl
@[simp] theorem protect_tm (s : State) (a n : Nat) (on : Bool) : (protect s a n on).tm = s.tm := rfl
@[simp] theorem protect_fls (s : State) (a n : Nat) (on : Bool) : (protect s a n on).fls = s.fls := rfl
@[simp] theorem protect_twn (s : State) (a n : Nat) (on : Bool) : (protect s a n on).twn = s.twn := rfl
@[simp] theorem protect_mtr (s : State) (a n : Nat) (on : Bool) : (protect s a n on).mtr = s.mtr := rfl
@[simp] theorem protect_lane (s : State) (a n : Nat) (on : Bool) : (protect s a n on).lane = s.lane := rfl
@[simp] theorem protect_out (s : State) (a n : Nat) (on : Bool) : (protect s a n on).out = s.out := rfl

/-! `setEntry` writes rqt. -/

@[simp] theorem setEntry_pending (s : State) (i : Nat) (e : Entry) : (setEntry s i e).pending = s.pending := rfl
@[simp] theorem setEntry_fresh (s : State) (i : Nat) (e : Entry) : (setEntry s i e).fresh = s.fresh := rfl
@[simp] theorem setEntry_fields (s : State) (i : Nat) (e : Entry) : (setEntry s i e).fields = s.fields := rfl
@[simp] theorem setEntry_mem (s : State) (i : Nat) (e : Entry) : (setEntry s i e).mem = s.mem := rfl
@[simp] theorem setEntry_plt (s : State) (i : Nat) (e : Entry) : (setEntry s i e).plt = s.plt := rfl
@[simp] theorem setEntry_pwr (s : State) (i : Nat) (e : Entry) : (setEntry s i e).pwr = s.pwr := rfl
@[simp] theorem setEntry_pcie (s : State) (i : Nat) (e : Entry) : (setEntry s i e).pcie = s.pcie := rfl
@[simp] theorem setEntry_stk (s : State) (i : Nat) (e : Entry) : (setEntry s i e).stk = s.stk := rfl
@[simp] theorem setEntry_fab (s : State) (i : Nat) (e : Entry) : (setEntry s i e).fab = s.fab := rfl
@[simp] theorem setEntry_ucode (s : State) (i : Nat) (e : Entry) : (setEntry s i e).ucode = s.ucode := rfl
@[simp] theorem setEntry_sch (s : State) (i : Nat) (e : Entry) : (setEntry s i e).sch = s.sch := rfl
@[simp] theorem setEntry_pfx (s : State) (i : Nat) (e : Entry) : (setEntry s i e).pfx = s.pfx := rfl
@[simp] theorem setEntry_xfr (s : State) (i : Nat) (e : Entry) : (setEntry s i e).xfr = s.xfr := rfl
@[simp] theorem setEntry_cod (s : State) (i : Nat) (e : Entry) : (setEntry s i e).cod = s.cod := rfl
@[simp] theorem setEntry_lnk (s : State) (i : Nat) (e : Entry) : (setEntry s i e).lnk = s.lnk := rfl
@[simp] theorem setEntry_coh (s : State) (i : Nat) (e : Entry) : (setEntry s i e).coh = s.coh := rfl
@[simp] theorem setEntry_tm (s : State) (i : Nat) (e : Entry) : (setEntry s i e).tm = s.tm := rfl
@[simp] theorem setEntry_fls (s : State) (i : Nat) (e : Entry) : (setEntry s i e).fls = s.fls := rfl
@[simp] theorem setEntry_twn (s : State) (i : Nat) (e : Entry) : (setEntry s i e).twn = s.twn := rfl
@[simp] theorem setEntry_mtr (s : State) (i : Nat) (e : Entry) : (setEntry s i e).mtr = s.mtr := rfl
@[simp] theorem setEntry_lane (s : State) (i : Nat) (e : Entry) : (setEntry s i e).lane = s.lane := rfl
@[simp] theorem setEntry_out (s : State) (i : Nat) (e : Entry) : (setEntry s i e).out = s.out := rfl

/-! `setQueues` writes rqt. -/

@[simp] theorem setQueues_pending (s : State) (t : Nat) (q : TenantQueues) : (setQueues s t q).pending = s.pending := rfl
@[simp] theorem setQueues_fresh (s : State) (t : Nat) (q : TenantQueues) : (setQueues s t q).fresh = s.fresh := rfl
@[simp] theorem setQueues_fields (s : State) (t : Nat) (q : TenantQueues) : (setQueues s t q).fields = s.fields := rfl
@[simp] theorem setQueues_mem (s : State) (t : Nat) (q : TenantQueues) : (setQueues s t q).mem = s.mem := rfl
@[simp] theorem setQueues_plt (s : State) (t : Nat) (q : TenantQueues) : (setQueues s t q).plt = s.plt := rfl
@[simp] theorem setQueues_pwr (s : State) (t : Nat) (q : TenantQueues) : (setQueues s t q).pwr = s.pwr := rfl
@[simp] theorem setQueues_pcie (s : State) (t : Nat) (q : TenantQueues) : (setQueues s t q).pcie = s.pcie := rfl
@[simp] theorem setQueues_stk (s : State) (t : Nat) (q : TenantQueues) : (setQueues s t q).stk = s.stk := rfl
@[simp] theorem setQueues_fab (s : State) (t : Nat) (q : TenantQueues) : (setQueues s t q).fab = s.fab := rfl
@[simp] theorem setQueues_ucode (s : State) (t : Nat) (q : TenantQueues) : (setQueues s t q).ucode = s.ucode := rfl
@[simp] theorem setQueues_sch (s : State) (t : Nat) (q : TenantQueues) : (setQueues s t q).sch = s.sch := rfl
@[simp] theorem setQueues_pfx (s : State) (t : Nat) (q : TenantQueues) : (setQueues s t q).pfx = s.pfx := rfl
@[simp] theorem setQueues_xfr (s : State) (t : Nat) (q : TenantQueues) : (setQueues s t q).xfr = s.xfr := rfl
@[simp] theorem setQueues_cod (s : State) (t : Nat) (q : TenantQueues) : (setQueues s t q).cod = s.cod := rfl
@[simp] theorem setQueues_lnk (s : State) (t : Nat) (q : TenantQueues) : (setQueues s t q).lnk = s.lnk := rfl
@[simp] theorem setQueues_coh (s : State) (t : Nat) (q : TenantQueues) : (setQueues s t q).coh = s.coh := rfl
@[simp] theorem setQueues_tm (s : State) (t : Nat) (q : TenantQueues) : (setQueues s t q).tm = s.tm := rfl
@[simp] theorem setQueues_fls (s : State) (t : Nat) (q : TenantQueues) : (setQueues s t q).fls = s.fls := rfl
@[simp] theorem setQueues_twn (s : State) (t : Nat) (q : TenantQueues) : (setQueues s t q).twn = s.twn := rfl
@[simp] theorem setQueues_mtr (s : State) (t : Nat) (q : TenantQueues) : (setQueues s t q).mtr = s.mtr := rfl
@[simp] theorem setQueues_lane (s : State) (t : Nat) (q : TenantQueues) : (setQueues s t q).lane = s.lane := rfl
@[simp] theorem setQueues_out (s : State) (t : Nat) (q : TenantQueues) : (setQueues s t q).out = s.out := rfl

/-! `advanceRound` writes tm. -/

@[simp] theorem advanceRound_pending (s : State) (p k : Nat) : (advanceRound s p k).pending = s.pending := rfl
@[simp] theorem advanceRound_fresh (s : State) (p k : Nat) : (advanceRound s p k).fresh = s.fresh := rfl
@[simp] theorem advanceRound_fields (s : State) (p k : Nat) : (advanceRound s p k).fields = s.fields := rfl
@[simp] theorem advanceRound_mem (s : State) (p k : Nat) : (advanceRound s p k).mem = s.mem := rfl
@[simp] theorem advanceRound_plt (s : State) (p k : Nat) : (advanceRound s p k).plt = s.plt := rfl
@[simp] theorem advanceRound_pwr (s : State) (p k : Nat) : (advanceRound s p k).pwr = s.pwr := rfl
@[simp] theorem advanceRound_pcie (s : State) (p k : Nat) : (advanceRound s p k).pcie = s.pcie := rfl
@[simp] theorem advanceRound_stk (s : State) (p k : Nat) : (advanceRound s p k).stk = s.stk := rfl
@[simp] theorem advanceRound_fab (s : State) (p k : Nat) : (advanceRound s p k).fab = s.fab := rfl
@[simp] theorem advanceRound_ucode (s : State) (p k : Nat) : (advanceRound s p k).ucode = s.ucode := rfl
@[simp] theorem advanceRound_sch (s : State) (p k : Nat) : (advanceRound s p k).sch = s.sch := rfl
@[simp] theorem advanceRound_rqt (s : State) (p k : Nat) : (advanceRound s p k).rqt = s.rqt := rfl
@[simp] theorem advanceRound_pfx (s : State) (p k : Nat) : (advanceRound s p k).pfx = s.pfx := rfl
@[simp] theorem advanceRound_xfr (s : State) (p k : Nat) : (advanceRound s p k).xfr = s.xfr := rfl
@[simp] theorem advanceRound_cod (s : State) (p k : Nat) : (advanceRound s p k).cod = s.cod := rfl
@[simp] theorem advanceRound_lnk (s : State) (p k : Nat) : (advanceRound s p k).lnk = s.lnk := rfl
@[simp] theorem advanceRound_coh (s : State) (p k : Nat) : (advanceRound s p k).coh = s.coh := rfl
@[simp] theorem advanceRound_fls (s : State) (p k : Nat) : (advanceRound s p k).fls = s.fls := rfl
@[simp] theorem advanceRound_twn (s : State) (p k : Nat) : (advanceRound s p k).twn = s.twn := rfl
@[simp] theorem advanceRound_mtr (s : State) (p k : Nat) : (advanceRound s p k).mtr = s.mtr := rfl
@[simp] theorem advanceRound_lane (s : State) (p k : Nat) : (advanceRound s p k).lane = s.lane := rfl
@[simp] theorem advanceRound_out (s : State) (p k : Nat) : (advanceRound s p k).out = s.out := rfl

/-! `setDeficit` writes tm. -/

@[simp] theorem setDeficit_pending (s : State) (p k : Nat) (d : Int) : (setDeficit s p k d).pending = s.pending := rfl
@[simp] theorem setDeficit_fresh (s : State) (p k : Nat) (d : Int) : (setDeficit s p k d).fresh = s.fresh := rfl
@[simp] theorem setDeficit_fields (s : State) (p k : Nat) (d : Int) : (setDeficit s p k d).fields = s.fields := rfl
@[simp] theorem setDeficit_mem (s : State) (p k : Nat) (d : Int) : (setDeficit s p k d).mem = s.mem := rfl
@[simp] theorem setDeficit_plt (s : State) (p k : Nat) (d : Int) : (setDeficit s p k d).plt = s.plt := rfl
@[simp] theorem setDeficit_pwr (s : State) (p k : Nat) (d : Int) : (setDeficit s p k d).pwr = s.pwr := rfl
@[simp] theorem setDeficit_pcie (s : State) (p k : Nat) (d : Int) : (setDeficit s p k d).pcie = s.pcie := rfl
@[simp] theorem setDeficit_stk (s : State) (p k : Nat) (d : Int) : (setDeficit s p k d).stk = s.stk := rfl
@[simp] theorem setDeficit_fab (s : State) (p k : Nat) (d : Int) : (setDeficit s p k d).fab = s.fab := rfl
@[simp] theorem setDeficit_ucode (s : State) (p k : Nat) (d : Int) : (setDeficit s p k d).ucode = s.ucode := rfl
@[simp] theorem setDeficit_sch (s : State) (p k : Nat) (d : Int) : (setDeficit s p k d).sch = s.sch := rfl
@[simp] theorem setDeficit_rqt (s : State) (p k : Nat) (d : Int) : (setDeficit s p k d).rqt = s.rqt := rfl
@[simp] theorem setDeficit_pfx (s : State) (p k : Nat) (d : Int) : (setDeficit s p k d).pfx = s.pfx := rfl
@[simp] theorem setDeficit_xfr (s : State) (p k : Nat) (d : Int) : (setDeficit s p k d).xfr = s.xfr := rfl
@[simp] theorem setDeficit_cod (s : State) (p k : Nat) (d : Int) : (setDeficit s p k d).cod = s.cod := rfl
@[simp] theorem setDeficit_lnk (s : State) (p k : Nat) (d : Int) : (setDeficit s p k d).lnk = s.lnk := rfl
@[simp] theorem setDeficit_coh (s : State) (p k : Nat) (d : Int) : (setDeficit s p k d).coh = s.coh := rfl
@[simp] theorem setDeficit_fls (s : State) (p k : Nat) (d : Int) : (setDeficit s p k d).fls = s.fls := rfl
@[simp] theorem setDeficit_twn (s : State) (p k : Nat) (d : Int) : (setDeficit s p k d).twn = s.twn := rfl
@[simp] theorem setDeficit_mtr (s : State) (p k : Nat) (d : Int) : (setDeficit s p k d).mtr = s.mtr := rfl
@[simp] theorem setDeficit_lane (s : State) (p k : Nat) (d : Int) : (setDeficit s p k d).lane = s.lane := rfl
@[simp] theorem setDeficit_out (s : State) (p k : Nat) (d : Int) : (setDeficit s p k d).out = s.out := rfl

/-! `fillMeter` writes tm. -/

@[simp] theorem fillMeter_pending (s : State) (m : Nat) : (fillMeter s m).pending = s.pending := rfl
@[simp] theorem fillMeter_fresh (s : State) (m : Nat) : (fillMeter s m).fresh = s.fresh := rfl
@[simp] theorem fillMeter_fields (s : State) (m : Nat) : (fillMeter s m).fields = s.fields := rfl
@[simp] theorem fillMeter_mem (s : State) (m : Nat) : (fillMeter s m).mem = s.mem := rfl
@[simp] theorem fillMeter_plt (s : State) (m : Nat) : (fillMeter s m).plt = s.plt := rfl
@[simp] theorem fillMeter_pwr (s : State) (m : Nat) : (fillMeter s m).pwr = s.pwr := rfl
@[simp] theorem fillMeter_pcie (s : State) (m : Nat) : (fillMeter s m).pcie = s.pcie := rfl
@[simp] theorem fillMeter_stk (s : State) (m : Nat) : (fillMeter s m).stk = s.stk := rfl
@[simp] theorem fillMeter_fab (s : State) (m : Nat) : (fillMeter s m).fab = s.fab := rfl
@[simp] theorem fillMeter_ucode (s : State) (m : Nat) : (fillMeter s m).ucode = s.ucode := rfl
@[simp] theorem fillMeter_sch (s : State) (m : Nat) : (fillMeter s m).sch = s.sch := rfl
@[simp] theorem fillMeter_rqt (s : State) (m : Nat) : (fillMeter s m).rqt = s.rqt := rfl
@[simp] theorem fillMeter_pfx (s : State) (m : Nat) : (fillMeter s m).pfx = s.pfx := rfl
@[simp] theorem fillMeter_xfr (s : State) (m : Nat) : (fillMeter s m).xfr = s.xfr := rfl
@[simp] theorem fillMeter_cod (s : State) (m : Nat) : (fillMeter s m).cod = s.cod := rfl
@[simp] theorem fillMeter_lnk (s : State) (m : Nat) : (fillMeter s m).lnk = s.lnk := rfl
@[simp] theorem fillMeter_coh (s : State) (m : Nat) : (fillMeter s m).coh = s.coh := rfl
@[simp] theorem fillMeter_fls (s : State) (m : Nat) : (fillMeter s m).fls = s.fls := rfl
@[simp] theorem fillMeter_twn (s : State) (m : Nat) : (fillMeter s m).twn = s.twn := rfl
@[simp] theorem fillMeter_mtr (s : State) (m : Nat) : (fillMeter s m).mtr = s.mtr := rfl
@[simp] theorem fillMeter_lane (s : State) (m : Nat) : (fillMeter s m).lane = s.lane := rfl
@[simp] theorem fillMeter_out (s : State) (m : Nat) : (fillMeter s m).out = s.out := rfl

/-! `setBypass` writes cod. -/

@[simp] theorem setBypass_pending (s : State) (p : Nat) (on : Bool) : (setBypass s p on).pending = s.pending := rfl
@[simp] theorem setBypass_fresh (s : State) (p : Nat) (on : Bool) : (setBypass s p on).fresh = s.fresh := rfl
@[simp] theorem setBypass_fields (s : State) (p : Nat) (on : Bool) : (setBypass s p on).fields = s.fields := rfl
@[simp] theorem setBypass_mem (s : State) (p : Nat) (on : Bool) : (setBypass s p on).mem = s.mem := rfl
@[simp] theorem setBypass_plt (s : State) (p : Nat) (on : Bool) : (setBypass s p on).plt = s.plt := rfl
@[simp] theorem setBypass_pwr (s : State) (p : Nat) (on : Bool) : (setBypass s p on).pwr = s.pwr := rfl
@[simp] theorem setBypass_pcie (s : State) (p : Nat) (on : Bool) : (setBypass s p on).pcie = s.pcie := rfl
@[simp] theorem setBypass_stk (s : State) (p : Nat) (on : Bool) : (setBypass s p on).stk = s.stk := rfl
@[simp] theorem setBypass_fab (s : State) (p : Nat) (on : Bool) : (setBypass s p on).fab = s.fab := rfl
@[simp] theorem setBypass_ucode (s : State) (p : Nat) (on : Bool) : (setBypass s p on).ucode = s.ucode := rfl
@[simp] theorem setBypass_sch (s : State) (p : Nat) (on : Bool) : (setBypass s p on).sch = s.sch := rfl
@[simp] theorem setBypass_rqt (s : State) (p : Nat) (on : Bool) : (setBypass s p on).rqt = s.rqt := rfl
@[simp] theorem setBypass_pfx (s : State) (p : Nat) (on : Bool) : (setBypass s p on).pfx = s.pfx := rfl
@[simp] theorem setBypass_xfr (s : State) (p : Nat) (on : Bool) : (setBypass s p on).xfr = s.xfr := rfl
@[simp] theorem setBypass_lnk (s : State) (p : Nat) (on : Bool) : (setBypass s p on).lnk = s.lnk := rfl
@[simp] theorem setBypass_coh (s : State) (p : Nat) (on : Bool) : (setBypass s p on).coh = s.coh := rfl
@[simp] theorem setBypass_tm (s : State) (p : Nat) (on : Bool) : (setBypass s p on).tm = s.tm := rfl
@[simp] theorem setBypass_fls (s : State) (p : Nat) (on : Bool) : (setBypass s p on).fls = s.fls := rfl
@[simp] theorem setBypass_twn (s : State) (p : Nat) (on : Bool) : (setBypass s p on).twn = s.twn := rfl
@[simp] theorem setBypass_mtr (s : State) (p : Nat) (on : Bool) : (setBypass s p on).mtr = s.mtr := rfl
@[simp] theorem setBypass_lane (s : State) (p : Nat) (on : Bool) : (setBypass s p on).lane = s.lane := rfl
@[simp] theorem setBypass_out (s : State) (p : Nat) (on : Bool) : (setBypass s p on).out = s.out := rfl

/-! `setConn` writes xfr. -/

@[simp] theorem setConn_pending (s : State) (c : Connection) : (setConn s c).pending = s.pending := rfl
@[simp] theorem setConn_fresh (s : State) (c : Connection) : (setConn s c).fresh = s.fresh := rfl
@[simp] theorem setConn_fields (s : State) (c : Connection) : (setConn s c).fields = s.fields := rfl
@[simp] theorem setConn_mem (s : State) (c : Connection) : (setConn s c).mem = s.mem := rfl
@[simp] theorem setConn_plt (s : State) (c : Connection) : (setConn s c).plt = s.plt := rfl
@[simp] theorem setConn_pwr (s : State) (c : Connection) : (setConn s c).pwr = s.pwr := rfl
@[simp] theorem setConn_pcie (s : State) (c : Connection) : (setConn s c).pcie = s.pcie := rfl
@[simp] theorem setConn_stk (s : State) (c : Connection) : (setConn s c).stk = s.stk := rfl
@[simp] theorem setConn_fab (s : State) (c : Connection) : (setConn s c).fab = s.fab := rfl
@[simp] theorem setConn_ucode (s : State) (c : Connection) : (setConn s c).ucode = s.ucode := rfl
@[simp] theorem setConn_sch (s : State) (c : Connection) : (setConn s c).sch = s.sch := rfl
@[simp] theorem setConn_rqt (s : State) (c : Connection) : (setConn s c).rqt = s.rqt := rfl
@[simp] theorem setConn_pfx (s : State) (c : Connection) : (setConn s c).pfx = s.pfx := rfl
@[simp] theorem setConn_cod (s : State) (c : Connection) : (setConn s c).cod = s.cod := rfl
@[simp] theorem setConn_lnk (s : State) (c : Connection) : (setConn s c).lnk = s.lnk := rfl
@[simp] theorem setConn_coh (s : State) (c : Connection) : (setConn s c).coh = s.coh := rfl
@[simp] theorem setConn_tm (s : State) (c : Connection) : (setConn s c).tm = s.tm := rfl
@[simp] theorem setConn_fls (s : State) (c : Connection) : (setConn s c).fls = s.fls := rfl
@[simp] theorem setConn_twn (s : State) (c : Connection) : (setConn s c).twn = s.twn := rfl
@[simp] theorem setConn_mtr (s : State) (c : Connection) : (setConn s c).mtr = s.mtr := rfl
@[simp] theorem setConn_lane (s : State) (c : Connection) : (setConn s c).lane = s.lane := rfl
@[simp] theorem setConn_out (s : State) (c : Connection) : (setConn s c).out = s.out := rfl

/-! `dropConn` writes xfr. -/

@[simp] theorem dropConn_pending (s : State) (peer : PartAddr) : (dropConn s peer).pending = s.pending := rfl
@[simp] theorem dropConn_fresh (s : State) (peer : PartAddr) : (dropConn s peer).fresh = s.fresh := rfl
@[simp] theorem dropConn_fields (s : State) (peer : PartAddr) : (dropConn s peer).fields = s.fields := rfl
@[simp] theorem dropConn_mem (s : State) (peer : PartAddr) : (dropConn s peer).mem = s.mem := rfl
@[simp] theorem dropConn_plt (s : State) (peer : PartAddr) : (dropConn s peer).plt = s.plt := rfl
@[simp] theorem dropConn_pwr (s : State) (peer : PartAddr) : (dropConn s peer).pwr = s.pwr := rfl
@[simp] theorem dropConn_pcie (s : State) (peer : PartAddr) : (dropConn s peer).pcie = s.pcie := rfl
@[simp] theorem dropConn_stk (s : State) (peer : PartAddr) : (dropConn s peer).stk = s.stk := rfl
@[simp] theorem dropConn_fab (s : State) (peer : PartAddr) : (dropConn s peer).fab = s.fab := rfl
@[simp] theorem dropConn_ucode (s : State) (peer : PartAddr) : (dropConn s peer).ucode = s.ucode := rfl
@[simp] theorem dropConn_sch (s : State) (peer : PartAddr) : (dropConn s peer).sch = s.sch := rfl
@[simp] theorem dropConn_rqt (s : State) (peer : PartAddr) : (dropConn s peer).rqt = s.rqt := rfl
@[simp] theorem dropConn_pfx (s : State) (peer : PartAddr) : (dropConn s peer).pfx = s.pfx := rfl
@[simp] theorem dropConn_cod (s : State) (peer : PartAddr) : (dropConn s peer).cod = s.cod := rfl
@[simp] theorem dropConn_lnk (s : State) (peer : PartAddr) : (dropConn s peer).lnk = s.lnk := rfl
@[simp] theorem dropConn_coh (s : State) (peer : PartAddr) : (dropConn s peer).coh = s.coh := rfl
@[simp] theorem dropConn_tm (s : State) (peer : PartAddr) : (dropConn s peer).tm = s.tm := rfl
@[simp] theorem dropConn_fls (s : State) (peer : PartAddr) : (dropConn s peer).fls = s.fls := rfl
@[simp] theorem dropConn_twn (s : State) (peer : PartAddr) : (dropConn s peer).twn = s.twn := rfl
@[simp] theorem dropConn_mtr (s : State) (peer : PartAddr) : (dropConn s peer).mtr = s.mtr := rfl
@[simp] theorem dropConn_lane (s : State) (peer : PartAddr) : (dropConn s peer).lane = s.lane := rfl
@[simp] theorem dropConn_out (s : State) (peer : PartAddr) : (dropConn s peer).out = s.out := rfl

/-! `setComp` writes sch. -/

@[simp] theorem setComp_pending (s : State) (c : Nat) (x : Option Composition) : (setComp s c x).pending = s.pending := rfl
@[simp] theorem setComp_fresh (s : State) (c : Nat) (x : Option Composition) : (setComp s c x).fresh = s.fresh := rfl
@[simp] theorem setComp_fields (s : State) (c : Nat) (x : Option Composition) : (setComp s c x).fields = s.fields := rfl
@[simp] theorem setComp_mem (s : State) (c : Nat) (x : Option Composition) : (setComp s c x).mem = s.mem := rfl
@[simp] theorem setComp_plt (s : State) (c : Nat) (x : Option Composition) : (setComp s c x).plt = s.plt := rfl
@[simp] theorem setComp_pwr (s : State) (c : Nat) (x : Option Composition) : (setComp s c x).pwr = s.pwr := rfl
@[simp] theorem setComp_pcie (s : State) (c : Nat) (x : Option Composition) : (setComp s c x).pcie = s.pcie := rfl
@[simp] theorem setComp_stk (s : State) (c : Nat) (x : Option Composition) : (setComp s c x).stk = s.stk := rfl
@[simp] theorem setComp_fab (s : State) (c : Nat) (x : Option Composition) : (setComp s c x).fab = s.fab := rfl
@[simp] theorem setComp_ucode (s : State) (c : Nat) (x : Option Composition) : (setComp s c x).ucode = s.ucode := rfl
@[simp] theorem setComp_rqt (s : State) (c : Nat) (x : Option Composition) : (setComp s c x).rqt = s.rqt := rfl
@[simp] theorem setComp_pfx (s : State) (c : Nat) (x : Option Composition) : (setComp s c x).pfx = s.pfx := rfl
@[simp] theorem setComp_xfr (s : State) (c : Nat) (x : Option Composition) : (setComp s c x).xfr = s.xfr := rfl
@[simp] theorem setComp_cod (s : State) (c : Nat) (x : Option Composition) : (setComp s c x).cod = s.cod := rfl
@[simp] theorem setComp_lnk (s : State) (c : Nat) (x : Option Composition) : (setComp s c x).lnk = s.lnk := rfl
@[simp] theorem setComp_coh (s : State) (c : Nat) (x : Option Composition) : (setComp s c x).coh = s.coh := rfl
@[simp] theorem setComp_tm (s : State) (c : Nat) (x : Option Composition) : (setComp s c x).tm = s.tm := rfl
@[simp] theorem setComp_fls (s : State) (c : Nat) (x : Option Composition) : (setComp s c x).fls = s.fls := rfl
@[simp] theorem setComp_twn (s : State) (c : Nat) (x : Option Composition) : (setComp s c x).twn = s.twn := rfl
@[simp] theorem setComp_mtr (s : State) (c : Nat) (x : Option Composition) : (setComp s c x).mtr = s.mtr := rfl
@[simp] theorem setComp_lane (s : State) (c : Nat) (x : Option Composition) : (setComp s c x).lane = s.lane := rfl
@[simp] theorem setComp_out (s : State) (c : Nat) (x : Option Composition) : (setComp s c x).out = s.out := rfl

/-! `setRegion` writes fab. -/

@[simp] theorem setRegion_pending (s : State) (n : Nat) (r : Region) : (setRegion s n r).pending = s.pending := rfl
@[simp] theorem setRegion_fresh (s : State) (n : Nat) (r : Region) : (setRegion s n r).fresh = s.fresh := rfl
@[simp] theorem setRegion_fields (s : State) (n : Nat) (r : Region) : (setRegion s n r).fields = s.fields := rfl
@[simp] theorem setRegion_mem (s : State) (n : Nat) (r : Region) : (setRegion s n r).mem = s.mem := rfl
@[simp] theorem setRegion_plt (s : State) (n : Nat) (r : Region) : (setRegion s n r).plt = s.plt := rfl
@[simp] theorem setRegion_pwr (s : State) (n : Nat) (r : Region) : (setRegion s n r).pwr = s.pwr := rfl
@[simp] theorem setRegion_pcie (s : State) (n : Nat) (r : Region) : (setRegion s n r).pcie = s.pcie := rfl
@[simp] theorem setRegion_stk (s : State) (n : Nat) (r : Region) : (setRegion s n r).stk = s.stk := rfl
@[simp] theorem setRegion_ucode (s : State) (n : Nat) (r : Region) : (setRegion s n r).ucode = s.ucode := rfl
@[simp] theorem setRegion_sch (s : State) (n : Nat) (r : Region) : (setRegion s n r).sch = s.sch := rfl
@[simp] theorem setRegion_rqt (s : State) (n : Nat) (r : Region) : (setRegion s n r).rqt = s.rqt := rfl
@[simp] theorem setRegion_pfx (s : State) (n : Nat) (r : Region) : (setRegion s n r).pfx = s.pfx := rfl
@[simp] theorem setRegion_xfr (s : State) (n : Nat) (r : Region) : (setRegion s n r).xfr = s.xfr := rfl
@[simp] theorem setRegion_cod (s : State) (n : Nat) (r : Region) : (setRegion s n r).cod = s.cod := rfl
@[simp] theorem setRegion_lnk (s : State) (n : Nat) (r : Region) : (setRegion s n r).lnk = s.lnk := rfl
@[simp] theorem setRegion_coh (s : State) (n : Nat) (r : Region) : (setRegion s n r).coh = s.coh := rfl
@[simp] theorem setRegion_tm (s : State) (n : Nat) (r : Region) : (setRegion s n r).tm = s.tm := rfl
@[simp] theorem setRegion_fls (s : State) (n : Nat) (r : Region) : (setRegion s n r).fls = s.fls := rfl
@[simp] theorem setRegion_twn (s : State) (n : Nat) (r : Region) : (setRegion s n r).twn = s.twn := rfl
@[simp] theorem setRegion_mtr (s : State) (n : Nat) (r : Region) : (setRegion s n r).mtr = s.mtr := rfl
@[simp] theorem setRegion_lane (s : State) (n : Nat) (r : Region) : (setRegion s n r).lane = s.lane := rfl
@[simp] theorem setRegion_out (s : State) (n : Nat) (r : Region) : (setRegion s n r).out = s.out := rfl

/-! `setPage` writes stk. -/

@[simp] theorem setPage_pending (s : State) (g : Nat) (r : PageRec) : (setPage s g r).pending = s.pending := rfl
@[simp] theorem setPage_fresh (s : State) (g : Nat) (r : PageRec) : (setPage s g r).fresh = s.fresh := rfl
@[simp] theorem setPage_fields (s : State) (g : Nat) (r : PageRec) : (setPage s g r).fields = s.fields := rfl
@[simp] theorem setPage_mem (s : State) (g : Nat) (r : PageRec) : (setPage s g r).mem = s.mem := rfl
@[simp] theorem setPage_plt (s : State) (g : Nat) (r : PageRec) : (setPage s g r).plt = s.plt := rfl
@[simp] theorem setPage_pwr (s : State) (g : Nat) (r : PageRec) : (setPage s g r).pwr = s.pwr := rfl
@[simp] theorem setPage_pcie (s : State) (g : Nat) (r : PageRec) : (setPage s g r).pcie = s.pcie := rfl
@[simp] theorem setPage_fab (s : State) (g : Nat) (r : PageRec) : (setPage s g r).fab = s.fab := rfl
@[simp] theorem setPage_ucode (s : State) (g : Nat) (r : PageRec) : (setPage s g r).ucode = s.ucode := rfl
@[simp] theorem setPage_sch (s : State) (g : Nat) (r : PageRec) : (setPage s g r).sch = s.sch := rfl
@[simp] theorem setPage_rqt (s : State) (g : Nat) (r : PageRec) : (setPage s g r).rqt = s.rqt := rfl
@[simp] theorem setPage_pfx (s : State) (g : Nat) (r : PageRec) : (setPage s g r).pfx = s.pfx := rfl
@[simp] theorem setPage_xfr (s : State) (g : Nat) (r : PageRec) : (setPage s g r).xfr = s.xfr := rfl
@[simp] theorem setPage_cod (s : State) (g : Nat) (r : PageRec) : (setPage s g r).cod = s.cod := rfl
@[simp] theorem setPage_lnk (s : State) (g : Nat) (r : PageRec) : (setPage s g r).lnk = s.lnk := rfl
@[simp] theorem setPage_coh (s : State) (g : Nat) (r : PageRec) : (setPage s g r).coh = s.coh := rfl
@[simp] theorem setPage_tm (s : State) (g : Nat) (r : PageRec) : (setPage s g r).tm = s.tm := rfl
@[simp] theorem setPage_fls (s : State) (g : Nat) (r : PageRec) : (setPage s g r).fls = s.fls := rfl
@[simp] theorem setPage_twn (s : State) (g : Nat) (r : PageRec) : (setPage s g r).twn = s.twn := rfl
@[simp] theorem setPage_mtr (s : State) (g : Nat) (r : PageRec) : (setPage s g r).mtr = s.mtr := rfl
@[simp] theorem setPage_lane (s : State) (g : Nat) (r : PageRec) : (setPage s g r).lane = s.lane := rfl
@[simp] theorem setPage_out (s : State) (g : Nat) (r : PageRec) : (setPage s g r).out = s.out := rfl

/-! `setManifest` writes rqt. -/

@[simp] theorem setManifest_pending (s : State) (i : Nat) (m : Manifest) : (setManifest s i m).pending = s.pending := rfl
@[simp] theorem setManifest_fresh (s : State) (i : Nat) (m : Manifest) : (setManifest s i m).fresh = s.fresh := rfl
@[simp] theorem setManifest_fields (s : State) (i : Nat) (m : Manifest) : (setManifest s i m).fields = s.fields := rfl
@[simp] theorem setManifest_mem (s : State) (i : Nat) (m : Manifest) : (setManifest s i m).mem = s.mem := rfl
@[simp] theorem setManifest_plt (s : State) (i : Nat) (m : Manifest) : (setManifest s i m).plt = s.plt := rfl
@[simp] theorem setManifest_pwr (s : State) (i : Nat) (m : Manifest) : (setManifest s i m).pwr = s.pwr := rfl
@[simp] theorem setManifest_pcie (s : State) (i : Nat) (m : Manifest) : (setManifest s i m).pcie = s.pcie := rfl
@[simp] theorem setManifest_stk (s : State) (i : Nat) (m : Manifest) : (setManifest s i m).stk = s.stk := rfl
@[simp] theorem setManifest_fab (s : State) (i : Nat) (m : Manifest) : (setManifest s i m).fab = s.fab := rfl
@[simp] theorem setManifest_ucode (s : State) (i : Nat) (m : Manifest) : (setManifest s i m).ucode = s.ucode := rfl
@[simp] theorem setManifest_sch (s : State) (i : Nat) (m : Manifest) : (setManifest s i m).sch = s.sch := rfl
@[simp] theorem setManifest_pfx (s : State) (i : Nat) (m : Manifest) : (setManifest s i m).pfx = s.pfx := rfl
@[simp] theorem setManifest_xfr (s : State) (i : Nat) (m : Manifest) : (setManifest s i m).xfr = s.xfr := rfl
@[simp] theorem setManifest_cod (s : State) (i : Nat) (m : Manifest) : (setManifest s i m).cod = s.cod := rfl
@[simp] theorem setManifest_lnk (s : State) (i : Nat) (m : Manifest) : (setManifest s i m).lnk = s.lnk := rfl
@[simp] theorem setManifest_coh (s : State) (i : Nat) (m : Manifest) : (setManifest s i m).coh = s.coh := rfl
@[simp] theorem setManifest_tm (s : State) (i : Nat) (m : Manifest) : (setManifest s i m).tm = s.tm := rfl
@[simp] theorem setManifest_fls (s : State) (i : Nat) (m : Manifest) : (setManifest s i m).fls = s.fls := rfl
@[simp] theorem setManifest_twn (s : State) (i : Nat) (m : Manifest) : (setManifest s i m).twn = s.twn := rfl
@[simp] theorem setManifest_mtr (s : State) (i : Nat) (m : Manifest) : (setManifest s i m).mtr = s.mtr := rfl
@[simp] theorem setManifest_lane (s : State) (i : Nat) (m : Manifest) : (setManifest s i m).lane = s.lane := rfl
@[simp] theorem setManifest_out (s : State) (i : Nat) (m : Manifest) : (setManifest s i m).out = s.out := rfl

/-! `setTable` writes cod. -/

@[simp] theorem setTable_pending (s : State) (j : Nat) (t : CodecTable) : (setTable s j t).pending = s.pending := rfl
@[simp] theorem setTable_fresh (s : State) (j : Nat) (t : CodecTable) : (setTable s j t).fresh = s.fresh := rfl
@[simp] theorem setTable_fields (s : State) (j : Nat) (t : CodecTable) : (setTable s j t).fields = s.fields := rfl
@[simp] theorem setTable_mem (s : State) (j : Nat) (t : CodecTable) : (setTable s j t).mem = s.mem := rfl
@[simp] theorem setTable_plt (s : State) (j : Nat) (t : CodecTable) : (setTable s j t).plt = s.plt := rfl
@[simp] theorem setTable_pwr (s : State) (j : Nat) (t : CodecTable) : (setTable s j t).pwr = s.pwr := rfl
@[simp] theorem setTable_pcie (s : State) (j : Nat) (t : CodecTable) : (setTable s j t).pcie = s.pcie := rfl
@[simp] theorem setTable_stk (s : State) (j : Nat) (t : CodecTable) : (setTable s j t).stk = s.stk := rfl
@[simp] theorem setTable_fab (s : State) (j : Nat) (t : CodecTable) : (setTable s j t).fab = s.fab := rfl
@[simp] theorem setTable_ucode (s : State) (j : Nat) (t : CodecTable) : (setTable s j t).ucode = s.ucode := rfl
@[simp] theorem setTable_sch (s : State) (j : Nat) (t : CodecTable) : (setTable s j t).sch = s.sch := rfl
@[simp] theorem setTable_rqt (s : State) (j : Nat) (t : CodecTable) : (setTable s j t).rqt = s.rqt := rfl
@[simp] theorem setTable_pfx (s : State) (j : Nat) (t : CodecTable) : (setTable s j t).pfx = s.pfx := rfl
@[simp] theorem setTable_xfr (s : State) (j : Nat) (t : CodecTable) : (setTable s j t).xfr = s.xfr := rfl
@[simp] theorem setTable_lnk (s : State) (j : Nat) (t : CodecTable) : (setTable s j t).lnk = s.lnk := rfl
@[simp] theorem setTable_coh (s : State) (j : Nat) (t : CodecTable) : (setTable s j t).coh = s.coh := rfl
@[simp] theorem setTable_tm (s : State) (j : Nat) (t : CodecTable) : (setTable s j t).tm = s.tm := rfl
@[simp] theorem setTable_fls (s : State) (j : Nat) (t : CodecTable) : (setTable s j t).fls = s.fls := rfl
@[simp] theorem setTable_twn (s : State) (j : Nat) (t : CodecTable) : (setTable s j t).twn = s.twn := rfl
@[simp] theorem setTable_mtr (s : State) (j : Nat) (t : CodecTable) : (setTable s j t).mtr = s.mtr := rfl
@[simp] theorem setTable_lane (s : State) (j : Nat) (t : CodecTable) : (setTable s j t).lane = s.lane := rfl
@[simp] theorem setTable_out (s : State) (j : Nat) (t : CodecTable) : (setTable s j t).out = s.out := rfl

/-! `setFlashBlock` writes fls. -/

@[simp] theorem setFlashBlock_pending (s : State) (b : Nat) (x : FlashBlock) : (setFlashBlock s b x).pending = s.pending := rfl
@[simp] theorem setFlashBlock_fresh (s : State) (b : Nat) (x : FlashBlock) : (setFlashBlock s b x).fresh = s.fresh := rfl
@[simp] theorem setFlashBlock_fields (s : State) (b : Nat) (x : FlashBlock) : (setFlashBlock s b x).fields = s.fields := rfl
@[simp] theorem setFlashBlock_mem (s : State) (b : Nat) (x : FlashBlock) : (setFlashBlock s b x).mem = s.mem := rfl
@[simp] theorem setFlashBlock_plt (s : State) (b : Nat) (x : FlashBlock) : (setFlashBlock s b x).plt = s.plt := rfl
@[simp] theorem setFlashBlock_pwr (s : State) (b : Nat) (x : FlashBlock) : (setFlashBlock s b x).pwr = s.pwr := rfl
@[simp] theorem setFlashBlock_pcie (s : State) (b : Nat) (x : FlashBlock) : (setFlashBlock s b x).pcie = s.pcie := rfl
@[simp] theorem setFlashBlock_stk (s : State) (b : Nat) (x : FlashBlock) : (setFlashBlock s b x).stk = s.stk := rfl
@[simp] theorem setFlashBlock_fab (s : State) (b : Nat) (x : FlashBlock) : (setFlashBlock s b x).fab = s.fab := rfl
@[simp] theorem setFlashBlock_ucode (s : State) (b : Nat) (x : FlashBlock) : (setFlashBlock s b x).ucode = s.ucode := rfl
@[simp] theorem setFlashBlock_sch (s : State) (b : Nat) (x : FlashBlock) : (setFlashBlock s b x).sch = s.sch := rfl
@[simp] theorem setFlashBlock_rqt (s : State) (b : Nat) (x : FlashBlock) : (setFlashBlock s b x).rqt = s.rqt := rfl
@[simp] theorem setFlashBlock_pfx (s : State) (b : Nat) (x : FlashBlock) : (setFlashBlock s b x).pfx = s.pfx := rfl
@[simp] theorem setFlashBlock_xfr (s : State) (b : Nat) (x : FlashBlock) : (setFlashBlock s b x).xfr = s.xfr := rfl
@[simp] theorem setFlashBlock_cod (s : State) (b : Nat) (x : FlashBlock) : (setFlashBlock s b x).cod = s.cod := rfl
@[simp] theorem setFlashBlock_lnk (s : State) (b : Nat) (x : FlashBlock) : (setFlashBlock s b x).lnk = s.lnk := rfl
@[simp] theorem setFlashBlock_coh (s : State) (b : Nat) (x : FlashBlock) : (setFlashBlock s b x).coh = s.coh := rfl
@[simp] theorem setFlashBlock_tm (s : State) (b : Nat) (x : FlashBlock) : (setFlashBlock s b x).tm = s.tm := rfl
@[simp] theorem setFlashBlock_twn (s : State) (b : Nat) (x : FlashBlock) : (setFlashBlock s b x).twn = s.twn := rfl
@[simp] theorem setFlashBlock_mtr (s : State) (b : Nat) (x : FlashBlock) : (setFlashBlock s b x).mtr = s.mtr := rfl
@[simp] theorem setFlashBlock_lane (s : State) (b : Nat) (x : FlashBlock) : (setFlashBlock s b x).lane = s.lane := rfl
@[simp] theorem setFlashBlock_out (s : State) (b : Nat) (x : FlashBlock) : (setFlashBlock s b x).out = s.out := rfl

/-! `setMap` writes fls. -/

@[simp] theorem setMap_pending (s : State) (u : Nat) (v : Option (Nat × Nat)) : (setMap s u v).pending = s.pending := rfl
@[simp] theorem setMap_fresh (s : State) (u : Nat) (v : Option (Nat × Nat)) : (setMap s u v).fresh = s.fresh := rfl
@[simp] theorem setMap_fields (s : State) (u : Nat) (v : Option (Nat × Nat)) : (setMap s u v).fields = s.fields := rfl
@[simp] theorem setMap_mem (s : State) (u : Nat) (v : Option (Nat × Nat)) : (setMap s u v).mem = s.mem := rfl
@[simp] theorem setMap_plt (s : State) (u : Nat) (v : Option (Nat × Nat)) : (setMap s u v).plt = s.plt := rfl
@[simp] theorem setMap_pwr (s : State) (u : Nat) (v : Option (Nat × Nat)) : (setMap s u v).pwr = s.pwr := rfl
@[simp] theorem setMap_pcie (s : State) (u : Nat) (v : Option (Nat × Nat)) : (setMap s u v).pcie = s.pcie := rfl
@[simp] theorem setMap_stk (s : State) (u : Nat) (v : Option (Nat × Nat)) : (setMap s u v).stk = s.stk := rfl
@[simp] theorem setMap_fab (s : State) (u : Nat) (v : Option (Nat × Nat)) : (setMap s u v).fab = s.fab := rfl
@[simp] theorem setMap_ucode (s : State) (u : Nat) (v : Option (Nat × Nat)) : (setMap s u v).ucode = s.ucode := rfl
@[simp] theorem setMap_sch (s : State) (u : Nat) (v : Option (Nat × Nat)) : (setMap s u v).sch = s.sch := rfl
@[simp] theorem setMap_rqt (s : State) (u : Nat) (v : Option (Nat × Nat)) : (setMap s u v).rqt = s.rqt := rfl
@[simp] theorem setMap_pfx (s : State) (u : Nat) (v : Option (Nat × Nat)) : (setMap s u v).pfx = s.pfx := rfl
@[simp] theorem setMap_xfr (s : State) (u : Nat) (v : Option (Nat × Nat)) : (setMap s u v).xfr = s.xfr := rfl
@[simp] theorem setMap_cod (s : State) (u : Nat) (v : Option (Nat × Nat)) : (setMap s u v).cod = s.cod := rfl
@[simp] theorem setMap_lnk (s : State) (u : Nat) (v : Option (Nat × Nat)) : (setMap s u v).lnk = s.lnk := rfl
@[simp] theorem setMap_coh (s : State) (u : Nat) (v : Option (Nat × Nat)) : (setMap s u v).coh = s.coh := rfl
@[simp] theorem setMap_tm (s : State) (u : Nat) (v : Option (Nat × Nat)) : (setMap s u v).tm = s.tm := rfl
@[simp] theorem setMap_twn (s : State) (u : Nat) (v : Option (Nat × Nat)) : (setMap s u v).twn = s.twn := rfl
@[simp] theorem setMap_mtr (s : State) (u : Nat) (v : Option (Nat × Nat)) : (setMap s u v).mtr = s.mtr := rfl
@[simp] theorem setMap_lane (s : State) (u : Nat) (v : Option (Nat × Nat)) : (setMap s u v).lane = s.lane := rfl
@[simp] theorem setMap_out (s : State) (u : Nat) (v : Option (Nat × Nat)) : (setMap s u v).out = s.out := rfl

/-! `takeLease` writes stk. -/

@[simp] theorem takeLease_pending (s : State) (slot : Nat) : (takeLease s slot).pending = s.pending := rfl
@[simp] theorem takeLease_fresh (s : State) (slot : Nat) : (takeLease s slot).fresh = s.fresh := rfl
@[simp] theorem takeLease_fields (s : State) (slot : Nat) : (takeLease s slot).fields = s.fields := rfl
@[simp] theorem takeLease_mem (s : State) (slot : Nat) : (takeLease s slot).mem = s.mem := rfl
@[simp] theorem takeLease_plt (s : State) (slot : Nat) : (takeLease s slot).plt = s.plt := rfl
@[simp] theorem takeLease_pwr (s : State) (slot : Nat) : (takeLease s slot).pwr = s.pwr := rfl
@[simp] theorem takeLease_pcie (s : State) (slot : Nat) : (takeLease s slot).pcie = s.pcie := rfl
@[simp] theorem takeLease_fab (s : State) (slot : Nat) : (takeLease s slot).fab = s.fab := rfl
@[simp] theorem takeLease_ucode (s : State) (slot : Nat) : (takeLease s slot).ucode = s.ucode := rfl
@[simp] theorem takeLease_sch (s : State) (slot : Nat) : (takeLease s slot).sch = s.sch := rfl
@[simp] theorem takeLease_rqt (s : State) (slot : Nat) : (takeLease s slot).rqt = s.rqt := rfl
@[simp] theorem takeLease_pfx (s : State) (slot : Nat) : (takeLease s slot).pfx = s.pfx := rfl
@[simp] theorem takeLease_xfr (s : State) (slot : Nat) : (takeLease s slot).xfr = s.xfr := rfl
@[simp] theorem takeLease_cod (s : State) (slot : Nat) : (takeLease s slot).cod = s.cod := rfl
@[simp] theorem takeLease_lnk (s : State) (slot : Nat) : (takeLease s slot).lnk = s.lnk := rfl
@[simp] theorem takeLease_coh (s : State) (slot : Nat) : (takeLease s slot).coh = s.coh := rfl
@[simp] theorem takeLease_tm (s : State) (slot : Nat) : (takeLease s slot).tm = s.tm := rfl
@[simp] theorem takeLease_fls (s : State) (slot : Nat) : (takeLease s slot).fls = s.fls := rfl
@[simp] theorem takeLease_twn (s : State) (slot : Nat) : (takeLease s slot).twn = s.twn := rfl
@[simp] theorem takeLease_mtr (s : State) (slot : Nat) : (takeLease s slot).mtr = s.mtr := rfl
@[simp] theorem takeLease_lane (s : State) (slot : Nat) : (takeLease s slot).lane = s.lane := rfl
@[simp] theorem takeLease_out (s : State) (slot : Nat) : (takeLease s slot).out = s.out := rfl

/-! `wake` writes stk. -/

@[simp] theorem wake_pending (s : State) (st : Nat) : (wake s st).pending = s.pending := rfl
@[simp] theorem wake_fresh (s : State) (st : Nat) : (wake s st).fresh = s.fresh := rfl
@[simp] theorem wake_fields (s : State) (st : Nat) : (wake s st).fields = s.fields := rfl
@[simp] theorem wake_mem (s : State) (st : Nat) : (wake s st).mem = s.mem := rfl
@[simp] theorem wake_plt (s : State) (st : Nat) : (wake s st).plt = s.plt := rfl
@[simp] theorem wake_pwr (s : State) (st : Nat) : (wake s st).pwr = s.pwr := rfl
@[simp] theorem wake_pcie (s : State) (st : Nat) : (wake s st).pcie = s.pcie := rfl
@[simp] theorem wake_fab (s : State) (st : Nat) : (wake s st).fab = s.fab := rfl
@[simp] theorem wake_ucode (s : State) (st : Nat) : (wake s st).ucode = s.ucode := rfl
@[simp] theorem wake_sch (s : State) (st : Nat) : (wake s st).sch = s.sch := rfl
@[simp] theorem wake_rqt (s : State) (st : Nat) : (wake s st).rqt = s.rqt := rfl
@[simp] theorem wake_pfx (s : State) (st : Nat) : (wake s st).pfx = s.pfx := rfl
@[simp] theorem wake_xfr (s : State) (st : Nat) : (wake s st).xfr = s.xfr := rfl
@[simp] theorem wake_cod (s : State) (st : Nat) : (wake s st).cod = s.cod := rfl
@[simp] theorem wake_lnk (s : State) (st : Nat) : (wake s st).lnk = s.lnk := rfl
@[simp] theorem wake_coh (s : State) (st : Nat) : (wake s st).coh = s.coh := rfl
@[simp] theorem wake_tm (s : State) (st : Nat) : (wake s st).tm = s.tm := rfl
@[simp] theorem wake_fls (s : State) (st : Nat) : (wake s st).fls = s.fls := rfl
@[simp] theorem wake_twn (s : State) (st : Nat) : (wake s st).twn = s.twn := rfl
@[simp] theorem wake_mtr (s : State) (st : Nat) : (wake s st).mtr = s.mtr := rfl
@[simp] theorem wake_lane (s : State) (st : Nat) : (wake s st).lane = s.lane := rfl
@[simp] theorem wake_out (s : State) (st : Nat) : (wake s st).out = s.out := rfl

/-! `waitFor` writes stk. -/

@[simp] theorem waitFor_pending (s : State) (i st : Nat) : (waitFor s i st).pending = s.pending := rfl
@[simp] theorem waitFor_fresh (s : State) (i st : Nat) : (waitFor s i st).fresh = s.fresh := rfl
@[simp] theorem waitFor_fields (s : State) (i st : Nat) : (waitFor s i st).fields = s.fields := rfl
@[simp] theorem waitFor_mem (s : State) (i st : Nat) : (waitFor s i st).mem = s.mem := rfl
@[simp] theorem waitFor_plt (s : State) (i st : Nat) : (waitFor s i st).plt = s.plt := rfl
@[simp] theorem waitFor_pwr (s : State) (i st : Nat) : (waitFor s i st).pwr = s.pwr := rfl
@[simp] theorem waitFor_pcie (s : State) (i st : Nat) : (waitFor s i st).pcie = s.pcie := rfl
@[simp] theorem waitFor_fab (s : State) (i st : Nat) : (waitFor s i st).fab = s.fab := rfl
@[simp] theorem waitFor_ucode (s : State) (i st : Nat) : (waitFor s i st).ucode = s.ucode := rfl
@[simp] theorem waitFor_sch (s : State) (i st : Nat) : (waitFor s i st).sch = s.sch := rfl
@[simp] theorem waitFor_rqt (s : State) (i st : Nat) : (waitFor s i st).rqt = s.rqt := rfl
@[simp] theorem waitFor_pfx (s : State) (i st : Nat) : (waitFor s i st).pfx = s.pfx := rfl
@[simp] theorem waitFor_xfr (s : State) (i st : Nat) : (waitFor s i st).xfr = s.xfr := rfl
@[simp] theorem waitFor_cod (s : State) (i st : Nat) : (waitFor s i st).cod = s.cod := rfl
@[simp] theorem waitFor_lnk (s : State) (i st : Nat) : (waitFor s i st).lnk = s.lnk := rfl
@[simp] theorem waitFor_coh (s : State) (i st : Nat) : (waitFor s i st).coh = s.coh := rfl
@[simp] theorem waitFor_tm (s : State) (i st : Nat) : (waitFor s i st).tm = s.tm := rfl
@[simp] theorem waitFor_fls (s : State) (i st : Nat) : (waitFor s i st).fls = s.fls := rfl
@[simp] theorem waitFor_twn (s : State) (i st : Nat) : (waitFor s i st).twn = s.twn := rfl
@[simp] theorem waitFor_mtr (s : State) (i st : Nat) : (waitFor s i st).mtr = s.mtr := rfl
@[simp] theorem waitFor_lane (s : State) (i st : Nat) : (waitFor s i st).lane = s.lane := rfl
@[simp] theorem waitFor_out (s : State) (i st : Nat) : (waitFor s i st).out = s.out := rfl

/-! `endWait` writes stk. -/

@[simp] theorem endWait_pending (s : State) (i : Nat) : (endWait s i).pending = s.pending := rfl
@[simp] theorem endWait_fresh (s : State) (i : Nat) : (endWait s i).fresh = s.fresh := rfl
@[simp] theorem endWait_fields (s : State) (i : Nat) : (endWait s i).fields = s.fields := rfl
@[simp] theorem endWait_mem (s : State) (i : Nat) : (endWait s i).mem = s.mem := rfl
@[simp] theorem endWait_plt (s : State) (i : Nat) : (endWait s i).plt = s.plt := rfl
@[simp] theorem endWait_pwr (s : State) (i : Nat) : (endWait s i).pwr = s.pwr := rfl
@[simp] theorem endWait_pcie (s : State) (i : Nat) : (endWait s i).pcie = s.pcie := rfl
@[simp] theorem endWait_fab (s : State) (i : Nat) : (endWait s i).fab = s.fab := rfl
@[simp] theorem endWait_ucode (s : State) (i : Nat) : (endWait s i).ucode = s.ucode := rfl
@[simp] theorem endWait_sch (s : State) (i : Nat) : (endWait s i).sch = s.sch := rfl
@[simp] theorem endWait_rqt (s : State) (i : Nat) : (endWait s i).rqt = s.rqt := rfl
@[simp] theorem endWait_pfx (s : State) (i : Nat) : (endWait s i).pfx = s.pfx := rfl
@[simp] theorem endWait_xfr (s : State) (i : Nat) : (endWait s i).xfr = s.xfr := rfl
@[simp] theorem endWait_cod (s : State) (i : Nat) : (endWait s i).cod = s.cod := rfl
@[simp] theorem endWait_lnk (s : State) (i : Nat) : (endWait s i).lnk = s.lnk := rfl
@[simp] theorem endWait_coh (s : State) (i : Nat) : (endWait s i).coh = s.coh := rfl
@[simp] theorem endWait_tm (s : State) (i : Nat) : (endWait s i).tm = s.tm := rfl
@[simp] theorem endWait_fls (s : State) (i : Nat) : (endWait s i).fls = s.fls := rfl
@[simp] theorem endWait_twn (s : State) (i : Nat) : (endWait s i).twn = s.twn := rfl
@[simp] theorem endWait_mtr (s : State) (i : Nat) : (endWait s i).mtr = s.mtr := rfl
@[simp] theorem endWait_lane (s : State) (i : Nat) : (endWait s i).lane = s.lane := rfl
@[simp] theorem endWait_out (s : State) (i : Nat) : (endWait s i).out = s.out := rfl

/-! `retireUnits` writes stk. -/

@[simp] theorem retireUnits_pending (s : State) (us : List Nat) : (retireUnits s us).pending = s.pending := rfl
@[simp] theorem retireUnits_fresh (s : State) (us : List Nat) : (retireUnits s us).fresh = s.fresh := rfl
@[simp] theorem retireUnits_fields (s : State) (us : List Nat) : (retireUnits s us).fields = s.fields := rfl
@[simp] theorem retireUnits_mem (s : State) (us : List Nat) : (retireUnits s us).mem = s.mem := rfl
@[simp] theorem retireUnits_plt (s : State) (us : List Nat) : (retireUnits s us).plt = s.plt := rfl
@[simp] theorem retireUnits_pwr (s : State) (us : List Nat) : (retireUnits s us).pwr = s.pwr := rfl
@[simp] theorem retireUnits_pcie (s : State) (us : List Nat) : (retireUnits s us).pcie = s.pcie := rfl
@[simp] theorem retireUnits_fab (s : State) (us : List Nat) : (retireUnits s us).fab = s.fab := rfl
@[simp] theorem retireUnits_ucode (s : State) (us : List Nat) : (retireUnits s us).ucode = s.ucode := rfl
@[simp] theorem retireUnits_sch (s : State) (us : List Nat) : (retireUnits s us).sch = s.sch := rfl
@[simp] theorem retireUnits_rqt (s : State) (us : List Nat) : (retireUnits s us).rqt = s.rqt := rfl
@[simp] theorem retireUnits_pfx (s : State) (us : List Nat) : (retireUnits s us).pfx = s.pfx := rfl
@[simp] theorem retireUnits_xfr (s : State) (us : List Nat) : (retireUnits s us).xfr = s.xfr := rfl
@[simp] theorem retireUnits_cod (s : State) (us : List Nat) : (retireUnits s us).cod = s.cod := rfl
@[simp] theorem retireUnits_lnk (s : State) (us : List Nat) : (retireUnits s us).lnk = s.lnk := rfl
@[simp] theorem retireUnits_coh (s : State) (us : List Nat) : (retireUnits s us).coh = s.coh := rfl
@[simp] theorem retireUnits_tm (s : State) (us : List Nat) : (retireUnits s us).tm = s.tm := rfl
@[simp] theorem retireUnits_fls (s : State) (us : List Nat) : (retireUnits s us).fls = s.fls := rfl
@[simp] theorem retireUnits_twn (s : State) (us : List Nat) : (retireUnits s us).twn = s.twn := rfl
@[simp] theorem retireUnits_mtr (s : State) (us : List Nat) : (retireUnits s us).mtr = s.mtr := rfl
@[simp] theorem retireUnits_lane (s : State) (us : List Nat) : (retireUnits s us).lane = s.lane := rfl
@[simp] theorem retireUnits_out (s : State) (us : List Nat) : (retireUnits s us).out = s.out := rfl

/-! `freeUnit` writes stk. -/

@[simp] theorem freeUnit_pending (s : State) (u : Nat) : (freeUnit s u).pending = s.pending := rfl
@[simp] theorem freeUnit_fresh (s : State) (u : Nat) : (freeUnit s u).fresh = s.fresh := rfl
@[simp] theorem freeUnit_fields (s : State) (u : Nat) : (freeUnit s u).fields = s.fields := rfl
@[simp] theorem freeUnit_mem (s : State) (u : Nat) : (freeUnit s u).mem = s.mem := rfl
@[simp] theorem freeUnit_plt (s : State) (u : Nat) : (freeUnit s u).plt = s.plt := rfl
@[simp] theorem freeUnit_pwr (s : State) (u : Nat) : (freeUnit s u).pwr = s.pwr := rfl
@[simp] theorem freeUnit_pcie (s : State) (u : Nat) : (freeUnit s u).pcie = s.pcie := rfl
@[simp] theorem freeUnit_fab (s : State) (u : Nat) : (freeUnit s u).fab = s.fab := rfl
@[simp] theorem freeUnit_ucode (s : State) (u : Nat) : (freeUnit s u).ucode = s.ucode := rfl
@[simp] theorem freeUnit_sch (s : State) (u : Nat) : (freeUnit s u).sch = s.sch := rfl
@[simp] theorem freeUnit_rqt (s : State) (u : Nat) : (freeUnit s u).rqt = s.rqt := rfl
@[simp] theorem freeUnit_pfx (s : State) (u : Nat) : (freeUnit s u).pfx = s.pfx := rfl
@[simp] theorem freeUnit_xfr (s : State) (u : Nat) : (freeUnit s u).xfr = s.xfr := rfl
@[simp] theorem freeUnit_cod (s : State) (u : Nat) : (freeUnit s u).cod = s.cod := rfl
@[simp] theorem freeUnit_lnk (s : State) (u : Nat) : (freeUnit s u).lnk = s.lnk := rfl
@[simp] theorem freeUnit_coh (s : State) (u : Nat) : (freeUnit s u).coh = s.coh := rfl
@[simp] theorem freeUnit_tm (s : State) (u : Nat) : (freeUnit s u).tm = s.tm := rfl
@[simp] theorem freeUnit_fls (s : State) (u : Nat) : (freeUnit s u).fls = s.fls := rfl
@[simp] theorem freeUnit_twn (s : State) (u : Nat) : (freeUnit s u).twn = s.twn := rfl
@[simp] theorem freeUnit_mtr (s : State) (u : Nat) : (freeUnit s u).mtr = s.mtr := rfl
@[simp] theorem freeUnit_lane (s : State) (u : Nat) : (freeUnit s u).lane = s.lane := rfl
@[simp] theorem freeUnit_out (s : State) (u : Nat) : (freeUnit s u).out = s.out := rfl

/-! `setInside` writes stk. -/

@[simp] theorem setInside_pending (s : State) (g n : Nat) (st : PageState) : (setInside s g n st).pending = s.pending := rfl
@[simp] theorem setInside_fresh (s : State) (g n : Nat) (st : PageState) : (setInside s g n st).fresh = s.fresh := rfl
@[simp] theorem setInside_fields (s : State) (g n : Nat) (st : PageState) : (setInside s g n st).fields = s.fields := rfl
@[simp] theorem setInside_mem (s : State) (g n : Nat) (st : PageState) : (setInside s g n st).mem = s.mem := rfl
@[simp] theorem setInside_plt (s : State) (g n : Nat) (st : PageState) : (setInside s g n st).plt = s.plt := rfl
@[simp] theorem setInside_pwr (s : State) (g n : Nat) (st : PageState) : (setInside s g n st).pwr = s.pwr := rfl
@[simp] theorem setInside_pcie (s : State) (g n : Nat) (st : PageState) : (setInside s g n st).pcie = s.pcie := rfl
@[simp] theorem setInside_fab (s : State) (g n : Nat) (st : PageState) : (setInside s g n st).fab = s.fab := rfl
@[simp] theorem setInside_ucode (s : State) (g n : Nat) (st : PageState) : (setInside s g n st).ucode = s.ucode := rfl
@[simp] theorem setInside_sch (s : State) (g n : Nat) (st : PageState) : (setInside s g n st).sch = s.sch := rfl
@[simp] theorem setInside_rqt (s : State) (g n : Nat) (st : PageState) : (setInside s g n st).rqt = s.rqt := rfl
@[simp] theorem setInside_pfx (s : State) (g n : Nat) (st : PageState) : (setInside s g n st).pfx = s.pfx := rfl
@[simp] theorem setInside_xfr (s : State) (g n : Nat) (st : PageState) : (setInside s g n st).xfr = s.xfr := rfl
@[simp] theorem setInside_cod (s : State) (g n : Nat) (st : PageState) : (setInside s g n st).cod = s.cod := rfl
@[simp] theorem setInside_lnk (s : State) (g n : Nat) (st : PageState) : (setInside s g n st).lnk = s.lnk := rfl
@[simp] theorem setInside_coh (s : State) (g n : Nat) (st : PageState) : (setInside s g n st).coh = s.coh := rfl
@[simp] theorem setInside_tm (s : State) (g n : Nat) (st : PageState) : (setInside s g n st).tm = s.tm := rfl
@[simp] theorem setInside_fls (s : State) (g n : Nat) (st : PageState) : (setInside s g n st).fls = s.fls := rfl
@[simp] theorem setInside_twn (s : State) (g n : Nat) (st : PageState) : (setInside s g n st).twn = s.twn := rfl
@[simp] theorem setInside_mtr (s : State) (g n : Nat) (st : PageState) : (setInside s g n st).mtr = s.mtr := rfl
@[simp] theorem setInside_lane (s : State) (g n : Nat) (st : PageState) : (setInside s g n st).lane = s.lane := rfl
@[simp] theorem setInside_out (s : State) (g n : Nat) (st : PageState) : (setInside s g n st).out = s.out := rfl

/-! `setOdt` writes stk. -/

@[simp] theorem setOdt_pending (s : State) (i : Nat) (e : OdtEntry) : (setOdt s i e).pending = s.pending := rfl
@[simp] theorem setOdt_fresh (s : State) (i : Nat) (e : OdtEntry) : (setOdt s i e).fresh = s.fresh := rfl
@[simp] theorem setOdt_fields (s : State) (i : Nat) (e : OdtEntry) : (setOdt s i e).fields = s.fields := rfl
@[simp] theorem setOdt_mem (s : State) (i : Nat) (e : OdtEntry) : (setOdt s i e).mem = s.mem := rfl
@[simp] theorem setOdt_plt (s : State) (i : Nat) (e : OdtEntry) : (setOdt s i e).plt = s.plt := rfl
@[simp] theorem setOdt_pwr (s : State) (i : Nat) (e : OdtEntry) : (setOdt s i e).pwr = s.pwr := rfl
@[simp] theorem setOdt_pcie (s : State) (i : Nat) (e : OdtEntry) : (setOdt s i e).pcie = s.pcie := rfl
@[simp] theorem setOdt_fab (s : State) (i : Nat) (e : OdtEntry) : (setOdt s i e).fab = s.fab := rfl
@[simp] theorem setOdt_ucode (s : State) (i : Nat) (e : OdtEntry) : (setOdt s i e).ucode = s.ucode := rfl
@[simp] theorem setOdt_sch (s : State) (i : Nat) (e : OdtEntry) : (setOdt s i e).sch = s.sch := rfl
@[simp] theorem setOdt_rqt (s : State) (i : Nat) (e : OdtEntry) : (setOdt s i e).rqt = s.rqt := rfl
@[simp] theorem setOdt_pfx (s : State) (i : Nat) (e : OdtEntry) : (setOdt s i e).pfx = s.pfx := rfl
@[simp] theorem setOdt_xfr (s : State) (i : Nat) (e : OdtEntry) : (setOdt s i e).xfr = s.xfr := rfl
@[simp] theorem setOdt_cod (s : State) (i : Nat) (e : OdtEntry) : (setOdt s i e).cod = s.cod := rfl
@[simp] theorem setOdt_lnk (s : State) (i : Nat) (e : OdtEntry) : (setOdt s i e).lnk = s.lnk := rfl
@[simp] theorem setOdt_coh (s : State) (i : Nat) (e : OdtEntry) : (setOdt s i e).coh = s.coh := rfl
@[simp] theorem setOdt_tm (s : State) (i : Nat) (e : OdtEntry) : (setOdt s i e).tm = s.tm := rfl
@[simp] theorem setOdt_fls (s : State) (i : Nat) (e : OdtEntry) : (setOdt s i e).fls = s.fls := rfl
@[simp] theorem setOdt_twn (s : State) (i : Nat) (e : OdtEntry) : (setOdt s i e).twn = s.twn := rfl
@[simp] theorem setOdt_mtr (s : State) (i : Nat) (e : OdtEntry) : (setOdt s i e).mtr = s.mtr := rfl
@[simp] theorem setOdt_lane (s : State) (i : Nat) (e : OdtEntry) : (setOdt s i e).lane = s.lane := rfl
@[simp] theorem setOdt_out (s : State) (i : Nat) (e : OdtEntry) : (setOdt s i e).out = s.out := rfl

/-! `setXts` writes stk. -/

@[simp] theorem setXts_pending (s : State) (k : Nat) (v : Option (BitVec 512)) : (setXts s k v).pending = s.pending := rfl
@[simp] theorem setXts_fresh (s : State) (k : Nat) (v : Option (BitVec 512)) : (setXts s k v).fresh = s.fresh := rfl
@[simp] theorem setXts_fields (s : State) (k : Nat) (v : Option (BitVec 512)) : (setXts s k v).fields = s.fields := rfl
@[simp] theorem setXts_mem (s : State) (k : Nat) (v : Option (BitVec 512)) : (setXts s k v).mem = s.mem := rfl
@[simp] theorem setXts_plt (s : State) (k : Nat) (v : Option (BitVec 512)) : (setXts s k v).plt = s.plt := rfl
@[simp] theorem setXts_pwr (s : State) (k : Nat) (v : Option (BitVec 512)) : (setXts s k v).pwr = s.pwr := rfl
@[simp] theorem setXts_pcie (s : State) (k : Nat) (v : Option (BitVec 512)) : (setXts s k v).pcie = s.pcie := rfl
@[simp] theorem setXts_fab (s : State) (k : Nat) (v : Option (BitVec 512)) : (setXts s k v).fab = s.fab := rfl
@[simp] theorem setXts_ucode (s : State) (k : Nat) (v : Option (BitVec 512)) : (setXts s k v).ucode = s.ucode := rfl
@[simp] theorem setXts_sch (s : State) (k : Nat) (v : Option (BitVec 512)) : (setXts s k v).sch = s.sch := rfl
@[simp] theorem setXts_rqt (s : State) (k : Nat) (v : Option (BitVec 512)) : (setXts s k v).rqt = s.rqt := rfl
@[simp] theorem setXts_pfx (s : State) (k : Nat) (v : Option (BitVec 512)) : (setXts s k v).pfx = s.pfx := rfl
@[simp] theorem setXts_xfr (s : State) (k : Nat) (v : Option (BitVec 512)) : (setXts s k v).xfr = s.xfr := rfl
@[simp] theorem setXts_cod (s : State) (k : Nat) (v : Option (BitVec 512)) : (setXts s k v).cod = s.cod := rfl
@[simp] theorem setXts_lnk (s : State) (k : Nat) (v : Option (BitVec 512)) : (setXts s k v).lnk = s.lnk := rfl
@[simp] theorem setXts_coh (s : State) (k : Nat) (v : Option (BitVec 512)) : (setXts s k v).coh = s.coh := rfl
@[simp] theorem setXts_tm (s : State) (k : Nat) (v : Option (BitVec 512)) : (setXts s k v).tm = s.tm := rfl
@[simp] theorem setXts_fls (s : State) (k : Nat) (v : Option (BitVec 512)) : (setXts s k v).fls = s.fls := rfl
@[simp] theorem setXts_twn (s : State) (k : Nat) (v : Option (BitVec 512)) : (setXts s k v).twn = s.twn := rfl
@[simp] theorem setXts_mtr (s : State) (k : Nat) (v : Option (BitVec 512)) : (setXts s k v).mtr = s.mtr := rfl
@[simp] theorem setXts_lane (s : State) (k : Nat) (v : Option (BitVec 512)) : (setXts s k v).lane = s.lane := rfl
@[simp] theorem setXts_out (s : State) (k : Nat) (v : Option (BitVec 512)) : (setXts s k v).out = s.out := rfl

/-! `setGcm` writes cod. -/

@[simp] theorem setGcm_pending (s : State) (k : Nat) (g : GcmSlot) : (setGcm s k g).pending = s.pending := rfl
@[simp] theorem setGcm_fresh (s : State) (k : Nat) (g : GcmSlot) : (setGcm s k g).fresh = s.fresh := rfl
@[simp] theorem setGcm_fields (s : State) (k : Nat) (g : GcmSlot) : (setGcm s k g).fields = s.fields := rfl
@[simp] theorem setGcm_mem (s : State) (k : Nat) (g : GcmSlot) : (setGcm s k g).mem = s.mem := rfl
@[simp] theorem setGcm_plt (s : State) (k : Nat) (g : GcmSlot) : (setGcm s k g).plt = s.plt := rfl
@[simp] theorem setGcm_pwr (s : State) (k : Nat) (g : GcmSlot) : (setGcm s k g).pwr = s.pwr := rfl
@[simp] theorem setGcm_pcie (s : State) (k : Nat) (g : GcmSlot) : (setGcm s k g).pcie = s.pcie := rfl
@[simp] theorem setGcm_stk (s : State) (k : Nat) (g : GcmSlot) : (setGcm s k g).stk = s.stk := rfl
@[simp] theorem setGcm_fab (s : State) (k : Nat) (g : GcmSlot) : (setGcm s k g).fab = s.fab := rfl
@[simp] theorem setGcm_ucode (s : State) (k : Nat) (g : GcmSlot) : (setGcm s k g).ucode = s.ucode := rfl
@[simp] theorem setGcm_sch (s : State) (k : Nat) (g : GcmSlot) : (setGcm s k g).sch = s.sch := rfl
@[simp] theorem setGcm_rqt (s : State) (k : Nat) (g : GcmSlot) : (setGcm s k g).rqt = s.rqt := rfl
@[simp] theorem setGcm_pfx (s : State) (k : Nat) (g : GcmSlot) : (setGcm s k g).pfx = s.pfx := rfl
@[simp] theorem setGcm_xfr (s : State) (k : Nat) (g : GcmSlot) : (setGcm s k g).xfr = s.xfr := rfl
@[simp] theorem setGcm_lnk (s : State) (k : Nat) (g : GcmSlot) : (setGcm s k g).lnk = s.lnk := rfl
@[simp] theorem setGcm_coh (s : State) (k : Nat) (g : GcmSlot) : (setGcm s k g).coh = s.coh := rfl
@[simp] theorem setGcm_tm (s : State) (k : Nat) (g : GcmSlot) : (setGcm s k g).tm = s.tm := rfl
@[simp] theorem setGcm_fls (s : State) (k : Nat) (g : GcmSlot) : (setGcm s k g).fls = s.fls := rfl
@[simp] theorem setGcm_twn (s : State) (k : Nat) (g : GcmSlot) : (setGcm s k g).twn = s.twn := rfl
@[simp] theorem setGcm_mtr (s : State) (k : Nat) (g : GcmSlot) : (setGcm s k g).mtr = s.mtr := rfl
@[simp] theorem setGcm_lane (s : State) (k : Nat) (g : GcmSlot) : (setGcm s k g).lane = s.lane := rfl
@[simp] theorem setGcm_out (s : State) (k : Nat) (g : GcmSlot) : (setGcm s k g).out = s.out := rfl

/-! `setWay` writes pfx. -/

@[simp] theorem setWay_pending (s : State) (k : Nat) (w : Way) : (setWay s k w).pending = s.pending := rfl
@[simp] theorem setWay_fresh (s : State) (k : Nat) (w : Way) : (setWay s k w).fresh = s.fresh := rfl
@[simp] theorem setWay_fields (s : State) (k : Nat) (w : Way) : (setWay s k w).fields = s.fields := rfl
@[simp] theorem setWay_mem (s : State) (k : Nat) (w : Way) : (setWay s k w).mem = s.mem := rfl
@[simp] theorem setWay_plt (s : State) (k : Nat) (w : Way) : (setWay s k w).plt = s.plt := rfl
@[simp] theorem setWay_pwr (s : State) (k : Nat) (w : Way) : (setWay s k w).pwr = s.pwr := rfl
@[simp] theorem setWay_pcie (s : State) (k : Nat) (w : Way) : (setWay s k w).pcie = s.pcie := rfl
@[simp] theorem setWay_stk (s : State) (k : Nat) (w : Way) : (setWay s k w).stk = s.stk := rfl
@[simp] theorem setWay_fab (s : State) (k : Nat) (w : Way) : (setWay s k w).fab = s.fab := rfl
@[simp] theorem setWay_ucode (s : State) (k : Nat) (w : Way) : (setWay s k w).ucode = s.ucode := rfl
@[simp] theorem setWay_sch (s : State) (k : Nat) (w : Way) : (setWay s k w).sch = s.sch := rfl
@[simp] theorem setWay_rqt (s : State) (k : Nat) (w : Way) : (setWay s k w).rqt = s.rqt := rfl
@[simp] theorem setWay_xfr (s : State) (k : Nat) (w : Way) : (setWay s k w).xfr = s.xfr := rfl
@[simp] theorem setWay_cod (s : State) (k : Nat) (w : Way) : (setWay s k w).cod = s.cod := rfl
@[simp] theorem setWay_lnk (s : State) (k : Nat) (w : Way) : (setWay s k w).lnk = s.lnk := rfl
@[simp] theorem setWay_coh (s : State) (k : Nat) (w : Way) : (setWay s k w).coh = s.coh := rfl
@[simp] theorem setWay_tm (s : State) (k : Nat) (w : Way) : (setWay s k w).tm = s.tm := rfl
@[simp] theorem setWay_fls (s : State) (k : Nat) (w : Way) : (setWay s k w).fls = s.fls := rfl
@[simp] theorem setWay_twn (s : State) (k : Nat) (w : Way) : (setWay s k w).twn = s.twn := rfl
@[simp] theorem setWay_mtr (s : State) (k : Nat) (w : Way) : (setWay s k w).mtr = s.mtr := rfl
@[simp] theorem setWay_lane (s : State) (k : Nat) (w : Way) : (setWay s k w).lane = s.lane := rfl
@[simp] theorem setWay_out (s : State) (k : Nat) (w : Way) : (setWay s k w).out = s.out := rfl

/-! `setRec` writes pfx. -/

@[simp] theorem setRec_pending (s : State) (n : Nat) (x : BlockRec) : (setRec s n x).pending = s.pending := rfl
@[simp] theorem setRec_fresh (s : State) (n : Nat) (x : BlockRec) : (setRec s n x).fresh = s.fresh := rfl
@[simp] theorem setRec_fields (s : State) (n : Nat) (x : BlockRec) : (setRec s n x).fields = s.fields := rfl
@[simp] theorem setRec_mem (s : State) (n : Nat) (x : BlockRec) : (setRec s n x).mem = s.mem := rfl
@[simp] theorem setRec_plt (s : State) (n : Nat) (x : BlockRec) : (setRec s n x).plt = s.plt := rfl
@[simp] theorem setRec_pwr (s : State) (n : Nat) (x : BlockRec) : (setRec s n x).pwr = s.pwr := rfl
@[simp] theorem setRec_pcie (s : State) (n : Nat) (x : BlockRec) : (setRec s n x).pcie = s.pcie := rfl
@[simp] theorem setRec_stk (s : State) (n : Nat) (x : BlockRec) : (setRec s n x).stk = s.stk := rfl
@[simp] theorem setRec_fab (s : State) (n : Nat) (x : BlockRec) : (setRec s n x).fab = s.fab := rfl
@[simp] theorem setRec_ucode (s : State) (n : Nat) (x : BlockRec) : (setRec s n x).ucode = s.ucode := rfl
@[simp] theorem setRec_sch (s : State) (n : Nat) (x : BlockRec) : (setRec s n x).sch = s.sch := rfl
@[simp] theorem setRec_rqt (s : State) (n : Nat) (x : BlockRec) : (setRec s n x).rqt = s.rqt := rfl
@[simp] theorem setRec_xfr (s : State) (n : Nat) (x : BlockRec) : (setRec s n x).xfr = s.xfr := rfl
@[simp] theorem setRec_cod (s : State) (n : Nat) (x : BlockRec) : (setRec s n x).cod = s.cod := rfl
@[simp] theorem setRec_lnk (s : State) (n : Nat) (x : BlockRec) : (setRec s n x).lnk = s.lnk := rfl
@[simp] theorem setRec_coh (s : State) (n : Nat) (x : BlockRec) : (setRec s n x).coh = s.coh := rfl
@[simp] theorem setRec_tm (s : State) (n : Nat) (x : BlockRec) : (setRec s n x).tm = s.tm := rfl
@[simp] theorem setRec_fls (s : State) (n : Nat) (x : BlockRec) : (setRec s n x).fls = s.fls := rfl
@[simp] theorem setRec_twn (s : State) (n : Nat) (x : BlockRec) : (setRec s n x).twn = s.twn := rfl
@[simp] theorem setRec_mtr (s : State) (n : Nat) (x : BlockRec) : (setRec s n x).mtr = s.mtr := rfl
@[simp] theorem setRec_lane (s : State) (n : Nat) (x : BlockRec) : (setRec s n x).lane = s.lane := rfl
@[simp] theorem setRec_out (s : State) (n : Nat) (x : BlockRec) : (setRec s n x).out = s.out := rfl

/-! `setTrack` writes rqt. -/

@[simp] theorem setTrack_pending (s : State) (i : Nat) (t : Option PrefixTrack) : (setTrack s i t).pending = s.pending := rfl
@[simp] theorem setTrack_fresh (s : State) (i : Nat) (t : Option PrefixTrack) : (setTrack s i t).fresh = s.fresh := rfl
@[simp] theorem setTrack_fields (s : State) (i : Nat) (t : Option PrefixTrack) : (setTrack s i t).fields = s.fields := rfl
@[simp] theorem setTrack_mem (s : State) (i : Nat) (t : Option PrefixTrack) : (setTrack s i t).mem = s.mem := rfl
@[simp] theorem setTrack_plt (s : State) (i : Nat) (t : Option PrefixTrack) : (setTrack s i t).plt = s.plt := rfl
@[simp] theorem setTrack_pwr (s : State) (i : Nat) (t : Option PrefixTrack) : (setTrack s i t).pwr = s.pwr := rfl
@[simp] theorem setTrack_pcie (s : State) (i : Nat) (t : Option PrefixTrack) : (setTrack s i t).pcie = s.pcie := rfl
@[simp] theorem setTrack_stk (s : State) (i : Nat) (t : Option PrefixTrack) : (setTrack s i t).stk = s.stk := rfl
@[simp] theorem setTrack_fab (s : State) (i : Nat) (t : Option PrefixTrack) : (setTrack s i t).fab = s.fab := rfl
@[simp] theorem setTrack_ucode (s : State) (i : Nat) (t : Option PrefixTrack) : (setTrack s i t).ucode = s.ucode := rfl
@[simp] theorem setTrack_sch (s : State) (i : Nat) (t : Option PrefixTrack) : (setTrack s i t).sch = s.sch := rfl
@[simp] theorem setTrack_pfx (s : State) (i : Nat) (t : Option PrefixTrack) : (setTrack s i t).pfx = s.pfx := rfl
@[simp] theorem setTrack_xfr (s : State) (i : Nat) (t : Option PrefixTrack) : (setTrack s i t).xfr = s.xfr := rfl
@[simp] theorem setTrack_cod (s : State) (i : Nat) (t : Option PrefixTrack) : (setTrack s i t).cod = s.cod := rfl
@[simp] theorem setTrack_lnk (s : State) (i : Nat) (t : Option PrefixTrack) : (setTrack s i t).lnk = s.lnk := rfl
@[simp] theorem setTrack_coh (s : State) (i : Nat) (t : Option PrefixTrack) : (setTrack s i t).coh = s.coh := rfl
@[simp] theorem setTrack_tm (s : State) (i : Nat) (t : Option PrefixTrack) : (setTrack s i t).tm = s.tm := rfl
@[simp] theorem setTrack_fls (s : State) (i : Nat) (t : Option PrefixTrack) : (setTrack s i t).fls = s.fls := rfl
@[simp] theorem setTrack_twn (s : State) (i : Nat) (t : Option PrefixTrack) : (setTrack s i t).twn = s.twn := rfl
@[simp] theorem setTrack_mtr (s : State) (i : Nat) (t : Option PrefixTrack) : (setTrack s i t).mtr = s.mtr := rfl
@[simp] theorem setTrack_lane (s : State) (i : Nat) (t : Option PrefixTrack) : (setTrack s i t).lane = s.lane := rfl
@[simp] theorem setTrack_out (s : State) (i : Nat) (t : Option PrefixTrack) : (setTrack s i t).out = s.out := rfl

/-! `invalidate` writes sch. -/

@[simp] theorem invalidate_pending (s : State) (i : Nat) : (invalidate s i).pending = s.pending := rfl
@[simp] theorem invalidate_fresh (s : State) (i : Nat) : (invalidate s i).fresh = s.fresh := rfl
@[simp] theorem invalidate_fields (s : State) (i : Nat) : (invalidate s i).fields = s.fields := rfl
@[simp] theorem invalidate_mem (s : State) (i : Nat) : (invalidate s i).mem = s.mem := rfl
@[simp] theorem invalidate_plt (s : State) (i : Nat) : (invalidate s i).plt = s.plt := rfl
@[simp] theorem invalidate_pwr (s : State) (i : Nat) : (invalidate s i).pwr = s.pwr := rfl
@[simp] theorem invalidate_pcie (s : State) (i : Nat) : (invalidate s i).pcie = s.pcie := rfl
@[simp] theorem invalidate_stk (s : State) (i : Nat) : (invalidate s i).stk = s.stk := rfl
@[simp] theorem invalidate_fab (s : State) (i : Nat) : (invalidate s i).fab = s.fab := rfl
@[simp] theorem invalidate_ucode (s : State) (i : Nat) : (invalidate s i).ucode = s.ucode := rfl
@[simp] theorem invalidate_rqt (s : State) (i : Nat) : (invalidate s i).rqt = s.rqt := rfl
@[simp] theorem invalidate_pfx (s : State) (i : Nat) : (invalidate s i).pfx = s.pfx := rfl
@[simp] theorem invalidate_xfr (s : State) (i : Nat) : (invalidate s i).xfr = s.xfr := rfl
@[simp] theorem invalidate_cod (s : State) (i : Nat) : (invalidate s i).cod = s.cod := rfl
@[simp] theorem invalidate_lnk (s : State) (i : Nat) : (invalidate s i).lnk = s.lnk := rfl
@[simp] theorem invalidate_coh (s : State) (i : Nat) : (invalidate s i).coh = s.coh := rfl
@[simp] theorem invalidate_tm (s : State) (i : Nat) : (invalidate s i).tm = s.tm := rfl
@[simp] theorem invalidate_fls (s : State) (i : Nat) : (invalidate s i).fls = s.fls := rfl
@[simp] theorem invalidate_twn (s : State) (i : Nat) : (invalidate s i).twn = s.twn := rfl
@[simp] theorem invalidate_mtr (s : State) (i : Nat) : (invalidate s i).mtr = s.mtr := rfl
@[simp] theorem invalidate_lane (s : State) (i : Nat) : (invalidate s i).lane = s.lane := rfl
@[simp] theorem invalidate_out (s : State) (i : Nat) : (invalidate s i).out = s.out := rfl

/-! `setInput` writes rqt. -/

@[simp] theorem setInput_pending (s : State) (i : Nat) (x : Option PendingInput) : (setInput s i x).pending = s.pending := rfl
@[simp] theorem setInput_fresh (s : State) (i : Nat) (x : Option PendingInput) : (setInput s i x).fresh = s.fresh := rfl
@[simp] theorem setInput_fields (s : State) (i : Nat) (x : Option PendingInput) : (setInput s i x).fields = s.fields := rfl
@[simp] theorem setInput_mem (s : State) (i : Nat) (x : Option PendingInput) : (setInput s i x).mem = s.mem := rfl
@[simp] theorem setInput_plt (s : State) (i : Nat) (x : Option PendingInput) : (setInput s i x).plt = s.plt := rfl
@[simp] theorem setInput_pwr (s : State) (i : Nat) (x : Option PendingInput) : (setInput s i x).pwr = s.pwr := rfl
@[simp] theorem setInput_pcie (s : State) (i : Nat) (x : Option PendingInput) : (setInput s i x).pcie = s.pcie := rfl
@[simp] theorem setInput_stk (s : State) (i : Nat) (x : Option PendingInput) : (setInput s i x).stk = s.stk := rfl
@[simp] theorem setInput_fab (s : State) (i : Nat) (x : Option PendingInput) : (setInput s i x).fab = s.fab := rfl
@[simp] theorem setInput_ucode (s : State) (i : Nat) (x : Option PendingInput) : (setInput s i x).ucode = s.ucode := rfl
@[simp] theorem setInput_sch (s : State) (i : Nat) (x : Option PendingInput) : (setInput s i x).sch = s.sch := rfl
@[simp] theorem setInput_pfx (s : State) (i : Nat) (x : Option PendingInput) : (setInput s i x).pfx = s.pfx := rfl
@[simp] theorem setInput_xfr (s : State) (i : Nat) (x : Option PendingInput) : (setInput s i x).xfr = s.xfr := rfl
@[simp] theorem setInput_cod (s : State) (i : Nat) (x : Option PendingInput) : (setInput s i x).cod = s.cod := rfl
@[simp] theorem setInput_lnk (s : State) (i : Nat) (x : Option PendingInput) : (setInput s i x).lnk = s.lnk := rfl
@[simp] theorem setInput_coh (s : State) (i : Nat) (x : Option PendingInput) : (setInput s i x).coh = s.coh := rfl
@[simp] theorem setInput_tm (s : State) (i : Nat) (x : Option PendingInput) : (setInput s i x).tm = s.tm := rfl
@[simp] theorem setInput_fls (s : State) (i : Nat) (x : Option PendingInput) : (setInput s i x).fls = s.fls := rfl
@[simp] theorem setInput_twn (s : State) (i : Nat) (x : Option PendingInput) : (setInput s i x).twn = s.twn := rfl
@[simp] theorem setInput_mtr (s : State) (i : Nat) (x : Option PendingInput) : (setInput s i x).mtr = s.mtr := rfl
@[simp] theorem setInput_lane (s : State) (i : Nat) (x : Option PendingInput) : (setInput s i x).lane = s.lane := rfl
@[simp] theorem setInput_out (s : State) (i : Nat) (x : Option PendingInput) : (setInput s i x).out = s.out := rfl

/-! `setTransfer` writes xfr. -/

@[simp] theorem setTransfer_pending (s : State) (k : Nat) (x : Option Transfer) : (setTransfer s k x).pending = s.pending := rfl
@[simp] theorem setTransfer_fresh (s : State) (k : Nat) (x : Option Transfer) : (setTransfer s k x).fresh = s.fresh := rfl
@[simp] theorem setTransfer_fields (s : State) (k : Nat) (x : Option Transfer) : (setTransfer s k x).fields = s.fields := rfl
@[simp] theorem setTransfer_mem (s : State) (k : Nat) (x : Option Transfer) : (setTransfer s k x).mem = s.mem := rfl
@[simp] theorem setTransfer_plt (s : State) (k : Nat) (x : Option Transfer) : (setTransfer s k x).plt = s.plt := rfl
@[simp] theorem setTransfer_pwr (s : State) (k : Nat) (x : Option Transfer) : (setTransfer s k x).pwr = s.pwr := rfl
@[simp] theorem setTransfer_pcie (s : State) (k : Nat) (x : Option Transfer) : (setTransfer s k x).pcie = s.pcie := rfl
@[simp] theorem setTransfer_stk (s : State) (k : Nat) (x : Option Transfer) : (setTransfer s k x).stk = s.stk := rfl
@[simp] theorem setTransfer_fab (s : State) (k : Nat) (x : Option Transfer) : (setTransfer s k x).fab = s.fab := rfl
@[simp] theorem setTransfer_ucode (s : State) (k : Nat) (x : Option Transfer) : (setTransfer s k x).ucode = s.ucode := rfl
@[simp] theorem setTransfer_sch (s : State) (k : Nat) (x : Option Transfer) : (setTransfer s k x).sch = s.sch := rfl
@[simp] theorem setTransfer_rqt (s : State) (k : Nat) (x : Option Transfer) : (setTransfer s k x).rqt = s.rqt := rfl
@[simp] theorem setTransfer_pfx (s : State) (k : Nat) (x : Option Transfer) : (setTransfer s k x).pfx = s.pfx := rfl
@[simp] theorem setTransfer_cod (s : State) (k : Nat) (x : Option Transfer) : (setTransfer s k x).cod = s.cod := rfl
@[simp] theorem setTransfer_lnk (s : State) (k : Nat) (x : Option Transfer) : (setTransfer s k x).lnk = s.lnk := rfl
@[simp] theorem setTransfer_coh (s : State) (k : Nat) (x : Option Transfer) : (setTransfer s k x).coh = s.coh := rfl
@[simp] theorem setTransfer_tm (s : State) (k : Nat) (x : Option Transfer) : (setTransfer s k x).tm = s.tm := rfl
@[simp] theorem setTransfer_fls (s : State) (k : Nat) (x : Option Transfer) : (setTransfer s k x).fls = s.fls := rfl
@[simp] theorem setTransfer_twn (s : State) (k : Nat) (x : Option Transfer) : (setTransfer s k x).twn = s.twn := rfl
@[simp] theorem setTransfer_mtr (s : State) (k : Nat) (x : Option Transfer) : (setTransfer s k x).mtr = s.mtr := rfl
@[simp] theorem setTransfer_lane (s : State) (k : Nat) (x : Option Transfer) : (setTransfer s k x).lane = s.lane := rfl
@[simp] theorem setTransfer_out (s : State) (k : Nat) (x : Option Transfer) : (setTransfer s k x).out = s.out := rfl

/-! `hear` writes rqt. -/

@[simp] theorem hear_pending (s : State) (i : Nat) : (hear s i).pending = s.pending := rfl
@[simp] theorem hear_fresh (s : State) (i : Nat) : (hear s i).fresh = s.fresh := rfl
@[simp] theorem hear_fields (s : State) (i : Nat) : (hear s i).fields = s.fields := rfl
@[simp] theorem hear_mem (s : State) (i : Nat) : (hear s i).mem = s.mem := rfl
@[simp] theorem hear_plt (s : State) (i : Nat) : (hear s i).plt = s.plt := rfl
@[simp] theorem hear_pwr (s : State) (i : Nat) : (hear s i).pwr = s.pwr := rfl
@[simp] theorem hear_pcie (s : State) (i : Nat) : (hear s i).pcie = s.pcie := rfl
@[simp] theorem hear_stk (s : State) (i : Nat) : (hear s i).stk = s.stk := rfl
@[simp] theorem hear_fab (s : State) (i : Nat) : (hear s i).fab = s.fab := rfl
@[simp] theorem hear_ucode (s : State) (i : Nat) : (hear s i).ucode = s.ucode := rfl
@[simp] theorem hear_sch (s : State) (i : Nat) : (hear s i).sch = s.sch := rfl
@[simp] theorem hear_pfx (s : State) (i : Nat) : (hear s i).pfx = s.pfx := rfl
@[simp] theorem hear_xfr (s : State) (i : Nat) : (hear s i).xfr = s.xfr := rfl
@[simp] theorem hear_cod (s : State) (i : Nat) : (hear s i).cod = s.cod := rfl
@[simp] theorem hear_lnk (s : State) (i : Nat) : (hear s i).lnk = s.lnk := rfl
@[simp] theorem hear_coh (s : State) (i : Nat) : (hear s i).coh = s.coh := rfl
@[simp] theorem hear_tm (s : State) (i : Nat) : (hear s i).tm = s.tm := rfl
@[simp] theorem hear_fls (s : State) (i : Nat) : (hear s i).fls = s.fls := rfl
@[simp] theorem hear_twn (s : State) (i : Nat) : (hear s i).twn = s.twn := rfl
@[simp] theorem hear_mtr (s : State) (i : Nat) : (hear s i).mtr = s.mtr := rfl
@[simp] theorem hear_lane (s : State) (i : Nat) : (hear s i).lane = s.lane := rfl
@[simp] theorem hear_out (s : State) (i : Nat) : (hear s i).out = s.out := rfl

/-! `setAdmission` writes rqt. -/

@[simp] theorem setAdmission_pending (s : State) (i : Nat) (a : Option Admission) : (setAdmission s i a).pending = s.pending := rfl
@[simp] theorem setAdmission_fresh (s : State) (i : Nat) (a : Option Admission) : (setAdmission s i a).fresh = s.fresh := rfl
@[simp] theorem setAdmission_fields (s : State) (i : Nat) (a : Option Admission) : (setAdmission s i a).fields = s.fields := rfl
@[simp] theorem setAdmission_mem (s : State) (i : Nat) (a : Option Admission) : (setAdmission s i a).mem = s.mem := rfl
@[simp] theorem setAdmission_plt (s : State) (i : Nat) (a : Option Admission) : (setAdmission s i a).plt = s.plt := rfl
@[simp] theorem setAdmission_pwr (s : State) (i : Nat) (a : Option Admission) : (setAdmission s i a).pwr = s.pwr := rfl
@[simp] theorem setAdmission_pcie (s : State) (i : Nat) (a : Option Admission) : (setAdmission s i a).pcie = s.pcie := rfl
@[simp] theorem setAdmission_stk (s : State) (i : Nat) (a : Option Admission) : (setAdmission s i a).stk = s.stk := rfl
@[simp] theorem setAdmission_fab (s : State) (i : Nat) (a : Option Admission) : (setAdmission s i a).fab = s.fab := rfl
@[simp] theorem setAdmission_ucode (s : State) (i : Nat) (a : Option Admission) : (setAdmission s i a).ucode = s.ucode := rfl
@[simp] theorem setAdmission_sch (s : State) (i : Nat) (a : Option Admission) : (setAdmission s i a).sch = s.sch := rfl
@[simp] theorem setAdmission_pfx (s : State) (i : Nat) (a : Option Admission) : (setAdmission s i a).pfx = s.pfx := rfl
@[simp] theorem setAdmission_xfr (s : State) (i : Nat) (a : Option Admission) : (setAdmission s i a).xfr = s.xfr := rfl
@[simp] theorem setAdmission_cod (s : State) (i : Nat) (a : Option Admission) : (setAdmission s i a).cod = s.cod := rfl
@[simp] theorem setAdmission_lnk (s : State) (i : Nat) (a : Option Admission) : (setAdmission s i a).lnk = s.lnk := rfl
@[simp] theorem setAdmission_coh (s : State) (i : Nat) (a : Option Admission) : (setAdmission s i a).coh = s.coh := rfl
@[simp] theorem setAdmission_tm (s : State) (i : Nat) (a : Option Admission) : (setAdmission s i a).tm = s.tm := rfl
@[simp] theorem setAdmission_fls (s : State) (i : Nat) (a : Option Admission) : (setAdmission s i a).fls = s.fls := rfl
@[simp] theorem setAdmission_twn (s : State) (i : Nat) (a : Option Admission) : (setAdmission s i a).twn = s.twn := rfl
@[simp] theorem setAdmission_mtr (s : State) (i : Nat) (a : Option Admission) : (setAdmission s i a).mtr = s.mtr := rfl
@[simp] theorem setAdmission_lane (s : State) (i : Nat) (a : Option Admission) : (setAdmission s i a).lane = s.lane := rfl
@[simp] theorem setAdmission_out (s : State) (i : Nat) (a : Option Admission) : (setAdmission s i a).out = s.out := rfl

/-! `setLedger` writes xfr. -/

@[simp] theorem setLedger_pending (s : State) (k : Nat) (l : Ledger) : (setLedger s k l).pending = s.pending := rfl
@[simp] theorem setLedger_fresh (s : State) (k : Nat) (l : Ledger) : (setLedger s k l).fresh = s.fresh := rfl
@[simp] theorem setLedger_fields (s : State) (k : Nat) (l : Ledger) : (setLedger s k l).fields = s.fields := rfl
@[simp] theorem setLedger_mem (s : State) (k : Nat) (l : Ledger) : (setLedger s k l).mem = s.mem := rfl
@[simp] theorem setLedger_plt (s : State) (k : Nat) (l : Ledger) : (setLedger s k l).plt = s.plt := rfl
@[simp] theorem setLedger_pwr (s : State) (k : Nat) (l : Ledger) : (setLedger s k l).pwr = s.pwr := rfl
@[simp] theorem setLedger_pcie (s : State) (k : Nat) (l : Ledger) : (setLedger s k l).pcie = s.pcie := rfl
@[simp] theorem setLedger_stk (s : State) (k : Nat) (l : Ledger) : (setLedger s k l).stk = s.stk := rfl
@[simp] theorem setLedger_fab (s : State) (k : Nat) (l : Ledger) : (setLedger s k l).fab = s.fab := rfl
@[simp] theorem setLedger_ucode (s : State) (k : Nat) (l : Ledger) : (setLedger s k l).ucode = s.ucode := rfl
@[simp] theorem setLedger_sch (s : State) (k : Nat) (l : Ledger) : (setLedger s k l).sch = s.sch := rfl
@[simp] theorem setLedger_rqt (s : State) (k : Nat) (l : Ledger) : (setLedger s k l).rqt = s.rqt := rfl
@[simp] theorem setLedger_pfx (s : State) (k : Nat) (l : Ledger) : (setLedger s k l).pfx = s.pfx := rfl
@[simp] theorem setLedger_cod (s : State) (k : Nat) (l : Ledger) : (setLedger s k l).cod = s.cod := rfl
@[simp] theorem setLedger_lnk (s : State) (k : Nat) (l : Ledger) : (setLedger s k l).lnk = s.lnk := rfl
@[simp] theorem setLedger_coh (s : State) (k : Nat) (l : Ledger) : (setLedger s k l).coh = s.coh := rfl
@[simp] theorem setLedger_tm (s : State) (k : Nat) (l : Ledger) : (setLedger s k l).tm = s.tm := rfl
@[simp] theorem setLedger_fls (s : State) (k : Nat) (l : Ledger) : (setLedger s k l).fls = s.fls := rfl
@[simp] theorem setLedger_twn (s : State) (k : Nat) (l : Ledger) : (setLedger s k l).twn = s.twn := rfl
@[simp] theorem setLedger_mtr (s : State) (k : Nat) (l : Ledger) : (setLedger s k l).mtr = s.mtr := rfl
@[simp] theorem setLedger_lane (s : State) (k : Nat) (l : Ledger) : (setLedger s k l).lane = s.lane := rfl
@[simp] theorem setLedger_out (s : State) (k : Nat) (l : Ledger) : (setLedger s k l).out = s.out := rfl

/-! `setLedgerUnits` writes xfr. -/

@[simp] theorem setLedgerUnits_pending (s : State) (k : Nat) (u : LedgerUnits) : (setLedgerUnits s k u).pending = s.pending := rfl
@[simp] theorem setLedgerUnits_fresh (s : State) (k : Nat) (u : LedgerUnits) : (setLedgerUnits s k u).fresh = s.fresh := rfl
@[simp] theorem setLedgerUnits_fields (s : State) (k : Nat) (u : LedgerUnits) : (setLedgerUnits s k u).fields = s.fields := rfl
@[simp] theorem setLedgerUnits_mem (s : State) (k : Nat) (u : LedgerUnits) : (setLedgerUnits s k u).mem = s.mem := rfl
@[simp] theorem setLedgerUnits_plt (s : State) (k : Nat) (u : LedgerUnits) : (setLedgerUnits s k u).plt = s.plt := rfl
@[simp] theorem setLedgerUnits_pwr (s : State) (k : Nat) (u : LedgerUnits) : (setLedgerUnits s k u).pwr = s.pwr := rfl
@[simp] theorem setLedgerUnits_pcie (s : State) (k : Nat) (u : LedgerUnits) : (setLedgerUnits s k u).pcie = s.pcie := rfl
@[simp] theorem setLedgerUnits_stk (s : State) (k : Nat) (u : LedgerUnits) : (setLedgerUnits s k u).stk = s.stk := rfl
@[simp] theorem setLedgerUnits_fab (s : State) (k : Nat) (u : LedgerUnits) : (setLedgerUnits s k u).fab = s.fab := rfl
@[simp] theorem setLedgerUnits_ucode (s : State) (k : Nat) (u : LedgerUnits) : (setLedgerUnits s k u).ucode = s.ucode := rfl
@[simp] theorem setLedgerUnits_sch (s : State) (k : Nat) (u : LedgerUnits) : (setLedgerUnits s k u).sch = s.sch := rfl
@[simp] theorem setLedgerUnits_rqt (s : State) (k : Nat) (u : LedgerUnits) : (setLedgerUnits s k u).rqt = s.rqt := rfl
@[simp] theorem setLedgerUnits_pfx (s : State) (k : Nat) (u : LedgerUnits) : (setLedgerUnits s k u).pfx = s.pfx := rfl
@[simp] theorem setLedgerUnits_cod (s : State) (k : Nat) (u : LedgerUnits) : (setLedgerUnits s k u).cod = s.cod := rfl
@[simp] theorem setLedgerUnits_lnk (s : State) (k : Nat) (u : LedgerUnits) : (setLedgerUnits s k u).lnk = s.lnk := rfl
@[simp] theorem setLedgerUnits_coh (s : State) (k : Nat) (u : LedgerUnits) : (setLedgerUnits s k u).coh = s.coh := rfl
@[simp] theorem setLedgerUnits_tm (s : State) (k : Nat) (u : LedgerUnits) : (setLedgerUnits s k u).tm = s.tm := rfl
@[simp] theorem setLedgerUnits_fls (s : State) (k : Nat) (u : LedgerUnits) : (setLedgerUnits s k u).fls = s.fls := rfl
@[simp] theorem setLedgerUnits_twn (s : State) (k : Nat) (u : LedgerUnits) : (setLedgerUnits s k u).twn = s.twn := rfl
@[simp] theorem setLedgerUnits_mtr (s : State) (k : Nat) (u : LedgerUnits) : (setLedgerUnits s k u).mtr = s.mtr := rfl
@[simp] theorem setLedgerUnits_lane (s : State) (k : Nat) (u : LedgerUnits) : (setLedgerUnits s k u).lane = s.lane := rfl
@[simp] theorem setLedgerUnits_out (s : State) (k : Nat) (u : LedgerUnits) : (setLedgerUnits s k u).out = s.out := rfl

/-! `setReads` writes rqt. -/

@[simp] theorem setReads_pending (s : State) (i : Nat) (x : Option BlockReads) : (setReads s i x).pending = s.pending := rfl
@[simp] theorem setReads_fresh (s : State) (i : Nat) (x : Option BlockReads) : (setReads s i x).fresh = s.fresh := rfl
@[simp] theorem setReads_fields (s : State) (i : Nat) (x : Option BlockReads) : (setReads s i x).fields = s.fields := rfl
@[simp] theorem setReads_mem (s : State) (i : Nat) (x : Option BlockReads) : (setReads s i x).mem = s.mem := rfl
@[simp] theorem setReads_plt (s : State) (i : Nat) (x : Option BlockReads) : (setReads s i x).plt = s.plt := rfl
@[simp] theorem setReads_pwr (s : State) (i : Nat) (x : Option BlockReads) : (setReads s i x).pwr = s.pwr := rfl
@[simp] theorem setReads_pcie (s : State) (i : Nat) (x : Option BlockReads) : (setReads s i x).pcie = s.pcie := rfl
@[simp] theorem setReads_stk (s : State) (i : Nat) (x : Option BlockReads) : (setReads s i x).stk = s.stk := rfl
@[simp] theorem setReads_fab (s : State) (i : Nat) (x : Option BlockReads) : (setReads s i x).fab = s.fab := rfl
@[simp] theorem setReads_ucode (s : State) (i : Nat) (x : Option BlockReads) : (setReads s i x).ucode = s.ucode := rfl
@[simp] theorem setReads_sch (s : State) (i : Nat) (x : Option BlockReads) : (setReads s i x).sch = s.sch := rfl
@[simp] theorem setReads_pfx (s : State) (i : Nat) (x : Option BlockReads) : (setReads s i x).pfx = s.pfx := rfl
@[simp] theorem setReads_xfr (s : State) (i : Nat) (x : Option BlockReads) : (setReads s i x).xfr = s.xfr := rfl
@[simp] theorem setReads_cod (s : State) (i : Nat) (x : Option BlockReads) : (setReads s i x).cod = s.cod := rfl
@[simp] theorem setReads_lnk (s : State) (i : Nat) (x : Option BlockReads) : (setReads s i x).lnk = s.lnk := rfl
@[simp] theorem setReads_coh (s : State) (i : Nat) (x : Option BlockReads) : (setReads s i x).coh = s.coh := rfl
@[simp] theorem setReads_tm (s : State) (i : Nat) (x : Option BlockReads) : (setReads s i x).tm = s.tm := rfl
@[simp] theorem setReads_fls (s : State) (i : Nat) (x : Option BlockReads) : (setReads s i x).fls = s.fls := rfl
@[simp] theorem setReads_twn (s : State) (i : Nat) (x : Option BlockReads) : (setReads s i x).twn = s.twn := rfl
@[simp] theorem setReads_mtr (s : State) (i : Nat) (x : Option BlockReads) : (setReads s i x).mtr = s.mtr := rfl
@[simp] theorem setReads_lane (s : State) (i : Nat) (x : Option BlockReads) : (setReads s i x).lane = s.lane := rfl
@[simp] theorem setReads_out (s : State) (i : Nat) (x : Option BlockReads) : (setReads s i x).out = s.out := rfl

/-! `setCacheLine` writes coh. -/

@[simp] theorem setCacheLine_pending (s : State) (a l : Nat) (c : CacheLine) : (setCacheLine s a l c).pending = s.pending := rfl
@[simp] theorem setCacheLine_fresh (s : State) (a l : Nat) (c : CacheLine) : (setCacheLine s a l c).fresh = s.fresh := rfl
@[simp] theorem setCacheLine_fields (s : State) (a l : Nat) (c : CacheLine) : (setCacheLine s a l c).fields = s.fields := rfl
@[simp] theorem setCacheLine_mem (s : State) (a l : Nat) (c : CacheLine) : (setCacheLine s a l c).mem = s.mem := rfl
@[simp] theorem setCacheLine_plt (s : State) (a l : Nat) (c : CacheLine) : (setCacheLine s a l c).plt = s.plt := rfl
@[simp] theorem setCacheLine_pwr (s : State) (a l : Nat) (c : CacheLine) : (setCacheLine s a l c).pwr = s.pwr := rfl
@[simp] theorem setCacheLine_pcie (s : State) (a l : Nat) (c : CacheLine) : (setCacheLine s a l c).pcie = s.pcie := rfl
@[simp] theorem setCacheLine_stk (s : State) (a l : Nat) (c : CacheLine) : (setCacheLine s a l c).stk = s.stk := rfl
@[simp] theorem setCacheLine_fab (s : State) (a l : Nat) (c : CacheLine) : (setCacheLine s a l c).fab = s.fab := rfl
@[simp] theorem setCacheLine_ucode (s : State) (a l : Nat) (c : CacheLine) : (setCacheLine s a l c).ucode = s.ucode := rfl
@[simp] theorem setCacheLine_sch (s : State) (a l : Nat) (c : CacheLine) : (setCacheLine s a l c).sch = s.sch := rfl
@[simp] theorem setCacheLine_rqt (s : State) (a l : Nat) (c : CacheLine) : (setCacheLine s a l c).rqt = s.rqt := rfl
@[simp] theorem setCacheLine_pfx (s : State) (a l : Nat) (c : CacheLine) : (setCacheLine s a l c).pfx = s.pfx := rfl
@[simp] theorem setCacheLine_xfr (s : State) (a l : Nat) (c : CacheLine) : (setCacheLine s a l c).xfr = s.xfr := rfl
@[simp] theorem setCacheLine_cod (s : State) (a l : Nat) (c : CacheLine) : (setCacheLine s a l c).cod = s.cod := rfl
@[simp] theorem setCacheLine_lnk (s : State) (a l : Nat) (c : CacheLine) : (setCacheLine s a l c).lnk = s.lnk := rfl
@[simp] theorem setCacheLine_tm (s : State) (a l : Nat) (c : CacheLine) : (setCacheLine s a l c).tm = s.tm := rfl
@[simp] theorem setCacheLine_fls (s : State) (a l : Nat) (c : CacheLine) : (setCacheLine s a l c).fls = s.fls := rfl
@[simp] theorem setCacheLine_twn (s : State) (a l : Nat) (c : CacheLine) : (setCacheLine s a l c).twn = s.twn := rfl
@[simp] theorem setCacheLine_mtr (s : State) (a l : Nat) (c : CacheLine) : (setCacheLine s a l c).mtr = s.mtr := rfl
@[simp] theorem setCacheLine_lane (s : State) (a l : Nat) (c : CacheLine) : (setCacheLine s a l c).lane = s.lane := rfl
@[simp] theorem setCacheLine_out (s : State) (a l : Nat) (c : CacheLine) : (setCacheLine s a l c).out = s.out := rfl

/-! `setHomeLine` writes coh. -/

@[simp] theorem setHomeLine_pending (s : State) (l : Nat) (h : HomeLine) : (setHomeLine s l h).pending = s.pending := rfl
@[simp] theorem setHomeLine_fresh (s : State) (l : Nat) (h : HomeLine) : (setHomeLine s l h).fresh = s.fresh := rfl
@[simp] theorem setHomeLine_fields (s : State) (l : Nat) (h : HomeLine) : (setHomeLine s l h).fields = s.fields := rfl
@[simp] theorem setHomeLine_mem (s : State) (l : Nat) (h : HomeLine) : (setHomeLine s l h).mem = s.mem := rfl
@[simp] theorem setHomeLine_plt (s : State) (l : Nat) (h : HomeLine) : (setHomeLine s l h).plt = s.plt := rfl
@[simp] theorem setHomeLine_pwr (s : State) (l : Nat) (h : HomeLine) : (setHomeLine s l h).pwr = s.pwr := rfl
@[simp] theorem setHomeLine_pcie (s : State) (l : Nat) (h : HomeLine) : (setHomeLine s l h).pcie = s.pcie := rfl
@[simp] theorem setHomeLine_stk (s : State) (l : Nat) (h : HomeLine) : (setHomeLine s l h).stk = s.stk := rfl
@[simp] theorem setHomeLine_fab (s : State) (l : Nat) (h : HomeLine) : (setHomeLine s l h).fab = s.fab := rfl
@[simp] theorem setHomeLine_ucode (s : State) (l : Nat) (h : HomeLine) : (setHomeLine s l h).ucode = s.ucode := rfl
@[simp] theorem setHomeLine_sch (s : State) (l : Nat) (h : HomeLine) : (setHomeLine s l h).sch = s.sch := rfl
@[simp] theorem setHomeLine_rqt (s : State) (l : Nat) (h : HomeLine) : (setHomeLine s l h).rqt = s.rqt := rfl
@[simp] theorem setHomeLine_pfx (s : State) (l : Nat) (h : HomeLine) : (setHomeLine s l h).pfx = s.pfx := rfl
@[simp] theorem setHomeLine_xfr (s : State) (l : Nat) (h : HomeLine) : (setHomeLine s l h).xfr = s.xfr := rfl
@[simp] theorem setHomeLine_cod (s : State) (l : Nat) (h : HomeLine) : (setHomeLine s l h).cod = s.cod := rfl
@[simp] theorem setHomeLine_lnk (s : State) (l : Nat) (h : HomeLine) : (setHomeLine s l h).lnk = s.lnk := rfl
@[simp] theorem setHomeLine_tm (s : State) (l : Nat) (h : HomeLine) : (setHomeLine s l h).tm = s.tm := rfl
@[simp] theorem setHomeLine_fls (s : State) (l : Nat) (h : HomeLine) : (setHomeLine s l h).fls = s.fls := rfl
@[simp] theorem setHomeLine_twn (s : State) (l : Nat) (h : HomeLine) : (setHomeLine s l h).twn = s.twn := rfl
@[simp] theorem setHomeLine_mtr (s : State) (l : Nat) (h : HomeLine) : (setHomeLine s l h).mtr = s.mtr := rfl
@[simp] theorem setHomeLine_lane (s : State) (l : Nat) (h : HomeLine) : (setHomeLine s l h).lane = s.lane := rfl
@[simp] theorem setHomeLine_out (s : State) (l : Nat) (h : HomeLine) : (setHomeLine s l h).out = s.out := rfl

/-! `storeLine` writes mem. -/

@[simp] theorem storeLine_pending (s : State) (l : Nat) (bs : List Byte) : (storeLine s l bs).pending = s.pending := rfl
@[simp] theorem storeLine_fresh (s : State) (l : Nat) (bs : List Byte) : (storeLine s l bs).fresh = s.fresh := rfl
@[simp] theorem storeLine_fields (s : State) (l : Nat) (bs : List Byte) : (storeLine s l bs).fields = s.fields := rfl
@[simp] theorem storeLine_plt (s : State) (l : Nat) (bs : List Byte) : (storeLine s l bs).plt = s.plt := rfl
@[simp] theorem storeLine_pwr (s : State) (l : Nat) (bs : List Byte) : (storeLine s l bs).pwr = s.pwr := rfl
@[simp] theorem storeLine_pcie (s : State) (l : Nat) (bs : List Byte) : (storeLine s l bs).pcie = s.pcie := rfl
@[simp] theorem storeLine_stk (s : State) (l : Nat) (bs : List Byte) : (storeLine s l bs).stk = s.stk := rfl
@[simp] theorem storeLine_fab (s : State) (l : Nat) (bs : List Byte) : (storeLine s l bs).fab = s.fab := rfl
@[simp] theorem storeLine_ucode (s : State) (l : Nat) (bs : List Byte) : (storeLine s l bs).ucode = s.ucode := rfl
@[simp] theorem storeLine_sch (s : State) (l : Nat) (bs : List Byte) : (storeLine s l bs).sch = s.sch := rfl
@[simp] theorem storeLine_rqt (s : State) (l : Nat) (bs : List Byte) : (storeLine s l bs).rqt = s.rqt := rfl
@[simp] theorem storeLine_pfx (s : State) (l : Nat) (bs : List Byte) : (storeLine s l bs).pfx = s.pfx := rfl
@[simp] theorem storeLine_xfr (s : State) (l : Nat) (bs : List Byte) : (storeLine s l bs).xfr = s.xfr := rfl
@[simp] theorem storeLine_cod (s : State) (l : Nat) (bs : List Byte) : (storeLine s l bs).cod = s.cod := rfl
@[simp] theorem storeLine_lnk (s : State) (l : Nat) (bs : List Byte) : (storeLine s l bs).lnk = s.lnk := rfl
@[simp] theorem storeLine_coh (s : State) (l : Nat) (bs : List Byte) : (storeLine s l bs).coh = s.coh := rfl
@[simp] theorem storeLine_tm (s : State) (l : Nat) (bs : List Byte) : (storeLine s l bs).tm = s.tm := rfl
@[simp] theorem storeLine_fls (s : State) (l : Nat) (bs : List Byte) : (storeLine s l bs).fls = s.fls := rfl
@[simp] theorem storeLine_twn (s : State) (l : Nat) (bs : List Byte) : (storeLine s l bs).twn = s.twn := rfl
@[simp] theorem storeLine_mtr (s : State) (l : Nat) (bs : List Byte) : (storeLine s l bs).mtr = s.mtr := rfl
@[simp] theorem storeLine_lane (s : State) (l : Nat) (bs : List Byte) : (storeLine s l bs).lane = s.lane := rfl
@[simp] theorem storeLine_out (s : State) (l : Nat) (bs : List Byte) : (storeLine s l bs).out = s.out := rfl

/-! `setMemberState` writes lnk. -/

@[simp] theorem setMemberState_pending (s : State) (m : Nat) (v : MemberState) : (setMemberState s m v).pending = s.pending := rfl
@[simp] theorem setMemberState_fresh (s : State) (m : Nat) (v : MemberState) : (setMemberState s m v).fresh = s.fresh := rfl
@[simp] theorem setMemberState_fields (s : State) (m : Nat) (v : MemberState) : (setMemberState s m v).fields = s.fields := rfl
@[simp] theorem setMemberState_mem (s : State) (m : Nat) (v : MemberState) : (setMemberState s m v).mem = s.mem := rfl
@[simp] theorem setMemberState_plt (s : State) (m : Nat) (v : MemberState) : (setMemberState s m v).plt = s.plt := rfl
@[simp] theorem setMemberState_pwr (s : State) (m : Nat) (v : MemberState) : (setMemberState s m v).pwr = s.pwr := rfl
@[simp] theorem setMemberState_pcie (s : State) (m : Nat) (v : MemberState) : (setMemberState s m v).pcie = s.pcie := rfl
@[simp] theorem setMemberState_stk (s : State) (m : Nat) (v : MemberState) : (setMemberState s m v).stk = s.stk := rfl
@[simp] theorem setMemberState_fab (s : State) (m : Nat) (v : MemberState) : (setMemberState s m v).fab = s.fab := rfl
@[simp] theorem setMemberState_ucode (s : State) (m : Nat) (v : MemberState) : (setMemberState s m v).ucode = s.ucode := rfl
@[simp] theorem setMemberState_sch (s : State) (m : Nat) (v : MemberState) : (setMemberState s m v).sch = s.sch := rfl
@[simp] theorem setMemberState_rqt (s : State) (m : Nat) (v : MemberState) : (setMemberState s m v).rqt = s.rqt := rfl
@[simp] theorem setMemberState_pfx (s : State) (m : Nat) (v : MemberState) : (setMemberState s m v).pfx = s.pfx := rfl
@[simp] theorem setMemberState_xfr (s : State) (m : Nat) (v : MemberState) : (setMemberState s m v).xfr = s.xfr := rfl
@[simp] theorem setMemberState_cod (s : State) (m : Nat) (v : MemberState) : (setMemberState s m v).cod = s.cod := rfl
@[simp] theorem setMemberState_coh (s : State) (m : Nat) (v : MemberState) : (setMemberState s m v).coh = s.coh := rfl
@[simp] theorem setMemberState_tm (s : State) (m : Nat) (v : MemberState) : (setMemberState s m v).tm = s.tm := rfl
@[simp] theorem setMemberState_fls (s : State) (m : Nat) (v : MemberState) : (setMemberState s m v).fls = s.fls := rfl
@[simp] theorem setMemberState_twn (s : State) (m : Nat) (v : MemberState) : (setMemberState s m v).twn = s.twn := rfl
@[simp] theorem setMemberState_mtr (s : State) (m : Nat) (v : MemberState) : (setMemberState s m v).mtr = s.mtr := rfl
@[simp] theorem setMemberState_lane (s : State) (m : Nat) (v : MemberState) : (setMemberState s m v).lane = s.lane := rfl
@[simp] theorem setMemberState_out (s : State) (m : Nat) (v : MemberState) : (setMemberState s m v).out = s.out := rfl

/-! `setOp` writes lnk. -/

@[simp] theorem setOp_pending (s : State) (r slot : Nat) (x : Option RemoteOp) : (setOp s r slot x).pending = s.pending := rfl
@[simp] theorem setOp_fresh (s : State) (r slot : Nat) (x : Option RemoteOp) : (setOp s r slot x).fresh = s.fresh := rfl
@[simp] theorem setOp_fields (s : State) (r slot : Nat) (x : Option RemoteOp) : (setOp s r slot x).fields = s.fields := rfl
@[simp] theorem setOp_mem (s : State) (r slot : Nat) (x : Option RemoteOp) : (setOp s r slot x).mem = s.mem := rfl
@[simp] theorem setOp_plt (s : State) (r slot : Nat) (x : Option RemoteOp) : (setOp s r slot x).plt = s.plt := rfl
@[simp] theorem setOp_pwr (s : State) (r slot : Nat) (x : Option RemoteOp) : (setOp s r slot x).pwr = s.pwr := rfl
@[simp] theorem setOp_pcie (s : State) (r slot : Nat) (x : Option RemoteOp) : (setOp s r slot x).pcie = s.pcie := rfl
@[simp] theorem setOp_stk (s : State) (r slot : Nat) (x : Option RemoteOp) : (setOp s r slot x).stk = s.stk := rfl
@[simp] theorem setOp_fab (s : State) (r slot : Nat) (x : Option RemoteOp) : (setOp s r slot x).fab = s.fab := rfl
@[simp] theorem setOp_ucode (s : State) (r slot : Nat) (x : Option RemoteOp) : (setOp s r slot x).ucode = s.ucode := rfl
@[simp] theorem setOp_sch (s : State) (r slot : Nat) (x : Option RemoteOp) : (setOp s r slot x).sch = s.sch := rfl
@[simp] theorem setOp_rqt (s : State) (r slot : Nat) (x : Option RemoteOp) : (setOp s r slot x).rqt = s.rqt := rfl
@[simp] theorem setOp_pfx (s : State) (r slot : Nat) (x : Option RemoteOp) : (setOp s r slot x).pfx = s.pfx := rfl
@[simp] theorem setOp_xfr (s : State) (r slot : Nat) (x : Option RemoteOp) : (setOp s r slot x).xfr = s.xfr := rfl
@[simp] theorem setOp_cod (s : State) (r slot : Nat) (x : Option RemoteOp) : (setOp s r slot x).cod = s.cod := rfl
@[simp] theorem setOp_coh (s : State) (r slot : Nat) (x : Option RemoteOp) : (setOp s r slot x).coh = s.coh := rfl
@[simp] theorem setOp_tm (s : State) (r slot : Nat) (x : Option RemoteOp) : (setOp s r slot x).tm = s.tm := rfl
@[simp] theorem setOp_fls (s : State) (r slot : Nat) (x : Option RemoteOp) : (setOp s r slot x).fls = s.fls := rfl
@[simp] theorem setOp_twn (s : State) (r slot : Nat) (x : Option RemoteOp) : (setOp s r slot x).twn = s.twn := rfl
@[simp] theorem setOp_mtr (s : State) (r slot : Nat) (x : Option RemoteOp) : (setOp s r slot x).mtr = s.mtr := rfl
@[simp] theorem setOp_lane (s : State) (r slot : Nat) (x : Option RemoteOp) : (setOp s r slot x).lane = s.lane := rfl
@[simp] theorem setOp_out (s : State) (r slot : Nat) (x : Option RemoteOp) : (setOp s r slot x).out = s.out := rfl

/-! `setPort` writes lnk. -/

@[simp] theorem setPort_pending (s : State) (p : Nat) (x : Port) : (setPort s p x).pending = s.pending := rfl
@[simp] theorem setPort_fresh (s : State) (p : Nat) (x : Port) : (setPort s p x).fresh = s.fresh := rfl
@[simp] theorem setPort_fields (s : State) (p : Nat) (x : Port) : (setPort s p x).fields = s.fields := rfl
@[simp] theorem setPort_mem (s : State) (p : Nat) (x : Port) : (setPort s p x).mem = s.mem := rfl
@[simp] theorem setPort_plt (s : State) (p : Nat) (x : Port) : (setPort s p x).plt = s.plt := rfl
@[simp] theorem setPort_pwr (s : State) (p : Nat) (x : Port) : (setPort s p x).pwr = s.pwr := rfl
@[simp] theorem setPort_pcie (s : State) (p : Nat) (x : Port) : (setPort s p x).pcie = s.pcie := rfl
@[simp] theorem setPort_stk (s : State) (p : Nat) (x : Port) : (setPort s p x).stk = s.stk := rfl
@[simp] theorem setPort_fab (s : State) (p : Nat) (x : Port) : (setPort s p x).fab = s.fab := rfl
@[simp] theorem setPort_ucode (s : State) (p : Nat) (x : Port) : (setPort s p x).ucode = s.ucode := rfl
@[simp] theorem setPort_sch (s : State) (p : Nat) (x : Port) : (setPort s p x).sch = s.sch := rfl
@[simp] theorem setPort_rqt (s : State) (p : Nat) (x : Port) : (setPort s p x).rqt = s.rqt := rfl
@[simp] theorem setPort_pfx (s : State) (p : Nat) (x : Port) : (setPort s p x).pfx = s.pfx := rfl
@[simp] theorem setPort_xfr (s : State) (p : Nat) (x : Port) : (setPort s p x).xfr = s.xfr := rfl
@[simp] theorem setPort_cod (s : State) (p : Nat) (x : Port) : (setPort s p x).cod = s.cod := rfl
@[simp] theorem setPort_coh (s : State) (p : Nat) (x : Port) : (setPort s p x).coh = s.coh := rfl
@[simp] theorem setPort_tm (s : State) (p : Nat) (x : Port) : (setPort s p x).tm = s.tm := rfl
@[simp] theorem setPort_fls (s : State) (p : Nat) (x : Port) : (setPort s p x).fls = s.fls := rfl
@[simp] theorem setPort_twn (s : State) (p : Nat) (x : Port) : (setPort s p x).twn = s.twn := rfl
@[simp] theorem setPort_mtr (s : State) (p : Nat) (x : Port) : (setPort s p x).mtr = s.mtr := rfl
@[simp] theorem setPort_lane (s : State) (p : Nat) (x : Port) : (setPort s p x).lane = s.lane := rfl
@[simp] theorem setPort_out (s : State) (p : Nat) (x : Port) : (setPort s p x).out = s.out := rfl

/-! `setBarrier` writes lnk. -/

@[simp] theorem setBarrier_pending (s : State) (m r : Nat) (v : Option Nat) : (setBarrier s m r v).pending = s.pending := rfl
@[simp] theorem setBarrier_fresh (s : State) (m r : Nat) (v : Option Nat) : (setBarrier s m r v).fresh = s.fresh := rfl
@[simp] theorem setBarrier_fields (s : State) (m r : Nat) (v : Option Nat) : (setBarrier s m r v).fields = s.fields := rfl
@[simp] theorem setBarrier_mem (s : State) (m r : Nat) (v : Option Nat) : (setBarrier s m r v).mem = s.mem := rfl
@[simp] theorem setBarrier_plt (s : State) (m r : Nat) (v : Option Nat) : (setBarrier s m r v).plt = s.plt := rfl
@[simp] theorem setBarrier_pwr (s : State) (m r : Nat) (v : Option Nat) : (setBarrier s m r v).pwr = s.pwr := rfl
@[simp] theorem setBarrier_pcie (s : State) (m r : Nat) (v : Option Nat) : (setBarrier s m r v).pcie = s.pcie := rfl
@[simp] theorem setBarrier_stk (s : State) (m r : Nat) (v : Option Nat) : (setBarrier s m r v).stk = s.stk := rfl
@[simp] theorem setBarrier_fab (s : State) (m r : Nat) (v : Option Nat) : (setBarrier s m r v).fab = s.fab := rfl
@[simp] theorem setBarrier_ucode (s : State) (m r : Nat) (v : Option Nat) : (setBarrier s m r v).ucode = s.ucode := rfl
@[simp] theorem setBarrier_sch (s : State) (m r : Nat) (v : Option Nat) : (setBarrier s m r v).sch = s.sch := rfl
@[simp] theorem setBarrier_rqt (s : State) (m r : Nat) (v : Option Nat) : (setBarrier s m r v).rqt = s.rqt := rfl
@[simp] theorem setBarrier_pfx (s : State) (m r : Nat) (v : Option Nat) : (setBarrier s m r v).pfx = s.pfx := rfl
@[simp] theorem setBarrier_xfr (s : State) (m r : Nat) (v : Option Nat) : (setBarrier s m r v).xfr = s.xfr := rfl
@[simp] theorem setBarrier_cod (s : State) (m r : Nat) (v : Option Nat) : (setBarrier s m r v).cod = s.cod := rfl
@[simp] theorem setBarrier_coh (s : State) (m r : Nat) (v : Option Nat) : (setBarrier s m r v).coh = s.coh := rfl
@[simp] theorem setBarrier_tm (s : State) (m r : Nat) (v : Option Nat) : (setBarrier s m r v).tm = s.tm := rfl
@[simp] theorem setBarrier_fls (s : State) (m r : Nat) (v : Option Nat) : (setBarrier s m r v).fls = s.fls := rfl
@[simp] theorem setBarrier_twn (s : State) (m r : Nat) (v : Option Nat) : (setBarrier s m r v).twn = s.twn := rfl
@[simp] theorem setBarrier_mtr (s : State) (m r : Nat) (v : Option Nat) : (setBarrier s m r v).mtr = s.mtr := rfl
@[simp] theorem setBarrier_lane (s : State) (m r : Nat) (v : Option Nat) : (setBarrier s m r v).lane = s.lane := rfl
@[simp] theorem setBarrier_out (s : State) (m r : Nat) (v : Option Nat) : (setBarrier s m r v).out = s.out := rfl

/-! `dropBarriers` writes lnk. -/

@[simp] theorem dropBarriers_pending (s : State) (m : Nat) : (dropBarriers s m).pending = s.pending := rfl
@[simp] theorem dropBarriers_fresh (s : State) (m : Nat) : (dropBarriers s m).fresh = s.fresh := rfl
@[simp] theorem dropBarriers_fields (s : State) (m : Nat) : (dropBarriers s m).fields = s.fields := rfl
@[simp] theorem dropBarriers_mem (s : State) (m : Nat) : (dropBarriers s m).mem = s.mem := rfl
@[simp] theorem dropBarriers_plt (s : State) (m : Nat) : (dropBarriers s m).plt = s.plt := rfl
@[simp] theorem dropBarriers_pwr (s : State) (m : Nat) : (dropBarriers s m).pwr = s.pwr := rfl
@[simp] theorem dropBarriers_pcie (s : State) (m : Nat) : (dropBarriers s m).pcie = s.pcie := rfl
@[simp] theorem dropBarriers_stk (s : State) (m : Nat) : (dropBarriers s m).stk = s.stk := rfl
@[simp] theorem dropBarriers_fab (s : State) (m : Nat) : (dropBarriers s m).fab = s.fab := rfl
@[simp] theorem dropBarriers_ucode (s : State) (m : Nat) : (dropBarriers s m).ucode = s.ucode := rfl
@[simp] theorem dropBarriers_sch (s : State) (m : Nat) : (dropBarriers s m).sch = s.sch := rfl
@[simp] theorem dropBarriers_rqt (s : State) (m : Nat) : (dropBarriers s m).rqt = s.rqt := rfl
@[simp] theorem dropBarriers_pfx (s : State) (m : Nat) : (dropBarriers s m).pfx = s.pfx := rfl
@[simp] theorem dropBarriers_xfr (s : State) (m : Nat) : (dropBarriers s m).xfr = s.xfr := rfl
@[simp] theorem dropBarriers_cod (s : State) (m : Nat) : (dropBarriers s m).cod = s.cod := rfl
@[simp] theorem dropBarriers_coh (s : State) (m : Nat) : (dropBarriers s m).coh = s.coh := rfl
@[simp] theorem dropBarriers_tm (s : State) (m : Nat) : (dropBarriers s m).tm = s.tm := rfl
@[simp] theorem dropBarriers_fls (s : State) (m : Nat) : (dropBarriers s m).fls = s.fls := rfl
@[simp] theorem dropBarriers_twn (s : State) (m : Nat) : (dropBarriers s m).twn = s.twn := rfl
@[simp] theorem dropBarriers_mtr (s : State) (m : Nat) : (dropBarriers s m).mtr = s.mtr := rfl
@[simp] theorem dropBarriers_lane (s : State) (m : Nat) : (dropBarriers s m).lane = s.lane := rfl
@[simp] theorem dropBarriers_out (s : State) (m : Nat) : (dropBarriers s m).out = s.out := rfl

/-! `revokeSlot` writes plt. -/

@[simp] theorem revokeSlot_pending (s : State) (k : Nat) : (revokeSlot s k).pending = s.pending := rfl
@[simp] theorem revokeSlot_fresh (s : State) (k : Nat) : (revokeSlot s k).fresh = s.fresh := rfl
@[simp] theorem revokeSlot_fields (s : State) (k : Nat) : (revokeSlot s k).fields = s.fields := rfl
@[simp] theorem revokeSlot_mem (s : State) (k : Nat) : (revokeSlot s k).mem = s.mem := rfl
@[simp] theorem revokeSlot_pwr (s : State) (k : Nat) : (revokeSlot s k).pwr = s.pwr := rfl
@[simp] theorem revokeSlot_pcie (s : State) (k : Nat) : (revokeSlot s k).pcie = s.pcie := rfl
@[simp] theorem revokeSlot_stk (s : State) (k : Nat) : (revokeSlot s k).stk = s.stk := rfl
@[simp] theorem revokeSlot_fab (s : State) (k : Nat) : (revokeSlot s k).fab = s.fab := rfl
@[simp] theorem revokeSlot_ucode (s : State) (k : Nat) : (revokeSlot s k).ucode = s.ucode := rfl
@[simp] theorem revokeSlot_sch (s : State) (k : Nat) : (revokeSlot s k).sch = s.sch := rfl
@[simp] theorem revokeSlot_rqt (s : State) (k : Nat) : (revokeSlot s k).rqt = s.rqt := rfl
@[simp] theorem revokeSlot_pfx (s : State) (k : Nat) : (revokeSlot s k).pfx = s.pfx := rfl
@[simp] theorem revokeSlot_xfr (s : State) (k : Nat) : (revokeSlot s k).xfr = s.xfr := rfl
@[simp] theorem revokeSlot_cod (s : State) (k : Nat) : (revokeSlot s k).cod = s.cod := rfl
@[simp] theorem revokeSlot_lnk (s : State) (k : Nat) : (revokeSlot s k).lnk = s.lnk := rfl
@[simp] theorem revokeSlot_coh (s : State) (k : Nat) : (revokeSlot s k).coh = s.coh := rfl
@[simp] theorem revokeSlot_tm (s : State) (k : Nat) : (revokeSlot s k).tm = s.tm := rfl
@[simp] theorem revokeSlot_fls (s : State) (k : Nat) : (revokeSlot s k).fls = s.fls := rfl
@[simp] theorem revokeSlot_twn (s : State) (k : Nat) : (revokeSlot s k).twn = s.twn := rfl
@[simp] theorem revokeSlot_mtr (s : State) (k : Nat) : (revokeSlot s k).mtr = s.mtr := rfl
@[simp] theorem revokeSlot_lane (s : State) (k : Nat) : (revokeSlot s k).lane = s.lane := rfl
@[simp] theorem revokeSlot_out (s : State) (k : Nat) : (revokeSlot s k).out = s.out := rfl

/-! `flushDigests` writes fab. -/

@[simp] theorem flushDigests_pending (s : State) : (flushDigests s).pending = s.pending := rfl
@[simp] theorem flushDigests_fresh (s : State) : (flushDigests s).fresh = s.fresh := rfl
@[simp] theorem flushDigests_fields (s : State) : (flushDigests s).fields = s.fields := rfl
@[simp] theorem flushDigests_mem (s : State) : (flushDigests s).mem = s.mem := rfl
@[simp] theorem flushDigests_plt (s : State) : (flushDigests s).plt = s.plt := rfl
@[simp] theorem flushDigests_pwr (s : State) : (flushDigests s).pwr = s.pwr := rfl
@[simp] theorem flushDigests_pcie (s : State) : (flushDigests s).pcie = s.pcie := rfl
@[simp] theorem flushDigests_stk (s : State) : (flushDigests s).stk = s.stk := rfl
@[simp] theorem flushDigests_ucode (s : State) : (flushDigests s).ucode = s.ucode := rfl
@[simp] theorem flushDigests_sch (s : State) : (flushDigests s).sch = s.sch := rfl
@[simp] theorem flushDigests_rqt (s : State) : (flushDigests s).rqt = s.rqt := rfl
@[simp] theorem flushDigests_pfx (s : State) : (flushDigests s).pfx = s.pfx := rfl
@[simp] theorem flushDigests_xfr (s : State) : (flushDigests s).xfr = s.xfr := rfl
@[simp] theorem flushDigests_cod (s : State) : (flushDigests s).cod = s.cod := rfl
@[simp] theorem flushDigests_lnk (s : State) : (flushDigests s).lnk = s.lnk := rfl
@[simp] theorem flushDigests_coh (s : State) : (flushDigests s).coh = s.coh := rfl
@[simp] theorem flushDigests_tm (s : State) : (flushDigests s).tm = s.tm := rfl
@[simp] theorem flushDigests_fls (s : State) : (flushDigests s).fls = s.fls := rfl
@[simp] theorem flushDigests_twn (s : State) : (flushDigests s).twn = s.twn := rfl
@[simp] theorem flushDigests_mtr (s : State) : (flushDigests s).mtr = s.mtr := rfl
@[simp] theorem flushDigests_lane (s : State) : (flushDigests s).lane = s.lane := rfl
@[simp] theorem flushDigests_out (s : State) : (flushDigests s).out = s.out := rfl

/-! `setStep` writes sch. -/

@[simp] theorem setStep_pending (s : State) (k : Nat) (x : Option Step) : (setStep s k x).pending = s.pending := rfl
@[simp] theorem setStep_fresh (s : State) (k : Nat) (x : Option Step) : (setStep s k x).fresh = s.fresh := rfl
@[simp] theorem setStep_fields (s : State) (k : Nat) (x : Option Step) : (setStep s k x).fields = s.fields := rfl
@[simp] theorem setStep_mem (s : State) (k : Nat) (x : Option Step) : (setStep s k x).mem = s.mem := rfl
@[simp] theorem setStep_plt (s : State) (k : Nat) (x : Option Step) : (setStep s k x).plt = s.plt := rfl
@[simp] theorem setStep_pwr (s : State) (k : Nat) (x : Option Step) : (setStep s k x).pwr = s.pwr := rfl
@[simp] theorem setStep_pcie (s : State) (k : Nat) (x : Option Step) : (setStep s k x).pcie = s.pcie := rfl
@[simp] theorem setStep_stk (s : State) (k : Nat) (x : Option Step) : (setStep s k x).stk = s.stk := rfl
@[simp] theorem setStep_fab (s : State) (k : Nat) (x : Option Step) : (setStep s k x).fab = s.fab := rfl
@[simp] theorem setStep_ucode (s : State) (k : Nat) (x : Option Step) : (setStep s k x).ucode = s.ucode := rfl
@[simp] theorem setStep_rqt (s : State) (k : Nat) (x : Option Step) : (setStep s k x).rqt = s.rqt := rfl
@[simp] theorem setStep_pfx (s : State) (k : Nat) (x : Option Step) : (setStep s k x).pfx = s.pfx := rfl
@[simp] theorem setStep_xfr (s : State) (k : Nat) (x : Option Step) : (setStep s k x).xfr = s.xfr := rfl
@[simp] theorem setStep_cod (s : State) (k : Nat) (x : Option Step) : (setStep s k x).cod = s.cod := rfl
@[simp] theorem setStep_lnk (s : State) (k : Nat) (x : Option Step) : (setStep s k x).lnk = s.lnk := rfl
@[simp] theorem setStep_coh (s : State) (k : Nat) (x : Option Step) : (setStep s k x).coh = s.coh := rfl
@[simp] theorem setStep_tm (s : State) (k : Nat) (x : Option Step) : (setStep s k x).tm = s.tm := rfl
@[simp] theorem setStep_fls (s : State) (k : Nat) (x : Option Step) : (setStep s k x).fls = s.fls := rfl
@[simp] theorem setStep_twn (s : State) (k : Nat) (x : Option Step) : (setStep s k x).twn = s.twn := rfl
@[simp] theorem setStep_mtr (s : State) (k : Nat) (x : Option Step) : (setStep s k x).mtr = s.mtr := rfl
@[simp] theorem setStep_lane (s : State) (k : Nat) (x : Option Step) : (setStep s k x).lane = s.lane := rfl
@[simp] theorem setStep_out (s : State) (k : Nat) (x : Option Step) : (setStep s k x).out = s.out := rfl

/-! `dropPasses` writes ucode. -/

@[simp] theorem dropPasses_pending (s : State) (k : Nat) : (dropPasses s k).pending = s.pending := rfl
@[simp] theorem dropPasses_fresh (s : State) (k : Nat) : (dropPasses s k).fresh = s.fresh := rfl
@[simp] theorem dropPasses_fields (s : State) (k : Nat) : (dropPasses s k).fields = s.fields := rfl
@[simp] theorem dropPasses_mem (s : State) (k : Nat) : (dropPasses s k).mem = s.mem := rfl
@[simp] theorem dropPasses_plt (s : State) (k : Nat) : (dropPasses s k).plt = s.plt := rfl
@[simp] theorem dropPasses_pwr (s : State) (k : Nat) : (dropPasses s k).pwr = s.pwr := rfl
@[simp] theorem dropPasses_pcie (s : State) (k : Nat) : (dropPasses s k).pcie = s.pcie := rfl
@[simp] theorem dropPasses_stk (s : State) (k : Nat) : (dropPasses s k).stk = s.stk := rfl
@[simp] theorem dropPasses_fab (s : State) (k : Nat) : (dropPasses s k).fab = s.fab := rfl
@[simp] theorem dropPasses_sch (s : State) (k : Nat) : (dropPasses s k).sch = s.sch := rfl
@[simp] theorem dropPasses_rqt (s : State) (k : Nat) : (dropPasses s k).rqt = s.rqt := rfl
@[simp] theorem dropPasses_pfx (s : State) (k : Nat) : (dropPasses s k).pfx = s.pfx := rfl
@[simp] theorem dropPasses_xfr (s : State) (k : Nat) : (dropPasses s k).xfr = s.xfr := rfl
@[simp] theorem dropPasses_cod (s : State) (k : Nat) : (dropPasses s k).cod = s.cod := rfl
@[simp] theorem dropPasses_lnk (s : State) (k : Nat) : (dropPasses s k).lnk = s.lnk := rfl
@[simp] theorem dropPasses_coh (s : State) (k : Nat) : (dropPasses s k).coh = s.coh := rfl
@[simp] theorem dropPasses_tm (s : State) (k : Nat) : (dropPasses s k).tm = s.tm := rfl
@[simp] theorem dropPasses_fls (s : State) (k : Nat) : (dropPasses s k).fls = s.fls := rfl
@[simp] theorem dropPasses_twn (s : State) (k : Nat) : (dropPasses s k).twn = s.twn := rfl
@[simp] theorem dropPasses_mtr (s : State) (k : Nat) : (dropPasses s k).mtr = s.mtr := rfl
@[simp] theorem dropPasses_lane (s : State) (k : Nat) : (dropPasses s k).lane = s.lane := rfl
@[simp] theorem dropPasses_out (s : State) (k : Nat) : (dropPasses s k).out = s.out := rfl

/-! `dropResults` writes ucode. -/

@[simp] theorem dropResults_pending (s : State) (k : Nat) : (dropResults s k).pending = s.pending := rfl
@[simp] theorem dropResults_fresh (s : State) (k : Nat) : (dropResults s k).fresh = s.fresh := rfl
@[simp] theorem dropResults_fields (s : State) (k : Nat) : (dropResults s k).fields = s.fields := rfl
@[simp] theorem dropResults_mem (s : State) (k : Nat) : (dropResults s k).mem = s.mem := rfl
@[simp] theorem dropResults_plt (s : State) (k : Nat) : (dropResults s k).plt = s.plt := rfl
@[simp] theorem dropResults_pwr (s : State) (k : Nat) : (dropResults s k).pwr = s.pwr := rfl
@[simp] theorem dropResults_pcie (s : State) (k : Nat) : (dropResults s k).pcie = s.pcie := rfl
@[simp] theorem dropResults_stk (s : State) (k : Nat) : (dropResults s k).stk = s.stk := rfl
@[simp] theorem dropResults_fab (s : State) (k : Nat) : (dropResults s k).fab = s.fab := rfl
@[simp] theorem dropResults_sch (s : State) (k : Nat) : (dropResults s k).sch = s.sch := rfl
@[simp] theorem dropResults_rqt (s : State) (k : Nat) : (dropResults s k).rqt = s.rqt := rfl
@[simp] theorem dropResults_pfx (s : State) (k : Nat) : (dropResults s k).pfx = s.pfx := rfl
@[simp] theorem dropResults_xfr (s : State) (k : Nat) : (dropResults s k).xfr = s.xfr := rfl
@[simp] theorem dropResults_cod (s : State) (k : Nat) : (dropResults s k).cod = s.cod := rfl
@[simp] theorem dropResults_lnk (s : State) (k : Nat) : (dropResults s k).lnk = s.lnk := rfl
@[simp] theorem dropResults_coh (s : State) (k : Nat) : (dropResults s k).coh = s.coh := rfl
@[simp] theorem dropResults_tm (s : State) (k : Nat) : (dropResults s k).tm = s.tm := rfl
@[simp] theorem dropResults_fls (s : State) (k : Nat) : (dropResults s k).fls = s.fls := rfl
@[simp] theorem dropResults_twn (s : State) (k : Nat) : (dropResults s k).twn = s.twn := rfl
@[simp] theorem dropResults_mtr (s : State) (k : Nat) : (dropResults s k).mtr = s.mtr := rfl
@[simp] theorem dropResults_lane (s : State) (k : Nat) : (dropResults s k).lane = s.lane := rfl
@[simp] theorem dropResults_out (s : State) (k : Nat) : (dropResults s k).out = s.out := rfl

/-! `setSlot` writes ucode. -/

@[simp] theorem setSlot_pending (s : State) (j : Nat) (x : UcodeSlot) : (setSlot s j x).pending = s.pending := rfl
@[simp] theorem setSlot_fresh (s : State) (j : Nat) (x : UcodeSlot) : (setSlot s j x).fresh = s.fresh := rfl
@[simp] theorem setSlot_fields (s : State) (j : Nat) (x : UcodeSlot) : (setSlot s j x).fields = s.fields := rfl
@[simp] theorem setSlot_mem (s : State) (j : Nat) (x : UcodeSlot) : (setSlot s j x).mem = s.mem := rfl
@[simp] theorem setSlot_plt (s : State) (j : Nat) (x : UcodeSlot) : (setSlot s j x).plt = s.plt := rfl
@[simp] theorem setSlot_pwr (s : State) (j : Nat) (x : UcodeSlot) : (setSlot s j x).pwr = s.pwr := rfl
@[simp] theorem setSlot_pcie (s : State) (j : Nat) (x : UcodeSlot) : (setSlot s j x).pcie = s.pcie := rfl
@[simp] theorem setSlot_stk (s : State) (j : Nat) (x : UcodeSlot) : (setSlot s j x).stk = s.stk := rfl
@[simp] theorem setSlot_fab (s : State) (j : Nat) (x : UcodeSlot) : (setSlot s j x).fab = s.fab := rfl
@[simp] theorem setSlot_sch (s : State) (j : Nat) (x : UcodeSlot) : (setSlot s j x).sch = s.sch := rfl
@[simp] theorem setSlot_rqt (s : State) (j : Nat) (x : UcodeSlot) : (setSlot s j x).rqt = s.rqt := rfl
@[simp] theorem setSlot_pfx (s : State) (j : Nat) (x : UcodeSlot) : (setSlot s j x).pfx = s.pfx := rfl
@[simp] theorem setSlot_xfr (s : State) (j : Nat) (x : UcodeSlot) : (setSlot s j x).xfr = s.xfr := rfl
@[simp] theorem setSlot_cod (s : State) (j : Nat) (x : UcodeSlot) : (setSlot s j x).cod = s.cod := rfl
@[simp] theorem setSlot_lnk (s : State) (j : Nat) (x : UcodeSlot) : (setSlot s j x).lnk = s.lnk := rfl
@[simp] theorem setSlot_coh (s : State) (j : Nat) (x : UcodeSlot) : (setSlot s j x).coh = s.coh := rfl
@[simp] theorem setSlot_tm (s : State) (j : Nat) (x : UcodeSlot) : (setSlot s j x).tm = s.tm := rfl
@[simp] theorem setSlot_fls (s : State) (j : Nat) (x : UcodeSlot) : (setSlot s j x).fls = s.fls := rfl
@[simp] theorem setSlot_twn (s : State) (j : Nat) (x : UcodeSlot) : (setSlot s j x).twn = s.twn := rfl
@[simp] theorem setSlot_mtr (s : State) (j : Nat) (x : UcodeSlot) : (setSlot s j x).mtr = s.mtr := rfl
@[simp] theorem setSlot_lane (s : State) (j : Nat) (x : UcodeSlot) : (setSlot s j x).lane = s.lane := rfl
@[simp] theorem setSlot_out (s : State) (j : Nat) (x : UcodeSlot) : (setSlot s j x).out = s.out := rfl

/-! `meterAdvance` writes mtr. -/

@[simp] theorem meterAdvance_pending (s : State) (m : MeterStamp) : (meterAdvance s m).pending = s.pending := rfl
@[simp] theorem meterAdvance_fresh (s : State) (m : MeterStamp) : (meterAdvance s m).fresh = s.fresh := rfl
@[simp] theorem meterAdvance_fields (s : State) (m : MeterStamp) : (meterAdvance s m).fields = s.fields := rfl
@[simp] theorem meterAdvance_mem (s : State) (m : MeterStamp) : (meterAdvance s m).mem = s.mem := rfl
@[simp] theorem meterAdvance_plt (s : State) (m : MeterStamp) : (meterAdvance s m).plt = s.plt := rfl
@[simp] theorem meterAdvance_pwr (s : State) (m : MeterStamp) : (meterAdvance s m).pwr = s.pwr := rfl
@[simp] theorem meterAdvance_pcie (s : State) (m : MeterStamp) : (meterAdvance s m).pcie = s.pcie := rfl
@[simp] theorem meterAdvance_stk (s : State) (m : MeterStamp) : (meterAdvance s m).stk = s.stk := rfl
@[simp] theorem meterAdvance_fab (s : State) (m : MeterStamp) : (meterAdvance s m).fab = s.fab := rfl
@[simp] theorem meterAdvance_ucode (s : State) (m : MeterStamp) : (meterAdvance s m).ucode = s.ucode := rfl
@[simp] theorem meterAdvance_sch (s : State) (m : MeterStamp) : (meterAdvance s m).sch = s.sch := rfl
@[simp] theorem meterAdvance_rqt (s : State) (m : MeterStamp) : (meterAdvance s m).rqt = s.rqt := rfl
@[simp] theorem meterAdvance_pfx (s : State) (m : MeterStamp) : (meterAdvance s m).pfx = s.pfx := rfl
@[simp] theorem meterAdvance_xfr (s : State) (m : MeterStamp) : (meterAdvance s m).xfr = s.xfr := rfl
@[simp] theorem meterAdvance_cod (s : State) (m : MeterStamp) : (meterAdvance s m).cod = s.cod := rfl
@[simp] theorem meterAdvance_lnk (s : State) (m : MeterStamp) : (meterAdvance s m).lnk = s.lnk := rfl
@[simp] theorem meterAdvance_coh (s : State) (m : MeterStamp) : (meterAdvance s m).coh = s.coh := rfl
@[simp] theorem meterAdvance_tm (s : State) (m : MeterStamp) : (meterAdvance s m).tm = s.tm := rfl
@[simp] theorem meterAdvance_fls (s : State) (m : MeterStamp) : (meterAdvance s m).fls = s.fls := rfl
@[simp] theorem meterAdvance_twn (s : State) (m : MeterStamp) : (meterAdvance s m).twn = s.twn := rfl
@[simp] theorem meterAdvance_lane (s : State) (m : MeterStamp) : (meterAdvance s m).lane = s.lane := rfl
@[simp] theorem meterAdvance_out (s : State) (m : MeterStamp) : (meterAdvance s m).out = s.out := rfl

/-! `setMeterComp` writes mtr. -/

@[simp] theorem setMeterComp_pending (s : State) (c : Nat) (x : Option MeterComp) : (setMeterComp s c x).pending = s.pending := rfl
@[simp] theorem setMeterComp_fresh (s : State) (c : Nat) (x : Option MeterComp) : (setMeterComp s c x).fresh = s.fresh := rfl
@[simp] theorem setMeterComp_fields (s : State) (c : Nat) (x : Option MeterComp) : (setMeterComp s c x).fields = s.fields := rfl
@[simp] theorem setMeterComp_mem (s : State) (c : Nat) (x : Option MeterComp) : (setMeterComp s c x).mem = s.mem := rfl
@[simp] theorem setMeterComp_plt (s : State) (c : Nat) (x : Option MeterComp) : (setMeterComp s c x).plt = s.plt := rfl
@[simp] theorem setMeterComp_pwr (s : State) (c : Nat) (x : Option MeterComp) : (setMeterComp s c x).pwr = s.pwr := rfl
@[simp] theorem setMeterComp_pcie (s : State) (c : Nat) (x : Option MeterComp) : (setMeterComp s c x).pcie = s.pcie := rfl
@[simp] theorem setMeterComp_stk (s : State) (c : Nat) (x : Option MeterComp) : (setMeterComp s c x).stk = s.stk := rfl
@[simp] theorem setMeterComp_fab (s : State) (c : Nat) (x : Option MeterComp) : (setMeterComp s c x).fab = s.fab := rfl
@[simp] theorem setMeterComp_ucode (s : State) (c : Nat) (x : Option MeterComp) : (setMeterComp s c x).ucode = s.ucode := rfl
@[simp] theorem setMeterComp_sch (s : State) (c : Nat) (x : Option MeterComp) : (setMeterComp s c x).sch = s.sch := rfl
@[simp] theorem setMeterComp_rqt (s : State) (c : Nat) (x : Option MeterComp) : (setMeterComp s c x).rqt = s.rqt := rfl
@[simp] theorem setMeterComp_pfx (s : State) (c : Nat) (x : Option MeterComp) : (setMeterComp s c x).pfx = s.pfx := rfl
@[simp] theorem setMeterComp_xfr (s : State) (c : Nat) (x : Option MeterComp) : (setMeterComp s c x).xfr = s.xfr := rfl
@[simp] theorem setMeterComp_cod (s : State) (c : Nat) (x : Option MeterComp) : (setMeterComp s c x).cod = s.cod := rfl
@[simp] theorem setMeterComp_lnk (s : State) (c : Nat) (x : Option MeterComp) : (setMeterComp s c x).lnk = s.lnk := rfl
@[simp] theorem setMeterComp_coh (s : State) (c : Nat) (x : Option MeterComp) : (setMeterComp s c x).coh = s.coh := rfl
@[simp] theorem setMeterComp_tm (s : State) (c : Nat) (x : Option MeterComp) : (setMeterComp s c x).tm = s.tm := rfl
@[simp] theorem setMeterComp_fls (s : State) (c : Nat) (x : Option MeterComp) : (setMeterComp s c x).fls = s.fls := rfl
@[simp] theorem setMeterComp_twn (s : State) (c : Nat) (x : Option MeterComp) : (setMeterComp s c x).twn = s.twn := rfl
@[simp] theorem setMeterComp_lane (s : State) (c : Nat) (x : Option MeterComp) : (setMeterComp s c x).lane = s.lane := rfl
@[simp] theorem setMeterComp_out (s : State) (c : Nat) (x : Option MeterComp) : (setMeterComp s c x).out = s.out := rfl

/-! `keepFrame` writes mtr. -/

@[simp] theorem keepFrame_pending (s : State) (seq : Nat) : (keepFrame s seq).pending = s.pending := rfl
@[simp] theorem keepFrame_fresh (s : State) (seq : Nat) : (keepFrame s seq).fresh = s.fresh := rfl
@[simp] theorem keepFrame_fields (s : State) (seq : Nat) : (keepFrame s seq).fields = s.fields := rfl
@[simp] theorem keepFrame_mem (s : State) (seq : Nat) : (keepFrame s seq).mem = s.mem := rfl
@[simp] theorem keepFrame_plt (s : State) (seq : Nat) : (keepFrame s seq).plt = s.plt := rfl
@[simp] theorem keepFrame_pwr (s : State) (seq : Nat) : (keepFrame s seq).pwr = s.pwr := rfl
@[simp] theorem keepFrame_pcie (s : State) (seq : Nat) : (keepFrame s seq).pcie = s.pcie := rfl
@[simp] theorem keepFrame_stk (s : State) (seq : Nat) : (keepFrame s seq).stk = s.stk := rfl
@[simp] theorem keepFrame_fab (s : State) (seq : Nat) : (keepFrame s seq).fab = s.fab := rfl
@[simp] theorem keepFrame_ucode (s : State) (seq : Nat) : (keepFrame s seq).ucode = s.ucode := rfl
@[simp] theorem keepFrame_sch (s : State) (seq : Nat) : (keepFrame s seq).sch = s.sch := rfl
@[simp] theorem keepFrame_rqt (s : State) (seq : Nat) : (keepFrame s seq).rqt = s.rqt := rfl
@[simp] theorem keepFrame_pfx (s : State) (seq : Nat) : (keepFrame s seq).pfx = s.pfx := rfl
@[simp] theorem keepFrame_xfr (s : State) (seq : Nat) : (keepFrame s seq).xfr = s.xfr := rfl
@[simp] theorem keepFrame_cod (s : State) (seq : Nat) : (keepFrame s seq).cod = s.cod := rfl
@[simp] theorem keepFrame_lnk (s : State) (seq : Nat) : (keepFrame s seq).lnk = s.lnk := rfl
@[simp] theorem keepFrame_coh (s : State) (seq : Nat) : (keepFrame s seq).coh = s.coh := rfl
@[simp] theorem keepFrame_tm (s : State) (seq : Nat) : (keepFrame s seq).tm = s.tm := rfl
@[simp] theorem keepFrame_fls (s : State) (seq : Nat) : (keepFrame s seq).fls = s.fls := rfl
@[simp] theorem keepFrame_twn (s : State) (seq : Nat) : (keepFrame s seq).twn = s.twn := rfl
@[simp] theorem keepFrame_lane (s : State) (seq : Nat) : (keepFrame s seq).lane = s.lane := rfl
@[simp] theorem keepFrame_out (s : State) (seq : Nat) : (keepFrame s seq).out = s.out := rfl

/-! `dropShares` writes sch. -/

@[simp] theorem dropShares_pending (s : State) (c : Nat) : (dropShares s c).pending = s.pending := rfl
@[simp] theorem dropShares_fresh (s : State) (c : Nat) : (dropShares s c).fresh = s.fresh := rfl
@[simp] theorem dropShares_fields (s : State) (c : Nat) : (dropShares s c).fields = s.fields := rfl
@[simp] theorem dropShares_mem (s : State) (c : Nat) : (dropShares s c).mem = s.mem := rfl
@[simp] theorem dropShares_plt (s : State) (c : Nat) : (dropShares s c).plt = s.plt := rfl
@[simp] theorem dropShares_pwr (s : State) (c : Nat) : (dropShares s c).pwr = s.pwr := rfl
@[simp] theorem dropShares_pcie (s : State) (c : Nat) : (dropShares s c).pcie = s.pcie := rfl
@[simp] theorem dropShares_stk (s : State) (c : Nat) : (dropShares s c).stk = s.stk := rfl
@[simp] theorem dropShares_fab (s : State) (c : Nat) : (dropShares s c).fab = s.fab := rfl
@[simp] theorem dropShares_ucode (s : State) (c : Nat) : (dropShares s c).ucode = s.ucode := rfl
@[simp] theorem dropShares_rqt (s : State) (c : Nat) : (dropShares s c).rqt = s.rqt := rfl
@[simp] theorem dropShares_pfx (s : State) (c : Nat) : (dropShares s c).pfx = s.pfx := rfl
@[simp] theorem dropShares_xfr (s : State) (c : Nat) : (dropShares s c).xfr = s.xfr := rfl
@[simp] theorem dropShares_cod (s : State) (c : Nat) : (dropShares s c).cod = s.cod := rfl
@[simp] theorem dropShares_lnk (s : State) (c : Nat) : (dropShares s c).lnk = s.lnk := rfl
@[simp] theorem dropShares_coh (s : State) (c : Nat) : (dropShares s c).coh = s.coh := rfl
@[simp] theorem dropShares_tm (s : State) (c : Nat) : (dropShares s c).tm = s.tm := rfl
@[simp] theorem dropShares_fls (s : State) (c : Nat) : (dropShares s c).fls = s.fls := rfl
@[simp] theorem dropShares_twn (s : State) (c : Nat) : (dropShares s c).twn = s.twn := rfl
@[simp] theorem dropShares_mtr (s : State) (c : Nat) : (dropShares s c).mtr = s.mtr := rfl
@[simp] theorem dropShares_lane (s : State) (c : Nat) : (dropShares s c).lane = s.lane := rfl
@[simp] theorem dropShares_out (s : State) (c : Nat) : (dropShares s c).out = s.out := rfl

/-! `putShare` writes sch. -/

@[simp] theorem putShare_pending (s : State) (c t : Nat) (x : Option Share) : (putShare s c t x).pending = s.pending := rfl
@[simp] theorem putShare_fresh (s : State) (c t : Nat) (x : Option Share) : (putShare s c t x).fresh = s.fresh := rfl
@[simp] theorem putShare_fields (s : State) (c t : Nat) (x : Option Share) : (putShare s c t x).fields = s.fields := rfl
@[simp] theorem putShare_mem (s : State) (c t : Nat) (x : Option Share) : (putShare s c t x).mem = s.mem := rfl
@[simp] theorem putShare_plt (s : State) (c t : Nat) (x : Option Share) : (putShare s c t x).plt = s.plt := rfl
@[simp] theorem putShare_pwr (s : State) (c t : Nat) (x : Option Share) : (putShare s c t x).pwr = s.pwr := rfl
@[simp] theorem putShare_pcie (s : State) (c t : Nat) (x : Option Share) : (putShare s c t x).pcie = s.pcie := rfl
@[simp] theorem putShare_stk (s : State) (c t : Nat) (x : Option Share) : (putShare s c t x).stk = s.stk := rfl
@[simp] theorem putShare_fab (s : State) (c t : Nat) (x : Option Share) : (putShare s c t x).fab = s.fab := rfl
@[simp] theorem putShare_ucode (s : State) (c t : Nat) (x : Option Share) : (putShare s c t x).ucode = s.ucode := rfl
@[simp] theorem putShare_rqt (s : State) (c t : Nat) (x : Option Share) : (putShare s c t x).rqt = s.rqt := rfl
@[simp] theorem putShare_pfx (s : State) (c t : Nat) (x : Option Share) : (putShare s c t x).pfx = s.pfx := rfl
@[simp] theorem putShare_xfr (s : State) (c t : Nat) (x : Option Share) : (putShare s c t x).xfr = s.xfr := rfl
@[simp] theorem putShare_cod (s : State) (c t : Nat) (x : Option Share) : (putShare s c t x).cod = s.cod := rfl
@[simp] theorem putShare_lnk (s : State) (c t : Nat) (x : Option Share) : (putShare s c t x).lnk = s.lnk := rfl
@[simp] theorem putShare_coh (s : State) (c t : Nat) (x : Option Share) : (putShare s c t x).coh = s.coh := rfl
@[simp] theorem putShare_tm (s : State) (c t : Nat) (x : Option Share) : (putShare s c t x).tm = s.tm := rfl
@[simp] theorem putShare_fls (s : State) (c t : Nat) (x : Option Share) : (putShare s c t x).fls = s.fls := rfl
@[simp] theorem putShare_twn (s : State) (c t : Nat) (x : Option Share) : (putShare s c t x).twn = s.twn := rfl
@[simp] theorem putShare_mtr (s : State) (c t : Nat) (x : Option Share) : (putShare s c t x).mtr = s.mtr := rfl
@[simp] theorem putShare_lane (s : State) (c t : Nat) (x : Option Share) : (putShare s c t x).lane = s.lane := rfl
@[simp] theorem putShare_out (s : State) (c t : Nat) (x : Option Share) : (putShare s c t x).out = s.out := rfl

/-! `keepTree` writes rqt. -/

@[simp] theorem keepTree_pending (s : State) (i : Nat) (draft : List CandNode) : (keepTree s i draft).pending = s.pending := rfl
@[simp] theorem keepTree_fresh (s : State) (i : Nat) (draft : List CandNode) : (keepTree s i draft).fresh = s.fresh := rfl
@[simp] theorem keepTree_fields (s : State) (i : Nat) (draft : List CandNode) : (keepTree s i draft).fields = s.fields := rfl
@[simp] theorem keepTree_mem (s : State) (i : Nat) (draft : List CandNode) : (keepTree s i draft).mem = s.mem := rfl
@[simp] theorem keepTree_plt (s : State) (i : Nat) (draft : List CandNode) : (keepTree s i draft).plt = s.plt := rfl
@[simp] theorem keepTree_pwr (s : State) (i : Nat) (draft : List CandNode) : (keepTree s i draft).pwr = s.pwr := rfl
@[simp] theorem keepTree_pcie (s : State) (i : Nat) (draft : List CandNode) : (keepTree s i draft).pcie = s.pcie := rfl
@[simp] theorem keepTree_stk (s : State) (i : Nat) (draft : List CandNode) : (keepTree s i draft).stk = s.stk := rfl
@[simp] theorem keepTree_fab (s : State) (i : Nat) (draft : List CandNode) : (keepTree s i draft).fab = s.fab := rfl
@[simp] theorem keepTree_ucode (s : State) (i : Nat) (draft : List CandNode) : (keepTree s i draft).ucode = s.ucode := rfl
@[simp] theorem keepTree_sch (s : State) (i : Nat) (draft : List CandNode) : (keepTree s i draft).sch = s.sch := rfl
@[simp] theorem keepTree_pfx (s : State) (i : Nat) (draft : List CandNode) : (keepTree s i draft).pfx = s.pfx := rfl
@[simp] theorem keepTree_xfr (s : State) (i : Nat) (draft : List CandNode) : (keepTree s i draft).xfr = s.xfr := rfl
@[simp] theorem keepTree_cod (s : State) (i : Nat) (draft : List CandNode) : (keepTree s i draft).cod = s.cod := rfl
@[simp] theorem keepTree_lnk (s : State) (i : Nat) (draft : List CandNode) : (keepTree s i draft).lnk = s.lnk := rfl
@[simp] theorem keepTree_coh (s : State) (i : Nat) (draft : List CandNode) : (keepTree s i draft).coh = s.coh := rfl
@[simp] theorem keepTree_tm (s : State) (i : Nat) (draft : List CandNode) : (keepTree s i draft).tm = s.tm := rfl
@[simp] theorem keepTree_fls (s : State) (i : Nat) (draft : List CandNode) : (keepTree s i draft).fls = s.fls := rfl
@[simp] theorem keepTree_twn (s : State) (i : Nat) (draft : List CandNode) : (keepTree s i draft).twn = s.twn := rfl
@[simp] theorem keepTree_mtr (s : State) (i : Nat) (draft : List CandNode) : (keepTree s i draft).mtr = s.mtr := rfl
@[simp] theorem keepTree_lane (s : State) (i : Nat) (draft : List CandNode) : (keepTree s i draft).lane = s.lane := rfl
@[simp] theorem keepTree_out (s : State) (i : Nat) (draft : List CandNode) : (keepTree s i draft).out = s.out := rfl

/-! `discardCopies` writes pfx, rqt, stk, twn, xfr. -/

@[simp] theorem discardCopies_pending (s : State) : (discardCopies s).pending = s.pending := rfl
@[simp] theorem discardCopies_fresh (s : State) : (discardCopies s).fresh = s.fresh := rfl
@[simp] theorem discardCopies_fields (s : State) : (discardCopies s).fields = s.fields := rfl
@[simp] theorem discardCopies_mem (s : State) : (discardCopies s).mem = s.mem := rfl
@[simp] theorem discardCopies_plt (s : State) : (discardCopies s).plt = s.plt := rfl
@[simp] theorem discardCopies_pwr (s : State) : (discardCopies s).pwr = s.pwr := rfl
@[simp] theorem discardCopies_pcie (s : State) : (discardCopies s).pcie = s.pcie := rfl
@[simp] theorem discardCopies_fab (s : State) : (discardCopies s).fab = s.fab := rfl
@[simp] theorem discardCopies_ucode (s : State) : (discardCopies s).ucode = s.ucode := rfl
@[simp] theorem discardCopies_sch (s : State) : (discardCopies s).sch = s.sch := rfl
@[simp] theorem discardCopies_cod (s : State) : (discardCopies s).cod = s.cod := rfl
@[simp] theorem discardCopies_lnk (s : State) : (discardCopies s).lnk = s.lnk := rfl
@[simp] theorem discardCopies_coh (s : State) : (discardCopies s).coh = s.coh := rfl
@[simp] theorem discardCopies_tm (s : State) : (discardCopies s).tm = s.tm := rfl
@[simp] theorem discardCopies_fls (s : State) : (discardCopies s).fls = s.fls := rfl
@[simp] theorem discardCopies_mtr (s : State) : (discardCopies s).mtr = s.mtr := rfl
@[simp] theorem discardCopies_lane (s : State) : (discardCopies s).lane = s.lane := rfl
@[simp] theorem discardCopies_out (s : State) : (discardCopies s).out = s.out := rfl

/-! `burnSlot` writes plt. -/

@[simp] theorem burnSlot_pending (s : State) (k : Nat) (bs : List Byte) : (burnSlot s k bs).pending = s.pending := rfl
@[simp] theorem burnSlot_fresh (s : State) (k : Nat) (bs : List Byte) : (burnSlot s k bs).fresh = s.fresh := rfl
@[simp] theorem burnSlot_fields (s : State) (k : Nat) (bs : List Byte) : (burnSlot s k bs).fields = s.fields := rfl
@[simp] theorem burnSlot_mem (s : State) (k : Nat) (bs : List Byte) : (burnSlot s k bs).mem = s.mem := rfl
@[simp] theorem burnSlot_pwr (s : State) (k : Nat) (bs : List Byte) : (burnSlot s k bs).pwr = s.pwr := rfl
@[simp] theorem burnSlot_pcie (s : State) (k : Nat) (bs : List Byte) : (burnSlot s k bs).pcie = s.pcie := rfl
@[simp] theorem burnSlot_stk (s : State) (k : Nat) (bs : List Byte) : (burnSlot s k bs).stk = s.stk := rfl
@[simp] theorem burnSlot_fab (s : State) (k : Nat) (bs : List Byte) : (burnSlot s k bs).fab = s.fab := rfl
@[simp] theorem burnSlot_ucode (s : State) (k : Nat) (bs : List Byte) : (burnSlot s k bs).ucode = s.ucode := rfl
@[simp] theorem burnSlot_sch (s : State) (k : Nat) (bs : List Byte) : (burnSlot s k bs).sch = s.sch := rfl
@[simp] theorem burnSlot_rqt (s : State) (k : Nat) (bs : List Byte) : (burnSlot s k bs).rqt = s.rqt := rfl
@[simp] theorem burnSlot_pfx (s : State) (k : Nat) (bs : List Byte) : (burnSlot s k bs).pfx = s.pfx := rfl
@[simp] theorem burnSlot_xfr (s : State) (k : Nat) (bs : List Byte) : (burnSlot s k bs).xfr = s.xfr := rfl
@[simp] theorem burnSlot_cod (s : State) (k : Nat) (bs : List Byte) : (burnSlot s k bs).cod = s.cod := rfl
@[simp] theorem burnSlot_lnk (s : State) (k : Nat) (bs : List Byte) : (burnSlot s k bs).lnk = s.lnk := rfl
@[simp] theorem burnSlot_coh (s : State) (k : Nat) (bs : List Byte) : (burnSlot s k bs).coh = s.coh := rfl
@[simp] theorem burnSlot_tm (s : State) (k : Nat) (bs : List Byte) : (burnSlot s k bs).tm = s.tm := rfl
@[simp] theorem burnSlot_fls (s : State) (k : Nat) (bs : List Byte) : (burnSlot s k bs).fls = s.fls := rfl
@[simp] theorem burnSlot_twn (s : State) (k : Nat) (bs : List Byte) : (burnSlot s k bs).twn = s.twn := rfl
@[simp] theorem burnSlot_mtr (s : State) (k : Nat) (bs : List Byte) : (burnSlot s k bs).mtr = s.mtr := rfl
@[simp] theorem burnSlot_lane (s : State) (k : Nat) (bs : List Byte) : (burnSlot s k bs).lane = s.lane := rfl
@[simp] theorem burnSlot_out (s : State) (k : Nat) (bs : List Byte) : (burnSlot s k bs).out = s.out := rfl

/-! `waitHost` writes pcie. -/

@[simp] theorem waitHost_pending (s : State) (c : Instr) : (waitHost s c).pending = s.pending := rfl
@[simp] theorem waitHost_fresh (s : State) (c : Instr) : (waitHost s c).fresh = s.fresh := rfl
@[simp] theorem waitHost_fields (s : State) (c : Instr) : (waitHost s c).fields = s.fields := rfl
@[simp] theorem waitHost_mem (s : State) (c : Instr) : (waitHost s c).mem = s.mem := rfl
@[simp] theorem waitHost_plt (s : State) (c : Instr) : (waitHost s c).plt = s.plt := rfl
@[simp] theorem waitHost_pwr (s : State) (c : Instr) : (waitHost s c).pwr = s.pwr := rfl
@[simp] theorem waitHost_stk (s : State) (c : Instr) : (waitHost s c).stk = s.stk := rfl
@[simp] theorem waitHost_fab (s : State) (c : Instr) : (waitHost s c).fab = s.fab := rfl
@[simp] theorem waitHost_ucode (s : State) (c : Instr) : (waitHost s c).ucode = s.ucode := rfl
@[simp] theorem waitHost_sch (s : State) (c : Instr) : (waitHost s c).sch = s.sch := rfl
@[simp] theorem waitHost_rqt (s : State) (c : Instr) : (waitHost s c).rqt = s.rqt := rfl
@[simp] theorem waitHost_pfx (s : State) (c : Instr) : (waitHost s c).pfx = s.pfx := rfl
@[simp] theorem waitHost_xfr (s : State) (c : Instr) : (waitHost s c).xfr = s.xfr := rfl
@[simp] theorem waitHost_cod (s : State) (c : Instr) : (waitHost s c).cod = s.cod := rfl
@[simp] theorem waitHost_lnk (s : State) (c : Instr) : (waitHost s c).lnk = s.lnk := rfl
@[simp] theorem waitHost_coh (s : State) (c : Instr) : (waitHost s c).coh = s.coh := rfl
@[simp] theorem waitHost_tm (s : State) (c : Instr) : (waitHost s c).tm = s.tm := rfl
@[simp] theorem waitHost_fls (s : State) (c : Instr) : (waitHost s c).fls = s.fls := rfl
@[simp] theorem waitHost_twn (s : State) (c : Instr) : (waitHost s c).twn = s.twn := rfl
@[simp] theorem waitHost_mtr (s : State) (c : Instr) : (waitHost s c).mtr = s.mtr := rfl
@[simp] theorem waitHost_lane (s : State) (c : Instr) : (waitHost s c).lane = s.lane := rfl
@[simp] theorem waitHost_out (s : State) (c : Instr) : (waitHost s c).out = s.out := rfl

/-! `writeTable` writes pcie. -/

@[simp] theorem writeTable_pending (s : State) (n v : Nat) : (writeTable s n v).pending = s.pending := rfl
@[simp] theorem writeTable_fresh (s : State) (n v : Nat) : (writeTable s n v).fresh = s.fresh := rfl
@[simp] theorem writeTable_fields (s : State) (n v : Nat) : (writeTable s n v).fields = s.fields := rfl
@[simp] theorem writeTable_mem (s : State) (n v : Nat) : (writeTable s n v).mem = s.mem := rfl
@[simp] theorem writeTable_plt (s : State) (n v : Nat) : (writeTable s n v).plt = s.plt := rfl
@[simp] theorem writeTable_pwr (s : State) (n v : Nat) : (writeTable s n v).pwr = s.pwr := rfl
@[simp] theorem writeTable_stk (s : State) (n v : Nat) : (writeTable s n v).stk = s.stk := rfl
@[simp] theorem writeTable_fab (s : State) (n v : Nat) : (writeTable s n v).fab = s.fab := rfl
@[simp] theorem writeTable_ucode (s : State) (n v : Nat) : (writeTable s n v).ucode = s.ucode := rfl
@[simp] theorem writeTable_sch (s : State) (n v : Nat) : (writeTable s n v).sch = s.sch := rfl
@[simp] theorem writeTable_rqt (s : State) (n v : Nat) : (writeTable s n v).rqt = s.rqt := rfl
@[simp] theorem writeTable_pfx (s : State) (n v : Nat) : (writeTable s n v).pfx = s.pfx := rfl
@[simp] theorem writeTable_xfr (s : State) (n v : Nat) : (writeTable s n v).xfr = s.xfr := rfl
@[simp] theorem writeTable_cod (s : State) (n v : Nat) : (writeTable s n v).cod = s.cod := rfl
@[simp] theorem writeTable_lnk (s : State) (n v : Nat) : (writeTable s n v).lnk = s.lnk := rfl
@[simp] theorem writeTable_coh (s : State) (n v : Nat) : (writeTable s n v).coh = s.coh := rfl
@[simp] theorem writeTable_tm (s : State) (n v : Nat) : (writeTable s n v).tm = s.tm := rfl
@[simp] theorem writeTable_fls (s : State) (n v : Nat) : (writeTable s n v).fls = s.fls := rfl
@[simp] theorem writeTable_twn (s : State) (n v : Nat) : (writeTable s n v).twn = s.twn := rfl
@[simp] theorem writeTable_mtr (s : State) (n v : Nat) : (writeTable s n v).mtr = s.mtr := rfl
@[simp] theorem writeTable_lane (s : State) (n v : Nat) : (writeTable s n v).lane = s.lane := rfl
@[simp] theorem writeTable_out (s : State) (n v : Nat) : (writeTable s n v).out = s.out := rfl

end Sys2Proof.Machine
end

