-- ==== Sys2Proof/Tests/Slice0.lean ====
section
/-! SUPPORT. The tests: an ill-formed command for each check of WellFormed, and for each statement with hypotheses states and operands that
meet them (its witness). The states are built from `ready`; each witness is one closed fact that `decide` finds. -/

namespace Sys2Proof.Tests
open Sys2Proof Sys2Proof.Machine

-- One proof at a time: each of these waits for the kernel, and all of them at once would hold a thread each.
set_option Elab.async false

/-- Fields laid over a state. -/
def setF (s : State) (l : List (Field × Nat)) : State := l.foldl (fun s p => putF s p.1 p.2) s

/-- Little-endian fields (offset, size, value) over `n` zero bytes. -/
def bytes (n : Nat) (l : List (Nat × Nat × Nat)) : List Byte :=
  l.foldl (fun b f => b.take f.1 ++ leBytes f.2.1 f.2.2 ++ b.drop (f.1 + f.2.1)) (List.replicate n 0)

/-- The part in READY. -/
def ready : State := { State.reset with plt := { State.reset.plt with state := .ready, starting := none } }

/-- READY, enrolled as member 2 of a tray, at chain address 5. -/
def chained : State :=
  { ready with plt := { ready.plt with chainAddr := 5 }, lnk := { ready.lnk with enrolled := true, member := 2, trayId := 9 } }

/-- A good chain frame for address 5. -/
def toFive : ChainHead := { dest := 5, source := 0, seq := 7, crcOk := true }

def inState (s : State) (p : PwrState) : State := { s with pwr := { s.pwr with state := p } }
def atLmc (s : State) (n : Nat) : State := { s with plt := { s.plt with lmc := n } }
def withTwin (s : State) (t : Twin) : State := { s with twn := t }
def withRegion (s : State) (n : Nat) (r : Region) : State := { s with fab := { s.fab with regions := tabPut {} s.fab.regions n r } }
def departs (s : State) (a : AfterDeparture) : State := { s with plt := { s.plt with departing := some a } }
def starts (s : State) (k : ResetKind) : State := { s with plt := { s.plt with starting := some k } }

/-! ## Well-formed commands -/

def goodDescriptor : AdmitDescriptor := { bytes := List.replicate 128 0 }
def hostCmd (op : Nat) : HostCommand := { bytes := bytes 64 [(0, 1, op)] }
def objCmd (op : Nat) : ObjCommand := { bytes := bytes 64 [(0, 1, op)] }
def head : RstHeader :=
  { source := 5, dest := 6, connection := 0, seq := 0, ack := 0, window := 10, ackOnly := false, syn := false, reset := false,
    last := true, takeover := false, append := false, status := .ok, epoch := 1, requestId := 0, xfer := 0, chunk := 0, port := 0,
    bytes := 100, dscp := 0, gcmOk := true }
def block : CodedBlock := { stageASize := 4, wireSize := 2, slot := 0, raw := true, format := 0, tableTag := 0, body := [1, 2] }
def frame : FrameHeader :=
  { port := 0, source := 1, dest := 0, tenant := 0, tag := { generation := 0, region := 0, slot := 0 }, size := 8, address := 0,
    poisoned := false }
def feed : FeedHead := { seq := 5, crcOk := true, declared := true }
def body (c : CompNo) : CompositionBody :=
  { composition := c, role := 1, regionCount := 2, stackCount := 3, kvGranules := 9, slateGib := 1, umberGib := 2, package := false,
    twinRole := 0, member := 0 }
def stamp : MeterStamp := { periods := 3, millijoules := 4 }

/-- Host commands: the length of the command and of the descriptor, the opcode of the row, and the count of tokens. -/
theorem test_wf_host_commands :
    Instr.wf (.hostAdmit 0 (hostCmd 1) (some []) (some goodDescriptor)) = true ∧
    Instr.wf (.hostAdmit 0 (hostCmd 2) (some []) (some goodDescriptor)) = false ∧
    Instr.wf (.hostAdmit 0 (hostCmd 1) (some [3]) (some goodDescriptor)) = false ∧
    Instr.wf (.hostAdmit 0 (hostCmd 1) (some []) (some { bytes := [] })) = false ∧
    Instr.wf (.append 0 (hostCmd 2) (some [2 ^ 32])) = false ∧ Instr.wf (.truncate 0 { bytes := [3] }) = false ∧
    Instr.wf (.cancel 0 (hostCmd 3)) = false ∧ Instr.wf (.park 0 (hostCmd 6)) = false ∧ Instr.wf (.resume 0 (hostCmd 5)) = false ∧
    Instr.wf (.query 0 (hostCmd 8)) = false ∧ Instr.wf (.release 0 (hostCmd 7)) = false ∧ Instr.wf (.release 0 (hostCmd 9)) = true := by
  decide +kernel

/-- Object commands, handles, reads and images. -/
theorem test_wf_objects :
    Instr.wf (.allocate (objCmd 1)) = true ∧ Instr.wf (.publish (objCmd 1)) = false ∧ Instr.wf (.seal { bytes := [] }) = false ∧
    Instr.wf (.move (objCmd 5)) = false ∧ Instr.wf (.unpublish (objCmd 4)) = false ∧ Instr.wf (.free (objCmd 7)) = false ∧
    Instr.wf (.pin (objCmd 8)) = false ∧ Instr.wf (.unpin (objCmd 7)) = false ∧ Instr.wf (.adopt (objCmd 8)) = false ∧
    Instr.wf (.copyComplete (2 ^ 32) true .whole {}) = false ∧ Instr.wf (.copyComplete 1 true (.errorAt (2 ^ 64)) {}) = false ∧
    Instr.wf (.objectReclaim (2 ^ 20) {}) = false ∧ Instr.wf (.load 0 (some (2 ^ 32))) = false ∧ Instr.wf (.fabPkgLoad (2 ^ 32)) = false ∧
    Instr.wf (.stage (2 ^ 32) .whole) = false ∧ Instr.wf (.keylistLoad 1 (.errorAt (2 ^ 64))) = false ∧
    Instr.wf (.imageReadComplete 0 (.errorAt (2 ^ 64))) = false ∧ Instr.wf (.clusterFault 0 16 .cluster) = false := by
  decide +kernel

/-- Work, keys, compositions, registers and memory. -/
theorem test_wf_engine :
    Instr.wf (.unitDispatch 0 1024 none []) = false ∧ Instr.wf (.unitDispatch 0 0 none [(0, [])]) = false ∧
    Instr.wf (.stepCommit 65536 [] []) = false ∧ Instr.wf (.stepCommit 0 [] [{ token := 2 ^ 32, parent := 0, q := 0 }]) = false ∧
    Instr.wf (.domainLoad 0 65536 0) = false ∧ Instr.wf (.tableLoad 0 256) = false ∧ Instr.wf (.bind 0 .none) = false ∧
    Instr.wf (.set 0 0 65536) = false ∧ Instr.wf (.attest (2 ^ 64)) = false ∧ Instr.wf (.mtrSelect (2 ^ 64)) = false ∧
    Instr.wf (.registerWrite (2 ^ 26) 8 0) = false ∧ Instr.wf (.registerWrite 0 2 0) = false ∧
    Instr.wf (.registerWrite 0 4 (BitVec.ofNat 64 (2 ^ 32))) = false ∧ Instr.wf (.sqTail 0 65536) = false ∧
    Instr.wf (.trHead 0 (2 ^ 20)) = false ∧ Instr.wf (.stkObjSqTail 65536) = false ∧ Instr.wf (.bar4Write 0 []) = false ∧
    Instr.wf (.bar4Read 0 0) = false ∧ Instr.wf (.writeFull 0 0 []) = false ∧
    Instr.wf (.invalidatingWrite 0 127 [1, 2]) = false ∧ Instr.wf (.upgrade 0 0 (some (128, [1]))) = false := by
  decide +kernel

/-- Messages, frames and blocks. -/
theorem test_wf_links :
    Instr.wf (.rstOpened { head with source := 2 ^ 128 }) = false ∧ Instr.wf (.grant { head with xfer := 2048 }) = false ∧
    Instr.wf (.rstOpen head .m { ({} : Entry) with length := 2 ^ 32 } 0 0 0) = false ∧
    Instr.wf (.logAppend head 0 {} [{ input := true, token := 2 ^ 31 }]) = false ∧ Instr.wf (.logAck head (2 ^ 32)) = false ∧
    Instr.wf (.publishBlock head 0 (.coded { block with body := [] })) = false ∧
    Instr.wf (.publishBlock head 0 (.native (List.replicate 8193 0))) = false ∧ Instr.wf (.pubRef head 0 0 (2 ^ 128) []) = false ∧
    Instr.wf (.pubAck head (2 ^ 32)) = false ∧ Instr.wf (.pubNeed head (2 ^ 32)) = false ∧
    Instr.wf (.offer head (2 ^ 64) {} 0 0 []) = false ∧ Instr.wf (.pull head 0 65536 0) = false ∧
    Instr.wf (.pageData head (2 ^ 32) 0 0 (.native [])) = false ∧ Instr.wf (.claim head (2 ^ 128) 0) = false ∧
    Instr.wf (.deny head (2 ^ 128)) = false ∧ Instr.wf (.objRead head (2 ^ 32) 0) = false ∧
    Instr.wf (.objData head (2 ^ 32) 0 (.native [])) = false ∧ Instr.wf (.pfxQuery head 65536 0 0 0 []) = false ∧
    Instr.wf (.pfxAnswer head 0 [2 ^ 32]) = false ∧ Instr.wf (.rstRetransmit (2 ^ 128) 0) = false ∧
    Instr.wf (.memReqLoad { frame with size := 3 }) = false ∧ Instr.wf (.memReqStore frame []) = false ∧
    Instr.wf (.memReqAdd frame (2 ^ 64)) = false ∧ Instr.wf (.memReqCas frame 0 (2 ^ 64)) = false ∧
    Instr.wf (.memRsp { frame with address := 2 ^ 48 } .ok []) = false ∧ Instr.wf (.tensor frame (2 ^ 32) 0 block) = false ∧
    Instr.wf (.tensorAck frame (2 ^ 32) .ok) = false ∧ Instr.wf (.hello 0 (2 ^ 32) 0 0) = false ∧
    Instr.wf (.frameForward 12 0 0 0 none) = false := by
  decide +kernel

/-- The feed, the chain and the supplies. -/
theorem test_wf_meter_and_chain :
    Instr.wf (.feedBind stamp { feed with seq := 2 ^ 32 } (body 0)) = false ∧
    Instr.wf (.feedUnbind stamp feed { body 0 with role := 256 }) = false ∧
    Instr.wf (.feedSeal stamp feed (List.replicate 47 0)) = false ∧ Instr.wf (.feedPower stamp feed 256 0 0) = false ∧
    Instr.wf (.feedKeepalive stamp { feed with seq := 2 ^ 32 }) = false ∧ Instr.wf (.enum toFive 64) = false ∧
    Instr.wf (.getId { toFive with dest := 64 }) = false ∧ Instr.wf (.setMember toFive (2 ^ 32) 0 0 true) = false ∧
    Instr.wf (.announce toFive []) = false ∧ Instr.wf (.chainReset toFive 256) = false ∧ Instr.wf (.fenced toFive 256 0) = false ∧
    Instr.wf (.chainForward toFive (List.replicate 75 0)) = false ∧ Instr.wf (.vin56Low 50000) = false ∧
    Instr.wf (.vin56Under 47000) = false ∧ Instr.wf (.vin56Over 62000) = false ∧ Instr.wf (.vin56InRange 49999) = false := by
  decide +kernel

/-! ## The block as a whole, resets and power -/

theorem witness_StepRunsFront :
    ({ ready with pending := [.white] } : State).pending = .white :: [] ∧ ready.pending = [] := by decide +kernel

theorem witness_CommandsKeepTheirParts :
    StatePart.mem ∈ neverChanged .white ∧ StatePart.coh ∈ neverChanged .white ∧ (∃ t, exec .white ready = .next t) :=
  ⟨by decide, by decide, _, rfl⟩

theorem witness_FinishKeepsTheEffect : quietField F.pwrStatus.cmdStatus = true := by decide +kernel

/-- A step from a state that meets every invariant: a byte in memory, a record in the log, pressure shown. -/
theorem witness_MemoryStaysCanonical : Memory.wf ({ ready with mem := [(5, 1), (9, 2)] } : State).mem = true ∧
    (∃ t, step { ready with mem := [(5, 1), (9, 2)] } = .next t) := ⟨by decide, _, rfl⟩

theorem witness_WhatIsNeverUndone :
    Safety.burned { ready with plt := { ready.plt with fuses := [(3, 1)] } } 3 0 = true ∧
    (∃ t, step { ready with plt := { ready.plt with fuses := [(3, 1)] }, mtr := { ready.mtr with broken := true, fault := true } } = .next t) :=
  ⟨by decide, _, rfl⟩

theorem witness_MeterLogStaysChained : Safety.MeterChain { ready.mtr with newest := 0, log := [] } := by
  intro k h1 h2; exact absurd (Nat.le_trans h1 h2) (by decide)

theorem witness_HeldOutputWaitsForTheMirror :
    Safety.HoldOk { ready with twn := { ready.twn with
      role := .active, state := .paired, sent := 3, applied := 1, held := [(2, .rst { dest := 4, msg := .grant })] } } :=
  ⟨rfl, by decide +kernel, fun _ h => by cases h; decide⟩

theorem witness_PressureStaysShown : Safety.PressureOk ready := fun c x _ _ h => by
  have : compOf ready c = none := rfl
  rw [this] at h; cases h

theorem witness_ResetsDepartFirst :
    isReady chained = true ∧ chained.lnk.enrolled = true ∧ chained.plt.departing = none ∧ chained.plt.vaux3 = true ∧
    isAwake chained = true ∧ toFive.crcOk = true ∧ toFive.dest = chained.plt.chainAddr ∧ chained.plt.chainAddr ≠ 0 ∧
    chained.plt.chainAddr ≠ 63 := by decide +kernel

theorem witness_DepartureEnds :
    operationsDone (departs chained (.reset .cold)) = true ∧
    (departs chained (.reset .cold)).plt.departing = some (.reset .cold) ∧
    (departs chained (.black 2)).plt.departing = some (.black 2) ∧ operationsDone (departs chained (.black 2)) = true ∧
    departsAtOnce ready ∧ serves ready 0 = true := by
  unfold departsAtOnce; decide +kernel

theorem witness_WarmResetClears : departsAtOnce ready ∧ serves ready 0 = true ∧ ready.plt.mainRails = true := by
  unfold departsAtOnce; decide +kernel

theorem witness_RailsGoOff :
    chained.plt.mainRails = true ∧ (46999 : Nat) < 47000 ∧ (62000 : Nat) < 62001 ∧ (109 : Int) ≤ 109 ∧ chained.plt.vaux3 = true ∧
    toFive.crcOk = true ∧ toFive.dest = chained.plt.chainAddr ∧ chained.plt.chainAddr ≠ 0 ∧ chained.plt.chainAddr ≠ 63 ∧
    serves ready 2 = true ∧ departsAtOnce ready ∧ isAwake ready = true ∧ ready.plt.departing = none ∧ ready.plt.vaux3 = true := by
  unfold departsAtOnce; decide +kernel

/-- The rails are off, and THERM_TRIP_N is low. -/
def dark : State := { ready with plt := { ready.plt with mainRails := false, thermTripLow := true, chainAddr := 5, state := .rom } }

theorem witness_RailsComeOn :
    dark.plt.vaux3 = true ∧ dark.plt.mainRails = false ∧ dark.plt.thermTripLow = true ∧ chained.plt.mainRails = true ∧
    chained.plt.thermTripLow = false ∧ toFive.crcOk = true ∧ toFive.dest = chained.plt.chainAddr ∧ chained.plt.chainAddr ≠ 0 ∧
    chained.plt.chainAddr ≠ 63 ∧ ({ dark with plt := { dark.plt with vaux3 := false } } : State).plt.vaux3 = false := by
  decide +kernel

/-- A region that serves without work since LMC 0, long ago. -/
def idleServing : State := atLmc (withRegion ready 3 { state := .serving, comp := some 3 }) (10 ^ 12)

theorem witness_PowerStatesChange :
    serves ready 2 = true ∧ ready.plt.departing = none ∧ ready.pwr.state = .white ∧
    feedOn ({ ready with plt := { ready.plt with lmcHeld := true } }) = false ∧ feedOn ready = true ∧
    isAwake ready = true ∧ regionsIdle ready = true ∧ charcoalActive ready = false ∧ ready.twn.state = .solo ∧
    isReady ready = true ∧ ({ ready with pwr := { ready.pwr with state := .entering, wakePending := true } } : State).pwr.wakePending = true ∧
    (let s := atLmc (setF (inState ready .charcoal) [(F.pwrWake.sources, 8), (F.pwrWakeTime.lmc, 100)]) 100
     (getF s F.pwrWake.sources).testBit 3 = true ∧ getF s F.pwrWakeTime.lmc ≠ 0 ∧ getF s F.pwrWakeTime.lmc ≤ s.plt.lmc ∧ isReady s = true) ∧
    (let s := inState idleServing .grey
     isReady s = true ∧ (regionOf s 3).state = .serving ∧ runningUnit s 3 = none ∧
     hasPassed s (regionOf s 3).idleSince (getF s F.pwrLimit.greyIdleUs) = true) := by
  decide +kernel

theorem witness_ReadingsAct :
    ready.plt.mainRails = true ∧ (47000 : Nat) < 2 ^ 16 ∧ (49999 : Nat) < 50000 ∧ (95 : Int) ≤ 95 ∧ (91 : Int) < 92 ∧
    (100 : Int) ≤ 100 ∧ ready.pwr.overHot = [] ∧ (85 : Int) ≤ 85 ∧ (81 : Int) < 82 ∧ ready.plt.lmcHeld = false := by
  decide +kernel

theorem witness_ChainPortServes :
    ready.plt.vaux3 = true ∧ ready.plt.chainAddr = 0 ∧ (1 : Nat) ≤ 62 ∧ ChainHere chained toFive ∧
    ({ toFive with dest := 62 } : ChainHead).dest ≠ chained.plt.chainAddr ∧ ({ toFive with crcOk := false } : ChainHead).crcOk = false := by
  unfold ChainHere; decide +kernel

theorem witness_TrayCommands :
    ChainHere chained toFive ∧ isReady chained = true ∧ (15 : Nat) < 16 ∧ memberOf chained 15 ≠ .enrolled ∧ chained.lnk.twin = none ∧
    (16 ≤ 16 ∨ (16 ≤ 0xFE ∧ 0xFE ≠ 0xFF) ∨ 2 ^ 32 ≤ 0) ∧
    (let s := { chained with lnk := { chained.lnk with members := [(4, .enrolled)] } }
     ChainHere s toFive ∧ memberOf s 4 = .enrolled ∧ s.lnk.member ≠ 4) ∧
    (List.replicate 16 (0 : Byte)).length = 16 ∧
    (withTwin chained { chained.twn with state := .fencing, role := .active }).twn.state = .fencing ∧
    chained.twn.state ≠ .fencing ∧
    (let s := { chained with plt := { chained.plt with state := .training } }
     ChainHere s toFive ∧ isReady s = false) := by
  unfold ChainHere; decide +kernel

/-! ## Start, firmware, attestation and fuses -/

/-- Step facts of a start in which all goes well. -/
def facts : StartFacts :=
  { strapSpi1v8 := true, strapSris := true, strapTest := false, railsOk := true, stacksOk := true, selfTestOk := true, slate := [],
    packageRead := .whole }
def keyList : KeyList := { magic := 0, authority := 0, authorityKey := 0, keys := [], sigR := 0, sigS := 0, digest := 0 }

theorem witness_StartsEnd :
    State.reset.plt.mainRails = true ∧ State.reset.plt.starting = some .cold ∧ ({ facts with railsOk := false } : StartFacts).railsOk = false ∧
    highestSlot { State.reset with plt := { State.reset.plt with fuses := [] } } = none ∧
    (let s := { starts ready .warm with plt := { (starts ready .warm).plt with activeSlot := some 0, strapTest := false, flashRootList := none } }
     s.plt.mainRails = true ∧ s.plt.starting = some .warm ∧ s.plt.activeSlot ≠ none ∧ s.plt.strapTest = false ∧ s.plt.flashRootList = none) ∧
    ({ ready.plt with flashRootList := some keyList } : Platform).flashRootList = some keyList := by
  decide +kernel

/-- Object 1 of Ochre holds 8 KiB of KIND 2 that every reader may read, with an IMAGE_LENGTH of 512. -/
def object1 : OdtEntry := { generation := 1, state := .published, tier := 1, kind := 2, prot := 7, location := 8192, size := 8192 }
def withOdt (s : State) (i : Nat) (e : OdtEntry) : State := { s with stk := { s.stk with odt := tabPut {} s.stk.odt i e } }
def imaged : State := { withOdt ready 1 object1 with mem := [(8192 + 17, 2)] }
def handle1 : Nat := 2 ^ 20 + 1
def image : Image := decodeImage (objectByte imaged 1)

theorem witness_FirmwareAdvances :
    serves imaged 0 = true ∧ isAwake imaged = true ∧ getF imaged F.pltFwStatus.status ≠ 1 ∧
    resolveImage ready (handle1 % 2 ^ 32) 2 = false ∧ resolveImage imaged (handle1 % 2 ^ 32) 2 = true ∧
    mustWait imaged (handle1 % 2 ^ 32) = false ∧ imageOf { imaged with mem := [] } (handle1 % 2 ^ 32) = none ∧
    (imageOf imaged (handle1 % 2 ^ 32)).isSome = true ∧
    (let s := withOdt ready 1 { object1 with tier := 4 }
     resolveImage s handle1 2 = true ∧ mustWait s handle1 = true) ∧
    isSet ready F.fuseCtl.fuseLock = false ∧
    (let s := { ready with plt := { ready.plt with thermo := 4, runningVersion := 5 } }
     s.plt.thermo < s.plt.runningVersion ∧ s.plt.runningVersion ≤ 128) ∧
    isSet (setF ready [(F.fuseCtl.fuseLock, 1)]) F.fuseCtl.fuseLock = true := by
  decide +kernel

theorem witness_KeysAndAttestation :
    serves imaged 0 = true ∧ getF imaged F.pltKeylist.status ≠ 1 ∧ resolve imaged handle1 0 2 = .ok 1 ∧ mustWait imaged handle1 = false ∧
    decodeKeyList (objectByte imaged 1) 8192 = none ∧ resolve ready handle1 0 2 = .stale ∧ hostOff ready = true ∧
    getF ready F.pltAttest.status ≠ 1 ∧ isReady ready = true ∧ ready.pcie.waiting = [] ∧
    getF (setF ready [(F.pltAttest.status, 1)]) F.pltAttest.status = 1 ∧
    getF (setF ready [(F.pltWrapCtl.status, 1)]) F.pltWrapCtl.status = 1 := by
  decide +kernel

theorem witness_GenerationsBurn :
    serves ready 1 = true ∧ isAwake ready = true ∧ ready.plt.burning = none ∧
    (let p := { ready.plt with burning := some ((1 : Fin 4), List.replicate 512 (3 : Byte)), activeSlot := some 0 }
     p.mainRails = true ∧ p.burning = some (1, List.replicate 512 3) ∧ p.activeSlot = some 0 ∧ (0 : Fin 4) ≠ 1) := by
  decide +kernel

/-! ## Regions, microcode, key slots and compositions -/

def binding : CompNo := 3
def region (st : RegionState) : Region := { state := st, comp := some binding, loadHandle := handle1 }
def oneRegion (st : RegionState) : State := withRegion imaged 3 (region st)
def faulted (cause : Nat) : State := setF (oneRegion .faulted) [(F.fabRgnFault.cause.at 3, cause)]

theorem witness_RegionCommands :
    FabricUp (oneRegion .empty) ∧ (regionOf (oneRegion .empty) 3).state = .empty ∧ (regionOf (oneRegion .empty) 3).comp.isSome = true ∧
    resolveImage (oneRegion .empty) (handle1 % 2 ^ 32) 0 = true ∧ resolveImage (oneRegion .empty) (5 % 2 ^ 32) 0 = false ∧
    resolveImage (setF (oneRegion .empty) [(F.fabRgnCtl.imageHandle.at 3, handle1)])
      (imageHandle (setF (oneRegion .empty) [(F.fabRgnCtl.imageHandle.at 3, handle1)]) 3) 0 = true ∧
    (regionOf ready 3).comp = none ∧ (regionOf (oneRegion .ready) 3).state = .ready ∧ (regionOf (oneRegion .serving) 3).state = .serving ∧
    (regionOf (faulted 9) 3).state = .faulted ∧ faultCause (faulted 9) 3 = 9 ∧ faultCause (faulted 13) 3 = 13 ∧
    firstRepair (faulted 8) 3 = none ∧ freeRepair (faulted 8) = some 0 ∧ isSet (faulted 8) F.fuseCtl.fuseLock = false ∧
    (let s := { faulted 8 with plt := { (faulted 8).plt with repairs := [(0, repairRecord 3 5)] } }
     (regionOf s 3).state = .faulted ∧ faultCause s 3 = 8 ∧ spareLeft s 3 = false) := by
  unfold FabricUp; decide +kernel

theorem witness_RegionsTakeTheirCourse :
    runs (oneRegion .loading) = true ∧ (regionOf (oneRegion .loading) 3).state = .loading ∧
    mustWait (oneRegion .loading) (regionOf (oneRegion .loading) 3).loadHandle = false ∧
    (imageOf (oneRegion .loading) (regionOf (oneRegion .loading) 3).loadHandle).isSome = true ∧
    imageOf (withRegion ready 3 (region .loading)) handle1 = none ∧
    mustWait (withOdt (oneRegion .loading) 1 { object1 with tier := 4 }) handle1 = true ∧
    (let s := withRegion imaged 3 { region .verifying with image := some image }
     runs s = true ∧ (regionOf s 3).state = .verifying ∧ (regionOf s 3).image.isSome = true ∧ (regionOf s 3).comp = some binding) ∧
    (let s := withRegion imaged 3 { region .draining with drainTo := some handle1 }
     runs s = true ∧ (regionOf s 3).state = .draining ∧ (regionOf s 3).running = none ∧ (regionOf s 3).drainTo = some handle1 ∧
     resolveImage s handle1 0 = true) ∧
    11 ∈ clustersInUse (oneRegion .serving) 3 ∧ 12 ∉ clustersInUse (oneRegion .serving) 3 ∧
    FabricUp imaged ∧ imaged.fab.pkgLoading = none ∧ regionsIdle imaged = true ∧ resolveImage imaged (handle1 % 2 ^ 32) 0 = true ∧
    regionsIdle (oneRegion .serving) = false ∧ resolveImage ready (handle1 % 2 ^ 32) 0 = false ∧
    (let s := { imaged with fab := { imaged.fab with pkgLoading := some (handle1, some 3584) } }
     runs s = true ∧ (some 3584 : Option Nat).isSome = true ∧ mustWait s handle1 = false ∧ (imageOf s handle1).isSome = true) := by
  unfold FabricUp; decide +kernel

/-- A model of two layers. -/
def descriptorBytes : List Byte := bytes 128 [(0, 2, 2), (2, 1, 2), (5, 1, 1), (6, 1, 4), (7, 1, 4), (8, 4, 32), (12, 4, 4096)]
def descriptor : ModelDescriptor := decodeDescriptor descriptorBytes
def composition (r : Role) : Composition :=
  { role := r, stackMask := 3, kvOffset := 0, kvGranules := 1024, slateGib := 0, umberGib := 0, fixed := some (0, 0, descriptor),
    pointer := 0, unbinding := false }
def withComp (s : State) (c : Composition) : State := { s with sch := { s.sch with comps := [(3, some c)] } }
def bound : State := withComp imaged (composition .generation)
def withSlot (s : State) (x : UcodeSlot) : State := { s with ucode := { s.ucode with slots := [(2, x)] } }
def layer : LayerEntry := { window := 0, scale := 0x3F800000, queryPerKv := 1 }
def layerBytes : List Byte := bytes 32 [(4, 4, 0x3F800000), (8, 1, 1), (20, 4, 0x3F800000), (24, 1, 1)]
def section_ (type : Nat) (b : List Byte) : SectionEntry :=
  { type := type, target := 0xFFFF, offset := 0, length := b.length, zeros := true, body := b }
def microcode : Image := { image with role := 2, sections := [section_ 8 descriptorBytes, section_ 16 layerBytes] }
def readySlotOf (im : Image) : UcodeSlot := { state := .ready, handle := handle1, image := some im, users := 1 }
def attachedState : State :=
  { withSlot bound (readySlotOf microcode) with ucode :=
    { (withSlot bound (readySlotOf microcode)).ucode with attached := [(3, some 2)], detaching := [(3, true)] } }

theorem witness_MicrocodeAndPasses :
    serves bound 4 = true ∧ isAwake bound = true ∧ compOf bound 3 ≠ none ∧ attachedTo bound 3 = none ∧ isAttaching bound 3 = false ∧
    readySlot (withSlot bound (readySlotOf microcode)) handle1 = some 2 ∧
    slotMatches (withSlot bound (readySlotOf microcode)) 3 microcode = true ∧
    slotMatches (withSlot bound (readySlotOf microcode)) 3 { microcode with role := 3 } = false ∧
    readySlot bound (handle1 % 2 ^ 32) = none ∧ (∃ j < 16, (slotOf bound j).state = .empty) ∧
    resolveImage bound (handle1 % 2 ^ 32) 1 = true ∧ resolveImage bound 5 1 = false ∧ compOf imaged 3 = none ∧
    attachedTo attachedState 3 ≠ none ∧
    (let s := { bound with ucode := { bound.ucode with slots := (List.range 16).map (fun j => (j, { state := .faulted, cause := 4 })) } }
     readySlot s handle1 = none ∧ ∀ j < 16, (slotOf s j).state ≠ .empty) ∧
    (let s := withSlot bound { state := .loading, handle := handle1, loadFor := some 3 }
     runs s = true ∧ (slotOf s 2).loadFor = some 3 ∧ canLease s = true ∧ mustWait s (slotOf s 2).handle = false ∧
     (imageOf s (slotOf s 2).handle).isSome = true) ∧
    runs attachedState = true ∧ tabGet false attachedState.ucode.detaching 3 = true ∧ stackBusy attachedState 3 = false ∧
    attachedTo attachedState 3 = some 2 ∧
    coreOk ready 0 0 = true ∧ ready.ucode.waiting = [] ∧ (∀ j < 4, passOf ready (16 * 0 + 4 * 0 + j) = none) := by
  decide +kernel

/-- A pass of step 1 runs on core 0 of stack 0. -/
def passing : State :=
  { attachedState with
    ucode := { attachedState.ucode with passes := [(0, some
      { step := 1, index := 0, comp := 3, slot := 2, layer := 0, head := 0, length := 3, pages := [(0, 5)], stepRows := [], rows := [] })] }
    sch := { attachedState.sch with steps := [(1, some { comp := 3, reqs := [], begun := true, complete := false, save := none })] } }

theorem witness_MicrocodeAndPasses_of_a_pass :
    runs passing = true ∧ passing.ucode.waiting = [] ∧ (passOf passing 0).isSome = true ∧ (stepOf passing 1).isSome = true ∧
    (descOf passing 3).isSome = true ∧ ((slotOf passing 2).image).bind (fun im => im.layerTable[0]?) = some layer := by
  decide +kernel

/-- Whether a key unwraps is a free value of Config, so the clauses of a key that does have no closed witness. -/
theorem witness_KeyAndTableSlots :
    serves ready 4 = true ∧ serves ready 8 = true ∧ isAwake ready = true ∧ ready.plt.wrapKey = none ∧ slotBusy ready 0 = false ∧
    (1 : Nat) ≤ 255 ∧ tableValid (tableLengths (setF ready [(F.codTableData.data.at 0, 1)])) = true ∧
    tableValid (tableLengths ready) = false := by
  decide +kernel

def withDomain (s : State) (d : Nat) : State := { s with pfx := { s.pfx with slots := [(7, { domain := d, owner := 0, key := 0 })] } }

theorem witness_DomainSlots :
    serves ready 6 = true ∧ isAwake ready = true ∧ ready.pfx.scan = none ∧ slotOfDomain ready 65535 = none ∧
    (tabGet {} ready.pfx.slots 7).domain = 0 ∧ unwrapKey ready (blobBytes ready F.pfxDomainBlob.data 5) = none ∧
    slotOfDomain (withDomain ready 9) 9 = some 7 ∧ slotOfDomain (withDomain ready 9) 1 = none ∧
    (tabGet {} (withDomain ready 9).pfx.slots 7).domain ≠ 0 ∧
    ({ ready with pfx := { ready.pfx with scan := some (7, .clear) } } : State).pfx.scan = some (7, .clear) ∧ runs ready = true := by
  decide +kernel

/-- Registers of a BIND of regions 1 and 63, stacks 0 and 1, and 128 granules. -/
def toBind : State :=
  setF ready [(F.stkObjCtl.stkLock, 1), (F.schCtl.schLock, 1), (F.schBindRegions.regions, 2 + 2 ^ 63), (F.schBindStacks.stacks, 3),
    (F.schBindKv.kvGranules, 128), (F.stkOchreCfg.interleavedGib, 1)]

theorem witness_CompositionsBind :
    serves toBind 9 = true ∧ isAwake toBind = true ∧ toBind.sch.cmdBusy = false ∧ bindRefusal toBind 3 .generation = none ∧
    bindRefusal toBind 3 .none = some 3 ∧ ({ toBind with sch := { toBind.sch with cmdBusy := true } } : State).sch.cmdBusy = true := by
  decide +kernel

def ofRegions (c : Option CompNo) (st : RegionState) : State :=
  withRegion (withRegion (withComp toBind (composition .generation)) 1 { comp := c, state := st }) 63 { comp := c, state := .empty }

theorem witness_CompositionsChange :
    serves toBind 9 = true ∧ isAwake toBind = true ∧ toBind.sch.cmdBusy = false ∧ compOf toBind 3 = none ∧
    keepsBound (ofRegions (some 3) .serving) 3 (composition .generation) = true ∧
    keepsBound (ofRegions (some 3) .empty) 3 (composition .generation) = false ∧
    allPagesFree toBind (composition .generation) = true ∧
    allPagesFree { toBind with stk := { toBind.stk with pages := [(5, { state := .open_ })] } } (composition .generation) = false ∧
    (namedRegions (ofRegions none .empty)).all (isLoose (ofRegions none .empty)) = true ∧
    (namedRegions (ofRegions none .ready)).all (isLoose (ofRegions none .ready)) = false ∧
    (∀ n ∈ namedRegions (ofRegions (some 3) .empty), (regionOf (ofRegions (some 3) .empty) n).comp = some 3) ∧
    (∀ n ∈ namedRegions (ofRegions (some 3) .empty),
      isIdle (ofRegions (some 3) .empty) n = true ∧ holdsContext (ofRegions (some 3) .empty) n = false) ∧
    (∃ n ∈ namedRegions (ofRegions (some 3) .serving), isIdle (ofRegions (some 3) .serving) n = false) ∧
    shareOf toBind 3 5 = none ∧ tabCount toBind.sch.shares (fun o => o.isSome) < 16384 ∧
    shareNeeded toBind 3 5 (composition .generation) = false := by
  decide +kernel

/-! ## Requests -/

def requestNo : Nat := 5 * 2 ^ 52 + 7
def entry (st : ReqState) : Entry :=
  { state := st, requestId := requestNo, tenant := 5, composition := 3, length := 10, inputEnd := 10, manifest := 4, home := 77, peer := 5,
    ownerEpoch := 1, logged := 10 }
def manifest : Manifest :=
  { directory := 4, historyDir := 5, units := [(0, 6)], historyUnits := [(0, 7)],
    pages := [(0, { valid := true, page := 8 }), (16384, { valid := true, page := 16 })],
    history := List.replicate 10 { input := true, token := 3 } }
def page (st : PageState) (fill : Nat) : PageRec := { state := st, fill := fill, refs := 1, epochOrOwner := 7 }

/-- Tenant 5 has queues with three commands to read and one entry, 7, in a state. -/
def holding (st : ReqState) : State :=
  let s := setQueues (setF bound
    [(F.rqtTCtl.enable.at 5, 1), (F.rqtTCtl.maxEntries.at 5, 100), (F.rqtTCtl.intEnable.at 5, 1), (F.rqtTQsize.sqLog2.at 5, 6),
     (F.rqtTQsize.cqLog2.at 5, 6), (F.rqtTQsize.trLog2.at 5, 6), (F.stkObjCtl.stkLock, 1), (F.xfrCtl.xfrLock, 1), (F.pltPcieLink.dlUp, 1),
     (F.stkManifestUnits.count, 64), (F.xfrLedgerCount.count, 16), (F.xfrCtl.logBatch, 1)]) 5 { sqTail := 3, unsignalled := 3 }
  { s with
    pcie := { s.pcie with busMaster := true }
    sch := { s.sch with shares := [(shareKey 3 5, some { weight := 1, deficit := 0 })] }
    rqt := { s.rqt with entries := [(7, entry st)], manifests := [(7, manifest)] }
    stk := { s.stk with usedUnits := [(4, true), (5, true), (6, true), (7, true)], pages := [(8, page .open_ 10), (16, page .open_ 10)] } }

/-- A command of tenant 5 on a request: opcode, COMPOSITION, REQUEST_ID, COUNT and TIER. -/
def command (op comp id count tier : Nat) : HostCommand :=
  { bytes := bytes 64 [(0, 1, op), (2, 1, comp), (8, 8, id), (16, 8, 9), (24, 8, 256), (32, 4, count), (36, 1, tier)] }
def routed : AdmitDescriptor := { bytes := bytes 128 [(0, 16, 77), (16, 16, 66), (32, 4, 100), (40, 4, 0x3F800000), (44, 4, 4), (48, 16, 5)] }

theorem witness_AdmitFillsAnEntry :
    canRead (holding .decode) 5 = true ∧
    admitRefusal (holding .decode) 5 (command 1 3 (requestNo + 1) 2 1) (some [4, 5]) none = some 15 ∧
    admitRefusal (holding .decode) 5 (command 1 3 (requestNo + 1) 2 1) (some [4, 5]) (some routed) = none ∧
    (0 < 65536 ∧ (entryOf (holding .decode) 0).state = .free) := by
  decide +kernel

theorem witness_AppendAndTruncate :
    Meets (holding .decode) 5 2 (command 2 0 requestNo 2 1) 7 ∧ Meets (holding .decode) 5 3 (command 3 0 requestNo 9 1) 7 ∧
    Meets (holding .decode) 5 3 (command 3 0 requestNo 10 1) 7 ∧
    ((entryOf (holding .decode) 7).state = .decode ∧ (command 2 0 requestNo 2 1).cflags = 0 ∧
      (entryOf (holding .decode) 7).length + 2 ≤ contextLimit (holding .decode) 3 ∧ (command 3 0 requestNo 9 1).count < 10 ∧
      10 ≤ (command 3 0 requestNo 10 1).count) := by
  refine ⟨?_, ?_, ?_, by decide +kernel⟩ <;> (unfold Meets RefsSound; decide +kernel)

theorem witness_CancelParkResumeQueryRelease :
    Meets (holding .prefill) 5 4 (command 4 0 requestNo 0 0) 7 ∧ Meets (holding .decode) 5 5 (command 5 0 requestNo 0 4) 7 ∧
    Meets (holding .parked) 5 6 (command 6 0 requestNo 0 0) 7 ∧ Meets (holding .decode) 5 7 (command 7 0 requestNo 0 0) 7 ∧
    Meets (holding .done) 5 8 (command 8 0 requestNo 0 0) 7 ∧
    (droppedBlocks (holding .decode) 7 = [] ∧ parkEntry (sendLog (seizeEntry (holding .decode) 7) 7) 7 2 0 = none ∧
      findRequest (holding .decode) (requestNo + 1) = none ∧ fieldsOk 4 (command 4 0 (requestNo + 1) 0 0) = true ∧
      (command 4 0 (requestNo + 1) 0 0).requestId / 2 ^ 52 = (5 : Tenant).val) := by
  refine ⟨?_, ?_, ?_, ?_, ?_, by decide +kernel⟩ <;> (unfold Meets RefsSound; decide +kernel)

/-- The swap area of host memory has room. -/
theorem witness_CancelParkResumeQueryRelease_of_park :
    let s := setF (holding .decode) [(F.stkSwapHostBase.base, 100), (F.stkSwapHostSize.granules, 4000)]
    Meets s 5 5 (command 5 0 requestNo 0 4) 7 ∧ (parkEntry (sendLog (seizeEntry s 7) 7) 7 4 0).isSome = true :=
  ⟨by unfold Meets RefsSound; decide +kernel, by decide +kernel⟩

def admitted : State :=
  let s := holding .admitted
  { s with rqt := { s.rqt with
    entries := [(7, { entry .admitted with length := 0 })], admissions := [(7, some { tag := 9 })]
    inputs := [(7, some { tokens := [3, 4, 5], forced := false, after := .commit })] } }

theorem witness_WalksDeadlinesAndCoalescing :
    runs admitted = true ∧ admitted.stk.broken = [] ∧ canLease admitted = true ∧ (entryOf admitted 7).state = .admitted ∧
    isWaiting admitted 7 = false ∧ admissionOf admitted 7 = some { tag := 9 } ∧ (entryOf admitted 7).sharingDomain = 0 ∧
    (manifestOf admitted 7).directory ≠ 0 ∧ (manifestOf admitted 7).historyDir ≠ 0 ∧ (inputOf admitted 7).isSome = true ∧
    (entryOf admitted 7).length = 0 ∧
    (let s := holding .decode
     deadlinePassed { atLmc s 6 with rqt := { s.rqt with entries := [(7, { entry .decode with deadline := 5 })] } } 7 = true) ∧
    (queuesOf (holding .decode) 5).unsignalled ≠ 0 ∧ isSet (holding .decode) (F.rqtTCtl.intEnable.at 5) = true := by
  decide +kernel

/-! ## Request State Transfer -/

/-- The part is the Active of a pair whose Mirror, member 4 on port 1, passes messages on; a CACHE composition serves tenant 5. -/
def homed (st : ReqState) : State :=
  let s := setF (holding st) [(F.xfrBlockAreaBase.base, 100), (F.xfrBlockAreaSize.granules, 5000)]
  { s with
    twn := { s.twn with role := .active }
    lnk := { s.lnk with twin := some 4, ports := [(0, { state := .up, mode := 1, neighbour := 3 }), (1, { state := .up, mode := 2, neighbour := 4 })] }
    sch := { s.sch with
      comps := s.sch.comps ++ [(9, some { composition .cache with stackMask := 0, kvGranules := 5000 })]
      shares := s.sch.shares ++ [(shareKey 9 5, some { weight := 1, deficit := 0 })] } }
def passed : RstHeader := { head with requestId := requestNo, port := 1 }
def ledger : Ledger :=
  { lstate := .open, tenant := 5, ownerEpoch := 1, requestId := requestNo, owner := 5,
    log := [{ input := true, token := 3 }, { input := false, token := 4 }] }
def withLedger (s : State) (l : Ledger) : State :=
  { s with xfr := { s.xfr with ledgers := [(3, l)], units := [(3, { dir := 9, logs := [10], blocks := [11] })] } }
def unacked : Datagram :=
  { dest := 5, source := 6, connection := 3, seq := 1, ack := 0, window := 4, ackOnly := false, syn := false, reset := false,
    last := true, takeover := false, append := false, status := .ok, epoch := 1, requestId := requestNo, xfer := 0, chunk := 0,
    sealed_ := none, msg := .resume }
def connection : Connection :=
  { peer := 5, ident := 44, peerIdent := 3, open_ := true, sentSeq := 2, expected := 0, peerWindow := 10,
    unacked := [(2, unacked)], waiting := [], heldIn := [], gathered := [] }
/-- The part has address 6 and a connection with part 5. -/
def connected : State :=
  let s := setF (homed .decode) [(F.xfrAddrLo.addr, 6)]
  { s with xfr := { s.xfr with conns := [connection] }, lnk := { s.lnk with ethUp := [(0, 50000)] } }
def fromPeer : RstHeader := { head with requestId := requestNo, connection := 44, port := 12 }

/-- The part's own window is a free value of Config, so that a datagram ahead of its turn is held has no closed witness. -/
theorem witness_MessagesReachTheEngine :
    EngineTakes (homed .decode) passed ∧
    isReady connected = true ∧ isAwake connected = true ∧ isSet connected F.xfrCtl.xfrLock = true ∧ portIsUp connected 12 = true ∧
    acceptsAddr connected fromPeer.dest = true ∧ isPassed connected fromPeer = false ∧
    (police connected fromPeer.port 2 (fromPeer.requestId / 2 ^ 52) fromPeer.bytes fromPeer.dscp).1 = true ∧
    (connOf connected 5).map (·.ident) = some 44 ∧ fromPeer.connection = connection.ident ∧ arrivalOf connection 0 = .next ∧ takesRst connected fromPeer = true ∧
    (connOf connected 9).isNone = true ∧ runs connected = true ∧
    (connection.unacked.find? (fun x => x.2.seq == 1)).map (·.1) = some 2 ∧ 2 < getF connected F.xfrRto.retries := by
  unfold EngineTakes; decide +kernel

/-- The decoding of a message without a payload of pages reads nothing. -/
theorem witness_MessagesReachTheEngine_of_decoding : decodeMessage connected .grant = .ok .grant := rfl

theorem witness_HomeKeepsLedgers :
    EngineTakes (homed .decode) passed ∧ cacheCompOf (homed .decode) (passed.requestId / 2 ^ 52) = some 9 ∧
    cacheCompOf (homed .decode) 6 = none ∧ findLedger (homed .decode) passed.requestId = none ∧
    0 < getF (homed .decode) F.xfrLedgerCount.count ∧ (ledgerOf (homed .decode) 0).lstate = .free ∧
    tabGet false (homed .decode).stk.usedUnits 9 = false ∧ 9 < getF (homed .decode) F.stkManifestUnits.count ∧
    (let s := withLedger (homed .decode) ledger
     AtHome s passed 3 ∧ isOwner (ledgerOf s 3) passed = true ∧ isOwner (ledgerOf s 3) { passed with epoch := 2 } = false ∧
     (ledgerOf s 3).log.length < 3 ∧ (ledgerOf s 3).blocks = [] ∧ nextUnit (ledgerUnits s 3) (ceilDiv (2 + 1) 2048) 0 = none ∧
     passed.takeover = false ∧ (ledgerOf s 3).owner = passed.source ∧ (ledgerOf s 3).ownerEpoch = passed.epoch ∧
     (ledgerOf s 3).owner ≠ 66 ∧ ({ passed with source := 8, epoch := 2 } : RstHeader).epoch = (ledgerOf s 3).ownerEpoch + 1 ∧
     canLease s = true ∧ listedGranules s 5 + granuleCount 5000 ≤ 5000 ∧
     nextUnit (ledgerUnits s 3) (ceilDiv 2 2048) (ceilDiv 1 2048) = none ∧
     areaUsed s 1 (getF s F.xfrBlockAreaBase.base * 4096) (granuleCount 5000) 0 = false ∧ (chooseEntry s).1 ≠ none ∧
     ledgerCtx s 9 0 5 0 0 = none ∧ isCurrent s handle1 = true ∧ isCurrent s 5 = false) := by
  unfold AtHome EngineTakes; decide +kernel

theorem witness_HomeKeepsLedgers_of_recovery :
    let s := setF (withLedger (homed .decode) ledger)
      [(F.xfrRecoverId.requestId, requestNo), (F.xfrRecoverTargetLo.addr, 66), (F.xfrRecoverFailedLo.addr, 5)]
    serves s 7 = true ∧ isAwake s = true ∧ findLedger s (getF s F.xfrRecoverId.requestId) = some 3 ∧ noTarget s = false ∧
    noTarget (withLedger (homed .decode) ledger) = true ∧ findLedger s (requestNo + 1) = none ∧
    tabKeys s.xfr.ledgers (fun l => l.lstate != .free && l.owner == getF s F.xfrRecoverFailedLo.addr + 2 ^ 64 * getF s F.xfrRecoverFailedHi.addr)
      = [3] := by
  decide +kernel

def transfer (k : TransferKind) (claim : Bool) : Transfer :=
  { kind := k, requestId := requestNo, index := 7, peer := 5, epoch := 1, append := true, tries := 0, pulls := [(0, 0)], walked := true,
    claimSent := claim, audited := false, unreachable := false, block := 0, retryWait := true }
def withTransfer (st : ReqState) (x : Transfer) : State :=
  let s := atLmc (homed st) (10 ^ 9)
  { s with xfr := { s.xfr with slots := [(3, some x)] } }

theorem witness_OwnersHandOff :
    AtOwner (homed .decode) passed 7 ∧ (entryOf (homed .decode) 7).inputEnd ≤ 10 ∧ tabGet none (homed .decode).rqt.logFrom 7 = none ∧
    inputOf (homed .decode) 7 = none ∧ (entryOf (homed .decode) 7).length < getF (homed .decode) F.xfrCtl.logBatch + 10 ∧
    AtOwner (homed .handoffOut) passed 7 ∧ ({ passed with epoch := 2 } : RstHeader).epoch = (entryOf (homed .handoffOut) 7).ownerEpoch + 1 ∧
    passed.source = (entryOf (homed .handoffOut) 7).peer ∧
    (let s := withTransfer .handoffIn (transfer .receive true)
     AtOwner s passed 7 ∧ tabGet false s.rqt.taken 7 = false ∧ (entryOf s 7).state = .handoffIn ∧
     transferFor s 7 (· == .receive) = some 3 ∧ transferOf s 3 = some (transfer .receive true) ∧
     (transfer .receive true).pulls.contains (0, 0) = true ∧ (pageEntry (manifestOf s 7) 0 0).valid = true ∧ (descOf s 3).isSome = true) ∧
    EngineTakes (homed .decode) { passed with requestId := requestNo + 1 } ∧ findRequest (homed .decode) (requestNo + 1) = none ∧
    (let s := atLmc (homed .handoffIn) (10 ^ 9)
     runs s = true ∧ isSet s F.xfrCtl.xfrLock = true ∧ orphanPassed s 7 = true ∧ (entryOf s 7).state = .handoffIn ∧ handoffTransfer s 7 = none) ∧
    orphanPassed (homed .decode) 7 = false ∧
    offerComp (homed .decode) .generation 0 0 5 = some 3 ∧ offerComp (homed .decode) .prompt 0 0 5 = none ∧
    (entryOf (homed .decode) 0).state = .free ∧ transferOf (homed .decode) 0 = none ∧
    (let s := withTransfer .handoffOut (transfer .send false)
     transferFor s 7 (· == .send) = some 3 ∧ orphanPassed s 7 = true ∧ (transfer .send false).retryWait = true) ∧
    (let s := withTransfer .decode (transfer .publish false)
     AtOwner s passed 7 ∧ transferFor s 7 (· == .publish) = some 3) := by
  unfold AtOwner EngineTakes; decide +kernel

theorem witness_OwnersHandOff_of_waits :
    (let s := { homed .admitted with rqt := { (homed .admitted).rqt with admissions := [(7, some { tag := 9, closing := true, query := true })], tracks := [(7, some (newTrack (homed .admitted) 5 0))] } }
     AtOwner s passed 7 ∧ (admissionOf s 7).isSome = true ∧ heldOf s 7 = [] ∧ readsOf s 7 = none ∧ (trackOf s 7).isSome = true ∧
     transferFor s 7 (· == .objRead) = none) ∧
    (let s := { homed .decode with rqt := { (homed .decode).rqt with taken := [(7, true)], reads := [(7, some { handles := [handle1], next := 0, asked := true, walked := true })] } }
     AtOwner s passed 7 ∧ tabGet false s.rqt.taken 7 = true ∧ (readsOf s 7).isSome = true ∧
     (descOf s 3).map (fun d => decide (d.layers * pageGranules d * 4096 ≤ 40000)) = some true) ∧
    (let s := withLedger { homed .decode with rqt := { (homed .decode).rqt with entries := [] } } { ledger with lstate := .recovering }
     EngineTakes s { passed with status := .busy } ∧ findRequest s requestNo = none ∧ findLedger s requestNo = some 3 ∧
     isOwner (ledgerOf s 3) passed = true ∧ (ledgerOf s 3).lstate = .recovering) ∧
    (let s := homed .handoffOut
     handoffTransfer s 7 = none ∧ isRecovering s 7 = false ∧ acceptsAddr s 99 = false ∧ laterThan 2 (entryOf s 7).ownerEpoch = true) ∧
    (let s := { homed .decode with stk := { (homed .decode).stk with pages := [(8, page .sealed_ 64), (16, page .sealed_ 64)] } }
     sealedBlock s 7 0 2 = some [8, 16]) := by
  unfold AtOwner EngineTakes; decide +kernel

/-! ## The twin -/

def peerReport (r : TwinRole) : PeerReport :=
  { joined := true, ordering := State.reset.plt.ordering, version := 0, digest := 0, role := r, mirrorPorts := 1 }
/-- The part and its Mirror, member 4 on port 1, in a state of the pair. -/
def pair (st : TwinState) (r : TwinRole) : State :=
  { ready with
    twn := { ready.twn with state := st, role := r, sent := 3, applied := 1 }
    lnk := { ready.lnk with enrolled := true, member := 2, twin := some 4, members := [(4, .enrolled)], ports := [(1, { state := .up, mode := 2, neighbour := 4 })] } }

theorem witness_TwinsPair :
    serves ready 14 = true ∧ isAwake ready = true ∧ ready.twn.state = .solo ∧ ({ peerReport .none with joined := false } : PeerReport).joined = false ∧
    joinRefusal ready (askedRole ready .active) (configDigest ready) { peerReport .none with mirrorPorts := 0 } ≠ none ∧
    isPairing ready = false ∧ isPairing (pair .paired .active) = true ∧ (pair .paired .active).twn.phase = 0 ∧
    (pair .paired .mirror).twn.role = .mirror ∧ runs (pair .paired .active) = true ∧
    handoverReady { pair .paired .active with twn := { (pair .paired .active).twn with phase := 2, applied := 3 } } = true ∧
    handoverReady (pair .paired .active) = false ∧ (pair .paired .mirror).twn.incomplete = [] := by
  decide +kernel

theorem witness_MirrorsApplyInOrder :
    isReady (pair .paired .mirror) = true ∧ mirrorPortUp (pair .paired .mirror) 1 = true ∧ isPairing (pair .paired .mirror) = true ∧
    (pair .paired .mirror).twn.stopped = false ∧ recordOk (pair .paired .mirror) .bad = false ∧
    mirrors (pair .paired .active) = true ∧
    (let s := pair .syncing .active
     mirrors s = true ∧ s.twn.copyOut.all (fun e => decide (e.1 ≤ max s.twn.applied (min 3 s.twn.sent))) = true) ∧
    (pair .paired .active).lnk.twin = some 4 ∧ (pair .paired .active).lnk.twin ≠ some 5 ∧
    hasPassed (atLmc (pair .paired .active) (10 ^ 9)) 0 (getF (pair .paired .active) F.twnCtl.hbIntervalUs) = true ∧
    hasPassed (pair .paired .active) 0 (getF (pair .paired .active) F.twnCtl.hbIntervalUs) = false := by
  decide +kernel

theorem witness_TwinsAreFenced :
    (let s := atLmc (pair .paired .mirror) (10 ^ 9)
     isReady s = true ∧ hasPassed s s.twn.beatHeard (getF s F.twnCtl.misses * getF s F.twnCtl.hbIntervalUs) = true ∧ s.lnk.twin = some 4) ∧
    (let s := atLmc (pair .fencing .active) (10 ^ 9)
     isReady s = true ∧ s.twn.state = .fencing ∧ s.twn.fenceSent = false ∧ s.lnk.twin = some 4 ∧
     hasPassed s s.twn.fenceLmc (getF s F.twnCtl.fenceWaitUs) = true ∧ hasPassed s s.twn.fenceLmc 700 = true) ∧
    isPairing ready = false ∧ ready.twn.state ≠ .fencing := by
  decide +kernel

/-! ## Flash, registers and the host link -/

def flashed : State := { ready with fls := { ready.fls with state := .ready } }

theorem witness_FlashAndSlate :
    serves flashed 13 = true ∧ isAwake flashed = true ∧ ({ ready with fls := { ready.fls with state := .scanning } } : State).fls.state = .scanning ∧
    meetsObject flashed none (getF flashed F.flsDiscardFirst.first) (getF flashed F.flsDiscardUnits.units) = false ∧
    (let s := withOdt (setF flashed [(F.flsDiscardFirst.first, 4), (F.flsDiscardUnits.units, 1)]) 1 ({ generation := 1, state := .published, tier := 3, location := 4, size := 4096 } : OdtEntry);
     meetsObject s none (getF s F.flsDiscardFirst.first) (getF s F.flsDiscardUnits.units) = true) ∧
    isSet ready F.flsCtl.flsLock = false ∧ isSet (setF ready [(F.flsCtl.flsLock, 1)]) F.flsCtl.flsLock = true ∧
    ready.stk.objWaiting = [] ∧ runs flashed = true ∧ isSet ready F.sltErr.valid = false ∧
    scrubDue (setF (atLmc ready (10 ^ 14)) [(F.sltCtl.scrubHours, 1), (F.sltStatus.capacityGib, 64)]) = true := by
  decide +kernel

theorem witness_RegistersTakeWrites :
    F.stkPageStats.expired.lo + F.stkPageStats.expired.width ≤ 64 ∧ getF ready F.pltCtl.vector < 2 ^ F.pltCtl.vector.width ∧
    fieldInUse ready F.pltCtl.vector = false ∧ F.pltStatus.state.access = .ro ∧ F.pltStatus.refclkEvent.access = .rw1c ∧
    F.stkOchreCfg.interleavedGib.access = .rwl ∧ isLocked (setF ready [(F.stkObjCtl.stkLock, 1)]) (blockOf F.stkOchreCfg.interleavedGib.off) = true ∧
    F.pltCtl.vector.access = .rw ∧ F.pltCtl.vector.valid = .all ∧ F.pltCtl.vector.width ≠ 0 ∧ F.pltStatus.state.key ≠ F.pltCtl.vector.key ∧
    ready.plt.mainRails = true ∧ 0x04000000 ≤ 0x04000000 ∧ (2 ≠ 4 ∧ 2 ≠ 8) ∧ 4 % 8 ≠ 0 ∧
    serves (starts { ready with plt := { ready.plt with state := .rom } } .warm) (blockOf 0x00500000) = false ∧
    serves ready (blockOf 0x00500000) = true ∧ serves ready (lockBlockNo .stk) = true ∧
    serves { ready with plt := { ready.plt with state := .rom } } (lockBlockNo .stk) = false ∧ serves ready 5 = true ∧
    isSet ready (F.rqtTCtl.enable.at 5) = false ∧ isSet (holding .decode) (F.rqtTCtl.enable.at 5) = true ∧
    (holding .decode).rqt.entries.any (fun e => e.2.state != .free && e.2.tenant.val == 5) = true ∧
    (portOf (pair .paired .active) 1).state = .up ∧ serves ready 10 = true := by
  decide +kernel

theorem witness_DoorbellsRing :
    isReady (holding .decode) = true ∧ isAwake (holding .decode) = true ∧ tenantOn (holding .decode) 5 = true ∧ tenantOn ready 5 = false ∧
    63 % 2 ^ 16 < sqSlots (holding .decode) 5 ∧ sqSlots (holding .decode) 5 ≤ 64 % 2 ^ 16 ∧ 0 % 2 ^ 16 < cqSlots (holding .decode) 5 ∧
    passesTail (cqSlots (holding .decode) 5) (queuesOf (holding .decode) 5).cqHead (queuesOf (holding .decode) 5).cqTail 0 = false ∧
    passesTail (cqSlots (holding .decode) 5) (queuesOf (holding .decode) 5).cqHead (queuesOf (holding .decode) 5).cqTail 1 = true ∧
    (getF (setF ready [(F.pwrWake.sources, 1)]) F.pwrWake.sources).testBit 0 = true ∧
    63 % 2 ^ 16 < objSqSlots ready ∧ objSqSlots ready ≤ 64 % 2 ^ 16 ∧ isSet ready F.pltPcieDbFault.valid = false ∧
    isSet (setF ready [(F.pltPcieDbFault.valid, 1)]) F.pltPcieDbFault.valid = true := by
  decide +kernel

theorem witness_HostLinkActs :
    ready.plt.mainRails = true ∧ isSet (holding .decode) F.pltPcieLink.dlUp = true ∧
    getF (setF ready [(F.pltPcieLink.dlUp, 1)]) F.pltAttest.status ≠ 1 ∧ getF (setF ready [(F.pltPcieLink.dlUp, 1)]) F.pltWrapCtl.status ≠ 1 ∧
    ready.stk.odt = [] ∧ ready.rqt.restores = [] ∧ 5 < 2 ^ F.pltPcieLink.speed.width ∧ 16 < 2 ^ F.pltPcieLink.width.width ∧
    (starts ready .warm).plt.starting.isSome = true ∧ ready.plt.starting = none ∧ (36 : Nat) ≤ 41 ∧ (35 : Nat) < 36 ∧
    isReady (holding .decode) = true ∧ canRead (holding .decode) 5 = true ∧ ((400 : Nat) = 400 ∨ (400 : Nat) = 800) := by
  decide +kernel

/-! ## Memory, frames and lines -/

/-- Ochre is laid out, with room for BAR 4, and the part is member 2 with member 3 on port 0. -/
def laid : State :=
  { setF ready [(F.stkOchreCfg.interleavedGib, 8), (F.sltStatus.capacityGib, 64)] with
    pcie := { ready.pcie with bar4Log2 := 36 }
    lnk := { ready.lnk with enrolled := true, member := 2, trayId := 9, members := [(3, .enrolled), (1, .enrolled)], ports := [(0, { state := .up, mode := 1, neighbour := 3 })] } }
def protected_ : State := { laid with stk := { laid.stk with wp := [(2, true)] } }
def toUs : FrameHeader := { frame with dest := 2, address := 4096 }

theorem witness_BarFourReachesOchre :
    isReady laid = true ∧ isAwake laid = true ∧ inBar4 laid 4096 8 = true ∧ inBar4 laid (2 ^ 41) 8 = false ∧
    writeRefused laid 4096 2 = false ∧ (∀ l ∈ linesOf 4096 2, LineStill laid l) ∧
    writeRefused (setF laid [(F.stkObjCtl.stkLock, 1)]) 4096 2 = true ∧ inBar4 (setF laid [(F.stkObjCtl.stkLock, 1)]) 4096 2 = true ∧
    isHidden laid 4096 = false ∧ (homeLine laid 32).poisoned = false ∧ isSet laid F.stkObjCtl.stkLock = false ∧
    isSet (setF laid [(F.stkObjCtl.stkLock, 1)]) F.stkObjCtl.stkLock = true ∧ (inState laid .charcoal).pwr.state = .charcoal := by
  unfold LineStill; decide +kernel

theorem witness_BarFourReachesOchre_of_hidden :
    isHidden (withOdt laid 1 { object1 with prot := 16 }) 8192 = true := by decide +kernel

theorem witness_AccessesReachMemory :
    inOchre laid (2 ^ 40) 8 = false ∧ inSlate laid (2 ^ 40) 8 = false ∧ inOchre laid 4096 8 = true ∧ inSlate laid slateBase 8 = true ∧
    writeRefused (setF laid [(F.stkObjCtl.stkLock, 1)]) 4096 8 = true ∧ writeRefused laid 4096 8 = false ∧
    meetsPoison laid true 4096 8 = false ∧ meetsBusy laid 4096 8 = false ∧
    meetsPoison { laid with coh := { laid.coh with home := [(32, { poisoned := true })] } } false 4096 8 = true ∧
    (∀ l ∈ linesOf 4096 8, OneOwner laid l) := by
  unfold OneOwner; decide +kernel

theorem witness_FramesReachMemory :
    FrameTaken laid toUs ∧ (police laid (roalePort 0) 5 0 44 0).1 = true ∧ (police laid (roalePort 0) 5 0 36 0).1 = true ∧
    (police laid (roalePort 0) 6 0 48 0).1 = true ∧ notBarred laid toUs ∧ meetsBusy laid toUs.address toUs.size = false ∧
    reqOf (.memReqAdd toUs 5) = some (toUs, .add, 5, []) ∧ acceptsFrame laid toUs = true ∧ acceptsFrame ready toUs = false ∧
    toUs.dest.val = laid.lnk.member ∧ (departs laid (.reset .cold)).plt.departing ≠ none ∧ isAwake (inState laid .charcoal) = false ∧
    (let s := { laid with lnk := { laid.lnk with barriers := [(barrierKey 1 0, some 5)] } }
     ¬ notBarred s toUs) := by
  unfold FrameTaken notBarred; decide +kernel

theorem witness_PortsTrainAndForward :
    laid.plt.mainRails = true ∧ getF (setF laid [(F.lnkPortCfg.mode.at 2, 1)]) (F.lnkPortCfg.mode.at 2) ≠ 0 ∧ (portOf laid 2).state ≠ .up ∧
    (portOf laid 0).state = .up ∧ laid.lnk.ops = [] ∧ (portOf laid 0).state ≠ .down ∧ (portOf laid 0).state ≠ .training ∧
    memberOf laid 5 ≠ .enrolled ∧ memberOf laid 3 = .enrolled ∧ (portOf (pair .paired .active) 1).mode = 2 ∧
    memberOf (pair .paired .active) 4 = .enrolled ∧ (pair .paired .active).lnk.twin = some 4 ∧
    isSet (setF laid [(F.lnkPortCfg.forward.at 0, 1)]) (F.lnkPortCfg.forward.at 0) = true ∧
    regionPort (setF laid [(F.lnkRoute.ports.at 3, 1)]) 3 0 = some 0 ∧ (portOf laid 0).neighbour = (3 : Member).val ∧
    isReady laid = true ∧ portIsUp laid 0 = true ∧ portIsUp laid 5 = false ∧ (regionOf (oneRegion .serving) 3).state = .serving ∧
    (regionOf (oneRegion .loading) 3).state = .loading ∧ (regionOf (oneRegion .faulted) 3).state = .faulted ∧ runs (oneRegion .serving) = true := by
  decide +kernel

def unit_ : Machine.Unit := { step := 0, kernel := 3, start := 0, ended := false }
/-- A unit of a step runs on region 3. -/
def working : State :=
  { laid with
    fab := { laid.fab with regions := [(3, { region .serving with running := some unit_ })] }
    sch := { laid.sch with
      comps := [(3, some (composition .generation))]
      steps := [(0, some { comp := 3, reqs := [], begun := true, complete := false, save := none })] } }
def operation : RemoteOp :=
  { member := 3, address := 4096, size := 4, kind := .mem .load, operand := 0, data := [], thread := 1, tenant := 0, waiting := true }
def outstanding : State := { working with lnk := { working.lnk with ops := [(opKey 3 7, some operation)] } }
def reply : FrameHeader := { frame with dest := 2, source := 3, tag := { generation := 0, region := 3, slot := 7 } }

theorem witness_ThreadsUseTheTray :
    threadRuns working 3 1 = true ∧ opShapeOk (.mem .load) (4096 % 2 ^ 48) 3 = false ∧ opShapeOk (.mem .load) (4096 % 2 ^ 48) 8 = true ∧
    3 * 2 ^ 48 / 2 ^ 48 % 16 ≠ working.lnk.member ∧ twtCovers working (.mem .load) (unitTenant working 3) 3 4096 8 = false ∧
    (2 * 2 ^ 48 + 4096) / 2 ^ 48 % 16 = working.lnk.member ∧ postedLeft working 3 1 = false ∧
    frameHere outstanding reply = true ∧ (opOf outstanding 3 7).isSome = true ∧
    reply.tag.generation % 16 = tabGet 0 outstanding.lnk.generations (opKey 3 7) ∧
    ({ reply with tag := { reply.tag with generation := 5 } } : FrameHeader).tag.generation % 16 ≠ tabGet 0 outstanding.lnk.generations (opKey 3 7) ∧
    runs outstanding = true ∧ ((waitingOps outstanding 3 3).head?).map (·.1) = some 7 ∧ outstanding.lnk.opQueue = [] ∧
    isPosted operation = false := by
  decide +kernel

def cached (a : Nat) (x : CacheLine) (st : DirState) : State :=
  { working with coh := { working.coh with lines := [(lineKey a 32, x)], home := [(32, { state := st, owner := a })] } }
def copy_ (st : CacheState) : CacheLine := { state := st, data := List.replicate 128 3 }

theorem witness_LinesStayCoherent :
    agentRuns working 3 = true ∧ storeRefused working 32 none = none ∧ (cacheLine working 3 32).state = .invalid ∧
    storeRefused working (2 ^ 40) none = some .addressError ∧ LineStill working 32 ∧ (setEntries working 32).length < 16 ∧
    (heldLines working 3).length < cacheLimit 3 ∧ (List.replicate 128 (0 : Byte)).length = 128 ∧
    (cacheLine (cached 3 (copy_ .modified) .owned) 3 32).state = .modified ∧ isOwned (cacheLine (cached 3 (copy_ .modified) .owned) 3 32).state = true ∧
    OwnedBy (cached 3 (copy_ .modified) .owned) 32 3 ∧ OneOwner (cached 3 (copy_ .modified) .owned) 32 ∧
    OwnedBy (cached 64 (copy_ .modified) .owned) 32 64 ∧ lineMapped working 32 = true ∧ lineMapped working (2 ^ 40) = false ∧
    (cacheLine (cached 3 (copy_ .modified) .owned) 3 32).waitingForward = false ∧
    (cacheLine (cached 3 { copy_ .modified with holding := true } .owned) 3 32).holding = true ∧ working.plt.lmcHeld = false := by
  unfold LineStill OwnedBy OneOwner; decide +kernel

/-- A load of agent 64 waits for the line that region 3 holds Modified. -/
theorem witness_LinesStayCoherent_of_forward :
    let s := { cached 3 (copy_ .modified) .owned with coh := { (cached 3 (copy_ .modified) .owned).coh with
      home := [(32, { state := .owned, owner := 3, busy := some (.readShared 64), awaiting := [3] })] } }
    isReady s = true ∧ (homeLine s 32).awaiting = [3] ∧ (cacheLine s 3 32).holding = false ∧ OneOwner s 32 ∧
    (homeLine s 32).queue = [] ∧ (heldLines s 64).length < cacheLimit 64 := by
  unfold OneOwner; decide +kernel

/-! ## Steps, space and objects -/

/-- Kernel 1 stands at a preemptible array unit, kernel 3 (its record 1) at no preemptible one. -/
def kernelBytes : List Byte := bytes 64 [(0, 2, 1), (3, 1, 1), (32, 2, 3)]
def stepped : Image := { image with sections := [section_ 7 kernelBytes, section_ 8 descriptorBytes] }
def job (k : Nat) : Machine.Unit := { step := 0, kernel := k, start := 0, ended := false }
def part (k : StepKind) (v : Bool) (n : Nat) : StepReq :=
  { index := 7, requestId := requestNo, arbSeq := 0, kind := k, valid := v, position := 10, upTo := n, tree := [], hasProb := false,
    source := .none, probe := false, pagesRead := 4 }
def context : Context := { step := 9, kernel := 1, atExit := false, ranges := [] }

/-- Region 3 runs a unit of step 0, which holds one part of entry 7; entry 8 of the same tenant, of a higher priority, waits. -/
def stepping (u : Option Machine.Unit) (done : Bool) (p : StepReq) : State :=
  let s := holding .decode
  { s with
    fab := { s.fab with regions := [(3, { region .serving with image := some stepped, running := u })] }
    sch := { s.sch with steps := [(0, some { comp := 3, reqs := [p], begun := true, complete := done, save := none })] }
    rqt := { s.rqt with entries := [(7, entry .decode), (8, { entry .decode with requestId := requestNo + 1, priority := 3 })],
                        manifests := [(7, manifest), (8, manifest)] } }
def saved (s : State) : State := withRegion s 3 { (regionOf s 3) with saves := [(0, some context), (1, some context), (2, some context), (3, some context)] }

theorem witness_StepsRunAndCommit :
    (let s := stepping none false (part .decode true 10)
     mayRun s = true ∧ (regionOf s 3).state = .serving ∧ runningUnit s 3 = none ∧ (regionOf s 3).comp = some 3 ∧
     (kernelOf s 3 1).isSome = true ∧ (compOf s 3).isSome = true ∧ (descOf s 3).isSome = true) ∧
    (let s := stepping (some (job 1)) false (part .decode true 10)
     runs s = true ∧ runningUnit s 3 = some (job 1) ∧ passesLeft s 0 = false ∧ (stepOf s 0).isSome = true ∧
     ((kernelOf s 3 1).map (·.unit)) ≠ some 1 ∧ (kernelOf s 3 1).map (·.preemptible) = some true ∧
     (stepOf s 0).map (higherWaits s 3) = some true ∧ saveOf s 3 0 = none ∧ saveOf (saved s) 3 0 ≠ none ∧ saveOf (saved s) 3 3 ≠ none) ∧
    passesLeft passing 1 = true ∧ ready.twn.role ≠ .mirror ∧
    (kernelOf (stepping (some (job 3)) false (part .decode true 10)) 3 3).map (·.preemptible) = some false ∧
    ready.stk.broken = [] ∧ stepFor ready 7 = none ∧
    (let s := stepping none true (part .redraw true 10)
     stepFor s 7 = some 0 ∧ (stepOf s 0).map (·.complete) = some true ∧ mayCommit s 7 (commitSize s 7 (part .redraw true 10) []) = true ∧
     (entryOf s 7).stopTokens = []) ∧
    (let s := setF (stepping none true (part .prefill true 300)) []
     mayCommit s 7 (commitSize s 7 (part .prefill true 300) []) = false) ∧
    (let s := stepping none true (part .redraw false 10)
     ((stepOf s 0).bind (partOf · 7)).map (·.valid) = some false ∧ (entryOf s 7).state ≠ .free ∧ (entryOf s 7).requestId = requestNo) := by
  decide +kernel

def page1 (p g : Nat) : Nat × PageEntry := (p, { valid := true, page := g })
/-- Entry 7 has one full block and a tail; composition 3 is pressed on its stack 0; the swap areas are laid out. -/
def pressed (st : ReqState) (tier preempt : Nat) : State :=
  let s := setF (holding st)
    [(F.stkCapPressure.stacks.at 3, 1), (F.stkCapWm.low.at 3, 60000), (F.stkCapWm.high.at 3, 60001), (F.stkCapCtl.swapTier, tier),
     (F.stkCapCtl.preemptRegions, preempt), (F.stkSwapSlateBase.base, 100), (F.stkSwapSlateSize.granules, 4000),
     (F.stkSwapHostBase.base, 100), (F.stkSwapHostSize.granules, 4000), (F.pfxBlockCount.count, 8192)]
  { s with
    rqt := { s.rqt with
      entries := [(7, { entry st with length := 70, inputEnd := 70, logged := 70, sharingDomain := 9 })]
      manifests := [(7, { manifest with pages := [page1 0 8, page1 1 24, page1 16384 16, page1 16385 32], history := List.replicate 70 { input := true, token := 3 } })]
      tracks := [(7, some { newTrack s 5 0 with blocks := 1 })] }
    pfx := { s.pfx with slots := [(7, { domain := 9, owner := 0, key := 0 })] }
    stk := { s.stk with pages := [(8, page .sealed_ 64), (16, page .sealed_ 64), (24, page .open_ 6), (32, page .open_ 6)] } }
def dropped (s : State) : State :=
  { s with rqt := { s.rqt with manifests := [(7, { manifest with pages := [(0, { valid := false, dropped := true, page := 8 }), page1 1 24] })] } }
def calm (s : State) : State := setF s [(F.stkCapPressure.stacks.at 3, 0)]
/-- The same with no page yet. -/
def light : State :=
  let s := pressed .decode 2 0
  { s with rqt := { s.rqt with entries := [(7, { entry .decode with length := 0, inputEnd := 0 })], manifests := [(7, { manifest with pages := [], history := [] })] } }
/-- Entry 7 stands PARKED by pressure in the published object 9, which holds no page. -/
def parked1 : State :=
  let s := withOdt (pressed .parked 2 0) 9 { object1 with generation := 3 }
  { s with rqt := { s.rqt with manifests := [(7, { manifest with pages := [], parked := 3 * 2 ^ 20 + 9, parkOrigin := 1 })] } }
def leased (k epoch : Nat) (s : State) : State := { s with stk := { s.stk with leases := [(k, some { epoch := epoch })], epoch := 2 ^ 28 + 5 } }

theorem witness_SpaceComesBack :
    (lmcRuns ready = true ∧ (atLmc ready 1000).stk.epochLmc + 1000 ≤ (atLmc ready 1000).plt.lmc) ∧ ready.plt.lmc < ready.stk.epochLmc + 1000 ∧
    NobodyWaits (holding .decode) ∧ NoObjectWaits (holding .decode) ∧ ready.xfr.asks = [] ∧
    ({ ready with plt := { ready.plt with lmcHeld := true } } : State).plt.lmcHeld = true ∧
    tabGet none (leased 2000 3 ready).stk.leases 2000 = some { epoch := 3 } ∧ leaseTooOld (leased 2000 3 ready) 3 = true ∧
    leaseTooOld (leased 2000 3 ready) (2 ^ 28) = false ∧ (regionOf (leased 48 3 (oneRegion .loading)) 3).state = .loading ∧
    canReclaim { ready with stk := { ready.stk with epoch := 9, pages := [(8, { state := .retired, epochOrOwner := 2 })] } } 8 = true ∧
    canReclaim ready 8 = false ∧
    (let s := withOdt { ready with stk := { ready.stk with epoch := 9 } } 9 { object1 with state := .retiring, retireEpoch := 2 }
     (odtOf s 9).state = .retiring ∧ leasesPast s 2 = true ∧
     leasesPast { s with stk := { s.stk with leases := [(20, some { epoch := 1 })] } } 2 = false) ∧
    canLease ready = true ∧ (trackOf (pressed .decode 2 0) 7).isSome = true ∧ mayInsert .decode = true ∧
    openSlot (pressed .decode 2 0) 9 5 = some 7 ∧ (descOf (pressed .decode 2 0) 3).isSome = true ∧ (walkCtx (pressed .decode 2 0) 3 7).isSome = true ∧
    sealedBlock (pressed .decode 2 0) 7 0 2 = some [8, 16] ∧ (boundComps ready).isEmpty = true := by
  unfold NobodyWaits NoObjectWaits; decide +kernel

theorem witness_SpaceComesBack_of_victims :
    isDropVictim (pressed .decode 2 9) descriptor 3 7 = true ∧ isDropVictim (holding .decode) descriptor 3 7 = false ∧
    isDropVictim (pressed .done 2 9) descriptor 3 7 = true ∧ (pressed .decode 2 0 |>.pwr.state) ≠ .charcoal ∧
    isPreemptVictim (pressed .decode 2 0) descriptor 3 7 = true ∧ isPreemptVictim (holding .decode) descriptor 3 7 = false ∧
    hostOff (pressed .decode 4 0) = false ∧
    isPreemptVictim light descriptor 3 7 = true ∧
    (let s := light
     (parkEntry (sendLog (seizeEntry s 7) 7) 7 (getF s F.stkCapCtl.swapTier) 1).isSome = true) ∧
    (let s := setF light [(F.stkSwapSlateSize.granules, 0)]
     isPreemptVictim s descriptor 3 7 = true ∧ (parkEntry (sendLog (seizeEntry s 7) 7) 7 (getF s F.stkCapCtl.swapTier) 1) = none) := by
  decide +kernel

theorem witness_SpaceComesBack_of_returns :
    (entryOf parked1 7).state = .parked ∧ preempted (calm parked1) 3 = [7] ∧ underPressure (calm parked1) 3 = false ∧
    preempted ready 3 = [] ∧
    (let s := { parked1 with rqt := { parked1.rqt with restores := [(7, some [88])] } }
     runs s = true ∧ tabGet none s.rqt.restores 7 = some [88] ∧ isWaiting s 7 = false ∧ restoreUsesHost s 7 = false ∧
     (objectBytes s (handleIndex (manifestOf s 7).parked)).map (fun bs =>
       (restorePages (composition .generation) descriptor 7 (parkedPages descriptor bs) (askHost s (odtOf s 9))).1) = some none ∧ heldOf s 7 = []) ∧
    recomputable (calm (dropped (pressed .dropped 2 0))) 3 7 = true ∧ droppedBlocks (dropped (pressed .dropped 2 0)) 7 = [0] ∧
    recomputable ready 3 7 = false ∧ droppedBlocks (pressed .dropped 2 0) 7 = [] ∧
    recomputable (calm (pressed .dropped 2 0)) 3 7 = true := by
  decide +kernel

/-- The object queue holds commands, Slate and Umber have room, and entries 9 to 14 of the ODT stand in the states a command meets. -/
def handleOf (i : Nat) : Nat := 3 * 2 ^ 20 + i
def object (st : ObjState) (a : Nat) : OdtEntry := { generation := 3, state := st, tier := 1, location := a, size := 4096 }
def objects : State :=
  let s := setF (homed .decode) [(F.stkObjSqTail.tail, 3), (F.stkOchreCfg.interleavedGib, 8), (F.sltStatus.capacityGib, 64), (F.flsLogical.logicalUnits, 1000)]
  { s with
    fls := { s.fls with
      state := .ready, map := [(4, some (0, 0))]
      blocks := [(0, { pages := [{ ptype := .data, sequence := 1, unit_ := 4, handle := handleOf 90 }] })] }
    stk := { s.stk with odt :=
      [(9, object .published 8192), (10, object .writable 16384), (11, { object .published 32768 with pinCount := 65535 }),
       (12, { object .published 36864 with pinCount := 2 }),
       (13, { object .publishing 65536 with source := handleOf 10, tag := 77, lease := some 3600 }),
       (14, { object .moving 69632 with newTier := 2, newLocation := 4096, tag := 78, lease := some 3601 })] } }
def order (op tier h a : Nat) : ObjCommand :=
  { bytes := bytes 64 [(0, 1, op), (1, 1, tier), (8, 8, h), (16, 8, a), (24, 8, 4096), (40, 8, 5)] }

theorem witness_ObjectsChange :
    canReadObj objects = true ∧ canReadObj ready = false ∧ ObjTaken objects 1 (order 1 1 0 (2 ^ 36)) ∧ (odtOf objects 1).state = .free ∧
    destStatus objects none 1 (2 ^ 36) 4096 0 0 = none ∧ destStatus objects none 1 4095 4096 0 0 = some 5 ∧
    isCurrent objects (handleOf 9) = true ∧ isCurrent objects (handleOf 70) = false ∧
    ObjTaken objects 2 (order 2 2 (handleOf 10) 0x100000000000) ∧ destStatus objects none 2 0x100000000000 4096 0 0 = none ∧
    ObjTaken objects 3 (order 3 0 (handleOf 10) 0) ∧ ObjTaken objects 4 (order 4 2 (handleOf 9) 0x100000000000) ∧
    destStatus objects (some 9) 2 0x100000000000 4096 0 0 = none ∧ ObjTaken objects 5 (order 5 0 (handleOf 9) 0) ∧
    ObjTaken objects 6 (order 6 0 (handleOf 10) 0) ∧ ObjTaken objects 7 (order 7 0 (handleOf 9) 0) ∧
    ObjTaken objects 8 (order 8 0 (handleOf 12) 0) ∧ (odtOf objects 12).pinCount = 2 ∧ (odtOf objects 9).pinCount = 0 := by
  unfold ObjTaken; decide +kernel

theorem witness_ObjectsChange_of_adopts_and_copies :
    ObjTaken objects 9 (order 9 3 (handleOf 90) 4) ∧ ObjTaken objects 9 (order 9 3 (handleOf 9) 4) ∧ (odtOf objects 90).state = .free ∧
    adoptMatches objects (handleOf 90) 4 (unitsOf 4096) = true ∧ adoptMatches objects (handleOf 91) 4 (unitsOf 4096) = false ∧
    4 + unitsOf 4096 ≤ logicalUnits objects ∧ copyUsesHost objects (handleOf 13) = false ∧
    isCurrent objects (handleOf 13) = true ∧ (odtOf objects 13).state = .publishing ∧ isCurrent objects (handleOf 14) = true ∧
    (odtOf objects 14).state = .moving ∧ (odtOf objects 14).newTier ≠ 3 ∧ isEncrypted (odtOf objects 10) = false ∧
    objects.stk.objWaiting = [] := by
  unfold ObjTaken; decide +kernel

/-! ## The meter and its lane -/

/-- The meter has power, counts composition 3 and has taken frame 4. -/
def metered : State :=
  { atLmc ready (10 ^ 6) with mtr := { ready.mtr with
    powered := true, mtc := 10 ^ 10, lastSeq := 4, comps := [(3, some { body := body 3, seq := 3, since := 5, bound := 7, regionTicks := 8, stackTicks := 9 })] } }
def meterRecord : MeterRecord :=
  { recordNo := 7, boot := 1, type := 9, brokenSeal := true, meterFault := false, mtc := 0, energy := 0, prevHash := 0, body := [], sigR := 0, sigS := 0 }

theorem witness_MeterTakesFrames :
    FrameKept metered feed ∧ meterComp metered 7 = none ∧ (meterComp metered 3).isSome = true ∧ (body 3).package = false ∧
    ({ feed with crcOk := false } : FeedHead).crcOk = false ∧ isSecondCopy metered { feed with seq := 4 } = true ∧
    ({ feed with declared := false } : FeedHead).declared = false := by
  unfold FrameKept; decide +kernel

theorem witness_MeterRunsItself :
    metered.mtr.powered = true ∧ metered.mtr.silent = false ∧ metered.mtr.heard + 100000 ≤ meterNow metered stamp ∧
    meterNow { metered with mtr := { metered.mtr with mtc := 5 } } stamp < metered.mtr.heard + 100000 ∧
    metered.mtr.intervalStart + metered.mtr.intervalS * 10000000 ≤ meterNow metered stamp ∧
    metered.mtr.statusAt + 1000000 ≤ meterNow metered stamp ∧
    feedOn metered = true ∧ metered.lane.msAt + usCounts 1000 ≤ metered.plt.lmc ∧ ready.plt.lmc < ready.lane.msAt + usCounts 1000 ∧
    metered.lane.sentThisMs = false ∧ ({ metered with lane := { metered.lane with sentThisMs := true } } : State).lane.sentThisMs = true ∧
    feedOn { ready with plt := { ready.plt with lmcHeld := true } } = false ∧ metered.plt.mainRails = true ∧
    (atLmc ready (10 ^ 9)).lane.heardAt + usCounts 1000000 ≤ (atLmc ready (10 ^ 9)).plt.lmc ∧ lmcRuns ready = true ∧
    ({ ready with mtr := { ready.mtr with powered := false } } : State).mtr.powered = false ∧ serves ready 15 = true ∧
    tabGet none ({ ready with lane := { ready.lane with mailbox := [(7, some meterRecord)] } } : State).lane.mailbox 7 = some meterRecord ∧
    tabGet none ready.lane.mailbox 7 = none := by
  decide +kernel

theorem witness_MarksChangeNothingElse : metered.mtr.powered = true ∧ ({ ready with mtr := { ready.mtr with powered := false } } : State).mtr.powered = false := by
  decide +kernel

theorem witness_I3cPortAnswers :
    metered.mtr.dynAddr = none ∧ (5 : BitVec 7) ≠ metered.mtr.staticAddr ∧ ({ metered.mtr with dynAddr := some 9 } : Meter).dynAddr ≠ none ∧
    tabGet none ({ metered.mtr with log := [(7, some meterRecord)], pointer := 7 } : Meter).log 7 = some meterRecord := by
  decide +kernel

theorem witness_SilenceClosesEveryCount :
    metered.mtr.powered = true ∧ metered.mtr.silent = false ∧ metered.mtr.heard + 100000 ≤ meterNow metered stamp := by decide +kernel

/-- A host that has enabled MSI-X and leaves vector 3 open. -/
def listening : State :=
  let s := holding .decode
  { s with pcie := { s.pcie with msixEnable := true, functionMask := false, table := [(3, { masked := false })] } }

theorem witness_VectorsSendOneMessage :
    vectorOpen listening 3 = true ∧ vectorOpen ready 3 = false ∧ listening.plt.mainRails = true ∧
    vectorOpen (unmasked { listening with pcie := { listening.pcie with table := [] } } 3) 3 = true ∧
    isSet (setF ready [(F.mtrCtl.notifyEnable, 1)]) F.mtrCtl.notifyEnable = true := by
  decide +kernel

/-! ## Bytes on the wire -/

theorem witness_HeadersReadBack :
    unacked.connection < 2 ^ 32 ∧ unacked.requestId < 2 ^ 64 ∧ block.stageASize < 2 ^ 16 ∧ block.wireSize = block.body.length ∧
    block.slot < 4 ∧ feed.seq < 2 ^ 32 ∧ (body 3).role < 256 ∧ (body 3).kvGranules < 2 ^ 32 ∧ (5 : Nat) < 64 := by
  decide +kernel

end Sys2Proof.Tests
end

section
/-! SUPPORT. Every command answers, and leaves the queue of commands to the step (O2). -/

namespace Sys2Proof.Machine

open Sys2Proof

/-- Bit 0, the queue of commands, is in no command's mask. -/
theorem changes_even (c : Instr) : changes c % 2 = 0 := by
  unfold changes
  split <;> rfl

/-- Settles O2: `keep_exec` gives the next state, and no mask has the queue's bit. -/
theorem everyCommandAnswers : Obligations.EveryCommandAnswers := by
  intro c s
  have hkeep := keep_exec c s
  obtain ⟨t, ht⟩ := hkeep.answers
  have hqueue := (hkeep.of t ht).pending.resolve_left (by simp [changes_even])
  exact ⟨t, ht, hqueue⟩

end Sys2Proof.Machine
end

section
/-! SUPPORT. What a write of one register field does (R14, R15, R17, R19), and the lock bits (R15, R593). -/

namespace Sys2Proof.Machine

open Sys2Proof

/-! ## Lock bits -/

theorem getF_sendSeal (s : State) (f : Field) : getF (sendSeal s) f = getF s f := by
  have hfields : (sendSeal s).fields = s.fields := (keep_sendFeed _ _).fields.resolve_left (by decide)
  unfold getF
  rw [hfields]

/-- The lock bit is set; the SEAL frame touches no field. -/
theorem isSet_setLock (s : State) (f : Field) (hwidth : f.width ≠ 0) : isSet (setLock s f) f = true := by
  unfold setLock
  split
  · next hset => exact hset
  · have hone : getF (putF s f 1) f = 1 := by
      rw [getF_putF_self, Nat.one_mod_two_pow (Nat.pos_of_ne_zero hwidth)]
    dsimp only
    split <;> simp [isSet, getF_sendSeal, hone]

theorem getF_setLock_other (s : State) (f g : Field) (h : g.key ≠ f.key) : getF (setLock s f) g = getF s g := by
  unfold setLock
  split
  · rfl
  · dsimp only
    split
    · rw [getF_sendSeal, getF_putF_other s g f 1 h]
    · exact getF_putF_other s g f 1 h

/-! ## One field written -/

theorem getF_putValid_other (s : State) (f g : Field) (v : Nat) (h : g.key ≠ f.key) : getF (putValid s f v) g = getF s g := by
  have hput := getF_putF_other s g f v h
  unfold putValid
  split
  case h_1 => exact hput
  case h_4 =>
    split
    · exact getF_setLock_other s f g h
    · rfl
  case h_7 =>
    split
    · rfl
    · split
      · rfl
      · exact hput
  all_goals
    split
    · exact hput
    · rfl

/-- A write of a field, whatever its access, leaves every field of another place alone. -/
theorem getF_writeField_other (mask v : Nat) (s : State) (f g : Field) (h : g.key ≠ f.key) :
    getF (writeField mask v s f) g = getF s g := by
  unfold writeField
  dsimp only
  split
  · rfl
  · split
    · rfl
    · exact getF_putF_other s g f _ h
    · split
      · exact getF_putF_other s g f _ h
      · rfl
    · exact getF_putValid_other s f g _ h
    · split
      · rfl
      · exact getF_putValid_other s f g _ h

theorem writeField_ro (mask v : Nat) (s : State) (f : Field) (h : f.access = .ro) : writeField mask v s f = s := by
  simp [writeField, h]

theorem writeField_locked (mask v : Nat) (s : State) (f : Field) (h : f.access = .rwl) (hl : isLocked s (blockOf f.off) = true) :
    writeField mask v s f = s := by
  simp [writeField, h, hl]

/-- An access of 64 bits covers every bit of a field. -/
theorem fullMask_field (lo width : Nat) (h : lo + width ≤ 64) : (2 ^ 64 - 1) / 2 ^ lo % 2 ^ width = 2 ^ width - 1 := by
  apply Nat.eq_of_testBit_eq
  intro i
  rw [Nat.testBit_mod_two_pow, Nat.testBit_div_two_pow, Nat.testBit_two_pow_sub_one, Nat.testBit_two_pow_sub_one]
  by_cases hi : i < width
  · simp [hi, show i + lo < 64 by omega]
  · simp [hi]

/-- Ones written clear a write-one-to-clear field, zeros leave it. -/
theorem getF_writeField_rw1c (s : State) (f : Field) (v : Nat) (h64 : f.lo + f.width ≤ 64) (hcur : getF s f < 2 ^ f.width)
    (huse : fieldInUse s f = false) (h : f.access = .rw1c) :
    getF (writeField (2 ^ 64 - 1) v s f) f = getF s f - (getF s f &&& (v / 2 ^ f.lo % 2 ^ f.width)) := by
  have hmask := fullMask_field f.lo f.width h64
  have hvalue := Nat.and_two_pow_sub_one_of_lt_two_pow (Nat.mod_lt (v / 2 ^ f.lo) (Nat.two_pow_pos f.width))
  unfold writeField
  dsimp only
  rw [hmask, hvalue]
  split
  · next hnone =>
    have hwidth : 2 ^ f.width = 1 := by
      have := Nat.two_pow_pos f.width
      simp [huse] at hnone
      omega
    omega
  · simp only [h]
    rw [getF_putF_self, Nat.mod_eq_of_lt (by omega)]

/-- A read-write field that lists no values takes what is written. -/
theorem getF_writeField_rw (s : State) (f : Field) (v : Nat) (h64 : f.lo + f.width ≤ 64) (hcur : getF s f < 2 ^ f.width)
    (huse : fieldInUse s f = false) (hwidth : f.width ≠ 0) (h : f.access = .rw) (hall : f.valid = .all) :
    getF (writeField (2 ^ 64 - 1) v s f) f = v / 2 ^ f.lo % 2 ^ f.width := by
  have hmask := fullMask_field f.lo f.width h64
  have hsome : 2 ^ f.width - 1 ≠ 0 := by
    have := Nat.one_lt_two_pow hwidth
    omega
  have hvalue := Nat.and_two_pow_sub_one_of_lt_two_pow (Nat.mod_lt (v / 2 ^ f.lo) (Nat.two_pow_pos f.width))
  unfold writeField
  dsimp only
  rw [hmask, hvalue]
  rw [Nat.and_two_pow_sub_one_of_lt_two_pow hcur]
  simp [huse, hsome, h, putValid, hall, getF_putF_self]

/-! ## Runs of fields -/

/-- A fold of field writes keeps a field of a place that none of them has. -/
theorem getF_foldl_writeField (mask v : Nat) (l : List Field) (s : State) (g : Field) (h : ∀ f ∈ l, g.key ≠ f.key) :
    getF (l.foldl (writeField mask v) s) g = getF s g := by
  induction l generalizing s with
  | nil => rfl
  | cons f l ih =>
    rw [List.foldl_cons, ih _ (fun f' hf => h f' (List.mem_cons_of_mem _ hf))]
    exact getF_writeField_other mask v s f g (h f List.mem_cons_self)

theorem off_of_mem_fieldsAt (off : Nat) (f : Field) (h : f ∈ fieldsAt off) : f.off = off := by
  unfold fieldsAt at h
  split at h
  · cases h
  · obtain ⟨g, -, rfl⟩ := List.mem_map.1 h
    rfl

end Sys2Proof.Machine
end

section
/-! SUPPORT. What the end of a command, and the writes of a register that act, leave of the tenant queues and of the ports. -/

namespace Sys2Proof.Machine

open Sys2Proof

/-! ## The submission queues (R259) -/

/-- The submission queue of every tenant stands at the same head and tail. -/
structure SameSq (s t : State) : Prop where
  tail : ∀ n, (queuesOf t n).sqTail = (queuesOf s n).sqTail
  head : ∀ n, (queuesOf t n).sqHead = (queuesOf s n).sqHead

theorem SameSq.refl (s : State) : SameSq s s := ⟨fun _ => rfl, fun _ => rfl⟩

theorem SameSq.trans {s t u : State} (h : SameSq s t) (k : SameSq t u) : SameSq s u :=
  ⟨fun n => (k.tail n).trans (h.tail n), fun n => (k.head n).trans (h.head n)⟩

theorem SameSq.of {s t : State} (h : t.rqt = s.rqt) : SameSq s t := by
  constructor <;> intro n <;> unfold queuesOf <;> rw [h]

/-- What keeps the request table keeps the submission queues. -/
theorem Keep.sameSq {w : Nat} {s t : State} (h : Keep w s t) (hw : w.testBit 11 = false) : SameSq s t :=
  .of (h.rqt.resolve_left (by simp [hw]))

theorem SameSq.foldl {α : Type} (g : State → α → State) (h : ∀ s a, SameSq s (g s a)) (l : List α) (s : State) :
    SameSq s (l.foldl g s) := by
  induction l generalizing s with
  | nil => exact .refl s
  | cons a l ih => exact (h s a).trans (ih _)

theorem queuesOf_setQueues (s : State) (t n : Nat) (q : TenantQueues) :
    queuesOf (setQueues s t q) n = if n = t then q else queuesOf s n :=
  tabGet_put _ _ _ _ _

/-- A queue record that keeps its submission queue may be set. -/
theorem sameSq_setQueues (s : State) (t : Nat) (q : TenantQueues) (htail : q.sqTail = (queuesOf s t).sqTail)
    (hhead : q.sqHead = (queuesOf s t).sqHead) : SameSq s (setQueues s t q) := by
  constructor <;> intro n <;> rw [queuesOf_setQueues] <;> split
  · next e => rw [e, htail]
  · rfl
  · next e => rw [e, hhead]
  · rfl

theorem sameSq_countRecord (s : State) (t : Nat) : SameSq s (countRecord s t) := by
  unfold countRecord
  split
  · exact .refl s
  · dsimp only
    split
    · exact SameSq.trans (sameSq_setQueues s t { queuesOf s t with unsignalled := 0 } rfl rfl) ((keep_signal _ _).sameSq (by decide))
    · exact sameSq_setQueues s t _ rfl rfl

theorem sameSq_writeCompletion (s : State) (t : Nat) (r : Completion) : SameSq s (writeCompletion s t r) := by
  unfold writeCompletion
  extract_lets q last s1 s2
  have h1 : SameSq s s1 := sameSq_setQueues s t _ rfl rfl
  have h2 : SameSq s1 s2 := (keep_postRecord _ _ _ _).sameSq (by decide)
  have h3 : SameSq s2 (noteWritten s2 t q.cqSeq) := (keep_noteWritten _ _ _).sameSq (by decide)
  exact ((h1.trans h2).trans h3).trans (sameSq_countRecord _ t)

theorem sameSq_writeToken (s : State) (t : Nat) (r : TokenRecord) : SameSq s (writeToken s t r) := by
  unfold writeToken
  extract_lets q last s1
  have h1 : SameSq s s1 := sameSq_setQueues s t _ rfl rfl
  exact (h1.trans ((keep_postRecord _ _ _ _).sameSq (by decide))).trans (sameSq_countRecord _ t)

theorem sameSq_flushRecord (t : Nat) (acc : State × List RecordOut) (r : RecordOut) : SameSq acc.1 (flushRecord t acc r).1 := by
  cases r with
  | completion c =>
    unfold flushRecord
    dsimp only
    split
    · exact .refl _
    · exact sameSq_writeCompletion _ _ _
  | token k =>
    unfold flushRecord
    dsimp only
    split
    · exact .refl _
    · exact sameSq_writeToken _ _ _

theorem sameSq_flushRecords (t : Nat) (l : List RecordOut) (acc : State × List RecordOut) :
    SameSq acc.1 (l.foldl (flushRecord t) acc).1 := by
  induction l generalizing acc with
  | nil => exact .refl _
  | cons r l ih => exact (sameSq_flushRecord t acc r).trans (ih _)

/-- A notice is marked in its entry, not in a queue. -/
theorem sameSq_markNotice (w : List RecordOut) (s : State) (n : Nat × Nat) : SameSq s (markNotice w s n) := by
  unfold markNotice
  split
  · exact .refl s
  · exact ⟨fun _ => rfl, fun _ => rfl⟩

theorem sameSq_flushWith (s : State) (t : Nat) (new : List RecordOut) : SameSq s (flushWith s t new) := by
  unfold flushWith
  dsimp only
  refine SameSq.trans ?_ (SameSq.foldl _ (sameSq_markNotice _) _ _)
  refine SameSq.trans ?_ (sameSq_setQueues _ t _ rfl rfl)
  have hstart : SameSq s (setQueues s t { queuesOf s t with waiting := [] }) := sameSq_setQueues s t _ rfl rfl
  exact hstart.trans (sameSq_flushRecords t _ (_, []))

theorem sameSq_twn (s : State) (w : Twin) : SameSq s { s with twn := w } := .of rfl

theorem sameSq_letGo (s : State) (o : HeldOut) : SameSq s (letGo s o) := by
  cases o with
  | record t r => exact sameSq_flushWith s t [r]
  | rst m => exact (keep_transmit s m).sameSq (by decide)

theorem sameSq_releaseHeld (fuel : Nat) (s : State) : SameSq s (releaseHeld fuel s) := by
  induction fuel generalizing s with
  | zero => exact .refl s
  | succ n ih =>
    unfold releaseHeld
    split
    · exact .refl s
    · split
      · exact .refl s
      · exact ((sameSq_twn s _).trans (sameSq_letGo _ _)).trans (ih _)

theorem sameSq_releaseAll (s : State) : SameSq s (releaseAll s) :=
  (sameSq_twn s _).trans (SameSq.foldl letGo sameSq_letGo _ _)

theorem sameSq_mirrorChange (s0 s : State) : SameSq s (mirrorChange s0 s) := by
  unfold mirrorChange
  split
  · split
    · exact .refl s
    · exact sameSq_releaseAll s
  · extract_lets pages s1 _ s2 s3
    have h1 : SameSq s s1 := ((keep_sendChange s _).sameSq (by decide)).trans (sameSq_twn _ _)
    have h2 : SameSq s1 s2 := sameSq_twn s1 _
    have h3 : SameSq s2 s3 := sameSq_releaseHeld _ s2
    exact (((h1.trans h2).trans h3).trans (sameSq_twn s3 _)).trans ((keep_sendChange _ _).sameSq (by decide))

/-- The end of a command writes records and takes none: every submission queue stands as the command left it. -/
theorem sameSq_finish (s0 s : State) : SameSq s (finish s0 s) :=
  ((keep_updatePressure s).sameSq (by decide)).trans (sameSq_mirrorChange s0 _)

/-! ## The ports (R434) -/

/-- Every Roale port stands as before. -/
def SamePorts (s t : State) : Prop := t.lnk.ports = s.lnk.ports

theorem SamePorts.trans {s t u : State} (h : SamePorts s t) (k : SamePorts t u) : SamePorts s u := Eq.trans k h

/-- What keeps the link keeps the ports. -/
theorem Keep.samePorts {w : Nat} {s t : State} (h : Keep w s t) (hw : w.testBit 15 = false) : SamePorts s t :=
  congrArg Link.ports (h.lnk.resolve_left (by simp [hw]))

theorem SamePorts.foldl {α : Type} (g : State → α → State) (h : ∀ s a, SamePorts s (g s a)) (l : List α) (s : State) :
    SamePorts s (l.foldl g s) := by
  induction l generalizing s with
  | nil => rfl
  | cons a l ih => exact (h s a).trans (ih _)

theorem samePorts_setOp (s : State) (r slot : Nat) (x : Option RemoteOp) : SamePorts s (setOp s r slot x) := rfl

theorem samePorts_endFence (s : State) (r t : Nat) : SamePorts s (endFence s r t) := by
  unfold endFence
  split <;> rfl

theorem samePorts_endAtThread (s : State) (r : Nat) (x : RemoteOp) (st : RemoteStatus) : SamePorts s (endAtThread s r x st) := by
  unfold endAtThread
  dsimp only
  split
  · refine SamePorts.trans ?_ (samePorts_endFence _ _ _)
    split <;> rfl
  · rfl

/-- A thread learns of an operation's end, and no port does. -/
theorem samePorts_endOfOp (s : State) (r : Nat) (x : RemoteOp) (st : RemoteStatus) (bs : List Byte) :
    SamePorts s (endAtThread (tellThread s r x st bs) r x st) :=
  ((keep_tellThread s r x st bs).samePorts (by decide)).trans (samePorts_endAtThread _ r x st)

theorem samePorts_noteCoded (s : State) (r slot b : Nat) (blk : CodedBlock) : SamePorts s (noteCoded s r slot b blk) := by
  unfold noteCoded
  split <;> rfl

theorem samePorts_tensorBlock (s : State) (p format b : Nat) (raw : Bool) (data : List Byte) :
    SamePorts s (tensorBlock s p format b raw data).2 :=
  (keep_enterEncode _ _ _).samePorts (by decide)

theorem samePorts_sendOp (s : State) (r slot : Nat) (x : RemoteOp) (blocks : List Nat) (raw : Bool) :
    SamePorts s (sendOp s r slot x blocks raw) := by
  unfold sendOp
  dsimp only
  split
  · exact (keep_enqueue _ _ _).samePorts (by decide)
  · next f _ _ =>
    refine SamePorts.foldl _ (fun u b => ?_) _ _
    have hcoded := (samePorts_tensorBlock u x.port f b raw x.data).trans
      (samePorts_noteCoded _ r slot b (tensorBlock u x.port f b raw x.data).1)
    exact (hcoded.trans ((keep_countBlock _ _).samePorts (by decide))).trans
      ((keep_enqueueBlock _ _ _).samePorts (by decide))

theorem samePorts_placeOp (s : State) (r slot : Nat) (x : RemoteOp) : SamePorts s (placeOp s r slot x) := by
  unfold placeOp
  split
  · dsimp only
    split
    · exact samePorts_endOfOp { s with lnk := { s.lnk with issues := s.lnk.issues + 1 } } r _ .linkDown []
    · exact samePorts_sendOp _ r slot _ _ false
  · exact samePorts_endOfOp s r x .linkDown []
  · exact samePorts_endOfOp s r x .departed []

theorem samePorts_fillSlots (r fuel : Nat) (s : State) : SamePorts s (fillSlots r fuel s) := by
  induction fuel generalizing s with
  | zero => rfl
  | succ n ih =>
    unfold fillSlots
    split
    · rfl
    · next e _ =>
      have hfree : SamePorts s (freeSlot s r).2 := (keep_freeSlot s r).samePorts (by decide)
      dsimp only
      split
      · rfl
      · refine hfree.trans (SamePorts.trans ?_ (ih _))
        refine SamePorts.trans ?_ (samePorts_placeOp _ r _ e.2)
        split <;> rfl

theorem samePorts_completeOp (s : State) (r slot : Nat) (st : RemoteStatus) (bs : List Byte) :
    SamePorts s (completeOp s r slot st bs) := by
  unfold completeOp
  split
  · rfl
  · next x _ =>
    dsimp only
    refine SamePorts.trans ?_ (samePorts_fillSlots r _ _)
    refine SamePorts.trans ?_ (samePorts_endOfOp _ r x st bs)
    split <;> rfl

/-- A port that leaves UP stands in the state that it leaves it for, whatever was in flight on it. -/
theorem portOf_leaveUp (s : State) (p : Nat) (st : PortState) : (portOf (leaveUp s p st) p).state = st := by
  unfold leaveUp
  extract_lets was _ s1 s2
  have hset : (portOf s1 p).state = st := by simp [s1, portOf, setPort]
  split
  · exact hset
  · have hops : SamePorts s1 s2 := SamePorts.foldl _ (fun u (k : Nat × Nat) => samePorts_completeOp u k.1 k.2 .linkDown []) _ s1
    have hall := hops.trans ((keep_notify s2 F.lnkCtl.notifyEnable F.lnkCtl.vector).samePorts (by decide))
    unfold portOf at hset ⊢
    rw [hall]
    exact hset

end Sys2Proof.Machine
end

section
/-! SUPPORT. Registers take writes (O42): what REGISTER_WRITE reaches, and the rows of registers whose writes act. -/

namespace Sys2Proof.Machine

open Sys2Proof

/-! ## REGISTER_WRITE (R18, R592 to R594) -/

/-- An access that BAR 0 does not take: beyond its end, of another width than 4 or 8 bytes, or not aligned. -/
theorem writeBar0_unsupported (s : State) (off width v : Nat)
    (h : 0x04000000 ≤ off ∨ (width ≠ 4 ∧ width ≠ 8) ∨ off % width ≠ 0) :
    writeBar0 s off width v = unsupported s ∧ reachesCommand s off width = false := by
  refine ⟨by rw [writeBar0, if_pos h], ?_⟩
  simp only [reachesCommand, Bool.and_eq_false_iff, Bool.or_eq_false_iff, decide_eq_false_iff_not, beq_eq_false_iff_ne]
  rcases h with hend | hwidth | halign
  · left; left; left; right
    omega
  · left; right
    exact hwidth
  · by_cases hwidth : width = 4 ∨ width = 8
    · left; left; right
      rcases hwidth with rfl | rfl <;> omega
    · left; right
      omega

theorem writeBar0_notServed (s : State) (off width v : Nat) (hoff : off < 0x03000000) (hwidth : width = 4 ∨ width = 8)
    (halign : off % width = 0) (hserves : serves s (blockOf off) = false) : writeBar0 s off width v = s := by
  rw [writeBar0, if_neg (by omega), if_neg (by omega), if_pos (by simp [hserves])]

theorem reachesCommand_notServed (s : State) (off width : Nat) (hserves : serves s (blockOf off) = false) :
    reachesCommand s off width = false := by
  simp [reachesCommand, hserves]

/-- A write of 8 bytes to a block that the part serves reaches the whole register. -/
theorem writeBar0_register (s : State) (off : Nat) (v : BitVec 64) (hoff : off < 0x03000000) (halign : off % 8 = 0)
    (hserves : serves s (blockOf off) = true) :
    writeBar0 s off 8 v.toNat = writeRegister s off (2 ^ 64 - 1) v.toNat := by
  have hnot : ¬(decide (0x03000000 ≤ off) || !serves s (blockOf off)) = true := by simp [hserves]; omega
  rw [writeBar0, if_neg (by omega), if_neg (by omega), if_neg hnot, if_pos rfl, Nat.mod_eq_of_lt v.isLt]

theorem reachesCommand_register (s : State) (off : Nat) (hrails : s.plt.mainRails = true) (hoff : off < 0x03000000)
    (halign : off % 8 = 0) (hserves : serves s (blockOf off) = true) : reachesCommand s off 8 = true := by
  simp [reachesCommand, hrails, hoff, halign, hserves]

/-- A write that names no command ends with its fields set. -/
theorem execRegisterWrite_fields (s : State) (off width : Nat) (v : BitVec 64) (hrails : s.plt.mainRails = true)
    (h : reachesCommand s off width = false ∨ registerCommand (writeBar0 s off width v.toNat) off v.toNat = none) :
    execRegisterWrite off width v s = .next (finish s (writeBar0 s off width v.toNat)) := by
  have hnone : (if reachesCommand s off width then registerCommand (writeBar0 s off width v.toNat) off v.toNat else none) = none := by
    rcases h with h | h <;> simp [h]
  unfold execRegisterWrite
  dsimp only
  rw [hnone]
  simp [hrails, act_taken]

/-- A write that names a command sets its fields, ends, and runs the command (log entry 95). -/
theorem execRegisterWrite_runs (s : State) (off width : Nat) (v : BitVec 64) (run : State → Answer)
    (hreach : reachesCommand s off width = true) (h : registerCommand (writeBar0 s off width v.toNat) off v.toNat = some run) :
    execRegisterWrite off width v s = run (finish s (writeBar0 s off width v.toNat)) := by
  unfold execRegisterWrite
  dsimp only
  rw [if_pos hreach, h]

/-! ## LOCK_SET (R15) -/

theorem isQuiet_lockOf (b : LockBlock) : (lockOf b).isQuiet = true := by
  cases b <;> decide

theorem lockOf_width (b : LockBlock) : (lockOf b).width ≠ 0 := by
  cases b <;> decide

/-- A served block takes its lock bit, and no other field changes. -/
theorem lockSet_served (s : State) (b : LockBlock) (h : serves s (lockBlockNo b) = true) :
    Completes (.lockSet b) s (fun t => isSet t (lockOf b) = true ∧
      ∀ f : Field, f.key ≠ (lockOf b).key → quietField f = true → getF t f = getF s f) := by
  refine ⟨finish s (setLock s (lockOf b)), ?_, ?_, fun f hkey hquiet => ?_⟩
  · change execLockSet b s = _
    rw [execLockSet, h, act_taken]
  · rw [isSet, finish_getF _ _ _ (isQuiet_lockOf b)]
    exact isSet_setLock s _ (lockOf_width b)
  · rw [finish_getF _ _ f hquiet]
    exact getF_setLock_other s _ f hkey

theorem lockSet_notServed (s : State) (b : LockBlock) (h : serves s (lockBlockNo b) = false) :
    exec (.lockSet b) s = .next s := by
  change execLockSet b s = _
  rw [execLockSet, h, act_notTaken]

/-! ## RQT_T_CTL.ENABLE (R259) -/

theorem isQuiet_enable (t : Nat) (h : t < 4096) : (F.rqtTCtl.enable.at t).isQuiet = true := by
  have hkey : (F.rqtTCtl.enable.at t).key = (0x00501020 + 64 * t) * 64 + 0 := rfl
  have hraw : F.codStats.rawBlocks.off = 0x00800000 + (F.codStats.rawBlocks.off - 0x00800000) := by decide
  have hcoded : F.codStats.codedBlocks.off = 0x00800000 + (F.codStats.codedBlocks.off - 0x00800000) := by decide
  have hrawKey : F.codStats.rawBlocks.key = F.codStats.rawBlocks.off * 64 + F.codStats.rawBlocks.lo := rfl
  have hcodedKey : F.codStats.codedBlocks.key = F.codStats.codedBlocks.off * 64 + F.codStats.codedBlocks.lo := rfl
  simp only [Field.isQuiet, Field.isTold, hkey, hrawKey, hcodedKey, Bool.and_eq_true, Bool.or_eq_true, decide_eq_true_eq, bne_iff_ne]
  omega

/-- The other fields of a tenant's RQT_T_CTL, as a write of the register takes them. -/
def writeTenantRest (s : State) (t value : Nat) : State :=
  ((fieldsAt (F.rqtTCtl.enable.at t).off).filter (fun f => f.lo != 0)).foldl (writeField (2 ^ 64 - 1) value) s

theorem writeTenantCtl_full (s : State) (t value : Nat) :
    writeTenantCtl s t (2 ^ 64 - 1) value = writeEnable (writeTenantRest s t value) t (value % 2 == 1) := rfl

/-- ENABLE stands at bit 0 of the register, where no other field does. -/
theorem isSet_writeTenantRest (s : State) (t value : Nat) :
    isSet (writeTenantRest s t value) (F.rqtTCtl.enable.at t) = isSet s (F.rqtTCtl.enable.at t) := by
  unfold isSet writeTenantRest
  rw [getF_foldl_writeField]
  intro f hf
  obtain ⟨hmem, hlo⟩ := List.mem_filter.1 hf
  have hoff := off_of_mem_fieldsAt _ f hmem
  have hzero : (F.rqtTCtl.enable.at t).lo = 0 := rfl
  have hlo' : f.lo ≠ 0 := by simpa using hlo
  unfold Field.key
  rw [hoff, hzero]
  omega

theorem rqt_writeTenantRest (s : State) (t value : Nat) : (writeTenantRest s t value).rqt = s.rqt :=
  (Keep.foldl (Keep.refl 6291716 s) (fun u f => keep_writeField _ _ u f)).rqt.resolve_left (by decide)

theorem isSet_writeEnable_on (s : State) (t : Nat) : isSet (writeEnable s t true) (F.rqtTCtl.enable.at t) = true := by
  simp only [writeEnable]
  split
  · next hset => simpa using hset.symm
  · rw [if_pos trivial, isSet, getF_putF_self]
    rfl

/-- ENABLE from 0 to 1 restarts the queues. -/
theorem queuesOf_writeEnable_on (s : State) (t : Nat) (h : isSet s (F.rqtTCtl.enable.at t) = false) :
    queuesOf (writeEnable s t true) t = {} := by
  have hrestart : writeEnable s t true = putF (setQueues s t {}) (F.rqtTCtl.enable.at t) 1 := by simp [writeEnable, h]
  rw [hrestart]
  exact (queuesOf_setQueues s t t {}).trans (if_pos rfl)

/-- ENABLE stays while the tenant holds an entry. -/
theorem writeEnable_off_held (s : State) (t : Nat)
    (hheld : s.rqt.entries.any (fun e => e.2.state != .free && e.2.tenant.val == t) = true) : writeEnable s t false = s := by
  simp only [writeEnable, hheld]
  split <;> simp

/-- ENABLE of a tenant without an entry is cleared, or was clear. -/
theorem isSet_writeEnable_off (s : State) (t : Nat)
    (hfree : s.rqt.entries.any (fun e => e.2.state != .free && e.2.tenant.val == t) = false) :
    isSet (writeEnable s t false) (F.rqtTCtl.enable.at t) = false := by
  simp only [writeEnable, hfree]
  split
  · next hclear => simpa using hclear.symm
  · simp [isSet, getF_putF_self]

theorem exec_rqtTCtlEnable (s : State) (tn : Tenant) (v : BitVec 64) (h : serves s 5 = true) :
    exec (.rqtTCtlEnable tn v) s =
      .next (finish s (writeEnable (writeTenantRest s tn.val v.toNat) tn.val (v.getLsbD 0))) := by
  have hbit : (v.toNat % 2 == 1) = v.getLsbD 0 := by
    rw [BitVec.getLsbD, Nat.testBit_zero, beq_eq_decide]
  change execRqtTCtlEnable tn v s = _
  rw [execRqtTCtlEnable, h, act_taken, writeTenantCtl_full, hbit]

theorem isSet_finish_enable (s0 s : State) (tn : Tenant) :
    isSet (finish s0 s) (F.rqtTCtl.enable.at tn.val) = isSet s (F.rqtTCtl.enable.at tn.val) := by
  rw [isSet, finish_getF _ _ _ (isQuiet_enable tn.val tn.isLt), isSet]

theorem rqtTCtlEnable_on (s : State) (tn : Tenant) (v : BitVec 64) (hserves : serves s 5 = true) (hbit : v.getLsbD 0 = true)
    (hclear : isSet s (F.rqtTCtl.enable.at tn.val) = false) :
    Completes (.rqtTCtlEnable tn v) s (fun t => isSet t (F.rqtTCtl.enable.at tn.val) = true ∧
      (queuesOf t tn.val).sqTail = 0 ∧ (queuesOf t tn.val).sqHead = 0) := by
  have hrest := (isSet_writeTenantRest s tn.val v.toNat).trans hclear
  refine ⟨_, exec_rqtTCtlEnable s tn v hserves, ?_⟩
  have hqueues := queuesOf_writeEnable_on _ _ hrest
  have hsq := sameSq_finish s (writeEnable (writeTenantRest s tn.val v.toNat) tn.val true)
  rw [hbit]
  refine ⟨?_, ?_, ?_⟩
  · rw [isSet_finish_enable]
    exact isSet_writeEnable_on _ _
  · rw [hsq.tail, hqueues]
  · rw [hsq.head, hqueues]

theorem rqtTCtlEnable_off_held (s : State) (tn : Tenant) (v : BitVec 64) (hserves : serves s 5 = true) (hbit : v.getLsbD 0 = false)
    (hset : isSet s (F.rqtTCtl.enable.at tn.val) = true)
    (hheld : s.rqt.entries.any (fun e => e.2.state != .free && e.2.tenant.val == tn.val) = true) :
    Completes (.rqtTCtlEnable tn v) s (fun t => isSet t (F.rqtTCtl.enable.at tn.val) = true) := by
  refine ⟨_, exec_rqtTCtlEnable s tn v hserves, ?_⟩
  rw [hbit, writeEnable_off_held _ _ (by rw [rqt_writeTenantRest]; exact hheld)]
  beta_reduce
  rw [isSet_finish_enable, isSet_writeTenantRest]
  exact hset

theorem rqtTCtlEnable_off_free (s : State) (tn : Tenant) (v : BitVec 64) (hserves : serves s 5 = true) (hbit : v.getLsbD 0 = false)
    (hfree : s.rqt.entries.any (fun e => e.2.state != .free && e.2.tenant.val == tn.val) = false) :
    Completes (.rqtTCtlEnable tn v) s (fun t => isSet t (F.rqtTCtl.enable.at tn.val) = false) := by
  refine ⟨_, exec_rqtTCtlEnable s tn v hserves, ?_⟩
  rw [hbit]
  beta_reduce
  rw [isSet_finish_enable]
  exact isSet_writeEnable_off _ _ (by rw [rqt_writeTenantRest]; exact hfree)

/-! ## PORT_CFG_WRITE (R414) -/

theorem portOf_finish (s0 s : State) (p : Nat) : portOf (finish s0 s) p = portOf s p := by
  unfold portOf
  rw [finish_lnk]

/-- A write of the whole register covers MODE and MEDIUM, so that a port that is UP retrains. -/
theorem writePortCfg_up (s : State) (p value : Nat) (h : (portOf s p).state = .up) :
    writePortCfg s p (2 ^ 64 - 1) value =
      leaveUp (writeFields s (F.lnkPortCfg.mode.at p).off (2 ^ 64 - 1) value) p .training := by
  have hlnk := (keep_writeFields s (F.lnkPortCfg.mode.at p).off (2 ^ 64 - 1) value).lnk.resolve_left (by decide)
  have hup : (portOf (writeFields s (F.lnkPortCfg.mode.at p).off (2 ^ 64 - 1) value) p).state = .up := by
    rw [portOf, hlnk]
    exact h
  have hcovers : ((2 ^ 64 - 1) % 64 != 0) = true := by decide
  unfold writePortCfg
  dsimp only
  rw [hcovers, hup]
  rfl

theorem portCfgWrite_up (s : State) (p : RoalePort) (v : BitVec 64) (hserves : serves s 10 = true)
    (hup : (portOf s p.val).state = .up) :
    Completes (.portCfgWrite p v) s (fun t => (portOf t p.val).state = .training) := by
  refine ⟨finish s (writePortCfg s p.val (2 ^ 64 - 1) v.toNat), ?_, ?_⟩
  · change execPortCfgWrite p v s = _
    rw [execPortCfgWrite, hserves, act_taken]
  · rw [writePortCfg_up s p.val _ hup]
    exact (congrArg Port.state (portOf_finish _ _ _)).trans (portOf_leaveUp _ _ _)

/-! ## VECTOR_UNMASK (R600) -/

theorem masked_unmasked (s : State) (k : Nat) : (tabGet {} (unmasked s k).pcie.table k).masked = false := by
  simp [unmasked]

theorem releaseVector_table (s : State) (k : Nat) : (releaseVector s k).pcie.table = s.pcie.table := by
  unfold releaseVector
  split <;> rfl

/-- A Pending Bit whose vector may send sends its message. -/
theorem releaseVector_out (s : State) (k : Nat) (hpending : tabGet false s.pcie.pending k = true) (hopen : vectorOpen s k = true) :
    (releaseVector s k).out = .msix k :: s.out := by
  rw [releaseVector, hpending, hopen]
  rfl

/-- A vector may send once its Mask bit is clear, where the host has enabled it. -/
theorem vectorOpen_unmasked (s : State) (k : Nat) (hhost : hostOff s = false) (henable : s.pcie.msixEnable = true)
    (hfunction : s.pcie.functionMask = false) (hext : k < 2048 ∨ isSet s F.pltPcieCtl.vectorExt = true) :
    vectorOpen (unmasked s k) k = true := by
  have hhost' : hostOff (unmasked s k) = false := hhost
  have henable' : (unmasked s k).pcie.msixEnable = true := henable
  have hfunction' : (unmasked s k).pcie.functionMask = false := hfunction
  have hext' : k < 2048 ∨ isSet (unmasked s k) F.pltPcieCtl.vectorExt = true := hext
  simpa [vectorOpen, hhost', henable', hfunction', masked_unmasked] using hext'

theorem finish_table (s0 s : State) : (finish s0 s).pcie.table = s.pcie.table := by
  have h := (finished_finish s0 s).told.pcie
  rw [h]

theorem vectorUnmask_completes (s : State) (k : Fin 4160) (hrails : s.plt.mainRails = true) :
    Completes (.vectorUnmask k) s (fun t =>
      (tabGet {} t.pcie.table k.val).masked = false ∧
      (tabGet false s.pcie.pending k.val = true → hostOff s = false → s.pcie.msixEnable = true → s.pcie.functionMask = false →
        (k.val < 2048 ∨ isSet s F.pltPcieCtl.vectorExt = true) → Sends s t (.msix k.val))) := by
  refine ⟨finish s (releaseVector (unmasked s k.val) k.val), ?_, ?_, ?_⟩
  · change execVectorUnmask k s = _
    rw [execVectorUnmask, hrails, act_taken]
    rfl
  · rw [finish_table, releaseVector_table]
    exact masked_unmasked s k.val
  · intro hpending hhost henable hfunction hext
    have hopen := vectorOpen_unmasked s k.val hhost henable hfunction hext
    obtain ⟨l, hl⟩ := finish_out s (releaseVector (unmasked s k.val) k.val)
    have hsent : (releaseVector (unmasked s k.val) k.val).out = .msix k.val :: s.out := releaseVector_out _ _ hpending hopen
    exact ⟨l, [], by rw [hl, hsent, List.nil_append]⟩

/-! ## The obligation -/

/-- Settles O42, a lemma for each access and row above: field writes by access, REGISTER_WRITE by what it reaches, then the rows of
registers whose writes act. -/
theorem registersTakeWrites : Obligations.RegistersTakeWrites := by
  refine ⟨?_, ?_, lockSet_served, lockSet_notServed, ?_, ?_, ?_⟩
  · intro s f v h64 _ hcur huse
    exact ⟨writeField_ro _ v s f, getF_writeField_rw1c s f v h64 hcur huse, writeField_locked _ v s f,
      getF_writeField_rw s f v h64 hcur huse, fun g hkey _ _ => getF_writeField_other _ v s f g hkey⟩
  · intro s v
    refine ⟨?_, ?_, ?_, ?_⟩
    · intro off width hrails h
      obtain ⟨hwritten, hreach⟩ := writeBar0_unsupported s off width v.toNat h
      exact (execRegisterWrite_fields s off width v hrails (.inl hreach)).trans (by rw [hwritten])
    · intro off width hrails hoff hwidth halign hserves
      have hreach := reachesCommand_notServed s off width hserves
      exact (execRegisterWrite_fields s off width v hrails (.inl hreach)).trans
        (by rw [writeBar0_notServed s off width _ hoff hwidth halign hserves])
    · intro off hrails hoff halign hserves hnone
      have hwritten := writeBar0_register s off v hoff halign hserves
      exact (execRegisterWrite_fields s off 8 v hrails (.inr (by rw [hwritten]; exact hnone))).trans (by rw [hwritten])
    · intro off run hrails hoff halign hserves hrun
      have hwritten := writeBar0_register s off v hoff halign hserves
      have hreach := reachesCommand_register s off hrails hoff halign hserves
      exact (execRegisterWrite_runs s off 8 v run hreach (by rw [hwritten]; exact hrun)).trans (by rw [hwritten])
  · intro s tn v hserves
    exact ⟨rqtTCtlEnable_on s tn v hserves, rqtTCtlEnable_off_held s tn v hserves, rqtTCtlEnable_off_free s tn v hserves⟩
  · intro s p v hserves hup
    exact portCfgWrite_up s p v hserves hup
  · exact vectorUnmask_completes

end Sys2Proof.Machine
end

section
/-! SUPPORT. A step takes the command at the front of the queue, and an empty queue is one count of the LMC (O1). -/

namespace Sys2Proof.Machine

open Sys2Proof

theorem step_cons (c : Instr) (rest : List Instr) (s : State) (h : s.pending = c :: rest) :
    step s = exec c { s with pending := rest } := by
  rw [step, h]

theorem step_nil (s : State) (h : s.pending = []) : step s = .next (tick s) := by
  rw [step, h]

/-- Settles O1: one equation of `step` for each form of the queue; `tick` is the one count. -/
theorem stepRunsFront : Obligations.StepRunsFront :=
  ⟨step_cons, step_nil⟩

end Sys2Proof.Machine
end

section
/-! SUPPORT. A signalled event whose vector may send leaves the part as a message, and stays sent at the command's end (R600). -/

namespace Sys2Proof.Machine

open Sys2Proof

/-! ## The vector that a register names -/

/-- Whether a vector may send rests on the endpoint's state, DL_UP and VECTOR_EXT alone. -/
theorem vectorOpen_congr {s t : State} (k : Nat) (hpcie : t.pcie = s.pcie) (hup : getF t F.pltPcieLink.dlUp = getF s F.pltPcieLink.dlUp)
    (hext : getF t F.pltPcieCtl.vectorExt = getF s F.pltPcieCtl.vectorExt) : vectorOpen t k = vectorOpen s k := by
  simp only [vectorOpen, hostOff, isSet, hpcie, hup, hext]

/-- A command that is taken completes in what the end of its effect leaves. -/
theorem completes_act {c : Instr} {s : State} {taken : Bool} {effect : State → State} {P : State → Prop}
    (hexec : exec c s = act s taken effect) (htaken : taken = true) (h : P (finish s (effect s))) : Completes c s P := by
  rw [htaken, act_taken] at hexec
  exact ⟨_, hexec, h⟩

theorem notify_out (s : State) (enable vector : Field) (hset : isSet s enable = true) (hopen : vectorOpen s (getF s vector) = true) :
    (notify s enable vector).out = .msix (getF s vector) :: s.out := by
  rw [notify, if_pos hset, signal, if_pos hopen, emit]

/-- What an effect sends last is among what its command sends. -/
theorem sends_finish {s u : State} {o : Output} (h : u.out = o :: s.out) : Sends s (finish s u) o := by
  obtain ⟨l, hl⟩ := finish_out s u
  exact ⟨l, [], by rw [hl, h, List.nil_append]⟩

/-- An effect that leaves alone the endpoint and the fields that a signal reads sends the message that the state before would. -/
theorem sends_finish_notify {s u : State} (enable vector : Field) (hout : u.out = s.out) (hpcie : u.pcie = s.pcie)
    (hfield : ∀ f ∈ [enable, vector, F.pltPcieLink.dlUp, F.pltPcieCtl.vectorExt], getF u f = getF s f)
    (hset : isSet s enable = true) (hopen : vectorOpen s (getF s vector) = true) :
    Sends s (finish s (notify u enable vector)) (.msix (getF s vector)) := by
  have henable : getF u enable = getF s enable := hfield _ (by simp)
  have hvector : getF u vector = getF s vector := hfield _ (by simp)
  have hset' : isSet u enable = true := by rw [isSet, henable]; exact hset
  have hopen' : vectorOpen u (getF u vector) = true := by
    rw [hvector, vectorOpen_congr _ hpcie (hfield _ (by simp)) (hfield _ (by simp))]
    exact hopen
  refine sends_finish ?_
  rw [notify_out u enable vector hset' hopen', hvector, hout]

/-! ## The signal of PWR_CTL (R588) -/

@[simp] theorem pwrNotify_pwr (s : State) : (pwrNotify s).pwr = s.pwr := (told_notify s _ _).pwr

theorem getF_pwrNotify (s : State) (f : Field) (h : f.isTold = true) : getF (pwrNotify s) f = getF s f :=
  (told_notify s _ _).field f h

end Sys2Proof.Machine
end

section
/-! SUPPORT. Readings act (O17): the input supply, the temperatures, pacing and the reference clock. -/

namespace Sys2Proof.Machine

open Sys2Proof

/-! ## The input supply (R571) -/

/-- A reading stands in VIN56_MV; VIN56_LOW changes, with a signal, where it did not tell of the reading already. -/
theorem readVin56_cases (s : State) (mv : Nat) :
    (getF s F.pwrStatus.vin56Low = boolCode (decide (mv < 50000)) ∧ readVin56 s mv = putF s F.pwrInput.vin56Mv mv) ∨
    (getF s F.pwrStatus.vin56Low ≠ boolCode (decide (mv < 50000)) ∧
      readVin56 s mv = pwrNotify (putF (putF s F.pwrInput.vin56Mv mv) F.pwrStatus.vin56Low (boolCode (decide (mv < 50000))))) := by
  have hlow : getF (putF s F.pwrInput.vin56Mv mv) F.pwrStatus.vin56Low = getF s F.pwrStatus.vin56Low :=
    getF_putF_other _ _ _ _ (by decide)
  simp only [readVin56, hlow]
  split
  · next h => exact .inl ⟨h, rfl⟩
  · next h => exact .inr ⟨h, rfl⟩

theorem readVin56_mv (s : State) (mv : Nat) (h : mv < 2 ^ 16) : getF (readVin56 s mv) F.pwrInput.vin56Mv = mv := by
  have hread : getF (putF s F.pwrInput.vin56Mv mv) F.pwrInput.vin56Mv = mv :=
    (getF_putF_self _ _ _).trans (Nat.mod_eq_of_lt (h.trans (by decide)))
  obtain ⟨-, heq⟩ | ⟨-, heq⟩ := readVin56_cases s mv
  · rw [heq, hread]
  · rw [heq, getF_pwrNotify _ _ (by decide), getF_putF_other _ _ _ _ (by decide), hread]

theorem readVin56_low (s : State) (mv : Nat) :
    getF (readVin56 s mv) F.pwrStatus.vin56Low = boolCode (decide (mv < 50000)) := by
  obtain ⟨hlow, heq⟩ | ⟨-, heq⟩ := readVin56_cases s mv
  · rw [heq, getF_putF_other _ _ _ _ (by decide), hlow]
  · have hbit : boolCode (decide (mv < 50000)) < 2 ^ F.pwrStatus.vin56Low.width := by
      cases decide (mv < 50000) <;> decide
    rw [heq, getF_pwrNotify _ _ (by decide), getF_putF_self, Nat.mod_eq_of_lt hbit]

/-- What a reading of the input supply leaves, once its command has ended. -/
theorem finish_readVin56 (s : State) (mv : Nat) (h : mv < 2 ^ 16) :
    getF (finish s (readVin56 s mv)) F.pwrInput.vin56Mv = mv ∧
    getF (finish s (readVin56 s mv)) F.pwrStatus.vin56Low = boolCode (decide (mv < 50000)) ∧
    (finish s (readVin56 s mv)).pwr = s.pwr ∧ (finish s (readVin56 s mv)).plt = s.plt := by
  have hkeep := keep_readVin56 s mv
  rw [finish_getF _ _ _ (by decide), finish_getF _ _ _ (by decide), finish_pwr, finish_plt]
  exact ⟨readVin56_mv s mv h, readVin56_low s mv, hkeep.pwr.resolve_left (by decide), hkeep.plt.resolve_left (by decide)⟩

/-- VIN56_LOW's rise is signalled. -/
theorem sends_readVin56 (s : State) (mv : Nat) (hmv : mv < 50000) (hlow : getF s F.pwrStatus.vin56Low = 0)
    (hset : isSet s F.pwrCtl.notifyEnable = true) (hopen : vectorOpen s (getF s F.pwrCtl.vector) = true) :
    Sends s (finish s (readVin56 s mv)) (.msix (getF s F.pwrCtl.vector)) := by
  have hone : boolCode (decide (mv < 50000)) = 1 := by rw [decide_eq_true hmv]; rfl
  obtain ⟨hsame, -⟩ | ⟨-, heq⟩ := readVin56_cases s mv
  · rw [hlow, hone] at hsame
    cases hsame
  · rw [heq, pwrNotify]
    refine sends_finish_notify _ _ rfl rfl (fun f hf => ?_) hset hopen
    have hother : f.key ≠ F.pwrStatus.vin56Low.key ∧ f.key ≠ F.pwrInput.vin56Mv.key := by
      revert f
      decide
    rw [getF_putF_other _ _ _ _ hother.1, getF_putF_other _ _ _ _ hother.2]

theorem vin56Low_completes (s : State) (mv : Nat) (hrails : s.plt.mainRails = true) (h16 : mv < 2 ^ 16) (hlo : 47000 ≤ mv)
    (hhi : mv < 50000) : Completes (.vin56Low mv) s (fun t =>
      getF t F.pwrInput.vin56Mv = mv ∧ getF t F.pwrStatus.vin56Low = 1 ∧ t.pwr = s.pwr ∧ t.plt = s.plt ∧
      (getF s F.pwrStatus.vin56Low = 0 → isSet s F.pwrCtl.notifyEnable = true → vectorOpen s (getF s F.pwrCtl.vector) = true →
        Sends s t (.msix (getF s F.pwrCtl.vector)))) := by
  obtain ⟨hread, hlow, hpwr, hplt⟩ := finish_readVin56 s mv h16
  rw [decide_eq_true hhi] at hlow
  have hexec : exec (.vin56Low mv) s = execVin56Low mv s := rfl
  rw [execVin56Low] at hexec
  refine completes_act hexec ?_ ⟨hread, hlow, hpwr, hplt, sends_readVin56 s mv hhi⟩
  simp [hrails, hlo, hhi]

theorem vin56InRange_completes (s : State) (mv : Nat) (hrails : s.plt.mainRails = true) (h16 : mv < 2 ^ 16) (hlo : 50000 ≤ mv) :
    Completes (.vin56InRange mv) s (fun t =>
      getF t F.pwrInput.vin56Mv = mv ∧ getF t F.pwrStatus.vin56Low = 0 ∧ t.pwr = s.pwr ∧ t.plt = s.plt) := by
  obtain ⟨hread, hlow, hpwr, hplt⟩ := finish_readVin56 s mv h16
  rw [decide_eq_false (by omega)] at hlow
  have hexec : exec (.vin56InRange mv) s = execVin56InRange mv s := rfl
  rw [execVin56InRange] at hexec
  refine completes_act hexec ?_ ⟨hread, hlow, hpwr, hplt⟩
  simp [hrails, hlo]

/-! ## Pacing (R573, R575, R586) -/

/-- The change of pacing counts time and is signalled; what paces the part stands. -/
theorem pacingEdge_causes (before : Bool) (s : State) :
    (pacingEdge before s).pwr.throttled = s.pwr.throttled ∧ (pacingEdge before s).pwr.limitPacing = s.pwr.limitPacing := by
  unfold pacingEdge
  dsimp only
  split
  · exact ⟨rfl, rfl⟩
  · split <;> rw [pwrNotify_pwr] <;> exact ⟨rfl, rfl⟩

theorem throttleDie_throttled (s : State) (d : Nat) (on : Bool) :
    (throttleDie s d on).pwr.throttled = tabPut false s.pwr.throttled d on := by
  unfold throttleDie
  dsimp only
  rw [(pacingEdge_causes _ _).1]
  split
  · rfl
  · rw [pwrNotify_pwr]
    split
    · rw [(keep_satF _ _).pwr.resolve_left (by decide)]
    · rfl

theorem any_of_tabGet (m : Tab Bool) (k : Nat) (h : tabGet false m k = true) : m.any (·.2) = true := by
  induction m with
  | nil => cases h
  | cons e m ih =>
    obtain ⟨k', v⟩ := e
    rw [tabGet] at h
    rw [List.any_cons, Bool.or_eq_true]
    split at h
    · exact .inl h
    · exact .inr (ih h)

/-- A die that throttles paces the part. -/
theorem pacing_of_throttled (s : State) (d : Nat) (h : tabGet false s.pwr.throttled d = true) : pacing s = true := by
  rw [pacing, any_of_tabGet _ d h, Bool.or_true]

@[simp] theorem readDie_pwr (s : State) (d : Nat) (r : Int) : (readDie s d r).pwr = s.pwr := rfl

/-- What a die's throttling leaves, once its command has ended: the die's mark is as asked, every other stands. -/
theorem finish_throttleDie (s : State) (d : Nat) (r : Int) (on : Bool) :
    tabGet false (finish s (throttleDie (readDie s d r) d on)).pwr.throttled d = on ∧
    (finish s (throttleDie (readDie s d r) d on)).plt = s.plt ∧ (finish s (throttleDie (readDie s d r) d on)).fab = s.fab ∧
    ∀ e, e ≠ d → tabGet false (finish s (throttleDie (readDie s d r) d on)).pwr.throttled e = tabGet false s.pwr.throttled e := by
  have hkeep := keep_throttleDie (readDie s d r) d on
  rw [finish_plt, finish_fab, finish_pwr, throttleDie_throttled, readDie_pwr]
  exact ⟨tabGet_put_self _ _ _ _, hkeep.plt.resolve_left (by decide), hkeep.fab.resolve_left (by decide),
    fun e he => tabGet_put_other _ _ _ he⟩

theorem throttling_completes (s : State) (d : Die) (r : Int) (hrails : s.plt.mainRails = true) (h : 95 ≤ r) :
    Completes (.throttling d r) s (fun t =>
      tabGet false t.pwr.throttled (dieNo d) = true ∧ pacing t = true ∧ t.plt = s.plt ∧ t.fab = s.fab ∧
      (∀ e, e ≠ dieNo d → tabGet false t.pwr.throttled e = tabGet false s.pwr.throttled e)) := by
  obtain ⟨hdie, hplt, hfab, hothers⟩ := finish_throttleDie s (dieNo d) r true
  have hexec : exec (.throttling d r) s = execThrottling d r s := rfl
  rw [execThrottling] at hexec
  refine completes_act hexec ?_ ⟨hdie, pacing_of_throttled _ _ hdie, hplt, hfab, hothers⟩
  rw [hrails, Bool.true_and, decide_eq_true (by omega)]

theorem throttlingEnd_completes (s : State) (d : Die) (r : Int) (hrails : s.plt.mainRails = true) (h : r < 92) :
    Completes (.throttlingEnd d r) s (fun t =>
      tabGet false t.pwr.throttled (dieNo d) = false ∧ t.plt = s.plt ∧ t.fab = s.fab ∧
      (∀ e, e ≠ dieNo d → tabGet false t.pwr.throttled e = tabGet false s.pwr.throttled e)) := by
  have hexec : exec (.throttlingEnd d r) s = execThrottlingEnd d r s := rfl
  rw [execThrottlingEnd] at hexec
  refine completes_act hexec ?_ (finish_throttleDie s (dieNo d) r false)
  rw [hrails, Bool.true_and, decide_eq_true (by omega)]

theorem pacingChange_completes (s : State) (on : Bool) (hrails : s.plt.mainRails = true) :
    Completes (.pacingChange on) s (fun t => t.pwr.limitPacing = on ∧ t.pwr.throttled = s.pwr.throttled ∧ t.plt = s.plt) := by
  have hexec : exec (.pacingChange on) s = execPacingChange on s := rfl
  rw [execPacingChange] at hexec
  refine completes_act hexec hrails ?_
  rw [finish_plt, finish_pwr]
  obtain ⟨hthrottled, hlimit⟩ := pacingEdge_causes (pacing s) { s with pwr := { s.pwr with limitPacing := on } }
  exact ⟨hlimit, hthrottled, (keep_pacingEdge _ _).plt.resolve_left (by decide)⟩

/-! ## Bounds not guaranteed and the refresh of a stack (R11, R584) -/

/-- The first reading above 100 °C sets BNG_EVENT and marks its die. -/
theorem boundsNotGuaranteed_completes (s : State) (d : Die) (r : Int) (hrails : s.plt.mainRails = true) (h : 100 ≤ r)
    (hcool : s.pwr.overHot = []) : Completes (.boundsNotGuaranteed d r) s (fun t =>
      getF t F.pwrStatus.bngEvent = 1 ∧ tabGet false t.pwr.overHot (dieNo d) = true) := by
  have hmark : tabPut false [] (dieNo d) true = [(dieNo d, true)] := rfl
  have hexec : exec (.boundsNotGuaranteed d r) s = execBoundsNotGuaranteed d r s := rfl
  rw [execBoundsNotGuaranteed] at hexec
  refine completes_act hexec hrails ?_
  simp only [readDie_pwr, hcool, decide_eq_true (show (100 : Int) < r + 1 by omega), hmark, List.any_nil, List.any_cons, Bool.true_or,
    Bool.false_beq, Bool.not_true, Bool.false_eq_true, if_false, if_true]
  rw [finish_getF _ _ _ (by decide), getF_pwrNotify _ _ (by decide), getF_putF_self, finish_pwr, pwrNotify_pwr]
  exact ⟨rfl, tabGet_ins_self false [] (dieNo d) true⟩

theorem stackRefreshRate_completes (s : State) (st : StackNo) (r : Int) (hrails : s.plt.mainRails = true) :
    Completes (.stackRefreshRate st r) s (fun t =>
      (85 ≤ r → tabGet false t.pwr.fastRefresh st.val = true) ∧ (r < 82 → tabGet false t.pwr.fastRefresh st.val = false) ∧
      (82 ≤ r → r < 85 → t.pwr.fastRefresh = s.pwr.fastRefresh)) := by
  have hexec : exec (.stackRefreshRate st r) s = execStackRefreshRate st r s := rfl
  rw [execStackRefreshRate] at hexec
  refine completes_act hexec hrails ?_
  rw [finish_pwr]
  by_cases hfast : 85 < r + 1
  · simp only [if_pos hfast]
    exact ⟨fun _ => tabGet_put_self _ _ _ _, by omega, by omega⟩
  · simp only [if_neg hfast]
    by_cases hbase : r + 1 < 83
    · simp only [if_pos hbase]
      exact ⟨by omega, fun _ => tabGet_put_self _ _ _ _, by omega⟩
    · simp only [if_neg hbase]
      exact ⟨by omega, by omega, fun _ _ => rfl⟩

/-! ## The reference clock (R59) -/

theorem refclkLoss_completes (s : State) (hrails : s.plt.mainRails = true) (hruns : s.plt.lmcHeld = false) :
    Completes .refclkLoss s (fun t =>
      t.plt = { s.plt with lmcHeld := true } ∧ getF t F.pltStatus.refclkEvent = 1 ∧
      (isSet s F.pltCtl.notifyEnable = true → vectorOpen s (getF s F.pltCtl.vector) = true →
        Sends s t (.msix (getF s F.pltCtl.vector)))) := by
  have hexec : exec .refclkLoss s = execRefclkLoss s := rfl
  rw [execRefclkLoss] at hexec
  refine completes_act hexec (by simp [hrails, hruns]) ⟨?_, ?_, sends_finish_notify _ _ rfl rfl (fun f hf => ?_)⟩
  · rw [finish_plt, (told_notify _ _ _).plt]
    rfl
  · rw [finish_getF _ _ _ (by decide), (told_notify _ _ _).field _ (by decide)]
    exact getF_putF_self _ _ _
  · have hother : f.key ≠ F.pltStatus.refclkEvent.key := by
      revert f
      decide
    exact getF_putF_other _ _ _ _ hother

theorem refclkReturn_effect (s : State) : Effect .refclkReturn s { s with plt := { s.plt with lmcHeld := false } } := by
  change execRefclkReturn s = _
  rw [execRefclkReturn, act_taken]

/-! ## The obligation -/

/-- Settles O17, a lemma for each kind of reading above. -/
theorem readingsAct : Obligations.ReadingsAct :=
  ⟨fun s mv hrails h16 => ⟨vin56Low_completes s mv hrails h16, vin56InRange_completes s mv hrails h16⟩,
    throttling_completes, throttlingEnd_completes, boundsNotGuaranteed_completes, stackRefreshRate_completes,
    pacingChange_completes, refclkLoss_completes, refclkReturn_effect⟩

end Sys2Proof.Machine
end

section
/-! SUPPORT. What the operations on a region do to the regions and to the fields of their windows (R101, R105, R122 to R124). -/

namespace Sys2Proof.Machine

open Sys2Proof

theorem completes_mono {c : Instr} {s : State} {P Q : State → Prop} (h : Completes c s P) (hpq : ∀ t, P t → Q t) :
    Completes c s Q := by
  obtain ⟨t, ht, hP⟩ := h
  exact ⟨t, ht, hpq t hP⟩

/-! ## The fields of a window (R592) -/

theorem getF_of_fields {s t : State} (h : t.fields = s.fields) (f : Field) : getF t f = getF s f := by
  rw [getF, getF, h]

theorem key_at (f : Field) (n : Nat) : (f.at n).key = f.key + f.stride * n * 64 := by
  simp only [Field.key, Field.at]
  omega

/-- Fields at different places of a window are at different places of every window. -/
theorem key_at_ne {f g : Field} (n : Nat) (h : f.stride = g.stride ∧ f.key ≠ g.key) : (f.at n).key ≠ (g.at n).key := by
  obtain ⟨hstride, hkey⟩ := h
  rw [key_at, key_at, hstride]
  omega

theorem getF_putF_window (s : State) (f g : Field) (n v : Nat) (h : f.stride = g.stride ∧ f.key ≠ g.key) :
    getF (putF s (g.at n) v) (f.at n) = getF s (f.at n) :=
  getF_putF_other _ _ _ _ (key_at_ne n h)

/-- The windows stand past every register that the end of a command writes. -/
theorem isQuiet_window (f : Field) (n : Nat) (h : 0x01000000 ≤ f.off) : (f.at n).isQuiet = true := by
  have hkey : (f.at n).key = (f.off + f.stride * n) * 64 + f.lo := rfl
  have hraw : F.codStats.rawBlocks.key < 0x01000000 * 64 := by decide
  have hcoded : F.codStats.codedBlocks.key < 0x01000000 * 64 := by decide
  simp only [Field.isQuiet, Field.isTold, hkey, Bool.and_eq_true, Bool.or_eq_true, decide_eq_true_eq, bne_iff_ne]
  omega

theorem finish_window (s0 s : State) (f : Field) (n : Nat) (h : 0x01000000 ≤ f.off) : getF (finish s0 s) (f.at n) = getF s (f.at n) :=
  finish_getF _ _ _ (isQuiet_window f n h)

/-! ## One region changes -/

/-- Region `n` is `r` now, and every other region is as before. -/
structure RegionBecomes (s t : State) (n : Nat) (r : Region) : Prop where
  self : regionOf t n = r
  others : OthersStay s t n

theorem regionOf_of_fab {s t : State} (h : t.fab = s.fab) (n : Nat) : regionOf t n = regionOf s n := by
  rw [regionOf, regionOf, h]

@[simp] theorem regionOf_finish (s0 s : State) (n : Nat) : regionOf (finish s0 s) n = regionOf s n :=
  regionOf_of_fab (finish_fab s0 s) n

@[simp] theorem regionOf_putF (s : State) (f : Field) (v n : Nat) : regionOf (putF s f v) n = regionOf s n := rfl

theorem cmdStatus_fab (s : State) (n status : Nat) : (cmdStatus s n status).fab = s.fab := rfl

@[simp] theorem regionOf_cmdStatus (s : State) (k status n : Nat) : regionOf (cmdStatus s k status) n = regionOf s n := rfl

theorem regionBecomes_setRegion (s : State) (n : Nat) (r : Region) : RegionBecomes s (setRegion s n r) n r :=
  ⟨tabGet_put_self _ _ _ _, fun _ h => tabGet_put_other _ _ _ h⟩

namespace RegionBecomes

variable {s t u : State} {n : Nat} {r r' : Region}

/-- The region changes again. -/
theorem again (h : RegionBecomes s t n r) (k : RegionBecomes t u n r') : RegionBecomes s u n r' :=
  ⟨k.self, fun m hm => (k.others m hm).trans (h.others m hm)⟩

/-- What leaves the fabric alone may follow. -/
theorem then_same (h : RegionBecomes s t n r) (hfab : u.fab = t.fab) : RegionBecomes s u n r :=
  ⟨(regionOf_of_fab hfab n).trans h.self, fun m hm => (regionOf_of_fab hfab m).trans (h.others m hm)⟩

/-- What leaves the fabric alone may stand before. -/
theorem of_same (hfab : t.fab = s.fab) (h : RegionBecomes t u n r) : RegionBecomes s u n r :=
  ⟨h.self, fun m hm => (h.others m hm).trans (regionOf_of_fab hfab m)⟩

/-- The end of a command leaves the regions alone. -/
theorem ended (h : RegionBecomes s t n r) (s0 : State) : RegionBecomes s (finish s0 t) n r := h.then_same (finish_fab s0 t)

end RegionBecomes

/-! ## The state of a region (R101, R123, R126) -/

/-- The fault record, as the entry into a state leaves it. -/
def recordAfter (s : State) (n : Nat) (st : RegionState) : State :=
  if (regionOf s n).state == .faulted && st != .faulted then
    putF (putF s (F.fabRgnFault.cause.at n) 0) (F.fabRgnFault.cluster.at n) 0
  else s

/-- A region's state changes, and the count from which it is idle. -/
theorem setRegionState_becomes (s : State) (n : Nat) (st : RegionState) :
    RegionBecomes s (setRegionState s n st) n { regionOf s n with state := st, idleSince := s.plt.lmc } := by
  refine (regionBecomes_setRegion s n _).then_same ?_
  have hrelease (t : State) (c : Nat) : (releaseModel t c).fab = t.fab := (keep_releaseModel t c).fab.resolve_left (by decide)
  simp only [setRegionState, apply_ite State.fab, (told_notify _ _ _).fab, ite_self]
  split <;> simp only [hrelease, apply_ite State.fab, putF_fab, ite_self]

theorem setRegionState_stk (s : State) (n : Nat) (st : RegionState) : (setRegionState s n st).stk = s.stk :=
  (keep_setRegionState s n st).stk.resolve_left (by decide)

theorem setRegionState_plt (s : State) (n : Nat) (st : RegionState) : (setRegionState s n st).plt = s.plt :=
  (keep_setRegionState s n st).plt.resolve_left (by decide)

/-- A region's state writes no field but the fault record that goes with FAULTED. -/
theorem getF_setRegionState (s : State) (n : Nat) (st : RegionState) (f : Field) (h : f.isTold = true) :
    getF (setRegionState s n st) f = getF (recordAfter s n st) f := by
  have hrelease (t : State) (c : Nat) : getF (releaseModel t c) f = getF t f :=
    getF_of_fields ((keep_releaseModel t c).fields.resolve_left (by decide)) f
  have hnotify (t : State) (a b : Field) : getF (notify t a b) f = getF t f := (told_notify t a b).field f h
  simp only [setRegionState, recordAfter, apply_ite (getF · f), hnotify, ite_self]
  split <;> simp only [hrelease, apply_ite (getF · f)] <;> rfl

/-- A field of the window that is not in the fault record stands. -/
theorem getF_setRegionState_window (s : State) (n : Nat) (st : RegionState) (f : Field) (hoff : 0x01000000 ≤ f.off)
    (hstride : f.stride = 524288) (hcause : f.key ≠ F.fabRgnFault.cause.key) (hcluster : f.key ≠ F.fabRgnFault.cluster.key) :
    getF (setRegionState s n st) (f.at n) = getF s (f.at n) := by
  rw [getF_setRegionState _ _ _ _ (isQuiet_isTold (isQuiet_window f n hoff)), recordAfter]
  split
  · rw [getF_putF_window _ _ _ _ _ ⟨hstride, hcluster⟩, getF_putF_window _ _ _ _ _ ⟨hstride, hcause⟩]
  · rfl

/-- The entry into FAULTED leaves the fault record as it stands. -/
theorem getF_setRegionState_faulted (s : State) (n : Nat) (f : Field) (hoff : 0x01000000 ≤ f.off) :
    getF (setRegionState s n .faulted) (f.at n) = getF s (f.at n) := by
  rw [getF_setRegionState _ _ _ _ (isQuiet_isTold (isQuiet_window f n hoff)), recordAfter, if_neg (by simp)]

/-- A region that leaves FAULTED has no cause. -/
theorem cause_setRegionState_leaves (s : State) (n : Nat) (st : RegionState) (hfaulted : (regionOf s n).state = .faulted)
    (h : st ≠ .faulted) : getF (setRegionState s n st) (F.fabRgnFault.cause.at n) = 0 := by
  rw [getF_setRegionState _ _ _ _ (isQuiet_isTold (isQuiet_window _ n (by decide))), recordAfter, if_pos (by simp [hfaulted, h]),
    getF_putF_window _ _ _ _ _ (by decide), getF_putF_self]
  rfl

/-! ## Scrubbing (R105) -/

theorem endLeases_fab (s : State) (l : List Nat) (slot : Nat → Nat) : (l.foldl (fun u t => endLease u (slot t)) s).fab = s.fab :=
  (Keep.foldl (Keep.refl 128 s) (fun u t => keep_endLease u (slot t))).fab.resolve_left (by decide)

theorem endThreads_becomes (s : State) (n : Nat) : RegionBecomes s (endThreads s n) n { regionOf s n with threads := [] } := by
  have hfab := endLeases_fab s (List.range 16) (threadLease n)
  rw [← regionOf_of_fab hfab n]
  exact (regionBecomes_setRegion _ n _).of_same hfab

/-- What a scrub leaves of a region. -/
def scrubbedRegion (r : Region) : Region :=
  { r with ivory := [], latches := [], switches := [], functions := [], acc := [], banks := [], rng := [], image := none,
           loadedHandle := 0, drainTo := none, threads := [] }

theorem clearSticky_fab (s : State) (n : Nat) : (clearSticky s n).fab = s.fab := rfl

theorem clearCache_fab (s : State) (a : Nat) : (clearCache s a).fab = s.fab := (keep_clearCache s a).fab.resolve_left (by decide)

theorem scrubRegion_becomes (s : State) (n : Nat) : RegionBecomes s (scrubRegion s n) n (scrubbedRegion (regionOf s n)) := by
  have hset := regionBecomes_setRegion s n { scrubbedRegion (regionOf s n) with threads := (regionOf s n).threads }
  have hthreads := endThreads_becomes (setRegion s n { scrubbedRegion (regionOf s n) with threads := (regionOf s n).threads }) n
  rw [hset.self] at hthreads
  exact ((hset.again hthreads).then_same (clearCache_fab _ n)).then_same (clearSticky_fab _ n)

theorem saturated_clearSticky (s : State) (n : Nat) : getF (clearSticky s n) (F.fabRgnFlags.saturated.at n) = 0 := by
  rw [clearSticky, getF_putF_window _ _ _ _ _ (by decide), getF_putF_window _ _ _ _ _ (by decide),
    getF_putF_window _ _ _ _ _ (by decide), getF_putF_self]
  rfl

theorem emptyRegion_becomes (s : State) (n : Nat) : RegionBecomes s (emptyRegion s n) n
    { scrubbedRegion (regionOf s n) with state := .empty, idleSince := (scrubRegion s n).plt.lmc } := by
  have hscrub := scrubRegion_becomes s n
  have hstate := setRegionState_becomes (scrubRegion s n) n .empty
  rw [hscrub.self] at hstate
  exact hscrub.again hstate

theorem emptyRegion_plt (s : State) (n : Nat) : (emptyRegion s n).plt = s.plt := (keep_emptyRegion s n).plt.resolve_left (by decide)

/-- What an emptied region shows, once its command has told its status and ended; what came before left the regions alone. -/
theorem scrubbed_finish_emptyRegion {s u : State} (hsame : u.fab = s.fab) (s0 : State) (n status : Nat) :
    Scrubbed s (finish s0 (cmdStatus (emptyRegion u n) n status)) n .empty ∧
    OthersStay s (finish s0 (cmdStatus (emptyRegion u n) n status)) n := by
  have hbecomes := (((emptyRegion_becomes u n).of_same hsame).then_same (cmdStatus_fab _ n status)).ended s0
  have hflag : getF (finish s0 (cmdStatus (emptyRegion u n) n status)) (F.fabRgnFlags.saturated.at n) = 0 := by
    rw [finish_window _ _ _ _ (by decide), cmdStatus, getF_putF_window _ _ _ _ _ (by decide), emptyRegion,
      getF_setRegionState_window _ _ _ _ (by decide) rfl (by decide) (by decide), scrubRegion, saturated_clearSticky]
  rw [regionOf_of_fab hsame n] at hbecomes
  refine ⟨?_, hbecomes.others⟩
  unfold Scrubbed
  rw [hbecomes.self]
  exact ⟨rfl, rfl, rfl, rfl, rfl, rfl, rfl, rfl, rfl, rfl, hflag⟩

/-- A FAULTED region that is emptied has no cause. -/
theorem cause_emptyRegion (s : State) (n : Nat) (h : (regionOf s n).state = .faulted) :
    getF (emptyRegion s n) (F.fabRgnFault.cause.at n) = 0 :=
  cause_setRegionState_leaves _ n .empty (by rw [(scrubRegion_becomes s n).self]; exact h) (by decide)

/-! ## Faults and loads (R101, R107, R123) -/

/-- A region that runs no kernel faults with a cause and a cluster that its fault record can hold. -/
theorem faultedWith_faultRegion (s : State) (n cause cluster : Nat) (hserving : (regionOf s n).state ≠ .serving)
    (hdraining : (regionOf s n).state ≠ .draining) (hcause : cause < 256) (hcluster : cluster < 16) :
    FaultedWith (faultRegion s n cause cluster) n cause cluster := by
  have hidle : ((regionOf s n).state == .serving || (regionOf s n).state == .draining) = false := by simp [hserving, hdraining]
  simp only [faultRegion, hidle, Bool.false_eq_true, if_false]
  refine ⟨?_, ?_, ?_⟩
  · rw [(setRegionState_becomes _ _ _).self]
  · rw [getF_setRegionState_faulted _ _ _ (by decide), getF_putF_window _ _ _ _ _ (by decide), getF_putF_self]
    exact Nat.mod_eq_of_lt hcause
  · rw [getF_setRegionState_faulted _ _ _ (by decide), getF_putF_self]
    exact Nat.mod_eq_of_lt hcluster

/-- The resolution of an image reads the table of objects and the key slots alone. -/
theorem resolveImage_of_stk {s t : State} (h : t.stk = s.stk) (handle bit : Nat) :
    resolveImage t handle bit = resolveImage s handle bit := by
  unfold resolveImage resolve isCurrent odtOf xtsKey
  rw [h]

/-- A load sets out: the region is LOADING from the handle, which resolves or not as it did before. -/
theorem beginLoad_cases (s : State) (n h : Nat) :
    ∃ t, RegionBecomes s t n { regionOf s n with state := .loading, loadHandle := h, idleSince := s.plt.lmc } ∧
      (∀ f : Field, 0x01000000 ≤ f.off → f.stride = 524288 → f.key ≠ F.fabRgnFault.cause.key →
        f.key ≠ F.fabRgnFault.cluster.key → getF t (f.at n) = getF s (f.at n)) ∧
      beginLoad s n h = if resolveImage s h 0 then takeLease t (loadLease n) else faultRegion t n 12 0 := by
  have hset := regionBecomes_setRegion s n { regionOf s n with loadHandle := h }
  have hstate := setRegionState_becomes (setRegion s n { regionOf s n with loadHandle := h }) n .loading
  rw [hset.self] at hstate
  refine ⟨_, hset.again hstate, fun f hoff hstride hcause hcluster => ?_, ?_⟩
  · exact getF_setRegionState_window _ n _ f hoff hstride hcause hcluster
  · rw [beginLoad, resolveImage_of_stk (setRegionState_stk _ _ _)]
    rfl

end Sys2Proof.Machine
end

section
/-! SUPPORT. The commands of a region (O24): LOAD, START, DRAIN, RELOAD, RESET and RESET_REPAIR (R101, R114, R121, R633). -/

namespace Sys2Proof.Machine

open Sys2Proof

/-! ## What every region command begins with -/

@[simp] theorem regionOf_putHandle (s : State) (k : Nat) (h : Option Nat) (n : Nat) : regionOf (putHandle s k h) n = regionOf s n := by
  cases h <;> rfl

@[simp] theorem putHandle_fab (s : State) (n : Nat) (h : Option Nat) : (putHandle s n h).fab = s.fab := by
  cases h <;> rfl

@[simp] theorem putHandle_plt (s : State) (n : Nat) (h : Option Nat) : (putHandle s n h).plt = s.plt := by
  cases h <;> rfl

@[simp] theorem putHandle_stk (s : State) (n : Nat) (h : Option Nat) : (putHandle s n h).stk = s.stk := by
  cases h <;> rfl

theorem imageHandle_putHandle (s : State) (n x : Nat) : imageHandle (putHandle s n (some x)) n = x % 2 ^ 32 := getF_putF_self _ _ _

/-- A write of IMAGE_HANDLE leaves every other field alone. -/
theorem getF_putHandle_other (s : State) (n : Nat) (h : Option Nat) (f : Field) (hkey : f.key ≠ (F.fabRgnCtl.imageHandle.at n).key) :
    getF (putHandle s n h) f = getF s f := by
  cases h with
  | none => rfl
  | some x => exact getF_putF_other _ _ _ _ hkey

theorem getF_putHandle_window (s : State) (f : Field) (n : Nat) (h : Option Nat)
    (hkey : f.stride = F.fabRgnCtl.imageHandle.stride ∧ f.key ≠ F.fabRgnCtl.imageHandle.key) :
    getF (putHandle s n h) (f.at n) = getF s (f.at n) :=
  getF_putHandle_other s n h _ (key_at_ne n hkey)

theorem faultCause_putHandle (s : State) (n : Nat) (h : Option Nat) : faultCause (putHandle s n h) n = faultCause s n :=
  getF_putHandle_window s _ n h (by decide)

/-- CMD_STATUS reads what the command told, once it has ended. -/
theorem getF_finish_cmdStatus (s0 s : State) (n status : Nat) (h : status < 256) :
    getF (finish s0 (cmdStatus s n status)) (F.fabRgnState.cmdStatus.at n) = status := by
  rw [finish_window _ _ _ _ (by decide), cmdStatus, getF_putF_self]
  exact Nat.mod_eq_of_lt h

/-- CMD_STATUS stands apart from the other fields of its window. -/
theorem getF_finish_cmdStatus_window (s0 s : State) (f : Field) (n status : Nat) (hoff : 0x01000000 ≤ f.off)
    (h : f.stride = F.fabRgnState.cmdStatus.stride ∧ f.key ≠ F.fabRgnState.cmdStatus.key) :
    getF (finish s0 (cmdStatus s n status)) (f.at n) = getF s (f.at n) := by
  rw [finish_window _ _ _ _ hoff, cmdStatus, getF_putF_window _ _ _ _ _ h]

/-- A command that changes one region, tells its status and ends. -/
theorem regionBecomes_finish_cmdStatus {s t : State} {n : Nat} {r : Region} (h : Option Nat)
    (hbecomes : RegionBecomes (putHandle s n h) t n r) (status : Nat) : RegionBecomes s (finish s (cmdStatus t n status)) n r :=
  ((hbecomes.of_same (putHandle_fab s n h)).then_same (cmdStatus_fab t n status)).ended s

/-- A SERVING region drains towards its target. -/
theorem beginDrain_becomes (s : State) (n : Nat) (target : Option Nat) : RegionBecomes s (beginDrain s n target) n
    { regionOf s n with state := .draining, drainTo := target, idleSince := s.plt.lmc } := by
  have hstate := setRegionState_becomes s n .draining
  have hset := regionBecomes_setRegion (setRegionState s n .draining) n
    { regionOf (setRegionState s n .draining) n with drainTo := target }
  have hdrain := (hstate.again hset).then_same (cmdStatus_fab _ n 0)
  refine ⟨hdrain.self.trans ?_, hdrain.others⟩
  rw [hstate.self]

/-! ## The record of a repair (R114, R553) -/

theorem freeRepair_putHandle (s : State) (n : Nat) (h : Option Nat) : freeRepair (putHandle s n h) = freeRepair s := by
  cases h <;> rfl

theorem spareLeft_putHandle (s : State) (n : Nat) (h : Option Nat) : spareLeft (putHandle s n h) n = spareLeft s n := by
  cases h <;> rfl

/-- FUSE_LOCK stands before every window. -/
theorem fuseLock_putHandle (s : State) (n : Nat) (h : Option Nat) :
    isSet (putHandle s n h) F.fuseCtl.fuseLock = isSet s F.fuseCtl.fuseLock := by
  have hbefore : F.fuseCtl.fuseLock.key < F.fabRgnCtl.imageHandle.key := by decide
  have hkey := key_at F.fabRgnCtl.imageHandle n
  rw [isSet, isSet, getF_putHandle_other _ _ _ _ (by omega)]

/-- The record that is burned is the first free one, for the cluster of the fault record; the regions stand. -/
theorem burnRepair_putHandle (s : State) (n : Nat) (h : Option Nat) {i : Nat} (hfree : freeRepair s = some i) :
    let u := burnRepair (putHandle s n h) n (getF (putHandle s n h) (F.fabRgnFault.cluster.at n))
    u.fab = s.fab ∧ u.plt.repairs = tabPut 0 s.plt.repairs i (repairRecord n (getF s (F.fabRgnFault.cluster.at n))) := by
  rw [burnRepair, freeRepair_putHandle, hfree, getF_putHandle_window _ _ _ _ (by decide), putHandle_plt]
  exact ⟨putHandle_fab s n h, rfl⟩

/-! ## The commands that an awake fabric takes -/

section
variable {s : State} (n : RegionNo) (h : Option Nat) (hup : FabricUp s)
include hup

theorem exec_load : exec (.load n h) s = .next (finish s (doLoad (putHandle s n.val h) n.val)) := by
  change execLoad n h s = _
  rw [execLoad, hup.1, actAwake_taken _ _ _ hup.2]

theorem exec_start : exec (.start n h) s = .next (finish s (doStart (putHandle s n.val h) n.val)) := by
  change execStart n h s = _
  rw [execStart, hup.1, actAwake_taken _ _ _ hup.2]

theorem exec_drain : exec (.drain n h) s = .next (finish s (doDrain (putHandle s n.val h) n.val)) := by
  change execDrain n h s = _
  rw [execDrain, hup.1, actAwake_taken _ _ _ hup.2]

theorem exec_reload : exec (.reload n h) s = .next (finish s (doReload (putHandle s n.val h) n.val)) := by
  change execReload n h s = _
  rw [execReload, hup.1, actAwake_taken _ _ _ hup.2]

theorem exec_reset : exec (.reset n h) s = .next (finish s (doReset (putHandle s n.val h) n.val)) := by
  change execReset n h s = _
  rw [execReset, hup.1, actAwake_taken _ _ _ hup.2]

theorem exec_resetRepair : exec (.resetRepair n h) s = .next (finish s (doResetRepair (putHandle s n.val h) n.val)) := by
  change execResetRepair n h s = _
  rw [execResetRepair, hup.1, actAwake_taken _ _ _ hup.2]

/-! ## LOAD (R101, R633) -/

/-- LOAD of a bound EMPTY region begins the load of the handle that stands in IMAGE_HANDLE. -/
theorem exec_load_begins (hempty : (regionOf s n.val).state = .empty) (hbound : (regionOf s n.val).comp.isSome = true) :
    exec (.load n h) s =
      .next (finish s (cmdStatus (beginLoad (putHandle s n.val h) n.val (imageHandle (putHandle s n.val h) n.val)) n.val 0)) := by
  rw [exec_load n h hup, doLoad, regionOf_putHandle, if_neg (by simp [hempty]),
    if_neg (by simpa using Option.isSome_iff_ne_none.1 hbound)]

/-- The image that IMAGE_HANDLE names streams in. -/
theorem load_streams (hempty : (regionOf s n.val).state = .empty) (hbound : (regionOf s n.val).comp.isSome = true)
    (hres : resolveImage s (imageHandle (putHandle s n.val h) n.val) 0 = true) :
    Completes (.load n h) s (fun t => (regionOf t n.val).state = .loading ∧
      (regionOf t n.val).loadHandle = imageHandle (putHandle s n.val h) n.val ∧ getF t (F.fabRgnState.cmdStatus.at n.val) = 0 ∧
      getF t (F.fabRgnCtl.imageHandle.at n.val) = imageHandle (putHandle s n.val h) n.val ∧ OthersStay s t n.val) := by
  obtain ⟨t, hbecomes, hfield, hload⟩ := beginLoad_cases (putHandle s n.val h) n.val (imageHandle (putHandle s n.val h) n.val)
  rw [resolveImage_of_stk (putHandle_stk _ _ _), if_pos hres] at hload
  refine ⟨_, exec_load_begins n h hup hempty hbound, ?_⟩
  rw [hload]
  have hend := regionBecomes_finish_cmdStatus h (hbecomes.then_same (u := takeLease t (loadLease n.val)) rfl) 0
  refine ⟨by rw [hend.self], by rw [hend.self], getF_finish_cmdStatus _ _ _ _ (by decide), ?_, hend.others⟩
  rw [getF_finish_cmdStatus_window _ _ _ _ _ (by decide) (by decide)]
  exact hfield _ (by decide) (by decide) (by decide) (by decide)

/-- A handle that does not resolve to an image faults the region at once. -/
theorem load_unresolved (hempty : (regionOf s n.val).state = .empty) (hbound : (regionOf s n.val).comp.isSome = true)
    (hres : resolveImage s (imageHandle (putHandle s n.val h) n.val) 0 = false) :
    Completes (.load n h) s (fun t => FaultedWith t n.val 12 0 ∧ getF t (F.fabRgnState.cmdStatus.at n.val) = 0) := by
  obtain ⟨t, hbecomes, -, hload⟩ := beginLoad_cases (putHandle s n.val h) n.val (imageHandle (putHandle s n.val h) n.val)
  rw [resolveImage_of_stk (putHandle_stk _ _ _), hres, if_neg Bool.false_ne_true] at hload
  refine ⟨_, exec_load_begins n h hup hempty hbound, ?_, getF_finish_cmdStatus _ _ _ _ (by decide)⟩
  obtain ⟨hstate, hcause, hcluster⟩ := faultedWith_faultRegion t n.val 12 0 (by simp [hbecomes.self]) (by simp [hbecomes.self])
    (by decide) (by decide)
  rw [hload]
  refine ⟨?_, ?_, ?_⟩
  · rw [regionOf_finish, regionOf_cmdStatus, hstate]
  · rw [getF_finish_cmdStatus_window _ _ _ _ _ (by decide) (by decide), hcause]
  · rw [getF_finish_cmdStatus_window _ _ _ _ _ (by decide) (by decide), hcluster]

theorem load_notBound (hempty : (regionOf s n.val).state = .empty) (hbound : (regionOf s n.val).comp = none) :
    Effect (.load n h) s (putF (putHandle s n.val h) (F.fabRgnState.cmdStatus.at n.val) 2) := by
  rw [Effect, exec_load n h hup, doLoad, regionOf_putHandle, if_neg (by simp [hempty]), if_pos (by simp [hbound]), cmdStatus]

theorem load_busy (hbusy : (regionOf s n.val).state ≠ .empty) :
    Effect (.load n h) s (putF (putHandle s n.val h) (F.fabRgnState.cmdStatus.at n.val) 1) := by
  rw [Effect, exec_load n h hup, doLoad, regionOf_putHandle, if_pos (by simpa using hbusy), cmdStatus]

/-! ## START (R101) -/

theorem start_serves (hready : (regionOf s n.val).state = .ready) : Completes (.start n h) s (fun t =>
    regionOf t n.val = { regionOf s n.val with state := .serving, idleSince := s.plt.lmc } ∧
    getF t (F.fabRgnState.cmdStatus.at n.val) = 0 ∧ OthersStay s t n.val ∧ t.stk.odt = s.stk.odt) := by
  have hbecomes := setRegionState_becomes (putHandle s n.val h) n.val .serving
  rw [regionOf_putHandle, putHandle_plt] at hbecomes
  have hend := regionBecomes_finish_cmdStatus h hbecomes 0
  have hodt : (finish s (cmdStatus (setRegionState (putHandle s n.val h) n.val .serving) n.val 0)).stk.odt = s.stk.odt := by
    rw [finish_odt, cmdStatus, putF_stk, setRegionState_stk, putHandle_stk]
  refine ⟨_, ?_, hend.self, getF_finish_cmdStatus _ _ _ _ (by decide), hend.others, hodt⟩
  rw [exec_start n h hup, doStart, regionOf_putHandle, if_neg (by simp [hready])]

theorem start_busy (hbusy : (regionOf s n.val).state ≠ .ready) :
    Effect (.start n h) s (putF (putHandle s n.val h) (F.fabRgnState.cmdStatus.at n.val) 1) := by
  rw [Effect, exec_start n h hup, doStart, regionOf_putHandle, if_pos (by simpa using hbusy), cmdStatus]

/-! ## DRAIN and RELOAD (R101, R105) -/

theorem drain_empties (hready : (regionOf s n.val).state = .ready) : Completes (.drain n h) s (fun t =>
    Scrubbed s t n.val .empty ∧ getF t (F.fabRgnState.cmdStatus.at n.val) = 0 ∧ OthersStay s t n.val) := by
  obtain ⟨hscrubbed, hothers⟩ := scrubbed_finish_emptyRegion (putHandle_fab s n.val h) s n.val 0
  refine ⟨_, ?_, hscrubbed, getF_finish_cmdStatus _ _ _ _ (by decide), hothers⟩
  rw [exec_drain n h hup, doDrain, regionOf_putHandle, hready]

theorem drain_drains (hserving : (regionOf s n.val).state = .serving) : Completes (.drain n h) s (fun t =>
    regionOf t n.val = { regionOf s n.val with state := .draining, drainTo := none, idleSince := s.plt.lmc } ∧
    getF t (F.fabRgnState.cmdStatus.at n.val) = 0 ∧ OthersStay s t n.val) := by
  have hend := ((beginDrain_becomes (putHandle s n.val h) n.val none).of_same (putHandle_fab s n.val h)).ended s
  rw [regionOf_putHandle, putHandle_plt] at hend
  refine ⟨finish s (beginDrain (putHandle s n.val h) n.val none), ?_, hend.self, getF_finish_cmdStatus _ _ _ _ (by decide), hend.others⟩
  rw [exec_drain n h hup, doDrain, regionOf_putHandle, hserving]

theorem drain_busy (hready : (regionOf s n.val).state ≠ .ready) (hserving : (regionOf s n.val).state ≠ .serving) :
    Effect (.drain n h) s (putF (putHandle s n.val h) (F.fabRgnState.cmdStatus.at n.val) 1) := by
  rw [Effect, exec_drain n h hup, doDrain, regionOf_putHandle]
  split
  · contradiction
  · contradiction
  · rfl

theorem reload_drains (hserving : (regionOf s n.val).state = .serving) : Completes (.reload n h) s (fun t =>
    regionOf t n.val = { regionOf s n.val with
      state := .draining, idleSince := s.plt.lmc
      drainTo := some (match h with | some x => x % 2 ^ 32 | none => imageHandle s n.val) } ∧
    getF t (F.fabRgnState.cmdStatus.at n.val) = 0 ∧ OthersStay s t n.val) := by
  have hend := ((beginDrain_becomes (putHandle s n.val h) n.val (some (imageHandle (putHandle s n.val h) n.val))).of_same
    (putHandle_fab s n.val h)).ended s
  rw [regionOf_putHandle, putHandle_plt] at hend
  refine ⟨finish s (beginDrain (putHandle s n.val h) n.val (some (imageHandle (putHandle s n.val h) n.val))), ?_, ?_,
    getF_finish_cmdStatus _ _ _ _ (by decide), hend.others⟩
  · rw [exec_reload n h hup, doReload, regionOf_putHandle, if_pos (by simp [hserving])]
  · refine hend.self.trans ?_
    cases h with
    | none => rfl
    | some x => rw [imageHandle_putHandle]

theorem reload_busy (hserving : (regionOf s n.val).state ≠ .serving) :
    Effect (.reload n h) s (putF (putHandle s n.val h) (F.fabRgnState.cmdStatus.at n.val) 1) := by
  rw [Effect, exec_reload n h hup, doReload, regionOf_putHandle, if_neg (by simpa using hserving), cmdStatus]

/-! ## RESET (R101) -/

theorem reset_empties (hfaulted : (regionOf s n.val).state = .faulted) (hcluster : faultCause s n.val ≠ 8)
    (hspare : faultCause s n.val ≠ 13) : Completes (.reset n h) s (fun t =>
      Scrubbed s t n.val .empty ∧ getF t (F.fabRgnFault.cause.at n.val) = 0 ∧ getF t (F.fabRgnState.cmdStatus.at n.val) = 0 ∧
      OthersStay s t n.val) := by
  obtain ⟨hscrubbed, hothers⟩ := scrubbed_finish_emptyRegion (putHandle_fab s n.val h) s n.val 0
  refine ⟨_, ?_, hscrubbed, ?_, getF_finish_cmdStatus _ _ _ _ (by decide), hothers⟩
  · rw [exec_reset n h hup, doReset, regionOf_putHandle, faultCause_putHandle, if_pos (by simp [hfaulted, hcluster, hspare])]
  · rw [getF_finish_cmdStatus_window _ _ _ _ _ (by decide) (by decide),
      cause_emptyRegion _ _ (by rw [regionOf_putHandle]; exact hfaulted)]

theorem reset_busy (hrefused : (regionOf s n.val).state ≠ .faulted ∨ faultCause s n.val = 8 ∨ faultCause s n.val = 13) :
    Effect (.reset n h) s (putF (putHandle s n.val h) (F.fabRgnState.cmdStatus.at n.val) 1) := by
  have hno : ((regionOf s n.val).state == .faulted && faultCause s n.val != 8 && faultCause s n.val != 13) = false := by
    obtain hstate | hcluster | hspare := hrefused
    · simp [hstate]
    · simp [hcluster]
    · simp [hspare]
  rw [Effect, exec_reset n h hup, doReset, regionOf_putHandle, faultCause_putHandle, hno, if_neg Bool.false_ne_true, cmdStatus]

/-! ## RESET_REPAIR (R114, R125, R553) -/

/-- RESET_REPAIR of a cluster that failed goes to the region's spare. -/
theorem exec_resetRepair_repairs (hfaulted : (regionOf s n.val).state = .faulted)
    (hcause : faultCause s n.val = 8 ∨ faultCause s n.val = 9) :
    exec (.resetRepair n h) s = .next (finish s (repairRegion (putHandle s n.val h) n.val)) := by
  have hspare : faultCause s n.val ≠ 13 := by omega
  rw [exec_resetRepair n h hup, doResetRepair, regionOf_putHandle, faultCause_putHandle, if_neg (by simp [hfaulted, hspare]),
    if_pos (by simpa using hcause)]

/-- A free record is burned for the cluster that failed, and the region is EMPTY. -/
theorem resetRepair_burns (i : Nat) (hfaulted : (regionOf s n.val).state = .faulted)
    (hcause : faultCause s n.val = 8 ∨ faultCause s n.val = 9) (hunused : firstRepair s n.val = none) (hfree : freeRepair s = some i)
    (hunlocked : isSet s F.fuseCtl.fuseLock = false) : Completes (.resetRepair n h) s (fun t =>
      Scrubbed s t n.val .empty ∧
      t.plt.repairs = tabPut 0 s.plt.repairs i (repairRecord n.val (getF s (F.fabRgnFault.cluster.at n.val))) ∧
      getF t (F.fabRgnFault.cause.at n.val) = 0 ∧ OthersStay s t n.val) := by
  have hspare : spareLeft (putHandle s n.val h) n.val = true := by
    rw [spareLeft_putHandle, spareLeft, hunused, hfree]
    rfl
  have hlock := (fuseLock_putHandle s n.val h).trans hunlocked
  obtain ⟨hfab, hburned⟩ := burnRepair_putHandle s n.val h hfree
  obtain ⟨hscrubbed, hothers⟩ := scrubbed_finish_emptyRegion hfab s n.val 0
  refine ⟨_, ?_, hscrubbed, ?_, ?_, hothers⟩
  · rw [exec_resetRepair_repairs n h hup hfaulted hcause, repairRegion, if_neg (by simp [hspare]), if_neg (by simp [hlock])]
  · rw [finish_plt, cmdStatus, putF_plt, emptyRegion_plt, hburned]
  · rw [getF_finish_cmdStatus_window _ _ _ _ _ (by decide) (by decide),
      cause_emptyRegion _ _ (by rw [regionOf_of_fab hfab]; exact hfaulted)]

theorem resetRepair_withoutSpare (hfaulted : (regionOf s n.val).state = .faulted)
    (hcause : faultCause s n.val = 8 ∨ faultCause s n.val = 9) (hspare : spareLeft s n.val = false) :
    Completes (.resetRepair n h) s (fun t => (regionOf t n.val).state = .faulted ∧ getF t (F.fabRgnFault.cause.at n.val) = 13 ∧
      t.plt.repairs = s.plt.repairs) := by
  refine ⟨_, exec_resetRepair_repairs n h hup hfaulted hcause, ?_⟩
  rw [repairRegion, if_pos (by simp [spareLeft_putHandle, hspare])]
  refine ⟨?_, ?_, ?_⟩
  · rw [regionOf_finish, regionOf_cmdStatus, regionOf_putF, regionOf_putHandle]
    exact hfaulted
  · rw [getF_finish_cmdStatus_window _ _ _ _ _ (by decide) (by decide), getF_putF_self]
    rfl
  · rw [finish_plt, cmdStatus, putF_plt, putF_plt, putHandle_plt]

end

/-- Settles O24, a lemma for each command and each way it can end. -/
theorem regionCommands : Obligations.RegionCommands := by
  refine ⟨fun s n h hup => ⟨fun hempty hbound hres => ?_, fun hempty hbound hres => ?_⟩, fun s n hup hempty hbound hres => ?_,
    fun s n h hup => ⟨load_notBound n h hup, load_busy n h hup, start_serves n h hup, start_busy n h hup, drain_empties n h hup,
      drain_drains n h hup, drain_busy n h hup, reload_drains n h hup, reload_busy n h hup, reset_empties n h hup, reset_busy n h hup,
      resetRepair_burns n h hup, resetRepair_withoutSpare n h hup⟩⟩
  · have hload := load_streams n (some h) hup hempty hbound (by rw [imageHandle_putHandle]; exact hres)
    rw [imageHandle_putHandle] at hload
    exact hload
  · exact load_unresolved n (some h) hup hempty hbound (by rw [imageHandle_putHandle]; exact hres)
  · have hload := load_streams n none hup hempty hbound hres
    exact completes_mono hload (fun t ⟨hstate, hhandle, _, _, hothers⟩ => ⟨hstate, hhandle, hothers⟩)

end Sys2Proof.Machine
end

section
/-! SUPPORT. Keys and attestation (O22): the owner's key list, ATTEST and ESTABLISH (R110, R554, R555, R559 to R561, R596). -/

namespace Sys2Proof.Machine

open Sys2Proof

/-! ## Reads of an object and of host memory -/

theorem hostOff_putF (s : State) (f : Field) (v : Nat) (h : F.pltPcieLink.dlUp.key ≠ f.key) : hostOff (putF s f v) = hostOff s := by
  simp only [hostOff, isSet, putF_pcie, getF_putF_other _ _ _ _ h]

theorem mustWait_putF (s : State) (f : Field) (v h : Nat) (hkey : F.pltPcieLink.dlUp.key ≠ f.key) :
    mustWait (putF s f v) h = mustWait s h := by
  rw [mustWait, mustWait, hostOff_putF s f v hkey]
  rfl

theorem objectByte_putF (s : State) (f : Field) (v i : Nat) : objectByte (putF s f v) i = objectByte s i := rfl

theorem odtOf_putF (s : State) (f : Field) (v i : Nat) : odtOf (putF s f v) i = odtOf s i := rfl

theorem askHost_cases (s : State) (e : OdtEntry) : askHost s e = s ∨ ∃ o, askHost s e = emit s o := by
  unfold askHost
  split
  · exact .inr ⟨_, rfl⟩
  · exact .inl rfl

/-- Asking the host for an object changes what the part has sent, and nothing that a read of the object rests on. -/
theorem objectByte_askHost (s : State) (e : OdtEntry) (i : Nat) : objectByte (askHost s e) i = objectByte s i := by
  obtain h | ⟨o, h⟩ := askHost_cases s e
  · rw [h]
  · rw [h]
    rfl

theorem askHost_stk (s : State) (e : OdtEntry) : (askHost s e).stk = s.stk := (keep_askHost s e).stk.resolve_left (by decide)

theorem askHost_plt (s : State) (e : OdtEntry) : (askHost s e).plt = s.plt := (keep_askHost s e).plt.resolve_left (by decide)

theorem askHost_fab (s : State) (e : OdtEntry) : (askHost s e).fab = s.fab := (keep_askHost s e).fab.resolve_left (by decide)

theorem getF_askHost (s : State) (e : OdtEntry) (f : Field) : getF (askHost s e) f = getF s f :=
  getF_of_fields ((keep_askHost s e).fields.resolve_left (by decide)) f

/-- A read that ends whole gives the list that stands in the object. -/
theorem readKeyList_whole (s : State) (i : Nat) :
    readKeyList s i .whole = (decodeKeyList (objectByte s i) (odtOf s i).size, askHost s (odtOf s i)) := by
  simp only [readKeyList, objectByte_askHost, odtOf, askHost_stk]

theorem getF_waitHost (s : State) (c : Instr) (f : Field) : getF (waitHost s c) f = getF s f := rfl

theorem readKeyList_error (s : State) (i o : Nat) : (readKeyList s i (.errorAt o)).1 = none := rfl

/-! ## A key list is taken (R110, R554) -/

theorem keyListStatus_lt (l : KeyList) (authority hash : Nat) : keyListStatus l authority hash < 256 := by
  unfold keyListStatus
  repeat' split
  all_goals decide

/-- A list that its authority signed becomes the owner's and empties the cache; any other leaves both as they are. -/
theorem takeKeyList_some (s : State) (l : KeyList) :
    getF (takeKeyList s (some l)) F.pltKeylist.status = keyListStatus l 2 (ownerHash s) ∧
    getF (takeKeyList s (some l)) F.pltKeylist.handle = getF s F.pltKeylist.handle ∧
    (takeKeyList s (some l)).plt.ownerList = (if keyListStatus l 2 (ownerHash s) = 0 then some l else s.plt.ownerList) ∧
    (takeKeyList s (some l)).fab.vdc = (if keyListStatus l 2 (ownerHash s) = 0 then [] else s.fab.vdc) := by
  have hlt := keyListStatus_lt l 2 (ownerHash s)
  simp only [takeKeyList]
  split
  · next hgood =>
    rw [hgood]
    refine ⟨getF_putF_self _ _ _, ?_, rfl, rfl⟩
    exact getF_putF_other _ _ _ _ (by decide)
  · refine ⟨?_, getF_putF_other _ _ _ _ (by decide), rfl, rfl⟩
    exact (getF_putF_self _ _ _).trans (Nat.mod_eq_of_lt hlt)

/-- Without a list the status alone tells of it. -/
theorem takeKeyList_none (s : State) : takeKeyList s none = putF s F.pltKeylist.status 3 := rfl

/-! ## KEYLIST_LOAD and KEYLIST_CLEAR (R555) -/

section
variable {s : State} {h : Nat} (hserves : serves s 0 = true) (hawake : isAwake s = true)
include hserves hawake

theorem exec_keylistLoad (read : ReadEnd) (hidle : getF s F.pltKeylist.status ≠ 1) :
    exec (.keylistLoad h read) s = .next (finish s (doKeylistLoad (putF s F.pltKeylist.handle h) (h % 2 ^ 32) read)) := by
  change execKeylistLoad h read s = _
  rw [execKeylistLoad, hserves, actAwake_taken _ _ _ hawake]
  simp only [if_neg hidle]

/-- A handle that resolves to an object that can be read now is read, and what was read is taken. -/
theorem exec_keylistLoad_reads {i : Nat} (read : ReadEnd) (hidle : getF s F.pltKeylist.status ≠ 1)
    (hres : resolve s (h % 2 ^ 32) 0 2 = .ok i) (hnow : mustWait s (h % 2 ^ 32) = false) :
    exec (.keylistLoad h read) s = .next (finish s (takeKeyList (readKeyList (putF s F.pltKeylist.handle h) i read).2
      (readKeyList (putF s F.pltKeylist.handle h) i read).1)) := by
  have hres' : resolve (putF s F.pltKeylist.handle h) (h % 2 ^ 32) 0 2 = .ok i := hres
  have hnow' := (mustWait_putF s F.pltKeylist.handle h (h % 2 ^ 32) (by decide)).trans hnow
  rw [exec_keylistLoad hserves hawake read hidle, doKeylistLoad, hres']
  simp only [hnow', Bool.false_eq_true, if_false]

/-- A list that was read whole is checked against the owner's hash. -/
theorem keylistLoad_checks {i : Nat} (hidle : getF s F.pltKeylist.status ≠ 1) (hres : resolve s (h % 2 ^ 32) 0 2 = .ok i)
    (hnow : mustWait s (h % 2 ^ 32) = false) (l : KeyList) (hlist : decodeKeyList (objectByte s i) (odtOf s i).size = some l) :
    Completes (.keylistLoad h .whole) s (fun t =>
      getF t F.pltKeylist.status = keyListStatus l 2 (ownerHash s) ∧ getF t F.pltKeylist.handle = h % 2 ^ 32 ∧
      t.plt.ownerList = (if keyListStatus l 2 (ownerHash s) = 0 then some l else s.plt.ownerList) ∧
      t.fab.vdc = (if keyListStatus l 2 (ownerHash s) = 0 then [] else s.fab.vdc)) := by
  have hread : readKeyList (putF s F.pltKeylist.handle h) i .whole = (some l, askHost (putF s F.pltKeylist.handle h) (odtOf s i)) := by
    rw [readKeyList_whole, objectByte_putF, odtOf_putF, hlist]
  have hhash : ownerHash (askHost (putF s F.pltKeylist.handle h) (odtOf s i)) = ownerHash s := by
    simp only [ownerHash, activeField, slotField, slotBytes, askHost_plt, putF_plt]
  obtain ⟨hstatus, hhandle, howner, hvdc⟩ := takeKeyList_some (askHost (putF s F.pltKeylist.handle h) (odtOf s i)) l
  rw [hhash] at hstatus howner hvdc
  rw [getF_askHost, getF_putF_self] at hhandle
  rw [askHost_plt] at howner
  rw [askHost_fab] at hvdc
  refine ⟨_, exec_keylistLoad_reads hserves hawake .whole hidle hres hnow, ?_⟩
  beta_reduce
  rw [hread, finish_getF _ _ _ (by decide), finish_getF _ _ _ (by decide), finish_plt, finish_fab]
  exact ⟨hstatus, hhandle, howner, hvdc⟩

/-- A read that gives no list ends in FORMAT. -/
theorem keylistLoad_withoutList {i : Nat} (read : ReadEnd) (hidle : getF s F.pltKeylist.status ≠ 1)
    (hres : resolve s (h % 2 ^ 32) 0 2 = .ok i) (hnow : mustWait s (h % 2 ^ 32) = false)
    (hnone : (readKeyList (putF s F.pltKeylist.handle h) i read).1 = none) :
    Completes (.keylistLoad h read) s (fun t => getF t F.pltKeylist.status = 3 ∧ t.plt = s.plt ∧ t.fab = s.fab) := by
  have hkeep := keep_readKeyList (putF s F.pltKeylist.handle h) i read
  refine ⟨_, exec_keylistLoad_reads hserves hawake read hidle hres hnow, ?_⟩
  beta_reduce
  rw [hnone, takeKeyList_none, finish_getF _ _ _ (by decide), getF_putF_self, finish_plt, finish_fab]
  exact ⟨rfl, hkeep.plt.resolve_left (by decide), hkeep.fab.resolve_left (by decide)⟩

theorem keylistLoad_malformed {i : Nat} (hidle : getF s F.pltKeylist.status ≠ 1) (hres : resolve s (h % 2 ^ 32) 0 2 = .ok i)
    (hnow : mustWait s (h % 2 ^ 32) = false) (hlist : decodeKeyList (objectByte s i) (odtOf s i).size = none) :
    Completes (.keylistLoad h .whole) s (fun t => getF t F.pltKeylist.status = 3 ∧ t.plt = s.plt ∧ t.fab = s.fab) :=
  keylistLoad_withoutList hserves hawake .whole hidle hres hnow (by rw [readKeyList_whole, objectByte_putF, odtOf_putF, hlist])

theorem keylistLoad_unresolved (read : ReadEnd) (hidle : getF s F.pltKeylist.status ≠ 1)
    (hres : ∀ i, resolve s (h % 2 ^ 32) 0 2 ≠ .ok i) :
    Effect (.keylistLoad h read) s (putF (putF s F.pltKeylist.handle h) F.pltKeylist.status 2) := by
  have hres' (i : Nat) : resolve (putF s F.pltKeylist.handle h) (h % 2 ^ 32) 0 2 ≠ .ok i := hres i
  rw [Effect, exec_keylistLoad hserves hawake read hidle, doKeylistLoad]
  split
  · next i hok => exact absurd hok (hres' i)
  · rfl

theorem keylistClear_effect : Effect .keylistClear s
    (putF { s with plt := { s.plt with ownerList := none }, fab := { s.fab with vdc := [] } } F.pltKeylist.status 0) := by
  change execKeylistClear s = _
  rw [execKeylistClear, hserves, actAwake_taken _ _ _ hawake, listStatus, flushDigests]

/-! ## ATTEST and ESTABLISH begin (R560, R561, R595, R603) -/

theorem attest_reads (a : Nat) (hidle : getF s F.pltAttest.status ≠ 1) (hhost : hostOff s = false) :
    Effect (.attest a) s (readHost (putF (putF s F.pltAttest.addr (a / 4096)) F.pltAttest.status 1) 0
      (a / 4096 % 2 ^ F.pltAttest.addr.width * 4096) 48) := by
  change execAttest a s = _
  rw [execAttest, hserves, actAwake_taken _ _ _ hawake, doAttest, if_neg hidle]
  simp only [hhost, Bool.false_eq_true, if_false]
  rw [getF_putF_other _ _ _ _ (by decide), getF_putF_self]

theorem establish_reads (a : Nat) (hidle : getF s F.pltWrapCtl.status ≠ 1) (hhost : hostOff s = false) :
    Effect (.establish a) s (readHost (putF (putF s F.pltWrapCtl.addr (a / 4096)) F.pltWrapCtl.status 1) 0
      (a / 4096 % 2 ^ F.pltWrapCtl.addr.width * 4096) 96) := by
  change execEstablish a s = _
  rw [execEstablish, hserves, actAwake_taken _ _ _ hawake, doEstablish, if_neg hidle]
  simp only [hhost, Bool.false_eq_true, if_false]
  rw [getF_putF_other _ _ _ _ (by decide), getF_putF_self]

/-- Without the host link the read waits, and STATUS tells that it is in progress. -/
theorem attest_waits (a : Nat) (hidle : getF s F.pltAttest.status ≠ 1) (hhost : hostOff s = true) :
    Completes (.attest a) s (fun t => getF t F.pltAttest.status = 1 ∧ t.pcie.waiting = s.pcie.waiting ++ [.attest a] ∧
      t.plt = s.plt) := by
  refine ⟨finish s (waitHost (putF (putF s F.pltAttest.addr (a / 4096)) F.pltAttest.status 1) (.attest a)), ?_, ?_, ?_, ?_⟩
  · change execAttest a s = _
    rw [execAttest, hserves, actAwake_taken _ _ _ hawake, doAttest, if_neg hidle]
    simp only [hhost, if_true]
  · rw [finish_getF _ _ _ (by decide), getF_waitHost, getF_putF_self]
    rfl
  · rw [(finished_finish _ _).told.pcie]
    rfl
  · rw [finish_plt]
    rfl

end

/-! ## The reads end (R559 to R561, R596) -/

theorem exec_hostReadCompletion {s : State} (use : HostReadUse) (result : HostReadResult) (hready : isReady s = true) :
    exec (.hostReadCompletion use result) s = .next (finish s (endHostRead s use result)) := by
  change execHostReadCompletion use result s = _
  rw [execHostReadCompletion, hready, act_taken]

theorem satF_waiting (s : State) (f : Field) : (satF s f).pcie.waiting = s.pcie.waiting := by
  rw [(keep_satF s f).pcie.resolve_left (by decide)]

section
variable {s : State} (hwaiting : s.pcie.waiting = [])
include hwaiting

theorem endAttest_data (hbusy : getF s F.pltAttest.status = 1) (bs : List Byte) :
    endAttest s (some bs) = putF (emit s (.hostWrite (pasidOf s 0) (getF s F.pltAttest.addr * 4096 + 64) false
      (evidence s (bs.take 48)))) F.pltAttest.status 0 := by
  rw [endAttest, hbusy, hwaiting]
  rfl

theorem endAttest_failed (hbusy : getF s F.pltAttest.status = 1) : endAttest s none = putF s F.pltAttest.status 2 := by
  rw [endAttest, hbusy, hwaiting]
  rfl

theorem endEstablish_failed (hbusy : getF s F.pltWrapCtl.status = 1) : endEstablish s none = putF s F.pltWrapCtl.status 2 := by
  rw [endEstablish, hbusy, hwaiting]
  rfl

/-- The peer's key is a point of the curve and gives the wrapping key. -/
theorem endEstablish_point (hbusy : getF s F.pltWrapCtl.status = 1) {bs : List Byte} {k : BitVec 256}
    (hpoint : Config.wrapSession (activeBytes s 4 48) (activeBytes s 52 48) (bs.take 96) = some k) :
    endEstablish s (some bs) = putF { s with plt := { s.plt with wrapKey := some k } } F.pltWrapCtl.status 0 := by
  rw [endEstablish, hbusy, hwaiting]
  simp [hpoint]

theorem endEstablish_offCurve (hbusy : getF s F.pltWrapCtl.status = 1) {bs : List Byte}
    (hpoint : Config.wrapSession (activeBytes s 4 48) (activeBytes s 52 48) (bs.take 96) = none) :
    endEstablish s (some bs) = putF s F.pltWrapCtl.status 3 := by
  rw [endEstablish, hbusy, hwaiting]
  simp [hpoint]

variable (hready : isReady s = true)
include hready

theorem hostReadCompletion_attest_data (hbusy : getF s F.pltAttest.status = 1) (bs : List Byte) :
    Effect (.hostReadCompletion .attest (.data bs)) s (putF (emit s (.hostWrite (pasidOf s 0)
      (getF s F.pltAttest.addr * 4096 + 64) false (evidence s (bs.take 48)))) F.pltAttest.status 0) := by
  rw [Effect, exec_hostReadCompletion _ _ hready, endHostRead, countReadError, endAttest_data hwaiting hbusy]

theorem hostReadCompletion_attest_unsupported (hbusy : getF s F.pltAttest.status = 1) :
    Effect (.hostReadCompletion .attest .unsupported) s (putF (satF s F.pltPcieErr.hostAborts) F.pltAttest.status 2) := by
  have hbusy' := (getF_satF_other s F.pltAttest.status F.pltPcieErr.hostAborts (by decide)).trans hbusy
  have hend : endHostRead s .attest .unsupported = endAttest (satF s F.pltPcieErr.hostAborts) none := rfl
  rw [Effect, exec_hostReadCompletion _ _ hready, hend, endAttest_failed ((satF_waiting _ _).trans hwaiting) hbusy']

theorem hostReadCompletion_wrap_timeout (hbusy : getF s F.pltWrapCtl.status = 1) :
    Effect (.hostReadCompletion .wrap .timeout) s
      (putF (emit (satF s F.pltPcieErr.completionTimeouts) (.aer 14)) F.pltWrapCtl.status 2) := by
  have hbusy' := (getF_satF_other s F.pltWrapCtl.status F.pltPcieErr.completionTimeouts (by decide)).trans hbusy
  have hend : endHostRead s .wrap .timeout = endEstablish (emit (satF s F.pltPcieErr.completionTimeouts) (.aer 14)) none := rfl
  have hwaiting' : (emit (satF s F.pltPcieErr.completionTimeouts) (.aer 14)).pcie.waiting = [] := (satF_waiting _ _).trans hwaiting
  rw [Effect, exec_hostReadCompletion _ _ hready, hend, endEstablish_failed hwaiting' hbusy']

theorem hostReadCompletion_wrap_data (hbusy : getF s F.pltWrapCtl.status = 1) (bs : List Byte) :
    Completes (.hostReadCompletion .wrap (.data bs)) s (fun t =>
      match Config.wrapSession (activeBytes s 4 48) (activeBytes s 52 48) (bs.take 96) with
      | some k => t.plt = { s.plt with wrapKey := some k } ∧ getF t F.pltWrapCtl.status = 0
      | none => t.plt = s.plt ∧ getF t F.pltWrapCtl.status = 3) := by
  refine ⟨_, exec_hostReadCompletion _ _ hready, ?_⟩
  beta_reduce
  rw [endHostRead, countReadError, finish_plt, finish_getF _ _ _ (by decide)]
  cases hpoint : Config.wrapSession (activeBytes s 4 48) (activeBytes s 52 48) (bs.take 96) with
  | none =>
    rw [endEstablish_offCurve hwaiting hbusy hpoint, getF_putF_self]
    exact ⟨rfl, rfl⟩
  | some k =>
    rw [endEstablish_point hwaiting hbusy hpoint, getF_putF_self]
    exact ⟨rfl, rfl⟩

end

/-- Settles O22: the key list's commands, the two commands that read host memory, and the ends of their reads. -/
theorem keysAndAttestation : Obligations.KeysAndAttestation := by
  refine ⟨fun s h i hserves hawake hidle hres hnow => ⟨?_, ?_, fun o => ?_⟩, fun s h read hserves hawake => ?_,
    fun s hserves hawake => keylistClear_effect hserves hawake, fun s a hserves hawake => ⟨?_, ?_, ?_⟩,
    fun s bs hready hwaiting => ⟨fun hbusy => ⟨?_, ?_⟩, fun hbusy => ⟨?_, ?_⟩⟩⟩
  · exact keylistLoad_checks hserves hawake hidle hres hnow
  · exact keylistLoad_malformed hserves hawake hidle hres hnow
  · exact keylistLoad_withoutList hserves hawake (.errorAt o) hidle hres hnow (readKeyList_error _ i o)
  · exact keylistLoad_unresolved hserves hawake read
  · exact attest_reads hserves hawake a
  · exact establish_reads hserves hawake a
  · exact attest_waits hserves hawake a
  · exact hostReadCompletion_attest_data hwaiting hready hbusy bs
  · exact hostReadCompletion_attest_unsupported hwaiting hready hbusy
  · exact hostReadCompletion_wrap_data hwaiting hready hbusy bs
  · exact hostReadCompletion_wrap_timeout hwaiting hready hbusy

end Sys2Proof.Machine
end

section
/-! SUPPORT. A cluster fault reaches past its region (against O25): the step of the abandoned unit is reissued, and with it ends what the
step keeps on another region (R107, R405, R408). -/

namespace Sys2Proof.Machine

open Sys2Proof

/-- The step of a unit that runs on region 3, with a context in save slot 0 of region 5. -/
def splitStep : Step := { comp := 0, reqs := [], begun := true, complete := false, save := some (5, 0) }

def savedContext : Context := { step := 0, kernel := 0, atExit := true, ranges := [] }

def runningRegion : Region := { state := .serving, running := some { step := 0, kernel := 0, start := 0, ended := false } }

def savingRegion : Region := { saves := [(0, some savedContext)] }

/-- A READY part whose region 3 serves a step that keeps a save slot of region 5. -/
def splitState : State :=
  { State.reset with
    plt := { State.reset.plt with state := .ready }
    fab := { regions := [(3, runningRegion), (5, savingRegion)] }
    sch := { steps := [(0, some splitStep)] } }

/-- The fault of a cluster of region 3 frees the slot of region 5. -/
theorem saves_faultRegion_splitState :
    (regionOf splitState 5).saves = [(0, some savedContext)] ∧ (regionOf (faultRegion splitState 3 8 0) 5).saves = [] := by
  decide +kernel

section
variable {s : State} (n : RegionNo) (k : Fin 256) (hruns : runs s = true) (huse : k.val ∈ clustersInUse s n.val)
  (hstate : (regionOf s n.val).state ≠ .faulted)
include hruns huse hstate

theorem exec_clusterFault : exec (.clusterFault n k .cluster) s = .next (finish s (faultRegion s n.val 8 k.val)) := by
  have htaken : (runs s && (clustersInUse s n.val).contains k.val && (regionOf s n.val).state != .faulted) = true := by
    simp [hruns, huse, hstate]
  change execClusterFault n k .cluster s = _
  rw [execClusterFault, htaken, act_taken]

/-- What CLUSTER_FAULT leaves of the other regions is what the fault of its region leaves of them. -/
theorem othersStay_faultRegion_of_completes {P : State → Prop}
    (h : Completes (.clusterFault n k .cluster) s (fun t => P t ∧ OthersStay s t n.val)) :
    OthersStay s (faultRegion s n.val 8 k.val) n.val := by
  obtain ⟨t, ht, -, hothers⟩ := h
  rw [exec_clusterFault n k hruns huse hstate] at ht
  rw [← Host.Outcome.next.inj ht] at hothers
  intro m hm
  exact (regionOf_finish _ _ _).symm.trans (hothers m hm)

end

/-- Refutes O25, with `splitState`: its clause on CLUSTER_FAULT says that every other region stays, but the step of the unit that is
abandoned may hold a save slot of another region, which its reissue frees. The clause lacks the premise that the step holds nothing
elsewhere, as after the restore of its context (R405). -/
theorem not_regionsTakeTheirCourse : ¬ Obligations.RegionsTakeTheirCourse := by
  unfold Obligations.RegionsTakeTheirCourse
  intro ⟨_, _, _, _, _, hfault, _⟩
  have hruns : runs splitState = true := by decide +kernel
  have huse : (0 : Fin 256).val ∈ clustersInUse splitState (3 : RegionNo).val := by decide +kernel
  have hstate : (regionOf splitState (3 : RegionNo).val).state ≠ .faulted := by decide +kernel
  have hothers := othersStay_faultRegion_of_completes 3 0 hruns huse hstate (hfault splitState 3 0 .cluster hruns huse hstate)
  obtain ⟨hbefore, hafter⟩ := saves_faultRegion_splitState
  have hsame : regionOf (faultRegion splitState 3 8 0) 5 = regionOf splitState 5 := hothers 5 (by decide)
  rw [hsame, hbefore] at hafter
  cases hafter

end Sys2Proof.Machine
end

section
/-! SUPPORT. What every step keeps of memory (O5), and the parts that a command never changes (O3): both are read off the mask that
`keep_exec` gives each command. -/

namespace Sys2Proof.Machine

open Sys2Proof

/-! ## Memory stays canonical (R130, R538, R542) -/

/-- Settles O5: what lasts through a command (`Lasts`) holds the canonical form, and a count of the LMC leaves memory alone. -/
theorem memoryStaysCanonical : Obligations.MemoryStaysCanonical := by
  intro s t hstep hwf
  cases hq : s.pending with
  | nil =>
    rw [step_nil s hq] at hstep
    cases hstep
    unfold tick
    split <;> exact hwf
  | cons c rest =>
    rw [step_cons c rest s hq] at hstep
    exact ((keep_exec c _).of t hstep).lasts.mem hwf

/-! ## The parts that a command never changes -/

/-- The bit of a part in a mask of `Keep`. -/
def bitOf : StatePart → Nat
  | .fresh => 1 | .fields => 2 | .mem => 3 | .plt => 4 | .pwr => 5 | .pcie => 6 | .stk => 7 | .fab => 8 | .ucode => 9 | .sch => 10
  | .rqt => 11 | .pfx => 12 | .xfr => 13 | .cod => 14 | .lnk => 15 | .coh => 16 | .tm => 17 | .fls => 18 | .twn => 19 | .mtr => 20
  | .lane => 21 | .out => 22

/-- A part whose bit is clear is the same. -/
theorem same_of_keep {w : Nat} {s t : State} (h : Keep w s t) (p : StatePart) (hclear : w.testBit (bitOf p) = false) :
    p.same s t := by
  have hsame {q : Prop} (hbit : w.testBit (bitOf p) = true ∨ q) : q := hbit.resolve_left (by simp [hclear])
  cases p with
  | fresh => exact hsame h.fresh
  | fields => exact hsame h.fields
  | mem => exact hsame h.mem
  | plt => exact hsame h.plt
  | pwr => exact hsame h.pwr
  | pcie => exact hsame h.pcie
  | stk => exact hsame h.stk
  | fab => exact hsame h.fab
  | ucode => exact hsame h.ucode
  | sch => exact hsame h.sch
  | rqt => exact hsame h.rqt
  | pfx => exact hsame h.pfx
  | xfr => exact hsame h.xfr
  | cod => exact hsame h.cod
  | lnk => exact hsame h.lnk
  | coh => exact hsame h.coh
  | tm => exact hsame h.tm
  | fls => exact hsame h.fls
  | twn => exact hsame h.twn
  | mtr => exact hsame h.mtr
  | lane => exact hsame h.lane
  | out => exact hsame h.out

/-- No command's mask has the bit of a part that the command never changes. -/
theorem changes_neverChanged (c : Instr) : ∀ p ∈ neverChanged c, (changes c).testBit (bitOf p) = false := by
  cases c <;> simp only [neverChanged, changes] <;> decide

/-- A byte is what memory and the cached copies make it. -/
theorem memByte_congr {s t : State} (hmem : t.mem = s.mem) (hcoh : t.coh = s.coh) (a : Nat) : memByte t a = memByte s a := by
  simp only [memByte, modifiedCopy, hmem, hcoh]

/-- Settles O3: the mask of `keep_exec` is clear at every part that the command never changes. -/
theorem commandsKeepTheirParts : Obligations.CommandsKeepTheirParts := by
  have hparts (c : Instr) (s t : State) (hexec : exec c s = .next t) (p : StatePart) (hp : p ∈ neverChanged c) : p.same s t :=
    same_of_keep ((keep_exec c s).of t hexec) p (changes_neverChanged c p hp)
  refine ⟨hparts, ?_⟩
  intro c s t hmem hcoh hexec
  exact memByte_congr (hparts c s t hexec .mem hmem) (hparts c s t hexec .coh hcoh)

end Sys2Proof.Machine
end

section
/-! SUPPORT. The key slots of XTS and GCM and the table slots of the codec (O27): LOAD and CLEAR (R154, R374, R383 to R386, R550, R560). -/

namespace Sys2Proof.Machine

open Sys2Proof

/-! ## The blob registers read 0 after each command (R560) -/

theorem clearBlob_succ (s : State) (f : Field) (n : Nat) : clearBlob s f (n + 1) = putF (clearBlob s f n) (f.at n) 0 := by
  simp [clearBlob, List.range_succ, List.foldl_append]

theorem getF_clearBlob_other (s : State) (f g : Field) (n : Nat) (h : ∀ i < n, g.key ≠ (f.at i).key) :
    getF (clearBlob s f n) g = getF s g := by
  induction n with
  | zero => rfl
  | succ n ih =>
    rw [clearBlob_succ, getF_putF_other _ _ _ _ (h n (by omega))]
    exact ih (fun i hi => h i (by omega))

theorem getF_clearBlob_blob (s : State) (f : Field) (hstride : f.stride ≠ 0) {n i : Nat} (hi : i < n) :
    getF (clearBlob s f n) (f.at i) = 0 := by
  induction n with
  | zero => omega
  | succ n ih =>
    rw [clearBlob_succ]
    by_cases h : i = n
    · rw [h, getF_putF_self, Nat.zero_mod]
    · have hplace : f.stride * i ≠ f.stride * n := fun e => h (Nat.eq_of_mul_eq_mul_left (by omega) e)
      have hkey : (f.at i).key ≠ (f.at n).key := by
        rw [key_at, key_at]
        omega
      rw [getF_putF_other _ _ _ _ hkey]
      exact ih (by omega)

@[simp] theorem clearBlob_stk (s : State) (f : Field) (n : Nat) : (clearBlob s f n).stk = s.stk :=
  (keep_clearBlob s f n).stk.resolve_left (by decide)

@[simp] theorem clearBlob_cod (s : State) (f : Field) (n : Nat) : (clearBlob s f n).cod = s.cod :=
  (keep_clearBlob s f n).cod.resolve_left (by decide)

/-- The end of a command that cleared a blob of 64-bit registers leaves them 0. -/
theorem blob_finish_clearBlob (s0 s : State) (f : Field) (n : Nat) (hstride : f.stride ≠ 0)
    (hquiet : ∀ i < n, (f.at i).isQuiet = true) : ∀ i < n, getF (finish s0 (clearBlob s f n)) (f.at i) = 0 := by
  intro i hi
  rw [finish_getF _ _ _ (hquiet i hi), getF_clearBlob_blob s f hstride hi]

/-- A field away from the blob stands as the command left it. -/
theorem getF_finish_clearBlob (s0 s : State) (f g : Field) (n : Nat) (hquiet : g.isQuiet = true)
    (hkey : ∀ i < n, g.key ≠ (f.at i).key) : getF (finish s0 (clearBlob s f n)) g = getF s g := by
  rw [finish_getF _ _ _ hquiet, getF_clearBlob_other _ _ _ _ hkey]

/-! ## What LOAD reads is untouched by the write of the slot number -/

theorem hasFeature_putF (s : State) (f : Field) (v bit : Nat) : hasFeature (putF s f v) bit = hasFeature s bit := rfl

theorem unwrapKey_putF (s : State) (f : Field) (v : Nat) (bs : List Byte) : unwrapKey (putF s f v) bs = unwrapKey s bs := rfl

theorem blobBytes_putF (s : State) (f g : Field) (v n : Nat) (hkey : ∀ i < n, (f.at i).key ≠ g.key) :
    blobBytes (putF s g v) f n = blobBytes s f n := by
  unfold blobBytes
  congr 1
  refine List.map_congr_left (fun i hi => ?_)
  rw [getF_putF_other _ _ _ _ (hkey i (List.mem_range.1 hi))]

/-- A LOAD has no key where the feature is not fused, where there is no wrapping key, or where the unwrap fails. -/
theorem loadedKey_none {s : State} {bit : Nat} {blob : List Byte}
    (h : hasFeature s bit = false ∨ s.plt.wrapKey = none ∨ unwrapKey s blob = none) :
    (if hasFeature s bit then unwrapKey s blob else none) = none := by
  rcases h with h | h | h
  · simp [h]
  · simp [unwrapKey, h]
  · simp [h]

/-! ## XTS key slots (R154) -/

theorem xtsBlob_apart : ∀ i < 9, F.stkXtsSlot.status.key ≠ (F.stkXtsBlob.data.at i).key ∧
    F.stkXtsSlot.slot.key ≠ (F.stkXtsBlob.data.at i).key ∧ (F.stkXtsBlob.data.at i).isQuiet = true := by
  decide

section
variable {s : State} (k : Fin 1024) (hserves : serves s 4 = true) (hawake : isAwake s = true)
include hserves hawake

theorem exec_xtsLoad : exec (.xtsLoad k) s = .next (finish s (loadXts s k.val)) := by
  change execXtsLoad k s = _
  rw [execXtsLoad, hserves, actAwake_taken _ _ _ hawake]

theorem exec_xtsClear : exec (.xtsClear k) s = .next (finish s (clearXts s k.val)) := by
  change execXtsClear k s = _
  rw [execXtsClear, hserves, actAwake_taken _ _ _ hawake]

theorem xtsLoad_takes {bs : List Byte} (hfused : hasFeature s 1 = true)
    (hkey : unwrapKey s (blobBytes s F.stkXtsBlob.data 9) = some bs) : Completes (.xtsLoad k) s (fun t =>
      getF t F.stkXtsSlot.slot = k.val ∧ (∀ i < 9, getF t (F.stkXtsBlob.data.at i) = 0) ∧ getF t F.stkXtsSlot.status = 0 ∧
      t.stk.xts = tabPut none s.stk.xts k.val (some (BitVec.ofNat 512 (leNat bs)))) := by
  have hload : loadXts s k.val = clearBlob (putF (setXts (putF s F.stkXtsSlot.slot k.val) k.val
      (some (BitVec.ofNat 512 (leNat bs)))) F.stkXtsSlot.status 0) F.stkXtsBlob.data 9 := by
    simp only [loadXts, hasFeature_putF, unwrapKey_putF, hfused, if_true,
      blobBytes_putF s F.stkXtsBlob.data F.stkXtsSlot.slot _ 9 (fun i hi => (xtsBlob_apart i hi).2.1.symm), hkey]
  refine ⟨_, exec_xtsLoad k hserves hawake, ?_⟩
  rw [hload]
  refine ⟨?_, blob_finish_clearBlob _ _ _ _ (by decide) (fun i hi => (xtsBlob_apart i hi).2.2), ?_, ?_⟩
  · rw [getF_finish_clearBlob _ _ _ _ _ (by decide) (fun i hi => (xtsBlob_apart i hi).2.1), getF_putF_other _ _ _ _ (by decide)]
    exact (getF_putF_self s _ _).trans (Nat.mod_eq_of_lt k.isLt)
  · rw [getF_finish_clearBlob _ _ _ _ _ (by decide) (fun i hi => (xtsBlob_apart i hi).1), getF_putF_self]
    rfl
  · rw [finish_xts, clearBlob_stk]
    rfl

theorem xtsLoad_fails
    (h : hasFeature s 1 = false ∨ s.plt.wrapKey = none ∨ unwrapKey s (blobBytes s F.stkXtsBlob.data 9) = none) :
    Completes (.xtsLoad k) s (fun t =>
      getF t F.stkXtsSlot.status = 2 ∧ t.stk.xts = s.stk.xts ∧ (∀ i < 9, getF t (F.stkXtsBlob.data.at i) = 0)) := by
  have hload : loadXts s k.val = clearBlob (putF (putF s F.stkXtsSlot.slot k.val) F.stkXtsSlot.status 2) F.stkXtsBlob.data 9 := by
    simp only [loadXts, hasFeature_putF, unwrapKey_putF,
      blobBytes_putF s F.stkXtsBlob.data F.stkXtsSlot.slot _ 9 (fun i hi => (xtsBlob_apart i hi).2.1.symm), loadedKey_none h]
  refine ⟨_, exec_xtsLoad k hserves hawake, ?_⟩
  rw [hload]
  refine ⟨?_, ?_, blob_finish_clearBlob _ _ _ _ (by decide) (fun i hi => (xtsBlob_apart i hi).2.2)⟩
  · rw [getF_finish_clearBlob _ _ _ _ _ (by decide) (fun i hi => (xtsBlob_apart i hi).1), getF_putF_self]
    rfl
  · rw [finish_xts, clearBlob_stk, putF_stk, putF_stk]

theorem xtsClear_empties : Completes (.xtsClear k) s (fun t =>
    getF t F.stkXtsSlot.status = 0 ∧ t.stk.xts = tabPut none s.stk.xts k.val none ∧
      (∀ i < 9, getF t (F.stkXtsBlob.data.at i) = 0)) := by
  refine ⟨_, exec_xtsClear k hserves hawake, ?_, ?_,
    blob_finish_clearBlob _ _ _ _ (by decide) (fun i hi => (xtsBlob_apart i hi).2.2)⟩
  · rw [clearXts, getF_finish_clearBlob _ _ _ _ _ (by decide) (fun i hi => (xtsBlob_apart i hi).1), getF_putF_self]
    rfl
  · rw [finish_xts, clearXts, clearBlob_stk]
    rfl

end

/-! ## What the end of a command leaves of the GCM slots (R384, R385): sealing a datagram counts its nonce, and neither key nor GEN -/

/-- Every GCM slot holds the same key with the same GEN. -/
structure SameKeys (s t : State) : Prop where
  key : ∀ k, (tabGet {} t.cod.gcm k).key = (tabGet {} s.cod.gcm k).key
  gen : ∀ k, (tabGet {} t.cod.gcm k).gen = (tabGet {} s.cod.gcm k).gen

theorem SameKeys.refl (s : State) : SameKeys s s := ⟨fun _ => rfl, fun _ => rfl⟩

theorem SameKeys.trans {s t u : State} (h : SameKeys s t) (k : SameKeys t u) : SameKeys s u :=
  ⟨fun n => (k.key n).trans (h.key n), fun n => (k.gen n).trans (h.gen n)⟩

theorem SameKeys.of {s t : State} (h : t.cod.gcm = s.cod.gcm) : SameKeys s t := by
  constructor <;> intro n <;> rw [h]

/-- What keeps the codec keeps the keys. -/
theorem Keep.sameKeys {w : Nat} {s t : State} (h : Keep w s t) (hw : w.testBit 14 = false) : SameKeys s t :=
  .of (congrArg Codec.gcm (h.cod.resolve_left (by simp [hw])))

theorem sameKeys_setBypass (s : State) (p : Nat) (on : Bool) : SameKeys s (setBypass s p on) := .of rfl

theorem sameKeys_enterEncode (s : State) (p n : Nat) : SameKeys s (enterEncode s p n) := by
  unfold enterEncode
  split
  · exact sameKeys_setBypass s p true
  · exact .refl s

theorem sameKeys_leaveEncode (s : State) (p : Nat) : SameKeys s (leaveEncode s p) := by
  unfold leaveEncode
  split
  · exact sameKeys_setBypass s p false
  · exact .refl s

theorem sameKeys_coded (s : State) (p : PortNo) (d : Datagram) : SameKeys s (coded s p d).2 := by
  unfold coded
  split
  · exact .refl s
  · dsimp only
    unfold codePayload
    split
    · exact sameKeys_enterEncode s _ _
    · exact sameKeys_enterEncode s _ _
    · exact .refl s

theorem sameKeys_sendDatagram (s : State) (d : Datagram) : SameKeys s (sendDatagram s d).2 := by
  unfold sendDatagram
  extract_lets r
  have hroute : SameKeys s r.2 := (keep_rstPort s d.dest d.seq).sameKeys (by decide)
  split
  · extract_lets d1
    have hcoded : SameKeys r.2 d1.2 := sameKeys_coded _ _ d
    have hcount : SameKeys d1.2 (countBlock d1.2 (msgBlock d1.1.msg)) := (keep_countBlock _ _).sameKeys (by decide)
    have hqueue (u : State) (p : PortNo) (f : Frame) : SameKeys u (enqueue u p f) := (keep_enqueue u p f).sameKeys (by decide)
    exact ((hroute.trans hcoded).trans hcount).trans ((hqueue _ _ _).trans (sameKeys_leaveEncode _ _))
  · exact hroute

/-- Sealing takes a nonce of the slot. -/
theorem sameKeys_sealDatagram (s : State) (d : Datagram) (r : Datagram × State) (h : sealDatagram s d = some r) : SameKeys s r.2 := by
  unfold sealDatagram at h
  split at h
  · cases h
  · dsimp only at h
    split at h
    · cases h
    · cases h
      constructor <;> intro n <;> dsimp only <;> rw [tabGet_put] <;> split
      · next e => rw [e]
      · rfl
      · next e => rw [e]
      · rfl

theorem sameKeys_gcmReset (s : State) (d : Datagram) : SameKeys s (gcmReset s d) := by
  unfold gcmReset
  have hdrop : SameKeys s (dropConn s d.dest) := (keep_dropConn s d.dest).sameKeys (by decide)
  exact (hdrop.trans (sameKeys_sendDatagram _ _)).trans ((keep_notify _ _ _).sameKeys (by decide))

theorem sameKeys_setConn (s : State) (c : Connection) : SameKeys s (setConn s c) := .of rfl

theorem sameKeys_pump (peer : PartAddr) (fuel : Nat) (s : State) : SameKeys s (pump peer fuel s) := by
  induction fuel generalizing s with
  | zero => exact .refl s
  | succ n ih =>
    unfold pump
    split
    · exact .refl s
    · split
      · exact .refl s
      · split
        · exact .refl s
        · dsimp only
          split
          · exact sameKeys_gcmReset s _
          · next heq =>
            split at heq
            · exact (((sameKeys_sealDatagram s _ _ heq).trans (sameKeys_sendDatagram _ _)).trans (sameKeys_setConn _ _)).trans (ih _)
            · cases heq
              exact ((sameKeys_sendDatagram s _).trans (sameKeys_setConn _ _)).trans (ih _)

theorem sameKeys_transmit (s : State) (m : RstOut) : SameKeys s (transmit s m) := by
  unfold transmit
  split
  · exact .refl s
  · extract_lets s1
    have hopen : SameKeys s s1 := by
      unfold s1
      split
      · exact .refl s
      · exact (sameKeys_setConn s _).trans (sameKeys_sendDatagram _ _)
    split
    · exact hopen
    · exact (hopen.trans (sameKeys_setConn _ _)).trans (sameKeys_pump _ _ _)

theorem sameKeys_letGo (s : State) (o : HeldOut) : SameKeys s (letGo s o) := by
  cases o with
  | record t r => exact (keep_putRecord s t r).sameKeys (by decide)
  | rst m => exact sameKeys_transmit s m

theorem sameKeys_twn (s : State) (w : Twin) : SameKeys s { s with twn := w } := .of rfl

theorem sameKeys_releaseHeld (fuel : Nat) (s : State) : SameKeys s (releaseHeld fuel s) := by
  induction fuel generalizing s with
  | zero => exact .refl s
  | succ n ih =>
    unfold releaseHeld
    split
    · exact .refl s
    · split
      · exact .refl s
      · exact ((sameKeys_twn s _).trans (sameKeys_letGo _ _)).trans (ih _)

theorem sameKeys_letGoAll (l : List HeldOut) (s : State) : SameKeys s (l.foldl letGo s) := by
  induction l generalizing s with
  | nil => exact .refl s
  | cons o l ih => exact (sameKeys_letGo s o).trans (ih _)

theorem sameKeys_mirrorChange (s0 s : State) : SameKeys s (mirrorChange s0 s) := by
  unfold mirrorChange
  split
  · split
    · exact .refl s
    · exact (sameKeys_twn s _).trans (sameKeys_letGoAll _ _)
  · extract_lets pages s1 _ s2 s3
    have h1 : SameKeys s s1 := ((keep_sendChange s _).sameKeys (by decide)).trans (sameKeys_twn _ _)
    have h2 : SameKeys s1 s2 := sameKeys_twn s1 _
    have h3 : SameKeys s2 s3 := sameKeys_releaseHeld _ s2
    exact (((h1.trans h2).trans h3).trans (sameKeys_twn s3 _)).trans ((keep_sendChange _ _).sameKeys (by decide))

/-- The end of a command may seal what it lets go, and leaves every key and GEN. -/
theorem sameKeys_finish (s0 s : State) : SameKeys s (finish s0 s) :=
  ((keep_updatePressure s).sameKeys (by decide)).trans (sameKeys_mirrorChange s0 _)

/-! ## GCM key slots (R384 to R386) -/

theorem gcmBlob_apart : ∀ i < 5, F.codGcmCtl.status.key ≠ (F.codGcmBlob.data.at i).key ∧
    F.codGcmCtl.slot.key ≠ (F.codGcmBlob.data.at i).key ∧ (F.codGcmBlob.data.at i).isQuiet = true := by
  decide

section
variable {s : State} (k : Fin 256) (hserves : serves s 8 = true) (hawake : isAwake s = true)
include hserves hawake

theorem exec_gcmLoad : exec (.gcmLoad k) s = .next (finish s (loadGcm s k.val)) := by
  change execGcmLoad k s = _
  rw [execGcmLoad, hserves, actAwake_taken _ _ _ hawake]

theorem exec_gcmClear : exec (.gcmClear k) s = .next (finish s (clearGcm s k.val)) := by
  change execGcmClear k s = _
  rw [execGcmClear, hserves, actAwake_taken _ _ _ hawake]

theorem gcmLoad_takes {bs : List Byte} (hfused : hasFeature s 2 = true)
    (hkey : unwrapKey s (blobBytes s F.codGcmBlob.data 5) = some bs) : Completes (.gcmLoad k) s (fun t =>
      (∀ i < 5, getF t (F.codGcmBlob.data.at i) = 0) ∧ getF t F.codGcmCtl.status = 0 ∧
      (tabGet {} t.cod.gcm k.val).gen = ((tabGet {} s.cod.gcm k.val).gen + 1) % 2 ^ 24 ∧
      (tabGet {} t.cod.gcm k.val).key = some (BitVec.ofNat 256 (leNat bs))) := by
  obtain ⟨u, g, hload, hgcm, hgen, hslotkey⟩ : ∃ (u : State) (g : GcmSlot),
      loadGcm s k.val = clearBlob (putF u F.codGcmCtl.status 0) F.codGcmBlob.data 5 ∧ u.cod.gcm = tabPut {} s.cod.gcm k.val g ∧
      g.gen = ((tabGet {} s.cod.gcm k.val).gen + 1) % 2 ^ 24 ∧ g.key = some (BitVec.ofNat 256 (leNat bs)) := by
    simp only [loadGcm, hasFeature_putF, unwrapKey_putF, hfused, if_true,
      blobBytes_putF s F.codGcmBlob.data F.codGcmCtl.slot _ 5 (fun i hi => (gcmBlob_apart i hi).2.1.symm), hkey]
    exact ⟨_, { key := some (BitVec.ofNat 256 (leNat bs)), peer := _, gen := _ }, rfl, rfl, rfl, rfl⟩
  have hslot : tabGet {} (clearBlob (putF u F.codGcmCtl.status 0) F.codGcmBlob.data 5).cod.gcm k.val = g := by
    rw [clearBlob_cod, putF_cod, hgcm, tabGet_put_self]
  refine ⟨_, exec_gcmLoad k hserves hawake, ?_⟩
  rw [hload]
  refine ⟨blob_finish_clearBlob _ _ _ _ (by decide) (fun i hi => (gcmBlob_apart i hi).2.2), ?_, ?_, ?_⟩
  · rw [getF_finish_clearBlob _ _ _ _ _ (by decide) (fun i hi => (gcmBlob_apart i hi).1), getF_putF_self]
    rfl
  · rw [(sameKeys_finish s _).gen, hslot, hgen]
  · rw [(sameKeys_finish s _).key, hslot, hslotkey]

theorem gcmLoad_fails
    (h : hasFeature s 2 = false ∨ s.plt.wrapKey = none ∨ unwrapKey s (blobBytes s F.codGcmBlob.data 5) = none) :
    Completes (.gcmLoad k) s (fun t =>
      getF t F.codGcmCtl.status = 2 ∧ (tabGet {} t.cod.gcm k.val).key = (tabGet {} s.cod.gcm k.val).key ∧
      (∀ i < 5, getF t (F.codGcmBlob.data.at i) = 0)) := by
  have hload : loadGcm s k.val = clearBlob (putF (putF s F.codGcmCtl.slot k.val) F.codGcmCtl.status 2) F.codGcmBlob.data 5 := by
    simp only [loadGcm, hasFeature_putF, unwrapKey_putF,
      blobBytes_putF s F.codGcmBlob.data F.codGcmCtl.slot _ 5 (fun i hi => (gcmBlob_apart i hi).2.1.symm), loadedKey_none h]
  refine ⟨_, exec_gcmLoad k hserves hawake, ?_⟩
  rw [hload]
  refine ⟨?_, ?_, blob_finish_clearBlob _ _ _ _ (by decide) (fun i hi => (gcmBlob_apart i hi).2.2)⟩
  · rw [getF_finish_clearBlob _ _ _ _ _ (by decide) (fun i hi => (gcmBlob_apart i hi).1), getF_putF_self]
    rfl
  · rw [(sameKeys_finish s _).key, clearBlob_cod, putF_cod, putF_cod]

theorem gcmClear_empties : Completes (.gcmClear k) s (fun t =>
    getF t F.codGcmCtl.status = 0 ∧ (tabGet {} t.cod.gcm k.val).key = none ∧
      (tabGet {} t.cod.gcm k.val).gen = (tabGet {} s.cod.gcm k.val).gen ∧ (∀ i < 5, getF t (F.codGcmBlob.data.at i) = 0)) := by
  have hslot : tabGet {} (clearGcm s k.val).cod.gcm k.val = { gen := (tabGet {} s.cod.gcm k.val).gen } := by
    rw [clearGcm, clearBlob_cod]
    exact tabGet_put_self _ _ _ _
  refine ⟨_, exec_gcmClear k hserves hawake, ?_, ?_, ?_,
    blob_finish_clearBlob _ _ _ _ (by decide) (fun i hi => (gcmBlob_apart i hi).2.2)⟩
  · rw [clearGcm, getF_finish_clearBlob _ _ _ _ _ (by decide) (fun i hi => (gcmBlob_apart i hi).1), getF_putF_self]
    rfl
  · rw [(sameKeys_finish s _).key, hslot]
  · rw [(sameKeys_finish s _).gen, hslot]

end

/-! ## The table slots of the codec (R374, R383) -/

theorem slotBusy_putF (s : State) (f : Field) (v j : Nat) (hkey : F.codCtl.encMask.key ≠ f.key) :
    slotBusy (putF s f v) j = slotBusy s j := by
  simp only [slotBusy, inFlight, putF_xfr, putF_lnk, getF_putF_other _ _ _ _ hkey]

theorem tableLengths_putF (s : State) (f : Field) (v : Nat) (hkey : ∀ i < 16, (F.codTableData.data.at i).key ≠ f.key) :
    tableLengths (putF s f v) = tableLengths s := by
  unfold tableLengths
  congr 1
  refine List.map_congr_left (fun i hi => ?_)
  rw [getF_putF_other _ _ _ _ (hkey i (List.mem_range.1 hi))]

theorem tableData_apart : ∀ i < 16, (F.codTableData.data.at i).key ≠ F.codTableCtl.slot.key ∧
    (F.codTableData.data.at i).key ≠ F.codTableCtl.tag.key := by
  decide

/-- LOAD writes SLOT and TAG, and decides on the slot and the table as they were. -/
theorem loadTable_cases (s : State) (j tag : Nat) (hlo : 1 ≤ tag) (hhi : tag ≤ 255) :
    loadTable s j tag =
      (if slotBusy s j then putF (putF (putF s F.codTableCtl.slot j) F.codTableCtl.tag tag) F.codTableCtl.status 2
      else if tableValid (tableLengths s) then
        putF (setTable (putF (putF s F.codTableCtl.slot j) F.codTableCtl.tag tag) j
          { loaded := true, tag := tag, lengths := tableLengths s }) F.codTableCtl.status 0
      else putF (putF (putF s F.codTableCtl.slot j) F.codTableCtl.tag tag) F.codTableCtl.status 3) := by
  have htag (u : State) : getF (putF u F.codTableCtl.tag tag) F.codTableCtl.tag = tag :=
    (getF_putF_self u _ _).trans (Nat.mod_eq_of_lt (show tag < 256 by omega))
  have hbusy (u : State) : slotBusy (putF (putF u F.codTableCtl.slot j) F.codTableCtl.tag tag) j = slotBusy u j := by
    rw [slotBusy_putF _ _ _ _ (by decide), slotBusy_putF _ _ _ _ (by decide)]
  have hlengths : tableLengths (putF (putF s F.codTableCtl.slot j) F.codTableCtl.tag tag) = tableLengths s := by
    rw [tableLengths_putF _ _ _ (fun i hi => (tableData_apart i hi).2), tableLengths_putF _ _ _ (fun i hi => (tableData_apart i hi).1)]
  have hnonzero : (tag == 0) = false := by simp; omega
  simp only [loadTable, hlo, hhi, and_self, if_true, htag, hbusy, hlengths, hnonzero, Bool.or_false]
  cases tableValid (tableLengths s) <;> rfl

section
variable {s : State} (j : Fin 4) (hserves : serves s 8 = true) (hawake : isAwake s = true)
include hserves hawake

theorem exec_tableLoad (tag : Nat) : exec (.tableLoad j tag) s = .next (finish s (loadTable s j.val tag)) := by
  change execTableLoad j tag s = _
  rw [execTableLoad, hserves, actAwake_taken _ _ _ hawake]

theorem exec_tableClear : exec (.tableClear j) s = .next (finish s
    (if slotBusy s j.val then putF (putF s F.codTableCtl.slot j.val) F.codTableCtl.status 2
    else putF (setTable (putF s F.codTableCtl.slot j.val) j.val {}) F.codTableCtl.status 0)) := by
  change execTableClear j s = _
  rw [execTableClear, hserves, actAwake_taken _ _ _ hawake]
  dsimp only
  rw [slotBusy_putF _ _ _ _ (by decide)]

end

/-! ## The obligation -/

/-- Settles O27: one lemma for each command and outcome above. -/
theorem keyAndTableSlots : Obligations.KeyAndTableSlots := by
  refine ⟨?_, ?_, ?_⟩
  · intro s k hserves hawake
    exact ⟨fun bs => xtsLoad_takes k hserves hawake, xtsLoad_fails k hserves hawake, xtsClear_empties k hserves hawake⟩
  · intro s k hserves hawake
    exact ⟨fun bs => gcmLoad_takes k hserves hawake, gcmLoad_fails k hserves hawake, gcmClear_empties k hserves hawake⟩
  · intro s j hserves hawake
    refine ⟨?_, ?_, ?_, ?_, ?_⟩
    · intro tag hfree hlo hhi hvalid
      rw [Effect, exec_tableLoad j hserves hawake, loadTable_cases s _ _ hlo hhi, hfree, hvalid]
      rfl
    · intro tag hfree hlo hhi hbad
      rw [Effect, exec_tableLoad j hserves hawake, loadTable_cases s _ _ hlo hhi, hfree, hbad]
      rfl
    · intro tag hbusy hlo hhi
      rw [Effect, exec_tableLoad j hserves hawake, loadTable_cases s _ _ hlo hhi, if_pos hbusy]
    · intro hfree
      rw [Effect, exec_tableClear j hserves hawake, hfree]
      rfl
    · intro hbusy
      rw [Effect, exec_tableClear j hserves hawake, if_pos hbusy]

end Sys2Proof.Machine
end

section
/-! SUPPORT. An atomic of 4 bytes whose operand does not fit in 4 bytes (against O46, R425), and a BAR 4 read in a state whose registers
hold what no write gives them (against O45, R137, R437). -/

namespace Sys2Proof.Machine

open Sys2Proof

/-! ## An operand wider than its access (R425) -/

/-- Ochre of 32 GiB, with the bytes 5, 0, 0, 0 at address 0. -/
def fiveState : State := { putF State.reset F.stkOchreCfg.interleavedGib 1 with mem := [(0, 5)] }

/-- The access is one that reaches memory. -/
theorem fiveState_reached : inOchre fiveState 0 4 = true ∧ writeRefused fiveState 0 4 = false ∧ meetsPoison fiveState false 0 4 = false ∧
    meetsBusy fiveState 0 4 = false := by
  decide +kernel

/-- MIN_U of 4 bytes with the operand 2^32 takes the low 4 bytes of the operand and stores 0; by the whole operand it would store 5. -/
theorem minU_fiveState : memByte (memAccess fiveState .minU 4 0 (2 ^ 32) []).2.2 0 = 0 ∧
    (leBytes 4 (atomicResult .minU 4 (leNat (memBytes fiveState 0 4)) (2 ^ 32) 0))[0]? = some 5 := by
  decide +kernel

/-- Refutes O46, with `fiveState`: its clause on atomics compares the old value with the whole operand, but an atomic of 4 bytes (R425)
takes the low 4 bytes of the operand that its frame carries. The clause lacks the premise x < 2^(8 n). -/
theorem not_accessesReachMemory : ¬ Obligations.AccessesReachMemory := by
  unfold Obligations.AccessesReachMemory
  intro h
  obtain ⟨-, -, -, -, -, hatomic⟩ := h fiveState .minU 4 0 (2 ^ 32) []
  obtain ⟨hochre, hopen, hwhole, hidle⟩ := fiveState_reached
  obtain ⟨-, -, hstored⟩ := hatomic hochre (by decide) (by decide) hopen hwhole hidle
  obtain ⟨hzero, hfive⟩ := minU_fiveState
  have hbyte := hstored 0
  rw [hzero, if_pos (by simp [leBytes]), Nat.sub_zero, leNat, hfive] at hbyte
  exact absurd hbyte (by decide)

/-! ## A line past those that the directory numbers (R437) -/

/-- A READY part whose registers give an interleaved part of 2^49 bytes and a BAR 4 of as many. The home of line 2^41 names agent 0 as
its owner; the Modified line kept under that agent's key for line 2^41 is line 0 of agent 1 (`lineKey`). -/
def farState : State :=
  { State.reset with
    plt := { State.reset.plt with state := .ready }
    fields := [(F.stkOchreCfg.interleavedGib.key, 2 ^ 14)]
    pcie := { State.reset.pcie with bar4Log2 := 49 }
    coh := { lines := [(lineKey 0 (2 ^ 41), { state := .modified, data := List.replicate 128 1 })]
             home := [(2 ^ 41, { state := .owned, owner := 0 })] } }

/-- The read is one that BAR 4 serves, of line 2^41 alone. -/
theorem farState_served : isReady farState = true ∧ isAwake farState = true ∧ inBar4 farState (2 ^ 48) 1 = true ∧
    linesOf (2 ^ 48) 1 = [2 ^ 41] := by
  decide +kernel

/-- No key of a cached copy is that of a line past 2^41. -/
theorem oneOwner_of_le (s : State) {l : Nat} (h : 2 ^ 41 ≤ l) : OneOwner s l := by
  intro e _ hline
  have := Nat.mod_lt e.1 (Nat.two_pow_pos 41)
  omega

/-- The read takes the other line's bytes into memory. -/
theorem readBar4_farState : memByte farState (2 ^ 48) = 0 ∧ memByte (readBar4 farState (2 ^ 48) 1) (2 ^ 48) = 1 := by
  decide +kernel

theorem exec_bar4Read {s : State} (hready : isReady s = true) (hawake : isAwake s = true) (x n : Nat) :
    exec (.bar4Read x n) s = .next (finish s (readBar4 s x n)) := by
  have hrails : s.plt.mainRails = true := by
    rw [isReady, Bool.and_eq_true] at hready
    exact hready.1
  have hnow : ¬ (isReady s && !isAwake s) = true := by simp [hawake]
  change execBar4Read x n s = _
  rw [execBar4Read, actBar4, if_neg hnow, hrails, act_taken]

/-- Refutes O45, with `farState`: its clause on reads says that every byte reads as before where each line of the access has one owner,
but of lines from 2^41 on, which no key of a cached copy names, that premise says nothing. The clause lacks the premise that the
addresses lie below 2^48, as they do where STK_OCHRE_CFG.INTERLEAVED_GIB and the size of BAR 4 hold values that can be written. -/
theorem not_barFourReachesOchre : ¬ Obligations.BarFourReachesOchre := by
  unfold Obligations.BarFourReachesOchre
  intro ⟨hread, _, _⟩
  obtain ⟨hready, hawake, hin, hlines⟩ := farState_served
  have howner : ∀ l ∈ linesOf (2 ^ 48) 1, OneOwner farState l := by
    intro l hl
    rw [hlines, List.mem_singleton] at hl
    exact oneOwner_of_le _ hl.ge
  obtain ⟨hserved, -⟩ := hread farState (2 ^ 48) 1 hready hawake
  obtain ⟨t, ht, -, -, hsame⟩ := hserved hin
  rw [exec_bar4Read hready hawake] at ht
  have hbyte := hsame howner (2 ^ 48)
  obtain ⟨hbefore, hafter⟩ := readBar4_farState
  rw [← Host.Outcome.next.inj ht, memByte_congr (finish_mem _ _) (finish_coh _ _), hbefore, hafter] at hbyte
  exact absurd hbyte (by decide)

end Sys2Proof.Machine
end

section
/-! SUPPORT. How object commands end: completions in their queue (R151, R159, R249), and what a command leaves of the table (R140). -/

namespace Sys2Proof.Machine

open Sys2Proof

/-! ## Completions -/

/-- What a completion of an object command may change of the stacks: its own queue. -/
structure SameObjects (s t : State) : Prop where
  stk : t.stk = { s.stk with objOut := t.stk.objOut, objCqTail := t.stk.objCqTail, objSeq := t.stk.objSeq, objPhase := t.stk.objPhase }
  fields : t.fields = s.fields
  out : ∃ l, t.out = l ++ s.out

theorem SameObjects.refl (s : State) : SameObjects s s := ⟨rfl, rfl, [], rfl⟩

theorem SameObjects.trans {s t u : State} (h : SameObjects s t) (k : SameObjects t u) : SameObjects s u where
  stk := by
    have hstk := k.stk
    rw [h.stk] at hstk
    exact hstk
  fields := k.fields.trans h.fields
  out := by
    obtain ⟨l, hl⟩ := h.out
    obtain ⟨m, hm⟩ := k.out
    exact ⟨m ++ l, by rw [hm, hl, List.append_assoc]⟩

theorem Told.sameObjects {s t : State} (h : Told s t) (hfields : t.fields = s.fields) : SameObjects s t :=
  ⟨by rw [h.stk], hfields, h.out⟩

theorem sameObjects_writeObjCompletion (s : State) (r : ObjCompletion) : SameObjects s (writeObjCompletion s r) := by
  unfold writeObjCompletion
  extract_lets last _ s1 s2
  have hslot : SameObjects s s1 := ⟨rfl, rfl, [], rfl⟩
  have hpost : SameObjects s1 s2 := (told_postRecord _ _ _ _).sameObjects ((keep_postRecord _ _ _ _).fields.resolve_left (by decide))
  have hnotify : SameObjects s2 (notify s2 F.stkObjNotify.enable F.stkObjNotify.vector) :=
    (told_notify _ _ _).sameObjects ((keep_notify _ _ _).fields.resolve_left (by decide))
  exact (hslot.trans hpost).trans hnotify

theorem sameObjects_flushObj (fuel : Nat) (s : State) : SameObjects s (flushObj fuel s) := by
  induction fuel generalizing s with
  | zero => exact .refl s
  | succ n ih =>
    unfold flushObj
    split
    · exact .refl s
    · next r rest _ =>
      split
      · exact .refl s
      · have htake : SameObjects s { s with stk := { s.stk with objOut := rest } } := ⟨rfl, rfl, [], rfl⟩
        exact (htake.trans (sameObjects_writeObjCompletion _ r)).trans (ih _)

theorem sameObjects_completeObj (s : State) (h status tag : Nat) : SameObjects s (completeObj s h status tag) := by
  unfold completeObj
  extract_lets _ s1
  have hwait : SameObjects s s1 := ⟨rfl, rfl, [], rfl⟩
  exact hwait.trans (sameObjects_flushObj _ _)

theorem SameObjects.odt {s t : State} (h : SameObjects s t) : t.stk.odt = s.stk.odt := by rw [h.stk]

theorem SameObjects.objWaiting {s t : State} (h : SameObjects s t) : t.stk.objWaiting = s.stk.objWaiting := by rw [h.stk]

@[simp] theorem completeObj_odt (s : State) (h status tag : Nat) : (completeObj s h status tag).stk.odt = s.stk.odt :=
  (sameObjects_completeObj s h status tag).odt

@[simp] theorem completeObj_objWaiting (s : State) (h status tag : Nat) :
    (completeObj s h status tag).stk.objWaiting = s.stk.objWaiting :=
  (sameObjects_completeObj s h status tag).objWaiting

/-- Writing a completion leaves what waits. -/
theorem writeObjCompletion_objOut (s : State) (r : ObjCompletion) : (writeObjCompletion s r).stk.objOut = s.stk.objOut := by
  unfold writeObjCompletion
  extract_lets last _ s1 s2
  have hpost : s2.stk = s1.stk := (told_postRecord s1 _ _ _).stk
  have hnotify : (notify s2 F.stkObjNotify.enable F.stkObjNotify.vector).stk = s2.stk := (told_notify s2 _ _).stk
  rw [hnotify, hpost]

/-! ## A completion is reported -/

/-- The first way of `ObjReported`: the completion has left the part. -/
def ObjWritten (t : State) (handle status tag : Nat) : Prop :=
  ∃ slot seq phase, let a := getF t F.stkObjCqBase.base * 4096 + 32 * slot
    let bs := objCompletionBytes { handle := handle, status := status, tag := tag } seq phase
    Output.hostWrite (pasidOf t 0) a false (bs.take 24) ∈ t.out ∧ Output.hostWrite (pasidOf t 0) (a + 24) false (bs.drop 24) ∈ t.out

/-- What has left the part stays among what it sent, while the queue's base and the tenant's PASID stay. -/
theorem objWritten_mono {t u : State} {handle status tag : Nat} (h : ObjWritten t handle status tag)
    (hbase : getF u F.stkObjCqBase.base = getF t F.stkObjCqBase.base)
    (hpasid : getF u (F.rqtTCtl.pasid.at 0) = getF t (F.rqtTCtl.pasid.at 0)) (hout : ∃ l, u.out = l ++ t.out) :
    ObjWritten u handle status tag := by
  obtain ⟨slot, seq, phase, hfirst, hlast⟩ := h
  obtain ⟨l, hl⟩ := hout
  have hsent {o : Output} (ho : o ∈ t.out) : o ∈ u.out := by
    rw [hl]
    exact List.mem_append_right _ ho
  refine ⟨slot, seq, phase, ?_, ?_⟩
  · rw [hbase, pasidOf, hpasid]
    exact hsent hfirst
  · rw [hbase, pasidOf, hpasid]
    exact hsent hlast

theorem objReported_mono {t u : State} {handle status tag : Nat} (h : ObjReported t handle status tag)
    (hbase : getF u F.stkObjCqBase.base = getF t F.stkObjCqBase.base)
    (hpasid : getF u (F.rqtTCtl.pasid.at 0) = getF t (F.rqtTCtl.pasid.at 0)) (hout : ∃ l, u.out = l ++ t.out)
    (hwait : u.stk.objOut = t.stk.objOut) : ObjReported u handle status tag := by
  rcases h with h | h
  · exact .inl (objWritten_mono h hbase hpasid hout)
  · exact .inr (by rw [hwait]; exact h)

theorem objReported_finish {t : State} {handle status tag : Nat} (s0 : State) (h : ObjReported t handle status tag) :
    ObjReported (finish s0 t) handle status tag :=
  objReported_mono h (finish_getF _ _ _ (by decide)) (finish_getF _ _ _ (by decide)) (finish_out _ _) (finish_objOut _ _)

theorem leBytes_length (n v : Nat) : (leBytes n v).length = n := by
  induction n generalizing v with
  | zero => rfl
  | succ n ih => rw [leBytes, List.length_cons, ih]

theorem objCompletionBytes_length (r : ObjCompletion) (seq : Nat) (phase : Bool) : (objCompletionBytes r seq phase).length = 32 := by
  simp only [objCompletionBytes, List.length_append, leBytes_length]

/-- A record of 32 bytes leaves in two writes, the final 8 bytes last (R151, R597). -/
theorem postRecord_out (s : State) (p a : Nat) (bs : List Byte) (h : bs.length = 32) :
    (postRecord s p a bs).out = .hostWrite p (a + 24) false (bs.drop 24) :: .hostWrite p a false (bs.take 24) :: s.out := by
  simp [postRecord, emitAll, emit, h]

/-- A completion that is written leaves the part in two writes under the PASID of tenant 0. -/
theorem objWritten_writeObjCompletion (s : State) (handle status tag : Nat) :
    ObjWritten (writeObjCompletion s { handle := handle, status := status, tag := tag }) handle status tag := by
  have hfields := (sameObjects_writeObjCompletion s { handle := handle, status := status, tag := tag }).fields
  have hbase := getF_of_fields hfields F.stkObjCqBase.base
  have hpasid := getF_of_fields hfields (F.rqtTCtl.pasid.at 0)
  obtain ⟨t, ht, hnotified⟩ : ∃ t, t.out = .hostWrite (pasidOf s 0) (getF s F.stkObjCqBase.base * 4096 + 32 * s.stk.objCqTail + 24) false
        ((objCompletionBytes { handle := handle, status := status, tag := tag } s.stk.objSeq s.stk.objPhase).drop 24) ::
      .hostWrite (pasidOf s 0) (getF s F.stkObjCqBase.base * 4096 + 32 * s.stk.objCqTail) false
        ((objCompletionBytes { handle := handle, status := status, tag := tag } s.stk.objSeq s.stk.objPhase).take 24) :: s.out ∧
      writeObjCompletion s { handle := handle, status := status, tag := tag } =
        notify t F.stkObjNotify.enable F.stkObjNotify.vector :=
    ⟨_, postRecord_out _ _ _ _ (objCompletionBytes_length _ _ _), rfl⟩
  obtain ⟨l, hl⟩ := (told_notify t F.stkObjNotify.enable F.stkObjNotify.vector).out
  refine ⟨s.stk.objCqTail, s.stk.objSeq, s.stk.objPhase, ?_⟩
  dsimp only
  rw [hbase, pasidOf, hpasid, hnotified, hl, ht]
  simp [pasidOf]

/-- Every completion that waits is written or waits on. -/
theorem objReported_flushObj (fuel : Nat) (s : State) (handle status tag : Nat)
    (h : { handle := handle, status := status, tag := tag } ∈ s.stk.objOut) : ObjReported (flushObj fuel s) handle status tag := by
  induction fuel generalizing s with
  | zero => exact .inr h
  | succ n ih =>
    unfold flushObj
    split
    · exact .inr h
    · next r rest hqueue =>
      split
      · exact .inr h
      · rw [hqueue, List.mem_cons] at h
        rcases h with rfl | h
        · have hflush := sameObjects_flushObj n (writeObjCompletion { s with stk := { s.stk with objOut := rest } }
            { handle := handle, status := status, tag := tag })
          exact .inl (objWritten_mono (objWritten_writeObjCompletion _ handle status tag) (getF_of_fields hflush.fields _)
            (getF_of_fields hflush.fields _) hflush.out)
        · refine ih _ ?_
          rw [writeObjCompletion_objOut]
          exact h

theorem objReported_completeObj (s : State) (handle status tag : Nat) :
    ObjReported (completeObj s handle status tag) handle status tag :=
  objReported_flushObj _ _ _ _ _ (List.mem_append_right _ (List.mem_singleton_self _))

end Sys2Proof.Machine
end

section
/-! SUPPORT. Object commands (O53): what stops them (R151, R152), and what each does to the Object Descriptor Table (R143 to R149). -/

namespace Sys2Proof.Machine

open Sys2Proof

/-! ## A command is read from its queue (R159) -/

/-- The part has read the command at the head of the object queue. -/
def objRead (s : State) : State :=
  putF (emit s (.hostRead (pasidOf s 0) (getF s F.stkObjSqBase.base * 4096 + 64 * getF s F.stkObjSqHead.head) 64))
    F.stkObjSqHead.head (if getF s F.stkObjSqHead.head + 1 ≥ objSqSlots s then 0 else getF s F.stkObjSqHead.head + 1)

theorem takeObj_eq (s : State) (op : Nat) (c : ObjCommand) : takeObj s op c =
    if c.opcode = 0 || 9 < c.opcode || !tierAllowed op c.tier then completeObj (objRead s) c.handle 11 c.tag
    else if !isSet (objRead s) F.stkObjCtl.stkLock then completeObj (objRead s) c.handle 8 c.tag
    else runObj (objRead s) op c := rfl

@[simp] theorem objRead_stk (s : State) : (objRead s).stk = s.stk := rfl
@[simp] theorem odtOf_objRead (s : State) (i : Nat) : odtOf (objRead s) i = odtOf s i := rfl
@[simp] theorem isCurrent_objRead (s : State) (h : Nat) : isCurrent (objRead s) h = isCurrent s h := rfl
@[simp] theorem objMustWait_objRead (s : State) (op : Nat) (c : ObjCommand) : objMustWait (objRead s) op c = objMustWait s op c := rfl
@[simp] theorem engineLease_objRead (s : State) : engineLease (objRead s) = engineLease s := rfl
@[simp] theorem memBytes_objRead (s : State) (a n : Nat) : memBytes (objRead s) a n = memBytes s a n := rfl

/-- Reading the command moves the head of its queue and no other field. -/
theorem getF_objRead (s : State) (f : Field) (h : f.key ≠ F.stkObjSqHead.head.key) : getF (objRead s) f = getF s f :=
  getF_putF_other _ _ _ _ h

@[simp] theorem isSet_lock_objRead (s : State) : isSet (objRead s) F.stkObjCtl.stkLock = isSet s F.stkObjCtl.stkLock := by
  rw [isSet, getF_objRead _ _ (by decide), isSet]

@[simp] theorem logicalUnits_objRead (s : State) : logicalUnits (objRead s) = logicalUnits s := by
  simp only [logicalUnits, getF_objRead s F.flsLogical.logicalUnits (by decide)]
  rfl

theorem interGib_objRead (s : State) : interGib (objRead s) = interGib s := getF_objRead s _ (by decide)

theorem writeRefused_objRead (s : State) (a n : Nat) : writeRefused (objRead s) a n = writeRefused s a n := by
  have hranges : ownRanges (objRead s) = ownRanges s := by
    have hfields : ∀ f ∈ [F.stkPageRecBase.base, F.stkManifestBase.base, F.stkManifestUnits.count, F.pfxTableBase.base,
        F.pfxBlockCount.count, F.pfxBlockBase.base, F.xfrLedgerBase.base, F.xfrLedgerCount.count, F.xfrBlockAreaBase.base,
        F.xfrBlockAreaSize.granules, F.schSaveBase.base], getF (objRead s) f = getF s f := by
      intro f hf
      exact getF_objRead s f ((by decide : ∀ g ∈ [F.stkPageRecBase.base, F.stkManifestBase.base, F.stkManifestUnits.count,
        F.pfxTableBase.base, F.pfxBlockCount.count, F.pfxBlockBase.base, F.xfrLedgerBase.base, F.xfrLedgerCount.count,
        F.xfrBlockAreaBase.base, F.xfrBlockAreaSize.granules, F.schSaveBase.base], g.key ≠ F.stkObjSqHead.head.key) f hf)
    simp only [List.mem_cons, List.not_mem_nil, or_false, forall_eq_or_imp, forall_eq] at hfields
    have hgranules : localGranules (objRead s) = localGranules s := by
      rw [localGranules, interGib_objRead, localGranules]
      rfl
    simp only [ownRanges, hfields, hgranules]
  rw [writeRefused, isSet_lock_objRead, hranges, writeRefused]
  rfl

theorem slateObjectEnd_objRead (s : State) : slateObjectEnd (objRead s) = slateObjectEnd s := by
  rw [slateObjectEnd, getF_objRead s _ (by decide), getF_objRead s _ (by decide), slateObjectEnd]

/-- The destination of a command is judged as before it was read. -/
@[simp] theorem destStatus_objRead (s : State) (own : Option Nat) (tier a n prot keySlot : Nat) :
    destStatus (objRead s) own tier a n prot keySlot = destStatus s own tier a n prot keySlot := by
  have hplace : locationOk (objRead s) own tier a n = locationOk s own tier a n := by
    simp only [locationOk, inInterleaved, interGib_objRead, writeRefused_objRead, slateObjectEnd_objRead, logicalUnits_objRead]
    rfl
  rw [destStatus, hplace, destStatus]
  rfl

/-! ## The rows of object commands -/

/-- A row takes the command of its opcode where the part can read it. -/
def ObjRow (r : Instr) (op : Nat) (c : ObjCommand) : Prop :=
  ∀ s, exec r s = act s (canReadObj s) (fun s => takeObj s op c)

theorem objRow_allocate (c : ObjCommand) : ObjRow (.allocate c) 1 c := fun _ => rfl
theorem objRow_publish (c : ObjCommand) : ObjRow (.publish c) 2 c := fun _ => rfl
theorem objRow_seal (c : ObjCommand) : ObjRow (.seal c) 3 c := fun _ => rfl
theorem objRow_move (c : ObjCommand) : ObjRow (.move c) 4 c := fun _ => rfl
theorem objRow_unpublish (c : ObjCommand) : ObjRow (.unpublish c) 5 c := fun _ => rfl
theorem objRow_free (c : ObjCommand) : ObjRow (.free c) 6 c := fun _ => rfl
theorem objRow_pin (c : ObjCommand) : ObjRow (.pin c) 7 c := fun _ => rfl
theorem objRow_unpin (c : ObjCommand) : ObjRow (.unpin c) 8 c := fun _ => rfl
theorem objRow_adopt (c : ObjCommand) : ObjRow (.adopt c) 9 c := fun _ => rfl

theorem exec_of_objRow {r : Instr} {op : Nat} {c : ObjCommand} {s : State} (hrow : ObjRow r op c) (hread : canReadObj s = true) :
    exec r s = .next (finish s (takeObj s op c)) := by
  rw [hrow, hread, act_taken]

/-- A command that is taken runs at once. -/
theorem exec_of_objTaken {r : Instr} {op : Nat} {c : ObjCommand} {s : State} (hrow : ObjRow r op c) (hlo : 1 ≤ op) (hhi : op ≤ 9)
    (h : ObjTaken s op c) : exec r s = .next (finish s (runObj (objRead s) op c)) := by
  obtain ⟨hread, hop, htier, hlock, -⟩ := h
  have hlisted : (c.opcode = 0 || 9 < c.opcode || !tierAllowed op c.tier) = false := by
    simp [htier, hop]
    omega
  rw [exec_of_objRow hrow hread, takeObj_eq, hlisted, isSet_lock_objRead, hlock]
  rfl

/-! ## How a command ends -/

/-- A command that completes at once reports its status, and leaves the table where what it did before leaves it. -/
theorem objEnds_of_completeObj {r : Instr} {s u : State} {handle status tag : Nat}
    (hexec : exec r s = .next (finish s (completeObj u handle status tag))) (hodt : u.stk.odt = s.stk.odt) :
    ObjEnds r s handle status tag :=
  ⟨_, hexec, objReported_finish s (objReported_completeObj _ _ _ _), by rw [finish_odt, completeObj_odt, hodt]⟩

theorem odtBecomes_congr {s t u : State} {i : Nat} {e : OdtEntry} (h : OdtBecomes s t i e) (hodt : u.stk.odt = t.stk.odt) :
    OdtBecomes s u i e := by
  unfold OdtBecomes odtOf
  rw [hodt]
  exact h

theorem odtBecomes_setOdt {s t : State} (i : Nat) (e : OdtEntry) (hodt : t.stk.odt = s.stk.odt) : OdtBecomes s (setOdt t i e) i e := by
  refine ⟨tabGet_put_self _ _ _ _, fun j hj => ?_⟩
  rw [odtOf, setOdt, tabGet_put_other _ _ _ hj, hodt, odtOf]

/-- A command that sets one entry and completes. -/
theorem odtBecomes_finish_completeObj {s u : State} {i : Nat} {e : OdtEntry} (s0 : State) (handle status tag : Nat)
    (h : OdtBecomes s u i e) : OdtBecomes s (finish s0 (completeObj u handle status tag)) i e :=
  odtBecomes_congr h (by rw [finish_odt, completeObj_odt])

/-- A command that completes with entry `i` changed. -/
theorem reports_and_becomes {r : Instr} {s u : State} {handle status tag i : Nat} {e : OdtEntry}
    (hexec : exec r s = .next (finish s (completeObj u handle status tag))) (h : OdtBecomes s u i e) :
    Completes r s (fun t => ObjReported t handle status tag ∧ OdtBecomes s t i e) :=
  ⟨_, hexec, objReported_finish s (objReported_completeObj _ _ _ _), odtBecomes_finish_completeObj s _ _ _ h⟩

/-! ## What stops a command (R151, R152) -/

/-- A command that must wait is kept, in order. -/
theorem runObj_waits {s : State} {op : Nat} {c : ObjCommand} (hwait : objMustWait s op c = true) :
    runObj s op c = { s with stk := { s.stk with objWaiting := s.stk.objWaiting ++ [(op, c)] } } := by
  unfold runObj
  rw [if_pos hwait]

theorem objStops_of_row {r : Instr} {op : Nat} {c : ObjCommand} {s : State} (hrow : ObjRow r op c) (hlo : 1 ≤ op) (hhi : op ≤ 9)
    (hread : canReadObj s = true) : ObjStops r op c s := by
  have hexec := exec_of_objRow hrow hread
  rw [takeObj_eq] at hexec
  refine ⟨?_, ?_, ?_⟩
  · intro hbad
    rw [if_pos (by simpa [or_assoc] using hbad)] at hexec
    exact objEnds_of_completeObj hexec rfl
  all_goals
    intro hop htier hlock
    rw [if_neg (by simp [htier, hop]; omega), isSet_lock_objRead, hlock] at hexec
  · exact objEnds_of_completeObj hexec rfl
  · intro hwait
    rw [if_neg (by simp), runObj_waits (by simpa using hwait)] at hexec
    exact ⟨_, hexec, by rw [finish_objWaiting]; rfl, by rw [finish_odt]; rfl⟩

/-- A command that names an object ends STALE where its handle is not current. -/
theorem runObj_stale {s : State} {op : Nat} {c : ObjCommand} (hlo : 2 ≤ op) (hhi : op ≤ 8) (hnow : objMustWait s op c = false)
    (hstale : isCurrent s c.handle = false) : runObj s op c = completeObj s c.handle 1 c.tag := by
  interval_cases op <;> simp [runObj, hnow, doPublish, doSeal, doMove, doUnpublish, doFree, doPin, doUnpin, hstale]

/-- The states that a command of each opcode does not allow (R143). -/
def stateBars (op : Nat) (st : ObjState) : Prop :=
  op = 2 ∧ st ≠ .writable ∧ st ≠ .published ∨ (op = 3 ∨ op = 6) ∧ st ≠ .writable ∨
    (op = 4 ∨ op = 5 ∨ op = 7 ∨ op = 8) ∧ st ≠ .published

theorem runObj_badState {s : State} {op : Nat} {c : ObjCommand} (hnow : objMustWait s op c = false)
    (hcurrent : isCurrent s c.handle = true) (hbars : stateBars op (odtOf s (handleIndex c.handle)).state) :
    runObj s op c = completeObj s c.handle 2 c.tag := by
  rcases hbars with ⟨rfl, hw, hp⟩ | ⟨rfl | rfl, hw⟩ | ⟨rfl | rfl | rfl | rfl, hp⟩
  · simp [runObj, hnow, doPublish, hcurrent, hw, hp]
  · simp [runObj, hnow, doSeal, hcurrent, hw]
  · simp [runObj, hnow, doFree, hcurrent, hw]
  · simp [runObj, hnow, doMove, hcurrent, hp]
  · simp [runObj, hnow, doUnpublish, hcurrent, hp]
  · simp [runObj, hnow, doPin, hcurrent, hp]
  · simp [runObj, hnow, doUnpin, hcurrent, hp]

/-- The pin counts that bar a command of each opcode (R143, R147). -/
def pinBars (op pins : Nat) : Prop := (op = 4 ∨ op = 5) ∧ pins ≠ 0 ∨ op = 7 ∧ 65535 ≤ pins ∨ op = 8 ∧ pins = 0

theorem runObj_pinned {s : State} {op : Nat} {c : ObjCommand} (hnow : objMustWait s op c = false)
    (hcurrent : isCurrent s c.handle = true) (hstate : (odtOf s (handleIndex c.handle)).state = .published)
    (hbars : pinBars op (odtOf s (handleIndex c.handle)).pinCount) : runObj s op c = completeObj s c.handle 3 c.tag := by
  rcases hbars with ⟨rfl | rfl, hpin⟩ | ⟨rfl, hpin⟩ | ⟨rfl, hpin⟩
  · simp [runObj, hnow, doMove, hcurrent, hstate, hpin]
  · simp [runObj, hnow, doUnpublish, hcurrent, hstate, hpin]
  · simp [runObj, hnow, doPin, hcurrent, hstate, Nat.not_lt.2 hpin]
  · simp [runObj, hnow, doUnpin, hcurrent, hstate, hpin]

theorem handleStops_of_row {r : Instr} {op : Nat} {c : ObjCommand} {s : State} (hrow : ObjRow r op c) (hlo : 2 ≤ op) (hhi : op ≤ 8) :
    HandleStops r op c s := by
  intro htaken
  have hexec := exec_of_objTaken hrow (by omega) (by omega) htaken
  obtain ⟨-, -, -, -, hnow⟩ := htaken
  refine ⟨fun hstale => ?_, fun hcurrent => ⟨fun hbars => ?_, fun hstate hbars => ?_⟩⟩
  · rw [runObj_stale hlo hhi (by simpa using hnow) (by simpa using hstale)] at hexec
    exact objEnds_of_completeObj hexec rfl
  · rw [runObj_badState (s := objRead s) (by simpa using hnow) (by simpa using hcurrent) hbars] at hexec
    exact objEnds_of_completeObj hexec rfl
  · rw [runObj_pinned (s := objRead s) (by simpa using hnow) (by simpa using hcurrent) hstate hbars] at hexec
    exact objEnds_of_completeObj hexec rfl

end Sys2Proof.Machine
end

section
/-! SUPPORT. What each object command does (O53): ALLOCATE to ADOPT (R143, R147, R149), and the end of a copy (R143 to R146). -/

namespace Sys2Proof.Machine

open Sys2Proof

/-! ## A free entry is chosen (R140) -/

theorem firstFree_some {lo n : Nat} {p : Nat → Bool} (h : ∃ i, lo ≤ i ∧ i < lo + n ∧ p i = true) :
    ∃ d, firstFree lo n p = some d ∧ lo ≤ d ∧ d < lo + n ∧ p d = true := by
  obtain ⟨i, hlo, hhi, hp⟩ := h
  induction n generalizing lo with
  | zero => omega
  | succ n ih =>
    unfold firstFree
    by_cases hfirst : p lo = true
    · exact ⟨lo, by rw [if_pos hfirst], by omega, by omega, hfirst⟩
    · have hnext : lo ≠ i := by
        rintro rfl
        exact hfirst hp
      obtain ⟨d, hd, hle, hlt, hpd⟩ := ih (lo := lo + 1) (by omega) (by omega)
      exact ⟨d, by rw [if_neg hfirst, hd], by omega, by omega, hpd⟩

/-- The state once the part has made a choice (log entry 2). -/
def chosen (s : State) : State := { s with fresh := s.fresh + 1 }

/-- Where a number is admitted the part chooses one that is, and one choice is used up. -/
theorem chooseFree_some {s : State} {lo n : Nat} {p : Nat → Bool} (h : ∃ i, lo ≤ i ∧ i < lo + n ∧ p i = true) :
    ∃ i, chooseFree s lo n p = (some i, chosen s) ∧ lo ≤ i ∧ i < lo + n ∧ p i = true := by
  obtain ⟨d, hd, hlo, hhi, hp⟩ := firstFree_some h
  have hmod : Config.choice s.fresh % n < n := Nat.mod_lt _ (by omega)
  unfold chooseFree
  rw [hd]
  dsimp only
  by_cases hk : p (lo + Config.choice s.fresh % n) = true
  · exact ⟨_, by rw [if_pos hk]; rfl, by omega, by omega, hk⟩
  · exact ⟨d, by rw [if_neg hk]; rfl, hlo, hhi, hp⟩

theorem chooseEntry_some {s : State} (h : ∃ i, 1 ≤ i ∧ i < 2 ^ 20 ∧ (odtOf s i).state = .free) :
    ∃ i, chooseEntry s = (some i, chosen s) ∧ 1 ≤ i ∧ i < 2 ^ 20 ∧ (odtOf s i).state = .free := by
  obtain ⟨i, hlo, hhi, hfree⟩ := h
  obtain ⟨j, hj, hjlo, hjhi, hjfree⟩ :=
    chooseFree_some (s := s) (lo := 1) (n := 2 ^ 20 - 1) (p := fun i => (odtOf s i).state == .free) ⟨i, hlo, by omega, by simpa using hfree⟩
  exact ⟨j, hj, hjlo, by omega, by simpa using hjfree⟩

/-! ## A command that need not wait runs at once (R150, R152) -/

section
variable {s : State} {c : ObjCommand}

theorem runObj_allocate (hnow : objMustWait s 1 c = false) : runObj s 1 c = doAllocate s c := by simp [runObj, hnow]
theorem runObj_publish (hnow : objMustWait s 2 c = false) : runObj s 2 c = doPublish s c := by simp [runObj, hnow]
theorem runObj_seal (hnow : objMustWait s 3 c = false) : runObj s 3 c = doSeal s c := by simp [runObj, hnow]
theorem runObj_move (hnow : objMustWait s 4 c = false) : runObj s 4 c = doMove s c := by simp [runObj, hnow]
theorem runObj_unpublish (hnow : objMustWait s 5 c = false) : runObj s 5 c = doUnpublish s c := by simp [runObj, hnow]
theorem runObj_free (hnow : objMustWait s 6 c = false) : runObj s 6 c = doFree s c := by simp [runObj, hnow]
theorem runObj_pin (hnow : objMustWait s 7 c = false) : runObj s 7 c = doPin s c := by simp [runObj, hnow]
theorem runObj_unpin (hnow : objMustWait s 8 c = false) : runObj s 8 c = doUnpin s c := by simp [runObj, hnow]
theorem runObj_adopt (hnow : objMustWait s 9 c = false) : runObj s 9 c = doAdopt s c := by simp [runObj, hnow]

end

/-! ## The entry that a command makes -/

/-- The entry of a new object of a command, in ODT entry `i`: WRITABLE in Ochre, or PUBLISHING in the tier of the command (R140, R143). -/
def newEntry (s : State) (i : Nat) (c : ObjCommand) (st : ObjState) (tier size source : Nat) (lease : Option Nat) (tag : Nat) : OdtEntry :=
  { generation := (odtOf s i).generation, state := st, tier := tier, tenant := c.tenant.val, kind := c.kind % 256,
    prot := c.prot % 32, keySlot := c.keySlot % 1024, location := c.location, size := size, source := source, lease := lease, tag := tag }

@[simp] theorem chosen_stk (s : State) : (chosen s).stk = s.stk := rfl

@[simp] theorem destStatus_chosen (s : State) (own : Option Nat) (tier a n prot keySlot : Nat) :
    destStatus (chosen s) own tier a n prot keySlot = destStatus s own tier a n prot keySlot := rfl

theorem handleOf_setOdt (s : State) (i : Nat) (e : OdtEntry) (h : e.generation = (odtOf s i).generation) :
    handleOf (setOdt s i e) i = handleOf s i := by
  rw [handleOf, odtOf, setOdt, tabGet_put_self, h, handleOf]

/-- ALLOCATE in the entry that the part chose. -/
theorem doAllocate_chosen {s : State} {c : ObjCommand} {i : Nat} (h : chooseEntry s = (some i, chosen s)) : doAllocate s c =
    match destStatus s none 1 c.location c.size c.prot c.keySlot with
    | some st => completeObj (chosen s) 0 st c.tag
    | none => completeObj (setOdt (chosen s) i (newEntry s i c .writable 1 c.size 0 none 0)) (handleOf s i) 0 c.tag := by
  have hhandle : handleOf (setOdt (chosen s) i (newEntry s i c .writable 1 c.size 0 none 0)) i = handleOf s i :=
    handleOf_setOdt _ _ _ rfl
  rw [doAllocate, h, ← hhandle]
  rfl

@[simp] theorem protectRange_odt (s : State) (a n : Nat) (on : Bool) : (protectRange s a n on).stk.odt = s.stk.odt := rfl

/-- PUBLISH in the entry that the part chose. -/
theorem beginPublish_chosen {s : State} {c : ObjCommand} {i : Nat} {src : OdtEntry} (h : chooseEntry s = (some i, chosen s))
    (hdest : destStatus s none c.tier c.location src.size c.prot c.keySlot = none) :
    ∃ u, beginPublish s c src = u ∧ u.stk.odt =
      (setOdt s i (newEntry s i c .publishing c.tier src.size c.handle (engineLease s) c.tag)).stk.odt := by
  refine ⟨_, rfl, ?_⟩
  have hlease : engineLease (chosen s) = engineLease s := rfl
  rw [beginPublish, h]
  dsimp only
  rw [destStatus_chosen, hdest, hlease]
  dsimp only
  cases engineLease s <;> split <;> rfl

/-! ## ALLOCATE and PUBLISH (R143) -/

section
variable {s : State} {c : ObjCommand}

theorem allocate_makesWritable (htaken : ObjTaken s 1 c) (hfree : ∃ i, 1 ≤ i ∧ i < 2 ^ 20 ∧ (odtOf s i).state = .free) :
    (∀ st, destStatus s none 1 c.location c.size c.prot c.keySlot = some st → ObjEnds (.allocate c) s 0 st c.tag) ∧
    (destStatus s none 1 c.location c.size c.prot c.keySlot = none → Completes (.allocate c) s (fun t =>
      ∃ i, 1 ≤ i ∧ i < 2 ^ 20 ∧ (odtOf s i).state = .free ∧ ObjReported t (handleOf s i) 0 c.tag ∧
        OdtBecomes s t i (newEntry s i c .writable 1 c.size 0 none 0))) := by
  have hexec := exec_of_objTaken (objRow_allocate c) (by omega) (by omega) htaken
  obtain ⟨-, -, -, -, hnow⟩ := htaken
  obtain ⟨i, hchoice, hlo, hhi, hi⟩ := chooseEntry_some (s := objRead s) hfree
  rw [runObj_allocate (by simpa using hnow), doAllocate_chosen hchoice, destStatus_objRead] at hexec
  refine ⟨fun st hst => ?_, fun hst => ?_⟩
  · rw [hst] at hexec
    exact objEnds_of_completeObj hexec rfl
  · rw [hst] at hexec
    obtain ⟨t, ht, hreported, hbecomes⟩ := reports_and_becomes hexec (odtBecomes_setOdt i _ rfl)
    exact ⟨t, ht, i, hlo, hhi, hi, hreported, hbecomes⟩

theorem publish_begins (htaken : ObjTaken s 2 c) (hcurrent : isCurrent s c.handle = true)
    (hstate : (odtOf s (handleIndex c.handle)).state = .writable ∨ (odtOf s (handleIndex c.handle)).state = .published)
    (hfree : ∃ j, 1 ≤ j ∧ j < 2 ^ 20 ∧ (odtOf s j).state = .free)
    (hdest : destStatus s none c.tier c.location (odtOf s (handleIndex c.handle)).size c.prot c.keySlot = none) :
    Completes (.publish c) s (fun t =>
      ∃ j, 1 ≤ j ∧ j < 2 ^ 20 ∧ (odtOf s j).state = .free ∧ OdtBecomes s t j
        (newEntry s j c .publishing c.tier (odtOf s (handleIndex c.handle)).size c.handle (engineLease s) c.tag)) := by
  have hexec := exec_of_objTaken (objRow_publish c) (by omega) (by omega) htaken
  obtain ⟨-, -, -, -, hnow⟩ := htaken
  obtain ⟨j, hchoice, hlo, hhi, hj⟩ := chooseEntry_some (s := objRead s) hfree
  have hbegin : doPublish (objRead s) c = beginPublish (objRead s) c (odtOf s (handleIndex c.handle)) := by
    simp [doPublish, hcurrent, hstate]
  obtain ⟨u, hu, hodt⟩ := beginPublish_chosen (c := c) (src := odtOf s (handleIndex c.handle)) hchoice (by simpa using hdest)
  rw [runObj_publish (by simpa using hnow), hbegin, hu] at hexec
  refine ⟨_, hexec, j, hlo, hhi, hj, ?_⟩
  exact odtBecomes_congr (odtBecomes_setOdt (t := objRead s) j _ rfl) (by rw [finish_odt, hodt]; rfl)

/-! ## SEAL, MOVE, UNPUBLISH, FREE, PIN and UNPIN (R143, R147) -/

theorem odtBecomes_publishEntry {s t : State} {i : Nat} (e : OdtEntry) (bs : List Byte) (hothers : ∀ j, j ≠ i → odtOf t j = odtOf s j) :
    OdtBecomes s (publishEntry t i e bs) i
      { e with state := .published, crc := (crc64 bs).toNat, newLocation := 0, newTier := 0, source := 0, lease := none } := by
  refine ⟨?_, fun j hj => ?_⟩
  · exact tabGet_put_self _ _ _ _
  · rw [← hothers j hj]
    unfold publishEntry
    refine (tabGet_put_other _ _ _ hj).trans ?_
    split <;> rfl

theorem seal_publishes (htaken : ObjTaken s 3 c) (hcurrent : isCurrent s c.handle = true)
    (hstate : (odtOf s (handleIndex c.handle)).state = .writable) :
    Completes (.seal c) s (fun t => ObjReported t c.handle 0 c.tag ∧ OdtBecomes s t (handleIndex c.handle)
      { odtOf s (handleIndex c.handle) with
        state := .published
        crc := (crc64 (memBytes s (odtOf s (handleIndex c.handle)).location (odtOf s (handleIndex c.handle)).size)).toNat
        newLocation := 0, newTier := 0, source := 0, lease := none }) := by
  have hexec := exec_of_objTaken (objRow_seal c) (by omega) (by omega) htaken
  obtain ⟨-, -, -, -, hnow⟩ := htaken
  have hseal : doSeal (objRead s) c = completeObj (publishEntry (objRead s) (handleIndex c.handle) (odtOf s (handleIndex c.handle))
      (memBytes s (odtOf s (handleIndex c.handle)).location (odtOf s (handleIndex c.handle)).size)) c.handle 0 c.tag := by
    simp [doSeal, hcurrent, hstate]
  rw [runObj_seal (by simpa using hnow), hseal] at hexec
  exact reports_and_becomes hexec (odtBecomes_publishEntry _ _ (fun _ _ => rfl))

theorem move_begins (htaken : ObjTaken s 4 c) (hcurrent : isCurrent s c.handle = true)
    (hstate : (odtOf s (handleIndex c.handle)).state = .published) (hpins : (odtOf s (handleIndex c.handle)).pinCount = 0) :
    (∀ st, destStatus s (some (handleIndex c.handle)) c.tier c.location (odtOf s (handleIndex c.handle)).size
        (odtOf s (handleIndex c.handle)).prot (odtOf s (handleIndex c.handle)).keySlot = some st →
      ObjEnds (.move c) s c.handle st c.tag) ∧
    (destStatus s (some (handleIndex c.handle)) c.tier c.location (odtOf s (handleIndex c.handle)).size
        (odtOf s (handleIndex c.handle)).prot (odtOf s (handleIndex c.handle)).keySlot = none →
      Completes (.move c) s (fun t => OdtBecomes s t (handleIndex c.handle)
        { odtOf s (handleIndex c.handle) with
          state := .moving, newLocation := c.location, newTier := c.tier, tag := c.tag, lease := engineLease s })) := by
  have hexec := exec_of_objTaken (objRow_move c) (by omega) (by omega) htaken
  obtain ⟨-, -, -, -, hnow⟩ := htaken
  have hbegin : doMove (objRead s) c = beginMove (objRead s) c (odtOf s (handleIndex c.handle)) := by
    simp [doMove, hcurrent, hstate, hpins]
  rw [runObj_move (by simpa using hnow), hbegin, beginMove, destStatus_objRead] at hexec
  refine ⟨fun st hst => ?_, fun hst => ?_⟩
  · rw [hst] at hexec
    exact objEnds_of_completeObj hexec rfl
  · rw [hst] at hexec
    refine ⟨_, hexec, ?_⟩
    refine odtBecomes_congr (odtBecomes_setOdt (t := objRead s) _ _ rfl) ?_
    rw [finish_odt]
    dsimp only
    rw [engineLease_objRead]
    cases engineLease s <;> rfl

theorem unpublish_retires (htaken : ObjTaken s 5 c) (hcurrent : isCurrent s c.handle = true)
    (hstate : (odtOf s (handleIndex c.handle)).state = .published) (hpins : (odtOf s (handleIndex c.handle)).pinCount = 0) :
    Completes (.unpublish c) s (fun t => ObjReported t c.handle 0 c.tag ∧ OdtBecomes s t (handleIndex c.handle)
      { odtOf s (handleIndex c.handle) with
        state := .retiring, generation := ((odtOf s (handleIndex c.handle)).generation + 1) % 4096, retireEpoch := s.stk.epoch }) := by
  have hexec := exec_of_objTaken (objRow_unpublish c) (by omega) (by omega) htaken
  obtain ⟨-, -, -, -, hnow⟩ := htaken
  have hretire : doUnpublish (objRead s) c = completeObj (retireObject (objRead s) (handleIndex c.handle)) c.handle 0 c.tag := by
    simp [doUnpublish, hcurrent, hstate, hpins]
  rw [runObj_unpublish (by simpa using hnow), hretire] at hexec
  exact reports_and_becomes hexec (odtBecomes_setOdt _ _ rfl)

/-- The entry of a FREE object, with the next generation. -/
def freedState (s : State) (c : ObjCommand) : State :=
  freeOdt s (handleIndex c.handle) ((odtOf s (handleIndex c.handle)).generation + 1)

/-- The completion of a FREE waits for the leases of the moment (log entry 81). -/
def freeLater (s : State) (c : ObjCommand) : State :=
  { s with stk := { s.stk with freeing := s.stk.freeing ++ [(s.stk.epoch, { handle := c.handle, status := 0, tag := c.tag })] } }

theorem doFree_writable (hcurrent : isCurrent s c.handle = true) (hstate : (odtOf s (handleIndex c.handle)).state = .writable) :
    doFree s c = if leasesPast (freedState s c) (freedState s c).stk.epoch then completeObj (freedState s c) c.handle 0 c.tag
      else freeLater (freedState s c) c := by
  rw [doFree, if_neg (by simp [hcurrent]), if_pos (by simp [hstate])]
  rfl

theorem free_frees (htaken : ObjTaken s 6 c) (hcurrent : isCurrent s c.handle = true)
    (hstate : (odtOf s (handleIndex c.handle)).state = .writable) :
    Completes (.free c) s (fun t =>
      OdtBecomes s t (handleIndex c.handle) { generation := ((odtOf s (handleIndex c.handle)).generation + 1) % 4096 } ∧
      (leasesPast s s.stk.epoch = true → ObjReported t c.handle 0 c.tag) ∧
      (leasesPast s s.stk.epoch = false →
        t.stk.freeing = s.stk.freeing ++ [(s.stk.epoch, { handle := c.handle, status := 0, tag := c.tag })])) := by
  have hexec := exec_of_objTaken (objRow_free c) (by omega) (by omega) htaken
  obtain ⟨-, -, -, -, hnow⟩ := htaken
  have hpast : leasesPast (freedState (objRead s) c) (freedState (objRead s) c).stk.epoch = leasesPast s s.stk.epoch := rfl
  have hodt : OdtBecomes s (freedState (objRead s) c) (handleIndex c.handle)
      { generation := ((odtOf s (handleIndex c.handle)).generation + 1) % 4096 } := odtBecomes_setOdt _ _ rfl
  rw [runObj_free (by simpa using hnow), doFree_writable (s := objRead s) (by simpa using hcurrent) hstate, hpast] at hexec
  cases hleases : leasesPast s s.stk.epoch with
  | true =>
    rw [hleases] at hexec
    obtain ⟨t, ht, hreported, hbecomes⟩ := reports_and_becomes hexec hodt
    exact ⟨t, ht, hbecomes, fun _ => hreported, Bool.noConfusion⟩
  | false =>
    rw [hleases] at hexec
    refine ⟨_, hexec, odtBecomes_congr hodt (finish_odt _ _), Bool.noConfusion, fun _ => ?_⟩
    rw [(finished_finish s _).stk]
    rfl

theorem pin_counts (htaken : ObjTaken s 7 c) (hcurrent : isCurrent s c.handle = true)
    (hstate : (odtOf s (handleIndex c.handle)).state = .published) (hpins : (odtOf s (handleIndex c.handle)).pinCount < 65535) :
    Completes (.pin c) s (fun t => ObjReported t c.handle 0 c.tag ∧ OdtBecomes s t (handleIndex c.handle)
      { odtOf s (handleIndex c.handle) with pinCount := (odtOf s (handleIndex c.handle)).pinCount + 1 }) := by
  have hexec := exec_of_objTaken (objRow_pin c) (by omega) (by omega) htaken
  obtain ⟨-, -, -, -, hnow⟩ := htaken
  have hpin : doPin (objRead s) c = completeObj (setOdt (objRead s) (handleIndex c.handle)
      { odtOf s (handleIndex c.handle) with pinCount := (odtOf s (handleIndex c.handle)).pinCount + 1 }) c.handle 0 c.tag := by
    simp [doPin, hcurrent, hstate, hpins]
  rw [runObj_pin (by simpa using hnow), hpin] at hexec
  exact reports_and_becomes hexec (odtBecomes_setOdt _ _ rfl)

theorem unpin_counts (htaken : ObjTaken s 8 c) (hcurrent : isCurrent s c.handle = true)
    (hstate : (odtOf s (handleIndex c.handle)).state = .published) (hpins : 0 < (odtOf s (handleIndex c.handle)).pinCount) :
    Completes (.unpin c) s (fun t => ObjReported t c.handle 0 c.tag ∧ OdtBecomes s t (handleIndex c.handle)
      { odtOf s (handleIndex c.handle) with pinCount := (odtOf s (handleIndex c.handle)).pinCount - 1 }) := by
  have hexec := exec_of_objTaken (objRow_unpin c) (by omega) (by omega) htaken
  obtain ⟨-, -, -, -, hnow⟩ := htaken
  have hpin : doUnpin (objRead s) c = completeObj (setOdt (objRead s) (handleIndex c.handle)
      { odtOf s (handleIndex c.handle) with pinCount := (odtOf s (handleIndex c.handle)).pinCount - 1 }) c.handle 0 c.tag := by
    simp [doUnpin, hcurrent, hstate, hpins]
  rw [runObj_unpin (by simpa using hnow), hpin] at hexec
  exact reports_and_becomes hexec (odtBecomes_setOdt _ _ rfl)

/-! ## ADOPT (R149) -/

theorem adopt_refused (htaken : ObjTaken s 9 c)
    (h : 2 ^ 32 ≤ c.handle ∨ handleIndex c.handle ≠ 0 ∧ (odtOf s (handleIndex c.handle)).state ≠ .free) :
    ObjEnds (.adopt c) s c.handle 2 c.tag := by
  have hexec := exec_of_objTaken (objRow_adopt c) (by omega) (by omega) htaken
  obtain ⟨-, -, -, -, hnow⟩ := htaken
  have hbar : handleIndex c.handle = 0 ∨ 2 ^ 32 ≤ c.handle ∨ (odtOf (objRead s) (handleIndex c.handle)).state ≠ .free := by
    rw [odtOf_objRead]
    tauto
  rw [runObj_adopt (by simpa using hnow), doAdopt, if_pos hbar] at hexec
  exact objEnds_of_completeObj hexec rfl

theorem adoptMatches_objRead (s : State) (handle first n : Nat) :
    adoptMatches (objRead s) handle first n = adoptMatches s handle first n := rfl

theorem adopt_checks (htaken : ObjTaken s 9 c) (hindex : handleIndex c.handle ≠ 0) (hhandle : c.handle < 2 ^ 32)
    (hfree : (odtOf s (handleIndex c.handle)).state = .free) (hlo : 1 ≤ c.size) (hhi : c.size ≤ 2 ^ 40)
    (hunits : c.location + unitsOf c.size ≤ logicalUnits s) (hplain : c.prot.testBit 4 = false) :
    (adoptMatches s c.handle c.location (unitsOf c.size) = false → ObjEnds (.adopt c) s c.handle 10 c.tag) ∧
    (adoptMatches s c.handle c.location (unitsOf c.size) = true → Completes (.adopt c) s (fun t =>
      ObjReported t c.handle 0 c.tag ∧ (odtOf t (handleIndex c.handle)).state = .published ∧
      (odtOf t (handleIndex c.handle)).tier = 3 ∧ (odtOf t (handleIndex c.handle)).location = c.location ∧
      (odtOf t (handleIndex c.handle)).size = c.size ∧ (odtOf t (handleIndex c.handle)).generation = handleGen c.handle ∧
      (odtOf t (handleIndex c.handle)).tenant = c.tenant.val ∧ ∀ j, j ≠ handleIndex c.handle → odtOf t j = odtOf s j)) := by
  have hexec := exec_of_objTaken (objRow_adopt c) (by omega) (by omega) htaken
  obtain ⟨-, -, -, -, hnow⟩ := htaken
  have hcurrent : ¬ (handleIndex c.handle = 0 ∨ 2 ^ 32 ≤ c.handle ∨ (odtOf (objRead s) (handleIndex c.handle)).state ≠ .free) := by
    rw [odtOf_objRead]
    simp [hindex, hfree]
    omega
  have hplace : ¬ (c.size = 0 ∨ 2 ^ 40 < c.size ∨ logicalUnits (objRead s) < c.location + unitsOf c.size) := by
    rw [logicalUnits_objRead]
    omega
  rw [runObj_adopt (by simpa using hnow), doAdopt, if_neg hcurrent, if_neg hplace, if_neg (by simp [hplain]), adoptMatches_objRead] at hexec
  refine ⟨fun hmatch => ?_, fun hmatch => ?_⟩
  · rw [hmatch] at hexec
    exact objEnds_of_completeObj hexec rfl
  · rw [hmatch] at hexec
    obtain ⟨t, ht, hreported, hentry, hothers⟩ :=
      reports_and_becomes hexec (odtBecomes_publishEntry (s := s) _ _ (fun _ hj => tabGet_put_other _ _ _ hj))
    refine ⟨t, ht, hreported, ?_⟩
    rw [hentry]
    exact ⟨rfl, rfl, rfl, rfl, rfl, rfl, hothers⟩

end

end Sys2Proof.Machine
end

section
/-! SUPPORT. The end of a copy (O53): COPY_COMPLETE publishes, moves, or leaves the object as it was (R143 to R146, R151). -/

namespace Sys2Proof.Machine

open Sys2Proof

/-! ## What surrounds a copy leaves the table and what waits -/

/-- The table and the waiting commands are the same. -/
structure SameTable (s t : State) : Prop where
  odt : t.stk.odt = s.stk.odt
  objWaiting : t.stk.objWaiting = s.stk.objWaiting

theorem SameTable.trans {s t u : State} (h : SameTable s t) (k : SameTable t u) : SameTable s u :=
  ⟨k.odt.trans h.odt, k.objWaiting.trans h.objWaiting⟩

theorem SameTable.of {s t : State} (h : t.stk = s.stk) : SameTable s t := ⟨by rw [h], by rw [h]⟩

theorem sameTable_endCopyLease (s : State) (e : OdtEntry) : SameTable s (endCopyLease s e) := by
  unfold endCopyLease
  split
  · unfold endLease
    dsimp only
    split
    · exact ⟨rfl, rfl⟩
    · exact ⟨rfl, rfl⟩
  · exact ⟨rfl, rfl⟩

theorem sameTable_protectRange (s : State) (a n : Nat) (on : Bool) : SameTable s (protectRange s a n on) := ⟨rfl, rfl⟩

theorem sameTable_tierWrite (s : State) (tier a : Nat) (bs : List Byte) : SameTable s (tierWrite s tier a bs) := by
  unfold tierWrite
  split
  · exact ⟨rfl, rfl⟩
  · split
    · exact ⟨rfl, rfl⟩
    · exact .of ((keep_memWrite s a bs).stk.resolve_left (by decide))

theorem odtOf_of_sameTable {s t : State} (h : SameTable s t) (i : Nat) : odtOf t i = odtOf s i := by
  rw [odtOf, h.odt, odtOf]

/-! ## A copy ends -/

/-- Nothing waits, so that nothing is tried again. -/
theorem retryObj_empty {s : State} (h : s.stk.objWaiting = []) : retryObj s = s := by
  have hsame : { s with stk := { s.stk with objWaiting := [] } } = s := by
    rw [← h]
  rw [retryObj, hsame, h]
  rfl

theorem objWaiting_setOdt (s : State) (i : Nat) (e : OdtEntry) : (setOdt s i e).stk.objWaiting = s.stk.objWaiting := rfl

/-- A copy that ends with a completion, after entry `i` became `e`. -/
theorem copyEnds {r : Instr} {s u : State} {handle status tag i : Nat} {e : OdtEntry}
    (hexec : exec r s = .next (finish s (retryObj (completeObj u handle status tag)))) (hidle : u.stk.objWaiting = [])
    (h : OdtBecomes s u i e) : Completes r s (fun t => ObjReported t handle status tag ∧ OdtBecomes s t i e) := by
  rw [retryObj_empty (by rw [completeObj_objWaiting, hidle])] at hexec
  exact reports_and_becomes hexec h

theorem exec_copyComplete {s : State} {h : Nat} (r : ReadEnd) (ok : Bool) (f : NandReport) (hruns : runs s = true)
    (hhost : copyUsesHost s h = false ∨ hostOff s = false) :
    exec (.copyComplete h ok r f) s = .next (finish s (endCopy s h r ok f)) := by
  have htaken : (runs s && (!copyUsesHost s h || !hostOff s)) = true := by
    rcases hhost with hhost | hhost <;> simp [hruns, hhost]
  change execCopyComplete h ok s r f = _
  rw [execCopyComplete, htaken, act_taken]

theorem endCopy_stale {s : State} {h : Nat} (r : ReadEnd) (ok : Bool) (f : NandReport) (hstale : isCurrent s h = false) :
    endCopy s h r ok f = s := by
  simp [endCopy, hstale]

theorem endCopy_noCopy {s : State} {h : Nat} (r : ReadEnd) (ok : Bool) (f : NandReport)
    (hpublishing : (odtOf s (handleIndex h)).state ≠ .publishing) (hmoving : (odtOf s (handleIndex h)).state ≠ .moving) :
    endCopy s h r ok f = s := by
  simp [endCopy, hpublishing, hmoving]

/-- A current handle is the one that its entry's index and generation make. -/
theorem handleOf_of_isCurrent {s : State} {h : Nat} (hcurrent : isCurrent s h = true) : handleOf s (handleIndex h) = h := by
  simp only [isCurrent, Bool.and_eq_true, bne_iff_ne, decide_eq_true_eq, beq_iff_eq] at hcurrent
  obtain ⟨⟨⟨⟨-, hlt⟩, hgen⟩, -⟩, -⟩ := hcurrent
  rw [handleOf, hgen, handleIndex, handleGen]
  omega

section
variable {s : State} {h : Nat}

/-- A copy that is not whole, or not read back, fails; a read error is recorded first. -/
theorem endCopy_fails (r : ReadEnd) (ok : Bool) (f : NandReport) (hcurrent : isCurrent s h = true)
    (hcopy : (odtOf s (handleIndex h)).state = .publishing ∨ (odtOf s (handleIndex h)).state = .moving) (hbad : ok = false ∨ r ≠ .whole) :
    ∃ u, u.stk = s.stk ∧ endCopy s h r ok f = retryObj (failCopy u (handleIndex h)) := by
  have hbusy : (!isCurrent s h || (odtOf s (handleIndex h)).state != .publishing && (odtOf s (handleIndex h)).state != .moving) = false := by
    rcases hcopy with hcopy | hcopy <;> simp [hcurrent, hcopy]
  cases r with
  | errorAt o =>
    refine ⟨readFailed s (copySource s (handleIndex h)) o, (keep_readFailed _ _ _).stk.resolve_left (by decide), ?_⟩
    simp [endCopy, hbusy]
  | whole =>
    have hfalse : ok = false := by simpa using hbad
    refine ⟨s, rfl, ?_⟩
    simp [endCopy, hbusy, hfalse]

/-- A failed PUBLISH frees its entry, with the next generation. -/
theorem odtBecomes_failPublish {u : State} (i : Nat) (hstk : u.stk = s.stk) :
    OdtBecomes s (failPublish u i) i { generation := ((odtOf s i).generation + 1) % 4096 } ∧
    (failPublish u i).stk.objWaiting = s.stk.objWaiting := by
  have hodt : odtOf u i = odtOf s i := odtOf_of_sameTable (.of hstk) i
  unfold failPublish
  extract_lets e src s1
  have hlifted : SameTable s s1 := by
    unfold s1
    split
    · exact SameTable.trans (.of hstk) (sameTable_protectRange _ _ _ _)
    · exact .of hstk
  have hend := sameTable_endCopyLease (freeOdt s1 i (e.generation + 1)) e
  refine ⟨?_, hend.objWaiting.trans hlifted.objWaiting⟩
  have hfreed := odtBecomes_setOdt (s := s) i { generation := (e.generation + 1) % 4096 } hlifted.odt
  rw [← hodt]
  exact odtBecomes_congr hfreed hend.odt

/-- A failed MOVE leaves the object where it is. -/
theorem odtBecomes_failMove {u : State} (i : Nat) (hstk : u.stk = s.stk) : ∃ v, failMove u i = completeObj v (handleOf s i) 6 (odtOf s i).tag ∧
    OdtBecomes s v i { odtOf s i with state := .published, newLocation := 0, newTier := 0, lease := none } ∧
    v.stk.objWaiting = s.stk.objWaiting := by
  have hodt : odtOf u i = odtOf s i := odtOf_of_sameTable (.of hstk) i
  have hhandle : handleOf u i = handleOf s i := by rw [handleOf, hodt, handleOf]
  have hend := sameTable_endCopyLease
    (setOdt u i { odtOf s i with state := .published, newLocation := 0, newTier := 0, lease := none }) (odtOf s i)
  refine ⟨_, by rw [failMove, hodt, hhandle], ?_, ?_⟩
  · exact odtBecomes_congr (odtBecomes_setOdt i _ (by rw [hstk])) hend.odt
  · rw [hend.objWaiting, objWaiting_setOdt, hstk]

/-- The bytes of an object that is not encrypted are those of its tier. -/
theorem objectBytes_plain {i : Nat} (hplain : isEncrypted (odtOf s i) = false) :
    objectBytes s i = some (tierBytes s (odtOf s i).tier (odtOf s i).location (odtOf s i).size) := by
  simp [objectBytes, hplain]

theorem sameTable_askHost (s : State) (e : OdtEntry) : SameTable s (askHost s e) := .of (askHost_stk s e)

/-- A PUBLISH outside Umber, of a source and into an object without encryption, writes its copy and publishes its entry. -/
theorem endPublish_plain {i : Nat} (f : NandReport) (htier : (odtOf s i).tier ≠ 3) (hplain : isEncrypted (odtOf s i) = false)
    (hsource : isEncrypted (odtOf s (handleIndex (odtOf s i).source)) = false) :
    ∃ u bs, endPublish s f i = some (completeObj (publishEntry u i (odtOf s i) bs) (handleOf s i) 0 (odtOf s i).tag) ∧ SameTable s u := by
  rw [endPublish]
  dsimp only
  rw [objectBytes_plain hsource]
  dsimp only
  rw [copySpace, if_neg htier]
  dsimp only
  rw [putObjectBytes, hplain]
  refine ⟨_, _, rfl, ?_⟩
  refine SameTable.trans ?_ (sameTable_endCopyLease _ _)
  have hwritten := (sameTable_askHost s (odtOf s (handleIndex (odtOf s i).source))).trans
    (sameTable_tierWrite _ (odtOf s i).tier (odtOf s i).location
      (tierBytes s (odtOf s (handleIndex (odtOf s i).source)).tier (odtOf s (handleIndex (odtOf s i).source)).location
        (odtOf s (handleIndex (odtOf s i).source)).size))
  split
  · exact hwritten.trans (sameTable_protectRange _ _ _ _)
  · exact hwritten

/-- A MOVE outside Umber of an object without encryption writes its copy and switches its place. -/
theorem endMove_plain {i : Nat} (f : NandReport) (htier : (odtOf s i).newTier ≠ 3) (hplain : isEncrypted (odtOf s i) = false) :
    ∃ u, endMove s f i = some (completeObj u (handleOf s i) 0 (odtOf s i).tag) ∧ OdtBecomes s u i
      { odtOf s i with
        state := .published, tier := (odtOf s i).newTier, location := (odtOf s i).newLocation, newLocation := 0, newTier := 0
        lease := none } ∧ u.stk.objWaiting = s.stk.objWaiting := by
  rw [endMove]
  dsimp only
  rw [hplain, Bool.false_and, Bool.false_and, if_neg Bool.false_ne_true, objectBytes_plain hplain]
  dsimp only
  rw [copySpace, if_neg htier]
  dsimp only
  rw [if_neg Bool.false_ne_true, putObjectBytes, hplain, Bool.false_and, if_neg Bool.false_ne_true]
  refine ⟨_, rfl, ?_⟩
  have hwritten := (sameTable_askHost s (odtOf s i)).trans
    (sameTable_tierWrite _ (odtOf s i).newTier (odtOf s i).newLocation
      (tierBytes s (odtOf s i).tier (odtOf s i).location (odtOf s i).size))
  refine ⟨odtBecomes_congr (odtBecomes_setOdt i _ ?_) (sameTable_endCopyLease _ _).odt, (sameTable_endCopyLease _ _).objWaiting.trans ?_⟩
  · split
    · exact hwritten.odt
    · exact hwritten.odt
  · split
    · exact hwritten.objWaiting
    · exact hwritten.objWaiting

variable {f : NandReport} (hruns : runs s = true) (hhost : copyUsesHost s h = false ∨ hostOff s = false)
  (hcurrent : isCurrent s h = true) (hidle : s.stk.objWaiting = [])
include hruns hhost hcurrent hidle

theorem copyComplete_publish_fails (r : ReadEnd) (ok : Bool) (hbad : ok = false ∨ r ≠ .whole)
    (hstate : (odtOf s (handleIndex h)).state = .publishing) : Completes (.copyComplete h ok r f) s (fun t =>
      ObjReported t (odtOf s (handleIndex h)).source 6 (odtOf s (handleIndex h)).tag ∧
      OdtBecomes s t (handleIndex h) { generation := ((odtOf s (handleIndex h)).generation + 1) % 4096 }) := by
  obtain ⟨u, hstk, hfail⟩ := endCopy_fails r ok f hcurrent (.inl hstate) hbad
  have hodt : odtOf u (handleIndex h) = odtOf s (handleIndex h) := odtOf_of_sameTable (.of hstk) _
  have hpublish : failCopy u (handleIndex h) =
      completeObj (failPublish u (handleIndex h)) (odtOf s (handleIndex h)).source 6 (odtOf s (handleIndex h)).tag := by
    simp [failCopy, hodt, hstate]
  obtain ⟨hbecomes, hwaiting⟩ := odtBecomes_failPublish (s := s) (handleIndex h) hstk
  refine copyEnds ?_ (hwaiting.trans hidle) hbecomes
  rw [exec_copyComplete r ok f hruns hhost, hfail, hpublish]

theorem copyComplete_move_fails (r : ReadEnd) (ok : Bool) (hbad : ok = false ∨ r ≠ .whole)
    (hstate : (odtOf s (handleIndex h)).state = .moving) : Completes (.copyComplete h ok r f) s (fun t =>
      ObjReported t h 6 (odtOf s (handleIndex h)).tag ∧ OdtBecomes s t (handleIndex h)
        { odtOf s (handleIndex h) with state := .published, newLocation := 0, newTier := 0, lease := none }) := by
  obtain ⟨u, hstk, hfail⟩ := endCopy_fails r ok f hcurrent (.inr hstate) hbad
  have hodt : odtOf u (handleIndex h) = odtOf s (handleIndex h) := odtOf_of_sameTable (.of hstk) _
  have hmove : failCopy u (handleIndex h) = failMove u (handleIndex h) := by simp [failCopy, hodt, hstate]
  obtain ⟨v, hv, hbecomes, hwaiting⟩ := odtBecomes_failMove (s := s) (handleIndex h) hstk
  refine copyEnds ?_ (hwaiting.trans hidle) hbecomes
  rw [exec_copyComplete r ok f hruns hhost, hfail, hmove, hv, handleOf_of_isCurrent hcurrent]

theorem copyComplete_publishes (hstate : (odtOf s (handleIndex h)).state = .publishing) (htier : (odtOf s (handleIndex h)).tier ≠ 3)
    (hplain : isEncrypted (odtOf s (handleIndex h)) = false)
    (hsource : isEncrypted (odtOf s (handleIndex (odtOf s (handleIndex h)).source)) = false) :
    Completes (.copyComplete h true .whole f) s (fun t => ObjReported t h 0 (odtOf s (handleIndex h)).tag ∧
      (odtOf t (handleIndex h)).state = .published ∧ (odtOf t (handleIndex h)).tier = (odtOf s (handleIndex h)).tier ∧
      (odtOf t (handleIndex h)).location = (odtOf s (handleIndex h)).location ∧
      (odtOf t (handleIndex h)).generation = (odtOf s (handleIndex h)).generation ∧
      ∀ j, j ≠ handleIndex h → odtOf t j = odtOf s j) := by
  obtain ⟨u, bs, hend, hsame⟩ := endPublish_plain f htier hplain hsource
  have hcopy : endCopy s h .whole true f = retryObj (completeObj (publishEntry u (handleIndex h) (odtOf s (handleIndex h)) bs) h 0
      (odtOf s (handleIndex h)).tag) := by
    rw [handleOf_of_isCurrent hcurrent] at hend
    simp [endCopy, hcurrent, hstate, hend]
  have hwaiting : (publishEntry u (handleIndex h) (odtOf s (handleIndex h)) bs).stk.objWaiting = [] := by
    rw [publishEntry, objWaiting_setOdt]
    split
    · exact hsame.objWaiting.trans hidle
    · exact hsame.objWaiting.trans hidle
  have hbecomes := odtBecomes_publishEntry (s := s) (t := u) (i := handleIndex h) (odtOf s (handleIndex h)) bs
    (fun j _ => odtOf_of_sameTable hsame j)
  obtain ⟨t, ht, hreported, hentry, hothers⟩ :=
    copyEnds ((exec_copyComplete .whole true f hruns hhost).trans (by rw [hcopy])) hwaiting hbecomes
  refine ⟨t, ht, hreported, ?_⟩
  rw [hentry]
  exact ⟨rfl, rfl, rfl, rfl, hothers⟩

theorem copyComplete_moves (hstate : (odtOf s (handleIndex h)).state = .moving) (htier : (odtOf s (handleIndex h)).newTier ≠ 3)
    (hplain : isEncrypted (odtOf s (handleIndex h)) = false) :
    Completes (.copyComplete h true .whole f) s (fun t => ObjReported t h 0 (odtOf s (handleIndex h)).tag ∧
      OdtBecomes s t (handleIndex h) { odtOf s (handleIndex h) with
        state := .published, tier := (odtOf s (handleIndex h)).newTier, location := (odtOf s (handleIndex h)).newLocation
        newLocation := 0, newTier := 0, lease := none }) := by
  obtain ⟨u, hend, hbecomes, hwaiting⟩ := endMove_plain f htier hplain
  have hcopy : endCopy s h .whole true f = retryObj (completeObj u h 0 (odtOf s (handleIndex h)).tag) := by
    rw [handleOf_of_isCurrent hcurrent] at hend
    simp [endCopy, hcurrent, hstate, hend]
  exact copyEnds ((exec_copyComplete .whole true f hruns hhost).trans (by rw [hcopy])) (hwaiting.trans hidle) hbecomes

end

/-! ## The obligation -/

theorem exec_objRow_notRead {r : Instr} {op : Nat} {c : ObjCommand} {s : State} (hrow : ObjRow r op c) (hread : canReadObj s = false) :
    exec r s = .next s := by
  rw [hrow, hread, act_notTaken]

/-- Settles O53: the rows of object commands one by one, then the ends of their copies. -/
theorem objectsChange : Obligations.ObjectsChange := by
  refine ⟨?_, ?_, ?_, ?_, ?_, ?_, ?_, ?_, ?_⟩
  · intro s c hread
    exact ⟨objStops_of_row (objRow_allocate c) (by omega) (by omega) hread, objStops_of_row (objRow_publish c) (by omega) (by omega) hread,
      objStops_of_row (objRow_seal c) (by omega) (by omega) hread, objStops_of_row (objRow_move c) (by omega) (by omega) hread,
      objStops_of_row (objRow_unpublish c) (by omega) (by omega) hread, objStops_of_row (objRow_free c) (by omega) (by omega) hread,
      objStops_of_row (objRow_pin c) (by omega) (by omega) hread, objStops_of_row (objRow_unpin c) (by omega) (by omega) hread,
      objStops_of_row (objRow_adopt c) (by omega) (by omega) hread⟩
  · intro s c
    exact ⟨handleStops_of_row (objRow_publish c) (by omega) (by omega), handleStops_of_row (objRow_seal c) (by omega) (by omega),
      handleStops_of_row (objRow_move c) (by omega) (by omega), handleStops_of_row (objRow_unpublish c) (by omega) (by omega),
      handleStops_of_row (objRow_free c) (by omega) (by omega), handleStops_of_row (objRow_pin c) (by omega) (by omega),
      handleStops_of_row (objRow_unpin c) (by omega) (by omega)⟩
  · intro s c hread
    exact ⟨exec_objRow_notRead (objRow_allocate c) hread, exec_objRow_notRead (objRow_publish c) hread,
      exec_objRow_notRead (objRow_adopt c) hread⟩
  · exact fun s c => allocate_makesWritable
  · rintro s c i e rfl rfl hcurrent
    exact ⟨fun htaken hstate hfree => publish_begins htaken hcurrent hstate hfree,
      fun htaken hstate => seal_publishes htaken hcurrent hstate,
      fun htaken hstate hpins => move_begins htaken hcurrent hstate hpins,
      fun htaken hstate hpins => unpublish_retires htaken hcurrent hstate hpins,
      fun htaken hstate => free_frees htaken hcurrent hstate,
      fun htaken hstate hpins => pin_counts htaken hcurrent hstate hpins,
      fun htaken hstate hpins => unpin_counts htaken hcurrent hstate hpins⟩
  · exact fun s c => adopt_refused
  · rintro s c i rfl
    exact adopt_checks
  · intro s h r ok f hruns hhost hstale
    rw [Effect, exec_copyComplete r ok f hruns hhost, endCopy_stale r ok f hstale]
  · rintro s h i e f rfl rfl hruns hhost hcurrent hidle
    refine ⟨?_, ?_, ?_, ?_⟩
    · intro hpublishing hmoving r ok
      rw [Effect, exec_copyComplete r ok f hruns hhost, endCopy_noCopy r ok f hpublishing hmoving]
    · exact fun r ok hbad => ⟨copyComplete_publish_fails hruns hhost hcurrent hidle r ok hbad,
        copyComplete_move_fails hruns hhost hcurrent hidle r ok hbad⟩
    · exact copyComplete_publishes hruns hhost hcurrent hidle
    · exact copyComplete_moves hruns hhost hcurrent hidle

end Sys2Proof.Machine
end

section
/-! SUPPORT. Held output in a part that does not mirror: any command lets it go, and with it marks the entry that it tells of (against
O52, R362, R493, R249). -/

namespace Sys2Proof.Machine

open Sys2Proof

/-- A notice of request 7 in entry 3, of tenant 1. -/
def heldNotice : Completion :=
  { requestId := 7, tag := 0, opcode := 0, status := 0, stateCode := 6, deadlineMissed := false, position := 0, detail := 0, index := 3,
    peer := 0 }

def preemptedEntry : Entry := { state := .parked, tenant := 1, requestId := 7 }

/-- A READY part without a partner that holds back a notice of request 7 all the same. The request is PARKED by a preemption, and no slot
of its tenant's completion queue is free. -/
def heldState : State :=
  { State.reset with
    plt := { State.reset.plt with state := .ready }
    rqt := { entries := [(3, preemptedEntry)], manifests := [(3, { parkOrigin := 1 })] }
    twn := { State.reset.twn with held := [(1, .record 1 (.completion heldNotice))] } }

/-- Entry 3 is the one that RESTORE takes. -/
theorem preempted_heldState : runs heldState = true ∧ preempted heldState (entryOf heldState 3).composition.val = [3] ∧
    underPressure heldState (entryOf heldState 3).composition.val = false := by
  decide +kernel

/-- The end of the command lets the notice go, which waits in its queue under NOTICE_PENDING. -/
theorem noticePending_heldState : (entryOf heldState 3).noticePending = false ∧
    (entryOf (finish heldState (beginRestore heldState 3 none)) 3).noticePending = true := by
  decide +kernel

/-- RESTORE of the only preempted request of its composition begins its restore. -/
theorem exec_restore {s : State} {i : Nat} (hruns : runs s = true) (honly : preempted s (entryOf s i).composition.val = [i])
    (hcalm : underPressure s (entryOf s i).composition.val = false) :
    exec (.restore i) s = .next (finish s (beginRestore s i none)) := by
  change execRestore i s = _
  rw [execRestore, hruns, act_taken]
  simp [honly, hcalm]

/-- Refutes O52, with `heldState`: its clause on RESTORE says that the whole entry stays, but the end of every command also lets go what a
part that does not mirror holds back, and a notice among it marks its entry NOTICE_PENDING. The clause lacks the premise that nothing is
held back so (`Safety.HoldOk`), or has to leave NOTICE_PENDING out. -/
theorem not_spaceComesBack : ¬ Obligations.SpaceComesBack := by
  unfold Obligations.SpaceComesBack
  intro ⟨_, _, _, _, _, _, _, _, _, _, hrestore, _⟩
  obtain ⟨hruns, honly, hcalm⟩ := preempted_heldState
  obtain ⟨hbegins, -⟩ := hrestore heldState 3 hruns
  have hmem : 3 ∈ preempted heldState (entryOf heldState 3).composition.val := by simp [honly]
  have hfirst : ∀ j ∈ preempted heldState (entryOf heldState 3).composition.val, j ≠ 3 → victimBefore heldState 3 j = false := by
    simp [honly]
  obtain ⟨t, ht, -, hentry⟩ := hbegins hmem hcalm hfirst
  rw [exec_restore hruns honly hcalm] at ht
  obtain ⟨hbefore, hafter⟩ := noticePending_heldState
  rw [Host.Outcome.next.inj ht, hentry, hbefore] at hafter
  cases hafter

end Sys2Proof.Machine
end

section
/-! SUPPORT. Microcode slots, attachments and STATUS of STK_UCODE_CTL (R195, R220, R221), and the checks of an image that was read (R102). -/

namespace Sys2Proof.Machine

open Sys2Proof

/-! ## What reads the slots alone -/

section
variable {s t : State} (h : t.ucode = s.ucode)
include h

theorem slotOf_of_ucode (j : Nat) : slotOf t j = slotOf s j := by rw [slotOf, slotOf, h]

theorem attachedTo_of_ucode (c : Nat) : attachedTo t c = attachedTo s c := by rw [attachedTo, attachedTo, h]

theorem passOf_of_ucode (k : Nat) : passOf t k = passOf s k := by rw [passOf, passOf, h]

theorem isLoading_of_ucode : isLoading t = isLoading s := by simp only [isLoading, slotOf_of_ucode h]

end

/-! ## One slot changes -/

/-- Slot `j` is `x` now, and every other slot is as before. -/
structure SlotBecomes (s t : State) (j : Nat) (x : UcodeSlot) : Prop where
  self : slotOf t j = x
  others : ∀ k, k ≠ j → slotOf t k = slotOf s k

theorem slotBecomes_setSlot (s : State) (j : Nat) (x : UcodeSlot) : SlotBecomes s (setSlot s j x) j x :=
  ⟨tabGet_put_self _ _ _ _, fun _ h => tabGet_put_other _ _ _ h⟩

namespace SlotBecomes

variable {s t u : State} {j : Nat} {x y : UcodeSlot}

/-- The slot changes again. -/
theorem again (h : SlotBecomes s t j x) (k : SlotBecomes t u j y) : SlotBecomes s u j y :=
  ⟨k.self, fun m hm => (k.others m hm).trans (h.others m hm)⟩

/-- What leaves the microcode alone may follow. -/
theorem then_same (h : SlotBecomes s t j x) (hucode : u.ucode = t.ucode) : SlotBecomes s u j x :=
  ⟨(slotOf_of_ucode hucode j).trans h.self, fun m hm => (slotOf_of_ucode hucode m).trans (h.others m hm)⟩

/-- What leaves the microcode alone may stand before. -/
theorem of_same (h : SlotBecomes t u j x) (hucode : t.ucode = s.ucode) : SlotBecomes s u j x :=
  ⟨h.self, fun m hm => (h.others m hm).trans (slotOf_of_ucode hucode m)⟩

/-- A slot that loads neither before nor after leaves it open whether any does. -/
theorem isLoading_eq (h : SlotBecomes s t j x)
    (hbefore : ((slotOf s j).state == .loading || (slotOf s j).state == .verifying) = false)
    (hafter : (x.state == .loading || x.state == .verifying) = false) : isLoading t = isLoading s := by
  have hslot (k : Nat) : ((slotOf t k).state == .loading || (slotOf t k).state == .verifying) =
      ((slotOf s k).state == .loading || (slotOf s k).state == .verifying) := by
    by_cases hk : k = j
    · rw [hk, h.self, hbefore, hafter]
    · rw [h.others k hk]
  simp only [isLoading, hslot]

end SlotBecomes

/-! ## STATUS (R195, log entry 20) -/

theorem attnNotify_ucode (s : State) : (attnNotify s).ucode = s.ucode := (told_notify s _ _).ucode

theorem finish_ucodeStatus_ucode (s0 u : State) (st : Nat) : (finish s0 (ucodeStatus u st)).ucode = u.ucode := finish_ucode _ _

/-- STATUS reads what the command told, once it has ended; while a load runs it reads in progress. -/
theorem getF_finish_ucodeStatus (s0 u : State) {st : Nat} (h : st < 256) :
    getF (finish s0 (ucodeStatus u st)) F.stkUcodeCtl.status = if isLoading u then 4 else st := by
  rw [finish_getF _ _ _ (by decide), ucodeStatus, getF_putF_self]
  split
  · rfl
  · exact Nat.mod_eq_of_lt h

theorem getF_finish_attnNotify (s0 s : State) (f : Field) (h : f.isQuiet = true) :
    getF (finish s0 (attnNotify s)) f = getF (finish s0 s) f := by
  rw [finish_getF _ _ _ h, finish_getF _ _ _ h]
  exact (told_notify s _ _).field f (isQuiet_isTold h)

/-! ## Attachments (R104, R195, R197) -/

theorem fixModel_ucode (s : State) (c : Nat) (im : Image) : (fixModel s c im).ucode = s.ucode :=
  (keep_fixModel s c im).ucode.resolve_left (by decide)

theorem releaseModel_ucode (s : State) (c : Nat) : (releaseModel s c).ucode = s.ucode :=
  (keep_releaseModel s c).ucode.resolve_left (by decide)

theorem attachComp_ucode (s : State) (c : Nat) (j : Fin 16) (im : Image) : (attachComp s c j im).ucode =
    { (setSlot s j.val { slotOf s j.val with users := (slotOf s j.val).users + 1 }).ucode with
      attached := tabPut none s.ucode.attached c (some j) } := fixModel_ucode _ _ _

/-- The slot has one user more. -/
theorem attachComp_slot (s : State) (c : Nat) (j : Fin 16) (im : Image) :
    SlotBecomes s (attachComp s c j im) j.val { slotOf s j.val with users := (slotOf s j.val).users + 1 } := by
  have hset := slotBecomes_setSlot s j.val { slotOf s j.val with users := (slotOf s j.val).users + 1 }
  have hslot (k : Nat) : slotOf (attachComp s c j im) k =
      slotOf (setSlot s j.val { slotOf s j.val with users := (slotOf s j.val).users + 1 }) k := by
    rw [slotOf, attachComp_ucode]
    rfl
  exact ⟨(hslot _).trans hset.self, fun k hk => (hslot k).trans (hset.others k hk)⟩

theorem attachedTo_attachComp_self (s : State) (c : Nat) (j : Fin 16) (im : Image) : attachedTo (attachComp s c j im) c = some j := by
  simp only [attachedTo, attachComp_ucode, tabGet_put_self]

theorem attachedTo_attachComp_other (s : State) (c : Nat) (j : Fin 16) (im : Image) {d : Nat} (h : d ≠ c) :
    attachedTo (attachComp s c j im) d = attachedTo s d := by
  simp only [attachedTo, attachComp_ucode, tabGet_put_other _ _ _ h]

theorem readySlot_ready {s : State} {h : Nat} {j : Fin 16} (hj : readySlot s h = some j) : (slotOf s j.val).state = .ready := by
  have hfound := List.find?_some hj
  simp only [Bool.and_eq_true, beq_iff_eq] at hfound
  exact hfound.1

/-! ## A slot faults (R220) -/

/-- ATTACH ends with LOAD_FAILED, and the slot keeps its handle and the cause alone. -/
theorem finish_faultSlot (s0 u : State) (j cause : Nat) :
    SlotBecomes u (finish s0 (faultSlot u j cause)) j { state := .faulted, handle := (slotOf u j).handle, cause := cause } ∧
    getF (finish s0 (faultSlot u j cause)) F.stkUcodeCtl.status =
      if isLoading (finish s0 (faultSlot u j cause)) then 4 else 6 := by
  have hucode : (finish s0 (faultSlot u j cause)).ucode =
      (setSlot u j { state := .faulted, handle := (slotOf u j).handle, cause := cause }).ucode := by
    rw [finish_ucode, faultSlot, attnNotify_ucode]
    rfl
  refine ⟨(slotBecomes_setSlot u j _).then_same hucode, ?_⟩
  rw [isLoading_of_ucode hucode, faultSlot, getF_finish_attnNotify _ _ _ (by decide), getF_finish_ucodeStatus _ _ (by decide)]

/-! ## The checks of an image (R102) -/

/-- What the checks of an image rest on is the same in `t` as in `s`. -/
structure SameForChecks (s t : State) : Prop where
  fields : t.fields = s.fields
  plt : t.plt = s.plt
  fab : t.fab = s.fab
  sch : t.sch = s.sch

theorem earlyCause_of_same {s t : State} (h : SameForChecks s t) (kind c : Nat) (im : Image) :
    earlyCause t kind c im = earlyCause s kind c im := by
  have hheader : headerGood t im = headerGood s im := by simp only [headerGood, getF_of_fields h.fields]
  have hrole : roleOf t c = roleOf s c := by rw [roleOf, compOf, h.sch, roleOf, compOf]
  have hpackage : packageOk t im = packageOk s im := by rw [packageOk, h.fab, packageOk]
  simp only [earlyCause, hheader, hrole, hpackage, getF_of_fields h.fields]

theorem checkSignature_of_same {s t : State} (h : SameForChecks s t) (im : Image) :
    (checkSignature t im).1 = (checkSignature s im).1 := by
  have hsig : signatureOk t im = signatureOk s im := by simp only [signatureOk, acceptedKeys, h.plt]
  simp only [checkSignature, hsig, h.fab, apply_ite Prod.fst]

/-- The signature check may cache a digest, and changes no composition. -/
theorem modelMatches_checkSignature (s : State) (c : Nat) (im x : Image) :
    modelMatches (checkSignature s x).2 c im = modelMatches s c im := by
  rw [modelMatches, compOf, (keep_checkSignature s x).sch.resolve_left (by decide), modelMatches, compOf]

theorem modelMatches_of_same {s t : State} (h : SameForChecks s t) (c : Nat) (im : Image) : modelMatches t c im = modelMatches s c im := by
  rw [modelMatches, compOf, h.sch, modelMatches, compOf]

/-- The cause of the first check that fails. -/
theorem verifyImage_of_same {s t : State} (h : SameForChecks s t) (kind c : Nat) (im : Image) (other readbackOk : Bool) :
    (verifyImage t kind c im other readbackOk).1 = (verifyImage s kind c im other readbackOk).1 := by
  rw [verifyImage, verifyImage, earlyCause_of_same h]
  cases earlyCause s kind c im with
  | some cause => rfl
  | none =>
    simp only [checkSignature_of_same h, modelMatches_checkSignature, modelMatches_of_same h, apply_ite Prod.fst]

theorem verifyImage_ucode (s : State) (kind c : Nat) (im : Image) (other readbackOk : Bool) :
    (verifyImage s kind c im other readbackOk).2.ucode = s.ucode :=
  (keep_verifyImage s kind c im other readbackOk).ucode.resolve_left (by decide)

end Sys2Proof.Machine
end

section
/-! SUPPORT. The commands of microcode slots (O26): ATTACH, UCODE_LOAD_COMPLETE, DETACH, DETACH_COMPLETE and STK_UCODE_CLEAR (R195, R197,
R219 to R221). -/

namespace Sys2Proof.Machine

open Sys2Proof

/-! ## ATTACH (R195) -/

theorem firstFree_none {lo n : Nat} {p : Nat → Bool} (h : ∀ i, lo ≤ i → i < lo + n → p i = false) : firstFree lo n p = none := by
  induction n generalizing lo with
  | zero => rfl
  | succ n ih =>
    rw [firstFree, h lo (by omega) (by omega), if_neg Bool.false_ne_true]
    exact ih (fun i hlo hhi => h i (by omega) (by omega))

section
variable {s : State} {h c : Nat}

theorem doAttach_notBound (hnone : compOf s c = none) : doAttach s h c = ucodeStatus s 2 := by
  rw [doAttach, if_pos (by simp [hnone])]

theorem doAttach_busy (hbound : compOf s c ≠ none) (hbusy : attachedTo s c ≠ none ∨ isAttaching s c = true) :
    doAttach s h c = ucodeStatus s 1 := by
  rw [doAttach, if_neg (by simpa using hbound), if_pos (by simpa [Option.isSome_iff_ne_none] using hbusy)]

section
variable (hbound : compOf s c ≠ none) (hloose : attachedTo s c = none) (hidle : isAttaching s c = false)
include hbound hloose hidle

/-- A READY slot that holds the handle is used, where its image is right for the composition. -/
theorem doAttach_ready {j : Fin 16} {im : Image} (hj : readySlot s h = some j) (him : (slotOf s j.val).image = some im) :
    doAttach s h c = if slotMatches s c im then ucodeStatus (attachComp s c j im) 0 else ucodeStatus s 5 := by
  rw [doAttach, if_neg (by simpa using hbound), if_neg (by simp [hloose, hidle]), hj]
  simp only [him]

/-- Without one a load begins. -/
theorem doAttach_loads (hj : readySlot s h = none) : doAttach s h c = beginUcode s h c := by
  rw [doAttach, if_neg (by simpa using hbound), if_neg (by simp [hloose, hidle]), hj]

end

/-- The slot that a load takes is one that was EMPTY. -/
theorem chooseFree_emptySlot (hempty : ∃ j < 16, (slotOf s j).state = .empty) :
    ∃ j : Fin 16, chooseFree s 0 16 (fun j => (slotOf s j).state == .empty) = (some j.val, chosen s) ∧
      (slotOf s j.val).state = .empty := by
  obtain ⟨i, hi, hstate⟩ := hempty
  obtain ⟨j, hj, -, hlt, hp⟩ := chooseFree_some (s := s) (lo := 0) (n := 16) (p := fun j => (slotOf s j).state == .empty)
    ⟨i, by omega, by omega, by simpa using hstate⟩
  exact ⟨⟨j, by omega⟩, hj, by simpa using hp⟩

/-- A load sets out: the slot is LOADING for the composition, under a lease where one is free. -/
theorem beginUcode_loads (c : CompNo) (hempty : ∃ j < 16, (slotOf s j).state = .empty) (hres : resolveImage s h 1 = true) :
    ∃ (j : Fin 16) (t : State), (slotOf s j.val).state = .empty ∧ beginUcode s h c.val = ucodeStatus t 4 ∧
      SlotBecomes s t j.val { state := .loading, handle := h, loadFor := some c, lease := engineLease s } := by
  obtain ⟨j, hj, hstate⟩ := chooseFree_emptySlot hempty
  have hres' : resolveImage (setSlot (chosen s) j.val { state := .loading, handle := h }) h 1 = true := hres
  have hlease : engineLease (setSlot (chosen s) j.val { state := .loading, handle := h }) = engineLease s := rfl
  have hcomp : (⟨c.val % 256, Nat.mod_lt _ (by decide)⟩ : CompNo) = c := Fin.ext (Nat.mod_eq_of_lt c.isLt)
  have hset := (slotBecomes_setSlot (chosen s) j.val { state := .loading, handle := h }).of_same (s := s) rfl
  simp only [beginUcode, hj, hres', hlease, hcomp, Bool.not_true, Bool.false_eq_true, if_false]
  refine ⟨j, _, hstate, rfl, (hset.then_same ?_).again (slotBecomes_setSlot _ _ _)⟩
  cases engineLease s <;> rfl

/-- A handle that does not resolve to an image faults the slot at once. -/
theorem beginUcode_faults (hempty : ∃ j < 16, (slotOf s j).state = .empty) (hres : resolveImage s h 1 = false) :
    ∃ (j : Fin 16) (t : State), (slotOf s j.val).state = .empty ∧ beginUcode s h c = faultSlot t j.val 12 ∧
      SlotBecomes s t j.val { state := .loading, handle := h } := by
  obtain ⟨j, hj, hstate⟩ := chooseFree_emptySlot hempty
  have hres' : resolveImage (setSlot (chosen s) j.val { state := .loading, handle := h }) h 1 = false := hres
  have hset := (slotBecomes_setSlot (chosen s) j.val { state := .loading, handle := h }).of_same (s := s) rfl
  refine ⟨j, _, hstate, ?_, hset⟩
  simp only [beginUcode, hj, hres', Bool.not_false, if_true]

theorem beginUcode_full (hfull : ∀ j < 16, (slotOf s j).state ≠ .empty) : beginUcode s h c = ucodeStatus s 3 := by
  have hnone : firstFree 0 16 (fun j => (slotOf s j).state == .empty) = none :=
    firstFree_none (fun i _ hi => by simpa using hfull i (by omega))
  rw [beginUcode, chooseFree, hnone]

end

/-- The fields of STK_UCODE_CTL that a command of a composition carries. -/
def attachFields (s : State) (h c : Nat) : State := putF (putF s F.stkUcodeCtl.handle h) F.stkUcodeCtl.composition c

section
variable {s : State} {h : Nat} {c : CompNo} (hserves : serves s 4 = true) (hawake : isAwake s = true)
include hserves hawake

theorem exec_attach : exec (.attach h c) s = .next (finish s (doAttach (attachFields s h c.val) (h % 2 ^ 32) c.val)) := by
  change execAttach h c s = _
  rw [execAttach, hserves, actAwake_taken _ _ _ hawake]
  rfl

/-- An ATTACH that only tells a status. -/
theorem attach_tells {st : Nat} (hst : st < 256)
    (hdo : doAttach (attachFields s h c.val) (h % 2 ^ 32) c.val = ucodeStatus (attachFields s h c.val) st) :
    Completes (.attach h c) s (fun t => getF t F.stkUcodeCtl.status = (if isLoading s then 4 else st) ∧ t.ucode = s.ucode) := by
  refine ⟨_, exec_attach hserves hawake, ?_⟩
  rw [hdo]
  exact ⟨getF_finish_ucodeStatus _ _ hst, finish_ucodeStatus_ucode _ _ _⟩

theorem attach_notBound (hnone : compOf s c.val = none) : Completes (.attach h c) s (fun t =>
    getF t F.stkUcodeCtl.status = (if isLoading s then 4 else 2) ∧ t.ucode = s.ucode) :=
  attach_tells hserves hawake (by decide) (doAttach_notBound hnone)

theorem attach_busy (hbound : compOf s c.val ≠ none) (hbusy : attachedTo s c.val ≠ none ∨ isAttaching s c.val = true) :
    Completes (.attach h c) s (fun t => getF t F.stkUcodeCtl.status = (if isLoading s then 4 else 1) ∧ t.ucode = s.ucode) :=
  attach_tells hserves hawake (by decide) (doAttach_busy hbound hbusy)

variable (hbound : compOf s c.val ≠ none) (hloose : attachedTo s c.val = none) (hidle : isAttaching s c.val = false)
include hbound hloose hidle

theorem attach_attaches {j : Fin 16} {im : Image} (hj : readySlot s (h % 2 ^ 32) = some j)
    (him : (slotOf s j.val).image = some im) (hmatch : slotMatches s c.val im = true) :
    Completes (.attach h c) s (fun t => getF t F.stkUcodeCtl.status = (if isLoading s then 4 else 0) ∧ attachedTo t c.val = some j ∧
      slotOf t j.val = { slotOf s j.val with users := (slotOf s j.val).users + 1 } ∧
      (∀ d, d ≠ c.val → attachedTo t d = attachedTo s d)) := by
  have hquiet : ((slotOf s j.val).state == .loading || (slotOf s j.val).state == .verifying) = false := by
    rw [readySlot_ready hj]
    rfl
  have hdo : doAttach (attachFields s h c.val) (h % 2 ^ 32) c.val = ucodeStatus (attachComp (attachFields s h c.val) c.val j im) 0 :=
    (doAttach_ready (s := attachFields s h c.val) hbound hloose hidle hj him).trans (if_pos hmatch)
  have hslot := (attachComp_slot (attachFields s h c.val) c.val j im).of_same (s := s) rfl
  have hucode := finish_ucodeStatus_ucode s (attachComp (attachFields s h c.val) c.val j im) 0
  refine ⟨_, exec_attach hserves hawake, ?_⟩
  rw [hdo]
  refine ⟨?_, ?_, (hslot.then_same hucode).self, fun d hd => ?_⟩
  · rw [getF_finish_ucodeStatus _ _ (by decide), hslot.isLoading_eq hquiet hquiet]
  · rw [attachedTo_of_ucode hucode, attachedTo_attachComp_self]
  · rw [attachedTo_of_ucode hucode, attachedTo_attachComp_other _ _ _ _ hd]
    rfl

theorem attach_mismatch {j : Fin 16} {im : Image} (hj : readySlot s (h % 2 ^ 32) = some j)
    (him : (slotOf s j.val).image = some im) (hmatch : slotMatches s c.val im = false) :
    Completes (.attach h c) s (fun t => getF t F.stkUcodeCtl.status = (if isLoading s then 4 else 5) ∧ t.ucode = s.ucode) :=
  attach_tells hserves hawake (by decide)
    ((doAttach_ready (s := attachFields s h c.val) hbound hloose hidle hj him).trans (if_neg (Bool.eq_false_iff.1 hmatch)))

variable (hnone : readySlot s (h % 2 ^ 32) = none)
include hnone

theorem attach_loads (hempty : ∃ j < 16, (slotOf s j).state = .empty) (hres : resolveImage s (h % 2 ^ 32) 1 = true) :
    Completes (.attach h c) s (fun t => getF t F.stkUcodeCtl.status = 4 ∧ ∃ j : Fin 16, (slotOf s j.val).state = .empty ∧
      slotOf t j.val = { state := .loading, handle := h % 2 ^ 32, loadFor := some c, lease := engineLease s } ∧
      (∀ k, k ≠ j.val → slotOf t k = slotOf s k)) := by
  obtain ⟨j, t, hstate, hbegin, hslot⟩ := beginUcode_loads (s := attachFields s h c.val) c hempty hres
  have hend := (hslot.then_same (finish_ucodeStatus_ucode s t 4)).of_same (s := s) rfl
  refine ⟨_, exec_attach hserves hawake, ?_⟩
  rw [doAttach_loads (s := attachFields s h c.val) hbound hloose hidle hnone, hbegin]
  refine ⟨?_, j, hstate, hend.self, hend.others⟩
  rw [getF_finish_ucodeStatus _ _ (by decide), ite_self]

theorem attach_faults (hempty : ∃ j < 16, (slotOf s j).state = .empty) (hres : resolveImage s (h % 2 ^ 32) 1 = false) :
    Completes (.attach h c) s (fun t => getF t F.stkUcodeCtl.status = (if isLoading s then 4 else 6) ∧
      ∃ j : Fin 16, (slotOf s j.val).state = .empty ∧ slotOf t j.val = { state := .faulted, handle := h % 2 ^ 32, cause := 12 } ∧
      (∀ k, k ≠ j.val → slotOf t k = slotOf s k)) := by
  obtain ⟨j, t, hstate, hbegin, hslot⟩ := beginUcode_faults (s := attachFields s h c.val) (c := c.val) hempty hres
  obtain ⟨hfault, hstatus⟩ := finish_faultSlot s t j.val 12
  have hend := (hslot.again hfault).of_same (s := s) rfl
  rw [hslot.self] at hend
  refine ⟨_, exec_attach hserves hawake, ?_⟩
  rw [doAttach_loads (s := attachFields s h c.val) hbound hloose hidle hnone, hbegin]
  refine ⟨?_, j, hstate, hend.self, hend.others⟩
  have hstate' : (slotOf s j.val).state = .empty := hstate
  rw [hstatus, hend.isLoading_eq (by rw [hstate']; rfl) rfl]

theorem attach_full (hfull : ∀ j < 16, (slotOf s j).state ≠ .empty) : Completes (.attach h c) s (fun t =>
    getF t F.stkUcodeCtl.status = (if isLoading s then 4 else 3) ∧ t.ucode = s.ucode) :=
  attach_tells hserves hawake (by decide)
    ((doAttach_loads (s := attachFields s h c.val) hbound hloose hidle hnone).trans (beginUcode_full hfull))

end

/-! ## UCODE_LOAD_COMPLETE (R102, R180, R219, R220) -/

/-- The state once the read of a slot's load has ended, and with it its lease. -/
def afterRead (s : State) (x : UcodeSlot) (read : ReadEnd) : State :=
  match x.lease with
  | some k => endLease (readImage s x.handle read).2 k
  | none => (readImage s x.handle read).2

theorem afterRead_ucode (s : State) (x : UcodeSlot) (read : ReadEnd) : (afterRead s x read).ucode = s.ucode := by
  have hread : (readImage s x.handle read).2.ucode = s.ucode := (keep_readImage _ _ _).ucode.resolve_left (by decide)
  unfold afterRead
  split
  · rw [(keep_endLease _ _).ucode.resolve_left (by decide), hread]
  · exact hread

/-- A read that ends whole leaves what the checks of the image rest on. -/
theorem sameForChecks_afterRead (s : State) (x : UcodeSlot) : SameForChecks s (afterRead s x .whole) := by
  have hask := keep_askHost s (odtOf s (handleIndex x.handle))
  have hread : SameForChecks s (readImage s x.handle .whole).2 :=
    ⟨hask.fields.resolve_left (by decide), hask.plt.resolve_left (by decide), hask.fab.resolve_left (by decide),
      hask.sch.resolve_left (by decide)⟩
  unfold afterRead
  split
  · next k _ =>
    have hend := keep_endLease (readImage s x.handle .whole).2 k
    exact ⟨(hend.fields.resolve_left (by decide)).trans hread.fields, (hend.plt.resolve_left (by decide)).trans hread.plt,
      (hend.fab.resolve_left (by decide)).trans hread.fab, (hend.sch.resolve_left (by decide)).trans hread.sch⟩
  · exact hread

/-- A read that ends whole gives the image that stands in the object. -/
theorem readImage_whole (s : State) (h : Nat) : (readImage s h .whole).1 = imageOf s h := by
  have hbyte : objectByte (askHost s (odtOf s (handleIndex h))) (handleIndex h) = objectByte s (handleIndex h) :=
    objectByte_askHost _ _ _
  have hodt : odtOf (askHost s (odtOf s (handleIndex h))) (handleIndex h) = odtOf s (handleIndex h) := by rw [odtOf, askHost_stk, odtOf]
  have hreadable : objectReadable (askHost s (odtOf s (handleIndex h))) h = objectReadable s h := by
    simp only [objectReadable, hodt, xtsKey, askHost_stk]
  change imageOf (askHost s (odtOf s (handleIndex h))) h = _
  rw [imageOf, hbyte, hreadable, hodt, imageOf]

theorem readImage_errorAt (s : State) (h o : Nat) : (readImage s h (.errorAt o)).1 = none := rfl

section
variable {s : State} {j : Fin 16} {c : CompNo}

/-- A load that has to wait for its object does nothing. -/
theorem endUcode_waits (read : ReadEnd) (ok : Bool) (hwait : mustWait s (slotOf s j.val).handle = true) : endUcode s j c read ok = s := by
  rw [endUcode, if_pos (by simp [hwait])]

section
variable (hlease : (slotOf s j.val).lease.isSome = true ∨ canLease s = true) (hnow : mustWait s (slotOf s j.val).handle = false)
include hlease hnow

theorem readsNow : ((slotOf s j.val).lease.isNone && !canLease s || mustWait s (slotOf s j.val).handle) = false := by
  obtain hsome | hcan := hlease
  · simp [Option.isSome_iff_ne_none.1 hsome, hnow]
  · simp [hcan, hnow]

/-- Without an image the slot faults. -/
theorem endUcode_withoutImage (read : ReadEnd) (ok : Bool) (hnone : (readImage s (slotOf s j.val).handle read).1 = none) :
    endUcode s j c read ok = faultSlot (afterRead s (slotOf s j.val) read) j.val 11 := by
  simp only [endUcode, readsNow hlease hnow, Bool.false_eq_true, if_false, hnone]
  rfl

/-- An image goes through VERIFYING. -/
theorem endUcode_image (read : ReadEnd) (ok : Bool) {im : Image} (him : (readImage s (slotOf s j.val).handle read).1 = some im) :
    endUcode s j c read ok = verifyUcode (setSlot (afterRead s (slotOf s j.val) read) j.val
      { slotOf s j.val with state := .verifying, lease := none }) j c im ok := by
  simp only [endUcode, readsNow hlease hnow, Bool.false_eq_true, if_false, him]
  rfl

end

theorem verifyUcode_faults {im : Image} {ok : Bool} {cause : Nat} (h : (verifyImage s 2 c.val im true ok).1 = some cause) :
    verifyUcode s j c im ok = faultSlot (verifyImage s 2 c.val im true ok).2 j.val cause := by
  rw [verifyUcode, h]

theorem verifyUcode_attaches {im : Image} {ok : Bool} (h : (verifyImage s 2 c.val im true ok).1 = none) :
    verifyUcode s j c im ok = attnNotify (ucodeStatus (attachComp (setSlot (verifyImage s 2 c.val im true ok).2 j.val
      { state := .ready, handle := (slotOf s j.val).handle, image := some im }) c.val j im) 0) := by
  rw [verifyUcode, h]

theorem exec_ucodeLoadComplete (read : ReadEnd) (ok : Bool) (hruns : runs s = true) (hfor : (slotOf s j.val).loadFor = some c) :
    exec (.ucodeLoadComplete j read ok) s = .next (finish s (endUcode s j c read ok)) := by
  change execUcodeLoadComplete j read ok s = _
  rw [execUcodeLoadComplete, hruns, act_taken, hfor]

theorem ucodeLoadComplete_waits (j : Fin 16) (read : ReadEnd) (ok : Bool) (hruns : runs s = true)
    (hwait : mustWait s (slotOf s j.val).handle = true) : Effect (.ucodeLoadComplete j read ok) s s := by
  change execUcodeLoadComplete j read ok s = _
  rw [execUcodeLoadComplete, hruns, act_taken]
  split
  · rw [endUcode_waits read ok hwait]
  · rfl

section
variable (hruns : runs s = true) (hfor : (slotOf s j.val).loadFor = some c)
  (hlease : (slotOf s j.val).lease.isSome = true ∨ canLease s = true) (hnow : mustWait s (slotOf s j.val).handle = false)
include hruns hfor hlease hnow

theorem ucodeLoadComplete_withoutImage (read : ReadEnd) (ok : Bool) (hnone : (readImage s (slotOf s j.val).handle read).1 = none) :
    Completes (.ucodeLoadComplete j read ok) s (fun t => getF t F.stkUcodeCtl.status = (if isLoading t then 4 else 6) ∧
      slotOf t j.val = { state := .faulted, handle := (slotOf s j.val).handle, cause := 11 }) := by
  obtain ⟨hfault, hstatus⟩ := finish_faultSlot s (afterRead s (slotOf s j.val) read) j.val 11
  rw [slotOf_of_ucode (afterRead_ucode _ _ _)] at hfault
  refine ⟨_, exec_ucodeLoadComplete read ok hruns hfor, ?_⟩
  rw [endUcode_withoutImage hlease hnow read ok hnone]
  exact ⟨hstatus, hfault.self⟩

theorem ucodeLoadComplete_verifies {im : Image} (ok : Bool) (him : imageOf s (slotOf s j.val).handle = some im) :
    Completes (.ucodeLoadComplete j .whole ok) s (fun t =>
      (∀ cause, (verifyImage s 2 c.val im true ok).1 = some cause →
        getF t F.stkUcodeCtl.status = (if isLoading t then 4 else 6) ∧
        slotOf t j.val = { state := .faulted, handle := (slotOf s j.val).handle, cause := cause }) ∧
      ((verifyImage s 2 c.val im true ok).1 = none →
        getF t F.stkUcodeCtl.status = (if isLoading t then 4 else 0) ∧ attachedTo t c.val = some j ∧
        slotOf t j.val = { state := .ready, handle := (slotOf s j.val).handle, image := some im, users := 1 })) := by
  have hdo := endUcode_image (c := c) hlease hnow .whole ok ((readImage_whole _ _).trans him)
  have hsame : SameForChecks s (setSlot (afterRead s (slotOf s j.val) .whole) j.val
      { slotOf s j.val with state := .verifying, lease := none }) :=
    ⟨(sameForChecks_afterRead s _).fields, (sameForChecks_afterRead s _).plt, (sameForChecks_afterRead s _).fab,
      (sameForChecks_afterRead s _).sch⟩
  have hverifying := slotBecomes_setSlot (afterRead s (slotOf s j.val) .whole) j.val
    { slotOf s j.val with state := .verifying, lease := none }
  refine ⟨_, exec_ucodeLoadComplete .whole ok hruns hfor, ?_⟩
  rw [hdo, ← verifyImage_of_same hsame 2 c.val im true ok]
  generalize setSlot (afterRead s (slotOf s j.val) .whole) j.val { slotOf s j.val with state := .verifying, lease := none } = u
    at hverifying
  have hslot := hverifying.then_same (verifyImage_ucode u 2 c.val im true ok)
  refine ⟨fun cause hcause => ?_, fun hpasses => ?_⟩
  · obtain ⟨hfault, hstatus⟩ := finish_faultSlot s (verifyImage u 2 c.val im true ok).2 j.val cause
    rw [hslot.self] at hfault
    rw [verifyUcode_faults hcause]
    exact ⟨hstatus, hfault.self⟩
  · rw [verifyUcode_attaches hpasses, hverifying.self]
    have hready := slotBecomes_setSlot (verifyImage u 2 c.val im true ok).2 j.val
      { state := .ready, handle := (slotOf s j.val).handle, image := some im }
    generalize setSlot (verifyImage u 2 c.val im true ok).2 j.val
      { state := .ready, handle := (slotOf s j.val).handle, image := some im } = v at hready
    have hattach := attachComp_slot v c.val j im
    have hucode : (finish s (attnNotify (ucodeStatus (attachComp v c.val j im) 0))).ucode = (attachComp v c.val j im).ucode := by
      rw [finish_ucode, attnNotify_ucode]
      rfl
    rw [hready.self] at hattach
    refine ⟨?_, ?_, (hattach.then_same hucode).self⟩
    · rw [isLoading_of_ucode hucode, getF_finish_attnNotify _ _ _ (by decide), getF_finish_ucodeStatus _ _ (by decide)]
    · rw [attachedTo_of_ucode hucode, attachedTo_attachComp_self]

end

end

/-! ## DETACH and DETACH_COMPLETE (R197) -/

section
variable {s : State} {c : CompNo} (hserves : serves s 4 = true) (hawake : isAwake s = true)
include hserves hawake

theorem exec_detach : exec (.detach c) s = .next (finish s (doDetach (putF s F.stkUcodeCtl.composition c.val) c.val)) := by
  change execDetach c s = _
  rw [execDetach, hserves, actAwake_taken _ _ _ hawake]

theorem detach_notBound (hnone : compOf s c.val = none) :
    Effect (.detach c) s (ucodeStatus (putF s F.stkUcodeCtl.composition c.val) 2) := by
  have hnone' : compOf (putF s F.stkUcodeCtl.composition c.val) c.val = none := hnone
  rw [Effect, exec_detach hserves hawake, doDetach, if_pos (by simp [hnone'])]

variable (hbound : compOf s c.val ≠ none)
include hbound

theorem detach_notAttached (hloose : attachedTo s c.val = none) :
    Effect (.detach c) s (ucodeStatus (putF s F.stkUcodeCtl.composition c.val) 0) := by
  have hbound' : compOf (putF s F.stkUcodeCtl.composition c.val) c.val ≠ none := hbound
  have hloose' : attachedTo (putF s F.stkUcodeCtl.composition c.val) c.val = none := hloose
  rw [Effect, exec_detach hserves hawake, doDetach, if_neg (by simpa using hbound'), if_pos (by simp [hloose'])]

theorem detach_begins (hattached : attachedTo s c.val ≠ none) : Completes (.detach c) s (fun t => getF t F.stkUcodeCtl.status = 4 ∧
    t.ucode = { s.ucode with detaching := tabPut false s.ucode.detaching c.val true }) := by
  have hbound' : compOf (putF s F.stkUcodeCtl.composition c.val) c.val ≠ none := hbound
  have hattached' : attachedTo (putF s F.stkUcodeCtl.composition c.val) c.val ≠ none := hattached
  refine ⟨_, exec_detach hserves hawake, ?_⟩
  rw [doDetach, if_neg (by simpa using hbound'), if_neg (by simpa using hattached')]
  refine ⟨?_, finish_ucodeStatus_ucode _ _ _⟩
  rw [getF_finish_ucodeStatus _ _ (by decide), ite_self]

end

/-- The composition leaves its slot. -/
theorem detachComp_ucode {s : State} {c : Nat} {j : Fin 16} (hj : attachedTo s c = some j) : (detachComp s c).ucode =
    { (setSlot s j.val (if (slotOf s j.val).users ≤ 1 then {} else
        { slotOf s j.val with users := (slotOf s j.val).users - 1 })).ucode with
      attached := tabPut none s.ucode.attached c none, detaching := tabPut false s.ucode.detaching c false } := by
  rw [detachComp, hj]
  exact releaseModel_ucode _ _

theorem detachComplete_detaches {s : State} (c : CompNo) (j : Fin 16) (hruns : runs s = true)
    (hdetaching : tabGet false s.ucode.detaching c.val = true) (hidle : stackBusy s c.val = false)
    (hj : attachedTo s c.val = some j) : Completes (.detachComplete c) s (fun t =>
      getF t F.stkUcodeCtl.status = (if isLoading t then 4 else 0) ∧
      attachedTo t c.val = none ∧ tabGet false t.ucode.detaching c.val = false ∧
      slotOf t j.val = (if (slotOf s j.val).users ≤ 1 then {} else
        { slotOf s j.val with users := (slotOf s j.val).users - 1 })) := by
  have hucode := finish_ucodeStatus_ucode s (detachComp s c.val) 0
  have hdetached := hucode.trans (detachComp_ucode hj)
  refine ⟨finish s (ucodeStatus (detachComp s c.val) 0), ?_, ?_, ?_, ?_, ?_⟩
  · change execDetachComplete c s = _
    rw [execDetachComplete, hruns, hdetaching, hidle]
    exact act_taken _ _
  · rw [isLoading_of_ucode hucode, getF_finish_ucodeStatus _ _ (by decide)]
  · simp only [attachedTo, hdetached, tabGet_put_self]
  · simp only [hdetached, tabGet_put_self]
  · rw [slotOf, hdetached]
    exact (slotBecomes_setSlot _ _ _).self

/-! ## STK_UCODE_CLEAR (R221) -/

/-- Slot `j` returns to EMPTY where the mask names it and it is FAULTED. -/
def clearSlot (mask : BitVec 64) (s : State) (j : Nat) : State :=
  if mask.getLsbD j && (slotOf s j).state == .faulted then setSlot s j {} else s

theorem slotOf_clearSlot (mask : BitVec 64) (s : State) (i j : Nat) : slotOf (clearSlot mask s i) j =
    if j = i ∧ mask.getLsbD j = true ∧ (slotOf s j).state = .faulted then {} else slotOf s j := by
  have hset := slotBecomes_setSlot s i {}
  unfold clearSlot
  by_cases hj : j = i
  · subst hj
    split
    · next hclear => rw [hset.self, if_pos (by simpa using hclear)]
    · next hclear => rw [if_neg (by simpa using hclear)]
  · have hno : ¬(j = i ∧ mask.getLsbD j = true ∧ (slotOf s j).state = .faulted) := fun hclear => hj hclear.1
    rw [if_neg hno]
    split
    · exact hset.others j hj
    · rfl

/-- The FAULTED slots of a list that the mask names are EMPTY, and no other changes. -/
theorem slotOf_clearSlots (mask : BitVec 64) (l : List Nat) (s : State) (j : Nat) : slotOf (l.foldl (clearSlot mask) s) j =
    if j ∈ l ∧ mask.getLsbD j = true ∧ (slotOf s j).state = .faulted then {} else slotOf s j := by
  induction l generalizing s with
  | nil => simp
  | cons i l ih =>
    rw [List.foldl_cons, ih, slotOf_clearSlot]
    by_cases hclear : j = i ∧ mask.getLsbD j = true ∧ (slotOf s j).state = .faulted
    · rw [if_pos hclear, ite_self, if_pos ⟨List.mem_cons.2 (.inl hclear.1), hclear.2⟩]
    · rw [if_neg hclear]
      refine if_congr ?_ rfl rfl
      rw [List.mem_cons]
      tauto

theorem stkUcodeClear_clears {s : State} (mask : BitVec 64) (hserves : serves s 4 = true) (hawake : isAwake s = true) :
    Completes (.stkUcodeClear mask) s (fun t =>
      ∀ j, slotOf t j = (if j < 16 ∧ mask.getLsbD j = true ∧ (slotOf s j).state = .faulted then {} else slotOf s j)) := by
  refine ⟨finish s ((List.range 16).foldl (clearSlot mask) s), ?_, fun j => ?_⟩
  · change execStkUcodeClear mask s = _
    rw [execStkUcodeClear, hserves, actAwake_taken _ _ _ hawake]
    rfl
  · rw [slotOf_of_ucode (finish_ucode _ _), slotOf_clearSlots]
    simp only [List.mem_range]

end Sys2Proof.Machine
end

section
/-! SUPPORT. Passes end and stack cores leave service (O26, R209, R216). -/

namespace Sys2Proof.Machine

open Sys2Proof

/-! ## The end of a pass (R209) -/

/-- No pass waits, so none takes a slot. -/
theorem fillCores_idle {s : State} (h : s.ucode.waiting = []) : fillCores s = s := by
  unfold fillCores
  rw [h]
  calc ({ s with ucode := { s.ucode with waiting := [] } } : State)
    _ = { s with ucode := { s.ucode with waiting := s.ucode.waiting } } := by rw [h]
    _ = s := rfl

/-- The registers of a stack's cores stand before every register that the end of a command writes. -/
theorem isQuiet_passes (st : StackNo) : (F.stkCoreStatus.passes.at st.val).isQuiet = true := by
  have hkey : (F.stkCoreStatus.passes.at st.val).key = (0x00400200 + 8 * st.val) * 64 + 32 := rfl
  have hraw : F.codStats.rawBlocks.key > 0x00500000 * 64 := by decide
  have hcoded : F.codStats.codedBlocks.key > 0x00500000 * 64 := by decide
  simp only [Field.isQuiet, Field.isTold, hkey, Bool.and_eq_true, Bool.or_eq_true, decide_eq_true_eq, bne_iff_ne]
  omega

/-- A pass that ends well leaves its slot, ends its lease, is counted, and its results wait. -/
def passEnded (s : State) (st k : Nat) (results : List PassResult) : State :=
  let u := wrapF (endLease { s with ucode := { s.ucode with passes := tabPut none s.ucode.passes k none } } (1024 + k))
    (F.stkCoreStatus.passes.at st) 1
  { u with ucode := { s.ucode with passes := tabPut none s.ucode.passes k none, results := s.ucode.results ++ results } }

theorem endPass_well {s : State} {p : Pass} {stp : Step} {d : ModelDescriptor} {e : LayerEntry} (st k : Nat)
    (hwaiting : s.ucode.waiting = []) (hstep : stepOf s p.step = some stp) (hdesc : descOf s p.comp = some d)
    (hlayer : ((slotOf s p.slot).image).bind (fun im => im.layerTable[p.layer]?) = some e) :
    endPass s st k p none = passEnded s st k (passResults s d p e) := by
  have hlease (t : State) (n : Nat) : (endLease t n).ucode = t.ucode := (keep_endLease t n).ucode.resolve_left (by decide)
  simp only [endPass, hstep, hdesc, hlayer, passEnded, wrapF, putF_ucode, hlease]
  exact fillCores_idle hwaiting

theorem getF_passEnded (s : State) (st k : Nat) (results : List PassResult) :
    getF (passEnded s st k results) (F.stkCoreStatus.passes.at st) =
      (getF s (F.stkCoreStatus.passes.at st) + 1) % 2 ^ F.stkCoreStatus.passes.width := by
  have hlease : getF (endLease { s with ucode := { s.ucode with passes := tabPut none s.ucode.passes k none } } (1024 + k))
      (F.stkCoreStatus.passes.at st) = getF s (F.stkCoreStatus.passes.at st) :=
    getF_of_fields ((keep_endLease _ _).fields.resolve_left (by decide)) _
  rw [← hlease]
  exact getF_putF_self _ _ _

theorem passComplete_ends {s : State} (st : StackNo) (core slot : Fin 4) (p : Pass) (stp : Step) (d : ModelDescriptor) (e : LayerEntry)
    (hruns : runs s = true) (hwaiting : s.ucode.waiting = [])
    (hpass : passOf s (16 * st.val + 4 * core.val + slot.val) = some p) (hstep : stepOf s p.step = some stp)
    (hdesc : descOf s p.comp = some d)
    (hlayer : ((slotOf s p.slot).image).bind (fun im => im.layerTable[p.layer]?) = some e) :
    Completes (.passComplete st core slot none) s (fun t =>
      passOf t (16 * st.val + 4 * core.val + slot.val) = none ∧
      getF t (F.stkCoreStatus.passes.at st.val) = (getF s (F.stkCoreStatus.passes.at st.val) + 1) % 2 ^ F.stkCoreStatus.passes.width ∧
      (∀ k, k ≠ 16 * st.val + 4 * core.val + slot.val → passOf t k = passOf s k) ∧
      t.ucode.results = s.ucode.results ++ passResults s d p e) := by
  refine ⟨finish s (passEnded s st.val (16 * st.val + 4 * core.val + slot.val) (passResults s d p e)), ?_, ?_, ?_, fun k hk => ?_, ?_⟩
  · change execPassComplete st core slot none s = _
    rw [execPassComplete, hruns, act_taken]
    simp only [hpass, endPass_well _ _ hwaiting hstep hdesc hlayer]
  · rw [passOf_of_ucode (finish_ucode _ _)]
    exact tabGet_put_self none s.ucode.passes _ none
  · rw [finish_getF _ _ _ (isQuiet_passes st), getF_passEnded]
  · rw [passOf_of_ucode (finish_ucode _ _)]
    exact tabGet_put_other none s.ucode.passes none hk
  · rw [finish_ucode]
    rfl

/-! ## STACK_CORE_FAULT (R216) -/

/-- A core that holds no pass leaves service, and nothing is issued again. -/
theorem loseCore_idle {s : State} (st core : Nat) (hwaiting : s.ucode.waiting = [])
    (hfree : ∀ j < 4, passOf s (16 * st + 4 * core + j) = none) : loseCore s st core =
      attnNotify (putF s (F.stkCoreStatus.coreOk.at st) (getF s (F.stkCoreStatus.coreOk.at st) - 2 ^ core)) := by
  have hlost : ((List.range 4).map (fun j => 16 * st + 4 * core + j)).filterMap (fun k => (passOf s k).map (fun p => (k, p))) = [] := by
    simpa [List.filterMap_eq_nil_iff] using hfree
  have hnone : (attnNotify (putF s (F.stkCoreStatus.coreOk.at st)
      (getF s (F.stkCoreStatus.coreOk.at st) - 2 ^ core))).ucode.waiting = [] := by
    rw [attnNotify_ucode, putF_ucode, hwaiting]
  unfold loseCore
  simp only [hlost, List.foldl_nil, List.map_nil, List.nil_append]
  generalize attnNotify (putF s (F.stkCoreStatus.coreOk.at st) (getF s (F.stkCoreStatus.coreOk.at st) - 2 ^ core)) = u at hnone ⊢
  change (if stackDead u st then (((u.ucode.waiting.filter (fun w => w.1 == st)).map (fun w => w.2.step)).dedup).foldl restartStep u
    else fillCores u) = u
  split
  · rw [hnone]
    rfl
  · exact fillCores_idle hnone

theorem stackCoreFault_idle {s : State} (st : StackNo) (core : Fin 4) (hruns : runs s = true) (hok : coreOk s st.val core.val = true)
    (hwaiting : s.ucode.waiting = []) (hfree : ∀ j < 4, passOf s (16 * st.val + 4 * core.val + j) = none) :
    Effect (.stackCoreFault st core) s (attnNotify (putF s (F.stkCoreStatus.coreOk.at st.val)
      (getF s (F.stkCoreStatus.coreOk.at st.val) - 2 ^ core.val))) := by
  change execStackCoreFault st core s = _
  rw [execStackCoreFault, hruns, hok, ← loseCore_idle st.val core.val hwaiting hfree]
  exact act_taken _ _

/-- Settles O26: a lemma for each command and each way it can end. -/
theorem microcodeAndPasses : Obligations.MicrocodeAndPasses := by
  unfold Obligations.MicrocodeAndPasses
  refine ⟨fun s h c hserves hawake hbound hloose hidle => ⟨fun j im => ?_, fun j im => ?_, ?_, ?_, ?_⟩, fun s h c hserves hawake => ?_,
    fun s c j hruns hfor hlease hnow => ⟨fun im ok => ?_, fun ok hnone => ?_, fun o ok => ?_⟩,
    fun s j r ok => ucodeLoadComplete_waits j r ok, fun s c hserves hawake => ?_, fun s c j => detachComplete_detaches c j,
    fun s mask => stkUcodeClear_clears mask, fun s st core slot p stp d e => passComplete_ends st core slot p stp d e,
    fun s st core => stackCoreFault_idle st core⟩
  · exact attach_attaches hserves hawake hbound hloose hidle
  · exact attach_mismatch hserves hawake hbound hloose hidle
  · exact attach_loads hserves hawake hbound hloose hidle
  · exact attach_faults hserves hawake hbound hloose hidle
  · exact attach_full hserves hawake hbound hloose hidle
  · exact ⟨attach_notBound hserves hawake, attach_busy hserves hawake⟩
  · exact ucodeLoadComplete_verifies hruns hfor hlease hnow ok
  · exact ucodeLoadComplete_withoutImage hruns hfor hlease hnow .whole ok ((readImage_whole _ _).trans hnone)
  · exact ucodeLoadComplete_withoutImage hruns hfor hlease hnow (.errorAt o) ok (readImage_errorAt _ _ _)
  · exact ⟨detach_notBound hserves hawake, detach_notAttached hserves hawake, detach_begins hserves hawake⟩

end Sys2Proof.Machine
end

section
/-! SUPPORT. Doorbells (O43): what each write of a tail or a head does (R254, R259, R602), the record of one that is ignored (R607), and a
doorbell that reaches the part in Charcoal (R581). -/

namespace Sys2Proof.Machine

open Sys2Proof

/-! ## Tenant queues of an awake part (R254, R602) -/

section
variable {s : State} (tn : Tenant) (v : Nat) (hready : isReady s = true) (hawake : isAwake s = true)
include hready hawake

theorem actDoorbell_awake (c : Instr) (effect : State → State) : actDoorbell s c effect = .next (finish s (effect s)) := by
  simp [actDoorbell, hready, hawake, act_taken]

theorem sqTail_effect : Effect (.sqTail tn v) s (writeSqTail s tn.val (v % 2 ^ 16)) := actDoorbell_awake hready hawake _ _

theorem cqHead_effect : Effect (.cqHead tn v) s (writeCqHead s tn.val (v % 2 ^ 16)) := actDoorbell_awake hready hawake _ _

theorem trHead_effect : Effect (.trHead tn v) s (writeTrHead s tn.val (v % 2 ^ 20)) := actDoorbell_awake hready hawake _ _

end

section
variable {s : State} {t : Nat} (v : Nat)

theorem writeSqTail_off (hoff : tenantOn s t = false) : writeSqTail s t v = s := by simp [writeSqTail, hoff]

theorem writeCqHead_off (hoff : tenantOn s t = false) : writeCqHead s t v = s := by simp [writeCqHead, hoff]

theorem writeTrHead_off (hoff : tenantOn s t = false) : writeTrHead s t v = s := by simp [writeTrHead, hoff]

theorem writeSqTail_within (hon : tenantOn s t = true) (h : v < sqSlots s t) :
    writeSqTail s t v = setQueues s t { queuesOf s t with sqTail := v } := by
  simp [writeSqTail, hon, h]

theorem writeSqTail_outside (hon : tenantOn s t = true) (h : sqSlots s t ≤ v) : writeSqTail s t v = doorbellFault s t 0 := by
  simp [writeSqTail, hon, h]

theorem writeCqHead_within (hon : tenantOn s t = true) (h : v < cqSlots s t)
    (hbefore : passesTail (cqSlots s t) (queuesOf s t).cqHead (queuesOf s t).cqTail v = false) :
    writeCqHead s t v = flushTenant (setQueues s t { queuesOf s t with cqHead := v }) t := by
  simp [writeCqHead, hon, h, hbefore]

theorem writeCqHead_outside (hon : tenantOn s t = true)
    (h : cqSlots s t ≤ v ∨ passesTail (cqSlots s t) (queuesOf s t).cqHead (queuesOf s t).cqTail v = true) :
    writeCqHead s t v = doorbellFault s t 1 := by
  rcases h with h | h <;> simp [writeCqHead, hon, h]

theorem writeTrHead_within (hon : tenantOn s t = true) (h : v < trSlots s t)
    (hbefore : passesTail (trSlots s t) (queuesOf s t).trHead (queuesOf s t).trTail v = false) :
    writeTrHead s t v = flushTenant (setQueues s t { queuesOf s t with trHead := v }) t := by
  simp [writeTrHead, hon, h, hbefore]

theorem writeTrHead_outside (hon : tenantOn s t = true)
    (h : trSlots s t ≤ v ∨ passesTail (trSlots s t) (queuesOf s t).trHead (queuesOf s t).trTail v = true) :
    writeTrHead s t v = doorbellFault s t 2 := by
  rcases h with h | h <;> simp [writeTrHead, hon, h]

end

/-! ## Charcoal (R580, R581) -/

theorem leaveCharcoal_pwr {s : State} (grey : Bool) (hcharcoal : s.pwr.state = .charcoal) :
    (leaveCharcoal s grey).pwr = { s.pwr with exitGrey := grey, state := .leaving } := by
  have hpwr : (sendPower s (if grey then 1 else 0)).pwr = s.pwr := (keep_sendPower s _).pwr.resolve_left (by decide)
  simp [leaveCharcoal, setPwrState, hpwr, hcharcoal]

/-- A command waits for the end of Charcoal. -/
def heldForWake (s : State) (c : Instr) : State := { s with pwr := { s.pwr with held := s.pwr.held ++ [c] } }

theorem exec_doorbell_charcoal {s : State} {c : Instr} {effect : State → State} (hexec : exec c s = actDoorbell s c effect)
    (hready : isReady s = true) (hcharcoal : s.pwr.state = .charcoal) (hsource : (getF s F.pwrWake.sources).testBit 0 = true) :
    exec c s = .next (leaveCharcoal (heldForWake s c) false) := by
  have hasleep : isAwake s = false := by simp [isAwake, hcharcoal]
  have hstate : (heldForWake s c).pwr.state = .charcoal := hcharcoal
  have hwake : wakeBy (heldForWake s c) 0 = wakePart (heldForWake s c) := if_pos hsource
  rw [hexec, actDoorbell, if_pos (by simp [hready, hasleep])]
  change Host.Outcome.next (wakeBy (heldForWake s c) 0) = _
  rw [hwake, wakePart, hstate]

/-- A doorbell in Charcoal waits, and where PWR_WAKE names it the exit begins. -/
theorem doorbell_wakes {s : State} {c : Instr} {effect : State → State} (hexec : exec c s = actDoorbell s c effect)
    (hready : isReady s = true) (hcharcoal : s.pwr.state = .charcoal) (hsource : (getF s F.pwrWake.sources).testBit 0 = true) :
    Completes c s (fun t => t.pwr.state = .leaving ∧ t.pwr.exitGrey = false ∧ t.pwr.held = s.pwr.held ++ [c] ∧ t.rqt = s.rqt ∧
      t.stk = s.stk ∧ t.mem = s.mem) := by
  have hpwr := leaveCharcoal_pwr (s := heldForWake s c) false hcharcoal
  have hkeep := keep_leaveCharcoal (heldForWake s c) false
  refine ⟨_, exec_doorbell_charcoal hexec hready hcharcoal hsource, ?_, ?_, ?_, hkeep.rqt.resolve_left (by decide),
    hkeep.stk.resolve_left (by decide), hkeep.mem.resolve_left (by decide)⟩ <;> rw [hpwr]
  rfl

/-! ## The object queues (R602) -/

theorem writeObjHead_within {s : State} {v : Nat} (h : v < objCqSlots s)
    (hbefore : passesTail (objCqSlots s) (getF s F.stkObjCqHead.head) s.stk.objCqTail v = false) :
    writeObjHead s v = flushObj s.stk.objOut.length (putF s F.stkObjCqHead.head v) := by
  simp [writeObjHead, h, hbefore]

theorem writeObjHead_outside {s : State} {v : Nat}
    (h : objCqSlots s ≤ v ∨ passesTail (objCqSlots s) (getF s F.stkObjCqHead.head) s.stk.objCqTail v = true) :
    writeObjHead s v = doorbellFault s 0 4 := by
  rcases h with h | h <;> simp [writeObjHead, h]

section
variable {s : State} (v : Nat) (hserves : serves s 4 = true)
include hserves

theorem stkObjSqTail_effect : Effect (.stkObjSqTail v) s (writeObjTail s (v % 2 ^ 16)) := by
  change execStkObjSqTail v s = _
  rw [execStkObjSqTail, hserves, act_taken]

theorem stkObjCqHead_effect : Effect (.stkObjCqHead v) s (writeObjHead s (v % 2 ^ 16)) := by
  change execStkObjCqHead v s = _
  rw [execStkObjCqHead, hserves, act_taken]

theorem stkObjSqTail_taken (h : v % 2 ^ 16 < objSqSlots s) : Completes (.stkObjSqTail v) s (fun t =>
    getF t F.stkObjSqTail.tail = v % 2 ^ 16 ∧ t.stk.sqTaken = true ∧ t.stk.odt = s.stk.odt) := by
  have heffect := stkObjSqTail_effect v hserves
  rw [writeObjTail, if_neg (by omega)] at heffect
  refine ⟨_, heffect, ?_, ?_, finish_odt _ _⟩
  · rw [finish_getF _ _ _ (by decide), getF_putF_self]
    exact Nat.mod_mod _ _
  · rw [(finished_finish _ _).stk]
    rfl

theorem stkObjSqTail_ignored (h : objSqSlots s ≤ v % 2 ^ 16) : Effect (.stkObjSqTail v) s (doorbellFault s 0 3) := by
  have heffect := stkObjSqTail_effect v hserves
  rwa [writeObjTail, if_pos h] at heffect

theorem stkObjCqHead_taken (h : v % 2 ^ 16 < objCqSlots s)
    (hbefore : passesTail (objCqSlots s) (getF s F.stkObjCqHead.head) s.stk.objCqTail (v % 2 ^ 16) = false) :
    Effect (.stkObjCqHead v) s (flushObj s.stk.objOut.length (putF s F.stkObjCqHead.head (v % 2 ^ 16))) := by
  have heffect := stkObjCqHead_effect v hserves
  rwa [writeObjHead_within h hbefore] at heffect

theorem stkObjCqHead_ignored (h : objCqSlots s ≤ v % 2 ^ 16 ∨
    passesTail (objCqSlots s) (getF s F.stkObjCqHead.head) s.stk.objCqTail (v % 2 ^ 16) = true) :
    Effect (.stkObjCqHead v) s (doorbellFault s 0 4) := by
  have heffect := stkObjCqHead_effect v hserves
  rwa [writeObjHead_outside h] at heffect

end

/-! ## The record of the first doorbell fault (R607) -/

/-- Signalling the vector that a register names leaves every register as it was. -/
theorem getF_notify (s : State) (enable vector f : Field) : getF (notify s enable vector) f = getF s f :=
  getF_of_fields ((keep_notify s enable vector).fields.resolve_left (by decide)) f

theorem doorbellFault_first {s : State} {n r : Nat} (hn : n < 4096) (hr : r < 8) (hopen : isSet s F.pltPcieDbFault.valid = false) :
    isSet (doorbellFault s n r) F.pltPcieDbFault.valid = true ∧ getF (doorbellFault s n r) F.pltPcieDbFault.tenant = n ∧
      getF (doorbellFault s n r) F.pltPcieDbFault.register = r := by
  have hrecord : doorbellFault s n r = notify (putF (putF (putF s F.pltPcieDbFault.tenant n) F.pltPcieDbFault.register r)
      F.pltPcieDbFault.valid 1) F.pltPcieCtl.notifyEnable F.pltPcieCtl.vector := by
    simp [doorbellFault, latch, hopen]
  simp only [hrecord, isSet, getF_notify]
  refine ⟨by rw [getF_putF_self]; rfl, ?_, ?_⟩
  · rw [getF_putF_other _ _ _ _ (by decide), getF_putF_other _ _ _ _ (by decide), getF_putF_self]
    exact Nat.mod_eq_of_lt hn
  · rw [getF_putF_other _ _ _ _ (by decide), getF_putF_self]
    exact Nat.mod_eq_of_lt hr

theorem doorbellFault_again {s : State} (n r : Nat) (hset : isSet s F.pltPcieDbFault.valid = true) :
    doorbellFault s n r = putF s F.pltPcieDbFault.overflow 1 := by
  simp [doorbellFault, latch, hset]

/-- Settles O43: a lemma for each doorbell and each way its value can stand to its queue. -/
theorem doorbellsRing : Obligations.DoorbellsRing := by
  unfold Obligations.DoorbellsRing
  refine ⟨fun s tn v hready hawake => ?_, fun s tn v hready hcharcoal hsource c hc => ?_, fun s v hserves =>
    ⟨stkObjSqTail_taken v hserves, stkObjSqTail_ignored v hserves, stkObjCqHead_taken v hserves, stkObjCqHead_ignored v hserves⟩,
    fun s n r hn hr => ⟨doorbellFault_first hn hr, doorbellFault_again n r⟩⟩
  · have hsq := sqTail_effect tn v hready hawake
    have hcq := cqHead_effect tn v hready hawake
    have htr := trHead_effect tn v hready hawake
    refine ⟨fun hoff => ⟨?_, ?_, ?_⟩,
      fun hon => ⟨fun h => ?_, fun h => ?_, fun h hbefore => ?_, fun h => ?_, fun h hbefore => ?_, fun h => ?_⟩⟩
    · rwa [writeSqTail_off _ hoff] at hsq
    · rwa [writeCqHead_off _ hoff] at hcq
    · rwa [writeTrHead_off _ hoff] at htr
    · rwa [writeSqTail_within _ hon h] at hsq
    · rwa [writeSqTail_outside _ hon h] at hsq
    · rwa [writeCqHead_within _ hon h hbefore] at hcq
    · rwa [writeCqHead_outside _ hon h] at hcq
    · rwa [writeTrHead_within _ hon h hbefore] at htr
    · rwa [writeTrHead_outside _ hon h] at htr
  · rcases hc with rfl | rfl | rfl <;> exact doorbell_wakes rfl hready hcharcoal hsource

end Sys2Proof.Machine
end

section
/-! SUPPORT. The request table under the operations that every command shares, saturating counters, and the pages whose records are found
inconsistent (R191). -/

namespace Sys2Proof.Machine

open Sys2Proof

/-! ## Entries (R225, R230) -/

theorem entryOf_of_rqt {s t : State} (h : t.rqt = s.rqt) (i : Nat) : entryOf t i = entryOf s i := by rw [entryOf, entryOf, h]

@[simp] theorem entryOf_setEntry_self (s : State) (i : Nat) (e : Entry) : entryOf (setEntry s i e) i = e := tabGet_put_self _ _ _ _

theorem entryOf_setEntry_other (s : State) {i j : Nat} (e : Entry) (h : j ≠ i) : entryOf (setEntry s i e) j = entryOf s j :=
  tabGet_put_other _ _ _ h

@[simp] theorem entryOf_modEntry_self (s : State) (i : Nat) (f : Entry → Entry) : entryOf (modEntry s i f) i = f (entryOf s i) :=
  entryOf_setEntry_self _ _ _

theorem entryOf_modEntry_other (s : State) {i j : Nat} (f : Entry → Entry) (h : j ≠ i) : entryOf (modEntry s i f) j = entryOf s j :=
  entryOf_setEntry_other _ _ h

theorem modEntry_manifests (s : State) (i : Nat) (f : Entry → Entry) : (modEntry s i f).rqt.manifests = s.rqt.manifests := rfl

/-- The end of a command leaves of an entry all but NOTICE_PENDING. -/
theorem finish_entry_eq {s0 u : State} {i : Nat} {e : Entry} (h : entryOf u i = e) :
    entryOf (finish s0 u) i = { e with noticePending := (entryOf (finish s0 u) i).noticePending } := by
  rw [← h]
  exact finish_entry s0 u i

theorem finish_entryState (s0 u : State) (i : Nat) : (entryOf (finish s0 u) i).state = (entryOf u i).state := by
  rw [finish_entry]

@[simp] theorem finish_drafts (s0 s : State) : (finish s0 s).rqt.drafts = s.rqt.drafts := by
  have h := (finished_finish s0 s).told.rqt
  rw [h]

/-! ## Counters that hold at their largest value -/

theorem getF_satF_self (s : State) (f : Field) :
    getF (satF s f) f = min (getF s f + 1) (max (getF s f) (2 ^ f.width - 1)) := by
  unfold satF
  split
  · next h => rw [getF_putF_self, Nat.mod_eq_of_lt h]; omega
  · omega

/-! ## Inconsistent records (R191) -/

/-- Where no record was found inconsistent, no request fails for it. -/
theorem failBroken_sound {s : State} (h : s.stk.broken = []) : failBroken s = s := by
  simp [failBroken, h]

end Sys2Proof.Machine
end

section
/-! SUPPORT. Units and steps (O51): which commands act (R396), what the charge of a unit leaves (R399), the end of a unit, preemption
points (R404, R405), and the commit of a step (R231, R261, R277). -/

namespace Sys2Proof.Machine

open Sys2Proof

/-! ## Steps and regions under the shared operations -/

theorem stepOf_of_steps {s t : State} (h : t.sch.steps = s.sch.steps) (k : Nat) : stepOf t k = stepOf s k := by
  rw [stepOf, stepOf, h]

theorem stepOf_of_sch {s t : State} (h : t.sch = s.sch) (k : Nat) : stepOf t k = stepOf s k := stepOf_of_steps (by rw [h]) k

theorem stepOf_setStep (s : State) (k j : Nat) (x : Option Step) : stepOf (setStep s k x) j = if j = k then x else stepOf s j :=
  tabGet_put _ _ _ _ _

@[simp] theorem stepOf_finish (s0 s : State) (k : Nat) : stepOf (finish s0 s) k = stepOf s k := stepOf_of_sch (finish_sch _ _) k

theorem stepOf_endThreads (s : State) (n k : Nat) : stepOf (endThreads s n) k = stepOf s k :=
  stepOf_of_sch ((keep_endThreads s n).sch.resolve_left (by decide)) k

theorem endThreads_mem (s : State) (n : Nat) : (endThreads s n).mem = s.mem := (keep_endThreads s n).mem.resolve_left (by decide)

theorem stepOf_setRunning (s : State) (n : Nat) (u : Option Unit) (k : Nat) : stepOf (setRunning s n u) k = stepOf s k := rfl

/-! ## The charge of a unit (R399) -/

/-- The requests of a step once the pages that they read are charged. -/
def chargedReqs (st : Step) : List StepReq := st.reqs.map (fun q => { q with pagesRead := 0 })

theorem chargeRequest_steps (c : Nat) (s : State) (q : StepReq × Nat) : (chargeRequest c s q).sch.steps = s.sch.steps := by
  unfold chargeRequest
  extract_lets e s1 key
  have h : s1.sch = s.sch := by
    unfold s1
    split <;> rfl
  split
  · change s1.sch.steps = _
    rw [h]
  · rw [h]

theorem chargeRequests_steps (c : Nat) (l : List (StepReq × Nat)) (s : State) :
    (l.foldl (chargeRequest c) s).sch.steps = s.sch.steps := by
  induction l generalizing s with
  | nil => rfl
  | cons q l ih => exact (ih _).trans (chargeRequest_steps c s q)

/-- The charge of a unit sets the page counts of its step back. -/
theorem stepOf_chargeUnit {s : State} {n : Nat} {u : Unit} {st : Step} (hu : runningUnit s n = some u) (hst : stepOf s u.step = some st)
    (k : Nat) : stepOf (chargeUnit s n) k = if k = u.step then some { st with reqs := chargedReqs st } else stepOf s k := by
  simp only [chargeUnit, hu, hst, stepOf_setStep, chargedReqs]
  split
  · rfl
  · exact stepOf_of_steps (chargeRequests_steps _ _ _) k

theorem chargeUnit_fab (s : State) (n : Nat) : (chargeUnit s n).fab = s.fab := (keep_chargeUnit s n).fab.resolve_left (by decide)

theorem chargeUnit_mem (s : State) (n : Nat) : (chargeUnit s n).mem = s.mem := (keep_chargeUnit s n).mem.resolve_left (by decide)

/-! ## UNIT_DISPATCH (R396) -/

theorem unitDispatch_dispatches {s : State} {r : RegionNo} {kernel : Nat} {w : Option LayerWork} {cs : List (Nat × List Byte)} {c : CompNo}
    {k : Kernel} {x : Composition} {d : ModelDescriptor} (hmay : mayRun s = true) (hserving : (regionOf s r.val).state = .serving)
    (hidle : runningUnit s r.val = none) (hbound : (regionOf s r.val).comp = some c) (hkernel : kernelOf s r.val kernel = some k)
    (hcomp : compOf s c.val = some x) (hdesc : descOf s c.val = some d) :
    Effect (.unitDispatch r kernel w cs) s (failBroken (dispatch s c.val r.val x d k w cs)) := by
  have htaken : (mayRun s && (regionOf s r.val).state == .serving && (runningUnit s r.val).isNone) = true := by
    simp [hmay, hserving, hidle]
  change execUnitDispatch r kernel w cs s = _
  rw [execUnitDispatch, actPages, htaken, act_taken]
  simp only [hbound, hkernel, hcomp, hdesc]

theorem unitDispatch_waits {s : State} {r : RegionNo} {kernel : Nat} {w : Option LayerWork} {cs : List (Nat × List Byte)}
    (h : mayRun s = false ∨ (regionOf s r.val).state ≠ .serving ∨ runningUnit s r.val ≠ none) :
    exec (.unitDispatch r kernel w cs) s = .next s := by
  have hnot : (mayRun s && (regionOf s r.val).state == .serving && (runningUnit s r.val).isNone) = false := by
    rcases h with h | h | h
    · simp [h]
    · simp [h]
    · simp [Option.isNone_eq_false_iff.2 (Option.isSome_iff_ne_none.2 h)]
  change execUnitDispatch r kernel w cs s = _
  rw [execUnitDispatch, actPages, hnot, act_notTaken]

/-! ## UNIT_COMPLETE (R209, R399, R404) -/

/-- The unit on region `n` has ended without an action of its own: it is charged, and what holds the region now is `x`. -/
def unitEnded (s : State) (n k : Nat) (x : Option Unit) : State := setRunning (endThreads (chargeUnit (dropPasses s k) n) n) n x

theorem unitEnded_mem (s : State) (n k : Nat) (x : Option Unit) : (unitEnded s n k x).mem = s.mem :=
  (endThreads_mem _ n).trans (chargeUnit_mem (dropPasses s k) n)

theorem setRunning_becomes (s : State) (n : Nat) (x : Option Unit) :
    RegionBecomes s (setRunning s n x) n { regionOf s n with running := x, idleSince := s.plt.lmc } :=
  regionBecomes_setRegion s n _

theorem unitEnded_region (s : State) (n k : Nat) (x : Option Unit) :
    RegionBecomes s (unitEnded s n k x) n { regionOf s n with threads := [], running := x, idleSince := s.plt.lmc } := by
  have hfab : (chargeUnit (dropPasses s k) n).fab = s.fab := chargeUnit_fab _ n
  have hplt : (endThreads (chargeUnit (dropPasses s k) n) n).plt = s.plt :=
    ((keep_endThreads _ n).plt.resolve_left (by decide)).trans ((keep_chargeUnit (dropPasses s k) n).plt.resolve_left (by decide))
  have hthreads := (endThreads_becomes (chargeUnit (dropPasses s k) n) n).of_same hfab
  rw [regionOf_of_fab hfab n] at hthreads
  have hrunning := setRunning_becomes (endThreads (chargeUnit (dropPasses s k) n) n) n x
  rw [hthreads.self, hplt] at hrunning
  exact hthreads.again hrunning

theorem stepOf_unitEnded {s : State} {n : Nat} {u : Unit} {st : Step} (hu : runningUnit s n = some u)
    (hst : stepOf s u.step = some st) (x : Option Unit) (k : Nat) :
    stepOf (unitEnded s n u.step x) k = if k = u.step then some { st with reqs := chargedReqs st } else stepOf s k := by
  rw [unitEnded, stepOf_setRunning, stepOf_endThreads]
  exact stepOf_chargeUnit (s := dropPasses s u.step) hu hst k

theorem endUnit_last {s : State} {n : Nat} {u : Unit} {st : Step} (hu : runningUnit s n = some u) (hst : stepOf s u.step = some st) :
    endUnit s n u [] true =
      setStep (unitEnded s n u.step none) u.step (some { st with complete := true, reqs := chargedReqs st }) := by
  have hstep : stepOf (unitEnded s n u.step none) u.step = some { st with reqs := chargedReqs st } := by
    rw [stepOf_unitEnded hu hst, if_pos rfl]
  change (match stepOf (unitEnded s n u.step none) u.step with
    | none => setRunning (unitEnded s n u.step none) n none
    | some st => setStep (unitEnded s n u.step none) u.step (some { st with complete := true })) = _
  rw [hstep]

/-- No part of the step was discarded, so none leaves it. -/
theorem purgeStep_valid {s : State} {k : Nat} {st : Step} (hst : stepOf s k = some st) (hvalid : ∀ q ∈ st.reqs, q.valid = true) :
    purgeStep s k = s := by
  have hnone : st.reqs.filter (fun q => !q.valid) = [] := by
    rw [List.filter_eq_nil_iff]
    intro q hq
    simp [hvalid q hq]
  rw [purgeStep, hst]
  simp only [hnone, List.foldl_nil]

theorem endUnit_more {s : State} {n : Nat} {u : Unit} {st : Step} (hu : runningUnit s n = some u) (hst : stepOf s u.step = some st)
    (hvalid : ∀ q ∈ st.reqs, q.valid = true) : endUnit s n u [] false = unitEnded s n u.step (some { u with ended := true }) := by
  have hstep : stepOf (unitEnded s n u.step (some { u with ended := true })) u.step = some { st with reqs := chargedReqs st } := by
    rw [stepOf_unitEnded hu hst, if_pos rfl]
  have hcharged : ∀ q ∈ chargedReqs st, q.valid = true := by
    intro q hq
    obtain ⟨p, hp, rfl⟩ := List.mem_map.1 hq
    exact hvalid p hp
  change (match stepOf (unitEnded s n u.step (some { u with ended := true })) u.step with
    | none => setRunning (unitEnded s n u.step (some { u with ended := true })) n none
    | some _ => purgeStep (unitEnded s n u.step (some { u with ended := true })) u.step) = _
  rw [hstep]
  exact purgeStep_valid hstep hcharged

section
variable {s : State} {r : RegionNo} (hruns : runs s = true)
include hruns

theorem unitComplete_idle (ops : List FabricOp) (last : Bool) (hidle : runningUnit s r.val = none) :
    Effect (.unitComplete r ops last) s s := by
  change execUnitComplete r ops last s = _
  rw [execUnitComplete, hruns, act_taken, hidle]

variable {u : Unit} (hu : runningUnit s r.val = some u)
include hu

theorem unitComplete_waits (ops : List FabricOp) (last : Bool) (hleft : passesLeft s u.step = true) :
    Effect (.unitComplete r ops last) s s := by
  change execUnitComplete r ops last s = _
  rw [execUnitComplete, hruns, act_taken]
  simp only [hu, hleft, if_true]

theorem unitComplete_ends (ops : List FabricOp) (last : Bool) (hdone : passesLeft s u.step = false) :
    Effect (.unitComplete r ops last) s (endUnit s r.val u ops last) := by
  change execUnitComplete r ops last s = _
  rw [execUnitComplete, hruns, act_taken]
  simp [hu, hdone]

variable {st : Step} (hdone : passesLeft s u.step = false) (hst : stepOf s u.step = some st)
include hdone hst

theorem unitComplete_completesStep : Completes (.unitComplete r [] true) s (fun t =>
    stepOf t u.step = some { st with complete := true, reqs := st.reqs.map (fun q => { q with pagesRead := 0 }) } ∧
    (regionOf t r.val).running = none ∧ (regionOf t r.val).threads = [] ∧ OthersStay s t r.val ∧ t.mem = s.mem ∧
    (∀ k, k ≠ u.step → stepOf t k = stepOf s k)) := by
  have heffect := unitComplete_ends hruns hu [] true hdone
  rw [endUnit_last hu hst] at heffect
  have hregion := unitEnded_region s r.val u.step none
  have hended := (hregion.then_same (setStep_fab _ u.step (some { st with complete := true, reqs := chargedReqs st }))).ended s
  refine ⟨_, heffect, ?_, ?_, ?_, hended.others, ?_, fun k hk => ?_⟩
  · rw [stepOf_finish, stepOf_setStep, if_pos rfl, chargedReqs]
  · exact congrArg Region.running hended.self
  · exact congrArg Region.threads hended.self
  · rw [finish_mem, setStep_mem, unitEnded_mem]
  · rw [stepOf_finish, stepOf_setStep, if_neg hk, stepOf_unitEnded hu hst, if_neg hk]

theorem unitComplete_holdsRegion (hvalid : ∀ q ∈ st.reqs, q.valid = true) : Completes (.unitComplete r [] false) s (fun t =>
    stepOf t u.step = some { st with reqs := st.reqs.map (fun q => { q with pagesRead := 0 }) } ∧
    (regionOf t r.val).running = some { u with ended := true } ∧ OthersStay s t r.val ∧ t.mem = s.mem) := by
  have heffect := unitComplete_ends hruns hu [] false hdone
  rw [endUnit_more hu hst hvalid] at heffect
  have hregion := unitEnded_region s r.val u.step (some { u with ended := true })
  have hended := hregion.ended s
  refine ⟨_, heffect, ?_, ?_, hended.others, ?_⟩
  · rw [stepOf_finish, stepOf_unitEnded hu hst, if_pos rfl, chargedReqs]
  · exact congrArg Region.running hended.self
  · rw [finish_mem, unitEnded_mem]

end

/-! ## PREEMPTION_POINT (R404, R405) -/

/-- The context that a preempted unit leaves. -/
def leftContext (s : State) (n : Nat) (u : Unit) (point : Nat) : Context :=
  { step := u.step, kernel := u.kernel, atExit := point == 0xFFFF, ranges := liveRanges s n u.kernel point }

theorem preemptionPoint_idle {s : State} {r : RegionNo} (point : Nat) (hmay : mayRun s = true) (hidle : runningUnit s r.val = none) :
    Effect (.preemptionPoint r point) s s := by
  change execPreemptionPoint r point s = _
  rw [execPreemptionPoint, hmay, act_taken, hidle]

theorem saveOf_of_fab {s t : State} (h : t.fab = s.fab) (n j : Nat) : saveOf t n j = saveOf s n j := by
  rw [saveOf, saveOf, regionOf_of_fab h]

theorem liveRanges_of_fab {s t : State} (h : t.fab = s.fab) (n kernel point : Nat) :
    liveRanges t n kernel point = liveRanges s n kernel point := by
  unfold liveRanges readIvory
  rw [regionOf_of_fab h]

theorem saveUnit_full {s : State} {n : Nat} (u : Unit) (point : Nat) (hfull : ∀ j < 4, saveOf s n j ≠ none) :
    saveUnit s n u point = none := by
  have hnone : firstFree 0 4 (fun j => (saveOf s n j).isNone) = none := by
    refine firstFree_none fun j _ hj => ?_
    exact Option.isNone_eq_false_iff.2 (Option.isSome_iff_ne_none.2 (hfull j (by omega)))
  simp only [saveUnit, chooseFree, hnone]

/-- The region once a unit's context stands in its save slot `j`. -/
def savedRegion (r : Region) (j : Nat) (c : Context) (now : Nat) : Region :=
  { r with saves := tabPut none r.saves j (some c), running := none, idleSince := now }

theorem saveUnit_free {s : State} {n : Nat} {u : Unit} {st : Step} (point : Nat) (hst : stepOf s u.step = some st)
    (hfree : ∃ j < 4, saveOf s n j = none) : ∃ j t, j < 4 ∧ saveOf s n j = none ∧ saveUnit s n u point = some t ∧
      RegionBecomes s t n (savedRegion (regionOf s n) j (leftContext s n u point) s.plt.lmc) ∧
      stepOf t u.step = some { st with save := some (n, j) } := by
  obtain ⟨j, hj, hnone⟩ := hfree
  obtain ⟨i, hi, -, hlt, hp⟩ := chooseFree_some (s := s) (lo := 0) (n := 4) (p := fun j => (saveOf s n j).isNone)
    ⟨j, by omega, by omega, by simp [hnone]⟩
  refine ⟨i, setStep (setRunning (setSave (chosen s) n i (some (leftContext s n u point))) n none) u.step
    (some { st with save := some (n, i) }), by omega, Option.isNone_iff_eq_none.1 hp, ?_, ?_, ?_⟩
  · simp only [saveUnit, hi, hst, leftContext]
  · have hsave : RegionBecomes s (setSave (chosen s) n i (some (leftContext s n u point))) n
        { regionOf s n with saves := tabPut none (regionOf s n).saves i (some (leftContext s n u point)) } :=
      ⟨tabGet_put_self _ _ _ _, fun _ h => tabGet_put_other _ _ _ h⟩
    have hrun := setRunning_becomes (setSave (chosen s) n i (some (leftContext s n u point))) n none
    rw [hsave.self] at hrun
    exact (hsave.again hrun).then_same (setStep_fab _ _ _)
  · rw [stepOf_setStep, if_pos rfl]

section
variable {s : State} {r : RegionNo} {u : Unit} {st : Step} {k : Kernel} (point : Nat) (hmay : mayRun s = true)
  (hu : runningUnit s r.val = some u) (hst : stepOf s u.step = some st) (hk : kernelOf s r.val u.kernel = some k)
include hmay hu hst hk

theorem preemptionPoint_exec : Effect (.preemptionPoint r point) s
    (if k.unit != 1 && k.preemptible && (sliceOver s st.comp u || higherWaits s st.comp st) then preemptUnit s r.val u point else s) := by
  change execPreemptionPoint r point s = _
  rw [execPreemptionPoint, hmay, act_taken]
  simp only [hu, hst, hk]

theorem preemptionPoint_runsOn (h : (k.unit != 1 && k.preemptible && (sliceOver s st.comp u || higherWaits s st.comp st)) = false) :
    Effect (.preemptionPoint r point) s s := by
  have heffect := preemptionPoint_exec point hmay hu hst hk
  rwa [h, if_neg Bool.false_ne_true] at heffect

variable (h : (k.unit != 1 && k.preemptible && (sliceOver s st.comp u || higherWaits s st.comp st)) = true)
include h

theorem preemptionPoint_preempts : Effect (.preemptionPoint r point) s (preemptUnit s r.val u point) := by
  have heffect := preemptionPoint_exec point hmay hu hst hk
  rwa [h, if_pos rfl] at heffect

theorem preemptionPoint_saves (hfree : ∃ j < 4, saveOf s r.val j = none) : Completes (.preemptionPoint r point) s (fun t =>
    (regionOf t r.val).running = none ∧ (regionOf t r.val).threads = [] ∧ OthersStay s t r.val ∧
    ∃ j < 4, saveOf s r.val j = none ∧ saveOf t r.val j = some
      { step := u.step, kernel := u.kernel, atExit := point == 0xFFFF, ranges := liveRanges s r.val u.kernel point } ∧
      (∃ x, stepOf t u.step = some x ∧ x.save = some (r.val, j))) := by
  have hfab : (chargeUnit s r.val).fab = s.fab := chargeUnit_fab s r.val
  have hcharged : stepOf (chargeUnit s r.val) u.step = some { st with reqs := chargedReqs st } := by
    rw [stepOf_chargeUnit hu hst, if_pos rfl]
  obtain ⟨j, t, hj, hnone, hsaved, hregion, hstep⟩ := saveUnit_free (n := r.val) point hcharged
    (by simpa only [saveOf_of_fab hfab] using hfree)
  have heffect := preemptionPoint_preempts point hmay hu hst hk h
  rw [preemptUnit, hsaved] at heffect
  have hthreads := endThreads_becomes t r.val
  rw [hregion.self] at hthreads
  have hended := ((hregion.again hthreads).of_same hfab).ended s
  refine ⟨_, heffect, congrArg Region.running hended.self, congrArg Region.threads hended.self, hended.others, j, hj, ?_, ?_, ?_⟩
  · rwa [saveOf_of_fab hfab] at hnone
  · rw [saveOf, hended.self, regionOf_of_fab hfab, ← liveRanges_of_fab hfab]
    exact tabGet_put_self none (regionOf s r.val).saves j (some (leftContext (chargeUnit s r.val) r.val u point))
  · exact ⟨_, by rw [stepOf_finish, stepOf_endThreads, hstep], rfl⟩

theorem preemptionPoint_noSlot (hfull : ∀ j < 4, saveOf s r.val j ≠ none) : Completes (.preemptionPoint r point) s (fun t =>
    regionOf t r.val = regionOf s r.val ∧
    getF t F.schStats.noSlot = min (getF s F.schStats.noSlot + 1) (max (getF s F.schStats.noSlot) (2 ^ F.schStats.noSlot.width - 1))) := by
  have heffect := preemptionPoint_preempts point hmay hu hst hk h
  have hnone : saveUnit (chargeUnit s r.val) r.val u point = none :=
    saveUnit_full u point fun j hj => by
      rw [saveOf_of_fab (chargeUnit_fab s r.val)]
      exact hfull j hj
  rw [preemptUnit, hnone] at heffect
  refine ⟨_, heffect, ?_, ?_⟩
  · rw [regionOf_finish]
    exact regionOf_of_fab ((keep_satF s _).fab.resolve_left (by decide)) _
  · rw [finish_getF _ _ _ (by decide)]
    exact getF_satF_self s _

end

/-! ## STEP_COMMIT (R231, R261, R277) -/

theorem leaveStep_rqt (s : State) (k i : Nat) : (leaveStep s k i).rqt = s.rqt := (keep_leaveStep s k i).rqt.resolve_left (by decide)

section
variable {s : State} {i : Nat} (logits : List (List (BitVec 32))) (draft : List CandNode) (hruns : runs s = true)
  (hbroken : s.stk.broken = [])
include hruns hbroken

theorem stepCommit_noStep (hnone : stepFor s i = none) : Effect (.stepCommit i logits draft) s s := by
  change execStepCommit i logits s draft = _
  rw [execStepCommit, actPages, hruns, act_taken, hnone]
  simp only [failBroken_sound hbroken]

variable {k : Nat} {st : Step} {q : StepReq} (hk : stepFor s i = some k) (hst : stepOf s k = some st) (hq : partOf st i = some q)
include hk hst hq

omit hbroken in
theorem stepCommit_exec : Effect (.stepCommit i logits draft) s (failBroken (commitPart s k i st q logits draft)) := by
  change execStepCommit i logits s draft = _
  rw [execStepCommit, actPages, hruns, act_taken]
  simp only [hk, hst, hq]

theorem stepCommit_runsOn (hcomplete : st.complete = false) : Effect (.stepCommit i logits draft) s s := by
  have heffect := stepCommit_exec logits draft hruns hk hst hq
  have hpart : commitPart s k i st q logits draft = s := by simp [commitPart, hcomplete]
  rwa [hpart, failBroken_sound hbroken] at heffect

variable (hcomplete : st.complete = true)
include hcomplete

/-- What a discarded part leaves of the request's entry (R231). -/
def discardedEntry (e : Entry) : Entry := { e with steps := (e.steps + 1) % 2 ^ 32, arbSeq := (e.arbSeq + 1) % 2 ^ 32 }

omit hruns hbroken hk hst hq hcomplete in
theorem discardPart_counted (hlive : (entryOf s q.index).state ≠ .free) (hid : (entryOf s q.index).requestId = q.requestId) :
    discardPart (countDiscard s q) k q =
      modEntry (leaveStep (arbitrate s q.index) k q.index) q.index (fun e => { e with steps := (e.steps + 1) % 2 ^ 32 }) ∧
    entryOf (leaveStep (arbitrate s q.index) k q.index) q.index =
      { entryOf s q.index with arbSeq := ((entryOf s q.index).arbSeq + 1) % 2 ^ 32 } := by
  have hcount : countDiscard s q = arbitrate s q.index := by simp [countDiscard, hlive, hid]
  have hentry : entryOf (leaveStep (arbitrate s q.index) k q.index) q.index =
      { entryOf s q.index with arbSeq := ((entryOf s q.index).arbSeq + 1) % 2 ^ 32 } := by
    rw [entryOf_of_rqt (leaveStep_rqt _ _ _), arbitrate, entryOf_modEntry_self]
  refine ⟨?_, hentry⟩
  rw [discardPart, hcount]
  simp [hentry, hlive, hid]

theorem stepCommit_discards (hvalid : q.valid = false) (hlive : (entryOf s q.index).state ≠ .free)
    (hid : (entryOf s q.index).requestId = q.requestId) : Completes (.stepCommit i logits draft) s (fun t =>
      (entryOf t q.index).steps = ((entryOf s q.index).steps + 1) % 2 ^ 32 ∧
      (entryOf t q.index).arbSeq = ((entryOf s q.index).arbSeq + 1) % 2 ^ 32 ∧ entryOf t q.index =
        { entryOf s q.index with
          steps := (entryOf t q.index).steps, arbSeq := (entryOf t q.index).arbSeq, noticePending := (entryOf t q.index).noticePending } ∧
      t.rqt.manifests = s.rqt.manifests ∧ t.mem = s.mem) := by
  have heffect := stepCommit_exec logits draft hruns hk hst hq
  have hpart : commitPart s k i st q logits draft = discardPart (countDiscard s q) k q := by simp [commitPart, hcomplete, hvalid]
  have hstk : (discardPart (countDiscard s q) k q).stk = s.stk :=
    ((keep_discardPart _ _ _).stk.resolve_left (by decide)).trans ((keep_countDiscard s q).stk.resolve_left (by decide))
  have hmem : (discardPart (countDiscard s q) k q).mem = s.mem :=
    ((keep_discardPart _ _ _).mem.resolve_left (by decide)).trans ((keep_countDiscard s q).mem.resolve_left (by decide))
  rw [hpart, failBroken_sound (by rw [hstk, hbroken])] at heffect
  obtain ⟨hcounted, hleft⟩ := discardPart_counted (k := k) hlive hid
  have hentry : entryOf (discardPart (countDiscard s q) k q) q.index = discardedEntry (entryOf s q.index) := by
    rw [hcounted, entryOf_modEntry_self, hleft, discardedEntry]
  have hfinished := finish_entry_eq (s0 := s) hentry
  have hmanifests : (discardPart (countDiscard s q) k q).rqt.manifests = s.rqt.manifests := by
    rw [hcounted]
    rw [modEntry_manifests, leaveStep_rqt]
    rfl
  refine ⟨_, heffect, ?_, ?_, ?_, ?_, ?_⟩
  · rw [hfinished, discardedEntry]
  · rw [hfinished, discardedEntry]
  · rw [hfinished, discardedEntry]
  · rw [finish_manifests, hmanifests]
  · rw [finish_mem, hmem]

variable (hvalid : q.valid = true) {d : ModelDescriptor} (hd : descOf s st.comp = some d)
include hvalid hd

theorem stepCommit_waits (hmay : mayCommit s i (commitSize s i q logits) = false) : Effect (.stepCommit i logits draft) s s := by
  have heffect := stepCommit_exec logits draft hruns hk hst hq
  have hpart : commitPart s k i st q logits draft = s := by simp [commitPart, hcomplete, hvalid, hd, hmay]
  rwa [hpart, failBroken_sound hbroken] at heffect

omit hbroken in
theorem stepCommit_commits (hmay : mayCommit s i (commitSize s i q logits) = true) :
    Effect (.stepCommit i logits draft) s (failBroken (commitStep s d k i q logits draft)) := by
  have heffect := stepCommit_exec logits draft hruns hk hst hq
  have hpart : commitPart s k i st q logits draft = commitStep s d k i q logits draft := by
    simp [commitPart, hcomplete, hvalid, hd, hmay]
  rwa [hpart] at heffect

end

/-! ## A redraw (R277) -/

/-- The request once its step has left it and its draft head's tree is kept. -/
def redrawn (s : State) (k i : Nat) (draft : List CandNode) : State := keepTree (countStep (leaveStep s k i) i) i draft

theorem entryOf_redrawn (s : State) (k i : Nat) (draft : List CandNode) :
    entryOf (redrawn s k i draft) i = discardedEntry (entryOf s i) := by
  have hleft : entryOf (leaveStep s k i) i = entryOf s i := entryOf_of_rqt (leaveStep_rqt s k i) i
  change entryOf (countStep (leaveStep s k i) i) i = _
  rw [countStep, arbitrate, entryOf_modEntry_self, entryOf_modEntry_self, hleft, discardedEntry]

theorem rootDraw_redrawn (s : State) (k i : Nat) (draft : List CandNode) (logits : List (BitVec 32)) :
    rootDraw (redrawn s k i draft) i logits = rootDraw s i logits := by
  have hfresh : (redrawn s k i draft).fresh = s.fresh := (keep_leaveStep s k i).fresh.resolve_left (by decide)
  have hdraw : drawOf (redrawn s k i draft) i = drawOf s i := by rw [drawOf, drawOf, entryOf_redrawn, hfresh, discardedEntry]
  have hdist (l : List (BitVec 32)) (x : Draw) : distOf (discardedEntry (entryOf s i)) l x = distOf (entryOf s i) l x := rfl
  rw [rootDraw, rootDraw, entryOf_redrawn, hdraw, hdist]
  rfl

/-- The request with its new root: no position is added. -/
def rooted (s : State) (i : Nat) (r : Nat × BitVec 32 × Draw) : State :=
  modEntry (keepDraw s i r.2.2) i (fun e => { e with
    draft := { e.draft with rootToken := r.1, rootLogprob := r.2.1, rootValid := true, redraw := false } })

theorem entryOf_rooted (s : State) (i : Nat) (r : Nat × BitVec 32 × Draw) : entryOf (rooted s i r) i =
    { entryOf s i with
      rngState := r.2.2.rng
      draft := { (entryOf s i).draft with rootToken := r.1, rootLogprob := r.2.1, rootValid := true, redraw := false } } := by
  rw [rooted, entryOf_modEntry_self, keepDraw, entryOf_modEntry_self]
  rfl

theorem takeRoot_goesOn {s : State} (d : ModelDescriptor) {i : Nat} {r : Nat × BitVec 32 × Draw}
    (hgoes : (entryOf s i).stopTokens.contains r.1 = false) : takeRoot s d i r = rooted s i r := by
  have hstop : (entryOf (rooted s i r) i).stopTokens.contains r.1 = false := by rw [entryOf_rooted]; exact hgoes
  change (if (entryOf (rooted s i r) i).stopTokens.contains r.1 then _ else rooted s i r) = _
  rw [hstop, if_neg Bool.false_ne_true]

theorem keep_rooted (s : State) (i : Nat) (r : Nat × BitVec 32 × Draw) : Keep 2050 s (rooted s i r) :=
  (keep_keepDraw s i r.2.2).trans ((keep_modEntry _ i _).mono (by decide))

theorem keep_redrawn (s : State) (k i : Nat) (draft : List CandNode) : Keep 3840 s (redrawn s k i draft) :=
  ((keep_leaveStep s k i).mono (by decide)).trans
    (((keep_countStep _ i).trans (keep_keepTree _ i draft)).mono (by decide))

theorem rooted_tables (s : State) (i : Nat) (r : Nat × BitVec 32 × Draw) :
    (rooted s i r).rqt.manifests = s.rqt.manifests ∧ (rooted s i r).rqt.drafts = s.rqt.drafts := ⟨rfl, rfl⟩

theorem counted_tables (s : State) (i : Nat) (draft : List CandNode) :
    (keepTree (countStep s i) i draft).rqt.manifests = s.rqt.manifests ∧
    tabGet [] (keepTree (countStep s i) i draft).rqt.drafts i = draft := ⟨rfl, tabGet_put_self _ _ _ _⟩

theorem commitStep_redraws {s : State} (d : ModelDescriptor) (k : Nat) {i : Nat} {q : StepReq} (logits : List (List (BitVec 32)))
    (draft : List CandNode) (hkind : q.kind = .redraw)
    (hgoes : (entryOf s i).stopTokens.contains (rootDraw s i ((logits[0]?).getD [])).1 = false) :
    commitStep s d k i q logits draft = rooted (redrawn s k i draft) i (rootDraw s i ((logits[0]?).getD [])) := by
  have htake : commitStep s d k i q logits draft =
      takeRoot (redrawn s k i draft) d i (rootDraw (redrawn s k i draft) i ((logits[0]?).getD [])) := by
    simp only [commitStep, hkind, redrawn]
    rfl
  rw [htake, rootDraw_redrawn]
  refine takeRoot_goesOn d ?_
  rw [entryOf_redrawn]
  exact hgoes

theorem stepCommit_redraws {s : State} {i k : Nat} {q : StepReq} (logits : List (List (BitVec 32))) (draft : List CandNode)
    (d : ModelDescriptor) (hkind : q.kind = .redraw) (hbroken : s.stk.broken = [])
    (heffect : Effect (.stepCommit i logits draft) s (failBroken (commitStep s d k i q logits draft)))
    (hgoes : (entryOf s i).stopTokens.contains (rootDraw s i ((logits[0]?).getD [])).1 = false) :
    Completes (.stepCommit i logits draft) s (fun t =>
      entryOf t i = { withRoot (entryOf s i) (rootDraw s i ((logits[0]?).getD [])) with noticePending := (entryOf t i).noticePending } ∧
      tabGet [] t.rqt.drafts i = draft ∧ t.rqt.manifests = s.rqt.manifests ∧ t.mem = s.mem) := by
  rw [commitStep_redraws d k logits draft hkind hgoes] at heffect
  have hkeep := ((keep_redrawn s k i draft).mono (w := 3842) (by decide)).trans
    ((keep_rooted (redrawn s k i draft) i (rootDraw s i ((logits[0]?).getD []))).mono (by decide))
  obtain ⟨hmanifests, hdrafts⟩ := rooted_tables (redrawn s k i draft) i (rootDraw s i ((logits[0]?).getD []))
  obtain ⟨hcounted, htree⟩ := counted_tables (leaveStep s k i) i draft
  rw [failBroken_sound (by rw [hkeep.stk.resolve_left (by decide), hbroken])] at heffect
  refine ⟨_, heffect, ?_, ?_, ?_, ?_⟩
  · refine finish_entry_eq ?_
    rw [entryOf_rooted, entryOf_redrawn]
    rfl
  · rw [finish_drafts, hdrafts]
    exact htree
  · rw [finish_manifests, hmanifests, ← leaveStep_rqt s k i]
    exact hcounted
  · rw [finish_mem, hkeep.mem.resolve_left (by decide)]

/-- Settles O51: every command ends in the effect that its own lemma above states; a discarded part and a redraw leave no record
inconsistent, so no request fails with them (R191). -/
theorem stepsRunAndCommit : Obligations.StepsRunAndCommit := by
  unfold Obligations.StepsRunAndCommit
  refine ⟨fun s r kernel w cs => ⟨fun c k x d => ?_, unitDispatch_waits⟩,
    fun s r ops last u hruns hu => ⟨?_, fun st hdone hst => ⟨?_, ?_⟩⟩,
    fun s r ops last point hruns hidle => ⟨unitComplete_idle hruns ops last hidle, fun hrole => preemptionPoint_idle point ?_ hidle⟩,
    fun s r point u st k hmay hu hst hk => ⟨fun h => ?_, fun hslice hhigher => ?_, fun hunit hpre hwaits => ⟨?_, ?_⟩⟩,
    fun s i lg dr hruns hbroken => stepCommit_noStep lg dr hruns hbroken,
    fun s i lg dr k st q hruns hbroken hk hst hq => ⟨stepCommit_runsOn lg dr hruns hbroken hk hst hq,
      stepCommit_discards lg dr hruns hbroken hk hst hq, fun d hcomplete hvalid hd => ⟨?_, ?_, fun hmay hkind => ?_⟩⟩⟩
  · exact unitDispatch_dispatches
  · exact unitComplete_waits hruns hu ops last
  · exact unitComplete_completesStep hruns hu hdone hst
  · exact unitComplete_holdsRegion hruns hu hdone hst
  · simp [mayRun, hruns, hrole]
  · refine preemptionPoint_runsOn point hmay hu hst hk ?_
    rcases h with h | h <;> simp [h]
  · exact preemptionPoint_runsOn point hmay hu hst hk (by simp [hslice, hhigher])
  · exact preemptionPoint_saves point hmay hu hst hk (by simp [hunit, hpre, hwaits])
  · exact preemptionPoint_noSlot point hmay hu hst hk (by simp [hunit, hpre, hwaits])
  · exact stepCommit_waits lg dr hruns hbroken hk hst hq hcomplete hvalid hd
  · exact stepCommit_commits lg dr hruns hk hst hq hcomplete hvalid hd
  · exact stepCommit_redraws lg dr d hkind hbroken (stepCommit_commits lg dr hruns hk hst hq hcomplete hvalid hd hmay)

end Sys2Proof.Machine
end

section
/-! SUPPORT. A part that a tenant's commands reach: the state from which the counterexamples of O32 and O33 are built. -/

namespace Sys2Proof.Machine

open Sys2Proof

/-- READY behind an open link: tenant 5 is enabled, with one command to read and room for completions (R233). -/
def serving : State :=
  let ready : State :=
    { State.reset with
      plt := { State.reset.plt with state := .ready, starting := none }
      pcie := { State.reset.pcie with busMaster := true } }
  let sized := putF (putF ready (F.rqtTQsize.sqLog2.at 5) 6) (F.rqtTQsize.cqLog2.at 5) 6
  setQueues (putF (putF sized (F.rqtTCtl.enable.at 5) 1) F.pltPcieLink.dlUp 1) 5 { sqTail := 1 }

/-- REQUEST_ID of tenant 5's request 7 (R225). -/
def servedId : Nat := 5 * 2 ^ 52 + 7

/-- The 64 bytes of a command of tenant 5 on its request: opcode at 0, REQUEST_ID at 8, COUNT at 32, all others zero (R236). -/
def commandOn (opcode count : Nat) : HostCommand :=
  { bytes := leBytes 8 opcode ++ leBytes 8 servedId ++ List.replicate 16 0 ++ leBytes 4 count ++ List.replicate 28 0 }

end Sys2Proof.Machine
end

section
/-! SUPPORT. The counterexample to O33: RELEASE of a request in DONE whose recompute runs. -/

namespace Sys2Proof.Machine

open Sys2Proof

/-- Entry 7 stands in DONE while its dropped blocks are recomputed, after which it is DONE again: commands that come meanwhile wait at its
arbiter (R358, log entry 78). -/
def recomputingDone : State :=
  { serving with
    rqt := { serving.rqt with
      entries := [(7, { state := .done, requestId := servedId, tenant := 5 })]
      inputs := [(7, some { tokens := [], forced := false, after := .done })] } }

theorem recomputingDone_meets : Meets recomputingDone 5 8 (commandOn 8 0) 7 := by
  unfold Meets RefsSound
  decide +kernel

/-- The RELEASE is held and the entry stays DONE. -/
theorem recomputingDone_holds :
    (entryOf (failBroken (serveCommand recomputingDone (5 : Tenant).val 8 (commandOn 8 0) (some []))) 7).state = .done := by
  decide +kernel

theorem release_exec {s : State} {tn : Tenant} (c : HostCommand) (hread : canRead s tn.val = true) :
    Effect (.release tn c) s (failBroken (serveCommand s tn.val 8 c (some []))) := by
  change execRelease tn c s = _
  rw [execRelease, actPages, hread, act_taken]

/-- Refutes O33 at its clause of RELEASE: while a request in DONE is recomputed for a PARK, the RELEASE waits at its arbiter, and the command
completes with the entry still in DONE (R358, log entry 78). That no command is held, which the clause asks for, does not say that no such
recompute runs: the premise that is missing is `parkWaits s i = false`. -/
theorem not_cancelParkResumeQueryRelease : ¬ Obligations.CancelParkResumeQueryRelease := by
  unfold Obligations.CancelParkResumeQueryRelease
  rintro ⟨-, -, -, -, -, hrelease, -⟩
  obtain ⟨hread, -⟩ := recomputingDone_meets
  obtain ⟨t, hexec, -, hfree⟩ := hrelease recomputingDone 5 (commandOn 8 0) 7 recomputingDone_meets (by decide +kernel)
  have heffect := release_exec (tn := 5) (commandOn 8 0) hread
  rw [heffect] at hexec
  cases hexec
  rw [finish_entryState, recomputingDone_holds] at hfree
  cases hfree

end Sys2Proof.Machine
end

section
/-! SUPPORT. The counterexample to O32: a free slot with another page's record inside. -/

namespace Sys2Proof.Machine

open Sys2Proof

/-- Two layers of 16 heads of 34 bytes: a page has 17 granules (R163, R164). -/
def twoLayers : ModelDescriptor :=
  { layers := 2, kvHeads := 16, headDim := 64, kvFormat := 0, draft := 0, treeNodes := 0, treeDepth := 0, vocab := 32, maxContext := 4096,
    audioRanges := [] }

/-- A KV area of one slot, granules 34 to 50, on stack 0 and on stack 1. -/
def oneSlot : Composition :=
  { role := .generation, stackMask := 3, kvOffset := 34, kvGranules := 17, slateGib := 0, umberGib := 0, fixed := some (0, 0, twoLayers),
    pointer := 0, unbinding := false }

/-- Stack 1's granule 35, which lies in stack 1's one slot. -/
def insideSlot : Nat := 2 ^ 24 + 35

/-- Entry 7 decodes at LENGTH 10, with a shared SEALED page at granule 100 in layer 0 and a SEALED page inside stack 1's slot in layer 1. Both
slots are free, and the request places its layer 0 on stack 1 (R166). -/
def overlapped : State :=
  { serving with
    sch := { serving.sch with comps := [(0, some oneSlot)] }
    rqt := { serving.rqt with
      entries := [(7, { state := .decode, requestId := servedId, tenant := 5, length := 10, inputEnd := 10 })]
      manifests := [(7,
        { units := [(0, 1), (8, 2)], pages := [(0, { valid := true, page := 100 }), (16384, { valid := true, page := insideSlot })] })] }
    stk := { serving.stk with
      pages := [(100, { state := .sealed_, fill := 64, refs := 2 }), (insideSlot, { state := .sealed_, fill := 64, refs := 1 })] } }

theorem overlapped_meets : Meets overlapped 5 3 (commandOn 3 1) 7 := by
  unfold Meets RefsSound
  decide +kernel

/-- Layer 0's copy takes stack 1's slot and with it layer 1's page, whose record layer 1 then finds inconsistent: the request fails. -/
theorem overlapped_fails :
    (entryOf (failBroken (serveCommand overlapped (5 : Tenant).val 3 (commandOn 3 1) (some []))) 7).state = .failed := by
  decide +kernel

theorem truncate_exec {s : State} {tn : Tenant} (c : HostCommand) (hread : canRead s tn.val = true) :
    Effect (.truncate tn c) s (failBroken (serveCommand s tn.val 3 c (some []))) := by
  change execTruncate tn c s = _
  rw [execTruncate, actPages, hread, act_taken]

/-- Refutes O32 at its clause of TRUNCATE below LENGTH: the premises look at the records of the request's own pages alone. Where a free slot
holds the record of one of them among its granules, the copy of a page in one layer overwrites the record of a page in the next, and the
request ends in FAILED (R184, R191). The premise that is missing is R168's: the granules of a free slot have no page records of their own. -/
theorem not_appendAndTruncate : ¬ Obligations.AppendAndTruncate := by
  unfold Obligations.AppendAndTruncate
  rintro ⟨-, htruncate, -⟩
  obtain ⟨hread, -⟩ := overlapped_meets
  obtain ⟨t, hexec, -, hdecode, -⟩ :=
    htruncate overlapped 5 (commandOn 3 1) 7 overlapped_meets (by decide +kernel) (by decide +kernel)
  have heffect := truncate_exec (tn := 5) (commandOn 3 1) hread
  rw [heffect] at hexec
  cases hexec
  rw [finish_entryState, overlapped_fails] at hdecode
  cases hdecode

end Sys2Proof.Machine
end

section
/-! SUPPORT. Prefix walks without a hit, deadlines and coalescing (O34). -/

namespace Sys2Proof.Machine

open Sys2Proof

/-! ## WALK_DONE without a hit (R247, R288, R299) -/

theorem openSlot_domain0 (s : State) (tenant : Nat) : openSlot s 0 tenant = none := rfl

/-- A request without a sharing domain matches nothing, and its walk changes nothing. -/
theorem walkEntry_domain0 {s : State} {i : Nat} (tokens : List Nat) (hdomain : (entryOf s i).sharingDomain = 0) :
    walkEntry s i tokens = ({ matched := 0, hits := 0, waits := false }, s) := by
  simp only [walkEntry, hdomain, openSlot_domain0]

theorem needDirectory_held {s : State} {i : Nat} (h : (manifestOf s i).directory ≠ 0) : needDirectory s i = (true, s) := by
  simp [needDirectory, h]

/-- An empty history needs its directory alone. -/
theorem needHistory_empty {s : State} {i : Nat} (h : (manifestOf s i).historyDir ≠ 0) : needHistory s i 0 = (true, s) := by
  simp [needHistory, h, ceilDiv]

theorem takeMatched_entry {s : State} {i : Nat} {x : PendingInput} (m : Nat) (hinput : inputOf s i = some x)
    (hlength : (entryOf s i).length = 0) : entryOf (takeMatched s i m) i =
      { entryOf s i with length := min m (x.tokens.length - 1), matched := min m (x.tokens.length - 1) } := by
  simp only [takeMatched, hinput, hlength, entryOf_modEntry_self, Nat.sub_zero, Nat.zero_add]
  rfl

theorem admissionOf_setAdmission_self (s : State) (i : Nat) (a : Option Admission) : admissionOf (setAdmission s i a) i = a :=
  tabGet_put_self _ _ _ _

/-- An admission whose ledger the home has not opened stays (R325). -/
theorem endAdmission_unopened {s : State} {i : Nat} {a : Admission} (hadmission : admissionOf s i = some a) (hopened : a.opened = false) :
    endAdmission s i = s := by
  simp [endAdmission, hadmission, hopened]

theorem wantsQuery_domain0 {s : State} {i : Nat} (hits blocks : Nat) (hdomain : (entryOf s i).sharingDomain = 0) :
    wantsQuery s i hits blocks = false := by
  simp [wantsQuery, hdomain, openSlot_domain0]

/-- The admission of entry `i` once its walk has matched nothing. -/
def unmatched (s : State) (i : Nat) (a : Admission) : State := setAdmission (takeMatched s i 0) i (some { a with walkDone := true })

section
variable {s : State} {i : Nat} {a : Admission} {x : PendingInput} (hopened : a.opened = false)
  (hdomain : (entryOf s i).sharingDomain = 0) (hdirectory : (manifestOf s i).directory ≠ 0) (hhistory : (manifestOf s i).historyDir ≠ 0)
  (hinput : inputOf s i = some x) (hlength : (entryOf s i).length = 0)
include hinput hlength

theorem unmatched_entry : entryOf (unmatched s i a) i = { entryOf s i with length := 0, matched := 0 } := by
  have h := takeMatched_entry 0 hinput hlength
  rwa [Nat.zero_min] at h

include hopened hdomain hdirectory hhistory

theorem walkEnds_unmatched (hlease : canLease s = true) : walkEnds s i a = unmatched s i a := by
  have htaken : (entryOf (takeMatched s i 0) i).sharingDomain = 0 := by rw [takeMatched_entry 0 hinput hlength, hdomain]
  have hends : endAdmission (unmatched s i a) i = unmatched s i a :=
    endAdmission_unopened (a := { a with walkDone := true }) (admissionOf_setAdmission_self _ _ _) hopened
  simp only [walkEnds, needDirectory_held hdirectory, walkEntry_domain0 _ hdomain, needHistory_empty hhistory,
    wantsQuery_domain0 _ _ htaken, hlease, Bool.not_true, Bool.false_eq_true, if_false, Bool.or_self]
  exact hends

theorem walkDone_unmatched (hruns : runs s = true) (hbroken : s.stk.broken = []) (hlease : canLease s = true)
    (hadmitted : (entryOf s i).state = .admitted) (hwaits : isWaiting s i = false) (hadmission : admissionOf s i = some a)
    (hwalk : a.walkDone = false) : Completes (.walkDone i) s (fun t =>
      admissionOf t i = some { a with walkDone := true } ∧ (entryOf t i).state = .admitted ∧ (entryOf t i).matched = 0 ∧
      (entryOf t i).length = 0) := by
  have hstk : (unmatched s i a).stk = s.stk :=
    ((keep_setAdmission _ _ _).stk.resolve_left (by decide)).trans ((keep_takeMatched s i 0).stk.resolve_left (by decide))
  have htaken : (runs s && (entryOf s i).state == .admitted && !isWaiting s i) = true := by simp [hruns, hadmitted, hwaits]
  have heffect : Effect (.walkDone i) s (unmatched s i a) := by
    change execWalkDone i s = _
    rw [execWalkDone, actPages, htaken, act_taken]
    simp only [hadmission, hwalk, Bool.false_eq_true, if_false,
      walkEnds_unmatched hopened hdomain hdirectory hhistory hinput hlength hlease,
      failBroken_sound (s := unmatched s i a) (by rw [hstk, hbroken])]
  have hentry := finish_entry_eq (s0 := s) (unmatched_entry (a := a) hinput hlength)
  refine ⟨_, heffect, ?_, ?_, ?_, ?_⟩
  · rw [admissionOf, finish_admissions]
    exact admissionOf_setAdmission_self (takeMatched s i 0) i _
  · rw [hentry, hadmitted]
  · rw [hentry]
  · rw [hentry]

end

/-! ## DEADLINE_MISS (R250) -/

/-- Entry `i` is marked as having missed its deadline. -/
def markMissed (s : State) (i : Nat) : State :=
  let s1 := modEntry s i (fun e => { e with deadlineMissed := true })
  { s1 with rqt := { s1.rqt with
    missed := tabPut false s1.rqt.missed i true, missToken := tabPut false s1.rqt.missToken i true,
    missCompletion := tabPut false s1.rqt.missCompletion i true } }

/-- The miss is counted, and what signals it leaves the request table alone. -/
theorem deadlineMiss_rqt (s : State) (i : Nat) :
    (notify (satF (markMissed s i) F.rqtStatus.deadlineMisses) F.rqtCtl.notifyEnable F.rqtCtl.vector).rqt = (markMissed s i).rqt :=
  ((keep_notify _ _ _).rqt.resolve_left (by decide)).trans ((keep_satF _ _).rqt.resolve_left (by decide))

theorem deadlineMiss_effect {s : State} {i : Nat} (hready : isReady s = true) (hpassed : deadlinePassed s i = true) :
    Effect (.deadlineMiss i) s (notify (satF (markMissed s i) F.rqtStatus.deadlineMisses) F.rqtCtl.notifyEnable F.rqtCtl.vector) := by
  change execDeadlineMiss i s = _
  rw [execDeadlineMiss, hready, hpassed]
  exact act_taken _ _

theorem deadlineMiss_once {s : State} {i : Nat} (hready : isReady s = true) (hpassed : deadlinePassed s i = true) :
    Completes (.deadlineMiss i) s (fun t =>
      (entryOf t i).deadlineMissed = true ∧ (entryOf t i).state = (entryOf s i).state ∧ tabGet false t.rqt.missed i = true ∧
      deadlinePassed t i = false ∧
      getF t F.rqtStatus.deadlineMisses =
        min (getF s F.rqtStatus.deadlineMisses + 1) (max (getF s F.rqtStatus.deadlineMisses)
          (2 ^ F.rqtStatus.deadlineMisses.width - 1))) := by
  have hrqt := deadlineMiss_rqt s i
  have hmarked : entryOf (markMissed s i) i = { entryOf s i with deadlineMissed := true } :=
    entryOf_modEntry_self s i (fun e => { e with deadlineMissed := true })
  have hentry := finish_entry_eq (s0 := s) ((entryOf_of_rqt hrqt i).trans hmarked)
  have hmissed : tabGet false (markMissed s i).rqt.missed i = true := tabGet_put_self false s.rqt.missed i true
  rw [← hrqt] at hmissed
  refine ⟨_, deadlineMiss_effect hready hpassed, ?_, ?_, ?_, ?_, ?_⟩
  · rw [hentry]
  · rw [hentry]
  · rw [finish_missed, hmissed]
  · rw [deadlinePassed, finish_missed, hmissed]
    simp
  · rw [finish_getF _ _ _ (by decide), getF_notify]
    exact getF_satF_self (markMissed s i) _

/-! ## COALESCE_US_EXPIRY (R259) -/

theorem coalesceUsExpiry_signals {s : State} {tn : Tenant} (hready : isReady s = true) (hunsignalled : (queuesOf s tn.val).unsignalled ≠ 0)
    (henabled : isSet s (F.rqtTCtl.intEnable.at tn.val) = true) :
    Effect (.coalesceUsExpiry tn) s (signal (setQueues s tn.val { queuesOf s tn.val with unsignalled := 0 }) (64 + tn.val)) := by
  have htaken : (isReady s && (queuesOf s tn.val).unsignalled != 0) = true := by simp [hready, hunsignalled]
  change execCoalesceUsExpiry tn s = _
  rw [execCoalesceUsExpiry, htaken, act_taken]
  simp only [henabled, if_true]

/-- Settles O34: a request without a sharing domain matches nothing and its admission goes on waiting for the home; a deadline that was
told of does not pass again; the records that stand unsignalled are signalled at once. -/
theorem walksDeadlinesAndCoalescing : Obligations.WalksDeadlinesAndCoalescing := by
  unfold Obligations.WalksDeadlinesAndCoalescing
  refine ⟨?_, fun s i => deadlineMiss_once, fun s tn => coalesceUsExpiry_signals⟩
  intro s i a x hruns hbroken hlease hadmitted hwaits hadmission hwalk hopened hdomain hdirectory hhistory hinput hlength
  exact walkDone_unmatched hopened hdomain hdirectory hhistory hinput hlength hruns hbroken hlease hadmitted hwaits hadmission hwalk

end Sys2Proof.Machine
end

section
/-! SUPPORT. A completion that was given: it is written in its tenant's queue, waits for room in it, or is held until the Mirror has applied
the command's changes (R244, R247, R249, R499). -/

namespace Sys2Proof.Machine

open Sys2Proof

/-! ## What was sent -/

/-- What was sent stays, with every register that output leaves alone. -/
structure OutGrows (s t : State) : Prop where
  field : ∀ f : Field, f.isQuiet = true → getF t f = getF s f
  out : ∃ l, t.out = l ++ s.out

theorem Told.outGrows {s t : State} (h : Told s t) : OutGrows s t := ⟨fun f hf => h.field f (isQuiet_isTold hf), h.out⟩

theorem Finished.outGrows {s t : State} (h : Finished s t) : OutGrows s t := ⟨h.field, h.told.out⟩

/-- The registers of the tenants lie below those that count what was sent. -/
theorem isQuiet_tenant {f : Field} {n : Nat} (hn : n < 4096) (hoff : 0x00500000 ≤ f.off) (hstride : f.stride = 64)
    (hend : f.off + 64 * 4096 < 0x00800000) (hlo : f.lo < 64) : (f.at n).isQuiet = true := by
  have hkey : (f.at n).key = (f.off + f.stride * n) * 64 + f.lo := rfl
  rw [hstride] at hkey
  have hraw : 0x00800000 * 64 ≤ F.codStats.rawBlocks.key := by decide
  have hcoded : 0x00800000 * 64 ≤ F.codStats.codedBlocks.key := by decide
  simp only [Field.isQuiet, Field.isTold, hkey, Bool.and_eq_true, Bool.or_eq_true, decide_eq_true_eq, bne_iff_ne]
  omega

theorem isQuiet_cqBase (tn : Tenant) : (F.rqtTCqBase.base.at tn.val).isQuiet = true :=
  isQuiet_tenant tn.isLt (by decide) rfl (by decide) (by decide)

theorem isQuiet_pasid (tn : Tenant) : (F.rqtTCtl.pasid.at tn.val).isQuiet = true :=
  isQuiet_tenant tn.isLt (by decide) rfl (by decide) (by decide)

/-! ## A record that left the part -/

/-- The first way of `Reported`: the record has left the part (R244, R247). -/
def RecordWritten (t : State) (tn : Tenant) (r : Completion) : Prop :=
  ∃ slot lmc seq phase, let a := getF t (F.rqtTCqBase.base.at tn.val) * 4096 + 64 * slot
    Output.hostWrite (pasidOf t tn.val) a false ((completionBytes r lmc seq phase).take 56) ∈ t.out ∧
    Output.hostWrite (pasidOf t tn.val) (a + 56) false ((completionBytes r lmc seq phase).drop 56) ∈ t.out

theorem recordWritten_mono {s t : State} {tn : Tenant} {r : Completion} (h : RecordWritten s tn r) (hgrows : OutGrows s t) :
    RecordWritten t tn r := by
  obtain ⟨slot, lmc, seq, phase, hfirst, hlast⟩ := h
  obtain ⟨l, hl⟩ := hgrows.out
  have hsent {o : Output} (ho : o ∈ s.out) : o ∈ t.out := by
    rw [hl]
    exact List.mem_append_right _ ho
  refine ⟨slot, lmc, seq, phase, ?_⟩
  dsimp only
  rw [pasidOf, hgrows.field _ (isQuiet_cqBase tn), hgrows.field _ (isQuiet_pasid tn)]
  exact ⟨hsent hfirst, hsent hlast⟩

theorem completionBytes_length (r : Completion) (lmc seq : Nat) (phase : Bool) : (completionBytes r lmc seq phase).length = 64 := by
  simp only [completionBytes, List.length_append, leBytes_length]

/-- A record of 64 bytes leaves in two writes, the final 8 bytes last (R247). -/
theorem postRecord_out64 (s : State) (p a : Nat) (bs : List Byte) (h : bs.length = 64) :
    (postRecord s p a bs).out = .hostWrite p (a + 56) false (bs.drop 56) :: .hostWrite p a false (bs.take 56) :: s.out := by
  simp [postRecord, emitAll, emit, h]

theorem recordWritten_writeCompletion (s : State) (tn : Tenant) (r : Completion) : RecordWritten (writeCompletion s tn.val r) tn r := by
  unfold writeCompletion
  extract_lets q last s1 s2
  refine recordWritten_mono (s := s2) ?_ ((told_noteWritten s2 tn.val q.cqSeq).trans (told_countRecord _ tn.val)).outGrows
  have hout : s2.out = _ := postRecord_out64 s1 _ _ _ (completionBytes_length r s.plt.lmc q.cqSeq q.cqPhase)
  refine ⟨q.cqTail, s.plt.lmc, q.cqSeq, q.cqPhase, ?_⟩
  rw [hout]
  exact ⟨List.mem_cons_of_mem _ List.mem_cons_self, List.mem_cons_self⟩

/-! ## Records that wait for room -/

/-- The same records wait in every tenant's queues. -/
def SameWaiting (s t : State) : Prop := ∀ n, (queuesOf t n).waiting = (queuesOf s n).waiting

theorem SameWaiting.trans {s t u : State} (h : SameWaiting s t) (k : SameWaiting t u) : SameWaiting s u := fun n => (k n).trans (h n)

theorem SameWaiting.of {s t : State} (h : t.rqt = s.rqt) : SameWaiting s t := fun n => by rw [queuesOf, queuesOf, h]

theorem Keep.sameWaiting {w : Nat} {s t : State} (h : Keep w s t) (hw : w.testBit 11 = false) : SameWaiting s t :=
  .of (h.rqt.resolve_left (by simp [hw]))

theorem sameWaiting_setQueues (s : State) (t : Nat) (q : TenantQueues) (h : q.waiting = (queuesOf s t).waiting) :
    SameWaiting s (setQueues s t q) := by
  intro n
  rw [queuesOf_setQueues]
  split
  · next e => rw [e, h]
  · rfl

theorem sameWaiting_countRecord (s : State) (t : Nat) : SameWaiting s (countRecord s t) := by
  unfold countRecord
  split
  · exact fun _ => rfl
  · dsimp only
    split
    · exact (sameWaiting_setQueues s t { queuesOf s t with unsignalled := 0 } rfl).trans ((keep_signal _ _).sameWaiting (by decide))
    · exact sameWaiting_setQueues s t _ rfl

theorem sameWaiting_writeCompletion (s : State) (t : Nat) (r : Completion) : SameWaiting s (writeCompletion s t r) := by
  unfold writeCompletion
  extract_lets q last s1 s2
  have hposted : SameWaiting s s2 := SameWaiting.trans (t := s1) (sameWaiting_setQueues s t _ rfl)
    ((keep_postRecord s1 _ _ _).sameWaiting (by decide))
  exact (hposted.trans ((keep_noteWritten s2 _ _).sameWaiting (by decide))).trans (sameWaiting_countRecord _ t)

theorem sameWaiting_writeToken (s : State) (t : Nat) (r : TokenRecord) : SameWaiting s (writeToken s t r) := by
  unfold writeToken
  extract_lets q last s1
  have hset : SameWaiting s s1 := sameWaiting_setQueues s t _ rfl
  exact (hset.trans ((keep_postRecord s1 _ _ _).sameWaiting (by decide))).trans (sameWaiting_countRecord _ t)

theorem sameWaiting_flushRecord (t : Nat) (acc : State × List RecordOut) (r : RecordOut) : SameWaiting acc.1 (flushRecord t acc r).1 := by
  cases r with
  | completion c =>
    rw [flushRecord]
    split
    · exact fun _ => rfl
    · exact sameWaiting_writeCompletion _ _ _
  | token k =>
    rw [flushRecord]
    split
    · exact fun _ => rfl
    · exact sameWaiting_writeToken _ _ _

theorem sameWaiting_flushRecords (t : Nat) (l : List RecordOut) (acc : State × List RecordOut) :
    SameWaiting acc.1 (l.foldl (flushRecord t) acc).1 := by
  induction l generalizing acc with
  | nil => exact fun _ => rfl
  | cons r l ih => exact (sameWaiting_flushRecord t acc r).trans (ih _)

theorem sameWaiting_markNotices (waits : List RecordOut) (l : List (Nat × Nat)) (s : State) :
    SameWaiting s (l.foldl (markNotice waits) s) := by
  induction l generalizing s with
  | nil => exact fun _ => rfl
  | cons n l ih =>
    refine SameWaiting.trans (fun _ => ?_) (ih _)
    unfold markNotice
    split <;> rfl

/-! ## The flush of a tenant's queue (R246, R249) -/

/-- Of the records that a flush has passed, this one is written or waits on. -/
def Carried (tn : Tenant) (r : Completion) (acc : State × List RecordOut) : Prop := RecordWritten acc.1 tn r ∨ .completion r ∈ acc.2

theorem carried_flushRecord {tn : Tenant} {r : Completion} {acc : State × List RecordOut} {x : RecordOut}
    (h : Carried tn r acc ∨ x = .completion r) : Carried tn r (flushRecord tn.val acc x) := by
  cases x with
  | completion c =>
    rw [flushRecord]
    split
    · rcases h with (h | h) | h
      · exact .inl h
      · exact .inr (List.mem_append_left _ h)
      · rw [h]
        exact .inr (List.mem_append_right _ (List.mem_singleton_self _))
    · rcases h with (h | h) | h
      · exact .inl (recordWritten_mono h (told_writeCompletion _ _ _).outGrows)
      · exact .inr h
      · cases h
        exact .inl (recordWritten_writeCompletion _ tn r)
  | token k =>
    have hcarried : Carried tn r acc := h.resolve_right (by simp)
    rw [flushRecord]
    split
    · exact hcarried.imp_right (List.mem_append_left _)
    · exact hcarried.imp_left (recordWritten_mono · (told_writeToken _ _ _).outGrows)

theorem carried_flushRecords {tn : Tenant} {r : Completion} (l : List RecordOut) (acc : State × List RecordOut)
    (h : Carried tn r acc ∨ .completion r ∈ l) : Carried tn r (l.foldl (flushRecord tn.val) acc) := by
  induction l generalizing acc with
  | nil => exact h.resolve_right (by simp)
  | cons x l ih =>
    refine ih _ ?_
    rw [List.mem_cons] at h
    rcases h with h | h | h
    · exact .inl (carried_flushRecord (.inl h))
    · exact .inl (carried_flushRecord (.inr h.symm))
    · exact .inr h

/-- The record has left the part, or waits for room in its queue. -/
def RecordStands (t : State) (tn : Tenant) (r : Completion) : Prop :=
  RecordWritten t tn r ∨ .completion r ∈ (queuesOf t tn.val).waiting

theorem recordStands_mono {s t : State} {tn : Tenant} {r : Completion} (h : RecordStands s tn r) (hgrows : OutGrows s t)
    (hwaiting : SameWaiting s t) : RecordStands t tn r :=
  h.imp (recordWritten_mono · hgrows) (by rw [hwaiting]; exact id)

/-- What stands and what is new stands after the flush of the tenant's queue. -/
theorem recordStands_flushWith {s : State} {tn : Tenant} {r : Completion} (new : List RecordOut)
    (h : RecordStands s tn r ∨ .completion r ∈ new) : RecordStands (flushWith s tn.val new) tn r := by
  unfold flushWith
  extract_lets all q acc
  have hstart : Carried tn r (setQueues s tn.val q, []) ∨ .completion r ∈ all := by
    rcases h with (h | h) | h
    · exact .inl (.inl (recordWritten_mono h (told_setQueues s tn.val q).outGrows))
    · exact .inr (List.mem_append_left _ h)
    · exact .inr (List.mem_append_right _ h)
  have hacc : Carried tn r acc := carried_flushRecords all _ hstart
  have hset : RecordStands (setQueues acc.1 tn.val { queuesOf acc.1 tn.val with waiting := acc.2 }) tn r := by
    refine hacc.imp (recordWritten_mono · (told_setQueues _ _ _).outGrows) fun hwaits => ?_
    rw [queuesOf_setQueues, if_pos rfl]
    exact hwaits
  exact recordStands_mono hset (Told.foldl _ (told_markNotice acc.2) _ _).outGrows (sameWaiting_markNotices _ _ _)

/-- The flush of another tenant's queue leaves the record where it stands. -/
theorem recordStands_flushOther {s : State} {tn : Tenant} {r : Completion} {t : Nat} (new : List RecordOut) (ht : tn.val ≠ t)
    (h : RecordStands s tn r) : RecordStands (flushWith s t new) tn r := by
  refine h.imp (recordWritten_mono · (told_flushWith s t new).outGrows) fun hwaits => ?_
  unfold flushWith
  extract_lets all q acc
  have hacc := sameWaiting_flushRecords t all (setQueues s t { q with waiting := [] }, []) tn.val
  rw [queuesOf_setQueues, if_neg ht] at hacc
  rw [sameWaiting_markNotices, queuesOf_setQueues, if_neg ht, hacc]
  exact hwaits

/-! ## What is held for the Mirror (R499) -/

theorem recordStands_letGo {s : State} {tn : Tenant} {r : Completion} (o : HeldOut)
    (h : RecordStands s tn r ∨ o = .record tn.val (.completion r)) : RecordStands (letGo s o) tn r := by
  cases o with
  | record t x =>
    change RecordStands (flushWith s t [x]) tn r
    by_cases ht : tn.val = t
    · subst ht
      refine recordStands_flushWith [x] (h.imp_right fun hown => ?_)
      cases hown
      exact List.mem_singleton_self _
    · refine recordStands_flushOther [x] ht (h.resolve_right fun hown => ht ?_)
      cases hown
      rfl
  | rst m => exact recordStands_mono (h.resolve_right (by simp)) (told_transmit s m).outGrows ((keep_transmit s m).sameWaiting (by decide))

theorem recordStands_letGoAll {tn : Tenant} {r : Completion} (l : List HeldOut) (s : State)
    (h : RecordStands s tn r ∨ .record tn.val (.completion r) ∈ l) : RecordStands (l.foldl letGo s) tn r := by
  induction l generalizing s with
  | nil => exact h.resolve_right (by simp)
  | cons o l ih =>
    refine ih _ ?_
    rw [List.mem_cons] at h
    rcases h with h | h | h
    · exact .inl (recordStands_letGo o (.inl h))
    · exact .inl (recordStands_letGo o (.inr h.symm))
    · exact .inr h

/-- The record stands, or is held until the Mirror has applied a change. -/
def RecordHeld (t : State) (tn : Tenant) (r : Completion) : Prop :=
  RecordStands t tn r ∨ ∃ n, (n, HeldOut.record tn.val (.completion r)) ∈ t.twn.held

/-- The record stands, is held, or is held from the end of the command. -/
def RecordGiven (t : State) (tn : Tenant) (r : Completion) : Prop := RecordHeld t tn r ∨ .record tn.val (.completion r) ∈ t.twn.newHeld

theorem recordHeld_mono {s t : State} {tn : Tenant} {r : Completion} (h : RecordHeld s tn r) (hgrows : OutGrows s t)
    (hwaiting : SameWaiting s t) (hheld : t.twn.held = s.twn.held) : RecordHeld t tn r :=
  h.imp (recordStands_mono · hgrows hwaiting) (by rw [hheld]; exact id)

theorem recordHeld_releaseHeld {tn : Tenant} {r : Completion} (fuel : Nat) (s : State) (h : RecordHeld s tn r) :
    RecordHeld (releaseHeld fuel s) tn r := by
  induction fuel generalizing s with
  | zero => exact h
  | succ fuel ih =>
    rw [releaseHeld]
    split
    · exact h
    · next n o rest hqueue =>
      split
      · exact h
      · refine ih _ ?_
        have hstands : RecordStands { s with twn := { s.twn with held := rest } } tn r ∨ o = .record tn.val (.completion r) →
            RecordHeld (letGo { s with twn := { s.twn with held := rest } } o) tn r := fun h => .inl (recordStands_letGo o h)
        rcases h with h | ⟨m, hm⟩
        · exact hstands (.inl h)
        · rw [hqueue, List.mem_cons] at hm
          rcases hm with hm | hm
          · cases hm
            exact hstands (.inr rfl)
          · refine .inr ⟨m, ?_⟩
            rw [(sameHold_letGo _ o).held]
            exact hm

theorem recordStands_releaseAll {s : State} {tn : Tenant} {r : Completion} (h : RecordGiven s tn r) : RecordStands (releaseAll s) tn r := by
  refine recordStands_letGoAll _ _ ?_
  rcases h with (h | ⟨n, hn⟩) | h
  · exact .inl h
  · exact .inr (List.mem_append_left _ (List.mem_map.2 ⟨_, hn, rfl⟩))
  · exact .inr (List.mem_append_right _ h)

theorem recordGiven_mono {s t : State} {tn : Tenant} {r : Completion} (h : RecordGiven s tn r) (hgrows : OutGrows s t)
    (hwaiting : SameWaiting s t) (hheld : SameHold s t) : RecordGiven t tn r :=
  h.imp (recordHeld_mono · hgrows hwaiting hheld.held) (by rw [hheld.newHeld]; exact id)

theorem recordGiven_markMirrored {s : State} {tn : Tenant} {r : Completion} (pages : List Nat) (h : RecordGiven s tn r) :
    RecordGiven (markMirrored s pages) tn r :=
  recordGiven_mono h (told_markMirrored s pages).outGrows (fun _ => rfl) ⟨rfl, rfl, rfl, rfl, rfl⟩

theorem recordGiven_sendChange {s : State} {tn : Tenant} {r : Completion} (l : List MirrorBody) (h : RecordGiven s tn r) :
    RecordGiven (sendChange s l) tn r :=
  recordGiven_mono h (told_sendChange l s).outGrows ((keep_sendChange s l).sameWaiting (by decide)) (sameHold_sendChange s l)

/-- What the command gave is held from its end, until the Mirror has applied what was sent of it. -/
def holdNew (s : State) : State :=
  { s with twn := { s.twn with held := s.twn.held ++ s.twn.newHeld.map (fun o => (s.twn.sent, o)), newHeld := [] } }

theorem recordHeld_holdNew {s : State} {tn : Tenant} {r : Completion} (h : RecordGiven s tn r) : RecordHeld (holdNew s) tn r := by
  rcases h with (h | ⟨n, hn⟩) | h
  · exact .inl (recordStands_mono h (told_twn s _ rfl).outGrows (fun _ => rfl))
  · exact .inr ⟨n, List.mem_append_left _ hn⟩
  · exact .inr ⟨s.twn.sent, List.mem_append_right _ (List.mem_map.2 ⟨_, h, rfl⟩)⟩

/-- The part has confirmed what it wrote. -/
def confirmed (s : State) : State := sendChange { s with twn := { s.twn with written := [] } } (confirmBodies s)

theorem recordHeld_confirmed {s : State} {tn : Tenant} {r : Completion} (h : RecordHeld s tn r) : RecordHeld (confirmed s) tn r :=
  recordHeld_mono h ((told_twn s _ rfl).trans (told_sendChange _ _)).outGrows ((keep_sendChange _ _).sameWaiting (by decide))
    (sameHold_sendChange _ _).held

/-- The changes of a command were sent to the Mirror, and what the command gave is held. -/
def changeSent (s0 s : State) : State :=
  holdNew (markMirrored (sendChange s (changeBodies s0 s ++ completionBodies s.twn.newHeld)) (unmirroredPages s))

theorem mirrorChange_mirrors {s : State} (s0 : State) (h : mirrors s = true) :
    mirrorChange s0 s = confirmed (releaseHeld (changeSent s0 s).twn.held.length (changeSent s0 s)) := by
  simp only [mirrorChange, h, Bool.not_true, Bool.false_eq_true, if_false, confirmed, changeSent, holdNew]

theorem recordHeld_mirrorChange {s : State} {tn : Tenant} {r : Completion} (s0 : State) (h : RecordGiven s tn r) :
    RecordHeld (mirrorChange s0 s) tn r := by
  by_cases hm : mirrors s = true
  · rw [mirrorChange_mirrors s0 hm]
    exact recordHeld_confirmed (recordHeld_releaseHeld _ _ (recordHeld_holdNew (recordGiven_markMirrored _ (recordGiven_sendChange _ h))))
  · rw [mirrorChange, if_pos (by simpa using hm)]
    split
    · next hnone =>
      simp only [Bool.and_eq_true, List.isEmpty_iff] at hnone
      exact h.resolve_right (by simp [hnone.1.2])
    · exact .inl (recordStands_releaseAll h)

theorem recordGiven_give (s : State) (tn : Tenant) (r : Completion) : RecordGiven (giveRecord s tn.val (.completion r)) tn r := by
  rw [giveRecord, give]
  split
  · exact .inr (List.mem_append_right _ (List.mem_singleton_self _))
  · exact .inl (.inl (recordStands_letGo _ (.inr rfl)))

/-- A record that stands or is held is reported. -/
theorem reported_of_held {t : State} {tn : Tenant} {r : Completion} (h : RecordHeld t tn r) :
    Reported t tn.val r.opcode r.requestId r.tag r.status := by
  rcases h with (h | h) | h
  · exact ⟨r, rfl, rfl, rfl, rfl, .inl h⟩
  · exact ⟨r, rfl, rfl, rfl, rfl, .inr (.inl h)⟩
  · exact ⟨r, rfl, rfl, rfl, rfl, .inr (.inr h)⟩

theorem recordGiven_updatePressure {s : State} {tn : Tenant} {r : Completion} (h : RecordGiven s tn r) :
    RecordGiven (updatePressure s) tn r := by
  have hkeep := keep_updatePressure s
  have htwn : (updatePressure s).twn = s.twn := hkeep.twn.resolve_left (by decide)
  rcases h with h | h
  · exact .inl (recordHeld_mono h (finished_updatePressure s).outGrows (hkeep.sameWaiting (by decide)) (congrArg Twin.held htwn))
  · exact .inr (by rw [htwn]; exact h)

/-- A record that a command gave is reported at the command's end. -/
theorem reported_finish {s : State} {tn : Tenant} {r : Completion} (s0 : State) (h : RecordGiven s tn r) :
    Reported (finish s0 s) tn.val r.opcode r.requestId r.tag r.status :=
  reported_of_held (recordHeld_mirrorChange s0 (recordGiven_updatePressure h))

end Sys2Proof.Machine
end

section
/-! SUPPORT. ADMIT (O31): what reading the command leaves (R236, R237), its refusal (R241), and the entry that it fills (R226, R228). -/

namespace Sys2Proof.Machine

open Sys2Proof

/-! ## An ADMIT is read -/

/-- The state with other queues and other output. -/
def withQueues (s : State) (q : Tab TenantQueues) (o : List Output) : State := { s with rqt := { s.rqt with queues := q }, out := o }

theorem readCommand_queues (s : State) (t : Nat) : ∃ q o, readCommand s t = withQueues s q o := ⟨_, _, rfl⟩

theorem readAdmit_queues (s : State) (t : Nat) (c : HostCommand) : ∃ q o, readAdmit (readCommand s t) t c = withQueues s q o := by
  unfold readAdmit readTokens
  split
  · split
    · exact ⟨_, _, rfl⟩
    · exact ⟨_, _, rfl⟩
  · exact readCommand_queues s t

/-- No refusal of an ADMIT looks at a queue or at what was sent. -/
theorem admitRefusal_withQueues (s : State) (q : Tab TenantQueues) (o : List Output) (t : Nat) (c : HostCommand)
    (tokens : Option (List Nat)) (desc : Option AdmitDescriptor) :
    admitRefusal (withQueues s q o) t c tokens desc = admitRefusal s t c tokens desc := rfl

theorem hostAdmit_refused {s : State} {tn : Tenant} {c : HostCommand} {tokens : Option (List Nat)} {desc : Option AdmitDescriptor} {st : Nat}
    (hread : canRead s tn.val = true) (hrefused : admitRefusal s tn.val c tokens desc = some st) :
    ∃ q o, Effect (.hostAdmit tn c tokens desc) s (answerBare (withQueues s q o) tn.val (arriving s tn.val 1 c (some [])) st) := by
  obtain ⟨q, o, hq⟩ := readAdmit_queues s tn.val c
  refine ⟨q, o, ?_⟩
  change execHostAdmit tn c tokens desc s = _
  rw [execHostAdmit, hread, act_taken]
  simp only [hq, admitRefusal_withQueues, hrefused]

theorem hostAdmit_accepted {s : State} {tn : Tenant} {c : HostCommand} {ts : List Nat} {d : AdmitDescriptor}
    (hread : canRead s tn.val = true) (haccepted : admitRefusal s tn.val c (some ts) (some d) = none) :
    ∃ q o, Effect (.hostAdmit tn c (some ts) (some d)) s (takeAdmit (withQueues s q o) tn c ts d) := by
  obtain ⟨q, o, hq⟩ := readAdmit_queues s tn.val c
  refine ⟨q, o, ?_⟩
  change execHostAdmit tn c (some ts) (some d) s = _
  rw [execHostAdmit, hread, act_taken]
  simp only [hq, admitRefusal_withQueues, haccepted]

/-! ## A command is answered without an entry (R242, R244) -/

theorem recordGiven_completeBare (s : State) (tn : Tenant) (opcode id tag status : Nat) :
    ∃ r : Completion, r.opcode = opcode ∧ r.requestId = id ∧ r.tag = tag ∧ r.status = status ∧
      RecordGiven (completeBare s tn.val opcode id tag status) tn r := by
  unfold completeBare
  split
  · exact ⟨_, rfl, rfl, rfl, rfl, recordGiven_give _ tn _⟩
  · exact ⟨_, rfl, rfl, rfl, rfl, recordGiven_give _ tn _⟩

theorem reported_answerBare (s0 s : State) (tn : Tenant) (h : HeldCommand) (status : Nat) :
    Reported (finish s0 (answerBare s tn.val h status)) tn.val h.opcode h.cmd.requestId h.cmd.tag status := by
  obtain ⟨r, hop, hid, htag, hstatus, hgiven⟩ := recordGiven_completeBare
    (if status = 13 ∨ status = 15 then recordFault s tn.val h.sqIndex status else s) tn h.opcode h.cmd.requestId h.cmd.tag status
  have hreported := reported_finish (s := answerBare s tn.val h status) s0 hgiven
  rwa [hop, hid, htag, hstatus] at hreported

/-- No entry changes its state, and no manifest changes. -/
structure RequestsStay (s t : State) : Prop where
  manifests : t.rqt.manifests = s.rqt.manifests
  state : ∀ i, (entryOf t i).state = (entryOf s i).state

theorem RequestsStay.trans {s t u : State} (h : RequestsStay s t) (k : RequestsStay t u) : RequestsStay s u :=
  ⟨k.manifests.trans h.manifests, fun i => (k.state i).trans (h.state i)⟩

theorem RequestsStay.of_rqt {s t : State} (h : t.rqt = s.rqt) : RequestsStay s t := ⟨by rw [h], fun i => by rw [entryOf_of_rqt h]⟩

theorem Told.requestsStay {s t : State} (h : Told s t) : RequestsStay s t := ⟨by rw [h.rqt], fun i => by rw [h.entry i]⟩

theorem requestsStay_completeBare (s : State) (t opcode id tag status : Nat) : RequestsStay s (completeBare s t opcode id tag status) := by
  unfold completeBare
  split
  · next i _ =>
    have hends : RequestsStay s (commandEnds (takeMiss s i).2 t) := ⟨rfl, fun _ => rfl⟩
    exact hends.trans (told_giveRecord _ t _).requestsStay
  · exact ((told_setQueues s t _).trans (told_giveRecord _ t _)).requestsStay

theorem requestsStay_answerBare (s : State) (t : Nat) (h : HeldCommand) (status : Nat) : RequestsStay s (answerBare s t h status) := by
  refine RequestsStay.trans (.of_rqt ?_) (requestsStay_completeBare _ t h.opcode h.cmd.requestId h.cmd.tag status)
  split
  · exact (keep_recordFault s t h.sqIndex status).rqt.resolve_left (by decide)
  · rfl

theorem requestsStay_finish (s0 s : State) : RequestsStay s (finish s0 s) := ⟨finish_manifests s0 s, finish_entryState s0 s⟩

/-! ## An ADMIT is accepted (R226, R228, R325) -/

/-- Entry `i` changes in MANIFEST and NOTICE_PENDING alone, no other entry changes its state, and inputs and admissions stay. -/
structure EntryStays (i : Nat) (s t : State) : Prop where
  entry : entryOf t i = { entryOf s i with manifest := (entryOf t i).manifest, noticePending := (entryOf t i).noticePending }
  others : ∀ j, j ≠ i → (entryOf t j).state = (entryOf s j).state
  inputs : t.rqt.inputs = s.rqt.inputs
  admissions : t.rqt.admissions = s.rqt.admissions

theorem EntryStays.trans {i : Nat} {s t u : State} (h : EntryStays i s t) (k : EntryStays i t u) : EntryStays i s u where
  entry := by have hentry := k.entry; rw [h.entry] at hentry; exact hentry
  others := fun j hj => (k.others j hj).trans (h.others j hj)
  inputs := k.inputs.trans h.inputs
  admissions := k.admissions.trans h.admissions

theorem EntryStays.of_rqt {s t : State} (i : Nat) (h : t.rqt = s.rqt) : EntryStays i s t where
  entry := by rw [entryOf_of_rqt h]
  others := fun j _ => by rw [entryOf_of_rqt h]
  inputs := by rw [h]
  admissions := by rw [h]

theorem Told.entryStays {s t : State} (i : Nat) (h : Told s t) : EntryStays i s t where
  entry := by rw [h.entry i]
  others := fun j _ => by rw [h.entry j]
  inputs := by rw [h.rqt]
  admissions := by rw [h.rqt]

theorem entryStays_finish (i : Nat) (s0 s : State) : EntryStays i s (finish s0 s) where
  entry := by rw [finish_entry]
  others := fun j _ => finish_entryState s0 s j
  inputs := finish_inputs s0 s
  admissions := finish_admissions s0 s

theorem entryStays_needDirectory (s : State) (i : Nat) : EntryStays i s (needDirectory s i).2 := by
  have halloc : (allocUnit s).2.rqt = s.rqt := (keep_allocUnit s).rqt.resolve_left (by decide)
  unfold needDirectory
  dsimp only
  split
  · exact .of_rqt i rfl
  · split
    · next unit _ =>
      refine (EntryStays.of_rqt i halloc).trans ⟨?_, fun j hj => ?_, rfl, rfl⟩
      · rw [entryOf_modEntry_self]
        rfl
      · rw [entryOf_modEntry_other _ _ hj]
        rfl
    · exact (EntryStays.of_rqt i halloc).trans (.of_rqt i ((keep_waitFor _ i 32).rqt.resolve_left (by decide)))

/-- What an accepted ADMIT gives entry `i`: its fields, its first tokens and its admission. -/
structure Admitted (s t : State) (i : Nat) (e : Entry) (x : PendingInput) (a : Admission) : Prop where
  entry : entryOf t i = { e with manifest := (entryOf t i).manifest, noticePending := (entryOf t i).noticePending }
  others : ∀ j, j ≠ i → (entryOf t j).state = (entryOf s j).state
  input : inputOf t i = some x
  admission : admissionOf t i = some a

theorem Admitted.then_stays {s t u : State} {i : Nat} {e : Entry} {x : PendingInput} {a : Admission} (h : Admitted s t i e x a)
    (k : EntryStays i t u) : Admitted s u i e x a where
  entry := by have hentry := k.entry; rw [h.entry] at hentry; exact hentry
  others := fun j hj => (k.others j hj).trans (h.others j hj)
  input := by rw [inputOf, k.inputs]; exact h.input
  admission := by rw [admissionOf, k.admissions]; exact h.admission

theorem inputOf_setInput_self (s : State) (i : Nat) (x : Option PendingInput) : inputOf (setInput s i x) i = x := tabGet_put_self _ _ _ _

/-- The entry is filled, its first tokens are its input, and its walk and its ledger are awaited. -/
def filled (s : State) (i : Nat) (e : Entry) (tokens : List Nat) (tag domain : Nat) (track : PrefixTrack) : State :=
  setTrack (setAdmission (countDenied (setInput (fillEntry s i e) i (some { tokens := tokens, forced := false, after := .commit }))
    domain e.tenant.val) i (some { tag := tag })) i (some track)

theorem admitted_filled (s : State) (i : Nat) (e : Entry) (tokens : List Nat) (tag domain : Nat) (track : PrefixTrack) :
    Admitted s (filled s i e tokens tag domain track) i e { tokens := tokens, forced := false, after := .commit } { tag := tag } := by
  have hrqt (u : State) : (countDenied u domain e.tenant.val).rqt = u.rqt := (keep_countDenied u _ _).rqt.resolve_left (by decide)
  have hentry (j : Nat) : entryOf (filled s i e tokens tag domain track) j = entryOf (setEntry s i e) j := by
    change entryOf (countDenied _ domain e.tenant.val) j = _
    rw [entryOf_of_rqt (hrqt _)]
    rfl
  refine ⟨?_, fun j hj => ?_, ?_, ?_⟩
  · rw [hentry, entryOf_setEntry_self]
  · rw [hentry, entryOf_setEntry_other _ _ hj]
  · change tabGet none (countDenied _ domain e.tenant.val).rqt.inputs i = _
    rw [hrqt]
    exact inputOf_setInput_self _ i _
  · change admissionOf (setAdmission _ i (some { tag := tag })) i = _
    exact admissionOf_setAdmission_self _ _ _

/-- An ADMIT takes a FREE entry. -/
theorem takeAdmit_fills {s : State} {tn : Tenant} (c : HostCommand) (ts : List Nat) (d : AdmitDescriptor)
    (hfree : ∃ i < 65536, (entryOf s i).state = .free) : ∃ i < 65536, (entryOf s i).state = .free ∧
      Admitted s (takeAdmit s tn c ts d) i (admittedEntry s tn c d 0) { tokens := ts, forced := false, after := .commit }
        { tag := c.tag } := by
  obtain ⟨j, hj, hjfree⟩ := hfree
  obtain ⟨i, hi, -, hlt, hp⟩ := chooseFree_some (s := s) (lo := 0) (n := 65536) (p := fun i => (entryOf s i).state == .free)
    ⟨j, by omega, by omega, by simp [hjfree]⟩
  refine ⟨i, by omega, by simpa using hp, ?_⟩
  have hfilled := admitted_filled (chosen s) i (admittedEntry s tn c d 0) ts c.tag c.sharingDomain (newTrack s tn.val (ts.length / 64))
  have hdirected := hfilled.then_stays (entryStays_needDirectory _ i)
  have hsent (m : RstOut) := hdirected.then_stays ((told_sendRst _ m).entryStays i)
  rw [takeAdmit, hi]
  obtain ⟨hentry, hothers, hinput, hadmission⟩ := hsent _
  exact ⟨hentry, hothers, hinput, hadmission⟩

/-- Settles O31: reading the command changes no request, so the refusal is that of the state before it and is answered alone; an accepted
ADMIT fills a FREE entry, and neither its directory nor the message to its home changes more of it than MANIFEST. -/
theorem admitFillsAnEntry : Obligations.AdmitFillsAnEntry := by
  unfold Obligations.AdmitFillsAnEntry
  refine ⟨fun s tn c tokens desc st hread hrefused => ?_, fun s tn c ts d hread haccepted hfree => ?_⟩
  · obtain ⟨q, o, heffect⟩ := hostAdmit_refused hread hrefused
    have hstays := (requestsStay_answerBare (withQueues s q o) tn.val (arriving s tn.val 1 c (some [])) st).trans (requestsStay_finish s _)
    exact ⟨_, heffect, reported_answerBare s _ tn _ st, hstays.manifests, hstays.state⟩
  · obtain ⟨q, o, heffect⟩ := hostAdmit_accepted hread haccepted
    obtain ⟨i, hi, hifree, hadmitted⟩ := takeAdmit_fills (s := withQueues s q o) (tn := tn) c ts d hfree
    obtain ⟨hentry, hothers, hinput, hadmission⟩ := hadmitted.then_stays (entryStays_finish i s _)
    refine ⟨_, heffect, i, hi, hifree, ?_⟩
    rw [hentry, inputTokens, hinput]
    exact ⟨rfl, rfl, rfl, rfl, rfl, rfl, rfl, rfl, rfl, rfl, rfl, rfl, rfl, rfl, rfl, ⟨_, hadmission, rfl, rfl, rfl⟩, hothers⟩

end Sys2Proof.Machine
end

section
/-! SUPPORT. The end of an UNPIN scan (R304) in a table of block records that is not canonical (against O28), and in one that is. -/

namespace Sys2Proof.Machine

open Sys2Proof

/-! ## Every listed value passed through a function -/

section
variable {α : Type}

theorem tabGet_eq_default_of_tabRising (d : α) {lo k : Nat} {m : Tab α} (hrising : tabRising (some lo) m = true) (hk : k ≤ lo) :
    tabGet d m k = d := by
  induction m generalizing lo with
  | nil => rfl
  | cons e m ih =>
    obtain ⟨k', v⟩ := e
    simp only [tabRising, Bool.and_eq_true, decide_eq_true_eq] at hrising
    obtain ⟨hlo, htail⟩ := hrising
    rw [tabGet, if_neg (by omega)]
    exact ih htail (by omega)

variable [DecidableEq α]

/-- Where keys rise, an entry that becomes the default is dropped and hides no other entry of its key. -/
theorem tabGet_map_of_tabRising (d : α) {f : Nat → α → α} (hdefault : ∀ k, f k d = d) {m : Tab α} {lo : Option Nat}
    (hrising : tabRising lo m = true) (k : Nat) : tabGet d (tabMap d m f) k = f k (tabGet d m k) := by
  induction m generalizing lo with
  | nil => exact (hdefault k).symm
  | cons e m ih =>
    obtain ⟨k', v⟩ := e
    simp only [tabRising, Bool.and_eq_true] at hrising
    obtain ⟨-, htail⟩ := hrising
    have hrest : tabGet d (tabMap d m f) k = f k (tabGet d m k) := ih htail
    by_cases hdropped : f k' v = d
    · have hmap : tabMap d ((k', v) :: m) f = tabMap d m f := by simp [tabMap, hdropped]
      rw [hmap, hrest, tabGet]
      split
      · next hkey =>
        subst hkey
        rw [tabGet_eq_default_of_tabRising d htail le_rfl, hdefault, hdropped]
      · rfl
    · have hmap : tabMap d ((k', v) :: m) f = (k', f k' v) :: tabMap d m f := by simp [tabMap, hdropped]
      rw [hmap, tabGet, tabGet, hrest]
      split
      · next hkey => rw [hkey]
      · rfl

end

/-! ## DOMAIN_SCAN_COMPLETE -/

theorem exec_domainScanComplete {s : State} (hruns : runs s = true) :
    exec .domainScanComplete s = .next (finish s (endScan s)) := by
  change execDomainScanComplete s = _
  rw [execDomainScanComplete, hruns, act_taken]

theorem endScan_unpin {s : State} {k : Nat} (hscan : s.pfx.scan = some (k, .unpin)) :
    endScan s = domainDone (unpinDomain { s with pfx := { s.pfx with scan := none } } (tabGet {} s.pfx.slots k).domain) 0 := by
  rw [endScan, hscan]

theorem domainDone_pfx (s : State) (status : Nat) : (domainDone s status).pfx = s.pfx :=
  (keep_notify _ _ _).pfx.resolve_left (by decide)

theorem getF_domainDone_status (s : State) (status : Nat) (hstatus : status < 16) :
    getF (domainDone s status) F.pfxDomainCtl.status = status := by
  have hfields := (keep_notify (putF s F.pfxDomainCtl.status status) F.pfxCtl.notifyEnable F.pfxCtl.vector).fields.resolve_left (by decide)
  rw [domainDone, getF, hfields]
  exact (getF_putF_self s _ _).trans (Nat.mod_eq_of_lt hstatus)

theorem recOf_unpinDomain {s : State} (hwf : tabWf {} s.pfx.records = true) (d n : Nat) :
    recOf (unpinDomain s d) n = (if (recOf s n).domain = d then { recOf s n with pinned := false } else recOf s n) := by
  simp only [tabWf, Bool.and_eq_true] at hwf
  obtain ⟨hrising, -⟩ := hwf
  have hdefault (_ : Nat) : (if ({} : BlockRec).domain == d then { ({} : BlockRec) with pinned := false } else {}) = {} := by simp
  exact (tabGet_map_of_tabRising (f := fun _ x => if x.domain == d then { x with pinned := false } else x) {} hdefault hrising n).trans
    (if_congr beq_iff_eq rfl rfl)

/-- The clause of O28 on the end of an UNPIN, with the premise that it lacks: the records stand in the canonical form of every `Tab`. -/
theorem unpin_completes_of_tabWf {s : State} {k : Nat} (hruns : runs s = true) (hscan : s.pfx.scan = some (k, .unpin))
    (hwf : tabWf {} s.pfx.records = true) :
    Completes .domainScanComplete s (fun t => getF t F.pfxDomainCtl.status = 0 ∧ t.pfx.scan = none ∧ t.pfx.slots = s.pfx.slots ∧
      ∀ n, recOf t n = (if (recOf s n).domain = (tabGet {} s.pfx.slots k).domain then { recOf s n with pinned := false }
        else recOf s n)) := by
  have hpfx : (finish s (endScan s)).pfx =
      (unpinDomain { s with pfx := { s.pfx with scan := none } } (tabGet {} s.pfx.slots k).domain).pfx := by
    rw [finish_pfx, endScan_unpin hscan, domainDone_pfx]
  refine ⟨_, exec_domainScanComplete hruns, ?_, ?_, ?_, ?_⟩
  · rw [finish_getF _ _ _ (by decide), endScan_unpin hscan, getF_domainDone_status _ _ (by decide)]
  · rw [hpfx, unpinDomain]
  · rw [hpfx, unpinDomain]
  · intro n
    rw [recOf, hpfx]
    exact recOf_unpinDomain hwf _ n

/-! ## A record listed twice -/

/-- A READY part whose UNPIN scan of domain 9, in slot 7, is about to end. Its table of records lists record 5000 twice, first with the
value of an unlisted record; no write gives such a table (`tabPut`). -/
def doubledState : State :=
  { State.reset with
    plt := { State.reset.plt with state := .ready }
    pfx := { slots := [(7, { domain := 9, owner := 0, key := 0 })]
             records := [(5000, {}), (5000, { used := true })]
             scan := some (7, .unpin) } }

/-- The scan ends: the part runs. -/
theorem runs_doubledState : runs doubledState = true := by
  decide +kernel

/-- Record 5000 is of no domain and not used; the scan drops its first listing, and it reads used. -/
theorem used_doubledState : recOf doubledState 5000 = {} ∧ (recOf (endScan doubledState) 5000).used = true := by
  decide +kernel

/-- Refutes O28, with `doubledState`: its clause on the end of an UNPIN says that every record of another domain stays, but the scan passes
over the table as it is listed, and where a key stands twice it uncovers the second entry. The clause lacks the premise that the records
are canonical, with which it holds (`unpin_completes_of_tabWf`). -/
theorem not_domainSlots : ¬ Obligations.DomainSlots := by
  unfold Obligations.DomainSlots
  intro ⟨_, _, _, _, hscanEnds⟩
  obtain ⟨hunpin, -⟩ := hscanEnds doubledState 7 runs_doubledState
  obtain ⟨t, ht, -, -, -, hrecords⟩ := hunpin rfl
  rw [exec_domainScanComplete runs_doubledState] at ht
  obtain ⟨hbefore, hafter⟩ := used_doubledState
  have hsame := hrecords 5000
  rw [← Host.Outcome.next.inj ht, recOf, finish_pfx, ← recOf, hbefore] at hsame
  rw [hsame] at hafter
  cases hafter

end Sys2Proof.Machine
end

section
/-! SUPPORT. Headers read back (O60): a little-endian field at its offset in a frame (R13), and the headers of R315 to R317, R373, R415,
R416, R519, R520 and R563. -/

namespace Sys2Proof.Machine

open Sys2Proof

/-! ## A field at its offset (R13) -/

theorem leNat_leBytes (n v : Nat) : leNat (leBytes n v) = v % 2 ^ (8 * n) := by
  induction n generalizing v with
  | zero => simp [leBytes, leNat, Nat.mod_one]
  | succ n ih =>
    have hsplit : 2 ^ (8 * (n + 1)) = 256 * 2 ^ (8 * n) := by rw [Nat.mul_succ, Nat.pow_add, Nat.mul_comm]
    rw [leBytes, leNat, ih, BitVec.toNat_ofNat, hsplit, Nat.mod_mul]

/-- A field reads the value that stands there, cut to its bytes. -/
theorem fieldAt_leBytes (n v : Nat) (rest : List Byte) : fieldAt (leBytes n v ++ rest) 0 n = v % 2 ^ (8 * n) := by
  rw [fieldAt, List.drop_zero, List.take_left' (leBytes_length n v), leNat_leBytes]

/-- The last field of a frame. -/
theorem fieldAt_leBytes_last (n v : Nat) : fieldAt (leBytes n v) 0 n = v % 2 ^ (8 * n) := by
  rw [← List.append_nil (leBytes n v), fieldAt_leBytes]

/-- A field beyond what stands first is read from the rest. -/
theorem fieldAt_append_beyond {o : Nat} (first rest : List Byte) (n : Nat) (h : first.length ≤ o) :
    fieldAt (first ++ rest) o n = fieldAt rest (o - first.length) n := by
  rw [fieldAt, fieldAt, List.drop_append, List.drop_eq_nil_of_le h, List.nil_append]

theorem zeros_length (n : Nat) : (zeros n).length = n := List.length_replicate

theorem leNat_zeros (n : Nat) : leNat (zeros n) = 0 := by
  induction n with
  | zero => rfl
  | succ n ih => rw [zeros, List.replicate_succ, leNat, ← zeros, ih]; rfl

theorem fieldAt_zeros (n : Nat) : fieldAt (zeros n) 0 n = 0 := by
  rw [fieldAt, List.drop_zero, List.take_of_length_le (zeros_length n).le, leNat_zeros]

/-- The bits of three flags packed from bit 0 on. -/
theorem testBit_threeFlags (a b c : Bool) :
    (a.toNat + 2 * b.toNat + 4 * c.toNat).testBit 0 = a ∧ (a.toNat + 2 * b.toNat + 4 * c.toNat).testBit 1 = b ∧
      (a.toNat + 2 * b.toNat + 4 * c.toNat).testBit 2 = c ∧ a.toNat + 2 * b.toNat + 4 * c.toNat < 2 ^ 8 := by
  cases a <;> cases b <;> cases c <;> decide

/-! ## RST datagrams (R315 to R317, R319) -/

theorem rstStatuses_rstStatusCode (st : RstStatus) : rstStatuses[rstStatusCode st % 2 ^ 16]? = some st := by
  cases st <;> rfl

theorem headerOf_datagramWire (d : Datagram) (source dest : PartAddr) (port : PortNo) (dscp : Nat) (ok : Bool)
    (hconnection : d.connection < 2 ^ 32) (hseq : d.seq < 2 ^ 32) (hack : d.ack < 2 ^ 32) (hwindow : d.window < 2 ^ 16)
    (hepoch : d.epoch < 2 ^ 32) (hid : d.requestId < 2 ^ 64) (hxfer : d.xfer < 2 ^ 16) (hchunk : d.chunk < 2 ^ 32) :
    headerOf source dest port dscp ok (datagramWire d) = some
      { source := source, dest := dest, connection := d.connection, seq := d.seq, ack := d.ack, window := d.window,
        ackOnly := d.ackOnly, syn := d.syn, reset := d.reset, last := d.last, takeover := d.takeover, append := d.append,
        status := d.status, epoch := d.epoch, requestId := d.requestId, xfer := d.xfer, chunk := d.chunk, port := port,
        bytes := 48 + (chunkBytes d).length, dscp := dscp, gcmOk := ok } := by
  obtain ⟨hackOnly, hsyn, hreset, hbits⟩ := testBit_threeFlags d.ackOnly d.syn d.reset
  obtain ⟨hlast, htakeover, happend, hflags⟩ := testBit_threeFlags d.last d.takeover d.append
  have hbits16 := hbits.trans (by decide : 2 ^ 8 < 2 ^ 16)
  rw [headerOf, datagramWire, transportBytes, messageBytes]
  generalize d.ackOnly.toNat + 2 * d.syn.toNat + 4 * d.reset.toNat = bits at *
  generalize d.last.toNat + 2 * d.takeover.toNat + 4 * d.append.toNat = flags at *
  simp [fieldAt_append_beyond, fieldAt_leBytes, leBytes_length, rstStatuses_rstStatusCode, -Nat.reducePow,
    Nat.mod_eq_of_lt, *]
  omega

/-! ## Roale frames (R415, R416) -/

theorem tagWord_lt {tag : FrameTag} (h : tag.generation < 16) : tagWord tag < 2 ^ 16 := by
  have hslot := tag.slot.isLt
  have hregion := tag.region.isLt
  rw [tagWord]
  omega

theorem fields_tagWord (tag : FrameTag) :
    ({ generation := tagWord tag / 4096, region := Fin.ofNat 64 (tagWord tag / 64), slot := Fin.ofNat 64 (tagWord tag) } : FrameTag) =
      tag := by
  obtain ⟨generation, region, slot⟩ := tag
  have hslot := slot.isLt
  have hregion := region.isLt
  simp only [tagWord, FrameTag.mk.injEq, Fin.ext_iff, Fin.ofNat]
  omega

/-- The trailer of a frame stands behind its 32 bytes of header and its payload, and is good (R416). -/
theorem trailer_roaleFrame (type source dest tenant tag op size status address operand : Nat) (payload : List Byte) :
    fieldAt (roaleFrame type source dest tenant tag op size status address operand payload) (32 + payload.length) 4 = 0 := by
  have hlength (head : List Byte) (h : head.length = 32) : (head ++ payload).length = 32 + payload.length := by
    rw [List.length_append, h]
  rw [roaleFrame, fieldAt_append_beyond _ _ _ (hlength _ (by simp only [List.length_append, leBytes_length, zeros_length])).le,
    hlength _ (by simp only [List.length_append, leBytes_length, zeros_length]), Nat.sub_self, fieldAt_zeros]

theorem frameHeaderOf_roaleFrame (port : RoalePort) (source dest : Member) (tenant : Tenant) (tag : FrameTag)
    {type op size status address operand : Nat} {payload : List Byte} (htag : tag.generation < 16) (hsize : size < 2 ^ 8)
    (haddress : address < 2 ^ 48) (hpayload : payload.length < 2 ^ 16) :
    frameHeaderOf port (roaleFrame type source.val dest.val tenant.val (tagWord tag) op size status address operand payload) =
      { port := port, source := source, dest := dest, tenant := tenant, tag := tag, size := 2 ^ size, address := address,
        poisoned := false } := by
  have hword := tagWord_lt htag
  have htagFields := fields_tagWord tag
  have hsource := source.isLt.trans (by decide : 16 < 2 ^ 8)
  have hdest := dest.isLt.trans (by decide : 16 < 2 ^ 8)
  have htenant := tenant.isLt.trans (by decide : 4096 < 2 ^ 16)
  have haddress64 := haddress.trans (by decide : 2 ^ 48 < 2 ^ 64)
  have hlength : fieldAt (roaleFrame type source.val dest.val tenant.val (tagWord tag) op size status address operand payload) 6 2 =
      payload.length := by
    simp [roaleFrame, fieldAt_append_beyond, fieldAt_leBytes, leBytes_length, -Nat.reducePow, Nat.mod_eq_of_lt, *]
  rw [frameHeaderOf, hlength, trailer_roaleFrame, roaleFrame]
  simp only [Fin.ofNat_eq_cast] at htagFields
  generalize tagWord tag = word at *
  simp [fieldAt_append_beyond, fieldAt_leBytes, leBytes_length, zeros_length, -Nat.reducePow, Nat.mod_eq_of_lt, *]

/-! ## Coded blocks (R373) -/

/-- The byte of the table slot and the RAW bit. -/
theorem slotByte_fields {slot : Nat} (raw : Bool) (h : slot < 4) :
    slot + 4 * raw.toNat < 2 ^ 8 ∧ (slot + 4 * raw.toNat) % 4 = slot ∧ (slot + 4 * raw.toNat).testBit 2 = raw := by
  interval_cases slot <;> cases raw <;> decide

theorem codedOf_codedBytes (b : CodedBlock) (hsize : b.stageASize < 2 ^ 16) (hwire : b.wireSize = b.body.length)
    (hbody : b.wireSize < 2 ^ 16) (hslot : b.slot < 4) (hformat : b.format < 2 ^ 8) (htable : b.tableTag < 2 ^ 8) :
    codedOf (codedBytes b) = b := by
  obtain ⟨hslotByte, hslotField, hraw⟩ := slotByte_fields b.raw hslot
  have hrest : (codedBytes b).drop 8 = b.body :=
    List.drop_left' (by simp only [List.length_append, leBytes_length, zeros_length])
  have hwhole : b.body.take b.wireSize = b.body := List.take_of_length_le hwire.ge
  clear hwire
  rw [codedOf, hrest]
  simp [codedBytes, fieldAt_append_beyond, fieldAt_leBytes, leBytes_length, -Nat.reducePow, Nat.mod_eq_of_lt, *]

/-! ## Frames with a CRC -/

/-- The CRC that follows what it covers is good. -/
theorem crc_good {head : List Byte} {n : Nat} (h : head.length = n) :
    fieldAt (head ++ leBytes 4 (crc32 head).toNat) n 4 = (crc32 ((head ++ leBytes 4 (crc32 head).toNat).take n)).toNat := by
  rw [fieldAt_append_beyond _ _ _ h.le, h, Nat.sub_self, fieldAt_leBytes_last, List.take_left' h]
  exact Nat.mod_eq_of_lt (crc32 head).isLt

/-! ## Event frames (R519, R520) -/

theorem feedBodyBytes_length (b : FeedBody) : (feedBodyBytes b).length = 48 := by
  cases b <;> simp [feedBodyBytes, bodyBytes, leBytes_length, zeros_length]

theorem feedType_declared (b : FeedBody) : 1 ≤ feedType b ∧ feedType b ≤ 6 := by
  cases b <;> simp [feedType]

theorem feedHeadOf_feedFrame (q : Nat) (b : FeedBody) (hq : q < 2 ^ 32) :
    feedHeadOf (feedFrame q b) = { seq := q, crcOk := true, declared := true } := by
  obtain ⟨hlow, hhigh⟩ := feedType_declared b
  have htype : feedType b < 2 ^ 8 := by omega
  have hcrc : fieldAt (feedFrame q b) 60 4 = (crc32 ((feedFrame q b).take 60)).toNat :=
    crc_good (by simp only [List.length_append, leBytes_length, zeros_length, feedBodyBytes_length])
  rw [feedHeadOf, hcrc]
  simp [feedFrame, fieldAt_append_beyond, fieldAt_leBytes, leBytes_length, -Nat.reducePow, Nat.mod_eq_of_lt, *]

/-- A body of a composition is read from an event frame of any type, in which it follows 8 bytes of header. -/
theorem compositionBodyOf_feedFrame (q : Nat) (b : CompositionBody) {body : FeedBody} (hbody : feedBodyBytes body = bodyBytes b)
    (hrole : b.role < 2 ^ 8) (hregions : b.regionCount < 2 ^ 8) (hstacks : b.stackCount < 2 ^ 8) (hkv : b.kvGranules < 2 ^ 32)
    (hslate : b.slateGib < 2 ^ 16) (humber : b.umberGib < 2 ^ 32) (htwin : b.twinRole < 2 ^ 8) (hmember : b.member < 2 ^ 8) :
    compositionBodyOf (feedFrame q body) = b := by
  have hcomposition : b.composition.val < 2 ^ 8 := b.composition.isLt
  have hpackage : b.package.toNat < 2 ^ 8 ∧ decide (b.package.toNat % 2 = 1) = b.package := by cases b.package <;> decide
  rw [compositionBodyOf, feedFrame, hbody, bodyBytes]
  simp [fieldAt_append_beyond, fieldAt_leBytes, leBytes_length, zeros_length, -Nat.reducePow, Nat.mod_eq_of_lt, *]

/-! ## Chain frames (R563) -/

theorem chainHeadOf_chainFrame {dest source seq : Nat} (cmd status : Nat) {payload : List Byte} (hdest : dest < 64)
    (hsource : source < 64) (hseq : seq < 2 ^ 8) (hpayload : payload.length < 2 ^ 8) :
    chainHeadOf (chainFrame dest source cmd seq status payload) = { dest := dest, source := source, seq := seq, crcOk := true } := by
  have hlength : fieldAt (chainFrame dest source cmd seq status payload) 4 1 = payload.length := by
    simp [chainFrame, fieldAt_append_beyond, fieldAt_leBytes, leBytes_length, -Nat.reducePow, Nat.mod_eq_of_lt, *]
  have hcrc : fieldAt (chainFrame dest source cmd seq status payload) (6 + payload.length) 4 =
      (crc32 ((chainFrame dest source cmd seq status payload).take (6 + payload.length))).toNat :=
    crc_good (by simp only [List.length_append, leBytes_length])
  have hdest8 := hdest.trans (by decide : 64 < 2 ^ 8)
  have hsource8 := hsource.trans (by decide : 64 < 2 ^ 8)
  simp only [chainHeadOf]
  rw [hlength, hcrc]
  simp [chainFrame, fieldAt_append_beyond, fieldAt_leBytes, leBytes_length, -Nat.reducePow, Nat.mod_eq_of_lt, *]

/-! ## The obligation -/

/-- Settles O60, one lemma for each header: a field is read from what follows the fields before it, and a CRC from behind what it
covers. -/
theorem headersReadBack : Obligations.HeadersReadBack := by
  unfold Obligations.HeadersReadBack
  refine ⟨?_, ?_, ?_, ?_, ?_, ?_⟩
  · exact headerOf_datagramWire
  · exact fun port source dest tenant tag _ _ _ _ _ _ _ => frameHeaderOf_roaleFrame port source dest tenant tag
  · exact codedOf_codedBytes
  · exact feedHeadOf_feedFrame
  · intro q b hrole hregions hstacks hkv hslate humber htwin hmember
    exact ⟨compositionBodyOf_feedFrame q b rfl hrole hregions hstacks hkv hslate humber htwin hmember,
      compositionBodyOf_feedFrame q b rfl hrole hregions hstacks hkv hslate humber htwin hmember,
      compositionBodyOf_feedFrame q b rfl hrole hregions hstacks hkv hslate humber htwin hmember⟩
  · exact fun _ _ cmd _ status _ => chainHeadOf_chainFrame cmd status

end Sys2Proof.Machine
end

section
/-! SUPPORT. RST datagrams meet the engine (O35): what a row of the RST message table does once the part takes it (R313, R348, R492), and the
ends of a datagram that a peer sent (R316, R377, R385, R453). -/

namespace Sys2Proof.Machine

open Sys2Proof

/-! ## The rows of the RST message table -/

/-- A row gives the header and the message of its datagram to the receiver. -/
theorem exec_rstRow {c : Instr} {h : RstHeader} {m : RstMsg} (hrow : rstOf c = some (h, m)) (s : State) : exec c s = rstRow s h m c := by
  cases c with
  | rstOpen | rstOpened | logAppend | logAck | publishBlock | pubRef | pubAck | pubNeed | offer | offerAck | pull | pageData | claim | grant
  | deny | rstRelease | whoOwns | ownerIs | rstResume | recover | objRead | objData | close | closed | pfxQuery | pfxAnswer =>
    cases hrow
    rfl
  | _ => cases hrow

/-- A frame that the part takes while it is awake has its effect. -/
theorem actFrame_taken {s : State} {c : Instr} (port : PortNo) (cls bytes : Nat) (effect : State → State) (hawake : isAwake s = true) :
    actFrame s true c port cls bytes effect = .next (finish s (effect s)) := by
  rw [actFrame, hawake]
  rfl

theorem rst_received {c : Instr} {s : State} {h : RstHeader} {m : RstMsg} (hrow : rstOf c = some (h, m)) (htakes : takesRst s h = true)
    (hawake : isAwake s = true) : Effect c s (receive s h m) := by
  rw [Effect, exec_rstRow hrow, rstRow, htakes, actFrame_taken _ _ _ _ hawake]

/-- A mirror port is one of the tray's ports that are UP (R414). -/
theorem portIsUp_of_isPassed {s : State} {h : RstHeader} (hpassed : isPassed s h = true) : portIsUp s h.port.val = true := by
  simp only [isPassed, mirrorPorts, Bool.and_eq_true, List.contains_iff_mem, List.mem_filter] at hpassed
  obtain ⟨⟨hport, ⟨hup, -⟩, -⟩, -⟩ := hpassed
  have htray : h.port.val < 12 := by
    generalize h.port = p at hport
    revert p
    decide
  rw [portIsUp, if_pos htray, hup]

/-- A message that the Mirror passed on goes to the engine at once (R492). -/
theorem passed_reachesEngine {c : Instr} {s : State} {h : RstHeader} {m : RstMsg} (hrow : rstOf c = some (h, m)) (htakes : EngineTakes s h) :
    Effect c s (engine s h m) := by
  obtain ⟨hready, hawake, hlock, hpassed, -⟩ := htakes
  have haccepts : takesRst s h = true := by simp [takesRst, hready, hlock, hpassed, portIsUp_of_isPassed hpassed]
  have heffect := rst_received hrow haccepts hawake
  rwa [receive, hpassed, if_pos rfl] at heffect

/-! ## A datagram from a peer -/

section
variable {c : Instr} {s u : State} {h : RstHeader} {m m1 : RstMsg} {k k1 : Connection}

/-- The policing of the port at which a datagram with a message arrives (R453). -/
def metered (s : State) (h : RstHeader) (m : RstMsg) : Bool × State :=
  police s h.port (rstClass (rstType m)) (h.requestId / 2 ^ 52) h.bytes h.dscp

theorem receive_policedOut (hpassed : isPassed s h = false) (hpolice : metered s h m = (false, u)) : receive s h m = u := by
  rw [metered] at hpolice
  simp [receive, hpassed, hpolice, -Nat.reducePow]

theorem receive_badTag (hpassed : isPassed s h = false) (hpolice : metered s h m = (true, u)) (htag : h.gcmOk = false) :
    receive s h m = rejectTag u := by
  rw [metered] at hpolice
  simp [receive, hpassed, hpolice, htag, -Nat.reducePow]

theorem receive_decoded (hpassed : isPassed s h = false) (hpolice : metered s h m = (true, u)) (htag : h.gcmOk = true)
    (hdecode : decodeMessage u m = .ok m1) : receive s h m = onConnection s u h m1 := by
  rw [metered] at hpolice
  simp [receive, hpassed, hpolice, htag, hdecode, -Nat.reducePow]

theorem onConnection_otherIdent (hconn : connOf u h.source = some k) (hident : h.connection ≠ k.ident) : onConnection s u h m = u := by
  simp [onConnection, hconn, hident]

section
variable (hconn : connOf u h.source = some k) (hident : h.connection = k.ident) (hacked : connOf (takeAck u h) h.source = some k1)
include hconn hident hacked

theorem onConnection_next (harrival : arrivalOf k1 h.seq = .next) : onConnection s u h m =
    acknowledge s (deliverAll h.source (k1.heldIn.length + 1) (takeAck u h) h m) h.source := by
  simp [onConnection, hconn, hident, hacked, harrival]

theorem onConnection_held (harrival : arrivalOf k1 h.seq = .held) : onConnection s u h m =
    acknowledge s (setConn (takeAck u h) { k1 with heldIn := k1.heldIn ++ [(h.seq, h, m)] }) h.source := by
  simp [onConnection, hconn, hident, hacked, harrival]

theorem onConnection_discarded (harrival : arrivalOf k1 h.seq = .discarded) :
    onConnection s u h m = acknowledge s (takeAck u h) h.source := by
  simp [onConnection, hconn, hident, hacked, harrival]

end
end

/-! ## The transport's own datagrams and timers (R316) -/

section
variable {s : State} {h : RstHeader}

theorem transportOnly_taken (htakes : takesRst s h = true) (hawake : isAwake s = true) :
    Effect (.rstTransportOnly h) s (transportOnly s h) := by
  change execRstTransportOnly h s = _
  rw [execRstTransportOnly, htakes, actFrame_taken _ _ _ _ hawake]

theorem transportOnly_reset (hreset : h.reset = true) : transportOnly s h = dropConn s h.source := by
  rw [transportOnly, if_pos hreset]

/-- A SYN of a peer without a connection opens one, and acknowledges nothing yet. -/
theorem transportOnly_firstSyn (hreset : h.reset = false) (hsyn : h.syn = true) (hnew : connOf s h.source = none) :
    transportOnly s h = takeSyn s h := by
  simp [transportOnly, hreset, hsyn, hnew]

theorem transportOnly_ack {k : Connection} (hreset : h.reset = false) (hsyn : h.syn = false) (hconn : connOf s h.source = some k)
    (hident : h.connection = k.ident) : transportOnly s h = takeAck s h := by
  simp [transportOnly, hreset, hsyn, hconn, hident]

theorem rstRetransmit_runs {peer : PartAddr} {seq : Nat} (hruns : runs s = true) :
    Effect (.rstRetransmit peer seq) s (retransmit s peer seq) := by
  change execRstRetransmit peer seq s = _
  rw [execRstRetransmit, hruns, act_taken]

section
variable {peer : PartAddr} {seq n : Nat} {k : Connection} {d : Datagram} (hconn : connOf s peer = some k)
  (hunacked : k.unacked.find? (fun x => x.2.seq == seq) = some (n, d))
include hconn hunacked

theorem retransmit_unreachable (hretries : getF s F.xfrRto.retries ≤ n) : retransmit s peer seq = unreachable s peer := by
  simp [retransmit, hconn, hunacked, hretries]

theorem retransmit_again (hretries : n < getF s F.xfrRto.retries) : retransmit s peer seq =
    (sendDatagram (setConn s { k with unacked := k.unacked.map (fun u =>
      if u.2.seq == seq then (n + 1, { d with msg := rawPayload s d.msg }) else u) }) { d with msg := rawPayload s d.msg }).2 := by
  rw [retransmit, hconn]
  simp only [hunacked, if_neg (Nat.not_le.mpr hretries)]

end
end

/-! ## The obligation -/

/-- Settles O35: every row gives its datagram to the receiver, which takes it to the engine where the Mirror passed it on, and otherwise
through policing, tag, block and connection; the transport's own datagrams and timers act on the connection. -/
theorem messagesReachTheEngine : Obligations.MessagesReachTheEngine := by
  unfold Obligations.MessagesReachTheEngine
  refine ⟨fun s h htakes => ?_, ?_, ?_, ?_⟩
  · have hpassed {c : Instr} {m : RstMsg} (hrow : rstOf c = some (h, m)) := passed_reachesEngine hrow htakes
    and_intros <;> intros <;> exact hpassed rfl
  · intro c h m s hrow hready hawake hlock hup haccepts hpassed u
    have htakes : takesRst s h = true := by simp [takesRst, hready, hlock, hup, haccepts]
    have hreceived := rst_received hrow htakes hawake
    refine ⟨fun hpolice => ?_, fun hpolice => ⟨fun htag => ?_, fun m1 k htag hdecode hconn hident => ?_,
      fun m1 k k1 htag hdecode hconn hident hacked => ⟨fun harrival => ?_, fun harrival => ?_, fun harrival => ?_⟩⟩⟩
    · rwa [receive_policedOut hpassed hpolice] at hreceived
    · rwa [receive_badTag hpassed hpolice htag] at hreceived
    · rwa [receive_decoded hpassed hpolice htag hdecode, onConnection_otherIdent hconn hident] at hreceived
    · rwa [receive_decoded hpassed hpolice htag hdecode, onConnection_next hconn hident hacked harrival] at hreceived
    · rwa [receive_decoded hpassed hpolice htag hdecode, onConnection_held hconn hident hacked harrival] at hreceived
    · rwa [receive_decoded hpassed hpolice htag hdecode, onConnection_discarded hconn hident hacked harrival] at hreceived
  · intro h s htakes hawake
    have htaken := transportOnly_taken htakes hawake
    refine ⟨fun hreset => ?_, fun hreset hsyn hnew => ?_, fun k hreset hsyn hconn hident => ?_⟩
    · rwa [transportOnly_reset hreset] at htaken
    · rwa [transportOnly_firstSyn hreset hsyn hnew] at htaken
    · rwa [transportOnly_ack hreset hsyn hconn hident] at htaken
  · intro s peer seq k n d hruns hconn hunacked
    have hruns := rstRetransmit_runs (peer := peer) (seq := seq) hruns
    refine ⟨fun hretries => ?_, fun hretries => ?_⟩
    · rwa [retransmit_unreachable hconn hunacked hretries] at hruns
    · rwa [retransmit_again hconn hunacked hretries] at hruns

end Sys2Proof.Machine
end

section
/-! SUPPORT. PFX_QUERY at the home (R344): a walk that misses, and one that meets a digest collision (against O36, R297). -/

namespace Sys2Proof.Machine

open Sys2Proof

/-! ## A message that the Mirror passed on, with none before it (R180, R492) -/

theorem retryAsks_none {s : State} (hasks : s.xfr.asks = []) : retryAsks s = s := by
  have hxfr : { s.xfr with asks := [] } = s.xfr := by rw [← hasks]
  rw [retryAsks, hasks, List.foldl_nil, hxfr]

theorem engine_noAsks {s : State} (h : RstHeader) (m : RstMsg) (hasks : s.xfr.asks = []) :
    engine s h m = takeMsg (hearMsg s h m) h m := by
  rw [engine, retryAsks_none hasks]

/-- A message that is no part of a handoff's transfer is not heard by any entry (R336). -/
theorem hearMsg_other {m : RstMsg} (s : State) (h : RstHeader) (hother : isTransferMsg m = false) : hearMsg s h m = s := by
  rw [hearMsg]
  split
  · rw [hother, Bool.false_and, if_neg Bool.false_ne_true]
  · rfl

theorem pfxQuery_effect {s : State} {h : RstHeader} (domain pd model adapter : Nat) (tokens : List Nat) (htakes : EngineTakes s h)
    (hlease : canLease s = true) :
    Effect (.pfxQuery h domain pd model adapter tokens) s (onPfxQuery s h domain pd model adapter tokens) := by
  have hengine := passed_reachesEngine (c := .pfxQuery h domain pd model adapter tokens) rfl htakes
  obtain ⟨-, -, -, -, hasks⟩ := htakes
  rwa [engine_noAsks _ _ hasks, hearMsg_other _ _ rfl, takeMsg, onAsk, hlease, if_pos rfl] at hengine

/-! ## The walk of the home's index (R294, R297) -/

section
variable {s : State} {x : WalkCtx} {tokens : List Nat} {take : State → Nat → Nat → Option State} {n i : Nat} {w : Walked}
  (hmiss : findBlock s x w.parent w.digest (blockTokens tokens i) = none)
include hmiss

/-- No way names the digest of the block: the walk ends and changes nothing. -/
theorem walkFrom_miss
    (hway : (findWay s (blockDigest x w.digest (blockTokens tokens i)) x.comp).filter (fun k => !(wayOf s k).collided) = none) :
    walkFrom x tokens take n i w s = (w, s) := by
  cases n with
  | zero => rfl
  | succ n => simp only [walkFrom, hmiss, hway]

/-- A way names the digest with a block of other tokens: the walk ends, and the way collides (R297). -/
theorem walkFrom_collision {k : Nat}
    (hway : (findWay s (blockDigest x w.digest (blockTokens tokens i)) x.comp).filter (fun k => !(wayOf s k).collided) = some k)
    (hparent : (recOf s (wayOf s k).block).parentDigest = w.digest) :
    walkFrom x tokens take (n + 1) i w s = (w, collide s k w.parent) := by
  simp only [walkFrom, hmiss, hway, hparent, beq_self_eq_true, if_true]

end

/-! ## A query whose first block is not found (R344) -/

theorem blockTokens_zero (tokens : List Nat) : blockTokens tokens 0 = tokens.take 64 := rfl

section
variable {s : State} {h : RstHeader} {domain pd model adapter c slot : Nat} {tokens : List Nat} {x : WalkCtx}
  (hcache : cacheCompOf s (h.requestId / 2 ^ 52) = some c)
  (hctx : ledgerCtx s c domain (h.requestId / 2 ^ 52) model adapter = some (x, slot))
  (hmiss : findBlock s x (recordOfDigest s x slot pd) pd (tokens.take 64) = none)
include hcache hctx hmiss

/-- Where no way names the block's digest, the query changes nothing. -/
theorem onPfxQuery_miss (hway : (findWay s (blockDigest x pd (tokens.take 64)) x.comp).filter (fun k => !(wayOf s k).collided) = none) :
    onPfxQuery s h domain pd model adapter tokens = reply s h (.pfxAnswer 0 []) .ok h.epoch := by
  rw [← blockTokens_zero] at hmiss hway
  simp only [onPfxQuery, hcache, hctx]
  rw [walkFrom_miss (w := { parent := recordOfDigest s x slot pd, digest := pd }) hmiss hway]
  rfl

/-- Where a way names the digest with another block of the same parent, the query's walk collides that way (R297). -/
theorem onPfxQuery_collision {k : Nat} (hfull : 64 ≤ tokens.length)
    (hway : (findWay s (blockDigest x pd (tokens.take 64)) x.comp).filter (fun k => !(wayOf s k).collided) = some k)
    (hparent : (recOf s (wayOf s k).block).parentDigest = pd) :
    onPfxQuery s h domain pd model adapter tokens =
      reply (collide s k (recordOfDigest s x slot pd)) h (.pfxAnswer 0 []) .ok h.epoch := by
  rw [← blockTokens_zero] at hmiss hway
  obtain ⟨n, hblocks⟩ := Nat.exists_eq_add_of_lt (show 0 < min 64 (tokens.length / 64) by omega)
  simp only [onPfxQuery, hcache, hctx]
  rw [hblocks, Nat.zero_add, walkFrom_collision (w := { parent := recordOfDigest s x slot pd, digest := pd }) hmiss hway hparent]
  rfl

end

/-- The clause of O36 on a query that misses, with the premise that it lacks: no way names the digest of the block that is sought. -/
theorem pfxQuery_misses {s : State} {h : RstHeader} {domain pd model adapter c slot : Nat} {tokens : List Nat} {x : WalkCtx}
    (htakes : EngineTakes s h) (hlease : canLease s = true) (hcache : cacheCompOf s (h.requestId / 2 ^ 52) = some c)
    (hctx : ledgerCtx s c domain (h.requestId / 2 ^ 52) model adapter = some (x, slot))
    (hmiss : findBlock s x (recordOfDigest s x slot pd) pd (tokens.take 64) = none)
    (hway : (findWay s (blockDigest x pd (tokens.take 64)) x.comp).filter (fun k => !(wayOf s k).collided) = none) :
    Effect (.pfxQuery h domain pd model adapter tokens) s (reply s h (.pfxAnswer 0 []) .ok h.epoch) := by
  have heffect := pfxQuery_effect domain pd model adapter tokens htakes hlease
  rwa [onPfxQuery_miss hcache hctx hmiss hway] at heffect

/-! ## A collided way (R297) -/

@[simp] theorem wayOf_setRec (s : State) (n k : Nat) (x : BlockRec) : wayOf (setRec s n x) k = wayOf s k := rfl

theorem recOf_setRec (s : State) (n m : Nat) (x : BlockRec) : recOf (setRec s n x) m = if m = n then x else recOf s m :=
  tabGet_put _ _ _ _ _

@[simp] theorem wayOf_linkChild (s : State) (parent n k : Nat) : wayOf (linkChild s parent n) k = wayOf s k := rfl

/-- A way that collides stands without its record, where that record finds its place under another one (R297). -/
theorem wayOf_collide {s : State} {k parent : Nat} (hother : parent ≠ (wayOf s k).block) (hused : (recOf s parent).used = true) :
    wayOf (collide s k parent) k = { wayOf s k with collided := true, block := 0 } := by
  have hpfx (t : State) : (satF t F.pfxEvents.collisions).pfx = t.pfx := (keep_satF t _).pfx.resolve_left (by decide)
  have hway : wayOf (satF (setWay s k { wayOf s k with collided := true, block := 0 }) F.pfxEvents.collisions) k =
      { wayOf s k with collided := true, block := 0 } := by
    rw [wayOf, hpfx]
    exact tabGet_put_self _ _ _ _
  have hparent : recOf (satF (setWay s k { wayOf s k with collided := true, block := 0 }) F.pfxEvents.collisions) parent =
      recOf s parent := by
    rw [recOf, hpfx]
    rfl
  simp only [collide, recOf_setRec, if_neg hother, hparent, hused, if_true]
  split <;> simp [hway]

/-! ## A digest collision -/

/-- The Active of a pair: its Mirror, member 4 on port 1, passes messages on (R492), and the transfer engine takes them (R348). -/
def pairedServing : State :=
  { putF serving F.xfrCtl.xfrLock 1 with
    twn := { serving.twn with role := .active }
    lnk := { serving.lnk with twin := some 4, ports := [(1, { state := .up, mode := 2, neighbour := 4 })] } }

/-- Request 7 of tenant 5, as the Mirror on port 1 passes it on. -/
def askedOver1 : RstHeader :=
  { source := 8, dest := 6, connection := 0, seq := 0, ack := 0, window := 0, ackOnly := false, syn := false, reset := false, last := true,
    takeover := false, append := false, status := .ok, epoch := 1, requestId := servedId, xfer := 0, chunk := 0, port := 1, bytes := 304,
    dscp := 0, gcmOk := true }

/-- The index of the CACHE composition 9 in domain 1, whose key is 0, for model 0. -/
def cacheCtx : WalkCtx := { comp := 9, domain := 1, key := 0, model := 0, adapter := 0 }

/-- A first block of 64 tokens. -/
def askedTokens : List Nat := List.replicate 64 3

/-- The first way of a digest's bucket (R287). -/
def firstWay (digest : Nat) : Nat := 4 * (digest % 2 ^ 24)

/-- The home of tenant 5, in its CACHE composition 9. Domain 1 stands in slot 0, whose root is record 1; the first way of the digest's bucket
names record 5000, a first block of the same digest with other tokens. -/
def collidingHome (digest : Nat) : State :=
  { pairedServing with
    sch := { pairedServing.sch with
      comps := [(9, some
        { role := .cache, stackMask := 0, kvOffset := 0, kvGranules := 5000, slateGib := 0, umberGib := 0, fixed := none, pointer := 0,
          unbinding := false })]
      shares := [(shareKey 9 5, some { weight := 1, deficit := 0 })] }
    pfx := { pairedServing.pfx with
      slots := [(0, { domain := 1, owner := 0, key := 0 })]
      ways := [(firstWay digest, { digest := digest, block := 5000, comp := 9, valid := true })]
      records := [(1, { used := true, root := true }),
        (5000, { used := true, digest := digest, comp := 9, domain := 1, inTable := true, tokens := List.replicate 64 4 })] } }

theorem collidingHome_takes (digest : Nat) : EngineTakes (collidingHome digest) askedOver1 := ⟨rfl, rfl, rfl, rfl, rfl⟩

theorem collidingHome_lease (digest : Nat) : canLease (collidingHome digest) = true := rfl

theorem collidingHome_way (digest : Nat) :
    wayOf (collidingHome digest) (firstWay digest) = { digest := digest, block := 5000, comp := 9, valid := true } :=
  if_pos rfl

section
variable {digest : Nat} (hdigest : blockDigest cacheCtx 0 (askedTokens.take 64) = digest)
include hdigest

theorem collidingHome_findWay :
    (findWay (collidingHome digest) (blockDigest cacheCtx 0 (askedTokens.take 64)) cacheCtx.comp).filter
      (fun k => !(wayOf (collidingHome digest) k).collided) = some (firstWay digest) := by
  have hfind : findWay (collidingHome digest) digest cacheCtx.comp = some (firstWay digest) :=
    List.find?_cons_of_pos (a := firstWay digest) (by simp [collidingHome_way, cacheCtx])
  rw [hdigest, hfind]
  simp [collidingHome_way]

/-- The record that the way names holds other tokens, and no tree child of the root holds these. -/
theorem collidingHome_misses : findBlock (collidingHome digest) cacheCtx 1 0 (askedTokens.take 64) = none := by
  have hother : recMatches (recOf (collidingHome digest) 5000) 0 (askedTokens.take 64) = false := rfl
  have hchild : treeChild (collidingHome digest) cacheCtx 1 0 (askedTokens.take 64) = none := rfl
  simp only [findBlock]
  rw [collidingHome_findWay hdigest]
  simp [collidingHome_way, hother, hchild]

/-- The query collides the way. -/
theorem collidingHome_collides : onPfxQuery (collidingHome digest) askedOver1 1 0 0 0 askedTokens =
    reply (collide (collidingHome digest) (firstWay digest) 1) askedOver1 (.pfxAnswer 0 []) .ok 1 :=
  onPfxQuery_collision (c := 9) (slot := 0) rfl rfl (collidingHome_misses hdigest) (by decide) (collidingHome_findWay hdigest)
    (by rw [collidingHome_way]; rfl)

end

theorem reply_pfx (s : State) (h : RstHeader) (m : RstMsg) (st : RstStatus) (epoch : Nat) : (reply s h m st epoch).pfx = s.pfx :=
  (keep_reply s h m st epoch).pfx.resolve_left (by decide)

/-- Refutes O36, with `collidingHome`: its clause of a PFX_QUERY that finds no block says that the answer is all that the query leaves. But a
way may name the digest of the block with other tokens, and then the walk of the query collides that way (R297). The premise that is missing
is that no way names the digest, with which the clause holds (`pfxQuery_misses`). -/
theorem not_homeKeepsLedgers : ¬ Obligations.HomeKeepsLedgers := by
  unfold Obligations.HomeKeepsLedgers
  rintro ⟨-, -, -, -, -, -, -, -, hquery, -⟩
  generalize hdigest : blockDigest cacheCtx 0 (askedTokens.take 64) = digest
  have htakes := collidingHome_takes digest
  have hlease := collidingHome_lease digest
  obtain ⟨-, -, hclaim⟩ := hquery (collidingHome digest) askedOver1 1 0 0 0 askedTokens htakes hlease
  have hclaimed := hclaim 9 cacheCtx 0 rfl rfl (collidingHome_misses hdigest)
  have heffect := pfxQuery_effect 1 0 0 0 askedTokens htakes hlease
  rw [collidingHome_collides hdigest] at heffect
  have hpfx := congrArg State.pfx (Host.Outcome.next.inj (heffect.symm.trans hclaimed))
  rw [finish_pfx, finish_pfx, reply_pfx, reply_pfx] at hpfx
  have hcollided : wayOf (collide (collidingHome digest) (firstWay digest) 1) (firstWay digest) =
      { wayOf (collidingHome digest) (firstWay digest) with collided := true, block := 0 } :=
    wayOf_collide (by rw [collidingHome_way]; exact Nat.ne_of_lt (by decide : 1 < 5000)) rfl
  rw [wayOf, hpfx, ← wayOf, collidingHome_way] at hcollided
  cases hcollided

end Sys2Proof.Machine
end

section
/-! SUPPORT. A block that came from the home's index, in an admission that ends in WRONG_ROLE (against O37, R228, R344). -/

namespace Sys2Proof.Machine

open Sys2Proof

/-- One layer of one head of 17 bytes a row: a page has one granule (R163, R164). -/
def oneLayer : ModelDescriptor := { twoLayers with layers := 1, kvHeads := 1, headDim := 32 }

/-- The handle of the block set that the home named. -/
def namedSet : Nat := 2 ^ 20 + 9

/-- Tenant 5 admits 600 tokens to a GENERATION composition. OPENED has come and the walk is done; the home's index holds the first block,
which request 7 has asked for, into the page at granule 34 (R344). -/
def longAdmission : State :=
  { pairedServing with
    sch := { pairedServing.sch with comps := [(0, some { oneSlot with fixed := some (0, 0, oneLayer) })] }
    rqt := { pairedServing.rqt with
      entries := [(7,
        { state := .admitted, requestId := servedId, tenant := 5, inputEnd := 600, manifest := 1, ownerEpoch := 1, home := 77 })]
      manifests := [(7,
        { directory := 1, historyDir := 2, units := [(0, 3)], historyUnits := [(0, 4)], pages := [(0, { valid := true, page := 34 })] })]
      admissions := [(7, some { tag := 9, walkDone := true, opened := true, query := true })]
      inputs := [(7, some { tokens := List.replicate 600 3, forced := false, after := .commit })]
      tracks := [(7, some (newTrack pairedServing 5 9))]
      reads := [(7, some { handles := [namedSet], next := 0, asked := true, walked := true })] }
    stk := { pairedServing.stk with pages := [(34, { state := .open_, refs := 1, epochOrOwner := 7 })] }
    xfr := { pairedServing.xfr with slots := [(3, some (newTransfer .objRead servedId 7 77 1))] } }

/-- The 4,096 bytes of the block's one page. -/
def blockOfZeros : List Byte := zeros 4096

theorem longAdmission_owns : AtOwner longAdmission askedOver1 7 := by
  unfold AtOwner EngineTakes
  decide +kernel

/-- With the block matched 536 positions are left, more than 512 (R25): the admission closes, and its pages retire. -/
theorem longAdmission_closes :
    (admissionOf (engine longAdmission askedOver1 (.objData namedSet 0 (.native blockOfZeros))) 7).map (·.closing) = some true ∧
      (pageOf (engine longAdmission askedOver1 (.objData namedSet 0 (.native blockOfZeros))) 34).state = .retired := by
  decide +kernel

/-- Refutes O37, with `longAdmission`: its clause of OBJ_DATA says that the pages of the block that was read are SEALED at the end of the
command. But the last block ends the reads of an admission, and one that then still has more than 512 positions to prefill in a GENERATION
composition is WRONG_ROLE: it removes its references, and the pages retire (R25, R174, R228). The premise that is missing is that further
blocks are to be read, or that the admission is not too long. -/
theorem not_ownersHandOff : ¬ Obligations.OwnersHandOff := by
  unfold Obligations.OwnersHandOff
  rintro ⟨-, -, -, -, -, -, -, -, -, -, -, -, -, -, -, -, -, -, -, -, -, hdata, -⟩
  obtain ⟨t, hexec, hsealed⟩ := hdata longAdmission askedOver1 7
    { handles := [namedSet], next := 0, asked := true, walked := true } oneLayer namedSet [] 0 blockOfZeros longAdmission_owns
    rfl rfl rfl rfl rfl (by decide +kernel) rfl
  obtain ⟨htakes, -⟩ := longAdmission_owns
  obtain ⟨-, hretired⟩ := longAdmission_closes
  have heffect := passed_reachesEngine (c := .objData askedOver1 namedSet 0 (.native blockOfZeros)) rfl htakes
  rw [heffect] at hexec
  obtain ⟨hpage, -⟩ := hsealed 0 (by decide)
  have hplace : (pageEntry (manifestOf longAdmission 7) 0 0).page = 34 := rfl
  rw [← Host.Outcome.next.inj hexec, hplace, pageOf, finish_pages, ← pageOf, hretired] at hpage
  cases hpage

end Sys2Proof.Machine
end

section
/-! SUPPORT. Capacity pressure stays shown through every step (O9), and the end of a command changes pressure and output alone (O4). -/

namespace Sys2Proof.Machine

open Sys2Proof

/-! ## Pressure stays shown (R349, R350) -/

/-- The count of discarded frames is none of the fields that pressure is decided by or shown in. -/
theorem pressureKeys_ne_fullDiscards (c : Nat) (hc : c < 256) :
    (F.stkCapWm.low.at c).key ≠ F.tmRxStats.fullDiscards.key ∧ (F.stkCapWm.high.at c).key ≠ F.tmRxStats.fullDiscards.key ∧
      (F.stkCapPressure.stacks.at c).key ≠ F.tmRxStats.fullDiscards.key := by
  simp only [Field.key, Field.at, F.stkCapWm.low, F.stkCapWm.high, F.stkCapPressure.stacks, F.tmRxStats.fullDiscards]
  omega

/-- Pressure is decided by pages, waits, requests, compositions and registers, and shown in a register; the count of discarded frames
has no part in it. -/
theorem pressureOk_congr {s t : State} (hstk : t.stk = s.stk) (hsch : t.sch = s.sch) (hrqt : t.rqt = s.rqt)
    (hfield : ∀ f : Field, f.key ≠ F.tmRxStats.fullDiscards.key → getF t f = getF s f) (hok : Safety.PressureOk s) :
    Safety.PressureOk t := by
  intro c x st hc hx
  obtain ⟨hlow, hhigh, hshown⟩ := pressureKeys_ne_fullDiscards c hc
  have hcomp : compOf s c = some x := by rw [← hx, compOf, compOf, hsch]
  have hslots : slotsLeft t x st = slotsLeft s x st := by simp only [slotsLeft, pageOf, hstk]
  have hwaits : allocWaits t c st = allocWaits s c st := by simp only [allocWaits, entryOf, hstk, hrqt]
  have hunits : freeUnits t = freeUnits s := by rw [freeUnits, freeUnits, hstk, hfield _ (by decide)]
  rw [hslots, hwaits, hunits, hstk, Safety.shown, hfield _ hlow, hfield _ hhigh, hfield _ hshown,
    hfield F.stkCapCtl.manifestLow (by decide)]
  exact hok c x st hc hcomp

/-- Holding a command, or starting a frame, leaves pressure shown as it was. -/
theorem Quietly.pressureOk {s t : State} (h : Quietly s t) : Safety.PressureOk s → Safety.PressureOk t :=
  pressureOk_congr (h.keep.stk.resolve_left (by decide)) (h.keep.sch.resolve_left (by decide))
    (h.keep.rqt.resolve_left (by decide)) h.field

/-- A count of the LMC leaves pressure shown as it was. -/
theorem pressureOk_tick (s : State) (hok : Safety.PressureOk s) : Safety.PressureOk (tick s) := by
  unfold tick
  split
  · exact pressureOk_congr rfl rfl rfl (fun _ _ => rfl) hok
  · exact hok

/-- Every command leaves pressure shown: its end shows it anew, and a command that is held or not taken changes nothing that decides it. -/
theorem pressureOk_exec (c : Instr) {s t : State} (hexec : exec c s = .next t) (hok : Safety.PressureOk s) : Safety.PressureOk t :=
  (settles_exec c s).of Safety.PressureOk pressureOk_finish (fun _ _ h => h.pressureOk) hok t hexec

/-- Settles O9: a step is a count of the LMC or the command at the front, and both leave pressure shown. -/
theorem pressureStaysShown : Obligations.PressureStaysShown := by
  intro s t hstep hok
  cases hq : s.pending with
  | nil =>
    rw [step_nil s hq] at hstep
    cases hstep
    exact pressureOk_tick s hok
  | cons c rest =>
    rw [step_cons c rest s hq] at hstep
    exact pressureOk_exec c hstep (pressureOk_congr rfl rfl rfl (fun _ _ => rfl) hok)

/-! ## The end of a command (R349, R350, R494, R499) -/

/-- The fields that the statements call quiet are those that `Finished` keeps. -/
theorem quietField_eq_isQuiet (f : Field) : quietField f = f.isQuiet := rfl

/-- Settles O4: `Finished` says what the end of a command can change, and each part is one of its lemmas. -/
theorem finishKeepsTheEffect : Obligations.FinishKeepsTheEffect := by
  intro s0 s
  refine ⟨finish_mem s0 s, finish_plt s0 s, finish_pwr s0 s, finish_fab s0 s, finish_ucode s0 s, finish_sch s0 s, finish_pfx s0 s,
    finish_lnk s0 s, finish_coh s0 s, finish_fls s0 s, finish_mtr s0 s, finish_lane s0 s, finish_odt s0 s, finish_pages s0 s,
    finish_wp s0 s, finish_leases s0 s, finish_manifests s0 s, finish_ledgers s0 s, finish_codTables s0 s, finish_entry s0 s, ?_⟩
  intro f hquiet
  exact finish_getF s0 s f (quietField_eq_isQuiet f ▸ hquiet)

end Sys2Proof.Machine
end

section
/-! SUPPORT. Compositions and shares (O29, O30): what binds a region to a composition, what the commands of SCH_COMP_CMD and of
SCH_SHARE_CMD end with, and a lemma for each outcome. -/

namespace Sys2Proof.Machine

open Sys2Proof

/-! ## What the scheduler and the regions hold -/

theorem compOf_of_comps {s t : State} (h : t.sch.comps = s.sch.comps) (c : Nat) : compOf t c = compOf s c := by
  rw [compOf, compOf, h]

theorem shareOf_of_sch {s t : State} (h : t.sch = s.sch) (c k : Nat) : shareOf t c k = shareOf s c k := by
  rw [shareOf, shareOf, h]

theorem compOf_setComp (s : State) (c d : Nat) (x : Option Composition) :
    compOf (setComp s c x) d = if d = c then x else compOf s d :=
  tabGet_put _ _ _ _ _

/-- The regions of a list change their composition and keep the rest; every other region is as before. -/
theorem regionOf_tieRegions (ns : List Nat) (s : State) (c : Option CompNo) (n : Nat) :
    regionOf (tieRegions s ns c) n = if n ∈ ns then { regionOf s n with comp := c } else regionOf s n := by
  induction ns generalizing s with
  | nil => rfl
  | cons m ns ih =>
    have hset : regionOf (setRegion s m { regionOf s m with comp := c }) n =
        if n = m then { regionOf s m with comp := c } else regionOf s n := tabGet_put _ _ _ _ _
    rw [show tieRegions s (m :: ns) c = tieRegions (setRegion s m { regionOf s m with comp := c }) ns c from rfl, ih, hset]
    by_cases hm : n = m
    · subst hm
      simp
    · simp [hm]

theorem tieRegions_sch (s : State) (ns : List Nat) (c : Option CompNo) : (tieRegions s ns c).sch = s.sch :=
  (keep_tieRegions s ns c).sch.resolve_left (by decide)

theorem tieRegions_lane (s : State) (ns : List Nat) (c : Option CompNo) : (tieRegions s ns c).lane = s.lane :=
  (keep_tieRegions s ns c).lane.resolve_left (by decide)

theorem tieRegions_out (s : State) (ns : List Nat) (c : Option CompNo) : (tieRegions s ns c).out = s.out :=
  (keep_tieRegions s ns c).out.resolve_left (by decide)

/-! ## What the end of a command leaves of STATUS, of the scheduler and of the regions (R391, R394) -/

theorem told_schNotify (s : State) : Told s (schNotify s) := told_notify s _ _

theorem getF_finish_schNotify (s0 s : State) (f : Field) (h : f.isQuiet = true) : getF (finish s0 (schNotify s)) f = getF s f := by
  rw [finish_getF _ _ _ h]
  exact (told_schNotify s).field f (isQuiet_isTold h)

theorem getF_finish_compStatus (s0 s : State) {st : Nat} (h : st < 256) :
    getF (finish s0 (compStatus s st)) F.schCompCmd.status = st := by
  rw [compStatus, getF_finish_schNotify _ _ _ (by decide), getF_putF_self]
  exact Nat.mod_eq_of_lt h

theorem finish_compStatus_sch (s0 s : State) (st : Nat) : (finish s0 (compStatus s st)).sch = s.sch := by
  rw [finish_sch, compStatus, (told_schNotify _).sch, putF_sch]

theorem finish_compStatus_fab (s0 s : State) (st : Nat) : (finish s0 (compStatus s st)).fab = s.fab := by
  rw [finish_fab, compStatus, (told_schNotify _).fab, putF_fab]

theorem finish_compStatus_lane (s0 s : State) (st : Nat) : (finish s0 (compStatus s st)).lane = s.lane := by
  rw [finish_lane, compStatus, (told_schNotify _).lane, putF_lane]

/-! ## The meter is told (R393, R519) -/

@[simp] theorem sendFeed_sch (s : State) (b : FeedBody) : (sendFeed s b).sch = s.sch := rfl
@[simp] theorem sendFeed_fab (s : State) (b : FeedBody) : (sendFeed s b).fab = s.fab := rfl

/-- A frame that a command sends ahead of its status is among what the command sends, under the number that was next. -/
theorem sends_finish_compStatus {s u v : State} (b : FeedBody) (st : Nat) (hlane : u.lane = s.lane) (hout : u.out = s.out)
    (hgrows : ∃ l, v.out = l ++ (sendFeed u b).out) : Sends s (finish s (compStatus v st)) (.feed s.lane.nextSeq b) := by
  obtain ⟨l, hl⟩ := finish_out s (compStatus v st)
  obtain ⟨k, hk⟩ := (told_schNotify (putF v F.schCompCmd.status st)).out
  obtain ⟨j, hj⟩ := hgrows
  have hsent : (sendFeed u b).out = .feed s.lane.nextSeq b :: ([.feed s.lane.nextSeq b] ++ s.out) := by
    rw [← hlane, ← hout]
    rfl
  refine ⟨l ++ (k ++ j), [.feed s.lane.nextSeq b], ?_⟩
  rw [hl, compStatus, hk, putF_out, hj, hsent, List.append_assoc, List.append_assoc]

theorem sends_finish_feed {s u : State} (b : FeedBody) (st : Nat) (hlane : u.lane = s.lane) (hout : u.out = s.out) :
    Sends s (finish s (compStatus (sendFeed u b) st)) (.feed s.lane.nextSeq b) :=
  sends_finish_compStatus b st hlane hout ⟨[], rfl⟩

/-- Telling the meter, the status and the end of a command leave the compositions as the effect left them. -/
theorem compOf_finish_feed (s0 u : State) (b : FeedBody) (st d : Nat) :
    compOf (finish s0 (compStatus (sendFeed u b) st)) d = compOf u d :=
  compOf_of_comps (by rw [finish_compStatus_sch, sendFeed_sch]) d

/-- The same of the regions. -/
theorem regionOf_finish_feed (s0 u : State) (b : FeedBody) (st n : Nat) :
    regionOf (finish s0 (compStatus (sendFeed u b) st)) n = regionOf u n :=
  regionOf_of_fab (by rw [finish_compStatus_fab, sendFeed_fab]) n

/-! ## A command of SCH_COMP_CMD is taken (R391) -/

theorem namedRegions_putF (s : State) (f : Field) (v : Nat) (h : F.schBindRegions.regions.key ≠ f.key) :
    namedRegions (putF s f v) = namedRegions s := by
  rw [namedRegions, namedRegions, getF_putF_other _ _ _ _ h]

theorem compCommand_idle {s : State} (hidle : s.sch.cmdBusy = false) (c : CompNo) (effect : State → State) :
    compCommand s c effect = effect (putF s F.schCompCmd.composition c.val) := by
  rw [compCommand, hidle]
  rfl

theorem compCommand_busy {s : State} (hbusy : s.sch.cmdBusy = true) (c : CompNo) (effect : State → State) :
    compCommand s c effect = compStatus s 1 := by
  rw [compCommand, hbusy]
  rfl

end Sys2Proof.Machine
end

section
/-! SUPPORT. BIND (O29): the checks of R387, what a bound composition leaves, and BUSY during an UNBIND. -/

namespace Sys2Proof.Machine

open Sys2Proof

/-! ## What BIND writes before its checks (R409) -/

/-- SCH_COMP_CMD names the composition and the role. -/
def bindFields (s : State) (c : CompNo) (role : Role) : State :=
  putF (putF s F.schCompCmd.composition c.val) F.schCompCmd.role (roleNo role)

/-- No check of BIND, and nothing that a new composition takes its values from, reads SCH_COMP_CMD. -/
theorem getF_bindFields (s : State) (c : CompNo) (role : Role) (f : Field)
    (h : f.key ≠ F.schCompCmd.composition.key ∧ f.key ≠ F.schCompCmd.role.key) : getF (bindFields s c role) f = getF s f := by
  rw [bindFields, getF_putF_other _ _ _ _ h.2, getF_putF_other _ _ _ _ h.1]

theorem namedRegions_bindFields (s : State) (c : CompNo) (role : Role) : namedRegions (bindFields s c role) = namedRegions s := by
  rw [bindFields, namedRegions_putF _ _ _ (by decide), namedRegions_putF _ _ _ (by decide)]

theorem newComp_bindFields (s : State) (c : CompNo) (role : Role) : newComp (bindFields s c role) role = newComp s role := by
  simp (disch := decide) only [newComp, getF_bindFields]

theorem umberGibs_bindFields (s : State) (c : CompNo) (role : Role) : umberGibs (bindFields s c role) = umberGibs s := by
  have hfls : (bindFields s c role).fls = s.fls := rfl
  rw [umberGibs, umberGibs, hfls, getF_bindFields _ _ _ _ (by decide)]

theorem quotasExceed_bindFields (s : State) (c : CompNo) (role : Role) (x : Composition) :
    quotasExceed (bindFields s c role) x = quotasExceed s x := by
  have hcomps : cacheComps (bindFields s c role) = cacheComps s := rfl
  rw [quotasExceed, quotasExceed, umberGibs_bindFields, hcomps, getF_bindFields _ _ _ F.sltStatus.capacityGib (by decide),
    getF_bindFields _ _ _ F.sltCtl.privateGib (by decide), getF_bindFields _ _ _ F.xfrBlockAreaSize.granules (by decide)]

theorem localGranules_bindFields (s : State) (c : CompNo) (role : Role) : localGranules (bindFields s c role) = localGranules s := by
  have hstack : stackGib (bindFields s c role) = stackGib s := rfl
  rw [localGranules, localGranules, hstack, interGib, interGib, getF_bindFields _ _ _ _ (by decide)]

theorem isSet_bindFields (s : State) (c : CompNo) (role : Role) (f : Field)
    (h : f.key ≠ F.schCompCmd.composition.key ∧ f.key ≠ F.schCompCmd.role.key) : isSet (bindFields s c role) f = isSet s f := by
  rw [isSet, isSet, getF_bindFields _ _ _ _ h]

theorem meterUnbound_bindFields (s : State) (c : CompNo) (role : Role) : meterUnbound (bindFields s c role) = meterUnbound s := by
  have hbinding : meterBinding (bindFields s c role) = meterBinding s := rfl
  rw [meterUnbound, meterUnbound, hbinding, isSet_bindFields _ _ _ _ (by decide)]

theorem bindRefusal_bindFields (s : State) (c : CompNo) (role : Role) :
    bindRefusal (bindFields s c role) c role = bindRefusal s c role := by
  have hcomp : compOf (bindFields s c role) c.val = compOf s c.val := rfl
  have hcomps : boundComps (bindFields s c role) = boundComps s := rfl
  have hloose : isLoose (bindFields s c role) = isLoose s := rfl
  rw [bindRefusal, bindRefusal, isSet_bindFields _ _ _ F.stkObjCtl.stkLock (by decide),
    isSet_bindFields _ _ _ F.schCtl.schLock (by decide), meterUnbound_bindFields, hcomp, hcomps, hloose, newComp_bindFields,
    namedRegions_bindFields, localGranules_bindFields, quotasExceed_bindFields]

/-- A BIND that no check refuses names EMPTY regions that belong to no composition (check 4). -/
theorem isLoose_of_bindRefusal {s : State} {c : CompNo} {role : Role} (h : bindRefusal s c role = none) :
    ∀ n ∈ namedRegions s, isLoose s n = true := by
  rw [← List.all_eq_true]
  simp only [bindRefusal] at h
  split_ifs at h with _ _ _ hloose
  simpa using hloose

/-! ## A composition is bound (R387) -/

/-- The composition and its regions, before the meter is told. -/
def boundState (s : State) (c : CompNo) (role : Role) : State :=
  let u := tieRegions (setComp s c.val (some (newComp s role))) (namedRegions s) (some c)
  { u with sch := { u.sch with regionNs := tabPut 0 u.sch.regionNs c.val 0 } }

theorem doBind_refused {s : State} {c : CompNo} {role : Role} {st : Nat} (h : bindRefusal s c role = some st) :
    doBind s c role = compStatus s st := by
  rw [doBind, h]

theorem doBind_bound {s : State} {c : CompNo} {role : Role} (h : bindRefusal s c role = none) : doBind s c role =
    compStatus (sendFeed (boundState s c role) (.bind (compBody (boundState s c role) c (newComp s role)))) 0 := by
  rw [doBind, h]
  rfl

theorem compOf_boundState (s : State) (c : CompNo) (role : Role) (d : Nat) :
    compOf (boundState s c role) d = if d = c.val then some (newComp s role) else compOf s d := by
  have hcomps : (boundState s c role).sch.comps = (setComp s c.val (some (newComp s role))).sch.comps := by
    simp only [boundState, tieRegions_sch]
  rw [compOf_of_comps hcomps, compOf_setComp]

theorem regionOf_boundState (s : State) (c : CompNo) (role : Role) (n : Nat) : regionOf (boundState s c role) n =
    if n ∈ namedRegions s then { regionOf s n with comp := some c } else regionOf s n :=
  regionOf_tieRegions _ _ _ _

theorem boundState_lane (s : State) (c : CompNo) (role : Role) : (boundState s c role).lane = s.lane := tieRegions_lane _ _ _

theorem boundState_out (s : State) (c : CompNo) (role : Role) : (boundState s c role).out = s.out := tieRegions_out _ _ _

/-- The status of a refused BIND is one of those that SCH_COMP_CMD lists. -/
theorem bindRefusal_lt {s : State} {c : CompNo} {role : Role} {st : Nat} (h : bindRefusal s c role = some st) : st < 256 := by
  simp only [bindRefusal] at h
  split_ifs at h <;> simp only [Option.some.injEq] at h <;> omega

/-! ## The obligation -/

section
variable {s : State} {c : CompNo} (role : Role) (hserves : serves s 9 = true) (hawake : isAwake s = true)
include hserves hawake

theorem exec_bind : exec (.bind c role) s =
    .next (finish s (compCommand s c (fun u => doBind (putF u F.schCompCmd.role (roleNo role)) c role))) := by
  change execBind c role s = _
  rw [execBind, hserves, actAwake_taken _ _ _ hawake]

theorem exec_bind_idle (hidle : s.sch.cmdBusy = false) :
    exec (.bind c role) s = .next (finish s (doBind (bindFields s c role) c role)) := by
  rw [exec_bind role hserves hawake, compCommand_idle hidle]
  rfl

theorem bind_busy (hbusy : s.sch.cmdBusy = true) : Effect (.bind c role) s (schNotify (putF s F.schCompCmd.status 1)) := by
  rw [Effect, exec_bind role hserves hawake, compCommand_busy hbusy, compStatus]

theorem bind_refused {st : Nat} (hidle : s.sch.cmdBusy = false) (hrefused : bindRefusal s c role = some st) :
    Completes (.bind c role) s (fun t => getF t F.schCompCmd.status = st ∧ t.sch = s.sch ∧ t.fab = s.fab ∧ t.lane = s.lane) := by
  have hrefused' : bindRefusal (bindFields s c role) c role = some st := by rw [bindRefusal_bindFields, hrefused]
  refine ⟨_, exec_bind_idle role hserves hawake hidle, ?_⟩
  rw [doBind_refused hrefused']
  exact ⟨getF_finish_compStatus _ _ (bindRefusal_lt hrefused), finish_compStatus_sch _ _ _, finish_compStatus_fab _ _ _,
    finish_compStatus_lane _ _ _⟩

theorem bind_binds (hidle : s.sch.cmdBusy = false) (hpasses : bindRefusal s c role = none) : Completes (.bind c role) s (fun t =>
    getF t F.schCompCmd.status = 0 ∧ compOf t c.val = some (newComp s role) ∧
    (∀ d, d ≠ c.val → compOf t d = compOf s d) ∧
    (∀ n ∈ namedRegions s, (regionOf t n).comp = some c ∧ (regionOf t n).state = .empty) ∧
    (∀ n, n ∉ namedRegions s → regionOf t n = regionOf s n) ∧
    (∃ b : CompositionBody, b.composition = c ∧ b.role = roleNo role ∧ b.package = false ∧
      Sends s t (.feed s.lane.nextSeq (.bind b)))) := by
  have hpasses' : bindRefusal (bindFields s c role) c role = none := by rw [bindRefusal_bindFields, hpasses]
  refine ⟨_, exec_bind_idle role hserves hawake hidle, ?_⟩
  rw [doBind_bound hpasses', newComp_bindFields]
  have hcomp (d : Nat) : compOf (boundState (bindFields s c role) c role) d =
      if d = c.val then some (newComp s role) else compOf s d := by
    rw [compOf_boundState, newComp_bindFields]
    rfl
  have hregion (n : Nat) : regionOf (boundState (bindFields s c role) c role) n =
      if n ∈ namedRegions s then { regionOf s n with comp := some c } else regionOf s n := by
    rw [regionOf_boundState, namedRegions_bindFields]
    rfl
  simp only [compOf_finish_feed, regionOf_finish_feed]
  refine ⟨getF_finish_compStatus _ _ (by decide), ?_, ?_, ?_, ?_, ?_⟩
  · rw [hcomp, if_pos rfl]
  · intro d hd
    rw [hcomp, if_neg hd]
  · intro n hn
    have hloose := isLoose_of_bindRefusal hpasses n hn
    rw [hregion, if_pos hn]
    simp only [isLoose, Bool.and_eq_true, beq_iff_eq] at hloose
    exact ⟨rfl, hloose.1⟩
  · intro n hn
    rw [hregion, if_neg hn]
  · refine ⟨compBody (boundState (bindFields s c role) c role) c (newComp s role), rfl, rfl, rfl, ?_⟩
    exact sends_finish_feed _ _ (boundState_lane _ _ _) (boundState_out _ _ _)

end

/-- Settles O29: a BIND is bound, refused by a check, or BUSY. -/
theorem compositionsBind : Obligations.CompositionsBind := by
  intro s c role hserves hawake
  exact ⟨bind_binds role hserves hawake, fun st => bind_refused role hserves hawake, bind_busy role hserves hawake⟩

end Sys2Proof.Machine
end

section
/-! SUPPORT. UNBIND, ADD_REGIONS, REMOVE_REGIONS and SET (O30): a lemma for each outcome of each command. -/

namespace Sys2Proof.Machine

open Sys2Proof

/-! ## What the end of a composition's steps leaves bound (R391) -/

/-- The compositions stand, and each region belongs to the composition that it did. -/
structure TiesStay (s t : State) : Prop where
  comps : t.sch.comps = s.sch.comps
  comp : ∀ n, (regionOf t n).comp = (regionOf s n).comp

namespace TiesStay

variable {s t u : State}

theorem refl (s : State) : TiesStay s s := ⟨rfl, fun _ => rfl⟩

theorem trans (h : TiesStay s t) (k : TiesStay t u) : TiesStay s u :=
  ⟨k.comps.trans h.comps, fun n => (k.comp n).trans (h.comp n)⟩

theorem of_parts (hcomps : t.sch.comps = s.sch.comps) (hfab : t.fab = s.fab) : TiesStay s t :=
  ⟨hcomps, fun n => by rw [regionOf_of_fab hfab]⟩

theorem foldl {α : Type} {g : State → α → State} (h : ∀ t a, TiesStay t (g t a)) (l : List α) (s : State) :
    TiesStay s (l.foldl g s) := by
  induction l generalizing s with
  | nil => exact .refl s
  | cons a l ih => exact (h s a).trans (ih _)

end TiesStay

theorem tiesStay_setRegion (s : State) (n : Nat) (r : Region) (h : r.comp = (regionOf s n).comp) : TiesStay s (setRegion s n r) := by
  obtain ⟨hself, hothers⟩ := regionBecomes_setRegion s n r
  refine ⟨by rw [setRegion_sch], fun m => ?_⟩
  by_cases hm : m = n
  · rw [hm, hself, h]
  · rw [hothers m hm]

theorem tiesStay_freeSave (s : State) (st : Step) : TiesStay s (freeSave s st) := by
  unfold freeSave
  split
  · exact tiesStay_setRegion _ _ _ rfl
  · exact .refl s

theorem tiesStay_freeHeld (s : State) (k : Nat) : TiesStay s (freeHeld s k) := by
  refine TiesStay.foldl (fun t n => ?_) _ s
  split
  · split
    · exact tiesStay_setRegion _ _ _ rfl
    · exact .refl t
  · exact .refl t

theorem tiesStay_endStep (s : State) (k : Nat) : TiesStay s (endStep s k) := by
  unfold endStep
  split
  · next st _ =>
    have hstep (t : State) : TiesStay t (setStep t k none) := .of_parts rfl rfl
    have hresults (t : State) : TiesStay t (dropResults t k) := .of_parts rfl rfl
    exact (((tiesStay_freeSave s st).trans (hstep _)).trans (tiesStay_freeHeld _ k)).trans (hresults _)
  · exact .refl s

/-- What UNBIND removes before it frees the regions: the steps, the entries and the shares. -/
def cleared (s : State) (c : Nat) : State := dropShares (removeComposition (dropSteps s c) c) c

theorem tiesStay_cleared (s : State) (c : Nat) : TiesStay s (cleared s c) := by
  have hsteps : TiesStay s (dropSteps s c) := TiesStay.foldl tiesStay_endStep _ s
  have hkeep := keep_removeComposition (dropSteps s c) c
  have hentries : TiesStay (dropSteps s c) (removeComposition (dropSteps s c) c) :=
    .of_parts (by rw [hkeep.sch.resolve_left (by decide)]) (hkeep.fab.resolve_left (by decide))
  exact (hsteps.trans hentries).trans (.of_parts rfl rfl)

theorem tabGet_drop_of_dropped {α : Type} (d : α) (m : Tab α) (p : Nat → α → Bool) (k : Nat) (h : ∀ v, p k v = true) :
    tabGet d (tabDrop m p) k = d := by
  induction m with
  | nil => rfl
  | cons e m ih =>
    obtain ⟨k', v⟩ := e
    by_cases hdrop : p k' v = true
    · simpa [tabDrop, hdrop] using ih
    · have hk : k' ≠ k := by
        rintro rfl
        exact hdrop (h v)
      simpa [tabDrop, hdrop, tabGet, hk] using ih

theorem shareOf_cleared (s : State) (c tn : Nat) (h : tn < 4096) : shareOf (cleared s c) c tn = none := by
  have hkey : shareKey c tn / 4096 = c := by
    unfold shareKey
    omega
  exact tabGet_drop_of_dropped none _ (fun k _ => k / 4096 == c) _ (fun _ => beq_iff_eq.2 hkey)

/-! ## UNBIND (R391) -/

theorem beginUnbind_eq (s : State) (c : Nat) (x : Composition) : beginUnbind s c x =
    setComp (tieRegions (cleared s c) (regionsOf (cleared s c) c) none) c
      ((compOf (tieRegions (cleared s c) (regionsOf (cleared s c) c) none) c).map
        (fun y => { y with unbinding := true, fixed := y.fixed.or x.fixed })) := rfl

theorem compOf_beginUnbind {s : State} {c : Nat} {x : Composition} (hbound : compOf s c = some x) :
    compOf (beginUnbind s c x) c = some { x with unbinding := true, fixed := x.fixed.or x.fixed } := by
  have hcomp : compOf (tieRegions (cleared s c) (regionsOf (cleared s c) c) none) c = some x := by
    rw [compOf_of_comps (congrArg Scheduler.comps (tieRegions_sch _ _ _)), compOf_of_comps (tiesStay_cleared s c).comps, hbound]
  rw [beginUnbind_eq, compOf_setComp, if_pos rfl, hcomp]
  rfl

theorem shareOf_beginUnbind (s : State) (c : Nat) (x : Composition) (tn : Nat) (h : tn < 4096) :
    shareOf (beginUnbind s c x) c tn = none := by
  have htied : shareOf (beginUnbind s c x) c tn = shareOf (tieRegions (cleared s c) (regionsOf (cleared s c) c) none) c tn := rfl
  rw [htied, shareOf_of_sch (tieRegions_sch _ _ _), shareOf_cleared s c tn h]

/-- Every region of the composition belongs to none now. -/
theorem comp_beginUnbind {s : State} {c : CompNo} (x : Composition) {n : Nat} (hn : n < 64) (hcomp : (regionOf s n).comp = some c) :
    (regionOf (beginUnbind s c.val x) n).comp = none := by
  have hmem : n ∈ regionsOf (cleared s c.val) c.val := by
    simp [regionsOf, hn, (tiesStay_cleared s c.val).comp, hcomp]
  have htied : regionOf (beginUnbind s c.val x) n =
      regionOf (tieRegions (cleared s c.val) (regionsOf (cleared s c.val) c.val) none) n := rfl
  rw [htied, regionOf_tieRegions, if_pos hmem]

/-- Steps 1 to 3 of UNBIND are done, and SCH_COMP_CMD is busy until the pages are free. -/
def unbindingState (s : State) (c : Nat) (x : Composition) : State :=
  { beginUnbind s c x with sch := { (beginUnbind s c x).sch with cmdBusy := true } }

theorem compOf_unbindingState (s : State) (c : Nat) (x : Composition) (d : Nat) :
    compOf (unbindingState s c x) d = compOf (beginUnbind s c x) d := rfl

theorem shareOf_unbindingState (s : State) (c : Nat) (x : Composition) (d tn : Nat) :
    shareOf (unbindingState s c x) d tn = shareOf (beginUnbind s c x) d tn := rfl

theorem regionOf_unbindingState (s : State) (c : Nat) (x : Composition) (n : Nat) :
    regionOf (unbindingState s c x) n = regionOf (beginUnbind s c x) n := rfl

theorem doUnbind_begins {s : State} {c : CompNo} {x : Composition} (hbound : compOf s c.val = some x)
    (hfree : keepsBound s c.val x = false) : doUnbind s c = putF (unbindingState s c.val x) F.schCompCmd.status 8 := by
  rw [doUnbind, hbound]
  simp only [hfree, Bool.false_eq_true, if_false]
  rfl

section
variable {s : State} {c : CompNo} (hserves : serves s 9 = true) (hawake : isAwake s = true) (hidle : s.sch.cmdBusy = false)
include hserves hawake hidle

theorem exec_unbind : exec (.unbind c) s = .next (finish s (doUnbind (putF s F.schCompCmd.composition c.val) c)) := by
  change execUnbind c s = _
  rw [execUnbind, hserves, actAwake_taken _ _ _ hawake, compCommand_idle hidle]

theorem unbind_notBound (hnone : compOf s c.val = none) :
    Effect (.unbind c) s (compStatus (putF s F.schCompCmd.composition c.val) 4) := by
  have hnone' : compOf (putF s F.schCompCmd.composition c.val) c.val = none := hnone
  rw [Effect, exec_unbind hserves hawake hidle, doUnbind, hnone']

variable {x : Composition} (hbound : compOf s c.val = some x)
include hbound

theorem unbind_keptBound (hkept : keepsBound s c.val x = true) :
    Effect (.unbind c) s (compStatus (putF s F.schCompCmd.composition c.val) 7) := by
  have hbound' : compOf (putF s F.schCompCmd.composition c.val) c.val = some x := hbound
  have hkept' : keepsBound (putF s F.schCompCmd.composition c.val) c.val x = true := hkept
  rw [Effect, exec_unbind hserves hawake hidle, doUnbind, hbound']
  simp only [hkept', if_true]

theorem unbind_begins (hfree : keepsBound s c.val x = false) : Completes (.unbind c) s (fun t =>
    getF t F.schCompCmd.status = 8 ∧ t.sch.cmdBusy = true ∧ (∃ y, compOf t c.val = some y ∧ y.unbinding = true ∧ y.role = x.role) ∧
    (∀ tn < 4096, shareOf t c.val tn = none) ∧ (∀ n < 64, (regionOf s n).comp = some c → (regionOf t n).comp = none)) := by
  have hbound' : compOf (putF s F.schCompCmd.composition c.val) c.val = some x := hbound
  have hfree' : keepsBound (putF s F.schCompCmd.composition c.val) c.val x = false := hfree
  refine ⟨_, exec_unbind hserves hawake hidle, ?_⟩
  rw [doUnbind_begins hbound' hfree']
  have hsch (u : State) : (finish s (putF u F.schCompCmd.status 8)).sch = u.sch := by rw [finish_sch, putF_sch]
  refine ⟨?_, ?_, ⟨{ x with unbinding := true, fixed := x.fixed.or x.fixed }, ?_, rfl, rfl⟩, fun tn htn => ?_, fun n hn hcomp => ?_⟩
  · rw [finish_getF _ _ _ (by decide), getF_putF_self]
    rfl
  · rw [hsch]
    rfl
  · rw [compOf_of_comps (congrArg Scheduler.comps (hsch _)), compOf_unbindingState, compOf_beginUnbind hbound']
  · rw [shareOf_of_sch (hsch _), shareOf_unbindingState, shareOf_beginUnbind _ _ _ _ htn]
  · rw [regionOf_finish, regionOf_putF, regionOf_unbindingState]
    exact comp_beginUnbind (s := putF s F.schCompCmd.composition c.val) x hn hcomp

end

/-! ## UNBIND_COMPLETE (R391, R393) -/

/-- The composition is gone and shows no pressure, before its status is told. -/
def goneState (s : State) (c : CompNo) (x : Composition) : State :=
  let u := showPressure (setComp (sendFeed s (.unbind (compBody s c x))) c.val none) c.val 0 0
  { u with sch := { u.sch with cmdBusy := false } }

theorem endUnbind_eq (s : State) (c : CompNo) (x : Composition) : endUnbind s c x = compStatus (goneState s c x) 0 := rfl

theorem compOf_goneState (s : State) (c : CompNo) (x : Composition) : compOf (goneState s c x) c.val = none := by
  have hkeep := keep_showPressure (setComp (sendFeed s (.unbind (compBody s c x))) c.val none) c.val 0 0
  have hshown : compOf (goneState s c x) c.val =
      compOf (showPressure (setComp (sendFeed s (.unbind (compBody s c x))) c.val none) c.val 0 0) c.val := rfl
  rw [hshown, compOf_of_comps (congrArg Scheduler.comps (hkeep.sch.resolve_left (by decide))), compOf_setComp, if_pos rfl]

theorem goneState_out (s : State) (c : CompNo) (x : Composition) :
    ∃ l, (goneState s c x).out = l ++ (sendFeed s (.unbind (compBody s c x))).out :=
  (finished_showPressure (setComp (sendFeed s (.unbind (compBody s c x))) c.val none) c.val 0 0 c.isLt).told.out

theorem unbindComplete_ends {s : State} {c : CompNo} {x : Composition} (hruns : runs s = true) (hbound : compOf s c.val = some x)
    (hunbinding : x.unbinding = true) (hfree : allPagesFree s x = true) : Completes (.unbindComplete c) s (fun t =>
      getF t F.schCompCmd.status = 0 ∧ compOf t c.val = none ∧ t.sch.cmdBusy = false ∧
      Sends s t (.feed s.lane.nextSeq (.unbind (compBody s c x)))) := by
  have hexec : exec (.unbindComplete c) s = execUnbindComplete c s := rfl
  rw [execUnbindComplete] at hexec
  refine completes_act hexec hruns ?_
  simp only [hbound, hunbinding, hfree, Bool.and_self, if_true, endUnbind_eq]
  refine ⟨getF_finish_compStatus _ _ (by decide), ?_, ?_, ?_⟩
  · rw [compOf_of_comps (congrArg Scheduler.comps (finish_compStatus_sch _ _ _)), compOf_goneState]
  · rw [finish_compStatus_sch]
    rfl
  · exact sends_finish_compStatus _ _ rfl rfl (goneState_out s c x)

theorem unbindComplete_waits {s : State} {c : CompNo} {x : Composition} (hruns : runs s = true) (hbound : compOf s c.val = some x)
    (hused : allPagesFree s x = false) : Effect (.unbindComplete c) s s := by
  change execUnbindComplete c s = _
  rw [execUnbindComplete, hruns, act_taken]
  simp only [hbound, hused, Bool.and_false, Bool.false_eq_true, if_false]

/-! ## ADD_REGIONS and REMOVE_REGIONS (R390) -/

theorem namedRegions_compField (s : State) (c : CompNo) :
    namedRegions (putF s F.schCompCmd.composition c.val) = namedRegions s :=
  namedRegions_putF _ _ _ (by decide)

theorem doAddRegions_adds {s : State} {c : CompNo} {x : Composition} (hbound : compOf s c.val = some x) (hrole : x.role ≠ .cache)
    (hloose : (namedRegions s).all (isLoose s) = true) : doAddRegions s c = compStatus (sendFeed (tieRegions s (namedRegions s) (some c))
      (.resource (compBody (tieRegions s (namedRegions s) (some c)) c x))) 0 := by
  simp [doAddRegions, hbound, hrole, hloose]

theorem doRemoveRegions_removes {s : State} {c : CompNo} {x : Composition} (hbound : compOf s c.val = some x)
    (hown : ∀ n ∈ namedRegions s, (regionOf s n).comp = some c)
    (hempty : ∀ n ∈ namedRegions s, isIdle s n = true ∧ holdsContext s n = false) :
    doRemoveRegions s c = compStatus (sendFeed (releaseModel (tieRegions s (namedRegions s) none) c.val)
      (.resource (compBody (releaseModel (tieRegions s (namedRegions s) none) c.val) c x))) 0 := by
  have hown' : (namedRegions s).all (fun n => (regionOf s n).comp == some c) = true := by simpa using hown
  have hempty' : (namedRegions s).all (fun n => isIdle s n && !holdsContext s n) = true := by simpa using hempty
  simp [doRemoveRegions, hbound, hown', hempty']

theorem doRemoveRegions_notEmpty {s : State} {c : CompNo} {x : Composition} (hbound : compOf s c.val = some x)
    (hown : ∀ n ∈ namedRegions s, (regionOf s n).comp = some c) (hbusy : ∃ n ∈ namedRegions s, isIdle s n = false) :
    doRemoveRegions s c = compStatus s 7 := by
  obtain ⟨n, hn, hnot⟩ := hbusy
  have hown' : (namedRegions s).all (fun n => (regionOf s n).comp == some c) = true := by simpa using hown
  have hbusy' : (namedRegions s).all (fun n => isIdle s n && !holdsContext s n) = false :=
    List.all_eq_false.2 ⟨n, hn, by simp [hnot]⟩
  simp [doRemoveRegions, hbound, hown', hbusy']

section
variable {s : State} {c : CompNo} (hserves : serves s 9 = true) (hawake : isAwake s = true) (hidle : s.sch.cmdBusy = false)
include hserves hawake hidle

theorem exec_addRegions : exec (.addRegions c) s = .next (finish s (doAddRegions (putF s F.schCompCmd.composition c.val) c)) := by
  change execAddRegions c s = _
  rw [execAddRegions, hserves, actAwake_taken _ _ _ hawake, compCommand_idle hidle]

theorem exec_removeRegions :
    exec (.removeRegions c) s = .next (finish s (doRemoveRegions (putF s F.schCompCmd.composition c.val) c)) := by
  change execRemoveRegions c s = _
  rw [execRemoveRegions, hserves, actAwake_taken _ _ _ hawake, compCommand_idle hidle]

theorem addRegions_notBound (hnone : compOf s c.val = none) :
    Effect (.addRegions c) s (compStatus (putF s F.schCompCmd.composition c.val) 4) := by
  have hnone' : compOf (putF s F.schCompCmd.composition c.val) c.val = none := hnone
  rw [Effect, exec_addRegions hserves hawake hidle, doAddRegions, hnone']

theorem removeRegions_notBound (hnone : compOf s c.val = none) :
    Effect (.removeRegions c) s (compStatus (putF s F.schCompCmd.composition c.val) 4) := by
  have hnone' : compOf (putF s F.schCompCmd.composition c.val) c.val = none := hnone
  rw [Effect, exec_removeRegions hserves hawake hidle, doRemoveRegions, hnone']

variable {x : Composition} (hbound : compOf s c.val = some x)
include hbound

theorem addRegions_inUse (hrole : x.role ≠ .cache) (hloose : (namedRegions s).all (isLoose s) = false) :
    Effect (.addRegions c) s (compStatus (putF s F.schCompCmd.composition c.val) 2) := by
  have hbound' : compOf (putF s F.schCompCmd.composition c.val) c.val = some x := hbound
  have hloose' : (namedRegions s).all (isLoose (putF s F.schCompCmd.composition c.val)) = false := hloose
  rw [Effect, exec_addRegions hserves hawake hidle]
  simp [doAddRegions, hbound', hrole, namedRegions_compField, hloose']

theorem addRegions_adds (hrole : x.role ≠ .cache) (hloose : (namedRegions s).all (isLoose s) = true) :
    Completes (.addRegions c) s (fun t =>
      getF t F.schCompCmd.status = 0 ∧ (∀ n ∈ namedRegions s, regionOf t n = { regionOf s n with comp := some c }) ∧
      (∀ n, n ∉ namedRegions s → regionOf t n = regionOf s n) ∧ t.sch = s.sch ∧
      (∃ b : CompositionBody, b.composition = c ∧ Sends s t (.feed s.lane.nextSeq (.resource b)))) := by
  have hloose' : (namedRegions (putF s F.schCompCmd.composition c.val)).all (isLoose (putF s F.schCompCmd.composition c.val)) = true := by
    rw [namedRegions_compField]
    exact hloose
  refine ⟨_, exec_addRegions hserves hawake hidle, ?_⟩
  rw [doAddRegions_adds (s := putF s F.schCompCmd.composition c.val) hbound hrole hloose', namedRegions_compField]
  simp only [regionOf_finish_feed, regionOf_tieRegions, regionOf_putF]
  refine ⟨getF_finish_compStatus _ _ (by decide), fun n hn => if_pos hn, fun n hn => if_neg hn, ?_, ?_⟩
  · rw [finish_compStatus_sch, sendFeed_sch, tieRegions_sch, putF_sch]
  · refine ⟨compBody (tieRegions (putF s F.schCompCmd.composition c.val) (namedRegions s) (some c)) c x, rfl, ?_⟩
    exact sends_finish_feed _ _ (tieRegions_lane _ _ _) (tieRegions_out _ _ _)

theorem removeRegions_notEmpty (hown : ∀ n ∈ namedRegions s, (regionOf s n).comp = some c)
    (hbusy : ∃ n ∈ namedRegions s, isIdle s n = false) :
    Effect (.removeRegions c) s (compStatus (putF s F.schCompCmd.composition c.val) 7) := by
  rw [← namedRegions_compField s c] at hown hbusy
  rw [Effect, exec_removeRegions hserves hawake hidle,
    doRemoveRegions_notEmpty (s := putF s F.schCompCmd.composition c.val) hbound hown hbusy]

theorem removeRegions_removes (hown : ∀ n ∈ namedRegions s, (regionOf s n).comp = some c)
    (hempty : ∀ n ∈ namedRegions s, isIdle s n = true ∧ holdsContext s n = false) : Completes (.removeRegions c) s (fun t =>
      getF t F.schCompCmd.status = 0 ∧ (∀ n ∈ namedRegions s, regionOf t n = { regionOf s n with comp := none }) ∧
      (∀ n, n ∉ namedRegions s → regionOf t n = regionOf s n) ∧
      (∃ b : CompositionBody, b.composition = c ∧ Sends s t (.feed s.lane.nextSeq (.resource b)))) := by
  rw [← namedRegions_compField s c] at hown hempty
  have hkeep := keep_releaseModel (tieRegions (putF s F.schCompCmd.composition c.val) (namedRegions s) none) c.val
  have hregion (n : Nat) : regionOf (releaseModel (tieRegions (putF s F.schCompCmd.composition c.val) (namedRegions s) none) c.val) n =
      if n ∈ namedRegions s then { regionOf s n with comp := none } else regionOf s n := by
    rw [regionOf_of_fab (hkeep.fab.resolve_left (by decide)), regionOf_tieRegions]
    rfl
  refine ⟨_, exec_removeRegions hserves hawake hidle, ?_⟩
  rw [doRemoveRegions_removes (s := putF s F.schCompCmd.composition c.val) hbound hown hempty, namedRegions_compField]
  simp only [regionOf_finish_feed, hregion]
  refine ⟨getF_finish_compStatus _ _ (by decide), fun n hn => if_pos hn, fun n hn => if_neg hn, ?_⟩
  refine ⟨compBody (releaseModel (tieRegions (putF s F.schCompCmd.composition c.val) (namedRegions s) none) c.val) c x, rfl, ?_⟩
  exact sends_finish_feed _ _ ((hkeep.lane.resolve_left (by decide)).trans (tieRegions_lane _ _ _))
    ((hkeep.out.resolve_left (by decide)).trans (tieRegions_out _ _ _))

end

/-! ## SET (R394, R395) -/

theorem shareOf_putShare (s : State) (c tn : Nat) (x : Option Share) : shareOf (putShare s c tn x) c tn = x := tabGet_put_self _ _ _ _

section
variable {s : State} {c tn w : Nat}

theorem doSet_notBound (hnone : compOf s c = none) : doSet s tn c w = (1, s) := by
  rw [doSet, hnone]

variable {x : Composition} (hbound : compOf s c = some x) (hstays : x.unbinding = false)
include hbound hstays

theorem doSet_weight (hw : w ≠ 0)
    (hroom : shareOf s c tn ≠ none ∨ tabCount s.sch.shares (fun o => o.isSome) < 16384) : doSet s tn c w =
      (0, putShare s c tn (some { weight := w, deficit := ((shareOf s c tn).map (·.deficit)).getD 0 })) := by
  cases hshare : shareOf s c tn with
  | some sh => simp [doSet, hbound, hstays, hw, hshare]
  | none =>
    have hcount : ¬ 16384 ≤ tabCount s.sch.shares (fun o => o.isSome) := by simpa [hshare] using hroom
    simp [doSet, hbound, hstays, hw, hshare, hcount]

theorem doSet_full (hw : w ≠ 0) (hnone : shareOf s c tn = none)
    (hfull : 16384 ≤ tabCount s.sch.shares (fun o => o.isSome)) : doSet s tn c w = (2, s) := by
  simp [doSet, hbound, hstays, hw, hnone, hfull]

theorem doSet_removes (hunneeded : shareNeeded s c tn x = false) : doSet s tn c 0 = (0, putShare s c tn none) := by
  simp [doSet, hbound, hstays, hunneeded]

theorem doSet_inUse (hshare : shareOf s c tn ≠ none) (hneeded : shareNeeded s c tn x = true) : doSet s tn c 0 = (3, s) := by
  simp [doSet, hbound, hstays, Option.isSome_iff_ne_none.2 hshare, hneeded]

end

/-- SCH_SHARE_CMD names the composition, the tenant and the weight. -/
def shareFields (s : State) (tn : Tenant) (c : CompNo) (w : Nat) : State :=
  putF (putF (putF s F.schShareCmd.composition c.val) F.schShareCmd.tenant tn.val) F.schShareCmd.weight w

/-- SET ends with the status of `doSet` and with the scheduler that it leaves. -/
theorem set_ends {s u : State} {tn : Tenant} {c : CompNo} {w st : Nat} {P : State → Prop} (hserves : serves s 9 = true)
    (hawake : isAwake s = true) (hw : w < 65536) (hdo : doSet (shareFields s tn c w) tn.val c.val w = (st, u)) (hst : st < 256)
    (hP : ∀ t, getF t F.schShareCmd.status = st → t.sch = u.sch → P t) : Completes (.set tn c w) s P := by
  have hexec : exec (.set tn c w) s = .next (finish s (schNotify (putF u F.schShareCmd.status st))) := by
    change execSet tn c w s = _
    rw [execSet, hserves, actAwake_taken _ _ _ hawake, Nat.mod_eq_of_lt hw]
    change Host.Outcome.next (finish s (schNotify (putF (doSet (shareFields s tn c w) tn.val c.val w).2 F.schShareCmd.status
      (doSet (shareFields s tn c w) tn.val c.val w).1))) = _
    rw [hdo]
  refine ⟨_, hexec, hP _ ?_ ?_⟩
  · rw [getF_finish_schNotify _ _ _ (by decide), getF_putF_self]
    exact Nat.mod_eq_of_lt hst
  · rw [finish_sch, (told_schNotify _).sch, putF_sch]

/-! ## The obligation -/

/-- Settles O30, a lemma for each outcome above: UNBIND and its end, the regions that come and go, and SET. -/
theorem compositionsChange : Obligations.CompositionsChange := by
  refine ⟨?_, ?_, ?_, ?_, ?_⟩
  · intro s c hserves hawake hidle
    exact ⟨unbind_notBound hserves hawake hidle, fun x => unbind_keptBound hserves hawake hidle,
      fun x => unbind_begins hserves hawake hidle⟩
  · intro s c x
    exact unbindComplete_ends
  · intro s c x
    exact unbindComplete_waits
  · intro s c hserves hawake hidle
    exact ⟨fun x => addRegions_adds hserves hawake hidle, fun x => addRegions_inUse hserves hawake hidle,
      fun hnone => ⟨addRegions_notBound hserves hawake hidle hnone, removeRegions_notBound hserves hawake hidle hnone⟩,
      fun x => removeRegions_removes hserves hawake hidle, fun x => removeRegions_notEmpty hserves hawake hidle⟩
  · intro s tn c w hserves hawake hw
    refine ⟨?_, ?_, ?_, ?_, ?_⟩
    · intro hnone
      exact set_ends hserves hawake hw (doSet_notBound hnone) (by decide) fun t hstatus hsch => ⟨hstatus, hsch⟩
    · intro x hbound hstays hw0 hroom
      refine set_ends hserves hawake hw (doSet_weight hbound hstays hw0 hroom) (by decide) fun t hstatus hsch => ⟨hstatus, ?_, ?_⟩
      · rw [shareOf_of_sch hsch, shareOf_putShare]
        rfl
      · rw [hsch]
        rfl
    · intro x hbound hstays hw0 hnone hfull
      exact set_ends hserves hawake hw (doSet_full hbound hstays hw0 hnone hfull) (by decide) fun t hstatus hsch => ⟨hstatus, hsch⟩
    · rintro x hbound hstays rfl hunneeded
      refine set_ends hserves hawake hw (doSet_removes hbound hstays hunneeded) (by decide) fun t hstatus hsch => ⟨hstatus, ?_⟩
      rw [shareOf_of_sch hsch, shareOf_putShare]
    · rintro x hbound hstays rfl hshare hneeded
      exact set_ends hserves hawake hw (doSet_inUse hbound hstays hshare hneeded) (by decide) fun t hstatus hsch => ⟨hstatus, hsch⟩

end Sys2Proof.Machine
end

section
/-! SUPPORT. Frames reach memory (O47): what a target does with a frame of a member (R418, R423, R429, R431, R511, R581). -/

namespace Sys2Proof.Machine

open Sys2Proof

/-! ## A frame at its target (R429, R431) -/

section
variable {s u : State} {f : FrameHeader} {cls bytes : Nat} {ok : Bool} {perform : State → RemoteStatus × List Byte × State}
  {answer : RemoteStatus → List Byte → Frame}

theorem serveFrame_unaccepted (h : acceptsFrame s f = false) :
    serveFrame s f cls bytes perform answer = satF s F.lnkStats.unenrolled := by
  simp [serveFrame, h]

theorem serveFrame_departing (haccepts : acceptsFrame s f = true) (h : s.plt.departing ≠ none) :
    serveFrame s f cls bytes perform answer = replyFrame s f (answer .departed []) := by
  simp [serveFrame, haccepts, Option.isSome_iff_ne_none.2 h]

theorem serveFrame_poisoned (haccepts : acceptsFrame s f = true) (hstays : s.plt.departing = none) (h : f.poisoned = true) :
    serveFrame s f cls bytes perform answer = replyFrame s f (answer .poisoned []) := by
  simp [serveFrame, haccepts, hstays, h]

variable (hpolice : police s (roalePort f.port.val) cls f.tenant.val bytes 0 = (ok, u))
include hpolice

/-- Policing reads and sets no barrier. -/
theorem barrierOf_policed (m r : Nat) : barrierOf u m r = barrierOf s m r := by
  have hkeep := keep_police s (roalePort f.port.val) cls f.tenant.val bytes 0
  rw [hpolice] at hkeep
  rw [barrierOf, barrierOf, hkeep.lnk.resolve_left (by decide)]

variable (htaken : FrameTaken s f)
include htaken

/-- A retry barrier keeps out every slot but its own (R429). -/
theorem serveFrame_barred (h : ¬ notBarred u f) :
    serveFrame s f cls bytes perform answer = replyFrame u f (answer .retry []) := by
  obtain ⟨-, -, -, haccepts, hstays, hclean⟩ := htaken
  rw [notBarred, barrierOf_policed hpolice] at h
  cases hslot : barrierOf s f.source.val f.tag.region.val with
  | none => exact absurd (.inl hslot) h
  | some k =>
    have hother : k ≠ f.tag.slot.val := fun e => h (.inr (by rw [hslot, e]))
    simp [serveFrame, haccepts, hstays, hclean, hpolice, hslot, hother]

/-- A frame that no barrier keeps out is answered by its access, or with RETRY where the policers turn it away. -/
theorem serveFrame_open (h : notBarred u f) :
    serveFrame s f cls bytes perform answer =
      (let x := if ok then perform u else (.retry, [], u)
       if x.1 == .retry then
        replyFrame (setBarrier x.2.2 f.source.val f.tag.region.val (some f.tag.slot.val)) f (answer .retry [])
       else replyFrame (setBarrier x.2.2 f.source.val f.tag.region.val none) f (answer x.1 x.2.1)) := by
  obtain ⟨-, -, -, haccepts, hstays, hclean⟩ := htaken
  rw [notBarred, barrierOf_policed hpolice] at h
  rcases h with h | h <;> simp [serveFrame, haccepts, hstays, hclean, hpolice, h]

end

/-- Where no home waits for an agent, the access has an answer (R431; log entry 18). -/
theorem memAccess_ne_retry {s : State} {op : MemOp} {n a x : Nat} {d : List Byte} (hidle : meetsBusy s a n = false) :
    (memAccess s op n a x d).1 ≠ .retry := by
  unfold memAccess
  split_ifs with h1 h2 h3 h4
  · simp
  · simp
  · simp
  · simp [hidle] at h4
  · cases op <;> simp

/-! ## A frame for the part is taken now, or waits for the end of Charcoal (R581) -/

theorem actLink_awake {s : State} {f : FrameHeader} {c : Instr} {cls bytes : Nat} {effect : State → State} (hready : isReady s = true)
    (hawake : isAwake s = true) (hdest : f.dest.val = s.lnk.member) :
    actLink s f c cls bytes effect = .next (finish s (effect s)) := by
  simp [actLink, act, hready, hawake, hdest]

theorem actLink_asleep {s : State} {f : FrameHeader} {c : Instr} {cls bytes : Nat} {effect : State → State} (hready : isReady s = true)
    (hasleep : isAwake s = false) (hdest : f.dest.val = s.lnk.member) (haccepts : acceptsFrame s f = true) :
    actLink s f c cls bytes effect = .next (holdLink s c f.port.val cls bytes) := by
  simp [actLink, hready, hasleep, hdest, haccepts]

/-- A wake event begins the exit where the part is in Charcoal, and leaves what waits. -/
theorem wakePart_pwr (s : State) :
    (wakePart s).pwr.held = s.pwr.held ∧ (s.pwr.state = .charcoal → (wakePart s).pwr.state = .leaving) := by
  unfold wakePart
  split
  · next h => rw [leaveCharcoal_pwr false h]; exact ⟨rfl, fun _ => rfl⟩
  · next h => exact ⟨rfl, fun hc => by rw [h] at hc; cases hc⟩
  · next h _ => exact ⟨rfl, fun hc => absurd hc h⟩

theorem wakeBy_held (s : State) (source : Nat) : (wakeBy s source).pwr.held = s.pwr.held := by
  unfold wakeBy
  split
  · exact (wakePart_pwr s).1
  · rfl

theorem wakeBy_leaves {s : State} {source : Nat} (hstate : s.pwr.state = .charcoal)
    (hwakes : (getF s F.pwrWake.sources).testBit source = true) : (wakeBy s source).pwr.state = .leaving := by
  rw [wakeBy, if_pos hwakes]
  exact (wakePart_pwr s).2 hstate

/-- A frame that waits changes no memory, and wakes the part where PWR_WAKE has TRAY. -/
theorem holdLink_waits (s : State) (c : Instr) (port cls bytes : Nat) :
    (holdLink s c port cls bytes).pwr.held = s.pwr.held ++ [c] ∧ (holdLink s c port cls bytes).mem = s.mem ∧
      (holdLink s c port cls bytes).coh = s.coh ∧
      (s.pwr.state = .charcoal → (getF s F.pwrWake.sources).testBit 2 = true →
        (holdLink s c port cls bytes).pwr.state = .leaving) := by
  have hkeep := keep_wakeBy { s with
    pwr := { s.pwr with held := s.pwr.held ++ [c] }
    tm := { s.tm with received := tabPut 0 s.tm.received (8 * port + cls) (receivedBytes s port cls + bytes) } } 2
  exact ⟨wakeBy_held _ 2, hkeep.mem.resolve_left (by decide), hkeep.coh.resolve_left (by decide),
    fun hstate hwakes => wakeBy_leaves hstate hwakes⟩

/-! ## The rows of MEM_REQ and TENSOR -/

theorem exec_reqOf {c : Instr} {f : FrameHeader} {op : MemOp} {x : Nat} {d : List Byte} (hrow : reqOf c = some (f, op, x, d))
    (s : State) : exec c s = actLink s f c 5 (36 + d.length) (fun u => memReq u f op x d) := by
  unfold reqOf at hrow
  split at hrow <;> cases hrow <;> rfl

section
variable {c : Instr} {f : FrameHeader} {op : MemOp} {x : Nat} {d : List Byte} {s : State} (hrow : reqOf c = some (f, op, x, d))
include hrow

theorem effect_reqOf (hready : isReady s = true) (hawake : isAwake s = true) (hdest : f.dest.val = s.lnk.member) :
    Effect c s (memReq s f op x d) := by
  rw [Effect, exec_reqOf hrow, actLink_awake hready hawake hdest]

variable (htaken : FrameTaken s f) {ok : Bool} {u : State}
  (hpolice : police s (roalePort f.port.val) 5 f.tenant.val (36 + d.length) 0 = (ok, u))
include htaken hpolice

theorem effect_reqOf_served (hok : ok = true) (hopen : notBarred u f) (hidle : meetsBusy u f.address f.size = false) :
    Effect c s (frameAnswered u f op x d) := by
  have hrun : memReq s f op x d = frameAnswered u f op x d := by
    simp [memReq, serveFrame_open hpolice htaken hopen, hok, memAccess_ne_retry hidle, frameAnswered]
  obtain ⟨hready, hawake, hdest, -⟩ := htaken
  exact hrun ▸ effect_reqOf hrow hready hawake hdest

theorem effect_reqOf_policed (hok : ok = false) (hopen : notBarred u f) :
    Effect c s (replyFrame (setBarrier u f.source.val f.tag.region.val (some f.tag.slot.val)) f
      (.memRsp f.source.val f.tag .retry [])) := by
  have hrun := serveFrame_open (perform := fun v => memAccess v op f.size f.address x d)
    (answer := fun st bs => .memRsp f.source.val f.tag st bs) hpolice htaken hopen
  obtain ⟨hready, hawake, hdest, -⟩ := htaken
  simp only [hok, Bool.false_eq_true, if_false, beq_self_eq_true, if_true] at hrun
  exact hrun ▸ effect_reqOf hrow hready hawake hdest

theorem effect_reqOf_barred (hbarred : ¬ notBarred u f) :
    Effect c s (replyFrame u f (.memRsp f.source.val f.tag .retry [])) := by
  have hrun := serveFrame_barred (perform := fun v => memAccess v op f.size f.address x d)
    (answer := fun st bs => .memRsp f.source.val f.tag st bs) hpolice htaken hbarred
  obtain ⟨hready, hawake, hdest, -⟩ := htaken
  exact hrun ▸ effect_reqOf hrow hready hawake hdest

end

/-- A coded block that decodes is stored at its place (R423, R430). -/
theorem effect_tensor_stored {f : FrameHeader} {i total : Nat} {blk : CodedBlock} {s u : State} {bs : List Byte}
    (htaken : FrameTaken s f)
    (hpolice : police s (roalePort f.port.val) 6 f.tenant.val (44 + blk.stageASize) 0 = (true, u)) (hopen : notBarred u f)
    (hdecoded : decodeBlock u blk = .ok bs) (hserved : (memAccess u .store bs.length (f.address + 4096 * i) 0 bs).1 ≠ .retry) :
    Effect (.tensor f i total blk) s (replyFrame
      (setBarrier (memAccess u .store bs.length (f.address + 4096 * i) 0 bs).2.2 f.source.val f.tag.region.val none) f
      (.tensorAck f.source.val f.tag i (memAccess u .store bs.length (f.address + 4096 * i) 0 bs).1)) := by
  have hrun := serveFrame_open (perform := fun v => writeBlock v f i blk)
    (answer := fun st _ => .tensorAck f.source.val f.tag i st) hpolice htaken hopen
  obtain ⟨hready, hawake, hdest, -⟩ := htaken
  have hwritten : writeBlock u f i blk = memAccess u .store bs.length (f.address + 4096 * i) 0 bs := by rw [writeBlock, hdecoded]
  simp only [hwritten, if_true, beq_iff_eq, hserved, if_false] at hrun
  change execTensor f i total blk s = _
  rw [execTensor, actLink_awake hready hawake hdest, hrun]

/-! ## The obligation -/

/-- Settles O47: each row of MEM_REQ is `reqOf`'s frame served at its target, and a barrier, the policers, a departure, poison and
Charcoal are the branches of `serveFrame` and `actLink`. -/
theorem framesReachMemory : Obligations.FramesReachMemory := by
  unfold Obligations.FramesReachMemory
  refine ⟨fun f s u htaken hopen hidle => ⟨fun d hpolice => ?_, fun x w hpolice => ?_, fun hpolice => ?_⟩,
    fun c f op x d s hrow htaken ok u hpolice => ⟨fun hopen hok => ?_, fun hbarred => ?_⟩,
    fun c f op x d s hrow hready hawake hdest => ⟨fun h => ?_, fun haccepts h => ?_, fun haccepts hstays h => ?_⟩,
    fun c f op x d s hrow hready hasleep hdest haccepts => ?_,
    fun f i total blk s bs u hpolice htaken hopen hdecoded hserved => effect_tensor_stored hpolice htaken hopen hdecoded hserved⟩
  · exact effect_reqOf_served rfl htaken hpolice rfl hopen hidle
  · exact effect_reqOf_served (c := .memReqCas f x w) rfl htaken hpolice rfl hopen hidle
  · have hserved {c : Instr} {op : MemOp} {x : Nat} (hrow : reqOf c = some (f, op, x, [])) : Effect c s (frameAnswered u f op x []) :=
      effect_reqOf_served hrow htaken hpolice rfl hopen hidle
    exact ⟨hserved rfl, fun _ => hserved rfl, fun _ => hserved rfl, fun _ => hserved rfl, fun _ => hserved rfl, fun _ => hserved rfl,
      fun _ => hserved rfl⟩
  · exact effect_reqOf_policed hrow htaken hpolice hok hopen
  · exact effect_reqOf_barred hrow htaken hpolice hbarred
  · rw [← serveFrame_unaccepted h]
    exact effect_reqOf hrow hready hawake hdest
  · rw [← serveFrame_departing haccepts h]
    exact effect_reqOf hrow hready hawake hdest
  · rw [← serveFrame_poisoned haccepts hstays h]
    exact effect_reqOf hrow hready hawake hdest
  · refine ⟨_, (exec_reqOf hrow s).trans (actLink_asleep hready hasleep hdest haccepts), ?_⟩
    exact holdLink_waits s c _ _ _

end Sys2Proof.Machine
end

section
/-! SUPPORT. Ports train and forward (O48): a port's course (R411, R414, R417), departures and barriers (R429, R511), forwarding (R419), the
egress (R448) and region accesses (R508). -/

namespace Sys2Proof.Machine

open Sys2Proof

/-- A command that is taken takes its effect. -/
theorem effect_act {c : Instr} {s : State} {taken : Bool} {effect : State → State} (hexec : exec c s = act s taken effect)
    (htaken : taken = true) : Effect c s (effect s) := by
  rw [Effect, hexec, htaken, act_taken]

theorem completes_effect {c : Instr} {s u : State} {P : State → Prop} (heffect : Effect c s u) (h : P (finish s u)) :
    Completes c s P :=
  ⟨_, heffect, h⟩

/-! ## A port's course (R411, R414, R417, R434) -/

theorem portOf_setPort (s : State) (p k : Nat) (x : Port) : portOf (setPort s p x) k = if k = p then x else portOf s k :=
  tabGet_put _ _ _ _ _

/-- A frame that is queued leaves every port as it stands. -/
theorem portOf_enqueue (s : State) (q : PortNo) (f : Frame) (k : Nat) : portOf (enqueue s q f) k = portOf s k := by
  rw [portOf, portOf, (told_enqueue s q f).lnk]

theorem leaveUp_notUp {s : State} {p : Nat} (st : PortState) (h : (portOf s p).state ≠ .up) :
    leaveUp s p st = setPort s p { portOf s p with state := st, neighbour := 0 } := by
  simp [leaveUp, h]

/-- Where no operation is in flight, a port that leaves UP is signalled alone. -/
theorem leaveUp_idle {s : State} {p : Nat} (st : PortState) (h : (portOf s p).state = .up) (hops : s.lnk.ops = []) :
    leaveUp s p st =
      notify (setPort s p { portOf s p with state := st, neighbour := 0 }) F.lnkCtl.notifyEnable F.lnkCtl.vector := by
  simp [leaveUp, h, opsOnPort, setPort, hops]

section
variable {s : State} {p : RoalePort} (hrails : s.plt.mainRails = true)
include hrails

theorem portUp_trains (hmode : getF s (F.lnkPortCfg.mode.at p.val) ≠ 0) (hdown : (portOf s p.val).state ≠ .up) :
    Completes (.portUp p) s (fun t =>
      portOf t p.val = { state := .up, mode := getF s (F.lnkPortCfg.mode.at p.val), neighbour := 16 } ∧
      (∀ k, k ≠ p.val → portOf t k = portOf s k)) := by
  have hexec : exec (.portUp p) s = execPortUp p s := rfl
  rw [execPortUp] at hexec
  refine completes_act hexec (by simp [hrails, hmode, hdown]) ⟨?_, fun k hk => ?_⟩
  · rw [portOf_finish, portOf_enqueue, portOf_setPort, if_pos rfl]
  · rw [portOf_finish, portOf_enqueue, portOf_setPort, if_neg hk]

theorem effect_portDown : Effect (.portDown p) s (leaveUp s p.val .down) := by
  change execPortDown p s = _
  rw [execPortDown, hrails, act_taken]

variable {tray tw : Nat} {m : Member} (hdown : (portOf s p.val).state ≠ .down) (htraining : (portOf s p.val).state ≠ .training)
include hdown htraining

/-- HELLO of another tray, or of one that is not a member (R417). -/
theorem hello_foreign (h : tray ≠ s.lnk.trayId ∨ memberOf s m.val ≠ .enrolled) : Completes (.hello p tray m tw) s (fun t =>
    (portOf t p.val).state = .foreign) := by
  have hexec : exec (.hello p tray m tw) s = execHello p tray m tw s := rfl
  rw [execHello] at hexec
  refine completes_act hexec (by simp [hrails, hdown, htraining]) ?_
  dsimp only
  rw [portOf_finish, if_pos (by simpa using h), portOf_leaveUp]

variable (htray : tray = s.lnk.trayId) (hmember : memberOf s m.val = .enrolled)
include htray hmember

/-- A mirror port takes the twin alone, whose twin is the part (R417). -/
theorem hello_mismatch (hmode : (portOf s p.val).mode = 2) (h : s.lnk.twin ≠ some m.val ∨ tw ≠ s.lnk.member) :
    Completes (.hello p tray m tw) s (fun t => (portOf t p.val).state = .mismatch) := by
  have hexec : exec (.hello p tray m tw) s = execHello p tray m tw s := rfl
  rw [execHello] at hexec
  refine completes_act hexec (by simp [hrails, hdown, htraining]) ?_
  dsimp only
  rw [portOf_finish, if_neg (by simp [htray, hmember]), if_pos ⟨hmode, h⟩, portOf_leaveUp]

theorem hello_up (h : (portOf s p.val).mode ≠ 2 ∨ s.lnk.twin = some m.val ∧ tw = s.lnk.member) :
    Effect (.hello p tray m tw) s (setPort s p.val { portOf s p.val with state := .up, neighbour := m.val }) := by
  have hpair : ¬ ((portOf s p.val).mode = 2 ∧ (s.lnk.twin ≠ some m.val ∨ tw ≠ s.lnk.member)) := by
    rintro ⟨hmode, hother⟩
    rcases h with h | ⟨htwin, hpart⟩
    · exact h hmode
    · exact hother.elim (fun k => k htwin) (fun k => k hpart)
  have hexec : exec (.hello p tray m tw) s = execHello p tray m tw s := rfl
  rw [execHello] at hexec
  have heffect := effect_act hexec (by simp [hrails, hdown, htraining])
  rwa [if_neg (by simp [htray, hmember]), if_neg hpair] at heffect

end

/-! ## Departures, barriers and forwarding (R419, R429, R511) -/

theorem memberOf_setMemberState (s : State) (m k : Nat) (v : MemberState) :
    memberOf (setMemberState s m v) k = if k = m then v else memberOf s k :=
  tabGet_put _ _ _ _ _

theorem memberOf_departing (s : State) (m k : Nat) :
    memberOf (memberLeaves s m .departing) k = if k = m then .departing else memberOf s k :=
  memberOf_setMemberState s m k .departing

/-- No barrier of a member that departs is left (R429). -/
theorem barrierOf_departing (s : State) {m r : Nat} (hr : r < 64) : barrierOf (memberLeaves s m .departing) m r = none := by
  have hkey : barrierKey m r / 64 = m := by
    unfold barrierKey
    omega
  exact tabGet_drop_of_dropped none _ (fun k _ => k / 64 == m) _ (fun _ => beq_iff_eq.2 hkey)

theorem ctrlDepart_departs {s : State} {p : RoalePort} {m : Member} (hrails : s.plt.mainRails = true)
    (hdown : (portOf s p.val).state ≠ .down) (hmember : memberOf s m.val = .enrolled) :
    Completes (.ctrlDepart p m) s (fun t => memberOf t m.val = .departing ∧
      (∀ r < 64, barrierOf t m.val r = none) ∧ ∀ k, k ≠ m.val → memberOf t k = memberOf s k) := by
  have hexec : exec (.ctrlDepart p m) s = execCtrlDepart p m s := rfl
  rw [execCtrlDepart] at hexec
  refine completes_act hexec (by simp [hrails, hdown]) ?_
  have hparts (u : State) : (∀ k, memberOf (finish s u) k = memberOf u k) ∧ ∀ r, barrierOf (finish s u) m.val r = barrierOf u m.val r := by
    simp [memberOf, barrierOf]
  obtain ⟨hmembers, hbarriers⟩ := hparts (memberLeaves s m.val .departing)
  rw [if_pos (by simp [hmember])]
  refine ⟨?_, fun r hr => (hbarriers r).trans (barrierOf_departing s hr), fun k hk => ?_⟩
  · rw [hmembers, memberOf_departing, if_pos rfl]
  · rw [hmembers, memberOf_departing, if_neg hk]

theorem ctrlDepart_again {s : State} {p : RoalePort} {m : Member} (hrails : s.plt.mainRails = true)
    (hdown : (portOf s p.val).state ≠ .down) (hmember : memberOf s m.val ≠ .enrolled) : Effect (.ctrlDepart p m) s s := by
  have hexec : exec (.ctrlDepart p m) s = execCtrlDepart p m s := rfl
  rw [execCtrlDepart] at hexec
  have heffect := effect_act hexec (by simp [hrails, hdown])
  rwa [if_neg (by simpa using hmember)] at heffect

theorem effect_retryBarrierTimeout {s : State} {m : Member} {r : RegionNo} (hready : isReady s = true) :
    Effect (.retryBarrierTimeout m r) s (setBarrier s m.val r.val none) := by
  change execRetryBarrierTimeout m r s = _
  rw [execRetryBarrierTimeout, hready, act_taken]

/-- A frame for another member goes to the port that its issuer names, where that port ends at the member (R419). -/
theorem effect_frameForward {s : State} {p : PortNo} {m : Member} {n : Nat} {cl : Fin 8} {k : Nat} {w : Option Nat}
    (hready : isReady s = true) (hroale : p.val < 12) (hother : m.val ≠ s.lnk.member) (hup : (portOf s p.val).state = .up)
    (hstays : s.plt.departing = none) (hforward : isSet s (F.lnkPortCfg.forward.at p.val) = true)
    (hroute : regionPort s m.val (w.getD 0) = some k) :
    Effect (.frameForward p m n cl w) s
      (if (portOf s k).state == .up && (portOf s k).neighbour == m.val then enqueue s (roalePort k) (.forwarded m.val n cl.val)
       else s) := by
  have hexec : exec (.frameForward p m n cl w) s = execFrameForward p m n cl s w := rfl
  rw [execFrameForward] at hexec
  have heffect := effect_act hexec (by simp [hready, hroale, hother, hup, hstays, hforward])
  simpa only [hroute] using heffect

/-! ## The egress (R448) -/

theorem startFrame_notUp {s : State} {p : PortNo} (h : portIsUp s p.val = false) : startFrame s p = s := by
  simp [startFrame, h]

/-- Queue 0 goes first. -/
theorem startFrame_first {s : State} {p : PortNo} (hup : portIsUp s p.val = true) (hsome : (queueOf s p.val 0).isEmpty = false)
    (hrate : rateAllows s p.val 0 = true) : startFrame s p = sendHead s p 0 := by
  simp only [startFrame, hup, hsome, hrate, Bool.not_true, Bool.not_false, Bool.false_eq_true, if_false, Bool.and_self, if_true]

/-! ## A write into a region (R508, R509) -/

section
variable {s : State} {r : RegionNo} {off : Nat} {bs : List Byte} (hruns : runs s = true)
include hruns

theorem regionAccess_served {w : Option RegionNo} {la : Bool} (hstate : (regionOf s r.val).state = .serving) :
    Effect (.regionAccess r off bs w la) s (emit (writeIvory s r.val off bs) (.regionAnswer r .ok)) := by
  have hexec : exec (.regionAccess r off bs w la) s = execRegionAccess r off bs s w la := rfl
  rw [execRegionAccess] at hexec
  have heffect := effect_act hexec hruns
  cases w <;> simpa [regionAnswer, hstate] using heffect

/-- A refusal that ends nothing at the writer is an answer alone. -/
theorem regionAccess_refused {a : RemoteStatus} {w : Option RegionNo} {la : Bool} (hanswer : regionAnswer s r.val = a) (hne : a ≠ .ok)
    (hgoes : w = none ∨ a = .retry ∧ la = false) : Effect (.regionAccess r off bs w la) s (emit s (.regionAnswer r a)) := by
  have hexec : exec (.regionAccess r off bs w la) s = execRegionAccess r off bs s w la := rfl
  rw [execRegionAccess] at hexec
  have heffect := effect_act hexec hruns
  rcases hgoes with rfl | ⟨rfl, rfl⟩
  · simpa [hanswer, hne] using heffect
  · cases w <;> simpa [hanswer] using heffect

/-- DEPARTED, and RETRY at the last try, abandon the unit of the region whose thread wrote. -/
theorem regionAccess_abandons {a : RemoteStatus} {la : Bool} (n : RegionNo) (hanswer : regionAnswer s r.val = a)
    (hends : a = .departed ∨ a = .retry ∧ la = true) :
    Effect (.regionAccess r off bs (some n) la) s (abandonUnit (emit s (.regionAnswer r a)) n.val) := by
  have hexec : exec (.regionAccess r off bs (some n) la) s = execRegionAccess r off bs s (some n) la := rfl
  rw [execRegionAccess] at hexec
  have heffect := effect_act hexec hruns
  rcases hends with rfl | ⟨rfl, rfl⟩ <;> simpa [hanswer] using heffect

end

/-- A region that loads, or has loaded and does not serve yet, answers RETRY (R508). -/
theorem regionAnswer_retry {s : State} {n : Nat}
    (h : (regionOf s n).state = .loading ∨ (regionOf s n).state = .verifying ∨ (regionOf s n).state = .ready) :
    regionAnswer s n = .retry := by
  rcases h with h | h | h <;> simp [regionAnswer, h]

theorem regionAnswer_departed {s : State} {n : Nat} (h : (regionOf s n).state = .faulted) : regionAnswer s n = .departed := by
  simp [regionAnswer, h]

/-! ## The obligation -/

/-- Settles O48: the branches of each row, with what a port that leaves UP is (`portOf_leaveUp`) and what a departure drops. -/
theorem portsTrainAndForward : Obligations.PortsTrainAndForward := by
  unfold Obligations.PortsTrainAndForward
  refine ⟨fun s p hrails => ⟨fun hmode hdown => portUp_trains hrails hmode hdown, fun hup hops => ?_, fun hdown => ?_⟩,
    fun s p tray m tw hrails hdown htraining => ⟨fun h => hello_foreign hrails hdown htraining h,
      fun htray hmember hmode h => hello_mismatch hrails hdown htraining htray hmember hmode h,
      fun htray hmember h => hello_up hrails hdown htraining htray hmember h⟩,
    fun s p m hrails hdown => ⟨fun hmember => ctrlDepart_departs hrails hdown hmember,
      fun hmember => ctrlDepart_again hrails hdown hmember⟩,
    fun s p m n cl k w hready hroale hother hup hstays hforward hroute => ⟨fun hkup hends => ?_, fun hnot => ?_⟩,
    fun s m r hready => effect_retryBarrierTimeout hready,
    fun s p hready => ⟨?_, fun h => startFrame_notUp h, fun hup hsome hrate => startFrame_first hup hsome hrate⟩,
    fun s r off bs w la hruns => ⟨fun hstate => regionAccess_served hruns hstate, fun hstate => ⟨?_, fun n => ?_⟩,
      fun hstate => ⟨?_, fun n => ?_⟩⟩⟩
  · rw [← leaveUp_idle _ hup hops]
    exact effect_portDown hrails
  · rw [← leaveUp_notUp _ hdown]
    exact effect_portDown hrails
  · have heffect := effect_frameForward (n := n) (cl := cl) hready hroale hother hup hstays hforward hroute
    rwa [if_pos (by simp [hkup, hends])] at heffect
  · have heffect := effect_frameForward (n := n) (cl := cl) hready hroale hother hup hstays hforward hroute
    rwa [if_neg (by simpa [Classical.or_iff_not_imp_left] using hnot)] at heffect
  · change execEgressFrameStart p s = _
    rw [execEgressFrameStart, if_pos hready]
  · exact regionAccess_refused hruns (regionAnswer_retry hstate) (by decide) (.inr ⟨rfl, rfl⟩)
  · exact regionAccess_abandons hruns n (regionAnswer_retry hstate) (.inr ⟨rfl, rfl⟩)
  · exact regionAccess_refused hruns (regionAnswer_departed hstate) (by decide) (.inl rfl)
  · exact regionAccess_abandons hruns n (regionAnswer_departed hstate) (.inl rfl)

end Sys2Proof.Machine
end

section
/-! SUPPORT. Threads use the tray (O49): issue (R420, R421, R425), completion (R427, R431, R432), replies and retries (R431, R433, R434). -/

namespace Sys2Proof.Machine

open Sys2Proof

/-! ## Output before the end of a command -/

/-- What was sent stays sent to the command's end. -/
theorem sends_finish_of_sends {s u : State} {o : Output} (h : Sends s u o) (s0 : State) : Sends s (finish s0 u) o := by
  obtain ⟨l, k, hout⟩ := h
  obtain ⟨l', hfinish⟩ := finish_out s0 u
  exact ⟨l' ++ l, k, by rw [hfinish, hout, List.append_assoc]⟩

/-! ## Completion at the thread (R427, R431, R432) -/

/-- The parts that a thread's completion leaves alone, and what it sends. -/
structure TellsThread (s t : State) (o : Output) : Prop where
  mem : t.mem = s.mem
  coh : t.coh = s.coh
  ops : t.lnk.ops = s.lnk.ops
  opQueue : t.lnk.opQueue = s.lnk.opQueue
  denied : getF t F.lnkFault.valid = getF s F.lnkFault.valid
  out : ∃ l, t.out = l ++ o :: s.out

theorem tellThread_out (s : State) (r : Nat) (x : RemoteOp) (st : RemoteStatus) (bs : List Byte) :
    (tellThread s r x st bs).out = .remoteDone (regionNo r) x.thread st (if st = .ok then bs else []) :: s.out := by
  unfold tellThread
  extract_lets s1 s2 s3
  have h2 : s2.out = s.out := by
    simp only [s2, s1]
    split
    · exact (keep_satF _ _).out.resolve_left (by decide)
    · rfl
  have h3 : s3.out = s2.out := by
    simp only [s3]
    split
    · split <;> rfl
    · rfl
  simp [emit, h3, h2]

/-- Of the fields a thread's completion writes the counters of R444 alone. -/
theorem getF_tellThread (s : State) (r : Nat) (x : RemoteOp) (st : RemoteStatus) (bs : List Byte) (f : Field)
    (hops : f.key ≠ F.lnkStats.remoteOps.key) (htimeouts : f.key ≠ F.lnkStats.timeouts.key) :
    getF (tellThread s r x st bs) f = getF s f := by
  unfold tellThread
  extract_lets s1 s2 s3
  have h1 : getF s1 f = getF s f := getF_putF_other _ _ _ _ hops
  have h2 : getF s2 f = getF s1 f := by
    simp only [s2]
    split
    · exact getF_satF_other _ _ _ htimeouts
    · rfl
  have h3 : getF s3 f = getF s2 f := by
    simp only [s3]
    split
    · split <;> rfl
    · rfl
  exact h3.trans (h2.trans h1)

theorem endFence_parts (s : State) (r t : Nat) : (endFence s r t).lnk.ops = s.lnk.ops ∧ (endFence s r t).lnk.opQueue = s.lnk.opQueue ∧
    ∃ l, (endFence s r t).out = l ++ s.out := by
  unfold endFence
  split
  · exact ⟨rfl, rfl, [], rfl⟩
  · exact ⟨rfl, rfl, [_], rfl⟩

theorem endAtThread_parts (s : State) (r : Nat) (x : RemoteOp) (st : RemoteStatus) :
    (endAtThread s r x st).lnk.ops = s.lnk.ops ∧ (endAtThread s r x st).lnk.opQueue = s.lnk.opQueue ∧
      ∃ l, (endAtThread s r x st).out = l ++ s.out := by
  unfold endAtThread
  split
  · extract_lets k _ s1
    have h1 : s1.lnk.ops = s.lnk.ops ∧ s1.lnk.opQueue = s.lnk.opQueue ∧ s1.out = s.out := by
      simp only [s1]
      split <;> exact ⟨rfl, rfl, rfl⟩
    obtain ⟨hops, hqueue, hout⟩ := h1
    obtain ⟨hops', hqueue', l, hout'⟩ := endFence_parts s1 r x.thread
    exact ⟨hops'.trans hops, hqueue'.trans hqueue, l, by rw [hout', hout]⟩
  · exact ⟨rfl, rfl, [], rfl⟩

/-- An operation completes at its thread. -/
theorem endOfOp_tells (s : State) (r : Nat) (x : RemoteOp) (st : RemoteStatus) (bs : List Byte) :
    TellsThread s (endAtThread (tellThread s r x st bs) r x st)
      (.remoteDone (regionNo r) x.thread st (if st = .ok then bs else [])) := by
  have htell := keep_tellThread s r x st bs
  have hend := keep_endAtThread (tellThread s r x st bs) r x st
  have hlnk : (tellThread s r x st bs).lnk = s.lnk := htell.lnk.resolve_left (by decide)
  obtain ⟨hops, hqueue, l, hout⟩ := endAtThread_parts (tellThread s r x st bs) r x st
  exact {
    mem := (hend.mem.resolve_left (by decide)).trans (htell.mem.resolve_left (by decide))
    coh := (hend.coh.resolve_left (by decide)).trans (htell.coh.resolve_left (by decide))
    ops := by rw [hops, hlnk]
    opQueue := by rw [hqueue, hlnk]
    denied := by
      rw [getF_of_fields (hend.fields.resolve_left (by decide)), getF_tellThread _ _ _ _ _ _ (by decide) (by decide)]
    out := ⟨l, by rw [hout, tellThread_out]⟩ }

theorem TellsThread.sends {s t : State} {o : Output} (h : TellsThread s t o) : Sends s t o := by
  obtain ⟨l, hout⟩ := h.out
  exact ⟨l, [], by rw [hout, List.nil_append]⟩

@[simp] theorem regionNo_val (r : RegionNo) : regionNo r.val = r := Fin.ext (Nat.mod_eq_of_lt r.isLt)

/-! ## Issue (R420, R421, R425) -/

/-- The operation that a thread asks for at a tray address. -/
def askedOp (s : State) (r th : Nat) (op : MemOp) (a n x : Nat) (d : List Byte) (de : Option Nat) : RemoteOp :=
  { member := a / 2 ^ 48 % 16, thread := th, tenant := unitTenant s r, kind := .mem op, size := n, address := a % 2 ^ 48
    operand := x, data := d, dest := de }

section
variable {s : State} {r th : Nat} {op : MemOp} {a n x : Nat} {d : List Byte} {de : Option Nat}

theorem issueOp_badShape (h : opShapeOk (.mem op) (a % 2 ^ 48) n = false) :
    issueOp s r th (.mem op) a n x d de =
      endAtThread (tellThread s r (askedOp s r th op a n x d de) .addressError []) r (askedOp s r th op a n x d de) .addressError := by
  simp only [issueOp, h, Bool.not_false, if_true, askedOp]

variable (hshape : opShapeOk (.mem op) (a % 2 ^ 48) n = true)
include hshape

theorem issueOp_denied (hother : a / 2 ^ 48 % 16 ≠ s.lnk.member)
    (hdenied : twtCovers s (.mem op) (unitTenant s r) (a / 2 ^ 48 % 16) (a % 2 ^ 48) n = false) :
    issueOp s r th (.mem op) a n x d de =
      endAtThread (tellThread (recordDenied s r (unitTenant s r) (a % 2 ^ 52)) r (askedOp s r th op a n x d de) .denied []) r
        (askedOp s r th op a n x d de) .denied := by
  simp only [issueOp, hshape, hother, hdenied, Bool.not_true, Bool.not_false, Bool.false_eq_true, if_false, if_true, askedOp]

theorem issueOp_local (hself : a / 2 ^ 48 % 16 = s.lnk.member) :
    issueOp s r th (.mem op) a n x d de =
      (let m := memAccess s op n (a % 2 ^ 48) x d
       endAtThread (tellThread m.2.2 r (askedOp s r th op a n x d de) m.1 m.2.1) r (askedOp s r th op a n x d de) m.1) := by
  simp only [issueOp, hshape, hself, Bool.not_true, Bool.false_eq_true, if_false, if_true, localOp, askedOp]

end

/-- The record of an access DENIED is there, whether it is the first or not (R444). -/
theorem isSet_recordDenied (s : State) (r tenant address : Nat) : isSet (recordDenied s r tenant address) F.lnkFault.valid = true := by
  unfold recordDenied latch
  by_cases hset : isSet s F.lnkFault.valid = true
  · simp only [if_pos hset]
    rw [isSet, getF_putF_other _ _ _ _ (by decide)]
    exact hset
  · simp only [if_neg hset]
    rw [isSet, (told_notify _ _ _).field _ (by decide), getF_putF_self]
    rfl

/-- The record signals its vector at most. -/
theorem recordDenied_out (s : State) (r tenant address : Nat) : ∃ l, (recordDenied s r tenant address).out = l ++ s.out := by
  unfold recordDenied latch
  by_cases hset : isSet s F.lnkFault.valid = true
  · simp only [if_pos hset]
    exact ⟨[], rfl⟩
  · simp only [if_neg hset]
    exact (told_notify _ _ _).out

section
variable {s : State} {r : RegionNo} {th : Fin 16} (hthread : threadRuns s r.val th.val = true)
include hthread

theorem remoteOpIssue_effect (k : RemoteKind) (a n x : Nat) (d : List Byte) (de : Option Nat) :
    Effect (.remoteOpIssue r th k a n x d de) s (issueOp s r.val th.val k a n x d de) := by
  change execRemoteOpIssue r th k a n x d s de = _
  rw [execRemoteOpIssue, hthread, act_taken]

section
variable {op : MemOp} {a n x : Nat} {d : List Byte} {de : Option Nat}

theorem remoteOp_badShape (h : opShapeOk (.mem op) (a % 2 ^ 48) n = false) :
    Completes (.remoteOpIssue r th (.mem op) a n x d de) s (fun t =>
      Sends s t (.remoteDone r th.val .addressError []) ∧ t.mem = s.mem ∧ t.coh = s.coh ∧ t.lnk.ops = s.lnk.ops) := by
  have heffect := remoteOpIssue_effect hthread (.mem op) a n x d de
  rw [issueOp_badShape h] at heffect
  refine completes_effect heffect ?_
  have htells := endOfOp_tells s r.val (askedOp s r.val th.val op a n x d de) .addressError []
  rw [finish_mem, finish_coh, finish_lnk]
  refine ⟨?_, htells.mem, htells.coh, htells.ops⟩
  simpa [askedOp] using sends_finish_of_sends htells.sends s

variable (hshape : opShapeOk (.mem op) (a % 2 ^ 48) n = true)
include hshape

theorem remoteOp_denied (hother : a / 2 ^ 48 % 16 ≠ s.lnk.member)
    (hdenied : twtCovers s (.mem op) (unitTenant s r.val) (a / 2 ^ 48 % 16) (a % 2 ^ 48) n = false) :
    Completes (.remoteOpIssue r th (.mem op) a n x d de) s (fun t =>
      Sends s t (.remoteDone r th.val .denied []) ∧ t.mem = s.mem ∧ t.coh = s.coh ∧ isSet t F.lnkFault.valid = true) := by
  have heffect := remoteOpIssue_effect hthread (.mem op) a n x d de
  rw [issueOp_denied hshape hother hdenied] at heffect
  refine completes_effect heffect ?_
  have hrecord := keep_recordDenied s r.val (unitTenant s r.val) (a % 2 ^ 52)
  have htells := endOfOp_tells (recordDenied s r.val (unitTenant s r.val) (a % 2 ^ 52)) r.val
    (askedOp s r.val th.val op a n x d de) .denied []
  rw [finish_mem, finish_coh, isSet, finish_getF _ _ _ (by decide)]
  refine ⟨?_, htells.mem.trans (hrecord.mem.resolve_left (by decide)), htells.coh.trans (hrecord.coh.resolve_left (by decide)), ?_⟩
  · obtain ⟨k, hk⟩ := recordDenied_out s r.val (unitTenant s r.val) (a % 2 ^ 52)
    obtain ⟨l, hl⟩ := htells.out
    have hsends : Sends s _ _ := ⟨l, k, hl.trans (by rw [hk])⟩
    simpa [askedOp] using sends_finish_of_sends hsends s
  · rw [htells.denied]
    exact isSet_recordDenied _ _ _ _

theorem remoteOp_local (hself : a / 2 ^ 48 % 16 = s.lnk.member) :
    Completes (.remoteOpIssue r th (.mem op) a n x d de) s (fun t =>
      let m := memAccess s op n (a % 2 ^ 48) x d
      Sends s t (.remoteDone r th.val m.1 (if m.1 = .ok then m.2.1 else [])) ∧ t.mem = m.2.2.mem ∧ t.coh = m.2.2.coh) := by
  have heffect := remoteOpIssue_effect hthread (.mem op) a n x d de
  rw [issueOp_local hshape hself] at heffect
  refine completes_effect heffect ?_
  have hout : (memAccess s op n (a % 2 ^ 48) x d).2.2.out = s.out := (keep_memAccess _ _ _ _ _ _).out.resolve_left (by decide)
  rw [finish_mem, finish_coh]
  generalize memAccess s op n (a % 2 ^ 48) x d = m at hout ⊢
  have htells := endOfOp_tells m.2.2 r.val (askedOp s r.val th.val op a n x d de) m.1 m.2.1
  refine ⟨?_, htells.mem, htells.coh⟩
  obtain ⟨l, hl⟩ := htells.out
  have hsends : Sends s _ _ := ⟨l, [], hl.trans (by rw [hout, List.nil_append])⟩
  simpa [askedOp] using sends_finish_of_sends hsends s

end

/-! ## Fences (R432) -/

/-- A thread at its fence: it is parked, and the fence stands. -/
def fenced (s : State) (r t : Nat) : State :=
  { park s r t true with lnk := { s.lnk with fences := tabPut false s.lnk.fences (threadKey r t) true } }

omit hthread in
theorem fences_fenced (s : State) (r t : Nat) : tabGet false (fenced s r t).lnk.fences (threadKey r t) = true :=
  tabGet_put_self false s.lnk.fences (threadKey r t) true

omit hthread in
theorem endFence_fenced_waits {r t : Nat} (h : postedLeft s r t = true) : endFence (fenced s r t) r t = fenced s r t := by
  have hleft : postedLeft (fenced s r t) r t = true := h
  simp [endFence, hleft]

/-- The thread's fence has ended, with nothing left of its posted operations. -/
def unfenced (s : State) (r t : Nat) : State :=
  { fenced s r t with lnk := { (fenced s r t).lnk with
      fences := tabPut false (fenced s r t).lnk.fences (threadKey r t) false
      postedBad := tabPut none s.lnk.postedBad (threadKey r t) none } }

omit hthread in
theorem unfenced_lnk (s : State) (r t : Nat) : tabGet false (unfenced s r t).lnk.fences (threadKey r t) = false ∧
    tabGet none (unfenced s r t).lnk.postedBad (threadKey r t) = none :=
  ⟨tabGet_put_self false (fenced s r t).lnk.fences (threadKey r t) false,
    tabGet_put_self none s.lnk.postedBad (threadKey r t) none⟩

omit hthread in
theorem unfenced_out (s : State) (r t : Nat) : (unfenced s r t).out = s.out := rfl

omit hthread in
theorem endFence_fenced_ends {r t : Nat} (h : postedLeft s r t = false) :
    endFence (fenced s r t) r t = emit (park (unfenced s r t) r t false)
      (.remoteDone (regionNo r) t ((tabGet none s.lnk.postedBad (threadKey r t)).getD .ok) []) := by
  have hleft : postedLeft (fenced s r t) r t = false := h
  have hbad : (fenced s r t).lnk.postedBad = s.lnk.postedBad := rfl
  simp only [endFence, hleft, hbad, fences_fenced, Bool.not_true, Bool.or_self, Bool.false_eq_true, if_false, unfenced]

omit hthread in
theorem thread_park (s : State) (r t : Nat) (on : Bool) : tabGet false (regionOf (park s r t on) r).threads t = on := by
  unfold park
  rw [(regionBecomes_setRegion s r _).self]
  exact tabGet_put_self _ _ _ _

theorem remoteFence_effect : Effect (.remoteFence r th) s (endFence (fenced s r.val th.val) r.val th.val) := by
  change execRemoteFence r th s = _
  rw [execRemoteFence, hthread, act_taken]
  rfl

theorem fence_waits (h : postedLeft s r.val th.val = true) : Completes (.remoteFence r th) s (fun t =>
    tabGet false (regionOf t r.val).threads th.val = true ∧ tabGet false t.lnk.fences (threadKey r.val th.val) = true) := by
  have heffect := remoteFence_effect hthread
  rw [endFence_fenced_waits h] at heffect
  refine completes_effect heffect ?_
  rw [regionOf_finish, finish_lnk]
  exact ⟨thread_park s _ _ _, fences_fenced _ _ _⟩

theorem fence_ends (h : postedLeft s r.val th.val = false) : Completes (.remoteFence r th) s (fun t =>
    tabGet false (regionOf t r.val).threads th.val = false ∧ tabGet false t.lnk.fences (threadKey r.val th.val) = false ∧
    tabGet none t.lnk.postedBad (threadKey r.val th.val) = none ∧
    Sends s t (.remoteDone r th.val ((tabGet none s.lnk.postedBad (threadKey r.val th.val)).getD .ok) [])) := by
  have heffect := remoteFence_effect hthread
  rw [endFence_fenced_ends h] at heffect
  refine completes_effect heffect ?_
  obtain ⟨hfences, hbad⟩ := unfenced_lnk s r.val th.val
  rw [regionOf_finish, finish_lnk, emit_lnk, park, setRegion_lnk, regionNo_val]
  refine ⟨thread_park (unfenced s r.val th.val) _ _ _, hfences, hbad, sends_finish ?_⟩
  rw [emit, setRegion_out, unfenced_out]

end

/-! ## Replies (R431, R433, R434) -/

section
variable {s : State} {f : FrameHeader} {st : RemoteStatus} {d : List Byte} {x : RemoteOp} {i : Nat} (hhere : frameHere s f = true)
  (hop : opOf s f.tag.region.val f.tag.slot.val = some x)
  (hgen : f.tag.generation % 16 = tabGet 0 s.lnk.generations (opKey f.tag.region.val f.tag.slot.val))

include hop hgen in
/-- A reply of the slot's present generation names the operation there. -/
theorem replyOp_current : replyOp s f = (some x, s) := by
  simp [replyOp, hgen, hop]

include hhere hop hgen

theorem memRsp_effect : Effect (.memRsp f st d) s
    (if f.poisoned then completeOp s f.tag.region.val f.tag.slot.val .poisoned []
     else if st == .retry then retryOp s f.tag.region.val f.tag.slot.val x []
     else completeOp s f.tag.region.val f.tag.slot.val st d) := by
  have hexec : exec (.memRsp f st d) s = execMemRsp f st d s := rfl
  rw [execMemRsp] at hexec
  have heffect := effect_act hexec hhere
  simpa only [replyOp_current hop hgen] using heffect

theorem tensorAck_effect : Effect (.tensorAck f i st) s
    (if f.poisoned then completeOp s f.tag.region.val f.tag.slot.val .poisoned []
     else if st == .retry then retryOp s f.tag.region.val f.tag.slot.val x [i]
     else if st == .ok then
      if (x.left.filter (· != i)).isEmpty then completeOp s f.tag.region.val f.tag.slot.val .ok []
      else setOp s f.tag.region.val f.tag.slot.val
        (some { x with left := x.left.filter (· != i), again := x.again.filter (· != i) })
     else completeOp s f.tag.region.val f.tag.slot.val st []) := by
  have hexec : exec (.tensorAck f i st) s = execTensorAck f i st s := rfl
  rw [execTensorAck] at hexec
  have heffect := effect_act hexec hhere
  simpa only [replyOp_current hop hgen] using heffect

end

/-- A reply of an older generation is counted alone (R434). -/
theorem memRsp_late {s : State} {f : FrameHeader} {st : RemoteStatus} {d : List Byte} (hhere : frameHere s f = true)
    (hold : f.tag.generation % 16 ≠ tabGet 0 s.lnk.generations (opKey f.tag.region.val f.tag.slot.val)) :
    Effect (.memRsp f st d) s (satF s F.lnkStats.lateReplies) := by
  have hreply : replyOp s f = (none, satF s F.lnkStats.lateReplies) := by simp [replyOp, hold]
  have hexec : exec (.memRsp f st d) s = execMemRsp f st d s := rfl
  rw [execMemRsp] at hexec
  have heffect := effect_act hexec hhere
  simpa only [hreply] using heffect

theorem replyTimeout_effect {s : State} {r : RegionNo} {k : Fin 64} {x : RemoteOp} (hruns : runs s = true)
    (hop : opOf s r.val k.val = some x) :
    Effect (.replyTimeout r k) s (completeOp s r.val k.val (if x.waiting then .retry else .timeout) []) := by
  have hexec : exec (.replyTimeout r k) s = execReplyTimeout r k s := rfl
  rw [execReplyTimeout] at hexec
  have heffect := effect_act hexec hruns
  simpa only [hop] using heffect

/-- The operations that wait are issued again once the oldest may be (R433). -/
theorem retryReissue_effect {s : State} {r : RegionNo} {k : Fin 64} {x : RemoteOp} (hruns : runs s = true)
    (hop : opOf s r.val k.val = some x) :
    Effect (.retryReissue r k) s
      (if ((waitingOps s r.val x.member).head?).map (·.1) != some k.val then s
       else (waitingOps s r.val x.member).foldl (fun u e => reissue u r.val e) s) := by
  have hexec : exec (.retryReissue r k) s = execRetryReissue r k s := rfl
  rw [execRetryReissue] at hexec
  have heffect := effect_act hexec hruns
  simpa only [hop] using heffect

/-! ## An operation ends (R431, R434) -/

/-- An operation that is not posted frees its slot, and its thread runs again with the status, where nothing waits for a slot. -/
theorem completeOp_ends {s : State} {r k : Nat} {x : RemoteOp} {st : RemoteStatus} {bs : List Byte} (hop : opOf s r k = some x)
    (hqueue : s.lnk.opQueue = []) (hposted : isPosted x = false) :
    opOf (completeOp s r k st bs) r k = none ∧ tabGet false (regionOf (completeOp s r k st bs) r).threads x.thread = false ∧
    (∃ l, (completeOp s r k st bs).out = .remoteDone (regionNo r) x.thread st (if st = .ok then bs else []) :: l) := by
  unfold completeOp
  simp only [hop]
  generalize hfreed : (if (st == .timeout || st == .linkDown) = true then _ else setOp s r k none) = s2
  have hlnk : s2.lnk.ops = tabPut none s.lnk.ops (opKey r k) none ∧ s2.lnk.opQueue = [] := by
    rw [← hfreed]
    split <;> exact ⟨rfl, hqueue⟩
  have htells := endOfOp_tells s2 r x st bs
  rw [htells.opQueue, hlnk.2, List.length_nil, fillSlots]
  refine ⟨?_, ?_, ?_⟩
  · rw [opOf, htells.ops, hlnk.1]
    exact tabGet_put_self _ _ _ _
  · rw [endAtThread, hposted, if_neg Bool.false_ne_true]
    exact thread_park _ _ _ _
  · rw [endAtThread, hposted, if_neg Bool.false_ne_true]
    exact ⟨_, tellThread_out _ _ _ _ _⟩

/-! ## The obligation -/

/-- Settles O49: each branch of `issueOp`, of a fence and of a reply, with what a completion tells its thread (`endOfOp_tells`). -/
theorem threadsUseTheTray : Obligations.ThreadsUseTheTray := by
  unfold Obligations.ThreadsUseTheTray
  refine ⟨fun s r th k a n x d de hthread => ⟨remoteOpIssue_effect hthread k a n x d de, ?_, ?_, ?_⟩,
    fun s r th hthread => ⟨fun h => fence_waits hthread h, fun h => fence_ends hthread h⟩,
    fun s f st d x hhere hop hgen => ?_,
    fun s f st d hhere hold => memRsp_late hhere hold,
    fun s r k x hruns hop => ⟨replyTimeout_effect hruns hop, fun hfirst => ?_, fun hother => ?_⟩,
    fun s r k x st bs hop hqueue _ hposted => completeOp_ends hop hqueue hposted⟩
  · rintro op rfl hshape
    exact remoteOp_badShape hthread hshape
  · rintro op rfl hshape hother hdenied
    exact remoteOp_denied hthread hshape hother hdenied
  · rintro op rfl _ hshape hself
    exact remoteOp_local hthread hshape hself
  · have hrsp (st : RemoteStatus) := memRsp_effect (st := st) (d := d) hhere hop hgen
    have hack (i : Nat) (st : RemoteStatus) := tensorAck_effect (i := i) (st := st) hhere hop hgen
    refine ⟨fun hclean hst => ?_, fun hclean => ?_, fun i hclean => ?_, fun i hclean hleft => ?_, fun hpoisoned => ⟨fun i => ?_, ?_⟩⟩
    · simpa [hclean, hst] using hrsp st
    · simpa [hclean] using hrsp .retry
    · simpa [hclean] using hack i .retry
    · simpa [hclean, hleft] using hack i .ok
    · simpa [hpoisoned] using hack i st
    · simpa [hpoisoned] using hrsp st
  · simpa [hfirst] using retryReissue_effect hruns hop
  · simpa [hother] using retryReissue_effect hruns hop

end Sys2Proof.Machine
end

section
/-! SUPPORT. What a line of 128 bytes reads as (R437, R440): its Modified copy or memory, and what writes of caches, homes and memory
leave of it. -/

namespace Sys2Proof.Machine

open Sys2Proof

/-! ## Entries of a sparse array -/

section
variable {α : Type} [DecidableEq α] {d v : α} {m : Tab α} {k : Nat}

theorem mem_tabPut {e : Nat × α} (h : e ∈ tabPut d m k v) : e = (k, v) ∨ e ∈ m := by
  unfold tabPut at h
  split at h
  · rw [tabDel_eq_filter] at h
    exact .inr (List.mem_filter.1 h).1
  · exact mem_tabIns m k v e h

omit [DecidableEq α] in
theorem filter_tabIns (p : Nat × α → Bool) (hp : ∀ x, p (k, x) = false) : (tabIns m k v).filter p = m.filter p := by
  induction m with
  | nil => simp [tabIns, hp]
  | cons e m ih =>
    obtain ⟨k', v'⟩ := e
    unfold tabIns
    split
    · next heq => simp [heq, hp]
    · split
      · simp [hp]
      · simp [List.filter_cons, ih]

/-- A write leaves every selection that does not look at its key. -/
theorem filter_tabPut (p : Nat × α → Bool) (hp : ∀ x, p (k, x) = false) : (tabPut d m k v).filter p = m.filter p := by
  unfold tabPut
  split
  · rw [tabDel_eq_filter, List.filter_filter]
    refine List.filter_congr (fun e _ => ?_)
    by_cases hk : e.1 = k
    · have hnot : p e = false := by rw [← hp e.2, ← hk]
      simp [hnot]
    · simp [hk]
  · exact filter_tabIns p hp

omit [DecidableEq α] in
theorem length_filter_tabIns_le (p : Nat × α → Bool) (hp : p (k, v) = false) :
    ((tabIns m k v).filter p).length ≤ (m.filter p).length := by
  induction m with
  | nil => simp [tabIns, hp]
  | cons e m ih =>
    obtain ⟨k', v'⟩ := e
    unfold tabIns
    split
    · simp only [List.filter_cons, hp, Bool.false_eq_true, if_false]
      split <;> simp
    · split
      · simp [List.filter_cons, hp]
      · simp only [List.filter_cons]
        split <;> simp [ih]

/-- A write of a value that a selection passes over makes the selection no longer. -/
theorem length_filter_tabPut_le (p : Nat × α → Bool) (hp : p (k, v) = false) :
    ((tabPut d m k v).filter p).length ≤ (m.filter p).length := by
  unfold tabPut
  split
  · rw [tabDel_eq_filter]
    exact (List.filter_sublist.filter p).length_le
  · exact length_filter_tabIns_le p hp

omit [DecidableEq α] in
/-- What is read and is not the default is listed. -/
theorem mem_of_tabGet_ne (h : tabGet d m k ≠ d) : (k, tabGet d m k) ∈ m := by
  induction m with
  | nil => exact absurd rfl h
  | cons e m ih =>
    obtain ⟨k', v'⟩ := e
    by_cases hk : k' = k
    · simp [tabGet, hk]
    · simp only [tabGet, hk, if_false] at h ⊢
      exact List.mem_cons_of_mem _ (ih h)

end

/-! ## Copies and homes -/

theorem lineKey_mod {a l : Nat} (hl : l < 2 ^ 41) : lineKey a l % 2 ^ 41 = l := by
  unfold lineKey
  omega

theorem lineKey_div {a l : Nat} (hl : l < 2 ^ 41) : lineKey a l / 2 ^ 41 = a := by
  unfold lineKey
  omega

theorem cacheLine_setCacheLine_self (s : State) (a l : Nat) (c : CacheLine) : cacheLine (setCacheLine s a l c) a l = c :=
  tabGet_put_self _ _ _ _

theorem cacheLine_setCacheLine_other (s : State) {a b : Nat} (l : Nat) (c : CacheLine) (h : b ≠ a) :
    cacheLine (setCacheLine s a l c) b l = cacheLine s b l := by
  refine tabGet_put_other _ _ _ ?_
  unfold lineKey
  omega

theorem homeLine_setHomeLine_self (s : State) (l : Nat) (h : HomeLine) : homeLine (setHomeLine s l h) l = h :=
  tabGet_put_self _ _ _ _

@[simp] theorem setHomeLine_lines (s : State) (k : Nat) (h : HomeLine) : (setHomeLine s k h).coh.lines = s.coh.lines := rfl

@[simp] theorem homeLine_setCacheLine (s : State) (a k : Nat) (c : CacheLine) (l : Nat) :
    homeLine (setCacheLine s a k c) l = homeLine s l := rfl

@[simp] theorem homeLine_storeLine (s : State) (k : Nat) (bs : List Byte) (l : Nat) : homeLine (storeLine s k bs) l = homeLine s l := rfl

@[simp] theorem homeLine_tellData (s : State) (a k : Nat) (bs : List Byte) (poisoned : Bool) (l : Nat) :
    homeLine (tellData s a k bs poisoned) l = homeLine s l := rfl

@[simp] theorem cacheLine_setHomeLine (s : State) (k : Nat) (h : HomeLine) (a l : Nat) :
    cacheLine (setHomeLine s k h) a l = cacheLine s a l := rfl

@[simp] theorem cacheLine_storeLine (s : State) (k : Nat) (bs : List Byte) (a l : Nat) :
    cacheLine (storeLine s k bs) a l = cacheLine s a l := rfl

@[simp] theorem cacheLine_tellData (s : State) (b k : Nat) (bs : List Byte) (poisoned : Bool) (a l : Nat) :
    cacheLine (tellData s b k bs poisoned) a l = cacheLine s a l := rfl

/-- A copy of another line stands. -/
theorem modifiedCopy_setCacheLine_other (s : State) (a : Nat) {l k : Nat} (c : CacheLine) (hl : l < 2 ^ 41) (h : k ≠ l) :
    modifiedCopy (setCacheLine s a l c) k = modifiedCopy s k := by
  have hkey := lineKey_mod (a := a) hl
  simp only [modifiedCopy, setCacheLine, ← List.head?_filter]
  rw [filter_tabPut _ (fun x => by simp only [hkey, beq_eq_false_iff_ne.2 (Ne.symm h), Bool.false_and])]

/-- The lines that another agent holds stand. -/
theorem heldLines_setCacheLine_other (s : State) {a b l : Nat} (c : CacheLine) (hl : l < 2 ^ 41) (h : b ≠ a) :
    heldLines (setCacheLine s a l c) b = heldLines s b := by
  have hkey := lineKey_div (a := a) hl
  simp only [heldLines, setCacheLine]
  rw [filter_tabPut _ (fun x => by simp only [hkey, beq_eq_false_iff_ne.2 (Ne.symm h), Bool.false_and])]

/-! ## What a line reads as (R440) -/

/-- Every Modified copy of line `l` holds `d`. -/
def CopiesAre (s : State) (l : Nat) (d : List Byte) : Prop :=
  ∀ e ∈ s.coh.lines, e.1 % 2 ^ 41 = l → e.2.state = .modified → e.2.data = d

/-- Line `l` reads as the bytes `d`. -/
def LineReads (s : State) (l : Nat) (d : List Byte) : Prop := ∀ a, a / 128 = l → memByte s a = (d[a % 128]?).getD 0

/-- Every line but `l` reads the same. -/
def ElsewhereSame (s t : State) (l : Nat) : Prop := ∀ a, a / 128 ≠ l → memByte t a = memByte s a

theorem lineBytes_length (s : State) (l : Nat) : (lineBytes s l).length = 128 := tabGetRun_length _ _ _ _

/-- A line of which nothing differs from memory reads as memory has it. -/
theorem lineReads_of_memory {s : State} {l : Nat} {d : List Byte} (hcopies : CopiesAre s l d) (hmem : lineBytes s l = d) :
    LineReads s l d := by
  intro a ha
  unfold memByte modifiedCopy
  rw [ha]
  cases hfind : s.coh.lines.find? (fun e => e.1 % 2 ^ 41 == l && e.2.state == .modified) with
  | some e =>
    have he := List.find?_some hfind
    simp only [Bool.and_eq_true, beq_iff_eq] at he
    simp only [Option.map_some, hcopies e (List.mem_of_find?_eq_some hfind) he.1 he.2]
  | none =>
    have hlt : a % 128 < (lineBytes s l).length := by
      rw [lineBytes_length]
      omega
    have hbyte : (lineBytes s l)[a % 128] = tabGet 0 s.mem (l * 128 + a % 128) := getElem_tabGetRun _ _ _ _ _ hlt
    rw [← hmem, List.getElem?_eq_getElem hlt, hbyte]
    simp only [Option.map_none, Option.getD_some]
    congr 1
    omega

/-- A line of which a cache holds a Modified copy reads as that copy. -/
theorem lineReads_of_copy {s : State} {l : Nat} {d : List Byte} (hcopies : CopiesAre s l d) {e : Nat × CacheLine}
    (hmem : e ∈ s.coh.lines) (hline : e.1 % 2 ^ 41 = l) (hmodified : e.2.state = .modified) : LineReads s l d := by
  intro a ha
  unfold memByte modifiedCopy
  rw [ha]
  cases hfind : s.coh.lines.find? (fun e => e.1 % 2 ^ 41 == l && e.2.state == .modified) with
  | some e' =>
    have he := List.find?_some hfind
    simp only [Bool.and_eq_true, beq_iff_eq] at he
    simp only [Option.map_some, hcopies e' (List.mem_of_find?_eq_some hfind) he.1 he.2]
  | none =>
    have hnone := List.find?_eq_none.1 hfind e hmem
    simp only [hline, hmodified, beq_self_eq_true, Bool.and_self, not_true_eq_false] at hnone

/-- Without a Modified copy there is none that differs. -/
theorem copiesAre_of_none {s : State} {l : Nat} (d : List Byte) (h : modifiedCopy s l = none) : CopiesAre s l d := by
  intro e he hline hmodified
  have hnone := List.find?_eq_none.1 (Option.map_eq_none_iff.1 h) e he
  simp only [hline, hmodified, beq_self_eq_true, Bool.and_self, not_true_eq_false] at hnone

/-- The owner's copy is what every Modified copy of its line holds (R437). -/
theorem copiesAre_of_oneOwner {s : State} {l : Nat} (h : OneOwner s l) : CopiesAre s l (cacheLine s (homeLine s l).owner l).data := by
  intro e he hline hmodified
  obtain ⟨-, howner, -⟩ := h e he hline hmodified
  rw [howner]

theorem copiesAre_setCacheLine {s : State} {a l k : Nat} {c : CacheLine} {d : List Byte} (hcopies : CopiesAre s l d)
    (hc : c.state = .modified → c.data = d) : CopiesAre (setCacheLine s a k c) l d := by
  intro e he hline hmodified
  rcases mem_tabPut he with rfl | he
  · exact hc hmodified
  · exact hcopies e he hline hmodified

theorem CopiesAre.of_lines {s t : State} {l : Nat} {d : List Byte} (h : CopiesAre s l d) (hlines : t.coh.lines = s.coh.lines) :
    CopiesAre t l d := by
  unfold CopiesAre
  rw [hlines]
  exact h

/-- An agent's Modified copy of a line is listed under the line. -/
theorem mem_lines_of_modified {s : State} {a l : Nat} (h : (cacheLine s a l).state = .modified) :
    (lineKey a l, cacheLine s a l) ∈ s.coh.lines := by
  refine mem_of_tabGet_ne (d := ({} : CacheLine)) (fun hdefault => ?_)
  unfold cacheLine at h
  rw [hdefault] at h
  cases h

/-- With one owner, whose copy is Modified, the line reads as that copy. -/
theorem lineReads_of_oneOwner {s : State} {a l : Nat} (hl : l < 2 ^ 41) (hone : OneOwner s l) (howner : (homeLine s l).owner = a)
    (hmodified : (cacheLine s a l).state = .modified) :
    CopiesAre s l (cacheLine s a l).data ∧ LineReads s l (cacheLine s a l).data ∧ (cacheLine s a l).data.length = 128 := by
  have hcopies : CopiesAre s l (cacheLine s a l).data := howner ▸ copiesAre_of_oneOwner hone
  have hlisted := mem_lines_of_modified hmodified
  have hkey : (lineKey a l, cacheLine s a l).1 % 2 ^ 41 = l := lineKey_mod hl
  obtain ⟨-, -, hlength⟩ := hone _ hlisted hkey hmodified
  exact ⟨hcopies, lineReads_of_copy hcopies hlisted hkey hmodified, hlength⟩

/-! ## What leaves the other lines alone -/

theorem ElsewhereSame.trans {s t u : State} {l : Nat} (h : ElsewhereSame s t l) (k : ElsewhereSame t u l) : ElsewhereSame s u l :=
  fun a ha => (k a ha).trans (h a ha)

/-- A byte is read from the copies of its line and from memory. -/
theorem memByte_of_parts {s t : State} (hmem : t.mem = s.mem) (hlines : t.coh.lines = s.coh.lines) (a : Nat) :
    memByte t a = memByte s a := by
  simp only [memByte, modifiedCopy, hmem, hlines]

theorem elsewhereSame_setCacheLine (s : State) (a : Nat) {l : Nat} (c : CacheLine) (hl : l < 2 ^ 41) :
    ElsewhereSame s (setCacheLine s a l c) l := by
  intro x hx
  unfold memByte
  rw [modifiedCopy_setCacheLine_other s a c hl hx]
  rfl

theorem elsewhereSame_storeLine (s : State) (l : Nat) (bs : List Byte) : ElsewhereSame s (storeLine s l bs) l := by
  intro x hx
  have hmem : tabGet 0 (storeLine s l bs).mem x = tabGet 0 s.mem x := by
    refine tabGet_putRun_other _ _ _ _ _ ?_
    rw [List.length_take]
    omega
  have hcopy : modifiedCopy (storeLine s l bs) (x / 128) = modifiedCopy s (x / 128) := rfl
  unfold memByte
  rw [hcopy, hmem]

/-- What a home wrote to memory stands there. -/
theorem lineBytes_storeLine (s : State) (l : Nat) {bs : List Byte} (h : bs.length = 128) : lineBytes (storeLine s l bs) l = bs := by
  have htake : bs.take 128 = bs := List.take_of_length_le h.le
  refine List.ext_getElem (by rw [lineBytes_length, h]) (fun i hi hi' => ?_)
  refine (getElem_tabGetRun _ _ _ _ _ hi).trans ?_
  simp only [storeLine, htake, tabGet_putRun]
  rw [dif_pos (by omega)]
  congr 1
  omega

theorem sameBytes_of_lineReads {s t : State} {l : Nat} {d : List Byte} (helse : ElsewhereSame s t l) (hs : LineReads s l d)
    (ht : LineReads t l d) : SameBytes s t := by
  intro a
  by_cases ha : a / 128 = l
  · rw [hs a ha, ht a ha]
  · exact helse a ha

/-! ## Bytes written into a line -/

theorem mergeLine_length {d bs : List Byte} {off : Nat} (hd : d.length = 128) (hfits : off + bs.length ≤ 128) :
    (mergeLine d off bs).length = 128 := by
  simp only [mergeLine, List.length_take, List.length_append, List.length_drop, hd]
  omega

theorem getElem?_mergeLine {d bs : List Byte} {off i : Nat} (hd : d.length = 128) (hfits : off + bs.length ≤ 128) (hi : i < 128) :
    (mergeLine d off bs)[i]? = if off ≤ i ∧ i < off + bs.length then bs[i - off]? else d[i]? := by
  have hoff : (d.take off).length = off := by
    rw [List.length_take]
    omega
  rw [mergeLine, List.getElem?_take_of_lt hi]
  by_cases hlow : i < off
  · rw [if_neg (by omega), List.append_assoc, List.getElem?_append_left (by omega), List.getElem?_take_of_lt hlow]
  · by_cases hhigh : i < off + bs.length
    · rw [if_pos ⟨by omega, hhigh⟩, List.append_assoc, List.getElem?_append_right (by omega), hoff,
        List.getElem?_append_left (by omega)]
    · have hlen : (d.take off ++ bs).length = off + bs.length := by rw [List.length_append, hoff]
      rw [if_neg (by omega), List.getElem?_append_right (by omega), hlen, List.getElem?_drop]
      congr 1
      omega

theorem mergeLine_whole (d : List Byte) {bs : List Byte} (h : bs.length = 128) : mergeLine d 0 bs = bs := by
  simp [mergeLine, h]

/-- A line that reads with bytes merged into it has those bytes stored. -/
theorem storedAt_of_lineReads {s t : State} {l off : Nat} {d bs : List Byte} (helse : ElsewhereSame s t l) (hs : LineReads s l d)
    (hd : d.length = 128) (hfits : off + bs.length ≤ 128) (ht : LineReads t l (mergeLine d off bs)) : StoredAt s t (l * 128 + off) bs := by
  intro a
  by_cases ha : a / 128 = l
  · rw [ht a ha, getElem?_mergeLine hd hfits (by omega), hs a ha]
    by_cases hin : off ≤ a % 128 ∧ a % 128 < off + bs.length
    · rw [if_pos hin, if_pos (by omega)]
      have hindex : a % 128 - off = a - (l * 128 + off) := by omega
      rw [hindex]
    · rw [if_neg hin, if_neg (by omega)]
  · rw [helse a ha, if_neg (by omega)]

/-! ## The end of a command -/

theorem LineReads.finished {s : State} {l : Nat} {d : List Byte} (h : LineReads s l d) (s0 : State) : LineReads (finish s0 s) l d :=
  fun a ha => (memByte_congr (finish_mem s0 s) (finish_coh s0 s) a).trans (h a ha)

theorem ElsewhereSame.finished {s t : State} {l : Nat} (h : ElsewhereSame s t l) (s0 : State) : ElsewhereSame s (finish s0 t) l :=
  fun a ha => (memByte_congr (finish_mem s0 t) (finish_coh s0 t) a).trans (h a ha)

@[simp] theorem homeLine_finish (s0 s : State) (l : Nat) : homeLine (finish s0 s) l = homeLine s l := by
  rw [homeLine, homeLine, finish_coh]

@[simp] theorem cacheLine_finish (s0 s : State) (a l : Nat) : cacheLine (finish s0 s) a l = cacheLine s a l := by
  rw [cacheLine, cacheLine, finish_coh]

end Sys2Proof.Machine
end

section
/-! SUPPORT. Lines stay coherent (O50): the requests of agents at a line's home, forwards, and the writes back (R437 to R442). -/

namespace Sys2Proof.Machine

open Sys2Proof

/-! ## A home that has nothing to look at -/

/-- The home of line `l` waits for an answer, or nothing waits there. -/
def AtRest (s : State) (l : Nat) : Prop := (homeLine s l).busy.isSome = true ∨ (homeLine s l).queue = []

theorem work_atRest {s : State} {l : Nat} (h : AtRest s l) (fuel : Nat) : work fuel [l] s = s := by
  have hnil (n : Nat) : work n [] s = s := by cases n <;> rfl
  cases fuel with
  | zero => rfl
  | succ n =>
    rcases h with h | h
    · simp [work, h, hnil]
    · cases hbusy : (homeLine s l).busy <;> simp [work, hbusy, h, hnil]

theorem workLine_atRest {s : State} {l : Nat} (h : AtRest s l) : workLine s l = s := work_atRest h _

section
variable {s : State} {l : Nat} (h : LineStill s l)
include h

theorem queue_of_lineStill : (homeLine s l).queue = [] := by
  obtain ⟨-, hqueue, -⟩ := h
  exact hqueue

theorem uncached_of_lineStill : (homeLine s l).state = .uncached := by
  obtain ⟨-, -, -, huncached, -⟩ := h
  exact huncached

theorem noCopy_of_lineStill : modifiedCopy s l = none := by
  obtain ⟨-, -, -, -, hnone⟩ := h
  exact hnone

end

/-- Line `l` after a request came to its home and was taken from its queue. -/
def requestTaken (s : State) (l : Nat) (q : CohReq) : State :=
  setHomeLine (setHomeLine s l { homeLine s l with queue := [q] }) l (homeLine s l)

@[simp] theorem homeLine_requestTaken (s : State) (l : Nat) (q : CohReq) : homeLine (requestTaken s l q) l = homeLine s l :=
  homeLine_setHomeLine_self _ _ _

@[simp] theorem lineBytes_requestTaken (s : State) (l : Nat) (q : CohReq) (k : Nat) :
    lineBytes (requestTaken s l q) k = lineBytes s k := rfl

@[simp] theorem requestTaken_mem (s : State) (l : Nat) (q : CohReq) : (requestTaken s l q).mem = s.mem := by
  rw [requestTaken, setHomeLine_mem, setHomeLine_mem]

@[simp] theorem requestTaken_out (s : State) (l : Nat) (q : CohReq) : (requestTaken s l q).out = s.out := by
  rw [requestTaken, setHomeLine_out, setHomeLine_out]

@[simp] theorem requestTaken_lines (s : State) (l : Nat) (q : CohReq) : (requestTaken s l q).coh.lines = s.coh.lines := by
  rw [requestTaken, setHomeLine_lines, setHomeLine_lines]

/-- An idle home takes the oldest request from its queue and begins it. -/
theorem work_request {s : State} {l : Nat} {q : CohReq} {rest : List CohReq} (hbusy : (homeLine s l).busy = none)
    (hqueue : (homeLine s l).queue = q :: rest) (n : Nat) :
    work (n + 1) [l] s =
      (let r := beginReq (setHomeLine s l { homeLine s l with queue := rest }) l q
       work n (r.1 ++ [l]) r.2) := by
  simp only [work, hbusy, hqueue, Option.isSome_none, Bool.false_eq_true, if_false]

/-- A request that comes to an idle home is begun at once, and the home is done with it. -/
theorem request_idle {s t : State} {l : Nat} {q : CohReq} (hbusy : (homeLine s l).busy = none) (hqueue : (homeLine s l).queue = [])
    (hbegin : beginReq (requestTaken s l q) l q = ([], t)) (hrest : AtRest t l) : request s l q = t := by
  have hempty : { homeLine s l with queue := [] } = homeLine s l := by rw [← hqueue]
  have hcome : { homeLine s l with queue := (homeLine s l).queue ++ [q] } = { homeLine s l with queue := [q] } := by
    rw [hqueue, List.nil_append]
  have hhome := homeLine_setHomeLine_self s l { homeLine s l with queue := [q] }
  rw [request, hcome]
  refine (work_request (by rw [hhome, hbusy]) (by rw [hhome]) _).trans ?_
  rw [hhome]
  dsimp only
  rw [hempty]
  change work _ ((beginReq (requestTaken s l q) l q).1 ++ [l]) (beginReq (requestTaken s l q) l q).2 = t
  rw [hbegin]
  exact work_atRest hrest _

/-! ## What an idle home does with a request (R438, R440) -/

/-- The directory set of a line without an entry is no fuller for the line. -/
theorem setEntries_requestTaken_le {s : State} {l : Nat} (q : CohReq) (huncached : (homeLine s l).state = .uncached) :
    (setEntries (requestTaken s l q) l).length ≤ (setEntries s l).length := by
  have hpass (h : HomeLine) (hstate : h.state = .uncached) :
      (fun e : Nat × HomeLine => hasEntry e.2 && directorySetOf e.1 == directorySetOf l) (l, h) = false := by
    simp [hasEntry, hstate]
  exact (length_filter_tabPut_le _ (hpass _ huncached)).trans (length_filter_tabPut_le _ (hpass _ huncached))

theorem mustAnswer_uncached {h : HomeLine} (q : CohReq) (huncached : h.state = .uncached) : mustAnswer h q = [] := by
  cases q <;> simp [mustAnswer, huncached]

theorem beginReq_poisoned {s : State} {l : Nat} (q : CohReq) (h : (homeLine s l).poisoned = true) :
    beginReq s l q = ([], poisonedReq s l q) := by
  simp [beginReq, h]

/-- A request that no directory entry is in the way of, and no agent has to answer, takes its effect. -/
theorem beginReq_completes {s : State} {l : Nat} {q : CohReq} (hclean : (homeLine s l).poisoned = false)
    (hentry : takesEntry q = true → victimLine s l = none) (hnone : mustAnswer (homeLine s l) q = []) (hq : q ≠ .replace) :
    beginReq s l q = ([], completeReq s l q .clean) := by
  have hfree : (if (takesEntry q && !hasEntry (homeLine s l)) = true then victimLine s l else none) = none := by
    split
    · next h =>
      rw [Bool.and_eq_true] at h
      exact hentry h.1
    · rfl
  unfold beginReq
  dsimp only
  rw [hclean, hfree, hnone]
  simp [hq]

/-- A request at a line with an entry waits for the agents that must answer. -/
theorem beginReq_waits {s : State} {l a : Nat} {as : List Nat} {q : CohReq} (hclean : (homeLine s l).poisoned = false)
    (hentry : hasEntry (homeLine s l) = true) (hsome : mustAnswer (homeLine s l) q = a :: as) :
    beginReq s l q = ([], setHomeLine s l { homeLine s l with busy := some q, awaiting := a :: as }) := by
  simp [beginReq, hclean, hentry, hsome]

/-- At a line that no cache holds a request takes its effect at once. -/
theorem request_still {s : State} {l : Nat} {q : CohReq} (hstill : LineStill s l)
    (hset : takesEntry q = true → (setEntries s l).length < 16) (hq : q ≠ .replace)
    (hrest : AtRest (completeReq (requestTaken s l q) l q .clean) l) : request s l q = completeReq (requestTaken s l q) l q .clean := by
  obtain ⟨hbusy, hqueue, hclean, huncached, -⟩ := hstill
  refine request_idle hbusy hqueue (beginReq_completes ?_ (fun h => ?_) ?_ hq) hrest
  · rw [homeLine_requestTaken, hclean]
  · have hfew := (setEntries_requestTaken_le q huncached).trans_lt (hset h)
    simp [victimLine, hfew]
  · rw [homeLine_requestTaken, mustAnswer_uncached q huncached]

/-! ## An agent's request -/

section
variable {s : State} {a l : Nat} {store : Option (Nat × List Byte)} {q : CohReq} {hit : CacheState → Bool}

theorem agentRequest_refused {st : RemoteStatus} (h : storeRefused s l store = some st) :
    agentRequest s a l store q hit = emit s (.accessError a l st) := by
  simp [agentRequest, h]

theorem agentRequest_hit (h : storeRefused s l none = none) (hhit : hit (cacheLine s a l).state = true) :
    agentRequest s a l none q hit = tellData s a l (cacheLine s a l).data false := by
  simp [agentRequest, h, hhit]

theorem agentRequest_miss (h : storeRefused s l store = none) (hmiss : hit (cacheLine s a l).state = false) :
    agentRequest s a l store q hit = request s l q := by
  simp [agentRequest, h, hmiss]

end

section
variable {s : State} {a : AgentNo} (hruns : agentRuns s a.val = true)
include hruns

theorem readShared_effect (l : Nat) :
    Effect (.readShared a l) s (agentRequest s a.val l none (.readShared a.val) (· != .invalid)) := by
  change execReadShared a l s = _
  rw [execReadShared, hruns, act_taken]

theorem readExclusive_effect (l : Nat) (w : Option (Nat × List Byte)) :
    Effect (.readExclusive a l w) s (agentRequest s a.val l w (.readExclusive a.val w) isOwned) := by
  change execReadExclusive a l w s = _
  rw [execReadExclusive, hruns, act_taken]

theorem upgrade_effect (l : Nat) (w : Option (Nat × List Byte)) :
    Effect (.upgrade a l w) s (agentRequest s a.val l w (.upgrade a.val w) isOwned) := by
  change execUpgrade a l w s = _
  rw [execUpgrade, hruns, act_taken]

theorem writeFull_effect (l : Nat) {d : List Byte} (hd : d.length = 128) :
    Effect (.writeFull a l d) s (agentRequest s a.val l (some (0, d)) (.writeFull a.val d) isOwned) := by
  have hexec : exec (.writeFull a l d) s = execWriteFull a l d s := rfl
  rw [execWriteFull] at hexec
  have heffect := effect_act hexec (by simp [hruns, hd])
  exact heffect

theorem writeback_effect (l : Nat) : Effect (.writeback a l) s (workLine (writeBack s a.val l) l) := by
  change execWriteback a l s = _
  rw [execWriteback, hruns, act_taken]

end

/-! ## The home grants ownership (R440) -/

/-- The copy with which an agent wins a line whose bytes are `d`, with the store for which it asked. -/
def wonCopy (d : List Byte) : Option (Nat × List Byte) → CacheLine
  | some w => { state := .modified, data := mergeLine d w.1 w.2, holding := true }
  | none => { state := .exclusive, data := d, holding := true }

theorem makeRoom_notFull {s : State} {a : Nat} (l : Nat) (h : (heldLines s a).length < cacheLimit a) : makeRoom s a l = s := by
  simp [makeRoom, h]

/-- The home's entry of a line, with its owner. -/
def ownedHome (s : State) (a l : Nat) : State := useEntry s l { homeLine s l with state := .owned, owner := a, sharers := [] }

theorem homeLine_ownedHome (s : State) (a l : Nat) :
    homeLine (ownedHome s a l) l =
      { homeLine s l with state := .owned, owner := a, sharers := [], used := s.coh.uses + 1 } :=
  homeLine_setHomeLine_self _ _ _

theorem ownedHome_out (s : State) (a l : Nat) : (ownedHome s a l).out = s.out := rfl

theorem ownedHome_mem (s : State) (a l : Nat) : (ownedHome s a l).mem = s.mem := rfl

theorem ownedHome_lines (s : State) (a l : Nat) : (ownedHome s a l).coh.lines = s.coh.lines := rfl

theorem cacheLine_ownedHome (s : State) (a b l k : Nat) : cacheLine (ownedHome s a l) b k = cacheLine s b k := rfl

theorem grantExclusive_roomy {s : State} {a l : Nat} (store : Option (Nat × List Byte))
    (hroom : (heldLines s a).length < cacheLimit a) :
    grantExclusive s a l store .clean =
      tellData (setCacheLine (ownedHome s a l) a l (wonCopy (lineBytes s l) store)) a l (lineBytes s l) false := by
  have hroom' : makeRoom (ownedHome s a l) a l = ownedHome s a l := makeRoom_notFull l hroom
  have hbytes : lineBytes (ownedHome s a l) l = lineBytes s l := rfl
  change grantLine (ownedHome s a l) a l .exclusive (lineBytes (ownedHome s a l) l) store = _
  cases store <;> simp only [grantLine, hroom', hbytes, wonCopy]

section
variable {s : State} {a l : Nat} {q : CohReq} {store : Option (Nat × List Byte)} (hl : l < 2 ^ 41) (hstill : LineStill s l)
  (hset : (setEntries s l).length < 16) (hroom : (heldLines s a).length < cacheLimit a) (hq : q ≠ .replace)
  (hgrants : completeReq (requestTaken s l q) l q .clean = grantExclusive (requestTaken s l q) a l store .clean)

/-- Line `l` as the home leaves it that granted it to agent `a`. -/
def grantedLine (s : State) (a l : Nat) (q : CohReq) (store : Option (Nat × List Byte)) : State :=
  tellData (setCacheLine (ownedHome (requestTaken s l q) a l) a l (wonCopy (lineBytes s l) store)) a l (lineBytes s l) false

theorem homeLine_grantedLine (s : State) (a l : Nat) (q : CohReq) (store : Option (Nat × List Byte)) :
    homeLine (grantedLine s a l q store) l =
      { homeLine s l with state := .owned, owner := a, sharers := [], used := s.coh.uses + 1 } := by
  rw [grantedLine, homeLine_tellData, homeLine_setCacheLine, homeLine_ownedHome, homeLine_requestTaken]
  rfl

theorem cacheLine_grantedLine_self (s : State) (a l : Nat) (q : CohReq) (store : Option (Nat × List Byte)) :
    cacheLine (grantedLine s a l q store) a l = wonCopy (lineBytes s l) store := by
  rw [grantedLine, cacheLine_tellData, cacheLine_setCacheLine_self]

theorem cacheLine_grantedLine_other (s : State) {a b : Nat} (l : Nat) (q : CohReq) (store : Option (Nat × List Byte)) (h : b ≠ a) :
    cacheLine (grantedLine s a l q store) b l = cacheLine s b l := by
  rw [grantedLine, cacheLine_tellData, cacheLine_setCacheLine_other _ _ _ h, cacheLine_ownedHome, requestTaken,
    cacheLine_setHomeLine, cacheLine_setHomeLine]

theorem grantedLine_out (s : State) (a l : Nat) (q : CohReq) (store : Option (Nat × List Byte)) :
    (grantedLine s a l q store).out = .lineData a l (lineBytes s l) false :: s.out := by
  rw [grantedLine, tellData, emit, setCacheLine_out, ownedHome_out, requestTaken_out]

theorem grantedLine_mem (s : State) (a l : Nat) (q : CohReq) (store : Option (Nat × List Byte)) :
    (grantedLine s a l q store).mem = s.mem := by
  rw [grantedLine, tellData, emit_mem, setCacheLine_mem, ownedHome_mem, requestTaken_mem]

/-- Of the caches a grant changes the winner's copy alone. -/
theorem grantedLine_lines (s : State) (a l : Nat) (q : CohReq) (store : Option (Nat × List Byte)) :
    (grantedLine s a l q store).coh.lines = (setCacheLine s a l (wonCopy (lineBytes s l) store)).coh.lines := by
  rw [grantedLine, tellData, emit_coh, setCacheLine, setCacheLine, ownedHome_lines, requestTaken_lines]

include hstill hset hroom hq hgrants in
/-- The home of a line that no cache holds grants it at once. -/
theorem request_granted : request s l q = grantedLine s a l q store := by
  have hcomplete : completeReq (requestTaken s l q) l q .clean = grantedLine s a l q store := by
    have hroom' : (heldLines (requestTaken s l q) a).length < cacheLimit a := hroom
    rw [hgrants, grantExclusive_roomy store hroom', lineBytes_requestTaken, grantedLine]
  have hrest : AtRest (grantedLine s a l q store) l := by
    refine .inr ?_
    rw [homeLine_grantedLine]
    exact queue_of_lineStill hstill
  rw [← hcomplete] at hrest ⊢
  exact request_still hstill (fun _ => hset) hq hrest

include hstill in
theorem wins_granted (s0 : State) : Wins s (finish s0 (grantedLine s a l q store)) a l (wonCopy (lineBytes s l) store) := by
  obtain ⟨hbusy, -⟩ := hstill
  simp only [Wins, cacheLine_finish, homeLine_finish, homeLine_grantedLine]
  exact ⟨cacheLine_grantedLine_self _ _ _ _ _, trivial, trivial, hbusy, fun b hb => cacheLine_grantedLine_other s l q store hb⟩

include hl in
theorem elsewhere_granted : ElsewhereSame s (grantedLine s a l q store) l := fun x hx =>
  (memByte_of_parts ((grantedLine_mem s a l q store).trans (setCacheLine_mem _ _ _ _).symm) (grantedLine_lines s a l q store) x).trans
    (elsewhereSame_setCacheLine s a (wonCopy (lineBytes s l) store) hl x hx)

include hstill in
/-- The line reads as before the grant. -/
theorem lineReads_still : LineReads s l (lineBytes s l) := lineReads_of_memory (copiesAre_of_none _ (noCopy_of_lineStill hstill)) rfl

include hstill in
/-- After a grant the Modified copies of the line are those with the agent's store. -/
theorem copiesAre_granted (d : List Byte)
    (hd : (wonCopy (lineBytes s l) store).state = .modified → (wonCopy (lineBytes s l) store).data = d) :
    CopiesAre (grantedLine s a l q store) l d :=
  (copiesAre_setCacheLine (copiesAre_of_none d (noCopy_of_lineStill hstill)) hd).of_lines (grantedLine_lines s a l q store)

include hstill in
/-- A grant without a store leaves memory current. -/
theorem lineReads_granted_clean : LineReads (grantedLine s a l q none) l (lineBytes s l) := by
  refine lineReads_of_memory (copiesAre_granted hstill _ (fun h => by cases h)) ?_
  rw [lineBytes, lineBytes, grantedLine_mem]

include hl hstill in
/-- A grant with a store: the line reads as the agent's Modified copy. -/
theorem lineReads_granted_store (w : Nat × List Byte) :
    LineReads (grantedLine s a l q (some w)) l (mergeLine (lineBytes s l) w.1 w.2) := by
  have hmodified : (cacheLine (grantedLine s a l q (some w)) a l).state = .modified := by
    rw [cacheLine_grantedLine_self, wonCopy]
  exact lineReads_of_copy (copiesAre_granted hstill _ (fun _ => rfl)) (mem_lines_of_modified hmodified) (lineKey_mod hl) hmodified

variable {c : Instr} (heffect : Effect c s (request s l q))
include hl hstill hset hroom hq hgrants heffect

theorem granted_clean (hstore : store = none) : Completes c s (fun t =>
    Wins s t a l { state := .exclusive, data := lineBytes s l, holding := true } ∧ SameBytes s t ∧
      Sends s t (.lineData a l (lineBytes s l) false)) := by
  subst hstore
  rw [request_granted hstill hset hroom hq hgrants] at heffect
  exact completes_effect heffect ⟨wins_granted hstill s, sameBytes_of_lineReads ((elsewhere_granted hl).finished s)
    (lineReads_still hstill) ((lineReads_granted_clean hstill).finished s), sends_finish (grantedLine_out s a l q none)⟩

theorem granted_store {off : Nat} {bs : List Byte} (hstore : store = some (off, bs)) (hfits : off + bs.length ≤ 128) :
    Completes c s (fun t =>
      Wins s t a l { state := .modified, data := mergeLine (lineBytes s l) off bs, holding := true } ∧
        StoredAt s t (l * 128 + off) bs) := by
  subst hstore
  rw [request_granted hstill hset hroom hq hgrants] at heffect
  exact completes_effect heffect ⟨wins_granted hstill s, storedAt_of_lineReads ((elsewhere_granted hl).finished s)
    (lineReads_still hstill) (lineBytes_length s l) hfits ((lineReads_granted_store hl hstill (off, bs)).finished s)⟩

end

/-- A store that is not refused lies within its line, and meets no protected granule (R137, R138). -/
theorem storeRefused_none {s : State} {l off : Nat} {bs : List Byte} (h : storeRefused s l (some (off, bs)) = none) :
    off + bs.length ≤ 128 ∧ nowProtected s l off bs.length = false := by
  unfold storeRefused at h
  split at h
  · cases h
  · dsimp only at h
    split at h
    · cases h
    · next hplace =>
      split at h
      · cases h
      · next hopen =>
        simp only [Bool.or_eq_true, decide_eq_true_eq, not_or] at hplace
        exact ⟨by omega, by simpa [nowProtected] using hopen⟩

theorem grantStore_open {s : State} {a l : Nat} {store : Option (Nat × List Byte)} (ans : OwnerAnswer)
    (h : ∀ w, store = some w → nowProtected s l w.1 w.2.length = false) : grantStore s a l store ans = grantExclusive s a l store ans := by
  cases store with
  | none => rfl
  | some w => simp [grantStore, h w rfl]

theorem completeReq_readShared (s : State) (l a : Nat) (ans : OwnerAnswer) :
    completeReq s l (.readShared a) ans = grantShared s a l ans := rfl

theorem completeReq_readExclusive (s : State) (l a : Nat) (store : Option (Nat × List Byte)) (ans : OwnerAnswer) :
    completeReq s l (.readExclusive a store) ans = grantStore s a l store ans := rfl

theorem completeReq_upgrade (s : State) (l a : Nat) (store : Option (Nat × List Byte)) (ans : OwnerAnswer) :
    completeReq s l (.upgrade a store) ans = grantStore s a l store ans := rfl

theorem nowProtected_requestTaken (s : State) (l : Nat) (q : CohReq) (k off n : Nat) :
    nowProtected (requestTaken s l q) k off n = nowProtected s k off n := rfl

section
variable {s : State} {a l : Nat} {store : Option (Nat × List Byte)} (q : CohReq)
  (h : ∀ w, store = some w → nowProtected s l w.1 w.2.length = false)
include h

theorem readExclusive_grants :
    completeReq (requestTaken s l q) l (.readExclusive a store) .clean = grantExclusive (requestTaken s l q) a l store .clean := by
  rw [completeReq_readExclusive, grantStore_open _ (fun w hw => by rw [nowProtected_requestTaken, h w hw])]

theorem upgrade_grants :
    completeReq (requestTaken s l q) l (.upgrade a store) .clean = grantExclusive (requestTaken s l q) a l store .clean := by
  rw [completeReq_upgrade, grantStore_open _ (fun w hw => by rw [nowProtected_requestTaken, h w hw])]

end

/-- READ_SHARED of a line without an entry brings ownership (R440). -/
theorem grantShared_uncached {s : State} {a l : Nat} (ans : OwnerAnswer) (h : (homeLine s l).state = .uncached) :
    grantShared s a l ans = grantExclusive s a l none .clean := by
  simp [grantShared, h]

section
variable {s : State} {a : AgentNo} {l : Nat} (hruns : agentRuns s a.val = true) (hl : l < 2 ^ 41) (hstill : LineStill s l)
  (hset : (setEntries s l).length < 16) (hinvalid : (cacheLine s a.val l).state = .invalid)
  (hroom : (heldLines s a.val).length < cacheLimit a.val)
include hruns hl hstill hset hinvalid hroom

theorem readShared_granted (hmapped : storeRefused s l none = none) : Completes (.readShared a l) s (fun t =>
    Wins s t a.val l { state := .exclusive, data := lineBytes s l, holding := true } ∧ SameBytes s t ∧
      Sends s t (.lineData a.val l (lineBytes s l) false)) := by
  have heffect := readShared_effect hruns l
  rw [agentRequest_miss hmapped (by simp [hinvalid])] at heffect
  have huncached : (homeLine (requestTaken s l (.readShared a.val)) l).state = .uncached := by
    rw [homeLine_requestTaken]
    exact uncached_of_lineStill hstill
  have hgrants : completeReq (requestTaken s l (.readShared a.val)) l (.readShared a.val) .clean =
      grantExclusive (requestTaken s l (.readShared a.val)) a.val l none .clean := by
    rw [completeReq_readShared, grantShared_uncached _ huncached]
  exact granted_clean (q := .readShared a.val) hl hstill hset hroom (by simp) hgrants heffect rfl

omit hl hstill hset hroom in
theorem readExclusive_request {store : Option (Nat × List Byte)} (h : storeRefused s l store = none) :
    Effect (.readExclusive a l store) s (request s l (.readExclusive a.val store)) := by
  have heffect := readExclusive_effect hruns l store
  rwa [agentRequest_miss h (by simp [hinvalid, isOwned])] at heffect

omit hl hstill hset hroom in
theorem upgrade_request {store : Option (Nat × List Byte)} (h : storeRefused s l store = none) :
    Effect (.upgrade a l store) s (request s l (.upgrade a.val store)) := by
  have heffect := upgrade_effect hruns l store
  rwa [agentRequest_miss h (by simp [hinvalid, isOwned])] at heffect

theorem writeFull_granted {d : List Byte} (hd : d.length = 128) (h : storeRefused s l (some (0, d)) = none) :
    Completes (.writeFull a l d) s (fun t =>
      Wins s t a.val l { state := .modified, data := d, holding := true } ∧ StoredAt s t (l * 128) d) := by
  obtain ⟨hfits, hopen⟩ := storeRefused_none h
  rw [hd] at hopen
  have heffect := writeFull_effect hruns l hd
  rw [agentRequest_miss h (by simp [hinvalid, isOwned])] at heffect
  have hgrants : completeReq (requestTaken s l (.writeFull a.val d)) l (.writeFull a.val d) .clean =
      grantExclusive (requestTaken s l (.writeFull a.val d)) a.val l (some (0, d)) .clean := by
    simp [completeReq, nowProtected_requestTaken, hopen]
  have hdone := granted_store hl hstill hset hroom (by simp) hgrants heffect rfl hfits
  rwa [mergeLine_whole _ hd] at hdone

end

end Sys2Proof.Machine
end

section
/-! SUPPORT. Lines stay coherent (O50): a line that another agent owns, agents without a cache, writes back, forwards and their answers. -/

namespace Sys2Proof.Machine

open Sys2Proof

/-! ## A line that another agent owns (R438, R440) -/

theorem readShared_waits {s : State} {a : AgentNo} {l o : Nat} (hruns : agentRuns s a.val = true) (howned : OwnedBy s l o)
    (hmapped : storeRefused s l none = none) (hinvalid : (cacheLine s a.val l).state = .invalid) :
    Completes (.readShared a l) s (fun t =>
      (homeLine t l).busy = some (.readShared a.val) ∧ (homeLine t l).awaiting = [o] ∧ t.coh.lines = s.coh.lines ∧ t.mem = s.mem) := by
  obtain ⟨hstate, howner, hbusy, hqueue, hclean⟩ := howned
  have hanswer : mustAnswer (homeLine (requestTaken s l (.readShared a.val)) l) (.readShared a.val) = [o] := by
    simp [mustAnswer, hstate, howner]
  have hbegin := beginReq_waits (s := requestTaken s l (.readShared a.val)) (by simp [hclean]) (by simp [hasEntry, hstate]) hanswer
  have heffect := readShared_effect hruns l
  rw [agentRequest_miss hmapped (by simp [hinvalid]),
    request_idle hbusy hqueue hbegin (.inl (by simp [homeLine_setHomeLine_self]))] at heffect
  refine completes_effect heffect ?_
  simp only [homeLine_finish, homeLine_setHomeLine_self, finish_coh, finish_mem]
  exact ⟨trivial, trivial, by rw [setHomeLine_lines, requestTaken_lines], by rw [setHomeLine_mem, requestTaken_mem]⟩

/-! ## Agents without a cache (R437, R440) -/

section
variable {s : State} {l : Nat} (hready : isReady s = true)
include hready

theorem uncachedRead_effect :
    Effect (.uncachedRead l) s
      (if lineMapped s l then request s l .uncachedRead else emit s (.accessError noCache l .addressError)) := by
  change execUncachedRead l s = _
  rw [execUncachedRead, hready, act_taken]

theorem invalidatingWrite_refused {off : Nat} {bs : List Byte} {st : RemoteStatus} (h : storeRefused s l (some (off, bs)) = some st) :
    Effect (.invalidatingWrite l off bs) s (emit s (.accessError noCache l st)) := by
  have hexec : exec (.invalidatingWrite l off bs) s = execInvalidatingWrite l off bs s := rfl
  rw [execInvalidatingWrite] at hexec
  have heffect := effect_act hexec hready
  simpa only [h] using heffect

theorem invalidatingWrite_request {off : Nat} {bs : List Byte} (h : storeRefused s l (some (off, bs)) = none) :
    Effect (.invalidatingWrite l off bs) s (request s l (.invalidatingWrite off bs)) := by
  have hexec : exec (.invalidatingWrite l off bs) s = execInvalidatingWrite l off bs s := rfl
  rw [execInvalidatingWrite] at hexec
  have heffect := effect_act hexec hready
  simpa only [h] using heffect

theorem uncachedRead_still (hmapped : lineMapped s l = true) (hstill : LineStill s l) :
    Completes (.uncachedRead l) s (fun t => Sends s t (.lineData noCache l (lineBytes s l) false) ∧ SameBytes s t) := by
  have hcomplete : completeReq (requestTaken s l .uncachedRead) l .uncachedRead .clean =
      tellData (requestTaken s l .uncachedRead) noCache l (lineBytes s l) false := rfl
  have hrest : AtRest (tellData (requestTaken s l .uncachedRead) noCache l (lineBytes s l) false) l := by
    refine .inr ?_
    rw [homeLine_tellData, homeLine_requestTaken]
    exact queue_of_lineStill hstill
  have heffect := uncachedRead_effect (l := l) hready
  rw [if_pos hmapped, request_still hstill (by simp [takesEntry]) (by simp) (hcomplete ▸ hrest), hcomplete] at heffect
  refine completes_effect heffect ⟨sends_finish (by rw [tellData, emit, requestTaken_out]), fun x => ?_⟩
  rw [memByte_congr (finish_mem _ _) (finish_coh _ _), tellData]
  exact memByte_of_parts (by rw [emit_mem, requestTaken_mem]) (by rw [emit_coh, requestTaken_lines]) x

theorem uncachedRead_poisoned (hmapped : lineMapped s l = true) (hpoisoned : (homeLine s l).poisoned = true)
    (hbusy : (homeLine s l).busy = none) (hqueue : (homeLine s l).queue = []) :
    Completes (.uncachedRead l) s (fun t => Sends s t (.lineData noCache l [] true) ∧ t.mem = s.mem) := by
  have hbegin := beginReq_poisoned (s := requestTaken s l .uncachedRead) (l := l) .uncachedRead (by simp [hpoisoned])
  have hanswer : poisonedReq (requestTaken s l .uncachedRead) l .uncachedRead =
      tellData (requestTaken s l .uncachedRead) noCache l [] true := rfl
  rw [hanswer] at hbegin
  have heffect := uncachedRead_effect (l := l) hready
  rw [if_pos hmapped, request_idle hbusy hqueue hbegin (.inr (by rw [homeLine_tellData, homeLine_requestTaken, hqueue]))] at heffect
  refine completes_effect heffect ⟨sends_finish (by rw [tellData, emit, requestTaken_out]), ?_⟩
  rw [finish_mem, tellData, emit_mem, requestTaken_mem]

/-- Line `l` as an invalidating write leaves it at its home. -/
def writtenLine (s : State) (l off : Nat) (bs : List Byte) : State :=
  storeLine (setHomeLine (requestTaken s l (.invalidatingWrite off bs)) l (uncachedLine (homeLine s l))) l
    (mergeLine (lineBytes s l) off bs)

theorem invalidatingWrite_still {off : Nat} {bs : List Byte} (hstill : LineStill s l)
    (hopen : storeRefused s l (some (off, bs)) = none) :
    Completes (.invalidatingWrite l off bs) s (fun t => StoredAt s t (l * 128 + off) bs) := by
  obtain ⟨hfits, hprotected⟩ := storeRefused_none hopen
  have hcomplete : completeReq (requestTaken s l (.invalidatingWrite off bs)) l (.invalidatingWrite off bs) .clean =
      writtenLine s l off bs := by
    simp only [completeReq, nowProtected_requestTaken, hprotected, Bool.false_eq_true, if_false, homeLine_requestTaken,
      lineBytes_requestTaken, writtenLine]
  have hrest : AtRest (writtenLine s l off bs) l := by
    refine .inr ?_
    rw [writtenLine, homeLine_storeLine, homeLine_setHomeLine_self]
    exact queue_of_lineStill hstill
  have heffect := invalidatingWrite_request hready hopen
  rw [request_still hstill (by simp [takesEntry]) (by simp) (hcomplete ▸ hrest), hcomplete] at heffect
  have hhome : ElsewhereSame s (setHomeLine (requestTaken s l (.invalidatingWrite off bs)) l (uncachedLine (homeLine s l))) l :=
    fun x _ => memByte_of_parts (by rw [setHomeLine_mem, requestTaken_mem]) (by rw [setHomeLine_lines, requestTaken_lines]) x
  have hlines : (writtenLine s l off bs).coh.lines = s.coh.lines := by
    rw [writtenLine, storeLine_coh, setHomeLine_lines, requestTaken_lines]
  have hcopies : CopiesAre (writtenLine s l off bs) l (mergeLine (lineBytes s l) off bs) :=
    (copiesAre_of_none _ (noCopy_of_lineStill hstill)).of_lines hlines
  have hreads : LineReads (writtenLine s l off bs) l (mergeLine (lineBytes s l) off bs) :=
    lineReads_of_memory hcopies (lineBytes_storeLine _ _ (mergeLine_length (lineBytes_length s l) hfits))
  exact completes_effect heffect (storedAt_of_lineReads ((hhome.trans (elsewhereSame_storeLine _ _ _)).finished s)
    (lineReads_still hstill) (lineBytes_length s l) hfits (hreads.finished s))

end

/-! ## Writes back (R439) -/

theorem writeBack_clean {s : State} {a l : Nat} (h : (cacheLine s a l).state ≠ .modified) : writeBack s a l = s := by
  simp [writeBack, h]

/-- Memory takes an agent's copy, which goes. -/
def takenBack (s : State) (a l : Nat) : State := storeLine (setCacheLine s a l {}) l (cacheLine s a l).data

theorem writeBack_owned {s : State} {a l : Nat} (howned : OwnedBy s l a) (hmodified : (cacheLine s a l).state = .modified)
    (hfree : (cacheLine s a l).waitingForward = false) :
    writeBack s a l = setHomeLine (takenBack s a l) l (uncachedLine (homeLine s l)) := by
  obtain ⟨hstate, howner, hbusy, -⟩ := howned
  have hleave : leaveLine s a l = setCacheLine s a l {} := by simp [leaveLine, hfree]
  simp [writeBack, hmodified, hleave, hstate, howner, hbusy, takenBack]

/-- A line whose owner's copy memory takes reads as before. -/
theorem sameBytes_takenBack {s : State} {a l : Nat} (hl : l < 2 ^ 41) (howner : (homeLine s l).owner = a) (hone : OneOwner s l)
    (hmodified : (cacheLine s a l).state = .modified) : SameBytes s (takenBack s a l) := by
  obtain ⟨hcopies, hbefore, hlength⟩ := lineReads_of_oneOwner hl hone howner hmodified
  have hcopies' : CopiesAre (takenBack s a l) l (cacheLine s a l).data :=
    (copiesAre_setCacheLine (a := a) (k := l) (c := {}) hcopies (fun h => by cases h)).of_lines rfl
  exact sameBytes_of_lineReads ((elsewhereSame_setCacheLine s a {} hl).trans (elsewhereSame_storeLine _ _ _)) hbefore
    (lineReads_of_memory hcopies' (lineBytes_storeLine _ _ hlength))

section
variable {s : State} {a : AgentNo} {l : Nat} (hruns : agentRuns s a.val = true)
include hruns

theorem writeback_owned (hl : l < 2 ^ 41) (howned : OwnedBy s l a.val) (hone : OneOwner s l)
    (hmodified : (cacheLine s a.val l).state = .modified) (hfree : (cacheLine s a.val l).waitingForward = false) :
    Completes (.writeback a l) s (fun t =>
      cacheLine t a.val l = {} ∧ (homeLine t l).state = .uncached ∧ SameBytes s t) := by
  have hback := writeBack_owned howned hmodified hfree
  obtain ⟨-, howner, -, hqueue, -⟩ := howned
  have hrest : AtRest (setHomeLine (takenBack s a.val l) l (uncachedLine (homeLine s l))) l := by
    refine .inr ?_
    rw [homeLine_setHomeLine_self]
    exact hqueue
  have heffect := writeback_effect hruns l
  rw [hback, workLine_atRest hrest] at heffect
  refine completes_effect heffect ⟨?_, ?_, fun x => ?_⟩
  · rw [cacheLine_finish, cacheLine_setHomeLine, takenBack, cacheLine_storeLine, cacheLine_setCacheLine_self]
  · rw [homeLine_finish, homeLine_setHomeLine_self]
    rfl
  · rw [memByte_congr (finish_mem _ _) (finish_coh _ _), memByte_of_parts (setHomeLine_mem _ _ _) rfl]
    exact sameBytes_takenBack hl howner hone hmodified x

theorem writeback_clean (hclean : (cacheLine s a.val l).state ≠ .modified) (hqueue : (homeLine s l).queue = []) :
    Effect (.writeback a l) s s := by
  have heffect := writeback_effect hruns l
  rwa [writeBack_clean hclean, workLine_atRest (.inr hqueue)] at heffect

end

/-! ## Forwards (R440, R442) -/

section
variable {s : State} {a : AgentNo} {l : Nat} (hready : isReady s = true)
include hready

omit hready in
/-- A forward that no home awaits reaches nothing. -/
theorem forward_notAwaited (h : a.val ∉ (homeLine s l).awaiting) : exec (.forward a l) s = .next s := by
  have hexec : exec (.forward a l) s = execForward a l s := rfl
  have hnot : (isReady s && (homeLine s l).awaiting.contains a.val) = false := by simp [h]
  rw [hexec, execForward, hnot, act_notTaken]

theorem forward_effect (h : (homeLine s l).awaiting = [a.val]) :
    Effect (.forward a l) s
      (if (cacheLine s a.val l).holding && (cacheLine s a.val l).state != .invalid then
        setCacheLine s a.val l { cacheLine s a.val l with waitingForward := true }
      else answerForward s a.val l) := by
  have hexec : exec (.forward a l) s = execForward a l s := rfl
  rw [execForward] at hexec
  have heffect := effect_act hexec (by simp [hready, h])
  exact heffect

theorem holdWindowEnd_effect :
    Effect (.holdWindowEnd a l) s
      (if !(cacheLine s a.val l).holding && !(cacheLine s a.val l).waitingForward then s
      else if (cacheLine s a.val l).waitingForward then
        answerForward (setCacheLine s a.val l { cacheLine s a.val l with holding := false, waitingForward := false }) a.val l
      else setCacheLine s a.val l { cacheLine s a.val l with holding := false, waitingForward := false }) := by
  change execHoldWindowEnd a l s = _
  rw [execHoldWindowEnd, hready, act_taken]

end

/-! ## A Modified copy answers a READ_SHARED (R440) -/

section
variable {s : State} {a b l : Nat}

/-- What agent `a` keeps of its Modified copy of line `l` once it has answered. -/
def answeredCopy (s : State) (a l : Nat) : CacheLine := { cacheLine s a l with state := .shared, waitingForward := false }

theorem answerForward_modified (hmodified : (cacheLine s a l).state = .modified) (hbusy : (homeLine s l).busy = some (.readShared b)) :
    answerForward s a l = takeAnswer (setCacheLine s a l (answeredCopy s a l)) a l (.modified (cacheLine s a l).data) := by
  simp [answerForward, hbusy, hmodified, afterForward, answeredCopy]

/-- The last answer that a request awaits lets it take its effect. -/
theorem takeAnswer_last {q : CohReq} {ans : OwnerAnswer} (hbusy : (homeLine s l).busy = some q) (hawaited : (homeLine s l).awaiting = [a])
    (hq : q ≠ .replace) :
    takeAnswer s a l ans =
      workLine (completeReq (setHomeLine s l { homeLine s l with busy := none, awaiting := [] }) l q ans) l := by
  simp [takeAnswer, hbusy, hawaited, hq]

/-- Memory takes the owner's Modified copy, and both agents share the line. -/
theorem grantShared_modified {d : List Byte} (hne : a ≠ b) (hstate : (homeLine s l).state = .owned) (howner : (homeLine s l).owner = a)
    (hroom : (heldLines s b).length < cacheLimit b) :
    grantShared s b l (.modified d) =
      tellData (setCacheLine (storeLine (useEntry s l { homeLine s l with state := .shared, owner := 0, sharers := [a, b] }) l d) b l
        { state := .shared, data := d, holding := true }) b l d false := by
  have hpair : [a, b].dedup = [a, b] := by simp [hne]
  have hroom' : makeRoom (storeLine (useEntry s l { homeLine s l with state := .shared, owner := 0, sharers := [a, b] }) l d) b l =
      storeLine (useEntry s l { homeLine s l with state := .shared, owner := 0, sharers := [a, b] }) l d :=
    makeRoom_notFull l hroom
  simp only [grantShared, hstate, howner, hpair, grantLine, hroom']

/-- Agent `a` has answered: its copy is shared, and the home waits for nobody. -/
def answered (s : State) (a l : Nat) : State :=
  setHomeLine (setCacheLine s a l (answeredCopy s a l)) l { homeLine s l with busy := none, awaiting := [] }

theorem homeLine_answered (s : State) (a l : Nat) :
    homeLine (answered s a l) l = { homeLine s l with busy := none, awaiting := [] } :=
  homeLine_setHomeLine_self _ _ _

/-- The home of a line that two agents share from now on. -/
def sharedHome (s : State) (a b l : Nat) : State :=
  useEntry (answered s a l) l { homeLine (answered s a l) l with state := .shared, owner := 0, sharers := [a, b] }

theorem homeLine_sharedHome (s : State) (a b l : Nat) :
    homeLine (sharedHome s a b l) l =
      { homeLine s l with
        state := .shared, owner := 0, sharers := [a, b], busy := none, awaiting := [], used := s.coh.uses + 1 } := by
  have huses : (answered s a l).coh.uses = s.coh.uses := rfl
  rw [sharedHome, useEntry, homeLine_setHomeLine_self, homeLine_answered, huses]

theorem sharedHome_lines (s : State) (a b l : Nat) :
    (sharedHome s a b l).coh.lines = (setCacheLine s a l (answeredCopy s a l)).coh.lines := rfl

/-- What the answer of a Modified copy to a READ_SHARED leaves. -/
def sharedLine (s : State) (a b l : Nat) : State :=
  tellData (setCacheLine (storeLine (sharedHome s a b l) l (cacheLine s a l).data) b l
    { state := .shared, data := (cacheLine s a l).data, holding := true }) b l (cacheLine s a l).data false

theorem homeLine_sharedLine (s : State) (a b l : Nat) :
    homeLine (sharedLine s a b l) l =
      { homeLine s l with
        state := .shared, owner := 0, sharers := [a, b], busy := none, awaiting := [], used := s.coh.uses + 1 } := by
  rw [sharedLine, homeLine_tellData, homeLine_setCacheLine, homeLine_storeLine, homeLine_sharedHome]

theorem cacheLine_sharedLine_asker (s : State) (a b l : Nat) :
    cacheLine (sharedLine s a b l) b l = { state := .shared, data := (cacheLine s a l).data, holding := true } := by
  rw [sharedLine, cacheLine_tellData, cacheLine_setCacheLine_self]

theorem cacheLine_sharedLine_owner (s : State) {a b : Nat} (l : Nat) (hne : a ≠ b) :
    cacheLine (sharedLine s a b l) a l = answeredCopy s a l := by
  have hself := cacheLine_setCacheLine_self s a l (answeredCopy s a l)
  rw [sharedLine, cacheLine_tellData, cacheLine_setCacheLine_other _ _ _ hne, cacheLine_storeLine]
  rw [cacheLine] at hself ⊢
  rw [sharedHome_lines, hself]

theorem lineBytes_sharedLine (s : State) (a b : Nat) {l : Nat} (hlength : (cacheLine s a l).data.length = 128) :
    lineBytes (sharedLine s a b l) l = (cacheLine s a l).data := by
  have hmem : (sharedLine s a b l).mem = (storeLine (sharedHome s a b l) l (cacheLine s a l).data).mem := rfl
  rw [lineBytes, hmem]
  exact lineBytes_storeLine _ _ hlength

section
variable (hl : l < 2 ^ 41)

include hl in
theorem elsewhere_sharedLine (s : State) (a b : Nat) : ElsewhereSame s (sharedLine s a b l) l := by
  have hanswered := elsewhereSame_setCacheLine s a (answeredCopy s a l) hl
  have hhome : ElsewhereSame (setCacheLine s a l (answeredCopy s a l)) (sharedHome s a b l) l :=
    fun x _ => memByte_of_parts rfl (sharedHome_lines s a b l) x
  have hstore := elsewhereSame_storeLine (sharedHome s a b l) l (cacheLine s a l).data
  have hshared := elsewhereSame_setCacheLine (storeLine (sharedHome s a b l) l (cacheLine s a l).data) b
    { state := .shared, data := (cacheLine s a l).data, holding := true } hl
  have htold : ElsewhereSame (setCacheLine (storeLine (sharedHome s a b l) l (cacheLine s a l).data) b l
      { state := .shared, data := (cacheLine s a l).data, holding := true }) (sharedLine s a b l) l :=
    fun x _ => memByte_of_parts rfl rfl x
  exact (((hanswered.trans hhome).trans hstore).trans hshared).trans htold

/-- The Modified copies that are left hold what memory has taken. -/
theorem copiesAre_sharedLine (s : State) (a b l : Nat) {d : List Byte} (h : CopiesAre s l d) : CopiesAre (sharedLine s a b l) l d := by
  have hanswered : CopiesAre (setCacheLine s a l (answeredCopy s a l)) l d := copiesAre_setCacheLine h (fun h => by cases h)
  have hstored : CopiesAre (storeLine (sharedHome s a b l) l (cacheLine s a l).data) l d :=
    hanswered.of_lines (sharedHome_lines s a b l)
  exact (copiesAre_setCacheLine (a := b) (k := l) (c := { state := .shared, data := (cacheLine s a l).data, holding := true }) hstored
    (fun h => by cases h)).of_lines rfl

include hl in
theorem answerForward_shares (hne : a ≠ b) (hawaited : (homeLine s l).awaiting = [a])
    (hmodified : (cacheLine s a l).state = .modified) (hbusy : (homeLine s l).busy = some (.readShared b))
    (hstate : (homeLine s l).state = .owned) (howner : (homeLine s l).owner = a) (hqueue : (homeLine s l).queue = [])
    (hroom : (heldLines s b).length < cacheLimit b) : answerForward s a l = sharedLine s a b l := by
  have hhome : homeLine (setCacheLine s a l (answeredCopy s a l)) l = homeLine s l := rfl
  have hroom' : (heldLines (answered s a l) b).length < cacheLimit b := by
    have hheld : heldLines (answered s a l) b = heldLines (setCacheLine s a l (answeredCopy s a l)) b := rfl
    rw [hheld, heldLines_setCacheLine_other s _ hl hne.symm]
    exact hroom
  have hgrant := grantShared_modified (s := answered s a l) (l := l) (d := (cacheLine s a l).data) hne
    (by rw [homeLine_answered]; exact hstate) (by rw [homeLine_answered]; exact howner) hroom'
  have hcomplete : completeReq (answered s a l) l (.readShared b) (.modified (cacheLine s a l).data) =
      grantShared (answered s a l) b l (.modified (cacheLine s a l).data) := rfl
  have hrest : AtRest (sharedLine s a b l) l := by
    refine .inr ?_
    rw [homeLine_sharedLine]
    exact hqueue
  rw [answerForward_modified hmodified hbusy, takeAnswer_last (by rw [hhome, hbusy]) (by rw [hhome, hawaited]) (by simp), hhome]
  change workLine (completeReq (answered s a l) l (.readShared b) (.modified (cacheLine s a l).data)) l = _
  rw [hcomplete, hgrant]
  exact workLine_atRest hrest

end

end

/-- The forward of a READ_SHARED reaches a Modified copy out of its hold window. -/
theorem forward_shares {s : State} {a b : AgentNo} {l : Nat} (hready : isReady s = true) (hl : l < 2 ^ 41)
    (hawaited : (homeLine s l).awaiting = [a.val]) (hne : a ≠ b) (hhold : (cacheLine s a.val l).holding = false)
    (hmodified : (cacheLine s a.val l).state = .modified) (hone : OneOwner s l)
    (hbusy : (homeLine s l).busy = some (.readShared b.val)) (hstate : (homeLine s l).state = .owned)
    (howner : (homeLine s l).owner = a.val) (hqueue : (homeLine s l).queue = [])
    (hroom : (heldLines s b.val).length < cacheLimit b.val) :
    Completes (.forward a l) s (fun t =>
      cacheLine t a.val l = { cacheLine s a.val l with state := .shared, waitingForward := false } ∧
      cacheLine t b.val l = { state := .shared, data := (cacheLine s a.val l).data, holding := true } ∧
      (homeLine t l).state = .shared ∧ (homeLine t l).sharers = [a.val, b.val] ∧ (homeLine t l).busy = none ∧
      lineBytes t l = (cacheLine s a.val l).data ∧ SameBytes s t) := by
  have hne' : a.val ≠ b.val := fun h => hne (Fin.ext h)
  obtain ⟨hcopies, hbefore, hlength⟩ := lineReads_of_oneOwner hl hone howner hmodified
  have hbytes := lineBytes_sharedLine s a.val b.val hlength
  have hafter := lineReads_of_memory (copiesAre_sharedLine s a.val b.val l hcopies) hbytes
  have heffect := forward_effect (a := a) hready hawaited
  rw [hhold, Bool.false_and, if_neg Bool.false_ne_true,
    answerForward_shares hl hne' hawaited hmodified hbusy hstate howner hqueue hroom] at heffect
  refine completes_effect heffect ?_
  simp only [cacheLine_finish, homeLine_finish, homeLine_sharedLine, cacheLine_sharedLine_asker, cacheLine_sharedLine_owner s l hne']
  refine ⟨rfl, trivial, trivial, trivial, trivial, ?_,
    sameBytes_of_lineReads ((elsewhere_sharedLine hl s a.val b.val).finished s) hbefore (hafter.finished s)⟩
  rw [lineBytes, finish_mem]
  exact hbytes

/-! ## The obligation -/

/-- Settles O50: an idle home does one request and is done (`request_idle`), and a line reads as its Modified copies or as memory
(`lineReads_of_copy`, `lineReads_of_memory`). -/
theorem linesStayCoherent : Obligations.LinesStayCoherent := by
  unfold Obligations.LinesStayCoherent
  refine ⟨fun s a l hruns => ⟨?hitShared, ?hitOwned, ?refusedShared, ?refusedOwned, ?refusedFull⟩,
    fun s a l hruns hl hstill hset hinvalid hroom => ⟨?granted, ?grantedStore, ?grantedFull⟩,
    fun s a l o hruns _ howned _ hmapped hinvalid => readShared_waits hruns howned hmapped hinvalid,
    fun s l hready hmapped hstill => ⟨uncachedRead_still hready hmapped hstill,
      fun off bs hopen => invalidatingWrite_still hready hstill hopen⟩,
    fun s l hready => ⟨?unmapped, fun off bs st h => invalidatingWrite_refused hready h,
      fun hmapped hpoisoned hbusy hqueue => uncachedRead_poisoned hready hmapped hpoisoned hbusy hqueue⟩,
    fun s a l hruns hl => ⟨fun howned hone hmodified hfree => writeback_owned hruns hl howned hone hmodified hfree,
      fun hclean hqueue => writeback_clean hruns hclean hqueue⟩,
    fun s a b l hready hl hawaited => ⟨?held, fun hne hhold hmodified hone hbusy hstate howner hqueue hroom =>
      forward_shares hready hl hawaited hne hhold hmodified hone hbusy hstate howner hqueue hroom⟩,
    fun s a l _ h => forward_notAwaited h,
    fun s a l hready => ⟨?windowEnds, ?windowAnswers⟩,
    ?calibrated⟩
  case hitShared =>
    intro hmapped hvalid
    rw [← agentRequest_hit (q := .readShared a.val) (hit := (· != .invalid)) hmapped (by simpa using hvalid)]
    exact readShared_effect hruns l
  case hitOwned =>
    intro hmapped howned
    constructor
    · rw [← agentRequest_hit (q := .readExclusive a.val none) hmapped howned]
      exact readExclusive_effect hruns l none
    · rw [← agentRequest_hit (q := .upgrade a.val none) hmapped howned]
      exact upgrade_effect hruns l none
  case refusedShared =>
    intro st h
    have heffect := readShared_effect hruns l
    rwa [agentRequest_refused h] at heffect
  case refusedOwned =>
    intro w st h
    have hexclusive := readExclusive_effect hruns l w
    have hupgrade := upgrade_effect hruns l w
    rw [agentRequest_refused h] at hexclusive hupgrade
    exact ⟨hexclusive, hupgrade⟩
  case refusedFull =>
    intro d st hd h
    have heffect := writeFull_effect hruns l hd
    rwa [agentRequest_refused h] at heffect
  case granted =>
    intro hmapped
    have hopen : ∀ w : Nat × List Byte, none = some w → nowProtected s l w.1 w.2.length = false := fun _ h => by cases h
    exact ⟨readShared_granted hruns hl hstill hset hinvalid hroom hmapped,
      granted_clean hl hstill hset hroom (by simp) (readExclusive_grants _ hopen)
        (readExclusive_request hruns hinvalid hmapped) rfl,
      granted_clean hl hstill hset hroom (by simp) (upgrade_grants _ hopen) (upgrade_request hruns hinvalid hmapped) rfl⟩
  case grantedStore =>
    intro off bs hplace
    obtain ⟨hfits, hprotected⟩ := storeRefused_none hplace
    have hopen : ∀ w, some (off, bs) = some w → nowProtected s l w.1 w.2.length = false := by
      rintro _ ⟨⟩
      exact hprotected
    exact ⟨granted_store hl hstill hset hroom (by simp) (readExclusive_grants _ hopen)
        (readExclusive_request hruns hinvalid hplace) rfl hfits,
      granted_store hl hstill hset hroom (by simp) (upgrade_grants _ hopen) (upgrade_request hruns hinvalid hplace) rfl hfits⟩
  case grantedFull =>
    intro d hd h
    exact writeFull_granted hruns hl hstill hset hinvalid hroom hd h
  case unmapped =>
    intro hnot
    have heffect := uncachedRead_effect (l := l) hready
    rwa [hnot, if_neg Bool.false_ne_true] at heffect
  case held =>
    intro hhold hvalid
    have heffect := forward_effect (a := a) hready hawaited
    rwa [if_pos (by simp [hhold, hvalid])] at heffect
  case windowEnds =>
    intro hhold hfree
    have heffect := holdWindowEnd_effect (a := a) (l := l) hready
    rwa [if_neg (by simp [hhold]), hfree, if_neg Bool.false_ne_true] at heffect
  case windowAnswers =>
    intro hwaits
    have heffect := holdWindowEnd_effect (a := a) (l := l) hready
    rwa [if_neg (by simp [hwaits]), if_pos hwaits] at heffect
  case calibrated =>
    intro s hready hruns
    have hexec : exec .delayLineCalibration s = execDelayLineCalibration s := rfl
    rw [execDelayLineCalibration] at hexec
    have hrails : s.plt.mainRails = true := by
      rw [isReady, Bool.and_eq_true] at hready
      exact hready.1
    have heffect := effect_act hexec (by simp [hready, lmcRuns, hrails, hruns])
    exact heffect

end Sys2Proof.Machine
end

section
/-! SUPPORT. What every step keeps of the fuses, of the meter and of held output (O6 to O8), and that the reset state meets every
invariant (O10). -/

namespace Sys2Proof.Machine

open Sys2Proof

/-! ## What lasts (R527, R529 to R531, R544) -/

/-- A count of the LMC touches nothing that lasts. -/
theorem lasts_tick (s : State) : Lasts s (tick s) := by
  unfold tick
  split
  · exact .of rfl rfl rfl rfl rfl rfl rfl
  · exact .refl s

/-- What lasts through every command lasts through every step. -/
theorem lasts_step {s t : State} (hstep : step s = .next t) : Lasts s t := by
  cases hq : s.pending with
  | nil =>
    rw [step_nil s hq] at hstep
    cases hstep
    exact lasts_tick s
  | cons c rest =>
    rw [step_cons c rest s hq] at hstep
    have hdequeue : Lasts s { s with pending := rest } := .of rfl rfl rfl rfl rfl rfl rfl
    exact hdequeue.trans ((keep_exec c _).of t hstep).lasts

/-- Settles O6: fuses, the seal and the fault are among what lasts. -/
theorem whatIsNeverUndone : Obligations.WhatIsNeverUndone :=
  ⟨fun _ _ hstep => (lasts_step hstep).fuses, fun _ _ hstep => ⟨(lasts_step hstep).broken, (lasts_step hstep).fault⟩⟩

/-- Settles O7: the chain of the log and its newest number are among what lasts. -/
theorem meterLogStaysChained : Obligations.MeterLogStaysChained :=
  fun _ _ hstep hchain => ⟨(lasts_step hstep).chain hchain, (lasts_step hstep).newest⟩

/-! ## Held output (R493, R499) -/

/-- What is held, and for whom, stands in the twin alone. -/
theorem holdOk_congr {s t : State} (htwn : t.twn = s.twn) (hok : Safety.HoldOk s) : Safety.HoldOk t := by
  have hmirrors : mirrors t = mirrors s := (SameHold.of htwn).mirrors
  rw [Safety.HoldOk, htwn, hmirrors]
  exact hok

/-- Holding a command, or starting a frame, leaves held output as it was. -/
theorem Quietly.holdOk {s t : State} (h : Quietly s t) : Safety.HoldOk s → Safety.HoldOk t :=
  holdOk_congr (h.keep.twn.resolve_left (by decide))

/-- A command ends in `finish`, which lets go what the Mirror has applied, or leaves held output alone. -/
theorem holdOk_exec (c : Instr) {s t : State} (hexec : exec c s = .next t) (hok : Safety.HoldOk s) : Safety.HoldOk t :=
  (settles_exec c s).of Safety.HoldOk holdOk_finish (fun _ _ h => h.holdOk) hok t hexec

theorem twn_tick (s : State) : (tick s).twn = s.twn := by
  unfold tick
  split <;> rfl

/-- Settles O8: a step is a count of the LMC or the command at the front, and both leave nothing held that should not be. -/
theorem heldOutputWaitsForTheMirror : Obligations.HeldOutputWaitsForTheMirror := by
  intro s t hstep hok
  cases hq : s.pending with
  | nil =>
    rw [step_nil s hq] at hstep
    cases hstep
    exact holdOk_congr (twn_tick s) hok
  | cons c rest =>
    rw [step_cons c rest s hq] at hstep
    exact holdOk_exec c hstep (holdOk_congr rfl hok)

/-! ## The reset state (R350, R499, R529, R538) -/

/-- Settles O10: at reset memory and the log are empty, no twin holds anything, and no composition is bound that could show pressure. -/
theorem resetMeetsTheInvariants : Obligations.ResetMeetsTheInvariants := by
  have hmem : Memory.wf State.reset.mem = true := rfl
  have hchain : Safety.MeterChain State.reset.mtr := by
    intro k hfirst hlast
    have hnewest : State.reset.mtr.newest = 0 := rfl
    omega
  have hhold : Safety.HoldOk State.reset := by
    refine ⟨rfl, fun _ => rfl, ?_⟩
    rintro e ⟨⟩
  have hpressure : Safety.PressureOk State.reset := by
    rintro c x st - ⟨⟩
  exact ⟨hmem, hchain, hhold, hpressure⟩

end Sys2Proof.Machine
end

section
/-! SUPPORT. What the meter's operations do: one record of its log, a frame that arrives, the close of every count (R519 to R529). -/

namespace Sys2Proof.Machine

open Sys2Proof

/-! ## What was sent stays sent -/

/-- `t` has sent what `s` had, and perhaps more. -/
def StaysSent (s t : State) : Prop := ∃ l, t.out = l ++ s.out

theorem StaysSent.of_eq {s t : State} (h : t.out = s.out) : StaysSent s t := ⟨[], h⟩

theorem StaysSent.trans {s t u : State} (h : StaysSent s t) (k : StaysSent t u) : StaysSent s u := by
  obtain ⟨l, hl⟩ := h
  obtain ⟨l', hl'⟩ := k
  exact ⟨l' ++ l, by rw [hl', hl, List.append_assoc]⟩

theorem staysSent_finish (s0 s : State) : StaysSent s (finish s0 s) := finish_out s0 s

theorem staysSent_of_sends {s t : State} {o : Output} (h : Sends s t o) : StaysSent s t := by
  obtain ⟨l, k, hout⟩ := h
  exact ⟨l ++ o :: k, by rw [hout, List.append_assoc, List.cons_append]⟩

theorem sends_later {s t u : State} {o : Output} (h : Sends s t o) (k : StaysSent t u) : Sends s u o := by
  obtain ⟨l, r, hout⟩ := h
  obtain ⟨l', hl'⟩ := k
  exact ⟨l' ++ l, r, by rw [hl', hout, List.append_assoc]⟩

theorem sends_since {s t u : State} {o : Output} (k : StaysSent s t) (h : Sends t u o) : Sends s u o := by
  obtain ⟨l, r, hout⟩ := h
  obtain ⟨l', hl'⟩ := k
  exact ⟨l, r ++ l', by rw [hout, hl', List.append_assoc]⟩

theorem sends_of_cons {s t : State} {o : Output} (h : t.out = o :: s.out) : Sends s t o := ⟨[], [], h⟩

/-! ## One record (R527, R529, R534) -/

/-- The record that the meter writes next. -/
def nextRecord (s : State) (type mtc energy : Nat) (body : List Byte) : MeterRecord :=
  let r0 : MeterRecord :=
    { recordNo := s.mtr.newest + 1, boot := s.mtr.boot, type := type, brokenSeal := s.mtr.broken, meterFault := s.mtr.fault, mtc := mtc,
      energy := energy, prevHash := s.mtr.prevHash, body := body, sigR := 0, sigS := 0 }
  let sig := Config.meterSign s.mtr.meterId (Config.sha384 ((meterRecordBytes r0).take 160))
  { r0 with sigR := sig.1, sigS := sig.2 }

/-- A record takes its slot, and the chain and the number go on with it; of the rest only FEED_FAULT is counted. -/
theorem logRecord_mtr (s : State) (type mtc energy : Nat) (body : List Byte) :
    (logRecord s type mtc energy body).mtr = { s.mtr with
      log := tabPut none s.mtr.log ((s.mtr.newest + 1) % 2 ^ 20) (some (nextRecord s type mtc energy body))
      newest := s.mtr.newest + 1
      prevHash := Config.sha384 (meterRecordBytes (nextRecord s type mtc energy body))
      feedFaults := if type = 9 then (s.mtr.feedFaults + 1) % 2 ^ 32 else s.mtr.feedFaults } := by
  unfold logRecord
  dsimp only
  split <;> rfl

theorem logRecord_plt (s : State) (type mtc energy : Nat) (body : List Byte) : (logRecord s type mtc energy body).plt = s.plt :=
  (keep_logRecord s type mtc energy body).plt.resolve_left (by decide)

/-- A record goes out on the record lane, followed by the in-band interrupt where that is enabled. -/
theorem sends_logRecord (s : State) (type mtc energy : Nat) (body : List Byte) :
    Sends s (logRecord s type mtc energy body) (.record (meterRecordBytes (nextRecord s type mtc energy body))) := by
  unfold logRecord
  dsimp only
  split
  · exact ⟨[.inBand (s.mtr.newest + 1)], [], rfl⟩
  · exact ⟨[], [], rfl⟩

theorem meterComp_logRecord (s : State) (type mtc energy : Nat) (body : List Byte) (c : Nat) :
    meterComp (logRecord s type mtc energy body) c = meterComp s c := by
  simp only [meterComp, logRecord_mtr]

/-- `t` stands with the log, the boot and the seal of `s`. -/
structure SameLog (s t : State) : Prop where
  log : t.mtr.log = s.mtr.log
  newest : t.mtr.newest = s.mtr.newest
  prevHash : t.mtr.prevHash = s.mtr.prevHash
  boot : t.mtr.boot = s.mtr.boot
  broken : t.mtr.broken = s.mtr.broken
  sent : StaysSent s t

theorem SameLog.trans {s t u : State} (h : SameLog s t) (k : SameLog t u) : SameLog s u where
  log := k.log.trans h.log
  newest := k.newest.trans h.newest
  prevHash := k.prevHash.trans h.prevHash
  boot := k.boot.trans h.boot
  broken := k.broken.trans h.broken
  sent := h.sent.trans k.sent

theorem sameLog_finish (s0 s : State) : SameLog s (finish s0 s) where
  log := by rw [finish_mtr]
  newest := by rw [finish_mtr]
  prevHash := by rw [finish_mtr]
  boot := by rw [finish_mtr]
  broken := by rw [finish_mtr]
  sent := staysSent_finish s0 s

theorem sameLog_setMeterComp (s : State) (c : Nat) (x : Option MeterComp) : SameLog s (setMeterComp s c x) :=
  ⟨rfl, rfl, rfl, rfl, rfl, .of_eq rfl⟩

/-- A record written in `a` that stands in `t` is what the meter logged since `s`. -/
theorem logged_of_logRecord {s a t : State} {type mtc energy : Nat} {body : List Byte} (hnewest : a.mtr.newest = s.mtr.newest)
    (hprev : a.mtr.prevHash = s.mtr.prevHash) (hsent : StaysSent s a) (h : SameLog (logRecord a type mtc energy body) t) :
    Logged s t type mtc body := by
  obtain ⟨hlog, hnew, hhash, hboot, hbroken, hout⟩ := h
  rw [logRecord_mtr] at hlog hnew hhash hboot hbroken
  refine ⟨by rw [hnew, hnewest], nextRecord a type mtc energy body, ?_, congrArg (· + 1) hnewest, hboot.symm, rfl, hbroken.symm, rfl, rfl,
    hprev, hhash, sends_since hsent (sends_later (sends_logRecord a type mtc energy body) hout)⟩
  rw [hlog, ← hnewest, tabGet_put_self]

theorem SameLog.logged {s a t : State} {type mtc energy : Nat} {body : List Byte} (h : SameLog s a)
    (k : SameLog (logRecord a type mtc energy body) t) : Logged s t type mtc body :=
  logged_of_logRecord h.newest h.prevHash h.sent k

/-! ## Meter commands and frames (R516, R519, R522) -/

/-- A meter command with the supply present completes in what the end of its effect leaves. -/
theorem completes_meter {c : Instr} {s : State} {m : MeterStamp} {effect : State → State} {P : State → Prop}
    (hexec : exec c s = actMeter s m effect) (hpowered : s.mtr.powered = true) (h : P (finish s (effect (meterAdvance s m)))) :
    Completes c s P :=
  completes_act hexec hpowered h

/-- Without its supply the meter does nothing. -/
theorem exec_meter_off {c : Instr} {s : State} {m : MeterStamp} {effect : State → State} (hexec : exec c s = actMeter s m effect)
    (hoff : s.mtr.powered = false) : exec c s = .next s := by
  rw [hexec, actMeter, hoff, act_notTaken]

theorem sameLog_meterAdvance (s : State) (m : MeterStamp) : SameLog s (meterAdvance s m) := ⟨rfl, rfl, rfl, rfl, rfl, .of_eq rfl⟩

/-- The meter when a frame has arrived: it hears the part. -/
def frameArrived (s : State) (m : MeterStamp) : State :=
  { meterAdvance s m with mtr := { (meterAdvance s m).mtr with silent := false, heard := (meterAdvance s m).mtr.mtc } }

/-- The meter when it has kept a frame. -/
def frameTaken (s : State) (m : MeterStamp) (f : FeedHead) : State := keepFrame (frameArrived s m) f.seq

theorem sameLog_frameArrived (s : State) (m : MeterStamp) : SameLog s (frameArrived s m) := ⟨rfl, rfl, rfl, rfl, rfl, .of_eq rfl⟩

theorem sameLog_frameTaken (s : State) (m : MeterStamp) (f : FeedHead) : SameLog s (frameTaken s m f) :=
  ⟨rfl, rfl, rfl, rfl, rfl, .of_eq rfl⟩

/-- A frame that skips no FEED_SEQ leaves no gap. -/
theorem frameGap_none {s : State} {f : FeedHead} (h : s.mtr.lastSeq = 0 ∨ f.seq = 1 ∨ f.seq ≤ s.mtr.lastSeq + 1) : frameGap s f = s := by
  rw [frameGap, if_neg]
  simp only [Bool.and_eq_true, bne_iff_ne, decide_eq_true_eq]
  omega

/-- What a frame does at the meter that has just heard it. -/
def frameActs (s : State) (f : FeedHead) (effect : State → State) : State :=
  if !f.crcOk then feedFault s (s.mtr.lastSeq + 1) (s.mtr.lastSeq + 1) 1
  else if isSecondCopy s f then s
  else
    let s2 := keepFrame (frameGap s f) f.seq
    if f.declared then effect s2 else feedFault s2 f.seq f.seq 2

theorem actFeed_eq (s : State) (m : MeterStamp) (f : FeedHead) (effect : State → State) :
    actFeed s m f effect = act s s.mtr.powered (fun s => frameActs (frameArrived s m) f effect) := rfl

theorem frameActs_badCrc {s : State} {f : FeedHead} (effect : State → State) (hcrc : f.crcOk = false) :
    frameActs s f effect = feedFault s (s.mtr.lastSeq + 1) (s.mtr.lastSeq + 1) 1 := by
  simp [frameActs, hcrc]

theorem frameActs_copy {s : State} {f : FeedHead} (effect : State → State) (hcrc : f.crcOk = true) (hcopy : isSecondCopy s f = true) :
    frameActs s f effect = s := by
  simp [frameActs, hcrc, hcopy]

theorem frameActs_undeclared {s : State} {f : FeedHead} (effect : State → State) (hcrc : f.crcOk = true)
    (hcopy : isSecondCopy s f = false) (hseq : s.mtr.lastSeq = 0 ∨ f.seq = 1 ∨ f.seq ≤ s.mtr.lastSeq + 1) (hdeclared : f.declared = false) :
    frameActs s f effect = feedFault (keepFrame s f.seq) f.seq f.seq 2 := by
  simp [frameActs, hcrc, hcopy, hdeclared, frameGap_none hseq]

theorem frameActs_kept {s : State} {f : FeedHead} (effect : State → State) (hcrc : f.crcOk = true)
    (hcopy : isSecondCopy s f = false) (hseq : s.mtr.lastSeq = 0 ∨ f.seq = 1 ∨ f.seq ≤ s.mtr.lastSeq + 1) (hdeclared : f.declared = true) :
    frameActs s f effect = effect (keepFrame s f.seq) := by
  simp [frameActs, hcrc, hcopy, hdeclared, frameGap_none hseq]

/-- A frame that is kept takes its effect on the meter that has kept it. -/
theorem completes_feed {c : Instr} {s : State} {m : MeterStamp} {f : FeedHead} {effect : State → State} {P : State → Prop}
    (hexec : exec c s = actFeed s m f effect) (hkept : FrameKept s f) (h : P (finish s (effect (frameTaken s m f)))) :
    Completes c s P := by
  obtain ⟨hpowered, hcrc, hdeclared, hcopy, hseq⟩ := hkept
  rw [actFeed_eq] at hexec
  refine completes_act hexec hpowered ?_
  rw [frameActs_kept (s := frameArrived s m) effect hcrc hcopy hseq hdeclared]
  exact h

theorem comps_logRecord (s : State) (type mtc energy : Nat) (body : List Byte) : (logRecord s type mtc energy body).mtr.comps = s.mtr.comps := by
  rw [logRecord_mtr]

theorem lastSeq_logRecord (s : State) (type mtc energy : Nat) (body : List Byte) :
    (logRecord s type mtc energy body).mtr.lastSeq = s.mtr.lastSeq := by
  rw [logRecord_mtr]

/-- What every command that carries a frame does with one that it does not act on. -/
theorem frameTurnedAway_of_actFeed {c : Instr} {s : State} {m : MeterStamp} {f : FeedHead} {effect : State → State}
    (hexec : exec c s = actFeed s m f effect) (hpowered : s.mtr.powered = true) : FrameTurnedAway c s m f := by
  rw [actFeed_eq] at hexec
  refine ⟨fun hcrc => ?_, fun hcrc hcopy => ?_, fun hcrc hdeclared hcopy hseq => ?_⟩
  · refine completes_act hexec hpowered ?_
    rw [frameActs_badCrc effect hcrc, finish_mtr]
    exact ⟨(sameLog_frameArrived s m).logged (sameLog_finish s _), comps_logRecord .., lastSeq_logRecord ..⟩
  · refine completes_act hexec hpowered ?_
    rw [frameActs_copy (s := frameArrived s m) effect hcrc hcopy, finish_mtr]
    exact ⟨rfl, rfl, rfl, rfl⟩
  · refine completes_act hexec hpowered ?_
    rw [frameActs_undeclared (s := frameArrived s m) effect hcrc hcopy hseq hdeclared, finish_mtr]
    exact ⟨(sameLog_frameTaken s m f).logged (sameLog_finish s _), comps_logRecord .., lastSeq_logRecord ..⟩

/-! ## The close of counts (R523, R528) -/

/-- The body of the record that closes a count at meter time `t`. -/
def closeBody (x : MeterComp) (t cause : Nat) : List Byte :=
  countBody x.body x.seq cause (x.bound + (t - x.since)) (x.regionTicks + (t - x.since) * x.body.regionCount)
    (x.stackTicks + (t - x.since) * x.body.stackCount)

theorem meterComp_setMeterComp (s : State) (c d : Nat) (x : Option MeterComp) :
    meterComp (setMeterComp s c x) d = if d = c then x else meterComp s d := tabGet_put ..

theorem closeComp_none {s : State} {c : Nat} (t energy cause : Nat) (h : meterComp s c = none) : closeComp t energy cause s c = s := by
  rw [closeComp, h]

theorem closeComp_some {s : State} {c : Nat} {x : MeterComp} (t energy cause : Nat) (h : meterComp s c = some x) :
    closeComp t energy cause s c = setMeterComp (logRecord s 4 t energy (closeBody x t cause)) c none := by
  rw [closeComp, h]
  rfl

/-- A close takes its own count away and leaves the others. -/
theorem meterComp_closeComp (t energy cause : Nat) (s : State) (c d : Nat) :
    meterComp (closeComp t energy cause s c) d = if d = c then none else meterComp s d := by
  cases h : meterComp s c with
  | none =>
    rw [closeComp_none t energy cause h]
    split
    · next hd => rw [hd, h]
    · rfl
  | some x => rw [closeComp_some t energy cause h, meterComp_setMeterComp, meterComp_logRecord]

theorem sends_closeComp {s : State} {c : Nat} {x : MeterComp} (t energy cause : Nat) (h : meterComp s c = some x) :
    Sends s (closeComp t energy cause s c) (.record (meterRecordBytes (nextRecord s 4 t energy (closeBody x t cause)))) := by
  rw [closeComp_some t energy cause h]
  exact sends_logRecord ..

theorem staysSent_closeComp (t energy cause : Nat) (s : State) (c : Nat) : StaysSent s (closeComp t energy cause s c) := by
  cases h : meterComp s c with
  | none => rw [closeComp_none t energy cause h]; exact .of_eq rfl
  | some x => exact staysSent_of_sends (sends_closeComp t energy cause h)

/-- The closes of a list of counts, one after another. -/
theorem staysSent_closeComps (t energy cause : Nat) (l : List Nat) (s : State) : StaysSent s (l.foldl (closeComp t energy cause) s) := by
  induction l generalizing s with
  | nil => exact .of_eq rfl
  | cons c l ih => exact (staysSent_closeComp t energy cause s c).trans (ih _)

theorem newest_closeComps (t energy cause : Nat) (l : List Nat) (s : State) :
    s.mtr.newest ≤ (l.foldl (closeComp t energy cause) s).mtr.newest :=
  (Keep.foldl (Keep.refl 5242880 s) (fun s c => keep_closeComp t energy cause s c)).lasts.newest

theorem meterComp_closeComps (t energy cause : Nat) (l : List Nat) (s : State) (d : Nat) :
    meterComp (l.foldl (closeComp t energy cause) s) d = if d ∈ l then none else meterComp s d := by
  induction l generalizing s with
  | nil => simp
  | cons c l ih =>
    rw [List.foldl_cons, ih, meterComp_closeComp]
    by_cases hd : d = c <;> by_cases hl : d ∈ l <;> simp [hd, hl]

/-- Every count that is closed leaves its record. -/
theorem sends_closeComps (t energy cause : Nat) (l : List Nat) (s : State) {c : Nat} {x : MeterComp} (hc : c ∈ l)
    (hx : meterComp s c = some x) : ∃ r : MeterRecord, r.type = 4 ∧ s.mtr.newest < r.recordNo ∧ r.mtc = t ∧ r.energy = energy ∧
      r.body = closeBody x t cause ∧ Sends s (l.foldl (closeComp t energy cause) s) (.record (meterRecordBytes r)) := by
  induction l generalizing s with
  | nil => simp at hc
  | cons d l ih =>
    rw [List.foldl_cons]
    by_cases hd : c = d
    · subst hd
      exact ⟨nextRecord s 4 t energy (closeBody x t cause), rfl, Nat.lt_succ_self _, rfl, rfl, rfl,
        sends_later (sends_closeComp t energy cause hx) (staysSent_closeComps ..)⟩
    · have hopen : meterComp (closeComp t energy cause s d) c = some x := by rw [meterComp_closeComp, if_neg hd, hx]
      obtain ⟨r, htype, hno, hmtc, henergy, hbody, hsends⟩ := ih _ ((List.mem_cons.1 hc).resolve_left hd) hopen
      exact ⟨r, htype, Nat.lt_of_le_of_lt (keep_closeComp t energy cause s d).lasts.newest hno, hmtc, henergy, hbody,
        sends_since (staysSent_closeComp ..) hsends⟩

/-- A key whose value differs from what an unlisted key holds is among the keys. -/
theorem mem_tabKeys {α : Type} {d : α} {p : α → Bool} (m : Tab α) (k : Nat) (hd : p d = false) (hk : p (tabGet d m k) = true) :
    k ∈ tabKeys m p := by
  induction m with
  | nil => simp [hd] at hk
  | cons e m ih =>
    obtain ⟨j, v⟩ := e
    rw [tabGet] at hk
    simp only [tabKeys, List.filter_cons] at ih ⊢
    split at hk
    · next hj => simp [hk, hj]
    · split
      · exact List.mem_cons_of_mem _ (ih hk)
      · exact ih hk

theorem mem_openComps {s : State} {c : Nat} {x : MeterComp} (h : meterComp s c = some x) : c ∈ openComps s :=
  mem_tabKeys (d := none) s.mtr.comps c rfl (by rw [← meterComp, h]; rfl)

/-- After every open count was closed none is open. -/
theorem meterComp_closeAll (t energy cause : Nat) (s : State) (c : Nat) :
    meterComp ((openComps s).foldl (closeComp t energy cause) s) c = none := by
  rw [meterComp_closeComps]
  split
  · rfl
  · next h =>
    cases hx : meterComp s c with
    | none => rfl
    | some x => exact absurd (mem_openComps hx) h

end Sys2Proof.Machine
end

section
/-! SUPPORT. The meter's commands (O54, O56, O57, O59). -/

namespace Sys2Proof.Machine

open Sys2Proof

/-! ## Frames that are kept (R520, R524, R525, R528) -/

theorem meterComp_frameTaken (s : State) (m : MeterStamp) (f : FeedHead) (c : Nat) : meterComp (frameTaken s m f) c = meterComp s c := rfl

theorem meterComp_finish (s0 s : State) (c : Nat) : meterComp (finish s0 s) c = meterComp s c := by
  rw [meterComp, meterComp, finish_mtr]

theorem feedBind_opens {s : State} {m : MeterStamp} {f : FeedHead} {b : CompositionBody} (hkept : FrameKept s f)
    (hnone : meterComp s b.composition.val = none) : Completes (.feedBind m f b) s (fun t =>
      Logged s t 2 (meterNow s m) (countBody b f.seq 0 0 0 0) ∧ OtherCountsStay s t b.composition.val ∧ t.mtr.lastSeq = f.seq ∧
      meterComp t b.composition.val =
        some { body := b, seq := f.seq, since := meterNow s m, bound := 0, regionTicks := 0, stackTicks := 0 }) := by
  refine completes_feed (show exec (.feedBind m f b) s = execFeedBind m f b s from rfl) hkept ?_
  rw [closeComp_none _ _ _ ((meterComp_frameTaken s m f _).trans hnone)]
  refine ⟨(sameLog_frameTaken s m f).logged ((sameLog_setMeterComp ..).trans (sameLog_finish ..)), fun d hd => ?_, ?_, ?_⟩
  · rw [meterComp_finish, openComp, meterComp_setMeterComp, if_neg hd, logNow, meterComp_logRecord]
    rfl
  · rw [finish_mtr]
    exact lastSeq_logRecord ..
  · rw [meterComp_finish, openComp, meterComp_setMeterComp, if_pos rfl]
    rfl

/-- A frame for a composition that is not open leaves a FEED_FAULT record. -/
theorem notOpen_logged {s : State} {m : MeterStamp} {f : FeedHead} {c : Instr} {effect : State → State}
    (hexec : exec c s = actFeed s m f effect) (hkept : FrameKept s f)
    (heffect : effect (frameTaken s m f) = feedFault (frameTaken s m f) f.seq f.seq 3) :
    Completes c s (fun t => Logged s t 9 (meterNow s m) (faultBody f.seq f.seq 3) ∧ t.mtr.comps = s.mtr.comps) := by
  refine completes_feed hexec hkept ?_
  rw [heffect, finish_mtr]
  exact ⟨(sameLog_frameTaken s m f).logged (sameLog_finish ..), comps_logRecord ..⟩

/-- A frame that is logged and changes no count. -/
theorem frame_logged {s : State} {m : MeterStamp} {f : FeedHead} {c : Instr} {effect : State → State} {type : Nat} {body : List Byte}
    (hexec : exec c s = actFeed s m f effect) (hkept : FrameKept s f)
    (heffect : effect (frameTaken s m f) = logNow (frameTaken s m f) type body) :
    Completes c s (fun t => Logged s t type (meterNow s m) body ∧ t.mtr.comps = s.mtr.comps) := by
  refine completes_feed hexec hkept ?_
  rw [heffect, finish_mtr]
  exact ⟨(sameLog_frameTaken s m f).logged (sameLog_finish ..), comps_logRecord ..⟩

/-- The count of an open composition up to now, closed now, counts nothing twice. -/
theorem closeBody_countTo (x : MeterComp) (now seq : Nat) (b : CompositionBody) :
    closeBody { countTo x now with body := b, seq := seq } now 0 = countBody b seq 0 (x.bound + (now - x.since))
      (x.regionTicks + (now - x.since) * x.body.regionCount) (x.stackTicks + (now - x.since) * x.body.stackCount) := by
  have hzero : now - max x.since now = 0 := by omega
  simp only [closeBody, countTo, hzero, Nat.zero_mul, Nat.add_zero]

theorem feedUnbind_closes {s : State} {m : MeterStamp} {f : FeedHead} {b : CompositionBody} {x : MeterComp} (hkept : FrameKept s f)
    (hx : meterComp s b.composition.val = some x) : Completes (.feedUnbind m f b) s (fun t =>
      meterComp t b.composition.val = none ∧ OtherCountsStay s t b.composition.val ∧
        Logged s t 4 (meterNow s m) (countBody b f.seq 0 (x.bound + (meterNow s m - x.since))
          (x.regionTicks + (meterNow s m - x.since) * x.body.regionCount)
          (x.stackTicks + (meterNow s m - x.since) * x.body.stackCount))) := by
  refine completes_feed (show exec (.feedUnbind m f b) s = execFeedUnbind m f b s from rfl) hkept ?_
  rw [meterComp_frameTaken, hx]
  dsimp only
  let y : MeterComp := { countTo x (meterNow s m) with body := b, seq := f.seq }
  have hopen : meterComp (setMeterComp (frameTaken s m f) b.composition.val (some y)) b.composition.val = some y := by
    rw [meterComp_setMeterComp, if_pos rfl]
  have hend : endComp (frameTaken s m f) f.seq b x = setMeterComp (logRecord
      (setMeterComp (frameTaken s m f) b.composition.val (some y)) 4 (meterNow s m) (frameTaken s m f).mtr.energy
      (closeBody y (meterNow s m) 0)) b.composition.val none := closeComp_some _ _ _ hopen
  rw [hend, ← closeBody_countTo]
  refine ⟨?_, fun d hd => ?_, ?_⟩
  · rw [meterComp_finish, meterComp_setMeterComp, if_pos rfl]
  · rw [meterComp_finish, meterComp_setMeterComp, if_neg hd, meterComp_logRecord, meterComp_setMeterComp, if_neg hd,
      meterComp_frameTaken]
  · exact ((sameLog_frameTaken s m f).trans (sameLog_setMeterComp ..)).logged ((sameLog_setMeterComp ..).trans (sameLog_finish ..))

theorem feedResource_changes {s : State} {m : MeterStamp} {f : FeedHead} {b : CompositionBody} {x : MeterComp} (hkept : FrameKept s f)
    (hx : meterComp s b.composition.val = some x) (hpackage : b.package = false) : Completes (.feedResource m f b) s (fun t =>
      OtherCountsStay s t b.composition.val ∧
        meterComp t b.composition.val = some { countTo x (meterNow s m) with body := b, seq := f.seq } ∧
        Logged s t 3 (meterNow s m) (countBody b f.seq 0 (x.bound + (meterNow s m - x.since))
          (x.regionTicks + (meterNow s m - x.since) * x.body.regionCount)
          (x.stackTicks + (meterNow s m - x.since) * x.body.stackCount))) := by
  refine completes_feed (show exec (.feedResource m f b) s = execFeedResource m f b s from rfl) hkept ?_
  rw [meterComp_frameTaken, hpackage, if_neg (by decide), hx]
  dsimp only
  refine ⟨fun d hd => ?_, ?_, ?_⟩
  · rw [meterComp_finish, changeComp, meterComp_setMeterComp, if_neg hd, logNow, meterComp_logRecord, meterComp_frameTaken]
  · rw [meterComp_finish, changeComp, meterComp_setMeterComp, if_pos rfl]
    rfl
  · exact (sameLog_frameTaken s m f).logged ((sameLog_setMeterComp ..).trans (sameLog_finish ..))

/-- A POWER frame towards Black or a reset closes every count. -/
theorem feedPower_closes {s : State} {m : MeterStamp} {f : FeedHead} {src target limit : Nat} (hkept : FrameKept s f)
    (htarget : target = 3 ∨ target = 4 ∨ target = 5) : Completes (.feedPower m f src target limit) s (fun t =>
      (∀ c, meterComp t c = none) ∧ s.mtr.newest < t.mtr.newest) := by
  refine completes_feed (show exec (.feedPower m f src target limit) s = execFeedPower m f src target limit s from rfl) hkept ?_
  rw [if_pos htarget]
  refine ⟨fun c => by rw [meterComp_finish, meterComp_closeAll], ?_⟩
  rw [finish_mtr]
  refine Nat.lt_of_lt_of_le ?_ (newest_closeComps ..)
  rw [logNow, logRecord_mtr]
  exact Nat.lt_succ_self _

theorem feedKeepalive_hears {s : State} {m : MeterStamp} {f : FeedHead} (hkept : FrameKept s f) :
    Completes (.feedKeepalive m f) s (fun t => t.mtr.lastSeq = f.seq ∧ t.mtr.newest = s.mtr.newest ∧ t.mtr.comps = s.mtr.comps ∧
      t.mtr.lastFrame = meterNow s m ∧ t.mtr.silent = false) := by
  refine completes_feed (show exec (.feedKeepalive m f) s = execFeedKeepalive m f s from rfl) hkept ?_
  rw [finish_mtr]
  exact ⟨rfl, rfl, rfl, rfl, rfl⟩

theorem feedUnbind_notOpen {s : State} {m : MeterStamp} {f : FeedHead} {b : CompositionBody} (hkept : FrameKept s f)
    (hnone : meterComp s b.composition.val = none) : Completes (.feedUnbind m f b) s (fun t =>
      Logged s t 9 (meterNow s m) (faultBody f.seq f.seq 3) ∧ t.mtr.comps = s.mtr.comps) := by
  refine notOpen_logged (show exec (.feedUnbind m f b) s = execFeedUnbind m f b s from rfl) hkept ?_
  rw [meterComp_frameTaken, hnone]

theorem feedResource_notOpen {s : State} {m : MeterStamp} {f : FeedHead} {b : CompositionBody} (hkept : FrameKept s f)
    (hnone : meterComp s b.composition.val = none) (hpackage : b.package = false) : Completes (.feedResource m f b) s (fun t =>
      Logged s t 9 (meterNow s m) (faultBody f.seq f.seq 3) ∧ t.mtr.comps = s.mtr.comps) := by
  refine notOpen_logged (show exec (.feedResource m f b) s = execFeedResource m f b s from rfl) hkept ?_
  rw [meterComp_frameTaken, hnone, hpackage, if_neg (by decide)]

theorem feedResource_package {s : State} {m : MeterStamp} {f : FeedHead} {b : CompositionBody} (hkept : FrameKept s f)
    (hpackage : b.package = true) : Completes (.feedResource m f b) s (fun t =>
      Logged s t 3 (meterNow s m) (countBody b f.seq 0 0 0 0) ∧ t.mtr.comps = s.mtr.comps) :=
  frame_logged (show exec (.feedResource m f b) s = execFeedResource m f b s from rfl) hkept (if_pos hpackage)

theorem feedSeal_logged {s : State} {m : MeterStamp} {f : FeedHead} {body : List Byte} (hkept : FrameKept s f) :
    Completes (.feedSeal m f body) s (fun t => Logged s t 7 (meterNow s m) (frameBody body f.seq) ∧ t.mtr.comps = s.mtr.comps) :=
  frame_logged (show exec (.feedSeal m f body) s = execFeedSeal m f body s from rfl) hkept rfl

theorem feedPower_logged {s : State} {m : MeterStamp} {f : FeedHead} {src target limit : Nat} (hkept : FrameKept s f)
    (htarget : ¬ (target = 3 ∨ target = 4 ∨ target = 5)) : Completes (.feedPower m f src target limit) s (fun t =>
      Logged s t 8 (meterNow s m) (frameBody (leBytes 1 src ++ leBytes 1 target ++ leBytes 2 limit) f.seq) ∧
      t.mtr.comps = s.mtr.comps) :=
  frame_logged (show exec (.feedPower m f src target limit) s = execFeedPower m f src target limit s from rfl) hkept (if_neg htarget)

/-- Every command that carries a frame turns away what it does not act on. -/
theorem frames_turnedAway {s : State} (m : MeterStamp) (f : FeedHead) (hpowered : s.mtr.powered = true) :
    (∀ b, FrameTurnedAway (.feedBind m f b) s m f ∧ FrameTurnedAway (.feedUnbind m f b) s m f ∧
      FrameTurnedAway (.feedResource m f b) s m f) ∧
    (∀ body, FrameTurnedAway (.feedSeal m f body) s m f) ∧
    (∀ src target limit, FrameTurnedAway (.feedPower m f src target limit) s m f) ∧
    FrameTurnedAway (.feedKeepalive m f) s m f :=
  ⟨fun b => ⟨frameTurnedAway_of_actFeed (show exec (.feedBind m f b) s = execFeedBind m f b s from rfl) hpowered,
      frameTurnedAway_of_actFeed (show exec (.feedUnbind m f b) s = execFeedUnbind m f b s from rfl) hpowered,
      frameTurnedAway_of_actFeed (show exec (.feedResource m f b) s = execFeedResource m f b s from rfl) hpowered⟩,
    fun body => frameTurnedAway_of_actFeed (show exec (.feedSeal m f body) s = execFeedSeal m f body s from rfl) hpowered,
    fun src target limit =>
      frameTurnedAway_of_actFeed (show exec (.feedPower m f src target limit) s = execFeedPower m f src target limit s from rfl) hpowered,
    frameTurnedAway_of_actFeed (show exec (.feedKeepalive m f) s = execFeedKeepalive m f s from rfl) hpowered⟩

/-- Settles O54: each frame by what the meter that has kept it does, and by what every frame that is turned away leaves. -/
theorem meterTakesFrames : Obligations.MeterTakesFrames :=
  ⟨fun _ m f hpowered => frames_turnedAway m f hpowered,
    fun _ _ _ _ hkept => ⟨feedBind_opens hkept,
      fun hnone => ⟨feedUnbind_notOpen hkept hnone, feedResource_notOpen hkept hnone⟩, feedResource_package hkept,
      fun _ hx => ⟨feedUnbind_closes hkept hx, feedResource_changes hkept hx⟩⟩,
    fun _ _ _ hkept => ⟨fun _ => feedSeal_logged hkept,
      fun _ _ _ h3 h4 h5 => feedPower_logged hkept (fun h => h.elim h3 (fun h => h.elim h4 h5)),
      fun _ _ _ htarget => feedPower_closes hkept htarget, feedKeepalive_hears hkept⟩⟩

/-! ## Silence (R523) -/

/-- The meter that has found the part silent. -/
def partSilent (s : State) (m : MeterStamp) : State :=
  { meterAdvance s m with mtr := { (meterAdvance s m).mtr with silent := true } }

/-- The meter that has logged the silence. -/
def silenceLogged (s : State) (m : MeterStamp) : State := feedFault (partSilent s m) (s.mtr.lastSeq + 1) (s.mtr.lastSeq + 1) 4

theorem silenceLogged_mtr (s : State) (m : MeterStamp) : (silenceLogged s m).mtr.lastFrame = s.mtr.lastFrame ∧
    (silenceLogged s m).mtr.lastEnergy = s.mtr.lastEnergy ∧ (silenceLogged s m).mtr.newest = s.mtr.newest + 1 := by
  rw [silenceLogged, feedFault, logNow, logRecord_mtr]
  exact ⟨rfl, rfl, rfl⟩

/-- The close of every count at the last frame kept. -/
def silenceCloses (s : State) (m : MeterStamp) : State :=
  (openComps (silenceLogged s m)).foldl (closeComp s.mtr.lastFrame s.mtr.lastEnergy 2) (silenceLogged s m)

theorem silent_logs {s : State} {m : MeterStamp} : Sends s (silenceLogged s m) (.record (meterRecordBytes (nextRecord (partSilent s m) 9
    (meterNow s m) (meterAdvance s m).mtr.energy (faultBody (s.mtr.lastSeq + 1) (s.mtr.lastSeq + 1) 4)))) := sends_logRecord ..

theorem completes_silent {s : State} {m : MeterStamp} {P : State → Prop} (hpowered : s.mtr.powered = true)
    (hsilent : s.mtr.silent = false) (hlate : s.mtr.heard + 100000 ≤ meterNow s m) (h : P (finish s (silenceCloses s m))) :
    Completes (.silent m) s P := by
  refine completes_meter (show exec (.silent m) s = execSilent m s from rfl) hpowered ?_
  have hnot : ¬ ((meterAdvance s m).mtr.silent || decide ((meterAdvance s m).mtr.mtc < (meterAdvance s m).mtr.heard + 100000)) = true := by
    have hsilent' : (meterAdvance s m).mtr.silent = false := hsilent
    have hlate' : (meterAdvance s m).mtr.heard + 100000 ≤ (meterAdvance s m).mtr.mtc := hlate
    simp only [hsilent', Bool.false_or, decide_eq_true_eq]
    omega
  rw [if_neg hnot]
  obtain ⟨hframe, henergy, -⟩ := silenceLogged_mtr s m
  rw [silenceCloses, ← hframe, ← henergy] at h
  exact h

/-- Settles O59: the FEED_FAULT record stands before the closes, and every count that was open has its own among them. -/
theorem silenceClosesEveryCount : Obligations.SilenceClosesEveryCount := by
  intro s m hpowered hsilent hlate
  have hend : StaysSent (silenceLogged s m) (finish s (silenceCloses s m)) :=
    (staysSent_closeComps ..).trans (staysSent_finish ..)
  refine completes_silent hpowered hsilent hlate ⟨⟨_, rfl, rfl, rfl, rfl, sends_later silent_logs hend⟩, fun c x hx => ?_, fun c => ?_⟩
  · have hopen : meterComp (silenceLogged s m) c = some x := (meterComp_logRecord ..).trans hx
    obtain ⟨r, htype, hno, hmtc, henergy, hbody, hsends⟩ :=
      sends_closeComps s.mtr.lastFrame s.mtr.lastEnergy 2 _ _ (mem_openComps hopen) hopen
    obtain ⟨-, -, hnewest⟩ := silenceLogged_mtr s m
    rw [hnewest] at hno
    exact ⟨r, htype, hno, hmtc, henergy, hbody,
      sends_later (sends_since (staysSent_of_sends silent_logs) hsends) (staysSent_finish ..)⟩
  · rw [meterComp_finish, silenceCloses, meterComp_closeAll]

/-! ## The I3C port (R532, R533) -/

/-- A command of the port moves the dynamic address, the interrupt's enable and the pointer, and nothing else of the meter or the part. -/
def PortOnly (s t : State) : Prop :=
  ∃ address ibi pointer, t.mtr = { s.mtr with dynAddr := address, ibi := ibi, pointer := pointer } ∧ t.plt = s.plt

theorem portOnly_same {s t : State} (hmtr : t.mtr = s.mtr) (hplt : t.plt = s.plt) : PortOnly s t := ⟨_, _, _, hmtr, hplt⟩

theorem portOnly_directed (s : State) (bytes : List Byte) : PortOnly s (directed s bytes) := by
  unfold directed
  split <;> exact portOnly_same rfl rfl

/-- A target that refuses an address, or takes it. -/
theorem portOnly_takes (s : State) (refused : Prop) [Decidable refused] (a : BitVec 7) :
    PortOnly s (if refused then emit s .i3cNack else { s with mtr := { s.mtr with dynAddr := some a } }) := by
  split
  · exact portOnly_same rfl rfl
  · exact ⟨_, _, _, rfl, rfl⟩

theorem measuresStay_of_portOnly {s u : State} {m : MeterStamp} (h : PortOnly (meterAdvance s m) u) (s0 : State) :
    MeasuresStay s (finish s0 u) m ∧ (finish s0 u).mtr.log = s.mtr.log ∧ (finish s0 u).mtr.newest = s.mtr.newest := by
  obtain ⟨address, ibi, pointer, hmtr, hplt⟩ := h
  rw [MeasuresStay, finish_mtr, finish_plt, hmtr, hplt]
  exact ⟨⟨rfl, rfl, rfl, rfl, rfl, rfl, rfl, rfl, rfl, rfl, rfl, rfl, rfl, rfl, rfl, fun _ _ => rfl⟩, rfl, rfl⟩

theorem onlyReads_of_portOnly {c : Instr} {s : State} {m : MeterStamp} {effect : State → State} (hexec : exec c s = actMeter s m effect)
    (h : PortOnly (meterAdvance s m) (effect (meterAdvance s m))) : OnlyReads c s m :=
  ⟨fun hpowered => completes_meter hexec hpowered (measuresStay_of_portOnly h s), exec_meter_off hexec⟩

/-- A record leaves every slot but its own. -/
theorem log_logRecord_other (s : State) (type mtc energy : Nat) (body : List Byte) {k : Nat} (hk : k ≠ (s.mtr.newest + 1) % 2 ^ 20) :
    tabGet none (logRecord s type mtc energy body).mtr.log k = tabGet none s.mtr.log k := by
  rw [logRecord_mtr]
  exact tabGet_put_other none s.mtr.log (some (nextRecord s type mtc energy body)) hk

/-- A MARK is logged, and its slot is the one that the next record takes. -/
theorem mark_logged {s : State} {m : MeterStamp} {bs : List Byte} (hpowered : s.mtr.powered = true) :
    Completes (.mark m bs) s (fun t => Logged s t 11 (meterNow s m) (bs.take 8) ∧ MeasuresStay s t m) := by
  refine completes_meter (show exec (.mark m bs) s = execMark m bs s from rfl) hpowered ⟨(sameLog_meterAdvance s m).logged (sameLog_finish ..), ?_⟩
  have hslots := fun k => @log_logRecord_other (meterAdvance s m) 11 (meterAdvance s m).mtr.mtc (meterAdvance s m).mtr.energy (bs.take 8) k
  rw [logRecord_mtr] at hslots
  rw [MeasuresStay, finish_mtr, finish_plt, logNow, logRecord_mtr, logRecord_plt]
  exact ⟨rfl, rfl, rfl, rfl, rfl, rfl, rfl, rfl, rfl, rfl, rfl, rfl, rfl, rfl, rfl, hslots⟩

/-- Settles O56: a MARK takes the next slot, and every other command moves what belongs to the port alone. -/
theorem marksChangeNothingElse : Obligations.MarksChangeNothingElse := by
  refine ⟨fun s m bs => ⟨mark_logged, exec_meter_off (show exec (.mark m bs) s = execMark m bs s from rfl)⟩, fun s m => ?_⟩
  exact ⟨onlyReads_of_portOnly (show exec (.identity m) s = execIdentity m s from rfl) (portOnly_same rfl rfl),
    onlyReads_of_portOnly (show exec (.i3cStatus m) s = execI3cStatus m s from rfl) (portOnly_same rfl rfl),
    onlyReads_of_portOnly (show exec (.record m) s = execRecord m s from rfl) ⟨_, _, _, rfl, rfl⟩,
    onlyReads_of_portOnly (show exec (.certificate m) s = execCertificate m s from rfl) (portOnly_same rfl rfl),
    onlyReads_of_portOnly (show exec (.getpid m) s = execGetpid m s from rfl) (portOnly_directed ..),
    onlyReads_of_portOnly (show exec (.getbcr m) s = execGetbcr m s from rfl) (portOnly_directed ..),
    onlyReads_of_portOnly (show exec (.getdcr m) s = execGetdcr m s from rfl) (portOnly_directed ..),
    onlyReads_of_portOnly (show exec (.getstatus m) s = execGetstatus m s from rfl)
      (portOnly_directed { meterAdvance s m with fresh := (meterAdvance s m).fresh + 1 } _),
    fun k => onlyReads_of_portOnly (show exec (.pointer m k) s = execPointer m k s from rfl) ⟨_, _, _, rfl, rfl⟩,
    fun a => onlyReads_of_portOnly (show exec (.entdaa m a) s = execEntdaa m a s from rfl) (portOnly_takes ..),
    fun x a => onlyReads_of_portOnly (show exec (.setdasa m x a) s = execSetdasa m x a s from rfl) (portOnly_takes ..),
    fun e => onlyReads_of_portOnly (show exec (.enec m e) s = execEnec m e s from rfl) ⟨_, _, _, rfl, rfl⟩⟩

/-- What an effect sends last, where nothing was sent before it. -/
theorem completes_meter_sends {c : Instr} {s : State} {m : MeterStamp} {effect : State → State} {o : Output}
    (hexec : exec c s = actMeter s m effect) (hpowered : s.mtr.powered = true)
    (hout : (effect (meterAdvance s m)).out = o :: s.out) : Completes c s (fun t => Sends s t o) :=
  completes_meter hexec hpowered (sends_finish hout)

theorem recordAt_listed {s : State} {k : Nat} {r : MeterRecord} (h : tabGet none s.mtr.log (k % 2 ^ 20) = some r) (hno : r.recordNo = k) :
    recordAt s k = meterRecordBytes r := by
  rw [recordAt, h]
  exact if_pos hno

theorem recordAt_notHeld {s : State} {k : Nat} (h : ∀ r, tabGet none s.mtr.log (k % 2 ^ 20) = some r → r.recordNo ≠ k) :
    recordAt s k = List.replicate 256 255 := by
  rw [recordAt]
  split
  · next r hr => exact if_neg (h r hr)
  · rfl

/-- RECORD returns what the log holds at the pointer and moves the pointer on. -/
theorem record_answers {s : State} {m : MeterStamp} (hpowered : s.mtr.powered = true) : Completes (.record m) s (fun t =>
    Sends s t (.i3c (recordAt s s.mtr.pointer)) ∧ t.mtr.pointer = (s.mtr.pointer + 1) % 2 ^ 64) := by
  refine completes_meter (show exec (.record m) s = execRecord m s from rfl) hpowered ⟨sends_finish rfl, ?_⟩
  rw [finish_mtr]
  rfl

theorem directed_some {s : State} {a : BitVec 7} (h : s.mtr.dynAddr = some a) (bytes : List Byte) :
    directed s bytes = emit s (.i3c bytes) := by
  rw [directed, h]
  rfl

theorem directed_none {s : State} (h : s.mtr.dynAddr = none) (bytes : List Byte) : directed s bytes = emit s .i3cNack := by
  rw [directed, h]
  rfl

/-- A directed read is answered under a dynamic address alone. -/
theorem directed_answers {c : Instr} {s : State} {m : MeterStamp} {effect : State → State} {bytes : List Byte}
    (hexec : exec c s = actMeter s m effect) (hpowered : s.mtr.powered = true) (u : State) (hdyn : u.mtr.dynAddr = s.mtr.dynAddr)
    (hout : u.out = s.out) (heffect : effect (meterAdvance s m) = directed u bytes) :
    (s.mtr.dynAddr ≠ none → Completes c s (fun t => Sends s t (.i3c bytes))) ∧
      (s.mtr.dynAddr = none → Completes c s (fun t => Sends s t .i3cNack)) := by
  constructor
  · intro hsome
    obtain ⟨a, ha⟩ := Option.ne_none_iff_exists'.1 hsome
    refine completes_meter_sends hexec hpowered ?_
    rw [heffect, directed_some (hdyn.trans ha), emit, hout]
  · intro hnone
    refine completes_meter_sends hexec hpowered ?_
    rw [heffect, directed_none (hdyn.trans hnone), emit, hout]

/-- ENTDAA and SETDASA: a target that takes the address. -/
theorem address_taken {c : Instr} {s : State} {m : MeterStamp} {effect : State → State} {a : BitVec 7}
    (hexec : exec c s = actMeter s m effect) (hpowered : s.mtr.powered = true)
    (heffect : (effect (meterAdvance s m)).mtr.dynAddr = some a) : Completes c s (fun t => t.mtr.dynAddr = some a) := by
  refine completes_meter hexec hpowered ?_
  rw [finish_mtr]
  exact heffect

/-- ENTDAA and SETDASA: a target that does not. -/
theorem address_refused {c : Instr} {s : State} {m : MeterStamp} {effect : State → State}
    (hexec : exec c s = actMeter s m effect) (hpowered : s.mtr.powered = true)
    (heffect : effect (meterAdvance s m) = emit (meterAdvance s m) .i3cNack) :
    Completes c s (fun t => t.mtr.dynAddr = s.mtr.dynAddr ∧ Sends s t .i3cNack) := by
  refine completes_meter hexec hpowered ?_
  rw [heffect, finish_mtr]
  exact ⟨rfl, sends_finish rfl⟩

theorem entdaa_answers {s : State} (m : MeterStamp) (hpowered : s.mtr.powered = true) (a : BitVec 7) :
    (s.mtr.dynAddr = none → Completes (.entdaa m a) s (fun t => t.mtr.dynAddr = some a)) ∧
      (s.mtr.dynAddr ≠ none → Completes (.entdaa m a) s (fun t => t.mtr.dynAddr = s.mtr.dynAddr ∧ Sends s t .i3cNack)) := by
  have hsame : (meterAdvance s m).mtr.dynAddr = s.mtr.dynAddr := rfl
  refine ⟨fun hnone => address_taken (show exec (.entdaa m a) s = execEntdaa m a s from rfl) hpowered ?_, fun hsome => address_refused (show exec (.entdaa m a) s = execEntdaa m a s from rfl) hpowered ?_⟩
  · simp [hsame, hnone]
  · simp [hsame, Option.isSome_iff_ne_none, hsome]

theorem setdasa_answers {s : State} (m : MeterStamp) (hpowered : s.mtr.powered = true) (a : BitVec 7) :
    (s.mtr.dynAddr = none → Completes (.setdasa m s.mtr.staticAddr a) s (fun t => t.mtr.dynAddr = some a)) ∧
      (∀ x, (s.mtr.dynAddr ≠ none ∨ x ≠ s.mtr.staticAddr) → Completes (.setdasa m x a) s (fun t =>
        t.mtr.dynAddr = s.mtr.dynAddr ∧ Sends s t .i3cNack)) := by
  have hsame : (meterAdvance s m).mtr.dynAddr = s.mtr.dynAddr := rfl
  have hstatic : (meterAdvance s m).mtr.staticAddr = s.mtr.staticAddr := rfl
  refine ⟨fun hnone => address_taken (show exec (.setdasa m s.mtr.staticAddr a) s = execSetdasa m s.mtr.staticAddr a s from rfl) hpowered ?_, fun x hx => address_refused (show exec (.setdasa m x a) s = execSetdasa m x a s from rfl) hpowered ?_⟩
  · simp [hsame, hstatic, hnone]
  · refine if_pos ?_
    simpa [hsame, hstatic, Option.isSome_iff_ne_none] using hx

/-- Settles O57: each command of the port by what it sends and by what it moves. -/
theorem i3cPortAnswers : Obligations.I3cPortAnswers := by
  intro s m hpowered
  have hpid := directed_answers (show exec (.getpid m) s = execGetpid m s from rfl) hpowered (meterAdvance s m) rfl rfl rfl
  have hbcr := directed_answers (show exec (.getbcr m) s = execGetbcr m s from rfl) hpowered (meterAdvance s m) rfl rfl rfl
  have hdcr := directed_answers (show exec (.getdcr m) s = execGetdcr m s from rfl) hpowered (meterAdvance s m) rfl rfl rfl
  have hstatus := directed_answers (show exec (.getstatus m) s = execGetstatus m s from rfl) hpowered
    { meterAdvance s m with fresh := (meterAdvance s m).fresh + 1 } rfl rfl rfl
  refine ⟨?_, completes_meter_sends (show exec (.i3cStatus m) s = execI3cStatus m s from rfl) hpowered rfl, fun k => ?_, fun r hr hno => ?_, fun hnone => ?_,
    completes_meter_sends (show exec (.certificate m) s = execCertificate m s from rfl) hpowered rfl, fun a => ?_, fun hdyn => ⟨hpid.1 hdyn, hbcr.1 hdyn, hdcr.1 hdyn, hstatus.1 hdyn⟩,
    fun hdyn => ⟨hpid.2 hdyn, hbcr.2 hdyn, hdcr.2 hdyn, hstatus.2 hdyn⟩, fun e => ?_⟩
  · refine completes_meter (show exec (.identity m) s = execIdentity m s from rfl) hpowered ⟨sends_finish rfl, ?_⟩
    rw [finish_mtr]
    rfl
  · refine completes_meter (show exec (.pointer m k) s = execPointer m k s from rfl) hpowered ?_
    rw [finish_mtr]
    exact ⟨rfl, rfl⟩
  · rw [← recordAt_listed hr hno]
    exact record_answers hpowered
  · rw [← recordAt_notHeld hnone]
    exact record_answers hpowered
  · exact ⟨(entdaa_answers m hpowered a).1, (entdaa_answers m hpowered a).2, (setdasa_answers m hpowered a).1,
      (setdasa_answers m hpowered a).2⟩
  · refine completes_meter (show exec (.enec m e) s = execEnec m e s from rfl) hpowered ?_
    rw [finish_mtr]
    exact ⟨rfl, rfl⟩

end Sys2Proof.Machine
end

section
/-! SUPPORT. Chain frames that the part takes, departures, and what a cold reset leaves (O11, O12, O14). -/

namespace Sys2Proof.Machine

open Sys2Proof

/-! ## Frames for the part (R562, R563) -/

@[simp] theorem heard_plt (s : State) : (heard s).plt = s.plt := by unfold heard; split <;> rfl
@[simp] theorem heard_lnk (s : State) : (heard s).lnk = s.lnk := by unfold heard; split <;> rfl
@[simp] theorem heard_twn (s : State) : (heard s).twn = s.twn := by unfold heard; split <;> rfl
@[simp] theorem heard_out (s : State) : (heard s).out = s.out := by unfold heard; split <;> rfl
@[simp] theorem heard_fls (s : State) : (heard s).fls = s.fls := by unfold heard; split <;> rfl
@[simp] theorem heard_mtr (s : State) : (heard s).mtr = s.mtr := by unfold heard; split <;> rfl

theorem heard_on {s : State} (h : s.plt.mainRails = true) : heard s = putF s F.pltChain.ringOk 1 := if_pos h

theorem isReady_heard (s : State) : isReady (heard s) = isReady s := by rw [isReady, isReady, heard_plt]

/-- A good frame for the part's own address takes its effect once the ring is heard. -/
theorem effect_chainRow {c : Instr} {s : State} {h : ChainHead} {bytes : List Byte} {effect : State → State}
    (hexec : exec c s = chainRow s h bytes effect) (hhere : ChainHere s h) : Effect c s (effect (heard s)) := by
  obtain ⟨hvaux, hcrc, hdest, hzero, hbroadcast⟩ := hhere
  have heffect := effect_act hexec hvaux
  have hmine : isMine (ringHeard s) h = true := by
    have hplt : (ringHeard s).plt = s.plt := heard_plt s
    simp [isMine, hplt, hdest, hzero]
  have hnot : h.dest ≠ 63 := by rw [hdest]; exact hbroadcast
  simp only [hcrc, Bool.not_true, Bool.false_eq_true, if_false, beq_iff_eq, if_neg hnot, hmine, if_true] at heffect
  exact heffect

theorem answerChain_here {s t : State} {h : ChainHead} (hhere : ChainHere s h) (cmd status : Nat) (payload : List Nat) :
    answerChain t h cmd status payload = Sys2Proof.answer t h (cmd + 128) status payload := by
  obtain ⟨-, -, hdest, -, hbroadcast⟩ := hhere
  exact if_neg (by rw [hdest]; exact hbroadcast)

theorem answerChain_keeps (s : State) (h : ChainHead) (cmd status : Nat) (payload : List Nat) :
    (answerChain s h cmd status payload).plt = s.plt ∧ (answerChain s h cmd status payload).lnk = s.lnk := by
  unfold answerChain
  split <;> exact ⟨rfl, rfl⟩

/-- A command that waits for READY is served by a part that is. -/
theorem effect_whenReady {c : Instr} {s : State} {h : ChainHead} {bytes : List Byte} {cmd : Nat} {effect : State → State}
    (hexec : exec c s = chainRow s h bytes (fun s => whenReady s h cmd effect)) (hhere : ChainHere s h) (hready : isReady s = true) :
    Effect c s (effect (heard s)) := by
  have heffect := effect_chainRow hexec hhere
  rwa [whenReady, isReady_heard, if_pos hready] at heffect

/-! ## Departures (R511, R541) -/

/-- An enrolled part that serves, and departs for nothing yet, announces its departure. -/
theorem depart_announces {s : State} (a : AfterDeparture) (hready : isReady s = true) (henrolled : s.lnk.enrolled = true)
    (hnone : s.plt.departing = none) : depart s a = announceDeparture s a := by
  rw [depart, hready, henrolled, hnone]
  rfl

/-- A part that has nothing to depart from goes on at once. -/
theorem depart_atOnce {s : State} (a : AfterDeparture) (h : departsAtOnce s) : depart s a = endDeparture s a := by
  rw [depart, if_pos]
  rcases h with h | h <;> simp [h]

theorem isReady_rails {s : State} (h : isReady s = true) : s.plt.mainRails = true := by
  rw [isReady, Bool.and_eq_true] at h
  exact h.1

/-- A part that is READY serves every block. -/
theorem serves_of_isReady {s : State} (h : isReady s = true) (block : Nat) : serves s block = true := by
  simp only [isReady, Bool.and_eq_true, beq_iff_eq] at h
  obtain ⟨hrails, hstate⟩ := h
  rw [serves, hrails, hstate]
  rfl

theorem powerBusy_awake {s : State} (hawake : isAwake s = true) (hnone : s.plt.departing = none) : powerBusy s = false := by
  simp only [isAwake, Bool.or_eq_true, beq_iff_eq] at hawake
  rcases hawake with h | h <;> simp [powerBusy, h, hnone]

theorem resetEndpoint_keeps (s : State) (function : Bool) :
    (resetEndpoint s function).plt = s.plt ∧ (resetEndpoint s function).lnk = s.lnk := by
  unfold resetEndpoint
  dsimp only
  split <;> exact ⟨rfl, rfl⟩

/-- A reset of the endpoint of an enrolled part that serves is followed by its departure. -/
theorem effect_endpointReset {c : Instr} {s : State} {function : Bool} (hexec : exec c s = endpointReset s function)
    (hready : isReady s = true) (henrolled : s.lnk.enrolled = true) (hnone : s.plt.departing = none) :
    Effect c s (announceDeparture (resetEndpoint s function) (.reset .warm)) := by
  obtain ⟨hplt, hlnk⟩ := resetEndpoint_keeps s function
  have heffect := effect_act hexec (isReady_rails hready)
  rwa [depart_announces _ (by rw [isReady, hplt]; exact hready) (by rw [hlnk, henrolled]) (by rw [hplt, hnone])] at heffect

/-- A command of the chain that an enrolled part answers before it departs. -/
theorem effect_chainDeparts {c : Instr} {s : State} {h : ChainHead} {bytes : List Byte} {cmd : Nat} {a : AfterDeparture}
    (hexec : exec c s = chainRow s h bytes (fun s => whenReady s h cmd (fun s => depart (answerChain s h cmd 0 []) a)))
    (hhere : ChainHere s h) (hready : isReady s = true) (henrolled : s.lnk.enrolled = true) (hnone : s.plt.departing = none) :
    Effect c s (announceDeparture (answerChain (putF s F.pltChain.ringOk 1) h cmd 0 []) a) := by
  have heffect := effect_whenReady hexec hhere hready
  obtain ⟨hplt, hlnk⟩ := answerChain_keeps (heard s) h cmd 0 []
  rw [heard_plt] at hplt
  rw [heard_lnk] at hlnk
  rwa [depart_announces _ (by rw [isReady, hplt]; exact hready) (by rw [hlnk, henrolled]) (by rw [hplt, hnone]),
    heard_on (isReady_rails hready)] at heffect

/-- A command that is a departure alone. -/
theorem effect_departs {c : Instr} {s : State} {taken : Bool} {a : AfterDeparture} (hexec : exec c s = act s taken (fun s => depart s a))
    (htaken : taken = true) (hready : isReady s = true) (henrolled : s.lnk.enrolled = true) (hnone : s.plt.departing = none) :
    Effect c s (announceDeparture s a) := by
  have heffect := effect_act hexec htaken
  rwa [depart_announces a hready henrolled hnone] at heffect

theorem effect_black {s : State} (hready : isReady s = true) (henrolled : s.lnk.enrolled = true) (hnone : s.plt.departing = none)
    (hawake : isAwake s = true) : Effect .black s (announceDeparture (putF s F.pwrStatus.cmdStatus 5) (.black 1)) := by
  have heffect := effect_act (show exec .black s = execBlack s from rfl) (serves_of_isReady hready 2)
  rw [powerBusy_awake hawake hnone, if_neg (by decide)] at heffect
  rwa [depart_announces (s := pwrStatus s 5) (.black 1) hready henrolled hnone] at heffect

/-- Settles O11: each command is one `depart`, and an enrolled part that serves announces its departure there. -/
theorem resetsDepartFirst : Obligations.ResetsDepartFirst := by
  refine ⟨fun s hready henrolled hnone => ⟨?_, ?_, ?_, ?_, fun hvaux => ?_, effect_black hready henrolled hnone⟩,
    fun s h hready henrolled hnone hvaux hcrc hdest hzero hbroadcast => ?_⟩
  · exact effect_departs (show exec .warmReset s = execWarmReset s from rfl) (serves_of_isReady hready 0) hready henrolled hnone
  · exact effect_departs (show exec .coldReset s = execColdReset s from rfl) (serves_of_isReady hready 0) hready henrolled hnone
  · exact effect_endpointReset (show exec .perst s = execPerst s from rfl) hready henrolled hnone
  · exact effect_endpointReset (show exec .functionLevelReset s = execFunctionLevelReset s from rfl) hready henrolled hnone
  · exact effect_departs (show exec .powerEnFall s = execPowerEnFall s from rfl) (by rw [hvaux, isReady_rails hready]; rfl) hready henrolled
      hnone
  · have hhere : ChainHere s h := ⟨hvaux, hcrc, hdest, hzero, hbroadcast⟩
    exact ⟨effect_chainDeparts (show exec (.chainReset h 1) s = execChainReset h 1 s from rfl) hhere hready henrolled hnone,
      effect_chainDeparts (show exec (.chainReset h 2) s = execChainReset h 2 s from rfl) hhere hready henrolled hnone,
      effect_chainDeparts (show exec (.powerOff h) s = execPowerOff h s from rfl) hhere hready henrolled hnone⟩

/-! ## What a cold reset leaves (R542, R630) -/

theorem interruptBurn_plt (s : State) : ∃ fuses burning nonce,
    (interruptBurn s).plt = { s.plt with fuses := fuses, burning := burning, nonceNo := nonce } := by
  unfold interruptBurn
  split <;> exact ⟨_, _, _, rfl⟩

theorem setIdleSlot_plt (s : State) (im : Option Image) : ∃ a b, (setIdleSlot s im).plt = { s.plt with bootA := a, bootB := b } := by
  unfold setIdleSlot
  split <;> exact ⟨_, _, rfl⟩

theorem interruptStage_plt (s : State) : ∃ staging a b,
    (interruptStage s).plt = { s.plt with staging := staging, bootA := a, bootB := b } := by
  unfold interruptStage
  split
  · exact ⟨_, _, _, rfl⟩
  · next im _ =>
    have hpick := (keep_pick s [if s.plt.runningB then s.plt.bootA else s.plt.bootB, some im, none]).plt.resolve_left (by decide)
    obtain ⟨a, b, h⟩ := setIdleSlot_plt { (pick s [if s.plt.runningB then s.plt.bootA else s.plt.bootB, some im, none]).2 with plt :=
      { (pick s [if s.plt.runningB then s.plt.bootA else s.plt.bootB, some im, none]).2.plt with staging := none } }
      ((pick s [if s.plt.runningB then s.plt.bootA else s.plt.bootB, some im, none]).1.getD none)
    refine ⟨none, a, b, ?_⟩
    dsimp only
    rw [h, hpick]

/-- Stopping the writes under way changes what they wrote, and nothing else of the platform. -/
theorem stopWrites_plt (s : State) : ∃ fuses burning nonce staging a b, (stopWrites s).plt =
    { s.plt with fuses := fuses, burning := burning, nonceNo := nonce, staging := staging, bootA := a, bootB := b } := by
  obtain ⟨fuses, burning, nonce, hburn⟩ := interruptBurn_plt s
  obtain ⟨staging, a, b, hstage⟩ := interruptStage_plt (interruptBurn s)
  refine ⟨fuses, burning, nonce, staging, a, b, ?_⟩
  rw [stopWrites, hstage, hburn]

theorem coldState_mtr (s : State) : (coldState s).mtr = s.mtr := (keep_stopWrites s).mtr.resolve_left (by decide)

theorem coldState_out (s : State) : (coldState s).out = s.out := (keep_stopWrites s).out.resolve_left (by decide)

theorem coldState_blocks (s : State) : (coldState s).fls.blocks = s.fls.blocks :=
  show (stopWrites s).fls.blocks = s.fls.blocks by rw [(keep_stopWrites s).fls.resolve_left (by decide)]

theorem coldState_chain (s : State) :
    (coldState s).plt.chainAddr = s.plt.chainAddr ∧ (coldState s).plt.thermo = s.plt.thermo := by
  obtain ⟨fuses, burning, nonce, staging, a, b, h⟩ := stopWrites_plt s
  exact ⟨(congrArg Platform.chainAddr h :), (congrArg Platform.thermo h :)⟩

/-- The part is at its cold reset, but for the rails, what starts, why they went off, and the trip signal. -/
def AtCold (s t : State) : Prop :=
  ∃ rails starting cause trip out, t = { coldState s with
    plt := { (coldState s).plt with mainRails := rails, starting := starting, lastOff := cause, thermTripLow := trip }, out := out }

theorem atCold_coldState (s : State) : AtCold s (coldState s) := ⟨_, _, _, _, _, rfl⟩

theorem atCold_railsOff (s : State) (cause : Nat) : AtCold s (railsOff s cause) := ⟨_, _, _, _, _, rfl⟩

/-- What stands at its cold reset is cleared as R542 says, through the end of the command that put it there. -/
theorem coldCleared_finish {s u t : State} (hat : AtCold u t) (hblocks : u.fls.blocks = s.fls.blocks) (hmtr : u.mtr = s.mtr)
    (haddr : u.plt.chainAddr = s.plt.chainAddr) (hthermo : u.plt.thermo = s.plt.thermo) (s0 : State) : ColdCleared s (finish s0 t) := by
  obtain ⟨rails, starting, cause, trip, out, rfl⟩ := hat
  obtain ⟨hcoldAddr, hcoldThermo⟩ := coldState_chain u
  simp only [ColdCleared, finish_mem, finish_plt, finish_fab, finish_ucode, finish_sch, finish_pfx, finish_coh, finish_lnk, finish_pwr,
    finish_odt, finish_pages, finish_leases, finish_xts, finish_manifests, finish_entryState, finish_ledgers, finish_xfrSlots,
    finish_codTables, finish_twnState, finish_twnRole, finish_fls, finish_mtr]
  refine ⟨rfl, rfl, rfl, rfl, rfl, rfl, rfl, rfl, rfl, rfl, rfl, rfl, rfl, rfl, rfl, rfl, rfl, rfl, rfl, fun _ => rfl, rfl, rfl, rfl, rfl,
    rfl, fun f hf => ?_, (coldState_blocks u).trans hblocks, (coldState_mtr u).trans hmtr, hcoldAddr.trans haddr,
    hcoldThermo.trans hthermo⟩
  rw [finish_getF _ _ f (by rw [← quietField_eq_isQuiet]; exact hf)]
  rfl

/-- What a POWER or a chain frame leaves of what a cold reset keeps. -/
theorem sendPower_keeps (s : State) (target : Nat) :
    (sendPower s target).fls = s.fls ∧ (sendPower s target).mtr = s.mtr ∧ (sendPower s target).plt = s.plt :=
  ⟨(keep_sendPower s target).fls.resolve_left (by decide), (keep_sendPower s target).mtr.resolve_left (by decide),
    (keep_sendPower s target).plt.resolve_left (by decide)⟩

theorem sendChain_keeps (s : State) (dest cmd : Nat) (payload : List Nat) : (sendChain s dest cmd payload).fls = s.fls ∧
    (sendChain s dest cmd payload).mtr = s.mtr ∧ (sendChain s dest cmd payload).plt = s.plt :=
  ⟨(keep_sendChain s dest cmd payload).fls.resolve_left (by decide), (keep_sendChain s dest cmd payload).mtr.resolve_left (by decide),
    (keep_sendChain s dest cmd payload).plt.resolve_left (by decide)⟩

/-- The end of a departure, for a state that stands with the command's own in what a cold reset keeps. -/
theorem coldCleared_afterPower {s u t : State} {target : Nat} (hat : AtCold (sendPower u target) t) (hfls : u.fls = s.fls)
    (hmtr : u.mtr = s.mtr) (hplt : u.plt = s.plt) : ColdCleared s (finish s t) := by
  obtain ⟨hfls', hmtr', hplt'⟩ := sendPower_keeps u target
  exact coldCleared_finish hat (by rw [hfls', hfls]) (by rw [hmtr', hmtr]) (by rw [hplt', hplt]) (by rw [hplt', hplt]) s

/-- A cold reset that follows a departure, or needs none. -/
theorem endDeparture_cold {s u : State} (hfls : u.fls = s.fls) (hmtr : u.mtr = s.mtr) (hplt : u.plt = s.plt) :
    ColdCleared s (finish s (endDeparture u (.reset .cold))) ∧ (finish s (endDeparture u (.reset .cold))).plt.mainRails = true ∧
      (finish s (endDeparture u (.reset .cold))).plt.starting = some .cold := by
  refine ⟨coldCleared_afterPower (atCold_coldState _) hfls hmtr hplt, ?_, ?_⟩ <;> rw [finish_plt] <;> rfl

theorem endDeparture_black {s u : State} (cause : Nat) (hfls : u.fls = s.fls) (hmtr : u.mtr = s.mtr) (hplt : u.plt = s.plt) :
    ColdCleared s (finish s (endDeparture u (.black cause))) ∧ (finish s (endDeparture u (.black cause))).plt.mainRails = false ∧
      (finish s (endDeparture u (.black cause))).plt.lastOff = cause := by
  refine ⟨coldCleared_afterPower (atCold_railsOff _ _) hfls hmtr hplt, ?_, ?_⟩ <;> rw [finish_plt] <;> rfl

theorem effect_departureComplete {s : State} {a : AfterDeparture} (hdone : operationsDone s = true) (ha : s.plt.departing = some a) :
    Effect .departureComplete s (endDeparture (sendChain s 0 0x0B [3]) a) := by
  have heffect := effect_act (show exec .departureComplete s = execDepartureComplete s from rfl) hdone
  simpa only [ha] using heffect

/-- Settles O12: DEPARTED goes out first, and then the end of the departure, which a part with nothing to depart from takes at once. -/
theorem departureEnds : Obligations.DepartureEnds := by
  refine ⟨fun s hdone => ⟨fun a ha => effect_departureComplete hdone ha, fun ha => ?_, fun cause ha => ?_⟩, fun s hatOnce hserves => ?_⟩
  · obtain ⟨hfls, hmtr, hplt⟩ := sendChain_keeps s 0 0x0B [3]
    exact completes_effect (effect_departureComplete hdone ha) (endDeparture_cold hfls hmtr hplt)
  · obtain ⟨hfls, hmtr, hplt⟩ := sendChain_keeps s 0 0x0B [3]
    exact completes_effect (effect_departureComplete hdone ha) (endDeparture_black cause hfls hmtr hplt)
  · refine completes_act (show exec .coldReset s = execColdReset s from rfl) hserves ?_
    rw [depart_atOnce _ hatOnce]
    exact endDeparture_cold rfl rfl rfl

/-! ## The rails go off (R537, R542, R571, R587) -/

theorem railsOff_clears (s : State) (cause : Nat) : ColdCleared s (finish s (railsOff s cause)) ∧
    (finish s (railsOff s cause)).plt.mainRails = false ∧ (finish s (railsOff s cause)).plt.lastOff = cause := by
  refine ⟨coldCleared_finish (atCold_railsOff s cause) rfl rfl rfl rfl s, ?_, ?_⟩ <;> rw [finish_plt] <;> rfl

/-- The trip: a POWER frame, the rails go off, and THERM_TRIP_N falls. -/
theorem thermalTrip_clears {s : State} {d : Die} {r : Int} (hrails : s.plt.mainRails = true) (hhot : 109 ≤ r) :
    Completes (.thermalTrip d r) s (fun t => ColdCleared s t ∧ t.plt.mainRails = false ∧ t.plt.lastOff = 3 ∧ t.plt.thermTripLow = true ∧
      Sends s t (.thermTrip true)) := by
  refine completes_act (show exec (.thermalTrip d r) s = execThermalTrip d r s from rfl) ?_
    ⟨coldCleared_afterPower (u := s) (target := 3) ⟨_, _, _, _, _, rfl⟩ rfl rfl rfl, ?_, ?_, ?_, ?_⟩
  · rw [hrails, Bool.true_and, decide_eq_true_eq]
    omega
  · rw [finish_plt]; rfl
  · rw [finish_plt]; rfl
  · rw [finish_plt]; rfl
  · have hout : (railsOff (sendPower s 3) 3).out = (sendPower s 3).out := coldState_out _
    have hsent : StaysSent s (sendPower s 3) := by
      unfold sendPower
      split
      · exact ⟨[_, _], rfl⟩
      · exact .of_eq rfl
    refine sends_later ?_ (staysSent_finish s _)
    exact sends_since (hsent.trans (.of_eq hout)) (sends_of_cons rfl)

/-- FENCE: the rails go off with no departure, and the answer follows. -/
theorem fence_clears {s : State} {h : ChainHead} (hrails : s.plt.mainRails = true) (hhere : ChainHere s h) :
    Completes (.fence h) s (fun t => ColdCleared s t ∧ t.plt.mainRails = false ∧ t.plt.lastOff = 6 ∧
      Sends s t (.chain { dest := 0, source := s.plt.chainAddr, cmd := 0x89, seq := h.seq, status := 0, payload := [] })) := by
  have heffect := effect_chainRow (show exec (.fence h) s = execFence h s from rfl) hhere
  rw [heard_plt, if_pos hrails, answerChain_here hhere] at heffect
  obtain ⟨haddr, -⟩ := coldState_chain (heard s)
  rw [heard_plt] at haddr
  refine completes_effect heffect ⟨coldCleared_finish (u := heard s) ⟨_, _, _, _, _, rfl⟩ (by rw [heard_fls]) (heard_mtr s)
    (by rw [heard_plt]) (by rw [heard_plt]) s, ?_, ?_, ?_⟩
  · rw [finish_plt]; rfl
  · rw [finish_plt]; rfl
  · refine sends_finish ?_
    have hout : (railsOff (heard s) 6).out = s.out := (coldState_out _).trans (heard_out s)
    have hsource : (railsOff (heard s) 6).plt.chainAddr = s.plt.chainAddr := haddr
    rw [Sys2Proof.answer, emit, hout, hsource]

/-- The loss of VAUX3 takes the rails and the chain address. -/
theorem vaux3Loss_clears {s : State} (hvaux : s.plt.vaux3 = true) (hrails : s.plt.mainRails = true) :
    Completes .vaux3Loss s (fun t => t.plt.mainRails = false ∧ t.plt.vaux3 = false ∧ t.plt.chainAddr = 0 ∧ t.plt.lastOff = 7 ∧
      t.mem = [] ∧ t.fab = {} ∧ t.mtr = s.mtr) := by
  refine completes_act (show exec .vaux3Loss s = execVaux3Loss s from rfl) hvaux ?_
  have hreleased : ∃ out, (if (railsOff s 7).plt.thermTripLow then emit (railsOff s 7) (.thermTrip false) else railsOff s 7) =
      { railsOff s 7 with out := out } := by
    split <;> exact ⟨_, rfl⟩
  obtain ⟨out, hout⟩ := hreleased
  dsimp only
  rw [if_pos hrails, hout, finish_plt, finish_mem, finish_fab, finish_mtr]
  exact ⟨rfl, rfl, rfl, rfl, rfl, rfl, coldState_mtr s⟩

/-- Settles O14: every cut of the rails is `railsOff` with its own cause. -/
theorem railsGoOff : Obligations.RailsGoOff := by
  refine ⟨fun s mv hrails hlow => ?_, fun s mv hrails hhigh => ?_, fun s d r hrails hhot => thermalTrip_clears hrails hhot,
    fun s h hrails hvaux hcrc hdest hzero hbroadcast => fence_clears hrails ⟨hvaux, hcrc, hdest, hzero, hbroadcast⟩,
    fun s hvaux hrails => vaux3Loss_clears hvaux hrails, fun s hvaux hrails hatOnce => ?_, fun s hserves hatOnce hawake hnone => ?_⟩
  · exact completes_act (show exec (.vin56Under mv) s = execVin56Under mv s from rfl) (by simp [hrails, hlow]) (railsOff_clears s 4)
  · exact completes_act (show exec (.vin56Over mv) s = execVin56Over mv s from rfl) (by simp [hrails, hhigh]) (railsOff_clears s 5)
  · refine completes_act (show exec .powerEnFall s = execPowerEnFall s from rfl) (by rw [hvaux, hrails]; rfl) ?_
    rw [depart_atOnce _ hatOnce]
    exact endDeparture_black 2 rfl rfl rfl
  · refine completes_act (show exec .black s = execBlack s from rfl) hserves ?_
    rw [powerBusy_awake hawake hnone, if_neg (by decide), depart_atOnce (s := pwrStatus s 5) _ hatOnce]
    exact endDeparture_black 1 rfl rfl rfl

end Sys2Proof.Machine
end

section
/-! SUPPORT. The chain port and the tray controller's commands (O18, O19). -/

namespace Sys2Proof.Machine

open Sys2Proof

/-! ## Frames that go on (R563, R565) -/

/-- A good frame that is neither broadcast nor for the part goes on. -/
theorem effect_chainPassed {c : Instr} {s : State} {h : ChainHead} {bytes : List Byte} {effect : State → State}
    (hexec : exec c s = chainRow s h bytes effect) (hvaux : s.plt.vaux3 = true) (hcrc : h.crcOk = true) (hbroadcast : h.dest ≠ 63)
    (hother : s.plt.chainAddr = 0 ∨ h.dest ≠ s.plt.chainAddr) : Effect c s (emit (heard s) (.chainPassed bytes)) := by
  have heffect := effect_act hexec hvaux
  have hmine : isMine (ringHeard s) h = false := by
    have hplt : (ringHeard s).plt = s.plt := heard_plt s
    rcases hother with h0 | h0 <;> simp [isMine, hplt, hbroadcast, h0]
  simp only [hcrc, Bool.not_true, Bool.false_eq_true, if_false, beq_iff_eq, if_neg hbroadcast, hmine] at heffect
  exact heffect

/-- A frame with a wrong CRC goes on, and is counted. -/
theorem effect_chainBadCrc {c : Instr} {s : State} {h : ChainHead} {bytes : List Byte} {effect : State → State}
    (hexec : exec c s = chainRow s h bytes effect) (hvaux : s.plt.vaux3 = true) (hcrc : h.crcOk = false) :
    Effect c s (emit (satF (heard s) F.pltChain.crcErrors) (.chainPassed bytes)) := by
  have heffect := effect_act hexec hvaux
  simp only [hcrc, Bool.not_false, if_true] at heffect
  exact heffect

/-- ENUM at a part without an address: it takes the number, and the frame goes on with the next one. -/
theorem enum_takes {s : State} {h : ChainHead} {next : Nat} (hvaux : s.plt.vaux3 = true) (hcrc : h.crcOk = true)
    (hzero : s.plt.chainAddr = 0) (hlow : 1 ≤ next) (hhigh : next ≤ 62) : Effect (.enum h next) s
      (emit { heard s with plt := { s.plt with chainAddr := next } } (.chainEnum h.seq (next + 1))) := by
  have heffect := effect_act (show exec (.enum h next) s = execEnum h next s from rfl) hvaux
  have hplt : (ringHeard s).plt = s.plt := heard_plt s
  simp only [hcrc, Bool.not_true, Bool.false_eq_true, if_false, hplt, hzero, hlow, hhigh, and_self, if_true] at heffect
  exact heffect

theorem enum_passes {s : State} {h : ChainHead} {next : Nat} (hvaux : s.plt.vaux3 = true) (hcrc : h.crcOk = true)
    (haddr : s.plt.chainAddr ≠ 0) : Effect (.enum h next) s (emit (heard s) (.chainEnum h.seq next)) := by
  have heffect := effect_act (show exec (.enum h next) s = execEnum h next s from rfl) hvaux
  have hplt : (ringHeard s).plt = s.plt := heard_plt s
  simp only [hcrc, Bool.not_true, Bool.false_eq_true, if_false, hplt, haddr, false_and] at heffect
  exact heffect

/-- Settles O18: ENUM by its own branches, and every other frame by what the port does with one that is its own or is not. -/
theorem chainPortServes : Obligations.ChainPortServes := by
  refine ⟨fun s h next hvaux hcrc hzero hlow hhigh => enum_takes hvaux hcrc hzero hlow hhigh,
    fun s h next hvaux hcrc haddr => enum_passes hvaux hcrc haddr, fun s h hhere => ?_, fun s h hhere => ?_, fun s h hhere => ?_,
    fun s h bs hvaux hcrc hbroadcast hother => ?_, fun s h bs hvaux hcrc => ?_, fun s hvaux hrails => ?_⟩
  · have heffect := effect_chainRow (show exec (.getId h) s = execGetId h s from rfl) hhere
    simpa only [answerChain_here hhere, heard_plt, Nat.reduceAdd] using heffect
  · have heffect := effect_chainRow (show exec (.status h) s = execStatus h s from rfl) hhere
    simpa only [answerChain_here hhere, heard_plt, heard_twn, Nat.reduceAdd] using heffect
  · have heffect := effect_chainRow (show exec (.departAnswer h) s = execDepartAnswer h s from rfl) hhere
    exact heffect
  · exact effect_chainPassed (show exec (.chainForward h bs) s = execChainForward h bs s from rfl) hvaux hcrc hbroadcast hother
  · exact effect_chainBadCrc (show exec (.chainForward h bs) s = execChainForward h bs s from rfl) hvaux hcrc
  · have heffect := effect_act (show exec .chainRingSilent s = execChainRingSilent s from rfl) (by rw [hvaux, hrails]; rfl)
    exact heffect

/-! ## SET_MEMBER (R414, R566) -/

/-- A pairing that stays changes nothing. -/
theorem pairWith_same {s : State} {twin : Option Nat} (h : s.lnk.twin = twin) : pairWith s twin = s := by
  rw [pairWith, if_pos (by simp [h])]

theorem memberOf_heard (s : State) (m : Nat) : memberOf (heard s) m = memberOf s m := by rw [memberOf, memberOf, heard_lnk]

theorem setMember_sets {s : State} {h : ChainHead} {tray m tw : Nat} {en : Bool} (hhere : ChainHere s h) (hready : isReady s = true)
    (hm : m < 16) (htw : tw < 16 ∨ tw = 0xFF) (htray : tray < 2 ^ 32) (hfree : en = true → memberOf s m ≠ .enrolled)
    (htwin : s.lnk.twin = (if tw = 0xFF then none else some tw)) : Effect (.setMember h tray m tw en) s
      (Sys2Proof.answer { heard s with lnk := { s.lnk with trayId := tray, member := m, enrolled := en } } h 0x83 0 []) := by
  have heffect := effect_whenReady (show exec (.setMember h tray m tw en) s = execSetMember h tray m tw en s from rfl) hhere hready
  have hsame : setTray (heard s) tray m (if tw = 0xFF then none else some tw) en =
      { heard s with lnk := { s.lnk with trayId := tray, member := m, enrolled := en } } := by
    rw [setTray, pairWith_same (by rw [heard_lnk]; exact htwin), heard_lnk]
  rw [if_neg (by omega), if_neg (by cases en <;> simp_all [memberOf_heard]), hsame, answerChain_here hhere] at heffect
  exact heffect

theorem setMember_badFrame {s : State} {h : ChainHead} {tray m tw : Nat} {en : Bool} (hhere : ChainHere s h) (hready : isReady s = true)
    (hbad : 16 ≤ m ∨ (16 ≤ tw ∧ tw ≠ 0xFF) ∨ 2 ^ 32 ≤ tray) :
    Effect (.setMember h tray m tw en) s (Sys2Proof.answer (heard s) h 0x83 2 []) := by
  have heffect := effect_whenReady (show exec (.setMember h tray m tw en) s = execSetMember h tray m tw en s from rfl) hhere hready
  rwa [if_pos hbad, answerChain_here hhere] at heffect

theorem setMember_refused {s : State} {h : ChainHead} {tray m tw : Nat} (hhere : ChainHere s h) (hready : isReady s = true)
    (hm : m < 16) (htw : tw < 16 ∨ tw = 0xFF) (htray : tray < 2 ^ 32) (htaken : memberOf s m = .enrolled)
    (hother : s.lnk.enrolled = false ∨ s.lnk.member ≠ m) :
    Effect (.setMember h tray m tw true) s (Sys2Proof.answer (heard s) h 0x83 3 []) := by
  have heffect := effect_whenReady (show exec (.setMember h tray m tw true) s = execSetMember h tray m tw true s from rfl) hhere hready
  have hrefused : (true && memberOf (heard s) m == .enrolled && !((heard s).lnk.enrolled && (heard s).lnk.member == m)) = true := by
    rw [memberOf_heard, htaken, heard_lnk]
    rcases hother with h0 | h0 <;> simp [h0]
  rwa [if_neg (by omega), if_pos hrefused, answerChain_here hhere] at heffect

/-! ## ANNOUNCE (R429, R566) -/

theorem memberOf_memberLeaves (s : State) (m k : Nat) (st : MemberState) :
    memberOf (memberLeaves s m st) k = if k = m then st else memberOf s k := by
  unfold memberLeaves
  dsimp only
  split <;> exact memberOf_setMemberState s m k st

theorem memberLeaves_own (s : State) (m : Nat) (st : MemberState) :
    (memberLeaves s m st).lnk.member = s.lnk.member ∧ (memberLeaves s m st).lnk.enrolled = s.lnk.enrolled := by
  unfold memberLeaves
  dsimp only
  split <;> exact ⟨rfl, rfl⟩

/-- The members of a list, each in the state that is announced of it. -/
theorem memberOf_announced (state : Nat → MemberState) (l : List Nat) (s : State) (k : Nat) :
    memberOf (l.foldl (fun t m => memberLeaves t m (state m)) s) k = if k ∈ l then state k else memberOf s k := by
  induction l generalizing s with
  | nil => simp
  | cons m l ih =>
    rw [List.foldl_cons, ih, memberOf_memberLeaves]
    by_cases hk : k = m <;> by_cases hl : k ∈ l <;> simp [hk, hl]

theorem announced_own (state : Nat → MemberState) (l : List Nat) (s : State) :
    (l.foldl (fun t m => memberLeaves t m (state m)) s).lnk.member = s.lnk.member ∧
      (l.foldl (fun t m => memberLeaves t m (state m)) s).lnk.enrolled = s.lnk.enrolled := by
  induction l generalizing s with
  | nil => exact ⟨rfl, rfl⟩
  | cons m l ih =>
    obtain ⟨hmember, henrolled⟩ := ih (memberLeaves s m (state m))
    obtain ⟨hmember', henrolled'⟩ := memberLeaves_own s m (state m)
    exact ⟨hmember.trans hmember', henrolled.trans henrolled'⟩

theorem announce_sets {s : State} {h : ChainHead} {states : List (Fin 4)} (hhere : ChainHere s h) (hready : isReady s = true) :
    Completes (.announce h states) s (fun t =>
      (∀ m < 16, memberOf t m = memberStateOf ((states[m]?.map (·.val)).getD 0)) ∧
      t.lnk.member = s.lnk.member ∧ t.lnk.enrolled = s.lnk.enrolled) := by
  have heffect := effect_whenReady (show exec (.announce h states) s = execAnnounce h states s from rfl) hhere hready
  let state : Nat → MemberState := fun m => memberStateOf ((states[m]?.map (·.val)).getD 0)
  obtain ⟨hmember, henrolled⟩ := announced_own state (List.range 16) (heard s)
  have hmembers := memberOf_announced state (List.range 16) (heard s)
  rw [heard_lnk] at hmember henrolled
  rw [answerChain_here hhere] at heffect
  refine completes_effect heffect ⟨fun m hm => ?_, ?_, ?_⟩
  · rw [memberOf, finish_lnk]
    exact (hmembers m).trans (if_pos (List.mem_range.2 hm))
  · rw [finish_lnk]
    exact hmember
  · rw [finish_lnk]
    exact henrolled

/-! ## FENCED (R493, R503) -/

/-- A change of the twin state sets state and role, and no other part of the twin. -/
theorem setTwin_twn (s : State) (st : TwinState) (role : TwinRole) (cause : Nat) :
    (setTwin s st role cause).twn = { s.twn with state := st, role := role } := by
  have hfeed : ∀ t b, (sendFeed t b).twn = t.twn := fun _ _ => rfl
  have hnotify : ∀ t e v, (notify t e v).twn = t.twn := fun t e v => (keep_notify t e v).twn.resolve_left (by decide)
  unfold setTwin
  dsimp only
  split <;> split <;> simp only [hnotify, hfeed, putF_twn]

theorem effect_fenced {s : State} {h : ChainHead} {target outcome : Nat} (hhere : ChainHere s h) (hready : isReady s = true) :
    Effect (.fenced h target outcome) s (Sys2Proof.answer (endFencing (heard s) outcome) h 0x8A 0 []) := by
  have heffect := effect_whenReady (show exec (.fenced h target outcome) s = execFenced h target outcome s from rfl) hhere hready
  rwa [answerChain_here hhere] at heffect

/-- The confirmation ends the wait of an Active. -/
theorem endFencing_active {s : State} (hstate : s.twn.state = .fencing) (hrole : s.twn.role = .active) :
    endFencing s 0 = activeAlone s (getF s F.twnStatus.cause) := by
  simp [endFencing, hstate, hrole]

theorem endFencing_ignored {s : State} {outcome : Nat} (h : s.twn.state ≠ .fencing ∨ outcome ≠ 0) : endFencing s outcome = s := by
  rw [endFencing, if_pos (by simpa using h)]

theorem fenced_ends {s : State} {h : ChainHead} {target : Nat} (hhere : ChainHere s h) (hready : isReady s = true)
    (hstate : s.twn.state = .fencing) (hrole : s.twn.role = .active) :
    Completes (.fenced h target 0) s (fun t => t.twn.state = .alone ∧ t.twn.role = .active) := by
  have heffect := effect_fenced (target := target) (outcome := 0) hhere hready
  rw [endFencing_active (by rw [heard_twn, hstate]) (by rw [heard_twn, hrole])] at heffect
  refine completes_effect heffect ?_
  rw [finish_twnState, finish_twnRole, Sys2Proof.answer, emit_twn, activeAlone, setTwin_twn]
  exact ⟨rfl, rfl⟩

/-! ## A part that is not READY (R564) -/

theorem effect_notReady {c : Instr} {s : State} {h : ChainHead} {bytes : List Byte} {cmd : Nat} {effect : State → State}
    (hexec : exec c s = chainRow s h bytes (fun s => whenReady s h cmd effect)) (hhere : ChainHere s h) (hready : isReady s = false) :
    Effect c s (Sys2Proof.answer (heard s) h (cmd + 128) 1 []) := by
  have heffect := effect_chainRow hexec hhere
  rwa [whenReady, isReady_heard, hready, if_neg (by decide), answerChain_here hhere] at heffect

/-- Settles O19: each command by its branches at a part that is READY, and one answer for all of them at a part that is not. -/
theorem trayCommands : Obligations.TrayCommands := by
  refine ⟨fun s h tray m tw en hhere hready hm htw htray hfree htwin => setMember_sets hhere hready hm htw htray hfree htwin,
    fun s h tray m tw en hhere hready hbad => setMember_badFrame hhere hready hbad,
    fun s h tray m tw hhere hready hm htw htray htaken hother => setMember_refused hhere hready hm htw htray htaken hother,
    fun s h states hhere hready _ => announce_sets hhere hready,
    fun s h target hhere hready hstate hrole => fenced_ends hhere hready hstate hrole,
    fun s h target outcome hhere hready hnot => ?_, fun s h hhere hready => ⟨fun tray m tw en => ?_, fun states => ?_, ?_, fun k => ?_,
      fun target outcome => ?_⟩⟩
  · rw [← endFencing_ignored (s := heard s) (outcome := outcome) (by rw [heard_twn]; exact hnot)]
    exact effect_fenced hhere hready
  · exact effect_notReady (show exec (.setMember h tray m tw en) s = execSetMember h tray m tw en s from rfl) hhere hready
  · exact effect_notReady (show exec (.announce h states) s = execAnnounce h states s from rfl) hhere hready
  · exact effect_notReady (show exec (.powerOff h) s = execPowerOff h s from rfl) hhere hready
  · exact effect_notReady (show exec (.chainReset h k) s = execChainReset h k s from rfl) hhere hready
  · exact effect_notReady (show exec (.fenced h target outcome) s = execFenced h target outcome s from rfl) hhere hready

end Sys2Proof.Machine
end

section
/-! SUPPORT. Three statements that say more than the model does (O13, O15, O55): the end of a command shows pressure and sends its signal,
and a reset stops a burn under way. -/

namespace Sys2Proof.Machine

open Sys2Proof

/-! ## The end of a command shows pressure (R350, R365) -/

/-- A dark part whose register still shows the pressure of a composition that is gone. -/
def staleDark : State :=
  { State.reset with
    plt := { State.reset.plt with mainRails := false }
    stk := { State.reset.stk with pressed := [(0, 1)] }
    fields := [((F.stkCapPressure.stacks.at 0).key, 1)] }

/-- The end of the rise of POWER_EN takes the stale pressure from the register. -/
theorem staleDark_rises : (finish staleDark (startRails staleDark)).fields = [] := by decide

/-- Refutes O15: a command's end shows the pressure as it is, so POWER_EN does not leave every field where the register was stale. -/
theorem not_railsComeOn : ¬ Obligations.RailsComeOn := by
  rintro ⟨hrise, -⟩
  obtain ⟨t, hexec, -, hfields, -⟩ := hrise staleDark rfl rfl
  have htaken : exec .powerEnRise staleDark = .next (finish staleDark (startRails staleDark)) :=
    effect_act (show exec .powerEnRise staleDark = execPowerEnRise staleDark from rfl) rfl
  rw [htaken, Host.Outcome.next.injEq] at hexec
  rw [← hexec, staleDark_rises] at hfields
  exact absurd hfields (by decide)

/-- A bound composition on one stack. -/
def oneComp : Composition :=
  { role := .generation, stackMask := 1, kvOffset := 0, kvGranules := 0, slateGib := 0, umberGib := 0, fixed := none, pointer := 0,
    unbinding := false }

/-- A part whose manifest pool runs short, which the register does not show yet, with the vector of STK_CAP_CTL open. -/
def shortOfUnits : State :=
  { State.reset with
    pcie := { State.reset.pcie with busMaster := true, msixEnable := true, table := [(0, { masked := false })] }
    sch := { State.reset.sch with comps := [(0, some oneComp)] }
    stk := { State.reset.stk with waits := [(0, 33)] }
    fields := tabPut 0 (tabPut 0 [] F.pltPcieLink.dlUp.key 1) F.stkCapCtl.notifyEnable.key 1 }

/-- The meter's clock moves no further. -/
def noTime : MeterStamp := { periods := 0, millijoules := 0 }

/-- The end of a meter command signals the pressure. -/
theorem shortOfUnits_signals : (finish shortOfUnits (meterAdvance shortOfUnits noTime)).out = [.msix 0] := by decide

theorem effect_meter {c : Instr} {s : State} {m : MeterStamp} {effect : State → State} (hexec : exec c s = actMeter s m effect)
    (hpowered : s.mtr.powered = true) : Effect c s (effect (meterAdvance s m)) := by
  rw [actMeter, hpowered, act_taken] at hexec
  exact hexec

/-- A lane status frame before its time moves the meter's clock alone. -/
theorem effect_laneStatus_early {s : State} {m : MeterStamp} (hpowered : s.mtr.powered = true)
    (hearly : meterNow s m < s.mtr.statusAt + 1000000) : Effect (.laneStatusFrame m) s (meterAdvance s m) := by
  have heffect := effect_meter (show exec (.laneStatusFrame m) s = execLaneStatusFrame m s from rfl) hpowered
  have hnow : (meterAdvance s m).mtr.mtc < (meterAdvance s m).mtr.statusAt + 1000000 := hearly
  simp only [hnow, if_true] at heffect
  exact heffect

/-- Refutes O55: a lane status frame that is not due sends nothing itself, but the command's end signals pressure that is new. -/
theorem not_meterRunsItself : ¬ Obligations.MeterRunsItself := by
  rintro ⟨hruns, -⟩
  obtain ⟨-, -, -, -, -, -, hearly, -⟩ := hruns shortOfUnits noTime rfl
  obtain ⟨t, hexec, -, -, hout⟩ := hearly (by decide)
  have htaken := effect_laneStatus_early (s := shortOfUnits) (m := noTime) rfl (by decide)
  rw [Effect] at htaken
  rw [htaken, Host.Outcome.next.injEq] at hexec
  rw [← hexec, shortOfUnits_signals] at hout
  exact absurd hout (by decide)

/-! ## A reset stops a burn (R542, R548) -/

theorem stopWrites_fuses (s : State) : (stopWrites s).plt.fuses = (interruptBurn s).plt.fuses := by
  obtain ⟨staging, a, b, h⟩ := interruptStage_plt (interruptBurn s)
  rw [stopWrites, h]

theorem warmComps_plt (s : State) (c : Coherence) : (warmComps { s with coh := c }).plt = s.plt :=
  (keep_warmComps { s with coh := c }).plt.resolve_left (by decide)

theorem warmFields_plt (s : State) : (warmFields s).plt = s.plt := (keep_warmFields s).plt.resolve_left (by decide)

/-- The fuses after a warm reset are those that the stopped burn leaves. -/
theorem warmState_fuses (s : State) : ∃ v, v.plt = s.plt ∧ (warmState s).plt.fuses = (interruptBurn v).plt.fuses := by
  refine ⟨(List.range 72).foldl writeBackAll s,
    (Keep.foldl (Keep.refl 65544 s) (fun u n => keep_writeBackAll u n)).plt.resolve_left (by decide), ?_⟩
  unfold warmState
  generalize (List.range 72).foldl writeBackAll s = u
  extract_lets s1 s2 s3 s4 s5 _ s6 s7
  have h2 : s2.plt = s1.plt := warmComps_plt s1 _
  have h3 : s3.plt = s2.plt :=
    (Keep.foldl (Keep.refl _ s2) keep_warmRegion).plt.resolve_left (by decide)
  have h4 : s4.plt = s3.plt := (keep_warmRequests _).plt.resolve_left (by decide)
  have k5 : Keep 1024 s4 s5 := Keep.foldl (Keep.refl _ _) (fun u e => keep_releaseModel u e.1)
  have h5 : s5.plt = s4.plt := k5.plt.resolve_left (by decide)
  have h6 : s6.plt = warmPlatform s5.plt := warmFields_plt _
  have h7 : s7.plt = s6.plt := (keep_updatePressure _).plt.resolve_left (by decide)
  have h1 : s1.plt.fuses = (interruptBurn u).plt.fuses := stopWrites_fuses _
  clear_value s7 s6 s5 s4 s3 s2 s1
  rw [← h1, ← h2, ← h3, ← h4, ← h5]
  have h67 : s7.plt.fuses = s5.plt.fuses := by
    rw [h7, h6]
    rfl
  exact h67

/-- A part in the ROM that burns a staged byte of zeros, where the table lists an unburned byte. -/
def burningPart : State :=
  { State.reset with plt := { State.reset.plt with fuses := [(0, 0)], burning := some (0, [0]) } }

/-- The stopped burn writes the byte again, and a byte of zeros is not listed. -/
theorem burn_stopped {v : State} (h : v.plt = burningPart.plt) : (interruptBurn v).plt.fuses = [] := by
  have hburning : v.plt.burning = some (0, [0]) := by rw [h]; rfl
  have hfuses : v.plt.fuses = [(0, 0)] := by rw [h]; rfl
  have hslot : ∃ l, slotBytes { v with fresh := v.fresh + 512 } 0 0 512 = 0 :: l := by
    rw [slotBytes, hfuses]
    exact ⟨_, rfl⟩
  obtain ⟨l, hl⟩ := hslot
  have hfree : ∃ b bs, (List.range 512).map (fun i => BitVec.ofNat 8 (Config.choice (v.fresh + i))) = b :: bs := by
    rw [show 512 = 511 + 1 from rfl, List.range_succ_eq_map, List.map_cons]
    exact ⟨_, _, rfl⟩
  obtain ⟨b, bs, hb⟩ := hfree
  rw [interruptBurn, hburning]
  dsimp only
  rw [hb, burnSlot]
  dsimp only [Fin.val_zero]
  rw [hl, hfuses]
  simp [tabPutRun, tabPut, tabDel]

theorem effect_warmReset {s : State} (hserves : serves s 0 = true) (hatOnce : departsAtOnce s) :
    Effect .warmReset s (warmState (sendPower s 4)) := by
  have heffect := effect_act (show exec .warmReset s = execWarmReset s from rfl) hserves
  rwa [depart_atOnce _ hatOnce, endDeparture] at heffect

/-- Refutes O13: a reset stops a burn under way (log entry 45), which writes the slot again, so the fuses do not stand as they were: at
`burningPart` the byte that was listed as zero is gone. -/
theorem not_warmResetClears : ¬ Obligations.WarmResetClears := by
  rintro ⟨hwarm, -⟩
  obtain ⟨t, hexec, hcleared, -⟩ := hwarm burningPart (.inl rfl) rfl
  obtain ⟨-, -, -, -, -, -, -, -, hfuses, -⟩ := hcleared
  have htaken := effect_warmReset (s := burningPart) rfl (.inl rfl)
  have hpower : sendPower burningPart 4 = burningPart := rfl
  rw [Effect, hpower] at htaken
  rw [htaken, Host.Outcome.next.injEq] at hexec
  obtain ⟨v, hv, hstopped⟩ := warmState_fuses burningPart
  rw [← hexec, finish_plt, hstopped, burn_stopped hv] at hfuses
  exact absurd hfuses (by decide)

end Sys2Proof.Machine
end

section
/-! SUPPORT. Vectors send one message (O58). -/

namespace Sys2Proof.Machine

open Sys2Proof

/-- An open vector sends its message and leaves the endpoint alone. -/
theorem signal_open {s : State} {k : Nat} (h : vectorOpen s k = true) : signal s k = emit s (.msix k) := if_pos h

/-- A vector that may not send sets its Pending Bit. -/
theorem signal_closed {s : State} {k : Nat} (h : vectorOpen s k = false) :
    signal s k = { s with pcie := { s.pcie with pending := tabPut false s.pcie.pending k true } } :=
  if_neg (by rw [h]; decide)

/-- Pending Bits do not decide whether a vector may send. -/
theorem vectorOpen_pending (s : State) (pending : Tab Bool) (k : Nat) :
    vectorOpen { s with pcie := { s.pcie with pending := pending } } k = vectorOpen s k := rfl

theorem pending_signal {s : State} {k : Nat} (h : vectorOpen s k = false) : tabGet false (signal s k).pcie.pending k = true := by
  rw [signal_closed h]
  exact tabGet_put_self false s.pcie.pending k true

theorem pending_signal_other {s : State} {k j : Nat} (h : vectorOpen s k = false) (hj : j ≠ k) :
    tabGet false (signal s k).pcie.pending j = tabGet false s.pcie.pending j := by
  rw [signal_closed h]
  exact tabGet_put_other false s.pcie.pending true hj

theorem out_signal_closed {s : State} {k : Nat} (h : vectorOpen s k = false) : (signal s k).out = s.out := by
  rw [signal_closed h]

/-- A vector that may not send is no more open after its event. -/
theorem vectorOpen_signal {s : State} {k : Nat} (h : vectorOpen s k = false) : vectorOpen (signal s k) k = false := by
  rw [signal_closed h, vectorOpen_pending, h]

/-- The release of a vector that may send clears its Pending Bit, and sends one message where the bit was set. -/
theorem releaseVector_open {s : State} {k : Nat} (h : vectorOpen s k = true) : tabGet false (releaseVector s k).pcie.pending k = false ∧
    (releaseVector s k).out = (if tabGet false s.pcie.pending k then .msix k :: s.out else s.out) := by
  rw [releaseVector, h, Bool.and_true]
  split
  · exact ⟨tabGet_put_self false s.pcie.pending k false, rfl⟩
  · next hclear => exact ⟨by simpa using hclear, rfl⟩

/-- Settles O58: a signal by whether its vector may send, and an unmasking by the Pending Bit. -/
theorem vectorsSendOneMessage : Obligations.VectorsSendOneMessage := by
  refine ⟨fun s k hopen => ?_, fun s e f v w he hf hvector => ?_, fun s k hclosed => ?_,
    fun s k hrails hopen => ?_⟩
  · rw [signal_open hopen]
    exact ⟨rfl, rfl⟩
  · rw [notify, notify, if_pos he, if_pos hf, hvector]
  · have hagain := vectorOpen_signal hclosed
    exact ⟨pending_signal hclosed, out_signal_closed hclosed, fun j hj => pending_signal_other hclosed hj,
      (out_signal_closed hagain).trans (out_signal_closed hclosed), pending_signal hagain⟩
  · obtain ⟨hclear, hout⟩ := releaseVector_open hopen
    refine ⟨releaseVector (unmasked s k.val) k.val, ?_, hclear, ?_, hout⟩
    · have heffect := effect_act (show exec (.vectorUnmask k) s = execVectorUnmask k s from rfl) hrails
      exact heffect
    · rw [releaseVector_table, masked_unmasked]

end Sys2Proof.Machine
end

section
/-! SUPPORT. The power state: White, Grey, and the way into Charcoal and out of it (O16). -/

namespace Sys2Proof.Machine

open Sys2Proof

/-! ## The operations on the power state (R578, R580, R588) -/

theorem pwrNotify_keeps (s : State) : (pwrNotify s).fab = s.fab ∧ StaysSent s (pwrNotify s) :=
  ⟨(told_notify s _ _).fab, (told_notify s _ _).out⟩

theorem setPwrState_changes {s : State} {st : PwrState} (h : s.pwr.state ≠ st) :
    setPwrState s st = pwrNotify { s with pwr := { s.pwr with state := st } } :=
  if_neg (by simpa using h)

theorem setPwrState_pwr (s : State) (st : PwrState) : (setPwrState s st).pwr = { s.pwr with state := st } := by
  unfold setPwrState
  split
  · next h => rw [← eq_of_beq h]
  · rw [pwrNotify_pwr]

theorem setPwrState_keeps (s : State) (st : PwrState) : (setPwrState s st).fab = s.fab ∧ StaysSent s (setPwrState s st) := by
  unfold setPwrState
  split
  · exact ⟨rfl, .of_eq rfl⟩
  · exact pwrNotify_keeps _

theorem sendPower_pwr (s : State) (target : Nat) : (sendPower s target).pwr = s.pwr ∧ (sendPower s target).fab = s.fab :=
  ⟨(keep_sendPower s target).pwr.resolve_left (by decide), (keep_sendPower s target).fab.resolve_left (by decide)⟩

/-- Where the part sends frames, a change of power state is told to the meter. -/
theorem sends_sendPower {s : State} (target : Nat) (hfeed : feedOn s = true) :
    Sends s (sendPower s target) (.feed s.lane.nextSeq (.power (powerCode s) target (getF s F.pwrLimit.limitW))) := by
  rw [sendPower, if_pos hfeed]
  exact ⟨[], [.feed s.lane.nextSeq (.power (powerCode s) target (getF s F.pwrLimit.limitW))], rfl⟩

theorem sendPower_off {s : State} (target : Nat) (hfeed : feedOn s = false) : sendPower s target = s :=
  if_neg (by rw [hfeed]; decide)

theorem sends_leaveCharcoal {s : State} (grey : Bool) (hfeed : feedOn s = true) : Sends s (leaveCharcoal s grey)
    (.feed s.lane.nextSeq (.power (powerCode s) (if grey then 1 else 0) (getF s F.pwrLimit.limitW))) :=
  sends_later (sends_sendPower (if grey then 1 else 0) hfeed) (setPwrState_keeps _ _).2

theorem powerBusy_still {s : State} (hstate : s.pwr.state = .white ∨ s.pwr.state = .grey ∨ s.pwr.state = .charcoal)
    (hnone : s.plt.departing = none) : powerBusy s = false := by
  rcases hstate with h | h | h <;> simp [powerBusy, h, hnone]

theorem getF_pwrStatus_finish (s0 s : State) {st : Nat} (hst : st < 8) : getF (finish s0 (pwrStatus s st)) F.pwrStatus.cmdStatus = st := by
  rw [finish_getF _ _ _ (by decide), pwrStatus, getF_putF_self]
  exact Nat.mod_eq_of_lt (Nat.lt_trans hst (by decide))

/-! ## White and Grey (R578) -/

/-- The state that WHITE or GREY asks for. -/
def awakeState (grey : Bool) : PwrState := if grey then .grey else .white

theorem awakeCommand_there {s : State} (grey : Bool) (hstate : s.pwr.state = awakeState grey) (hnone : s.plt.departing = none) :
    awakeCommand s grey = pwrStatus s 0 := by
  have hbusy : powerBusy s = false := powerBusy_still (by rw [hstate]; cases grey <;> decide) hnone
  rw [awakeCommand, hbusy, hstate]
  cases grey <;> rfl

/-- White from Grey and Grey from White, where the part sends no frames. -/
theorem awakeCommand_quiet {s : State} (grey : Bool) (hstate : s.pwr.state = awakeState (!grey)) (hnone : s.plt.departing = none)
    (hfeed : feedOn s = false) :
    awakeCommand s grey = pwrStatus (pwrNotify { s with pwr := { s.pwr with state := awakeState grey, gated := [] } }) 0 := by
  have hbusy : powerBusy s = false := powerBusy_still (by rw [hstate]; cases grey <;> decide) hnone
  have hchanges : setPwrState { s with pwr := { s.pwr with gated := [] } } (awakeState grey) =
      pwrNotify { s with pwr := { s.pwr with state := awakeState grey, gated := [] } } :=
    setPwrState_changes (by dsimp only; rw [hstate]; cases grey <;> decide)
  rw [← hchanges, awakeCommand, hbusy]
  dsimp only
  rw [sendPower_off _ hfeed, hstate]
  cases grey <;> rfl

/-- From Charcoal the exit begins. -/
theorem awakeCommand_leaves {s : State} (grey : Bool) (hstate : s.pwr.state = .charcoal) (hnone : s.plt.departing = none) :
    awakeCommand s grey = pwrStatus (leaveCharcoal s grey) 5 := by
  rw [awakeCommand, powerBusy_still (.inr (.inr hstate)) hnone, hstate]
  rfl

theorem completes_leaves {c : Instr} {s : State} {grey : Bool} (heffect : Effect c s (awakeCommand s grey))
    (hstate : s.pwr.state = .charcoal) (hnone : s.plt.departing = none) (hfeed : feedOn s = true) :
    Completes c s (fun t => t.pwr = { s.pwr with state := .leaving, exitGrey := grey } ∧ getF t F.pwrStatus.cmdStatus = 5 ∧
      Sends s t (.feed s.lane.nextSeq (.power 2 (if grey then 1 else 0) (getF s F.pwrLimit.limitW)))) := by
  have hcode : powerCode s = 2 := by rw [powerCode, hstate]
  rw [awakeCommand_leaves grey hstate hnone] at heffect
  refine completes_effect heffect ⟨?_, getF_pwrStatus_finish _ _ (by decide), ?_⟩
  · rw [finish_pwr]
    exact leaveCharcoal_pwr grey hstate
  · rw [← hcode]
    exact sends_later (sends_leaveCharcoal grey hfeed) (staysSent_finish s _)

theorem effect_white {s : State} (hserves : serves s 2 = true) : Effect .white s (awakeCommand s false) := by
  have hexec : exec .white s = execWhite s := rfl
  rw [execWhite, hserves, act_taken] at hexec
  exact hexec

theorem effect_grey {s : State} (hserves : serves s 2 = true) : Effect .grey s (awakeCommand s true) := by
  have hexec : exec .grey s = execGrey s := rfl
  rw [execGrey, hserves, act_taken] at hexec
  exact hexec

/-! ## Charcoal (R579 to R582) -/

/-- The entry into Charcoal begins where nothing refuses it. -/
theorem charcoal_enters {s : State} (hserves : serves s 2 = true) (hnone : s.plt.departing = none) (hawake : isAwake s = true)
    (hidle : regionsIdle s = true) (hactive : charcoalActive s = false) (htwin : s.twn.state = .solo ∨ s.twn.state = .alone) :
    Completes .charcoal s (fun t => t.pwr = { s.pwr with state := .entering, gated := [], exitGrey := s.pwr.state == .grey } ∧
      getF t F.pwrStatus.cmdStatus = 5 ∧ t.fab = s.fab) := by
  have hrefusal : charcoalRefusal s = none := by
    rcases htwin with h | h <;> simp [charcoalRefusal, hidle, hactive, h]
  have hnot : (s.pwr.state == .charcoal) = false := by
    simp only [isAwake, Bool.or_eq_true, beq_iff_eq] at hawake
    rcases hawake with h | h <;> rw [h] <;> rfl
  obtain ⟨hpwr, hfab⟩ := sendPower_pwr s 2
  have hcommand : charcoalCommand s = pwrStatus (setPwrState { sendPower s 2 with
      pwr := { (sendPower s 2).pwr with exitGrey := (sendPower s 2).pwr.state == .grey, gated := [] } } .entering) 5 := by
    rw [charcoalCommand, powerBusy_awake hawake hnone, if_neg (by decide), hnot, if_neg (by decide), hrefusal]
  refine completes_act (show exec .charcoal s = execCharcoal s from rfl) hserves ?_
  rw [hcommand]
  refine ⟨?_, getF_pwrStatus_finish _ _ (by decide), ?_⟩
  · rw [finish_pwr, pwrStatus, putF_pwr, setPwrState_pwr, hpwr]
  · rw [finish_fab, pwrStatus, putF_fab, (setPwrState_keeps _ _).1]
    exact hfab

/-- The part that reads Charcoal at the end of the entry. -/
def charcoalEntered (s : State) : State := satF (pwrStatus (setPwrState s .charcoal) 0) F.pwrStats.charcoalEntries

theorem charcoalEntered_pwr (s : State) : (charcoalEntered s).pwr = { s.pwr with state := .charcoal } := by
  rw [charcoalEntered, (keep_satF _ _).pwr.resolve_left (by decide), pwrStatus, putF_pwr, setPwrState_pwr]

theorem charcoalEntered_fab (s : State) : (charcoalEntered s).fab = s.fab := by
  rw [charcoalEntered, (keep_satF _ _).fab.resolve_left (by decide), pwrStatus, putF_fab, (setPwrState_keeps _ _).1]

/-- The wake event that arrived meanwhile is taken. -/
def wakeTaken (s : State) : State := { s with pwr := { s.pwr with wakePending := false } }

theorem effect_entryComplete {s : State} (hready : isReady s = true) (hstate : s.pwr.state = .entering) :
    Effect .charcoalEntryComplete s (if s.pwr.wakePending then
      leaveCharcoal (wakeTaken (charcoalEntered s)) false else charcoalEntered s) := by
  have hexec : exec .charcoalEntryComplete s = execCharcoalEntryComplete s := rfl
  have hwake : (charcoalEntered s).pwr.wakePending = s.pwr.wakePending := by rw [charcoalEntered_pwr]
  rw [execCharcoalEntryComplete, hready, hstate, show (true && PwrState.entering == .entering) = true from rfl, act_taken] at hexec
  rw [← hwake]
  exact hexec

theorem entryComplete_stays {s : State} (hready : isReady s = true) (hstate : s.pwr.state = .entering)
    (hwake : s.pwr.wakePending = false) : Completes .charcoalEntryComplete s (fun t => t.pwr = { s.pwr with state := .charcoal } ∧
      getF t F.pwrStatus.cmdStatus = 0 ∧ t.fab = s.fab) := by
  have heffect := effect_entryComplete hready hstate
  rw [hwake, if_neg (by decide)] at heffect
  refine completes_effect heffect ⟨?_, ?_, ?_⟩
  · rw [finish_pwr, charcoalEntered_pwr]
  · rw [finish_getF _ _ _ (by decide), charcoalEntered, getF_satF_other _ _ _ (by decide), pwrStatus, getF_putF_self]
    rfl
  · rw [finish_fab, charcoalEntered_fab]

theorem entryComplete_wakes {s : State} (hready : isReady s = true) (hstate : s.pwr.state = .entering)
    (hwake : s.pwr.wakePending = true) : Completes .charcoalEntryComplete s (fun t =>
      t.pwr = { s.pwr with state := .leaving, wakePending := false, exitGrey := false }) := by
  have heffect := effect_entryComplete hready hstate
  rw [hwake, if_pos rfl] at heffect
  refine completes_effect heffect ?_
  have hcharcoal : (wakeTaken (charcoalEntered s)).pwr.state = .charcoal := congrArg Power.state (charcoalEntered_pwr s)
  rw [finish_pwr, leaveCharcoal_pwr false hcharcoal, wakeTaken, charcoalEntered_pwr]

/-- The scrub of the regions leaves the power manager alone. -/
theorem scrubAll_pwr (s : State) : ((List.range 64).foldl scrubRegion s).pwr = s.pwr :=
  (Keep.foldl (Keep.refl _ s) keep_scrubRegion).pwr.resolve_left (by decide)

/-- The end of the exit: the state asked for, and nothing held. -/
theorem endCharcoal_reads {s : State} : (endCharcoal s).pwr.state = (if s.pwr.exitGrey then .grey else .white) ∧
    (endCharcoal s).pwr.held = [] ∧ getF (endCharcoal s) F.pwrStatus.cmdStatus = 0 := by
  have hscrubbed := scrubAll_pwr s
  unfold endCharcoal
  generalize (List.range 64).foldl scrubRegion s = u at hscrubbed ⊢
  dsimp only
  refine ⟨?_, rfl, ?_⟩
  · rw [pwrStatus, putF_pwr, setPwrState_pwr, hscrubbed]
  · exact getF_putF_self _ F.pwrStatus.cmdStatus 0

theorem wakeTime_leaves {s : State} (hready : isReady s = true) (hstate : s.pwr.state = .charcoal)
    (hsource : (getF s F.pwrWake.sources).testBit 3 = true) (hset : getF s F.pwrWakeTime.lmc ≠ 0)
    (hdue : getF s F.pwrWakeTime.lmc ≤ s.plt.lmc) :
    Completes .wakeTime s (fun t => t.pwr = { s.pwr with state := .leaving, exitGrey := false }) := by
  refine completes_act (show exec .wakeTime s = execWakeTime s from rfl) (by simp [hready, hset, hdue]) ?_
  rw [finish_pwr, wakeBy, if_pos hsource, wakePart, hstate]
  exact leaveCharcoal_pwr false hstate

/-- Settles O16: White and Grey by `awakeCommand`, and Charcoal by the entry, its end, a wake event and the end of the exit. -/
theorem powerStatesChange : Obligations.PowerStatesChange := by
  refine ⟨fun s hserves hnone => ⟨fun hstate => ?_, fun hstate => ?_, fun hstate hfeed => ?_, fun hstate hfeed => ?_,
      fun hstate hfeed => ⟨completes_leaves (effect_white hserves) hstate hnone hfeed,
        completes_leaves (effect_grey hserves) hstate hnone hfeed⟩⟩,
    fun s hserves hnone hawake hidle hactive htwin => charcoal_enters hserves hnone hawake hidle hactive htwin,
    fun s hready hstate hwake => entryComplete_stays hready hstate hwake,
    fun s hready hstate hwake => entryComplete_wakes hready hstate hwake,
    fun s hready hstate => ⟨?_, endCharcoal_reads⟩,
    fun s hready hstate hsource hset hdue => wakeTime_leaves hready hstate hsource hset hdue,
    fun s n hready hstate hserving hidle hpassed => ?_⟩
  · rw [← pwrStatus, ← awakeCommand_there false hstate hnone]
    exact effect_white hserves
  · rw [← pwrStatus, ← awakeCommand_there true hstate hnone]
    exact effect_grey hserves
  · have heffect := effect_white hserves
    rw [awakeCommand_quiet false hstate hnone hfeed] at heffect
    exact heffect
  · have heffect := effect_grey hserves
    rw [awakeCommand_quiet true hstate hnone hfeed] at heffect
    exact heffect
  · have hexec : exec .charcoalExitComplete s = execCharcoalExitComplete s := rfl
    rw [hexec, execCharcoalExitComplete, if_pos (by simp [hready, hstate])]
  · have hexec : exec (.greyIdle n) s = execGreyIdle n s := rfl
    have heffect := effect_act hexec (by simp [hready, hstate, hserving, hidle, hpassed])
    exact heffect

end Sys2Proof.Machine
end

section
/-! SUPPORT. The course of a start: what each step leaves of the platform (O20). -/

namespace Sys2Proof.Machine

open Sys2Proof

/-! ## Steps of a start (R538, R540, R543) -/

theorem notify_plt (s : State) (enable vector : Field) : (notify s enable vector).plt = s.plt :=
  (keep_notify s enable vector).plt.resolve_left (by decide)

theorem failStart_plt (s : State) (cause : Nat) :
    (failStart s cause).plt = { s.plt with state := .failed, cause := cause, starting := none } := notify_plt ..

theorem becomeReady_plt (s : State) : (becomeReady s).plt = { s.plt with state := .ready, starting := none, tries := 3 } := notify_plt ..

theorem sampleStraps_plt (s : State) (f : StartFacts) : (sampleStraps s f).plt =
    { s.plt with strapSpi1v8 := f.strapSpi1v8, strapSris := f.strapSris, strapTest := f.strapTest } := rfl

/-- Whether a slot lives rests on the fuses alone. -/
theorem slotLives_congr {s t : State} (h : t.plt.fuses = s.plt.fuses) (k : Nat) : slotLives t k = slotLives s k := by
  unfold slotLives slotValid slotRevoked slotUsed slotField slotBytes
  rw [h]

theorem highestSlot_congr {s t : State} (h : t.plt.fuses = s.plt.fuses) : highestSlot t = highestSlot s := by
  simp only [highestSlot, slotLives_congr h]

theorem revokeSlots_plt (l : List Nat) (s : State) : ∃ fuses, (l.foldl revokeSlot s).plt = { s.plt with fuses := fuses } := by
  induction l generalizing s with
  | nil => exact ⟨_, rfl⟩
  | cons k l ih =>
    obtain ⟨fuses, h⟩ := ih (revokeSlot s k)
    exact ⟨fuses, h⟩

/-- Step 4 chooses the highest slot that lives. -/
theorem selectGeneration_plt (s : State) : ∃ fuses,
    (selectGeneration s).plt = { s.plt with activeSlot := highestSlot s, fuses := fuses } := by
  unfold selectGeneration
  cases h : highestSlot s with
  | none => exact ⟨_, rfl⟩
  | some k =>
    obtain ⟨fuses, hfuses⟩ := revokeSlots_plt ((List.range k.val).filter (slotLives s))
      { s with plt := { s.plt with activeSlot := some k } }
    exact ⟨fuses, hfuses⟩

/-- The platform when steps 3 and 4 of a cold start are over. -/
theorem generationSelected_plt (s : State) (f : StartFacts) : ∃ fuses, (selectGeneration (sampleStraps s f)).plt =
    { s.plt with strapSpi1v8 := f.strapSpi1v8, strapSris := f.strapSris, strapTest := f.strapTest,
                 activeSlot := highestSlot s, fuses := fuses } := by
  obtain ⟨fuses, h⟩ := selectGeneration_plt (sampleStraps s f)
  have hsame : highestSlot (sampleStraps s f) = highestSlot s := highestSlot_congr (by rw [sampleStraps_plt])
  rw [hsame, sampleStraps_plt] at h
  exact ⟨fuses, h⟩

/-! ## Step 5 and what follows (R557, R543) -/

/-- The platform as the firmware of a slot begins to run, before it is READY. -/
def bootedPlatform (p : Platform) (l : KeyList) (b : Bool) (im : Image) : Platform :=
  { p with
    rootList := some l, fwFallback := b != p.preferB, tries := p.tries - 1, runningB := b, runningVersion := im.securityVersion,
    runningDigest := im.digest, chainKeyId := if p.vaux3 then Config.deviceKeyId else 0 }

theorem sendSeal_plt (s : State) : (sendSeal s).plt = s.plt := (keep_sendSeal s).plt.resolve_left (by decide)

theorem sendBinds_plt (s : State) : (sendBinds s).plt = s.plt := (keep_sendBinds s).plt.resolve_left (by decide)

theorem reloadPackage_plt (s : State) (read : ReadEnd) : (reloadPackage s read).plt = s.plt :=
  (keep_reloadPackage s read).plt.resolve_left (by decide)

/-- The firmware of a warm start runs the self-test, and the part is READY. -/
theorem runFirmware_warm_plt (s : State) (f : StartFacts) : (runFirmware s .warm f).plt =
    (if f.selfTestOk then { s.plt with state := .ready, starting := none, tries := 3 }
      else { s.plt with state := .failed, cause := 3, starting := none }) := by
  have hseal : ∀ u : State, (if feedOn u then sendSeal u else u).plt = u.plt := by
    intro u
    split
    · exact sendSeal_plt u
    · rfl
  have hbinds : ∀ u : State, (if feedOn u then sendBinds u else u).plt = u.plt := by
    intro u
    split
    · exact sendBinds_plt u
    · rfl
  unfold runFirmware
  dsimp only
  cases f.selfTestOk
  · rw [Bool.not_false, if_pos rfl, failStart_plt, emit_plt, hseal]
    rfl
  · rw [Bool.not_true, if_neg (by decide), becomeReady_plt, hbinds, reloadPackage_plt, emit_plt, hseal]
    rfl

section
variable {s : State} {f : StartFacts} {l : KeyList} (hlist : s.plt.flashRootList = some l)
include hlist

theorem bootFirmware_badList (k : ResetKind) (hbad : keyListStatus l 1 (rootHash s) ≠ 0) : bootFirmware s k f = failStart s 4 := by
  rw [bootFirmware, hlist]
  exact if_pos (by simpa using hbad)

variable (hgood : keyListStatus l 1 (rootHash s) = 0)
include hgood

theorem bootFirmware_noSlot (k : ResetKind) (hnone : bootChoice { s with plt := { s.plt with rootList := some l } } = none) :
    bootFirmware s k f = failStart { s with plt := { s.plt with rootList := some l } } 1 := by
  rw [bootFirmware, hlist]
  simp only [hgood, bne_self_eq_false, Bool.false_eq_true, if_false, hnone]

theorem bootFirmware_noImage (k : ResetKind) {b : Bool} (hb : bootChoice { s with plt := { s.plt with rootList := some l } } = some b)
    (hnone : (if b then s.plt.bootB else s.plt.bootA) = none) :
    bootFirmware s k f = failStart { s with plt := { s.plt with rootList := some l } } 1 := by
  rw [bootFirmware, hlist]
  simp only [hgood, bne_self_eq_false, Bool.false_eq_true, if_false, hb, hnone]

theorem bootFirmware_runs (k : ResetKind) {b : Bool} {im : Image}
    (hb : bootChoice { s with plt := { s.plt with rootList := some l } } = some b)
    (him : (if b then s.plt.bootB else s.plt.bootA) = some im) :
    bootFirmware s k f = runFirmware { s with plt := bootedPlatform s.plt l b im } k f := by
  rw [bootFirmware, hlist]
  simp only [hgood, bne_self_eq_false, Bool.false_eq_true, if_false, hb, him]
  rfl

end

/-! ## The obligation -/

theorem effect_start {s : State} (f : StartFacts) (hrails : s.plt.mainRails = true) : Effect (.powerUpStart f) s (startPart s f) := by
  have hexec : exec (.powerUpStart f) s = execPowerUpStart f s := rfl
  rw [execPowerUpStart, hrails, act_taken] at hexec
  exact hexec

theorem startPart_noRails {s : State} {f : StartFacts} (hcold : s.plt.starting = some .cold) (hrails : f.railsOk = false) :
    startPart s f = failStart s 5 := by
  rw [startPart, hcold]
  simp only [hrails, Bool.not_false, if_true]

theorem startPart_noGeneration {s : State} {f : StartFacts} (hcold : s.plt.starting = some .cold) (hrails : f.railsOk = true)
    (hnone : highestSlot s = none) : (startPart s f).plt.state = .fuseInvalid ∧ (startPart s f).plt.activeSlot = none ∧
      (startPart s f).plt.starting = none ∧ (startPart s f).plt.strapSpi1v8 = f.strapSpi1v8 ∧
      (startPart s f).plt.strapSris = f.strapSris ∧ (startPart s f).plt.strapTest = f.strapTest := by
  obtain ⟨fuses, hplt⟩ := generationSelected_plt s f
  rw [hnone] at hplt
  have hstart : startPart s f = { selectGeneration (sampleStraps s f) with
      plt := { (selectGeneration (sampleStraps s f)).plt with state := .fuseInvalid, starting := none } } := by
    rw [startPart, hcold]
    simp only [hrails, Bool.not_true, Bool.false_eq_true, if_false, hplt, Option.isNone_none, if_true]
  rw [hstart, hplt]
  exact ⟨rfl, rfl, rfl, rfl, rfl, rfl⟩

theorem startPart_testStrap {s : State} {f : StartFacts} (hcold : s.plt.starting = some .cold) (hrails : f.railsOk = true)
    (hsome : highestSlot s ≠ none) (htest : f.strapTest = true) :
    (startPart s f).plt.state = .failed ∧ (startPart s f).plt.cause = 3 ∧ (startPart s f).plt.activeSlot = highestSlot s := by
  obtain ⟨fuses, hplt⟩ := generationSelected_plt s f
  have hnot : (highestSlot s).isNone = false := by rwa [Option.isNone_eq_false_iff, Option.isSome_iff_ne_none]
  have hstart : startPart s f = failStart (selectGeneration (sampleStraps s f)) 3 := by
    rw [startPart, hcold]
    simp only [hrails, Bool.not_true, Bool.false_eq_true, if_false, hplt, hnot, htest, if_true]
  rw [hstart, failStart_plt, hplt]
  exact ⟨rfl, rfl, rfl⟩

theorem startPart_warm {s : State} {f : StartFacts} (hwarm : s.plt.starting = some .warm) (hactive : s.plt.activeSlot ≠ none)
    (htest : s.plt.strapTest = false) : startPart s f = bootFirmware s .warm f := by
  have hnot : s.plt.activeSlot.isNone = false := by rwa [Option.isNone_eq_false_iff, Option.isSome_iff_ne_none]
  rw [startPart, hwarm]
  simp only [hnot, htest, Bool.false_eq_true, if_false]

/-- What every end of a warm start leaves: time and fuses stand, and nothing starts any more. -/
theorem bootFirmware_warm_keeps (s : State) (f : StartFacts) : (bootFirmware s .warm f).plt.lmc = s.plt.lmc ∧
    (bootFirmware s .warm f).plt.fuses = s.plt.fuses ∧ (bootFirmware s .warm f).plt.starting = none := by
  cases hlist : s.plt.flashRootList with
  | none =>
    have hfail : bootFirmware s .warm f = failStart s 4 := by rw [bootFirmware, hlist]
    rw [hfail, failStart_plt]
    exact ⟨rfl, rfl, rfl⟩
  | some l =>
    by_cases hgood : keyListStatus l 1 (rootHash s) = 0
    · cases hb : bootChoice { s with plt := { s.plt with rootList := some l } } with
      | none =>
        rw [bootFirmware_noSlot hlist hgood .warm hb, failStart_plt]
        exact ⟨rfl, rfl, rfl⟩
      | some b =>
        cases him : (if b then s.plt.bootB else s.plt.bootA) with
        | none =>
          rw [bootFirmware_noImage hlist hgood .warm hb him, failStart_plt]
          exact ⟨rfl, rfl, rfl⟩
        | some im =>
          rw [bootFirmware_runs hlist hgood .warm hb him, runFirmware_warm_plt]
          split <;> exact ⟨rfl, rfl, rfl⟩
    · rw [bootFirmware_badList hlist .warm hgood, failStart_plt]
      exact ⟨rfl, rfl, rfl⟩

/-- A warm start with a root key list, to its end. -/
theorem warmStart_ends {s : State} {f : StartFacts} {l : KeyList} (hrails : s.plt.mainRails = true)
    (hwarm : s.plt.starting = some .warm) (hactive : s.plt.activeSlot ≠ none) (htest : s.plt.strapTest = false)
    (hlist : s.plt.flashRootList = some l) :
    Completes (.powerUpStart f) s (fun t =>
       t.mem = s.mem ∧ t.plt.lmc = s.plt.lmc ∧ t.plt.fuses = s.plt.fuses ∧ t.plt.starting = none ∧
       (keyListStatus l 1 (rootHash s) ≠ 0 → t.plt.state = .failed ∧ t.plt.cause = 4) ∧
       (keyListStatus l 1 (rootHash s) = 0 → bootChoice { s with plt := { s.plt with rootList := some l } } = none →
         t.plt.state = .failed ∧ t.plt.cause = 1) ∧
       (∀ b im, keyListStatus l 1 (rootHash s) = 0 → bootChoice { s with plt := { s.plt with rootList := some l } } = some b →
         (if b then s.plt.bootB else s.plt.bootA) = some im →
         (f.selfTestOk = true → t.plt.state = .ready ∧ t.plt.tries = 3 ∧ t.plt.runningB = b ∧ t.plt.rootList = some l ∧
           t.plt.runningVersion = im.securityVersion ∧ t.plt.runningDigest = im.digest ∧ t.plt.fwFallback = (b != s.plt.preferB)) ∧
         (f.selfTestOk = false → t.plt.state = .failed ∧ t.plt.cause = 3))) := by
  have hmem : (bootFirmware s .warm f).mem = s.mem := (keep_bootFirmware s .warm f).mem.resolve_left (by decide)
  obtain ⟨hlmc, hfuses, hstarting⟩ := bootFirmware_warm_keeps s f
  have heffect := effect_start f hrails
  rw [startPart_warm hwarm hactive htest] at heffect
  refine completes_effect heffect ?_
  rw [finish_mem, finish_plt]
  refine ⟨hmem, hlmc, hfuses, hstarting, fun hbad => ?_, fun hgood hnone => ?_, fun b im hgood hb him => ⟨fun htested => ?_, fun hfailed => ?_⟩⟩
  · rw [bootFirmware_badList hlist .warm hbad, failStart_plt]
    exact ⟨rfl, rfl⟩
  · rw [bootFirmware_noSlot hlist hgood .warm hnone, failStart_plt]
    exact ⟨rfl, rfl⟩
  · rw [bootFirmware_runs hlist hgood .warm hb him, runFirmware_warm_plt, if_pos htested]
    exact ⟨rfl, rfl, rfl, rfl, rfl, rfl, rfl⟩
  · rw [bootFirmware_runs hlist hgood .warm hb him, runFirmware_warm_plt, hfailed, if_neg (by decide)]
    exact ⟨rfl, rfl⟩

/-- Settles O20: a start that stops does so at the step that fails, and a warm start by what the ROM finds in the flash. -/
theorem startsEnd : Obligations.StartsEnd := by
  refine ⟨fun s f hrails hcold hoff => ?_, fun s f hrails hcold hon hnone => ?_, fun s f hrails hcold hon hsome htest => ?_,
    fun s f hrails hwarm hactive htest hlist => ?_,
    fun s f l hrails hwarm hactive htest hlist => warmStart_ends hrails hwarm hactive htest hlist⟩
  · have heffect := effect_start f hrails
    rw [startPart_noRails hcold hoff] at heffect
    refine completes_effect heffect ?_
    rw [finish_mem, finish_plt, failStart_plt]
    exact ⟨rfl, rfl, rfl, rfl, (keep_failStart s 5).mem.resolve_left (by decide)⟩
  · refine completes_effect (effect_start f hrails) ?_
    rw [finish_plt]
    exact startPart_noGeneration hcold hon hnone
  · refine completes_effect (effect_start f hrails) ?_
    rw [finish_plt]
    exact startPart_testStrap hcold hon hsome htest
  · have heffect := effect_start f hrails
    have hfail : bootFirmware s .warm f = failStart s 4 := by rw [bootFirmware, hlist]
    rw [startPart_warm hwarm hactive htest, hfail] at heffect
    refine completes_effect heffect ?_
    rw [finish_plt, failStart_plt]
    exact ⟨rfl, rfl⟩

end Sys2Proof.Machine
end

section
/-! SUPPORT. Firmware is staged and the thermometer advances (O21), and generations burn (O23). -/

namespace Sys2Proof.Machine

open Sys2Proof

/-! ## STAGE (R557, R558) -/

/-- What the check of a firmware image rests on. -/
theorem firmwareStatus_congr {s t : State} (hplt : t.plt = s.plt)
    (hminor : getF t F.fabCaps.fabFormatMinorMax = getF s F.fabCaps.fabFormatMinorMax) (im : Image) :
    firmwareStatus t im = firmwareStatus s im := by
  have hheader : headerGood t im = headerGood s im := by rw [headerGood, headerGood, hminor]
  have hkeys : acceptedKeys t im.kind = acceptedKeys s im.kind := by
    unfold acceptedKeys
    rw [hplt]
  have hsigned : signatureOk t im = signatureOk s im := by rw [signatureOk, signatureOk, hkeys]
  rw [firmwareStatus, firmwareStatus, hheader, hsigned, hplt]

theorem firmwareStatus_lt (s : State) (im : Image) : firmwareStatus s im < 2 ^ F.pltFwStatus.status.width := by
  unfold firmwareStatus
  repeat' split
  all_goals decide

theorem getF_fwStatus_finish (s0 s : State) {st : Nat} (hst : st < 2 ^ F.pltFwStatus.status.width) :
    getF (finish s0 (fwStatus s st)) F.pltFwStatus.status = st := by
  rw [finish_getF _ _ _ (by decide), fwStatus, getF_putF_self, Nat.mod_eq_of_lt hst]

section
variable {s : State} {h : Nat} (hserves : serves s 0 = true) (hawake : isAwake s = true) (hidle : getF s F.pltFwStatus.status ≠ 1)
include hserves hawake hidle

theorem effect_stage (read : ReadEnd) : Effect (.stage h read) s (doStage (putF s F.pltFwCtl.handle h) (h % 2 ^ 32) read) := by
  change execStage h read s = _
  rw [execStage, hserves, actAwake_taken _ _ _ hawake]
  simp only [if_neg hidle]

theorem stage_unresolved (read : ReadEnd) (hres : resolveImage s (h % 2 ^ 32) 2 = false) :
    Effect (.stage h read) s (putF (putF s F.pltFwCtl.handle h) F.pltFwStatus.status 2) := by
  have hres' : resolveImage (putF s F.pltFwCtl.handle h) (h % 2 ^ 32) 2 = false := (resolveImage_of_stk rfl _ _).trans hres
  have heffect := effect_stage hserves hawake hidle read (h := h)
  rw [doStage, hres', Bool.not_false, if_pos rfl] at heffect
  exact heffect

variable (hres : resolveImage s (h % 2 ^ 32) 2 = true)
include hres

/-- An object in host memory that the part cannot reach is waited for. -/
theorem stage_waits (read : ReadEnd) (hwait : mustWait s (h % 2 ^ 32) = true) : Completes (.stage h read) s (fun t =>
    getF t F.pltFwStatus.status = 1 ∧ t.plt = s.plt ∧ t.pcie.waiting = s.pcie.waiting ++ [.stage (h % 2 ^ 32) read]) := by
  have hres' : resolveImage (putF s F.pltFwCtl.handle h) (h % 2 ^ 32) 2 = true := (resolveImage_of_stk rfl _ _).trans hres
  have hwait' := (mustWait_putF s F.pltFwCtl.handle h (h % 2 ^ 32) (by decide)).trans hwait
  have heffect := effect_stage hserves hawake hidle read (h := h)
  rw [doStage, hres', Bool.not_true, if_neg (by decide), if_pos hwait'] at heffect
  refine completes_effect heffect ⟨?_, ?_, ?_⟩
  · rw [finish_getF _ _ _ (by decide), getF_waitHost, fwStatus, getF_putF_self]
    rfl
  · rw [finish_plt]
    rfl
  · rw [(finished_finish _ _).told.pcie]
    rfl

variable (hnow : mustWait s (h % 2 ^ 32) = false)
include hnow

/-- An object that can be read now is read, and what was read is checked. -/
theorem effect_stage_reads (read : ReadEnd) : Effect (.stage h read) s
    (match (readImage (putF s F.pltFwCtl.handle h) (h % 2 ^ 32) read).1 with
    | none => fwStatus (readImage (putF s F.pltFwCtl.handle h) (h % 2 ^ 32) read).2 3
    | some im =>
      if firmwareStatus (readImage (putF s F.pltFwCtl.handle h) (h % 2 ^ 32) read).2 im = 0 then
        fwStatus { (readImage (putF s F.pltFwCtl.handle h) (h % 2 ^ 32) read).2 with
          plt := { (readImage (putF s F.pltFwCtl.handle h) (h % 2 ^ 32) read).2.plt with staging := some im } } 1
      else fwStatus (readImage (putF s F.pltFwCtl.handle h) (h % 2 ^ 32) read).2
        (firmwareStatus (readImage (putF s F.pltFwCtl.handle h) (h % 2 ^ 32) read).2 im)) := by
  have hres' : resolveImage (putF s F.pltFwCtl.handle h) (h % 2 ^ 32) 2 = true := (resolveImage_of_stk rfl _ _).trans hres
  have hnow' := (mustWait_putF s F.pltFwCtl.handle h (h % 2 ^ 32) (by decide)).trans hnow
  have heffect := effect_stage hserves hawake hidle read (h := h)
  rw [doStage, hres', Bool.not_true, if_neg (by decide), hnow', if_neg (by decide)] at heffect
  exact heffect

/-- A read that gives no image ends in FORMAT. -/
theorem stage_withoutImage (read : ReadEnd) (hnone : (readImage (putF s F.pltFwCtl.handle h) (h % 2 ^ 32) read).1 = none) :
    Completes (.stage h read) s (fun t => getF t F.pltFwStatus.status = 3 ∧ t.plt = s.plt) := by
  have heffect := effect_stage_reads hserves hawake hidle hres hnow read
  rw [hnone] at heffect
  refine completes_effect heffect ⟨getF_fwStatus_finish _ _ (by decide), ?_⟩
  rw [finish_plt]
  exact (keep_readImage (putF s F.pltFwCtl.handle h) (h % 2 ^ 32) read).plt.resolve_left (by decide)

/-- An image that the part accepts is written; one that it does not accept tells why. -/
theorem stage_checks {x : Image} (hx : imageOf s (h % 2 ^ 32) = some x) : Completes (.stage h .whole) s (fun t =>
    (firmwareStatus s x = 0 → getF t F.pltFwStatus.status = 1 ∧ t.plt = { s.plt with staging := some x }) ∧
    (firmwareStatus s x ≠ 0 → getF t F.pltFwStatus.status = firmwareStatus s x ∧ t.plt = s.plt)) := by
  have hread : (readImage (putF s F.pltFwCtl.handle h) (h % 2 ^ 32) .whole).1 = some x := (readImage_whole _ _).trans hx
  have hplt : (readImage (putF s F.pltFwCtl.handle h) (h % 2 ^ 32) .whole).2.plt = s.plt :=
    (keep_readImage (putF s F.pltFwCtl.handle h) (h % 2 ^ 32) .whole).plt.resolve_left (by decide)
  have hminor : getF (readImage (putF s F.pltFwCtl.handle h) (h % 2 ^ 32) .whole).2 F.fabCaps.fabFormatMinorMax =
      getF s F.fabCaps.fabFormatMinorMax := (getF_askHost _ _ _).trans (getF_putF_other _ _ _ _ (by decide))
  have hstatus := firmwareStatus_congr hplt hminor x
  have heffect := effect_stage_reads hserves hawake hidle hres hnow .whole
  rw [hread] at heffect
  dsimp only at heffect
  rw [hstatus] at heffect
  by_cases hgood : firmwareStatus s x = 0
  · rw [if_pos hgood] at heffect
    refine completes_effect heffect ⟨fun _ => ⟨getF_fwStatus_finish _ _ (by decide), ?_⟩, fun hbad => absurd hgood hbad⟩
    rw [finish_plt, fwStatus, putF_plt, hplt]
  · rw [if_neg hgood] at heffect
    refine completes_effect heffect ⟨fun h0 => absurd h0 hgood, fun _ => ⟨getF_fwStatus_finish _ _ (firmwareStatus_lt s x), ?_⟩⟩
    rw [finish_plt, fwStatus, putF_plt, hplt]

end

/-! ## STAGE_COMPLETE and ADVANCE (R552, R569) -/

theorem effect_stageComplete {s : State} (ok : Bool) (hrails : s.plt.mainRails = true) : Effect (.stageComplete ok) s (endStage s ok) := by
  change execStageComplete ok s = _
  rw [execStageComplete, hrails, act_taken]

theorem setIdleSlot_eq (s : State) (im : Option Image) : (setIdleSlot s im).plt =
    { s.plt with bootA := (if s.plt.runningB then im else s.plt.bootA), bootB := (if s.plt.runningB then s.plt.bootB else im) } := by
  unfold setIdleSlot
  cases h : s.plt.runningB <;> simp

theorem stageComplete_ends {s : State} {x : Image} (hrails : s.plt.mainRails = true) (hx : s.plt.staging = some x) :
    Completes (.stageComplete true) s (fun t => getF t F.pltFwStatus.status = 0 ∧
      t.plt = { s.plt with staging := none, preferB := !s.plt.runningB, tries := 3,
                           bootA := (if s.plt.runningB then some x else s.plt.bootA),
                           bootB := (if s.plt.runningB then s.plt.bootB else some x) }) ∧
    Completes (.stageComplete false) s (fun t => getF t F.pltFwStatus.status = 6 ∧
      t.plt = { s.plt with staging := none, bootA := (if s.plt.runningB then none else s.plt.bootA),
                           bootB := (if s.plt.runningB then s.plt.bootB else none) }) := by
  have hwritten := effect_stageComplete true hrails
  have hfailed := effect_stageComplete false hrails
  rw [endStage, hx] at hwritten hfailed
  dsimp only at hwritten hfailed
  rw [if_pos rfl] at hwritten
  rw [if_neg (by decide)] at hfailed
  refine ⟨completes_effect hwritten ⟨getF_fwStatus_finish _ _ (by decide), ?_⟩,
    completes_effect hfailed ⟨getF_fwStatus_finish _ _ (by decide), ?_⟩⟩
  · rw [finish_plt, fwStatus, putF_plt, setIdleSlot_eq]
  · rw [finish_plt, fwStatus, putF_plt, setIdleSlot_eq]

theorem effect_advance {s : State} (hserves : serves s 0 = true) (hawake : isAwake s = true) (hidle : getF s F.pltFwStatus.status ≠ 1) :
    Effect .advance s (if isSet s F.fuseCtl.fuseLock then putF s F.fuseStatus.burnStatus 6
      else if s.plt.runningVersion ≤ s.plt.thermo then putF s F.pltFwStatus.status 7
      else putF { s with plt := { s.plt with thermo := min 128 s.plt.runningVersion } } F.pltFwStatus.status 0) := by
  change execAdvance s = _
  rw [execAdvance, hserves, actAwake_taken _ _ _ hawake, doAdvance, if_neg hidle]
  rfl

/-- Settles O21: STAGE by what the handle and its object give, its end by the flash, and ADVANCE by the lock and the thermometer. -/
theorem firmwareAdvances : Obligations.FirmwareAdvances := by
  refine ⟨fun s h hserves hawake hidle => ⟨fun r hres => stage_unresolved hserves hawake hidle r hres, fun hres hnow => ⟨fun o => ?_,
      fun hnone => ?_, fun x hx => stage_checks hserves hawake hidle hres hnow hx⟩,
      fun r hres hwait => stage_waits hserves hawake hidle hres r hwait⟩,
    fun s x hrails hx => stageComplete_ends hrails hx,
    fun s hserves hawake hidle => ⟨fun hunlocked hbelow hhigh => ?_, fun hunlocked hthere => ?_, fun hlocked => ?_⟩⟩
  · exact stage_withoutImage hserves hawake hidle hres hnow (.errorAt o) (readImage_errorAt _ _ _)
  · exact stage_withoutImage hserves hawake hidle hres hnow .whole ((readImage_whole _ _).trans hnone)
  · have heffect := effect_advance hserves hawake hidle
    rw [hunlocked, if_neg (by decide), if_neg (by omega), Nat.min_eq_right hhigh] at heffect
    exact heffect
  · have heffect := effect_advance hserves hawake hidle
    rwa [hunlocked, if_neg (by decide), if_pos hthere] at heffect
  · have heffect := effect_advance hserves hawake hidle
    rwa [if_pos hlocked] at heffect

end Sys2Proof.Machine
end

section
/-! SUPPORT. The burn of a generation (O23). -/

namespace Sys2Proof.Machine

open Sys2Proof

/-! ## BURN (R548, R549, R569) -/

theorem effect_burn {s : State} (hserves : serves s 1 = true) (hawake : isAwake s = true) : Effect .burn s (doBurn s) := by
  change execBurn s = _
  rw [execBurn, hserves, actAwake_taken _ _ _ hawake]

theorem getF_burnStatus_finish (s0 s : State) {st : Nat} (hst : st < 8) :
    getF (finish s0 (burnStatus s st)) F.fuseStatus.burnStatus = st := by
  rw [finish_getF _ _ _ (by decide), burnStatus, getF_putF_self]
  exact Nat.mod_eq_of_lt (Nat.lt_trans hst (by decide))

/-- What a BURN that does not begin leaves: its status, a new nonce, and the fuses as they were. -/
theorem endBurn_leaves (s0 s : State) {st : Nat} (hst : st < 8) : getF (finish s0 (endBurn s st)) F.fuseStatus.burnStatus = st ∧
    (finish s0 (endBurn s st)).plt = { s.plt with burning := none, nonceNo := s.plt.nonceNo + 1 } := by
  refine ⟨getF_burnStatus_finish _ _ hst, ?_⟩
  rw [finish_plt]
  rfl

/-- The status that BURN ends or begins with. -/
def burnOutcome (s : State) : Nat :=
  if isSet s F.fuseCtl.fuseLock then 6 else if !burnAuthorised s then 2 else if !stageGood s then 3
  else if (freeSlotAbove s).isNone then 4 else 1

/-- What the part shows of a BURN once it has begun or ended. -/
def BurnShown (s t : State) : Prop :=
  getF t F.fuseStatus.burnStatus = burnOutcome s ∧ t.plt.fuses = s.plt.fuses ∧
    t.plt.nonceNo = (if burnOutcome s = 1 then s.plt.nonceNo else s.plt.nonceNo + 1) ∧
    t.plt.burning = (if burnOutcome s = 1 then (freeSlotAbove s).map (fun k => (k, stageBytes s)) else none)

theorem burnShown_refused {s : State} {st : Nat} (hdo : doBurn s = endBurn s st) (hout : burnOutcome s = st) (hne : st ≠ 1)
    (hst : st < 8) : BurnShown s (finish s (doBurn s)) := by
  obtain ⟨hstatus, hplt⟩ := endBurn_leaves s s hst
  rw [BurnShown, hdo, hplt, hout, if_neg hne, if_neg hne]
  exact ⟨hstatus, rfl, rfl, rfl⟩

theorem burnShown_begun {s : State} {k : Fin 4} (hout : burnOutcome s = 1) (hfree : freeSlotAbove s = some k)
    (hdo : doBurn s = burnStatus { s with plt := { s.plt with burning := some (k, stageBytes s) } } 1) :
    BurnShown s (finish s (doBurn s)) := by
  rw [BurnShown, hdo, hout, if_pos rfl, if_pos rfl, hfree, finish_plt]
  exact ⟨getF_burnStatus_finish _ _ (by decide), rfl, rfl, rfl⟩

/-- The checks in their order: the lock, the signature, the staged slot, a free slot. -/
theorem burn_shown {s : State} (hnone : s.plt.burning = none) : BurnShown s (finish s (doBurn s)) := by
  cases hlock : isSet s F.fuseCtl.fuseLock with
  | true => exact burnShown_refused (st := 6) (by simp [doBurn, hnone, hlock]) (by simp [burnOutcome, hlock]) (by decide) (by decide)
  | false =>
    cases hauth : burnAuthorised s with
    | false =>
      exact burnShown_refused (st := 2) (by simp [doBurn, hnone, hlock, hauth]) (by simp [burnOutcome, hlock, hauth]) (by decide)
        (by decide)
    | true =>
      cases hgood : stageGood s with
      | false =>
        exact burnShown_refused (st := 3) (by simp [doBurn, hnone, hlock, hauth, hgood]) (by simp [burnOutcome, hlock, hauth, hgood])
          (by decide) (by decide)
      | true =>
        cases hfree : freeSlotAbove s with
        | none =>
          exact burnShown_refused (st := 4) (by simp [doBurn, hnone, hlock, hauth, hgood, hfree])
            (by simp [burnOutcome, hlock, hauth, hgood, hfree]) (by decide) (by decide)
        | some k =>
          exact burnShown_begun (by simp [burnOutcome, hlock, hauth, hgood, hfree]) hfree
            (by simp [doBurn, hnone, hlock, hauth, hgood, hfree])

/-! ## The end of a burn (R546, R549) -/

theorem effect_burnComplete {s : State} (ok : Bool) (hrails : s.plt.mainRails = true) : Effect (.burnComplete ok) s (finishBurn s ok) := by
  change execBurnComplete ok s = _
  rw [execBurnComplete, hrails, act_taken]

theorem slotBytes_length (s : State) (k o n : Nat) : (slotBytes s k o n).length = n := tabGetRun_length ..

/-- Byte `i` of a slot after bytes are burned into it: fuses go from 0 to 1. -/
theorem burnSlot_byte {s : State} {k : Nat} {bs : List Byte} (hlength : bs.length = 512) {i : Nat} (hi : i < 512) :
    tabGet 0 (burnSlot s k bs).plt.fuses (512 * k + i) = tabGet 0 s.plt.fuses (512 * k + i) ||| (bs[i]?).getD 0 := by
  have hbounds : 512 * k ≤ 512 * k + i ∧
      512 * k + i < 512 * k + ((slotBytes s k 0 512).zipWith (fun a b => a ||| b) bs).length := by
    rw [List.length_zipWith, slotBytes_length, hlength, Nat.min_self]
    omega
  have hbyte : (bs[i]?).getD 0 = bs[i]'(by omega) := by
    rw [List.getElem?_eq_getElem (by omega)]
    rfl
  change tabGet 0 (tabPutRun 0 s.plt.fuses (512 * k) _) _ = _
  rw [tabGet_putRun, dif_pos hbounds, List.getElem_zipWith, hbyte]
  simp only [slotBytes, getElem_tabGetRun, Nat.add_zero, Nat.add_sub_cancel_left]

/-- A slot that is revoked has its four REVOKE bytes burned, and no other byte changes. -/
theorem revokeSlot_byte (s : State) (k j : Nat) : tabGet 0 (revokeSlot s k).plt.fuses j =
    if 512 * k + 508 ≤ j ∧ j < 512 * k + 512 then 255#8 else tabGet 0 s.plt.fuses j := by
  change tabGet 0 (tabPutRun 0 s.plt.fuses (512 * k + 508) (List.replicate 4 255#8)) j = _
  rw [tabGet_putRun]
  by_cases h : 512 * k + 508 ≤ j ∧ j < 512 * k + 512
  · rw [dif_pos (by rw [List.length_replicate]; omega), if_pos h, List.getElem_replicate]
  · rw [dif_neg (by rw [List.length_replicate]; omega), if_neg h]

theorem burnComplete_good {s : State} {k a : Fin 4} {staged : List Byte} (hrails : s.plt.mainRails = true)
    (hburning : s.plt.burning = some (k, staged)) (hlength : staged.length = 512) (hactive : s.plt.activeSlot = some a) (hne : a ≠ k) :
    Completes (.burnComplete true) s (fun t => getF t F.fuseStatus.burnStatus = 0 ∧ t.plt.nonceNo = s.plt.nonceNo + 1 ∧
      t.plt.burning = none ∧ t.plt.activeSlot = some a ∧
      (∀ i < 512, tabGet 0 t.plt.fuses (512 * k.val + i) = tabGet 0 s.plt.fuses (512 * k.val + i) ||| (staged[i]?).getD 0) ∧
      (∀ i < 4, tabGet 0 t.plt.fuses (512 * a.val + 508 + i) = 255#8)) := by
  have hactive' : (burnSlot s k.val staged).plt.activeSlot = some a := hactive
  have heffect := effect_burnComplete true hrails
  rw [finishBurn, hburning] at heffect
  dsimp only at heffect
  rw [if_pos rfl, hactive'] at heffect
  obtain ⟨hstatus, hplt⟩ := endBurn_leaves s (revokeSlot (burnSlot s k.val staged) a.val) (st := 0) (by decide)
  have hapart : a.val ≠ k.val := fun h => hne (Fin.ext h)
  refine completes_effect heffect ⟨hstatus, ?_⟩
  rw [hplt]
  refine ⟨rfl, rfl, hactive, fun i hi => ?_, fun i hi => ?_⟩
  · rw [revokeSlot_byte, if_neg (by omega), burnSlot_byte hlength hi]
  · rw [revokeSlot_byte, if_pos (by omega)]

/-! ## A slot whose read-back failed (R549) -/

theorem slotUsed_congr {s t : State} (h : t.plt.fuses = s.plt.fuses) (k : Nat) : slotUsed t k = slotUsed s k := by
  rw [slotUsed, slotUsed, h]

/-- A key that holds something is listed. -/
theorem listed_of_tabGet {α : Type} {d : α} (m : Tab α) (k : Nat) (h : tabGet d m k ≠ d) : m.any (fun e => e.1 == k) = true := by
  induction m with
  | nil => exact absurd rfl h
  | cons e m ih =>
    obtain ⟨j, v⟩ := e
    rw [tabGet] at h
    rw [List.any_cons, Bool.or_eq_true]
    split at h
    · next hj => exact .inl (by simp [hj])
    · exact .inr (ih h)

/-- A slot of which a byte is burned is used. -/
theorem slotUsed_of_byte {s : State} {k i : Nat} (hi : i < 512) (h : tabGet 0 s.plt.fuses (512 * k + i) ≠ 0) : slotUsed s k = true := by
  obtain ⟨e, hmem, hkey⟩ := List.any_eq_true.1 (listed_of_tabGet s.plt.fuses (512 * k + i) h)
  have hkey' := eq_of_beq hkey
  refine List.any_eq_true.2 ⟨e, hmem, ?_⟩
  simp only [Bool.and_eq_true, decide_eq_true_eq]
  omega

/-- A slot whose REVOKE bits are all burned never lives. -/
theorem slotLives_revoked {s : State} {k : Nat} (h : ∀ i < 4, tabGet 0 s.plt.fuses (512 * k + 508 + i) = 255#8) :
    slotLives s k = false := by
  have hbytes : slotBytes s k 508 4 = List.replicate 4 255#8 := by
    refine List.ext_getElem (slotBytes_length ..) fun i hi _ => ?_
    rw [slotBytes_length] at hi
    rw [List.getElem_replicate, ← h i hi]
    exact getElem_tabGetRun ..
  have hrevoked : slotRevoked s k = true := by
    rw [slotRevoked, slotField, hbytes]
    decide
  rw [slotLives, hrevoked, Bool.not_true, Bool.and_false]

/-- A byte with every bit burned. -/
theorem or_allOnes (b : Byte) : b ||| 255#8 = 255#8 := BitVec.or_allOnes

/-- A slot that a failed burn leaves is used and never lives. -/
theorem spoilSlot_dead (s : State) (k : Nat) : slotUsed (spoilSlot s k) k = true ∧ slotLives (spoilSlot s k) k = false := by
  unfold spoilSlot
  dsimp only
  split
  · next h => simpa using h
  · have hbyte : ∀ u : State, ∀ i < 512, tabGet 0 (burnSlot u k (List.replicate 512 255)).plt.fuses (512 * k + i) = 255#8 := by
      intro u i hi
      rw [burnSlot_byte (List.length_replicate ..) hi, List.getElem?_replicate, if_pos hi]
      exact or_allOnes _
    refine ⟨slotUsed_of_byte (i := 0) (by decide) ?_, slotLives_revoked fun i hi => ?_⟩
    · rw [hbyte _ 0 (by decide)]
      decide
    · rw [Nat.add_assoc]
      exact hbyte _ (508 + i) (by omega)

theorem burnSlot_activeSlot (s : State) (k : Nat) (bs : List Byte) : (burnSlot s k bs).plt.activeSlot = s.plt.activeSlot := rfl

theorem burnSlot_nonceNo (s : State) (k : Nat) (bs : List Byte) : (burnSlot s k bs).plt.nonceNo = s.plt.nonceNo := rfl

theorem spoilSlot_keeps (s : State) (k : Nat) :
    (spoilSlot s k).plt.activeSlot = s.plt.activeSlot ∧ (spoilSlot s k).plt.nonceNo = s.plt.nonceNo := by
  unfold spoilSlot
  dsimp only
  split <;> simp only [burnSlot_activeSlot, burnSlot_nonceNo, and_self]

theorem burnComplete_bad {s : State} {k : Fin 4} {staged : List Byte} (hrails : s.plt.mainRails = true)
    (hburning : s.plt.burning = some (k, staged)) : Completes (.burnComplete false) s (fun t => getF t F.fuseStatus.burnStatus = 5 ∧
      t.plt.nonceNo = s.plt.nonceNo + 1 ∧ t.plt.burning = none ∧ t.plt.activeSlot = s.plt.activeSlot ∧ slotUsed t k.val = true ∧
      slotLives t k.val = false) := by
  have heffect := effect_burnComplete false hrails
  rw [finishBurn, hburning] at heffect
  dsimp only at heffect
  rw [if_neg (by decide)] at heffect
  obtain ⟨hstatus, hplt⟩ := endBurn_leaves s (spoilSlot s k.val) (st := 5) (by decide)
  obtain ⟨hactive, hnonce⟩ := spoilSlot_keeps s k.val
  obtain ⟨hused, hdead⟩ := spoilSlot_dead s k.val
  have hfuses : (finish s (endBurn (spoilSlot s k.val) 5)).plt.fuses = (spoilSlot s k.val).plt.fuses := by rw [hplt]
  refine completes_effect heffect ⟨hstatus, ?_, ?_, ?_, ?_, ?_⟩
  · rw [hplt, hnonce]
  · rw [hplt]
  · rw [hplt, hactive]
  · rw [slotUsed_congr hfuses, hused]
  · rw [slotLives_congr hfuses, hdead]

/-- Settles O23: the checks in their order, and the end of a burn by its read-back. -/
theorem generationsBurn : Obligations.GenerationsBurn :=
  ⟨fun _ hserves hawake hnone => completes_effect (effect_burn hserves hawake) (burn_shown hnone),
    fun _ _ _ _ hrails hburning hlength hactive hne => burnComplete_good hrails hburning hlength hactive hne,
    fun _ _ _ hrails hburning => burnComplete_bad hrails hburning⟩

end Sys2Proof.Machine
end

section
/-! SUPPORT. The twin's state and role, and its loss (O40). -/

namespace Sys2Proof.Machine

open Sys2Proof

/-- A command that the part does not take changes nothing. -/
theorem exec_untaken {c : Instr} {s : State} {taken : Bool} {effect : State → State} (hexec : exec c s = act s taken effect)
    (htaken : taken = false) : exec c s = .next s := by
  rw [hexec, htaken, act_notTaken]

/-! ## The twin at the end of a command -/

section
variable (s0 s : State)

@[simp] theorem finish_fenceSent : (finish s0 s).twn.fenceSent = s.twn.fenceSent := by
  rw [(finished_finish s0 s).told.twn]
@[simp] theorem finish_twnApplied : (finish s0 s).twn.applied = s.twn.applied := by
  rw [(finished_finish s0 s).told.twn]
@[simp] theorem finish_twnPhase : (finish s0 s).twn.phase = s.twn.phase := by
  rw [(finished_finish s0 s).told.twn]
@[simp] theorem finish_twnStopped : (finish s0 s).twn.stopped = s.twn.stopped := by
  rw [(finished_finish s0 s).told.twn]
@[simp] theorem finish_twnIncomplete : (finish s0 s).twn.incomplete = s.twn.incomplete := by
  rw [(finished_finish s0 s).told.twn]

theorem finish_twnCause : getF (finish s0 s) F.twnStatus.cause = getF s F.twnStatus.cause :=
  finish_getF s0 s F.twnStatus.cause (by decide)

end

/-! ## State and role (R493) -/

theorem setTwin_cause (s : State) (st : TwinState) (role : TwinRole) {cause : Nat} (hcause : cause < 16) :
    getF (setTwin s st role cause) F.twnStatus.cause = cause := by
  have hput : getF (putF { s with twn := { s.twn with state := st, role := role } } F.twnStatus.cause cause) F.twnStatus.cause = cause := by
    rw [getF_putF_self]
    exact Nat.mod_eq_of_lt (Nat.lt_of_lt_of_le hcause (by decide))
  have hnotify : ∀ u : State, getF (notify u F.twnCtl.notifyEnable F.twnCtl.vector) F.twnStatus.cause = getF u F.twnStatus.cause :=
    fun u => (told_notify u _ _).field _ (by decide)
  unfold setTwin
  dsimp only
  split_ifs
  · exact (hnotify _).trans hput
  · exact (hnotify _).trans hput
  · exact hput
  · exact hput

theorem staysSent_setTwin (s : State) (st : TwinState) (role : TwinRole) (cause : Nat) : StaysSent s (setTwin s st role cause) := by
  have hfeed : ∀ u b, StaysSent u (sendFeed u b) := fun u b => ⟨[.feed u.lane.nextSeq b, .feed u.lane.nextSeq b], rfl⟩
  have hnotify : ∀ u e v, StaysSent u (notify u e v) := fun u e v => (told_notify u e v).out
  have hput : StaysSent s (putF { s with twn := { s.twn with state := st, role := role } } F.twnStatus.cause cause) := .of_eq rfl
  unfold setTwin
  dsimp only
  split_ifs
  · exact (hput.trans (hfeed _ _)).trans (hnotify _ _ _)
  · exact hput.trans (hnotify _ _ _)
  · exact hput.trans (hfeed _ _)
  · exact hput

@[simp] theorem setTwin_rqt (s : State) (st : TwinState) (role : TwinRole) (cause : Nat) : (setTwin s st role cause).rqt = s.rqt :=
  (keep_setTwin s st role cause).rqt.resolve_left (by decide)
@[simp] theorem setTwin_xfr (s : State) (st : TwinState) (role : TwinRole) (cause : Nat) : (setTwin s st role cause).xfr = s.xfr :=
  (keep_setTwin s st role cause).xfr.resolve_left (by decide)
@[simp] theorem setTwin_stk (s : State) (st : TwinState) (role : TwinRole) (cause : Nat) : (setTwin s st role cause).stk = s.stk :=
  (keep_setTwin s st role cause).stk.resolve_left (by decide)
@[simp] theorem setTwin_pfx (s : State) (st : TwinState) (role : TwinRole) (cause : Nat) : (setTwin s st role cause).pfx = s.pfx :=
  (keep_setTwin s st role cause).pfx.resolve_left (by decide)
@[simp] theorem setTwin_plt (s : State) (st : TwinState) (role : TwinRole) (cause : Nat) : (setTwin s st role cause).plt = s.plt :=
  (keep_setTwin s st role cause).plt.resolve_left (by decide)
@[simp] theorem setTwin_lnk (s : State) (st : TwinState) (role : TwinRole) (cause : Nat) : (setTwin s st role cause).lnk = s.lnk :=
  (keep_setTwin s st role cause).lnk.resolve_left (by decide)

/-! ## The two ways to end a pair (R493) -/

theorem activeAlone_twn (s : State) (cause : Nat) : (activeAlone s cause).twn.state = .alone ∧ (activeAlone s cause).twn.role = .active := by
  rw [activeAlone, setTwin_twn]
  exact ⟨rfl, rfl⟩

/-- The Active that goes on alone, at the end of the command. -/
theorem finish_activeAlone (s0 s : State) {cause : Nat} (hcause : cause < 16) :
    (finish s0 (activeAlone s cause)).twn.state = .alone ∧ (finish s0 (activeAlone s cause)).twn.role = .active ∧
      getF (finish s0 (activeAlone s cause)) F.twnStatus.cause = cause := by
  obtain ⟨hstate, hrole⟩ := activeAlone_twn s cause
  refine ⟨(finish_twnState _ _).trans hstate, (finish_twnRole _ _).trans hrole, (finish_twnCause _ _).trans ?_⟩
  exact setTwin_cause _ _ _ hcause

theorem entryOf_discardCopies (s : State) (i : Nat) : (entryOf (discardCopies s) i).state = .free := rfl

/-- The Mirror that leaves, at the end of the command. -/
theorem finish_mirrorLeaves (s0 s : State) {cause : Nat} (hcause : cause < 16) :
    (finish s0 (mirrorLeaves s cause)).twn.state = .solo ∧ (finish s0 (mirrorLeaves s cause)).twn.role = .none ∧
      getF (finish s0 (mirrorLeaves s cause)) F.twnStatus.cause = cause ∧
      ∀ i, (entryOf (finish s0 (mirrorLeaves s cause)) i).state = .free := by
  refine ⟨finish_twnState _ _, finish_twnRole _ _, (finish_twnCause _ _).trans ?_, fun i => ?_⟩
  · exact setTwin_cause s .solo .none hcause
  · rw [finish_entryState]
    exact entryOf_discardCopies (setTwin s .solo .none cause) i

/-! ## FENCE_REQ (R502, R563) -/

theorem sendFence_twn {s : State} {m : Nat} (htwin : s.lnk.twin = some m) :
    (sendFence s).twn = { s.twn with fenceSent := true, fenceLmc := s.plt.lmc } := by
  rw [sendFence, htwin]
  rfl

theorem sends_sendFence {s : State} {m : Nat} (htwin : s.lnk.twin = some m) : ∃ q, Sends s (sendFence s) (fenceRequest s m q) := by
  rw [sendFence, htwin]
  exact ⟨_, sends_of_cons rfl⟩

theorem sendFence_rqt {s : State} : (sendFence s).rqt = s.rqt := (keep_sendFence s).rqt.resolve_left (by decide)

/-! ## Time (R56, R59) -/

theorem hasPassed_held {s : State} (since us : Nat) (h : lmcRuns s = false) : hasPassed s since us = false := by
  rw [hasPassed, h, Bool.false_and]

/-- HEARTBEAT_LOSS is taken by a part of a pair whose last heartbeat is too long ago. -/
theorem heartbeatLoss_effect {s : State} (hready : isReady s = true)
    (hlate : hasPassed s s.twn.beatHeard (getF s F.twnCtl.misses * getF s F.twnCtl.hbIntervalUs) = true)
    (hpairing : isPairing s = true) : Effect .heartbeatLoss s (loseHeartbeats s) :=
  effect_act (show exec .heartbeatLoss s = execHeartbeatLoss s from rfl) (by rw [hready, hpairing, hlate]; rfl)

/-- The state in which a PAIRED Mirror asks for the fence. -/
def mirrorFencing (s : State) : State :=
  setTwin { satF s F.twnStats.losses with twn := { (satF s F.twnStats.losses).twn with fenceSent := false } } .fencing .mirror 8

theorem mirrorFencing_keeps (s : State) : (mirrorFencing s).twn.state = .fencing ∧ (mirrorFencing s).twn.role = .mirror ∧
    (mirrorFencing s).rqt = s.rqt ∧ (mirrorFencing s).lnk = s.lnk ∧ (mirrorFencing s).plt = s.plt ∧ StaysSent s (mirrorFencing s) := by
  have hsat := keep_satF s F.twnStats.losses
  have hout : StaysSent s (satF s F.twnStats.losses) := .of_eq (hsat.out.resolve_left (by decide))
  refine ⟨?_, ?_, (setTwin_rqt ..).trans (hsat.rqt.resolve_left (by decide)), (setTwin_lnk ..).trans (hsat.lnk.resolve_left (by decide)),
    (setTwin_plt ..).trans (hsat.plt.resolve_left (by decide)), hout.trans ?_⟩
  · rw [mirrorFencing, setTwin_twn]
  · rw [mirrorFencing, setTwin_twn]
  · exact staysSent_setTwin { satF s F.twnStats.losses with twn := { (satF s F.twnStats.losses).twn with fenceSent := false } } _ _ _

/-- The request for the fence at the end of a command, from a state that tells who the part is. -/
theorem finish_sendFence {s0 s u : State} {m : Nat} (htwin : u.lnk.twin = some m) (hplt : u.plt = s.plt) (hsent : StaysSent s u) :
    (finish s0 (sendFence u)).twn.state = u.twn.state ∧ (finish s0 (sendFence u)).twn.role = u.twn.role ∧
      (finish s0 (sendFence u)).twn.fenceSent = true ∧ (finish s0 (sendFence u)).rqt.manifests = u.rqt.manifests ∧
      ∃ q, Sends s (finish s0 (sendFence u)) (fenceRequest s m q) := by
  obtain ⟨q, hq⟩ := sends_sendFence htwin
  have hsame : fenceRequest u m q = fenceRequest s m q := by rw [fenceRequest, fenceRequest, hplt]
  rw [hsame] at hq
  refine ⟨?_, ?_, ?_, ?_, q, sends_finish_of_sends (sends_since hsent hq) s0⟩
  · rw [finish_twnState, sendFence_twn htwin]
  · rw [finish_twnRole, sendFence_twn htwin]
  · rw [finish_fenceSent, sendFence_twn htwin]
  · rw [finish_manifests, sendFence_rqt]

/-- Settles O40: the loss by state and role, the fence by its two timers, and nothing while the LMC is held. -/
theorem twinsAreFenced : Obligations.TwinsAreFenced := by
  refine ⟨fun s hready hlate => ⟨fun hstate hrole => ?_, fun hstate hrole => ?_, fun hstate hrole => ?_, fun m hstate hrole htwin => ?_⟩,
    fun s m hready hstate hrole hnot htwin hlate => ?_, fun s hready hstate hsent hlate => ?_, fun s h => ?_, fun s h => ?_⟩
  · have heffect := heartbeatLoss_effect hready hlate (by rw [isPairing, hstate]; rfl)
    simp only [loseHeartbeats, hstate, hrole] at heffect
    exact completes_effect heffect (finish_activeAlone _ _ (by decide))
  · have heffect := heartbeatLoss_effect hready hlate (by rw [isPairing, hstate]; rfl)
    simp only [loseHeartbeats, hstate, hrole] at heffect
    exact completes_effect heffect (finish_mirrorLeaves _ _ (by decide))
  · have heffect := heartbeatLoss_effect hready hlate (by rw [isPairing, hstate]; rfl)
    simp only [loseHeartbeats, hstate, hrole] at heffect
    refine completes_effect heffect ⟨?_, ?_, ?_, (finish_twnCause _ _).trans (setTwin_cause _ _ _ (by decide))⟩
    · rw [finish_twnState, setTwin_twn]
    · rw [finish_twnRole, setTwin_twn]
    · rw [finish_fenceSent, setTwin_twn]
  · have heffect := heartbeatLoss_effect hready hlate (by rw [isPairing, hstate]; rfl)
    simp only [loseHeartbeats, hstate, hrole] at heffect
    obtain ⟨hfencing, hmirror, hrqt, hlnk, hplt, hout⟩ := mirrorFencing_keeps s
    have hend := finish_sendFence (s0 := s) (by rw [hlnk, htwin]) hplt hout
    rw [hfencing, hmirror, hrqt] at hend
    exact completes_effect heffect hend
  · have heffect := effect_act (show exec .fenceWaitExpiry s = execFenceWaitExpiry s from rfl)
      (by rw [hready, hstate, hrole, hnot, hlate]; rfl)
    obtain ⟨hfencing, -, hasked, -, hsends⟩ := finish_sendFence (s0 := s) htwin rfl (.of_eq rfl)
    exact completes_effect heffect ⟨hfencing.trans hstate, hasked, hsends⟩
  · have heffect := effect_act (show exec .fenceTimeout s = execFenceTimeout s from rfl) (by rw [hready, hstate, hsent, hlate]; rfl)
    exact heffect
  · refine exec_untaken (show exec .heartbeatLoss s = execHeartbeatLoss s from rfl) ?_
    rcases h with h | h
    · rw [h, Bool.and_false, Bool.false_and]
    · rw [hasPassed_held _ _ h, Bool.and_false]
  · refine ⟨exec_untaken (show exec .fenceTimeout s = execFenceTimeout s from rfl) ?_,
      exec_untaken (show exec .fenceWaitExpiry s = execFenceWaitExpiry s from rfl) ?_⟩
    · rcases h with h | h
      · rw [beq_false_of_ne h, Bool.and_false, Bool.false_and, Bool.false_and]
      · rw [hasPassed_held _ _ h, Bool.and_false]
    · rcases h with h | h
      · rw [beq_false_of_ne h, Bool.and_false, Bool.false_and, Bool.false_and, Bool.false_and]
      · rw [hasPassed_held _ _ h, Bool.and_false]

end Sys2Proof.Machine
end

section
/-! SUPPORT. Mirror records, acknowledgements and heartbeats (O39). -/

namespace Sys2Proof.Machine

open Sys2Proof

/-! ## One record at a time (R496, R497) -/

/-- The record waits at the Mirror. -/
def withRecord (s : State) (r : MirrorRecord) : State := { s with twn := { s.twn with incomplete := [r] } }

theorem recordOk_withRecord (s : State) (r : MirrorRecord) (b : MirrorBody) : recordOk (withRecord s r) b = recordOk s b := by
  cases b <;> rfl

/-- A frame with one record that has not arrived yet, at a Mirror where none waits. -/
theorem mirror_effect {s : State} {p : RoalePort} {r : MirrorRecord} (hready : isReady s = true) (hport : mirrorPortUp s p = true)
    (hrole : s.twn.role = .mirror) (hpairing : isPairing s = true) (hnone : s.twn.incomplete = []) (hnew : s.twn.applied < r.mseq) :
    Effect (.mirror p [r]) s (applyChanges 2 (withRecord s r)) := by
  have heffect := effect_act (show exec (.mirror p [r]) s = execMirror p [r] s from rfl) (by rw [hready, hport, hrole, hpairing]; rfl)
  have hfresh : [r].filter (fun r => decide (s.twn.applied < r.mseq) && !(s.twn.incomplete.any (fun q => q.mseq == r.mseq))) = [r] := by
    rw [hnone]
    simp [hnew]
  dsimp only at heffect
  rw [hfresh, hnone] at heffect
  exact heffect

/-- A record that the Mirror has applied adds nothing. -/
theorem mirror_repeated {s : State} {p : RoalePort} {r : MirrorRecord} (hready : isReady s = true) (hport : mirrorPortUp s p = true)
    (hrole : s.twn.role = .mirror) (hpairing : isPairing s = true) (hnone : s.twn.incomplete = []) (hstopped : s.twn.stopped = false)
    (hold : r.mseq ≤ s.twn.applied) : Effect (.mirror p [r]) s s := by
  have heffect := effect_act (show exec (.mirror p [r]) s = execMirror p [r] s from rfl) (by rw [hready, hport, hrole, hpairing]; rfl)
  have hfresh : [r].filter (fun r => decide (s.twn.applied < r.mseq) && !(s.twn.incomplete.any (fun q => q.mseq == r.mseq))) = [] := by
    simp [Nat.not_lt.2 hold]
  have hsame : ({ s with twn := { s.twn with incomplete := [] } } : State) = s := by rw [← hnone]
  dsimp only at heffect
  rw [hfresh, hnone, List.append_nil, hsame] at heffect
  simpa only [applyChanges, hstopped, Bool.false_eq_true, if_false, hnone, wholeChange, List.find?_nil] using heffect

/-- The record is the change that is next. -/
theorem wholeChange_next {n : Nat} {b : MirrorBody} (fuel : Nat) :
    wholeChange [{ mseq := n, last := true, body := b }] (fuel + 1) n = some [{ mseq := n, last := true, body := b }] := by
  simp [wholeChange]

/-- The Mirror once it has applied the record that was next. -/
def recordApplied (s : State) (r : MirrorRecord) : State :=
  { applyRecord (withRecord s r) r.body with
    twn := { (applyRecord (withRecord s r) r.body).twn with applied := s.twn.applied + 1, incomplete := [] } }

theorem applyChanges_nil {s : State} (fuel : Nat) (h : s.twn.incomplete = []) : applyChanges fuel s = s := by
  cases fuel with
  | zero => rfl
  | succ fuel =>
    rw [applyChanges, h]
    split
    · rfl
    · simp only [wholeChange, List.find?_nil]

/-- A whole change of one record that is next and can be applied. -/
theorem applyChanges_next {s : State} {b : MirrorBody} {r : MirrorRecord} (hr : r = { mseq := s.twn.applied + 1, last := true, body := b })
    (hstopped : s.twn.stopped = false) (hok : recordOk s b = true) (hkeeps : (applyRecord (withRecord s r) b).twn.incomplete = [r]) :
    applyChanges 2 (withRecord s r) = recordApplied s r := by
  subst hr
  have hnext := wholeChange_next (n := s.twn.applied + 1) (b := b) 1
  rw [applyChanges, if_neg (by rw [show (withRecord s _).twn.stopped = s.twn.stopped from rfl, hstopped]; decide)]
  rw [show (withRecord s { mseq := s.twn.applied + 1, last := true, body := b }).twn.incomplete =
    [{ mseq := s.twn.applied + 1, last := true, body := b }] from rfl]
  simp only [List.length_cons, List.length_nil, Nat.zero_add, Nat.reduceAdd]
  rw [show (withRecord s { mseq := s.twn.applied + 1, last := true, body := b }).twn.applied = s.twn.applied from rfl, hnext]
  simp only [List.all_cons, List.all_nil, Bool.and_true, recordOk_withRecord, hok, if_true, List.foldl_cons, List.foldl_nil,
    List.length_cons, List.length_nil, Nat.zero_add]
  rw [applyChanges_nil]
  · rw [recordApplied, hkeeps]
    simp
  · rw [hkeeps]
    simp

/-- A record that is next and cannot be applied. -/
theorem applyChanges_stops {s : State} {b : MirrorBody} {r : MirrorRecord} (hr : r = { mseq := s.twn.applied + 1, last := true, body := b })
    (hstopped : s.twn.stopped = false) (hbad : recordOk s b = false) : applyChanges 2 (withRecord s r) =
      putF { withRecord s r with twn := { (withRecord s r).twn with stopped := true } } F.twnStatus.cause 6 := by
  subst hr
  have hnext := wholeChange_next (n := s.twn.applied + 1) (b := b) 1
  rw [applyChanges, if_neg (by rw [show (withRecord s _).twn.stopped = s.twn.stopped from rfl, hstopped]; decide)]
  rw [show (withRecord s { mseq := s.twn.applied + 1, last := true, body := b }).twn.incomplete =
    [{ mseq := s.twn.applied + 1, last := true, body := b }] from rfl]
  simp only [List.length_cons, List.length_nil, Nat.zero_add, Nat.reduceAdd]
  rw [show (withRecord s { mseq := s.twn.applied + 1, last := true, body := b }).twn.applied = s.twn.applied from rfl, hnext]
  simp only [List.all_cons, List.all_nil, Bool.and_true, recordOk_withRecord, hbad, Bool.false_eq_true, if_false]

/-- A record that is early waits. -/
theorem applyChanges_early {s : State} {r : MirrorRecord} (hstopped : s.twn.stopped = false) (hearly : s.twn.applied + 1 < r.mseq) :
    applyChanges 2 (withRecord s r) = withRecord s r := by
  have hfind : [r].find? (fun q => q.mseq == s.twn.applied + 1) = none := by
    simp only [List.find?_eq_none, List.mem_singleton, beq_iff_eq]
    rintro q rfl
    omega
  rw [applyChanges, if_neg (by rw [show (withRecord s r).twn.stopped = s.twn.stopped from rfl, hstopped]; decide)]
  rw [show (withRecord s r).twn.incomplete = [r] from rfl, show (withRecord s r).twn.applied = s.twn.applied from rfl]
  simp only [wholeChange, hfind]

/-! ## Acknowledgements (R493, R499) -/

theorem mirrors_iff {s : State} : mirrors s = true ↔
    s.twn.role = .active ∧ (s.twn.state = .syncing ∨ s.twn.state = .paired ∨ s.twn.state = .fencing) := by
  simp [mirrors, or_assoc]

/-- What the Active knows once it has learned of MSEQ `n`, before it acts on it. -/
def learned (s : State) (n : Nat) : State :=
  { s with twn := { s.twn with
    applied := max s.twn.applied (min n s.twn.sent),
    copyOut := s.twn.copyOut.filter (fun e => decide (max s.twn.applied (min n s.twn.sent) < e.1)) } }

theorem learnApplied_left {s : State} {n : Nat}
    (h : s.twn.copyOut.any (fun e => decide (max s.twn.applied (min n s.twn.sent) < e.1)) = true) : learnApplied s n = learned s n := by
  have hleft : (!(s.twn.copyOut.filter (fun e => decide (max s.twn.applied (min n s.twn.sent) < e.1))).isEmpty) = true := by
    obtain ⟨e, he, hlt⟩ := List.any_eq_true.1 h
    have hmem : e ∈ s.twn.copyOut.filter (fun e => decide (max s.twn.applied (min n s.twn.sent) < e.1)) := List.mem_filter.2 ⟨he, hlt⟩
    cases hlist : s.twn.copyOut.filter (fun e => decide (max s.twn.applied (min n s.twn.sent) < e.1)) with
    | nil => rw [hlist] at hmem; cases hmem
    | cons => rfl
  exact if_pos hleft

theorem learnApplied_done {s : State} {n : Nat}
    (h : s.twn.copyOut.all (fun e => decide (e.1 ≤ max s.twn.applied (min n s.twn.sent))) = true) : learnApplied s n =
      if s.twn.state == .syncing then setTwin { learned s n with twn := { (learned s n).twn with inSync := true } } .paired .active 0
      else if s.twn.phase = 1 then { learned s n with twn := { (learned s n).twn with phase := 2, stopped := true } }
      else learned s n := by
  have hleft : (!(s.twn.copyOut.filter (fun e => decide (max s.twn.applied (min n s.twn.sent) < e.1))).isEmpty) = false := by
    rw [List.filter_eq_nil_iff.2]
    · rfl
    · intro e he
      have hle := of_decide_eq_true (List.all_eq_true.1 h e he)
      simp only [decide_eq_true_eq]
      omega
  exact if_neg (by rw [hleft]; decide)

theorem acknowledgement_effect {s : State} {n : Nat} (hready : isReady s = true) (hmirrors : mirrors s = true) :
    Effect (.mirrorAcknowledgement n) s (learnApplied s n) := by
  have heffect := effect_act (show exec (.mirrorAcknowledgement n) s = execMirrorAcknowledgement n s from rfl)
    (by rw [hready, hmirrors]; rfl)
  exact heffect

/-! ## Heartbeats (R501) -/

theorem heartbeat_effect {s : State} {p : RoalePort} {m : Member} {role : TwinRole} {st : TwinState} {sent n : Nat}
    (hready : isReady s = true) (hport : mirrorPortUp s p = true) (hpairing : isPairing s = true) (htwin : s.lnk.twin = some m.val) :
    Effect (.heartbeat p m role st sent n) s
      (if s.twn.role == .active && role == .mirror && (st == .syncing || st == .paired)
        then learnApplied { s with twn := { s.twn with beatHeard := s.plt.lmc } } n
        else { s with twn := { s.twn with beatHeard := s.plt.lmc } }) := by
  have heffect := effect_act (show exec (.heartbeat p m role st sent n) s = execHeartbeat p m role st sent n s from rfl)
    (by rw [hready, hport, hpairing, htwin]; simp)
  exact heffect

/-- Settles O39: one record by what the Mirror can do with it, an acknowledgement by what is left to copy, and a heartbeat by its sender
and its time. -/
theorem mirrorsApplyInOrder : Obligations.MirrorsApplyInOrder := by
  refine ⟨fun s p b hready hport hrole hpairing hnone hstopped => ⟨fun i m hb hi => ?_, fun hb => ?_, fun hbad => ?_, fun n last hn => ?_,
      fun n last hn => ?_⟩,
    fun s n hready hmirrors => ⟨fun hleft => ?_, fun hdone hstate => ?_, fun hdone hstate hphase => ?_⟩,
    fun s p m role st sent n hready hport hpairing => ⟨fun htwin hactive hmirror hst => ?_, fun htwin hmirror => ?_, fun htwin => ?_⟩,
    fun s hready hpairing hgoes => ⟨fun hlate => ?_, fun hlate => ?_⟩⟩
  · subst hb
    have heffect := mirror_effect (r := { mseq := s.twn.applied + 1, last := true, body := .manifest i m }) hready hport hrole hpairing
      hnone (Nat.lt_succ_self _)
    rw [applyChanges_next (b := .manifest i m) rfl hstopped (decide_eq_true hi) rfl] at heffect
    refine completes_effect heffect ⟨finish_twnApplied _ _, finish_twnIncomplete _ _, ?_, fun j hj => ?_⟩
    · rw [manifestOf, finish_manifests]
      exact tabGet_put_self _ _ _ _
    · rw [manifestOf, finish_manifests]
      exact tabGet_put_other' _ _ _ _ hj
  · subst hb
    have heffect := mirror_effect (r := { mseq := s.twn.applied + 1, last := true, body := .syncDone }) hready hport hrole hpairing
      hnone (Nat.lt_succ_self _)
    have happly := applyChanges_next (s := s) (b := .syncDone) rfl hstopped rfl (by rw [applyRecord, setTwin_twn]; rfl)
    rw [happly] at heffect
    refine completes_effect heffect ⟨finish_twnApplied _ _, ?_, ?_⟩
    · rw [finish_twnState, recordApplied, applyRecord, setTwin_twn]
    · rw [finish_twnRole, recordApplied, applyRecord, setTwin_twn]
  · have heffect := mirror_effect (r := { mseq := s.twn.applied + 1, last := true, body := b }) hready hport hrole hpairing
      hnone (Nat.lt_succ_self _)
    rw [applyChanges_stops rfl hstopped hbad] at heffect
    exact completes_effect heffect ⟨finish_twnApplied _ _, finish_twnStopped _ _, (finish_twnCause _ _).trans (getF_putF_self _ _ _),
      finish_mem _ _, finish_manifests _ _⟩
  · have heffect := mirror_effect (r := { mseq := n, last := last, body := b }) hready hport hrole hpairing hnone (Nat.lt_of_succ_lt hn)
    rw [applyChanges_early hstopped hn] at heffect
    exact heffect
  · exact mirror_repeated hready hport hrole hpairing hnone hstopped hn
  · have heffect := acknowledgement_effect (n := n) hready hmirrors
    rw [learnApplied_left hleft] at heffect
    exact completes_effect heffect ⟨finish_twnApplied _ _, finish_twnState _ _, finish_twnPhase _ _⟩
  · have heffect := acknowledgement_effect (n := n) hready hmirrors
    rw [learnApplied_done hdone, if_pos (by rw [hstate]; rfl)] at heffect
    refine completes_effect heffect ⟨?_, ?_, ?_⟩
    · rw [finish_twnState, setTwin_twn]
    · rw [finish_twnRole, setTwin_twn]
    · rw [finish_twnApplied, setTwin_twn]
      rfl
  · have heffect := acknowledgement_effect (n := n) hready hmirrors
    rw [learnApplied_done hdone, if_neg (by rw [hstate]; decide), if_pos hphase] at heffect
    exact completes_effect heffect ⟨finish_twnPhase _ _, finish_twnStopped _ _, (finish_twnState _ _).trans hstate⟩
  · have heffect := heartbeat_effect (role := role) (st := st) (sent := sent) (n := n) hready hport hpairing htwin
    rw [if_pos (by rw [hactive, hmirror]; rcases hst with h | h <;> rw [h] <;> rfl)] at heffect
    exact heffect
  · have heffect := heartbeat_effect (role := role) (st := st) (sent := sent) (n := n) hready hport hpairing htwin
    rw [if_neg (by rw [hmirror]; simp)] at heffect
    exact heffect
  · refine exec_untaken (show exec (.heartbeat p m role st sent n) s = execHeartbeat p m role st sent n s from rfl) ?_
    rw [beq_false_of_ne htwin, Bool.and_false, Bool.false_and]
  · have hnot : (s.twn.role == .mirror && s.twn.stopped) = false := by
      rcases hgoes with h | h
      · rw [beq_false_of_ne h, Bool.false_and]
      · rw [h, Bool.and_false]
    have heffect := effect_act (show exec .heartbeatSend s = execHeartbeatSend s from rfl) (by rw [hready, hpairing, hlate, hnot]; rfl)
    exact heffect
  · refine exec_untaken (show exec .heartbeatSend s = execHeartbeatSend s from rfl) ?_
    rw [hlate, Bool.and_false, Bool.false_and]

end Sys2Proof.Machine
end

section
/-! SUPPORT. JOIN, SUSPEND and role switches (O38). -/

namespace Sys2Proof.Machine

open Sys2Proof

/-- A command that waits for the end of Charcoal, at a part that is awake and takes it. -/
theorem effect_actAwake {c : Instr} {s : State} {taken : Bool} {effect : State → State} (hexec : exec c s = actAwake s taken c effect)
    (htaken : taken = true) (hawake : isAwake s = true) : Effect c s (effect s) := by
  rw [Effect, hexec, htaken, actAwake_taken _ _ _ hawake]

/-! ## What leaves the part's place in the pair alone -/

/-- The part's state and role in the pair, and the phase of a switch, stand. -/
structure SamePlace (s t : State) : Prop where
  state : t.twn.state = s.twn.state
  role : t.twn.role = s.twn.role
  phase : t.twn.phase = s.twn.phase

theorem SamePlace.refl (s : State) : SamePlace s s := ⟨rfl, rfl, rfl⟩

theorem SamePlace.trans {s t u : State} (h : SamePlace s t) (k : SamePlace t u) : SamePlace s u :=
  ⟨k.state.trans h.state, k.role.trans h.role, k.phase.trans h.phase⟩

theorem SamePlace.of_told {s t : State} (h : Told s t) : SamePlace s t := by
  constructor <;> rw [h.twn]

theorem SamePlace.of_twn {s t : State} (h : t.twn = s.twn) : SamePlace s t := by
  constructor <;> rw [h]

theorem SamePlace.foldl {α : Type} (g : State → α → State) (h : ∀ s a, SamePlace s (g s a)) (l : List α) (s : State) :
    SamePlace s (l.foldl g s) := by
  induction l generalizing s with
  | nil => exact .refl s
  | cons a l ih => exact (h s a).trans (ih _)

theorem samePlace_sendCopy (l : List MirrorBody) (s : State) : SamePlace s (sendCopy s l) := by
  induction l generalizing s with
  | nil => exact .refl s
  | cons b l ih =>
    refine (SamePlace.of_told (told_sendRecord s true b)).trans (SamePlace.trans ?_ (ih _))
    exact ⟨rfl, rfl, rfl⟩

theorem samePlace_claimEntry (s : State) (i : Nat) : SamePlace s (claimEntry s i) := by
  unfold claimEntry
  split
  · exact .refl s
  · exact .of_twn rfl
  · exact SamePlace.trans (t := { hear s i with rqt := { s.rqt with taken := tabPut false s.rqt.taken i true } }) (.of_twn rfl)
      (.of_told (told_sendRst _ _))
  · exact SamePlace.trans (t := { s with rqt := { s.rqt with taken := tabPut false s.rqt.taken i true } }) (.of_twn rfl)
      (.of_told (told_sendRst _ _))

/-! ## JOIN (R490, R491, R493) -/

theorem showDigest_keeps (s : State) (d : BitVec 384) : (showDigest s d).rqt = s.rqt ∧ (showDigest s d).xfr = s.xfr ∧
    (showDigest s d).twn = s.twn := by
  have hkeep := keep_showDigest s d
  exact ⟨hkeep.rqt.resolve_left (by decide), hkeep.xfr.resolve_left (by decide), hkeep.twn.resolve_left (by decide)⟩

theorem join_effect {s : State} {role : TwinRole} {p : PeerReport} (hserves : serves s 14 = true) (hawake : isAwake s = true) :
    Effect (.join role p) s
      (if s.twn.state != .solo && s.twn.state != .alone then s
        else if !p.joined then showDigest s (configDigest s)
        else match joinRefusal s (askedRole s role) (configDigest s) p with
        | some cause => putF (showDigest s (configDigest s)) F.twnStatus.cause cause
        | none => doJoin (showDigest s (configDigest s)) (askedRole s role)) := by
  have heffect := effect_actAwake (show exec (.join role p) s = execJoin role p s from rfl) hserves hawake
  exact heffect

/-- JOIN at a part that is SOLO or ALONE. -/
theorem join_taken {s : State} {role : TwinRole} {p : PeerReport} (hserves : serves s 14 = true) (hawake : isAwake s = true)
    (hstate : s.twn.state = .solo ∨ s.twn.state = .alone) :
    Effect (.join role p) s
      (if !p.joined then showDigest s (configDigest s)
        else match joinRefusal s (askedRole s role) (configDigest s) p with
        | some cause => putF (showDigest s (configDigest s)) F.twnStatus.cause cause
        | none => doJoin (showDigest s (configDigest s)) (askedRole s role)) := by
  have heffect := join_effect (role := role) (p := p) hserves hawake
  rw [if_neg (by rcases hstate with h | h <;> rw [h] <;> decide)] at heffect
  exact heffect

/-- JOIN at a part that nothing stops. -/
theorem join_joins {s : State} {role : TwinRole} {p : PeerReport} (hserves : serves s 14 = true) (hawake : isAwake s = true)
    (hstate : s.twn.state = .solo ∨ s.twn.state = .alone) (hjoined : p.joined = true)
    (hnone : joinRefusal s (askedRole s role) (configDigest s) p = none) :
    Effect (.join role p) s (doJoin (showDigest s (configDigest s)) (askedRole s role)) := by
  have heffect := join_taken (role := role) (p := p) hserves hawake hstate
  rw [if_neg (by rw [hjoined]; decide), hnone] at heffect
  exact heffect

/-- The Active as it begins its copy. -/
def copyStarts (s : State) : State :=
  setTwin { s with twn := { s.twn with
    phase := 0, inSync := false, sent := 0, applied := 0, copyOut := [], stopped := false, fenceSent := false,
    mirroredPages := [], beatSent := s.plt.lmc, beatHeard := s.plt.lmc } } .syncing .active 0

theorem doJoin_active (s : State) : doJoin s .active =
    sendCopy (markMirrored (sendCopy (copyStarts s) (copyBodies (copyStarts s))) (unmirroredPages (copyStarts s))) [.syncDone] := by
  rw [doJoin, if_pos (show (TwinRole.active == TwinRole.active) = true from rfl), copyStarts]

/-- Copies change what is on its way to the Mirror, and nothing that the copies are of. -/
theorem sendCopies_keep (s : State) (l k : List MirrorBody) (gs : List Nat) :
    Keep 655362 s (sendCopy (markMirrored (sendCopy s l) gs) k) :=
  ((keep_sendCopy s l).trans ((keep_markMirrored _ gs).mono rfl)).trans (keep_sendCopy _ k)

theorem samePlace_sendCopies (s : State) (l k : List MirrorBody) (gs : List Nat) :
    SamePlace s (sendCopy (markMirrored (sendCopy s l) gs) k) :=
  ((samePlace_sendCopy l s).trans (.of_told (told_markMirrored _ gs))).trans (samePlace_sendCopy k _)

theorem finish_doJoin_active (s0 s : State) : (finish s0 (doJoin s .active)).twn.state = .syncing ∧
    (finish s0 (doJoin s .active)).twn.role = .active ∧ getF (finish s0 (doJoin s .active)) F.twnStatus.cause = 0 ∧
    (finish s0 (doJoin s .active)).rqt.manifests = s.rqt.manifests ∧ (finish s0 (doJoin s .active)).xfr.ledgers = s.xfr.ledgers := by
  have hplace := samePlace_sendCopies (copyStarts s) (copyBodies (copyStarts s)) [.syncDone] (unmirroredPages (copyStarts s))
  have hkeep := sendCopies_keep (copyStarts s) (copyBodies (copyStarts s)) [.syncDone] (unmirroredPages (copyStarts s))
  rw [← doJoin_active] at hplace hkeep
  have hstate : (copyStarts s).twn.state = .syncing ∧ (copyStarts s).twn.role = .active := by
    rw [copyStarts, setTwin_twn]
    exact ⟨rfl, rfl⟩
  refine ⟨?_, ?_, ?_, ?_, ?_⟩
  · rw [finish_twnState, hplace.state, hstate.1]
  · rw [finish_twnRole, hplace.role, hstate.2]
  · rw [finish_twnCause, getF, hkeep.fields.resolve_left (by decide)]
    exact setTwin_cause _ _ _ (by decide)
  · rw [finish_manifests, hkeep.rqt.resolve_left (by decide), copyStarts, setTwin_rqt]
  · rw [finish_ledgers, hkeep.xfr.resolve_left (by decide), copyStarts, setTwin_xfr]

theorem finish_doJoin_mirror (s0 s : State) : (finish s0 (doJoin s .mirror)).twn.state = .syncing ∧
    (finish s0 (doJoin s .mirror)).twn.role = .mirror ∧ getF (finish s0 (doJoin s .mirror)) F.twnStatus.cause = 0 ∧
    (∀ i, (entryOf (finish s0 (doJoin s .mirror)) i).state = .free) ∧ (finish s0 (doJoin s .mirror)).rqt.manifests = [] ∧
    (finish s0 (doJoin s .mirror)).xfr.ledgers = [] ∧ (finish s0 (doJoin s .mirror)).pfx.records = [] ∧
    (finish s0 (doJoin s .mirror)).stk.pages = [] := by
  have hjoin : doJoin s .mirror = setTwin { discardCopies s with twn := { (discardCopies s).twn with
    beatSent := s.plt.lmc, beatHeard := s.plt.lmc } } .syncing .mirror 0 := rfl
  rw [hjoin]
  refine ⟨?_, ?_, ?_, fun i => ?_, ?_, ?_, ?_, ?_⟩
  · rw [finish_twnState, setTwin_twn]
  · rw [finish_twnRole, setTwin_twn]
  · rw [finish_twnCause, setTwin_cause _ _ _ (by decide)]
  · rw [finish_entryState, entryOf, setTwin_rqt]
    rfl
  · rw [finish_manifests, setTwin_rqt]
    rfl
  · rw [finish_ledgers, setTwin_xfr]
    rfl
  · rw [finish_pfx, setTwin_pfx]
    rfl
  · rw [finish_pages, setTwin_stk]
    rfl

/-! ## SUSPEND (R493) -/

theorem suspend_effect {s : State} (hserves : serves s 14 = true) (hawake : isAwake s = true) :
    Effect .suspend s (if !isPairing s then s else if s.twn.role == .active then activeAlone s 9
      else if s.twn.role == .mirror then mirrorLeaves s 9 else s) := by
  have heffect := effect_actAwake (show exec .suspend s = execSuspend s from rfl) hserves hawake
  exact heffect

theorem activeAlone_keeps (s : State) (cause : Nat) : (activeAlone s cause).rqt = s.rqt ∧ (activeAlone s cause).xfr = s.xfr ∧
    (activeAlone s cause).stk = s.stk := by
  have hkeep := keep_activeAlone s cause
  exact ⟨hkeep.rqt.resolve_left (by decide), hkeep.xfr.resolve_left (by decide), hkeep.stk.resolve_left (by decide)⟩

/-! ## SWITCH and HANDOVER (R506) -/

/-- The switch with its copy on the way. -/
def switchCopied (s : State) : State :=
  let s1 := { s with twn := { s.twn with phase := 1 } }
  markMirrored (sendCopy s1 (changeBodies { s1 with rqt := { s1.rqt with manifests := [] }, stk := { s1.stk with pages := [] } } s1))
    (unmirroredPages s1)

theorem beginSwitch_eq (s : State) : beginSwitch s =
    if (switchCopied s).twn.copyOut.isEmpty then { switchCopied s with twn := { (switchCopied s).twn with phase := 2, stopped := true } }
    else switchCopied s := by
  rw [beginSwitch, switchCopied]

theorem beginSwitch_place (s : State) : (beginSwitch s).twn.state = s.twn.state ∧ (beginSwitch s).twn.role = s.twn.role ∧
    ((beginSwitch s).twn.phase = 1 ∨ (beginSwitch s).twn.phase = 2 ∧ (beginSwitch s).twn.stopped = true) := by
  have hplace : SamePlace { s with twn := { s.twn with phase := 1 } } (switchCopied s) := by
    unfold switchCopied
    dsimp only
    refine SamePlace.trans ?_ (.of_told (told_markMirrored _ _))
    exact samePlace_sendCopy _ _
  rw [beginSwitch_eq]
  generalize switchCopied s = u at hplace
  split_ifs
  · exact ⟨hplace.state, hplace.role, .inr ⟨rfl, rfl⟩⟩
  · exact ⟨hplace.state, hplace.role, .inl hplace.phase⟩

theorem switch_effect {s : State} (hserves : serves s 14 = true) (hawake : isAwake s = true) :
    Effect .switch s (if isActivePaired s && s.twn.phase == 0 then beginSwitch s else s) := by
  have heffect := effect_actAwake (show exec .switch s = execSwitch s from rfl) hserves hawake
  exact heffect

theorem handover_effect {s : State} (hruns : runs s = true) (hstate : s.twn.state = .paired) :
    Effect .handover s (if s.twn.role == .active then
        (if handoverReady s then satF (becomeMirror (sendChange s (handoverBodies s))) F.twnStats.switches else s)
      else if s.twn.role == .mirror && s.twn.incomplete.isEmpty then satF (becomeActive s) F.twnStats.switches
      else s) := by
  have heffect := effect_act (show exec .handover s = execHandover s from rfl) (by rw [hruns, hstate]; rfl)
  exact heffect

/-- The old Active is the Mirror of the pair, with the ledgers that it had. -/
theorem becomeMirror_place (s : State) : (becomeMirror s).twn.state = .paired ∧ (becomeMirror s).twn.role = .mirror ∧
    (becomeMirror s).xfr.ledgers = s.xfr.ledgers := by
  unfold becomeMirror
  dsimp only
  refine ⟨?_, ?_, ?_⟩
  · rw [setTwin_twn]
  · rw [setTwin_twn]
  · rw [setTwin_xfr, (keep_swapAddrs _).xfr.resolve_left (by decide)]

/-- The old Mirror is the Active of the pair, and claims what arrives do not change that. -/
theorem becomeActive_place (s : State) : (becomeActive s).twn.state = .paired ∧ (becomeActive s).twn.role = .active := by
  have hclaims := SamePlace.foldl claimEntry samePlace_claimEntry
  unfold becomeActive
  dsimp only
  refine ⟨(hclaims _ _).state.trans ?_, (hclaims _ _).role.trans ?_⟩
  · rw [setTwin_twn]
  · rw [setTwin_twn]

theorem satF_keeps (s : State) (f : Field) : (satF s f).twn = s.twn ∧ (satF s f).xfr = s.xfr :=
  ⟨(keep_satF s f).twn.resolve_left (by decide), (keep_satF s f).xfr.resolve_left (by decide)⟩

theorem finish_handover_active (s0 s : State) (l : List MirrorBody) :
    (finish s0 (satF (becomeMirror (sendChange s l)) F.twnStats.switches)).twn.state = .paired ∧
      (finish s0 (satF (becomeMirror (sendChange s l)) F.twnStats.switches)).twn.role = .mirror ∧
      (finish s0 (satF (becomeMirror (sendChange s l)) F.twnStats.switches)).xfr.ledgers = s.xfr.ledgers := by
  obtain ⟨hstate, hrole, hledgers⟩ := becomeMirror_place (sendChange s l)
  obtain ⟨htwn, hxfr⟩ := satF_keeps (becomeMirror (sendChange s l)) F.twnStats.switches
  refine ⟨?_, ?_, ?_⟩
  · rw [finish_twnState, htwn, hstate]
  · rw [finish_twnRole, htwn, hrole]
  · rw [finish_ledgers, hxfr, hledgers, (keep_sendChange s l).xfr.resolve_left (by decide)]

theorem finish_handover_mirror (s0 s : State) : (finish s0 (satF (becomeActive s) F.twnStats.switches)).twn.state = .paired ∧
    (finish s0 (satF (becomeActive s) F.twnStats.switches)).twn.role = .active := by
  obtain ⟨hstate, hrole⟩ := becomeActive_place s
  obtain ⟨htwn, -⟩ := satF_keeps (becomeActive s) F.twnStats.switches
  refine ⟨?_, ?_⟩
  · rw [finish_twnState, htwn, hstate]
  · rw [finish_twnRole, htwn, hrole]

/-- Settles O38: JOIN by what stops it and the role asked for, SUSPEND by the role, SWITCH and HANDOVER by the role and the phase. -/
theorem twinsPair : Obligations.TwinsPair := by
  refine ⟨fun s role p hserves hawake => ⟨fun hsolo halone => ?_, fun hstate => ⟨fun hnot => ?_, fun cause hjoined hcause => ?_,
      fun hjoined hnone hrole => ?_, fun hjoined hnone hrole => ?_⟩⟩,
    fun s hserves hawake => ⟨fun hnot => ?_, fun hpairing hrole => ?_, fun hpairing hrole => ?_, fun hrole hstate hphase => ?_, fun hnot => ?_⟩,
    fun s hruns hstate => ⟨fun hrole hdone => ?_, fun hrole hdone => ?_, fun hrole hnone => ?_⟩⟩
  · have heffect := join_effect (role := role) (p := p) hserves hawake
    rw [if_pos (by simp [hsolo, halone])] at heffect
    exact heffect
  · have heffect := join_taken (role := role) (p := p) hserves hawake hstate
    rw [if_pos (by rw [hnot]; rfl)] at heffect
    exact heffect
  · have heffect := join_taken (role := role) (p := p) hserves hawake hstate
    rw [if_neg (by rw [hjoined]; decide), hcause] at heffect
    exact heffect
  · have heffect := join_joins hserves hawake hstate hjoined hnone
    have hend := finish_doJoin_active s (showDigest s (configDigest s))
    obtain ⟨hrqt, hxfr, -⟩ := showDigest_keeps s (configDigest s)
    rw [hrole] at heffect
    rw [hrqt, hxfr] at hend
    exact completes_effect heffect hend
  · have heffect := join_joins hserves hawake hstate hjoined hnone
    rw [hrole] at heffect
    exact completes_effect heffect (finish_doJoin_mirror _ _)
  · have heffect := suspend_effect hserves hawake
    rw [if_pos (by rw [hnot]; rfl)] at heffect
    exact heffect
  · have heffect := suspend_effect hserves hawake
    rw [if_neg (by rw [hpairing]; decide), if_pos (by rw [hrole]; rfl)] at heffect
    obtain ⟨halone, hactive, hcause⟩ := finish_activeAlone s s (cause := 9) (by decide)
    obtain ⟨hrqt, hxfr, hstk⟩ := activeAlone_keeps s 9
    exact completes_effect heffect ⟨halone, hactive, hcause, by rw [finish_manifests, hrqt], by rw [finish_ledgers, hxfr],
      by rw [finish_pages, hstk]⟩
  · have heffect := suspend_effect hserves hawake
    rw [if_neg (by rw [hpairing]; decide), if_neg (by rw [hrole]; decide), if_pos (by rw [hrole]; rfl)] at heffect
    obtain ⟨hsolo, hnorole, hcause, hfree⟩ := finish_mirrorLeaves s s (cause := 9) (by decide)
    exact completes_effect heffect ⟨hsolo, hnorole, hcause, hfree, finish_ledgers _ _, finish_pages _ _⟩
  · have heffect := switch_effect hserves hawake
    rw [if_pos (by rw [isActivePaired, hrole, hstate, hphase]; rfl)] at heffect
    obtain ⟨hsame, hactive, hbegun⟩ := beginSwitch_place s
    exact completes_effect heffect ⟨by rw [finish_twnState, hsame, hstate], by rw [finish_twnRole, hactive, hrole],
      by rw [finish_twnPhase, finish_twnStopped]; exact hbegun⟩
  · have heffect := switch_effect hserves hawake
    have hno : ¬ (isActivePaired s && s.twn.phase == 0) = true := by
      simp only [isActivePaired, Bool.and_eq_true, beq_iff_eq]
      rintro ⟨⟨hrole, hstate⟩, hphase⟩
      rcases hnot with h | h | h
      · exact h hrole
      · exact h hstate
      · exact h hphase
    rw [if_neg hno] at heffect
    exact heffect
  · have heffect := handover_effect hruns hstate
    rw [if_pos (by rw [hrole]; rfl), if_pos hdone] at heffect
    exact completes_effect heffect (finish_handover_active _ _ _)
  · have heffect := handover_effect hruns hstate
    rw [if_pos (by rw [hrole]; rfl), if_neg (by rw [hdone]; decide)] at heffect
    exact heffect
  · have heffect := handover_effect hruns hstate
    rw [if_neg (by rw [hrole]; decide), if_pos (by rw [hrole, hnone]; rfl)] at heffect
    exact completes_effect heffect (finish_handover_mirror _ _)

end Sys2Proof.Machine
end

section
/-! SUPPORT. The host link: its loss and return, configuration requests and failed reads of commands (O44). -/

namespace Sys2Proof.Machine

open Sys2Proof

/-! ## What leaves the link alone (R602, R604) -/

/-- The fields that tell what was trained. -/
def linkFields : List Field := [F.pltPcieLink.dlUp, F.pltPcieLink.flit, F.pltPcieLink.width, F.pltPcieLink.speed]

/-- What was trained and what the host configured stand. -/
structure SameLink (s t : State) : Prop where
  field : ∀ f ∈ linkFields, getF t f = getF s f
  busMaster : t.pcie.busMaster = s.pcie.busMaster
  d3hot : t.pcie.d3hot = s.pcie.d3hot
  msixEnable : t.pcie.msixEnable = s.pcie.msixEnable
  functionMask : t.pcie.functionMask = s.pcie.functionMask
  linkDown : t.pcie.linkDownPending = s.pcie.linkDownPending

theorem SameLink.refl (s : State) : SameLink s s := ⟨fun _ _ => rfl, rfl, rfl, rfl, rfl, rfl⟩

theorem SameLink.trans {s t u : State} (h : SameLink s t) (k : SameLink t u) : SameLink s u :=
  ⟨fun f hf => (k.field f hf).trans (h.field f hf), k.busMaster.trans h.busMaster, k.d3hot.trans h.d3hot,
    k.msixEnable.trans h.msixEnable, k.functionMask.trans h.functionMask, k.linkDown.trans h.linkDown⟩

theorem SameLink.foldl {α : Type} (g : State → α → State) (h : ∀ s a, SameLink s (g s a)) (l : List α) (s : State) :
    SameLink s (l.foldl g s) := by
  induction l generalizing s with
  | nil => exact .refl s
  | cons a l ih => exact (h s a).trans (ih _)

theorem Told.sameLink {s t : State} (h : Told s t) : SameLink s t := by
  refine ⟨fun f hf => h.field f ?_, ?_, ?_, ?_, ?_, ?_⟩
  · have hall : ∀ f ∈ linkFields, f.isTold = true := by decide
    exact hall f hf
  all_goals rw [h.pcie]

theorem sameLink_finish (s0 s : State) : SameLink s (finish s0 s) := by
  have htold := (finished_finish s0 s).told.pcie
  refine ⟨fun f hf => finish_getF s0 s f ?_, ?_, ?_, ?_, ?_, ?_⟩
  · have hall : ∀ f ∈ linkFields, f.isQuiet = true := by decide
    exact hall f hf
  all_goals rw [htold]

theorem sameLink_of_eq {s t : State} (hfields : t.fields = s.fields) (hpcie : t.pcie = s.pcie) : SameLink s t := by
  refine ⟨fun f _ => by rw [getF, getF, hfields], ?_, ?_, ?_, ?_, ?_⟩
  all_goals rw [hpcie]

theorem sameLink_putF (s : State) (f : Field) (v : Nat) (h : ∀ g ∈ linkFields, g.key ≠ f.key) : SameLink s (putF s f v) :=
  ⟨fun g hg => getF_putF_other s g f v (h g hg), rfl, rfl, rfl, rfl, rfl⟩

theorem sameLink_satF (s : State) (f : Field) (h : ∀ g ∈ linkFields, g.key ≠ f.key) : SameLink s (satF s f) := by
  unfold satF
  split
  · exact sameLink_putF s f _ h
  · exact .refl s

theorem sameLink_latch (s : State) (valid overflow : Field) (fill : State → State) (hvalid : ∀ g ∈ linkFields, g.key ≠ valid.key)
    (hoverflow : ∀ g ∈ linkFields, g.key ≠ overflow.key) (hfill : ∀ u, SameLink u (fill u)) :
    SameLink s (latch s valid overflow fill) := by
  unfold latch
  split
  · exact sameLink_putF s overflow 1 hoverflow
  · exact (hfill s).trans (sameLink_putF _ valid 1 hvalid)

/-! ## Reads of objects (R465, R476) -/

theorem sameLink_slateError (s : State) (a : Nat) : SameLink s (slateError s a) := by
  have hlatch : SameLink s (latch (satF s F.sltEccStats.uncorrected) F.sltErr.valid F.sltErr.overflow
      (fun t => putF (putF t F.sltErr.channel (channelOf t a)) F.sltErrAddr.address a)) :=
    (sameLink_satF s _ (by decide)).trans (sameLink_latch _ _ _ _ (by decide) (by decide)
      (fun u => (sameLink_putF u _ _ (by decide)).trans (sameLink_putF _ _ _ (by decide))))
  unfold slateError
  dsimp only
  split
  · exact hlatch.trans (told_notify _ _ _).sameLink
  · exact hlatch

theorem sameLink_flashError (s : State) (u : Nat) : SameLink s (flashError s u) := by
  have hlatch : SameLink s (latch (satF s F.flsStats.uncorrectable) F.flsErr.valid F.flsErr.overflow
      (fun t => putF t F.flsErr.lunit u)) :=
    (sameLink_satF s _ (by decide)).trans (sameLink_latch _ _ _ _ (by decide) (by decide)
      (fun u => sameLink_putF u _ _ (by decide)))
  unfold flashError
  dsimp only
  split
  · exact hlatch.trans (told_notify _ _ _).sameLink
  · exact hlatch

theorem sameLink_readFailed (s : State) (e : OdtEntry) (offset : Nat) : SameLink s (readFailed s e offset) := by
  unfold readFailed
  split_ifs
  · exact sameLink_slateError s _
  · exact sameLink_flashError s _
  · exact .refl s

theorem sameLink_askHost (s : State) (e : OdtEntry) : SameLink s (askHost s e) := by
  unfold askHost
  split
  · exact (told_emit s _).sameLink
  · exact .refl s

theorem sameLink_readImage (s : State) (h : Nat) (r : ReadEnd) : SameLink s (readImage s h r).2 := by
  cases r with
  | whole => exact sameLink_askHost s _
  | errorAt o => exact (sameLink_askHost s _).trans (sameLink_readFailed _ _ o)

theorem sameLink_readKeyList (s : State) (i : Nat) (r : ReadEnd) : SameLink s (readKeyList s i r).2 := by
  cases r with
  | whole => exact sameLink_askHost s _
  | errorAt o => exact (sameLink_askHost s _).trans (sameLink_readFailed _ _ o)

/-! ## Commands that waited for the host (R603) -/

theorem sameLink_fwStatus (s : State) (st : Nat) : SameLink s (fwStatus s st) := sameLink_putF s _ st (by decide)

theorem sameLink_listStatus (s : State) (st : Nat) : SameLink s (listStatus s st) := sameLink_putF s _ st (by decide)

theorem sameLink_waitHost (s : State) (c : Instr) : SameLink s (waitHost s c) := ⟨fun _ _ => rfl, rfl, rfl, rfl, rfl, rfl⟩

/-- The write of the idle slot begins. -/
theorem sameLink_stages (s : State) (im : Image) : SameLink s (fwStatus { s with plt := { s.plt with staging := some im } } 1) :=
  ⟨(sameLink_fwStatus s 1).field, rfl, rfl, rfl, rfl, rfl⟩

theorem sameLink_doStage (s : State) (h : Nat) (read : ReadEnd) : SameLink s (doStage s h read) := by
  have hread := sameLink_readImage s h read
  unfold doStage
  dsimp only
  split_ifs
  · exact sameLink_fwStatus s 2
  · exact (sameLink_fwStatus s 1).trans (sameLink_waitHost _ _)
  · split
    · exact hread.trans (sameLink_fwStatus _ 3)
    · next im _ =>
      split
      · exact hread.trans (sameLink_stages _ im)
      · exact hread.trans (sameLink_fwStatus _ _)

theorem sameLink_takeKeyList (s : State) (list : Option KeyList) : SameLink s (takeKeyList s list) := by
  cases list with
  | none => exact sameLink_listStatus s 3
  | some l =>
    rw [takeKeyList]
    dsimp only
    split
    · exact ⟨(sameLink_listStatus s 0).field, rfl, rfl, rfl, rfl, rfl⟩
    · exact sameLink_listStatus s _

theorem sameLink_doKeylistLoad (s : State) (h : Nat) (read : ReadEnd) : SameLink s (doKeylistLoad s h read) := by
  unfold doKeylistLoad
  split
  · split
    · exact (sameLink_listStatus s 1).trans (sameLink_waitHost _ _)
    · exact (sameLink_readKeyList s _ read).trans (sameLink_takeKeyList _ _)
  · exact sameLink_listStatus s 2

theorem sameLink_resumeRead (s : State) (c : Instr) : SameLink s (resumeRead s c) := by
  unfold resumeRead
  split
  · exact sameLink_doStage s _ _
  · exact sameLink_doKeylistLoad s _ _
  · exact (told_emit s _).sameLink
  · exact (told_emit s _).sameLink
  · exact .refl s

theorem sameLink_resumeReads (s : State) : SameLink s (resumeReads s) :=
  SameLink.trans (t := { s with pcie := { s.pcie with waiting := [] } }) ⟨fun _ _ => rfl, rfl, rfl, rfl, rfl, rfl⟩
    (SameLink.foldl resumeRead sameLink_resumeRead _ _)

theorem sameLink_flushAll (s : State) : SameLink s (flushAll s) :=
  SameLink.foldl flushTenant (fun u t => (told_flushTenant u t).sameLink) _ s

theorem sameLink_writeObjCompletion (s : State) (r : ObjCompletion) : SameLink s (writeObjCompletion s r) := by
  unfold writeObjCompletion
  dsimp only
  refine SameLink.trans ?_ (told_notify _ _ _).sameLink
  refine SameLink.trans ?_ (told_postRecord _ _ _ _).sameLink
  exact sameLink_of_eq rfl rfl

theorem sameLink_flushObj (fuel : Nat) (s : State) : SameLink s (flushObj fuel s) := by
  induction fuel generalizing s with
  | zero => exact .refl s
  | succ fuel ih =>
    rw [flushObj]
    split
    · exact .refl s
    · next r rest _ =>
      split
      · exact .refl s
      · have hwrite := sameLink_writeObjCompletion { s with stk := { s.stk with objOut := rest } } r
        exact SameLink.trans ⟨hwrite.field, hwrite.busMaster, hwrite.d3hot, hwrite.msixEnable, hwrite.functionMask, hwrite.linkDown⟩ (ih _)

theorem sameLink_releaseVectors (s : State) : SameLink s (releaseVectors s) := by
  refine SameLink.foldl releaseVector (fun u k => ?_) _ s
  unfold releaseVector
  split
  · exact ⟨fun _ _ => rfl, rfl, rfl, rfl, rfl, rfl⟩
  · exact .refl u

/-- Host traffic that goes on changes neither what was trained nor what the host configured. -/
theorem sameLink_resumeHost (s : State) : SameLink s (resumeHost s) := by
  unfold resumeHost
  dsimp only
  split
  · exact .refl s
  · exact ((sameLink_resumeReads s).trans (sameLink_flushAll _)).trans ((sameLink_flushObj _ _).trans (sameLink_releaseVectors _))

/-! ## The loss of the link (R604) -/

theorem tabKeys_false {α : Type} {m : Tab α} {p : α → Bool} (h : ∀ x, p x = false) : tabKeys m p = [] := by
  simp [tabKeys, h]

/-- No load reads an object that `p` tells. -/
theorem failLoads_none {s : State} {p : Nat → Bool} (h : ∀ k, p k = false) : failLoads s p = s := by
  unfold failLoads
  rw [tabKeys_false (fun x => by rw [h, Bool.and_false])]
  dsimp only [List.foldl_nil]
  rw [tabKeys_false (fun x => by rw [h, Bool.and_false])]
  simp only [List.foldl_nil, h, Bool.false_eq_true, if_false]
  split <;> rfl

theorem inHost_noObjects {s : State} (h : s.stk.odt = []) (k : Nat) : inHost s k = false := by
  rw [inHost, odtOf, h]
  rfl

/-- Nothing reads host memory. -/
theorem failReads_none {s : State} (hattest : getF s F.pltAttest.status ≠ 1) (hwrap : getF s F.pltWrapCtl.status ≠ 1)
    (hodt : s.stk.odt = []) (hrestores : s.rqt.restores = []) : failReads s = s := by
  have hends : endEstablish (endAttest s none) none = s := by
    rw [endAttest, if_pos (by simp [hattest]), endEstablish, if_pos (by simp [hwrap])]
  unfold failReads
  rw [hends]
  simp only [hodt, hrestores, tabKeys, List.filter_nil, List.map_nil, List.foldl_nil]
  exact failLoads_none (inHost_noObjects hodt)

/-- The state that the loss of the link leaves before its reads fail. -/
def linkLost (s : State) : State :=
  satF (putF { s with pcie := { s.pcie with linkDownPending := true } } F.pltPcieLink.dlUp 0) F.pltPcieLink.linkDowns

theorem linkLost_fields (s : State) : getF (linkLost s) F.pltPcieLink.dlUp = 0 ∧
    getF (linkLost s) F.pltAttest.status = getF s F.pltAttest.status ∧ getF (linkLost s) F.pltWrapCtl.status = getF s F.pltWrapCtl.status := by
  unfold linkLost
  refine ⟨?_, ?_, ?_⟩
  · rw [getF_satF_other _ _ _ (by decide), getF_putF_self]
    rfl
  · rw [getF_satF_other _ _ _ (by decide), getF_putF_other _ _ _ _ (by decide)]
    rfl
  · rw [getF_satF_other _ _ _ (by decide), getF_putF_other _ _ _ _ (by decide)]
    rfl

theorem linkLost_keeps (s : State) : (linkLost s).pcie = { s.pcie with linkDownPending := true } ∧ (linkLost s).stk = s.stk ∧
    (linkLost s).rqt = s.rqt := by
  have hkeep := keep_satF (putF { s with pcie := { s.pcie with linkDownPending := true } } F.pltPcieLink.dlUp 0) F.pltPcieLink.linkDowns
  exact ⟨hkeep.pcie.resolve_left (by decide), hkeep.stk.resolve_left (by decide), hkeep.rqt.resolve_left (by decide)⟩

theorem dlUpLoss_effect {s : State} (hrails : s.plt.mainRails = true) (hup : isSet s F.pltPcieLink.dlUp = true) :
    Effect .dlUpLoss s (failReads (linkLost s)) := by
  have heffect := effect_act (show exec .dlUpLoss s = execDlUpLoss s from rfl) (by rw [hrails, hup]; rfl)
  exact heffect

/-! ## The return of the link (R604) -/

/-- What was trained stands in PLT_PCIE_LINK. -/
def linkTrained (s : State) (sp w : Nat) (fl : Bool) : State :=
  putF (putF (putF (putF s F.pltPcieLink.dlUp 1) F.pltPcieLink.flit (boolCode fl)) F.pltPcieLink.width w) F.pltPcieLink.speed sp

theorem linkTrained_fields (s : State) {sp w : Nat} (fl : Bool) (hsp : sp < 2 ^ F.pltPcieLink.speed.width)
    (hw : w < 2 ^ F.pltPcieLink.width.width) : getF (linkTrained s sp w fl) F.pltPcieLink.dlUp = 1 ∧
      getF (linkTrained s sp w fl) F.pltPcieLink.speed = sp ∧ getF (linkTrained s sp w fl) F.pltPcieLink.width = w ∧
      getF (linkTrained s sp w fl) F.pltPcieLink.flit = boolCode fl := by
  unfold linkTrained
  refine ⟨?_, ?_, ?_, ?_⟩
  · rw [getF_putF_other _ _ _ _ (by decide), getF_putF_other _ _ _ _ (by decide), getF_putF_other _ _ _ _ (by decide), getF_putF_self]
    rfl
  · rw [getF_putF_self, Nat.mod_eq_of_lt hsp]
  · rw [getF_putF_other _ _ _ _ (by decide), getF_putF_self, Nat.mod_eq_of_lt hw]
  · rw [getF_putF_other _ _ _ _ (by decide), getF_putF_other _ _ _ _ (by decide), getF_putF_self]
    cases fl <;> rfl

/-- The state in which host traffic goes on after the link has trained. -/
def linkBack (s : State) (sp w : Nat) (fl : Bool) : State :=
  { linkTrained s sp w fl with pcie := { (linkTrained s sp w fl).pcie with linkDownPending := false } }

theorem dlUpReturn_effect {s : State} (sp w : Nat) (fl : Bool) (hrails : s.plt.mainRails = true) :
    Effect (.dlUpReturn sp w fl) s (if s.pcie.linkDownPending
      then notify (resumeHost (linkBack s sp w fl)) F.pltPcieCtl.notifyEnable F.pltPcieCtl.vector
      else resumeHost (linkBack s sp w fl)) := by
  have heffect := effect_act (show exec (.dlUpReturn sp w fl) s = execDlUpReturn sp w fl s from rfl) hrails
  exact heffect

theorem completes_dlUpReturn {s : State} {sp w : Nat} (fl : Bool) (hrails : s.plt.mainRails = true)
    (hsp : sp < 2 ^ F.pltPcieLink.speed.width) (hw : w < 2 ^ F.pltPcieLink.width.width) :
    Completes (.dlUpReturn sp w fl) s (fun t => isSet t F.pltPcieLink.dlUp = true ∧ getF t F.pltPcieLink.speed = sp ∧
      getF t F.pltPcieLink.width = w ∧ getF t F.pltPcieLink.flit = boolCode fl ∧ t.pcie.linkDownPending = false) := by
  have heffect := dlUpReturn_effect sp w fl hrails
  have hlink : SameLink (linkBack s sp w fl) (if s.pcie.linkDownPending
      then notify (resumeHost (linkBack s sp w fl)) F.pltPcieCtl.notifyEnable F.pltPcieCtl.vector
      else resumeHost (linkBack s sp w fl)) := by
    split
    · exact (sameLink_resumeHost _).trans (told_notify _ _ _).sameLink
    · exact sameLink_resumeHost _
  obtain ⟨hdlUp, hspeed, hwidth, hflit⟩ := linkTrained_fields s fl hsp hw
  have hend := hlink.trans (sameLink_finish s _)
  refine completes_effect heffect ⟨?_, ?_, ?_, ?_, hend.linkDown⟩
  · rw [isSet, hend.field _ (by decide)]
    exact beq_iff_eq.2 hdlUp
  · exact (hend.field _ (by decide)).trans hspeed
  · exact (hend.field _ (by decide)).trans hwidth
  · exact (hend.field _ (by decide)).trans hflit

/-! ## A command that could not be read (R242, R258, R596) -/

/-- The fields by which a command is read, none of which counts errors. -/
theorem canRead_counted (s : State) (t : Nat) : canRead (countReadError s .poisoned) t = canRead s t := by
  have hfield : ∀ f : Field, f.key ≠ F.pltPcieErr.poisonedIn.key → getF (countReadError s .poisoned) f = getF s f :=
    fun f hf => getF_satF_other s f _ hf
  have hkeep := keep_countReadError s .poisoned
  have hplt : (countReadError s .poisoned).plt = s.plt := hkeep.plt.resolve_left (by decide)
  have hpwr : (countReadError s .poisoned).pwr = s.pwr := hkeep.pwr.resolve_left (by decide)
  have hpcie : (countReadError s .poisoned).pcie = s.pcie := hkeep.pcie.resolve_left (by decide)
  have htwn : (countReadError s .poisoned).twn = s.twn := hkeep.twn.resolve_left (by decide)
  have hrqt : (countReadError s .poisoned).rqt = s.rqt := hkeep.rqt.resolve_left (by decide)
  have hdlUp := hfield F.pltPcieLink.dlUp (by decide)
  have henable := hfield (F.rqtTCtl.enable.at t) (by simp only [Field.key, Field.at, F.rqtTCtl.enable, F.pltPcieErr.poisonedIn]; omega)
  have hsize := hfield (F.rqtTQsize.cqLog2.at t) (by simp only [Field.key, Field.at, F.rqtTQsize.cqLog2, F.pltPcieErr.poisonedIn]; omega)
  have hoff : hostOff (countReadError s .poisoned) = hostOff s := by simp only [hostOff, isSet, hdlUp, hpcie]
  have hon : tenantOn (countReadError s .poisoned) t = tenantOn s t := by simp only [tenantOn, isSet, henable]
  have hqueues : queuesOf (countReadError s .poisoned) t = queuesOf s t := by rw [queuesOf, queuesOf, hrqt]
  have hroom : cqRoom (countReadError s .poisoned) t = cqRoom s t := by
    rw [cqRoom, cqRoom, hoff, hon, cqSlots, cqSlots, hsize, hqueues]
  have hruns : runs (countReadError s .poisoned) = runs s := by rw [runs, runs, isReady, isReady, isAwake, isAwake, hplt, hpwr]
  rw [canRead, canRead, hruns, hoff, hon, htwn, hqueues, hroom]

theorem completeBare_field (s : State) (t opcode id tag status : Nat) {f : Field} (h : f.isTold = true) :
    getF (completeBare s t opcode id tag status) f = getF s f := by
  unfold completeBare
  split
  · exact (told_giveRecord _ t _).field f h
  · exact (told_giveRecord _ t _).field f h

/-- RQT_CMD_FAULT holds a fault, and the first one with its tenant and status. -/
theorem recordFault_fields (s : State) (tn : Tenant) (sq : Nat) : isSet (recordFault s tn.val sq 15) F.rqtCmdFault.valid = true ∧
    (isSet s F.rqtCmdFault.valid = false → getF (recordFault s tn.val sq 15) F.rqtCmdFault.status = 15 ∧
      getF (recordFault s tn.val sq 15) F.rqtCmdFault.tenant = tn.val) := by
  have hnotify : ∀ (u : State) (f : Field), f.isTold = true → getF (notify u F.rqtCtl.notifyEnable F.rqtCtl.vector) f = getF u f :=
    fun u f hf => (told_notify u _ _).field f hf
  unfold recordFault latch
  dsimp only
  cases hset : isSet s F.rqtCmdFault.valid with
  | true =>
    simp only [if_true, isSet] at hset ⊢
    refine ⟨?_, fun h => Bool.noConfusion h⟩
    rw [getF_putF_other _ _ _ _ (by decide)]
    exact hset
  | false =>
    simp only [Bool.false_eq_true, if_false, isSet]
    refine ⟨?_, fun _ => ⟨?_, ?_⟩⟩
    · rw [hnotify _ _ (by decide), getF_putF_self]
      rfl
    · rw [hnotify _ _ (by decide), getF_putF_other _ _ _ _ (by decide), getF_putF_self]
      rfl
    · rw [hnotify _ _ (by decide), getF_putF_other _ _ _ _ (by decide), getF_putF_other _ _ _ _ (by decide),
        getF_putF_other _ _ _ _ (by decide), getF_putF_self]
      exact Nat.mod_eq_of_lt tn.isLt

theorem readCommand_getF (s : State) (t : Nat) (f : Field) : getF (readCommand s t) f = getF s f := rfl

theorem readCommand_manifests (s : State) (t : Nat) : (readCommand s t).rqt.manifests = s.rqt.manifests := rfl

/-- The state in which the failed read of a command is recorded. -/
def commandReadFailed (s : State) (t : Nat) : State :=
  recordFault (readCommand (countReadError s .poisoned) t) t (queuesOf (countReadError s .poisoned) t).sqHead 15

theorem commandRead_effect {s : State} {tn : Tenant} (op id tag : Nat) (hready : isReady s = true) (hread : canRead s tn.val = true) :
    Effect (.hostReadCompletion (.command tn op id tag) .poisoned) s (completeBare (commandReadFailed s tn.val) tn.val op id tag 15) := by
  have heffect := effect_act (show exec (.hostReadCompletion (.command tn op id tag) .poisoned) s =
    execHostReadCompletion (.command tn op id tag) .poisoned s from rfl) hready
  have hend : endHostRead s (.command tn op id tag) .poisoned = failCommandRead (countReadError s .poisoned) tn.val op id tag := rfl
  rw [hend, failCommandRead, canRead_counted, if_neg (by rw [hread]; decide)] at heffect
  exact heffect

theorem commandReadFailed_keeps (s : State) (tn : Tenant) : isSet (commandReadFailed s tn.val) F.rqtCmdFault.valid = true ∧
    (isSet s F.rqtCmdFault.valid = false → getF (commandReadFailed s tn.val) F.rqtCmdFault.status = 15 ∧
      getF (commandReadFailed s tn.val) F.rqtCmdFault.tenant = tn.val) ∧
    (commandReadFailed s tn.val).rqt.manifests = s.rqt.manifests := by
  obtain ⟨hvalid, hfirst⟩ := recordFault_fields (readCommand (countReadError s .poisoned) tn.val) tn
    (queuesOf (countReadError s .poisoned) tn.val).sqHead
  have hcounted : getF (countReadError s .poisoned) F.rqtCmdFault.valid = getF s F.rqtCmdFault.valid :=
    getF_satF_other s _ _ (by decide)
  have hsame : isSet (readCommand (countReadError s .poisoned) tn.val) F.rqtCmdFault.valid = isSet s F.rqtCmdFault.valid := by
    rw [isSet, isSet, readCommand_getF, hcounted]
  rw [hsame] at hfirst
  refine ⟨hvalid, hfirst, ?_⟩
  have hrecord := (keep_recordFault (readCommand (countReadError s .poisoned) tn.val) tn.val
    (queuesOf (countReadError s .poisoned) tn.val).sqHead 15).rqt.resolve_left (by decide)
  have hcount := (keep_countReadError s .poisoned).rqt.resolve_left (by decide)
  rw [commandReadFailed, hrecord, readCommand_manifests, hcount]

theorem completes_commandRead {s : State} {tn : Tenant} (op id tag : Nat) (hready : isReady s = true) (hread : canRead s tn.val = true) :
    Completes (.hostReadCompletion (.command tn op id tag) .poisoned) s
      (fun t => Reported t tn.val op id tag 15 ∧ isSet t F.rqtCmdFault.valid = true ∧
        (isSet s F.rqtCmdFault.valid = false → getF t F.rqtCmdFault.status = 15 ∧ getF t F.rqtCmdFault.tenant = tn.val) ∧
        t.rqt.manifests = s.rqt.manifests) := by
  obtain ⟨hvalid, hfirst, hmanifests⟩ := commandReadFailed_keeps s tn
  obtain ⟨r, hop, hid, htag, hstatus, hgiven⟩ := recordGiven_completeBare (commandReadFailed s tn.val) tn op id tag 15
  have hreported := reported_finish (s0 := s) hgiven
  rw [hop, hid, htag, hstatus] at hreported
  have hfield : ∀ f : Field, f.isQuiet = true → getF (finish s (completeBare (commandReadFailed s tn.val) tn.val op id tag 15)) f =
      getF (commandReadFailed s tn.val) f :=
    fun f hf => (finish_getF _ _ f hf).trans (completeBare_field _ _ _ _ _ _ (isQuiet_isTold hf))
  refine completes_effect (commandRead_effect op id tag hready hread) ⟨hreported, ?_, fun hnot => ⟨?_, ?_⟩, ?_⟩
  · rw [isSet, hfield _ (by decide)]
    exact hvalid
  · exact (hfield _ (by decide)).trans (hfirst hnot).1
  · exact (hfield _ (by decide)).trans (hfirst hnot).2
  · rw [finish_manifests, (requestsStay_completeBare _ _ _ _ _ _).manifests, hmanifests]

/-! ## Configuration requests (R539, R590, R600) -/

theorem configuration_effect {s : State} (a : CfgAccess) (hrails : s.plt.mainRails = true) (hstarted : s.plt.starting = none) :
    Effect (.configurationRequest a) s (configure s a) := by
  have heffect := effect_act (show exec (.configurationRequest a) s = execConfigurationRequest a s from rfl) hrails
  simp only [hstarted, Option.isSome_none, Bool.false_eq_true, if_false] at heffect
  exact heffect

/-- Settles O44: each event of the link by its own effect; the return and Bus Master Enable let go what waited, which changes neither what
was trained nor what the host set. -/
theorem hostLinkActs : Obligations.HostLinkActs := by
  refine ⟨fun s hrails hup => dlUpLoss_effect hrails hup, fun s hrails hup hattest hwrap hodt hrestores => ?_,
    fun s sp w fl hrails hsp hw => completes_dlUpReturn fl hrails hsp hw, fun s en d3 hrails => ?_,
    fun s hrails => ⟨fun a hstarting => ?_, fun hstarted => ⟨fun off => ?_, ?_, fun en fm => ?_, fun n hlow hhigh => ?_, fun n hout => ?_⟩⟩,
    fun s hrails => ⟨fun b _ => ?_, fun k => ?_⟩, fun s tn op id tag hready hread => completes_commandRead op id tag hready hread,
    fun s bs hready => ⟨fun tn op id tag => ?_, fun h => ?_, fun i => ?_⟩, fun s p r hrails => ⟨fun hr => ?_, ?_⟩⟩
  · obtain ⟨hdown, hattest', hwrap'⟩ := linkLost_fields s
    obtain ⟨hpcie, hstk, hrqt⟩ := linkLost_keeps s
    have heffect := dlUpLoss_effect hrails hup
    rw [failReads_none (by rw [hattest']; exact hattest) (by rw [hwrap']; exact hwrap) (by rw [hstk]; exact hodt)
      (by rw [hrqt]; exact hrestores)] at heffect
    have hend := sameLink_finish s (linkLost s)
    refine completes_effect heffect ⟨?_, ?_, ?_⟩
    · rw [isSet, hend.field _ (by decide), hdown]
      rfl
    · rw [hend.linkDown, hpcie]
    · rw [hend.busMaster, hpcie]
  · have heffect := effect_act (show exec (.busMasterEnable en d3) s = execBusMasterEnable en d3 s from rfl) hrails
    have hlink := (sameLink_resumeHost { s with pcie := { s.pcie with busMaster := en, d3hot := d3 } }).trans (sameLink_finish s _)
    exact completes_effect heffect ⟨hlink.busMaster, hlink.d3hot, hlink.msixEnable⟩
  · have heffect := effect_act (show exec (.configurationRequest a) s = execConfigurationRequest a s from rfl) hrails
    simp only [hstarting, if_true] at heffect
    exact heffect
  · exact configuration_effect (.read off) hrails hstarted
  · exact configuration_effect (.read 0) hrails hstarted
  · have heffect := configuration_effect (.msix en fm) hrails hstarted
    have hlink := (sameLink_releaseVectors { s with pcie := { s.pcie with msixEnable := en, functionMask := fm } }).trans
      (sameLink_finish s _)
    exact completes_effect heffect ⟨hlink.msixEnable, hlink.functionMask, hlink.busMaster⟩
  · have heffect := configuration_effect (.bar4Size n) hrails hstarted
    rw [configure, if_pos ⟨hlow, hhigh⟩] at heffect
    exact heffect
  · have heffect := configuration_effect (.bar4Size n) hrails hstarted
    rw [configure, if_neg (by omega)] at heffect
    exact heffect
  · have heffect := effect_act (show exec (.poisonedWrite b) s = execPoisonedWrite b s from rfl) (by rw [hrails]; cases b <;> rfl)
    exact heffect
  · have heffect := effect_act (show exec (.malformedTlp k) s = execMalformedTlp k s from rfl) hrails
    refine completes_effect heffect ⟨?_, sends_finish rfl⟩
    rw [(finished_finish _ _).told.pcie]
    rfl
  · have heffect := effect_act (show exec (.hostReadCompletion (.command tn op id tag) (.data bs)) s =
      execHostReadCompletion (.command tn op id tag) (.data bs) s from rfl) hready
    exact heffect
  · have heffect := effect_act (show exec (.hostReadCompletion (.object h) (.data bs)) s =
      execHostReadCompletion (.object h) (.data bs) s from rfl) hready
    exact heffect
  · have heffect := effect_act (show exec (.hostReadCompletion (.restore i) (.data bs)) s =
      execHostReadCompletion (.restore i) (.data bs) s from rfl) hready
    exact heffect
  · have heffect := effect_act (show exec (.ethernetPortUp p r) s = execEthernetPortUp p r s from rfl)
      (by rcases hr with h | h <;> rw [hrails, h] <;> rfl)
    exact heffect
  · have heffect := effect_act (show exec (.ethernetPortDown p) s = execEthernetPortDown p s from rfl) hrails
    exact heffect

end Sys2Proof.Machine
end

section
/-! SUPPORT. Umber and Slate: programs leave what is mapped, collection, the lock, the rebuild and the scrub (O41). -/

namespace Sys2Proof.Machine

open Sys2Proof

/-! ## What stays mapped -/

/-- Umber's state stands, and the same logical units are mapped. -/
structure SameUnits (s t : State) : Prop where
  state : t.fls.state = s.fls.state
  mapped : ∀ u, (mapOf t u).isSome = (mapOf s u).isSome

theorem SameUnits.refl (s : State) : SameUnits s s := ⟨rfl, fun _ => rfl⟩

theorem SameUnits.trans {s t u : State} (h : SameUnits s t) (k : SameUnits t u) : SameUnits s u :=
  ⟨k.state.trans h.state, fun x => (k.mapped x).trans (h.mapped x)⟩

/-- Umber's state and map stand. -/
structure SameMap (s t : State) : Prop where
  state : t.fls.state = s.fls.state
  map : t.fls.map = s.fls.map

theorem SameMap.refl (s : State) : SameMap s s := ⟨rfl, rfl⟩

theorem SameMap.trans {s t u : State} (h : SameMap s t) (k : SameMap t u) : SameMap s u :=
  ⟨k.state.trans h.state, k.map.trans h.map⟩

theorem SameMap.of_fls {s t : State} (h : t.fls = s.fls) : SameMap s t := ⟨by rw [h], by rw [h]⟩

theorem SameMap.mapOf_eq {s t : State} (h : SameMap s t) (u : Nat) : mapOf t u = mapOf s u := by rw [mapOf, mapOf, h.map]

theorem SameMap.units {s t : State} (h : SameMap s t) : SameUnits s t := ⟨h.state, fun u => by rw [h.mapOf_eq]⟩

theorem sameMap_finish (s0 s : State) : SameMap s (finish s0 s) := .of_fls (finish_fls s0 s)

theorem sameMap_noteCorrected (s : State) (f : NandReport) : SameMap s (noteCorrected s f) := ⟨rfl, rfl⟩

theorem gcUpdate_cases (s : State) : gcUpdate s = s ∨ ∃ on, gcUpdate s = { s with fls := { s.fls with foreground := on, credit := 0 } } := by
  unfold gcUpdate
  split_ifs
  · exact .inl rfl
  · exact .inr ⟨false, rfl⟩
  · exact .inr ⟨true, rfl⟩
  · exact .inl rfl

theorem sameMap_gcUpdate (s : State) : SameMap s (gcUpdate s) := by
  obtain h | ⟨on, h⟩ := gcUpdate_cases s
  · rw [h]
    exact .refl s
  · rw [h]
    exact ⟨rfl, rfl⟩

theorem gcUpdate_blocks (s : State) : (gcUpdate s).fls.blocks = s.fls.blocks := by
  obtain h | ⟨on, h⟩ := gcUpdate_cases s
  · rw [h]
  · rw [h]

theorem sameMap_notify (s : State) (enable vector : Field) : SameMap s (notify s enable vector) :=
  .of_fls (told_notify s enable vector).fls

theorem sameMap_retireBlock (s : State) (b : Nat) : SameMap s (retireBlock s b) :=
  SameMap.trans (t := setFlashBlock s b { flashBlock s b with closed := true, retired := true }) ⟨rfl, rfl⟩ (sameMap_notify _ _ _)

theorem sameMap_failProgram (s : State) (b : Nat) : SameMap s (failProgram s b) := by
  have hsat : SameMap s (satF s F.flsStats.programFails) := .of_fls ((keep_satF s _).fls.resolve_left (by decide))
  unfold failProgram
  dsimp only
  refine SameMap.trans ?_ (sameMap_retireBlock _ b)
  exact ⟨hsat.state, hsat.map⟩

theorem sameMap_programInto (s : State) (b : Nat) (mode : Bool) (p : FlashPage) : SameMap s (programInto s b mode p) := by
  unfold programInto
  dsimp only
  split
  · exact ⟨rfl, rfl⟩
  · exact ⟨rfl, rfl⟩

/-! ## Programs (R474, R484) -/

/-- Every copy of a data page among the jobs is of a unit that is mapped. -/
def CopiesMapped (s : State) (js : List ProgramJob) : Prop :=
  ∀ j ∈ js, j.page.ptype = .data → j.page.copy = true → (mapOf s j.page.unit_).isSome = true

/-- The pages that wait for their place in the map are no copies. -/
def NoCopies (acc : List (ProgramJob × Nat × Nat)) : Prop := ∀ e ∈ acc, e.1.page.copy = false

theorem CopiesMapped.same {s t : State} {js : List ProgramJob} (h : CopiesMapped s js) (hsame : SameUnits s t) : CopiesMapped t js :=
  fun j hj hdata hcopy => (hsame.mapped _).trans (h j hj hdata hcopy)

theorem CopiesMapped.append {s : State} {js ks : List ProgramJob} (h : CopiesMapped s js) (k : CopiesMapped s ks) :
    CopiesMapped s (js ++ ks) := fun j hj => (List.mem_append.1 hj).elim (h j) (k j)

theorem copiesMapped_badBlock (s : State) (b : Nat) : CopiesMapped s [badBlockJob b] := by
  intro j hj hdata
  rw [List.mem_singleton.1 hj] at hdata
  cases hdata

/-- A data page that a copy keeps is of a unit that is mapped. -/
theorem keptPages_mapped {s : State} {b : Nat} {e : Nat × FlashPage} (he : e ∈ keptPages s b) (hdata : e.2.ptype = .data) :
    (mapOf s e.2.unit_).isSome = true := by
  have hkeeps := (List.mem_filter.1 he).2
  simp only [keepsPage, hdata, beq_iff_eq] at hkeeps
  rw [hkeeps]
  rfl

theorem copiesMapped_kept (s : State) (b : Nat) (mode : Bool) : CopiesMapped s ((keptPages s b).map (fun e => copyJob mode e.2)) := by
  intro j hj hdata _
  obtain ⟨e, he, rfl⟩ := List.mem_map.1 hj
  exact keptPages_mapped he hdata

theorem copiesMapped_lost (s : State) {acc : List (ProgramJob × Nat × Nat)} (h : NoCopies acc) (b : Nat) :
    CopiesMapped s ((acc.filter (fun e => e.2.1 == b)).reverse.map (·.1)) := by
  intro j hj _ hcopy
  obtain ⟨e, he, rfl⟩ := List.mem_map.1 hj
  rw [h e (List.mem_filter.1 (List.mem_reverse.1 he)).1] at hcopy
  cases hcopy

/-- A copy takes the place of what was mapped. -/
theorem sameUnits_setMap {s : State} {u : Nat} (w : Nat × Nat) (h : (mapOf s u).isSome = true) : SameUnits s (setMap s u (some w)) := by
  refine ⟨rfl, fun x => ?_⟩
  by_cases hx : x = u
  · subst hx
    rw [h, mapOf, setMap, tabGet_put_self]
    rfl
  · change (tabGet none (tabPut none s.fls.map u (some w)) x).isSome = _
    rw [tabGet_put_other' _ _ _ _ hx, mapOf]

/-- Whatever programs fail, the units that were mapped are mapped, and no other. -/
theorem sameUnits_runJobs (f : NandReport) (fuel : Nat) (js : List ProgramJob) (acc : List (ProgramJob × Nat × Nat)) (s : State)
    (hcopies : CopiesMapped s js) (hnew : NoCopies acc) : SameUnits s (runJobs f fuel js acc s).2 := by
  induction fuel generalizing js acc s with
  | zero => exact .refl s
  | succ fuel ih =>
    cases js with
    | nil => exact .refl s
    | cons j js =>
      rw [runJobs]
      split
      · exact .refl s
      · extract_lets src s0 r
        have hspent : SameMap s s0 := by
          unfold s0
          split
          · exact ⟨rfl, rfl⟩
          · exact .refl s
        have hblock : SameMap s r.2 := hspent.trans (.of_fls ((keep_jobBlock s0 j).fls.resolve_left (by decide)))
        clear_value r
        split
        · exact hblock.units
        · next b mode _ =>
          have hjobs : CopiesMapped r.2 (j :: js) := hcopies.same hblock.units
          split
          · have hfailed : SameMap r.2 (failProgram r.2 b) := sameMap_failProgram r.2 b
            refine (hblock.trans hfailed).units.trans (ih _ _ _ (CopiesMapped.same ?_ hfailed.units) ?_)
            · exact (((copiesMapped_badBlock r.2 b).append (copiesMapped_kept r.2 b mode)).append (copiesMapped_lost r.2 hnew b)).append hjobs
            · exact fun e he => hnew e (List.mem_filter.1 he).1
          · extract_lets w s1
            have hprogram : SameMap r.2 s1 := sameMap_programInto r.2 b mode _
            have hrest : CopiesMapped s1 js := CopiesMapped.same (fun k hk => hjobs k (List.mem_cons_of_mem _ hk)) hprogram.units
            have hsofar : SameUnits s s1 := (hblock.trans hprogram).units
            clear_value s1
            split
            · next hdata =>
              split
              · next hcopy =>
                have hplace := sameUnits_setMap w ((hprogram.units.mapped _).trans
                  (hjobs j (List.mem_cons_self ..) (beq_iff_eq.1 hdata) hcopy))
                exact (hsofar.trans hplace).trans (ih _ _ _ (hrest.same hplace) hnew)
              · next hcopy =>
                refine hsofar.trans (ih _ _ _ hrest (fun e he => ?_))
                rcases List.mem_cons.1 he with rfl | he
                · exact Bool.eq_false_iff.2 hcopy
                · exact hnew e he
            · exact hsofar.trans (ih _ _ _ hrest hnew)

theorem sameUnits_programJobs {f : NandReport} {js : List ProgramJob} {s : State} (hcopies : CopiesMapped s js) :
    SameUnits s (programJobs f js s).2 :=
  sameUnits_runJobs f _ js [] s hcopies (fun _ he => nomatch he)

/-- One page that is no data page, where no program fails: the map stands. -/
theorem sameMap_programOne {f : NandReport} {j : ProgramJob} {s : State} (hfails : f.programFails = []) (hdata : j.page.ptype ≠ .data) :
    SameMap s (programJobs f [j] s).2 := by
  unfold programJobs jobFuel
  rw [runJobs]
  split
  · exact .refl s
  · extract_lets src s0 r
    have hspent : SameMap s s0 := by
      unfold s0
      split
      · exact ⟨rfl, rfl⟩
      · exact .refl s
    have hblock : SameMap s r.2 := hspent.trans (.of_fls ((keep_jobBlock s0 j).fls.resolve_left (by decide)))
    clear_value r
    split
    · exact hblock
    · next b mode _ =>
      have hnofail : f.programFails.contains b = false := by rw [hfails]; rfl
      rw [if_neg (by rw [hnofail]; decide)]
      dsimp only
      rw [if_neg (by simpa using hdata)]
      have hprogram := hblock.trans (sameMap_programInto r.2 b mode (stampTomb r.2 j.page))
      generalize ([j].length + 1025) * (f.programFails.length + 1) = fuel
      cases fuel with
      | zero => exact hprogram
      | succ fuel => exact hprogram

/-! ## DISCARD (R477, R479) -/

theorem tabGet_drop_of_kept {α : Type} (d : α) (m : Tab α) (p : Nat → α → Bool) (k : Nat) (h : ∀ v, p k v = false) :
    tabGet d (tabDrop m p) k = tabGet d m k := by
  induction m with
  | nil => rfl
  | cons e m ih =>
    obtain ⟨k', v⟩ := e
    by_cases hdrop : p k' v = true
    · have hk : k' ≠ k := by
        rintro rfl
        rw [h v] at hdrop
        cases hdrop
      simpa [tabDrop, hdrop, tabGet, hk] using ih
    · by_cases hk : k' = k
      · subst hk
        simp [tabDrop, h v, tabGet]
      · simpa [tabDrop, hdrop, tabGet, hk] using ih

/-- The page of a tombstone for a range, as a job. -/
def tombstoneJob (handle first n : Nat) : ProgramJob :=
  { page := { ptype := .tombstone, sequence := 0, unit_ := first, count := n, handle := handle }, oneBit := true, either := true }

/-- The state once the tombstone is programmed. -/
def tombstoned (s : State) (f : NandReport) (handle first n : Nat) : State :=
  (programJobs f [tombstoneJob handle first n] (noteCorrected s f)).2

theorem sameUnits_tombstoned (s : State) (f : NandReport) (handle first n : Nat) : SameUnits s (tombstoned s f handle first n) := by
  refine (sameMap_noteCorrected s f).units.trans (sameUnits_programJobs (fun j hj hdata => ?_))
  rw [List.mem_singleton.1 hj] at hdata
  cases hdata

theorem sameMap_tombstoned (s : State) {f : NandReport} (handle first n : Nat) (hfails : f.programFails = []) :
    SameMap s (tombstoned s f handle first n) :=
  (sameMap_noteCorrected s f).trans (sameMap_programOne hfails (fun h => nomatch h))

/-- What a tombstone leaves of the map. -/
theorem mapOf_tombstone (s : State) (f : NandReport) (handle first n u : Nat) : mapOf (tombstone s f handle first n) u =
    if first ≤ u ∧ u < first + n then none else if n = 0 then mapOf s u else mapOf (tombstoned s f handle first n) u := by
  unfold tombstone
  by_cases hn : n = 0
  · rw [if_pos hn, if_pos hn, if_neg (by omega)]
  · rw [if_neg hn, if_neg hn]
    dsimp only
    rw [(sameMap_gcUpdate _).mapOf_eq, mapOf]
    by_cases hin : first ≤ u ∧ u < first + n
    · rw [if_pos hin]
      exact tabGet_drop_of_dropped none _ (fun u _ => decide (first ≤ u) && decide (u < first + n)) u (fun _ => by simpa using hin)
    · rw [if_neg hin]
      exact tabGet_drop_of_kept none _ (fun u _ => decide (first ≤ u) && decide (u < first + n)) u (fun _ => by simpa using hin)

theorem tombstone_state (s : State) (f : NandReport) (handle first n : Nat) : (tombstone s f handle first n).fls.state = s.fls.state := by
  unfold tombstone
  split
  · rfl
  · exact (sameMap_gcUpdate _).state.trans (sameUnits_tombstoned s f handle first n).state

theorem discard_effect {s : State} (f : NandReport) (hserves : serves s 13 = true) (hawake : isAwake s = true) :
    Effect (.discard f) s (discardRange f s) := by
  have heffect := effect_actAwake (show exec (.discard f) s = execDiscard s f from rfl) hserves hawake
  exact heffect

/-- DISCARD of a range in which no object lies. -/
theorem completes_discard {s : State} {f : NandReport} (hserves : serves s 13 = true) (hawake : isAwake s = true)
    (hready : s.fls.state = .ready)
    (hfree : meetsObject s none (getF s F.flsDiscardFirst.first) (getF s F.flsDiscardUnits.units) = false) :
    Completes (.discard f) s (fun t => getF t F.flsCmd.status = 0 ∧ t.fls.state = .ready ∧
      (∀ u, (mapOf t u).isSome = (if getF s F.flsDiscardFirst.first ≤ u ∧
        u < getF s F.flsDiscardFirst.first + getF s F.flsDiscardUnits.units then false else (mapOf s u).isSome)) ∧
      (f.programFails = [] → ∀ u, mapOf t u = (if getF s F.flsDiscardFirst.first ≤ u ∧
        u < getF s F.flsDiscardFirst.first + getF s F.flsDiscardUnits.units then none else mapOf s u))) := by
  have heffect := discard_effect f hserves hawake
  unfold discardRange at heffect
  dsimp only at heffect
  rw [if_neg (by rw [hready]; decide), if_neg (by rw [hfree]; decide)] at heffect
  generalize getF s F.flsDiscardFirst.first = first at heffect ⊢
  generalize getF s F.flsDiscardUnits.units = n at heffect ⊢
  have hmap : SameMap (tombstone s f 0 first n) (finish s (putF (tombstone s f 0 first n) F.flsCmd.status 0)) :=
    SameMap.trans (t := putF (tombstone s f 0 first n) F.flsCmd.status 0) ⟨rfl, rfl⟩ (sameMap_finish s _)
  refine completes_effect heffect ⟨?_, ?_, fun u => ?_, fun hfails u => ?_⟩
  · rw [finish_getF _ _ F.flsCmd.status (by decide), getF_putF_self]
    rfl
  · rw [hmap.state, tombstone_state, hready]
  · rw [hmap.mapOf_eq, mapOf_tombstone]
    split_ifs
    · rfl
    · rfl
    · exact (sameUnits_tombstoned s f 0 first n).mapped u
  · rw [hmap.mapOf_eq, mapOf_tombstone]
    split_ifs
    · rfl
    · rfl
    · exact (sameMap_tombstoned s 0 first n hfails).mapOf_eq u

/-! ## Collection and folding (R478, R480 to R484) -/

theorem sameUnits_eraseBlock (s : State) (f : NandReport) (b : Nat) : SameUnits s (eraseBlock s f b) := by
  unfold eraseBlock
  dsimp only
  split
  · refine SameUnits.trans (SameMap.units ?_) (sameUnits_programJobs (copiesMapped_badBlock _ b))
    exact SameMap.trans (t := { s with fls := { s.fls with refresh := s.fls.refresh.filter (· != b) } }) ⟨rfl, rfl⟩ (sameMap_retireBlock _ b)
  · exact ⟨rfl, fun _ => rfl⟩

theorem sameUnits_collectBlock (s : State) (f : NandReport) (b : Nat) : SameUnits s (collectBlock s f b) := by
  have hcopied : SameUnits s (programJobs f ((keptPages s b).map (fun e => copyJob false e.2)) s).2 :=
    sameUnits_programJobs (copiesMapped_kept s b false)
  unfold collectBlock
  dsimp only
  split
  · exact hcopied.trans (sameMap_gcUpdate _).units
  · have herased := hcopied.trans (sameUnits_eraseBlock _ f b)
    refine SameUnits.trans ?_ (sameMap_gcUpdate _).units
    split
    · exact ⟨herased.state, herased.mapped⟩
    · exact herased

/-- A block that holds nothing more to keep is erased, and the map stands. -/
theorem collectBlock_empty {s : State} {b : Nat} (h : keptPages s b = []) :
    flashBlock (collectBlock s {} b) b = {} ∧ (collectBlock s {} b).fls.map = s.fls.map := by
  have hjobs : programJobs {} ((keptPages s b).map (fun e => copyJob false e.2)) s = (some [], s) := by
    rw [h]
    rfl
  have herase : eraseBlock s {} b =
      wrapF (setFlashBlock { s with fls := { s.fls with refresh := s.fls.refresh.filter (· != b) } } b {}) F.flsStats.erases 1 := by
    unfold eraseBlock
    exact if_neg (show ¬ ([] : List Nat).contains b = true from Bool.false_ne_true)
  have hblock : flashBlock (eraseBlock s {} b) b = {} := by
    rw [herase]
    change tabGet {} (tabPut {} s.fls.blocks b {}) b = {}
    exact tabGet_put_self _ _ _ _
  have hmap : (eraseBlock s {} b).fls.map = s.fls.map := by
    rw [herase]
    rfl
  unfold collectBlock
  dsimp only
  rw [hjobs]
  dsimp only
  generalize eraseBlock s {} b = u at hblock hmap
  rw [flashBlock, gcUpdate_blocks, (sameMap_gcUpdate _).map]
  split
  · exact ⟨hblock, hmap⟩
  · exact ⟨hblock, hmap⟩

theorem noteCorrected_none (s : State) : noteCorrected s {} = s := by
  have happend : s.fls.refresh ++ (List.map Prod.fst (([] : List (Nat × Nat)).filter
      (fun e => decide (getF s F.flsGcCfg.refreshBits < e.2) && !s.fls.refresh.contains e.1))).dedup = s.fls.refresh :=
    List.append_nil _
  unfold noteCorrected
  dsimp only
  rw [happend]

/-- The collection of a victim, where there is one. -/
def collected (s : State) (f : NandReport) : State :=
  match victim (noteCorrected s f) with
  | some b => collectBlock (noteCorrected s f) f b
  | none => noteCorrected s f

theorem gcCollect_effect {s : State} (f : NandReport) (hruns : runs s = true) (hmode : gcMode s ≠ 0) :
    Effect (.gcCollect f) s (collected s f) := by
  have heffect := effect_act (show exec (.gcCollect f) s = execGcCollect s f from rfl) (by simp [hruns, hmode])
  exact heffect

theorem sameUnits_collected (s : State) (f : NandReport) : SameUnits s (collected s f) := by
  refine (sameMap_noteCorrected s f).units.trans ?_
  unfold collected
  split
  · exact sameUnits_collectBlock _ f _
  · exact .refl _

/-- The choice among blocks that there are. -/
theorem pick_some {α : Type} (s : State) {l : List α} (h : l ≠ []) : ∃ a ∈ l, (pick s l).1 = some a := by
  match l with
  | [] => exact absurd rfl h
  | [a] => exact ⟨a, List.mem_singleton_self a, rfl⟩
  | a :: b :: l =>
    have hlt : Config.choice s.fresh % (l.length + 2) < (a :: b :: l).length := Nat.mod_lt _ (Nat.succ_pos _)
    exact ⟨_, List.getElem_mem hlt, List.getElem?_eq_getElem hlt⟩

/-- The one-bit blocks that a fold may take. -/
def foldable (s : State) : List Nat := tabKeys s.fls.blocks (fun b => b.oneBit && b.closed && !b.retired)

/-- The fold of a block that the part chooses, where there is one. -/
def folded (s : State) (f : NandReport) : State :=
  match (pick (noteCorrected s f) (foldable (noteCorrected s f))).1 with
  | some b => collectBlock (pick (noteCorrected s f) (foldable (noteCorrected s f))).2 f b
  | none => (pick (noteCorrected s f) (foldable (noteCorrected s f))).2

theorem fold_effect {s : State} (f : NandReport) (hruns : runs s = true) (hready : s.fls.state = .ready)
    (habove : getF s F.flsGcCfg.slcMinPm * goodBlocks s < 1000 * oneBitBlocks s) : Effect (.fold f) s (folded s f) := by
  have heffect := effect_act (show exec (.fold f) s = execFold s f from rfl) (by rw [hruns, hready, decide_eq_true habove]; rfl)
  exact heffect

theorem sameMap_pick {α : Type} (s : State) (l : List α) : SameMap s (pick s l).2 := .of_fls ((keep_pick s l).fls.resolve_left (by decide))

theorem sameUnits_folded (s : State) (f : NandReport) : SameUnits s (folded s f) := by
  refine (sameMap_noteCorrected s f).units.trans ?_
  unfold folded
  split
  · exact (sameMap_pick _ _).units.trans (sameUnits_collectBlock _ f _)
  · exact (sameMap_pick _ _).units

/-- A command that may not be taken completes, and leaves what is mapped as its effect does. -/
theorem completes_sameUnits {c : Instr} {s : State} {taken : Bool} {effect : State → State} (hexec : exec c s = act s taken effect)
    (h : SameUnits s (effect s)) : Completes c s (fun t => ∀ u, (mapOf t u).isSome = (mapOf s u).isSome) := by
  cases htaken : taken with
  | true => exact completes_act hexec htaken ((h.trans (sameMap_finish s _).units).mapped)
  | false => exact ⟨s, exec_untaken hexec htaken, fun _ => rfl⟩

theorem keptPages_of_fls {s t : State} (h : t.fls = s.fls) (b : Nat) : keptPages t b = keptPages s b := by
  simp only [keptPages, flashBlock, keepsPage, mapOf, h]

theorem completes_gcCollect_empty {s : State} {b : Nat} (hruns : runs s = true) (hmode : gcMode s ≠ 0) (hvictim : victim s = some b)
    (hempty : keptPages s b = []) : Completes (.gcCollect {}) s (fun t => flashBlock t b = {} ∧ t.fls.map = s.fls.map) := by
  have heffect := gcCollect_effect {} hruns hmode
  rw [collected, noteCorrected_none, hvictim] at heffect
  obtain ⟨hblock, hmap⟩ := collectBlock_empty hempty
  refine completes_effect heffect ⟨?_, ?_⟩
  · rw [flashBlock, finish_fls]
    exact hblock
  · rw [finish_fls]
    exact hmap

theorem completes_fold_empty {s : State} (hruns : runs s = true) (hready : s.fls.state = .ready)
    (habove : getF s F.flsGcCfg.slcMinPm * goodBlocks s < 1000 * oneBitBlocks s) (hsome : foldable s ≠ [])
    (hempty : ∀ b ∈ foldable s, keptPages s b = []) :
    Completes (.fold {}) s (fun t => t.fls.map = s.fls.map ∧ ∃ b ∈ foldable s, flashBlock t b = {}) := by
  have heffect := fold_effect {} hruns hready habove
  obtain ⟨b, hb, hpick⟩ := pick_some s hsome
  have hfls : (pick s (foldable s)).2.fls = s.fls := (keep_pick s (foldable s)).fls.resolve_left (by decide)
  obtain ⟨hblock, hmap⟩ := collectBlock_empty ((keptPages_of_fls hfls b).trans (hempty b hb))
  rw [folded, noteCorrected_none, hpick] at heffect
  refine completes_effect heffect ⟨?_, b, hb, ?_⟩
  · rw [finish_fls, hmap, hfls]
  · rw [flashBlock, finish_fls]
    exact hblock

/-! ## FLS_LOCK (R466, R473) -/

/-- The NAND is identified, and the registers are locked. -/
def nandKnown (s : State) (nand : NandId) : State :=
  { setLock s F.flsCtl.flsLock with
    fls := { (setLock s F.flsCtl.flsLock).fls with nand := some nand, scanStart := (setLock s F.flsCtl.flsLock).plt.lmc } }

theorem flsLock_effect {s : State} (nand : NandId) (hserves : serves s 13 = true) (hawake : isAwake s = true)
    (hopen : isSet s F.flsCtl.flsLock = false) : Effect (.flsLock nand) s
      (if !nand.supported then setFlashState (nandKnown s nand) .failed 2
        else if getF (nandKnown s nand) F.sltCtl.privateGib < privateNeeded (nandKnown s nand) then setFlashState (nandKnown s nand) .failed 1
        else if mapLimit (nandKnown s nand) < getF (nandKnown s nand) F.flsLogical.logicalUnits
          then setFlashState (nandKnown s nand) .failed 3
        else setFlashState (nandKnown s nand) .scanning 0) := by
  have heffect := effect_actAwake (show exec (.flsLock nand) s = execFlsLock nand s from rfl) (by rw [hserves, hopen]; rfl) hawake
  exact heffect

/-- The state with the NAND identified and nothing else. -/
def withNand (s : State) (nand : NandId) : State := { s with fls := { s.fls with nand := some nand } }

theorem nandKnown_fls (s : State) (nand : NandId) :
    (nandKnown s nand).fls = { s.fls with nand := some nand, scanStart := s.plt.lmc } := by
  have hkeep := keep_setLock s F.flsCtl.flsLock
  rw [nandKnown, hkeep.fls.resolve_left (by decide), hkeep.plt.resolve_left (by decide)]

/-- The checks of R466 and R473 see the NAND alone. -/
theorem nandKnown_checks (s : State) (nand : NandId) : getF (nandKnown s nand) F.sltCtl.privateGib = getF s F.sltCtl.privateGib ∧
    getF (nandKnown s nand) F.flsLogical.logicalUnits = getF s F.flsLogical.logicalUnits ∧
    privateNeeded (nandKnown s nand) = privateNeeded (withNand s nand) ∧ mapLimit (nandKnown s nand) = mapLimit (withNand s nand) := by
  have hgib : getF (nandKnown s nand) F.sltCtl.privateGib = getF s F.sltCtl.privateGib := getF_setLock_other s _ _ (by decide)
  have hunits : getF (nandKnown s nand) F.flsLogical.logicalUnits = getF s F.flsLogical.logicalUnits := getF_setLock_other s _ _ (by decide)
  have haddresses : blockAddresses (nandKnown s nand) = blockAddresses (withNand s nand) := by
    simp only [blockAddresses, nandKnown_fls, withNand]
  have hgood : goodBlocks (nandKnown s nand) = goodBlocks (withNand s nand) := by
    simp only [goodBlocks, nandKnown_fls, withNand]
  refine ⟨hgib, hunits, ?_, ?_⟩
  · rw [privateNeeded, privateNeeded, hunits, haddresses]
    rfl
  · rw [mapLimit, mapLimit, hgood]

theorem setFlashState_fls (s : State) (st : FlashState) (cause : Nat) :
    (setFlashState s st cause).fls = { s.fls with state := st, cause := cause } := (told_notify _ _ _).fls

/-- What FLS_LOCK leaves, whatever the checks say. -/
theorem finish_setFlashState (s : State) (nand : NandId) (st : FlashState) (cause : Nat) :
    isSet (finish s (setFlashState (nandKnown s nand) st cause)) F.flsCtl.flsLock = true ∧
    (finish s (setFlashState (nandKnown s nand) st cause)).fls =
      { s.fls with nand := some nand, scanStart := s.plt.lmc, state := st, cause := cause } := by
  refine ⟨?_, ?_⟩
  · rw [isSet, finish_getF _ _ F.flsCtl.flsLock (by decide), setFlashState, (told_notify _ _ _).field F.flsCtl.flsLock (by decide)]
    exact isSet_setLock s F.flsCtl.flsLock (by decide)
  · rw [finish_fls, setFlashState_fls, nandKnown_fls]

/-- FLS_LOCK, check by check. -/
theorem completes_flsLock {s : State} (nand : NandId) (hserves : serves s 13 = true) (hawake : isAwake s = true)
    (hopen : isSet s F.flsCtl.flsLock = false) : Completes (.flsLock nand) s (fun t => isSet t F.flsCtl.flsLock = true ∧
      t.fls.nand = some nand ∧ t.fls.blocks = s.fls.blocks ∧
      (nand.supported = false → t.fls.state = .failed ∧ t.fls.cause = 2) ∧
      (nand.supported = true → getF s F.sltCtl.privateGib < privateNeeded (withNand s nand) → t.fls.state = .failed ∧ t.fls.cause = 1) ∧
      (nand.supported = true → privateNeeded (withNand s nand) ≤ getF s F.sltCtl.privateGib →
        mapLimit (withNand s nand) < getF s F.flsLogical.logicalUnits → t.fls.state = .failed ∧ t.fls.cause = 3) ∧
      (nand.supported = true → privateNeeded (withNand s nand) ≤ getF s F.sltCtl.privateGib →
        getF s F.flsLogical.logicalUnits ≤ mapLimit (withNand s nand) →
        t.fls.state = .scanning ∧ t.fls.cause = 0 ∧ t.fls.scanStart = s.plt.lmc)) := by
  have heffect := flsLock_effect nand hserves hawake hopen
  obtain ⟨hgib, hunits, hneeded, hlimit⟩ := nandKnown_checks s nand
  rw [hgib, hunits, hneeded, hlimit] at heffect
  generalize privateNeeded (withNand s nand) = needed at heffect ⊢
  generalize mapLimit (withNand s nand) = limit at heffect ⊢
  have hsplit : ∀ st cause, Effect (.flsLock nand) s (setFlashState (nandKnown s nand) st cause) → ∃ t, exec (.flsLock nand) s = .next t ∧
      isSet t F.flsCtl.flsLock = true ∧ t.fls = { s.fls with nand := some nand, scanStart := s.plt.lmc, state := st, cause := cause } :=
    fun st cause h => ⟨_, h, finish_setFlashState s nand st cause⟩
  split_ifs at heffect with hsupported hprivate hmap
  · obtain ⟨t, hexec, hlock, hfls⟩ := hsplit _ _ heffect
    refine ⟨t, hexec, hlock, by rw [hfls], by rw [hfls], fun _ => by rw [hfls]; exact ⟨rfl, rfl⟩, ?_, ?_, ?_⟩
    all_goals intro h; simp [h] at hsupported
  · obtain ⟨t, hexec, hlock, hfls⟩ := hsplit _ _ heffect
    refine ⟨t, hexec, hlock, by rw [hfls], by rw [hfls], fun h => absurd (by rw [h]; rfl) hsupported,
      fun _ _ => by rw [hfls]; exact ⟨rfl, rfl⟩, fun _ h => absurd hprivate (Nat.not_lt.2 h), fun _ h => absurd hprivate (Nat.not_lt.2 h)⟩
  · obtain ⟨t, hexec, hlock, hfls⟩ := hsplit _ _ heffect
    exact ⟨t, hexec, hlock, by rw [hfls], by rw [hfls], fun h => absurd (by rw [h]; rfl) hsupported, fun _ h => absurd h hprivate,
      fun _ _ _ => by rw [hfls]; exact ⟨rfl, rfl⟩, fun _ _ h => absurd hmap (Nat.not_lt.2 h)⟩
  · obtain ⟨t, hexec, hlock, hfls⟩ := hsplit _ _ heffect
    exact ⟨t, hexec, hlock, by rw [hfls], by rw [hfls], fun h => absurd (by rw [h]; rfl) hsupported, fun _ h => absurd h hprivate,
      fun _ _ h => absurd h hmap, fun _ _ _ => by rw [hfls]; exact ⟨rfl, rfl, rfl⟩⟩

/-! ## The rebuild (R486) -/

theorem gcUpdate_rebuilt (s : State) : (gcUpdate s).fls.sequence = s.fls.sequence ∧ (gcUpdate s).stk = s.stk := by
  obtain h | ⟨on, h⟩ := gcUpdate_cases s
  · rw [h]
    exact ⟨rfl, rfl⟩
  · rw [h]
    exact ⟨rfl, rfl⟩

theorem rebuildEnd_keeps (s : State) : (rebuildEnd s).fls.state = .ready ∧ (rebuildEnd s).fls.map = rebuiltMap s ∧
    (rebuildEnd s).fls.sequence = highestSeq s + 1 ∧ (rebuildEnd s).stk = s.stk := by
  unfold rebuildEnd
  dsimp only
  refine ⟨?_, ?_, ?_, ?_⟩
  · rw [(sameMap_gcUpdate _).state, setFlashState_fls]
  · rw [(sameMap_gcUpdate _).map, setFlashState_fls]
    rfl
  · rw [(gcUpdate_rebuilt _).1, setFlashState_fls]
    rfl
  · rw [(gcUpdate_rebuilt _).2]
    exact (told_notify _ _ _).stk

theorem completes_rebuild {s : State} (hready : isReady s = true) (hscanning : s.fls.state = .scanning) (hnone : s.stk.objWaiting = []) :
    Completes .rebuildComplete s (fun t =>
      t.fls.state = .ready ∧ t.fls.map = rebuiltMap s ∧ t.fls.sequence = highestSeq s + 1) := by
  obtain ⟨hstate, hmap, hsequence, hstk⟩ := rebuildEnd_keeps s
  have heffect := effect_act (show exec .rebuildComplete s = execRebuildComplete s from rfl) (by rw [hready, hscanning]; rfl)
  rw [retryObj_empty (by rw [hstk]; exact hnone)] at heffect
  refine completes_effect heffect ?_
  rw [finish_fls]
  exact ⟨hstate, hmap, hsequence⟩

/-! ## The scrub of Slate (R462, R465) -/

/-- The record of the first line that could not be corrected: its place, its channel, and VALID. -/
structure SlateRecorded (s : State) (addr channel : Nat) : Prop where
  valid : isSet s F.sltErr.valid = true
  addr : getF s F.sltErrAddr.address = addr
  channel : getF s F.sltErr.channel = channel

/-- A later error leaves the record. -/
theorem slateError_recorded {s : State} {addr channel : Nat} (h : SlateRecorded s addr channel) (a : Nat) :
    SlateRecorded (slateError s a) addr channel := by
  have hcount : ∀ f : Field, f.key ≠ F.sltEccStats.uncorrected.key → getF (satF s F.sltEccStats.uncorrected) f = getF s f :=
    fun f hf => getF_satF_other s f _ hf
  have hset : isSet (satF s F.sltEccStats.uncorrected) F.sltErr.valid = true := by
    rw [isSet, hcount _ (by decide)]
    exact h.valid
  have herror : slateError s a = putF (satF s F.sltEccStats.uncorrected) F.sltErr.overflow 1 := by
    simp only [slateError, latch, hset, Bool.not_true, Bool.false_eq_true, if_false, if_true]
  rw [herror]
  refine ⟨?_, ?_, ?_⟩
  · rw [isSet, getF_putF_other _ _ _ _ (by decide)]
    exact hset
  · rw [getF_putF_other _ _ _ _ (by decide), hcount _ (by decide), h.addr]
  · rw [getF_putF_other _ _ _ _ (by decide), hcount _ (by decide), h.channel]

theorem slateErrors_recorded {addr channel : Nat} (l : List Nat) {s : State} (h : SlateRecorded s addr channel) :
    SlateRecorded (l.foldl slateError s) addr channel := by
  induction l generalizing s with
  | nil => exact h
  | cons a l ih => exact ih (slateError_recorded h a)

/-- The first error is recorded. -/
theorem slateError_first {s : State} (a : Nat) (hfirst : isSet s F.sltErr.valid = false) :
    SlateRecorded (slateError s a) (a % 2 ^ F.sltErrAddr.address.width) (channelOf s a % 2 ^ F.sltErr.channel.width) := by
  have hset : isSet (satF s F.sltEccStats.uncorrected) F.sltErr.valid = false := by
    rw [isSet, getF_satF_other s _ _ (by decide)]
    exact hfirst
  have hchannel : channelOf (satF s F.sltEccStats.uncorrected) a = channelOf s a := by
    rw [channelOf, channelOf, slateChannels, slateChannels, getF_satF_other s _ _ (by decide)]
  have hnotify : ∀ (u : State) (f : Field), f.isTold = true → getF (notify u F.sltCtl.notifyEnable F.sltCtl.vector) f = getF u f :=
    fun u f hf => (told_notify u _ _).field f hf
  have herror : slateError s a = notify (putF (putF (putF (satF s F.sltEccStats.uncorrected) F.sltErr.channel (channelOf s a))
      F.sltErrAddr.address a) F.sltErr.valid 1) F.sltCtl.notifyEnable F.sltCtl.vector := by
    simp only [slateError, latch, hset, Bool.not_false, Bool.false_eq_true, if_false, if_true, hchannel]
  rw [herror]
  refine ⟨?_, ?_, ?_⟩
  · rw [isSet, hnotify _ _ (by decide), getF_putF_self]
    rfl
  · rw [hnotify _ _ (by decide), getF_putF_other _ _ _ _ (by decide), getF_putF_self]
  · rw [hnotify _ _ (by decide), getF_putF_other _ _ _ _ (by decide), getF_putF_other _ _ _ _ (by decide), getF_putF_self]

/-- The state at the end of a scrub, before its errors are told. -/
def scrubbed (s : State) (n : Nat) : State :=
  satAddF { s with fls := { s.fls with slateScrubbed := s.plt.lmc } } F.sltEccStats.corrected n

theorem getF_scrubbed (s : State) (n : Nat) (f : Field) (h : f.key ≠ F.sltEccStats.corrected.key) : getF (scrubbed s n) f = getF s f :=
  getF_putF_other _ _ _ _ h

theorem scrub_effect {s : State} (n : Nat) (l : List Nat) (hruns : runs s = true) (hdue : scrubDue s = true) :
    Effect (.slateScrub n l) s (l.foldl slateError (scrubbed s n)) := by
  have heffect := effect_act (show exec (.slateScrub n l) s = execSlateScrub n l s from rfl) (by rw [hruns, hdue]; rfl)
  exact heffect

theorem completes_scrub_errors {s : State} (n a : Nat) (l : List Nat) (hruns : runs s = true) (hdue : scrubDue s = true)
    (hfirst : isSet s F.sltErr.valid = false) : Completes (.slateScrub n (a :: l)) s (fun t =>
      isSet t F.sltErr.valid = true ∧ getF t F.sltErrAddr.address = a % 2 ^ F.sltErrAddr.address.width ∧
      getF t F.sltErr.channel = channelOf s a % 2 ^ F.sltErr.channel.width) := by
  have hopen : isSet (scrubbed s n) F.sltErr.valid = false := by
    rw [isSet, getF_scrubbed s n _ (by decide)]
    exact hfirst
  have hchannel : channelOf (scrubbed s n) a = channelOf s a := by
    rw [channelOf, channelOf, slateChannels, slateChannels, getF_scrubbed s n _ (by decide)]
  have hrecord := slateErrors_recorded l (slateError_first a hopen)
  rw [hchannel] at hrecord
  refine completes_effect (scrub_effect n (a :: l) hruns hdue) ⟨?_, ?_, ?_⟩
  · rw [isSet, finish_getF _ _ F.sltErr.valid (by decide)]
    exact hrecord.valid
  · rw [finish_getF _ _ F.sltErrAddr.address (by decide)]
    exact hrecord.addr
  · rw [finish_getF _ _ F.sltErr.channel (by decide)]
    exact hrecord.channel

/-- Settles O41: DISCARD and FLS_LOCK by their checks, collection and folding by what programs leave of the map, the scrub by its errors. -/
theorem flashAndSlate : Obligations.FlashAndSlate := by
  refine ⟨fun s f hserves hawake => ⟨fun hnot => ?_, fun hready hmeets => ?_, fun hready hfree => completes_discard hserves hawake hready hfree⟩,
    fun s nand hserves hawake => ⟨fun hlocked => ?_, fun hopen => completes_flsLock nand hserves hawake hopen⟩,
    fun s hready hscanning hnone => completes_rebuild hready hscanning hnone,
    fun s f hruns hready => ⟨?_, ?_, fun b hmode hvictim hempty => completes_gcCollect_empty hruns hmode hvictim hempty,
      fun habove hsome hempty => completes_fold_empty hruns hready habove hsome hempty⟩,
    fun s n hruns hdue => ⟨scrub_effect n [] hruns hdue, fun a l hfirst => completes_scrub_errors n a l hruns hdue hfirst⟩⟩
  · have heffect := discard_effect f hserves hawake
    unfold discardRange at heffect
    dsimp only at heffect
    rw [if_pos (by simpa using hnot)] at heffect
    exact heffect
  · have heffect := discard_effect f hserves hawake
    unfold discardRange at heffect
    dsimp only at heffect
    rw [if_neg (by rw [hready]; decide), if_pos hmeets] at heffect
    exact heffect
  · change execFlsLock nand s = _
    rw [execFlsLock, hlocked, Bool.not_true, Bool.and_false]
    rfl
  · exact completes_sameUnits (show exec (.gcCollect f) s = execGcCollect s f from rfl) (sameUnits_collected s f)
  · exact completes_sameUnits (show exec (.fold f) s = execFold s f from rfl) (sameUnits_folded s f)

end Sys2Proof.Machine
end
